-- ==== Sys2Proof/Word.lean ====
section
/-! DEFINITION. Words, bytes and their plainest arithmetic: little-endian packing, bit-field extraction. -/

namespace Sys2Proof

/-- A scalar register of a sequencer (R134), a word of LVS code, one FP32 value. -/
abbrev Word := BitVec 32

/-- One byte of any memory. -/
abbrev Byte := BitVec 8

/-- A run of bytes in ascending address order. -/
abbrev Bytes := List Byte

/-- The bits [hi:lo] of a natural number (Notation of 00_scope.md). -/
def bits (v hi lo : Nat) : Nat := (v / 2 ^ lo) % 2 ^ (hi + 1 - lo)

/-- Bit n of a natural number. -/
def bit (v n : Nat) : Bool := (v / 2 ^ n) % 2 == 1

/-- v with the bits [hi:lo] replaced by the low bits of x. -/
def putBits (v hi lo x : Nat) : Nat :=
  v - (bits v hi lo) * 2 ^ lo + (x % 2 ^ (hi + 1 - lo)) * 2 ^ lo

/-- 1 for true, 0 for false. -/
def b2n (b : Bool) : Nat := if b then 1 else 0

/-- The little-endian value of a run of bytes. -/
def leNat : Bytes → Nat
  | [] => 0
  | b :: bs => b.toNat + 256 * leNat bs

/-- The n little-endian bytes of a value. -/
def leBytes : Nat → Nat → Bytes
  | 0, _ => []
  | n + 1, v => BitVec.ofNat 8 v :: leBytes n (v / 256)

/-- The big-endian value of a run of bytes. -/
def beNat (bs : Bytes) : Nat := leNat bs.reverse

/-- The n big-endian bytes of a value. -/
def beBytes (n v : Nat) : Bytes := (leBytes n v).reverse

/-- n zero bytes. -/
def zeros (n : Nat) : Bytes := List.replicate n 0

/-- A value kept to n bits as a signed integer (two's complement). -/
def toSigned (n v : Nat) : Int :=
  let w := v % 2 ^ n
  if 2 * w < 2 ^ n then (w : Int) else (w : Int) - (2 : Int) ^ n

/-- The n-bit two's complement of an integer. -/
def ofSigned (n : Nat) (i : Int) : Nat := (i % ((2 : Int) ^ n)).toNat

end Sys2Proof
end

