-- ==== Sys2Proof/Syntax.lean ====
section
/-! DEFINITION. The commands the LV9-P384 takes: one constructor per row of spec/opcode_table.json, with the
row's operands.  Hardware faults, sensor readings and bytes that come from host memory are operands, because
their source lies outside the part (R2). -/

namespace Sys2Proof

/-- Physical compute die CDn (R10). -/
abbrev DieId := Fin 256
/-- Physical region, 2·die + region (R13). -/
abbrev RegionId := Fin 512
/-- Physical cluster, 4·die + 2·region + cluster (R13). -/
abbrev ClusterId := Fin 1024
/-- Physical unit, 16·die + 8·region + 4·cluster + unit (R13). -/
abbrev UnitId := Fin 4096
/-- Stack MSn and its memory router MRn (R10). -/
abbrev StackId := Fin 128
/-- Edge die EDn (R11). -/
abbrev EdgeId := Fin 16
/-- Scale-out port 4·n + p (R314). -/
abbrev PortId := Fin 64
/-- Router number as SSITE codes it: 24y + x, or 384 + n (R215). -/
abbrev RouterId := Fin 400
/-- Quarter (R20). -/
abbrev QuarterId := Fin 4
/-- Field (R19). -/
abbrev FieldId := Fin 16
/-- Link record index of R387. -/
abbrev LinkId := Fin 760
/-- A supply domain of R435. -/
abbrev DomainId := Fin 7
/-- A panel-manager instance: false A on ED0, true B on ED10 (R12). -/
abbrev MgrId := Bool
/-- A scalar register s0 to s63 (R134). -/
abbrev SReg := Fin 64
/-- The 14-bit immediate of form B (R137). -/
abbrev Imm14 := BitVec 14
/-- The 20-bit immediate of form C (R137). -/
abbrev Imm20 := BitVec 20
/-- A panel address (R30). -/
abbrev PAddr := BitVec 44

/-- Who makes a register access (R41, R473, R474). -/
inductive Requester where
  | host (q : QuarterId)       -- BAR0 or BAR4 of quarter q's endpoint
  | seq (cl : ClusterId)       -- a cluster sequencer, through CSRR and CSRW
  | tap (b : Bool)             -- DBGACC through the TAP of ED0 (false) or ED10 (true)
  deriving DecidableEq, Repr

/-- A register of an endpoint's configuration space that the spec names (R340). -/
inductive ConfigReg where
  | ids        -- Device ID and Vendor ID
  | classCode  -- Class Code
  | bar2Size   -- the Resizable BAR Control register of BAR2
  | readiness  -- the reset time of the Readiness Time Reporting extended capability (R362)
  deriving DecidableEq, Repr

/-- What a register read reads: a GT_ block (R41), or what a host reads at an offset of BAR0 or BAR4 or in configuration space
(R340, R342, R349). -/
inductive GtBlock where
  | keeper (site : RouterId)
  | panel
  | bar0 (ofs : BitVec 28) (len : Fin 4097)
  | bar4 (ofs : BitVec 14) (len : Fin 4097)
  | config (r : ConfigReg)
  deriving DecidableEq, Repr

/-- Size and place of a register write: 4 or 8 bytes at a panel address (through BAR0, for a host), another size there, a size at
an offset of BAR4, or a host's configuration write to the Resizable BAR Control register (R340, R342, R349). -/
inductive RegWidth where
  | four
  | eight
  | other (n : Nat)
  | bar4 (n : Nat)
  | config
  deriving DecidableEq, Repr

/-- An agent port at which packets are ejected (R206). -/
inductive AgentPort where
  | region (r : RegionId)
  | router (st : StackId)
  | edge (e : EdgeId)
  deriving DecidableEq, Repr

/-- A flit as a port receives it: its 256 bytes, and how many of its FEC codewords were corrected and could not be (R315, R317). -/
structure Flit where
  bytes : Bytes
  corrected : Nat := 0
  uncorrectable : Nat := 0
  deriving DecidableEq, Repr

/-- What on-die ECC reports for one DRAM read (R193). -/
inductive Ecc where
  | clean
  | corrected (pc : Fin 2)   -- a word in pseudo-channel pc
  | uncorrectable
  deriving DecidableEq, Repr

/-- What line noise does to a head that arrives at a router in a slot (R209, R211, R214). -/
inductive Hit where
  | header        -- the header no longer passes HCRC
  | payload       -- the payload no longer matches its block check
  | lost          -- lost when a lane lost lock (R209)
  deriving DecidableEq, Repr

/-- One of the buckets of R239. -/
inductive BucketId where
  | cluster (cl : ClusterId) (cls : Fin 3)
  | edge (e : EdgeId)
  deriving DecidableEq, Repr

/-- One answer of a regulator device to the telemetry read of R443, in mV and mA; `none` is no answer. -/
structure Reading where
  dev : Nat
  answer : Option (Nat × Nat)
  phases : Nat
  deriving DecidableEq, Repr

/-- A firmware image as R464 lays it out. -/
structure Image where
  magic : Nat
  version : Nat
  svn : Nat
  step : Nat
  schemaMin : Nat
  schemaMax : Nat
  keyIdx : Nat
  pubKey : Bytes
  bodyHash : Bytes
  sig : Bytes
  /-- bytes 0x000 to 0x0AF, over which SIG is made -/
  signed : Bytes
  body : Bytes
  /-- the cluster firmware manifest and the cluster firmware image in the body (R378) -/
  manifest : Bytes
  firmware : Bytes
  deriving DecidableEq, Repr

/-- A die's fuse image (R368, R369). -/
structure FuseReport where
  site : RouterId
  dieType : Nat
  /-- stepping, coded as the stream header's STEP -/
  step : Nat
  serial : Nat
  /-- factory grade BAD -/
  bad : Bool
  /-- banks with defective scratchpad words: unit of the die, bank, words -/
  words : List (Nat × Nat × Nat)
  /-- link ports with wires or lanes found failed at the factory, and their number -/
  lanes : List (Nat × Nat)
  /-- adaptive-oscillator trims: region of the die, operating point, trim -/
  trims : List (Nat × Nat × Nat)
  deriving DecidableEq, Repr

/-- What the link phase finds on one direction of a link (R370): failed lanes or wires. -/
structure LinkReport where
  link : LinkId
  failed : Nat
  deriving DecidableEq, Repr

/-- What the last die to finish a bring-up step reports (R359). -/
inductive StepReport where
  | pll
  | boot (romOkA romOkB : Bool × Bool)   -- for each instance: do the images of its banks A and B pass R466's checks
  | domains
  | fuses (reports : List FuseReport)
  | selfTest (failed : List DieId)
  | neighbours (links : List LinkReport) (wrong : List RouterId)
  | stacks (failTrain : List StackId) (failRepair : List StackId) (repairs : List (StackId × Nat))   -- stack-local offsets in the rows that fail their test
  | firmware
  | verdicts
  deriving DecidableEq, Repr

/-- The answer of the manager's pick among candidates that a maintenance request names (R414). -/
inductive RecalTarget where
  | link (l : LinkId)
  | port (p : PortId)
  deriving DecidableEq, Repr

/-- The commands.  A descriptor in service is named by its serial number `did`, the order in which its cluster
dispatched it. -/
inductive Instr where
  -- resets and bring-up (R359 to R396)
  | coldReset
  | bringupStepTimeout (unfinished : List RouterId)
  | regionWake (r : RegionId)
  | headerStageCheck (r : RegionId) (sensorMv : Nat)
  | regionPowerGood (r : RegionId)
  | headerOpenCheck (r : RegionId)
  | fwFetch (cl : ClusterId) (bad1 bad2 : Bool)
  | dayChecksDone (site : RouterId) (failed : Bool)
  | dayChange
  | pmSvcCtl (who : Requester) (hold : Bool)
  | warmRstN
  | warmResetStart
  -- time and the frame tick (R34 to R47)
  | tickEdge (q : QuarterId)
  | tickStart (q : QuarterId)
  | beaconSend
  | beacon (site : RouterId)
  | beaconMiss (site : RouterId)
  | beaconLoss (site : RouterId)
  | ppsEdge (falling : Bool)
  | ppsMiss
  | gtNsecRead (who : Requester) (blk : GtBlock)
  | gtSetNow (who : Requester)
  | gtSetNextSecond (who : Requester)
  | gtSetCancel (who : Requester)
  | timeSetApply
  -- operating points (R48 to R56)
  | eqxPost (site : RouterId)
  | eqxAck
  | eqxAckWindowEnd
  | eqxRampDone
  | eqxGo (site : RouterId)
  | eqxFreqChange (q : QuarterId)
  | eqxVoltageLower
  | keeperFallback (site : RouterId)
  | supplyDroop (r : RegionId)
  | droopStall (r : RegionId)
  -- ordinary scalar instructions (R137)
  | add (cl : ClusterId) (d a b : SReg)
  | sub (cl : ClusterId) (d a b : SReg)
  | and (cl : ClusterId) (d a b : SReg)
  | or (cl : ClusterId) (d a b : SReg)
  | xor (cl : ClusterId) (d a b : SReg)
  | sll (cl : ClusterId) (d a b : SReg)
  | srl (cl : ClusterId) (d a b : SReg)
  | sra (cl : ClusterId) (d a b : SReg)
  | slt (cl : ClusterId) (d a b : SReg)
  | sltu (cl : ClusterId) (d a b : SReg)
  | mul (cl : ClusterId) (d a b : SReg)
  | mulhu (cl : ClusterId) (d a b : SReg)
  | addi (cl : ClusterId) (d a : SReg) (imm : Imm14)
  | slti (cl : ClusterId) (d a : SReg) (imm : Imm14)
  | andi (cl : ClusterId) (d a : SReg) (imm : Imm14)
  | ori (cl : ClusterId) (d a : SReg) (imm : Imm14)
  | xori (cl : ClusterId) (d a : SReg) (imm : Imm14)
  | lui (cl : ClusterId) (d : SReg) (imm : Imm20)
  | lw (cl : ClusterId) (d a : SReg) (imm : Imm14)
  | sw (cl : ClusterId) (d a : SReg) (imm : Imm14)
  | beq (cl : ClusterId) (d a : SReg) (imm : Imm14)
  | bne (cl : ClusterId) (d a : SReg) (imm : Imm14)
  | blt (cl : ClusterId) (d a : SReg) (imm : Imm14)
  | bltu (cl : ClusterId) (d a : SReg) (imm : Imm14)
  | jal (cl : ClusterId) (d : SReg) (imm : Imm20)
  | jalr (cl : ClusterId) (d a : SReg) (imm : Imm14)
  -- descriptor and queue instructions (R138)
  | disp (cl : ClusterId) (a : SReg)
  | dispm (cl : ClusterId) (a : SReg) (imm : Imm14)
  | dispatchStallRelease (cl : ClusterId)
  | waitg (cl : ClusterId) (a : SReg) (imm : Imm14)
  | waitgSatisfied (cl : ClusterId)
  | grd (cl : ClusterId) (d : SReg) (imm : Imm14)
  | qrd (cl : ClusterId) (d : SReg) (imm : Imm14)
  | qcnt (cl : ClusterId) (d : SReg) (imm : Imm14)
  | hslot (cl : ClusterId) (imm : Imm14)
  | hend (cl : ClusterId)
  | fend (cl : ClusterId)
  | csrr (cl : ClusterId) (d : SReg) (imm : Imm14)
  | csrw (cl : ClusterId) (a : SReg) (imm : Imm14)
  | fence (cl : ClusterId)
  | fenceSatisfied (cl : ClusterId)
  | dispatchHeadDepart (cl : ClusterId)
  -- array and lanes (R63 to R103)
  | mma (u : UnitId)
  | mmaComplete (u : UnitId) (did : Nat) (upset : List (Nat × BitVec 32))
  | tagWaitSatisfied (u : UnitId) (did : Nat)
  | vopMov (u : UnitId)
  | vopAdd (u : UnitId)
  | vopSub (u : UnitId)
  | vopMul (u : UnitId)
  | vopFma (u : UnitId)
  | vopMin (u : UnitId)
  | vopMax (u : UnitId)
  | vopAbs (u : UnitId)
  | vopNeg (u : UnitId)
  | vopDiv (u : UnitId)
  | vopRcp (u : UnitId)
  | vopSqrt (u : UnitId)
  | vopRsqrt (u : UnitId)
  | vopExp2 (u : UnitId)
  | vopLog2 (u : UnitId)
  | vopTanh (u : UnitId)
  | vopRowsum (u : UnitId)
  | vopRowmax (u : UnitId)
  | vopColsum (u : UnitId)
  | vopColmax (u : UnitId)
  | vopCmpx (u : UnitId)
  | vopComplete (u : UnitId) (did : Nat) (portWaits : Nat)
  -- transfers (R150 to R157)
  | load (u : UnitId)
  | store (u : UnitId)
  | send (u : UnitId)
  | redAccumulate (u : UnitId)
  | redRead (u : UnitId)
  | redReadClear (u : UnitId)
  | waitGroupGe (cl : ClusterId)
  | waitQueueNe (cl : ClusterId)
  | waitFrameTime (cl : ClusterId)
  | waitTagFull (cl : ClusterId)
  | waitTagEmpty (cl : ClusterId)
  | waitSatisfied (cl : ClusterId)
  | commit (cl : ClusterId)
  | commitEvaluate (cl : ClusterId)
  | commitCas (st : StackId)
  | descComplete (cl : ClusterId) (did : Nat)
  | seGenerateRequest (cl : ClusterId)
  -- memory routers (R179 to R204)
  | rd (p : AgentPort)
  | mrDramReadDone (st : StackId) (beta : Nat) (first second copy1 copy2 : Ecc)
  | wr (p : AgentPort)
  | mrWriteDone (st : StackId) (beta : Nat)
  | rdData (p : AgentPort)
  | wrAck (p : AgentPort)
  | msg (r : RegionId)
  | msgAppend (cl : ClusterId) (q : Fin 64)
  | msgIncompleteDiscard (cl : ClusterId) (q : Fin 64)
  | msgDequeue (cl : ClusterId) (q : Fin 64)
  | credit (r : RegionId)
  | cohGets (st : StackId)
  | cohGetm (st : StackId)
  | cohPutm (st : StackId)
  | cohFwdgets (r : RegionId)
  | cohFwdgetm (r : RegionId)
  | cohInv (r : RegionId)
  | cohInvack (p : AgentPort)
  | cohData (p : AgentPort)
  | cohUnblock (st : StackId)
  | cohPutack (r : RegionId)
  | cohRecall (r : RegionId)
  | atom (st : StackId)
  | atomRsp (p : AgentPort)
  | scrubRead (st : StackId) (first second copy1 copy2 : Ecc)
  | scrubLockRetry (q : QuarterId)
  | mrTempSample (st : StackId) (celsius : Fin 256)
  -- fabric (R206 to R238)
  | routerSlot (site : RouterId) (hits : List (Nat × Hit))
  | laneLossOfLock (l : LinkId) (hiEnd : Bool)
  | laneRecalDone (t : RecalTarget) (failedLo failedHi : Nat)
  | ejectFullTimeout (p : AgentPort)
  | ejectSuspendEnd (p : AgentPort)
  | cmapLatch (site : RouterId)
  | glintTake
  | glintReq (site : RouterId)
  | glintRec
  | glintRecordTimeout
  | ingressReqAdmit (e : EdgeId)
  -- reduction (R254 to R270)
  | accumulateRow (st : StackId) (first second : List Ecc)
  | readRow (st : StackId) (first second : List Ecc)
  | readClearRow (st : StackId) (first second : List Ecc)
  -- replay (R285 to R291)
  | replayRunStart (q : QuarterId)
  | replayRunEnd (cl : ClusterId)
  -- structure stream (R294 to R312)
  | ssLoad (q : QuarterId)
  | ssCancel (q : QuarterId)
  | streamValidate (q : QuarterId) (header : Option Bytes) (rest : Option Bytes)
  -- scale-out (R314 to R337)
  | heartbeatSend (p : PortId)
  | flitHeartbeat (p : PortId) (flit : Flit)
  | flitData (p : PortId) (flit : Flit)
  | flitCredit (p : PortId) (flit : Flit)
  | flitIdle (p : PortId) (flit : Flit)
  | flitLpi (p : PortId) (flit : Flit)
  | portLost (p : PortId)
  | portTrainDone (p : PortId) (lanesGood : BitVec 8)
  | portTrainFail (p : PortId)
  | egressSend (p : PortId)
  | transportReqArrive (p : PortId)
  | transportRspArrive (p : PortId)
  | remoteTimeout (cl : ClusterId) (write : Bool) (tag : Nat)
  | tagQuarantineEnd (cl : ClusterId) (write : Bool) (tag : Nat)
  -- host (R340 to R358)
  | bar2Read (q : QuarterId) (ofs : BitVec 36) (len : Fin 4097)
  | bar2Write (q : QuarterId) (ofs : BitVec 36) (data : Bytes)
  | bar2Atomic (q : QuarterId) (ofs : BitVec 36) (old new : BitVec 64)
  | dmaDoorbell (q : QuarterId) (c : Fin 8) (total : BitVec 16)
  | h2p (q : QuarterId) (c : Fin 8) (desc : BitVec 256) (data : Option Bytes)
  | p2h (q : QuarterId) (c : Fin 8) (desc : BitVec 256) (hostOk : Bool)
  | h2pDecrypt (q : QuarterId) (c : Fin 8) (desc : BitVec 256) (data : Option Bytes)
  | dmaZero (q : QuarterId) (c : Fin 8) (desc : BitVec 256)
  | dmaComplete (q : QuarterId) (c : Fin 8)
  | dmaEngineDisable (who : Requester) (q : QuarterId) (c : Fin 8)
  | msgBufferDoorbell (q : QuarterId) (tail : BitVec 16)
  | hostMsgPublish (q : QuarterId)
  | hostMsgDrop (q : QuarterId)
  | mailboxDoorbell (q : QuarterId) (tag : BitVec 16) (op : BitVec 16) (len : BitVec 32) (payload : Bytes)
  -- resets by mailbox (R396 to R402)
  | eclipse (q : QuarterId)
  | eclipseAbsorbEnd (q : QuarterId)
  | eclipseComplete (q : QuarterId)
  | compatUnit (q : QuarterId)
  | compatCluster (q : QuarterId)
  | compatPartition (q : QuarterId)
  | compatPanel (q : QuarterId)
  | warmReset (q : QuarterId)
  | drainComplete (q : QuarterId)
  | drainTimeout (q : QuarterId)
  -- power states and maintenance (R403 to R415)
  | pstateDay (q : QuarterId)
  | pstateDim (q : QuarterId)
  | pstateDusk (q : QuarterId)
  | pstateDark (q : QuarterId)
  | pstateEntryDone (q : QuarterId)
  | selfRefreshEntry (q : QuarterId)
  | pstateWakeDone (q : QuarterId)
  | maintRequestRetest (q : QuarterId)
  | maintRequestRecal (q : QuarterId)
  | maintLockEvaluate
  | retestDone (d : DieId) (vouches : Fin 5) (wrongSig : Bool)
  -- spares, Shadow, managers (R416 to R434)
  | spareIn (q : QuarterId)
  | spareCheckDone (f : FieldId) (pass : Bool)
  | spareCopyDone (f : FieldId)
  | tenantClear (q : QuarterId)
  | tenantClearPass (q : QuarterId) (failing : List (StackId × Nat))   -- stack-local offsets in the rows that fail their read-back
  | defectMap (q : QuarterId)
  | halt (q : QuarterId)
  | shadowCopy (cl : ClusterId)
  | mrPoll (silent : List StackId) (untrained : List StackId)
  | pmHeartbeatSend (m : MgrId)
  | pmHb (m : MgrId)
  | pmHbMiss (m : MgrId)
  | journalAckTimeout
  | pmTakeover
  | qcPmLost (q : QuarterId)
  -- power and temperature (R435 to R461)
  | domainFault (dom : DomainId) (cause : Fin 16) (status : BitVec 16)
  | softstartTimeout (dom : DomainId) (regulatorFault : Bool) (status : BitVec 16)
  | ref25Loss
  | fdaAssert (g : Fin 16)
  | fdaDeassert (g : Fin 16)
  | fdaLong
  | telemetryRead (readings : List Reading)
  | dieEnergyLatch (d : DieId) (microJ : Nat)
  | dieTempSample (d : DieId) (celsius : Fin 256)
  | edgeTempSample (e : EdgeId) (celsius : Fin 256)
  | coolantRead (inlet outlet : Option (BitVec 16))
  | inletLost
  | thermalFit
  | governorEvaluate
  | opsGather
  | pwrTokenAdd (who : Requester) (q : QuarterId) (n : BitVec 32)
  | ledgerSecond
  -- counters (R356, R488 to R494)
  | snapshotDue (q : QuarterId)
  | cntLatch (st : StackId)
  | cntRec (q : QuarterId)
  | snapshotRecordTimeout (q : QuarterId)
  -- management packets (R217)
  | slack
  | vouch
  | test (site : RouterId) (nb : RouterId) (hcrcOk checkOk patternOk sigOk digestOk : Bool)
  | delayEcho (site : RouterId)
  | fwDigest (cl : ClusterId)
  | pmCmd (p : AgentPort)
  | reg (p : AgentPort)
  | regRsp (e : EdgeId)
  | pcieLinkDown (q : QuarterId)
  -- security and debug (R462 to R487)
  | settingsCommit (who : Requester)
  | fwCommit (who : Requester) (okA okB : Bool)
  | fwUpdate (who : Requester) (image : Option Image) (norOk : Bool)
  | keyRevoke (who : Requester) (mask : BitVec 4)
  | spdmKeyExchange (q : QuarterId) (mutualRoot : Option Bytes)
  | spdmGetMeasurements (q : QuarterId)
  | keySet (q : QuarterId) (session : Nat) (n : Fin 4) (keyId : BitVec 32) (key : BitVec 256)
  | keyErase (q : QuarterId) (session : Nat) (n : Fin 4)
  | traceStart (who : Requester) (ctl : BitVec 32)
  | bypass (e : EdgeId) (tdi : Bool)
  | idcode (e : EdgeId)
  | samplePreload (e : EdgeId) (pins : Nat) (preload : Option Nat)
  | extest (e : EdgeId)
  | dbgacc (b : Bool) (a : PAddr) (write : Option (BitVec 64)) (eight : Bool)
  | registerWrite (who : Requester) (a : PAddr) (v : BitVec 64) (how : RegWidth)
  | spadClearDone (u : UnitId)
  | pminRaiseRetry
  | bucketDebtRepaid (b : BucketId)
  | spdmEndSession (q : QuarterId) (session : Nat)
  | domainPowerGood (dom : DomainId)
  | bringupStepEnd (r : StepReport)
  | droopRecovery (r : RegionId)
  deriving DecidableEq, Repr

end Sys2Proof
end

