-- ==== Sys2Proof/Decode.lean ====
section
/-! DEFINITION. The commands of the LV9-P384 come from outside it: spec/opcode_table.json gives no row bits, so no word
spells one.  The instructions of the cluster sequencers do have words (R135 to R138): Machine/Sequencer.lean reads them
out of schedule memory. -/

namespace Sys2Proof

/-- The command a word spells: none, because the table gives no row bits. -/
def decodeTableWord (_nbits _w : Nat) : Option Instr := none

end Sys2Proof
end

