-- ==== Sys2Proof/Config.lean ====
section
/-! DEFINITION. What the spec leaves to an implementation or leaves open: constants without a body, so that no proof
can see their values.  A free value takes the counter `State.fresh`, which each use advances. -/

namespace Sys2Proof.Config

/-- A free 32-bit value: the element an abandoned MMA leaves in its buffer (R59). -/
opaque freeWord : Nat → BitVec 32
/-- A free choice among n alternatives, taken modulo n (the data cache's victim way, R196). -/
opaque freeChoice : Nat → Nat
/-- Odomal's Vendor ID (R340). -/
opaque vendorId : BitVec 16
/-- Revision ID of an endpoint, which R340 does not give. -/
opaque revisionId : BitVec 8
/-- Spare rows of a DRAM bank: the stack vendor's (R179, R202). -/
opaque spareRows : Nat
/-- Odomal's JEP106 manufacturer code (R484). -/
opaque jep106 : BitVec 11
/-- Leakage of a die in mW at a temperature in °C and a VCORE in mV: fused coefficients (R444, R452). -/
opaque leakMilliwatt : (die celsius mv : Nat) → Nat
/-- Estimated stack energy of an interval in µJ from its router's request count (R444). -/
opaque stackMicroJ : (stack requests : Nat) → Nat
/-- Estimated edge-die energy of an interval in µJ from its port states (R444). -/
opaque edgeMicroJ : (edge portsUp : Nat) → Nat
/-- Thermal resistance the fit gives a site after n fits, in µK/W (R448). -/
opaque thermalR : (site n : Nat) → Nat
/-- Time constant the fit gives a site after n fits, in µs (R448). -/
opaque thermalTau : (site n : Nat) → Nat
/-- exp(−20 ms / τ) scaled by 65,536 for τ in µs (R448). -/
opaque expDecay : Nat → Nat
/-- Worst-case panel power in W at an operating point (R450). -/
opaque worstPowerW : Nat → Nat
/-- The filtered value of the thermal cap, from the last one and the new sample, in W (R449). -/
opaque capFilter : (last sample : Nat) → Nat
/-- Fused digest of key slot k of a manager's boot ROM (R465): SHA-384 as a number. -/
opaque fusedKey : (b : Bool) → (slot : Nat) → Nat
/-- Which key slots are programmed at manufacture (R465). -/
opaque fusedProg : BitVec 4
/-- The cluster firmware manifest of the image in a manager's NOR bank as delivered (R378, R463): bank B is true. -/
opaque deliveredManifest : (bankB : Bool) → List (BitVec 8)
/-- The cluster firmware image of that bank (R378, R463). -/
opaque deliveredFirmware : (bankB : Bool) → List (BitVec 8)
/-- ROM version measured into the attestation log (R466). -/
opaque romVersion : Nat
/-- The signature that an instance's alias key, derived from its fused secret and the SHA-384 of its image header, makes of a message with a
nonce (R475): a free value, the key being secret (log entry 55). -/
opaque aliasSign : (b : Bool) → (hdr : Nat) → (message : List (BitVec 8)) → (nonce : Nat) → BitVec 768
/-- Contents of the NOR's settings store as delivered: STREAM_KEY k (R469), 97 bytes. -/
opaque storeStreamKey : Nat → List (BitVec 8)
/-- Root public key digest of the store as delivered (R469). -/
opaque storeOperRoot : List (BitVec 8)
/-- Panel number of the store as delivered (R469). -/
opaque storePanel : BitVec 10

end Sys2Proof.Config
end

