-- ==== Sys2Proof/Machine/Topology.lean ====
section
/-! DEFINITION. Where things are: sites, fields, quarters, edge dies and links (R10 to R13, R18 to R25, R213), router
ports (R206), the panel address map and its register blocks (R107, R180 to R184, R343). -/

namespace Sys2Proof.Machine

/-- x of the site of compute die n (R10). -/
def dieX (n : Nat) : Nat := 6 * (n % 16 / 4) + [0, 2, 3, 5].getD (n % 4) 0
/-- y of the site of compute die n (R10). -/
def dieY (n : Nat) : Nat := n / 16
/-- x of the site of stack n (R10). -/
def stackX (n : Nat) : Nat := 6 * (n % 8 / 2) + (if n % 2 = 0 then 1 else 4)
/-- y of the site of stack n (R10). -/
def stackY (n : Nat) : Nat := n / 8
/-- Router code of a site (R215). -/
def siteCode (x y : Nat) : Nat := 24 * y + x
/-- Router code of compute die n. -/
def dieSite (n : Nat) : Nat := siteCode (dieX n) (dieY n)
/-- Router code of memory router n. -/
def stackSite (n : Nat) : Nat := siteCode (stackX n) (stackY n)
/-- Router code of edge die n (R215). -/
def edgeSite (n : Nat) : Nat := 384 + n

/-- What stands at a router. -/
inductive Place where
  | die (n : Nat)
  | stack (n : Nat)
  | edge (n : Nat)
  deriving DecidableEq, Repr

/-- The die or stack of a router code (R10, R19). -/
def placeOf (s : Nat) : Place :=
  if s ≥ 384 then .edge (s - 384)
  else
    let x := s % 24
    let y := s / 24
    let c := x % 6
    if c = 1 ∨ c = 4 then .stack (8 * y + 2 * (x / 6) + c / 4)
    else .die (16 * y + 4 * (x / 6) + [0, 0, 1, 2, 0, 3].getD c 0)

/-- Field of a site (R9, 00_scope). -/
def fieldOfXY (x y : Nat) : Nat := (y / 4) * 4 + x / 6
/-- Field of compute die n. -/
def dieField (n : Nat) : Nat := fieldOfXY (dieX n) (dieY n)
/-- Field of stack n. -/
def stackField (n : Nat) : Nat := fieldOfXY (stackX n) (stackY n)
/-- Quarter of a site (R20). -/
def quarterOfXY (x y : Nat) : Nat := x / 12 + 2 * (y / 8)
/-- Quarter of field f (R20). -/
def fieldQuarter (f : Nat) : Nat := f % 4 / 2 + 2 * (f / 8)
/-- Quarter of edge die n (R11). -/
def edgeQuarter (n : Nat) : Nat := [0, 0, 1, 1, 1, 1, 3, 3, 3, 3, 2, 2, 2, 2, 0, 0].getD n 0
/-- Quarter of compute die n. -/
def dieQuarter (n : Nat) : Nat := quarterOfXY (dieX n) (dieY n)
/-- Quarter of stack n. -/
def stackQuarter (n : Nat) : Nat := quarterOfXY (stackX n) (stackY n)
/-- Quarter of a router. -/
def siteQuarter (s : Nat) : Nat :=
  if s ≥ 384 then edgeQuarter (s - 384) else quarterOfXY (s % 24) (s / 24)
/-- Edge die that carries quarter q's controller and endpoint (R12). -/
def controllerEdge (q : Nat) : Nat := [0, 4, 10, 8].getD q 0
/-- Edge die that carries a panel-manager instance (R12). -/
def managerEdge (b : Bool) : Nat := if b then 10 else 0

/-- The 16 compute dies of field f in ascending order (R19). -/
def fieldDies (f : Nat) : List Nat := (List.range 256).filter fun n => dieField n == f
/-- The 8 stacks of field f in ascending order. -/
def fieldStacks (f : Nat) : List Nat := (List.range 128).filter fun n => stackField n == f
/-- The stacks of quarter q. -/
def quarterStacks (q : Nat) : List Nat := (List.range 128).filter fun n => stackQuarter n == q
/-- The compute dies of quarter q. -/
def quarterDies (q : Nat) : List Nat := (List.range 256).filter fun n => dieQuarter n == q
/-- The edge dies of quarter q. -/
def quarterEdges (q : Nat) : List Nat := (List.range 16).filter fun n => edgeQuarter n == q
/-- The fields of quarter q. -/
def quarterFields (q : Nat) : List Nat := (List.range 16).filter fun f => fieldQuarter f == q
/-- The quarters of a mask. -/
def maskQuarters (m : Nat) : List Nat := (List.range 4).filter fun q => bit m q
/-- The lowest quarter of a mask. -/
def lowestQuarter (m : Nat) : Nat := (maskQuarters m).headD 0

/-- The two attachment sites of an edge die, first and second (R213). -/
def attachSites (n : Nat) : Nat × Nat :=
  [(2, 3), (8, 9), (14, 15), (20, 21), (47, 71), (143, 167), (239, 263), (335, 359), (381, 380), (375, 374),
   (369, 368), (363, 362), (336, 312), (240, 216), (144, 120), (48, 24)].getD n (0, 0)

/-- The edge die and attachment number at a site, when it is an attachment site. -/
def attachedEdge (s : Nat) : Option (Nat × Nat) :=
  ((List.range 16).findSome? fun n =>
    if (attachSites n).1 = s then some (n, 0)
    else if (attachSites n).2 = s then some (n, 1) else none)

/-- The port of a site that faces the edge die on its side of the panel. -/
def edgeFacingPort (n : Nat) : Nat := if n < 4 then 2 else if n < 8 then 1 else if n < 12 then 0 else 3

/-- The router across port p of router s and the port it is there, when the port exists (R206). -/
def neighbour (s p : Nat) : Option (Nat × Nat) :=
  if s ≥ 384 then
    let n := s - 384
    match p with
    | 0 => some ((attachSites n).1, edgeFacingPort n)
    | 1 => some ((attachSites n).2, edgeFacingPort n)
    | _ => none
  else
    let x := s % 24
    let y := s / 24
    let inside : Option (Nat × Nat) :=
      match p with
      | 0 => if y < 15 then some (s + 24, 2) else none
      | 1 => if x < 23 then some (s + 1, 3) else none
      | 2 => if 0 < y then some (s - 24, 0) else none
      | 3 => if 0 < x then some (s - 1, 1) else none
      | _ => none
    match inside with
    | some r => some r
    | none =>
      match attachedEdge s with
      | some (n, a) => if edgeFacingPort n = p then some (384 + n, a) else none
      | none => none

/-- Kind of a link: none, field, seam or edge, as RTR_PORTp.LINK codes it. -/
inductive LinkKind where
  | none | field | seam | edge
  deriving DecidableEq, Repr

/-- Code of RTR_PORTp.LINK and of the defect map. -/
def LinkKind.code : LinkKind → Nat
  | .none => 0 | .field => 1 | .seam => 2 | .edge => 3

/-- The kind of the link at port p of router s (R22 to R25). -/
def linkKindAt (s p : Nat) : LinkKind :=
  match neighbour s p with
  | none => .none
  | some (t, _) =>
    if s ≥ 384 ∨ t ≥ 384 then .edge
    else if fieldOfXY (s % 24) (s / 24) = fieldOfXY (t % 24) (t / 24) then .field else .seam

/-- Link record index of R387 for port p of router s. -/
def linkIndex (s p : Nat) : Option Nat :=
  match neighbour s p with
  | none => none
  | some (t, tp) =>
    if s ≥ 384 then some (728 + 2 * (s - 384) + p)
    else if t ≥ 384 then some (728 + 2 * (t - 384) + tp)
    else
      let x := min (s % 24) (t % 24)
      let y := min (s / 24) (t / 24)
      if s / 24 = t / 24 then some (23 * y + x) else some (368 + 24 * y + x)

/-- The lower router of a link and its port (R387). -/
def linkEnds (i : Nat) : (Nat × Nat) × (Nat × Nat) :=
  if i < 368 then ((siteCode (i % 23) (i / 23), 1), (siteCode (i % 23 + 1) (i / 23), 3))
  else if i < 728 then
    let j := i - 368
    ((siteCode (j % 24) (j / 24), 0), (siteCode (j % 24) (j / 24 + 1), 2))
  else
    let n := (i - 728) / 2
    let a := (i - 728) % 2
    ((384 + n, a), (if a = 0 then (attachSites n).1 else (attachSites n).2, edgeFacingPort n))

/-- The kind of link record i. -/
def linkKind (i : Nat) : LinkKind := linkKindAt (linkEnds i).1.1 (linkEnds i).1.2

/-- Manhattan distance of two sites. -/
def siteDist (a b : Nat) : Nat :=
  let d (m n : Nat) : Nat := (m - n) + (n - m)
  d (a % 24) (b % 24) + d (a / 24) (b / 24)

/-- Distance between two routers for routing (R213). -/
def routerDist (a b : Nat) : Nat :=
  if a = b then 0
  else if a ≥ 384 then
    if b ≥ 384 then
      let s := attachSites (a - 384)
      let t := attachSites (b - 384)
      2 + min (min (siteDist s.1 t.1) (siteDist s.1 t.2)) (min (siteDist s.2 t.1) (siteDist s.2 t.2))
    else
      let s := attachSites (a - 384)
      1 + min (siteDist s.1 b) (siteDist s.2 b)
  else if b ≥ 384 then
    let t := attachSites (b - 384)
    1 + min (siteDist a t.1) (siteDist a t.2)
  else siteDist a b

/-- fold5 of R181. -/
def fold5Go : Nat → Nat → Nat
  | 0, _ => 0
  | k + 1, v => (v % 32) ^^^ fold5Go k (v / 32)
/-- fold5 of R181, for values below 2^65. -/
def fold5 (v : Nat) : Nat := fold5Go 13 v

/-! Register blocks (R182, R184, R343). -/

/-- Register area of compute die n. -/
def dieArea (n : Nat) : Nat := 0xF0000000000 + n * 0x10000000
/-- Register area of memory router n. -/
def mrArea (n : Nat) : Nat := 0xF1000000000 + n * 0x10000000
/-- Register area of edge die n. -/
def edgeArea (n : Nat) : Nat := 0xF1800000000 + n * 0x10000000
/-- Area of the active panel manager. -/
def managerArea : Nat := 0xF1900000000
/-- PM_ block. -/
def pmBlk : Nat := managerArea
/-- Panel-wide GT_ block. -/
def panelGtBlk : Nat := managerArea + 0x10000
/-- PWR_ block of the manager. -/
def pwrBlk : Nat := managerArea + 0x20000
/-- THM_ block of the manager. -/
def thmBlk : Nat := managerArea + 0x30000
/-- SEC_ block. -/
def secBlk : Nat := managerArea + 0x40000
/-- UNIT_ block of physical unit u. -/
def unitBlk (u : Nat) : Nat := dieArea (u / 16) + 0x2000000 + 0x100000 * (u % 16)
/-- SEQ_ block of physical cluster c. -/
def seqBlk (c : Nat) : Nat := dieArea (c / 4) + 0x1000000 + 0x100000 * (c % 4)
/-- SE_ block. -/
def seBlk (c : Nat) : Nat := seqBlk c + 0x10000
/-- QUE_ block. -/
def queBlk (c : Nat) : Nat := seqBlk c + 0x20000
/-- SHP_ block of physical cluster c, or of edge die c - 1024. -/
def shpBlk (c : Nat) : Nat := if c < 1024 then seqBlk c + 0x30000 else edgeArea (c - 1024) + 0x20000
/-- MR_ block. -/
def mrBlk (n : Nat) : Nat := mrArea n
/-- RTR_ block of a router. -/
def rtrBlk (s : Nat) : Nat :=
  match placeOf s with
  | .die n => dieArea n
  | .stack n => mrArea n + 0x10000
  | .edge n => edgeArea n
/-- GT_ block of the keeper of a router's die (compute and edge dies, R488). -/
def keeperGtBlk (s : Nat) : Nat :=
  match placeOf s with
  | .die n => dieArea n + 0x10000
  | .stack n => mrArea n + 0x20000
  | .edge n => edgeArea n + 0x10000
/-- PWR_ and THM_ monitors of a compute die. -/
def dmonBlk (n : Nat) : Nat := dieArea n + 0x20000
/-- QC_ block of quarter q. -/
def qcBlk (q : Nat) : Nat := edgeArea (controllerEdge q) + 0x30000
/-- HST_ block of quarter q. -/
def hstBlk (q : Nat) : Nat := edgeArea (controllerEdge q) + 0x40000

/-! Panel address ranges (R30, R180, R182, R183). -/

/-- End of stacked memory and start of the check store within a stack. -/
def checkStoreBase : Nat := 0x8EE000000
/-- Control region base. -/
def controlBase : Nat := 0x47000000000
/-- Scratchpad window range. -/
def windowBase : Nat := 0x80000000000
/-- Register space. -/
def registerBase : Nat := 0xF0000000000

/-- Is the panel address in placement space (R182)? -/
def inPlacementSpace (a : Nat) : Bool := a < 0x48000000000 && !(controlBase ≤ a && a < 0x47200000000)
/-- Is it in the control region? -/
def inControl (a : Nat) : Bool := controlBase ≤ a && a < 0x47200000000
/-- Is it in a scratchpad window? -/
def inWindow (a : Nat) : Bool := windowBase ≤ a && a < 0x80800000000
/-- Is it in register space? -/
def inRegisters (a : Nat) : Bool := registerBase ≤ a

end Sys2Proof.Machine
end

