-- ==== Sys2Proof/Machine/RegTable.lean ====
section
/-! DEFINITION. Every register the spec names: its panel address, its access codes and its reset value, block by
block, as the tables of R16, R41 to R47, R88, R104, R130, R159, R178, R205, R237, R238, R253, R270, R293, R313, R339,
R358, R392, R415, R434, R460, R461 and R487 give them. -/

namespace Sys2Proof.Machine

/-- One row of a register table: `count` registers `stride` apart from `off`; masks of the RW, W1C, W1S and WO bits
(every other bit is RO or reserved, R5, R8); `wide` for 64 bits; `ctr` for a counter of R9. -/
structure RegRow where
  off : Nat
  count : Nat
  stride : Nat
  wide : Bool
  rw : Nat
  w1c : Nat
  w1s : Nat
  wo : Nat
  reset : Nat
  ctr : Bool
  deriving DecidableEq, Repr

/-- The registers of a PM_ block. -/
def pmRows : List RegRow := [
  ⟨0x0, 1, 0, false, 0x0, 0x0, 0x0, 0x0, 0x93840100, false⟩,
  ⟨0x100, 1, 0, false, 0x0, 0x0, 0x0, 0x0, 0x4044, false⟩,
  ⟨0x108, 1, 0, true, 0x0, 0x0, 0x0, 0x0, 0x0, false⟩,
  ⟨0x200, 1, 0, false, 0x8000FFFF, 0x0, 0x0, 0x0, 0x800003E8, false⟩,
  ⟨0x208, 1, 0, true, 0x0, 0x0, 0x0, 0x0, 0x0, false⟩,
  ⟨0x210, 1, 0, false, 0x0, 0x0, 0x0, 0x0, 0x0, false⟩,
  ⟨0x220, 1, 0, true, 0x0, 0x0, 0x0, 0x0, 0x0, false⟩,
  ⟨0x230, 1, 0, true, 0x0, 0x0, 0x0, 0x0, 0x0, false⟩,
  ⟨0x238, 1, 0, true, 0x0, 0x0, 0x0, 0x0, 0x0, false⟩,
  ⟨0x250, 1, 0, false, 0x3FF, 0x0, 0x0, 0x0, 0x0, false⟩,
  ⟨0x258, 1, 0, false, 0x7FFF, 0x0, 0x0, 0x0, 0x0, false⟩,
  ⟨0x260, 1, 0, true, 0x0, 0x0, 0x0, 0x0, 0x8000000000000000, false⟩,
  ⟨0x280, 1, 0, true, 0x0, 0x0, 0x0, 0x0, 0x1, false⟩,
  ⟨0x288, 1, 0, false, 0x0, 0x0, 0x0, 0x0, 0x0, false⟩,
  ⟨0x290, 1, 0, false, 0x1, 0x0, 0x0, 0x0, 0x0, false⟩,
  ⟨0x298, 1, 0, true, 0x0, 0x0, 0x0, 0x0, 0x0, false⟩,
  ⟨0x2A0, 1, 0, false, 0x0, 0x0, 0x0, 0x0, 0x0, false⟩,
  ⟨0x2A8, 1, 0, false, 0x0, 0x0, 0x0, 0x0, 0x0, false⟩,
  ⟨0x2B0, 1, 0, false, 0x0, 0x0, 0x0, 0x0, 0x0, false⟩,
  ⟨0x2B8, 1, 0, true, 0x0, 0x0, 0x0, 0x0, 0x0, false⟩,
  ⟨0x2C0, 1, 0, false, 0x0, 0x0, 0x0, 0x0, 0x0, false⟩,
  ⟨0x300, 1, 0, true, 0x0, 0x0, 0x0, 0x0, 0x0, true⟩,
  ⟨0x308, 1, 0, true, 0x0, 0x0, 0x0, 0x0, 0x0, true⟩,
  ⟨0x400, 4, 64, true, 0x0, 0x0, 0x0, 0x0, 0x0, true⟩,
  ⟨0x408, 4, 64, true, 0x0, 0x0, 0x0, 0x0, 0x0, true⟩,
  ⟨0x410, 4, 64, true, 0x0, 0x0, 0x0, 0x0, 0x0, true⟩,
  ⟨0x418, 4, 64, true, 0x0, 0x0, 0x0, 0x0, 0x0, true⟩,
  ⟨0x420, 4, 64, true, 0x0, 0x0, 0x0, 0x0, 0x0, true⟩,
  ⟨0x428, 4, 64, true, 0x0, 0x0, 0x0, 0x0, 0x0, true⟩,
  ⟨0x430, 4, 64, true, 0x0, 0x0, 0x0, 0x0, 0x0, true⟩,
  ⟨0x438, 4, 64, true, 0x0, 0x0, 0x0, 0x0, 0x0, true⟩,
  ⟨0x500, 4, 64, true, 0x0, 0x0, 0x0, 0x0, 0x0, true⟩,
  ⟨0x508, 4, 64, true, 0x0, 0x0, 0x0, 0x0, 0x0, true⟩,
  ⟨0x510, 4, 64, true, 0x0, 0x0, 0x0, 0x0, 0x0, true⟩,
  ⟨0x600, 1, 0, true, 0x0, 0x0, 0x0, 0x0, 0x0, true⟩,
  ⟨0x608, 1, 0, true, 0x0, 0x0, 0x0, 0x0, 0x0, true⟩,
  ⟨0x610, 1, 0, true, 0x0, 0x0, 0x0, 0x0, 0x0, true⟩,
  ⟨0x618, 1, 0, true, 0x0, 0x0, 0x0, 0x0, 0x0, true⟩,
  ⟨0x700, 16, 8, true, 0x0, 0x0, 0x0, 0x0, 0x78000000000, false⟩,
  ⟨0x780, 1, 0, false, 0x0, 0x0, 0x0, 0x0, 0x0, false⟩,
  ⟨0x800, 1, 0, true, 0x0, 0x0, 0x0, 0x0, 0x0, true⟩,
  ⟨0x808, 1, 0, true, 0x0, 0x0, 0x0, 0x0, 0x0, true⟩,
  ⟨0x810, 1, 0, true, 0x0, 0x0, 0x0, 0x0, 0x0, true⟩,
  ⟨0x818, 1, 0, true, 0x0, 0x0, 0x0, 0x0, 0x0, true⟩,
  ⟨0x820, 1, 0, true, 0x0, 0x0, 0x0, 0x0, 0x0, true⟩,
  ⟨0x828, 1, 0, true, 0x0, 0x0, 0x0, 0x0, 0x0, true⟩]

/-- The registers of a GT_ block. -/
def gtRows : List RegRow := [
  ⟨0x0, 1, 0, false, 0x0, 0x0, 0x0, 0x0, 0x0, false⟩,
  ⟨0x4, 1, 0, false, 0x0, 0x0, 0x0, 0x0, 0x0, false⟩,
  ⟨0x8, 1, 0, false, 0x0, 0x0, 0x0, 0x0, 0x0, false⟩,
  ⟨0x10, 1, 0, false, 0x3FFFFFFF, 0x0, 0x0, 0x0, 0x0, false⟩,
  ⟨0x14, 1, 0, false, 0xFFFFFFFF, 0x0, 0x0, 0x0, 0x0, false⟩,
  ⟨0x18, 1, 0, false, 0xFFFF, 0x0, 0x0, 0x0, 0x0, false⟩,
  ⟨0x1C, 1, 0, false, 0x0, 0x0, 0x0, 0x3, 0x0, false⟩,
  ⟨0x20, 1, 0, false, 0x0, 0x0, 0x0, 0x0, 0x0, false⟩,
  ⟨0x24, 1, 0, false, 0x0, 0x0, 0x0, 0x0, 0x0, false⟩,
  ⟨0x28, 1, 0, false, 0xFFF0007, 0x0, 0x0, 0x0, 0x0, false⟩,
  ⟨0x30, 1, 0, false, 0x0, 0x0, 0x0, 0x0, 0x80000000, false⟩,
  ⟨0x38, 1, 0, false, 0x0, 0x0, 0x0, 0x0, 0x0, false⟩,
  ⟨0x40, 1, 0, false, 0x0, 0x0, 0x0, 0x0, 0x0, false⟩,
  ⟨0x48, 1, 0, true, 0x0, 0x0, 0x0, 0x0, 0x0, false⟩,
  ⟨0x100, 1, 0, true, 0x0, 0x0, 0x0, 0x0, 0x0, true⟩,
  ⟨0x108, 1, 0, true, 0x0, 0x0, 0x0, 0x0, 0x0, true⟩]

/-- The registers of a UNIT_ block. -/
def unitRows : List RegRow := [
  ⟨0x200, 1, 0, true, 0x0, 0x0, 0x0, 0x0, 0x19084318C, false⟩,
  ⟨0x208, 1, 0, true, 0x0, 0x0, 0x0, 0x0, 0x0, false⟩,
  ⟨0x210, 1, 0, false, 0x0, 0x0, 0x0, 0x0, 0x0, false⟩,
  ⟨0x218, 1, 0, true, 0x0, 0x0, 0x0, 0x0, 0x0, false⟩,
  ⟨0x300, 1, 0, true, 0x0, 0x0, 0x0, 0x0, 0x0, true⟩,
  ⟨0x308, 1, 0, true, 0x0, 0x0, 0x0, 0x0, 0x0, true⟩,
  ⟨0x310, 1, 0, true, 0x0, 0x0, 0x0, 0x0, 0x0, true⟩,
  ⟨0x318, 1, 0, true, 0x0, 0x0, 0x0, 0x0, 0x0, true⟩,
  ⟨0x320, 1, 0, true, 0x0, 0x0, 0x0, 0x0, 0x0, true⟩,
  ⟨0x328, 1, 0, true, 0x0, 0x0, 0x0, 0x0, 0x0, true⟩,
  ⟨0x330, 1, 0, true, 0x0, 0x0, 0x0, 0x0, 0x0, true⟩,
  ⟨0x338, 1, 0, true, 0x0, 0x0, 0x0, 0x0, 0x0, true⟩,
  ⟨0x340, 1, 0, true, 0x0, 0x0, 0x0, 0x0, 0x0, true⟩,
  ⟨0x348, 1, 0, true, 0x0, 0x0, 0x0, 0x0, 0x0, true⟩,
  ⟨0x350, 1, 0, true, 0x0, 0x0, 0x0, 0x0, 0x0, true⟩,
  ⟨0x358, 1, 0, true, 0x0, 0x0, 0x0, 0x0, 0x0, true⟩,
  ⟨0x360, 1, 0, true, 0x0, 0x0, 0x0, 0x0, 0x0, true⟩,
  ⟨0x368, 1, 0, true, 0x0, 0x0, 0x0, 0x0, 0x0, true⟩,
  ⟨0x400, 1, 0, false, 0x0, 0x0, 0x0, 0x0, 0x10, false⟩,
  ⟨0x410, 8, 4, false, 0x0, 0x0, 0x0, 0x0, 0x0, false⟩,
  ⟨0x438, 1, 0, true, 0x0, 0x0, 0x0, 0x0, 0x0, false⟩,
  ⟨0x500, 1, 0, true, 0x0, 0x0, 0x0, 0x0, 0x0, false⟩,
  ⟨0x800, 96, 8, true, 0x0, 0x0, 0x0, 0x0, 0x0, false⟩]

/-- The registers of a SEQ_ block. -/
def seqRows : List RegRow := [
  ⟨0x0, 1, 0, false, 0x0, 0x0, 0x0, 0x0, 0x0, false⟩,
  ⟨0x8, 1, 0, true, 0x0, 0x0, 0x0, 0x0, 0x0, false⟩,
  ⟨0x10, 1, 0, true, 0x0, 0x0, 0x0, 0x0, 0x0, false⟩,
  ⟨0x18, 1, 0, false, 0x0, 0x0, 0x0, 0x0, 0x0, false⟩,
  ⟨0x100, 16, 4, false, 0x0, 0x0, 0x0, 0x0, 0x0, false⟩,
  ⟨0x140, 1, 0, true, 0x0, 0x0, 0x0, 0x0, 0x0, false⟩,
  ⟨0x150, 1, 0, true, 0x0, 0x0, 0x0, 0x0, 0x0, false⟩,
  ⟨0x158, 1, 0, true, 0x0, 0x0, 0x0, 0x0, 0x0, false⟩,
  ⟨0x160, 4, 4, false, 0x8000007F, 0x0, 0x0, 0x0, 0x0, false⟩,
  ⟨0x170, 1, 0, true, 0x0, 0x0, 0x0, 0x0, 0x0, false⟩,
  ⟨0x180, 1, 0, false, 0x0, 0x0, 0x0, 0x0, 0x0, false⟩,
  ⟨0x190, 1, 0, false, 0x1F, 0x0, 0x0, 0x0, 0x0, false⟩,
  ⟨0x1A0, 1, 0, false, 0x0, 0x0, 0x0, 0x0, 0x0, false⟩,
  ⟨0x200, 1, 0, true, 0x0, 0x0, 0x0, 0x0, 0x0, true⟩,
  ⟨0x208, 1, 0, true, 0x0, 0x0, 0x0, 0x0, 0x0, true⟩,
  ⟨0x210, 1, 0, true, 0x0, 0x0, 0x0, 0x0, 0x0, true⟩,
  ⟨0x218, 1, 0, true, 0x0, 0x0, 0x0, 0x0, 0x0, true⟩,
  ⟨0x220, 1, 0, true, 0x0, 0x0, 0x0, 0x0, 0x0, true⟩,
  ⟨0x228, 1, 0, true, 0x0, 0x0, 0x0, 0x0, 0x0, true⟩,
  ⟨0x230, 1, 0, true, 0x0, 0x0, 0x0, 0x0, 0x0, true⟩,
  ⟨0x238, 1, 0, true, 0x0, 0x0, 0x0, 0x0, 0x0, true⟩,
  ⟨0x240, 1, 0, true, 0x0, 0x0, 0x0, 0x0, 0x0, true⟩,
  ⟨0x248, 1, 0, true, 0x0, 0x0, 0x0, 0x0, 0x0, true⟩,
  ⟨0x250, 1, 0, true, 0x0, 0x0, 0x0, 0x0, 0x0, true⟩,
  ⟨0x258, 1, 0, true, 0x0, 0x0, 0x0, 0x0, 0x0, true⟩]

/-- The registers of a SE_ block. -/
def seRows : List RegRow := [
  ⟨0x0, 1, 0, false, 0x0, 0x0, 0x0, 0x0, 0x0, false⟩,
  ⟨0x100, 1, 0, true, 0x0, 0x0, 0x0, 0x0, 0x0, true⟩,
  ⟨0x108, 1, 0, true, 0x0, 0x0, 0x0, 0x0, 0x0, true⟩,
  ⟨0x110, 1, 0, true, 0x0, 0x0, 0x0, 0x0, 0x0, true⟩,
  ⟨0x118, 1, 0, true, 0x0, 0x0, 0x0, 0x0, 0x0, true⟩,
  ⟨0x120, 1, 0, true, 0x0, 0x0, 0x0, 0x0, 0x0, true⟩,
  ⟨0x128, 1, 0, true, 0x0, 0x0, 0x0, 0x0, 0x0, true⟩,
  ⟨0x130, 1, 0, true, 0x0, 0x0, 0x0, 0x0, 0x0, true⟩,
  ⟨0x138, 1, 0, true, 0x0, 0x0, 0x0, 0x0, 0x0, true⟩]

/-- The registers of a QUE_ block. -/
def queRows : List RegRow := [
  ⟨0x0, 64, 8, true, 0x0, 0x0, 0x0, 0x0, 0x0, false⟩,
  ⟨0x200, 64, 4, false, 0x0, 0x0, 0x0, 0x0, 0x0, false⟩,
  ⟨0x300, 1, 0, false, 0x0, 0x0, 0x0, 0x0, 0x0, false⟩,
  ⟨0x400, 1, 0, true, 0x0, 0x0, 0x0, 0x0, 0x0, true⟩,
  ⟨0x408, 1, 0, true, 0x0, 0x0, 0x0, 0x0, 0x0, true⟩,
  ⟨0x410, 1, 0, true, 0x0, 0x0, 0x0, 0x0, 0x0, true⟩,
  ⟨0x418, 1, 0, true, 0x0, 0x0, 0x0, 0x0, 0x0, true⟩,
  ⟨0x420, 1, 0, true, 0x0, 0x0, 0x0, 0x0, 0x0, true⟩]

/-- The registers of a MR_ block. -/
def mrRows : List RegRow := [
  ⟨0x0, 1, 0, false, 0x0, 0x0, 0x0, 0x0, 0x0, false⟩,
  ⟨0x8, 1, 0, false, 0x0, 0x0, 0x0, 0x0, 0x0, false⟩,
  ⟨0x10, 1, 0, false, 0xFF, 0x0, 0x0, 0x0, 0x18, false⟩,
  ⟨0x18, 1, 0, true, 0x0, 0x0, 0x0, 0x0, 0x0, false⟩,
  ⟨0x20, 1, 0, true, 0x0, 0x0, 0x0, 0x0, 0x0, false⟩,
  ⟨0x28, 1, 0, false, 0x0, 0x0, 0x0, 0x0, 0x0, false⟩,
  ⟨0x30, 1, 0, true, 0x0, 0x0, 0x0, 0x0, 0x0, false⟩,
  ⟨0x100, 1, 0, true, 0x0, 0x0, 0x0, 0x0, 0x0, true⟩,
  ⟨0x108, 1, 0, true, 0x0, 0x0, 0x0, 0x0, 0x0, true⟩,
  ⟨0x110, 1, 0, true, 0x0, 0x0, 0x0, 0x0, 0x0, true⟩,
  ⟨0x118, 1, 0, true, 0x0, 0x0, 0x0, 0x0, 0x0, true⟩,
  ⟨0x120, 1, 0, true, 0x0, 0x0, 0x0, 0x0, 0x0, true⟩,
  ⟨0x128, 1, 0, true, 0x0, 0x0, 0x0, 0x0, 0x0, true⟩,
  ⟨0x130, 1, 0, true, 0x0, 0x0, 0x0, 0x0, 0x0, true⟩,
  ⟨0x138, 1, 0, true, 0x0, 0x0, 0x0, 0x0, 0x0, true⟩,
  ⟨0x140, 1, 0, true, 0x0, 0x0, 0x0, 0x0, 0x0, true⟩,
  ⟨0x148, 1, 0, true, 0x0, 0x0, 0x0, 0x0, 0x0, true⟩,
  ⟨0x150, 1, 0, true, 0x0, 0x0, 0x0, 0x0, 0x0, true⟩,
  ⟨0x158, 1, 0, true, 0x0, 0x0, 0x0, 0x0, 0x0, true⟩,
  ⟨0x160, 1, 0, true, 0x0, 0x0, 0x0, 0x0, 0x0, true⟩,
  ⟨0x168, 1, 0, true, 0x0, 0x0, 0x0, 0x0, 0x0, true⟩,
  ⟨0x170, 1, 0, true, 0x0, 0x0, 0x0, 0x0, 0x0, true⟩,
  ⟨0x178, 1, 0, true, 0x0, 0x0, 0x0, 0x0, 0x0, true⟩,
  ⟨0x180, 1, 0, true, 0x0, 0x0, 0x0, 0x0, 0x0, true⟩,
  ⟨0x188, 1, 0, true, 0x0, 0x0, 0x0, 0x0, 0x0, true⟩,
  ⟨0x190, 1, 0, true, 0x0, 0x0, 0x0, 0x0, 0x0, true⟩,
  ⟨0x198, 1, 0, true, 0x0, 0x0, 0x0, 0x0, 0x0, true⟩,
  ⟨0x1A0, 1, 0, true, 0x0, 0x0, 0x0, 0x0, 0x0, true⟩,
  ⟨0x1A8, 1, 0, true, 0x0, 0x0, 0x0, 0x0, 0x0, true⟩,
  ⟨0x1B0, 1, 0, true, 0x0, 0x0, 0x0, 0x0, 0x0, true⟩,
  ⟨0x1B8, 1, 0, true, 0x0, 0x0, 0x0, 0x0, 0x0, true⟩,
  ⟨0x1C0, 1, 0, true, 0x0, 0x0, 0x0, 0x0, 0x0, true⟩,
  ⟨0x1C8, 1, 0, true, 0x0, 0x0, 0x0, 0x0, 0x0, true⟩,
  ⟨0x1D0, 1, 0, true, 0x0, 0x0, 0x0, 0x0, 0x0, true⟩]

/-- The registers of a QC_ block. -/
def qcRows : List RegRow := [
  ⟨0x100, 1, 0, true, 0xFFFFFFFFFFFFF000, 0x0, 0x0, 0x0, 0x0, false⟩,
  ⟨0x108, 1, 0, false, 0xFFFFFFFF, 0x0, 0x0, 0x0, 0x0, false⟩,
  ⟨0x10C, 1, 0, false, 0x0, 0x0, 0x0, 0x3, 0x0, false⟩,
  ⟨0x110, 1, 0, true, 0x0, 0x0, 0x0, 0x0, 0x0, false⟩,
  ⟨0x118, 1, 0, true, 0x0, 0x0, 0x0, 0x0, 0x0, false⟩,
  ⟨0x120, 1, 0, true, 0x0, 0x0, 0x0, 0x0, 0x0, false⟩,
  ⟨0x400, 128, 4, false, 0xFFFFFFFF, 0x0, 0x0, 0x0, 0x0, false⟩,
  ⟨0x600, 32, 4, false, 0xFFFFFFFF, 0x0, 0x0, 0x0, 0xFFFFFFFF, false⟩,
  ⟨0x680, 1, 0, false, 0x3FFF, 0x0, 0x0, 0x0, 0x64, false⟩,
  ⟨0x700, 1, 0, false, 0x0, 0x0, 0x0, 0x0, 0x0, false⟩,
  ⟨0xF00, 1, 0, true, 0x0, 0x0, 0x0, 0x0, 0x0, true⟩,
  ⟨0xF08, 1, 0, true, 0x0, 0x0, 0x0, 0x0, 0x0, true⟩,
  ⟨0xF10, 1, 0, true, 0x0, 0x0, 0x0, 0x0, 0x0, true⟩,
  ⟨0xF18, 1, 0, true, 0x0, 0x0, 0x0, 0x0, 0x0, true⟩,
  ⟨0xF20, 1, 0, true, 0x0, 0x0, 0x0, 0x0, 0x0, true⟩,
  ⟨0xF28, 1, 0, true, 0x0, 0x0, 0x0, 0x0, 0x0, true⟩,
  ⟨0xF30, 1, 0, true, 0x0, 0x0, 0x0, 0x0, 0x0, true⟩,
  ⟨0xF38, 1, 0, true, 0x0, 0x0, 0x0, 0x0, 0x0, true⟩,
  ⟨0xF40, 1, 0, true, 0x0, 0x0, 0x0, 0x0, 0x0, true⟩]

/-- The registers of a RTR_ block. -/
def rtrRows : List RegRow := [
  ⟨0x0, 1, 0, false, 0x0, 0x0, 0x0, 0x0, 0x0, false⟩,
  ⟨0x10, 4, 4, false, 0x0, 0x0, 0x0, 0x0, 0x0, false⟩,
  ⟨0x40, 1, 0, true, 0x0, 0x0, 0x0, 0x0, 0x0, false⟩,
  ⟨0x78, 1, 0, false, 0x0, 0x0, 0x0, 0x0, 0x0, false⟩,
  ⟨0x80, 6, 4, false, 0x0, 0x0, 0x0, 0x0, 0x0, false⟩,
  ⟨0x100, 1, 0, true, 0x0, 0x0, 0x0, 0x0, 0x0, true⟩,
  ⟨0x108, 1, 0, true, 0x0, 0x0, 0x0, 0x0, 0x0, true⟩,
  ⟨0x110, 1, 0, true, 0x0, 0x0, 0x0, 0x0, 0x0, true⟩,
  ⟨0x118, 1, 0, true, 0x0, 0x0, 0x0, 0x0, 0x0, true⟩,
  ⟨0x120, 1, 0, true, 0x0, 0x0, 0x0, 0x0, 0x0, true⟩,
  ⟨0x128, 1, 0, true, 0x0, 0x0, 0x0, 0x0, 0x0, true⟩,
  ⟨0x130, 1, 0, true, 0x0, 0x0, 0x0, 0x0, 0x0, true⟩,
  ⟨0x138, 1, 0, true, 0x0, 0x0, 0x0, 0x0, 0x0, true⟩,
  ⟨0x140, 1, 0, true, 0x0, 0x0, 0x0, 0x0, 0x0, true⟩,
  ⟨0x148, 1, 0, true, 0x0, 0x0, 0x0, 0x0, 0x0, true⟩,
  ⟨0x150, 1, 0, true, 0x0, 0x0, 0x0, 0x0, 0x0, true⟩,
  ⟨0x158, 1, 0, true, 0x0, 0x0, 0x0, 0x0, 0x0, true⟩,
  ⟨0x160, 1, 0, true, 0x0, 0x0, 0x0, 0x0, 0x0, true⟩,
  ⟨0x1000, 4, 256, false, 0x0, 0x0, 0x0, 0x0, 0x0, false⟩,
  ⟨0x1008, 4, 256, false, 0x0, 0x0, 0x0, 0x0, 0x0, false⟩,
  ⟨0x1080, 4, 256, true, 0x0, 0x0, 0x0, 0x0, 0x0, true⟩,
  ⟨0x1088, 4, 256, true, 0x0, 0x0, 0x0, 0x0, 0x0, true⟩,
  ⟨0x1090, 4, 256, true, 0x0, 0x0, 0x0, 0x0, 0x0, true⟩,
  ⟨0x1098, 4, 256, true, 0x0, 0x0, 0x0, 0x0, 0x0, true⟩,
  ⟨0x10A0, 4, 256, true, 0x0, 0x0, 0x0, 0x0, 0x0, true⟩,
  ⟨0x10A8, 4, 256, true, 0x0, 0x0, 0x0, 0x0, 0x0, true⟩,
  ⟨0x10B0, 4, 256, true, 0x0, 0x0, 0x0, 0x0, 0x0, true⟩,
  ⟨0x10B8, 4, 256, true, 0x0, 0x0, 0x0, 0x0, 0x0, true⟩,
  ⟨0x10C0, 4, 256, true, 0x0, 0x0, 0x0, 0x0, 0x0, true⟩]

/-- The registers of a SHP_ block. -/
def shpRows : List RegRow := [
  ⟨0x0, 3, 16, true, 0x0, 0x0, 0x0, 0x0, 0x0, false⟩,
  ⟨0x8, 3, 16, true, 0x0, 0x0, 0x0, 0x0, 0x0, false⟩,
  ⟨0x100, 1, 0, true, 0x0, 0x0, 0x0, 0x0, 0x0, true⟩,
  ⟨0x108, 1, 0, true, 0x0, 0x0, 0x0, 0x0, 0x0, true⟩,
  ⟨0x110, 1, 0, true, 0x0, 0x0, 0x0, 0x0, 0x0, true⟩]

/-- The registers of a HST_ block. -/
def hstRows : List RegRow := [
  ⟨0x0, 1, 0, false, 0x0, 0x0, 0x0, 0x0, 0x0, false⟩,
  ⟨0x8, 1, 0, true, 0xFFFFFF, 0x0, 0x0, 0x0, 0x0, false⟩,
  ⟨0x10, 2, 8, false, 0x8003FFFF, 0x0, 0x0, 0x0, 0x0, false⟩,
  ⟨0x100, 8, 32, true, 0xFFFFFFFFFFFFF000, 0x0, 0x0, 0x0, 0x0, false⟩,
  ⟨0x108, 8, 32, false, 0x8000001F, 0x0, 0x0, 0x0, 0x6, false⟩,
  ⟨0x110, 8, 32, false, 0x0, 0x0, 0x0, 0x0, 0x0, false⟩,
  ⟨0x200, 1, 0, true, 0xFFFFFFFFFFFFF000, 0x0, 0x0, 0x0, 0x0, false⟩,
  ⟨0x208, 1, 0, true, 0xFFFFFFFFFFFFFFF8, 0x0, 0x0, 0x0, 0x0, false⟩,
  ⟨0x210, 1, 0, false, 0x8000001F, 0x0, 0x0, 0x0, 0x4, false⟩,
  ⟨0x218, 1, 0, false, 0x0, 0x0, 0x0, 0x0, 0x0, false⟩,
  ⟨0x220, 1, 0, false, 0x0, 0x2, 0x0, 0x0, 0x0, false⟩,
  ⟨0x300, 1, 0, true, 0xFFFFFFFFFFFFF000, 0x0, 0x0, 0x0, 0x0, false⟩,
  ⟨0x308, 1, 0, false, 0x80FFFF0F, 0x0, 0x0, 0x0, 0x2, false⟩,
  ⟨0xF00, 1, 0, true, 0x0, 0x0, 0x0, 0x0, 0x0, true⟩,
  ⟨0xF08, 1, 0, true, 0x0, 0x0, 0x0, 0x0, 0x0, true⟩,
  ⟨0xF10, 1, 0, true, 0x0, 0x0, 0x0, 0x0, 0x0, true⟩,
  ⟨0xF18, 1, 0, true, 0x0, 0x0, 0x0, 0x0, 0x0, true⟩,
  ⟨0xF20, 1, 0, true, 0x0, 0x0, 0x0, 0x0, 0x0, true⟩,
  ⟨0xF28, 1, 0, true, 0x0, 0x0, 0x0, 0x0, 0x0, true⟩]

/-- The registers of a compute-die PWR_ and THM_ monitor block. -/
def dmonRows : List RegRow := [
  ⟨0x8, 1, 0, true, 0x0, 0x0, 0x0, 0x0, 0x0, false⟩,
  ⟨0x10, 1, 0, true, 0x0, 0x0, 0x0, 0x0, 0x0, false⟩,
  ⟨0x40, 2, 4, false, 0x0, 0x0, 0x0, 0x0, 0x0, false⟩,
  ⟨0x100, 1, 0, true, 0x0, 0x0, 0x0, 0x0, 0x0, true⟩,
  ⟨0x108, 1, 0, true, 0x0, 0x0, 0x0, 0x0, 0x0, true⟩,
  ⟨0x110, 1, 0, true, 0x0, 0x0, 0x0, 0x0, 0x0, true⟩,
  ⟨0x118, 1, 0, true, 0x0, 0x0, 0x0, 0x0, 0x0, true⟩,
  ⟨0x200, 1, 0, false, 0x0, 0x0, 0x0, 0x0, 0x0, false⟩,
  ⟨0x208, 1, 0, true, 0x0, 0x0, 0x0, 0x0, 0x0, true⟩]

/-- The registers of a PWR_ block. -/
def pwrRows : List RegRow := [
  ⟨0x0, 1, 0, true, 0x0, 0x0, 0x0, 0x0, 0x8CA0000000444000, false⟩,
  ⟨0x8, 1, 0, false, 0xFFFF, 0x0, 0x0, 0x0, 0x8CA0, false⟩,
  ⟨0xC, 1, 0, false, 0x3, 0x0, 0x0, 0x0, 0x0, false⟩,
  ⟨0x10, 1, 0, true, 0x0, 0x0, 0x0, 0x0, 0x0, false⟩,
  ⟨0x18, 1, 0, false, 0x0, 0x0, 0x0, 0x0, 0x0, false⟩,
  ⟨0x20, 1, 0, true, 0x0, 0x0, 0x0, 0x0, 0x0, false⟩,
  ⟨0x100, 7, 8, true, 0x0, 0x0, 0x0, 0x0, 0x0, false⟩,
  ⟨0x200, 4, 128, true, 0x0, 0x0, 0x0, 0x0, 0x0, false⟩,
  ⟨0x208, 4, 128, true, 0x0, 0x0, 0x0, 0x0, 0x0, false⟩,
  ⟨0x210, 4, 128, false, 0x0, 0x0, 0x0, 0xFFFFFFFF, 0x0, false⟩,
  ⟨0x218, 4, 128, true, 0x0, 0x0, 0x0, 0x0, 0x0, false⟩,
  ⟨0x220, 4, 128, false, 0x0, 0x0, 0x0, 0x0, 0x0, false⟩,
  ⟨0x240, 4, 128, true, 0x0, 0x0, 0x0, 0x0, 0x0, false⟩,
  ⟨0x248, 4, 128, true, 0x0, 0x0, 0x0, 0x0, 0x0, false⟩,
  ⟨0x250, 4, 128, true, 0x0, 0x0, 0x0, 0x0, 0x0, false⟩,
  ⟨0x258, 4, 128, true, 0x0, 0x0, 0x0, 0x0, 0x0, false⟩,
  ⟨0x260, 4, 128, true, 0x0, 0x0, 0x0, 0x0, 0x0, false⟩,
  ⟨0x268, 4, 128, true, 0x0, 0x0, 0x0, 0x0, 0x0, false⟩,
  ⟨0x270, 4, 128, true, 0x0, 0x0, 0x0, 0x0, 0x0, false⟩,
  ⟨0x278, 4, 128, true, 0x0, 0x0, 0x0, 0x0, 0x0, false⟩,
  ⟨0x400, 1, 0, true, 0x0, 0x0, 0x0, 0x0, 0x0, false⟩,
  ⟨0x500, 1, 0, true, 0x0, 0x0, 0x0, 0x0, 0x0, true⟩,
  ⟨0x508, 1, 0, true, 0x0, 0x0, 0x0, 0x0, 0x0, true⟩,
  ⟨0x510, 1, 0, true, 0x0, 0x0, 0x0, 0x0, 0x0, true⟩,
  ⟨0x518, 1, 0, true, 0x0, 0x0, 0x0, 0x0, 0x0, true⟩,
  ⟨0x520, 1, 0, true, 0x0, 0x0, 0x0, 0x0, 0x0, true⟩,
  ⟨0x528, 1, 0, true, 0x0, 0x0, 0x0, 0x0, 0x0, true⟩,
  ⟨0x530, 1, 0, true, 0x0, 0x0, 0x0, 0x0, 0x0, true⟩]

/-- The registers of a THM_ block. -/
def thmRows : List RegRow := [
  ⟨0x0, 1, 0, true, 0x0, 0x0, 0x0, 0x0, 0x0, false⟩,
  ⟨0x8, 1, 0, false, 0xFF, 0x0, 0x0, 0x0, 0x5, false⟩,
  ⟨0x10, 1, 0, true, 0x0, 0x0, 0x0, 0x0, 0xFFFF00000000, false⟩,
  ⟨0x18, 1, 0, false, 0x0, 0x0, 0x0, 0x0, 0x0, false⟩,
  ⟨0x100, 1, 0, true, 0x0, 0x0, 0x0, 0x0, 0x0, true⟩]

/-- The registers of a SEC_ block. -/
def secRows : List RegRow := [
  ⟨0x0, 1, 0, false, 0x0, 0x0, 0x0, 0x0, 0x0, false⟩,
  ⟨0x8, 1, 0, false, 0x0, 0x0, 0x0, 0x0, 0x0, false⟩,
  ⟨0x10, 1, 0, true, 0x0, 0x0, 0x0, 0x0, 0x0, false⟩,
  ⟨0x18, 1, 0, false, 0x0, 0x0, 0x0, 0x3, 0x0, false⟩,
  ⟨0x20, 1, 0, true, 0xFFFFFFFFFFFFF000, 0x0, 0x0, 0x0, 0x0, false⟩,
  ⟨0x28, 1, 0, false, 0xFFFFFFFF, 0x0, 0x0, 0x0, 0x0, false⟩,
  ⟨0x2C, 1, 0, false, 0x0, 0x0, 0x0, 0x1, 0x0, false⟩,
  ⟨0x30, 1, 0, false, 0x0, 0x0, 0x0, 0x0, 0x0, false⟩,
  ⟨0x40, 1, 0, false, 0x0, 0x0, 0xF0, 0x0, 0x0, false⟩,
  ⟨0x100, 4, 64, true, 0x0, 0x0, 0x0, 0x0, 0x0, false⟩,
  ⟨0x108, 4, 64, true, 0x0, 0x0, 0x0, 0x0, 0x0, false⟩,
  ⟨0x110, 4, 64, true, 0x0, 0x0, 0x0, 0x0, 0x0, false⟩,
  ⟨0x118, 4, 64, true, 0x0, 0x0, 0x0, 0x0, 0x0, false⟩,
  ⟨0x200, 1, 0, false, 0x0, 0x0, 0x0, 0x0, 0x0, false⟩,
  ⟨0x300, 1, 0, false, 0xFFFF0000, 0x0, 0x0, 0x0, 0x0, false⟩,
  ⟨0x308, 1, 0, false, 0x0, 0x0, 0x0, 0x0, 0x0, false⟩,
  ⟨0xF00, 4, 8, true, 0x0, 0x0, 0x0, 0x0, 0x0, true⟩,
  ⟨0xF20, 1, 0, true, 0x0, 0x0, 0x0, 0x0, 0x0, true⟩]

/-! The panel address of each register. -/

/-- PM_ID -/
def pmIdAt : Nat := pmBlk + 0x0
/-- PM_OP_STAT -/
def pmOpStatAt : Nat := pmBlk + 0x100
/-- PM_OP_AT -/
def pmOpAtAt : Nat := pmBlk + 0x108
/-- PM_GLINT_CTL -/
def pmGlintCtlAt : Nat := pmBlk + 0x200
/-- PM_GLINT_STAT -/
def pmGlintStatAt : Nat := pmBlk + 0x208
/-- PM_FAB_SUSP -/
def pmFabSuspAt : Nat := pmBlk + 0x210
/-- PM_ADMIT_LAST -/
def pmAdmitLastAt : Nat := pmBlk + 0x220
/-- PM_INTEG_STAT -/
def pmIntegStatAt : Nat := pmBlk + 0x230
/-- PM_REPLAY_LAST -/
def pmReplayLastAt : Nat := pmBlk + 0x238
/-- PM_XPANEL -/
def pmXpanelAt : Nat := pmBlk + 0x250
/-- PM_XTIME_CTL -/
def pmXtimeCtlAt : Nat := pmBlk + 0x258
/-- PM_XTIME_STAT -/
def pmXtimeStatAt : Nat := pmBlk + 0x260
/-- PM_BOOT_STAT -/
def pmBootStatAt : Nat := pmBlk + 0x280
/-- PM_SVC_STAT -/
def pmSvcStatAt : Nat := pmBlk + 0x288
/-- PM_SVC_CTL -/
def pmSvcCtlAt : Nat := pmBlk + 0x290
/-- PM_DMAP_GEN -/
def pmDmapGenAt : Nat := pmBlk + 0x298
/-- PM_PSTATE -/
def pmPstateAt : Nat := pmBlk + 0x2A0
/-- PM_RESET_STAT -/
def pmResetStatAt : Nat := pmBlk + 0x2A8
/-- PM_MAINT_STAT -/
def pmMaintStatAt : Nat := pmBlk + 0x2B0
/-- PM_MAINT_LAST -/
def pmMaintLastAt : Nat := pmBlk + 0x2B8
/-- PM_MAINT_LAST_ID -/
def pmMaintLastIdAt : Nat := pmBlk + 0x2C0
/-- PM_FAB_SUSP_CNT -/
def pmFabSuspCntAt : Nat := pmBlk + 0x300
/-- PM_GLINT_MISS_CNT -/
def pmGlintMissCntAt : Nat := pmBlk + 0x308
/-- PM_HOLD_CNT -/
def pmHoldCntAt (i : Nat) : Nat := pmBlk + 0x400 + 64 * i
/-- PM_HOLD_FRAME_CNT -/
def pmHoldFrameCntAt (i : Nat) : Nat := pmBlk + 0x408 + 64 * i
/-- PM_REPLAY_RUN_CNT -/
def pmReplayRunCntAt (i : Nat) : Nat := pmBlk + 0x410 + 64 * i
/-- PM_REPLAY_AGREE_CNT -/
def pmReplayAgreeCntAt (i : Nat) : Nat := pmBlk + 0x418 + 64 * i
/-- PM_REPLAY_CORR_CNT -/
def pmReplayCorrCntAt (i : Nat) : Nat := pmBlk + 0x420 + 64 * i
/-- PM_REPLAY_UNRES_CNT -/
def pmReplayUnresCntAt (i : Nat) : Nat := pmBlk + 0x428 + 64 * i
/-- PM_IGNORE_CNT -/
def pmIgnoreCntAt (i : Nat) : Nat := pmBlk + 0x430 + 64 * i
/-- PM_HALT_CNT -/
def pmHaltCntAt (i : Nat) : Nat := pmBlk + 0x438 + 64 * i
/-- PM_ECLIPSE_CNT -/
def pmEclipseCntAt (i : Nat) : Nat := pmBlk + 0x500 + 64 * i
/-- PM_COMPAT_RST_CNT -/
def pmCompatRstCntAt (i : Nat) : Nat := pmBlk + 0x508 + 64 * i
/-- PM_PSTATE_CNT -/
def pmPstateCntAt (i : Nat) : Nat := pmBlk + 0x510 + 64 * i
/-- PM_WARM_RST_CNT -/
def pmWarmRstCntAt : Nat := pmBlk + 0x600
/-- PM_MAINT_GRANT_CNT -/
def pmMaintGrantCntAt : Nat := pmBlk + 0x608
/-- PM_MAINT_CONFLICT_CNT -/
def pmMaintConflictCntAt : Nat := pmBlk + 0x610
/-- PM_EQX_CNT -/
def pmEqxCntAt : Nat := pmBlk + 0x618
/-- PM_SPARE_STATUS -/
def pmSpareStatusAt (i : Nat) : Nat := pmBlk + 0x700 + 8 * i
/-- PM_FAILOVER_STAT -/
def pmFailoverStatAt : Nat := pmBlk + 0x780
/-- PM_SPARE_IN_CNT -/
def pmSpareInCntAt : Nat := pmBlk + 0x800
/-- PM_SPARE_ABORT_CNT -/
def pmSpareAbortCntAt : Nat := pmBlk + 0x808
/-- PM_VACANT_CNT -/
def pmVacantCntAt : Nat := pmBlk + 0x810
/-- PM_TAKEOVER_CNT -/
def pmTakeoverCntAt : Nat := pmBlk + 0x818
/-- PM_HB_MISS_CNT -/
def pmHbMissCntAt : Nat := pmBlk + 0x820
/-- PM_STACK_WD_CNT -/
def pmStackWdCntAt : Nat := pmBlk + 0x828
/-- GT_NSEC -/
def gtNsecAt (b : Nat) : Nat := b + 0x0
/-- GT_SEC_LO -/
def gtSecLoAt (b : Nat) : Nat := b + 0x4
/-- GT_SEC_HI -/
def gtSecHiAt (b : Nat) : Nat := b + 0x8
/-- GT_SET_NSEC -/
def gtSetNsecAt (b : Nat) : Nat := b + 0x10
/-- GT_SET_SEC_LO -/
def gtSetSecLoAt (b : Nat) : Nat := b + 0x14
/-- GT_SET_SEC_HI -/
def gtSetSecHiAt (b : Nat) : Nat := b + 0x18
/-- GT_SET_CMD -/
def gtSetCmdAt (b : Nat) : Nat := b + 0x1C
/-- GT_SET_STAT -/
def gtSetStatAt (b : Nat) : Nat := b + 0x20
/-- GT_SET_WHY -/
def gtSetWhyAt (b : Nat) : Nat := b + 0x24
/-- GT_PPS_CTL -/
def gtPpsCtlAt (b : Nat) : Nat := b + 0x28
/-- GT_PPS_OFS -/
def gtPpsOfsAt (b : Nat) : Nat := b + 0x30
/-- GT_STAT -/
def gtStatAt (b : Nat) : Nat := b + 0x38
/-- GT_TICK -/
def gtTickAt (b : Nat) : Nat := b + 0x40
/-- GT_FRAME -/
def gtFrameAt (b : Nat) : Nat := b + 0x48
/-- GT_BEACON_MISS_CNT -/
def gtBeaconMissCntAt (b : Nat) : Nat := b + 0x100
/-- GT_PPS_MISS_CNT -/
def gtPpsMissCntAt (b : Nat) : Nat := b + 0x108
/-- UNIT_TAU -/
def unitTauAt (u : Nat) : Nat := unitBlk u + 0x200
/-- UNIT_SR_SEED -/
def unitSrSeedAt (u : Nat) : Nat := unitBlk u + 0x208
/-- UNIT_SR_ORD -/
def unitSrOrdAt (u : Nat) : Nat := unitBlk u + 0x210
/-- UNIT_CSUM_LAST -/
def unitCsumLastAt (u : Nat) : Nat := unitBlk u + 0x218
/-- UNIT_CSUM_FAIL_CNT -/
def unitCsumFailCntAt (u : Nat) : Nat := unitBlk u + 0x300
/-- UNIT_CSUM_SKIP_CNT -/
def unitCsumSkipCntAt (u : Nat) : Nat := unitBlk u + 0x308
/-- UNIT_CVT_SAT_CNT -/
def unitCvtSatCntAt (u : Nat) : Nat := unitBlk u + 0x310
/-- UNIT_CVT_NAN_CNT -/
def unitCvtNanCntAt (u : Nat) : Nat := unitBlk u + 0x318
/-- UNIT_VCMP_FAIL_CNT -/
def unitVcmpFailCntAt (u : Nat) : Nat := unitBlk u + 0x320
/-- UNIT_VOP_PORT_WAIT_CNT -/
def unitVopPortWaitCntAt (u : Nat) : Nat := unitBlk u + 0x328
/-- UNIT_SPAD_MISALIGN_CNT -/
def unitSpadMisalignCntAt (u : Nat) : Nat := unitBlk u + 0x330
/-- UNIT_SPAD_REGION_DROP_CNT -/
def unitSpadRegionDropCntAt (u : Nat) : Nat := unitBlk u + 0x338
/-- UNIT_TAG_WAIT_CNT -/
def unitTagWaitCntAt (u : Nat) : Nat := unitBlk u + 0x340
/-- UNIT_TAG_OVERWRITE_CNT -/
def unitTagOverwriteCntAt (u : Nat) : Nat := unitBlk u + 0x348
/-- UNIT_SPAD_CLEAR_CNT -/
def unitSpadClearCntAt (u : Nat) : Nat := unitBlk u + 0x350
/-- UNIT_LAND_CHECK_CNT -/
def unitLandCheckCntAt (u : Nat) : Nat := unitBlk u + 0x358
/-- UNIT_SHADOW_SLOT_CNT -/
def unitShadowSlotCntAt (u : Nat) : Nat := unitBlk u + 0x360
/-- UNIT_SHADOW_LAG_CNT -/
def unitShadowLagCntAt (u : Nat) : Nat := unitBlk u + 0x368
/-- UNIT_SPAD_STAT -/
def unitSpadStatAt (u : Nat) : Nat := unitBlk u + 0x400
/-- UNIT_SPAD_DIV -/
def unitSpadDivAt (u i : Nat) : Nat := unitBlk u + 0x410 + 4 * i
/-- UNIT_SPAD_LAST_DROP -/
def unitSpadLastDropAt (u : Nat) : Nat := unitBlk u + 0x438
/-- UNIT_SHADOW_STAT -/
def unitShadowStatAt (u : Nat) : Nat := unitBlk u + 0x500
/-- UNIT_SPAD_TAG -/
def unitSpadTagAt (u i : Nat) : Nat := unitBlk u + 0x800 + 8 * i
/-- SEQ_STAT -/
def seqStatAt (c : Nat) : Nat := seqBlk c + 0x0
/-- SEQ_SLACK -/
def seqSlackAt (c : Nat) : Nat := seqBlk c + 0x8
/-- SEQ_FRAME_USE -/
def seqFrameUseAt (c : Nat) : Nat := seqBlk c + 0x10
/-- SEQ_IMAGE -/
def seqImageAt (c : Nat) : Nat := seqBlk c + 0x18
/-- SEQ_GRP_CNT -/
def seqGrpCntAt (c i : Nat) : Nat := seqBlk c + 0x100 + 4 * i
/-- SEQ_GRP_FLAGS -/
def seqGrpFlagsAt (c : Nat) : Nat := seqBlk c + 0x140
/-- SEQ_DESC_ERR -/
def seqDescErrAt (c : Nat) : Nat := seqBlk c + 0x150
/-- SEQ_TRAP -/
def seqTrapAt (c : Nat) : Nat := seqBlk c + 0x158
/-- SEQ_CWMAP -/
def seqCwmapAt (c i : Nat) : Nat := seqBlk c + 0x160 + 4 * i
/-- SEQ_COMMIT_LAST -/
def seqCommitLastAt (c : Nat) : Nat := seqBlk c + 0x170
/-- SEQ_QLAST -/
def seqQlastAt (c : Nat) : Nat := seqBlk c + 0x180
/-- SEQ_POISON_GRP -/
def seqPoisonGrpAt (c : Nat) : Nat := seqBlk c + 0x190
/-- SEQ_BOOT -/
def seqBootAt (c : Nat) : Nat := seqBlk c + 0x1A0
/-- SEQ_OVERRUN_CNT -/
def seqOverrunCntAt (c : Nat) : Nat := seqBlk c + 0x200
/-- SEQ_FRAME_SKIP_CNT -/
def seqFrameSkipCntAt (c : Nat) : Nat := seqBlk c + 0x208
/-- SEQ_ABANDON_CNT -/
def seqAbandonCntAt (c : Nat) : Nat := seqBlk c + 0x210
/-- SEQ_DESC_ERR_CNT -/
def seqDescErrCntAt (c : Nat) : Nat := seqBlk c + 0x218
/-- SEQ_TRAP_CNT -/
def seqTrapCntAt (c : Nat) : Nat := seqBlk c + 0x220
/-- SEQ_SUSPECT_CNT -/
def seqSuspectCntAt (c : Nat) : Nat := seqBlk c + 0x228
/-- SEQ_COMMIT_CNT -/
def seqCommitCntAt (c : Nat) : Nat := seqBlk c + 0x230
/-- SEQ_COMMIT_MISMATCH_CNT -/
def seqCommitMismatchCntAt (c : Nat) : Nat := seqBlk c + 0x238
/-- SEQ_COMMIT_HOLD_CNT -/
def seqCommitHoldCntAt (c : Nat) : Nat := seqBlk c + 0x240
/-- SEQ_HSLOT_OVER_CNT -/
def seqHslotOverCntAt (c : Nat) : Nat := seqBlk c + 0x248
/-- SEQ_HANDLER_CNT -/
def seqHandlerCntAt (c : Nat) : Nat := seqBlk c + 0x250
/-- SEQ_DQ_FULL_CNT -/
def seqDqFullCntAt (c : Nat) : Nat := seqBlk c + 0x258
/-- SE_STAT -/
def seStatAt (c : Nat) : Nat := seBlk c + 0x0
/-- SE_INFLIGHT_FULL_CNT -/
def seInflightFullCntAt (c : Nat) : Nat := seBlk c + 0x100
/-- SE_WR_FULL_CNT -/
def seWrFullCntAt (c : Nat) : Nat := seBlk c + 0x108
/-- SE_POISON_CNT -/
def sePoisonCntAt (c : Nat) : Nat := seBlk c + 0x110
/-- SE_CREDIT_WAIT_CNT -/
def seCreditWaitCntAt (c : Nat) : Nat := seBlk c + 0x118
/-- SE_CHECK_RETRY_CNT -/
def seCheckRetryCntAt (c : Nat) : Nat := seBlk c + 0x120
/-- SE_XTIMEOUT_CNT -/
def seXtimeoutCntAt (c : Nat) : Nat := seBlk c + 0x128
/-- SE_XLATE_CNT -/
def seXlateCntAt (c : Nat) : Nat := seBlk c + 0x130
/-- SE_ABSORB_CNT -/
def seAbsorbCntAt (c : Nat) : Nat := seBlk c + 0x138
/-- QUE_DESC -/
def queDescAt (c i : Nat) : Nat := queBlk c + 0x0 + 8 * i
/-- QUE_QSTAT -/
def queQstatAt (c i : Nat) : Nat := queBlk c + 0x200 + 4 * i
/-- QUE_GEN -/
def queGenAt (c : Nat) : Nat := queBlk c + 0x300
/-- QUE_MSG_CNT -/
def queMsgCntAt (c : Nat) : Nat := queBlk c + 0x400
/-- QUE_POISON_CNT -/
def quePoisonCntAt (c : Nat) : Nat := queBlk c + 0x408
/-- QUE_BAD_LAND_CNT -/
def queBadLandCntAt (c : Nat) : Nat := queBlk c + 0x410
/-- QUE_INCOMPLETE_CNT -/
def queIncompleteCntAt (c : Nat) : Nat := queBlk c + 0x418
/-- QUE_ORDER_HOLD_CNT -/
def queOrderHoldCntAt (c : Nat) : Nat := queBlk c + 0x420
/-- MR_STAT -/
def mrStatAt (n : Nat) : Nat := mrBlk n + 0x0
/-- MR_TEMP -/
def mrTempAt (n : Nat) : Nat := mrBlk n + 0x8
/-- MR_SCRUB_CTL -/
def mrScrubCtlAt (n : Nat) : Nat := mrBlk n + 0x10
/-- MR_SCRUB_STAT -/
def mrScrubStatAt (n : Nat) : Nat := mrBlk n + 0x18
/-- MR_ERR_LOG -/
def mrErrLogAt (n : Nat) : Nat := mrBlk n + 0x20
/-- MR_RED_STAT -/
def mrRedStatAt (n : Nat) : Nat := mrBlk n + 0x28
/-- MR_RED_POISON_LOG -/
def mrRedPoisonLogAt (n : Nat) : Nat := mrBlk n + 0x30
/-- MR_MERGE_HIT_CNT -/
def mrMergeHitCntAt (n : Nat) : Nat := mrBlk n + 0x100
/-- MR_MERGE_FULL_CNT -/
def mrMergeFullCntAt (n : Nat) : Nat := mrBlk n + 0x108
/-- MR_MERGE_LIMIT_CNT -/
def mrMergeLimitCntAt (n : Nat) : Nat := mrBlk n + 0x110
/-- MR_WR_CHECK_BAD_CNT -/
def mrWrCheckBadCntAt (n : Nat) : Nat := mrBlk n + 0x118
/-- MR_CHECK_REREAD_CNT -/
def mrCheckRereadCntAt (n : Nat) : Nat := mrBlk n + 0x120
/-- MR_CHECK_UNCORR_CNT -/
def mrCheckUncorrCntAt (n : Nat) : Nat := mrBlk n + 0x128
/-- MR_ECC_CE_CNT -/
def mrEccCeCntAt (n : Nat) : Nat := mrBlk n + 0x130
/-- MR_ECC_UE_CNT -/
def mrEccUeCntAt (n : Nat) : Nat := mrBlk n + 0x138
/-- MR_SCRUB_UNCORR_CNT -/
def mrScrubUncorrCntAt (n : Nat) : Nat := mrBlk n + 0x140
/-- MR_MIRROR_FIX_CNT -/
def mrMirrorFixCntAt (n : Nat) : Nat := mrBlk n + 0x148
/-- MR_PPR_CNT -/
def mrPprCntAt (n : Nat) : Nat := mrBlk n + 0x150
/-- MR_PPR_EXHAUST_CNT -/
def mrPprExhaustCntAt (n : Nat) : Nat := mrBlk n + 0x158
/-- MR_DIR_RECALL_CNT -/
def mrDirRecallCntAt (n : Nat) : Nat := mrBlk n + 0x160
/-- MR_PUTM_STALE_CNT -/
def mrPutmStaleCntAt (n : Nat) : Nat := mrBlk n + 0x168
/-- MR_COH_PEND_CNT -/
def mrCohPendCntAt (n : Nat) : Nat := mrBlk n + 0x170
/-- MR_RED_ROW_CNT -/
def mrRedRowCntAt (n : Nat) : Nat := mrBlk n + 0x178
/-- MR_RED_SAT_CNT -/
def mrRedSatCntAt (n : Nat) : Nat := mrBlk n + 0x180
/-- MR_RED_INEXACT_CNT -/
def mrRedInexactCntAt (n : Nat) : Nat := mrBlk n + 0x188
/-- MR_RED_UFLOW_CNT -/
def mrRedUflowCntAt (n : Nat) : Nat := mrBlk n + 0x190
/-- MR_RED_NONFIN_CNT -/
def mrRedNonfinCntAt (n : Nat) : Nat := mrBlk n + 0x198
/-- MR_RED_IN_POISON_CNT -/
def mrRedInPoisonCntAt (n : Nat) : Nat := mrBlk n + 0x1A0
/-- MR_RED_REC_POISON_CNT -/
def mrRedRecPoisonCntAt (n : Nat) : Nat := mrBlk n + 0x1A8
/-- MR_RED_RB_OVF_CNT -/
def mrRedRbOvfCntAt (n : Nat) : Nat := mrBlk n + 0x1B0
/-- MR_RED_NACK_CNT -/
def mrRedNackCntAt (n : Nat) : Nat := mrBlk n + 0x1B8
/-- MR_HPPR_CNT -/
def mrHpprCntAt (n : Nat) : Nat := mrBlk n + 0x1C0
/-- MR_MIRROR_SOLO_CNT -/
def mrMirrorSoloCntAt (n : Nat) : Nat := mrBlk n + 0x1C8
/-- MR_THM_TRIP_CNT -/
def mrThmTripCntAt (n : Nat) : Nat := mrBlk n + 0x1D0
/-- QC_SS_ADDR -/
def qcSsAddrAt (q : Nat) : Nat := qcBlk q + 0x100
/-- QC_SS_LEN -/
def qcSsLenAt (q : Nat) : Nat := qcBlk q + 0x108
/-- QC_SS_CMD -/
def qcSsCmdAt (q : Nat) : Nat := qcBlk q + 0x10C
/-- QC_SS_STAT -/
def qcSsStatAt (q : Nat) : Nat := qcBlk q + 0x110
/-- QC_SS_APPLY -/
def qcSsApplyAt (q : Nat) : Nat := qcBlk q + 0x118
/-- QC_SS_SERIAL -/
def qcSsSerialAt (q : Nat) : Nat := qcBlk q + 0x120
/-- QC_XDEST -/
def qcXdestAt (q i : Nat) : Nat := qcBlk q + 0x400 + 4 * i
/-- QC_XACCEPT -/
def qcXacceptAt (q i : Nat) : Nat := qcBlk q + 0x600 + 4 * i
/-- QC_XTIMEOUT -/
def qcXtimeoutAt (q : Nat) : Nat := qcBlk q + 0x680
/-- QC_PM_STAT -/
def qcPmStatAt (q : Nat) : Nat := qcBlk q + 0x700
/-- QC_UNASSIGNED_CNT -/
def qcUnassignedCntAt (q : Nat) : Nat := qcBlk q + 0xF00
/-- QC_SS_LOAD_CNT -/
def qcSsLoadCntAt (q : Nat) : Nat := qcBlk q + 0xF08
/-- QC_SS_REFUSE_CNT -/
def qcSsRefuseCntAt (q : Nat) : Nat := qcBlk q + 0xF10
/-- QC_SS_APPLY_CNT -/
def qcSsApplyCntAt (q : Nat) : Nat := qcBlk q + 0xF18
/-- QC_XFILTER_CNT -/
def qcXfilterCntAt (q : Nat) : Nat := qcBlk q + 0xF20
/-- QC_XECLIPSED_CNT -/
def qcXeclipsedCntAt (q : Nat) : Nat := qcBlk q + 0xF28
/-- QC_XLOSS_FENCE_CNT -/
def qcXlossFenceCntAt (q : Nat) : Nat := qcBlk q + 0xF30
/-- QC_PM_LOST_CNT -/
def qcPmLostCntAt (q : Nat) : Nat := qcBlk q + 0xF38
/-- QC_XRED_NACK_CNT -/
def qcXredNackCntAt (q : Nat) : Nat := qcBlk q + 0xF40
/-- RTR_STAT -/
def rtrStatAt (r : Nat) : Nat := rtrBlk r + 0x0
/-- RTR_PORT -/
def rtrPortAt (r i : Nat) : Nat := rtrBlk r + 0x10 + 4 * i
/-- RTR_FW_LAST -/
def rtrFwLastAt (r : Nat) : Nat := rtrBlk r + 0x40
/-- RTR_CMAP_FRAME -/
def rtrCmapFrameAt (r : Nat) : Nat := rtrBlk r + 0x78
/-- RTR_CMAP -/
def rtrCmapAt (r i : Nat) : Nat := rtrBlk r + 0x80 + 4 * i
/-- RTR_DEFL_CNT -/
def rtrDeflCntAt (r : Nat) : Nat := rtrBlk r + 0x100
/-- RTR_SCHED_DEFL_CNT -/
def rtrSchedDeflCntAt (r : Nat) : Nat := rtrBlk r + 0x108
/-- RTR_EJ_DEFL_CNT -/
def rtrEjDeflCntAt (r : Nat) : Nat := rtrBlk r + 0x110
/-- RTR_PARK_CNT -/
def rtrParkCntAt (r : Nat) : Nat := rtrBlk r + 0x118
/-- RTR_INJ_WAIT_CNT -/
def rtrInjWaitCntAt (r : Nat) : Nat := rtrBlk r + 0x120
/-- RTR_HDR_ERR_CNT -/
def rtrHdrErrCntAt (r : Nat) : Nat := rtrBlk r + 0x128
/-- RTR_FW_DROP_CNT -/
def rtrFwDropCntAt (r : Nat) : Nat := rtrBlk r + 0x130
/-- RTR_SCHED_LATE_CNT -/
def rtrSchedLateCntAt (r : Nat) : Nat := rtrBlk r + 0x138
/-- RTR_DEFL_OVER_CNT -/
def rtrDeflOverCntAt (r : Nat) : Nat := rtrBlk r + 0x140
/-- RTR_OLD_CNT -/
def rtrOldCntAt (r : Nat) : Nat := rtrBlk r + 0x148
/-- RTR_LANE_SWAP_CNT -/
def rtrLaneSwapCntAt (r : Nat) : Nat := rtrBlk r + 0x150
/-- RTR_PEN_CNT -/
def rtrPenCntAt (r : Nat) : Nat := rtrBlk r + 0x158
/-- RTR_LINK_DOWN_CNT -/
def rtrLinkDownCntAt (r : Nat) : Nat := rtrBlk r + 0x160
/-- RTR_XP_STAT -/
def rtrXpStatAt (r i : Nat) : Nat := rtrBlk r + 0x1000 + 256 * i
/-- RTR_XP_PARTNER -/
def rtrXpPartnerAt (r i : Nat) : Nat := rtrBlk r + 0x1008 + 256 * i
/-- RTR_XP_FEC_CE_CNT -/
def rtrXpFecCeCntAt (r i : Nat) : Nat := rtrBlk r + 0x1080 + 256 * i
/-- RTR_XP_FEC_UE_CNT -/
def rtrXpFecUeCntAt (r i : Nat) : Nat := rtrBlk r + 0x1088 + 256 * i
/-- RTR_XP_NAK_CNT -/
def rtrXpNakCntAt (r i : Nat) : Nat := rtrBlk r + 0x1090 + 256 * i
/-- RTR_XP_REPLAY_CNT -/
def rtrXpReplayCntAt (r i : Nat) : Nat := rtrBlk r + 0x1098 + 256 * i
/-- RTR_XP_RETRAIN_CNT -/
def rtrXpRetrainCntAt (r i : Nat) : Nat := rtrBlk r + 0x10A0 + 256 * i
/-- RTR_XP_LOST_CNT -/
def rtrXpLostCntAt (r i : Nat) : Nat := rtrBlk r + 0x10A8 + 256 * i
/-- RTR_XP_HALF_CNT -/
def rtrXpHalfCntAt (r i : Nat) : Nat := rtrBlk r + 0x10B0 + 256 * i
/-- RTR_XP_HB_BAD_CNT -/
def rtrXpHbBadCntAt (r i : Nat) : Nat := rtrBlk r + 0x10B8 + 256 * i
/-- RTR_XP_PFX_ERR_CNT -/
def rtrXpPfxErrCntAt (r i : Nat) : Nat := rtrBlk r + 0x10C0 + 256 * i
/-- SHP_CFG -/
def shpCfgAt (c i : Nat) : Nat := shpBlk c + 0x0 + 16 * i
/-- SHP_BAL -/
def shpBalAt (c i : Nat) : Nat := shpBlk c + 0x8 + 16 * i
/-- SHP_WAIT_CNT0 -/
def shpWaitCnt0At (c : Nat) : Nat := shpBlk c + 0x100
/-- SHP_WAIT_CNT1 -/
def shpWaitCnt1At (c : Nat) : Nat := shpBlk c + 0x108
/-- SHP_WAIT_CNT2 -/
def shpWaitCnt2At (c : Nat) : Nat := shpBlk c + 0x110
/-- HST_STAT -/
def hstStatAt (q : Nat) : Nat := hstBlk q + 0x0
/-- HST_AP_BASE -/
def hstApBaseAt (q : Nat) : Nat := hstBlk q + 0x8
/-- HST_RWIN -/
def hstRwinAt (q i : Nat) : Nat := hstBlk q + 0x10 + 8 * i
/-- HST_DMA_BASE -/
def hstDmaBaseAt (q i : Nat) : Nat := hstBlk q + 0x100 + 32 * i
/-- HST_DMA_CTL -/
def hstDmaCtlAt (q i : Nat) : Nat := hstBlk q + 0x108 + 32 * i
/-- HST_DMA_CONS -/
def hstDmaConsAt (q i : Nat) : Nat := hstBlk q + 0x110 + 32 * i
/-- HST_MSG_BASE -/
def hstMsgBaseAt (q : Nat) : Nat := hstBlk q + 0x200
/-- HST_MSG_SHADOW -/
def hstMsgShadowAt (q : Nat) : Nat := hstBlk q + 0x208
/-- HST_MSG_CTL -/
def hstMsgCtlAt (q : Nat) : Nat := hstBlk q + 0x210
/-- HST_MSG_PROD -/
def hstMsgProdAt (q : Nat) : Nat := hstBlk q + 0x218
/-- HST_MB_STAT -/
def hstMbStatAt (q : Nat) : Nat := hstBlk q + 0x220
/-- HST_SNAP_BASE -/
def hstSnapBaseAt (q : Nat) : Nat := hstBlk q + 0x300
/-- HST_SNAP_CTL -/
def hstSnapCtlAt (q : Nat) : Nat := hstBlk q + 0x308
/-- HST_BAD_ACC_CNT -/
def hstBadAccCntAt (q : Nat) : Nat := hstBlk q + 0xF00
/-- HST_RMW_CNT -/
def hstRmwCntAt (q : Nat) : Nat := hstBlk q + 0xF08
/-- HST_DMA_ERR_CNT -/
def hstDmaErrCntAt (q : Nat) : Nat := hstBlk q + 0xF10
/-- HST_MSG_DROP_CNT -/
def hstMsgDropCntAt (q : Nat) : Nat := hstBlk q + 0xF18
/-- HST_MB_BUSY_CNT -/
def hstMbBusyCntAt (q : Nat) : Nat := hstBlk q + 0xF20
/-- HST_SNAP_SKIP_CNT -/
def hstSnapSkipCntAt (q : Nat) : Nat := hstBlk q + 0xF28
/-- PWR_DIE_EST -/
def pwrDieEstAt (d : Nat) : Nat := dmonBlk d + 0x8
/-- PWR_DIE_FRAME -/
def pwrDieFrameAt (d : Nat) : Nat := dmonBlk d + 0x10
/-- PWR_RGN_STAT -/
def pwrRgnStatAt (d i : Nat) : Nat := dmonBlk d + 0x40 + 4 * i
/-- PWR_HDR_SHORT_CNT -/
def pwrHdrShortCntAt (d : Nat) : Nat := dmonBlk d + 0x100
/-- PWR_HDR_OPEN_CNT -/
def pwrHdrOpenCntAt (d : Nat) : Nat := dmonBlk d + 0x108
/-- PWR_HDR_RETRY_CNT -/
def pwrHdrRetryCntAt (d : Nat) : Nat := dmonBlk d + 0x110
/-- PWR_DROOP_STALL_CNT -/
def pwrDroopStallCntAt (d : Nat) : Nat := dmonBlk d + 0x118
/-- THM_DIE_TEMP -/
def thmDieTempAt (d : Nat) : Nat := dmonBlk d + 0x200
/-- THM_TRIP_CNT -/
def thmTripCntAt (d : Nat) : Nat := dmonBlk d + 0x208
/-- PWR_STAT -/
def pwrStatAt : Nat := pwrBlk + 0x0
/-- PWR_CAP -/
def pwrCapAt : Nat := pwrBlk + 0x8
/-- PWR_GOV_CTL -/
def pwrGovCtlAt : Nat := pwrBlk + 0xC
/-- PWR_FAULT -/
def pwrFaultAt : Nat := pwrBlk + 0x10
/-- PWR_PHASES -/
def pwrPhasesAt : Nat := pwrBlk + 0x18
/-- PWR_PANEL -/
def pwrPanelAt : Nat := pwrBlk + 0x20
/-- PWR_DOM -/
def pwrDomAt (i : Nat) : Nat := pwrBlk + 0x100 + 8 * i
/-- PWR_ENERGY -/
def pwrEnergyAt (i : Nat) : Nat := pwrBlk + 0x200 + 128 * i
/-- PWR_TOKENS -/
def pwrTokensAt (i : Nat) : Nat := pwrBlk + 0x208 + 128 * i
/-- PWR_TOKEN_ADD -/
def pwrTokenAddAt (i : Nat) : Nat := pwrBlk + 0x210 + 128 * i
/-- PWR_TPMWH -/
def pwrTpmwhAt (i : Nat) : Nat := pwrBlk + 0x218 + 128 * i
/-- PWR_JPF -/
def pwrJpfAt (i : Nat) : Nat := pwrBlk + 0x220 + 128 * i
/-- PWR_OPS0 -/
def pwrOps0At (i : Nat) : Nat := pwrBlk + 0x240 + 128 * i
/-- PWR_OPS1 -/
def pwrOps1At (i : Nat) : Nat := pwrBlk + 0x248 + 128 * i
/-- PWR_OPS2 -/
def pwrOps2At (i : Nat) : Nat := pwrBlk + 0x250 + 128 * i
/-- PWR_OPS3 -/
def pwrOps3At (i : Nat) : Nat := pwrBlk + 0x258 + 128 * i
/-- PWR_OPS4 -/
def pwrOps4At (i : Nat) : Nat := pwrBlk + 0x260 + 128 * i
/-- PWR_OPS5 -/
def pwrOps5At (i : Nat) : Nat := pwrBlk + 0x268 + 128 * i
/-- PWR_OPS6 -/
def pwrOps6At (i : Nat) : Nat := pwrBlk + 0x270 + 128 * i
/-- PWR_OPS7 -/
def pwrOps7At (i : Nat) : Nat := pwrBlk + 0x278 + 128 * i
/-- PWR_ENERGY_FREE -/
def pwrEnergyFreeAt : Nat := pwrBlk + 0x400
/-- PWR_FDA_CNT -/
def pwrFdaCntAt : Nat := pwrBlk + 0x500
/-- PWR_FDA_TIME_CNT -/
def pwrFdaTimeCntAt : Nat := pwrBlk + 0x508
/-- PWR_FDA_LONG_CNT -/
def pwrFdaLongCntAt : Nat := pwrBlk + 0x510
/-- PWR_OVERCAP_CNT -/
def pwrOvercapCntAt : Nat := pwrBlk + 0x518
/-- PWR_PREEMPT_CNT -/
def pwrPreemptCntAt : Nat := pwrBlk + 0x520
/-- PWR_GOV_CHANGE_CNT -/
def pwrGovChangeCntAt : Nat := pwrBlk + 0x528
/-- PWR_TELEM_ERR_CNT -/
def pwrTelemErrCntAt : Nat := pwrBlk + 0x530
/-- THM_STAT -/
def thmStatAt : Nat := thmBlk + 0x0
/-- THM_CTL -/
def thmCtlAt : Nat := thmBlk + 0x8
/-- THM_RTH -/
def thmRthAt : Nat := thmBlk + 0x10
/-- THM_COOLANT -/
def thmCoolantAt : Nat := thmBlk + 0x18
/-- THM_INLET_LOST_CNT -/
def thmInletLostCntAt : Nat := thmBlk + 0x100
/-- SEC_STAT -/
def secStatAt : Nat := secBlk + 0x0
/-- SEC_SVN -/
def secSvnAt : Nat := secBlk + 0x8
/-- SEC_SETTINGS -/
def secSettingsAt : Nat := secBlk + 0x10
/-- SEC_SET_CMD -/
def secSetCmdAt : Nat := secBlk + 0x18
/-- SEC_FW_ADDR -/
def secFwAddrAt : Nat := secBlk + 0x20
/-- SEC_FW_LEN -/
def secFwLenAt : Nat := secBlk + 0x28
/-- SEC_FW_CMD -/
def secFwCmdAt : Nat := secBlk + 0x2C
/-- SEC_FW_STAT -/
def secFwStatAt : Nat := secBlk + 0x30
/-- SEC_KEYS -/
def secKeysAt : Nat := secBlk + 0x40
/-- SEC_KSLOT0 -/
def secKslot0At (i : Nat) : Nat := secBlk + 0x100 + 64 * i
/-- SEC_KSLOT1 -/
def secKslot1At (i : Nat) : Nat := secBlk + 0x108 + 64 * i
/-- SEC_KSLOT2 -/
def secKslot2At (i : Nat) : Nat := secBlk + 0x110 + 64 * i
/-- SEC_KSLOT3 -/
def secKslot3At (i : Nat) : Nat := secBlk + 0x118 + 64 * i
/-- SEC_CLEAR_STAT -/
def secClearStatAt : Nat := secBlk + 0x200
/-- SEC_TRACE_CTL -/
def secTraceCtlAt : Nat := secBlk + 0x300
/-- SEC_TRACE_STAT -/
def secTraceStatAt : Nat := secBlk + 0x308
/-- SEC_DBG_ACC_CNT -/
def secDbgAccCntAt (i : Nat) : Nat := secBlk + 0xF00 + 8 * i
/-- SEC_FALLBACK_CNT -/
def secFallbackCntAt : Nat := secBlk + 0xF20

end Sys2Proof.Machine
end

