-- ==== Sys2Proof/Machine/State.lean ====
section
/-! DEFINITION. The state of the LV9-P384: every register, queue, buffer, counter, mode and pin the spec names, as plain
data.  A sparse component is a list of (index, record) pairs; an index that is not listed holds the record's initial
value.  Times of global time are in ns; `fab` counts fabric cycles of 0.5 ns (R60). -/

namespace Sys2Proof.Machine

/-- Reasons the block stops. -/
inductive Fault where
  /-- Raised by no command: every command of this block has an effect the spec gives.  Safe. -/
  | never
  deriving DecidableEq, Repr

/-- Reasons a command has no meaning. -/
inductive Refusal where
  /-- Raised by an arm of `exec` whose command is not modelled yet.  Safe: nothing can be proved of it. -/
  | notModelled (mnemonic : String)
  deriving DecidableEq, Repr

/-- A packet of the fabric (R214, R215): the header fields, the payload and its block check. -/
structure Packet where
  typ : Nat := 0
  cls : Nat := 0
  hdrOnly : Bool := true
  poison : Bool := false
  remote : Bool := false
  msgv : Bool := false
  tagm : Nat := 0
  dsite : Nat := 0
  dagt : Nat := 0
  ssite : Nat := 0
  sagt : Nat := 0
  injNs : Nat := 0
  corr : Nat := 0
  defl : Nat := 0
  sdefl : Nat := 0
  addr : Nat := 0
  rtag : Nat := 0
  spanel : Nat := 0
  sclu : Nat := 0
  dque : Nat := 0
  seg : Nat := 0
  mrow : Nat := 0
  mlen : Nat := 0
  gen : Nat := 0
  mseq : Nat := 0
  nextph : Bool := false
  mframe : Nat := 0
  rfmt : Nat := 0
  rop : Nat := 0
  rrm : Nat := 0
  acks : Nat := 0
  sub : Nat := 0
  status : Nat := 0
  payload : Bytes := []
  check : Nat := 0
  /-- the header no longer passes HCRC (line noise, R209, R211) -/
  bad : Bool := false
  /-- the write tag an acknowledgement releases (R157; the header gives it no field) -/
  wtag : Nat := 0
  /-- what the routers at its ends note of it, in no header field: the fabric cycles at which it entered the mesh and at which
  it was ejected, and the link port at which it arrived there (R220, R226, R374) -/
  enterAt : Nat := 0
  ejAt : Nat := 0
  inPort : Nat := 0
  /-- the transport prefix of a packet from or to another panel: panel, quarter mask, router, agent (R325) -/
  peer : Option (Nat × Nat × Nat × Nat) := none
  deriving DecidableEq, Repr

/-- A packet between two routers: it arrives at a port of a router in a slot (R207, R226). -/
structure Flight where
  site : Nat
  port : Nat
  slot : Nat
  link : Nat
  pkt : Packet
  deriving DecidableEq, Repr

/-- A mesh router (R206, R220 to R222, R233). -/
structure Router where
  /-- packets waiting at agent ports to enter: port and packet, in order of arrival -/
  inject : List (Nat × Packet) := []
  /-- ejection buffers by agent port, in order of arrival: 4 packets for each agent (R221) -/
  eject : List (Nat × Packet) := []
  /-- park buffer, 2 packets, each with the slot in which it was parked (R222) -/
  park : List (Nat × Packet) := []
  /-- the last slot this router served -/
  lastSlot : Option Nat := none
  /-- packets deflected out of each port and positions used since the last latch (R233) -/
  defl : List Nat := [0, 0, 0, 0, 0, 0]
  used : List Nat := [0, 0, 0, 0, 0, 0]
  /-- slot at which the counts began -/
  cmapFrom : Nat := 0
  /-- by link port: the positions it had in that interval before the link's last change, and the slot of the change (R233) -/
  cmapPos : List (Nat × Nat × Nat) := []
  /-- ejection buffers that are full, by 16·port + agent, with the fabric cycle at which each filled (R229) -/
  fullSince : List (Nat × Nat) := []
  /-- ejection buffers under an EJECT suspension; the cycle of their last free entry, when one was free since (R229) -/
  ejSusp : List (Nat × Option Nat) := []
  /-- false once the die's router has stopped (R373) -/
  running : Bool := true
  /-- highest epoch seen (R428) -/
  epoch : Nat := 0
  deriving DecidableEq, Repr

/-- A link of the mesh (R209 to R212, R387). -/
structure Link where
  /-- coded as RTR_PORTp.STATE: 1 TRAINING, 2 UP, 3 PENUMBRA, 4 DOWN, 5 RECAL -/
  state : Nat := 1
  /-- failed lanes or wires in each direction -/
  failedLo : Nat := 0
  failedHi : Nat := 0
  deriving DecidableEq, Repr

/-- A die keeper (R35 to R41, R53 to R56). -/
structure Keeper where
  /-- global time minus half the fabric count, in ns -/
  adj : Int := 0
  /-- correction still to be slewed, in ns (R36) -/
  toSlew : Int := 0
  /-- fabric cycle of the last slew step -/
  slewAt : Nat := 0
  /-- fabric cycle of the last beacon received, and that at which the keeper began to count (R38, R394) -/
  beaconAt : Option Nat := none
  since : Nat := 0
  /-- beacon intervals counted as missed since then -/
  missed : Nat := 0
  /-- path delay measured at bring-up, in ns (R374) -/
  delay : Option Nat := none
  /-- the fuse image of the die, once read (R368) -/
  fuse : Option FuseReport := none
  freeRun : Bool := false
  /-- source of the last beacon: true instance B -/
  src : Bool := false
  /-- seconds snapshots by requester code (R40, R41) -/
  snap : List (Nat × Nat) := []
  /-- the Equinox change posted: point and instant (R53) -/
  post : Option (Nat × Nat) := none
  /-- GO received for it (R430) -/
  go : Bool := false
  deriving DecidableEq, Repr

/-- A region of a compute die: its headers, sensor and adaptive oscillator (R51, R52, R364 to R367). -/
structure Region where
  /-- 0 OFF, 1 STAGING, 2 ON, 3 UMBRA, as PWR_RGN_STAT.STATE -/
  hdr : Nat := 0
  /-- the stage that closes or has closed last, 0 to 7; 8 once the last stage's check has passed (R364) -/
  stage : Nat := 0
  /-- fabric cycle at which that stage closes, at which the first closed, and at which its check window begins -/
  stageAt : Nat := 0
  firstAt : Nat := 0
  winAt : Nat := 0
  /-- void windows of this stage (R366) -/
  voids : Nat := 0
  /-- operating point in force -/
  point : Nat := 4
  /-- the oscillator stands at the floor for a supply droop (R51) -/
  droop : Bool := false
  /-- the clock is stopped for a deep droop (R52) -/
  stalled : Bool := false
  /-- region clocks counted up to fabric cycle `since` -/
  clocks : Nat := 0
  since : Nat := 0
  /-- frequency in force since then, in MHz, and the one that takes force at a later fabric cycle -/
  mhz : Nat := 0
  later : Option (Nat × Nat) := none
  deriving DecidableEq, Repr

/-- A compute die as a whole (R368 to R373, R419, R432, R446, R461). -/
structure Die where
  /-- 0 ACTIVE, 1 SPARE, 2 UMBRA, 3 RESERVE, as the defect map codes it -/
  state : Nat := 0
  cause : Nat := 0
  /-- spare scratchpad words in use -/
  spareWords : Nat := 0
  tripped : Bool := false
  /-- energy estimated since the last telemetry read in µJ, and calibrated power of the last interval in mW (R444) -/
  microJ : Nat := 0
  powerMw : Nat := 0
  deriving DecidableEq, Repr

/-- A descriptor between its dispatch and its completion (R145). -/
structure Desc where
  did : Nat
  raw : BitVec 256
  /-- the cluster's frame ordinal at its dispatch -/
  frame : Nat
  /-- region clock of its dispatch (R133) -/
  at_ : Nat := 0
  /-- dispatched in a replay run (R288) -/
  replay : Bool := false
  deriving DecidableEq, Repr

/-- What one access of a unit's own work does (R89, R100, R112, R118). -/
inductive AccessKind where
  /-- the operand stage reads slot i of the scale set of the m-th tile of operand b (0 A, 1 B) -/
  | opScale (b m i : Nat)
  /-- it makes the k-th column read of the j-th square block -/
  | opColumn (b j k : Nat)
  /-- in wide-row mode: it reads row r of the tile of the j-th square block -/
  | opRow (b j r : Nat)
  /-- the k-th column read that fills the third square-block buffer with a COL source -/
  | fill (src k : Nat)
  /-- row r of the sources of a VOP is read, and its result computed -/
  | row (r : Nat)
  /-- in wide-row mode: the slot that the k-th write will change is read -/
  | slotRead (k : Nat)
  /-- the k-th write of a VOP's destination: result row k, or column k of a drain -/
  | write (k : Nat)
  /-- a reduction writes its vector register -/
  | reg
  deriving DecidableEq, Repr

/-- An access still to be made: the region clock planned for it, its VOP's port waits apart. -/
structure UnitAccess where
  at_ : Nat
  kind : AccessKind
  deriving DecidableEq, Repr

/-- What the lanes hold of a VOP between its reads and its writes: the result rows so far, a reduction's values, whether a
CMPX has found a difference. -/
structure LaneRun where
  rows : List (List Word) := []
  red : List Word := []
  diff : Bool := false
  deriving DecidableEq, Repr

/-- A descriptor issued by its unit and not yet completed (R123, R133). -/
structure Issued where
  d : Desc
  /-- its accesses have begun -/
  begun : Bool
  /-- region clock of the first clock of work -/
  beganAt : Nat
  /-- clocks from its first clock to its completion -/
  span : Nat
  /-- the SR ordinal it took and the frame index at issue (R79) -/
  ord : Nat
  frameIdx : Nat
  /-- its ordinal among the unit's MMAs of the frame (R88) -/
  mmaOrd : Nat := 0
  /-- accesses still to be made, and the clocks by which waits have moved them (R100, R101) -/
  todo : List UnitAccess := []
  shift : Nat := 0
  /-- what square-block buffers have taken in, by operand: the bytes of the scratchpad as they were read (R112, R114) -/
  img : List (Nat × List Host.Cell) := []
  lane : LaneRun := {}
  deriving DecidableEq, Repr

/-- A write from outside a unit in the present region clock, kept for the order of R125: offset, the bytes before and after,
whether it set the tag, and whether the tag was FULL before. -/
structure OutWrite where
  off : Nat
  old : Bytes
  new : Bytes
  set : Bool
  wasFull : Bool
  deriving DecidableEq, Repr

/-- A scratchpad's mode, as UNIT_SPAD_STAT.MODE codes it (R116). -/
inductive SpadMode where
  | normal | wideDawn | wideTest | wideRecovery
  deriving DecidableEq, Repr

/-- One unit: array, lanes, scratchpad tags and Shadow engine (R61, R90, R121, R128, R425). -/
structure UnitState where
  /-- accumulator words, 4096·buffer + 64·row + column; unlisted +0 -/
  acc : List (Nat × Word) := []
  /-- vector registers, 64·n + i; unlisted +0 -/
  vr : List (Nat × Word) := []
  /-- slots whose tag is FULL, ascending -/
  full : List Nat := []
  mode : SpadMode := .wideDawn
  /-- 0 IDLE, 1 RUNNING, 2 DONE; region clock at which the clear began -/
  clear : Nat := 0
  clearAt : Nat := 0
  /-- mode to enter when the clear ends (R119) -/
  modeAfter : Option SpadMode := none
  uq : List Desc := []
  /-- first region clock in which the unit can issue again (R62) -/
  issueClk : Nat := 0
  issued : List Issued := []
  /-- region clock before which the accesses of the issued descriptors have been made -/
  settled : Nat := 0
  /-- region clocks in which accesses from outside take the read and the write port (R120) -/
  rdTaken : List Nat := []
  wrTaken : List Nat := []
  /-- the writes from outside in region clock outAt (R125) -/
  outAt : Nat := 0
  outside : List OutWrite := []
  /-- ord of R79, ordinal of MMAs of the frame -/
  ord : Nat := 0
  mmas : Nat := 0
  /-- the last MMA begun: the clock at which its last square block enters the array, and the clock at which its occupancy
  ends (R68, R101) -/
  lastMma : Option (Nat × Nat) := none
  /-- first clock without a planned read of the operand stage, and the read clocks it holds in a row before it (R101) -/
  opNext : Nat := 0
  opRun : Nat := 0
  /-- first clock at which the lanes are free of the last VOP's rows (R89) -/
  laneFree : Nat := 0
  /-- lpos and frame a replay run gives it (R80) -/
  replayAs : Option (Nat × Nat) := none
  /-- dirty source slots (R425) -/
  dirty : List Nat := []
  /-- the sets taken at work ends: frame, slots still to read, slots read and not acknowledged -/
  sets : List (Nat × List Nat × List Nat) := []
  /-- FLOP since the last gathering, by group (R457) -/
  flop : List (Nat × Nat) := []
  /-- region clocks in which the unit's Day checks have yielded to work (R389) -/
  yielded : Nat := 0
  deriving DecidableEq, Repr

/-- States of SEQ_STAT.STATE (R159). -/
inductive SeqState where
  | idle | run | handler | ended | trapped | waitEdge
  deriving DecidableEq, Repr

/-- What the sequencer waits for (R132, R138, R196). -/
inductive Stall where
  /-- DISP or DISPM with the dispatch queue full: the descriptor waiting -/
  | dispatch (bits : BitVec 256)
  | waitg (grp count : Nat)
  | fence
  /-- a data-cache miss: the line address, M wanted, and the access to finish -/
  | miss (line : Nat) (excl : Bool) (d : Nat) (addr : Nat) (store : Option Word)
  deriving DecidableEq, Repr

/-- A line of the data cache (R196): panel address of the line, M or S, and its 64 bytes. -/
structure CacheLine where
  line : Nat
  excl : Bool
  data : Bytes
  deriving DecidableEq, Repr

/-- A Get in progress (R196): the line, what has arrived and how many InvAcks are still to come. -/
structure Get where
  line : Nat
  excl : Bool
  data : Option Bytes := none
  poison : Bool := false
  acksWant : Option Nat := none
  acksGot : Nat := 0
  deriving DecidableEq, Repr

/-- A message in a receive queue or on its way into it (R168 to R173). -/
structure Msg where
  chan : Nat
  seg : Nat
  seq : Nat
  len : Nat
  landed : List Nat
  poison : Bool
  remote : Bool
  spanel : Nat
  sclu : Nat
  nextph : Bool
  mframe : Nat
  /-- tick edges since the first row landed -/
  edges : Nat
  /-- 0 incomplete, 1 held, 2 queued, 3 taken -/
  stage : Nat
  /-- counted as held behind an earlier message (R170) -/
  orderHeld : Bool := false
  deriving DecidableEq, Repr

/-- One receive queue (R160). -/
structure Queue where
  /-- messages in any stage; those queued stand in order of appending -/
  msgs : List Msg := []
  /-- per channel: the sequence number next to be appended or discarded, and those resolved beyond it -/
  next : List (Nat × Nat) := []
  resolved : List (Nat × Nat) := []
  /-- per channel: the last discarded sequence number (R169) -/
  lastDiscard : List (Nat × Nat) := []
  deriving DecidableEq, Repr

/-- A descriptor in the stream engine (R155). -/
structure Eng where
  d : Desc
  unit : Nat
  /-- region clock of its issue (R155) -/
  at_ : Nat := 0
  /-- requests sent, and those resolved -/
  sent : Nat := 0
  done : Nat := 0
  suspect : Bool := false
  error : Bool := false
  /-- the DQMASK of a remote transfer, read at its issue (R327) -/
  dq : Nat := 0
  /-- it generates no more (R59, R401) -/
  stopped : Bool := false
  /-- the segment a SEND holds -/
  seg : Option Nat := none
  deriving DecidableEq, Repr

/-- A read or write tag in use (R156, R157). -/
structure Tag where
  tag : Nat
  did : Nat
  row : Nat
  /-- fabric cycle at which its request was sent -/
  sentAt : Nat
  remote : Bool
  retried : Bool := false
  pkt : Packet
  deriving DecidableEq, Repr

/-- A tag that may not be used yet (R333, R399): write or read, number, release time when known, late answers discarded
as absorbed. -/
structure Quarantine where
  write : Bool
  tag : Nat
  until_ : Option Nat
  absorb : Bool
  deriving DecidableEq, Repr

/-- A COMMIT in the commit queue (R154). -/
structure Commit where
  d : Desc
  /-- descriptors it waits for -/
  waits : List Nat
  sent : Bool := false
  susp : Bool := false
  /-- the outcome, once known: 0 FLIPPED, 1 MISMATCH, 2 HELD -/
  outcome : Option Nat := none
  deriving DecidableEq, Repr

/-- A replay run on a cluster of a spare die (R287). -/
structure ReplayRun where
  /-- quarter of the partition, serial of the held step, run 1 or 2 -/
  part : Nat
  step : Nat
  run : Nat
  orig : Nat
  breach : Bool := false
  bad : Bool := false
  digest : Nat := 0
  ended : Bool := false
  deriving DecidableEq, Repr

/-- A cluster: sequencer, dispatch path, stream engine, receive queues and data cache (R131 to R178). -/
structure Cluster where
  seq : SeqState := .idle
  pc : Nat := 0
  s : List (Nat × Word) := []
  /-- the frame-start copy of the registers (R285) -/
  s0 : List (Nat × Word) := []
  stall : Option Stall := none
  /-- region clock at which a stall on a full dispatch queue began, and whether the queue has been full since (R132) -/
  stallAt : Nat := 0
  stallOpen : Bool := false
  /-- frame ordinal, its index, region clock and ns at its start -/
  frame : Nat := 0
  frameIdx : Nat := 0
  frameClk : Nat := 0
  frameNs : Nat := 0
  /-- work end of the frame: region clocks used and ns -/
  workEnd : Option (Nat × Nat) := none
  /-- a frame has begun and no tick edge has come since (R57, R158) -/
  inFrame : Bool := false
  /-- it runs late work of an overrun frame: edges since (R57 to R59) -/
  late : Option Nat := none
  nextDid : Nat := 0
  /-- dispatched and not completed, with group -/
  live : List (Nat × Nat) := []
  dq : List Desc := []
  /-- the WAIT at the head has been checked and is waiting -/
  waiting : Bool := false
  commitQ : List Commit := []
  eng : List Eng := []
  /-- what requests wait for, with the region clock since which: 1 read tag, 2 write tag, 3 credit (R151, R156, R157) -/
  waits : List (Nat × Nat) := []
  rtags : List Tag := []
  wtags : List Tag := []
  quar : List Quarantine := []
  grpCnt : List (Nat × Nat) := []
  grpFlags : List (Nat × Nat) := []
  digest : List (Nat × Nat) := []
  /-- region clock at which the next instruction may execute (R131) -/
  readyClk : Nat := 0
  /-- region clock at which the stream engine may generate its next request (R155) -/
  genClk : Nat := 0
  /-- first region clock in which the dispatch queue's head may leave it (R132) -/
  dqClk : Nat := 0
  /-- handler slots run this frame; the handler in progress: queue, return pc, slot, clock at slot start, runs -/
  slotsRun : List Nat := []
  handler : Option (Nat × Nat × Nat × Nat × Nat) := none
  queues : List (Nat × Queue) := []
  gen : Nat := 0
  /-- outgoing entries by index: free segments and next sequence number; unlisted: all free, 0 -/
  outFree : List (Nat × List Nat) := []
  outSeq : List (Nat × Nat) := []
  /-- credit returns waiting for the SCHED bucket (R173) -/
  credits : List Packet := []
  /-- control packets waiting for the CTRL bucket (R243) -/
  ctrlOut : List Packet := []
  cache : List CacheLine := []
  /-- lines written back and not acknowledged: one at a time, but for a reset's flush -/
  wb : List (Nat × Bytes) := []
  get : Option Get := none
  replay : Option ReplayRun := none
  /-- firmware store, and whether it holds its checked image (R379) -/
  fwStore : Bytes := []
  fwOk : Bool := false
  /-- digest of the manifest received from the manager (R378) -/
  fwDigest : Option Nat := none
  /-- stopped by a reset: absorbs arrivals (R398) -/
  absorbing : Bool := false
  deriving DecidableEq, Repr

/-- A token bucket (R239 to R241): rate and depth in force, balance at fabric cycle `at_`. -/
structure Bucket where
  rate : Nat := 0
  depth : Nat := 0
  bal : Int := 0
  at_ : Nat := 0
  /-- region clock of its cluster, or fabric cycle at an edge die, since which a request waits -/
  waitAt : Option Nat := none
  deriving DecidableEq, Repr

/-- An entry of the read-merge table (R194). -/
structure Merge where
  block : Nat
  open_ : Bool
  tabled : Bool
  reqs : List Packet
  /-- place in the order of arrivals at the router (R189) -/
  seq : Nat := 0
  deriving DecidableEq, Repr

/-- A write accepted by a router and not yet in the DRAM (R189, R192): block, row, its place in the order of arrivals,
and the partner's stack and block for a mirrored one. -/
structure WriteJob where
  block : Nat
  pkt : Packet
  seq : Nat
  copy : Option (Nat × Nat)
  deriving DecidableEq, Repr

/-- A directory entry of a home (R199): line, owner or sharers (physical clusters), last use. -/
structure DirEntry where
  line : Nat
  owner : Option Nat
  sharers : List Nat
  used : Nat
  deriving DecidableEq, Repr

/-- A transaction of a home (R197 to R200): the request it serves, what it still waits for. -/
structure HomeTx where
  line : Nat
  req : Packet
  /-- 0 awaits Unblock, 1 collects InvAcks, 2 awaits recalled data -/
  kind : Nat
  acks : Nat := 0
  /-- the transaction evicts this line for another request (R199) -/
  evict : Bool := false
  /-- the owner's writeback under FwdGetS is still to come -/
  needData : Bool := false
  deriving DecidableEq, Repr

/-- A memory router and its stack (R179 to R205, R255 to R270). -/
structure Stack where
  /-- coded as MR_STAT.STATE -/
  state : Nat := 0
  cause : Nat := 0
  merges : List Merge := []
  /-- writes on their way to the DRAM, in order of arrival -/
  writes : List WriteJob := []
  dir : List DirEntry := []
  txs : List HomeTx := []
  /-- requests waiting for a busy line -/
  waits : List Packet := []
  /-- PutAcks deferred until an Unblock: line and cluster (R198) -/
  putAcks : List (Nat × Nat) := []
  /-- line and cluster to which a forward is outstanding -/
  fwd : List (Nat × Nat) := []
  tick : Nat := 0
  tripped : Bool := false
  hardRepairs : Nat := 0
  /-- corrected errors by row key of this scrub period, and rows repaired (R202) -/
  rowErrs : List (Nat × Nat) := []
  softRows : List Nat := []
  /-- what on-die ECC will report of the router's own next read of a block: first and second read, the copy's two (R193) -/
  ecc : List (Nat × Ecc × Ecc × Ecc × Ecc) := []
  bankRepairs : List (Nat × Nat) := []
  missedPolls : Nat := 0
  /-- records in the reduction engine's cache, the last served first (R266) -/
  redCache : List Nat := []
  /-- requests since the last telemetry read, and calibrated power of the last interval in mW (R444) -/
  requests : Nat := 0
  powerMw : Nat := 0
  deriving DecidableEq, Repr

/-- A flit held for replay (R319). -/
structure SentFlit where
  ftype : Nat
  seq : Nat
  body : Bytes
  pkts : List Packet
  deriving DecidableEq, Repr

/-- A scale-out port (R314 to R337). -/
structure Port where
  /-- coded as RTR_XP_STATp.STATE -/
  state : Nat := 0
  lanes : Nat := 0
  txSeq : Nat := 0
  rxNext : Nat := 0
  /-- it discards until a resend begins; NAKs sent for the flit it waits for, and the cycles of the NAKs of the last
  millisecond (R319, R320) -/
  naking : Bool := false
  nakRun : Nat := 0
  nakTimes : List Nat := []
  /-- trainings failed in a row; cycle at which the present one began (R320) -/
  failed : Nat := 0
  trainAt : Nat := 0
  /-- panel number its heartbeats carry since its last training (R339) -/
  panel : Nat := 0
  replay : List SentFlit := []
  /-- egress queues: destination panel, class (0 REQ, 1 RSP), packet -/
  egress : List (Nat × Nat × Packet) := []
  credits : List (Nat × Nat) := []
  /-- bytes of a packet continued from the last DATA flit -/
  partial_ : Bytes := []
  ingress : List (Nat × Packet) := []
  /-- ingress credits to grant in the next CREDIT flit (R330) -/
  grantReq : Nat := 0
  grantRsp : Nat := 0
  /-- the last valid heartbeat: its TX_T and its time of arrival in the format of R321, and the cycle; TX_T of the
  heartbeats sent in the last 4 µs, in ns -/
  hbRx : Option (Nat × Nat) := none
  hbRxAt : Option Nat := none
  hbTx : List Nat := []
  deriving DecidableEq, Repr

/-- An edge die (R11, R328, R446). -/
structure Edge where
  state : Nat := 0
  cause : Nat := 0
  celsius : Nat := 0
  /-- calibrated power of the last interval in mW (R444) -/
  powerMw : Nat := 0
  /-- requests from the transport waiting for the SCHED bucket, each with its port (R330) -/
  ingressReq : List (Nat × Packet) := []
  /-- atomics that a home without a free shared slot holds back here (R197) -/
  held : List Packet := []
  deriving DecidableEq, Repr

/-- A placement range (R186) or reduction range (R254). -/
structure PlaceRange where
  base : Nat
  length : Nat
  offset : Nat
  scope : Nat
  target : Nat
  mirror : Bool := false
  partner : Nat := 0
  deriving DecidableEq, Repr

/-- A reduction range (R254). -/
structure RedRange where
  base : Nat
  length : Nat
  aoff : Nat
  scope : Nat
  target : Nat
  width : Nat
  ebase : Int
  span : Nat
  deriving DecidableEq, Repr

/-- A queue declaration (R160, R311). -/
structure QueueDecl where
  clu : Nat
  queue : Nat
  unit : Nat
  ring : Nat
  segRows : Nat
  /-- source cluster, source panel, remote, next phase, credits -/
  chans : List (Nat × Nat × Bool × Bool × Nat)
  deriving DecidableEq, Repr

/-- An outgoing entry (R162, R311). -/
structure OutDecl where
  clu : Nat
  dpanel : Nat
  dclu : Nat
  dque : Nat
  remote : Bool
  nextph : Bool
  credits : Nat
  segRows : Nat
  firstSeg : Nat
  deriving DecidableEq, Repr

/-- A directory entry of the SCHEDULE section (R308). -/
structure SchedEntry where
  clu : Nat
  offset : Nat
  length : Nat
  digest : Nat
  image : Bytes
  deriving DecidableEq, Repr

/-- A structure stream read into its sections (R294, R308). -/
structure StreamCfg where
  live : Bool := false
  qmask : Nat := 0
  serial : Nat := 0
  notBefore : Nat := 0
  tenant : Nat := 0
  /-- bit t = section TYPE t is present -/
  present : Nat := 0
  period : Nat := 250
  fieldUse : List (Nat × Nat) := []
  routes : List (Nat × Nat) := []
  /-- source, class, depth, rate -/
  shapers : List (Nat × Nat × Nat × Nat) := []
  /-- logical unit (0xFFF all) and its ranges: first, last, kind -/
  divs : List (Nat × List (Nat × Nat × Nat)) := []
  queues : List QueueDecl := []
  outs : List OutDecl := []
  places : List PlaceRange := []
  reds : List RedRange := []
  policy : Nat := 0
  unres : Bool := false
  taus : List Nat := [12, 12, 12, 8, 8, 8, 6]
  seed : Nat := 0
  /-- source unit, first, last, partner unit, partner first -/
  pairs : List (Nat × Nat × Nat × Nat × Nat) := []
  pmin : Nat := 4
  slackMin : Nat := 0x0800
  nframes : Nat := 16
  scheds : List SchedEntry := []
  /-- the uniform SCHED share of R252 at validation -/
  share : Nat := 0
  /-- SHA-384 of the whole stream (R476) -/
  hash : Nat := 0
  deriving DecidableEq, Repr

/-- A stream whose validation has ended well (R303): PENDING. -/
structure PendStream where
  /-- quarter through whose controller it was loaded -/
  q : Nat
  cfg : StreamCfg
  /-- fabric cycle at which validation completed -/
  validAt : Nat
  /-- a raise to its PMIN: 0 none is needed, 1 not granted yet, 2 granted -/
  raise : Nat := 0
  /-- fabric cycle at which the lock was last refused -/
  triedAt : Nat := 0
  /-- earliest instant of its apply edge -/
  due : Nat := 0
  /-- a link of the partition has changed since validation (R229) -/
  linkMoved : Bool := false
  deriving DecidableEq, Repr

/-- A held step (R285). -/
structure HeldStep where
  serial : Nat
  id : Nat
  raddr : Nat
  old : BitVec 64
  new : BitVec 64
  gmask : Nat
  digest : Nat
  lclu : Nat
  frame : Nat
  regs : List (Nat × Word)
  /-- 0 waits for run 1, 1 runs it, 2 waits for run 2, 3 runs it, 4 swaps -/
  stage : Nat := 0
  d1 : Option Nat := none
  run1Bad : Bool := false
  run2Bad : Bool := false
  breach : Bool := false
  /-- the outcome whose swap is under way: 0 AGREED, 1 CORRECTED -/
  outcome : Nat := 0
  deriving DecidableEq, Repr

/-- A reset of a partition in progress (R398, R401). -/
structure ResetOp where
  /-- coded as PM_RESET_STAT.KIND -/
  kind : Nat
  start : Nat
  zero : Bool
  target : Nat
  /-- 0 draining, 1 stopped and absorbing, 2 zeroed, 3 complete -/
  stage : Nat
  /-- mailbox quarter to answer -/
  reply : Option Nat
  /-- the reset is part of a tenant clear (R481) or of the Day change (R390) -/
  after : Nat := 0
  deriving DecidableEq, Repr

/-- A partition: the stream in force, its tick, holds and resets (R32, R45 to R47, R281 to R285). -/
structure Partition where
  qmask : Nat
  cfg : StreamCfg
  /-- the tick runs; the period in ns; the last edge taken -/
  tick : Bool := false
  period : Nat := 250000
  lastEdge : Nat := 0
  /-- fabric cycle of the last edge taken -/
  edgeFab : Nat := 0
  /-- no frame begins before this instant: a joining interval (R47) -/
  joinTo : Option Nat := none
  /-- the load interval of R305 -/
  loading : Bool := false
  loadBad : Bool := false
  hold : Bool := false
  halted : Bool := false
  haltDue : Bool := false
  haltReply : List Nat := []
  held : List HeldStep := []
  heldSerial : Nat := 0
  reset : Option ResetOp := none
  /-- links not all UP since the stream was validated (R229) -/
  linkSusp : Bool := false
  /-- frames that have reported slack since the last change of the point, the last one's index and the lowest SLACK_FRAC of
  them all (R454) -/
  slackN : Nat := 0
  slackLast : Nat := 0
  slackLow : Nat := 65536
  /-- since the last evaluation a report lay below SLACK_MIN, or told of an overrun (R454) -/
  slackUnder : Bool := false
  overran : Bool := false
  /-- FLOP gathered and not yet a whole unit of 2^30, by group (R457) -/
  flopRest : List (Nat × Nat) := []
  /-- frames begun, energy and tokens at the last whole second (R459) -/
  secFrames : Nat := 0
  secEnergy : Nat := 0
  secTokens : Nat := 0
  /-- fabric cycle from which a stopped tick may start again, after a wake (R46, R405) -/
  startFrom : Option Nat := none
  deriving DecidableEq, Repr

/-- One field: its logical mapping and its SPARE_IN procedure (R416 to R424). -/
structure Field where
  /-- physical die of logical die l, l = 0 to 14; none while the position is VACANT or unmapped -/
  map : List (Option Nat) := List.replicate 15 none
  spare : Option Nat := none
  reserves : List Nat := []
  failed : Bool := false
  /-- coded as PM_SPARE_STATUSf.STATE -/
  proc : Nat := 0
  old : Nat := 0
  logical : Nat := 15
  nocopy : Bool := false
  /-- fabric cycle at which its present state began; none while a replay run must end first -/
  procAt : Option Nat := none
  mirrorFrame : Nat := 0
  /-- an Eclipse completed during it: 1 tags EMPTY, 2 data zeroed too (R422) -/
  wiped : Nat := 0
  /-- OLD's position returns to OLD at the next tick edge (R424) -/
  giveBack : Bool := false
  /-- VACANT positions and the die each had (R419) -/
  vacant : List (Nat × Nat) := []
  /-- a reserve is promoted at the next tick edge -/
  promote : Bool := false
  /-- dies that have given up a logical position to a spare (R421) -/
  past : List Nat := []
  /-- bytes of the manifest and of the firmware image in the field's firmware well (R376, R378) -/
  well : Nat × Nat := (0, 0)
  deriving DecidableEq, Repr

/-- A mailbox request being served (R350). -/
structure MbReq where
  tag : Nat
  op : Nat
  payload : Bytes
  oper : Bool
  deriving DecidableEq, Repr

/-- A message staged for the host (R353 to R355). -/
structure HostMsg where
  typ : Nat
  seq : Nat
  payload : Bytes
  ns : Nat
  /-- fabric cycle of its deadline, once it found no buffer -/
  deadline : Option Nat := none
  deriving DecidableEq, Repr

/-- A DMA engine (R351). -/
structure Dma where
  posted : Nat := 0
  fetched : Nat := 0
  /-- descriptors ended and not yet completed in ring order: index and CODE, IRQ -/
  ended : List (Nat × Nat × Bool) := []
  deriving DecidableEq, Repr

/-- A counter snapshot being written (R491 to R493). -/
structure SnapOp where
  /-- sampling instant in ns and its fabric cycle -/
  at_ : Nat
  fab : Nat
  seq : Nat
  qmask : Nat
  /-- what the controller has latched: bytes 0x08 to 0x27 of the slot, panel section, partition section -/
  head : Bytes
  panel : Bytes
  part : Bytes
  /-- counter records that have arrived: router, piece, bytes -/
  pieces : List (Nat × Nat × Bytes) := []
  deriving DecidableEq, Repr

/-- A quarter and its controller (R340 to R358, R403, R410, R478, R481). -/
structure Quarter where
  /-- coded as PM_SVC_STAT.SVC -/
  svc : Nat := 0
  /-- power state, target, transition in progress, and the edge at which the change begins in ns (R403) -/
  pstate : Nat := 0
  ptarget : Nat := 0
  pmoving : Bool := false
  /-- of a transition: 0 waits for its edge, 1 that edge is past, 2 headers open on the way to Dark, 3 stacks in
  self-refresh (R405, R406) -/
  pstage : Nat := 0
  pedge : Nat := 0
  /-- activities that hold the maintenance lock: bit (code − 1) -/
  held : Nat := 0
  mb : Option MbReq := none
  /-- the mailbox request and reply areas of BAR4, by offset; an unlisted byte is 0 (R349) -/
  reqArea : List (Nat × Nat) := []
  repArea : Bytes := []
  /-- fabric cycle at which the manager last set HST_MB_STAT.DONE (R6) -/
  mbDoneAt : Option Nat := none
  dma : List (Nat × Dma) := []
  /-- accesses of the host to control windows not answered yet: tag number, cycle of sending, and kind: 0 AtomicOp to another
  panel, 1 AtomicOp, 2 read of 8 bytes, 3 and 4 of the lower and the upper 4, 5 write; 6 one that has timed out, whose tag stays taken for twice
  QC_XTIMEOUT.US (R333, R346, R348) -/
  atoms : List (Nat × Nat × Nat) := []
  msgs : List HostMsg := []
  msgSeq : Nat := 0
  msgTail : Nat := 0
  dropped : Option (Nat × Nat × Nat) := none
  snapSeq : Nat := 0
  /-- snapshot being written, and the instant of the last one taken or skipped -/
  snap : Option SnapOp := none
  snapAt : Nat := 0
  pcieUp : Bool := false
  /-- log2 of the size of BAR2 in GiB (R345) -/
  bar2Log : Nat := 6
  /-- both managers are lost (QC_PM_STAT, R431) -/
  pmLost : Bool := false
  keys : List (Nat × BitVec 256) := []
  /-- SPDM sessions open on the endpoint's DOE, and those of them that are operator sessions (R473, R475) -/
  sessions : List Nat := []
  operSessions : List Nat := []
  /-- a tenant clear: 0 none, 1 STOPPING, 2 CLEARING, 3 DONE; pass; start; mailbox answered -/
  clr : Nat := 0
  clrPass : Nat := 0
  clrAt : Nat := 0
  clrReply : Option Nat := none
  scrubReq : Option Nat := none
  deriving DecidableEq, Repr

/-- A maintenance-lock request waiting for the evaluation (R412). -/
structure LockReq where
  code : Nat
  qmask : Nat
  /-- what the grant starts: link, port (0x1000 and up), die (with NOCOPY at bit 8), operating point (16 and up for the
  governor's, 32 and up for one that a forecast chose) -/
  arg : Nat
  reply : Option Nat
  /-- loading quarter of the stream whose PMIN it raises to -/
  stream : Option Nat := none
  deriving DecidableEq, Repr

/-- An Equinox change in progress (R53 to R56). -/
structure Eqx where
  point : Nat
  /-- T, in ns (R54) -/
  t : Nat := 0
  /-- fabric cycle of the post -/
  postAt : Nat
  acks : List Nat := []
  /-- coded as PM_OP_STAT.STATE -/
  state : Nat := 1
  /-- fabric cycle at which the ramp ends; of the last region's change before a lower's ramp -/
  rampEnd : Nat := 0
  confirmed : Bool := false
  stream : Option Nat := none
  deriving DecidableEq, Repr

/-- A Glint being taken (R234). -/
structure GlintOp where
  at_ : Nat
  /-- fabric cycle of the requests -/
  sentAt : Nat
  got : List (Nat × List Nat) := []
  deriving DecidableEq, Repr

/-- A Glint written into the map buffer (R235): slot, SEQ, instant, records of words 0 to 5 and FRAME. -/
structure GlintSlot where
  slot : Nat
  seq : Nat
  at_ : Nat
  recs : List (Nat × List Nat)
  deriving DecidableEq, Repr

/-- A retest, a recalibration or another maintenance activity that runs (R212, R414, R432). -/
structure Maint where
  code : Nat
  arg : Nat
  /-- fabric cycle at which it began -/
  startFab : Nat
  qmask : Nat
  deriving DecidableEq, Repr

/-- One panel-manager instance and its NOR and fuses (R427, R463 to R471). -/
structure Instance where
  booted : Bool := false
  down : Bool := false
  epoch : Nat := 0
  /-- fabric cycles of the last heartbeat sent and heard, heartbeats missed since (R427) -/
  hbSent : Nat := 0
  hbHeard : Nat := 0
  missed : Nat := 0
  /-- boot record: preferred bank (true B), failed marks, bank running -/
  preferB : Bool := false
  failedA : Bool := false
  failedB : Bool := false
  bankB : Bool := false
  fallback : Bool := false
  /-- SVN, version, schema range, key slot and header digest of the images in the two banks (R464) -/
  svnA : Nat := 0
  svnB : Nat := 0
  verA : Nat := 0
  verB : Nat := 0
  schemaA : Nat × Nat := (1, 1)
  schemaB : Nat × Nat := (1, 1)
  keyA : Nat := 0
  keyB : Nat := 0
  hdrA : Nat := 0
  hdrB : Nat := 0
  /-- the images that a FW_UPDATE has written into the banks; none: the image as delivered (R463, R472) -/
  imgA : Option Image := none
  imgB : Option Image := none
  /-- manifest and cluster firmware digests of the banks (R378) -/
  fwA : Nat × Nat := (0, 0)
  fwB : Nat × Nat := (0, 0)
  /-- blown anti-rollback fuses -/
  count : Nat := 0
  /-- the VAON copy of PM_BOOT_STAT -/
  bootStat : Nat := 1
  deriving DecidableEq, Repr

/-- The active manager's own state (R12, R36, R39, R42, R53, R234, R300, R427, R448). -/
structure Manager where
  /-- manager time minus half the fabric count, in ns -/
  adj : Int := 0
  toSlew : Int := 0
  slewAt : Nat := 0
  active : Option Bool := none
  lost : Bool := false
  /-- its time at the last beacon; negative when a time set has moved that instant before 0 s (R36, R43) -/
  beaconNs : Int := 0
  ppsNs : Option Nat := none
  /-- a time set pending: instant, seconds, ns -/
  set : Option (Nat × Nat × Nat) := none
  panelSnap : List (Nat × Nat) := []
  eqx : Option Eqx := none
  cur : Nat := 4
  vcoreMv : Nat := 580
  glint : Option GlintOp := none
  glintSeq : Nat := 0
  glints : List GlintSlot := []
  /-- quarters whose LOAD waits for validation, in order; streams PENDING, in order of validation -/
  ssQueue : List Nat := []
  pends : List PendStream := []
  /-- fabric cycle of the last time set -/
  setAt : Nat := 0
  locks : List LockReq := []
  maint : List Maint := []
  /-- fabric cycle of the last poll of the memory routers (R420) -/
  pollFab : Nat := 0
  solo : Bool := false
  /-- operations left open at the loss of both managers (R427) -/
  openOps : Nat := 0
  /-- PM_ counters the standby has acknowledged (R490) -/
  acked : List (Nat × Nat) := []
  /-- instant of the defect map's generation (R387) -/
  dmapNs : Nat := 0
  /-- bring-up: step in progress (10 once complete), fabric cycle of its start (R359) -/
  step : Nat := 1
  stepFab : Nat := 0
  /-- phase of step 6: 0 links, 1 packets, 2 vote, 3 path delays (R370, R374) -/
  phase : Nat := 0
  /-- neighbours' vouches: voter and those it vouches for; dies with a wrong signature (R370) -/
  vouches : List (Nat × List Nat) := []
  wrongSig : List Nat := []
  tests : List (Nat × Nat × Bool) := []
  t9 : Nat := 0
  dayDone : List Nat := []
  tDay : Option Nat := none
  warmAt : Option Nat := none
  /-- instants of the last evaluation of the governor and of the last telemetry read (R443, R450) -/
  govNs : Nat := 0
  telNs : Nat := 0
  /-- fits made of the thermal model (R448) -/
  fitN : Nat := 0
  /-- panel power in W summed over the telemetry reads of this second, and their number (R460) -/
  secPower : Nat := 0
  secSamples : Nat := 0
  /-- twice the offsets and twice the delays of the last 64 exchanges, and the time port they come from (R336) -/
  xExch : List (Int × Int) := []
  xPort : Nat := 0
  /-- the stream in step 5 of its validation, STATE INSTALLING (R301, R302) -/
  install : Option PendStream := none
  deriving DecidableEq, Repr

/-- Supply domains, alert pins and telemetry (R435 to R443). -/
structure Power where
  /-- bit d = domain d enabled, power-good -/
  enabled : Nat := 96
  good : Nat := 96
  /-- fabric cycle at which the manager enabled the last domain (R438) -/
  domainFab : Nat := 0
  fda : Nat := 0
  /-- fabric cycle of the last assertion of the OR; of the last deassertion -/
  fdaAt : Option Nat := none
  fdaOff : Option Nat := none
  fdaLong : Bool := false
  /-- readings by device: mV, mA, working phases, misses in a row -/
  readings : List (Nat × Nat × Nat × Nat × Nat) := []
  fault : Bool := false
  norFault : Option Nat := none
  /-- fabric cycle of the last inlet reading; the sensors' last readings and the inlet temperature that the thermal model takes, in
  1/128 °C (R447, R500) -/
  inletAt : Nat := 0
  inletRead : Option Int := none
  outletRead : Option Int := none
  inlet : Int := 5760
  /-- measured power of the last interval: VCORE and every other domain, in mW -/
  coreMw : Nat := 0
  otherMw : Nat := 0
  deriving DecidableEq, Repr

/-- Settings store, staging window, trace and test access (R465, R469, R473, R484 to R487). -/
structure Security where
  schema : Nat := 1
  writes : Nat := 0
  /-- items of the store written since delivery: byte offset and value -/
  store : List (Nat × Byte) := []
  stage : List (Nat × Byte) := []
  /-- the image that a FW_UPDATE has fetched (R472) -/
  fetched : Option Image := none
  trace : List (Nat × Nat) := []
  traceNext : Nat := 0
  traceWrap : Bool := false
  /-- per edge die: the bypass bit, pins preloaded -/
  tapBit : List (Nat × Bool) := []
  preload : List (Nat × Nat) := []
  driven : List (Nat × Nat) := []
  /-- key slots revoked (R465) -/
  revoked : Nat := 0
  /-- rows repaired softly and recorded in NOR, by stack: each takes a hard repair at the next step 7 (R202, R375) -/
  repairs : List (Nat × Nat) := []
  /-- rows repaired hard and recorded in NOR, by stack (R375) -/
  hardRows : List (Nat × Nat) := []
  deriving DecidableEq, Repr

/-- What the panel sends out of itself. -/
inductive Output where
  /-- an MSI-X vector of quarter q's endpoint -/
  | msix (q vec : Nat)
  /-- a write to host memory: quarter, address, bytes, poisoned -/
  | hostWrite (q addr : Nat) (data : Bytes) (ep : Bool)
  /-- a message in consecutive posted buffers, whose addresses stand in the host's ring from the entry at a host address on
  (R354) -/
  | message (q entry : Nat) (data : Bytes)
  /-- a completion of a host read or AtomicOp: data, status 0 OK, 1 poisoned, 2 Completer Abort, 3 Unsupported Request, 4 Request
  Retry Status -/
  | bar2 (q : Nat) (data : Bytes) (status : Nat)
  /-- a mailbox reply: tag, status, payload -/
  | reply (q tag status : Nat) (data : Bytes)
  /-- the value a register read returns -/
  | value (v : Nat)
  /-- a flit sent on a port -/
  | flit (p : Nat) (data : Bytes)
  /-- an SPDM response: 0 accepted, 1 refused; the measurement block -/
  | spdm (q code : Nat) (data : Bytes)
  /-- TDO of the test-access chain, IDCODE, captured pins -/
  | tdo (e v : Nat)
  | pins (e v : Nat)
  deriving DecidableEq, Repr

/-- The whole block. -/
structure State where
  /-- commands waiting, first in, first out -/
  pending : List Instr := []
  /-- fabric cycles since cold reset (R60) -/
  fab : Nat := 0
  /-- register words written, by panel address; an unlisted one holds its reset value (R5, R8) -/
  regs : List (Nat × Nat) := []
  /-- stacked memory, scratchpads and schedule memories, in canonical form -/
  mem : List Host.Cell := []
  /-- the model's own counter of free values drawn -/
  fresh : Nat := 0
  clusters : List (Nat × Cluster) := []
  units : List (Nat × UnitState) := []
  /-- buckets by source: 4·cluster + class, 4096 + edge die -/
  buckets : List (Nat × Bucket) := []
  regions : List (Nat × Region) := []
  dies : List (Nat × Die) := []
  routers : List (Nat × Router) := []
  links : List (Nat × Link) := []
  flights : List Flight := []
  keepers : List (Nat × Keeper) := []
  mrs : List (Nat × Stack) := []
  ports : List (Nat × Port) := []
  edges : List (Nat × Edge) := []
  parts : List Partition := []
  fields : List (Nat × Field) := []
  quarters : List (Nat × Quarter) := []
  mgr : Manager := {}
  instA : Instance := {}
  instB : Instance := {}
  power : Power := {}
  sec : Security := {}
  /-- what the panel has sent to the outside, newest first -/
  out : List Output := []
  deriving DecidableEq, Repr

/-- The machine right after cold reset: every component at its reset value (R35, R394, R409). -/
def State.reset : State := {}

end Sys2Proof.Machine
end

