-- ==== Sys2Proof/Machine/Maps.lean ====
section
/-! DEFINITION. Sparse maps in canonical order, the records of the state by index, and the byte memory: reading,
writing and clearing runs of bytes, with the memory's canonical form. -/

namespace Sys2Proof.Machine

/-! ### Sparse maps: lists of (index, value) with rising indices -/

/-- The value at index k. -/
def find? {α : Type} (m : List (Nat × α)) (k : Nat) : Option α :=
  match m with
  | [] => none
  | (j, x) :: t => if j = k then some x else find? t k

/-- The value at index k, or d when the index is not listed. -/
def findD {α : Type} (m : List (Nat × α)) (k : Nat) (d : α) : α := (find? m k).getD d

/-- m with x at index k, rising order kept. -/
def putAt {α : Type} (m : List (Nat × α)) (k : Nat) (x : α) : List (Nat × α) :=
  match m with
  | [] => [(k, x)]
  | (j, y) :: t => if k < j then (k, x) :: (j, y) :: t else if k = j then (k, x) :: t else (j, y) :: putAt t k x

/-- m without index k. -/
def dropAt {α : Type} (m : List (Nat × α)) (k : Nat) : List (Nat × α) := m.filter fun p => p.1 != k

/-- m with n added to the number at index k. -/
def addAt (m : List (Nat × Nat)) (k n : Nat) : List (Nat × Nat) := putAt m k (findD m k 0 + n)

/-- A list of numbers with k added in rising order, once. -/
def insSorted (l : List Nat) (k : Nat) : List Nat :=
  match l with
  | [] => [k]
  | j :: t => if k < j then k :: j :: t else if k = j then j :: t else j :: insSorted t k

/-- l with the element at position i replaced by x. -/
def setNth {α : Type} (l : List α) (i : Nat) (x : α) : List α := l.set i x

/-- The first element that satisfies p is replaced by f of it. -/
def mapFirst {α : Type} (p : α → Bool) (f : α → α) : List α → List α
  | [] => []
  | x :: t => if p x then f x :: t else x :: mapFirst p f t

/-- The first element that satisfies p is taken out. -/
def eraseFirst {α : Type} (p : α → Bool) : List α → List α
  | [] => []
  | x :: t => if p x then t else x :: eraseFirst p t

/-! ### Records of the state by index -/

namespace State

/-- Cluster by physical number. -/
def cl (s : State) (c : Nat) : Cluster := findD s.clusters c {}
/-- Replace a cluster. -/
def setCl (s : State) (c : Nat) (x : Cluster) : State := { s with clusters := putAt s.clusters c x }
/-- Change a cluster. -/
def modCl (s : State) (c : Nat) (f : Cluster → Cluster) : State := s.setCl c (f (s.cl c))
/-- Unit by physical number. -/
def un (s : State) (u : Nat) : UnitState := findD s.units u {}
/-- Replace a unit. -/
def setUn (s : State) (u : Nat) (x : UnitState) : State := { s with units := putAt s.units u x }
/-- Change a unit. -/
def modUn (s : State) (u : Nat) (f : UnitState → UnitState) : State := s.setUn u (f (s.un u))
/-- Router by code. -/
def rtr (s : State) (r : Nat) : Router := findD s.routers r {}
/-- Replace a router. -/
def setRtr (s : State) (r : Nat) (x : Router) : State := { s with routers := putAt s.routers r x }
/-- Change a router. -/
def modRtr (s : State) (r : Nat) (f : Router → Router) : State := s.setRtr r (f (s.rtr r))
/-- Stack and memory router by number. -/
def mr (s : State) (n : Nat) : Stack := findD s.mrs n {}
/-- Replace a stack. -/
def setMr (s : State) (n : Nat) (x : Stack) : State := { s with mrs := putAt s.mrs n x }
/-- Change a stack. -/
def modMr (s : State) (n : Nat) (f : Stack → Stack) : State := s.setMr n (f (s.mr n))
/-- Bucket by source. -/
def bucket (s : State) (b : Nat) : Bucket := findD s.buckets b {}
/-- Replace a bucket. -/
def setBucket (s : State) (b : Nat) (x : Bucket) : State := { s with buckets := putAt s.buckets b x }
/-- Region by physical number. -/
def rgn (s : State) (r : Nat) : Region := findD s.regions r {}
/-- Replace a region. -/
def setRgn (s : State) (r : Nat) (x : Region) : State := { s with regions := putAt s.regions r x }
/-- Change a region. -/
def modRgn (s : State) (r : Nat) (f : Region → Region) : State := s.setRgn r (f (s.rgn r))
/-- Compute die by number. -/
def die (s : State) (d : Nat) : Die := findD s.dies d {}
/-- Replace a die. -/
def setDie (s : State) (d : Nat) (x : Die) : State := { s with dies := putAt s.dies d x }
/-- Change a die. -/
def modDie (s : State) (d : Nat) (f : Die → Die) : State := s.setDie d (f (s.die d))
/-- Link by record index. -/
def link (s : State) (l : Nat) : Link := findD s.links l {}
/-- Replace a link. -/
def setLink (s : State) (l : Nat) (x : Link) : State := { s with links := putAt s.links l x }
/-- Keeper of the die at a router. -/
def keeper (s : State) (r : Nat) : Keeper := findD s.keepers r {}
/-- Replace a keeper. -/
def setKeeper (s : State) (r : Nat) (x : Keeper) : State := { s with keepers := putAt s.keepers r x }
/-- Change a keeper. -/
def modKeeper (s : State) (r : Nat) (f : Keeper → Keeper) : State := s.setKeeper r (f (s.keeper r))
/-- Port by number. -/
def port (s : State) (p : Nat) : Port := findD s.ports p {}
/-- Replace a port. -/
def setPort (s : State) (p : Nat) (x : Port) : State := { s with ports := putAt s.ports p x }
/-- Change a port. -/
def modPort (s : State) (p : Nat) (f : Port → Port) : State := s.setPort p (f (s.port p))
/-- Edge die by number. -/
def edge (s : State) (e : Nat) : Edge := findD s.edges e {}
/-- Replace an edge die. -/
def setEdge (s : State) (e : Nat) (x : Edge) : State := { s with edges := putAt s.edges e x }
/-- Change an edge die. -/
def modEdge (s : State) (e : Nat) (f : Edge → Edge) : State := s.setEdge e (f (s.edge e))
/-- Field by index. -/
def fld (s : State) (f : Nat) : Field := findD s.fields f {}
/-- Replace a field. -/
def setFld (s : State) (f : Nat) (x : Field) : State := { s with fields := putAt s.fields f x }
/-- Quarter by index. -/
def qtr (s : State) (q : Nat) : Quarter := findD s.quarters q {}
/-- Replace a quarter. -/
def setQtr (s : State) (q : Nat) (x : Quarter) : State := { s with quarters := putAt s.quarters q x }
/-- Change a quarter. -/
def modQtr (s : State) (q : Nat) (f : Quarter → Quarter) : State := s.setQtr q (f (s.qtr q))
/-- Change the manager. -/
def modMgr (s : State) (f : Manager → Manager) : State := { s with mgr := f s.mgr }
/-- A manager instance: false A, true B. -/
def inst (s : State) (b : Bool) : Instance := if b then s.instB else s.instA
/-- Replace a manager instance. -/
def setInst (s : State) (b : Bool) (x : Instance) : State := if b then { s with instB := x } else { s with instA := x }
/-- What the panel sends to the outside. -/
def emit (s : State) (o : Output) : State := { s with out := o :: s.out }
/-- A free 32-bit value, and the counter behind it. -/
def drawWord (s : State) : Word × State := (Config.freeWord s.fresh, { s with fresh := s.fresh + 1 })
/-- A free choice among n alternatives. -/
def drawChoice (s : State) (n : Nat) : Nat × State := (Config.freeChoice s.fresh % n, { s with fresh := s.fresh + 1 })

end State

/-! ### Registers by panel address -/

/-- The row of a table that holds offset o. -/
def rowAtOff (rows : List RegRow) (o : Nat) : Option RegRow :=
  rows.find? fun r =>
    r.off ≤ o && (if r.count ≤ 1 then o < r.off + (if r.wide then 8 else 4)
      else (o - r.off) / r.stride < r.count && (o - r.off) % r.stride < (if r.wide then 8 else 4))

/-- The address at which the register that holds offset o begins. -/
def rowStart (r : RegRow) (o : Nat) : Nat :=
  if r.count ≤ 1 then r.off else r.off + r.stride * ((o - r.off) / r.stride)

/-- The register block a panel address lies in: its table and its base (R182, R184, R343). -/
def blockAt (a : Nat) : Option (List RegRow × Nat) :=
  let area := a / 0x10000000 * 0x10000000
  let o := a % 0x10000000
  if a < 0xF0000000000 then none
  else if a < 0xF1000000000 then
    if o < 0x10000 then some (rtrRows, area)
    else if o < 0x20000 then some (gtRows, area + 0x10000)
    else if o < 0x30000 then some (dmonRows, area + 0x20000)
    else if 0x1000000 ≤ o ∧ o < 0x1400000 then
      let b := area + o / 0x100000 * 0x100000
      let k := o % 0x100000
      if k < 0x10000 then some (seqRows, b)
      else if k < 0x20000 then some (seRows, b + 0x10000)
      else if k < 0x30000 then some (queRows, b + 0x20000)
      else if k < 0x40000 then some (shpRows, b + 0x30000)
      else none
    else if 0x2000000 ≤ o ∧ o < 0x3000000 then some (unitRows, area + o / 0x100000 * 0x100000)
    else none
  else if a < 0xF1800000000 then
    if o < 0x10000 then some (mrRows, area)
    else if o < 0x20000 then some (rtrRows, area + 0x10000)
    else none
  else if a < 0xF1900000000 then
    if o < 0x10000 then some (rtrRows, area)
    else if o < 0x20000 then some (gtRows, area + 0x10000)
    else if o < 0x30000 then some (shpRows, area + 0x20000)
    else if o < 0x40000 then some (qcRows, area + 0x30000)
    else if o < 0x50000 then some (hstRows, area + 0x40000)
    else none
  else if area = managerArea then
    if o < 0x10000 then some (pmRows, area)
    else if o < 0x20000 then some (gtRows, area + 0x10000)
    else if o < 0x30000 then some (pwrRows, area + 0x20000)
    else if o < 0x40000 then some (thmRows, area + 0x30000)
    else if o < 0x50000 then some (secRows, area + 0x40000)
    else none
  else none

/-- The register at a panel address: its row and the address it begins at. -/
def regAt (a : Nat) : Option (RegRow × Nat) :=
  match blockAt a with
  | none => none
  | some (rows, b) =>
    match rowAtOff rows (a - b) with
    | none => none
    | some r => some (r, b + rowStart r (a - b))

/-- The reset value the tables give the register that begins at a. -/
def regReset (a : Nat) : Nat := match regAt a with | some (r, _) => r.reset | none => 0

namespace State

/-- The stored value of the register that begins at a. -/
def reg (s : State) (a : Nat) : Nat :=
  match find? s.regs a with
  | some v => v
  | none => regReset a

/-- The hardware gives a register a value. -/
def setReg (s : State) (a v : Nat) : State := { s with regs := putAt s.regs a v }

/-- A field [hi:lo] of a register. -/
def regField (s : State) (a hi lo : Nat) : Nat := bits (s.reg a) hi lo

/-- The hardware gives a field of a register a value. -/
def setField (s : State) (a hi lo v : Nat) : State := s.setReg a (putBits (s.reg a) hi lo v)

/-- A counter's value (R9): cold reset leaves every counter 0. -/
def ctr (s : State) (a : Nat) : Nat := findD s.regs a 0

/-- A counter advances by n and stops at 2^48 − 1 (R9). -/
def bumpBy (s : State) (a n : Nat) : State :=
  if n = 0 then s else { s with regs := putAt s.regs a (min (s.ctr a + n) 0xFFFFFFFFFFFF) }

/-- A counter advances by one (R9). -/
def bump (s : State) (a : Nat) : State := s.bumpBy a 1

end State

/-! ### CRC-64 and CRC-32C -/

/-- One bit of a left-shifting CRC-64 with the ECMA-182 polynomial (R191). -/
def crc64Bit (c : Nat) : Nat :=
  if c < 2 ^ 63 then 2 * c else (2 * c % 2 ^ 64) ^^^ 0x42F0E1EBA9EA3693

/-- One byte of the CRC-64 of R191. -/
def crc64Byte (c : Nat) (b : Byte) : Nat :=
  let c := c ^^^ (b.toNat * 2 ^ 56)
  crc64Bit (crc64Bit (crc64Bit (crc64Bit (crc64Bit (crc64Bit (crc64Bit (crc64Bit c)))))))

/-- The block check: CRC-64 over bytes in ascending address order (R191). -/
def crc64 (bs : Bytes) : Nat := (bs.foldl crc64Byte 0xFFFFFFFFFFFFFFFF) ^^^ 0xFFFFFFFFFFFFFFFF

/-- One bit of the reflected CRC-32C (R295). -/
def crc32Bit (c : Nat) : Nat := if c % 2 = 1 then (c / 2) ^^^ 0x82F63B78 else c / 2

/-- One byte of the CRC-32C of R295. -/
def crc32Byte (c : Nat) (b : Byte) : Nat :=
  let c := c ^^^ b.toNat
  crc32Bit (crc32Bit (crc32Bit (crc32Bit (crc32Bit (crc32Bit (crc32Bit (crc32Bit c)))))))

/-- CRC-32C with the Castagnoli polynomial, reflected (R295). -/
def crc32c (bs : Bytes) : Nat := (bs.foldl crc32Byte 0xFFFFFFFF) ^^^ 0xFFFFFFFF

/-! ### Byte memory: stack n at n·2^36, scratchpad of physical unit u at 2^44 + u·2^23, schedule memory of physical
cluster c at 2^45 + c·2^16 -/

/-- Where a byte of stack n lies in the memory of the model. -/
def stackAt (n off : Nat) : Nat := n * 2 ^ 36 + off
/-- Where a byte of the scratchpad of physical unit u lies. -/
def spadAt (u off : Nat) : Nat := 2 ^ 44 + u * 2 ^ 23 + off
/-- Where a byte of the schedule memory of physical cluster c lies. -/
def schedAt (c off : Nat) : Nat := 2 ^ 45 + c * 2 ^ 16 + off

/-- The check value of a block of zeros (R375: stacks leave bring-up zeroed, with correct checks). -/
def zeroBlockCheck : Nat := 0x30E49604E9C61EC3

/-- What a byte that nothing has written reads as: 0, and in a check store the check value of a zeroed block (R375). -/
def memDefault (a : Nat) : Byte :=
  if a < 2 ^ 43 ∧ checkStoreBase ≤ a % 2 ^ 36 then BitVec.ofNat 8 (zeroBlockCheck / 256 ^ (a % 8)) else 0

/-- One byte of a memory. -/
def memByte (m : List Host.Cell) (a : Nat) : Byte := findD m a (memDefault a)

/-- n bytes from address a; a memory that lists nothing reads as unwritten. -/
def memRead (m : List Host.Cell) (a n : Nat) : Bytes :=
  match m with
  | [] => (List.range n).map fun i => memDefault (a + i)
  | c :: t => (List.range n).map fun i => memByte (c :: t) (a + i)

/-- The cells of a run of bytes that differ from what an unlisted address reads as. -/
def runCells : Nat → Bytes → List Host.Cell
  | _, [] => []
  | a, b :: bs => if b = memDefault a then runCells (a + 1) bs else (a, b) :: runCells (a + 1) bs

/-- A memory with a run of bytes written. -/
def memWrite (m : List Host.Cell) (a : Nat) (bs : Bytes) : List Host.Cell :=
  m.filter (fun c => decide (c.1 < a)) ++ runCells a bs ++ m.filter (fun c => decide (a + bs.length ≤ c.1))

/-- A memory in which n bytes from a read as unwritten ones do. -/
def memClear (m : List Host.Cell) (a n : Nat) : List Host.Cell :=
  m.filter fun c => decide (c.1 < a) || decide (a + n ≤ c.1)

/-- The canonical form: addresses strictly rise and no cell holds what its address would read as unlisted. -/
def memWf : List Host.Cell → Bool
  | [] => true
  | [c] => decide (c.2 ≠ memDefault c.1)
  | c :: d :: t => decide (c.1 < d.1) && decide (c.2 ≠ memDefault c.1) && memWf (d :: t)

namespace State

/-- n bytes of memory from a. -/
def read (s : State) (a n : Nat) : Bytes := memRead s.mem a n
/-- A run of bytes is written. -/
def write (s : State) (a : Nat) (bs : Bytes) : State := { s with mem := memWrite s.mem a bs }
/-- n bytes are cleared. -/
def clear (s : State) (a n : Nat) : State := { s with mem := memClear s.mem a n }

end State

end Sys2Proof.Machine
end

