-- ==== Sys2Proof/Machine/Ops.lean ====
section
/-! DEFINITION. Named operations that many commands share: time and clocks, positions and partitions, free list of
tag numbers, group counts and completions. -/

namespace Sys2Proof.Machine

/-- A command that leaves the block as it finds it. -/
abbrev Res := Host.Outcome State Fault Refusal

/-- An event whose cause is not present does nothing (DESIGN CHOICE, log entry 3). -/
def when_ (c : Bool) (s t : State) : Res := .next (if c then t else s)

/-! ### Time (R35, R60) -/

/-- Global time of the keeper at a router, in ns (R35). -/
def nsAt (s : State) (site : Nat) : Nat := ((s.fab / 2 : Nat) + (s.keeper site).adj).toNat

/-- The active manager's own time in ns (R36, R509). -/
def mgrNs (s : State) : Nat := ((s.fab / 2 : Nat) + s.mgr.adj).toNat

/-- Slew steps of one nanosecond due by fabric cycle f, `gap` cycles apart (R36): steps still to make, cycle of the last
step. -/
def slewSteps (toSlew : Int) (last gap f : Nat) : Nat := min toSlew.natAbs ((f - last) / gap)

/-- A keeper at fabric cycle f: one slew step in any 5,000 time-clock cycles (R36). -/
def slewKeeper (f : Nat) (k : Keeper) : Keeper :=
  let n := slewSteps k.toSlew k.slewAt 10000 f
  if n = 0 then k
  else { k with adj := k.adj + k.toSlew.sign * n, toSlew := k.toSlew - k.toSlew.sign * n, slewAt := k.slewAt + 10000 * n }

/-- The manager at fabric cycle f: it slews at 100 ppm (R39). -/
def slewMgr (f : Nat) (m : Manager) : Manager :=
  let n := slewSteps m.toSlew m.slewAt 20000 f
  if n = 0 then m
  else { m with adj := m.adj + m.toSlew.sign * n, toSlew := m.toSlew - m.toSlew.sign * n, slewAt := m.slewAt + 20000 * n }

/-- The clock moves on to fabric cycle f when that lies ahead (DESIGN CHOICE, log entry 4: a command whose rule gives it
an instant is the event at that instant); the slew steps on the way are made (R36, R39). -/
def advFab (s : State) (f : Nat) : State :=
  if f ≤ s.fab then s
  else { s with fab := f, keepers := s.keepers.map fun k => (k.1, slewKeeper f k.2), mgr := slewMgr f s.mgr }

/-- A keeper is to slew by d ns from now on (R36). -/
def setSlew (s : State) (site : Nat) (d : Int) : State :=
  s.modKeeper site fun k => { k with toSlew := d, slewAt := max k.slewAt (s.fab - 10000) }

/-- The manager is to slew by d ns from now on (R39). -/
def setMgrSlew (s : State) (d : Int) : State :=
  s.modMgr fun m => { m with toSlew := d, slewAt := max m.slewAt (s.fab - 20000) }

/-- The fabric cycle at which a clock that reads half the cycle count plus `adj`, and makes one slew step of `toSlew` in each
`gap` cycles from `last` on, first reads t ns (R36, R39).  The steps on the way move the instant, and the instant decides how
many they are: eight rounds settle it, since each round changes the number by one part in `gap`. -/
def slewInstant (adj toSlew : Int) (last gap t : Nat) : Nat :=
  let steps (f : Nat) : Nat := slewSteps toSlew last gap f
  let at_ (n : Nat) : Nat := (2 * ((t : Int) - adj - toSlew.sign * n)).toNat
  let f := (List.range 8).foldl (fun f _ => at_ (steps f)) (at_ 0)
  let g := at_ (steps f)
  if f = g then f else max (min f g) (last + gap * max (steps f) (steps g))

/-- The fabric cycle at which the keeper at a router reads t ns. -/
def keeperInstant (s : State) (site t : Nat) : Nat :=
  let k := s.keeper site
  slewInstant k.adj k.toSlew k.slewAt 10000 t

/-- The fabric cycle at which the manager reads t ns. -/
def mgrInstant (s : State) (t : Nat) : Nat := slewInstant s.mgr.adj s.mgr.toSlew s.mgr.slewAt 20000 t

/-- The clock moves on until the keeper at a router reads t ns. -/
def advNs (s : State) (site t : Nat) : State := advFab s (keeperInstant s site t)

/-- The clock moves on until the manager reads t ns. -/
def advMgr (s : State) (t : Nat) : State := advFab s (mgrInstant s t)

/-- Whole 25 MHz reference edges in the interval of fabric cycles (a, b] (R60, R441). -/
def refEdges (a b : Nat) : Nat := b / 80 - a / 80

/-! ### Region clocks (R48, R51, R52) -/

/-- Target frequency of an operating point in MHz (R48). -/
def pointMhz (p : Nat) : Nat :=
  [300, 350, 400, 475, 550, 625, 700, 775, 850, 925, 1000, 1050, 1100, 1200, 1300, 1400].getD p 550

/-- Floor frequency of an operating point in MHz: 0.80 of the target (R48). -/
def pointFloor (p : Nat) : Nat := pointMhz p * 4 / 5

/-- VCORE of an operating point in mV (R48). -/
def pointMv (p : Nat) : Nat :=
  [550, 555, 560, 570, 580, 595, 610, 625, 640, 660, 680, 700, 720, 760, 805, 850].getD p 580

/-- Clocks a region has counted: at its frequency in force, and at the next one from the cycle it takes force. -/
def rgnClock (s : State) (r : Nat) : Nat :=
  let g := s.rgn r
  match g.later with
  | some (t, f) =>
    if t < s.fab then g.clocks + g.mhz * (t - g.since) / 2000 + f * (s.fab - t) / 2000
    else g.clocks + g.mhz * (s.fab - g.since) / 2000
  | none => g.clocks + g.mhz * (s.fab - g.since) / 2000

/-- The frequency a region runs at: its point's target, its floor under an alert or a droop, P0's after a trip, nothing
while its headers are open or its clock is stopped (R51, R52, R364, R441, R446). -/
def rgnTarget (s : State) (r : Nat) : Nat :=
  let g := s.rgn r
  let p := if (s.die (r / 2)).tripped then 0 else g.point
  if g.hdr ≠ 2 ∨ g.stalled then 0
  else if g.droop ∨ s.power.fda ≠ 0 then pointFloor p
  else pointMhz p

/-- A region takes the frequency its state asks for, its clock count carried on. -/
def retime (s : State) (r : Nat) : State :=
  s.setRgn r { s.rgn r with clocks := rgnClock s r, since := s.fab, mhz := rgnTarget s r, later := none }

/-- A region takes the frequency its state asks for at a later cycle (R441). -/
def retimeAt (s : State) (r t : Nat) : State :=
  s.setRgn r { s.rgn r with clocks := rgnClock s r, since := s.fab, mhz := (s.rgn r).mhz, later := some (t, rgnTarget s r) }

/-- A die's trip ends: both regions return to the frequency their point asks for (R446). -/
def untripDie (s : State) (d : Nat) : State :=
  let s := (s.modDie d fun x => { x with tripped := false }).setField (thmDieTempAt d) 24 24 0
  retime (retime s (2 * d)) (2 * d + 1)

/-- The first fabric cycle at which a region's count reaches k. -/
def fabOfClock (s : State) (r k : Nat) : Nat :=
  let g := s.rgn r
  let at_ (since clocks mhz : Nat) : Nat :=
    if mhz = 0 then s.fab else since + ((k - clocks) * 2000 + mhz - 1) / mhz
  match g.later with
  | some (t, f) =>
    let c := g.clocks + g.mhz * (t - g.since) / 2000
    if k ≤ c then at_ g.since g.clocks g.mhz else at_ t c f
  | none => at_ g.since g.clocks g.mhz

/-- The clock moves on until a region has counted k clocks. -/
def advClock (s : State) (r k : Nat) : State :=
  if rgnClock s r ≥ k then s else advFab s (fabOfClock s r k)

/-- Is the region's clock running? -/
def rgnRuns (s : State) (r : Nat) : Bool := (s.rgn r).mhz != 0

/-- Region of a physical cluster. -/
def cluRgn (c : Nat) : Nat := c / 2
/-- Region of a physical unit. -/
def unitRgn (u : Nat) : Nat := u / 8
/-- Cluster of a physical unit. -/
def unitClu (u : Nat) : Nat := u / 4
/-- Keeper site of a physical cluster. -/
def cluSite (c : Nat) : Nat := dieSite (c / 4)
/-- Quarter of a physical cluster. -/
def cluQuarter (c : Nat) : Nat := dieQuarter (c / 4)
/-- Global time at a cluster. -/
def cluNs (s : State) (c : Nat) : Nat := nsAt s (cluSite c)
/-- Region clock of a cluster. -/
def cluClk (s : State) (c : Nat) : Nat := rgnClock s (cluRgn c)
/-- Region clock of a unit. -/
def unitClk (s : State) (u : Nat) : Nat := rgnClock s (unitRgn u)

/-! ### Logical and physical positions (R416 to R418) -/

/-- The physical die that holds logical die index L = 15·f + l. -/
def dieOfLogical (s : State) (l : Nat) : Option Nat := ((s.fld (l / 15)).map.getD (l % 15) none)

/-- The logical die index a physical die holds. -/
def logicalOfDie (s : State) (d : Nat) : Option Nat :=
  let f := dieField d
  ((List.range 15).find? fun l => (s.fld f).map.getD l none == some d).map fun l => 15 * f + l

/-- The physical cluster of a logical cluster index (R416). -/
def cluOfLogical (s : State) (l : Nat) : Option Nat :=
  if l < 960 then (dieOfLogical s (l / 4)).map fun d => 4 * d + l % 4 else none

/-- The logical cluster index of a physical cluster. -/
def logicalOfClu (s : State) (c : Nat) : Option Nat := (logicalOfDie s (c / 4)).map fun l => 4 * l + c % 4

/-- The physical unit of a logical unit index (R416). -/
def unitOfLogical (s : State) (l : Nat) : Option Nat :=
  if l < 3840 then (dieOfLogical s (l / 16)).map fun d => 16 * d + l % 16 else none

/-- The logical unit index of a physical unit: lpos of R79. -/
def logicalOfUnit (s : State) (u : Nat) : Option Nat := (logicalOfDie s (u / 16)).map fun l => 16 * l + u % 16

/-- The logical clusters of the fields of a quarter mask, mapped to a die. -/
def maskClusters (s : State) (m : Nat) : List Nat :=
  (List.range 16).flatMap fun f =>
    if bit m (fieldQuarter f) then
      ((s.fld f).map.filterMap id).flatMap fun d => (List.range 4).map fun k => 4 * d + k
    else []

/-- Every physical cluster of the quarters of a mask, spares and withdrawn dies among them. -/
def allClusters (m : Nat) : List Nat := (List.range 1024).filter fun c => bit m (cluQuarter c)

/-! ### Partitions (R32) -/

/-- The partition that owns quarter q. -/
def partOf (s : State) (q : Nat) : Option Partition := s.parts.find? fun p => bit p.qmask q

/-- The partition that owns quarter q, or one of no quarter. -/
def partD (s : State) (q : Nat) : Partition := (partOf s q).getD { qmask := 0, cfg := {} }

/-- Change the partition that owns quarter q. -/
def modPart (s : State) (q : Nat) (f : Partition → Partition) : State :=
  { s with parts := mapFirst (fun p => bit p.qmask q) f s.parts }

/-- The stream in force for quarter q. -/
def cfgOf (s : State) (q : Nat) : Option StreamCfg := (partOf s q).map (·.cfg)

/-- Mask of the quarters of q's partition; q alone when it belongs to none, which makes it a partition of its own for the
firewall (R32, R231; DESIGN CHOICE, log entry 123). -/
def qmaskOf (s : State) (q : Nat) : Nat := match partOf s q with | some p => p.qmask | none => 2 ^ q

/-- Is the quarter in Dawn service? (PM_SVC_STAT.SVC, R385, R388) -/
def inDawn (s : State) (q : Nat) : Bool := (s.qtr q).svc == 1

/-- Index of the frame in progress (GT_FRAME.INDEX, R45, R47). -/
def frameIndex (p : Partition) : Nat :=
  if p.tick && p.joinTo.isNone && p.period ≠ 0 then p.lastEdge / p.period % 2 ^ 48 else 0

/-- Lowest quarter of a partition, whose edge dies and counters stand for it. -/
def partQ (p : Partition) : Nat := lowestQuarter p.qmask

/-- Frame index a cluster sees. -/
def cluFrame (s : State) (c : Nat) : Nat := (s.cl c).frameIdx

/-! ### Tag numbers -/

/-- The lowest number below n that the list does not hold: one of the first length + 1 numbers is missing from it. -/
def lowestFree (used : List Nat) (n : Nat) : Option Nat :=
  ((List.range (used.length + 1)).find? fun k => !used.contains k).filter fun k => decide (k < n)

/-! ### Completion of descriptors (R142, R147) -/

/-- SUSPECT, ERROR and CANCELLED as the flags of R147. -/
def stOk : Nat := 0
/-- SUSPECT -/
def stSuspect : Nat := 1
/-- ERROR -/
def stError : Nat := 2
/-- CANCELLED -/
def stCancelled : Nat := 4

/-- A completion count with one more, saturating at 2^24 − 1 (R159). -/
def grpAdd (m : List (Nat × Nat)) (g : Nat) : List (Nat × Nat) := putAt m g (min (findD m g 0 + 1) 0xFFFFFF)

/-- Has physical unit u a pair under the stream in force (R309)? -/
def isPaired (s : State) (u : Nat) : Bool :=
  match cfgOf s (dieQuarter (u / 16)), logicalOfUnit s u with
  | some cfg, some l => cfg.pairs.any fun p => p.1 == l
  | _, _ => false

/-- The earliest sets whose slots have all been read and acknowledged are complete: FRAME becomes the last one's (R425). -/
def retireSets (s : State) (u : Nat) : State :=
  let x := s.un u
  let done := x.sets.takeWhile fun t => t.2.1.isEmpty && t.2.2.isEmpty
  match done.getLast? with
  | none => s
  | some t => (s.setUn u { x with sets := x.sets.drop done.length }).setReg (unitShadowStatAt u) (t.1 % 2 ^ 32 * 2 ^ 32 + 2 ^ 15)

/-- The Shadow engine of a unit takes its dirty set at a work end of frame F (R425). -/
def takeDirtyUnit (s : State) (u frame : Nat) : State :=
  if isPaired s u then
    let x := s.un u
    let s := s.setUn u { x with dirty := [], sets := x.sets ++ [(frame, x.dirty, [])] }
    retireSets (if x.sets.isEmpty then s else s.bump (unitShadowLagCntAt u)) u
  else s

/-- The four Shadow engines of a cluster at its work end (R425). -/
def takeDirty (s : State) (c : Nat) : State :=
  (List.range 4).foldl (fun s i => takeDirtyUnit s (4 * c + i) (s.cl c).frameIdx) s

/-- The work end of a frame: FEND has run and nothing dispatched is open (R142).  Late work that ends sends the
sequencer to wait for the next edge (R58); a trapped one has no work end. -/
def checkEnd (s : State) (c : Nat) : State :=
  let x := s.cl c
  if x.live.isEmpty && x.stall.isNone then
    match x.late with
    | some _ =>
      if x.seq == .ended then takeDirty (s.setCl c { x with seq := .waitEdge }) c
      else if x.seq == .trapped then s.setCl c { x with seq := .waitEdge } else s
    | none =>
      if x.seq == .ended && x.workEnd.isNone then
        takeDirty (s.setCl c { x with workEnd := some (cluClk s c - x.frameClk, cluNs s c) }) c
      else s
  else s

/-- A descriptor completes with a status: its group's count and flags, the frame's SUSPECT mark and the counter; late
work that would complete OK completes SUSPECT (R57, R147). -/
def complete (s : State) (c did st : Nat) : State :=
  let x := s.cl c
  match find? x.live did with
  | none => s
  | some g =>
    let st := if x.late.isSome && st == 0 then stSuspect else st
    let s := s.setCl c { x with
      live := dropAt x.live did
      grpCnt := grpAdd x.grpCnt g
      grpFlags := putAt x.grpFlags g (findD x.grpFlags g 0 ||| st) }
    let s := if st &&& 3 ≠ 0 then s.setField (seqFrameUseAt c) 0 0 1 else s
    let s := if bit st 0 then s.bump (seqSuspectCntAt c) else s
    checkEnd s c

/-- An illegal descriptor: SEQ_DESC_ERR records it, the counter advances and it completes ERROR (R146). -/
def descError (s : State) (c : Nat) (d : Desc) (code : Nat) : State :=
  let w := d.raw.toNat
  let s := s.setReg (seqDescErrAt c)
    (bits w 31 16 * 2 ^ 48 + code * 2 ^ 32 + bits w 3 0 * 2 ^ 28 + bits w 5 4 * 2 ^ 26 + 2 ^ 25 + cluFrame s c % 2 ^ 20)
  complete (s.bump (seqDescErrCntAt c)) c d.did stError

end Sys2Proof.Machine
end

