-- ==== Sys2Proof/Machine/Clock.lean ====
section
/-! DEFINITION. What one fabric cycle does when no command waits. -/

namespace Sys2Proof.Machine

/-- The fabric clock advances one cycle of 0.5 ns (R60). -/
def idleCycle (s : State) : State := advFab s (s.fab + 1)

end Sys2Proof.Machine
end

