-- ==== Sys2Proof/Machine/Formats.lean ====
section
/-! DEFINITION. Number formats, exact values, rounding and conversion (R69 to R79).  Every intermediate value is an
exact dyadic number; a rounding happens only where a rule names one. -/

namespace Sys2Proof.Machine

/-- An exact extended value: NaN, an infinity, or (-1)^neg · m · 2^e. -/
inductive FV where
  | nan
  | inf (neg : Bool)
  | fin (neg : Bool) (m : Nat) (e : Int)
  deriving DecidableEq, Repr

/-- The formats of R69. -/
inductive Format where
  | fp32 | bf16 | fp16 | e4m3 | e5m2 | e2m3 | e3m2 | e2m1 | mxint8
  deriving DecidableEq, Repr

/-- The format a code of R69 names; 0x9 to 0xF are reserved. -/
def formatOfCode : Nat → Option Format
  | 0 => some .fp32 | 1 => some .bf16 | 2 => some .fp16 | 3 => some .e4m3 | 4 => some .e5m2
  | 5 => some .e2m3 | 6 => some .e3m2 | 7 => some .e2m1 | 8 => some .mxint8 | _ => none

/-- True for the MX element formats. -/
def Format.isMx : Format → Bool
  | .fp32 | .bf16 | .fp16 => false
  | _ => true

/-- Elements per 16-byte cell (R110). -/
def Format.perCell : Format → Nat
  | .fp32 => 4 | .bf16 => 8 | .fp16 => 8 | .e2m1 => 32 | _ => 16

/-- Exponent width, mantissa width and bias of R69 (MXINT8 has none of them). -/
def Format.layout : Format → Nat × Nat × Nat
  | .fp32 => (8, 23, 127) | .bf16 => (8, 7, 127) | .fp16 => (5, 10, 15) | .e4m3 => (4, 3, 7)
  | .e5m2 => (5, 2, 15) | .e2m3 => (2, 3, 1) | .e3m2 => (3, 2, 3) | .e2m1 => (2, 1, 1) | .mxint8 => (0, 7, 0)

/-- emax of R70. -/
def Format.emax : Format → Int
  | .e4m3 => 8 | .e5m2 => 15 | .e2m3 => 2 | .e3m2 => 4 | .e2m1 => 2 | _ => 0

/-- The encoding of the largest finite magnitude (R69). -/
def Format.maxCode : Format → Nat
  | .fp32 => 0x7F7FFFFF | .bf16 => 0x7F7F | .fp16 => 0x7BFF | .e4m3 => 0x7E | .e5m2 => 0x7B
  | .e2m3 => 0x1F | .e3m2 => 0x1F | .e2m1 => 0x7 | .mxint8 => 127

/-- The exponent of the last place of the smallest subnormal. -/
def Format.lsbMin (f : Format) : Int :=
  match f with
  | .mxint8 => -6
  | _ => 1 - (f.layout.2.2 : Int) - (f.layout.2.1 : Int)

/-- The position of the sign bit of a float format. -/
def Format.signBit (f : Format) : Nat := f.layout.1 + f.layout.2.1

/-- The value of one element's encoding, without any block scale (R69 to R71). -/
def decodeElem (f : Format) (v : Nat) : FV :=
  let (eb, mb, bias) := f.layout
  match f with
  | .mxint8 => let i := toSigned 8 v; .fin (decide (i < 0)) i.natAbs (-6)
  | _ =>
    let neg := bit v (eb + mb)
    let ex := bits v (eb + mb - 1) mb
    let fr := bits v (mb - 1) 0
    let top := ex + 1 == 2 ^ eb
    let special : Option FV :=
      match f with
      | .fp32 | .bf16 | .fp16 | .e5m2 => if top then (if fr = 0 then some (.inf neg) else some .nan) else none
      | .e4m3 => if top && fr == 7 then some .nan else none
      | _ => none
    match special with
    | some x => x
    | none =>
      if ex = 0 then .fin neg fr (1 - (bias : Int) - mb)
      else .fin neg (2 ^ mb + fr) ((ex : Int) - bias - mb)

/-- The value of an FP32 word. -/
def ofFp32 (w : Word) : FV := decodeElem .fp32 w.toNat

/-- True for a finite value. -/
def FV.isFinite : FV → Bool
  | .fin _ _ _ => true
  | _ => false

/-- True for a NaN. -/
def FV.isNan : FV → Bool
  | .nan => true
  | _ => false

/-- The sign of a value (false for NaN). -/
def FV.sign : FV → Bool
  | .nan => false
  | .inf n => n
  | .fin n _ _ => n

/-- The value with its sign changed. -/
def FV.neg : FV → FV
  | .nan => .nan
  | .inf n => .inf (!n)
  | .fin n m e => .fin (!n) m e

/-- The magnitude. -/
def FV.abs : FV → FV
  | .nan => .nan
  | .inf _ => .inf false
  | .fin _ m e => .fin false m e

/-- The value times 2^k, the zero's sign kept (R65). -/
def FV.scale (k : Int) : FV → FV
  | .fin n m e => .fin n m (e + k)
  | x => x

/-- The exact product (R72). -/
def FV.mul : FV → FV → FV
  | .nan, _ => .nan
  | _, .nan => .nan
  | .inf a, .inf b => .inf (a != b)
  | .inf a, .fin b m _ => if m = 0 then .nan else .inf (a != b)
  | .fin a m _, .inf b => if m = 0 then .nan else .inf (a != b)
  | .fin a m e, .fin b n f => .fin (a != b) (m * n) (e + f)

/-- A signed integer as a value scaled by 2^e, zero positive. -/
def FV.ofInt (i : Int) (e : Int) : FV := .fin (decide (i < 0)) i.natAbs e

/-- The exact sum; an exact zero takes the sign IEEE 754-2019 gives it under round-to-nearest-even (R72). -/
def FV.add : FV → FV → FV
  | .nan, _ => .nan
  | _, .nan => .nan
  | .inf a, .inf b => if a = b then .inf a else .nan
  | .inf a, .fin _ _ _ => .inf a
  | .fin _ _ _, .inf b => .inf b
  | .fin a m e, .fin b n f =>
    let lo := min e f
    let x : Int := (if a then -1 else 1) * ((m * 2 ^ (e - lo).toNat : Nat) : Int)
    let y : Int := (if b then -1 else 1) * ((n * 2 ^ (f - lo).toNat : Nat) : Int)
    if x + y = 0 then .fin (a && b) 0 lo else FV.ofInt (x + y) lo

/-- The exact sum of a list, +0 when it is empty (a list of only −0 sums to −0, R65). -/
def FV.sum : List FV → FV
  | [] => .fin false 0 0
  | x :: xs => xs.foldl FV.add x

/-- Ordering of two finite values or infinities by magnitude and sign: is a < b (−0 and +0 compare equal). -/
def FV.lt (a b : FV) : Bool :=
  match a, b with
  | .nan, _ => false
  | _, .nan => false
  | .inf x, .inf y => x && !y
  | .inf x, .fin _ _ _ => x
  | .fin _ _ _, .inf y => !y
  | .fin x m e, .fin y n f =>
    let lo := min e f
    let p : Int := (if x then -1 else 1) * ((m * 2 ^ (e - lo).toNat : Nat) : Int)
    let q : Int := (if y then -1 else 1) * ((n * 2 ^ (f - lo).toNat : Nat) : Int)
    decide (p < q)

/-- How a magnitude is rounded: nearest-even, toward zero, away from zero, or stochastically with the 16-bit draw
of R79. -/
inductive Rounding where
  | rne | rtz | up
  | sr (rnd16 : Nat)
  deriving DecidableEq, Repr

/-- The magnitude m · 2^e rounded to prec significant bits, its last place at least 2^lsbMin: the pair (q, l) stands
for q · 2^l (R65, R74, R78). -/
def roundMag (prec : Nat) (lsbMin : Int) (rm : Rounding) (m : Nat) (e : Int) : Nat × Int :=
  if m = 0 then (0, lsbMin)
  else
    let lsb := max lsbMin (e + (Nat.log2 m : Int) - ((prec : Int) - 1))
    if lsb ≤ e then (m * 2 ^ (e - lsb).toNat, lsb)
    else
      let sh := (lsb - e).toNat
      let q := m / 2 ^ sh
      let r := m % 2 ^ sh
      let q' :=
        match rm with
        | .rne => if 2 * r > 2 ^ sh || (2 * r == 2 ^ sh && q % 2 == 1) then q + 1 else q
        | .rtz => q
        | .up => if r = 0 then q else q + 1
        | .sr rnd => if rnd < r * 65536 / 2 ^ sh then q + 1 else q
      (q', lsb)

/-- The unsigned encoding of q · 2^l in a layout of mb mantissa bits: consecutive magnitudes have consecutive
encodings. -/
def encodeMag (mb : Nat) (lsbMin : Int) (q : Nat) (l : Int) : Nat := (l - lsbMin).toNat * 2 ^ mb + q

/-- The canonical NaN of the array and the lanes (R72, R96). -/
def canonicalNan : Word := 0x7FC00000

/-- An exact value rounded once to FP32. -/
def toFp32With (rm : Rounding) : FV → Word
  | .nan => canonicalNan
  | .inf n => BitVec.ofNat 32 (0x7F800000 + b2n n * 2 ^ 31)
  | .fin n m e =>
    let (q, l) := roundMag 24 (-149) rm m e
    let c := encodeMag 23 (-149) q l
    BitVec.ofNat 32 ((if c ≥ 0x7F800000 then 0x7F800000 else c) + b2n n * 2 ^ 31)

/-- An exact value rounded once to FP32, to nearest even (R65, R96). -/
def toFp32 (x : FV) : Word := toFp32With .rne x

/-- A value rounded to p significant bits with round-to-nearest-even and unbounded exponent (R73, R81). -/
def roundBits (p : Nat) : FV → FV
  | .fin n m e =>
    if m = 0 then .fin n 0 e
    else
      let (q, l) := roundMag p (e - 100000) .rne m e
      .fin n q l
  | x => x

/-- The counts a conversion adds to UNIT_CVT_SAT_CNT and UNIT_CVT_NAN_CNT (R77). -/
structure CvtCount where
  sat : Nat
  nan : Nat
  deriving DecidableEq, Repr

/-- Conversion of one FP32 value to BF16 or FP16 (R74, R75, R77, R78). -/
def convert16 (f : Format) (rm : Rounding) (sat : Bool) (w : Word) : Nat × CvtCount :=
  let sb := f.signBit
  let inf := f.maxCode + 1
  match ofFp32 w with
  | .nan => (match f with | .fp16 => 0x7E00 | _ => 0x7FC0, ⟨0, 1⟩)
  | .inf n => if sat then (f.maxCode + b2n n * 2 ^ sb, ⟨1, 0⟩) else (inf + b2n n * 2 ^ sb, ⟨0, 0⟩)
  | .fin n m e =>
    let (q, l) := roundMag (f.layout.2.1 + 1) f.lsbMin rm m e
    let c := encodeMag f.layout.2.1 f.lsbMin q l
    let s := b2n n * 2 ^ sb
    if c > f.maxCode then
      if sat || rm == .rtz then (f.maxCode + s, ⟨1, 0⟩) else (inf + s, ⟨1, 0⟩)
    else (c + s, ⟨0, 0⟩)

/-- One element of a normal MX block: x already divided by 2^e (R76, R77). -/
def convertMxElem (f : Format) (rm : Rounding) (n : Bool) (m : Nat) (e : Int) : Nat × CvtCount :=
  match f with
  | .mxint8 =>
    let (q, _) := roundMag 100000 (-6) rm m e
    let above := FV.lt (.fin false 127 (-6)) (.fin false m e)
    let c := min q 127
    (ofSigned 8 (if n then -(c : Int) else (c : Int)), ⟨b2n above, 0⟩)
  | _ =>
    let (q, l) := roundMag (f.layout.2.1 + 1) f.lsbMin rm m e
    let c := encodeMag f.layout.2.1 f.lsbMin q l
    let above := FV.lt (decodeElem f f.maxCode) (.fin false m e)
    (min c f.maxCode + b2n n * 2 ^ f.signBit, ⟨b2n above, 0⟩)

/-- floor(log2 |x|) of a non-zero magnitude m · 2^e. -/
def magLog2 (m : Nat) (e : Int) : Int := (Nat.log2 m : Int) + e

/-- Conversion of one block of FP32 values to an MX format: the scale byte, the elements and the counts (R76).  Each
value comes with its rounding, which carries its own draw under stochastic rounding. -/
def convertBlock (f : Format) (xs : List (Word × Rounding)) : Nat × List Nat × CvtCount :=
  let vs := xs.map fun p => (ofFp32 p.1, p.2)
  if vs.any fun p => !p.1.isFinite then (0xFF, xs.map fun _ => 0, ⟨0, 1⟩)
  else
    let logs := vs.filterMap fun p =>
      match p.1 with
      | .fin _ m e => if m = 0 then none else some (magLog2 m e)
      | _ => none
    let e0 : Int :=
      match logs with
      | [] => -127
      | l :: ls => ls.foldl max l - f.emax
    let e := max (-127) (min 127 e0)
    let rs := vs.map fun p =>
      match p.1 with
      | .fin n m ex => convertMxElem f p.2 n m (ex - e)
      | _ => (0, ⟨0, 0⟩)
    ((e + 127).toNat, rs.map (·.1), ⟨(rs.map (·.2.sat)).sum, 0⟩)

/-- The scaled value of an MX element; the scale 0xFF makes the block NaN (R70). -/
def mxValue (f : Format) (scale v : Nat) : FV :=
  if scale = 0xFF then .nan else (decodeElem f v).scale ((scale : Int) - 127)

/-- Widening of one element to FP32, and what it adds to UNIT_CVT_SAT_CNT (R77, R92). -/
def widen (f : Format) (scale v : Nat) : Word × Nat :=
  if f.isMx then
    let x := mxValue f scale v
    let w := toFp32 x
    (w, b2n (x.isFinite && !(ofFp32 w).isFinite))
  else (toFp32 (decodeElem f v), 0)

/-- The 64-bit mixer of R79. -/
def srMix (z : Nat) : Nat :=
  let z := (((z % 2 ^ 64) ^^^ (z % 2 ^ 64 / 2 ^ 30)) * 0xBF58476D1CE4E5B9) % 2 ^ 64
  let z := ((z ^^^ (z / 2 ^ 27)) * 0x94D049BB133111EB) % 2 ^ 64
  z ^^^ (z / 2 ^ 31)

/-- The draw for element el of a conversion (R79). -/
def srDraw (seed lpos frame ord el : Nat) : Nat :=
  let key := lpos * 2 ^ 52 + (frame % 2 ^ 20) * 2 ^ 32 + (ord % 2 ^ 20) * 2 ^ 12 + el
  srMix ((seed % 2 ^ 64) ^^^ key) / 2 ^ 48

/-- What a converting descriptor rounds with: RM of R74 and the terms of R79. -/
structure RoundCtx where
  rm : Nat
  sat : Bool
  seed : Nat
  lpos : Nat
  frame : Nat
  ord : Nat
  deriving DecidableEq, Repr

/-- The rounding of element el under a descriptor's mode. -/
def RoundCtx.at (c : RoundCtx) (el : Nat) : Rounding :=
  match c.rm with
  | 0 => .rne
  | 1 => .rtz
  | _ => .sr (srDraw c.seed c.lpos c.frame c.ord el)

end Sys2Proof.Machine
end

