-- ==== Sys2Proof/Machine/Placement.lean ====
section
/-! DEFINITION. Placement ranges, reduction ranges and scratchpad windows: where a panel address lies (R181 to R187,
R254 to R256). -/

namespace Sys2Proof.Machine

/-- Stack offset of the check value of block beta (R181). -/
def checkOff (beta : Nat) : Nat := checkStoreBase + 8 * beta

/-- A place in the DRAM of a stack (R181): `half` says which 512 bytes of the row's 1 KiB. -/
structure DramPlace where
  slice : Nat
  pc : Nat
  bank : Nat
  row : Nat
  half : Nat
  deriving DecidableEq, Repr

/-- Where a stack-local offset lies in the DRAM (R181). -/
def dramPlace (so : Nat) : DramPlace :=
  let beta := so / 1024
  let gamma := beta / 32
  { slice := fold5 beta, pc := so % 1024 / 512, bank := gamma / 2 % 48, row := gamma / 96, half := gamma % 2 }

/-- The DRAM row of a stack-local offset as one number: bank key and row. -/
def rowKey (so : Nat) : Nat :=
  let d := dramPlace so
  ((d.slice * 2 + d.pc) * 64 + d.bank) * 2 ^ 24 + d.row

/-- The bank of a row: slice, pseudo-channel and bank. -/
def bankOfRow (k : Nat) : Nat := k / 2 ^ 24

/-- The stacks of a scope, ascending (R187): 0 STACK, 1 FIELD, 2 QUARTER. -/
def scopeStacks (scope target : Nat) : List Nat :=
  match scope with
  | 0 => [target]
  | 1 => fieldStacks target
  | _ => quarterStacks target

/-- Number of stacks of a scope. -/
def scopeCount (scope : Nat) : Nat := match scope with | 0 => 1 | 1 => 8 | _ => 32

/-- A place in stacked memory: stack, stack offset, and the mirror copy's. -/
structure Home where
  stack : Nat
  so : Nat
  copy : Option (Nat × Nat)
  deriving DecidableEq, Repr

/-- The place of address a in a placement range that covers it (R187). -/
def placeIn (r : PlaceRange) (a : Nat) : Home :=
  let m := scopeCount r.scope
  let stk := scopeStacks r.scope r.target
  let b := (a - r.base) / 1024
  let g := b / m
  let i := (b % m) ^^^ (fold5 g % m)
  let so := r.offset + g * 1024 + a % 1024
  let stack := stk.getD i 0
  let copy :=
    if r.mirror then
      some (if m = 1 then r.partner else stk.getD (i ^^^ (m / 2)) 0, so + r.length / m)
    else none
  ⟨stack, so, copy⟩

/-- The default placement ranges of a partition without a MEM_PLACE section (R186). -/
def defaultPlaces (qmask : Nat) : List PlaceRange :=
  ((List.range 128).filter fun n => bit qmask (stackQuarter n)).map fun n =>
    { base := n * 0x8E0000000, length := 0x8E0000000, offset := 0x4000000, scope := 0, target := n }

/-- The range of a list that covers address a. -/
def rangeOf (rs : List PlaceRange) (a : Nat) : Option PlaceRange :=
  rs.find? fun r => r.base ≤ a && a < r.base + r.length

/-- Where an address of placement space or of the control region lies for a partition that owns it (R182, R185). -/
def homeOf (p : Partition) (a : Nat) : Option Home :=
  if inControl a then
    let n := (a - controlBase) / 0x4000000
    if bit p.qmask (stackQuarter n) then some ⟨n, (a - controlBase) % 0x4000000, none⟩ else none
  else if inPlacementSpace a then (rangeOf p.cfg.places a).map fun r => placeIn r a
  else none

/-- The physical unit and the offset a scratchpad window address names (R107, R183); spare windows only when asked. -/
def windowOf (s : State) (a : Nat) (spares : Bool) : Option (Nat × Nat) :=
  if inWindow a then
    let w := (a - windowBase) / 0x800000
    let o := (a - windowBase) % 0x800000
    if o ≥ 0x600000 then none
    else if w < 3840 then (unitOfLogical s w).map fun u => (u, o)
    else if spares then
      ((s.fld ((w - 3840) / 16)).spare).map fun d => (16 * d + (w - 3840) % 16, o)
    else none
  else none

/-- What a panel address names for a requester of a partition. -/
inductive Target where
  | mem (h : Home)
  | control (h : Home)
  | spad (u off : Nat)
  | none
  deriving DecidableEq, Repr

/-- Resolution of an address (R185): what the partition does not own, or nothing is assigned to, is `none`. -/
def resolve (s : State) (p : Partition) (a : Nat) (spares : Bool) : Target :=
  if inControl a then match homeOf p a with | some h => .control h | Option.none => .none
  else if inWindow a then
    match windowOf s a spares with
    | some (u, o) => if bit p.qmask (dieQuarter (u / 16)) then .spad u o else .none
    | Option.none => .none
  else match homeOf p a with | some h => .mem h | Option.none => .none

/-- The reduction range of a partition that covers address a (R254). -/
def redRangeOf (p : Partition) (a : Nat) : Option RedRange :=
  p.cfg.reds.find? fun r => r.base ≤ a && a < r.base + r.length

/-- Is a stack withdrawn (R420, MR_STAT.STATE)? -/
def stackGone (s : State) (n : Nat) : Bool := (s.mr n).state == 4

end Sys2Proof.Machine
end

