-- ==== Sys2Proof/Machine/Scratchpad.lean ====
section
/-! DEFINITION. The scratchpad of a unit: tags, range kinds, access from outside, clearing (R105 to R130). -/

namespace Sys2Proof.Machine

/-- Slots of a scratchpad (R106). -/
def spadSlots : Nat := 6144

/-- The logical unit a physical unit stands for: the replayed one during a replay run (R79, R80, R287). -/
def lposOf (s : State) (u : Nat) : Option Nat :=
  match (s.un u).replayAs with | some (l, _) => some l | none => logicalOfUnit s u

/-- The kind of a tile in the division in force: 0 FREE, 1 OPERAND, 2 SPILL, 3 LANDING, 4 MIRROR (R127). -/
def tileKind (s : State) (u t : Nat) : Nat :=
  match cfgOf s (dieQuarter (u / 16)) with
  | none => 1
  | some cfg =>
    let l := (lposOf s u).getD 0xFFF
    match (cfg.divs.find? fun d => d.1 == l).orElse fun _ => cfg.divs.find? fun d => d.1 == 0xFFF with
    | none => 1
    | some (_, rs) =>
      match rs.find? fun r => r.1 ≤ t && t ≤ r.2.1 with
      | some (_, _, k) => k
      | none => 0

/-- The ranges UNIT_SPAD_DIV0 to 7 read back (R127, R308). -/
def unitRanges (s : State) (u : Nat) : List (Nat × Nat × Nat) :=
  match cfgOf s (dieQuarter (u / 16)) with
  | none => []
  | some cfg =>
    let l := (lposOf s u).getD 0xFFF
    match (cfg.divs.find? fun d => d.1 == l).orElse fun _ => cfg.divs.find? fun d => d.1 == 0xFFF with
    | none => [(0, 95, 1)]
    | some (_, rs) => rs

/-- Is a slot's tag FULL? -/
def tagFull (x : UnitState) (slot : Nat) : Bool := x.full.contains slot

/-- A slot's tag is set FULL. -/
def fillTag (x : UnitState) (slot : Nat) : UnitState := { x with full := insSorted x.full slot }

/-- A slot's tag is set EMPTY. -/
def emptyTag (x : UnitState) (slot : Nat) : UnitState := { x with full := x.full.filter (· != slot) }

/-- Is the unit clearing (R129)? -/
def clearing (x : UnitState) : Bool := x.clear == 1

/-- Who writes or reads from outside the unit (R127). -/
inductive Outside where
  | plain | message | shadow
  deriving DecidableEq, Repr

/-- SRC of UNIT_SPAD_LAST_DROP (R130). -/
inductive DropSrc where
  | fabric | host | jtag | desc
  deriving DecidableEq, Repr

/-- Its code. -/
def DropSrc.code : DropSrc → Nat
  | .fabric => 0 | .host => 1 | .jtag => 2 | .desc => 3

/-- The cause for which an access from outside is dropped, coded as UNIT_SPAD_LAST_DROP.CAUSE (R117, R120, R127,
R129); none when it is allowed.  Where several hold, a running clear comes first, then size and alignment, then the tile's
kind (DESIGN CHOICE, log entry 136: R130 gives no order). -/
def dropCause (s : State) (u off len : Nat) (write : Bool) (who : Outside) : Option Nat :=
  let x := s.un u
  let misaligned :=
    if x.mode == .normal then off % 16 != 0 || len % 16 != 0 || len == 0 || off / 1024 != (off + len - 1) / 1024
    else off % 1024 != 0 || len % 1024 != 0 || len == 0
  if clearing x then some 4
  else if misaligned then some 1
  else
    match tileKind s u (off / 65536) with
    | 0 => some 2
    | 3 => if write && who != .message then some 3 else none
    | 4 => if write && who != .shadow then some 3 else none
    | _ => none

/-- A dropped access is recorded and counted (R117, R127, R129, R130). -/
def recordDrop (s : State) (u off cause : Nat) (src : DropSrc) : State :=
  let s := s.setReg (unitSpadLastDropAt u) (cause * 2 ^ 37 + src.code * 2 ^ 35 + 2 ^ 34 + off % 2 ^ 23)
  s.bump (if cause = 1 then unitSpadMisalignCntAt u else unitSpadRegionDropCntAt u)

/-- Bytes of a scratchpad. -/
def spadRead (s : State) (u off len : Nat) : Bytes := s.read (spadAt u off) len

/-- Bytes are written into a scratchpad. -/
def spadWrite (s : State) (u off : Nat) (bs : Bytes) : State := s.write (spadAt u off) bs

/-- A slot written by the unit's own work becomes dirty when it lies in a Shadow source range (R425). -/
def markDirty (s : State) (u slot : Nat) : State :=
  match cfgOf s (dieQuarter (u / 16)) with
  | none => s
  | some cfg =>
    match logicalOfUnit s u with
    | none => s
    | some l =>
      if cfg.pairs.any fun p => p.1 == l && p.2.1 ≤ slot / 64 && slot / 64 ≤ p.2.2.1 then
        s.modUn u fun x => { x with dirty := insSorted x.dirty slot }
      else s

/-- Slots a byte range touches become dirty. -/
def markDirtyRange (s : State) (u off len : Nat) : State :=
  (List.range ((off + len + 1023) / 1024 - off / 1024)).foldl (fun s i => markDirty s u (off / 1024 + i)) s

/-- The rows the running clear has reached before region clock `upto` hold zeros and their tags are EMPTY: row w in clock
200 + w of the clear (R128). -/
def sweep (s : State) (u upto : Nat) : State :=
  let x := s.un u
  let n := min spadSlots (upto - x.clearAt - 200)
  if clearing x ∧ n ≠ 0 then
    (s.clear (spadAt u 0) (1024 * n)).modUn u fun x =>
      { x with full := x.full.filter (n ≤ ·), dirty := x.dirty.filter (n ≤ ·) }
  else s

/-- The clear engine starts (R128, R129); `after` is the mode the unit enters when a change of mode asked for it.  What a
clear already running has wiped stays wiped. -/
def startClear (s : State) (u : Nat) (after : Option SpadMode) : State :=
  let t := unitClk s u
  (sweep s u t).modUn u fun x => { x with clear := 1, clearAt := t, modeAfter := after }

/-- A unit's scratchpad holds zeros and its tags are EMPTY. -/
def wipeSpad (s : State) (u : Nat) : State :=
  (s.clear (spadAt u 0) 0x600000).modUn u fun x => { x with full := [], dirty := [] }

/-- Units after a loss of power or a panel warm reset: a clear that was running reads RUNNING still, and the region's next power-up
begins it anew (R129); everything else of a unit is as at reset. -/
def cutClears (m : List (Nat × UnitState)) : List (Nat × UnitState) :=
  m.map fun p => (p.1, if clearing p.2 then { clear := 1 } else {})

/-- SPAD_CLEAR_DONE: 6,544 region clocks after its start the clear has finished (R128). -/
def execSpadClearDone (u : UnitId) (s : State) : Res :=
  let x := s.un u
  if x.clear = 1 ∧ rgnRuns s (unitRgn u) = true then
    let s := advClock s (unitRgn u) (x.clearAt + 6544)
    let s := wipeSpad s u
    .next ((s.modUn u fun x => { x with clear := 2, mode := x.modeAfter.getD x.mode, modeAfter := none }).bump
      (unitSpadClearCntAt u))
  else .next s

/-- UNIT_SPAD_STAT (R130).  During the neighbour test of bring-up, step 6, the units are under test (R116, R369). -/
def spadStatView (s : State) (u : Nat) : Nat :=
  let x := s.un u
  (match x.mode with
    | .normal => 0
    | .wideDawn => if s.mgr.step = 6 then 32 else 16
    | .wideTest => 32
    | .wideRecovery => 48) + 4 * x.clear

/-- UNIT_SPAD_TAGt (R130) of the tags as they stand. -/
def spadTagView (s : State) (u t : Nat) : Nat :=
  ((s.un u).full.map fun sl => if sl / 64 = t then 2 ^ (sl % 64) else 0).sum

/-- UNIT_SPAD_DIVm (R127, R130). -/
def spadDivView (s : State) (u m : Nat) : Nat :=
  match (unitRanges s u)[m]? with
  | some (a, b, k) => k * 2 ^ 16 + b * 2 ^ 8 + a
  | none => 0

end Sys2Proof.Machine
end

