-- ==== Sys2Proof/Machine/Descriptors.lean ====
section
/-! DEFINITION. Tile descriptors: their fields and the illegal values of R146, checked in the order of its codes. -/

namespace Sys2Proof.Machine

/-- A field [hi:lo] of a descriptor (R145). -/
def Desc.f (d : Desc) (hi lo : Nat) : Nat := bits d.raw.toNat hi lo
/-- CLASS -/
def Desc.cls (d : Desc) : Nat := d.f 3 0
/-- UNIT -/
def Desc.unit (d : Desc) : Nat := d.f 5 4
/-- CGRP -/
def Desc.grp (d : Desc) : Nat := d.f 11 8
/-- ID -/
def Desc.id (d : Desc) : Nat := d.f 31 16
/-- VOP.OP -/
def Desc.op (d : Desc) : Nat := d.f 36 32
/-- RED.OP -/
def Desc.redOp (d : Desc) : Nat := d.f 33 32
/-- WAIT.COND -/
def Desc.cond (d : Desc) : Nat := d.f 35 32
/-- REMOTE of a LOAD or STORE -/
def Desc.lsRemote (d : Desc) : Bool := d.f 86 86 == 1

/-- One VOP operand word (R149). -/
structure Operand where
  kind : Nat
  fmt : Nat
  col : Bool
  tile : Nat
  q : Nat
  r0 : Nat
  vr : Nat
  tag : Nat
  blk : Bool
  deriving DecidableEq, Repr

/-- The operand word at bits [lo+31:lo]. -/
def Desc.operand (d : Desc) (lo : Nat) : Operand :=
  let w := d.f (lo + 31) lo
  { kind := bits w 2 0, fmt := bits w 6 3, col := bit w 7, tile := bits w 14 8, q := bits w 19 15, r0 := bits w 25 20,
    vr := bits w 28 26, tag := bits w 30 29, blk := bit w 31 }

/-- Is a format code an MX element format? -/
def mxCode (c : Nat) : Bool := match formatOfCode c with | some f => f.isMx | none => false
/-- Elements per cell of a format code (R110), 8 for a reserved one. -/
def cellCount (c : Nat) : Nat := match formatOfCode c with | some f => f.perCell | none => 8
/-- Slots of one tile's scale set (R111). -/
def scaleSlots (c : Nat) : Nat := cellCount c / 8

/-- The number of sources a VOP operation uses (R95): a, then b, then c; none for an undefined code. -/
def vopSources (op : Nat) : Option Nat :=
  if op = 4 then some 3
  else if op ∈ [1, 2, 3, 5, 6, 9, 0x14] then some 2
  else if op ≤ 0x13 then some 1
  else none

/-- Clocks per row of a VOP operation (R95). -/
def vopClocks (op : Nat) : Nat := if 0x9 ≤ op ∧ op ≤ 0xC then 4 else if 0xD ≤ op ∧ op ≤ 0xF then 8 else 1

/-- Does an access to a tile of this range kind break R127? -/
def kindBreach (kind tag : Nat) (write : Bool) : Bool :=
  kind == 0 || (kind == 3 && write) || (kind == 4 && (write || tag == 2))

/-- Do the tiles of slots a to b break R127? -/
def slotsBreach (s : State) (u a b tag : Nat) (write : Bool) : Bool :=
  (List.range (b / 64 + 1 - a / 64)).any fun i => kindBreach (tileKind s u (a / 64 + i)) tag write

/-- Last tile of an MMA operand (R148). -/
def mmaLastTile (fmt first q k : Nat) (transposed : Bool) : Nat :=
  if transposed then first + (k - 1) / 64 else first + (64 * q + k - 1) / (64 * cellCount fmt)

/-- The checks of one MMA operand (R148) that carry the codes RANGE, DIRECTION, KIND. -/
def mmaOperandBad (s : State) (u fmt tile q scale k tag : Nat) (em blk : Bool) : Bool × Bool × Bool :=
  let last := mmaLastTile fmt tile q k em
  let n := scaleSlots fmt
  let mx := mxCode fmt
  let lastScale := scale + (last + 1 - tile) * n - 1
  (tile > 95 || q ≥ cellCount fmt || last > 95 || (mx && lastScale > 6143),
   mx && (em != blk),
   slotsBreach s u (64 * tile) (64 * min last 95) tag false || (mx && slotsBreach s u scale (min lastScale 6143) tag false))

/-- Illegal values of an MMA (R63, R113, R146, R148). -/
def mmaChecks (s : State) (u : Nat) (d : Desc) (dawn : Bool) : List (Bool × Nat) :=
  let fa := d.f 35 32
  let fb := d.f 39 36
  let k := d.f 61 48
  let ta := d.f 45 44
  let tb := d.f 47 46
  let mx := mxCode fa && mxCode fb
  let a := mmaOperandBad s u fa (d.f 70 64) (d.f 75 71) (d.f 88 76) k ta (d.f 42 42 == 1) (d.f 62 62 == 1)
  let b := mmaOperandBad s u fb (d.f 102 96) (d.f 107 103) (d.f 120 108) k tb (d.f 43 43 == 1) (d.f 63 63 == 1)
  [(d.f 255 121 != 0 || d.f 95 89 != 0 || (!mxCode fa && (d.f 88 76 != 0 || d.f 62 62 != 0)) ||
      (!mxCode fb && (d.f 120 108 != 0 || d.f 63 63 != 0)), 2),
   (fa > 8 || fb > 8 || !(mx || (fa == fb && fa ≤ 2)), 4),
   (dawn && (fa != 1 || fb != 1), 5),
   (if mx then k % 32 != 0 || k < 32 || k > 8192 else k % 4 != 0 || k < 4 || k > 8192, 6),
   (a.1 || b.1, 7), (a.2.1 || b.2.1, 8), (a.2.2 || b.2.2, 9), (ta == 3 || tb == 3, 0xA)]

/-- Illegal values of one VOP source word, by code. -/
def vopSourceChecks (s : State) (u : Nat) (o : Operand) (word rows sscale : Nat) (used dawn : Bool) : List (Bool × Nat) :=
  let spad := o.kind == 2
  let mx := spad && mxCode o.fmt
  let last := sscale + scaleSlots o.fmt - 1
  [(if o.kind = 7 then !used && word != 7 else (!spad && o.tag != 0) || ((!spad || o.col) && o.r0 != 0), 2),
   (o.kind == 6 || (used == (o.kind == 7)), 3),
   (o.kind != 7 && (if spad then o.fmt > 8 else o.fmt != 0), 4),
   (dawn && spad && (o.fmt > 1 || o.col), 5),
   (spad && !o.col && o.r0 + rows > 64, 6),
   (spad && (o.tile > 95 || o.q ≥ cellCount o.fmt || (mx && last > 6143)), 7),
   (spad && (kindBreach (tileKind s u o.tile) o.tag false || (mx && slotsBreach s u sscale last o.tag false)), 9),
   (spad && o.tag == 3, 0xA)]

/-- Illegal values of a VOP (R93, R94, R97, R98, R114, R149).  In Dawn the formats a VOP names are those of its SPAD operands; the
DFMT of a CMPX, which has no destination, names none there (DESIGN CHOICE, log entry 140). -/
def vopChecks (s : State) (u : Nat) (d : Desc) (dawn : Bool) : List (Bool × Nat) :=
  let op := d.op
  let rows := d.f 43 37
  let n := (vopSources op).getD 0
  let sscale := d.f 236 224
  let os := [d.operand 96, d.operand 128, d.operand 160]
  let src := (vopSourceChecks s u (d.operand 96) (d.f 127 96) rows sscale (0 < n) dawn) ++
    (vopSourceChecks s u (d.operand 128) (d.f 159 128) rows sscale (1 < n) dawn) ++
    (vopSourceChecks s u (d.operand 160) (d.f 191 160) rows sscale (2 < n) dawn)
  let mxs := (os.filter fun o => o.kind == 2 && mxCode o.fmt).length
  let dk := d.f 50 48
  let df := d.f 54 51
  let spad := dk == 2
  let dmx := spad && mxCode df
  let dcol := d.f 55 55 == 1
  let dr0 := d.f 73 68
  let dtile := d.f 62 56
  let dscale := d.f 91 79
  let last := dscale + scaleSlots df - 1
  let dtag := d.f 78 77
  let reduction := 0x10 ≤ op && op ≤ 0x13
  [(d.f 255 237 != 0 || d.f 95 92 != 0 || (mxs == 0 && sscale != 0) || (!dmx && dscale != 0) || (!spad && dtag != 0), 2),
   ((vopSources op).isNone || dk == 4 || dk == 5 || dk == 6 || (dk == 7 && op != 0x14), 3),
   (mxs > 1 || (if spad then df > 8 else if dk ≤ 3 then df != 0 else df > 8), 4),
   (dawn && spad && (df > 1 || dcol), 5),
   (rows < 1 || rows > 64 || (spad && !dcol && dr0 + rows > 64) ||
      (dmx && d.f 47 47 == 1 && ((rows != 32 && rows != 64) || (!dcol && dr0 % 32 != 0))), 6),
   (spad && (dtile > 95 || d.f 67 63 ≥ cellCount df || (dmx && last > 6143)), 7),
   (spad && (kindBreach (tileKind s u dtile) dtag true || (dmx && slotsBreach s u dscale last dtag true)), 9),
   (spad && dtag > 1, 0xA),
   (d.f 45 44 == 3, 0xB),
   ((op == 0x14 && dk != 7) || (reduction && dk != 3) || (!reduction && op != 0x14 && dk == 3 && rows != 1), 0xC)] ++ src

/-- The DQMASK a partition's destination table gives for a panel: QC_XDEST of its lowest quarter (R327). -/
def xdest (s : State) (q panel : Nat) : Nat :=
  let lq := lowestQuarter (qmaskOf s q)
  bits (s.reg (qcXdestAt lq (panel / 8))) (4 * (panel % 8) + 3) (4 * (panel % 8))

/-- Is a transfer's far side on another panel? -/
def engRemote (d : Desc) : Bool := (match d.cls with | 4 => d.f 58 58 | 5 => d.f 43 43 | _ => d.f 86 86) == 1

/-- The far panel of a remote transfer. -/
def engPanel (d : Desc) : Nat := match d.cls with | 4 => d.f 57 48 | 5 => d.f 53 44 | _ => d.f 85 76

/-- Illegal values of a LOAD or STORE (R127, R150, R327). -/
def transferChecks (s : State) (u : Nat) (d : Desc) (p : Partition) : List (Bool × Nat) :=
  let st := d.cls == 3
  let nrow := d.f 139 128
  let rlen := d.f 120 115
  let cell := d.f 114 109
  let slot := d.f 108 96
  let tag := d.f 89 88
  let rtag := d.f 91 90
  let remote := d.f 86 86 == 1
  let panel := d.f 85 76
  let addr := d.f 75 32
  let stride := 16 * d.f 187 160
  let targets := (List.range (nrow + 1)).map fun m => resolve s p (addr + m * stride) false
  let isMem (t : Target) : Bool := match t with | .mem _ => true | _ => false
  let isSpad (t : Target) : Bool := match t with | .spad _ _ => true | _ => false
  let whole := remote || targets.any isMem
  let badAddr :=
    if remote then xdest s (dieQuarter (u / 16)) panel == 0 else !(targets.all isMem || targets.all isSpad)
  [(d.f 255 188 != 0 || d.f 159 140 != 0 || d.f 127 121 != 0 || d.f 95 92 != 0 || (!st && d.f 91 90 != 0) ||
      (!remote && panel != 0), 2),
   (cell + rlen > 63 || (whole && (rlen != 63 || cell != 0)), 6),
   (slot + nrow > 6143, 7),
   (slotsBreach s u slot (min (slot + nrow) 6143) tag (!st), 9),
   ((if st then tag == 3 || rtag == 1 || rtag == 2 || (whole && rtag != 0) else tag > 1), 0xA),
   (addr % 16 != 0 || badAddr || (whole && (addr % 1024 != 0 || stride % 1024 != 0)), 0xD)]

/-- The outgoing entry of a cluster to a destination, and its index among the cluster's entries (R151, R162). -/
def outEntry (p : Partition) (lclu : Nat) (remote : Bool) (panel dclu dque : Nat) : Option (Nat × OutDecl) :=
  let es := (p.cfg.outs.filter fun o => o.clu == lclu)
  ((List.range es.length).zip es).find? fun e =>
    e.2.remote == remote && e.2.dpanel == panel && e.2.dclu == dclu && e.2.dque == dque

/-- Illegal values of a SEND (R151, R162). -/
def sendChecks (s : State) (u : Nat) (d : Desc) (p : Partition) (lclu : Nat) : List (Bool × Nat) :=
  let remote := d.f 58 58 == 1
  let nrows := d.f 82 77
  let slot := d.f 76 64
  let tag := d.f 61 60
  let panel := d.f 57 48
  let e := outEntry p lclu remote panel (d.f 41 32) (d.f 47 42)
  [(d.f 255 83 != 0 || d.f 63 62 != 0 || (!remote && panel != 0), 2),
   (match e with | some (_, o) => decide (nrows + 1 > o.segRows) | none => false, 6),
   (slot + nrows > 6143, 7),
   (slotsBreach s u slot (min (slot + nrows) 6143) tag false, 9),
   (tag == 3, 0xA),
   (remote && xdest s (dieQuarter (u / 16)) panel == 0, 0xD),
   (e.isNone, 0xE)]

/-- Illegal values of a RED (R152, R259, R327). -/
def redChecks (s : State) (u : Nat) (d : Desc) (p : Partition) (dawn : Bool) : List (Bool × Nat) :=
  let op := d.redOp
  let nrow := d.f 146 141
  let slot := d.f 140 128
  let addr := d.f 107 64
  let remote := d.f 43 43 == 1
  let panel := d.f 53 44
  let tag := d.f 41 40
  let rm := d.f 39 38
  let fmt := d.f 37 34
  let ranges := (List.range (nrow + 1)).map fun m => redRangeOf p (addr + 1024 * m)
  let width := !remote && ranges.any fun r =>
    match r with | some r => (fmt == 0) != (r.width == 0) | none => false
  [(d.f 255 147 != 0 || d.f 127 108 != 0 || d.f 63 54 != 0 || (!remote && panel != 0) || (op == 0 && rm != 0), 2),
   (op == 3, 3), (fmt > 2 || width, 4), (dawn, 5), (slot + nrow > 6143, 7),
   (slotsBreach s u slot (min (slot + nrow) 6143) tag (op != 0), 9),
   (if op = 0 then tag == 3 else tag > 1, 0xA),
   (op != 0 && rm > 1, 0xB),
   (addr % 1024 != 0 || (if remote then xdest s (dieQuarter (u / 16)) panel == 0 else ranges.any (·.isNone)), 0xD)]

/-- Illegal values of a WAIT (R153). -/
def waitChecks (d : Desc) (period : Nat) : List (Bool × Nat) :=
  let c := d.cond
  let tagc := c == 3 || c == 4
  let arg := d.f 63 40
  [(d.f 255 77 != 0 || (!tagc && (d.unit != 0 || d.f 76 64 != 0)) || (c != 0 && d.f 39 36 != 0) ||
      (c == 1 && arg / 64 != 0) || (tagc && arg != 0), 2),
   (c > 4, 3), (c == 2 && arg ≥ period, 6), (tagc && d.f 76 64 > 6143, 7)]

/-- Illegal values of a COMMIT (R154). -/
def commitChecks (d : Desc) (p : Partition) : List (Bool × Nat) :=
  let a := d.f 75 32
  [(d.unit != 0 || d.f 127 96 != 0 || d.f 79 76 != 0, 2),
   (a % 8 != 0 || !inControl a || (homeOf p a).isNone, 0xD)]

/-- The checks of a descriptor of physical cluster c, unit u, that belong to its class. -/
def classChecks (s : State) (c : Nat) (d : Desc) : List (Bool × Nat) :=
  let u := 4 * c + d.unit
  let q := cluQuarter c
  let p := partD s q
  let dawn := inDawn s q
  let lclu := match (s.cl c).replay with | some r => r.orig | none => (logicalOfClu s c).getD 0x3FF
  match d.cls with
  | 0 => mmaChecks s u d dawn
  | 1 => vopChecks s u d dawn
  | 2 => transferChecks s u d p
  | 3 => transferChecks s u d p
  | 4 => sendChecks s u d p lclu
  | 5 => redChecks s u d p dawn
  | 6 => waitChecks d p.period
  | _ => commitChecks d p

/-- The lowest code of a list of checks that fail: R146 checks them in the order of their codes. -/
def lowestCode (l : List (Bool × Nat)) : Option Nat :=
  l.foldl (fun m p => if p.1 then (match m with | none => some p.2 | some k => some (min k p.2)) else m) none

/-- The first illegal-value code of a descriptor of physical cluster c, or none (R146). -/
def illegal (s : State) (c : Nat) (d : Desc) : Option Nat :=
  if d.cls > 7 then some 1
  else lowestCode ((d.f 15 12 != 0 || d.f 7 6 != 0, 2) :: classChecks s c d)

end Sys2Proof.Machine
end

