-- ==== Sys2Proof/Machine/Issue.lean ====
section
/-! DEFINITION. The accesses a descriptor makes, conflicts between descriptors of a unit, tag waits, and the clocks planned
for the accesses of MMAs and VOPs (R62, R67, R68, R100 to R102, R115, R118, R122 to R126). -/

namespace Sys2Proof.Machine

/-- One run of accesses of a descriptor: slots with the cells it touches in each ([lo, hi)), its tag mode, and whether it
writes. -/
structure Access where
  slots : List (Nat × Nat × Nat)
  tag : Nat
  write : Bool
  deriving DecidableEq, Repr

/-- Does the access change tags (R124)? -/
def Access.changes (a : Access) : Bool := if a.write then a.tag == 1 else a.tag == 2

/-- Whole slots from a. -/
def wholeSlots (a n : Nat) : List (Nat × Nat × Nat) := (List.range n).map fun i => (a + i, 0, 64)

/-- The cells an MMA operand reads (R112, R148): whole square blocks of each tile, and its scale sets. -/
def mmaAccess (fmt tile q scale k tag : Nat) (em : Bool) : Access :=
  let n := cellCount fmt
  let w := 64 / n
  let last := mmaLastTile fmt tile q k em
  let blocks (m : Nat) : Nat × Nat :=
    if em then (q, q + 1)
    else
      let from_ := if m = 0 then q else 0
      let upto := min n (q + (k + 63) / 64 - n * m)
      (from_, upto)
  let tiles := (List.range (last + 1 - tile)).flatMap fun m =>
    (List.range 64).map fun r => (64 * (tile + m) + r, w * (blocks m).1, w * (blocks m).2)
  let scales := if mxCode fmt then wholeSlots scale ((last + 1 - tile) * scaleSlots fmt) else []
  ⟨tiles ++ scales, tag, false⟩

/-- Byte of a tile's scale set that holds the scale of element (r, e) (R111): ROW-blocked or COL-blocked. -/
def scaleByte (f : Format) (r e : Nat) (col : Bool) : Nat :=
  let n := f.perCell
  if col then 64 * n * (r / 32) + e else 2 * n * r + e / 32

/-- Tile row and element column of VOP element (r, i) (R114). -/
def tilePos (col : Bool) (r0 q r i : Nat) : Nat × Nat := if col then (i, 64 * q + r) else (r0 + r, 64 * q + i)

/-- The cells of a scale set that serve the elements of a VOP operand, with the whole set's slots for its tag mode (R111,
R123). -/
def scaleAccess (f : Format) (scale q r0 rows : Nat) (col blk : Bool) : List (Nat × Nat × Nat) :=
  let cells := ((List.range rows).flatMap fun r => (List.range 64).map fun i =>
    let p := tilePos col r0 q r i
    scaleByte f p.1 p.2 blk / 16).eraseDups
  ((List.range (f.perCell / 8)).map fun i => (scale + i, 0, 0)) ++
    cells.map fun c => (scale + c / 64, c % 64, c % 64 + 1)

/-- The cells a VOP source or destination touches (R114, R118): ROW rows r0 on, COL one square block of all rows. -/
def tileAccess (fmt tile q r0 rows scale tag : Nat) (col blk write : Bool) : Access :=
  let w := 64 / cellCount fmt
  let rs := if col then (List.range 64).map fun r => (64 * tile + r, w * q, w * q + w)
    else (List.range rows).map fun r => (64 * tile + r0 + r, w * q, w * q + w)
  ⟨rs ++ (match formatOfCode fmt with
      | some f => if f.isMx then scaleAccess f scale q r0 rows col blk else []
      | none => []), tag, write⟩

/-- The scratchpad accesses of a descriptor. -/
def accesses (d : Desc) : List Access :=
  match d.cls with
  | 0 =>
    [mmaAccess (d.f 35 32) (d.f 70 64) (d.f 75 71) (d.f 88 76) (d.f 61 48) (d.f 45 44) (d.f 42 42 == 1),
     mmaAccess (d.f 39 36) (d.f 102 96) (d.f 107 103) (d.f 120 108) (d.f 61 48) (d.f 47 46) (d.f 43 43 == 1)]
  | 1 =>
    let rows := d.f 43 37
    let src := [96, 128, 160].filterMap fun lo =>
      let o := d.operand lo
      if o.kind = 2 then some (tileAccess o.fmt o.tile o.q o.r0 rows (d.f 236 224) o.tag o.col o.blk false) else none
    let dst := if d.f 50 48 = 2 then
        [tileAccess (d.f 54 51) (d.f 62 56) (d.f 67 63) (d.f 73 68) rows (d.f 91 79) (d.f 78 77) (d.f 55 55 == 1)
          (d.f 47 47 != d.f 55 55) true]
      else []
    src ++ dst
  | 2 | 3 =>
    let cell := d.f 114 109
    [⟨(List.range (d.f 139 128 + 1)).map fun m => (d.f 108 96 + m, cell, cell + d.f 120 115 + 1), d.f 89 88,
      d.cls == 2⟩]
  | 4 => [⟨wholeSlots (d.f 76 64) (d.f 82 77 + 1), d.f 61 60, false⟩]
  | 5 => [⟨wholeSlots (d.f 140 128) (d.f 146 141 + 1), d.f 41 40, d.redOp != 0⟩]
  | _ => []

/-- Accumulator buffers (0, 1) and vector registers (2 + n) a descriptor touches, each with whether it writes it (R62,
R102). -/
def unitRegs (d : Desc) : List (Nat × Bool) :=
  match d.cls with
  | 0 => [(d.f 40 40, true)]
  | 1 =>
    let src := [96, 128, 160].filterMap fun lo =>
      let o := d.operand lo
      match o.kind with
      | 0 => some (0, false) | 1 => some (1, false) | 3 => some (2 + o.vr, false) | 4 => some (2 + o.vr, false)
      | _ => none
    let dst := match d.f 50 48 with | 0 => [(0, true)] | 1 => [(1, true)] | 3 => [(2 + d.f 76 74, true)] | _ => []
    src ++ dst
  | _ => []

/-- Do two runs of accesses conflict (R102, R124)?  In wide-row mode each is of whole slots (`wide`, R117, R118). -/
def accessConflict (wide : Bool) (a b : Access) : Bool :=
  a.slots.any fun x => b.slots.any fun y =>
    x.1 == y.1 && ((a.changes || b.changes) ||
      ((a.write || b.write) && (wide || (x.2.1 < y.2.2 && y.2.1 < x.2.2))))

/-- Does a later descriptor conflict with an earlier one of its unit (R62, R102, R124)?  `mmas`: the earlier is an MMA that
has begun and only MMAs were issued since, so the accumulator does not hold the later one back (R68). -/
def descConflict (wide : Bool) (earlier later : Desc) (mmas : Bool) : Bool :=
  ((accesses earlier).any fun a => (accesses later).any fun b => accessConflict wide a b) ||
  (!(mmas && earlier.cls == 0 && later.cls == 0) &&
    (unitRegs earlier).any fun a => (unitRegs later).any fun b => a.1 == b.1 && (a.2 || b.2))

/-- Is a tag mode satisfied for every slot of an access (R122, R123)? -/
def tagsOk (x : UnitState) (a : Access) : Bool :=
  if a.write then (if a.tag = 1 then a.slots.all fun p => !tagFull x p.1 else true)
  else if a.tag = 0 then true
  else a.slots.all fun p => tagFull x p.1

/-- Are the tags a descriptor waits for satisfied? -/
def descTagsOk (x : UnitState) (d : Desc) : Bool := (accesses d).all (tagsOk x)

/-- Does a descriptor wait for the Shadow engine: would it write a slot of a set that is still to be read (R425)? -/
def shadowHolds (x : UnitState) (d : Desc) : Bool :=
  (accesses d).any fun a => (a.write || a.changes) && a.slots.any fun p => x.sets.any fun t => t.2.1.contains p.1

/-- Is a unit in wide-row mode (R116)? -/
def wideMode (x : UnitState) : Bool := x.mode != .normal

/-- Do the descriptors issued before this one hold it back?  An MMA follows one on its own buffer only once that has
begun (R68). -/
def heldBack (wide : Bool) (l : List Issued) (did : Nat) : Bool :=
  match l.find? fun e => e.d.did == did with
  | none => false
  | some e =>
    let before := l.takeWhile fun e => e.d.did != did
    ((List.range before.length).zip before).any fun p =>
      descConflict wide p.2.d e.d (p.2.begun && (before.drop p.1).all fun b => b.d.cls == 0)

/-- A slot's tag after an access has ended there (R122, R123). -/
def applyTag (a : Access) (x : UnitState) (slot : Nat) : UnitState :=
  if a.changes then (if a.write then fillTag x slot else emptyTag x slot) else x

/-- An access ends at a slot: its tag, and a Shadow mark when the tag has changed (R123, R425). -/
def tagSlot (s : State) (u : Nat) (a : Access) (slot : Nat) : State :=
  let before := tagFull (s.un u) slot
  let s := s.modUn u fun x => applyTag a x slot
  if tagFull (s.un u) slot = before then s else markDirty s u slot

/-- A slot's tag after the last access of a descriptor to it, by the tag mode of each of its accesses there (R123). -/
def tagDone (s : State) (u : Nat) (d : Desc) (slot : Nat) : State :=
  ((accesses d).filter fun a => a.slots.any (·.1 == slot)).foldl (fun s a => tagSlot s u a slot) s

/-- Does any issued descriptor of the unit wait on a tag? -/
def anyTagWait (x : UnitState) : Bool := x.issued.any fun e => !e.begun && !descTagsOk x e.d

/-- MACs per cell per clock of a pair of formats (R63): 4, 2, 1; 0 stands for 1/8. -/
def pairRate (fa fb : Nat) : Nat :=
  if fa = 0 then 0 else if mxCode fa then (if fa = 7 ∧ fb = 7 then 4 else 2) else 1

/-- Occupancy of an MMA in region clocks (R67, R118). -/
def mmaOccupancy (x : UnitState) (d : Desc) : Nat :=
  let k := d.f 61 48
  if wideMode x then 2 * k
  else match pairRate (d.f 35 32) (d.f 39 36) with
    | 0 => 8 * k
    | r => k / r

/-- Clocks a VOP takes from its first clock, port waits apart (R100). -/
def vopSpan (d : Desc) : Nat :=
  let op := d.op
  let dk := d.f 50 48
  let df := d.f 54 51
  d.f 43 37 * vopClocks op + 12 + (if op = 0x10 ∨ op = 0x11 then 8 else 0)
    + (if dk = 2 ∧ mxCode df = true ∧ d.f 47 47 = 1 then 32 else 0)
    + (if dk = 2 ∧ d.f 55 55 = 1 then 64 / cellCount df else 0)

/-- The three source operands of a VOP. -/
def vopOperands (d : Desc) : List Operand := [d.operand 96, d.operand 128, d.operand 160]

/-- The reads that fill the third square-block buffer with the COL sources of a VOP: one source after the other (DESIGN CHOICE,
log entry 137: R100 names one COL source). -/
def vopFills (d : Desc) : List AccessKind :=
  ((List.range 3).zip (vopOperands d)).flatMap fun p =>
    if p.2.kind = 2 ∧ p.2.col then (List.range (64 / cellCount p.2.fmt)).map fun k => .fill p.1 k else []

/-- The writes of a VOP whose first clock is `first`, planned as R100 places them; in wide-row mode each write to the
scratchpad reads its slot in the clock before (R118). -/
def vopWrites (wide : Bool) (d : Desc) (first : Nat) : List UnitAccess :=
  let c := vopClocks d.op
  let rows := d.f 43 37
  let spad := d.f 50 48 == 2
  let blocks := spad && mxCode (d.f 54 51) && d.f 47 47 == 1
  let past := first + rows * c
  let ws : List UnitAccess :=
    if d.op = 0x10 ∨ d.op = 0x11 then [⟨past + 19, .reg⟩]
    else if d.op = 0x12 ∨ d.op = 0x13 then [⟨past + 11, .reg⟩]
    else if d.op = 0x14 then []
    else if spad ∧ d.f 55 55 = 1 then
      (List.range (64 / cellCount (d.f 54 51))).map fun k => ⟨past + 12 + (if blocks then 32 else 0) + k, .write k⟩
    else (List.range rows).map fun r =>
      if blocks then ⟨first + (32 * (r / 32) + 31) * c + c + 11 + r % 32, .write r⟩ else ⟨first + r * c + c + 11, .write r⟩
  if wide && spad then ws.flatMap fun a => match a.kind with | .write k => [⟨a.at_ - 1, .slotRead k⟩, a] | _ => [a]
  else ws

/-- The accesses of a VOP that begins in region clock `now`, the lanes free from clock `free` on: its first clock, and the
list (R89, R100). -/
def vopPlan (wide : Bool) (d : Desc) (now free : Nat) : Nat × List UnitAccess :=
  let fills := vopFills d
  let first := max (now + fills.length) free
  (first,
   ((List.range fills.length).zip fills).map (fun p => ⟨now + p.1, p.2⟩) ++
    (List.range (d.f 43 37)).map (fun r => ⟨first + r * vopClocks d.op, .row r⟩) ++ vopWrites wide d first)

/-- One operand of an MMA (R148): its format code, first tile, block, scale set and direction. -/
structure OpSpec where
  fmt : Nat
  tile : Nat
  q : Nat
  scale : Nat
  em : Bool
  deriving DecidableEq, Repr

/-- Operand b of an MMA: 0 is A, 1 is B. -/
def opSpec (d : Desc) (b : Nat) : OpSpec :=
  if b = 0 then ⟨d.f 35 32, d.f 70 64, d.f 75 71, d.f 88 76, d.f 42 42 == 1⟩
  else ⟨d.f 39 36, d.f 102 96, d.f 107 103, d.f 120 108, d.f 43 43 == 1⟩

/-- The tile, counted from the operand's first, and the square block of its j-th block of 64 K steps (R112, R148). -/
def OpSpec.block (o : OpSpec) (j : Nat) : Nat × Nat :=
  if o.em then (j, o.q) else ((o.q + j) / cellCount o.fmt, (o.q + j) % cellCount o.fmt)

/-- The reads that fill a buffer with block j of operand b: the scale set of a tile just before its first column (R101, R115),
then the columns, or in wide-row mode the rows (R118). -/
def blockReads (wide : Bool) (d : Desc) (b j : Nat) : List AccessKind :=
  let o := opSpec d b
  let m := (o.block j).1
  let fresh := j == 0 || (o.block (j - 1)).1 != m
  (if mxCode o.fmt && fresh then (List.range (scaleSlots o.fmt)).map fun i => .opScale b m i else []) ++
    (if wide then (List.range 64).map fun r => .opRow b j r else (List.range (64 / cellCount o.fmt)).map fun k => .opColumn b j k)

/-- Reads of the operand stage placed in the earliest clocks from `next` on and from the clock each is released; `run` counts
the read clocks held in a row before `next`.  In normal mode it leaves every fifth clock to others (R101). -/
def placeReads (wide : Bool) : List (Nat × AccessKind) → Nat → Nat → List UnitAccess × Nat × Nat
  | [], next, run => ([], next, run)
  | (rel, k) :: rest, next, run =>
    let run := if next < rel then 0 else run
    let at_ := max next rel
    let full := !wide && 4 ≤ run
    let at_ := if full then at_ + 1 else at_
    let r := placeReads wide rest (at_ + 1) (if full then 1 else run + 1)
    (⟨at_, k⟩ :: r.1, r.2)

/-- The reads of an MMA that begins in region clock `now`, and its first clock of occupancy (R67, R68, R101): the first block
of each operand is read before the occupancy begins, while an earlier MMA's last block is consumed where one runs; each
later block when the buffer two blocks before it is free. -/
def mmaPlan (x : UnitState) (d : Desc) (now : Nat) : Nat × List UnitAccess × Nat × Nat :=
  let wide := wideMode x
  let k := d.f 61 48
  let occ := mmaOccupancy x d
  let nb := (k + 63) / 64
  let step := 64 * occ / k
  let last := x.lastMma.getD (0, 0)
  let both (j : Nat) := blockReads wide d 0 j ++ blockReads wide d 1 j
  let p := placeReads wide ((both 0).map fun a => (max now last.1, a)) (max now x.opNext) (if now ≤ x.opNext then x.opRun else 0)
  let first := max (max now last.2) p.2.1
  let later := (List.range (nb - 1)).flatMap fun i =>
    (both (i + 1)).map fun a => (if i = 0 then max now last.2 else first + i * step, a)
  let q := placeReads wide later p.2.1 p.2.2
  (first, p.1 ++ q.1, q.2)

/-- Start of the last square block of an MMA and end of its occupancy, from its first clock (R68, R101). -/
def mmaEnds (x : UnitState) (d : Desc) (first : Nat) : Nat × Nat :=
  let k := d.f 61 48
  (first + ((k + 63) / 64 - 1) * (64 * mmaOccupancy x d / k), first + mmaOccupancy x d)

/-- Do the Day checks of a unit's die still run (R389)? -/
def dayChecking (s : State) (u : Nat) : Bool :=
  s.mgr.step == 10 && inDawn s (dieQuarter (u / 16)) && !s.mgr.dayDone.contains (dieSite (u / 16))

/-- The wait of an MMA or VOP for the Day-check programme of its unit, at most 64 region clocks: a free value, since the spec does not
say when the programme holds the array or the lanes (R389; log entry 155). -/
def dayWait (s : State) (u : Nat) (d : Desc) : Nat × State := if d.cls ≤ 1 && dayChecking s u then s.drawChoice 65 else (0, s)

/-- The programme of a unit yields n clocks (R389). -/
def noteYield (s : State) (u n : Nat) (x : UnitState) : UnitState := if dayChecking s u then { x with yielded := x.yielded + n } else x

/-- An issued descriptor begins its accesses: its first clock, its length and its accesses are set (R67, R68, R89, R100,
R123); in Dawn the unit's Day checks may make it wait, and yield to it (R389). -/
def begin_ (s : State) (u did : Nat) : State :=
  let x := s.un u
  match x.issued.find? fun e => e.d.did == did with
  | none => s
  | some e =>
    let (w, s) := dayWait s u e.d
    let now := max (unitClk s u) x.settled + w
    match e.d.cls with
    | 0 =>
      let p := mmaPlan x e.d now
      s.setUn u { noteYield s u (mmaOccupancy x e.d) x with
        issued := mapFirst (fun e => e.d.did == did)
          (fun e => { e with begun := true, beganAt := p.1, span := mmaOccupancy x e.d + 76, todo := p.2.1 }) x.issued
        lastMma := some (mmaEnds x e.d p.1), opNext := p.2.2.1, opRun := p.2.2.2 }
    | 1 =>
      let p := vopPlan (wideMode x) e.d now x.laneFree
      s.setUn u { noteYield s u (e.d.f 43 37 * vopClocks e.d.op) x with
        issued := mapFirst (fun e => e.d.did == did)
          (fun e => { e with begun := true, beganAt := p.1, span := vopSpan e.d, todo := p.2 }) x.issued
        laneFree := p.1 + e.d.f 43 37 * vopClocks e.d.op }
    | _ => s.setUn u { x with
        issued := mapFirst (fun e => e.d.did == did) (fun e => { e with begun := true, beganAt := now, span := 0 }) x.issued }

/-- May an issued descriptor begin its accesses now (R102, R123, R124)? -/
def mayBegin (s : State) (u did : Nat) : Bool :=
  let x := s.un u
  match x.issued.find? fun e => e.d.did == did with
  | some e => !e.begun && descTagsOk x e.d && !heldBack (wideMode x) x.issued did && !shadowHolds x e.d
  | none => false

/-- Does a descriptor convert with stochastic rounding (R79)?  A result written as FP32 is no such conversion. -/
def convertsSr (d : Desc) : Bool := d.cls == 1 && d.f 45 44 == 2 && d.f 50 48 == 2 && d.f 54 51 != 0

/-- A unit can take the head of its queue (R129, R133). -/
def canIssue (s : State) (u : Nat) (d : Desc) : Bool :=
  let x := s.un u
  rgnRuns s (unitRgn u) && !clearing x && x.issued.length < 8 &&
    (!(2 ≤ d.cls && d.cls ≤ 5) || (s.cl (unitClu u)).eng.length < 32)

/-- A descriptor that no issue command names: an undefined class or operation. -/
def orphan (d : Desc) : Bool := d.cls > 7 || (d.cls == 1 && d.op > 0x14) || (d.cls == 5 && d.redOp == 3)

end Sys2Proof.Machine
end

