-- ==== Sys2Proof/Machine/Array.lean ====
section
/-! DEFINITION. The multiply-accumulate array and its checksum row (R61 to R88): one MMA, bit for bit. -/

namespace Sys2Proof.Machine

/-- Position of an element within its slot: first byte, and the encoding read from those bytes (R110). -/
def elemAt (s : State) (u : Nat) (f : Format) (tile r e : Nat) : Nat :=
  let n := f.perCell
  let base := (64 * tile + r) * 1024 + e / n * 16
  let l := e % n
  let byte (o : Nat) : Nat := (memByte s.mem (spadAt u (base + o))).toNat
  match f with
  | .fp32 => byte (4 * l) + 256 * byte (4 * l + 1) + 65536 * byte (4 * l + 2) + 16777216 * byte (4 * l + 3)
  | .bf16 | .fp16 => byte (2 * l) + 256 * byte (2 * l + 1)
  | .e4m3 | .e5m2 | .mxint8 => byte l
  | .e2m3 | .e3m2 => byte l % 64
  | .e2m1 => byte (l / 2) / 16 ^ (l % 2) % 16

/-- The E8M0 scale of an element of a tile whose scale set begins at slot `scale`. -/
def scaleAt (s : State) (u : Nat) (f : Format) (scale r e : Nat) (col : Bool) : Nat :=
  (memByte s.mem (spadAt u (scale * 1024 + scaleByte f r e col))).toNat

/-- One operand of an MMA (R148). -/
structure MmaOperand where
  fmt : Format
  tile : Nat
  q : Nat
  scale : Nat
  em : Bool
  deriving DecidableEq, Repr

/-- Element i of the vector for K step k, with its block scale; 127 where the format has none (R112, R148). -/
def MmaOperand.at (o : MmaOperand) (s : State) (u k i : Nat) : FV × Nat :=
  let n := o.fmt.perCell
  let m := if o.em then k / 64 else (64 * o.q + k) / (64 * n)
  let r := if o.em then k % 64 else i
  let e := if o.em then 64 * o.q + i else (64 * o.q + k) % (64 * n)
  let v := decodeElem o.fmt (elemAt s u o.fmt (o.tile + m) r e)
  (v, if o.fmt.isMx then scaleAt s u o.fmt (o.scale + m * (n / 8)) r e o.em else 127)

/-- A value with its scale applied; the scale 0xFF makes it NaN (R70). -/
def scaled (p : FV × Nat) : FV := if p.2 = 0xFF then .nan else p.1.scale ((p.2 : Int) - 127)

/-- hi of R73: x rounded to 8 significant bits. -/
def splitHi (x : FV) : FV := roundBits 8 x
/-- lo of R73: the rest, rounded the same way. -/
def splitLo (x : FV) : FV := roundBits 8 (x.add (splitHi x).neg)

/-- The product of one K step of the FP32 pair in three passes; a zero takes the sign of the product (DEDUCED, log entry
20). -/
def product32 (x y : FV) : FV :=
  if x.isFinite && y.isFinite then
    match FV.sum [(splitHi x).mul (splitHi y), (splitHi x).mul (splitLo y), (splitLo x).mul (splitHi y)] with
    | .fin n m e => if m = 0 then .fin (x.sign != y.sign) 0 e else .fin n m e
    | z => z
  else x.mul y

/-- What enters the checksum row for an operand value: hi + lo for the FP32 pair (R81). -/
def checksumValue (f : Format) (p : FV × Nat) : FV :=
  match f with
  | .fp32 => if p.1.isFinite then (splitHi p.1).add (splitLo p.1) else p.1
  | _ => scaled p

/-- Steps of a group (R65). -/
def groupSize (f : Format) : Nat := if f.isMx then 32 else match f with | .fp32 => 1 | _ => 4

/-- A list cut into runs of g. -/
def chunks {α : Type} (g : Nat) (l : List α) : List (List α) :=
  (List.range (l.length / g)).map fun c => (l.drop (c * g)).take g

/-- The exact sum of one group for one element, its scales applied (R65). -/
def groupSum (f : Format) (ps : List ((FV × Nat) × (FV × Nat))) : FV :=
  match f with
  | .fp32 => FV.sum (ps.map fun p => product32 p.1.1 p.2.1)
  | _ =>
    let t := FV.sum (ps.map fun p => p.1.1.mul p.2.1)
    if f.isMx then
      match ps with
      | [] => t
      | p :: _ => if p.1.2 = 0xFF ∨ p.2.2 = 0xFF then .nan else t.scale ((p.1.2 : Int) + p.2.2 - 254)
    else t

/-- One output element: the groups in ascending order, each added with one rounding (R65). -/
def mmaElement (f : Format) (c0 : Word) (as_ bs : List (FV × Nat)) : Word :=
  (chunks (groupSize f) (as_.zip bs)).foldl (fun acc g => toFp32 ((ofFp32 acc).add (groupSum f g))) c0

/-- Checksum operand precision p_c (R81). -/
def checksumBits (fa fb : Nat) : Nat := match pairRate fa fb with | 4 => 6 | 2 => 8 | _ => 12

/-- A checksum cell or magnitude sum: the start value, then each group with one rounding (R81). -/
def checksumCell (rm : Rounding) (g : Nat) (start : Word) (ss bs : List FV) : Word :=
  (chunks g (ss.zip bs)).foldl
    (fun acc ps => toFp32With rm ((ofFp32 acc).add (FV.sum (ps.map fun p => p.1.mul p.2)))) start

/-- The position of a format's tolerance exponent in UNIT_TAU (R84, R88). -/
def tauGroup : Format → Nat
  | .fp32 => 0 | .bf16 => 1 | .fp16 => 2 | .e4m3 => 3 | .e5m2 => 3 | .e2m3 => 4 | .e3m2 => 4 | .mxint8 => 5 | .e2m1 => 6

/-- The tolerance exponent of a pair: the larger τ, off (0) when either is off (R84). -/
def pairTau (reg : Nat) (fa fb : Format) : Nat :=
  let t (f : Format) := bits reg (5 * tauGroup f + 4) (5 * tauGroup f)
  if t fa = 0 ∨ t fb = 0 then 0 else min (t fa) (t fb)

/-- (τ + a)·M_j exactly (R82). -/
def compareBound (t ng : Nat) (fp32 : Bool) (m : FV) : FV :=
  m.mul (.fin false (2 ^ (24 - t) + 2 * ng + 64 + (if fp32 then 512 else 0)) (-24))

/-- EXCESS of UNIT_CSUM_LAST: floor(log2(|Δ| / bound)), at most 15 (R88). -/
def excess (delta bound : FV) : Nat :=
  ((List.range 16).filter fun (e : Nat) => !(FV.lt delta.abs (bound.scale (e : Int)))).getLastD 0

/-- What one MMA leaves: the 4,096 words, row by row, and the verdict of each column: not compared, passed, or failed
with its EXCESS. -/
structure MmaResult where
  c : List Word
  cols : List (Option (Option Nat))
  deriving DecidableEq, Repr

/-- A state whose memory is what the square-block buffers took in of operand k of a descriptor (R112). -/
def buffered (s : State) (e : Issued) (k : Nat) : State := { s with mem := findD e.img k [] }

/-- One MMA on the operands its operand stage has read and on C0 as it stands, with the array's upsets applied: words 0 to
4,095 of the buffer and, from 4,096 on, the checksum cells (R63 to R65, R81 to R83).  With the compare off (t = 0) no column
is tested, so none counts as skipped for a NaN or an infinity (DESIGN CHOICE, log entry 138: R83 does not say). -/
def mmaCompute (s : State) (u : Nat) (e : Issued) (c0 : List Word) (upset : List (Nat × BitVec 32)) : MmaResult :=
  let d := e.d
  let fac := d.f 35 32
  let fbc := d.f 39 36
  let fa := (formatOfCode fac).getD .bf16
  let fb := (formatOfCode fbc).getD .bf16
  let k := d.f 61 48
  let zero := d.f 41 41 == 1
  let oa : MmaOperand := ⟨fa, d.f 70 64, d.f 75 71, d.f 88 76, d.f 42 42 == 1⟩
  let ob : MmaOperand := ⟨fb, d.f 102 96, d.f 107 103, d.f 120 108, d.f 43 43 == 1⟩
  let rowsA := (List.range 64).map fun i => (List.range k).map fun j => oa.at (buffered s e 0) u j i
  let colsB := (List.range 64).map fun i => (List.range k).map fun j => ob.at (buffered s e 1) u j i
  let start := if zero then List.replicate 4096 (0 : Word) else c0
  let flip (i : Nat) (w : Word) : Word := w ^^^ findD upset i 0
  let c := (List.range 64).flatMap fun i => (List.range 64).map fun j =>
    flip (64 * i + j) (mmaElement fa (start.getD (64 * i + j) 0) (rowsA.getD i []) (colsB.getD j []))
  let g := groupSize fa
  let stepsA := (List.range k).map fun j => rowsA.map fun r => checksumValue fa (r.getD j (.fin false 0 0, 127))
  let sHat := stepsA.map fun v => roundBits (checksumBits fac fbc) (FV.sum v)
  let uSum := stepsA.map fun v => FV.sum (v.map FV.abs)
  let t := pairTau (s.reg (unitTauAt u)) fa fb
  let cols := (List.range 64).map fun j =>
    let col := (List.range 64).map fun i => ofFp32 (c.getD (64 * i + j) 0)
    let col0 := (List.range 64).map fun i => ofFp32 (start.getD (64 * i + j) 0)
    let bs := (colsB.getD j []).map (checksumValue fb)
    let cell := flip (4096 + j) (checksumCell .rne g (toFp32 (FV.sum col0)) sHat bs)
    let m := checksumCell .up g (toFp32With .up (FV.sum (col0.map FV.abs))) uSum (bs.map FV.abs)
    if t = 0 then some none
    else if col.any (fun x => !x.isFinite) || !(ofFp32 cell).isFinite || !(ofFp32 m).isFinite then none
    else
      let delta := (FV.sum col).add (ofFp32 cell).neg
      let bound := compareBound t (k / g) (fac == 0) (ofFp32 m)
      if FV.lt bound delta.abs then some (some (excess delta bound)) else some none
  ⟨c, cols⟩

/-- The words of an accumulator buffer, row by row (R61). -/
def accWords (x : UnitState) (b : Nat) : List Word := (List.range 4096).map fun i => findD x.acc (4096 * b + i) 0

/-- A buffer is given 4,096 words. -/
def setAcc (x : UnitState) (b : Nat) (ws : List Word) : UnitState :=
  let new := ((List.range 4096).zip ws).filterMap fun p => if p.2 = 0 then none else some (4096 * b + p.1, p.2)
  let other := x.acc.filter fun p => p.1 / 4096 != b
  { x with acc := if b = 0 then new ++ other else other ++ new }

/-- The operations group of a pair: the format with the lower rate, A's when the rates are equal (R457). -/
def opsGroup (fa fb : Nat) : Nat :=
  tauGroup ((formatOfCode (if fa = 7 ∧ fb ≠ 7 then fb else fa)).getD .bf16)

/-- FLOP of a descriptor are gathered by group (R457): a MAC is two. -/
def addFlop (s : State) (u grp n : Nat) : State := s.modUn u fun x => { x with flop := addAt x.flop grp n }

end Sys2Proof.Machine
end

