-- ==== Sys2Proof/Machine/Crypto.lean ====
section
/-! DEFINITION. The published algorithms the spec names: SHA-384 and ECDSA on curve P-384 as FIPS 180-4 and FIPS 186-5
define them (R296, R464), AES-256-GCM (R479).  Their constants are the standards', which the spec cites and does not print
(PRESUMED, log entry 48). -/

namespace Sys2Proof.Machine

/-! ### SHA-384 -/

/-- Round constants of SHA-384. -/
def shaK : List Nat :=
  [0x428A2F98D728AE22, 0x7137449123EF65CD, 0xB5C0FBCFEC4D3B2F, 0xE9B5DBA58189DBBC,
   0x3956C25BF348B538, 0x59F111F1B605D019, 0x923F82A4AF194F9B, 0xAB1C5ED5DA6D8118,
   0xD807AA98A3030242, 0x12835B0145706FBE, 0x243185BE4EE4B28C, 0x550C7DC3D5FFB4E2,
   0x72BE5D74F27B896F, 0x80DEB1FE3B1696B1, 0x9BDC06A725C71235, 0xC19BF174CF692694,
   0xE49B69C19EF14AD2, 0xEFBE4786384F25E3, 0x0FC19DC68B8CD5B5, 0x240CA1CC77AC9C65,
   0x2DE92C6F592B0275, 0x4A7484AA6EA6E483, 0x5CB0A9DCBD41FBD4, 0x76F988DA831153B5,
   0x983E5152EE66DFAB, 0xA831C66D2DB43210, 0xB00327C898FB213F, 0xBF597FC7BEEF0EE4,
   0xC6E00BF33DA88FC2, 0xD5A79147930AA725, 0x06CA6351E003826F, 0x142929670A0E6E70,
   0x27B70A8546D22FFC, 0x2E1B21385C26C926, 0x4D2C6DFC5AC42AED, 0x53380D139D95B3DF,
   0x650A73548BAF63DE, 0x766A0ABB3C77B2A8, 0x81C2C92E47EDAEE6, 0x92722C851482353B,
   0xA2BFE8A14CF10364, 0xA81A664BBC423001, 0xC24B8B70D0F89791, 0xC76C51A30654BE30,
   0xD192E819D6EF5218, 0xD69906245565A910, 0xF40E35855771202A, 0x106AA07032BBD1B8,
   0x19A4C116B8D2D0C8, 0x1E376C085141AB53, 0x2748774CDF8EEB99, 0x34B0BCB5E19B48A8,
   0x391C0CB3C5C95A63, 0x4ED8AA4AE3418ACB, 0x5B9CCA4F7763E373, 0x682E6FF3D6B2B8A3,
   0x748F82EE5DEFB2FC, 0x78A5636F43172F60, 0x84C87814A1F0AB72, 0x8CC702081A6439EC,
   0x90BEFFFA23631E28, 0xA4506CEBDE82BDE9, 0xBEF9A3F7B2C67915, 0xC67178F2E372532B,
   0xCA273ECEEA26619C, 0xD186B8C721C0C207, 0xEADA7DD6CDE0EB1E, 0xF57D4F7FEE6ED178,
   0x06F067AA72176FBA, 0x0A637DC5A2C898A6, 0x113F9804BEF90DAE, 0x1B710B35131C471B,
   0x28DB77F523047D84, 0x32CAAB7B40C72493, 0x3C9EBE0A15C9BEBC, 0x431D67C49C100D4C,
   0x4CC5D4BECB3E42B6, 0x597F299CFC657E2A, 0x5FCB6FAB3AD6FAEC, 0x6C44198C4A475817]

/-- Initial hash value of SHA-384. -/
def shaH : List Nat :=
  [0xCBBB9D5DC1059ED8, 0x629A292A367CD507, 0x9159015A3070DD17, 0x152FECD8F70E5939,
   0x67332667FFC00B31, 0x8EB44A8768581511, 0xDB0C2E0D64F98FA7, 0x47B5481DBEFA4FA4]

/-- Right rotation of a 64-bit word. -/
def rotr (n x : Nat) : Nat := x / 2 ^ n + x % 2 ^ n * 2 ^ (64 - n)

/-- The next word of the message schedule, the words given newest first. -/
def shaNext (w : List Nat) : Nat :=
  let a := w.getD 1 0
  let b := w.getD 14 0
  (((rotr 19 a ^^^ rotr 61 a ^^^ (a / 64)) + w.getD 6 0 + (rotr 1 b ^^^ rotr 8 b ^^^ (b / 128)) + w.getD 15 0)) % 2 ^ 64

/-- The message schedule of a block: 80 words. -/
def shaSchedule (block : List Nat) : List Nat :=
  ((List.range 64).foldl (fun w _ => shaNext w :: w) block.reverse).reverse

/-- One round: the eight working variables a to h. -/
def shaRound (v : List Nat) (kw : Nat × Nat) : List Nat :=
  match v with
  | [a, b, c, d, e, f, g, h] =>
    let t1 := h + (rotr 14 e ^^^ rotr 18 e ^^^ rotr 41 e) + ((e &&& f) ^^^ ((2 ^ 64 - 1 - e) &&& g)) + kw.1 + kw.2
    let t2 := (rotr 28 a ^^^ rotr 34 a ^^^ rotr 39 a) + ((a &&& b) ^^^ (a &&& c) ^^^ (b &&& c))
    [(t1 + t2) % 2 ^ 64, a, b, c, (d + t1) % 2 ^ 64, e, f, g]
  | _ => v

/-- One block. -/
def shaBlock (h : List Nat) (block : List Nat) : List Nat :=
  (h.zip ((shaK.zip (shaSchedule block)).foldl shaRound h)).map fun p => (p.1 + p.2) % 2 ^ 64

/-- The 64-bit words of k blocks of a padded message. -/
def shaWords : Nat → Bytes → List (List Nat)
  | 0, _ => []
  | k + 1, bs => (List.range 16).map (fun i => beNat ((bs.drop (8 * i)).take 8)) :: shaWords k (bs.drop 128)

/-- SHA-384 of a run of bytes, as a number: its 48 bytes big-endian. -/
def sha384 (bs : Bytes) : Nat :=
  let n := bs.length
  let blocks := (n + 17 + 127) / 128
  let padded := bs ++ [0x80] ++ zeros (128 * blocks - n - 17) ++ beBytes 16 (8 * n)
  let h := (shaWords blocks padded).foldl shaBlock shaH
  (h.take 6).foldl (fun acc w => acc * 2 ^ 64 + w) 0

/-! ### ECDSA on P-384 -/

/-- The prime of P-384. -/
def p384 : Nat := 2 ^ 384 - 2 ^ 128 - 2 ^ 96 + 2 ^ 32 - 1
/-- Coefficient b of P-384. -/
def p384B : Nat := 0xB3312FA7E23EE7E4988E056BE3F82D19181D9C6EFE8141120314088F5013875AC656398D8A2ED19D2A85C8EDD3EC2AEF
/-- Base point of P-384. -/
def p384G : Nat × Nat :=
  (0xAA87CA22BE8B05378EB1C71EF320AD746E1D3B628BA79B9859F741E082542A385502F25DBF55296C3A545E3872760AB7,
   0x3617DE4A96262C6F5D9E98BF9292DC29F8F41DBD289A147CE9DA3113B5F0B8C00A60B1CE1D7E819D7A431D7C90EA0E5F)
/-- Order of P-384. -/
def p384N : Nat := 0xFFFFFFFFFFFFFFFFFFFFFFFFFFFFFFFFFFFFFFFFFFFFFFFFC7634D81F4372DDF581A0DB248B0A77AECEC196ACCC52973

/-- a^e modulo m, by the low k bits of e. -/
def powMod (m : Nat) : Nat → Nat → Nat → Nat
  | 0, _, _ => 1 % m
  | k + 1, a, e => let r := powMod m k (a * a % m) (e / 2); if e % 2 = 1 then a * r % m else r

/-- Inverse modulo a prime of 384 bits. -/
def invMod (m a : Nat) : Nat := powMod m 384 a (m - 2)

/-- Sum of two points; none is the point at infinity. -/
def ecAdd (a b : Option (Nat × Nat)) : Option (Nat × Nat) :=
  match a, b with
  | none, _ => b
  | _, none => a
  | some (x1, y1), some (x2, y2) =>
    if x1 = x2 ∧ (y1 + y2) % p384 = 0 then none
    else
      let l := if x1 = x2 then (3 * x1 * x1 + (p384 - 3)) * invMod p384 (2 * y1 % p384) % p384
        else (y2 + (p384 - y1)) * invMod p384 ((x2 + (p384 - x1)) % p384) % p384
      let x := (l * l + (p384 - x1) + (p384 - x2)) % p384
      some (x, (l * (x1 + (p384 - x)) + (p384 - y1)) % p384)

/-- A multiple of a point, by the low k bits of the factor. -/
def ecMul : Nat → Nat → Option (Nat × Nat) → Option (Nat × Nat)
  | 0, _, _ => none
  | k + 1, n, a => let r := ecMul k (n / 2) (ecAdd a a); if n % 2 = 1 then ecAdd a r else r

/-- Is a point on the curve? -/
def onCurve (x y : Nat) : Bool :=
  x < p384 && y < p384 && y * y % p384 == (x * x % p384 * x + (p384 - 3) * x + p384B) % p384

/-- Does a signature r, s verify over a digest under a public key given as the uncompressed point (R296, R464)? -/
def ecdsaVerify (key : Bytes) (digest r s : Nat) : Bool :=
  let x := beNat ((key.drop 1).take 48)
  let y := beNat ((key.drop 49).take 48)
  if key.length = 97 ∧ key.headD 0 = 4 ∧ onCurve x y = true ∧ 0 < r ∧ r < p384N ∧ 0 < s ∧ s < p384N then
    let w := invMod p384N s
    match ecAdd (ecMul 384 (digest * w % p384N) (some p384G)) (ecMul 384 (r * w % p384N) (some (x, y))) with
    | none => false
    | some (v, _) => v % p384N == r
  else false

/-! ### AES-256 and GCM -/

/-- The S-box of AES. -/
def aesBox : List Nat :=
  [0x63, 0x7C, 0x77, 0x7B, 0xF2, 0x6B, 0x6F, 0xC5, 0x30, 0x01, 0x67, 0x2B, 0xFE, 0xD7, 0xAB, 0x76,
   0xCA, 0x82, 0xC9, 0x7D, 0xFA, 0x59, 0x47, 0xF0, 0xAD, 0xD4, 0xA2, 0xAF, 0x9C, 0xA4, 0x72, 0xC0,
   0xB7, 0xFD, 0x93, 0x26, 0x36, 0x3F, 0xF7, 0xCC, 0x34, 0xA5, 0xE5, 0xF1, 0x71, 0xD8, 0x31, 0x15,
   0x04, 0xC7, 0x23, 0xC3, 0x18, 0x96, 0x05, 0x9A, 0x07, 0x12, 0x80, 0xE2, 0xEB, 0x27, 0xB2, 0x75,
   0x09, 0x83, 0x2C, 0x1A, 0x1B, 0x6E, 0x5A, 0xA0, 0x52, 0x3B, 0xD6, 0xB3, 0x29, 0xE3, 0x2F, 0x84,
   0x53, 0xD1, 0x00, 0xED, 0x20, 0xFC, 0xB1, 0x5B, 0x6A, 0xCB, 0xBE, 0x39, 0x4A, 0x4C, 0x58, 0xCF,
   0xD0, 0xEF, 0xAA, 0xFB, 0x43, 0x4D, 0x33, 0x85, 0x45, 0xF9, 0x02, 0x7F, 0x50, 0x3C, 0x9F, 0xA8,
   0x51, 0xA3, 0x40, 0x8F, 0x92, 0x9D, 0x38, 0xF5, 0xBC, 0xB6, 0xDA, 0x21, 0x10, 0xFF, 0xF3, 0xD2,
   0xCD, 0x0C, 0x13, 0xEC, 0x5F, 0x97, 0x44, 0x17, 0xC4, 0xA7, 0x7E, 0x3D, 0x64, 0x5D, 0x19, 0x73,
   0x60, 0x81, 0x4F, 0xDC, 0x22, 0x2A, 0x90, 0x88, 0x46, 0xEE, 0xB8, 0x14, 0xDE, 0x5E, 0x0B, 0xDB,
   0xE0, 0x32, 0x3A, 0x0A, 0x49, 0x06, 0x24, 0x5C, 0xC2, 0xD3, 0xAC, 0x62, 0x91, 0x95, 0xE4, 0x79,
   0xE7, 0xC8, 0x37, 0x6D, 0x8D, 0xD5, 0x4E, 0xA9, 0x6C, 0x56, 0xF4, 0xEA, 0x65, 0x7A, 0xAE, 0x08,
   0xBA, 0x78, 0x25, 0x2E, 0x1C, 0xA6, 0xB4, 0xC6, 0xE8, 0xDD, 0x74, 0x1F, 0x4B, 0xBD, 0x8B, 0x8A,
   0x70, 0x3E, 0xB5, 0x66, 0x48, 0x03, 0xF6, 0x0E, 0x61, 0x35, 0x57, 0xB9, 0x86, 0xC1, 0x1D, 0x9E,
   0xE1, 0xF8, 0x98, 0x11, 0x69, 0xD9, 0x8E, 0x94, 0x9B, 0x1E, 0x87, 0xE9, 0xCE, 0x55, 0x28, 0xDF,
   0x8C, 0xA1, 0x89, 0x0D, 0xBF, 0xE6, 0x42, 0x68, 0x41, 0x99, 0x2D, 0x0F, 0xB0, 0x54, 0xBB, 0x16]

/-- S-box of a byte. -/
def aesSub (b : Nat) : Nat := aesBox.getD b 0
/-- Doubling in the field of AES. -/
def aesX2 (b : Nat) : Nat := if b < 128 then 2 * b else (2 * b % 256) ^^^ 0x1B

/-- The next 4-byte word of the key schedule at index i, the words given newest first. -/
def aesKeyNext (w : List (List Nat)) (i : Nat) : List Nat :=
  let t := w.headD []
  let t := if i % 8 = 0 then
      match t with
      | [a, b, c, d] => [aesSub b ^^^ 2 ^ (i / 8 - 1), aesSub c, aesSub d, aesSub a]
      | _ => t
    else if i % 8 = 4 then t.map aesSub else t
  (t.zip (w.getD 7 [])).map fun p => p.1 ^^^ p.2

/-- The 15 round keys of a 256-bit key, 16 bytes each. -/
def aesKeys (key : Bytes) : List (List Nat) :=
  let k := key.map (·.toNat)
  let first := (List.range 8).map fun i => (k.drop (4 * i)).take 4
  let ws := ((List.range 52).foldl (fun w i => aesKeyNext w (i + 8) :: w) first.reverse).reverse
  (List.range 15).map fun r => ((ws.drop (4 * r)).take 4).flatten

/-- The state with a round key added. -/
def aesAddKey (s k : List Nat) : List Nat := (s.zip k).map fun p => p.1 ^^^ p.2
/-- Bytes substituted and rows shifted: the state is held column by column. -/
def aesSubShift (s : List Nat) : List Nat := (List.range 16).map fun i => aesSub (s.getD ((i + 4 * (i % 4)) % 16) 0)

/-- Columns mixed. -/
def aesMix (s : List Nat) : List Nat :=
  (List.range 16).map fun i =>
    let c (j : Nat) : Nat := s.getD (i / 4 * 4 + (i + j) % 4) 0
    aesX2 (c 0) ^^^ aesX2 (c 1) ^^^ c 1 ^^^ c 2 ^^^ c 3

/-- AES-256 of one block of 16 bytes. -/
def aesBlock (ks : List (List Nat)) (b : List Nat) : List Nat :=
  let s := aesAddKey b (ks.headD [])
  let s := ((ks.drop 1).take 13).foldl (fun s k => aesAddKey (aesMix (aesSubShift s)) k) s
  aesAddKey (aesSubShift s) (ks.getD 14 [])

/-- Product in GF(2^128) with the bit order of GCM: bit 127 of a number is the first bit. -/
def ghashMul (x y : Nat) : Nat :=
  ((List.range 128).foldl (fun (p : Nat × Nat) i =>
    (if (x / 2 ^ (127 - i)) % 2 = 1 then p.1 ^^^ p.2 else p.1,
     if p.2 % 2 = 1 then (p.2 / 2) ^^^ 0xE1000000000000000000000000000000 else p.2 / 2)) (0, y)).1

/-- Big-endian number of a block padded to 16 bytes. -/
def block128 (b : List Nat) : Nat := ((b ++ List.replicate (16 - b.length) 0).foldl (fun a x => a * 256 + x) 0)

/-- The i-th 16 bytes of a run. -/
def chunk16 (d : List Nat) (i : Nat) : List Nat := (d.drop (16 * i)).take 16

/-- 16 bytes of a 128-bit number. -/
def bytes128 (v : Nat) : List Nat := (beBytes 16 v).map (·.toNat)

/-- AES-256-GCM decryption with a 12-byte IV and 16 bytes of additional data: plaintext, and the tag computed over the
additional data and the ciphertext (R479). -/
def gcmDecrypt (key iv aad data : Bytes) : Bytes × Bytes :=
  let ks := aesKeys key
  let d := data.map (·.toNat)
  let v := iv.map (·.toNat)
  let n := (d.length + 15) / 16
  let ctr (i : Nat) : List Nat := aesBlock ks (v ++ (beBytes 4 i).map (·.toNat))
  let plain := ((List.range n).map fun i => ((chunk16 d i).zip (ctr (i + 2))).map fun p => BitVec.ofNat 8 (p.1 ^^^ p.2)).flatten
  let h := block128 (aesBlock ks (List.replicate 16 0))
  let g0 := ghashMul (block128 (aad.map (·.toNat))) h
  let g := (List.range n).foldl (fun y i => ghashMul (y ^^^ block128 (chunk16 d i)) h) g0
  let g := ghashMul (g ^^^ (128 * 2 ^ 64 + 8 * d.length)) h
  (plain, beBytes 16 (g ^^^ block128 (ctr 1)))

end Sys2Proof.Machine
end

