-- ==== Sys2Proof/Machine/Packets.lean ====
section
/-! DEFINITION. Packets, their 64-byte header, the token buckets a cluster's packets pass, and the ports at which they
enter the mesh (R206, R214 to R218, R239 to R247). -/

namespace Sys2Proof.Machine

/-! ### Packet types and codes (R215, R216) -/

/-- WR -/
def tWr : Nat := 0
/-- WR_ACK -/
def tWrAck : Nat := 1
/-- RD -/
def tRd : Nat := 2
/-- RD_DATA -/
def tRdData : Nat := 3
/-- MSG -/
def tMsg : Nat := 4
/-- CREDIT -/
def tCredit : Nat := 5
/-- RED -/
def tRed : Nat := 6
/-- COH -/
def tCoh : Nat := 7
/-- ATOM -/
def tAtom : Nat := 8
/-- ATOM_RSP -/
def tAtomRsp : Nat := 9
/-- REG -/
def tReg : Nat := 0xA
/-- REG_RSP -/
def tRegRsp : Nat := 0xB
/-- BEACON -/
def tBeacon : Nat := 0xC
/-- MGMT -/
def tMgmt : Nat := 0xD
/-- TEST -/
def tTest : Nat := 0xE

/-- SCHED, BULK, CTRL -/
def cSched : Nat := 0
/-- BULK -/
def cBulk : Nat := 1
/-- CTRL -/
def cCtrl : Nat := 2

/-- STATUS: OK, UNASSIGNED, ECLIPSED, FENCED, NACK_ADDR. -/
def sOk : Nat := 0
/-- UNASSIGNED -/
def sUnassigned : Nat := 1
/-- ECLIPSED -/
def sEclipsed : Nat := 2
/-- FENCED -/
def sFenced : Nat := 3
/-- NACK_ADDR -/
def sNack : Nat := 4

/-- The fields of the header but HCRC, as value and lowest bit (R215).  RTAG carries the write tag of a request that has
no read tag, and of its answer (DESIGN CHOICE, log entry 43). -/
def headerFields (p : Packet) : List (Nat × Nat) :=
  [(p.typ % 16, 0), (p.cls % 4, 4), (p.tagm % 4, 6), (b2n p.poison, 8), (b2n p.msgv, 9), (b2n p.hdrOnly, 10),
   (b2n p.remote, 11), (p.defl % 32, 12), (p.sdefl % 8, 17), (if p.hdrOnly then 0 else (p.payload.length - 1) % 1024, 20),
   (p.dsite % 512, 32), (p.dagt % 16, 41), (p.ssite % 512, 45), (p.sagt % 16, 54), (p.injNs % 2 ^ 32, 64),
   (p.corr % 2 ^ 32, 96), (p.addr % 2 ^ 44, 128), ((if p.rtag = 0 then p.wtag else p.rtag) % 4096, 172), (p.spanel % 1024, 192), (p.sclu % 1024, 202),
   (p.dque % 64, 212), (p.seg % 16, 218), (p.mrow % 64, 222), (p.mlen % 64, 228), (p.gen % 16, 234),
   (p.mseq % 65536, 238), (b2n p.nextph, 254), (p.mframe % 65536, 256), (p.rfmt % 16, 272), (p.rop % 4, 276),
   (p.rrm % 4, 278), (p.acks % 1024, 280), (p.sub % 16, 290), (p.status % 16, 294)]

/-- The header's bits [479:0]. -/
def headerLow (p : Packet) : Nat := ((headerFields p).map fun f => f.1 * 2 ^ f.2).sum

/-- The 64 header bytes, HCRC last: CRC-32C over bytes 0 to 59 (R214). -/
def headerBytes (p : Packet) : Bytes :=
  let low := leBytes 60 (headerLow p)
  low ++ leBytes 4 (crc32c low)

/-- A packet as bytes: header, and for one that is not header-only its payload and block check (R214). -/
def packetBytes (p : Packet) : Bytes :=
  headerBytes p ++ if p.hdrOnly then [] else p.payload ++ leBytes 8 p.check

/-- Length in bytes of the packet whose header bytes are given. -/
def packetLength (h : Bytes) : Nat :=
  let w := leNat (h.take 64)
  if bit w 10 then 64 else 64 + bits w 29 20 + 1 + 8

/-- The packet that a run of bytes holds; `bad` when its header fails HCRC (R214). -/
def packetOf (bs : Bytes) : Packet :=
  let w := leNat (bs.take 64)
  let f (hi lo : Nat) : Nat := bits w hi lo
  let n := f 29 20 + 1
  { typ := f 3 0, cls := f 5 4, tagm := f 7 6, poison := bit w 8, msgv := bit w 9, hdrOnly := bit w 10
    remote := bit w 11, defl := f 16 12, sdefl := f 19 17, dsite := f 40 32, dagt := f 44 41, ssite := f 53 45
    sagt := f 57 54, injNs := f 95 64, corr := f 127 96, addr := f 171 128, rtag := f 183 172, wtag := f 183 172, spanel := f 201 192
    sclu := f 211 202, dque := f 217 212, seg := f 221 218, mrow := f 227 222, mlen := f 233 228, gen := f 237 234
    mseq := f 253 238, nextph := bit w 254, mframe := f 271 256, rfmt := f 275 272, rop := f 277 276, rrm := f 279 278
    acks := f 289 280, sub := f 293 290, status := f 297 294
    payload := if bit w 10 then [] else (bs.drop 64).take n
    check := if bit w 10 then 0 else leNat ((bs.drop (64 + n)).take 8)
    bad := f 511 480 != crc32c (bs.take 60) }

/-- Payload and a fresh block check (R271). -/
def withPayload (p : Packet) (bs : Bytes) : Packet := { p with hdrOnly := false, payload := bs, check := crc64 bs }

/-- Payload marked poisoned: its data bytes are 0 (R274). -/
def withPoison (p : Packet) (n : Nat) : Packet := { p with hdrOnly := false, payload := zeros n, check := 0, poison := true }

/-- Does a packet's payload agree with its block check, when it is not marked poisoned (R272, R274)? -/
def payloadOk (p : Packet) : Bool := !p.poison && crc64 p.payload == p.check

/-! ### What a beacon carries (R36, R216) -/

/-- A beacon with a time in ns: it is header-only, so the time stands in header fields that R215 gives a beacon no use for:
seconds, 48 bits, in MSEQ, MFRAME, SPANEL and MROW, nanoseconds in ADDR[43:16] and DQUE (DESIGN CHOICE, log entry 47). -/
def beaconAt (ns : Nat) (p : Packet) : Packet :=
  let sec := ns / 1000000000 % 2 ^ 48
  let n := ns % 1000000000
  { p with
    mseq := sec % 2 ^ 16, mframe := sec / 2 ^ 16 % 2 ^ 16, spanel := sec / 2 ^ 32 % 2 ^ 10, mrow := sec / 2 ^ 42
    addr := n % 2 ^ 28 * 2 ^ 16 + p.addr % 2 ^ 16, dque := n / 2 ^ 28 }

/-- The time a beacon carries, in ns. -/
def beaconTime (p : Packet) : Nat :=
  (p.mseq + p.mframe * 2 ^ 16 + p.spanel * 2 ^ 32 + p.mrow * 2 ^ 42) * 1000000000 + (p.addr / 2 ^ 16 + p.dque * 2 ^ 28)

/-! ### Agent ports (R206) -/

/-- Router and agent port of an agent port of the mesh. -/
def portOfRegion (r : Nat) : Nat × Nat := (dieSite (r / 2), 4 + r % 2)
/-- Router and agent port of a memory router's agents. -/
def portOfStack (n : Nat) : Nat × Nat := (stackSite n, 4)
/-- Router and agent port of an edge die's agents. -/
def portOfEdge (e : Nat) : Nat × Nat := (edgeSite e, 2)
/-- Router and port of an AgentPort. -/
def portOf : AgentPort → Nat × Nat
  | .region r => portOfRegion r
  | .router n => portOfStack n
  | .edge e => portOfEdge e

/-- A packet waits at an agent port to enter the mesh (R222). -/
def inject (s : State) (site port : Nat) (p : Packet) : State :=
  s.modRtr site fun r => { r with inject := r.inject ++ [(port, p)] }

/-- Does the agent a packet is for take packets now?  A cluster's does while its region's clock runs (R52, R364). -/
def agentTakes (s : State) (site port : Nat) (p : Packet) : Bool :=
  match placeOf site with
  | .die d => decide (4 ≤ p.dagt) || rgnRuns s (2 * d + (port - 4))
  | _ => true

/-- The buffer of R221 that a packet stands in at an agent port: each agent has its own. -/
def bufferOf (port : Nat) (p : Packet) : Nat := 16 * port + p.dagt

/-- The packet at the head of each agent's buffer of a port, in order of arrival: the agents at whose buffers' heads stand the
packets not yet passed over are `seen`. -/
def bufferHeads (port : Nat) : List Nat → List (Nat × Packet) → List Packet
  | _, [] => []
  | seen, e :: t =>
    if e.1 = port ∧ e.2.dagt ∉ seen then e.2 :: bufferHeads port (e.2.dagt :: seen) t else bufferHeads port seen t

/-- The packet that `want` names at the head of one of an agent port's buffers, when its agent takes packets (R221). -/
def ejected (s : State) (site port : Nat) (want : Packet → Bool) : Option Packet :=
  (bufferHeads port [] (s.rtr site).eject).find? fun p => want p && agentTakes s site port p

/-- The first packet leaves the buffer of an agent at a port; a full buffer has a free entry again (R221, R229). -/
def popEject (s : State) (site port agt : Nat) : State :=
  let b := 16 * port + agt
  s.modRtr site fun r => { r with
    eject := eraseFirst (fun e => e.1 == port && e.2.dagt == agt) r.eject
    fullSince := r.fullSince.filter fun e => e.1 != b
    ejSusp := r.ejSusp.map fun e => if e.1 = b then (e.1, some s.fab) else e }

/-- A command that serves the packet at the head of an agent's ejection buffer when `want` names it. -/
def serve (at_ : Nat × Nat) (want : Packet → Bool) (f : Packet → State → State) (s : State) : Res :=
  match ejected s at_.1 at_.2 want with
  | none => .next s
  | some p => .next (f p (popEject s at_.1 at_.2 p.dagt))

/-- Agent code of physical cluster c on its die: cluster k (R215). -/
def cluAgent (c : Nat) : Nat := c % 4
/-- Physical cluster of an agent of a compute die's router. -/
def agentClu (site agt : Nat) : Option Nat :=
  match placeOf site with | .die d => if agt < 4 then some (4 * d + agt) else none | _ => none

/-- A packet from cluster c to a router's agent. -/
def fromClu (c : Nat) (p : Packet) : Packet := { p with ssite := cluSite c, sagt := cluAgent c }

/-- A cluster's packet goes to its region's agent port. -/
def injectClu (s : State) (c : Nat) (p : Packet) : State :=
  inject s (cluSite c) (4 + c % 4 / 2) (fromClu c p)

/-- A packet of stack n's agent goes to its router's agent port. -/
def injectMr (s : State) (n agt : Nat) (p : Packet) : State :=
  inject s (stackSite n) 4 { p with ssite := stackSite n, sagt := agt }

/-- A packet of edge die e's agent goes to its router's agent port. -/
def injectEdge (s : State) (e agt : Nat) (p : Packet) : State :=
  inject s (edgeSite e) 2 { p with ssite := edgeSite e, sagt := agt }

/-- The reply to a request: to its source agent, with its class and tags (R216). -/
def replyTo (p : Packet) (typ status : Nat) : Packet :=
  { typ := typ, cls := p.cls, dsite := p.ssite, dagt := p.sagt, addr := p.addr, rtag := p.rtag, status := status
    remote := p.remote, wtag := p.wtag, spanel := p.spanel, sclu := p.sclu, peer := p.peer }

/-! ### Buckets (R239 to R247) -/

/-- Index of a cluster's bucket of a class. -/
def bucketOf (c cls : Nat) : Nat := 4 * c + cls
/-- Index of an edge die's SCHED bucket. -/
def bucketOfEdge (e : Nat) : Nat := 4096 + e
/-- Index of a named bucket. -/
def bucketIx : BucketId → Nat
  | .cluster c k => bucketOf c k
  | .edge e => bucketOfEdge e

/-- A packet's charge: 1,096 B in units of 1/2048 B (R240, R242). -/
def packetCharge : Int := 2244608

/-- Balance at the present fabric cycle (R241, R246): it grows by RATE in each cycle up to DEPTH, and stands still while
RATE is 0. -/
def balance (s : State) (b : Nat) : Int :=
  let x := s.bucket b
  if x.rate = 0 then x.bal else min (x.bal + x.rate * ((s.fab - x.at_ : Nat) : Int)) (max x.bal (x.depth * 2048))

/-- The cycle at which a bucket's balance is 0 or more again, when its rate lets it (R242, R246). -/
def solventAt (s : State) (b : Nat) : Option Nat :=
  let x := s.bucket b
  if x.rate = 0 then none
  else if 0 ≤ balance s b then some s.fab
  else some (s.fab + ((-(balance s b)).toNat + x.rate - 1) / x.rate)

/-- May a packet pass now (R242, R246)? -/
def mayPass (s : State) (b : Nat) : Bool := (s.bucket b).rate != 0 && decide (0 ≤ balance s b)

/-- A packet passes: the balance falls by its charge (R242). -/
def charge (s : State) (b : Nat) : State :=
  let v := balance s b
  let x := s.bucket b
  s.setBucket b { x with bal := v - packetCharge, at_ := s.fab }

/-- New rate and depth take effect at fabric cycle f: earlier cycles accrue at the old rate, a debt stays, a balance above the new
depth is cut (R245, R247). -/
def setBucketCfg (s : State) (b f rate depth : Nat) : State :=
  let x := s.bucket b
  let f := max f x.at_
  let v := balance { s with fab := f } b
  s.setBucket b { x with rate := rate, depth := depth, bal := if v > depth * 2048 then depth * 2048 else v, at_ := f }

/-- The fabric cycle at which the keeper at a router counts tick edge t; the present one for a change at no edge (R245). -/
def switchCycle (s : State) (site : Nat) (t : Option Nat) : Nat := match t with | some t => keeperInstant s site t | none => s.fab

/-- SHP_WAIT_CNTc of cluster c. -/
def waitCntAt (c cls : Nat) : Nat :=
  match cls with | 0 => shpWaitCnt0At c | 1 => shpWaitCnt1At c | _ => shpWaitCnt2At c

/-- The region clocks a request of cluster c waited on its bucket are counted and the wait ends (R243). -/
def endBucketWait (s : State) (c cls : Nat) : State :=
  let b := bucketOf c cls
  match (s.bucket b).waitAt with
  | none => s
  | some t => (s.setBucket b { s.bucket b with waitAt := none }).bumpBy (waitCntAt c cls) (cluClk s c - t)

/-- A request of cluster c begins to wait on its bucket. -/
def startBucketWait (s : State) (c cls : Nat) : State :=
  let b := bucketOf c cls
  if (s.bucket b).waitAt.isSome then s else s.setBucket b { s.bucket b with waitAt := some (cluClk s c) }

/-- A control packet of a cluster's sequencer: it passes the CTRL bucket at once, or waits there behind the others
(R239, R243). -/
def sendCtrl (s : State) (c : Nat) (p : Packet) : State :=
  let b := bucketOf c cCtrl
  if (s.cl c).ctrlOut.isEmpty && mayPass s b then injectClu (charge s b) c { p with cls := cCtrl }
  else startBucketWait (s.modCl c fun x => { x with ctrlOut := x.ctrlOut ++ [{ p with cls := cCtrl }] }) c cCtrl

/-- A credit return of a cluster's ring units: it passes the SCHED bucket at once, or waits there ahead of every SCHED
request (R173). -/
def sendCredit (s : State) (c : Nat) (p : Packet) : State :=
  let b := bucketOf c cSched
  if (s.cl c).credits.isEmpty && mayPass s b then injectClu (charge s b) c p
  else startBucketWait (s.modCl c fun x => { x with credits := x.credits ++ [p] }) c cSched

end Sys2Proof.Machine
end

