-- ==== Sys2Proof/Machine/Suspension.lean ====
section
/-! DEFINITION. Suspensions of the fabric's bound (R229, R238), the active manager, and the links' states (R209 to
R212). -/

namespace Sys2Proof.Machine

/-! ### The active manager (R12, R427, R431) -/

/-- The active manager instance; none while no manager acts. -/
def activeMgr (s : State) : Option Bool := if s.mgr.lost then none else s.mgr.active

/-- Edge die of the active manager; ED0's place while none acts. -/
def mgrEdge (s : State) : Nat := managerEdge ((activeMgr s).getD false)

/-- Epoch of the active manager (R428). -/
def mgrEpoch (s : State) : Nat := (s.inst ((activeMgr s).getD false)).epoch

/-- A packet of the active manager, with its epoch (R428): it enters at the manager's edge die as agent 5. -/
def fromMgr (s : State) (p : Packet) : State :=
  match activeMgr s with
  | none => s
  | some b => injectEdge s (managerEdge b) 5 { p with cls := cCtrl, addr := p.addr / 65536 * 65536 + mgrEpoch s % 65536 }

/-- A MGMT packet of a subtype, header-only, from the manager to an agent. -/
def mgmtTo (site agt sub : Nat) : Packet := { typ := tMgmt, cls := cCtrl, sub := sub, dsite := site, dagt := agt }

/-- Agent code of the keeper or register agent of the die at a router (R215). -/
def regAgent (site : Nat) : Nat := match placeOf site with | .die _ => 4 | .stack _ => 3 | .edge _ => 6

/-- Agent port of an agent of a router; none for a reserved code (R206, R215).  The keeper and register agent of a compute
die uses port 4 (DESIGN CHOICE, log entry 44). -/
def agentPortOf (site agt : Nat) : Option Nat :=
  match placeOf site with
  | .die _ => if agt < 4 then some (4 + agt / 2) else if agt = 4 then some 4 else none
  | .stack _ => if agt < 4 then some 4 else none
  | .edge _ => if agt < 7 then some 2 else none

/-- Agent port of the register agent at a router. -/
def regPort (site : Nat) : Nat := (agentPortOf site (regAgent site)).getD 0

/-- A packet of the register agent at a router. -/
def fromRegAgent (s : State) (site : Nat) (p : Packet) : State :=
  inject s site (regPort site) { p with cls := cCtrl, ssite := site, sagt := regAgent site }

/-- Does a receiver at a router obey a manager's packet (R428)? -/
def obeys (s : State) (site : Nat) (p : Packet) : Bool := decide ((s.rtr site).epoch ≤ p.addr % 65536)

/-- The highest epoch a receiver has seen (R428). -/
def seeEpoch (s : State) (site e : Nat) : State :=
  if (s.rtr site).epoch < e then s.modRtr site fun r => { r with epoch := e } else s

/-- A MGMT packet of a subtype at the head of an agent port serves a command; one of an older epoch is discarded (R428). -/
def serveMgmt (site sub : Nat) (f : Packet → State → State) (s : State) : Res :=
  serve (site, regPort site) (fun p => p.typ == tMgmt && p.sub == sub) (fun p s =>
    if obeys s site p then f p (seeEpoch s site (p.addr % 65536)) else s) s

/-- A MGMT packet of a subtype for the active manager serves a command. -/
def serveMgr (typ sub : Nat) (f : Packet → State → State) (s : State) : Res :=
  match activeMgr s with
  | none => .next s
  | some b => serve (portOfEdge (managerEdge b)) (fun p => p.typ == typ && p.sub == sub && p.dagt == 5) f s

/-! ### Link states (R209 to R212) -/

/-- State of a link by its failed lanes or wires: UP, PENUMBRA or DOWN. -/
def linkStateOf (k : LinkKind) (failed : Nat) : Nat :=
  match k with
  | .none => 0
  | .field => if failed ≤ 64 then 2 else 4
  | _ => if failed ≤ 2 then 2 else if failed ≤ 18 then 3 else 4

/-- Routers at the ends of a link. -/
def linkRouters (l : Nat) : List Nat := [(linkEnds l).1.1, (linkEnds l).2.1]

/-- Both ends count an entry into Penumbra or a change to DOWN (R210). -/
def countLink (s : State) (l st : Nat) : State :=
  (linkRouters l).foldl (fun s r =>
    if st = 3 then s.bump (rtrPenCntAt r) else if st = 4 then s.bump (rtrLinkDownCntAt r) else s) s

/-- Positions per slot times the slots [a, b) that a link has in its present state (R207, R210). -/
def linkSlots (s : State) (l a b : Nat) : Nat :=
  match (s.link l).state with
  | 2 => (if linkKind l = .field then 2 else 1) * (b - a)
  | 3 => (b + 1) / 2 - (a + 1) / 2
  | _ => 0

/-- The positions that link port p of a router has had since its counts began, up to slot m (R233). -/
def portSlots (s : State) (site p l m : Nat) : Nat :=
  let r := s.rtr site
  let x := findD r.cmapPos p (0, r.cmapFrom)
  x.1 + linkSlots s l x.2 m

/-- A link changes: the routers at both ends have counted its positions until now (R233). -/
def changeLink (s : State) (l : Nat) (x : Link) : State :=
  let m := s.fab / 5
  let note (t : State) (e : Nat × Nat) : State :=
    t.modRtr e.1 fun r => { r with cmapPos := putAt r.cmapPos e.2 (portSlots s e.1 e.2 l m, m) }
  (note (note s (linkEnds l).1) (linkEnds l).2).setLink l x

/-- Quarters at the ends of a link. -/
def linkQuarters (l : Nat) : List Nat := (linkRouters l).map siteQuarter

/-! ### Suspensions (R229) -/

/-- Does a link belong to a partition? -/
def linkIn (qmask l : Nat) : Bool := (linkQuarters l).all (bit qmask)

/-- The suspension byte of a partition (R238). -/
def suspByte (s : State) (p : Partition) : Nat :=
  let hold := p.hold || p.halted
  let link := p.linkSusp || (List.range 760).any fun l => linkIn p.qmask l && ((s.link l).state == 1 || (s.link l).state == 5)
  let ej := s.routers.any fun r => bit p.qmask (siteQuarter r.1) && !r.2.ejSusp.isEmpty
  let fr := s.keepers.any fun k => bit p.qmask (siteQuarter k.1) && k.2.freeRun
  let rst := match p.reset with | some r => r.kind != 2 && r.kind != 3 | none => false
  b2n hold + 2 * b2n link + 4 * b2n ej + 8 * b2n fr + 16 * b2n rst + 128 * b2n (hold || link || ej || fr || rst)

/-- PM_FAB_SUSP follows the conditions of R229, and counts each SUSP bit that rises. -/
def refreshSusp (s : State) : State :=
  let old := s.reg pmFabSuspAt
  let byte (q : Nat) : Nat := match partOf s q with | some p => suspByte s p | none => 0
  let new := byte 0 + byte 1 * 2 ^ 8 + byte 2 * 2 ^ 16 + byte 3 * 2 ^ 24
  let rises := (List.range 4).countP fun q => bit new (8 * q + 7) && !bit old (8 * q + 7)
  (s.setReg pmFabSuspAt new).bumpBy pmFabSuspCntAt rises

/-- A link leaves UP: its partitions' bound is suspended until a new stream (R229). -/
def linkChanged (s : State) (l : Nat) : State :=
  refreshSusp { s with
    parts := s.parts.map fun p => if linkIn p.qmask l then { p with linkSusp := true } else p
    mgr := { s.mgr with pends := s.mgr.pends.map fun p => if linkIn p.cfg.qmask l then { p with linkMoved := true } else p } }

end Sys2Proof.Machine
end

