-- ==== Sys2Proof/Machine/Messages.lean ====
section
/-! DEFINITION. Who accesses the panel and with which view (R41, R473), messages to the host and mailbox replies (R350,
R353 to R355). -/

namespace Sys2Proof.Machine

/-! ### Requesters (R41, R473, R485) -/

/-- Index of a requester in the snapshots of the seconds. -/
def reqCode : Requester → Nat
  | .seq c => c
  | .host q => 4096 + q
  | .tap b => 4104 + b2n b

/-- Quarter of the edge die of a TAP with DBGACC (R41): Q0 for ED0, Q2 for ED10. -/
def tapQuarter (b : Bool) : Nat := if b then 2 else 0

/-- The quarter whose partition the panel-wide GT_ block shows a requester (R41). -/
def reqQuarter : Requester → Nat
  | .seq c => cluQuarter c
  | .host q => q
  | .tap b => tapQuarter b

/-- Does a TAP reach the panel: has the manager on its die booted, and is it not lost (R485)? -/
def tapReaches (s : State) (b : Bool) : Bool := (s.inst b).booted && !(s.inst b).down && !s.mgr.lost

/-- Does an access arrive by the operator path (R473)? -/
def isOperator (s : State) : Requester → Bool
  | .host q => !(s.qtr q).operSessions.isEmpty
  | .tap b => tapReaches s b
  | .seq _ => false

/-- The operator's access to a register of the active manager: it needs one (R431). -/
def operMgr (s : State) (who : Requester) : Bool := isOperator s who && (activeMgr s).isSome

/-! ### Messages to the host (R353 to R355) -/

/-- Global time as QC_SS_APPLY and the message header give it (R313, R353). -/
def timeWord (ns : Nat) : Nat := ns / 1000000000 % 2 ^ 34 * 2 ^ 30 + ns % 1000000000

/-- Global time at quarter q's controller. -/
def qcNs (s : State) (q : Nat) : Nat := nsAt s (edgeSite (controllerEdge q))

/-- A message's header (R353). -/
def msgHeader (m : HostMsg) (nbuf : Nat) : Bytes :=
  leBytes 2 m.typ ++ zeros 2 ++ leBytes 4 m.payload.length ++ leBytes 8 m.seq ++ leBytes 1 nbuf ++ zeros 7
    ++ leBytes 8 (timeWord m.ns) ++ zeros 32

/-- A message is dropped: the counter advances and the next published message will tell (R355). -/
def dropMsg (s : State) (q seq : Nat) : State :=
  (s.modQtr q fun x => { x with dropped := some (match x.dropped with
    | none => (1, seq, seq)
    | some (n, first, _) => (n + 1, first, seq)) }).bump (hstMsgDropCntAt q)

/-- Bytes that the outbound staging of a quarter holds. -/
def stagedBytes (x : Quarter) : Nat := (x.msgs.map fun m => 64 + m.payload.length).sum

/-- A message is produced: it enters the 2 MiB staging, or is dropped at once for want of space; a host that has not
enabled messages is sent none, nor one whose quarter has no service level (R353 to R355, R357, R362). -/
def stageMsg (s : State) (q typ : Nat) (payload : Bytes) : State :=
  if s.regField (hstMsgCtlAt q) 31 31 = 0 ∨ (s.qtr q).svc = 0 then s
  else
    let x := s.qtr q
    let m : HostMsg := { typ := typ, seq := x.msgSeq, payload := payload, ns := qcNs s q }
    let s := s.modQtr q fun x => { x with msgSeq := x.msgSeq + 1 }
    if stagedBytes x + 64 + payload.length > 0x200000 then dropMsg s q m.seq
    else s.modQtr q fun x => { x with msgs := x.msgs ++ [m] }

/-- STATE_EVENT to every quarter of a mask (R353).  The spec gives its payload no layout: the model sends a code of the
change and its value (DESIGN CHOICE, log entry 46). -/
def stateEvent (s : State) (qmask code value : Nat) : State :=
  (maskQuarters qmask).foldl (fun s q => stageMsg s q 4 (leBytes 4 code ++ leBytes 4 value)) s

/-! ### Mailbox replies (R350) -/

/-- Reply header of a mailbox request (R350). -/
def replyHeader (tag len status long seq : Nat) : Bytes :=
  zeros 2 ++ leBytes 2 tag ++ leBytes 4 len ++ leBytes 1 status ++ leBytes 1 long ++ zeros 6 ++ leBytes 8 seq ++ zeros 40

/-- What a quarter's endpoint sends while its link is up (R341). -/
def toHost (s : State) (q : Nat) (o : Output) : State := if (s.qtr q).pcieUp then s.emit o else s

/-- The manager answers the request of quarter q's mailbox in the reply area: a long reply goes as a message; DONE is set, BUSY
cleared and vector 9 signalled (R349, R350). -/
def mbReply (s : State) (q status : Nat) (payload : Bytes) : State :=
  match (s.qtr q).mb with
  | none => s
  | some r =>
    let long := payload.length > 4032
    let seq := (s.qtr q).msgSeq
    let s := if long then stageMsg s q 1 payload else s
    let body := replyHeader r.tag payload.length status (b2n long) (if long then seq else 0) ++ (if long then [] else payload)
    let s := toHost s q (.reply q r.tag status body)
    let s := toHost (s.setReg (hstMbStatAt q) 2) q (.msix q 9)
    s.modQtr q fun x => { x with mb := none, mbDoneAt := some s.fab, repArea := body }

/-- A REFUSED reply carries its cause: 4 bytes (DESIGN CHOICE, log entry 46, where the operation gives none). -/
def mbRefuse (s : State) (q cause : Nat) : State := mbReply s q 2 (leBytes 4 cause)

/-- The request of an operation that quarter q's mailbox holds. -/
def mbOf (s : State) (q op : Nat) : Option MbReq := (s.qtr q).mb.filter fun r => r.op == op

end Sys2Proof.Machine
end

