-- ==== Sys2Proof/Machine/Settings.lean ====
section
/-! DEFINITION. The settings store (R469) and the defect signature of a field (R310). -/

namespace Sys2Proof.Machine

/-- A byte of the store as the panel was delivered (R469); SCHEMA is kept apart. -/
def deliveredByte (o : Nat) : Byte :=
  if 0x08 ≤ o ∧ o < 0x0A then (leBytes 2 Config.storePanel.toNat).getD (o - 0x08) 0
  else if 0x10 ≤ o ∧ o < 0x40 then Config.storeOperRoot.getD (o - 0x10) 0
  else if 0x40 ≤ o ∧ o < 0x440 ∧ (o - 0x40) % 0x80 < 97 then (Config.storeStreamKey ((o - 0x40) / 0x80)).getD ((o - 0x40) % 0x80) 0
  else 0

/-- A byte of the store in force (R469). -/
def storeByte (s : State) (o : Nat) : Byte :=
  if o < 2 then (leBytes 2 s.sec.schema).getD o 0 else findD s.sec.store o (deliveredByte o)

/-- A byte of the staging window: the store in force until the operator writes it (R469). -/
def windowByte (s : State) (o : Nat) : Byte := if o < 2 then storeByte s o else findD s.sec.stage o (storeByte s o)

/-- n bytes of the store. -/
def storeBytes (s : State) (o n : Nat) : Bytes := (List.range n).map fun i => storeByte s (o + i)

/-- The stream-signing key of slot k; none when the slot is empty or does not exist (R469). -/
def streamKey (s : State) (k : Nat) : Option Bytes :=
  let b := storeBytes s (0x40 + 0x80 * k) 97
  if k < 8 ∧ b.head? ≠ some 0 then some b else none

/-- The 16 bytes of MAP of field f (R310, R387): a VACANT position shows the die it had, an unmapped one 0xFF. -/
def fieldMapBytes (s : State) (f : Nat) : Bytes :=
  let x := s.fld f
  (List.range 15).map (fun l => BitVec.ofNat 8 (((x.map.getD l none).orElse fun _ => find? x.vacant l).getD 0xFF))
    ++ [BitVec.ofNat 8 (x.spare.getD 0xFF)]

/-- DMAP_SIG of field f (R310). -/
def dmapSig (s : State) (f : Nat) : Nat := crc32c (fieldMapBytes s f)

end Sys2Proof.Machine
end

