-- ==== Sys2Proof/Machine/DefectMap.lean ====
section
/-! DEFINITION. The defect map: its records, its generation, and its message to the hosts (R310, R386, R387). -/

namespace Sys2Proof.Machine

/-- Bytes padded with zeros to n. -/
def padTo (n : Nat) (bs : Bytes) : Bytes := (bs ++ zeros (n - bs.length)).take n

/-- Good compute dies of a field (R387). -/
def goodDies (s : State) (f : Nat) : Nat := (fieldDies f).countP fun d => (s.die d).state != 2

/-- Links with an end in field f (R382). -/
def fieldLinks (f : Nat) : List Nat :=
  (List.range 760).filter fun l => (linkRouters l).any fun r => decide (r < 384) && fieldOfXY (r % 24) (r / 24) == f

/-- Was a die withdrawn by the vote of R372? -/
def byVote (s : State) (d : Nat) : Bool := (s.die d).state == 2 && ((s.die d).cause == 5 || (s.die d).cause == 6)

/-- Field record (R387). -/
def fieldRecord (s : State) (f : Nat) : Bytes :=
  let flags := b2n (s.fld f).spare.isSome + 2 * b2n ((fieldStacks f).any fun n => (s.mr n).state == 4)
    + 4 * b2n ((fieldDies f).any (byVote s)) + 8 * b2n ((fieldLinks f).any fun l => (s.link l).state == 4)
    + 16 * b2n (decide (goodDies s f < 15))
  padTo 32 (fieldMapBytes s f ++ leBytes 4 (dmapSig s f) ++ leBytes 1 (b2n (s.fld f).failed) ++ leBytes 1 (goodDies s f) ++ leBytes 1 flags)

/-- Logical die of a die within its field as the map codes it (R387). -/
def logicalCode (s : State) (d : Nat) : Nat :=
  let x := s.fld (dieField d)
  match (List.range 15).find? fun l => x.map.getD l none == some d || find? x.vacant l == some d with
  | some l => l
  | none => if x.spare = some d then 0xFE else if (s.die d).state = 3 then 0xFD else 0xFF

/-- Stepping of the die at a router: that of its fuse image, the panel's while none has been read (R16, R368). -/
def siteStep (s : State) (site : Nat) : Nat :=
  match (s.keeper site).fuse with | some f => f.step | none => bits (s.reg pmIdAt) 15 8

/-- Compute-die record (R387). -/
def dieRecord (s : State) (d : Nat) : Bytes :=
  let x := s.die d
  padTo 8 (leBytes 1 x.state ++ leBytes 1 x.cause ++ leBytes 1 (siteStep s (dieSite d)) ++ leBytes 1 (logicalCode s d) ++ leBytes 2 x.spareWords
    ++ leBytes 1 (b2n ((s.rgn (2 * d)).hdr == 3) + 2 * b2n ((s.rgn (2 * d + 1)).hdr == 3)))

/-- Stack record (R387). -/
def stackRecord (s : State) (n : Nat) : Bytes :=
  let x := s.mr n
  padTo 8 (leBytes 1 x.state ++ leBytes 1 x.cause ++ leBytes 1 (siteStep s (stackSite n)) ++ leBytes 1 0 ++ leBytes 2 x.hardRepairs)

/-- Edge-die record (R387). -/
def edgeRecord (s : State) (e : Nat) : Bytes :=
  let x := s.edge e
  padTo 8 (leBytes 1 x.state ++ leBytes 1 x.cause ++ leBytes 1 (siteStep s (edgeSite e))
    ++ leBytes 1 (b2n ((List.range 4).any fun q => controllerEdge q == e) + 2 * b2n (e == 0 || e == 10)))

/-- Spare lanes or wires a link uses (R209, R211, R212): of the direction that uses more. -/
def sparesInUse (s : State) (l : Nat) : Nat :=
  min (max (s.link l).failedLo (s.link l).failedHi) (if linkKind l = .field then 64 else 2)

/-- Lanes in service of a seam or edge link (R209, R210); 0 for a field link. -/
def lanesInService (s : State) (l : Nat) : Nat :=
  if linkKind l = .field then 0 else match (s.link l).state with | 2 => 32 | 3 => 16 | _ => 0

/-- Link record (R387). -/
def linkRecord (s : State) (l : Nat) : Bytes :=
  leBytes 1 (s.link l).state ++ leBytes 1 (sparesInUse s l) ++ leBytes 1 (lanesInService s l) ++ leBytes 1 (linkKind l).code

/-- Port record (R387). -/
def portRecord (s : State) (p : Nat) : Bytes := leBytes 1 (s.port p).state ++ leBytes 1 (s.port p).lanes ++ zeros 2

/-- PM_ID, with MGR by the active instance (R16). -/
def pmIdView (s : State) : Nat := putBits (s.reg pmIdAt) 7 4 (b2n (activeMgr s == some true))

/-- The defect map, 7,072 bytes (R387). -/
def dmapBytes (s : State) : Bytes :=
  let head := padTo 0x40 (leBytes 4 0x4C56444D ++ leBytes 2 1 ++ zeros 2 ++ leBytes 8 (s.reg pmDmapGenAt)
    ++ leBytes 8 (timeWord s.mgr.dmapNs) ++ leBytes 4 (pmIdView s)
    ++ leBytes 1 (((List.range 4).map fun q => (s.qtr q).svc % 4 * 4 ^ q).sum)
    ++ leBytes 1 (b2n s.instA.booted + 2 * b2n s.instB.booted + 4 * b2n (s.mgr.active == some true)))
  head ++ (List.range 16).flatMap (fieldRecord s) ++ (List.range 256).flatMap (dieRecord s)
    ++ (List.range 128).flatMap (stackRecord s) ++ padTo 0x80 ((List.range 16).flatMap (edgeRecord s))
    ++ (List.range 760).flatMap (linkRecord s) ++ padTo 0x100 ((List.range 64).flatMap (portRecord s))

/-- Every quarter that has a service level sends the map (R386). -/
def sendDmap (s : State) : State :=
  let b := dmapBytes s
  (List.range 4).foldl (fun s q => if (s.qtr q).svc = 0 then s else stageMsg s q 2 b) s

/-- A record of the map has changed: a new generation, and its message (R386). -/
def newGeneration (s : State) : State :=
  let s := s.setReg pmDmapGenAt (s.reg pmDmapGenAt + 1)
  sendDmap (s.modMgr fun m => { m with dmapNs := mgrNs s })

end Sys2Proof.Machine
end

