-- ==== Sys2Proof/Machine/Fabric.lean ====
section
/-! DEFINITION. The routers of the mesh: header check, firewall, ranking, outputs, deflection, entry, parking, ejection
(R206 to R232), lanes (R209), congestion maps and Glints (R233 to R236). -/

namespace Sys2Proof.Machine

/-! ### Positions and outputs (R207, R208, R213, R219, R221) -/

/-- Is p a link port of a router (R206)? -/
def isLinkPort (site p : Nat) : Bool := if site < 384 then p < 4 else p < 2

/-- Positions of link port p of a router in slot m (R207, R210). -/
def linkPositions (s : State) (site p m : Nat) : Nat :=
  match linkIndex site p with
  | none => 0
  | some l =>
    match (s.link l).state with
    | 2 => if linkKind l = .field then 2 else 1
    | 3 => if m % 2 = 0 then 1 else 0
    | _ => 0

/-- Head-to-head slots of a link (R226): the maxima are taken (DESIGN CHOICE, log entry 45). -/
def hopSlots (k : LinkKind) : Nat := if k = .field then 5 else 16

/-- Is link port p absent for a packet (R206, R219, R232)? -/
def portAbsent (s : State) (site p : Nat) (exempt : Bool) : Bool :=
  match neighbour site p with
  | none => true
  | some (t, _) => !exempt && !bit (qmaskOf s (siteQuarter site)) (siteQuarter t)

/-- Is a packet exempt from the partition firewall: BEACON, and MGMT, REG and REG_RSP from or to a panel manager
(R232)? -/
def exempt (p : Packet) : Bool :=
  let mgr (site agt : Nat) : Bool := agt == 5 && (site == edgeSite 0 || site == edgeSite 10)
  p.typ == tBeacon || ((p.typ == tMgmt || p.typ == tReg || p.typ == tRegRsp) && (mgr p.ssite p.sagt || mgr p.dsite p.dagt))

/-- The site a packet heads for from a site: the nearer attachment site of an edge die (R213). -/
def headingSite (site dsite : Nat) : Nat :=
  if dsite < 384 then dsite
  else
    let a := attachSites (dsite - 384)
    if siteDist site a.1 ≤ siteDist site a.2 then a.1 else a.2

/-- Productive link ports of a router toward a destination: those that shorten the distance (R213, R219). -/
def productive (site dsite : Nat) : List Nat :=
  (List.range 4).filter fun p =>
    match neighbour site p with
    | some (t, _) => routerDist t dsite < routerDist site dsite
    | none => false

/-- Is the x dimension preferred at a site for a packet (R219)?  PREF of the packet's source in the ROUTE section; by
default the dimension with more hops remaining, x on a tie. -/
def prefersX (s : State) (site : Nat) (p : Packet) : Bool :=
  let t := headingSite site p.dsite
  let dx := (site % 24 - t % 24) + (t % 24 - site % 24)
  let dy := (site / 24 - t / 24) + (t / 24 - site / 24)
  match cfgOf s (siteQuarter site) with
  | none => decide (dy ≤ dx)
  | some cfg => match findD cfg.routes p.ssite 0 with | 1 => true | 2 => false | _ => decide (dy ≤ dx)

/-- The productive ports in order of preference (R213, R221). -/
def preferredPorts (s : State) (site : Nat) (p : Packet) : List Nat :=
  let ps := productive site p.dsite
  if site ≥ 384 then ps
  else
    let xs := ps.filter fun q => q % 2 == 1
    let ys := ps.filter fun q => q % 2 == 0
    if prefersX s site p then xs ++ ys else ys ++ xs

/-- Ports of steps 2 to 5 of R221 in order, each with whether it deflects. -/
def outputOrder (s : State) (site : Nat) (p : Packet) : List (Nat × Bool) :=
  let here (q : Nat) : Bool := !portAbsent s site q (exempt p)
  let prod := (preferredPorts s site p).filter here
  let rest := (List.range 4).filter fun q => here q && !(productive site p.dsite).contains q
  prod.map (·, false)
    ++ ((rest.filter fun q => linkKindAt site q == .field) ++ rest.filter fun q => linkKindAt site q != .field).map (·, true)

/-- Does the firewall drop a packet at this router: its destination lies outside the partition and nothing inside leads
toward it (R231)? -/
def firewalled (s : State) (site : Nat) (p : Packet) : Bool :=
  !exempt p && !bit (qmaskOf s (siteQuarter site)) (siteQuarter p.dsite)
    && (productive site p.dsite).all fun q => portAbsent s site q false

/-! ### Ranking (R218, R220) -/

/-- Class in rank order: SCHED, CTRL, BULK. -/
def classRank (cls : Nat) : Nat := if cls = cSched then 0 else if cls = cCtrl then 1 else 2

/-- Is INJ_NS a earlier than b, by the signed 32-bit difference (R218)? -/
def olderNs (a b : Nat) : Bool := decide (toSigned 32 (ofSigned 32 ((a : Int) - b)) < 0)

/-- Does head a rank before head b (R220)? -/
def ranksBefore (a b : Nat × Packet) : Bool :=
  if classRank a.2.cls ≠ classRank b.2.cls then classRank a.2.cls < classRank b.2.cls
  else if a.2.injNs ≠ b.2.injNs then olderNs a.2.injNs b.2.injNs
  else if a.2.ssite ≠ b.2.ssite then a.2.ssite < b.2.ssite
  else a.1 < b.1

/-- A head takes its place in rank order. -/
def rankInsert (h : Nat × Packet) : List (Nat × Packet) → List (Nat × Packet)
  | [] => [h]
  | g :: t => if ranksBefore h g then h :: g :: t else g :: rankInsert h t

/-- Heads in rank order. -/
def rankHeads (l : List (Nat × Packet)) : List (Nat × Packet) := l.foldl (fun acc h => rankInsert h acc) []

/-! ### Assignment of outputs (R221, R222) -/

/-- Where a packet goes in a slot: its port, whether it is deflected, whether it found the ejection buffer full. -/
structure Placed where
  pkt : Packet
  port : Nat
  defl : Bool
  ejFull : Bool
  /-- a head that arrived, not a packet that enters -/
  through : Bool
  deriving DecidableEq, Repr

/-- What is left in a slot: positions of the six ports, room of the ejection buffers by agent. -/
structure SlotLeft where
  links : List Nat
  room : List Nat
  deriving DecidableEq, Repr

/-- The positions and ejection room a router has in slot m. -/
def slotLeft (s : State) (site m : Nat) : SlotLeft :=
  { links := (List.range 6).map fun p =>
      if isLinkPort site p then linkPositions s site p m else 2
    room := (List.range 7).map fun a => 4 - (s.rtr site).eject.countP fun e => e.2.dagt == a }

/-- One position of a port is taken. -/
def takePos (l : SlotLeft) (p : Nat) : SlotLeft := { l with links := l.links.set p (l.links.getD p 0 - 1) }

/-- Where a packet goes by R221; none when no position is left. -/
def placePkt (s : State) (site : Nat) (l : SlotLeft) (through : Bool) (p : Packet) : Option (Placed × SlotLeft) :=
  let ap := if p.dsite = site then agentPortOf site p.dagt else none
  let room := l.room.getD p.dagt 0
  let full := ap.isSome && room == 0
  let ej := match ap with | some a => room != 0 && l.links.getD a 0 != 0 | none => false
  match ap, ej with
  | some a, true => some (⟨p, a, false, false, through⟩, { takePos l a with room := l.room.set p.dagt (room - 1) })
  | _, _ =>
    match (outputOrder s site p).find? fun o => l.links.getD o.1 0 != 0 with
    | some o => some (⟨p, o.1, o.2, full, through⟩, takePos l o.1)
    | none => none

/-- Heads that arrived take their outputs in rank order: what is placed, and heads left without a position. -/
def placeHeads (s : State) (site : Nat) : SlotLeft → List (Nat × Packet) → List Placed × List (Nat × Packet) × SlotLeft
  | l, [] => ([], [], l)
  | l, h :: t =>
    match placePkt s site l true h.2 with
    | some (x, l2) => let r := placeHeads s site l2 t; (x :: r.1, r.2.1, r.2.2)
    | none => let r := placeHeads s site l t; (r.1, h :: r.2.1, r.2.2)

/-- Is a placed packet on a link? -/
def onLink (site : Nat) (x : Placed) : Bool := isLinkPort site x.port

/-- The last element that satisfies p, and the list without it. -/
def takeLast {α : Type} (p : α → Bool) (l : List α) : Option (α × List α) :=
  match l.reverse.find? p with
  | none => none
  | some x => some (x, (eraseFirst p l.reverse).reverse)

/-- What the entry of packets leaves: placed, still parked, newly parked, still waiting, positions. -/
structure Entry where
  placed : List Placed
  parked : List (Nat × Packet)
  newPark : List Packet
  waiting : List (Nat × Packet)
  left : SlotLeft
  /-- packets that entered at each agent port in this slot -/
  entered : List Nat
  deriving DecidableEq, Repr

/-- A packet that enters gets its header fields from the router; SAGT is the agent that supplied it (R218).  A beacon is sent in
the slot in which it enters, and carries the manager's time of that slot (R36). -/
def stampEntry (s : State) (site : Nat) (p : Packet) : Packet :=
  let p := { p with ssite := site, injNs := nsAt s site % 2 ^ 32, defl := 0, sdefl := 0, corr := 0, enterAt := s.fab, inPort := 4 }
  if p.typ = tBeacon then beaconAt (mgrNs s) p else p

/-- A waiting packet enters at its agent port, or waits on; a SCHED packet may take the position of the lowest-ranked CTRL
or BULK head, which is parked (R222). -/
def enterOne (s : State) (site : Nat) (e : Entry) (w : Nat × Packet) : Entry :=
  let stay := { e with waiting := e.waiting ++ [w] }
  if e.entered.countP (· == w.1) ≥ 2 then stay
  else
    let p := stampEntry s site w.2
    match placePkt s site e.left false p with
    | some (x, l) => { e with placed := e.placed ++ [x], left := l, entered := w.1 :: e.entered }
    | none =>
      if p.cls = cSched ∧ e.parked.length + e.newPark.length < 2 then
        match takeLast (fun x => x.through && onLink site x && x.pkt.cls != cSched
            && (outputOrder s site p).any fun o => o.1 == x.port) e.placed with
        | some (x, rest) =>
          let d := (outputOrder s site p).any fun o => o.1 == x.port && o.2
          { e with placed := rest ++ [⟨p, x.port, d, false, false⟩], newPark := e.newPark ++ [x.pkt], entered := w.1 :: e.entered }
        | none => stay
      else stay

/-- A beacon that has waited n slots in a router corrects for the wait; any other packet has no correction (R223). -/
def waitedSlots (n : Nat) (p : Packet) : Packet := if p.typ = tBeacon then { p with corr := p.corr + 5 * n } else p

/-- A parked packet enters in slot m, or stays parked; it keeps its INJ_NS (R222, R223). -/
def enterParked (s : State) (site m : Nat) (e : Entry) (w : Nat × Packet) : Entry :=
  match placePkt s site e.left true (waitedSlots (m - w.1) w.2) with
  | some (x, l) => { e with placed := e.placed ++ [x], left := l, parked := e.parked.filter (· != w) }
  | none => e

/-- A parked packet takes its place among the others, the oldest first (R222). -/
def parkInsert (w : Nat × Packet) : List (Nat × Packet) → List (Nat × Packet)
  | [] => [w]
  | g :: t => if olderNs w.2.injNs g.2.injNs then w :: g :: t else g :: parkInsert w t

/-! ### Drops (R214, R215, R217, R231, R232) -/

/-- Is a head dropped as a header error: HCRC, TYPE 0xF, CLASS 0b11, and at its destination a reserved agent or MGMT
subtype (R214, R215, R217)? -/
def headerBad (site : Nat) (p : Packet) : Bool :=
  p.bad || p.typ % 16 == 15 || p.cls % 4 == 3 ||
    (p.dsite == site && ((agentPortOf site p.dagt).isNone || (p.typ == tMgmt && p.sub > 0xC)))

/-- May a compute die's agent inject this packet (R232)? -/
def mayInject (site : Nat) (p : Packet) : Bool :=
  let guarded := p.typ == tBeacon || p.typ == tMgmt || p.typ == tReg || p.typ == tRegRsp
  let toMgr := p.dagt == 5 && (p.dsite == edgeSite 0 || p.dsite == edgeSite 10)
  let toQc := p.dagt == 4 && (List.range 4).any fun q => p.dsite == edgeSite (controllerEdge q)
  let own := p.dagt == 4 && p.dsite == edgeSite (controllerEdge (siteQuarter site))
  match placeOf site with
  | .die _ =>
    !guarded ||
      (if p.sagt < 4 then p.typ == tMgmt && p.sub == 3 && toMgr
       else (p.typ == tRegRsp && (toMgr || toQc)) ||
         (p.typ == tMgmt && ((toMgr && (p.sub == 1 || p.sub == 5 || p.sub == 8 || p.sub == 9)) || (own && p.sub == 7))))
  | _ => true

/-- A firewall drop is counted and recorded (R231, R237). -/
def dropFirewall (s : State) (site port : Nat) (p : Packet) : State :=
  (s.bump (rtrFwDropCntAt site)).setReg (rtrFwLastAt site)
    (p.dsite % 512 * 2 ^ 46 + p.ssite % 512 * 2 ^ 37 + p.typ % 16 * 2 ^ 33 + p.cls % 4 * 2 ^ 31 + port * 2 ^ 28 + 2 ^ 27)

/-- Does a head that arrived at a link port come from another partition (R231)? -/
def fromOutside (s : State) (site port : Nat) (p : Packet) : Bool := portAbsent s site port (exempt p)

/-- The heads of a slot that pass the checks of the router; the others are dropped and counted. -/
def checkHeads (s : State) (site : Nat) : List (Nat × Packet) → List (Nat × Packet) × State
  | [] => ([], s)
  | h :: t =>
    if headerBad site h.2 then checkHeads (s.bump (rtrHdrErrCntAt site)) site t
    else if fromOutside s site h.1 h.2 || firewalled s site h.2 then checkHeads (dropFirewall s site h.1 h.2) site t
    else let r := checkHeads s site t; (h :: r.1, r.2)

/-- The waiting packets of a router that may enter; the others are dropped and counted (R214, R231, R232). -/
def checkEntries (s : State) (site : Nat) : List (Nat × Packet) → List (Nat × Packet) × State
  | [] => ([], s)
  | h :: t =>
    if headerBad site h.2 then checkEntries (s.bump (rtrHdrErrCntAt site)) site t
    else if !mayInject site h.2 then checkEntries (s.bump (rtrFwDropCntAt site)) site t
    else if firewalled s site h.2 then checkEntries (dropFirewall s site h.1 h.2) site t
    else let r := checkEntries s site t; (h :: r.1, r.2)

/-! ### Sending and ejecting -/

/-- What noise does to a packet (R209, R211, R214). -/
def applyHit (h : Hit) (p : Packet) : Packet :=
  match h with
  | .payload => { p with payload := match p.payload with | [] => [] | b :: t => (b ^^^ 1) :: t }
  | _ => { p with bad := true }

/-- The packets that arrive, each hit as the list says: an index is 2·port + position. -/
def hitFlights (hits : List (Nat × Hit)) : List Nat → List Flight → List (Nat × Packet)
  | _, [] => []
  | seen, f :: t =>
    let k := 2 * f.port + seen.countP (· == f.port)
    (f.port, (hits.filter fun h => h.1 == k).foldl (fun p h => applyHit h.2 p) { f.pkt with inPort := f.port }) :: hitFlights hits (f.port :: seen) t

/-- A packet leaves on a link port: its deflection is marked and counted, a beacon's correction grows, and it is on its
way (R221, R223, R226). -/
def sendOn (s : State) (site m : Nat) (x : Placed) : State :=
  match neighbour site x.port, linkIndex site x.port with
  | some (t, tp), some l =>
    let k := linkKindAt site x.port
    let p := x.pkt
    let p := if x.defl then { p with
      defl := min (p.defl + 1) 31
      sdefl := if k = .field then p.sdefl else min (p.sdefl + 1) 7
      corr := if p.typ = tBeacon then p.corr + 5 * hopSlots k else p.corr } else p
    let s := if x.defl then s.bump (rtrDeflCntAt site) else s
    let s := if x.defl && p.cls == cSched then s.bump (rtrSchedDeflCntAt site) else s
    let s := if x.ejFull then s.bump (rtrEjDeflCntAt site) else s
    { s with flights := s.flights ++ [{ site := t, port := tp, slot := m + hopSlots k, link := l, pkt := p }] }
  | _, _ => s

/-- Age of a packet at ejection in ns: the injection and ejection pipelines take 2 slots each (R226, R230). -/
def ageAt (s : State) (site : Nat) (p : Packet) : Int := toSigned 32 (ofSigned 32 ((nsAt s site : Int) + 10 - p.injNs))

/-- Is a packet the PutM of the owner that the home's directory records for its line (R197)? -/
def ownerPutM (s : State) (site : Nat) (p : Packet) : Bool :=
  match placeOf site with
  | .stack n => p.typ == tCoh && p.sub == 2 && (s.mr n).dir.any fun e => e.line == p.addr && e.owner.isSome && e.owner == agentClu p.ssite p.sagt
  | _ => false

/-- Place of a packet among those that one agent receives in the same clock: a PutM from the recorded owner, then by input port
(R189, R197, R264). -/
def arrivalRank (s : State) (site : Nat) (p : Packet) : Nat := if ownerPutM s site p then 0 else 1 + p.inPort

/-- A packet joins an ejection buffer behind those that came before it, and in its place among those of its own clock. -/
def ejectIn (s : State) (site port : Nat) (p : Packet) (l : List (Nat × Packet)) : List (Nat × Packet) :=
  let after (e : Nat × Packet) : Bool :=
    e.1 == port && e.2.dagt == p.dagt && e.2.ejAt == p.ejAt && decide (arrivalRank s site p < arrivalRank s site e.2)
  l.takeWhile (fun e => !after e) ++ [(port, p)] ++ l.dropWhile fun e => !after e

/-- A packet enters an ejection buffer, and its age and deflections are counted (R227, R230). -/
def ejectTo (s : State) (site : Nat) (x : Placed) : State :=
  let p := { x.pkt with ejAt := s.fab }
  let age := ageAt s site p
  let t := s
  let s := s.modRtr site fun r =>
    let ej := ejectIn t site x.port p r.eject
    { r with eject := ej
             fullSince := if ej.countP (fun e => e.2.dagt == p.dagt) ≥ 4 then putAt r.fullSince (bufferOf x.port p) s.fab
               else r.fullSince }
  let s := if p.cls = cSched ∧ age > 1020 then s.bump (rtrSchedLateCntAt site) else s
  let s := if p.cls = cSched ∧ (p.defl > 7 ∨ p.sdefl > 1) then s.bump (rtrDeflOverCntAt site) else s
  if p.cls ≠ cSched ∧ age > 10000 then s.bump (rtrOldCntAt site) else s

/-- A placed packet goes its way, and the congestion counts follow (R233). -/
def dispatchPlaced (site m : Nat) (s : State) (x : Placed) : State :=
  let s := s.modRtr site fun r => { r with
    used := r.used.set x.port (r.used.getD x.port 0 + 1)
    defl := if x.defl then r.defl.set x.port (r.defl.getD x.port 0 + 1) else r.defl }
  if onLink site x then sendOn s site m x else ejectTo s site x

/-- A head without a position arrives again in the next slot; a beacon's correction grows (R208, R223). -/
def heldOver (site m : Nat) (h : Nat × Packet) : Flight :=
  { site := site, port := h.1, slot := m + 1, link := (linkIndex site h.1).getD 0
    pkt := waitedSlots 1 h.2 }

/-- A header the trace unit copies: as seen, with the capture time in bits [511:480] (R486). -/
def traceEntry (s : State) (site : Nat) (p : Packet) : Nat := headerLow p % 2 ^ 480 + nsAt s site % 2 ^ 32 * 2 ^ 480

/-- One entry is written into the circular buffer of 16,384 (R486). -/
def addTrace (s : State) (v : Nat) : State :=
  { s with sec := { s.sec with
      trace := putAt s.sec.trace s.sec.traceNext v, traceNext := (s.sec.traceNext + 1) % 16384
      traceWrap := s.sec.traceWrap || s.sec.traceNext == 16383 } }

/-- The trace unit copies the headers it sees at its router's port in its direction (0 output, 1 input) and class (R486,
R487). -/
def capture (s : State) (site dir : Nat) (ps : List (Nat × Packet)) : State :=
  let v := s.reg secTraceCtlAt
  if bit v 31 ∧ bits v 30 22 = site ∧ bits v 18 18 = dir then
    (ps.filter fun x => x.1 == bits v 21 19 && (bits v 17 16 == 3 || x.2.cls == bits v 17 16)).foldl
      (fun s x => addTrace s (traceEntry s site x.2)) s
  else s

/-- A router's work of slot m (R220 to R222). -/
def routerSlot (s : State) (site m : Nat) (hits : List (Nat × Hit)) : State :=
  let mine := (s.flights.filter fun f => f.site == site && decide (f.slot ≤ m)).map fun f => { f with
    pkt := waitedSlots (m - f.slot) f.pkt }
  let s := { s with flights := s.flights.filter fun f => !(f.site == site && decide (f.slot ≤ m)) }
  let arrived := hitFlights hits [] mine
  let s := capture s site 1 arrived
  let hs := checkHeads s site arrived
  let ph := placeHeads hs.2 site (slotLeft hs.2 site m) (rankHeads hs.1)
  let r := hs.2.rtr site
  let ws := checkEntries hs.2 site r.inject
  let s := ws.2
  let sched := ws.1.filter fun w => w.2.cls == cSched
  let rest := (ws.1.filter fun w => w.2.cls == cCtrl) ++ ws.1.filter fun w => w.2.cls == cBulk
  let e : Entry := { placed := ph.1, parked := r.park, newPark := [], waiting := [], left := ph.2.2, entered := [] }
  let e := sched.foldl (enterOne s site) e
  let e := (r.park.foldl (fun l w => parkInsert w l) []).foldl (enterParked s site m) e
  let e := rest.foldl (enterOne s site) e
  let s := capture (capture s site 1 (ws.1.filter fun w => !e.waiting.contains w)) site 0 (e.placed.map fun x => (x.port, x.pkt))
  let s := s.modRtr site fun r => { r with
    inject := e.waiting, park := e.parked ++ e.newPark.map (m, ·), lastSlot := some m }
  let s := e.placed.foldl (dispatchPlaced site m) s
  let s := { s with flights := s.flights ++ ph.2.1.map (heldOver site m) }
  let s := s.bumpBy (rtrParkCntAt site) e.newPark.length
  if e.waiting.any fun w => w.2.cls == cSched then s.bump (rtrInjWaitCntAt site) else s

/-- ROUTER_SLOT: a router works once in each slot (R207, R220 to R222). -/
def execRouterSlot (site : RouterId) (hits : List (Nat × Hit)) (s : State) : Res :=
  let m := s.fab / 5
  when_ ((s.rtr site).running && (s.rtr site).lastSlot != some m) s (routerSlot s site m hits)

/-! ### Lanes (R209, R210) -/

/-- LANE_LOSS_OF_LOCK: at the next slot boundary a lane that lost lock is replaced by a free spare; without one the link
enters Penumbra or goes DOWN (R209, R210, R386).  Only the lanes of a seam or edge link in service hold a lock. -/
def execLaneLossOfLock (l : LinkId) (hiEnd : Bool) (s : State) : Res :=
  let x := s.link l
  let k := linkKind l
  if (k = .seam ∨ k = .edge) ∧ (x.state = 2 ∨ x.state = 3) then
    let s := advFab s ((s.fab / 5 + 1) * 5)
    let x := if hiEnd then { x with failedHi := x.failedHi + 1 } else { x with failedLo := x.failedLo + 1 }
    let mine := if hiEnd then x.failedHi else x.failedLo
    let site := if hiEnd then (linkEnds l).2.1 else (linkEnds l).1.1
    let st := linkStateOf k (max x.failedLo x.failedHi)
    let old := (s.link l).state
    let s := changeLink s l { x with state := max old st }
    let s := if mine ≤ 2 then s.bump (rtrLaneSwapCntAt site) else s
    .next (newGeneration (if max old st ≠ old then linkChanged (countLink s l st) l else s))
  else .next s

/-! ### Full ejection buffers (R229) -/

/-- Does a buffer stand at an agent port? -/
def atPort (port b : Nat) : Bool := b / 16 == port

/-- The element of a list that comes first in time. -/
def earliest (l : List (Nat × Nat)) : Option (Nat × Nat) :=
  l.foldl (fun o e => match o with | some x => if e.2 < x.2 then some e else o | none => some e) none

/-- EJECT_FULL_TIMEOUT: an agent's ejection buffer at a port, full for 50 ns, suspends the partition's bound: of several the one
that filled first (R229). -/
def execEjectFullTimeout (p : AgentPort) (s : State) : Res :=
  let a := portOf p
  let x := s.rtr a.1
  match earliest (x.fullSince.filter fun e => atPort a.2 e.1 && (find? x.ejSusp e.1).isNone) with
  | none => .next s
  | some (b, f) =>
    let s := advFab s (f + 100)
    .next (refreshSusp (s.modRtr a.1 fun r => { r with ejSusp := putAt r.ejSusp b none }))

/-- EJECT_SUSPEND_END: 1 µs after the buffer had a free entry again the suspension ends, unless the buffer has filled and
stayed full since (R229). -/
def execEjectSuspendEnd (p : AgentPort) (s : State) : Res :=
  let a := portOf p
  let x := s.rtr a.1
  match earliest ((x.ejSusp.filterMap fun e => e.2.map (e.1, ·)).filter fun e =>
      atPort a.2 e.1 && (find? x.fullSince e.1).isNone) with
  | some (b, t) =>
    let s := advFab s (t + 2000)
    .next (refreshSusp (s.modRtr a.1 fun r => { r with ejSusp := dropAt r.ejSusp b }))
  | none => .next s

/-! ### Congestion maps (R233) -/

/-- Positions a port has had since its router's counts began, up to slot m (R207, R233). -/
def positionsIn (s : State) (site p m : Nat) : Nat :=
  let agent := match placeOf site with
    | .die _ => decide (p = 4 ∨ p = 5) | .stack _ => decide (p = 4) | .edge _ => decide (p = 2)
  if agent then 2 * (m - (s.rtr site).cmapFrom)
  else
    match linkIndex site p with
    | none => 0
    | some l => portSlots s site p l m

/-- The word RTR_CMAPp latches (R233). -/
def cmapWord (s : State) (site p m : Nat) : Nat :=
  let r := s.rtr site
  let n := positionsIn s site p m
  let occ := if n = 0 then 0 else min 65535 (r.used.getD p 0 * 65535 / n)
  occ * 65536 + min 65535 (r.defl.getD p 0)

/-- A router latches its counts with a frame index, and counts anew (R233). -/
def latchCmap (s : State) (site frame : Nat) : State :=
  let m := s.fab / 5
  let s := (List.range 6).foldl (fun t p => t.setReg (rtrCmapAt site p) (cmapWord s site p m)) s
  (s.setReg (rtrCmapFrameAt site) (frame % 2 ^ 32)).modRtr site fun r => { r with
    used := [0, 0, 0, 0, 0, 0], defl := [0, 0, 0, 0, 0, 0], cmapFrom := m, cmapPos := [] }

/-- CMAP_LATCH: a router latches its counts at the end of its partition's tick, or of a 250 µs interval when no tick
runs (R233). -/
def execCmapLatch (site : RouterId) (s : State) : Res :=
  let began : Int := ((s.rtr site).cmapFrom * 5 / 2 : Nat) + (s.keeper site).adj
  match (partOf s (siteQuarter site)).filter (·.tick) with
  | some p =>
    if began < p.lastEdge then .next (latchCmap s site (p.lastEdge / p.period - 1)) else .next s
  | none =>
    let t := (began.toNat / 250000 + 1) * 250000
    .next (latchCmap (advNs s site t) site 0)

/-! ### Glints (R234, R235) -/

/-- The newest Glint is written whole: slot header last, then PM_GLINT_STAT (R234, R235). -/
def finishGlint (s : State) (at_ : Nat) (recs : List (Nat × List Nat)) : State :=
  let seq := s.mgr.glintSeq
  let slot := seq % 64
  let s := s.modMgr fun m => { m with
    glint := none, glintSeq := seq + 1
    glints := m.glints.filter (fun g => g.slot != slot) ++ [{ slot := slot, seq := seq, at_ := at_, recs := recs }] }
  (s.setReg pmGlintStatAt (seq % 2 ^ 32 * 2 ^ 32 + 64 + slot)).bumpBy pmGlintMissCntAt (400 - recs.length)

/-- The Glint period in ns; a value below 100 is taken as 100 (R238). -/
def glintPeriod (s : State) : Nat := 1000 * max 100 (s.regField pmGlintCtlAt 15 0)

/-- GLINT_TAKE: at the next multiple of the period the manager asks every router for its record (R234). -/
def execGlintTake (s : State) : Res :=
  match activeMgr s with
  | none => .next s
  | some _ =>
    if s.regField pmGlintCtlAt 31 31 = 1 ∧ s.mgr.glint.isNone = true then
      let t := (mgrNs s / glintPeriod s + 1) * glintPeriod s
      let s := advMgr s t
      let s := s.modMgr fun m => { m with glint := some { at_ := t, sentAt := s.fab } }
      .next ((List.range 400).foldl (fun s i => fromMgr s (mgmtTo i (regAgent i) 4)) s)
    else .next s

/-- The words of a router's record (R235). -/
def glintRecord (s : State) (site : Nat) : List Nat :=
  (List.range 6).map (fun p => s.reg (rtrCmapAt site p)) ++ [0, 2 ^ 31 + s.reg (rtrCmapFrameAt site) % 2 ^ 28]

/-- GLINT_REQ: the register agent of a router's die answers a request with its record (R234). -/
def execGlintReq (site : RouterId) (s : State) : Res :=
  serveMgmt site 4 (fun p s =>
    fromRegAgent s site (withPayload (mgmtTo p.ssite p.sagt 5) ((glintRecord s site).flatMap (leBytes 4)))) s

/-- GLINT_REC: a record is written into the Glint's slot, which is complete with the last of them; one
that comes after the 100 µs counts as not arrived (R234). -/
def execGlintRec (s : State) : Res :=
  serveMgr tMgmt 5 (fun p s =>
    match s.mgr.glint with
    | none => s
    | some g => if g.sentAt + 200000 < s.fab then s else
      let recs := putAt g.got p.ssite ((List.range 8).map fun i => leNat ((p.payload.drop (4 * i)).take 4))
      if recs.length ≥ 400 then finishGlint s g.at_ recs
      else s.modMgr fun m => { m with glint := some { g with got := recs } }) s

/-- GLINT_RECORD_TIMEOUT: records missing after 100 µs are written with VALID 0 (R234). -/
def execGlintRecordTimeout (s : State) : Res :=
  match activeMgr s, s.mgr.glint with
  | some _, some g => .next (finishGlint (advFab s (g.sentAt + 200000)) g.at_ g.got)
  | _, _ => .next s

end Sys2Proof.Machine
end

