-- ==== Sys2Proof/Machine/LaneMath.lean ====
section
/-! DEFINITION. The FP32 operations of the vector lanes, each the exact result rounded once (R95, R96).  Quotients and
roots carry a sticky bit; EXP2, LOG2 and TANH are enclosed between two fixed-point bounds whose precision is raised
until both round to the same word. -/

namespace Sys2Proof.Machine

/-- Integer square root, one binary digit at a time: n has fewer than 2·k bits and r is the root so far. -/
def isqrtGo : Nat → Nat → Nat → Nat
  | 0, _, r => r
  | k + 1, n, r => let c := r + 2 ^ k; isqrtGo k n (if c * c ≤ n then c else r)

/-- floor(√n). -/
def isqrt (n : Nat) : Nat := isqrtGo (Nat.log2 n / 2 + 1) n 0

/-- A value between q · 2^e and (q + 1) · 2^e, exactly q · 2^e when `exact`: held with a sticky bit below q. -/
def stickyFV (neg : Bool) (q : Nat) (exact : Bool) (e : Int) : FV :=
  .fin neg (2 * q + b2n (!exact)) (e - 1)

/-- The quotient, exact or with a sticky bit far below the 24 bits of the result. -/
def FV.div : FV → FV → FV
  | .nan, _ => .nan
  | _, .nan => .nan
  | .inf _, .inf _ => .nan
  | .inf a, .fin b _ _ => .inf (a != b)
  | .fin a _ _, .inf b => .fin (a != b) 0 0
  | .fin a m e, .fin b n f =>
    if n = 0 then (if m = 0 then .nan else .inf (a != b))
    else if m = 0 then .fin (a != b) 0 0
    else
      let num := m * 2 ^ 64
      stickyFV (a != b) (num / n) (num % n == 0) (e - f - 64)

/-- The square root. -/
def FV.sqrt : FV → FV
  | .nan => .nan
  | .inf n => if n then .nan else .inf false
  | .fin n m e =>
    if m = 0 then .fin n 0 0
    else if n then .nan
    else
      let (m', e') := if e % 2 = 0 then (m * 2 ^ 64, e - 64) else (m * 2 ^ 65, e - 65)
      let r := isqrt m'
      stickyFV false r (r * r == m') (e' / 2)

/-- The reciprocal square root; RSQRT(±0) is ±∞ (R96). -/
def FV.rsqrt : FV → FV
  | .nan => .nan
  | .inf n => if n then .nan else .fin false 0 0
  | .fin n m e =>
    if m = 0 then .inf n
    else if n then .nan
    else
      let (m', e') := if e % 2 = 0 then (m, e) else (2 * m, e - 1)
      let q := 2 ^ 128 / m'
      let r := isqrt q
      stickyFV false r (r * r * m' == 2 ^ 128) (-(e' / 2) - 64)

/-- Bounds of a fixed-point number: lo · 2^-p ≤ x ≤ hi · 2^-p. -/
structure Enclosure where
  lo : Nat
  hi : Nat
  deriving DecidableEq, Repr

/-- Product of two enclosures at precision p. -/
def Enclosure.mul (p : Nat) (a b : Enclosure) : Enclosure :=
  ⟨a.lo * b.lo / 2 ^ p, a.hi * b.hi / 2 ^ p + 1⟩

/-- Square root of an enclosure at precision p. -/
def Enclosure.sqrt (p : Nat) (a : Enclosure) : Enclosure :=
  ⟨isqrt (a.lo * 2 ^ p), isqrt (a.hi * 2 ^ p) + 1⟩

/-- Multiplies acc by 2^(2^-i) for each set bit of f below position k, r being 2^(2^-i) for the top one. -/
def exp2Go (p : Nat) : Nat → Nat → Enclosure → Enclosure → Enclosure × Enclosure
  | 0, _, r, acc => (acc, r)
  | k + 1, f, r, acc =>
    let r := r.sqrt p
    exp2Go p k f r (if bit f k then acc.mul p r else acc)

/-- An enclosure of 2^f for the fraction f = m · 2^e in [0, 1). -/
def exp2Frac (p m : Nat) (e : Int) : Enclosure :=
  let sh := (p : Int) + e
  let (f, exact) :=
    if 0 ≤ sh then (m * 2 ^ sh.toNat, true)
    else (m / 2 ^ (-sh).toNat, m % 2 ^ (-sh).toNat == 0)
  let (acc, r) := exp2Go p p f ⟨2 * 2 ^ p, 2 * 2 ^ p⟩ ⟨2 ^ p, 2 ^ p⟩
  if exact then acc else ⟨acc.lo, (acc.mul p r).hi⟩

/-- Binary digits of log2 of y = lo · 2^-w in [1, 2), a lower bound. -/
def log2Lo (w : Nat) : Nat → Nat → Nat → Nat
  | 0, _, d => d
  | k + 1, y, d =>
    let y := y * y / 2 ^ w
    if y ≥ 2 * 2 ^ w then log2Lo w k (y / 2) (2 * d + 1) else log2Lo w k y (2 * d)

/-- Binary digits of log2 of an upper bound y, rounded so that d + 1 stays an upper bound. -/
def log2Hi (w : Nat) : Nat → Nat → Nat → Nat
  | 0, _, d => d
  | k + 1, y, d =>
    let y := y * y / 2 ^ w + 1
    if y ≥ 2 * 2 ^ w then log2Hi w k (y / 2 + 1) (2 * d + 1) else log2Hi w k y (2 * d)

/-- Partial sums of Σ r^i / i! at precision p: the enclosure of the sum and of the last term. -/
def expTaylor (p : Nat) (r : Enclosure) : Nat → Nat → Enclosure → Enclosure → Enclosure × Enclosure
  | 0, _, t, s => (s, t)
  | k + 1, i, t, s =>
    let t' := t.mul p r
    let t := ⟨t'.lo / i, t'.hi / i + 1⟩
    expTaylor p r k (i + 1) t ⟨s.lo + t.lo, s.hi + t.hi⟩

/-- k squarings. -/
def squareTimes (p : Nat) : Nat → Enclosure → Enclosure
  | 0, a => a
  | k + 1, a => squareTimes p k (a.mul p a)

/-- An enclosure of e^y for y = m · 2^e with 0 < y < 32, by Taylor series on y / 64. -/
def expEnclosure (p m : Nat) (e : Int) : Enclosure :=
  let sh := (p : Int) + e - 6
  let r : Enclosure :=
    if 0 ≤ sh then ⟨m * 2 ^ sh.toNat, m * 2 ^ sh.toNat⟩
    else ⟨m / 2 ^ (-sh).toNat, m / 2 ^ (-sh).toNat + 1⟩
  let (s, t) := expTaylor p r (p / 4 + 8) 1 ⟨2 ^ p, 2 ^ p⟩ ⟨2 ^ p, 2 ^ p⟩
  squareTimes p 6 ⟨s.lo, s.hi + t.hi + 1⟩

/-- The word both bounds of a value round to, when they agree. -/
def agree (neg : Bool) (lo hi : Nat) (e : Int) : Option Word :=
  let a := toFp32 (.fin neg lo e)
  let b := toFp32 (.fin neg hi e)
  if a = b then some a else none

/-- The first answer of a bound computed at growing precisions; the lower bound of the last when none agrees. -/
def firstAgree (f : Nat → Option Word) (last : Word) : List Nat → Word
  | [] => last
  | p :: ps =>
    match f p with
    | some w => w
    | none => firstAgree f last ps

/-- The precisions tried. -/
def precisions : List Nat := [112, 224, 448, 896]

/-- EXP2 (R95, R96). -/
def laneExp2 (a : Word) : Word :=
  match ofFp32 a with
  | .nan => canonicalNan
  | .inf n => if n then 0 else 0x7F800000
  | .fin n m e =>
    if m = 0 then 0x3F800000
    else if magLog2 m e ≥ 8 then (if n then 0 else 0x7F800000)
    else
      -- x = ip + f with f in [0, 1), exact
      let x : Int := if n then -(m : Int) else m
      let ip : Int := if 0 ≤ e then x * 2 ^ e.toNat else x / 2 ^ (-e).toNat
      let f : Nat := if 0 ≤ e then 0 else (x % 2 ^ (-e).toNat).toNat
      if f = 0 then toFp32 (.fin false 1 ip)
      else
        firstAgree
          (fun p => let c := exp2Frac p f e; agree false c.lo c.hi (ip - p))
          (let c := exp2Frac 896 f e; toFp32 (.fin false c.lo (ip - 896))) precisions

/-- The bounds of log2 x as integers over 2^p. -/
def log2Bounds (p m : Nat) (e : Int) : Int × Int :=
  let top := Nat.log2 m
  let w := 2 * p + 40
  let y := m * 2 ^ (w - top)
  let ip := (e + top) * 2 ^ p
  (ip + (log2Lo w p y 0 : Int), ip + (log2Hi w p y 0 : Int) + 1)

/-- The word both integer bounds of a value round to. -/
def agreeInt (lo hi : Int) (e : Int) : Option Word :=
  let a := toFp32 (FV.ofInt lo e)
  let b := toFp32 (FV.ofInt hi e)
  if a = b then some a else none

/-- LOG2 (R95, R96). -/
def laneLog2 (a : Word) : Word :=
  match ofFp32 a with
  | .nan => canonicalNan
  | .inf n => if n then canonicalNan else 0x7F800000
  | .fin n m e =>
    if m = 0 then 0xFF800000
    else if n then canonicalNan
    else if m = 2 ^ Nat.log2 m then toFp32 (FV.ofInt (magLog2 m e) 0)
    else
      firstAgree
        (fun p => let b := log2Bounds p m e; agreeInt b.1 b.2 (-(p : Int)))
        (toFp32 (FV.ofInt (log2Bounds 896 m e).1 (-896))) precisions

/-- The bounds of tanh y over 2^p, from an enclosure of e^(2y): (t − 1) / (t + 1) rises with t. -/
def tanhBounds (p m : Nat) (e : Int) : Nat × Nat :=
  let t := expEnclosure p m (e + 1)
  let one := 2 ^ p
  ((t.lo - one) * one / (t.lo + one), (t.hi - one) * one / (t.hi + one) + 1)

/-- TANH (R95, R96).  Below 2^-13 the exact result rounds to a itself, from 16 on to ±1. -/
def laneTanh (a : Word) : Word :=
  match ofFp32 a with
  | .nan => canonicalNan
  | .inf n => if n then 0xBF800000 else 0x3F800000
  | .fin n m e =>
    if m = 0 then a
    else if magLog2 m e < -13 then a
    else if magLog2 m e ≥ 4 then (if n then 0xBF800000 else 0x3F800000)
    else
      firstAgree
        (fun p => let b := tanhBounds p m e; agree n b.1 b.2 (-(p : Int)))
        (toFp32 (.fin n (tanhBounds 896 m e).1 (-896))) precisions

/-- The larger (or, with `least`, the smaller) of two values as IEEE 754-2019 maximum and minimum: NaN wins, −0 orders
below +0 (R96). -/
def laneMinMax (least : Bool) (a b : Word) : Word :=
  let x := ofFp32 a
  let y := ofFp32 b
  if x.isNan || y.isNan then canonicalNan
  else if FV.lt x y then (if least then a else b)
  else if FV.lt y x then (if least then b else a)
  else if x.sign == least then a else b

/-- a + b. -/
def laneAdd (a b : Word) : Word := toFp32 ((ofFp32 a).add (ofFp32 b))
/-- a − b. -/
def laneSub (a b : Word) : Word := toFp32 ((ofFp32 a).add (ofFp32 b).neg)
/-- a × b. -/
def laneMul (a b : Word) : Word := toFp32 ((ofFp32 a).mul (ofFp32 b))
/-- a × b + c, rounded once. -/
def laneFma (a b c : Word) : Word := toFp32 (((ofFp32 a).mul (ofFp32 b)).add (ofFp32 c))
/-- a ÷ b. -/
def laneDiv (a b : Word) : Word := toFp32 ((ofFp32 a).div (ofFp32 b))
/-- 1 ÷ a. -/
def laneRcp (a : Word) : Word := toFp32 ((FV.fin false 1 0).div (ofFp32 a))
/-- √a. -/
def laneSqrt (a : Word) : Word := toFp32 (ofFp32 a).sqrt
/-- 1 ÷ √a. -/
def laneRsqrt (a : Word) : Word := toFp32 (ofFp32 a).rsqrt
/-- |a|; a NaN gives the canonical NaN (R96). -/
def laneAbs (a : Word) : Word := toFp32 (ofFp32 a).abs
/-- −a; a NaN gives the canonical NaN (R96). -/
def laneNeg (a : Word) : Word := toFp32 (ofFp32 a).neg

/-- One level of the tree of R97: adjacent pairs, lower index first. -/
def pairUp (f : Word → Word → Word) : List Word → List Word
  | a :: b :: xs => f a b :: pairUp f xs
  | xs => xs

/-- The tree reduction of R97: six levels over 64 lanes. -/
def treeReduce (f : Word → Word → Word) : Nat → List Word → List Word
  | 0, xs => xs
  | k + 1, xs => treeReduce f k (pairUp f xs)

/-- ROWSUM or ROWMAX of one row of 64 lanes. -/
def rowReduce (f : Word → Word → Word) (row : List Word) : Word :=
  (treeReduce f 6 row).headD 0

end Sys2Proof.Machine
end

