-- ==== Sys2Proof/Machine/Lanes.lean ====
section
/-! DEFINITION. The vector lanes (R89 to R104): what one read and one write of a VOP do. -/

namespace Sys2Proof.Machine

/-- A word of an accumulator buffer. -/
def accWord (x : UnitState) (b r i : Nat) : Word := findD x.acc (4096 * b + 64 * r + i) 0
/-- An element of a vector register (R90). -/
def vrWord (x : UnitState) (n i : Nat) : Word := findD x.vr (64 * n + i) 0
/-- A sparse word map with a word set; +0 is not listed. -/
def putWord (m : List (Nat × Word)) (k : Nat) (w : Word) : List (Nat × Word) :=
  if w = 0 then dropAt m k else putAt m k w

/-- Elements 0 on of a vector register are written. -/
def putVr (x : UnitState) (n : Nat) (ws : List Word) : UnitState :=
  { x with vr := ((List.range ws.length).zip ws).foldl (fun m p => putWord m (64 * n + p.1) p.2) x.vr }

/-- Row r of an accumulator buffer is written. -/
def putAcc (x : UnitState) (b r : Nat) (ws : List Word) : UnitState :=
  { x with acc := ((List.range 64).zip ws).foldl (fun m p => putWord m (4096 * b + 64 * r + p.1) p.2) x.acc }

/-- Element (r, i) of source k as FP32, and what widening it adds to UNIT_CVT_SAT_CNT (R91, R92): an FP32 source enters as it
is.  A COL source comes from the third square-block buffer (R100). -/
def sourceElem (s : State) (u : Nat) (e : Issued) (k : Nat) (o : Operand) (r i : Nat) : Word × Nat :=
  let x := s.un u
  match o.kind with
  | 0 => (accWord x 0 r i, 0)
  | 1 => (accWord x 1 r i, 0)
  | 2 =>
    let p := tilePos o.col o.r0 o.q r i
    let from_ := if o.col then buffered s e k else s
    match (formatOfCode o.fmt).getD .fp32 with
    | .fp32 => (BitVec.ofNat 32 (elemAt from_ u .fp32 o.tile p.1 p.2), 0)
    | f => widen f (if f.isMx then scaleAt from_ u f (e.d.f 236 224) p.1 p.2 o.blk else 127) (elemAt from_ u f o.tile p.1 p.2)
  | 3 => (vrWord x o.vr r, 0)
  | 4 => (vrWord x o.vr i, 0)
  | 5 => (BitVec.ofNat 32 (e.d.f 223 192), 0)
  | _ => (0, 0)

/-- Row r of source k: 64 words and the saturations of its widening. -/
def sourceRow (s : State) (u : Nat) (e : Issued) (k r : Nat) : List Word × Nat :=
  let o := (vopOperands e.d).getD k (e.d.operand 96)
  let ws := (List.range 64).map fun i => sourceElem s u e k o r i
  (ws.map (·.1), (ws.map (·.2)).sum)

/-- The elementwise operations (R95, R96). -/
def laneOp (op : Nat) (a b c : Word) : Word :=
  match op with
  | 0x00 => toFp32 (ofFp32 a)
  | 0x01 => laneAdd a b
  | 0x02 => laneSub a b
  | 0x03 => laneMul a b
  | 0x04 => laneFma a b c
  | 0x05 => laneMinMax true a b
  | 0x06 => laneMinMax false a b
  | 0x07 => laneAbs a
  | 0x08 => laneNeg a
  | 0x09 => laneDiv a b
  | 0x0A => laneRcp a
  | 0x0B => laneSqrt a
  | 0x0C => laneRsqrt a
  | 0x0D => laneExp2 a
  | 0x0E => laneLog2 a
  | 0x0F => laneTanh a
  | _ => a

/-- The bytes of a run of elements that begins at a cell boundary (R110). -/
def packElems (f : Format) (vs : List Nat) : Bytes :=
  match f with
  | .fp32 => vs.flatMap fun v => leBytes 4 v
  | .bf16 | .fp16 => vs.flatMap fun v => leBytes 2 v
  | .e2m1 => (List.range (vs.length / 2)).map fun j => BitVec.ofNat 8 (vs.getD (2 * j) 0 + 16 * vs.getD (2 * j + 1) 0)
  | _ => vs.map (BitVec.ofNat 8)

/-- One element of a tile is written, its neighbours kept (R110). -/
def putElem (s : State) (u : Nat) (f : Format) (tile r e v : Nat) : State :=
  let n := f.perCell
  let base := (64 * tile + r) * 1024 + e / n * 16
  let l := e % n
  match f with
  | .fp32 => spadWrite s u (base + 4 * l) (leBytes 4 v)
  | .bf16 | .fp16 => spadWrite s u (base + 2 * l) (leBytes 2 v)
  | .e2m1 =>
    let old := (memByte s.mem (spadAt u (base + l / 2))).toNat
    spadWrite s u (base + l / 2) [BitVec.ofNat 8 (if l % 2 = 0 then old / 16 * 16 + v else old % 16 + 16 * v)]
  | _ => spadWrite s u (base + l) [BitVec.ofNat 8 v]

/-- The terms a VOP rounds with (R74, R79, R80): its mode and SAT, the seed in force, and the unit's logical index and
frame, or those of the step it replays. -/
def vopRound (s : State) (u : Nat) (e : Issued) : RoundCtx :=
  let x := s.un u
  let (lpos, fr) := x.replayAs.getD ((logicalOfUnit s u).getD 0, e.frameIdx)
  { rm := e.d.f 45 44, sat := e.d.f 46 46 == 1
    seed := if inDawn s (dieQuarter (u / 16)) then 0 else s.reg (unitSrSeedAt u)
    lpos := lpos, frame := fr, ord := e.ord }

/-- Conversion counts are added to the unit's counters (R77). -/
def countCvt (s : State) (u : Nat) (c : CvtCount) : State :=
  (s.bumpBy (unitCvtSatCntAt u) c.sat).bumpBy (unitCvtNanCntAt u) c.nan

/-- Elements v of row r at lanes from i0 on are written to the SPAD destination. -/
def putRow (s : State) (u : Nat) (d : Desc) (f : Format) (r : Nat) (vs : List Nat) : State :=
  let tile := d.f 62 56
  let q := d.f 67 63
  if d.f 55 55 = 1 then
    ((List.range vs.length).zip vs).foldl (fun s p => putElem s u f tile p.1 (64 * q + r) p.2) s
  else spadWrite s u ((64 * tile + d.f 73 68 + r) * 1024 + 64 / f.perCell * q * 16) (packElems f vs)

/-- The scale of the block that holds element (r, i) of the destination is written (R111, R114). -/
def putScale (s : State) (u : Nat) (d : Desc) (f : Format) (r i sc : Nat) : State :=
  let p := tilePos (d.f 55 55 == 1) (d.f 73 68) (d.f 67 63) r i
  spadWrite s u (d.f 91 79 * 1024 + scaleByte f p.1 p.2 (d.f 47 47 != d.f 55 55)) [BitVec.ofNat 8 sc]

/-- Result row r is written to the destination (R93, R110, R111).  A row of a COL block is converted with the 32 rows of its
block, whose scales and conversion counts go with the block's first row (DEDUCED, log entry 22). -/
def writeRow (s : State) (u : Nat) (e : Issued) (r : Nat) : State :=
  let d := e.d
  let row := e.lane.rows.getD r []
  match d.f 50 48 with
  | 2 =>
    let ctx := vopRound s u e
    match (formatOfCode (d.f 54 51)).getD .fp32 with
    | .fp32 => putRow s u d .fp32 r (row.map (·.toNat))
    | f =>
      if f.isMx then
        if d.f 47 47 = 1 then
          let b := 32 * (r / 32)
          let cols := (List.range 64).map fun i =>
            convertBlock f ((List.range 32).map fun k => ((e.lane.rows.getD (b + k) []).getD i 0, ctx.at (64 * (b + k) + i)))
          let s := if r = b then ((List.range 64).zip cols).foldl
              (fun s p => countCvt (putScale s u d f b p.1 p.2.1) u p.2.2.2) s
            else s
          putRow s u d f r (cols.map fun c => c.2.1.getD (r - b) 0)
        else
          let blk (b : Nat) := convertBlock f ((List.range 32).map fun i => (row.getD (32 * b + i) 0, ctx.at (64 * r + 32 * b + i)))
          let s := countCvt (putScale s u d f r 0 (blk 0).1) u (blk 0).2.2
          let s := countCvt (putScale s u d f r 32 (blk 1).1) u (blk 1).2.2
          putRow s u d f r ((blk 0).2.1 ++ (blk 1).2.1)
      else
        let cs := ((List.range 64).zip row).map fun w => convert16 f (ctx.at (64 * r + w.1)) ctx.sat w.2
        putRow (countCvt s u ⟨(cs.map (·.2.sat)).sum, (cs.map (·.2.nan)).sum⟩) u d f r (cs.map (·.1))
  | 3 => s.modUn u fun x => putVr x (d.f 76 74) row
  | 0 | 1 => s.modUn u fun x => putAcc x (d.f 50 48) r row
  | _ => s

/-- The result rows that the k-th write of a VOP carries: one row, or in COL orientation those of one cell column.  Where ROWS
does not fill the square block, the rest of its elements keep what they hold (DESIGN CHOICE, log entry 139). -/
def writtenRows (d : Desc) (k : Nat) : List Nat :=
  if d.f 50 48 = 2 ∧ d.f 55 55 = 1 then
    let n := cellCount (d.f 54 51)
    ((List.range n).map fun i => n * k + i).filter (· < d.f 43 37)
  else [k]

/-- What row r adds to a VOP's run once its operands are read: a reduction, a column accumulation, a compare, or one result
row (R96 to R101). -/
def laneRow (op r : Nat) (a b c : List Word) (v : LaneRun) : LaneRun :=
  match op with
  | 0x10 => { v with red := v.red ++ [rowReduce laneAdd a] }
  | 0x11 => { v with red := v.red ++ [rowReduce (laneMinMax false) a] }
  | 0x12 => { v with red := (if r = 0 then List.replicate 64 0 else v.red).zipWith laneAdd a }
  | 0x13 => { v with red := if r = 0 then a.map (fun w => toFp32 (ofFp32 w)) else v.red.zipWith (laneMinMax false) a }
  | 0x14 => { v with diff := v.diff || a != b }
  | _ => { v with rows := v.rows ++ [(a.zip (b.zip c)).map fun w => laneOp op w.1 w.2.1 w.2.2] }

end Sys2Proof.Machine
end

