-- ==== Sys2Proof/Machine/UnitWork.lean ====
section
/-! DEFINITION. The work of a unit clock by clock: the accesses of its MMAs and VOPs with their ports and tags, accesses from
outside, issue, completion and abandonment (R59, R62, R67, R68, R100, R101, R120, R122 to R126, R133). -/

namespace Sys2Proof.Machine

/-! ### One access -/

/-- Change an issued descriptor. -/
def modIssued (s : State) (u did : Nat) (f : Issued → Issued) : State :=
  s.modUn u fun x => { x with issued := mapFirst (fun e => e.d.did == did) f x.issued }

/-- The slots of the scale set of an operand; none where its format has none (R111). -/
def scaleSet (fmt scale : Nat) : List Nat := if mxCode fmt then (List.range (scaleSlots fmt)).map (scale + ·) else []

/-- The slots one access touches (R106, R114, R118, R123). -/
def accessSlots (d : Desc) : AccessKind → List Nat
  | .opScale b m i => [(opSpec d b).scale + m * scaleSlots (opSpec d b).fmt + i]
  | .opColumn b j _ => (List.range 64).map (64 * ((opSpec d b).tile + ((opSpec d b).block j).1) + ·)
  | .opRow b j r => [64 * ((opSpec d b).tile + ((opSpec d b).block j).1) + r]
  | .fill k _ =>
    let o := (vopOperands d).getD k (d.operand 96)
    (List.range 64).map (64 * o.tile + ·) ++ scaleSet o.fmt (d.f 236 224)
  | .row r => (vopOperands d).flatMap fun o =>
      if o.kind = 2 ∧ o.col = false then (64 * o.tile + o.r0 + r) :: scaleSet o.fmt (d.f 236 224) else []
  | .write k =>
    if d.f 50 48 = 2 then
      (if d.f 55 55 = 1 then (List.range 64).map (64 * d.f 62 56 + ·) else [64 * d.f 62 56 + d.f 73 68 + k]) ++
        scaleSet (d.f 54 51) (d.f 91 79)
    else []
  | .slotRead _ => []
  | .reg => []

/-- Does an access take the unit's read port? -/
def usesRead (d : Desc) : AccessKind → Bool
  | .row _ => (vopOperands d).any fun o => o.kind == 2 && !o.col
  | .write _ => false
  | .reg => false
  | _ => true

/-- Does an access take the unit's write port? -/
def usesWrite (d : Desc) : AccessKind → Bool
  | .write _ => d.f 50 48 == 2
  | _ => false

/-- Is an access a write? -/
def isWrite : AccessKind → Bool
  | .write _ => true
  | .reg => true
  | _ => false

/-- Bytes are read into a square-block buffer of operand k (R112). -/
def takeIn (s : State) (u did k off len : Nat) : State :=
  modIssued s u did fun e => { e with img := putAt e.img k (memWrite (findD e.img k []) (spadAt u off) (spadRead s u off len)) }

/-- One cell column of a square block of a tile is read into a buffer. -/
def takeColumn (s : State) (u did k fmt tile q j : Nat) : State :=
  (List.range 64).foldl (fun s r => takeIn s u did k ((64 * tile + r) * 1024 + (64 / cellCount fmt * q + j) * 16) 16) s

/-- What one access does, tags apart (R89, R91, R100, R112, R118). -/
def accessEffect (s : State) (u : Nat) (e : Issued) (k : AccessKind) : State :=
  let d := e.d
  match k with
  | .opScale b m i => takeIn s u d.did b (1024 * ((opSpec d b).scale + m * scaleSlots (opSpec d b).fmt + i)) 1024
  | .opColumn b j k =>
    let o := opSpec d b
    takeColumn s u d.did b o.fmt (o.tile + (o.block j).1) (o.block j).2 k
  | .opRow b j r =>
    let o := opSpec d b
    let w := 64 / cellCount o.fmt
    takeIn s u d.did b ((64 * (o.tile + (o.block j).1) + r) * 1024 + w * (o.block j).2 * 16) (w * 16)
  | .fill k j =>
    let o := (vopOperands d).getD k (d.operand 96)
    let s := if j = 0 ∧ mxCode o.fmt = true then takeIn s u d.did k (1024 * d.f 236 224) (1024 * scaleSlots o.fmt) else s
    takeColumn s u d.did k o.fmt o.tile o.q j
  | .row r =>
    let a := sourceRow s u e 0 r
    let b := sourceRow s u e 1 r
    let c := sourceRow s u e 2 r
    modIssued (s.bumpBy (unitCvtSatCntAt u) (a.2 + b.2 + c.2)) u d.did fun e => { e with lane := laneRow d.op r a.1 b.1 c.1 e.lane }
  | .slotRead _ => s
  | .write k => (accessSlots d (.write k)).foldl (fun s sl => markDirty s u sl) ((writtenRows d k).foldl (fun s r => writeRow s u e r) s)
  | .reg => s.modUn u fun x => putVr x (d.f 76 74) e.lane.red

/-- An access is made: its effect, and the tag of every slot that no later access of the descriptor touches (R123). -/
def makeAccess (s : State) (u did : Nat) (a : UnitAccess) : State :=
  match (s.un u).issued.find? fun e => e.d.did == did with
  | none => s
  | some e =>
    let rest := e.todo.filter (· != a)
    let s := modIssued (accessEffect s u e a.kind) u did fun e => { e with todo := rest }
    ((accessSlots e.d a.kind).filter fun sl => !(rest.any fun b => (accessSlots e.d b.kind).contains sl)).foldl
      (fun s sl => tagDone s u e.d sl) s

/-! ### One region clock -/

/-- Are the lanes still taken by the rows of an earlier VOP in region clock t (R89)? -/
def laneBusy (x : UnitState) (e : Issued) (t : Nat) : Bool :=
  x.issued.any fun f => f.d.cls == 1 && f.begun && f.d.did != e.d.did && decide (f.beganAt < e.beganAt) &&
    decide (t < f.beganAt + f.d.f 43 37 * vopClocks f.d.op + f.shift)

/-- Does an access of a VOP wait for the lanes? -/
def waitsLanes (x : UnitState) (e : Issued) (t : Nat) (a : UnitAccess) : Bool :=
  match a.kind with | .row _ => laneBusy x e t | _ => false

/-- The accesses of a VOP that are due in region clock t. -/
def dueAccesses (e : Issued) (t : Nat) : List UnitAccess := e.todo.filter fun a => decide (a.at_ + e.shift ≤ t)

/-- The due reads, or the due writes, of one VOP, while their port is free (R101): the state, and whether the port is taken. -/
def vopPhase (writes : Bool) (u t : Nat) (v : State × Bool) (did : Nat) : State × Bool :=
  match (v.1.un u).issued.find? fun e => e.d.did == did with
  | none => v
  | some e =>
    ((dueAccesses e t).filter fun a => isWrite a.kind == writes).foldl (fun v a =>
      let port := if writes then usesWrite e.d a.kind else usesRead e.d a.kind
      if (port && v.2) || waitsLanes (v.1.un u) e t a then v else (makeAccess v.1 u did a, v.2 || port)) v

/-- A VOP with an access that could not be made waits: that access and every later one move one clock on, and
UNIT_VOP_PORT_WAIT_CNT counts the clock when it was a port it waited for (R100, R101). -/
def vopWait (u t : Nat) (s : State) (did : Nat) : State :=
  match (s.un u).issued.find? fun e => e.d.did == did with
  | none => s
  | some e =>
    let due := dueAccesses e t
    if due.isEmpty then s
    else
      let s := modIssued s u did fun e => { e with shift := e.shift + 1 }
      if due.any fun a => !waitsLanes (s.un u) e t a then s.bump (unitVopPortWaitCntAt u) else s

/-- Region clock t of a unit: the tag waits it counts (R126), the reads of the operand stage and of the VOPs in issue order,
then the VOPs' writes, each port serving one access (R101, R120, R125). -/
def unitClock (u : Nat) (s : State) (t : Nat) : State :=
  let x := s.un u
  let s := if anyTagWait x then s.bump (unitTagWaitCntAt u) else s
  let begun := x.issued.filter (·.begun)
  let op := (begun.filter fun e => e.d.cls == 0).flatMap fun e => (e.todo.filter fun a => a.at_ == t).map fun a => (e.d.did, a)
  let vops := (begun.filter fun e => e.d.cls == 1).map (·.d.did)
  let s := op.foldl (fun s p => makeAccess s u p.1 p.2) s
  let s := (vops.foldl (vopPhase false u t) (s, !op.isEmpty || x.rdTaken.contains t)).1
  let s := (vops.foldl (vopPhase true u t) (s, x.wrTaken.contains t)).1
  vops.foldl (vopWait u t) s

/-- Every access of a unit's own work, and every row of its clear, due before region clock `upto` has been made. -/
def catchUp (s : State) (u upto : Nat) : State :=
  let s := sweep s u upto
  let x := s.un u
  if x.issued.isEmpty then s
  else
    ((List.range (upto - x.settled)).foldl (fun s i => unitClock u s (x.settled + i)) s).modUn u fun x =>
      { x with settled := max x.settled upto, rdTaken := x.rdTaken.filter (upto ≤ ·), wrTaken := x.wrTaken.filter (upto ≤ ·) }

/-- A unit as it stands at the start of the present region clock. -/
def atPresent (s : State) (u : Nat) : State := catchUp s u (unitClk s u)

/-! ### Access from outside the unit (R120, R122, R125) -/

/-- The port clock of an access from outside: the first one not taken, and for a read not held by the operand stage (R120). -/
def takePort (s : State) (u : Nat) (write : Bool) : State :=
  let x := s.un u
  if x.issued.isEmpty then s
  else
    let k := max (unitClk s u) x.settled
    let held := if write then x.wrTaken
      else x.rdTaken ++ (x.issued.filter fun e => e.d.cls == 0).flatMap fun e => e.todo.map (·.at_)
    let t := k + ((List.range (held.length + 1)).find? fun i => !held.contains (k + i)).getD 0
    s.modUn u fun x => if write then { x with wrTaken := insSorted x.wrTaken t } else { x with rdTaken := insSorted x.rdTaken t }

/-- The bytes of a write from outside land, with tag mode SET when asked (R122), and are kept for the order of R125. -/
def putOutside (s : State) (u off : Nat) (bs : Bytes) (set : Bool) : State :=
  let k := unitClk s u
  let slot := off / 1024
  let w : OutWrite := ⟨off, spadRead s u off bs.length, bs, set, tagFull (s.un u) slot⟩
  let s := markDirtyRange (spadWrite s u off bs) u off bs.length
  let s := if (s.un u).issued.isEmpty then s
    else s.modUn u fun x => { x with outAt := k, outside := (if x.outAt = k then x.outside else []) ++ [w] }
  if set then
    let s := if w.wasFull then s.bump (unitTagOverwriteCntAt u) else s
    s.modUn u fun x => { fillTag x slot with settled := max x.settled (k + 1) }
  else s

/-- A write from outside is taken back, its overwrite uncounted. -/
def undoOutside (u : Nat) (s : State) (w : OutWrite) : State :=
  let s := spadWrite s u w.off w.old
  if !w.set then s
  else if w.wasFull then { s with regs := putAt s.regs (unitTagOverwriteCntAt u) (s.ctr (unitTagOverwriteCntAt u) - 1) }
  else s.modUn u fun x => emptyTag x (w.off / 1024)

/-- A read or a write of the unit's own descriptors takes effect before the writes from outside in the same region clock
(R125). -/
def unitFirst {α : Type} (s : State) (u : Nat) (f : State → α × State) : α × State :=
  let ws := if (s.un u).outAt = unitClk s u then (s.un u).outside else []
  if ws.isEmpty then f s
  else
    let r := f (ws.reverse.foldl (undoOutside u) s)
    (r.1, ws.foldl (fun s w => putOutside s u w.off w.new w.set) (r.2.modUn u fun x => { x with outside := [] }))

/-- A write from outside the unit: dropped with its cause, or written after the unit's own accesses of the clock, with tag
mode SET when asked (R120, R122, R125). -/
def outsideWrite (s : State) (u off : Nat) (bs : Bytes) (set : Bool) (who : Outside) (src : DropSrc) : Bool × State :=
  match dropCause s u off bs.length true who with
  | some c => (false, recordDrop s u off c src)
  | none => (true, putOutside (catchUp (takePort s u true) u (unitClk s u + 1)) u off bs set)

/-- A read from outside the unit: `none` for a dropped read, which returns a poisoned block (R117, R127, R129). -/
def outsideRead (s : State) (u off len : Nat) (src : DropSrc) : Option Bytes × State :=
  match dropCause s u off len false .plain with
  | some c => (none, recordDrop s u off c src)
  | none =>
    let s := atPresent (takePort s u false) u
    (some (spadRead s u off len), s)

/-! ### Issue (R133) -/

/-- The transfers of a cluster with one more, in issue order: those issued in one clock stand in order of their units (R155). -/
def insEng (l : List Eng) (e : Eng) : List Eng :=
  let before := l.takeWhile fun f => f.at_ != e.at_ || f.unit ≤ e.unit
  before ++ e :: l.drop before.length

/-- A unit issues the head of its queue when `want` names it, at most one descriptor a clock (R62): an illegal descriptor
completes ERROR in the next clock (R146), any other takes its place in the issue order, and a transfer its place in the stream
engine (R133, R155). -/
def unitIssue (want : Desc → Bool) (u : Nat) (s : State) : Res :=
  match (s.un u).uq with
  | [] => .next s
  | d :: rest =>
    if (want d || orphan d) && canIssue s u d then
      let c := unitClu u
      let s := advClock s (unitRgn u) (max (d.at_ + 3) (s.un u).issueClk)
      let now := unitClk s u
      let s := (atPresent s u).modUn u fun x => { x with uq := rest, issueClk := now + 1 }
      match illegal s c d with
      | some code => .next (descError (advClock s (unitRgn u) (now + 1)) c d code)
      | none =>
        let x := s.un u
        let e : Issued := { d := d, begun := false, beganAt := now, span := 0, ord := x.ord
                            frameIdx := frameIndex (partD s (cluQuarter c)), mmaOrd := x.mmas }
        let s := s.setUn u { x with
          issued := x.issued ++ [e]
          settled := if x.issued.isEmpty then max x.settled now else x.settled
          ord := if convertsSr d then (x.ord + 1) % 2 ^ 20 else x.ord
          mmas := if d.cls = 0 then x.mmas + 1 else x.mmas }
        let s := if 2 ≤ d.cls ∧ d.cls ≤ 5 then s.modCl c fun y => { y with eng := insEng y.eng {
            d := d, unit := u, at_ := now, dq := if engRemote d then xdest s (dieQuarter (u / 16)) (engPanel d) else 0 } }
          else s
        .next (if mayBegin s u d.did then begin_ s u d.did else s)
    else .next s

/-- TAG_WAIT_SATISFIED: every slot a waiting descriptor touches satisfies its tag mode at the start of the clock and no
earlier descriptor holds it back, so it begins its accesses (R123). -/
def execTagWaitSatisfied (u : UnitId) (did : Nat) (s : State) : Res :=
  let t := atPresent s u
  when_ (mayBegin t u did && rgnRuns s (unitRgn u)) s (begin_ t u did)

/-- A descriptor leaves its unit. -/
def unitDone (s : State) (u did : Nat) : State :=
  s.modUn u fun x => { x with issued := x.issued.filter fun e => e.d.did != did }

/-- LOAD: the head of the unit queue is checked and issued (R150). -/
def execLoad (u : UnitId) (s : State) : Res := unitIssue (fun d => d.cls == 2) u s
/-- STORE (R150) -/
def execStore (u : UnitId) (s : State) : Res := unitIssue (fun d => d.cls == 3) u s
/-- SEND (R151) -/
def execSend (u : UnitId) (s : State) : Res := unitIssue (fun d => d.cls == 4) u s
/-- RED ACCUMULATE (R152) -/
def execRedAccumulate (u : UnitId) (s : State) : Res := unitIssue (fun d => d.cls == 5 && d.redOp == 0) u s
/-- RED READ (R152) -/
def execRedRead (u : UnitId) (s : State) : Res := unitIssue (fun d => d.cls == 5 && d.redOp == 1) u s
/-- RED READ_CLEAR (R152) -/
def execRedReadClear (u : UnitId) (s : State) : Res := unitIssue (fun d => d.cls == 5 && d.redOp == 2) u s

/-! ### Completion (R67, R100, R147) -/

/-- MMA: the head of the unit queue is checked and issued (R63, R68). -/
def execMma (u : UnitId) (s : State) : Res := unitIssue (fun d => d.cls == 0) u s

/-- A begun MMA that no earlier issued MMA on its own buffer still has to complete before (R68). -/
def mmaNext (x : UnitState) (did : Nat) : Option Issued :=
  match x.issued.find? fun e => e.d.did == did with
  | none => none
  | some e =>
    if e.d.cls = 0 ∧ e.begun = true ∧
        (x.issued.takeWhile fun f => f.d.did != did).all (fun f => f.d.cls != 0 || f.d.f 40 40 != e.d.f 40 40) = true then some e
    else none

/-- MMA_COMPLETE: occupancy plus 76 clocks after its first clock the MMA's results stand in the buffer and its columns
have been compared (R67, R82 to R85). -/
def execMmaComplete (u : UnitId) (did : Nat) (upset : List (Nat × BitVec 32)) (s : State) : Res :=
  match mmaNext (s.un u) did with
  | none => .next s
  | some e =>
    if rgnRuns s (unitRgn u) = true then
      let s := advClock s (unitRgn u) (e.beganAt + e.span)
      let s := catchUp s u (max (unitClk s u) (e.beganAt + e.span))
      let e := (mmaNext (s.un u) did).getD e
      let d := e.d
      let b := d.f 40 40
      let r := mmaCompute s u e (accWords (s.un u) b) upset
      let s := s.modUn u fun x => setAcc x b r.c
      let s := s.bumpBy (unitCsumSkipCntAt u) (r.cols.countP (·.isNone))
      let failing := ((List.range 64).zip r.cols).findSome? fun p =>
        match p.2 with | some (some ex) => some (p.1, ex) | _ => none
      let s := match failing with
        | some (j, ex) =>
          (s.bump (unitCsumFailCntAt u)).setReg (unitCsumLastAt u)
            (e.frameIdx % 2 ^ 32 * 2 ^ 32 + e.mmaOrd % 2 ^ 16 * 2 ^ 16 + ex * 2 ^ 12 + 2 ^ 8 + b * 2 ^ 7 + j)
        | none => s
      let s := addFlop s u (opsGroup (d.f 35 32) (d.f 39 36)) (2 * 4096 * d.f 61 48)
      .next (complete (unitDone s u did) (unitClu u) did (if failing.isSome then stSuspect else stOk))
    else .next s

/-- The unit works on until a VOP has come to its end, waits for ports included (R100, R101). -/
def runVop : Nat → Nat → Nat → State → State
  | 0, _, _, s => s
  | n + 1, u, did, s =>
    match (s.un u).issued.find? fun e => e.d.did == did with
    | none => s
    | some e =>
      let end_ := e.beganAt + e.span + e.shift
      if end_ ≤ (s.un u).settled then s else runVop n u did (catchUp s u end_)

/-- A begun VOP of a unit. -/
def vopOf (x : UnitState) (did : Nat) : Option Issued :=
  x.issued.find? fun e => e.d.did == did && e.d.cls == 1 && e.begun

/-- VOP_COMPLETE: the VOP completes at the length of R100 and its port waits after its first clock (R95 to R101).  The waits
are those the unit's ports have imposed; the sender's own count of them changes nothing. -/
def execVopComplete (u : UnitId) (did : Nat) (_portWaits : Nat) (s : State) : Res :=
  match vopOf (s.un u) did with
  | none => .next s
  | some e =>
    if rgnRuns s (unitRgn u) = true then
      let s := runVop 65536 u did (atPresent s u)
      let e := (vopOf (s.un u) did).getD e
      let s := advClock s (unitRgn u) (e.beganAt + e.span + e.shift)
      let diff := e.lane.diff
      let s := addFlop s u 7 (64 * e.d.f 43 37 * (if e.d.op = 4 then 2 else 1))
      let s := if diff then s.bump (unitVcmpFailCntAt u) else s
      .next (complete (unitDone s u did) (unitClu u) did (if diff then stSuspect else stOk))
    else .next s

/-- Abandonment of a begun MMA or VOP at an edge (R59), once its unit has been brought to the present: an MMA in its
occupancy leaves its buffer a mix of old values and partial sums, which are free values (log entry 5); a VOP leaves the rows it
had written. -/
def abandonUnit (s : State) (u : Nat) (e : Issued) : State :=
  if e.begun = true ∧ e.d.cls = 0 ∧ e.beganAt < unitClk s u then
    let n := s.fresh
    let s := s.modUn u fun x => setAcc x (e.d.f 40 40) ((List.range 4096).map fun i => Config.freeWord (n + i))
    { s with fresh := n + 4096 }
  else s

/-- Issue of a VOP of operation k. -/
def issueVop (k : Nat) (u : UnitId) (s : State) : Res := unitIssue (fun d => d.cls == 1 && d.op == k) u s
/-- VOP_MOV: the head of the unit queue is checked and issued (R95). -/
def execVopMov (u : UnitId) (s : State) : Res := issueVop 0x00 u s
/-- VOP_ADD: the head of the unit queue is checked and issued (R95). -/
def execVopAdd (u : UnitId) (s : State) : Res := issueVop 0x01 u s
/-- VOP_SUB: the head of the unit queue is checked and issued (R95). -/
def execVopSub (u : UnitId) (s : State) : Res := issueVop 0x02 u s
/-- VOP_MUL: the head of the unit queue is checked and issued (R95). -/
def execVopMul (u : UnitId) (s : State) : Res := issueVop 0x03 u s
/-- VOP_FMA: the head of the unit queue is checked and issued (R95). -/
def execVopFma (u : UnitId) (s : State) : Res := issueVop 0x04 u s
/-- VOP_MIN: the head of the unit queue is checked and issued (R95). -/
def execVopMin (u : UnitId) (s : State) : Res := issueVop 0x05 u s
/-- VOP_MAX: the head of the unit queue is checked and issued (R95). -/
def execVopMax (u : UnitId) (s : State) : Res := issueVop 0x06 u s
/-- VOP_ABS: the head of the unit queue is checked and issued (R95). -/
def execVopAbs (u : UnitId) (s : State) : Res := issueVop 0x07 u s
/-- VOP_NEG: the head of the unit queue is checked and issued (R95). -/
def execVopNeg (u : UnitId) (s : State) : Res := issueVop 0x08 u s
/-- VOP_DIV: the head of the unit queue is checked and issued (R95). -/
def execVopDiv (u : UnitId) (s : State) : Res := issueVop 0x09 u s
/-- VOP_RCP: the head of the unit queue is checked and issued (R95). -/
def execVopRcp (u : UnitId) (s : State) : Res := issueVop 0x0A u s
/-- VOP_SQRT: the head of the unit queue is checked and issued (R95). -/
def execVopSqrt (u : UnitId) (s : State) : Res := issueVop 0x0B u s
/-- VOP_RSQRT: the head of the unit queue is checked and issued (R95). -/
def execVopRsqrt (u : UnitId) (s : State) : Res := issueVop 0x0C u s
/-- VOP_EXP2: the head of the unit queue is checked and issued (R95). -/
def execVopExp2 (u : UnitId) (s : State) : Res := issueVop 0x0D u s
/-- VOP_LOG2: the head of the unit queue is checked and issued (R95). -/
def execVopLog2 (u : UnitId) (s : State) : Res := issueVop 0x0E u s
/-- VOP_TANH: the head of the unit queue is checked and issued (R95). -/
def execVopTanh (u : UnitId) (s : State) : Res := issueVop 0x0F u s
/-- VOP_ROWSUM: the head of the unit queue is checked and issued (R95). -/
def execVopRowsum (u : UnitId) (s : State) : Res := issueVop 0x10 u s
/-- VOP_ROWMAX: the head of the unit queue is checked and issued (R95). -/
def execVopRowmax (u : UnitId) (s : State) : Res := issueVop 0x11 u s
/-- VOP_COLSUM: the head of the unit queue is checked and issued (R95). -/
def execVopColsum (u : UnitId) (s : State) : Res := issueVop 0x12 u s
/-- VOP_COLMAX: the head of the unit queue is checked and issued (R95). -/
def execVopColmax (u : UnitId) (s : State) : Res := issueVop 0x13 u s
/-- VOP_CMPX: the head of the unit queue is checked and issued (R95). -/
def execVopCmpx (u : UnitId) (s : State) : Res := issueVop 0x14 u s

end Sys2Proof.Machine
end

