-- ==== Sys2Proof/Machine/Channels.lean ====
section
/-! DEFINITION. Message channels and hardware queues (R160 to R177): landing of rows, appending of entries, discard,
dequeue and credit return. -/

namespace Sys2Proof.Machine

/-! ### Declarations (R160 to R163) -/

/-- The declaration of queue q of physical cluster c. -/
def declOf (s : State) (c q : Nat) : Option QueueDecl :=
  match cfgOf s (cluQuarter c), logicalOfClu s c with
  | some cfg, some l => cfg.queues.find? fun d => d.clu == l && d.queue == q
  | _, _ => none

/-- Credits of channel ch of a queue. -/
def chanCredits (d : QueueDecl) (ch : Nat) : Nat := match d.chans[ch]? with | some x => x.2.2.2.2 | none => 0

/-- First segment of channel ch of a queue (R161). -/
def chanFirstSeg (d : QueueDecl) (ch : Nat) : Nat := ((d.chans.take ch).map fun x => x.2.2.2.2).sum

/-- Segments of a ring (R161). -/
def ringSegs (d : QueueDecl) : Nat := (d.chans.map fun x => x.2.2.2.2).sum

/-- The channel of a queue whose source a row names. -/
def chanOf (d : QueueDecl) (remote : Bool) (spanel sclu : Nat) : Option Nat :=
  ((List.range d.chans.length).zip d.chans).findSome? fun p =>
    if p.2.2.2.1 = remote ∧ p.2.1 = sclu ∧ (remote = false ∨ p.2.2.1 = spanel) then some p.1 else none

/-- First slot of a segment (R161). -/
def segSlot (d : QueueDecl) (seg : Nat) : Nat := d.ring + seg * d.segRows

/-- The slots of a message (R168). -/
def msgSlots (d : QueueDecl) (m : Msg) : List Nat := (List.range (m.len + 1)).map fun i => segSlot d m.seg + i

/-- A queue of a cluster. -/
def queueOf (x : Cluster) (q : Nat) : Queue := findD x.queues q {}

/-- Change a queue of a cluster. -/
def modQueue (s : State) (c q : Nat) (f : Queue → Queue) : State :=
  s.modCl c fun x => { x with queues := putAt x.queues q (f (queueOf x q)) }

/-- Own panel number (PM_XPANEL). -/
def panelNo (s : State) : Nat := s.regField (pmXpanelAt) 9 0

/-- The frame index of a cluster's partition. -/
def partFrame (s : State) (c : Nat) : Nat := frameIndex (partD s (cluQuarter c))

/-! ### Entries (R172, R174, R178) -/

/-- Low word of a message's entry. -/
def entryLow (d : QueueDecl) (m : Msg) : Nat :=
  2 ^ 31 + b2n m.remote * 2 ^ 30 + m.sclu % 1024 * 2 ^ 20 + m.len * 2 ^ 14 + b2n m.poison * 2 ^ 13 + segSlot d m.seg

/-- High word of a message's entry. -/
def entryHigh (d : QueueDecl) (m : Msg) : Nat :=
  (if m.remote then m.spanel else 0) * 2 ^ 22 + m.chan * 2 ^ 18 + d.unit * 2 ^ 16 + m.seq

/-- The entries waiting in a queue, in order. -/
def entries (x : Queue) : List Msg := x.msgs.filter fun m => m.stage == 2

/-- SUSPECT is ORed into a group's flags (R276). -/
def flagPoison (s : State) (c : Nat) : State :=
  let g := s.reg (seqPoisonGrpAt c)
  if bit g 4 then
    (s.modCl c fun x => { x with grpFlags := putAt x.grpFlags (g % 16) (findD x.grpFlags (g % 16) 0 ||| stSuspect) }).setField
      (seqFrameUseAt c) 0 0 1
  else s

/-- The entry at the head of a queue is taken: its low word, and its high word latched into SEQ_QLAST; 0 on an empty
queue (R172, R276). -/
def takeEntry (s : State) (c q : Nat) : Nat × State :=
  match entries (queueOf (s.cl c) q), declOf s c q with
  | m :: _, some d =>
    let s := modQueue s c q fun x => { x with msgs := mapFirst (fun n => n.stage == 2) (fun n => { n with stage := 3 }) x.msgs }
    let s := s.setReg (seqQlastAt c) (entryHigh d m)
    (entryLow d m, if m.poison then flagPoison s c else s)
  | _, _ => (0, s.setReg (seqQlastAt c) 0)

/-! ### Landing (R168, R169) -/

/-- Must a row be dropped (R169)? -/
def badLanding (s : State) (c : Nat) (d : QueueDecl) (ch : Nat) (p : Packet) : Bool :=
  let x := queueOf (s.cl c) p.dque
  p.seg < chanFirstSeg d ch || p.seg ≥ chanFirstSeg d ch + chanCredits d ch ||
  (!p.remote && p.gen != (s.cl c).gen) || p.mlen + 1 > d.segRows || p.mrow > p.mlen ||
  (x.msgs.any fun m => m.seg == p.seg && m.seq != p.mseq) ||
  (match find? x.lastDiscard ch with | some l => (l + 65536 - p.mseq % 65536) % 65536 < 32768 | none => false)

/-- A row that has landed is noted in its message. -/
def noteRow (x : Queue) (ch : Nat) (p : Packet) (spanel : Nat) (bad : Bool) : Queue :=
  let upd (m : Msg) : Msg :=
    let landed := insSorted m.landed p.mrow
    { m with landed := landed, poison := m.poison || bad, stage := if landed.length = m.len + 1 then 1 else 0 }
  if x.msgs.any fun m => m.seg == p.seg then { x with msgs := mapFirst (fun m => m.seg == p.seg) upd x.msgs }
  else { x with msgs := x.msgs ++ [upd { chan := ch, seg := p.seg, seq := p.mseq, len := p.mlen, landed := [], poison := false
                                         remote := p.remote, spanel := spanel, sclu := p.sclu, nextph := p.nextph
                                         mframe := p.mframe, edges := 0, stage := 0 }] }

/-- A message row reaches physical cluster c (R168, R169): the answer says whether it was dropped under R169. -/
def landRow (s : State) (c : Nat) (p : Packet) : Bool × State :=
  match declOf s c p.dque with
  | none => (false, s.bump (queBadLandCntAt c))
  | some d =>
    match chanOf d p.remote p.spanel p.sclu with
    | none => (false, s.bump (queBadLandCntAt c))
    | some ch =>
      if badLanding s c d ch p then (false, s.bump (queBadLandCntAt c))
      else
        let bad := !payloadOk p
        let r := outsideWrite s (4 * c + d.unit) (1024 * (segSlot d p.seg + p.mrow)) (if bad then zeros 1024 else p.payload)
          true .message .fabric
        if r.1 then
          (true, modQueue r.2 c p.dque fun x => noteRow x ch p (if p.remote then p.spanel else panelNo s) bad)
        else (true, r.2)

/-! ### Appending (R170) -/

/-- The sequence number of a channel that is to be appended or discarded next moves past those already resolved. -/
def skipResolved : Nat → List (Nat × Nat) → Nat → Nat → Nat × List (Nat × Nat)
  | 0, l, _, n => (n, l)
  | k + 1, l, ch, n => if l.contains (ch, n) then skipResolved k (l.filter (· != (ch, n))) ch ((n + 1) % 65536) else (n, l)

/-- Sequence number seq of channel ch has been appended or discarded. -/
def resolveSeq (x : Queue) (ch seq : Nat) : Queue :=
  if findD x.next ch 0 = seq then
    let r := skipResolved x.resolved.length x.resolved ch ((seq + 1) % 65536)
    { x with next := putAt x.next ch r.1, resolved := r.2 }
  else { x with resolved := (ch, seq) :: x.resolved }

/-- Is a complete message held behind an earlier one of its channel? -/
def orderBlocked (x : Queue) (m : Msg) : Bool := findD x.next m.chan 0 != m.seq

/-- May a complete message be appended now (R163, R170)? -/
def appendable (x : Queue) (frame : Nat) (m : Msg) : Bool :=
  m.stage == 1 && !orderBlocked x m && !(m.nextph && frame % 65536 == m.mframe)

/-- The first of two messages in ascending source panel, then source logical cluster. -/
def earlierMsg (a b : Msg) : Msg := if a.spanel < b.spanel ∨ (a.spanel = b.spanel ∧ a.sclu ≤ b.sclu) then a else b

/-- One message is appended to its queue. -/
def appendMsg (s : State) (c q : Nat) (m : Msg) : State :=
  let s := modQueue s c q fun x =>
    resolveSeq { x with msgs := x.msgs.filter (fun n => n.seg != m.seg) ++ [{ m with stage := 2 }] } m.chan m.seq
  let s := s.bump (queMsgCntAt c)
  if m.poison then s.bump (quePoisonCntAt c) else s

/-- Every message of a queue that is appendable in a frame is appended, in the order of R170. -/
def appendAll : Nat → State → Nat → Nat → Nat → State
  | 0, s, _, _, _ => s
  | k + 1, s, c, q, frame =>
    let x := queueOf (s.cl c) q
    match x.msgs.filter (appendable x frame) with
    | [] => s
    | m :: ms => appendAll k (appendMsg s c q (ms.foldl earlierMsg m)) c q frame

/-- Messages held behind an earlier one are counted, once each (R170). -/
def countHeld (s : State) (c q : Nat) : State :=
  let x := queueOf (s.cl c) q
  let held (m : Msg) : Bool := m.stage == 1 && !m.orderHeld && orderBlocked x m
  (modQueue s c q fun x => { x with msgs := x.msgs.map fun m => if held m then { m with orderHeld := true } else m }).bumpBy
    (queOrderHoldCntAt c) (x.msgs.countP held)

/-- The complete messages of a queue are appended or held, the partition being in `frame` (R170). -/
def flushQueue (s : State) (c q frame : Nat) : State :=
  countHeld (appendAll (queueOf (s.cl c) q).msgs.length s c q frame) c q

/-- The held messages of every queue of a cluster are appended at step 5 of R34 (R170). -/
def flushQueues (s : State) (c : Nat) : State := (s.cl c).queues.foldl (fun s p => flushQueue s c p.1 (partFrame s c)) s

/-! ### Credit return, dequeue and discard (R171, R173) -/

/-- The edge dies of a partition that hold at least one UP port, ascending (R328). -/
def upEdges (s : State) (qmask : Nat) : List Nat :=
  (List.range 16).filter fun e => bit qmask (edgeQuarter e) && (List.range 4).any fun k => (s.port (4 * e + k)).state == 2

/-- The edge die a remote packet is sent to (R328): the tag picks among the dies with an UP port; the lowest of the
partition when there is none. -/
def remoteEdge (s : State) (q panel tag : Nat) : Nat :=
  let m := qmaskOf s q
  match upEdges s m with
  | [] => ((List.range 16).filter fun e => bit m (edgeQuarter e)).headD 0
  | es => es.getD ((panel + tag) % es.length) 0

/-- A packet bound for another panel: it goes to an edge die, with the transport prefix's destination (R325, R327). -/
def toPanel (s : State) (q panel dq tag : Nat) (p : Packet) : Packet :=
  let e := remoteEdge s q panel tag
  { p with dsite := edgeSite e, dagt := 0, remote := true, peer := some (panel, dq, 0, 0) }

/-- The credit return of a message of queue q that cluster c has finished with (R173).  The segment, the queue, the
receiving cluster and its generation travel in the message fields (DESIGN CHOICE, log entry 40). -/
def creditReturn (s : State) (c q : Nat) (m : Msg) : State :=
  let l := (logicalOfClu s c).getD 0
  let p : Packet := { typ := tCredit, cls := cSched, msgv := true, dque := q, seg := m.seg, gen := (s.cl c).gen
                      sclu := l, spanel := panelNo s }
  if m.remote then
    sendCredit s c { toPanel s (cluQuarter c) m.spanel (xdest s (cluQuarter c) m.spanel) 0 p with addr := m.sclu }
  else
    match cluOfLogical s m.sclu with
    | some d => sendCredit s c { p with dsite := cluSite d, dagt := cluAgent d }
    | none => s

/-- A message leaves its queue and its segment is free; its credit goes back. -/
def freeMsg (s : State) (c q : Nat) (m : Msg) : State :=
  creditReturn (modQueue s c q fun x => { x with msgs := x.msgs.filter fun n => n.seg != m.seg }) c q m

/-- Are all slots of a message EMPTY? -/
def msgEmpty (s : State) (c : Nat) (d : QueueDecl) (m : Msg) : Bool :=
  let x := (atPresent s (4 * c + d.unit)).un (4 * c + d.unit)
  (msgSlots d m).all fun sl => !tagFull x sl

/-- An incomplete message is discarded at the second tick edge after its first row (R171). -/
def discardMsg (s : State) (c q : Nat) (d : QueueDecl) (m : Msg) : State :=
  let s := s.modUn (4 * c + d.unit) fun x => { x with full := x.full.filter fun sl => !(msgSlots d m).contains sl }
  let s := modQueue s c q fun x => { resolveSeq x m.chan m.seq with lastDiscard := putAt x.lastDiscard m.chan m.seq }
  freeMsg (s.bump (queIncompleteCntAt c)) c q m

/-- Messages of a queue that are incomplete at their second edge are discarded, and those they held back released. -/
def discardIncomplete (s : State) (c q frame : Nat) : State :=
  match declOf s c q with
  | none => s
  | some d =>
    let l := (queueOf (s.cl c) q).msgs.filter fun m => m.stage == 0 && m.edges ≥ 2
    if l.isEmpty then s else flushQueue (l.foldl (fun s m => discardMsg s c q d m) s) c q frame

/-- A tick edge passes for the messages that are landing (R171, step 1 of R34).  A NEXT message that a discard releases waits for
step 5: the frame that ends is still in force here (R170). -/
def ageMessages (s : State) (c : Nat) : State :=
  let s := s.modCl c fun x => { x with queues := x.queues.map fun p =>
    (p.1, { p.2 with msgs := p.2.msgs.map fun m => { m with edges := m.edges + 1 } }) }
  (s.cl c).queues.foldl (fun s p => discardIncomplete s c p.1 ((partFrame s c + 65535) % 65536)) s

/-! ### What requests wait for (R151, R156, R157) -/

/-- The counter of a wait: 1 read tag, 2 write tag, 3 credit. -/
def waitCntOf (c cause : Nat) : Nat :=
  match cause with | 1 => seInflightFullCntAt c | 2 => seWrFullCntAt c | _ => seCreditWaitCntAt c

/-- A request begins to wait for a tag or a credit. -/
def startWait (s : State) (c cause : Nat) : State :=
  s.modCl c fun x => if (find? x.waits cause).isSome then x else { x with waits := putAt x.waits cause (cluClk s c) }

/-- The clocks of a wait are counted and the wait ends: what was waited for has come, or the request is abandoned. -/
def endWait (s : State) (c cause : Nat) : State :=
  match find? (s.cl c).waits cause with
  | none => s
  | some t => (s.modCl c fun x => { x with waits := dropAt x.waits cause }).bumpBy (waitCntOf c cause) (cluClk s c - t)

/-- Every wait of a cluster's requests ends. -/
def endWaits (s : State) (c : Nat) : State := endWait (endWait (endWait s c 1) c 2) c 3

/-- The clocks so far of a wait that has not ended. -/
def waitSoFar (s : State) (c cause : Nat) : Nat :=
  match find? (s.cl c).waits cause with | none => 0 | some t => cluClk s c - t

/-! ### Outgoing entries (R162, R165, R176) -/

/-- The outgoing entries of a logical cluster. -/
def outsOf (s : State) (c : Nat) : List OutDecl :=
  match cfgOf s (cluQuarter c), logicalOfClu s c with
  | some cfg, some l => cfg.outs.filter fun o => o.clu == l
  | _, _ => []

/-- Free segments of outgoing entry i: all of them, ascending, after a reset. -/
def freeSegs (x : Cluster) (o : OutDecl) (i : Nat) : List Nat :=
  (find? x.outFree i).getD ((List.range o.credits).map (o.firstSeg + ·))

/-- Does the SEND that holds the generator wait for a credit of this channel (R151, R155)? -/
def awaitsCredit (x : Cluster) (remote : Bool) (panel dclu dque : Nat) : Bool :=
  match x.eng.find? fun e => !e.stopped && e.d.cls == 4 && e.sent == 0 with
  | none => false
  | some e => (e.d.f 58 58 == 1) == remote && (!remote || e.d.f 57 48 == panel) && e.d.f 41 32 == dclu && e.d.f 47 42 == dque

/-- A segment returns, once, to the list of the entry that leads to a queue (R173, R177); a SEND that waits for it waits no
longer. -/
def returnSeg (s : State) (c : Nat) (remote : Bool) (panel dclu dque seg : Nat) : State :=
  let os := outsOf s c
  let s := if awaitsCredit (s.cl c) remote panel dclu dque then endWait s c 3 else s
  match ((List.range os.length).zip os).find? fun e =>
      e.2.remote == remote && (!remote || e.2.dpanel == panel) && e.2.dclu == dclu && e.2.dque == dque with
  | none => s
  | some (i, o) => s.modCl c fun x =>
      let free := freeSegs x o i
      { x with outFree := putAt x.outFree i (if free.contains seg then free else free ++ [seg]) }

/-- The slots of the rings of a stream for physical cluster c. -/
def ringSlots (s : State) (cfg : StreamCfg) (c : Nat) : List (Nat × Nat × Nat) :=
  match logicalOfClu s c with
  | none => []
  | some l => (cfg.queues.filter fun d => d.clu == l).map fun d => (d.unit, d.ring, d.ring + ringSegs d * d.segRows)

/-- One cluster's channels are reset (R176): queues empty, segments free, sequences 0, ring slots EMPTY. -/
def resetChannels (s : State) (c gen : Nat) (rings : List (Nat × Nat × Nat)) : State :=
  let s := s.modCl c fun x => { x with gen := gen, queues := [], outFree := [], outSeq := [] }
  rings.foldl (fun s r => s.modUn (4 * c + r.1) fun x =>
    { x with full := x.full.filter fun sl => !(r.2.1 ≤ sl && sl < r.2.2) }) s

/-- The new generation of a partition: the first value after G0, modulo 16, that no cluster held (R176). -/
def nextGen (g0 : Nat) (held : List Nat) : Nat :=
  (((List.range 16).map fun i => (g0 + 1 + i) % 16).find? fun g => !held.contains g).getD ((g0 + 1) % 16)

/-! ### The commands -/

/-- A row that came from another panel is answered to the edge die (R332). -/
def answerRow (s : State) (c : Nat) (p : Packet) (poison : Bool) (status : Nat) : State :=
  inject s (cluSite c) (4 + c % 4 / 2)
    { replyTo p tWrAck status with ssite := cluSite c, sagt := cluAgent c, poison := poison }

/-- MSG: the row at the head of a region's ejection buffer lands in its ring, or is dropped (R168, R169).  A cluster that
absorbs arrivals takes it without effect (R398). -/
def execMsg (r : RegionId) (s : State) : Res :=
  serve (portOfRegion r) (fun p => p.typ == tMsg) (fun p s =>
    match agentClu p.dsite p.dagt with
    | none => s
    | some c =>
      if (s.cl c).absorbing then s.bump (seAbsorbCntAt c)
      else
        let r := landRow s c p
        if p.remote then answerRow r.2 c p (!payloadOk p) sOk else r.2) s

/-- MSG_APPEND: in the region clock after its last row a complete message becomes an entry of its queue, or is held
(R170). -/
def execMsgAppend (cl : ClusterId) (q : Fin 64) (s : State) : Res := .next (flushQueue s cl q (partFrame s cl))

/-- MSG_INCOMPLETE_DISCARD: a message that is not complete at the second tick edge after its first row is discarded
(R171). -/
def execMsgIncompleteDiscard (cl : ClusterId) (q : Fin 64) (s : State) : Res := .next (discardIncomplete s cl q (partFrame s cl))

/-- MSG_DEQUEUE: a message whose entry has been taken and whose slots are all EMPTY is dequeued, and its credit goes
back (R173). -/
def execMsgDequeue (cl : ClusterId) (q : Fin 64) (s : State) : Res :=
  match declOf s cl q with
  | none => .next s
  | some d =>
    match (queueOf (s.cl cl) q).msgs.find? fun m => m.stage == 3 && msgEmpty s cl d m with
    | none => .next s
    | some m => .next (freeMsg s cl q m)

/-- CREDIT: a credit return reaches the sending cluster; one of an older generation is discarded (R173). -/
def execCredit (r : RegionId) (s : State) : Res :=
  serve (portOfRegion r) (fun p => p.typ == tCredit) (fun p s =>
    match agentClu p.dsite p.dagt with
    | none => s
    | some c =>
      if !p.remote && p.gen != (s.cl c).gen then s
      else returnSeg s c p.remote p.spanel p.sclu p.dque p.seg) s

end Sys2Proof.Machine
end

