-- ==== Sys2Proof/Machine/Egress.lean ====
section
/-! DEFINITION. Packets that leave the panel: the choice of a port and local answers when there is none (R323, R326,
R328). -/

namespace Sys2Proof.Machine

/-- Does a packet go to the transport from the edge die it has reached (R326)? -/
def isOutbound (p : Packet) : Bool :=
  p.peer.isSome && (p.typ == tRd || p.typ == tWr || p.typ == tMsg || p.typ == tRed || p.typ == tAtom || p.typ == tCredit)

/-- Is it an answer to a request of another panel (R325, R326)? -/
def isAnswer (p : Packet) : Bool := p.peer.isSome && (p.typ == tRdData || p.typ == tWrAck || p.typ == tAtomRsp)

/-- Does a request ask for data? -/
def wantsData (p : Packet) : Bool := p.typ == tRd || (p.typ == tRed && p.rop != 0)

/-- The answer of a status to a request (R326, R331): reads carry POISON, writes no data. -/
def statusAnswer (p : Packet) (status : Nat) : Packet :=
  if wantsData p then withPoison (replyTo p tRdData status) 1024
  else if p.typ == tAtom then withPoison (replyTo p tAtomRsp status) 8
  else replyTo p tWrAck status

/-- Counter QC_XLOSS_FENCE_CNT of an edge die's quarter. -/
def lossFence (s : State) (e : Nat) : State := s.bump (qcXlossFenceCntAt (edgeQuarter e))

/-- A request is answered FENCED by its own edge die, by the agent of a port of it; a channel credit is discarded (R218, R323,
R328). -/
def fenceLocally (s : State) (e agt : Nat) (p : Packet) : State :=
  let s := lossFence s e
  if p.typ == tCredit then s else injectEdge s e agt { statusAnswer p sFenced with peer := none }

/-- A row as it leaves for the transport: one that no longer agrees with its block check is marked poisoned (R272). -/
def leaving (p : Packet) : Packet :=
  if p.hdrOnly || p.poison || payloadOk p then p else withPoison p p.payload.length

/-- The UP port of edge die e with the most egress credits for a destination and class, the lower on a tie (R328). -/
def egressPort (s : State) (e panel tcls : Nat) : Option Nat :=
  let credits (k : Nat) : Nat := findD (s.port (4 * e + k)).credits (2 * panel + tcls) 0
  ((List.range 4).filter fun k => (s.port (4 * e + k)).state == 2).foldl (fun m k =>
    match m with
    | none => some k
    | some j => if credits k > credits j then some k else some j) none

/-- A packet at an edge die joins the egress queue of a port; with no UP port a request is fenced and a response
discarded (R323, R328). -/
def toEgress (s : State) (e tcls : Nat) (p : Packet) : State :=
  match p.peer with
  | none => s
  | some (panel, _, _, _) =>
    match egressPort s e panel tcls with
    | some k => s.modPort (4 * e + k) fun x => { x with egress := x.egress ++ [(panel, tcls, leaving p)] }
    | none => if tcls = 0 then fenceLocally s e p.dagt p else lossFence s e

/-- An answer that has reached its edge die becomes a RSP (R325, R331). -/
def answerAtEdge (e : Nat) (p : Packet) (s : State) : State := toEgress s e 1 p

end Sys2Proof.Machine
end

