-- ==== Sys2Proof/Machine/Blocks.lean ====
section
/-! DEFINITION. The 1 KiB blocks of a stack with their stored checks: reading with one re-read and the mirror copy,
writing whole and in part (R189 to R193, R203, R420). -/

namespace Sys2Proof.Machine

/-- The bytes of block beta of stack n. -/
def blockBytes (s : State) (n beta : Nat) : Bytes := s.read (stackAt n (1024 * beta)) 1024

/-- Its stored check. -/
def storedCheck (s : State) (n beta : Nat) : Nat := leNat (s.read (stackAt n (checkOff beta)) 8)

/-- Does a block agree with its stored check? -/
def blockOk (s : State) (n beta : Nat) : Bool := crc64 (blockBytes s n beta) == storedCheck s n beta

/-- A block's data and check are stored (R192). -/
def storeBlock (s : State) (n beta : Nat) (data : Bytes) (check : Nat) : State :=
  (s.write (stackAt n (1024 * beta)) data).write (stackAt n (checkOff beta)) (leBytes 8 check)

/-- The complement of a check: the mark of a poisoned block (R192, R274). -/
def complementCheck (c : Nat) : Nat := 2 ^ 64 - 1 - c

/-- A row as a router stores it: as received, or zeros with the complement of the correct check when poisoned (R192). -/
def storeRow (s : State) (n beta : Nat) (p : Packet) : State :=
  if p.poison then storeBlock s n beta (zeros 1024) (complementCheck (crc64 (zeros 1024)))
  else storeBlock s n beta p.payload p.check

/-- Corrected errors are counted by DRAM row in a table of 64 rows (R202). -/
def noteRowErr (s : State) (n k : Nat) : State :=
  s.modMr n fun x =>
    if (find? x.rowErrs k).isSome ∨ x.rowErrs.length < 64 then { x with rowErrs := addAt x.rowErrs k 1 } else x

/-- What on-die ECC reports is counted (R193, R202). -/
def noteEcc (s : State) (n beta : Nat) : Ecc → State
  | .clean => s
  | .corrected pc => noteRowErr (s.bump (mrEccCeCntAt n)) n (rowKey (1024 * beta + 512 * pc.val))
  | .uncorrectable => s.bump (mrEccUeCntAt n)

/-- One read of a block and its check: does it pass? -/
def readOnce (s : State) (n beta : Nat) (e : Ecc) : Bool × State :=
  (e != .uncorrectable && blockOk s n beta, noteEcc s n beta e)

/-- A read with the one re-read of R193. -/
def readTwice (s : State) (n beta : Nat) (e1 e2 : Ecc) : Bool × State :=
  let r := readOnce s n beta e1
  if r.1 then r else readOnce (r.2.bump (mrCheckRereadCntAt n)) n beta e2

/-- MR_ERR_LOG records a block left uncorrectable (R193, R201). -/
def logBlock (s : State) (n cause beta : Nat) : State :=
  s.setReg (mrErrLogAt n) (cause * 2 ^ 62 + 2 ^ 61 + beta % 2 ^ 26)

/-- How router n serves an address: the offset of the copy it holds, the partner's copy that lives besides, and whether
one copy alone serves (R187, R203, R420). -/
structure Serve where
  so : Nat
  copy : Option (Nat × Nat)
  solo : Bool
  deriving DecidableEq, Repr

/-- How router n serves address a of its quarter's partition (R185, R187, R420). -/
def serveAt (s : State) (n a : Nat) : Option Serve :=
  match partOf s (stackQuarter n) with
  | none => none
  | some p =>
    match homeOf p a with
    | none => none
    | some h =>
      if stackGone s n then none
      else if h.stack = n then
        match h.copy with
        | none => some ⟨h.so, none, false⟩
        | some c => if stackGone s c.1 then some ⟨h.so, none, true⟩ else some ⟨h.so, some c, false⟩
      else
        match h.copy with
        | some c => if c.1 = n ∧ stackGone s h.stack = true then some ⟨c.2, none, true⟩ else none
        | none => none

/-- The stack a resolver sends an access to: the primary, the copy when the primary is withdrawn, none when no copy is
left (R420). -/
def liveStack (s : State) (h : Home) : Option Nat :=
  if !stackGone s h.stack then some h.stack
  else match h.copy with
    | some c => if stackGone s c.1 then none else some c.1
    | none => none

/-- An access served by one copy counts (R420). -/
def noteSolo (s : State) (n : Nat) (v : Serve) : State := if v.solo then s.bump (mrMirrorSoloCntAt n) else s

/-- A read of a block at router n: data and check, or none for a poisoned reply; a mirror copy that passes serves and
restores the primary (R193, R203). -/
def readBlock (s : State) (n : Nat) (v : Serve) (e1 e2 c1 c2 : Ecc) : Option (Bytes × Nat) × State :=
  let beta := v.so / 1024
  let r := readTwice s n beta e1 e2
  if r.1 then (some (blockBytes r.2 n beta, storedCheck r.2 n beta), r.2)
  else
    match v.copy with
    | none => (none, logBlock (r.2.bump (mrCheckUncorrCntAt n)) n 1 beta)
    | some (m, so2) =>
      let b2 := so2 / 1024
      let r2 := readTwice r.2 m b2 c1 c2
      if r2.1 then
        let data := blockBytes r2.2 m b2
        let check := storedCheck r2.2 m b2
        (some (data, check), (storeBlock r2.2 n beta data check).bump (mrMirrorFixCntAt n))
      else (none, logBlock (r2.2.bump (mrCheckUncorrCntAt n)) n 3 beta)

/-- What on-die ECC reports of a read that router n makes for itself, the host or an atomic: what MR_DRAM_READ_DONE has told of
the block beforehand, else nothing (R193; DESIGN CHOICE, log entry 133). -/
def takeEcc (s : State) (n beta : Nat) : (Ecc × Ecc × Ecc × Ecc) × State :=
  match find? (s.mr n).ecc beta with
  | none => ((.clean, .clean, .clean, .clean), s)
  | some e => (e, s.modMr n fun x => { x with ecc := dropAt x.ecc beta })

/-- The router reads a block of its own accord: it passes or is poisoned (R192, R193). -/
def verifyBlock (s : State) (n beta : Nat) : Bool × State :=
  let e := takeEcc s n beta
  let r := readTwice e.2 n beta e.1.1 e.1.2.1
  if r.1 then r else (false, logBlock (r.2.bump (mrCheckUncorrCntAt n)) n 1 beta)

/-- The router writes part of a block: the check is recomputed over the merged block, and a poisoned block stays
poisoned (R192). -/
def partialWrite (s : State) (n so : Nat) (bs : Bytes) : State :=
  let beta := so / 1024
  let r := verifyBlock s n beta
  let old := blockBytes r.2 n beta
  let o := so % 1024
  let new := (old.take o ++ bs ++ old.drop (o + bs.length)).take 1024
  storeBlock r.2 n beta new (if r.1 then crc64 new else complementCheck (crc64 new))

/-- Part of a block read by the router itself: none when the block is poisoned. -/
def partialRead (s : State) (n so len : Nat) : Option Bytes × State :=
  let r := verifyBlock s n (so / 1024)
  (if r.1 then some (r.2.read (stackAt n so) len) else none, r.2)

end Sys2Proof.Machine
end

