-- ==== Sys2Proof/Machine/MemRouter.lean ====
section
/-! DEFINITION. Reads and writes of whole blocks at a memory router, read merging, and reads and writes of a scratchpad
from the fabric (R120, R189 to R195, R203, R272). -/

namespace Sys2Proof.Machine

/-! ### Reads at a router (R189, R193 to R195) -/

/-- A reply of the memory controller that carries a poisoned block (R185, R193). -/
def poisonReply (p : Packet) (status : Nat) : Packet := withPoison (replyTo p tRdData status) 1024

/-- Entries of the merge table in use. -/
def tabled (x : Stack) : Nat := x.merges.countP (·.tabled)

/-- A read that opens its own entry, or is served alone when the table is full (R194). -/
def openMerge (s : State) (n beta : Nat) (p : Packet) : State :=
  let x := s.mr n
  let full := tabled x ≥ 256
  let s := s.setMr n { x with
    merges := x.merges ++ [{ block := beta, open_ := !full, tabled := !full, reqs := [p], seq := x.tick }]
    tick := x.tick + 1 }
  if full then s.bump (mrMergeFullCntAt n) else s

/-- A read joins the open entry of its block, or opens one (R194). -/
def mergeRead (s : State) (n beta : Nat) (p : Packet) : State :=
  let x := s.mr n
  let here (m : Merge) : Bool := m.block == beta && m.open_
  match x.merges.find? here with
  | some m =>
    if m.reqs.length < 32 then
      (s.setMr n { x with merges := mapFirst here (fun m => { m with reqs := m.reqs ++ [p] }) x.merges }).bump
        (mrMergeHitCntAt n)
    else
      openMerge ((s.setMr n { x with merges := mapFirst here (fun m => { m with open_ := false }) x.merges }).bump
        (mrMergeLimitCntAt n)) n beta p
  | none => openMerge s n beta p

/-- A request reaches a memory router (counted for the energy estimate of R444). -/
def noteRequest (s : State) (n : Nat) : State := s.modMr n fun x => { x with requests := x.requests + 1 }

/-- A read reaches memory router n (R185, R194). -/
def readArrives (s : State) (n : Nat) (p : Packet) : State :=
  let s := noteRequest s n
  match serveAt s n p.addr with
  | none => injectMr s n 0 (poisonReply p sUnassigned)
  | some v => mergeRead (noteSolo s n v) n (v.so / 1024) p

/-- A read reaches a unit's scratchpad (R120, R127, R129). -/
def readSpad (s : State) (r : Nat) (p : Packet) : State :=
  let back (q : Packet) (s : State) : State :=
    inject s (dieSite (r / 2)) (4 + r % 2) { q with ssite := dieSite (r / 2), sagt := p.dagt }
  match windowOf s p.addr true with
  | none => back (poisonReply p sUnassigned) s
  | some (u, off) =>
    if unitRgn u ≠ r then back (poisonReply p sUnassigned) s
    else
      let len := 16 * (p.mlen + 1)
      match outsideRead s u off len .fabric with
      | (some bs, s) => back (withPayload (replyTo p tRdData sOk) bs) s
      | (none, s) => back (withPoison (replyTo p tRdData sUnassigned) len) s

/-- RD: a read request reaches a memory router or a unit's scratchpad (R189, R194, R120). -/
def execRd (p : AgentPort) (s : State) : Res :=
  match p with
  | .router n => serve (portOfStack n) (fun q => q.typ == tRd) (fun q s => readArrives s n q) s
  | .region r => serve (portOfRegion r) (fun q => q.typ == tRd) (fun q s => readSpad s r q) s
  | .edge _ => .next s

/-- The replies of a merged entry, in order of arrival (R195). -/
def replyAll (s : State) (n : Nat) (out : Option (Bytes × Nat)) (reqs : List Packet) : State :=
  reqs.foldl (fun s p => injectMr s n 0
    (match out with
     | some (data, check) => { replyTo p tRdData sOk with hdrOnly := false, payload := data, check := check }
     | none => poisonReply p sOk)) s

/-- Accesses that wait at a router: block, class and place in the order of arrival; a merged entry has the class of its first
read. -/
def accessesAt (x : Stack) : List (Nat × Nat × Nat) :=
  (x.merges.map fun m => (m.block, ((m.reqs.head?).map (·.cls)).getD cBulk, m.seq)) ++ x.writes.map fun w => (w.block, w.pkt.cls, w.seq)

/-- Place of a class at a slice: SCHED, BULK, CTRL; patrol scrub comes last with 3 (R190). -/
def slicePlace (cls : Nat) : Nat := if cls = cSched then 0 else if cls = cBulk then 1 else 2

/-- May an access of a place among the classes go to its block: does no access that goes ahead of it wait at the block's slice,
next in the order of its own block (R189, R190; DEDUCED, log entry 134)? -/
def sliceFree (x : Stack) (beta place : Nat) : Bool :=
  !(accessesAt x).any fun a => fold5 a.1 == fold5 beta && decide (slicePlace a.2.1 < place)
    && !(accessesAt x).any fun b => b.1 == a.1 && decide (b.2.2 < a.2.2)

/-- The read of a merged entry returns and is verified, and every requester is answered (R193 to R195, R203). -/
def finishRead (s : State) (n : Nat) (m : Merge) (e1 e2 c1 c2 : Ecc) : State :=
  let s := s.modMr n fun x => { x with merges := x.merges.erase m }
  match m.reqs with
  | [] => s
  | p :: _ =>
    match serveAt s n p.addr with
    | none => m.reqs.foldl (fun s q => injectMr s n 0 (poisonReply q sUnassigned)) s
    | some v =>
      let r := readBlock s n { v with so := 1024 * m.block } e1 e2 c1 c2
      replyAll r.2 n r.1 m.reqs

/-- MR_DRAM_READ_DONE: the oldest access to a block returns and is verified; writes ordered before it must have reached
the DRAM, and no access that goes ahead waits at its slice (R189, R190, R193, R195, R203).  Of a block that no packet's read
waits for it tells what the router's own next read of it meets. -/
def execMrDramReadDone (st : StackId) (beta : Nat) (first second copy1 copy2 : Ecc) (s : State) : Res :=
  let x := s.mr st
  match x.merges.find? fun m => m.block == beta with
  | none => .next (s.setMr st { x with ecc := putAt x.ecc beta (first, second, copy1, copy2) })
  | some m =>
    if (x.writes.any fun w => w.block == beta && w.seq < m.seq)
        || !sliceFree x beta (slicePlace (((m.reqs.head?).map (·.cls)).getD cBulk)) then .next s
    else .next (finishRead s st m first second copy1 copy2)

/-! ### Writes at a router (R189, R192, R203) -/

/-- A write reaches memory router n: its check is verified, its block's entries close, and it waits for the DRAM; the
partner's router verifies the forwarded copy likewise (R192, R194, R203). -/
def writeArrives (s : State) (n : Nat) (p : Packet) : State :=
  let s := noteRequest s n
  match serveAt s n p.addr with
  | none => injectMr s n 0 (replyTo p tWrAck sUnassigned)
  | some v =>
    let s := noteSolo s n v
    let bad := !p.poison && crc64 p.payload != p.check
    let s := if bad then s.bump (mrWrCheckBadCntAt n) else s
    let s := match v.copy with | some (m, _) => if bad then s.bump (mrWrCheckBadCntAt m) else s | none => s
    let x := s.mr n
    let beta := v.so / 1024
    s.setMr n { x with
      merges := x.merges.map fun m => if m.block = beta then { m with open_ := false } else m
      writes := x.writes ++ [{ block := beta, pkt := p, seq := x.tick, copy := v.copy.map fun c => (c.1, c.2 / 1024) }]
      tick := x.tick + 1 }

/-- A write row reaches a unit's scratchpad: a failed check lands zeros, leaves the tag and marks the acknowledgement
(R120, R122, R127, R272); a Shadow copy may set it EMPTY (R425). -/
def writeSpad (s : State) (r : Nat) (p : Packet) : State :=
  let back (status : Nat) (poison : Bool) (s : State) : State :=
    inject s (dieSite (r / 2)) (4 + r % 2)
      { replyTo p tWrAck status with poison := poison, ssite := dieSite (r / 2), sagt := p.dagt }
  match windowOf s p.addr true with
  | none => back sUnassigned false s
  | some (u, off) =>
    if unitRgn u ≠ r then back sUnassigned false s
    else
      let bad := !payloadOk p
      match outsideWrite s u off (if bad then zeros p.payload.length else p.payload) (p.tagm == 3 && !bad)
          (if p.sub = 1 then .shadow else .plain) .fabric with
      | (true, s) =>
        let s := if p.sub = 1 ∧ p.tagm = 0 ∧ bad = false then s.modUn u fun x => emptyTag x (off / 1024) else s
        back sOk bad (if bad then s.bump (unitLandCheckCntAt u) else s)
      | (false, s) => back sUnassigned false s

/-- WR: a write row reaches a memory router or a unit's scratchpad (R189, R192, R120). -/
def execWr (p : AgentPort) (s : State) : Res :=
  match p with
  | .router n => serve (portOfStack n) (fun q => q.typ == tWr) (fun q s => writeArrives s n q) s
  | .region r => serve (portOfRegion r) (fun q => q.typ == tWr) (fun q s => writeSpad s r q) s
  | .edge _ => .next s

/-- A write reaches the DRAM, both copies of a mirrored one, and is acknowledged (R189, R192, R203). -/
def finishWrite (s : State) (n : Nat) (w : WriteJob) : State :=
  let s := s.modMr n fun x => { x with writes := x.writes.erase w }
  let s := storeRow s n w.block w.pkt
  let s := match w.copy with | some (m, b2) => storeRow s m b2 w.pkt | none => s
  injectMr s n 0 (replyTo w.pkt tWrAck sOk)

/-- MR_WRITE_DONE: the oldest write of a block reaches the DRAM; reads ordered before it must have been served, and no access
that goes ahead waits at its slice (R189, R190, R192, R203). -/
def execMrWriteDone (st : StackId) (beta : Nat) (s : State) : Res :=
  let x := s.mr st
  match x.writes.find? fun w => w.block == beta with
  | none => .next s
  | some w =>
    if (x.merges.any fun m => m.block == beta && m.seq < w.seq) || !sliceFree x beta (slicePlace w.pkt.cls) then .next s
    else .next (finishWrite s st w)

/-- The accesses to a block that have arrived are carried out in their order, n of them at most: an access of the host, DMA or
JTAG comes after them (R189). -/
def settleBlock (st beta : Nat) : Nat → State → State
  | 0, s => s
  | n + 1, s =>
    let x := s.mr st
    match x.merges.find? fun m => m.block == beta, x.writes.find? fun w => w.block == beta with
    | none, none => s
    | some m, none => settleBlock st beta n (finishRead s st m .clean .clean .clean .clean)
    | none, some w => settleBlock st beta n (finishWrite s st w)
    | some m, some w =>
      settleBlock st beta n (if m.seq < w.seq then finishRead s st m .clean .clean .clean .clean else finishWrite s st w)

/-- Every access to a block that has arrived is carried out. -/
def settleAll (s : State) (n beta : Nat) : State :=
  settleBlock n beta ((s.mr n).merges.length + (s.mr n).writes.length) s

/-- A read of the host, DMA or JTAG at a router: it joins its block's open entry as any read does, which counts, and the entry is
served at once (R194). -/
def countMerge (s : State) (n beta : Nat) : State :=
  let x := s.mr n
  match x.merges.find? fun m => m.block == beta && m.open_ with
  | some m =>
    if m.reqs.length < 32 then s.bump (mrMergeHitCntAt n)
    else if tabled x ≥ 256 then (s.bump (mrMergeLimitCntAt n)).bump (mrMergeFullCntAt n) else s.bump (mrMergeLimitCntAt n)
  | none => if tabled x ≥ 256 then s.bump (mrMergeFullCntAt n) else s

/-! ### Scrub (R201, R202) -/

/-- One past the last block that patrol scrub reads: the check store's used part ends there (R180, R201). -/
def scrubEnd : Nat := (checkStoreBase + 285 * 0x100000 + 0xC0000) / 1024

/-- A row with four corrections in the period is repaired, unless its bank has no spare row (R202). -/
def repairRow (n : Nat) (s : State) (k : Nat) : State :=
  let x := s.mr n
  if findD x.bankRepairs (bankOfRow k) 0 < Config.spareRows then
    ({ s with sec := { s.sec with repairs := s.sec.repairs ++ [(n, k)] } }.setMr n { x with
      softRows := insSorted x.softRows k
      bankRepairs := addAt x.bankRepairs (bankOfRow k) 1
      rowErrs := dropAt x.rowErrs k }).bump (mrPprCntAt n)
  else (s.setMr n { x with rowErrs := dropAt x.rowErrs k }).bump (mrPprExhaustCntAt n)

/-- Every row of a stack that has reached four corrections in the period is repaired as scrub goes on (R202). -/
def softRepair (s : State) (n : Nat) : State :=
  (((s.mr n).rowErrs.filter fun r => decide (4 ≤ r.2)).map (·.1)).foldl (repairRow n) s

/-- The partner's copy of block beta of stack n, in the placement ranges of the partition that owns it (R187). -/
def mirrorOf (s : State) (n beta : Nat) : Option (Nat × Nat) :=
  match partOf s (stackQuarter n) with
  | none => none
  | some p =>
    p.cfg.places.findSome? fun r =>
      if r.mirror then
        let m := scopeCount r.scope
        let stk := scopeStacks r.scope r.target
        let half := r.length / m
        let so := 1024 * beta
        match (List.range m).find? fun i => stk.getD i 0 == n with
        | none =>
          if m = 1 ∧ r.partner = n ∧ r.offset + half ≤ so ∧ so < r.offset + 2 * half then some (stk.getD 0 0, so - half) else none
        | some i =>
          let other := if m = 1 then r.partner else stk.getD (i ^^^ (m / 2)) 0
          if r.offset ≤ so ∧ so < r.offset + half then some (other, so + half)
          else if m ≠ 1 ∧ r.offset + half ≤ so ∧ so < r.offset + 2 * half then some (other, so - half) else none
      else none

/-- The scrub moves on to the next block; a pass that ends begins a new period of corrections (R201, R202, R205). -/
def scrubNext (s : State) (n : Nat) : State :=
  let v := s.reg (mrScrubStatAt n)
  let next := bits v 25 0 + 1
  let s := softRepair s n
  if next ≥ scrubEnd then
    (s.setReg (mrScrubStatAt n) ((bits v 63 32 + 1) % 2 ^ 32 * 2 ^ 32)).modMr n fun x => { x with rowErrs := [] }
  else s.setReg (mrScrubStatAt n) (v - bits v 25 0 + next)

/-- One patrol read of block beta of stack n (R201, R202). -/
def scrubBlock (s : State) (n beta : Nat) (e1 e2 c1 c2 : Ecc) : State :=
  let inStore := beta ≥ checkStoreBase / 1024
  let ok (e : Ecc) (s : State) : Bool := e != .uncorrectable && (inStore || blockOk s n beta)
  let s := noteEcc s n beta e1
  if ok e1 s then s
  else
    let s := noteEcc (s.bump (mrCheckRereadCntAt n)) n beta e2
    if ok e2 s then s
    else
      let lost (cause : Nat) (s : State) : State := logBlock (s.bump (mrScrubUncorrCntAt n)) n cause beta
      match if inStore then none else mirrorOf s n beta with
      | some (m, so2) =>
        if stackGone s m then lost 2 s
        else
          let b2 := so2 / 1024
          let r := readTwice s m b2 c1 c2
          if r.1 then (storeBlock r.2 n beta (blockBytes r.2 m b2) (storedCheck r.2 m b2)).bump (mrMirrorFixCntAt n)
          else lost 3 r.2
      | none => lost 2 s

end Sys2Proof.Machine
end

