-- ==== Sys2Proof/Machine/Held.lean ====
section
/-! DEFINITION. The held-step table of a partition, and halts (R280 to R286, R290, R291). -/

namespace Sys2Proof.Machine

/-- The spare dies of a partition that can replay: serving as spares, not named by a pending SPARE_IN, not withdrawn
(R286). -/
def replaySpares (s : State) (p : Partition) : List Nat :=
  ((List.range 16).filter fun f => bit p.qmask (fieldQuarter f)).filterMap fun f =>
    let x := s.fld f
    if 2 ≤ x.proc ∧ x.proc ≤ 4 then none else x.spare.filter fun d => (s.die d).state == 1

/-- A step digest over the groups of a GMASK (R278). -/
def stepDigest (x : Cluster) (gmask : Nat) : Nat :=
  (x.digest.foldl (fun t p => if bit gmask p.1 then t + p.2 else t) 0) % 2 ^ 64

/-- PM_REPLAY_LAST records how a held step was resolved (R291, R293). -/
def recordReplay (s : State) (q : Nat) (h : HeldStep) (outcome : Nat) : State :=
  s.setReg pmReplayLastAt (h.id * 2 ^ 48 + h.lclu % 1024 * 2 ^ 38 + q * 2 ^ 36 + outcome * 2 ^ 33 + 2 ^ 32
    + b2n h.breach * 2 ^ 22 + b2n h.run2Bad * 2 ^ 21 + b2n h.run1Bad * 2 ^ 20 + h.frame % 2 ^ 20)

/-- A partition will halt at the first tick edge from now on (R281). -/
def haltSoon (s : State) (q : Nat) : State := modPart s q fun p => if p.halted then p else { p with haltDue := true }

/-- A step is unresolved: the record is left, the outcome recorded, and UNRES applies (R291). -/
def unresolved (s : State) (q : Nat) (h : HeldStep) : State :=
  let p := partD s q
  let s := recordReplay (s.bump (pmReplayUnresCntAt (partQ p))) (partQ p) h 2
  if p.cfg.unres then haltSoon s q else s

/-- The entries of a partition's table that wait for a run are unresolved once no candidate spare is left (R286). -/
def dropHopeless (s : State) (q : Nat) : State :=
  let p := partD s q
  if (partOf s q).isSome && (replaySpares s p).isEmpty then
    (p.held.filter fun h => h.stage == 0 || h.stage == 2).foldl (fun s h =>
      unresolved (modPart s q fun p => { p with held := p.held.filter fun x => x.serial != h.serial }) q h) s
  else s

/-- A HELD outcome under REPLAY enters the held-step table, or is unresolved at once (R283, R285, R286). -/
def addHeld (s : State) (q : Nat) (h : HeldStep) : State :=
  let p := partD s q
  let h := { h with serial := p.heldSerial }
  let s := modPart s q fun p => { p with heldSerial := p.heldSerial + 1 }
  if p.held.length ≥ 64 ∨ replaySpares s p = [] then unresolved s q h
  else modPart s q fun p => { p with held := p.held ++ [h] }

/-- A suppressed action of a replay run is a breach (R288). -/
def breach (s : State) (c : Nat) : State :=
  s.modCl c fun x => { x with replay := x.replay.map fun r => { r with breach := true } }

end Sys2Proof.Machine
end

