-- ==== Sys2Proof/Machine/Cache.lean ====
section
/-! DEFINITION. The sequencer's data cache and its side of control-window coherence (R135, R196, R198). -/

namespace Sys2Proof.Machine

/-! ### Messages (R196, R215).  SUB takes the messages in the order of the table of R196, and a message that concerns
another requester names its physical cluster in SCLU (DESIGN CHOICE, log entry 41). -/

/-- GetS -/
def uGetS : Nat := 0
/-- GetM -/
def uGetM : Nat := 1
/-- PutM -/
def uPutM : Nat := 2
/-- FwdGetS -/
def uFwdGetS : Nat := 3
/-- FwdGetM -/
def uFwdGetM : Nat := 4
/-- Inv -/
def uInv : Nat := 5
/-- InvAck -/
def uInvAck : Nat := 6
/-- Data -/
def uData : Nat := 7
/-- Unblock -/
def uUnblock : Nat := 8
/-- PutAck -/
def uPutAck : Nat := 9
/-- Recall -/
def uRecall : Nat := 10

/-- The home stack of a control-window address. -/
def homeStack (a : Nat) : Nat := (a - controlBase) / 0x4000000

/-- A coherence message from a cluster to a line's home. -/
def toHome (line sub : Nat) : Packet :=
  { typ := tCoh, cls := cCtrl, sub := sub, addr := line, dsite := stackSite (homeStack line), dagt := 2 }

/-- A coherence message to physical cluster c. -/
def toCluster (c line sub : Nat) : Packet :=
  { typ := tCoh, cls := cCtrl, sub := sub, addr := line, dsite := cluSite c, dagt := cluAgent c }

/-- The set of a line: 64 sets of 8 ways (R196). -/
def cacheSet (line : Nat) : Nat := line / 64 % 64

/-- The cache's copy of a line. -/
def cached (x : Cluster) (line : Nat) : Option CacheLine := x.cache.find? fun l => l.line == line

/-- A line enters the cache, or takes its new state and content. -/
def cachePut (x : Cluster) (l : CacheLine) : Cluster :=
  { x with cache := x.cache.filter (fun m => m.line != l.line) ++ [l] }

/-- A line leaves the cache. -/
def cacheDrop (x : Cluster) (line : Nat) : Cluster := { x with cache := x.cache.filter fun m => m.line != line }

/-- A word of a line's 64 bytes. -/
def lineWord (data : Bytes) (a : Nat) : Word := BitVec.ofNat 32 (leNat ((data.drop (a % 64)).take 4))

/-- A line's bytes with a word replaced. -/
def lineWith (data : Bytes) (a : Nat) (w : Word) : Bytes :=
  data.take (a % 64) ++ leBytes 4 w.toNat ++ data.drop (a % 64 + 4)

/-- A scalar register is written; s0 ignores it (R134). -/
def writeS (x : Cluster) (d : Nat) (w : Word) : Cluster :=
  if d = 0 then x
  else if w = 0 then { x with s := dropAt x.s d }
  else { x with s := putAt x.s d w }

/-- A scalar register is read; s0 reads 0 (R134). -/
def readS (x : Cluster) (d : Nat) : Word := if d = 0 then 0 else findD x.s d 0

/-- The miss that stalls the sequencer asks for its line: it waits for the line's own writeback, makes room, and sends
GetS or GetM (R196). -/
def tryGet (s : State) (c : Nat) : State :=
  let x := s.cl c
  match x.stall with
  | some (.miss line excl _ _ _) =>
    if x.get.isSome then s
    else if x.wb.any fun w => w.1 == line then s
    else
      let ways := x.cache.filter fun l => cacheSet l.line == cacheSet line
      let want (s : State) : State :=
        sendCtrl (s.modCl c fun x => { x with get := some { line := line, excl := excl } }) c
          (toHome line (if excl then uGetM else uGetS))
      if (cached x line).isSome ∨ ways.length < 8 then want s
      else
        let r := s.drawChoice ways.length
        match ways[r.1]? with
        | none => s
        | some v =>
          if v.excl then
            if !x.wb.isEmpty then s
            else
              let s := r.2.modCl c fun x => { cacheDrop x v.line with wb := [(v.line, v.data)] }
              want (sendCtrl s c (withPayload (toHome v.line uPutM) v.data))
          else want (r.2.modCl c fun x => cacheDrop x v.line)
  | _ => s

/-- A reset's flush: every M line is written back and every line is invalidated; each waits for its PutAck as in the
writeback buffer (R196, R398). -/
def flushCache (s : State) (c : Nat) : State :=
  let ms := (s.cl c).cache.filter (·.excl)
  let s := s.modCl c fun x => { x with cache := [], wb := x.wb ++ ms.map fun l => (l.line, l.data) }
  ms.foldl (fun s l => sendCtrl s c (withPayload (toHome l.line uPutM) l.data)) s

/-- A Get whose Data and InvAcks have all arrived: the line enters the cache, the access that missed completes, and the
home hears Unblock (R196, R198).  A poisoned line enters as zeros.  In the absorb window of a reset it is flushed at once. -/
def finishGet (s : State) (c : Nat) : State :=
  let x := s.cl c
  match x.get with
  | none => s
  | some g =>
    match g.data, g.acksWant with
    | some data, some k =>
      if g.acksGot < k then s
      else
        let x := { x with get := none }
        let x := match x.stall with
          | some (.miss line _ d a store) =>
            if line = g.line then
              let x := match store with
                | some w => cachePut x ⟨line, true, lineWith data a w⟩
                | none => writeS (cachePut x ⟨line, g.excl, data⟩) d (lineWord data a)
              { x with stall := none, readyClk := max x.readyClk (cluClk s c + 1) }
            else cachePut x ⟨g.line, g.excl, data⟩
          | _ => cachePut x ⟨g.line, g.excl, data⟩
        let s := sendCtrl (s.setCl c x) c (toHome g.line uUnblock)
        checkEnd (if x.absorbing then flushCache s c else s) c
    | _, _ => s

/-- The cluster and packet at the head of a region's ejection buffer, for a coherence message of kind sub. -/
def serveCoh (r : RegionId) (sub : Nat) (f : Nat → Packet → State → State) (s : State) : Res :=
  serve (portOfRegion r) (fun p => p.typ == tCoh && p.sub == sub) (fun p s =>
    match agentClu p.dsite p.dagt with
    | none => s
    | some c => f c p s) s

/-- The content of a line that a cluster holds in M or in its writeback buffer. -/
def ownedData (x : Cluster) (line : Nat) : Option Bytes :=
  match cached x line with
  | some l => if l.excl then some l.data else none
  | none => (x.wb.find? fun w => w.1 == line).map (·.2)

/-- COH_FWDGETS: the owner sends the line to the requester and to the home, and keeps it in S (R196, R198). -/
def execCohFwdgets (r : RegionId) (s : State) : Res :=
  serveCoh r uFwdGetS (fun c p s =>
    match ownedData (s.cl c) p.addr with
    | none => s
    | some d =>
      let s := s.modCl c fun x => { x with cache := x.cache.map fun l => if l.line = p.addr then { l with excl := false } else l }
      sendCtrl (sendCtrl s c (withPayload (toCluster p.sclu p.addr uData) d)) c (withPayload (toHome p.addr uData) d)) s

/-- COH_FWDGETM: the owner sends the line to the requester and goes to I; a line in the writeback buffer stays there
(R196, R198). -/
def execCohFwdgetm (r : RegionId) (s : State) : Res :=
  serveCoh r uFwdGetM (fun c p s =>
    match ownedData (s.cl c) p.addr with
    | none => s
    | some d => sendCtrl (s.modCl c fun x => cacheDrop x p.addr) c (withPayload (toCluster p.sclu p.addr uData) d)) s

/-- COH_INV: the sharer drops the line and answers InvAck to the requester, or to the home for an atomic or an eviction
(RTAG 1), even when it no longer holds it (R196). -/
def execCohInv (r : RegionId) (s : State) : Res :=
  serveCoh r uInv (fun c p s =>
    sendCtrl (s.modCl c fun x => cacheDrop x p.addr) c
      (if p.rtag = 1 then toHome p.addr uInvAck else toCluster p.sclu p.addr uInvAck)) s

/-- COH_RECALL: the owner returns the line to the home and goes to I (R196, R198, R199). -/
def execCohRecall (r : RegionId) (s : State) : Res :=
  serveCoh r uRecall (fun c p s =>
    match ownedData (s.cl c) p.addr with
    | none => s
    | some d => sendCtrl (s.modCl c fun x => cacheDrop x p.addr) c (withPayload (toHome p.addr uData) d)) s

/-- COH_PUTACK: the writeback buffer is free; a miss that waited for it goes on (R196). -/
def execCohPutack (r : RegionId) (s : State) : Res :=
  serveCoh r uPutAck (fun c p s =>
    tryGet (s.modCl c fun x => { x with wb := x.wb.filter fun w => w.1 != p.addr }) c) s

/-- Data reaches a requester (R196). -/
def dataAtCache (c : Nat) (p : Packet) (s : State) : State :=
  match (s.cl c).get with
  | some g =>
    if g.line = p.addr then
      finishGet (s.modCl c fun x => { x with get := some { g with data := some p.payload, acksWant := some p.acks } }) c
    else s
  | none => s

/-- An InvAck reaches a requester (R196). -/
def ackAtCache (c : Nat) (p : Packet) (s : State) : State :=
  match (s.cl c).get with
  | some g =>
    if g.line = p.addr then finishGet (s.modCl c fun x => { x with get := some { g with acksGot := g.acksGot + 1 } }) c
    else s
  | none => s

end Sys2Proof.Machine
end

