-- ==== Sys2Proof/Machine/HomeAgent.lean ====
section
/-! DEFINITION. The home of a control window: directory, transactions, forwards, atomics (R196 to R200). -/

namespace Sys2Proof.Machine

/-- Line of an address. -/
def lineOf (a : Nat) : Nat := a / 64 * 64

/-- Stack-local offset of a control-window address (R182). -/
def windowOff (a : Nat) : Nat := (a - controlBase) % 0x4000000

/-- Is the request an atomic? -/
def isAtom (p : Packet) : Bool := p.typ == tAtom

/-- The physical cluster that sent a packet. -/
def senderClu (p : Packet) : Nat := (agentClu p.ssite p.sagt).getD 1024

/-- Is a transaction of a line in progress, or is a request for it waiting on an eviction (R197, R199)? -/
def lineBusy (x : Stack) (line : Nat) : Bool :=
  x.txs.any fun t => t.line == line || (t.evict && lineOf t.req.addr == line)

/-- The directory entry of a line. -/
def dirOf (x : Stack) (line : Nat) : Option DirEntry := x.dir.find? fun e => e.line == line

/-- A directory entry is set and becomes the most recently used. -/
def dirPut (x : Stack) (line : Nat) (owner : Option Nat) (sharers : List Nat) : Stack :=
  { x with dir := x.dir.filter (fun e => e.line != line) ++ [{ line := line, owner := owner, sharers := sharers, used := x.tick }]
           tick := x.tick + 1 }

/-- A line goes to I. -/
def dirDrop (x : Stack) (line : Nat) : Stack := { x with dir := x.dir.filter fun e => e.line != line }

/-- The clusters to which an Inv goes (R199): up to 8 sharers exactly, more by groups of 16 logical clusters of the
home's partition; never the requester itself. -/
def invTargets (s : State) (n : Nat) (sharers : List Nat) (but : Nat) : List Nat :=
  let all :=
    if sharers.length ≤ 8 then sharers
    else
      let groups := (sharers.filterMap fun c => (logicalOfClu s c).map (· / 16)).eraseDups
      let m := qmaskOf s (stackQuarter n)
      (groups.flatMap fun g => (List.range 16).filterMap fun i => cluOfLogical s (16 * g + i)).filter fun c =>
        bit m (cluQuarter c)
  all.filter (· != but)

/-- Messages to several clusters. -/
def sendEach (s : State) (n : Nat) (cs : List Nat) (p : Nat → Packet) : State :=
  cs.foldl (fun s c => injectMr s n 2 (p c)) s

/-- Data from the home: the line's content, poisoned when its block is, with the InvAcks to expect (R196, R192). -/
def sendLine (s : State) (n c line acks : Nat) : State :=
  let r := partialRead s n (windowOff line) 64
  let p := toCluster c line uData
  injectMr r.2 n 2 { (match r.1 with | some d => withPayload p d | none => withPoison p 64) with acks := acks }

/-- The reply of an atomic: to a manager that carries an operator's access as REG it goes as REG_RSP (R200, R232). -/
def atomReply (p : Packet) : Packet :=
  if p.ssite ≥ 384 ∧ p.sagt = 5 then { replyTo p tRegRsp sOk with sub := p.sub } else replyTo p tAtomRsp sOk

/-- The answer of an atomic: the word found, or a poisoned reply; poison on the block writes nothing (R192, R200).  The
write of a host is carried as an ATOM of SUB 1 with its bytes (DESIGN CHOICE, log entry 57). -/
def doAtomic (s : State) (n : Nat) (p : Packet) : State :=
  if p.sub = 1 then injectMr (partialWrite s n (windowOff p.addr) p.payload) n 2 (withPayload (atomReply p) (zeros 8))
  else
  let r := partialRead s n (windowOff p.addr) 8
  match r.1 with
  | none => injectMr r.2 n 2 (withPoison (atomReply p) 8)
  | some old =>
    let s := if old = p.payload.take 8 then partialWrite r.2 n (windowOff p.addr) ((p.payload.drop 8).take 8) else r.2
    injectMr s n 2 (withPayload (atomReply p) old)

/-- Service of a Get whose line has, or has been given, a place in the directory (R196 to R199). -/
def serveGet (s : State) (n : Nat) (p : Packet) : State :=
  let line := lineOf p.addr
  let c := senderClu p
  let e := (dirOf (s.mr n) line).getD { line := line, owner := none, sharers := [], used := 0 }
  let tx (need : Bool) (x : Stack) : Stack :=
    { x with txs := x.txs ++ [{ line := line, req := p, kind := 0, needData := need }] }
  match e.owner with
  | some o =>
    if o ≠ c then
      let m := p.sub == uGetM
      let s := s.modMr n fun x =>
        let x := dirPut x line (if m then some c else none) (if m then [] else [o, c])
        { tx (!m) x with fwd := x.fwd ++ [(line, o)] }
      injectMr s n 2 { toCluster o line (if m then uFwdGetM else uFwdGetS) with sclu := c }
    else sendLine (s.modMr n fun x => tx false (dirPut x line (if p.sub = uGetM then some c else none) (if p.sub = uGetM then [] else [c]))) n c line 0
  | none =>
    if p.sub = uGetM then
      let inv := invTargets s n e.sharers c
      let s := s.modMr n fun x => tx false (dirPut x line (some c) [])
      sendLine (sendEach s n inv fun d => { toCluster d line uInv with sclu := c }) n c line inv.length
    else sendLine (s.modMr n fun x => tx false (dirPut x line none (e.sharers.filter (· != c) ++ [c]))) n c line 0

/-- The directory set of a line (R199): 1,024 sets of 16 ways. -/
def dirSet (line : Nat) : Nat := line / 64 % 1024

/-- The least recently used entry of a full set that no transaction holds. -/
def dirVictim (x : Stack) (line : Nat) : Option DirEntry :=
  (x.dir.filter fun e => dirSet e.line == dirSet line && !lineBusy x e.line).foldl
    (fun m e => match m with | none => some e | some v => if e.used < v.used then some e else some v) none

/-- The line is taken away from its holders: Recall to the owner, or Inv to the sharers with the InvAcks to the home
(R199, R200); the transaction waits for them. -/
def revoke (s : State) (n : Nat) (e : DirEntry) (req : Packet) (evict : Bool) : State :=
  match e.owner with
  | some o =>
    injectMr (s.modMr n fun x => { x with txs := x.txs ++ [{ line := e.line, req := req, kind := 2, evict := evict }] }) n 2
      (toCluster o e.line uRecall)
  | none =>
    let inv := invTargets s n e.sharers 1024
    sendEach (s.modMr n fun x =>
      { x with txs := x.txs ++ [{ line := e.line, req := req, kind := 1, acks := inv.length, evict := evict }] }) n inv
      fun d => { toCluster d e.line uInv with rtag := 1 }

/-- A request takes its line: an atomic on a line nobody holds is carried out at once, a Get may need an entry evicted
first (R197, R199, R200). -/
def startReq (s : State) (n : Nat) (p : Packet) : State :=
  let line := lineOf p.addr
  let x := s.mr n
  match dirOf x line with
  | some e => if isAtom p then revoke s n e p false else serveGet s n p
  | none =>
    if isAtom p then doAtomic s n p
    else if (x.dir.countP fun e => dirSet e.line == dirSet line) < 16 then serveGet s n p
    else
      match dirVictim x line with
      | some v => revoke (s.bump (mrDirRecallCntAt n)) n v p true
      | none => s.modMr n fun x => { x with waits := x.waits ++ [p] }

/-- Requests that wait for lines that are now idle are taken, each in its turn; k at most (R197). -/
def nextReqs (n : Nat) : Nat → State → State
  | 0, s => s
  | k + 1, s =>
    let x := s.mr n
    match x.waits.find? fun p => !lineBusy x (lineOf p.addr) with
    | none => s
    | some p => nextReqs n k (startReq (s.setMr n { x with waits := x.waits.erase p }) n p)

/-- Every request that waits for a line that is now idle is taken (R197). -/
def nextReq (s : State) (n : Nat) : State := nextReqs n (s.mr n).waits.length s

/-- Requests of the host, JTAG and the transport that hold one of the 128 shared slots (R197). -/
def sharedHeld (x : Stack) : Nat :=
  (x.waits.countP fun p => isAtom p && p.ssite ≥ 384) + x.txs.countP fun t => isAtom t.req && t.req.ssite ≥ 384

/-- The first edge die that holds a request back for a home. -/
def holderFor (s : State) (n : Nat) : Option (Nat × Packet) :=
  (List.range 16).findSome? fun e => ((s.edge e).held.find? fun p => p.dsite == stackSite n).map (e, ·)

/-- Requests held back at the edge dies set out again as far as the home has shared slots free; k at most (R197). -/
def releaseHeld (n : Nat) : Nat → State → State
  | 0, s => s
  | k + 1, s =>
    match holderFor s n with
    | none => s
    | some (e, p) => releaseHeld n k (injectEdge (s.modEdge e fun x => { x with held := x.held.erase p }) e p.sagt p)

/-- A request that finds no shared slot free goes back to its edge die and is held there (R197; DESIGN CHOICE, log entry
135). -/
def holdBack (s : State) (p : Packet) : State := s.modEdge (p.ssite - 384) fun x => { x with held := x.held ++ [p] }

/-- A request arrives: it waits behind its line's transaction, or takes the line (R197). -/
def homeRequest (s : State) (n : Nat) (p : Packet) : State :=
  let x := s.mr n
  if lineBusy x (lineOf p.addr) || x.waits.any (fun w => lineOf w.addr == lineOf p.addr) then
    (s.setMr n { x with waits := x.waits ++ [p] }).bump (mrCohPendCntAt n)
  else startReq s n p

/-- A line's transaction ends: deferred PutAcks go out, a revoked line goes to I and its atomic or the request that
needed its entry proceeds, and the next waiting request is taken (R197 to R200). -/
def endTx (s : State) (n : Nat) (t : HomeTx) : State :=
  let x := s.mr n
  let acks := x.putAcks.filter fun a => a.1 == t.line
  let s := s.setMr n { x with
    txs := x.txs.erase t
    putAcks := x.putAcks.filter fun a => a.1 != t.line
    fwd := x.fwd.filter fun a => a.1 != t.line }
  let s := acks.foldl (fun s a => injectMr s n 2 (toCluster a.2 t.line uPutAck)) s
  let s :=
    if t.kind = 0 then s
    else
      let s := s.modMr n fun x => dirDrop x t.line
      if t.evict then startReq s n t.req else doAtomic s n t.req
  let s := nextReq s n
  releaseHeld n (128 - sharedHeld (s.mr n)) s

/-- The transaction of a line. -/
def txOf (x : Stack) (line : Nat) : Option HomeTx := x.txs.find? fun t => t.line == line

/-- The coherence message or atomic at the head of router n's ejection buffer. -/
def serveHome (st : StackId) (want : Packet → Bool) (f : Packet → State → State) (s : State) : Res :=
  serve (portOfStack st) want f s

/-- COH_GETS (R197) -/
def execCohGets (st : StackId) (s : State) : Res :=
  serveHome st (fun p => p.typ == tCoh && p.sub == uGetS) (fun p s => homeRequest s st p) s

/-- COH_GETM (R197, R198) -/
def execCohGetm (st : StackId) (s : State) : Res :=
  serveHome st (fun p => p.typ == tCoh && p.sub == uGetM) (fun p s => homeRequest s st p) s

/-- PutAck now, or once the line's transaction ends when the home has a forward or a Recall out to that cache (R198). -/
def putAckOrDefer (s : State) (n line c : Nat) : State :=
  let x := s.mr n
  let recalled := match txOf x line with | some t => t.kind == 2 | none => false
  if x.fwd.contains (line, c) || recalled then s.setMr n { x with putAcks := x.putAcks ++ [(line, c)] }
  else injectMr s n 2 (toCluster c line uPutAck)

/-- COH_PUTM: the recorded owner's line is written back and its entry ends; a stale one is discarded (R198). -/
def execCohPutm (st : StackId) (s : State) : Res :=
  serveHome st (fun p => p.typ == tCoh && p.sub == uPutM) (fun p s =>
    let c := senderClu p
    let x := s.mr st
    if (match dirOf x p.addr with | some e => e.owner == some c | none => false) then
      let recalled := match txOf x p.addr with | some t => t.kind == 2 | none => false
      let s := partialWrite s st (windowOff p.addr) p.payload
      putAckOrDefer (if recalled then s else s.modMr st fun x => dirDrop x p.addr) st p.addr c
    else putAckOrDefer (s.bump (mrPutmStaleCntAt st)) st p.addr c) s

/-- Data at the home: the owner's writeback under FwdGetS, or the line it was recalled (R196, R199, R200). -/
def dataAtHome (n : Nat) (p : Packet) (s : State) : State :=
  match txOf (s.mr n) p.addr with
  | none => s
  | some t =>
    if t.kind = 2 then endTx (partialWrite s n (windowOff p.addr) p.payload) n t
    else if t.needData then
      let s := partialWrite s n (windowOff p.addr) p.payload
      if t.acks = 1 then endTx s n t
      else s.modMr n fun x => { x with txs := x.txs.map fun u => if u = t then { u with needData := false } else u }
    else s

/-- An InvAck at the home (R199, R200). -/
def ackAtHome (n : Nat) (p : Packet) (s : State) : State :=
  match txOf (s.mr n) p.addr with
  | none => s
  | some t =>
    if t.kind ≠ 1 then s
    else if t.acks ≤ 1 then endTx s n t
    else s.modMr n fun x => { x with txs := x.txs.map fun u => if u = t then { u with acks := u.acks - 1 } else u }

/-- COH_INVACK: an InvAck reaches a requester or the home (R196). -/
def execCohInvack (p : AgentPort) (s : State) : Res :=
  match p with
  | .region r => serveCoh r uInvAck ackAtCache s
  | .router n => serveHome n (fun p => p.typ == tCoh && p.sub == uInvAck) (ackAtHome n) s
  | .edge _ => .next s

/-- COH_DATA: line data reaches a requester or the home (R196). -/
def execCohData (p : AgentPort) (s : State) : Res :=
  match p with
  | .region r => serveCoh r uData dataAtCache s
  | .router n => serveHome n (fun p => p.typ == tCoh && p.sub == uData) (dataAtHome n) s
  | .edge _ => .next s

/-- COH_UNBLOCK: the requester holds the line and the transaction ends (R196, R198); under FwdGetS it ends once the
owner's writeback is in the DRAM copy too, and an Unblock that comes first is noted. -/
def execCohUnblock (st : StackId) (s : State) : Res :=
  serveHome st (fun p => p.typ == tCoh && p.sub == uUnblock) (fun p s =>
    match txOf (s.mr st) p.addr with
    | none => s
    | some t =>
      if t.needData then
        s.modMr st fun x => { x with txs := x.txs.map fun u => if u = t then { u with acks := 1 } else u }
      else endTx s st t) s

/-- ATOM: a compare-and-swap of the host or the transport reaches the home; with no shared slot free it is held back at its
edge die (R197, R200). -/
def execAtom (st : StackId) (s : State) : Res :=
  serveHome st (fun p => p.typ == tAtom && p.ssite ≥ 384) (fun p s =>
    if sharedHeld (s.mr st) < 128 then homeRequest s st p else holdBack s p) s

/-- COMMIT_CAS: a COMMIT's compare-and-swap reaches the home (R154, R200). -/
def execCommitCas (st : StackId) (s : State) : Res :=
  serveHome st (fun p => p.typ == tAtom && p.ssite < 384) (fun p s => homeRequest s st p) s

end Sys2Proof.Machine
end

