-- ==== Sys2Proof/Machine/Views.lean ====
section
/-! DEFINITION. What the registers of a cluster, its units and its die keeper read, where the value follows from the rest
of the state (R40, R41, R130, R159, R178, R253). -/

namespace Sys2Proof.Machine

/-- SEQ_STAT.STATE (R159). -/
def SeqState.code : SeqState → Nat
  | .idle => 0 | .run => 1 | .handler => 2 | .ended => 3 | .trapped => 4 | .waitEdge => 5

/-- The flags of SEQ_GRP_FLAGS (R159). -/
def grpFlagsView (x : Cluster) : Nat := (x.grpFlags.map fun p => p.2 % 8 * 2 ^ (3 * p.1)).sum

/-- The entry whose image logical cluster l takes: the one that names it, else the one for all others; an image whose
digest failed is none (R305, R309). -/
def schedFor (cfg : StreamCfg) (l : Nat) : Option SchedEntry :=
  ((cfg.scheds.find? fun e => e.clu == l).orElse fun _ => cfg.scheds.find? fun e => e.clu == 0x3FF).filter fun e => !e.image.isEmpty

/-- The schedule entry of the image a cluster runs (R139, R287). -/
def schedOf (s : State) (c : Nat) : Option SchedEntry :=
  match cfgOf s (cluQuarter c) with
  | none => none
  | some cfg =>
    match (s.cl c).replay with
    | some r => schedFor cfg r.orig
    | none => (logicalOfClu s c).bind (schedFor cfg)

/-- n little-endian bytes of an image at offset o. -/
def imageNat (e : SchedEntry) (o n : Nat) : Nat := leNat ((e.image.drop o).take n)

/-- The word offset of the handler of queue q in an image; 0 for none (R139). -/
def handlerOf (e : SchedEntry) (q : Nat) : Nat := imageNat e (0x80 + 2 * q) 2

/-- SEQ_BOOT as it reads: STATE is FETCHING from the receipt of the digest to the verdict (R379, R392). -/
def seqBootView (s : State) (c : Nat) : Nat :=
  let v := s.reg (seqBootAt c)
  if rgnRuns s (cluRgn c) && (s.cl c).fwDigest.isSome && !(s.cl c).fwOk && v % 4 != 3 then v / 4 * 4 + 1 else v

/-- A register of a SEQ_ block. -/
def seqView (s : State) (c off : Nat) : Nat :=
  let x := s.cl c
  if off = 0 then x.dq.length * 2 ^ 8 + x.seq.code
  else if off = 0x18 then match schedOf s c with | some e => imageNat e 4 4 | none => 0
  else if 0x100 ≤ off ∧ off < 0x140 then findD x.grpCnt ((off - 0x100) / 4) 0
  else if off = 0x140 then grpFlagsView x
  else if off = seqBootAt c - seqBlk c then seqBootView s c
  else if off = seqDqFullCntAt c - seqBlk c then s.reg (seqBlk c + off) + (if x.stallOpen then cluClk s c - x.stallAt else 0)
  else s.reg (seqBlk c + off)

/-- A register of an SE_ block; its wait counters include the waits that have not ended. -/
def seView (s : State) (c off : Nat) : Nat :=
  if off = 0 then (s.cl c).wtags.length * 2 ^ 16 + (s.cl c).rtags.length
  else s.reg (seBlk c + off) +
    (if seBlk c + off = seInflightFullCntAt c then waitSoFar s c 1
      else if seBlk c + off = seWrFullCntAt c then waitSoFar s c 2
      else if seBlk c + off = seCreditWaitCntAt c then waitSoFar s c 3 else 0)

/-- A register of a QUE_ block (R174, R178). -/
def queView (s : State) (c off : Nat) : Nat :=
  let x := s.cl c
  if off < 0x200 then
    match entries (queueOf x (off / 8)), declOf s c (off / 8) with
    | m :: _, some d => entryHigh d m * 2 ^ 32 + entryLow d m
    | _, _ => 0
  else if off < 0x300 then
    let q := (off - 0x200) / 4
    let y := queueOf x q
    b2n (declOf s c q).isSome * 2 ^ 31 + b2n (match schedOf s c with | some e => handlerOf e q != 0 | none => false) * 2 ^ 30
      + y.msgs.length * 2 ^ 16 + (y.msgs.countP fun m => m.stage == 1) * 2 ^ 8 + (entries y).length
  else if off = 0x300 then x.gen
  else s.reg (queBlk c + off)

/-- A register of an SHP_ block: of cluster c, or of edge die c − 1024 (R253). -/
def shpView (s : State) (c off : Nat) : Nat :=
  if off < 0x30 then
    let k := off / 16
    if 1024 ≤ c ∧ k ≠ 0 then 0
    else
      let b := if 1024 ≤ c then bucketOfEdge (c - 1024) else bucketOf c k
      if off % 16 < 8 then (s.bucket b).depth * 2 ^ 32 + (s.bucket b).rate else ofSigned 64 (balance s b)
  else if 1024 ≤ c ∧ off ≠ 0x100 then 0
  else s.reg (shpBlk c + off) +
    (if 1024 ≤ c then (match (s.bucket (bucketOfEdge (c - 1024))).waitAt with | some t => s.fab - t | none => 0)
      else if off % 8 = 0 ∧ 0x100 ≤ off ∧ off < 0x118 then
        (match (s.bucket (bucketOf c ((off - 0x100) / 8))).waitAt with | some t => cluClk s c - t | none => 0)
      else 0)

/-- A register of a UNIT_ block (R88, R130). -/
def unitView (s : State) (u off : Nat) : Nat :=
  let s := atPresent s u
  if off = unitSpadStatAt u - unitBlk u then spadStatView s u
  else if off = unitSrOrdAt u - unitBlk u then (lposOf s u).getD 0 * 2 ^ 20 + (s.un u).ord % 2 ^ 20
  else if unitSpadDivAt u 0 - unitBlk u ≤ off ∧ off < unitSpadDivAt u 8 - unitBlk u then
    spadDivView s u ((off - (unitSpadDivAt u 0 - unitBlk u)) / 4)
  else if unitSpadTagAt u 0 - unitBlk u ≤ off ∧ off < unitSpadTagAt u 96 - unitBlk u then
    spadTagView s u ((off - (unitSpadTagAt u 0 - unitBlk u)) / 8)
  else s.reg (unitBlk u + off)

/-- GT_TICK of a partition; 0 of none (R41, R45). -/
def tickView (p : Option Partition) : Nat :=
  match p with | some p => b2n p.tick * 2 ^ 31 + p.cfg.period % 2 ^ 14 | none => 0

/-- GT_FRAME of a partition (R45, R47). -/
def frameView (p : Option Partition) : Nat := match p with | some p => frameIndex p | none => 0

/-- GT_STAT of a die keeper (R36, R38): a keeper sees no 1PPS edge, so PPS_OK reads 0. -/
def keeperStatView (s : State) (site : Nat) : Nat :=
  let k := s.keeper site
  let heard := match k.beaconAt with | some b => s.fab ≤ b + 2000000 | none => false
  b2n k.freeRun * 8 + b2n k.src * 4 + b2n (k.delay.isSome && heard)

/-- A register of a die keeper's GT_ block, as a requester sees it (R40, R41, R509). -/
def keeperView (s : State) (site req off : Nat) : Nat :=
  let snap := findD (s.keeper site).snap req 0
  if off = 0 then nsAt s site % 1000000000
  else if off = 4 then snap % 2 ^ 32
  else if off = 8 then snap / 2 ^ 32
  else if off = 0x38 then keeperStatView s site
  else if off = 0x40 then tickView (partOf s (siteQuarter site))
  else if off = 0x48 then frameView (partOf s (siteQuarter site))
  else if off = 0x100 then s.reg (keeperGtBlk site + off)
  else 0

/-- A read of GT_NSEC latches the seconds, 48 bits of them, for the requester (R35, R40, R41). -/
def latchSeconds (s : State) (site req : Nat) : State :=
  s.modKeeper site fun k => { k with snap := putAt k.snap req (nsAt s site / 1000000000 % 2 ^ 48) }

/-- The 32-bit word at offset off of a table's block, whose 64-bit registers are read in two words. -/
def wordOf (rows : List RegRow) (view : Nat → Nat) (off : Nat) : Nat :=
  match rowAtOff rows off with
  | none => 0
  | some r =>
    let b := rowStart r off
    bits (view b) (8 * (off - b) + 31) (8 * (off - b))

/-- A write of a 32-bit word changes the RW bits of the register it lies in (R5, R8). -/
def writeRwWord (s : State) (rows : List RegRow) (blk off v : Nat) : State :=
  match rowAtOff rows off with
  | none => s
  | some r =>
    let b := rowStart r off
    let sh := 8 * (off - b)
    let mask := bits r.rw (sh + 31) sh
    let old := s.reg (blk + b)
    let word := bits old (sh + 31) sh
    s.setReg (blk + b) (putBits old (sh + 31) sh ((word &&& (0xFFFFFFFF ^^^ mask)) ||| (v &&& mask)))

end Sys2Proof.Machine
end

