-- ==== Sys2Proof/Machine/Sequencer.lean ====
section
/-! DEFINITION. The cluster sequencer: LVS words, their execution, traps, handler slots, dispatch and waits (R131 to R144,
R153, R154). -/

namespace Sys2Proof.Machine

/-! ### LVS words (R137, R138) -/

/-- A word of form A. -/
def lvsA (fn : Nat) (d a b : SReg) : Nat := d.val * 2 ^ 20 + a.val * 2 ^ 14 + b.val * 2 ^ 8 + fn
/-- A word of form B. -/
def lvsB (op : Nat) (d a : SReg) (imm : Imm14) : Nat := op * 2 ^ 26 + d.val * 2 ^ 20 + a.val * 2 ^ 14 + imm.toNat
/-- A word of form C. -/
def lvsC (op : Nat) (d : SReg) (imm : Imm20) : Nat := op * 2 ^ 26 + d.val * 2 ^ 20 + imm.toNat

/-- The word of an LVS instruction; none for any other command. -/
def lvsEncode : Instr → Option Nat
  | .add _ d a b => some (lvsA 0x00 d a b)
  | .sub _ d a b => some (lvsA 0x01 d a b)
  | .and _ d a b => some (lvsA 0x02 d a b)
  | .or _ d a b => some (lvsA 0x03 d a b)
  | .xor _ d a b => some (lvsA 0x04 d a b)
  | .sll _ d a b => some (lvsA 0x05 d a b)
  | .srl _ d a b => some (lvsA 0x06 d a b)
  | .sra _ d a b => some (lvsA 0x07 d a b)
  | .slt _ d a b => some (lvsA 0x08 d a b)
  | .sltu _ d a b => some (lvsA 0x09 d a b)
  | .mul _ d a b => some (lvsA 0x0A d a b)
  | .mulhu _ d a b => some (lvsA 0x0B d a b)
  | .addi _ d a i => some (lvsB 0x01 d a i)
  | .andi _ d a i => some (lvsB 0x02 d a i)
  | .ori _ d a i => some (lvsB 0x03 d a i)
  | .xori _ d a i => some (lvsB 0x04 d a i)
  | .slti _ d a i => some (lvsB 0x05 d a i)
  | .lui _ d i => some (lvsC 0x06 d i)
  | .lw _ d a i => some (lvsB 0x08 d a i)
  | .sw _ d a i => some (lvsB 0x09 d a i)
  | .beq _ d a i => some (lvsB 0x10 d a i)
  | .bne _ d a i => some (lvsB 0x11 d a i)
  | .blt _ d a i => some (lvsB 0x12 d a i)
  | .bltu _ d a i => some (lvsB 0x13 d a i)
  | .jal _ d i => some (lvsC 0x14 d i)
  | .jalr _ d a i => some (lvsB 0x15 d a i)
  | .disp _ a => some (lvsB 0x30 0 a 0)
  | .dispm _ a i => some (lvsB 0x31 0 a i)
  | .waitg _ a i => some (lvsB 0x32 0 a i)
  | .grd _ d i => some (lvsB 0x33 d 0 i)
  | .qrd _ d i => some (lvsB 0x34 d 0 i)
  | .qcnt _ d i => some (lvsB 0x35 d 0 i)
  | .hslot _ i => some (lvsB 0x36 0 0 i)
  | .hend _ => some (lvsB 0x37 0 0 0)
  | .fend _ => some (lvsB 0x38 0 0 0)
  | .csrr _ d i => some (lvsB 0x39 d 0 i)
  | .csrw _ a i => some (lvsB 0x3A 0 a i)
  | .fence _ => some (lvsB 0x3B 0 0 0)
  | _ => none

/-- A register field of a word. -/
def sreg (w lo : Nat) : SReg := Fin.ofNat 64 (w / 2 ^ lo)

/-- A form A instruction by its fn. -/
def lvsDecodeA (c : ClusterId) (w : Nat) : Option Instr :=
  let d := sreg w 20
  let a := sreg w 14
  let b := sreg w 8
  match w % 256 with
  | 0x00 => some (.add c d a b)
  | 0x01 => some (.sub c d a b)
  | 0x02 => some (.and c d a b)
  | 0x03 => some (.or c d a b)
  | 0x04 => some (.xor c d a b)
  | 0x05 => some (.sll c d a b)
  | 0x06 => some (.srl c d a b)
  | 0x07 => some (.sra c d a b)
  | 0x08 => some (.slt c d a b)
  | 0x09 => some (.sltu c d a b)
  | 0x0A => some (.mul c d a b)
  | 0x0B => some (.mulhu c d a b)
  | _ => none

/-- The instruction a word of schedule memory is, or the cause of the trap it takes: 1 for an undefined opcode or fn, 5
for a non-zero field that must be 0 (R136 to R138).  An imm field that a row reads in part is named in that part
(DEDUCED, log entry 42). -/
def lvsDecode (c : ClusterId) (w : Nat) : Except Nat Instr :=
  let d := sreg w 20
  let a := sreg w 14
  let u := w % 2 ^ 14
  let i : Imm14 := BitVec.ofNat 14 w
  let j : Imm20 := BitVec.ofNat 20 w
  let need (p : Bool) (x : Instr) : Except Nat Instr := if p then .ok x else .error 5
  match w / 2 ^ 26 % 64 with
  | 0x00 => match lvsDecodeA c w with | some x => .ok x | none => .error 1
  | 0x01 => .ok (.addi c d a i)
  | 0x02 => .ok (.andi c d a i)
  | 0x03 => .ok (.ori c d a i)
  | 0x04 => .ok (.xori c d a i)
  | 0x05 => .ok (.slti c d a i)
  | 0x06 => .ok (.lui c d j)
  | 0x08 => .ok (.lw c d a i)
  | 0x09 => .ok (.sw c d a i)
  | 0x10 => .ok (.beq c d a i)
  | 0x11 => .ok (.bne c d a i)
  | 0x12 => .ok (.blt c d a i)
  | 0x13 => .ok (.bltu c d a i)
  | 0x14 => .ok (.jal c d j)
  | 0x15 => .ok (.jalr c d a i)
  | 0x30 => need (d == 0 && u == 0) (.disp c a)
  | 0x31 => need (d == 0) (.dispm c a i)
  | 0x32 => need (d == 0 && u / 2 ^ 4 == 0) (.waitg c a i)
  | 0x33 => need (a == 0 && u / 2 ^ 4 == 0) (.grd c d i)
  | 0x34 => need (a == 0 && u / 2 ^ 6 == 0) (.qrd c d i)
  | 0x35 => need (a == 0 && u / 2 ^ 6 == 0) (.qcnt c d i)
  | 0x36 => need (d == 0 && a == 0 && u / 2 ^ 3 == 0) (.hslot c i)
  | 0x37 => need (d == 0 && a == 0 && u == 0) (.hend c)
  | 0x38 => need (d == 0 && a == 0 && u == 0) (.fend c)
  | 0x39 => need (a == 0) (.csrr c d i)
  | 0x3A => need (d == 0) (.csrw c a i)
  | 0x3B => need (d == 0 && a == 0 && u == 0) (.fence c)
  | _ => .error 1

/-! ### Execution (R131, R136, R137) -/

/-- A trap: the sequencer stops for the rest of the frame and SEQ_TRAP records it (R136, R159). -/
def trap (s : State) (c cause : Nat) : State :=
  let x := s.cl c
  let s := (s.bump (seqTrapCntAt c)).setReg (seqTrapAt c)
    (min x.pc 0xFFFC * 2 ^ 32 + cause * 2 ^ 28 + 2 ^ 27 + x.frameIdx % 2 ^ 20)
  checkEnd (s.setCl c { x with seq := .trapped, stall := none, handler := none }) c

/-- May the sequencer execute an instruction: it stalls while a coherence message of its own waits on the CTRL bucket (R131,
R243)? -/
def seqReady (s : State) (c : Nat) : Bool :=
  let x := s.cl c
  (x.seq == .run || x.seq == .handler) && x.stall.isNone && !(x.ctrlOut.any fun p => p.typ == tCoh) && rgnRuns s (cluRgn c)

/-- The word at a sequencer's pc (R131). -/
def lvsFetch (s : State) (c : Nat) : Nat := leNat (s.read (schedAt c (s.cl c).pc) 4)

/-- An LVS instruction executes when it stands at the pc of a sequencer that may execute, at the first clock its
predecessor leaves (R131); a word that is no instruction, and a pc outside schedule memory, trap (R136). -/
def lvs (c : ClusterId) (i : Instr) (f : State → State) (s : State) : Res :=
  if seqReady s c then
    let t := advClock s (cluRgn c) (s.cl c).readyClk
    if (s.cl c).pc > 0xFFFC then .next (trap t c 3)
    else
      match lvsDecode c (lvsFetch s c) with
      | .error cause => .next (trap t c cause)
      | .ok j => if j = i then .next (f t) else .next s
  else .next s

/-- The instruction has executed: the next one may execute `cost` clocks later (R137). -/
def lvsDone (s : State) (c cost : Nat) (x : Cluster) : State :=
  s.setCl c { x with pc := x.pc + 4, readyClk := cluClk s c + cost }

/-- A result is written to d. -/
def lvsWrite (c : ClusterId) (d : SReg) (cost : Nat) (v : Word) (s : State) : State :=
  lvsDone s c cost (writeS (s.cl c) d v)

/-- A register of cluster c. -/
def lvsReg (s : State) (c : ClusterId) (a : SReg) : Word := readS (s.cl c) a

/-- A form A operation. -/
def lvsOp3 (i : Instr) (c : ClusterId) (d a b : SReg) (cost : Nat) (f : Word → Word → Word) (s : State) : Res :=
  lvs c i (fun t => lvsWrite c d cost (f (lvsReg t c a) (lvsReg t c b)) t) s

/-- A form B operation on a and the immediate. -/
def lvsOpI (i : Instr) (c : ClusterId) (d a : SReg) (f : Word → Word) (s : State) : Res :=
  lvs c i (fun t => lvsWrite c d 1 (f (lvsReg t c a)) t) s

/-- 1 for true. -/
def flagWord (b : Bool) : Word := if b then 1 else 0

/-- pc goes to a target; one outside schedule memory traps (R136, R137). -/
def lvsGoto (s : State) (c : ClusterId) (target : Int) (x : Cluster) : State :=
  if 0 ≤ target ∧ target < 0x10000 then s.setCl c { x with pc := target.toNat, readyClk := cluClk s c + 2 }
  else trap (s.setCl c x) c 3

/-- ADD (R137) -/
def execAdd (c : ClusterId) (d a b : SReg) (s : State) : Res := lvsOp3 (.add c d a b) c d a b 1 (fun x y => x + y) s
/-- SUB (R137) -/
def execSub (c : ClusterId) (d a b : SReg) (s : State) : Res := lvsOp3 (.sub c d a b) c d a b 1 (fun x y => x - y) s
/-- AND (R137) -/
def execAnd (c : ClusterId) (d a b : SReg) (s : State) : Res := lvsOp3 (.and c d a b) c d a b 1 (fun x y => x &&& y) s
/-- OR (R137) -/
def execOr (c : ClusterId) (d a b : SReg) (s : State) : Res := lvsOp3 (.or c d a b) c d a b 1 (fun x y => x ||| y) s
/-- XOR (R137) -/
def execXor (c : ClusterId) (d a b : SReg) (s : State) : Res := lvsOp3 (.xor c d a b) c d a b 1 (fun x y => x ^^^ y) s
/-- SLL: the count is b[4:0] (R137). -/
def execSll (c : ClusterId) (d a b : SReg) (s : State) : Res :=
  lvsOp3 (.sll c d a b) c d a b 1 (fun x y => x <<< (y.toNat % 32)) s
/-- SRL (R137) -/
def execSrl (c : ClusterId) (d a b : SReg) (s : State) : Res :=
  lvsOp3 (.srl c d a b) c d a b 1 (fun x y => x >>> (y.toNat % 32)) s
/-- SRA (R137) -/
def execSra (c : ClusterId) (d a b : SReg) (s : State) : Res :=
  lvsOp3 (.sra c d a b) c d a b 1 (fun x y => x.sshiftRight (y.toNat % 32)) s
/-- SLT (R137) -/
def execSlt (c : ClusterId) (d a b : SReg) (s : State) : Res :=
  lvsOp3 (.slt c d a b) c d a b 1 (fun x y => flagWord (x.slt y)) s
/-- SLTU (R137) -/
def execSltu (c : ClusterId) (d a b : SReg) (s : State) : Res :=
  lvsOp3 (.sltu c d a b) c d a b 1 (fun x y => flagWord (x.ult y)) s
/-- MUL: the low 32 bits (R137). -/
def execMul (c : ClusterId) (d a b : SReg) (s : State) : Res := lvsOp3 (.mul c d a b) c d a b 3 (fun x y => x * y) s
/-- MULHU: the unsigned high 32 bits (R137). -/
def execMulhu (c : ClusterId) (d a b : SReg) (s : State) : Res :=
  lvsOp3 (.mulhu c d a b) c d a b 3 (fun x y => BitVec.ofNat 32 (x.toNat * y.toNat / 2 ^ 32)) s
/-- ADDI (R137) -/
def execAddi (c : ClusterId) (d a : SReg) (i : Imm14) (s : State) : Res :=
  lvsOpI (.addi c d a i) c d a (fun x => x + i.signExtend 32) s
/-- SLTI (R137) -/
def execSlti (c : ClusterId) (d a : SReg) (i : Imm14) (s : State) : Res :=
  lvsOpI (.slti c d a i) c d a (fun x => flagWord (x.slt (i.signExtend 32))) s
/-- ANDI: imm is zero-extended (R137). -/
def execAndi (c : ClusterId) (d a : SReg) (i : Imm14) (s : State) : Res :=
  lvsOpI (.andi c d a i) c d a (fun x => x &&& i.zeroExtend 32) s
/-- ORI (R137) -/
def execOri (c : ClusterId) (d a : SReg) (i : Imm14) (s : State) : Res :=
  lvsOpI (.ori c d a i) c d a (fun x => x ||| i.zeroExtend 32) s
/-- XORI (R137) -/
def execXori (c : ClusterId) (d a : SReg) (i : Imm14) (s : State) : Res :=
  lvsOpI (.xori c d a i) c d a (fun x => x ^^^ i.zeroExtend 32) s
/-- LUI: imm shifted left by 12 (R137). -/
def execLui (c : ClusterId) (d : SReg) (i : Imm20) (s : State) : Res :=
  lvs c (.lui c d i) (lvsWrite c d 1 (i.zeroExtend 32 <<< 12)) s

/-- A branch: a compares with d as `p` says (R137). -/
def lvsBranch (j : Instr) (c : ClusterId) (d a : SReg) (i : Imm14) (p : Word → Word → Bool) (s : State) : Res :=
  lvs c j (fun t =>
    let x := t.cl c
    if p (lvsReg t c a) (lvsReg t c d) then lvsGoto t c (x.pc + 4 * i.toInt) x else lvsDone t c 1 x) s

/-- BEQ (R137) -/
def execBeq (c : ClusterId) (d a : SReg) (i : Imm14) (s : State) : Res :=
  lvsBranch (.beq c d a i) c d a i (fun x y => x == y) s
/-- BNE (R137) -/
def execBne (c : ClusterId) (d a : SReg) (i : Imm14) (s : State) : Res :=
  lvsBranch (.bne c d a i) c d a i (fun x y => x != y) s
/-- BLT: signed (R137). -/
def execBlt (c : ClusterId) (d a : SReg) (i : Imm14) (s : State) : Res :=
  lvsBranch (.blt c d a i) c d a i (fun x y => x.slt y) s
/-- BLTU: unsigned (R137). -/
def execBltu (c : ClusterId) (d a : SReg) (i : Imm14) (s : State) : Res :=
  lvsBranch (.bltu c d a i) c d a i (fun x y => x.ult y) s

/-- JAL: d receives pc + 4; a target outside schedule memory traps after that (R136, R137). -/
def execJal (c : ClusterId) (d : SReg) (i : Imm20) (s : State) : Res :=
  lvs c (.jal c d i) (fun t =>
    let x := t.cl c
    lvsGoto t c (x.pc + 4 * i.toInt) (writeS x d (BitVec.ofNat 32 (x.pc + 4)))) s

/-- JALR: the target is a + imm with bits [1:0] cleared (R137). -/
def execJalr (c : ClusterId) (d a : SReg) (i : Imm14) (s : State) : Res :=
  lvs c (.jalr c d a i) (fun t =>
    let x := t.cl c
    let target := (lvsReg t c a + i.signExtend 32).toNat / 4 * 4
    lvsGoto t c target (writeS x d (BitVec.ofNat 32 (x.pc + 4)))) s

/-! ### Loads and stores (R135 to R137, R196) -/

/-- What a scalar address names (R135, R136): schedule memory, a control-window address, or nothing. -/
inductive ScalarPlace where
  | sched (off : Nat)
  | window (a : Nat)
  | unmapped
  deriving DecidableEq, Repr

/-- The place of a scalar address for cluster c. -/
def scalarPlace (s : State) (c a : Nat) : ScalarPlace :=
  if a < 0x10000 then .sched a
  else if 0x10000000 ≤ a ∧ a < 0x20000000 then
    let m := s.reg (seqCwmapAt c ((a - 0x10000000) / 0x4000000))
    let n := bits m 6 0
    if bit m 31 ∧ bit (qmaskOf s (cluQuarter c)) (stackQuarter n) then
      .window (controlBase + n * 0x4000000 + (a - 0x10000000) % 0x4000000)
    else .unmapped
  else .unmapped

/-- A load or store waits for its line (R196). -/
def lvsMiss (s : State) (c : ClusterId) (x : Cluster) (line : Nat) (excl : Bool) (d a : Nat) (store : Option Word) : State :=
  tryGet (s.setCl c { x with pc := x.pc + 4, readyClk := cluClk s c + 1, stall := some (.miss line excl d a store) }) c

/-- LW: from schedule memory, or through the data cache from a control window; a window of a withdrawn stack reads a
poisoned line, zeros (R135 to R137, R420). -/
def execLw (c : ClusterId) (d a : SReg) (i : Imm14) (s : State) : Res :=
  lvs c (.lw c d a i) (fun t =>
    let x := t.cl c
    let ad := (lvsReg t c a + i.signExtend 32).toNat
    if ad % 4 ≠ 0 then trap t c 2
    else
      match scalarPlace t c ad with
      | .sched o => lvsDone t c 2 (writeS x d (BitVec.ofNat 32 (leNat (t.read (schedAt c o) 4))))
      | .window w =>
        let line := lineOf w
        if stackGone t (homeStack w) then lvsDone t c 3 (writeS x d 0)
        else
          match cached x line with
          | some l => lvsDone t c 3 (writeS x d (lineWord l.data w))
          | none => lvsMiss t c x line false d w none
      | .unmapped => trap t c 3) s

/-- SW: to schedule memory, or to a line held in M; a replay run writes no control window, and one of a withdrawn stack
changes nothing (R135 to R137, R288, R420). -/
def execSw (c : ClusterId) (d a : SReg) (i : Imm14) (s : State) : Res :=
  lvs c (.sw c d a i) (fun t =>
    let x := t.cl c
    let v := lvsReg t c d
    let ad := (lvsReg t c a + i.signExtend 32).toNat
    if ad % 4 ≠ 0 then trap t c 2
    else
      match scalarPlace t c ad with
      | .sched o => lvsDone (t.write (schedAt c o) (leBytes 4 v.toNat)) c 2 x
      | .window w =>
        let line := lineOf w
        if x.replay.isSome then (let t := breach t c; lvsDone t c 3 (t.cl c))
        else if stackGone t (homeStack w) then lvsDone t c 3 x
        else
          match cached x line with
          | some l =>
            if l.excl then lvsDone t c 3 (cachePut x { l with data := lineWith l.data w v })
            else lvsMiss t c x line true 0 w (some v)
          | none => lvsMiss t c x line true 0 w (some v)
      | .unmapped => trap t c 3) s

/-! ### Dispatch (R132, R133, R138) -/

/-- A descriptor joins the dispatch queue. -/
def appendDesc (s : State) (c : Nat) (raw : BitVec 256) : State :=
  let x := s.cl c
  let d : Desc := { did := x.nextDid, raw := raw, frame := x.frame, at_ := cluClk s c, replay := x.replay.isSome }
  s.setCl c { x with nextDid := x.nextDid + 1, dq := x.dq ++ [d], live := x.live ++ [(d.did, d.grp)] }

/-- A full dispatch queue has room again, or the instruction that stalled on it is abandoned: the clocks it stalled are counted
(R132). -/
def noteRoom (s : State) (c : Nat) : State :=
  let x := s.cl c
  if x.stallOpen then
    (s.setCl c { x with stallOpen := false }).bumpBy (seqDqFullCntAt c) (cluClk s c - x.stallAt)
  else s

/-- DISP or DISPM appends its descriptor, or stalls while the queue is full (R132). -/
def dispatch (s : State) (c : ClusterId) (raw : BitVec 256) (cost : Nat) : State :=
  let x := s.cl c
  let s' := lvsDone s c cost x
  if x.dq.length ≥ 64 then
    s'.modCl c fun x => { x with stall := some (.dispatch raw), stallAt := cluClk s c, stallOpen := true }
  else appendDesc s' c raw

/-- DISP: word w of the descriptor is s[a + w] (R136, R138). -/
def execDisp (c : ClusterId) (a : SReg) (s : State) : Res :=
  lvs c (.disp c a) (fun t =>
    if a.val % 8 ≠ 0 ∨ a.val < 8 ∨ a.val > 56 then trap t c 4
    else
      let raw := ((List.range 8).map fun w => (readS (t.cl c) (a.val + w)).toNat * 2 ^ (32 * w)).sum
      dispatch t c (BitVec.ofNat 256 raw) 1) s

/-- DISPM: the descriptor is 32 bytes of schedule memory (R136, R138). -/
def execDispm (c : ClusterId) (a : SReg) (i : Imm14) (s : State) : Res :=
  lvs c (.dispm c a i) (fun t =>
    let ad := (lvsReg t c a + i.signExtend 32).toNat
    if ad % 32 ≠ 0 ∨ ad > 65504 then trap t c 5
    else dispatch t c (BitVec.ofNat 256 (leNat (t.read (schedAt c ad) 32))) 2) s

/-- DISPATCH_STALL_RELEASE: an entry has freed and the waiting descriptor enters (R132). -/
def execDispatchStallRelease (c : ClusterId) (s : State) : Res :=
  let x := s.cl c
  match x.stall with
  | some (.dispatch raw) =>
    if x.dq.length < 64 then
      let s := noteRoom s c
      .next (appendDesc (s.modCl c fun x => { x with stall := none, readyClk := max x.readyClk (cluClk s c + 1) }) c raw)
    else .next s
  | _ => .next s

/-! ### Groups, queues, registers (R138, R172, R288) -/

/-- WAITG: the sequencer stalls until a group has completed at least s[a] descriptors in this frame. -/
def execWaitg (c : ClusterId) (a : SReg) (i : Imm14) (s : State) : Res :=
  lvs c (.waitg c a i) (fun t =>
    let x := t.cl c
    let k := (lvsReg t c a).toNat
    let g := i.toNat % 16
    lvsDone t c 1 (if k ≤ findD x.grpCnt g 0 then x else { x with stall := some (.waitg g k) })) s

/-- WAITG_SATISFIED (R138) -/
def execWaitgSatisfied (c : ClusterId) (s : State) : Res :=
  let x := s.cl c
  match x.stall with
  | some (.waitg g k) =>
    when_ (decide (k ≤ findD x.grpCnt g 0)) s
      (s.setCl c { x with stall := none, readyClk := max x.readyClk (cluClk s c + 1) })
  | _ => .next s

/-- GRD (R138) -/
def execGrd (c : ClusterId) (d : SReg) (i : Imm14) (s : State) : Res :=
  lvs c (.grd c d i) (fun t => lvsWrite c d 1 (BitVec.ofNat 32 (findD (t.cl c).grpCnt (i.toNat % 16) 0)) t) s

/-- QRD takes the head entry of a queue; a replay run reads it as empty (R172, R276, R288). -/
def execQrd (c : ClusterId) (d : SReg) (i : Imm14) (s : State) : Res :=
  lvs c (.qrd c d i) (fun t =>
    if (t.cl c).replay.isSome then lvsWrite c d 2 0 ((breach t c).setReg (seqQlastAt c) 0)
    else
      let r := takeEntry t c (i.toNat % 64)
      lvsWrite c d 2 (BitVec.ofNat 32 r.1) r.2) s

/-- QCNT: complete entries waiting in a queue (R138, R288). -/
def execQcnt (c : ClusterId) (d : SReg) (i : Imm14) (s : State) : Res :=
  lvs c (.qcnt c d i) (fun t =>
    if (t.cl c).replay.isSome then lvsWrite c d 1 0 (breach t c)
    else lvsWrite c d 1 (BitVec.ofNat 32 (entries (queueOf (t.cl c) (i.toNat % 64))).length) t) s

/-- The word CSRR reads: the SEQ_ and SE_ blocks, and the die keeper's GT_ block (R138, R159, R509). -/
def csrWord (s : State) (c blk off : Nat) : Nat :=
  if blk = 0 then wordOf seqRows (seqView s c) off
  else if blk = 1 then wordOf seRows (seView s c) off
  else wordOf gtRows (keeperView s (cluSite c) c) off

/-- CSRR: an offset that is no multiple of 4, or block 0b11, traps; a read of GT_NSEC latches the seconds (R40, R138). -/
def execCsrr (c : ClusterId) (d : SReg) (i : Imm14) (s : State) : Res :=
  lvs c (.csrr c d i) (fun t =>
    let blk := i.toNat / 2 ^ 12
    let off := i.toNat % 2 ^ 12
    if blk = 3 ∨ off % 4 ≠ 0 then trap t c 5
    else
      let v := BitVec.ofNat 32 (csrWord t c blk off)
      lvsWrite c d 2 v (if blk = 2 ∧ off = 0 then latchSeconds t (cluSite c) c else t)) s

/-- CSRW: only RW fields of the SEQ_ and SE_ blocks change; the keeper's GT_ block has none (R138, R509). -/
def execCsrw (c : ClusterId) (a : SReg) (i : Imm14) (s : State) : Res :=
  lvs c (.csrw c a i) (fun t =>
    let blk := i.toNat / 2 ^ 12
    let off := i.toNat % 2 ^ 12
    let v := (lvsReg t c a).toNat
    if blk = 3 ∨ off % 4 ≠ 0 then trap t c 5
    else
      let t :=
        if blk = 0 then writeRwWord t seqRows (seqBlk c) off v
        else if blk = 1 then writeRwWord t seRows (seBlk c) off v
        else t
      lvsDone t c 1 (t.cl c)) s

/-- FENCE: the sequencer stalls until every descriptor dispatched in this frame has completed. -/
def execFence (c : ClusterId) (s : State) : Res :=
  lvs c (.fence c) (fun t =>
    let x := t.cl c
    lvsDone t c 1 (if x.live.isEmpty then x else { x with stall := some .fence })) s

/-- FENCE_SATISFIED (R138) -/
def execFenceSatisfied (c : ClusterId) (s : State) : Res :=
  let x := s.cl c
  match x.stall with
  | some .fence =>
    when_ x.live.isEmpty s (s.setCl c { x with stall := none, readyClk := max x.readyClk (cluClk s c + 1) })
  | _ => .next s

/-! ### Frames and handler slots (R142 to R144) -/

/-- FEND: the sequencer stops until the next frame; inside a handler it traps (R136, R142). -/
def execFend (c : ClusterId) (s : State) : Res :=
  lvs c (.fend c) (fun t =>
    let x := t.cl c
    if x.seq = .handler then trap t c 6 else checkEnd (t.setCl c { x with seq := .ended }) c) s

/-- The lowest queue with a handler and a complete entry. -/
def handlerQueue (x : Cluster) (e : SchedEntry) : Option Nat :=
  (List.range 64).find? fun q => handlerOf e q != 0 && !(entries (queueOf x q)).isEmpty

/-- The next handler of a slot begins, or the slot ends (R144): `ret` is the instruction after HSLOT, t0 the clock at
which the slot began, n the handlers run so far. -/
def slotNext (s : State) (c : ClusterId) (e : SchedEntry) (m ret t0 n : Nat) : State :=
  let allow := imageNat e (0x14 + 8 * m) 4
  let maxmsg := imageNat e (0x18 + 8 * m) 2
  let used := cluClk s c - t0
  match if n < maxmsg ∧ used < allow then handlerQueue (s.cl c) e else none with
  | some q =>
    let r := takeEntry s c q
    let s := r.2.bump (seqHandlerCntAt c)
    let x := writeS (writeS (s.cl c) 3 (BitVec.ofNat 32 r.1)) 4 (BitVec.ofNat 32 q)
    s.setCl c { x with seq := .handler, handler := some (q, ret, m, t0, n + 1), pc := 4 * handlerOf e q
                       readyClk := cluClk s c + 2 }
  | none =>
    let s := if used > allow then (s.bump (seqHslotOverCntAt c)).setField (seqFrameUseAt c) 2 2 1 else s
    s.modCl c fun x => { x with seq := .run, handler := none, pc := ret, readyClk := cluClk s c + 1 }

/-- HSLOT runs a handler slot once a frame; inside a handler it traps, in a replay run it does nothing (R136, R143, R144,
R288). -/
def execHslot (c : ClusterId) (i : Imm14) (s : State) : Res :=
  lvs c (.hslot c i) (fun t =>
    let x := t.cl c
    let m := i.toNat % 8
    if x.seq = .handler then trap t c 6
    else
      match schedOf t c with
      | some e =>
        if x.replay.isSome ∨ m ≥ imageNat e 0x10 4 ∨ x.slotsRun.contains m = true then lvsDone t c 1 x
        else slotNext (t.setCl c { x with slotsRun := insSorted x.slotsRun m }) c e m (x.pc + 4) (cluClk t c) 0
      | none => lvsDone t c 1 x) s

/-- HEND ends a handler, and the slot takes its next entry or ends; outside a handler it traps (R136, R138, R144). -/
def execHend (c : ClusterId) (s : State) : Res :=
  lvs c (.hend c) (fun t =>
    match (t.cl c).handler, schedOf t c with
    | some (_, ret, m, t0, n), some e => slotNext (advClock t (cluRgn c) (cluClk t c + 1)) c e m ret t0 n
    | _, _ => trap t c 6) s

/-! ### The dispatch queue (R132, R133, R153, R154) -/

/-- The head of a dispatch queue may leave it: the region's clock runs, and it leaves one clock after its dispatch at the
earliest (R133). -/
def dqHead (s : State) (c : Nat) : Option Desc :=
  match (s.cl c).dq with
  | [] => none
  | d :: _ => if rgnRuns s (cluRgn c) then some d else none

/-- The head leaves the dispatch queue, at most one a clock (R132). -/
def dqPop (s : State) (c : Nat) (d : Desc) : State :=
  let s := noteRoom (advClock s (cluRgn c) (max (d.at_ + 1) (s.cl c).dqClk)) c
  s.modCl c fun x => { x with dq := x.dq.drop 1, waiting := false, dqClk := cluClk s c + 1 }

/-- An illegal descriptor completes ERROR in the clock after its check (R146). -/
def errorNext (s : State) (c : Nat) (d : Desc) (code : Nat) : State :=
  descError (advClock s (cluRgn c) (cluClk s c + 1)) c d code

/-- A COMMIT enters the commit queue, which checks it; it waits for the descriptors of its groups dispatched before it
(R132, R146, R154). -/
def enterCommit (s : State) (c : Nat) (d : Desc) : State :=
  let s := dqPop s c d
  match illegal s c d with
  | some code => errorNext s c d code
  | none =>
    let waits := ((s.cl c).live.filter fun p => p.1 < d.did && bit (d.f 95 80) p.2).map (·.1)
    s.modCl c fun x => { x with commitQ := x.commitQ ++ [{ d := d, waits := waits }] }

/-- DISPATCH_HEAD_DEPART: the head moves to its unit queue, or a COMMIT to the commit queue, when that has room (R132). -/
def execDispatchHeadDepart (c : ClusterId) (s : State) : Res :=
  match dqHead s c with
  | none => .next s
  | some d =>
    if d.cls = 6 then .next s
    else if d.cls = 7 then when_ (decide ((s.cl c).commitQ.length < 8)) s (enterCommit s c d)
    else
      let u := 4 * c.val + d.unit
      when_ (decide ((s.un u).uq.length < 16)) s ((dqPop s c d).modUn u fun x => { x with uq := x.uq ++ [d] })

/-- COMMIT: a COMMIT at the head enters the commit queue (R154). -/
def execCommit (c : ClusterId) (s : State) : Res :=
  match dqHead s c with
  | some d => when_ (d.cls == 7 && decide ((s.cl c).commitQ.length < 8)) s (enterCommit s c d)
  | none => .next s

/-- Does a WAIT's condition hold (R153)?  A tag is the one at the start of the region clock.  FRAME_TIME is judged by the caller. -/
def waitHolds (s : State) (c : Nat) (d : Desc) : Bool :=
  let x := s.cl c
  let tag := tagFull ((atPresent s (4 * c + d.unit)).un (4 * c + d.unit)) (d.f 76 64)
  match d.cond with
  | 0 => d.f 63 40 ≤ findD x.grpCnt (d.f 39 36) 0
  | 1 => x.replay.isSome || !(entries (queueOf x (d.f 45 40))).isEmpty
  | 2 => true
  | 3 => tag
  | _ => !tag

/-- A WAIT of condition k at the head is checked, and then held there until its condition holds (R146, R153).  One with
an undefined condition is checked by any WAIT command. -/
def waitHead (k : Nat) (c : ClusterId) (s : State) : Res :=
  match dqHead s c with
  | none => .next s
  | some d =>
    if d.cls = 6 ∧ (s.cl c).waiting = false ∧ (d.cond = k ∨ d.cond > 4) then
      match illegal s c d with
      | some code => .next (errorNext (dqPop s c d) c d code)
      | none => .next ((advClock s (cluRgn c) (d.at_ + 1)).modCl c fun x => { x with waiting := true })
    else .next s

/-- WAIT GROUP_GE (R153) -/
def execWaitGroupGe (c : ClusterId) (s : State) : Res := waitHead 0 c s
/-- WAIT QUEUE_NE (R153) -/
def execWaitQueueNe (c : ClusterId) (s : State) : Res := waitHead 1 c s
/-- WAIT FRAME_TIME (R153) -/
def execWaitFrameTime (c : ClusterId) (s : State) : Res := waitHead 2 c s
/-- WAIT TAG_FULL (R153) -/
def execWaitTagFull (c : ClusterId) (s : State) : Res := waitHead 3 c s
/-- WAIT TAG_EMPTY (R153) -/
def execWaitTagEmpty (c : ClusterId) (s : State) : Res := waitHead 4 c s

/-- WAIT_SATISFIED: the condition of the WAIT at the head holds and it completes; FRAME_TIME at the frame's edge plus ARG
ns, QUEUE_NE at once in a replay run (R153, R288). -/
def execWaitSatisfied (c : ClusterId) (s : State) : Res :=
  match dqHead s c with
  | none => .next s
  | some d =>
    if d.cls = 6 ∧ (s.cl c).waiting = true ∧ waitHolds s c d = true then
      let s := if d.cond = 2 then advNs s (cluSite c) ((s.cl c).frameNs + d.f 63 40) else s
      let s := if d.cond = 1 ∧ (s.cl c).replay.isSome = true then breach s c else s
      .next (complete (dqPop s c d) c d.did stOk)
    else .next s

/-! ### Commits (R154, R278 to R285) -/

/-- SEQ_COMMIT_LAST records a COMMIT's outcome, and its counter advances (R154, R159). -/
def recordCommit (s : State) (c : Nat) (d : Desc) (outcome : Nat) : State :=
  (s.setReg (seqCommitLastAt c) (d.id * 2 ^ 48 + 2 ^ 34 + outcome * 2 ^ 32 + cluFrame s c % 2 ^ 32)).bump
    (match outcome with | 0 => seqCommitCntAt c | 1 => seqCommitMismatchCntAt c | _ => seqCommitHoldCntAt c)

/-- A COMMIT leaves the commit queue. -/
def commitPop (s : State) (c did : Nat) : State :=
  s.modCl c fun x => { x with commitQ := x.commitQ.filter fun k => k.d.did != did }

/-- Write tags that may not be taken. -/
def wtagsUsed (x : Cluster) : List Nat := (x.wtags.map (·.tag)) ++ (x.quar.filter (·.write)).map (·.tag)

/-- Read tags that may not be taken. -/
def rtagsUsed (x : Cluster) : List Nat := (x.rtags.map (·.tag)) ++ (x.quar.filter fun q => !q.write).map (·.tag)

/-- The compare-and-swap of a COMMIT is sent to the home of its record (R154, R157, R200). -/
def sendCommit (s : State) (c : Nat) (k : Commit) (susp : Bool) (tag : Nat) : State :=
  let d := k.d
  let a := d.f 75 32
  let p : Packet := { withPayload { typ := tAtom, cls := cCtrl, addr := a, dsite := stackSite (homeStack a), dagt := 2 }
    (leBytes 8 (d.f 191 128) ++ leBytes 8 (d.f 255 192)) with wtag := tag }
  let s := s.modCl c fun x => { x with
    commitQ := x.commitQ.map fun j => if j.d.did = d.did then { j with sent := true, susp := susp } else j
    wtags := x.wtags ++ [{ tag := tag, did := d.did, row := 0, sentAt := s.fab, remote := false, pkt := p }] }
  sendCtrl s c p

/-- COMMIT_EVALUATE: once the descriptors it waits for have completed, the COMMIT at the head of the queue is HELD, or its
compare-and-swap is sent; a replay run records its digest instead (R154, R280, R283, R288). -/
def execCommitEvaluate (c : ClusterId) (s : State) : Res :=
  let x := s.cl c
  match x.commitQ.find? fun k => !k.sent && k.outcome.isNone with
  | none => .next s
  | some k =>
    if k.waits.any fun d => (find? x.live d).isSome then .next s
    else
      let d := k.d
      let gm := d.f 95 80
      let susp := x.grpFlags.any fun p => bit gm p.1 && p.2 != 0
      let q := cluQuarter c
      let policy := (partD s q).cfg.policy
      match x.replay with
      | some r =>
        let mine := (partD s q).held.any fun h => h.serial == r.step && h.id == d.id && h.gmask == gm
        let r := if mine then { r with digest := stepDigest x gm, bad := r.bad || susp } else r
        .next (complete (commitPop (s.setCl c { x with replay := some r }) c d.did) c d.did stOk)
      | none =>
        if susp ∧ policy ≠ 1 then
          let s := recordCommit (commitPop s c d.did) c d 2
          let h : HeldStep := { serial := 0, id := d.id, raddr := d.f 75 32, old := BitVec.ofNat 64 (d.f 191 128)
                                new := BitVec.ofNat 64 (d.f 255 192), gmask := gm, digest := stepDigest x gm
                                lclu := (logicalOfClu s c).getD 0, frame := x.frameIdx, regs := x.s0 }
          .next (complete (if policy = 0 then addHeld s q h else haltSoon s q) c d.did stOk)
        else
          match lowestFree (wtagsUsed x) 1024 with
          | none => .next (startWait s c 2)
          | some tag =>
            let s := endWait s c 2
            let x := s.cl c
            if stackGone s (homeStack (d.f 75 32)) then
              .next (s.setCl c { x with commitQ := x.commitQ.map fun j => if j.d.did = d.did then { j with outcome := some 1 } else j })
            else .next (sendCommit s c k susp tag)

/-- An atomic's answer reaches the cluster that sent it: the write tag is free and the outcome known (R154, R157, R192). -/
def atomAtCluster (c : Nat) (p : Packet) (s : State) : State :=
  let x := s.cl c
  match x.wtags.find? fun t => t.tag == p.wtag with
  | none => s
  | some t =>
    let s := endWait s c 2
    let x := s.cl c
    let ok (k : Commit) : Bool := p.status == sOk && !p.poison && leNat (p.payload.take 8) == k.d.f 191 128
    s.setCl c { x with
      wtags := x.wtags.filter fun t => t.tag != p.wtag
      commitQ := x.commitQ.map fun k => if k.d.did = t.did then { k with outcome := some (if ok k then 0 else 1) } else k }

/-- A COMMIT whose outcome is known completes (R154). -/
def finishCommit (s : State) (c : Nat) (k : Commit) (outcome : Nat) : State :=
  let s := recordCommit (commitPop s c k.d.did) c k.d outcome
  let s := if k.susp ∧ outcome = 0 then s.bump (pmIgnoreCntAt (partQ (partD s (cluQuarter c)))) else s
  complete s c k.d.did (if outcome = 1 then stError else stOk)

end Sys2Proof.Machine
end

