-- ==== Sys2Proof/Machine/StreamEngine.lean ====
section
/-! DEFINITION. The stream engine: request generation, landing of replies and acknowledgements, completion of transfers
(R150 to R157, R165, R166, R273, R278, R288, R332). -/

namespace Sys2Proof.Machine

/-- Rows of a transfer (R150 to R152). -/
def engRows (d : Desc) : Nat :=
  match d.cls with | 4 => d.f 82 77 + 1 | 5 => d.f 146 141 + 1 | _ => d.f 139 128 + 1

/-- Class of a transfer's packets: SCHED or BULK (TC). -/
def engClass (d : Desc) : Nat := match d.cls with | 4 => d.f 59 59 | 5 => d.f 42 42 | _ => d.f 87 87

/-- Far address of row m. -/
def engAddr (d : Desc) (m : Nat) : Nat :=
  match d.cls with | 5 => d.f 107 64 + 1024 * m | _ => d.f 75 32 + m * (16 * d.f 187 160)

/-- Local slot of row m. -/
def engSlot (d : Desc) (m : Nat) : Nat :=
  (match d.cls with | 4 => d.f 76 64 | 5 => d.f 140 128 | _ => d.f 108 96) + m

/-- First local byte within the slot, and length in bytes. -/
def engCells (d : Desc) : Nat × Nat :=
  match d.cls with | 2 => (16 * d.f 114 109, 16 * (d.f 120 115 + 1)) | 3 => (16 * d.f 114 109, 16 * (d.f 120 115 + 1)) | _ => (0, 1024)

/-- Does the transfer read from afar, so that its requests hold read tags? -/
def engReads (d : Desc) : Bool := d.cls == 2 || (d.cls == 5 && d.redOp != 0)

/-- Is a replay run to suppress row m as a breach (R288)? -/
def rowBreach (s : State) (c : Nat) (d : Desc) (m : Nat) : Bool :=
  (s.cl c).replay.isSome &&
    (d.cls == 4 || (d.cls == 5 && d.redOp != 1) ||
      ((d.cls == 2 || d.cls == 3) && (engRemote d ||
        match resolve s (partD s (cluQuarter c)) (engAddr d m) false with | .mem _ => false | .spad .. => true | _ => d.cls == 3)))

/-- The record of row address a of a reduction range: stack and stack-local offset (R255). -/
def recordAt (r : RedRange) (a : Nat) : Nat × Nat :=
  let m := scopeCount r.scope
  let b := (a - r.base) / 1024
  let g := b / m
  ((scopeStacks r.scope r.target).getD ((b % m) ^^^ (fold5 g % m)) 0, r.aoff + g * (if r.width = 0 then 4096 else 8192))

/-- Where a row's request goes. -/
inductive Route where
  /-- into the fabric, to a router and agent -/
  | fabric (site agt : Nat)
  /-- over the transport -/
  | panel
  /-- the stack that would serve is withdrawn, or nothing is assigned any more: answered at once (R185, R420) -/
  | gone (withdrawn : Bool)
  deriving DecidableEq, Repr

/-- The route of row m of a transfer (R150, R185, R255, R328, R420). -/
def rowRoute (s : State) (c : Nat) (d : Desc) (m : Nat) : Route :=
  let p := partD s (cluQuarter c)
  if engRemote d then .panel
  else if d.cls = 4 then
    match cluOfLogical s (d.f 41 32) with | some t => .fabric (cluSite t) (cluAgent t) | none => .gone true
  else if d.cls = 5 then
    match redRangeOf p (engAddr d m) with
    | some r => let n := (recordAt r (engAddr d m)).1; if stackGone s n then .gone true else .fabric (stackSite n) 1
    | none => .gone false
  else
    match resolve s p (engAddr d m) false with
    | .mem h => match liveStack s h with | some n => .fabric (stackSite n) 0 | none => .gone true
    | .spad u _ => .fabric (cluSite (unitClu u)) (cluAgent (unitClu u))
    | _ => .gone false

/-- Change a descriptor in the stream engine. -/
def modEng (s : State) (c did : Nat) (f : Eng → Eng) : State :=
  s.modCl c fun x => { x with eng := mapFirst (fun e => e.d.did == did) f x.eng }

/-- A row of the engine's own unit is read, its tag mode applied (R123, R271). -/
def readRowLocal (s : State) (u : Nat) (d : Desc) (m : Nat) : Bytes × State :=
  let o := engCells d
  let slot := engSlot d m
  unitFirst (atPresent (takePort s u false) u) u fun s =>
    (spadRead s u (1024 * slot + o.1) o.2, (accesses d).foldl (fun s a => tagSlot s u a slot) s)

/-- A reply's bytes land in the engine's own unit, its tag mode applied (R122, R123). -/
def landRowLocal (s : State) (u : Nat) (d : Desc) (m : Nat) (bs : Bytes) : State :=
  let o := engCells d
  let slot := engSlot d m
  (unitFirst (atPresent (takePort s u true) u) u fun s =>
    let s := markDirty (spadWrite s u (1024 * slot + o.1) (bs.take o.2)) u slot
    ((), (accesses d).foldl (fun s a => tagSlot s u a slot) s)).2

/-- The digest of a STORE's group gains a sent row (R278). -/
def addDigest (s : State) (c : Nat) (d : Desc) (m check : Nat) : State :=
  let panel := if engRemote d then engPanel d else panelNo s
  s.modCl c fun x =>
    { x with digest := putAt x.digest d.grp ((findD x.digest d.grp 0 + srMix (check ^^^ (panel * 2 ^ 54 + engAddr d m))) % 2 ^ 64) }

/-- A row is over without a request: digested, suppressed or answered on the spot. -/
def rowOver (s : State) (c did : Nat) (suspect error : Bool) : State :=
  modEng s c did fun e => { e with sent := e.sent + 1, done := e.done + 1, suspect := e.suspect || suspect, error := e.error || error }

/-- The packet of a request row, before its class and its tags. -/
def rowPacket (s : State) (c : Nat) (d : Desc) (m : Nat) (bs : Bytes) : Packet :=
  let base : Packet := { addr := engAddr d m, rfmt := d.f 37 34, rop := d.redOp, rrm := d.f 39 38 }
  match d.cls with
  | 2 => { typ := tRd, addr := engAddr d m, mlen := d.f 120 115 }
  | 3 => withPayload { typ := tWr, addr := engAddr d m, tagm := d.f 91 90 } bs
  | 4 => withPayload { typ := tMsg, msgv := true, addr := d.f 41 32, spanel := panelNo s
                       sclu := (logicalOfClu s c).getD 0, dque := d.f 47 42, mrow := m, mlen := d.f 82 77
                       gen := (s.cl c).gen } bs
  | _ => if d.redOp = 0 then withPayload { base with typ := tRed } bs else { base with typ := tRed }

/-- A SEND takes the head segment of its channel with its first row, and its sequence number (R165, R166). -/
def takeSegment (s : State) (c : Nat) (d : Desc) : Option (Nat × Nat × OutDecl × State) :=
  let p := partD s (cluQuarter c)
  match outEntry p ((logicalOfClu s c).getD 0x3FF) (engRemote d) (engPanel d) (d.f 41 32) (d.f 47 42) with
  | none => none
  | some (i, o) =>
    match freeSegs (s.cl c) o i with
    | [] => none
    | g :: rest =>
      let seq := findD (s.cl c).outSeq i 0
      some (g, seq, o, s.modCl c fun x => { x with outFree := putAt x.outFree i rest, outSeq := putAt x.outSeq i ((seq + 1) % 65536) })

/-- The segment and sequence number of a SEND's rows: taken now for the first row, kept for the others. -/
def segmentFor (s : State) (c : Nat) (e : Eng) : Option (Nat × Nat × Bool × State) :=
  match e.seg with
  | some g =>
    let p := partD s (cluQuarter c)
    match outEntry p ((logicalOfClu s c).getD 0x3FF) (engRemote e.d) (engPanel e.d) (e.d.f 41 32) (e.d.f 47 42) with
    | some (i, o) => some (g, (findD (s.cl c).outSeq i 0 + 65535) % 65536, o.nextph, s)
    | none => some (g, 0, false, s)
  | none => (takeSegment s c e.d).map fun r => (r.1, r.2.1, r.2.2.1.nextph, modEng r.2.2.2 c e.d.did fun e => { e with seg := some r.1 })

/-- The request of row m, ready to pass the bucket: the local row is read, the tag taken, and the packet enters the
fabric (R155 to R157, R166, R278). -/
def sendRow (s : State) (c : Nat) (e : Eng) (m : Nat) (route : Route) (tag : Option Nat) (seg seq : Nat) (nextph : Bool) : State :=
  let d := e.d
  let q := cluQuarter c
  let r := if engReads d then ([], s) else readRowLocal s e.unit d m
  let s := r.2
  let p := rowPacket s c d m r.1
  let p := if d.cls = 4 then { p with seg := seg, mseq := seq, nextph := nextph, mframe := if nextph then partFrame s c % 65536 else 0 } else p
  let p := { p with cls := engClass d }
  let p := match tag with
    | some t => if engReads d then { p with rtag := t } else { p with wtag := t }
    | none => p
  let p := match route with
    | .fabric site agt => { p with dsite := site, dagt := agt }
    | _ => toPanel s q (engPanel d) e.dq (tag.getD 0) p
  let s := if d.cls = 3 then addDigest s c d m p.check else s
  let s := match tag with
    | none => s
    | some t =>
      let g : Tag := { tag := t, did := d.did, row := m, sentAt := s.fab, remote := engRemote d, pkt := p }
      s.modCl c fun x => if engReads d then { x with rtags := x.rtags ++ [g] } else { x with wtags := x.wtags ++ [g] }
  let s := injectClu (charge s (bucketOf c (engClass d))) c p
  modEng s c d.did fun e => { e with sent := e.sent + 1, done := if tag.isNone then e.done + 1 else e.done }

/-- A request passes its bucket: credit returns first, and the clock moves on to the cycle at which a debt is repaid
(R155, R173, R242, R243); none while it cannot pass. -/
def passBucket (s : State) (c cls : Nat) : Option State :=
  if cls = cSched ∧ (s.cl c).credits.isEmpty = false then none
  else
    match solventAt s (bucketOf c cls) with
    | none => none
    | some f => some (endBucketWait (advFab (if f > s.fab then startBucketWait s c cls else s) f) c cls)

/-- Does a transfer need a tag for each of its rows (R156, R157, R332)? -/
def needsTag (d : Desc) : Bool := d.cls != 4 || engRemote d

/-- A row that a withdrawn stack or a lost assignment answers at once (R185, R268, R420): reads poisoned, writes
UNASSIGNED. -/
def rowGone (s : State) (c : Nat) (e : Eng) (m : Nat) : State :=
  let d := e.d
  if engReads d then rowOver ((landRowLocal s e.unit d m (zeros 1024)).bump (sePoisonCntAt c)) c d.did true false
  else
    let s := (readRowLocal s e.unit d m).2
    rowOver s c d.did false (d.cls == 3)

/-- The stream engine generates at most one request per clock (R155). -/
def genDone (s : State) (c : Nat) : State := s.modCl c fun x => { x with genClk := cluClk s c + 1 }

/-- The next row goes out as a packet: it takes its segment, its tag and its bucket, or waits for what is missing (R155 to
R157, R162, R240). -/
def requestRow (s : State) (c : Nat) (e : Eng) (m : Nat) (route : Route) : State :=
  let x := s.cl c
  let d := e.d
  match if d.cls = 4 then segmentFor s c e else some (0, 0, false, s) with
  | none => startWait s c 3
  | some (g, seq, nextph, s1) =>
    let tag := if needsTag d then
        (if engReads d then lowestFree (rtagsUsed x) 4096 else lowestFree (wtagsUsed x) 1024)
      else none
    if needsTag d && tag.isNone then startWait s c (if engReads d then 1 else 2)
    else
      match passBucket (endWaits s1 c) c (engClass d) with
      | none => startBucketWait (endWaits s c) c (engClass d)
      | some s2 => genDone (sendRow s2 c e m route tag g seq nextph) c

/-- The next row of a descriptor: dropped in wide-row mode, a breach in a replay run, gone with its target, digested in run 1,
or requested (R118, R155, R286, R288, R420). -/
def generateRow (s : State) (c : Nat) (e : Eng) : State :=
  let d := e.d
  let m := e.sent
  let o := engCells d
  if (s.un e.unit).mode ≠ .normal ∧ o ≠ (0, 1024) then
    rowOver (recordDrop s e.unit (1024 * engSlot d m + o.1) 1 .desc) c d.did false true
  else if rowBreach s c d m then rowOver (breach s c) c d.did false false
  else
    match rowRoute s c d m with
    | .gone _ => genDone (rowGone s c e m) c
    | route =>
      if d.cls = 3 ∧ (match (s.cl c).replay with | some r => r.run == 1 | none => false) = true then
        let r := readRowLocal s e.unit d m
        genDone (rowOver (addDigest r.2 c d m (crc64 r.1)) c d.did false false) c
      else requestRow s c e m route

/-- SE_GENERATE_REQUEST: the stream engine generates the next request, in issue order; a descriptor that cannot holds the
generator (R155 to R157). -/
def execSeGenerateRequest (cl : ClusterId) (s : State) : Res :=
  let c := cl.val
  match (s.cl c).eng.find? fun e => !e.stopped && e.sent < engRows e.d with
  | none => .next s
  | some e =>
    let begun := (s.un e.unit).issued.any fun i => i.d.did == e.d.did && i.begun
    when_ (rgnRuns s (cluRgn c) && begun) s (generateRow (advClock s (cluRgn c) (s.cl c).genClk) c e)

/-! ### Replies (R156, R273, R332) -/

/-- An answer to a tag that is held back is discarded (R333, R399). -/
def lateAnswer (s : State) (c : Nat) (write : Bool) (tag : Nat) : State :=
  match (s.cl c).quar.find? fun q => q.write == write && q.tag == tag with
  | some q => s.bump (if q.absorb then seAbsorbCntAt c else seXlateCntAt c)
  | none => s

/-- A read reply that cannot be used as it is: its check fails and it has not been asked for again yet (R273). -/
def mustRetry (t : Tag) (p : Packet) : Bool := !p.poison && p.status == sOk && crc64 p.payload != p.check && !t.retried

/-- Does a reply come from a memory router or its reduction engine? -/
def fromStack (p : Packet) : Bool := match placeOf p.ssite with | .stack _ => true | _ => false

/-- A read reply lands: data, or zeros when it is poisoned or failed twice; the tag is released (R156, R157, R273,
R332).  A poisoned reply of the panel's own memory makes the descriptor SUSPECT whatever its STATUS; a STATUS of another panel, or of
a unit that dropped the access, makes it ERROR (R147, R185, R268).  A transfer that has been abandoned takes it without effect
(R59). -/
def landReply (s : State) (c : Nat) (t : Tag) (p : Packet) : State :=
  let s := (endWait s c 1).modCl c fun x => { x with rtags := x.rtags.filter fun g => g.tag != t.tag }
  match (s.cl c).eng.find? fun e => e.d.did == t.did with
  | none => s
  | some e =>
    if e.stopped then s
    else
      let bad := !payloadOk p
      let s := landRowLocal s e.unit e.d t.row (if bad then zeros (engCells e.d).2 else p.payload)
      let s := if bad then s.bump (sePoisonCntAt c) else s
      let failed := p.status != sOk && (t.remote || !fromStack p)
      modEng s c t.did fun e => { e with
        done := e.done + 1, suspect := e.suspect || (bad && !failed), error := e.error || failed }

/-- A read reply reaches cluster c; the answer is none while a repeated request cannot pass its bucket. -/
def replyAtCluster (s : State) (c : Nat) (p : Packet) : Option State :=
  let x := s.cl c
  if x.absorbing then some (s.bump (seAbsorbCntAt c))
  else
    match x.rtags.find? fun t => t.tag == p.rtag with
    | none => some (lateAnswer s c false p.rtag)
    | some t =>
      if mustRetry t p && (x.eng.any fun e => e.d.did == t.did && !e.stopped) then
        (passBucket s c p.cls).map fun s =>
          let s := (s.bump (seCheckRetryCntAt c)).modCl c fun x =>
            { x with rtags := x.rtags.map fun g => if g.tag = t.tag then { g with retried := true } else g }
          injectClu (charge s (bucketOf c p.cls)) c t.pkt
      else some (landReply s c t p)

/-- RD_DATA: a read reply lands at a stream engine (R273), or is carried to the transport (R331). -/
def execRdData (p : AgentPort) (s : State) : Res :=
  match p with
  | .region r =>
    match ejected s (portOfRegion r).1 (portOfRegion r).2 fun q => q.typ == tRdData with
    | none => .next s
    | some q =>
      match agentClu q.dsite q.dagt with
      | none => .next (popEject s (portOfRegion r).1 (portOfRegion r).2 q.dagt)
      | some c =>
        match replyAtCluster s c q with
        | none => .next s
        | some t => .next (popEject t (portOfRegion r).1 (portOfRegion r).2 q.dagt)
  | .edge e => serve (portOfEdge e) (fun q => q.typ == tRdData && isAnswer q) (answerAtEdge e) s
  | .router _ => .next s

/-- The acknowledgement of a Shadow copy: the slot is done, or is to be read again when its row did not land (R425;
DESIGN CHOICE, log entry 50). -/
def shadowAck (s : State) (c : Nat) (p : Packet) : State :=
  let u := 4 * c + (p.wtag - 0x10000) / 8192 % 4
  let slot := p.wtag % 8192
  let back := p.poison || p.status != sOk
  let ended (t : Nat × List Nat × List Nat) : Nat × List Nat × List Nat :=
    (t.1, if back then insSorted t.2.1 slot else t.2.1, t.2.2.filter (· != slot))
  retireSets (s.modUn u fun x => { x with sets := mapFirst (fun t => t.2.2.contains slot) ended x.sets }) u

/-- A write acknowledgement reaches cluster c: its tag is free, and POISON or a STATUS marks the descriptor; the status of a
local RED row marks nothing (R157, R268, R272, R332). -/
def ackAtCluster (s : State) (c : Nat) (p : Packet) : State :=
  let x := s.cl c
  if x.absorbing then s.bump (seAbsorbCntAt c)
  else if p.wtag ≥ 0x10000 then shadowAck s c p
  else
    match x.wtags.find? fun t => t.tag == p.wtag with
    | none => lateAnswer s c true p.wtag
    | some t =>
      let s := (endWait s c 2).modCl c fun x => { x with wtags := x.wtags.filter fun g => g.tag != t.tag }
      match (s.cl c).eng.find? fun e => e.d.did == t.did with
      | none => s
      | some e =>
        if e.stopped then s
        else
          modEng s c t.did fun e => { e with
            done := e.done + 1
            suspect := e.suspect || (p.poison && p.status == sOk)
            error := e.error || (p.status != sOk && (e.d.cls != 5 || t.remote)) }

/-- WR_ACK: a write acknowledgement arrives at a stream engine (R157, R272, R332), or is carried to the transport. -/
def execWrAck (p : AgentPort) (s : State) : Res :=
  match p with
  | .region r =>
    serve (portOfRegion r) (fun q => q.typ == tWrAck) (fun q s =>
      match agentClu q.dsite q.dagt with
      | none => s
      | some c => ackAtCluster s c q) s
  | .edge e => serve (portOfEdge e) (fun q => q.typ == tWrAck && isAnswer q) (answerAtEdge e) s
  | .router _ => .next s

/-! ### Completion (R147) -/

/-- A transfer leaves its engine and its unit; the segment of a remote SEND that ends in error returns to its list, that of any
other with its credit (R173, R177; DEDUCED for R332, log entry 144). -/
def engDone (s : State) (c : Nat) (e : Eng) : State :=
  let s := s.modCl c fun x => { x with eng := x.eng.filter fun f => f.d.did != e.d.did }
  let s := match e.seg with
    | some g => if engRemote e.d && e.error then returnSeg s c true (engPanel e.d) (e.d.f 41 32) (e.d.f 47 42) g else s
    | none => s
  unitDone s e.unit e.d.did

/-- DESC_COMPLETE: a transfer completes once its rows have landed, been acknowledged or been sent; a COMMIT once its
answer has arrived (R147, R154). -/
def execDescComplete (cl : ClusterId) (did : Nat) (s : State) : Res :=
  let c := cl.val
  let x := s.cl c
  match x.eng.find? fun e => e.d.did == did with
  | some e =>
    if e.done ≥ engRows e.d then
      .next (complete (engDone s c e) c did (if e.error then stError else if e.suspect then stSuspect else stOk))
    else .next s
  | none =>
    match x.commitQ.find? fun k => k.d.did == did with
    | some k => match k.outcome with | some o => .next (finishCommit s c k o) | none => .next s
    | none => .next s

/-- The requests of a cluster's generator wait on no bucket any more; credit returns, control packets and Shadow copies wait on
(R243). -/
def endRequests (s : State) (c : Nat) : State :=
  let s := if (s.cl c).credits.isEmpty then endBucketWait s c cSched else s
  let shadow := ((List.range 4).any fun i => (s.un (4 * c + i)).sets.any fun t => !t.2.1.isEmpty)
    && (s.bucket (bucketOf c cBulk)).waitAt.isSome
  let s := endBucketWait s c cBulk
  if shadow then startBucketWait s c cBulk else s

/-- Everything of a cluster that has not completed is abandoned at an edge, or stopped by a reset (R59, R398): begun MMAs
and VOPs stop, transfers generate no more, and every descriptor completes CANCELLED. -/
def cancelAll (s : State) (c : Nat) : State :=
  let s := (List.range 4).foldl (fun s i =>
    let u := 4 * c + i
    let s := atPresent s u
    let s := (s.un u).issued.foldl (fun s e => abandonUnit s u e) s
    s.modUn u fun x => { x with uq := [], issued := [], lastMma := none, laneFree := 0, opNext := 0, opRun := 0 }) s
  let s := endRequests (endWaits (noteRoom s c) c) c
  let s := s.modCl c fun x => { x with dq := [], waiting := false, commitQ := [], eng := [] }
  (s.cl c).live.foldl (fun s p => complete s c p.1 stCancelled) s

end Sys2Proof.Machine
end

