-- ==== Sys2Proof/Machine/Lock.lean ====
section
/-! DEFINITION. The maintenance lock of each quarter: requests, the compatibility matrix, grants and release (R410 to
R412). -/

namespace Sys2Proof.Machine

/-- Activities compatible with an activity on one quarter (R411). -/
def compatibleWith (code : Nat) : List Nat :=
  match code with
  | 1 => [2, 3, 4, 5]
  | 2 => [1]
  | 3 => [1]
  | 4 => [1, 5, 7]
  | 5 => [1, 4, 6, 7]
  | 6 => [5]
  | 7 => [4, 5]
  | _ => []

/-- HELD bits of the activities that block an activity on a quarter (R411). -/
def blockers (held code : Nat) : Nat :=
  ((List.range 7).map fun i => if bit held i && !(compatibleWith code).contains (i + 1) then 2 ^ i else 0).sum

/-- HELD bits that block a request in its whole scope. -/
def blockersIn (s : State) (r : LockReq) : Nat :=
  (maskQuarters r.qmask).foldl (fun acc q => acc ||| blockers (s.qtr q).held r.code) 0

/-- A request for the lock waits for the next evaluation (R412). -/
def requestLock (s : State) (r : LockReq) : State := s.modMgr fun m => { m with locks := m.locks ++ [r] }

/-- An activity takes the quarters of a mask (R412). -/
def holdLock (s : State) (code qmask : Nat) : State :=
  (maskQuarters qmask).foldl (fun s q => s.modQtr q fun x => { x with held := x.held ||| 2 ^ (code - 1) }) s

/-- A grant is released (R412). -/
def releaseLock (s : State) (code qmask : Nat) : State :=
  (maskQuarters qmask).foldl (fun s q => s.modQtr q fun x => { x with held := x.held &&& (127 - 2 ^ (code - 1)) }) s

/-- A refused request is counted and recorded (R412, R415). -/
def recordConflict (s : State) (r : LockReq) : State :=
  ((s.bump pmMaintConflictCntAt).setReg pmMaintLastAt (timeWord (mgrNs s))).setReg pmMaintLastIdAt
    (2 ^ 16 + r.qmask % 16 * 2 ^ 12 + blockersIn s r)

/-- Requests of one evaluation in the order in which they are decided: lower code first, then arrival (R412). -/
def lockOrder (l : List LockReq) : List LockReq := (List.range 8).flatMap fun c => l.filter fun r => r.code == c

end Sys2Proof.Machine
end

