-- ==== Sys2Proof/Machine/Equinox.lean ====
section
/-! DEFINITION. Operating points: posts, acknowledgements, the voltage ramp, the change of frequency, the fallback without
managers, droops (R48 to R56, R430, R437). -/

namespace Sys2Proof.Machine

/-! ### Posting (R53, R54) -/

/-- Ramp time of VCORE between two setpoints in ns: 5 mV/µs (R53). -/
def rampNs (a b : Nat) : Nat := ((a - b) + (b - a)) * 200

/-- The lead of a change (R53). -/
def eqxLead (s : State) (point : Nat) : Nat := max 50000 (rampNs s.mgr.vcoreMv (pointMv point) + 20000)

/-- The period of a partition's edges in ns. -/
def edgePeriod (p : Partition) : Nat := p.period

/-- Least common multiple of the running periods in ns; 1 when none runs. -/
def tickLcm (s : State) : Nat := (s.parts.filter (·.tick)).foldl (fun n p => Nat.lcm n (edgePeriod p)) 1

/-- T: an edge of every running partition where the least common multiple allows it; else partitions change at their own edges
(R54). -/
def chooseT (s : State) (lead : Nat) : Nat :=
  let t0 := mgrNs s + lead
  let l := tickLcm s
  if (s.parts.any (·.tick)) && l ≤ 16000000 then (t0 + l - 1) / l * l
  else (t0 + 999) / 1000 * 1000

/-- The bits of PM_OP_STAT but PMIN, which is read from the partitions (R56). -/
def setOpStat (s : State) (state tgt : Nat) : State :=
  s.setReg pmOpStatAt (state * 2 ^ 16 + tgt * 2 ^ 4 + s.mgr.cur)

/-- A posted point and T as bytes of the post's payload: 1 byte and 8 bytes.  The spec gives the packet no layout (DESIGN CHOICE,
log entry 127). -/
def postBytes (point t : Nat) : Bytes := leBytes 1 point ++ leBytes 8 t

/-- PM_OP_STAT.PMIN: the highest P_min of the running partitions whose declaration has taken effect; 4 when there is none
(R56, R388). -/
def pminNow (s : State) : Nat :=
  match s.parts.filter fun p => p.tick && !inDawn s (partQ p) with
  | [] => 4
  | l => (l.map (·.cfg.pmin)).foldl max 0

/-- The point that holds once the change that stands has been made. -/
def pointAhead (s : State) : Nat := match s.mgr.eqx with | some e => min s.mgr.cur e.point | none => s.mgr.cur

/-- The point below which no change may go: PMIN, and the P_min of a PENDING stream that is to take effect without a raise (R49;
DEDUCED, log entry 150). -/
def lowestPoint (s : State) : Nat :=
  (s.mgr.pends.filter fun p => p.raise != 1 && (!p.cfg.live || bit p.cfg.present 0x0C)
    && !(maskQuarters p.cfg.qmask).any (inDawn s)).foldl (fun m p => max m (min p.cfg.pmin s.mgr.cur)) (pminNow s)

/-- Change the stream that quarter q has loaded and that is PENDING. -/
def modPend (s : State) (q : Nat) (f : PendStream → PendStream) : State :=
  s.modMgr fun m => { m with pends := mapFirst (fun p => p.q == q) f m.pends }

/-- The manager posts a change to every keeper whose router runs (R53). -/
def startEqx (s : State) (point : Nat) (stream : Option Nat) : State :=
  let t := chooseT s (eqxLead s point)
  let s := s.modMgr fun m => { m with
    eqx := some { point := point, t := t, postAt := s.fab, stream := stream } }
  let s := (setOpStat s 1 point).setReg pmOpAtAt (timeWord t)
  let s := match stream with
    | some q => (modPend s q fun p => { p with raise := 2, due := t }).setReg (qcSsApplyAt q) (timeWord t)
    | none => s
  ((List.range 400).filter fun i => (s.rtr i).running).foldl
    (fun s i => fromMgr s (withPayload (mgmtTo i (regAgent i) 0) (postBytes point t))) s

/-- Change the pending Equinox change. -/
def modEqx (s : State) (f : Eqx → Eqx) : State := s.modMgr fun m => { m with eqx := m.eqx.map f }

/-- The change is over: PM_OP_STAT returns to IDLE and the lock is released; a stream whose raise was withdrawn asks again
(R56, R303, R412). -/
def endEqx (s : State) (done : Bool) : State :=
  let s := match done, s.mgr.eqx.bind (·.stream) with
    | false, some q => modPend s q fun p => { p with raise := 1, triedAt := s.fab }
    | _, _ => s
  let s := s.modMgr fun m => { m with eqx := none }
  let s := releaseLock (setOpStat s 0 s.mgr.cur) 4 15
  if done then s.bump pmEqxCntAt else s

/-- No keeper holds a post any more (R53). -/
def withdrawPosts (s : State) : State := { s with keepers := s.keepers.map fun k => (k.1, { k.2 with post := none, go := false }) }

/-- Is this the post of the pending change?  One that was withdrawn while it was on its way changes nothing (R53). -/
def postStands (s : State) (post : Nat × Nat) : Bool :=
  match s.mgr.eqx with | some e => e.point == post.1 && e.t == post.2 | none => false

/-- EQX_POST: a keeper takes the post and acknowledges it (R53). -/
def execEqxPost (site : RouterId) (s : State) : Res :=
  serveMgmt site 0 (fun p s =>
    let post := (leNat (p.payload.take 1), leNat (p.payload.drop 1))
    if postStands s post then
      fromRegAgent (s.modKeeper site fun k => { k with post := some post, go := false }) site (mgmtTo p.ssite p.sagt 1)
    else s) s

/-- EQX_ACK (R53) -/
def execEqxAck (s : State) : Res :=
  serveMgr tMgmt 1 (fun p s => modEqx s fun e => { e with acks := insSorted e.acks p.ssite }) s

/-- EQX_ACK_WINDOW_END: 10 µs after the post a missing acknowledgement withdraws it, else a raise begins its ramp (R53). -/
def execEqxAckWindowEnd (s : State) : Res :=
  match activeMgr s, s.mgr.eqx with
  | some _, some e =>
    if e.state = 1 ∧ e.confirmed = false then
      let s := advFab s (e.postAt + 20000)
      if (List.range 400).any fun i => (s.rtr i).running && !e.acks.contains i then
        .next (endEqx (withdrawPosts s) false)
      else if e.point > s.mgr.cur then
        let s := modEqx s fun e => { e with state := 2, confirmed := true, rampEnd := s.fab + 2 * rampNs s.mgr.vcoreMv (pointMv e.point) }
        .next (setOpStat s 2 e.point)
      else .next (modEqx s fun e => { e with confirmed := true })
    else .next s
  | _, _ => .next s

/-- EQX_RAMP_DONE: VCORE stands at its new setpoint, confirmed by remote sense: GO on a raise, completion on a lower (R53,
R55, R430, R437). -/
def execEqxRampDone (s : State) : Res :=
  match activeMgr s, s.mgr.eqx with
  | some _, some e =>
    if e.state = 2 then
      let s := advFab s e.rampEnd
      let s := s.modMgr fun m => { m with vcoreMv := pointMv e.point }
      let s := setOpStat (modEqx s fun e => { e with state := 1 }) 1 e.point
      .next (((List.range 400).filter fun i => (s.rtr i).running).foldl (fun s i => fromMgr s (mgmtTo i (regAgent i) 2)) s)
    else if e.state = 4 then
      let s := advFab s e.rampEnd
      .next (endEqx (s.modMgr fun m => { m with vcoreMv := pointMv e.point }) true)
    else .next s
  | _, _ => .next s

/-- EQX_GO: a keeper receives GO for its post (R430). -/
def execEqxGo (site : RouterId) (s : State) : Res :=
  serveMgmt site 2 (fun _ s => s.modKeeper site fun k => { k with go := k.post.isSome }) s

/-! ### The change of frequency (R54, R55, R430) -/

/-- The keeper of compute die d acts on its post: both regions take the new point; a raise without GO is discarded. -/
def changeDie (s : State) (d : Nat) : State :=
  let site := dieSite d
  match (s.keeper site).post with
  | none => s
  | some (p, _) =>
    let go := (s.keeper site).go
    let s := s.modKeeper site fun k => { k with post := none, go := false }
    let step (s : State) (r : Nat) : State :=
      if p > (s.rgn r).point ∧ go = false then s else retime (s.modRgn r fun g => { g with point := p }) r
    step (step s (2 * d)) (2 * d + 1)

/-- Keepers of compute dies that still hold a post. -/
def postsLeft (s : State) : Bool :=
  s.keepers.any fun k => k.2.post.isSome && (match placeOf k.1 with | .die _ => true | _ => false)

/-- Frames with slack are counted anew after a change of the point (R454). -/
def restartSlack (s : State) : State := { s with parts := s.parts.map fun p => { p with slackN := 0, slackLow := 65536 } }

/-- After regions have changed the manager sees whether all have: a raise is complete, a lower lets the voltage fall
(R55, R56).  For the 1 µs until it begins to fall R55 names no state: PM_OP_STAT.STATE reads AT_EDGES (DESIGN CHOICE, log entry
128). -/
def noteChanged (s : State) : State :=
  match s.mgr.eqx with
  | none => s
  | some e =>
    if postsLeft s then setOpStat (modEqx s fun e => { e with state := 3 }) 3 e.point
    else
      let raised := e.point > s.mgr.cur
      let s := restartSlack (s.modMgr fun m => { m with cur := e.point })
      if raised then endEqx s true else setOpStat (modEqx s fun e => { e with state := 3, rampEnd := s.fab }) 3 e.point

/-- Every region of the quarters of a mask changes (R54). -/
def changeQuarters (s : State) (qmask : Nat) : State :=
  noteChanged (((List.range 256).filter fun d => bit qmask (dieQuarter d)).foldl changeDie s)

/-- The posted T of a quarter's keepers; none when they hold no post. -/
def postedT (s : State) (q : Nat) : Option Nat :=
  (s.keepers.find? fun k => siteQuarter k.1 == q && k.2.post.isSome && (match placeOf k.1 with | .die _ => true | _ => false)).bind
    fun k => k.2.post.map (·.2)

/-- EQX_FREQ_CHANGE: at T, or at a running partition's own edge at or after T, its regions change (R54, R55). -/
def execEqxFreqChange (q : QuarterId) (s : State) : Res :=
  match postedT s q with
  | none => .next s
  | some t =>
    match (partOf s q).filter (·.tick) with
    | some p => when_ (decide (t ≤ p.lastEdge)) s (changeQuarters s p.qmask)
    | none => .next (changeQuarters (advNs s (edgeSite (controllerEdge q)) t) (2 ^ q.val))

/-- EQX_VOLTAGE_LOWER: 1 µs after the last region has changed VCORE begins to fall (R55). -/
def execEqxVoltageLower (s : State) : Res :=
  match activeMgr s, s.mgr.eqx with
  | some _, some e =>
    if e.state = 3 ∧ postsLeft s = false then
      let s := advFab s (e.rampEnd + 2000)
      let s := modEqx s fun e => { e with state := 4, rampEnd := s.fab + 2 * rampNs s.mgr.vcoreMv (pointMv e.point) }
      .next (setOpStat s 4 e.point)
    else .next s
  | _, _ => .next s

/-! ### Fallback and droops (R51, R52, R56) -/

/-- KEEPER_FALLBACK: with both managers lost a die takes the lower of P4 and its point; a raise without GO is discarded, a
posted lower keeps at most P4 (R56, R430). -/
def execKeeperFallback (site : RouterId) (s : State) : Res :=
  match placeOf site with
  | .die d =>
    if s.mgr.lost then
      let cur := (s.rgn (2 * d)).point
      let s := s.modKeeper site fun k => { k with post := match k.post with
        | some (p, t) => if p > cur ∧ k.go = false then none else some (min p 4, t)
        | none => none }
      let low (s : State) (r : Nat) : State := retime (s.modRgn r fun g => { g with point := min g.point 4 }) r
      .next (low (low s (2 * d)) (2 * d + 1))
    else .next s
  | _ => .next s

/-- SUPPLY_DROOP: the region's oscillator falls to its floor (R51). -/
def execSupplyDroop (r : RegionId) (s : State) : Res := .next (retime (s.modRgn r fun g => { g with droop := true }) r)

/-- DROOP_STALL: the region stops its clock (R52). -/
def execDroopStall (r : RegionId) (s : State) : Res :=
  if (s.rgn r).hdr = 2 ∧ (s.rgn r).stalled = false then
    .next ((retime (s.modRgn r fun g => { g with stalled := true }) r).bump (pwrDroopStallCntAt (r / 2)))
  else .next s

/-- DROOP_RECOVERY: the supply recovers; the clock restarts and returns to target (R51, R52). -/
def execDroopRecovery (r : RegionId) (s : State) : Res :=
  .next (retime (s.modRgn r fun g => { g with droop := false, stalled := false }) r)

end Sys2Proof.Machine
end

