-- ==== Sys2Proof/Machine/CutCheck.lean ====
section
/-! DEFINITION. The shaper values of a partition and the cut check (R244, R248 to R252). -/

namespace Sys2Proof.Machine

/-- DEPTH and RATE of a source and class under a stream (R244): an entry's, or the default. -/
def shaperOf (cfg : StreamCfg) (src cls : Nat) : Nat × Nat :=
  match cfg.shapers.find? fun e => e.1 == src && e.2.1 == cls with
  | some e => e.2.2
  | none =>
    match cls with
    | 0 => (0, if src < 1024 then cfg.share else 0)
    | 1 => (65536, 0xFFFFF)
    | _ => (65536, 0x8000)

/-- The logical clusters of a quarter mask (R416). -/
def maskLogical (m : Nat) : List Nat := (List.range 960).filter fun l => bit m (fieldQuarter (l / 60))

/-- The edge dies of a quarter mask (R11). -/
def maskEdges (m : Nat) : List Nat := (List.range 16).filter fun e => bit m (edgeQuarter e)

/-- L: the sum of the SCHED rates of a partition's sources (R248). -/
def schedSum (cfg : StreamCfg) : Nat :=
  ((maskLogical cfg.qmask).map fun l => (shaperOf cfg l 0).2).sum + ((maskEdges cfg.qmask).map fun e => (shaperOf cfg (1024 + e) 0).2).sum

/-- Positions per two slots of a link in its present state (R249). -/
def cutPositions (s : State) (l : Nat) : Nat :=
  match linkKind l, (s.link l).state with
  | .field, 2 => 4
  | .field, _ => 0
  | _, 2 => 2
  | _, 3 => 1
  | _, _ => 0

/-- Column or row of a site. -/
def cutCoord (row : Bool) (site : Nat) : Nat := if row then site / 24 else site % 24

/-- Does a cut separate two sites (R249)? -/
def cutBetween (row : Bool) (pos a b : Nat) : Bool := decide (cutCoord row a ≤ pos) != decide (cutCoord row b ≤ pos)

/-- The mesh sites of a quarter mask. -/
def maskSites (m : Nat) : List Nat := (List.range 384).filter fun i => bit m (siteQuarter i)

/-- Does a cut exist: are there sites of the partition on both sides (R249)? -/
def cutExists (m : Nat) (row : Bool) (pos : Nat) : Bool :=
  ((maskSites m).any fun i => cutCoord row i ≤ pos) && ((maskSites m).any fun i => cutCoord row i > pos)

/-- P2 of a cut: its links' positions, and the lower of the two links of each edge die that straddles it (R249). -/
def cutP2 (s : State) (m : Nat) (row : Bool) (pos : Nat) : Nat :=
  (((List.range 728).filter fun l => linkIn m l && cutBetween row pos (linkEnds l).1.1 (linkEnds l).2.1).map (cutPositions s)).sum
  + (((maskEdges m).filter fun e => cutBetween row pos (attachSites e).1 (attachSites e).2).map fun e =>
      min (cutPositions s (728 + 2 * e)) (cutPositions s (728 + 2 * e + 1))).sum

/-- The cuts of a partition, columns before rows, ascending (R251). -/
def cutsOf (m : Nat) : List (Bool × Nat) :=
  (((List.range 23).map fun x => (false, x)) ++ ((List.range 15).map fun y => (true, y))).filter fun c => cutExists m c.1 c.2

/-- The binding cut: the first of the smallest P2, both directions of a cut having the same (R251): P2, axis, position. -/
def bindingCut (s : State) (m : Nat) : Nat × Bool × Nat :=
  ((cutsOf m).map fun c => (cutP2 s m c.1 c.2, c.1, c.2)).foldl
    (fun b c => match b with
      | none => some c
      | some d => if c.1 < d.1 then some c else some d) (none : Option (Nat × Bool × Nat)) |>.getD (0, false, 0)

/-- Does the sum L pass a cut of P2 positions per two slots (R250)? -/
def cutPasses (l p2 : Nat) : Bool := decide (l * 50 ≤ 9 * p2 * 1122304)

/-- The uniform share of a partition (R252). -/
def uniformShare (s : State) (m : Nat) : Nat := 9 * (bindingCut s m).1 * 1122304 / 50 / max 1 (maskLogical m).length

/-- The check of a partition's rates: its verdict and the record in PM_ADMIT_LAST (R250, R251, R253). -/
def cutCheck (s : State) (cfg : StreamCfg) : Bool × State :=
  let b := bindingCut s cfg.qmask
  let l := schedSum cfg
  let ok := cutPasses l b.1
  (ok, s.setReg pmAdmitLastAt
    (l % 2 ^ 32 * 2 ^ 32 + b.1 % 256 * 2 ^ 24 + lowestQuarter cfg.qmask * 2 ^ 17 + 2 ^ 16 + b2n ok * 2 ^ 15 + b2n b.2.1 * 2 ^ 13 + b.2.2))

end Sys2Proof.Machine
end

