-- ==== Sys2Proof/Machine/StreamParse.lean ====
section
/-! DEFINITION. The structure stream's layout: header, sections and their entries (R294, R295, R308, R311). -/

namespace Sys2Proof.Machine

/-! ### Header and sections (R294, R295) -/

/-- The fields of a stream header (R294). -/
structure StreamHead where
  magic : Nat
  version : Nat
  device : Nat
  step : Nat
  kind : Nat
  qmask : Nat
  nsect : Nat
  total : Nat
  serial : Nat
  notBefore : Nat
  keyid : Nat
  rsvd : Nat
  deriving DecidableEq, Repr

/-- n bytes at offset o as a little-endian number. -/
def natAt (b : Bytes) (o n : Nat) : Nat := leNat ((b.drop o).take n)

/-- A header read from its 48 bytes (R294). -/
def readHead (b : Bytes) : StreamHead where
  magic := natAt b 0 4
  version := natAt b 4 2
  device := natAt b 6 2
  step := natAt b 8 1
  kind := natAt b 9 1
  qmask := natAt b 10 1
  nsect := natAt b 11 1
  total := natAt b 12 4
  serial := natAt b 16 8
  notBefore := natAt b 24 8
  keyid := natAt b 32 4
  rsvd := natAt b 36 12

/-- NOT_BEFORE in ns (R294); 0 is none. -/
def StreamHead.notBeforeNs (h : StreamHead) : Nat := h.notBefore / 2 ^ 30 * 1000000000 + h.notBefore % 2 ^ 30

/-- A section: its header fields and its body (R295). -/
structure Section where
  typ : Nat
  zero : Nat
  count : Nat
  length : Nat
  crc : Nat
  rsvd : Nat
  body : Bytes
  deriving DecidableEq, Repr

/-- At most n sections read one after another from the bytes between header and trailer; the bytes left over; false when
a section does not fit: the last one read has a body short of its LENGTH, unless its header did not fit either (R295). -/
def readSections : Nat → Bytes → List Section × Bytes × Bool
  | 0, b => ([], b, true)
  | n + 1, b =>
    let len := natAt b 4 4
    let sec : Section := { typ := natAt b 0 1, zero := natAt b 1 1, count := natAt b 2 2, length := len, crc := natAt b 8 4
                           rsvd := natAt b 12 4, body := (b.drop 16).take len }
    if b.length < 16 then ([], b, false)
    else if b.length - 16 < len then ([sec], [], false)
    else
      let r := readSections n (b.drop (16 + len))
      (sec :: r.1, r.2.1, r.2.2)

/-! ### Entries (R308, R311) -/

/-- k entries of n bytes each, as little-endian numbers. -/
def readEntries (n : Nat) : Nat → Bytes → List Nat
  | 0, _ => []
  | k + 1, b => leNat (b.take n) :: readEntries n k (b.drop n)

/-- Has an entry a bit set outside the mask of its fields? -/
def strayBits (mask v : Nat) : Bool := (v &&& mask) != v

/-- The fields of an entry as a bit mask: runs [hi:lo]. -/
def fieldMask (l : List (Nat × Nat)) : Nat := l.foldl (fun m r => m ||| (2 ^ (r.1 + 1 - r.2) - 1) * 2 ^ r.2) 0

/-- Entry size in bytes and field mask of the section types with entries of one size (R308). -/
def entryShape (typ : Nat) : Option (Nat × Nat) :=
  match typ with
  | 0x01 => some (8, fieldMask [(3, 0), (63, 32)])
  | 0x02 => some (8, fieldMask [(13, 0)])
  | 0x03 => some (8, fieldMask [(3, 0), (63, 32)])
  | 0x04 => some (4, fieldMask [(10, 0)])
  | 0x05 => some (8, fieldMask [(12, 0), (32, 16), (63, 44)])
  | 0x08 => some (32, fieldMask [(191, 0), (193, 192), (214, 200)])
  | 0x09 => some (32, fieldMask [(191, 0), (193, 192), (206, 200), (209, 208), (232, 224), (246, 240)])
  | 0x0A => some (16, fieldMask [(1, 0), (4, 4), (49, 8), (127, 64)])
  | 0x0B => some (8, fieldMask [(44, 0)])
  | 0x0C => some (8, fieldMask [(3, 0), (39, 16)])
  | _ => none

/-- Sections of COUNT 1 (R308). -/
def singleEntry (typ : Nat) : Bool := typ == 1 || typ == 2 || typ == 0x0A || typ == 0x0C

/-- Are the bytes after the entries the zero padding to a multiple of 8 (R295)? -/
def zeroPad (rest : Bytes) : Bool := decide (rest.length < 8) && rest.all (· == 0)

/-- Scratchpad division records as words: head and ranges (R308); none when COUNT records do not fill the body. -/
def divWords : Nat → Bytes → Option (List (Nat × List Nat))
  | 0, b => if zeroPad b then some [] else none
  | k + 1, b =>
    let n := bits (natAt b 0 4) 15 12
    if b.length < 4 + 4 * n then none
    else (divWords k (b.drop (4 + 4 * n))).map fun l => (natAt b 0 4, readEntries 4 n (b.drop 4)) :: l

/-- Has a record of words a bit set outside the masks of its head and of its words? -/
def strayRecord (head word : Nat) (r : Nat × List Nat) : Bool := strayBits head r.1 || r.2.any (strayBits word)

/-- The bits of a range of a scratchpad division: FIRST, LAST and KIND (R308). -/
def divMask : Nat := fieldMask [(6, 0), (14, 8), (18, 16)]

/-- Scratchpad division records: logical unit and ranges (R308). -/
def readDivs (count : Nat) (b : Bytes) : List (Nat × List (Nat × Nat × Nat)) :=
  ((divWords count b).getD []).map fun r => (bits r.1 11 0, r.2.map fun r => (bits r 6 0, bits r 14 8, bits r 18 16))

/-- Queue records of a CHANNEL body as words, and the bytes after them (R311). -/
def queueWords : Nat → Bytes → Option (List (Nat × List Nat) × Bytes)
  | 0, b => some ([], b)
  | k + 1, b =>
    let n := bits (natAt b 0 8) 44 40
    if b.length < 8 + 8 * n then none
    else (queueWords k (b.drop (8 + 8 * n))).map fun r => ((natAt b 0 8, readEntries 8 n (b.drop 8)) :: r.1, r.2)

/-- A queue record (R311). -/
def queueDeclOf (r : Nat × List Nat) : QueueDecl :=
  let h := r.1
  { clu := bits h 9 0, queue := bits h 17 10, unit := bits h 19 18, ring := bits h 32 20, segRows := bits h 39 33
    chans := r.2.map fun c => (bits c 9 0, bits c 19 10, bit c 20, bit c 21, bits c 26 22) }

/-- An outgoing entry (R311). -/
def outOf (w : Nat) : OutDecl :=
  { clu := bits w 9 0, dpanel := bits w 19 10, dclu := bits w 29 20, dque := bits w 35 30, remote := bit w 36
    nextph := bit w 37, credits := bits w 42 38, segRows := bits w 49 43, firstSeg := bits w 53 50 }

/-- The records of a CHANNEL body as words (R311): none unless COUNT is NQ + NO and the records fill it. -/
def channelWords (count : Nat) (b : Bytes) : Option (List (Nat × List Nat) × List Nat) :=
  let nq := bits (natAt b 0 8) 15 0
  let no := bits (natAt b 0 8) 47 32
  if count ≠ nq + no then none
  else (queueWords nq (b.drop 8)).bind fun r => if r.2.length ≠ 8 * no then none else some (r.1, readEntries 8 no r.2)

/-- A CHANNEL body (R311). -/
def readChannels (count : Nat) (b : Bytes) : Option (List QueueDecl × List OutDecl) :=
  (channelWords count b).map fun r => (r.1.map queueDeclOf, r.2.map outOf)

/-- A placement range (R308). -/
def placeOfEntry (w : Nat) : PlaceRange :=
  { base := bits w 63 0, length := bits w 127 64, offset := bits w 191 128, scope := bits w 193 192, target := bits w 206 200
    mirror := bit w 207, partner := bits w 214 208 }

/-- A reduction range (R308). -/
def redOfEntry (w : Nat) : RedRange :=
  { base := bits w 63 0, length := bits w 127 64, aoff := bits w 191 128, scope := bits w 193 192, target := bits w 206 200
    width := bits w 209 208, ebase := toSigned 9 (bits w 232 224), span := bits w 246 240 }

/-- Directory entries of the SCHEDULE body; an image that lies outside the body is read as far as it goes (R308). -/
def readScheds (count : Nat) (b : Bytes) : List SchedEntry :=
  (readEntries 64 count b).map fun w =>
    let off := bits w 63 32
    let len := bits w 95 64
    { clu := bits w 31 0, offset := off, length := len, digest := beNat (leBytes 48 (bits w 511 128)), image := (b.drop off).take len }

/-- Does a section's body agree with its COUNT, are the reserved bytes of its header 0 (R295, R308, R311)? -/
def sectionShape (x : Section) : Bool :=
  x.zero == 0 && x.rsvd == 0 && decide (1 ≤ x.count) && x.length % 8 == 0 && (!singleEntry x.typ || x.count == 1) &&
  (match entryShape x.typ with
   | some (n, _) => x.length == (n * x.count + 7) / 8 * 8 && zeroPad (x.body.drop (n * x.count))
   | none =>
     if x.typ = 0x06 then (divWords x.count x.body).isSome
     else if x.typ = 0x07 then (channelWords x.count x.body).isSome
     else decide (64 * x.count ≤ x.length))

/-- The first entry of a section with a reserved bit set; the word before the records of a CHANNEL body counts as no entry of its own
and answers 0 (R301, R308, R311). -/
def strayEntry (x : Section) : Option Nat :=
  match entryShape x.typ with
  | some (n, mask) => (readEntries n x.count x.body).findIdx? (strayBits mask)
  | none =>
    if x.typ = 0x06 then ((divWords x.count x.body).getD []).findIdx? (strayRecord 0xFFFF divMask)
    else if x.typ = 0x07 then
      let r := (channelWords x.count x.body).getD ([], [])
      if strayBits (fieldMask [(15, 0), (47, 32)]) (natAt x.body 0 8) then some 0
      else (r.1.map (strayRecord (2 ^ 45 - 1) (2 ^ 27 - 1)) ++ r.2.map (strayBits (2 ^ 54 - 1))).findIdx? id
    else (readEntries 64 x.count x.body).findIdx? fun w => bits w 127 96 != 0

/-! ### A stream read into its sections -/

/-- Add what one section says to a stream (R308). -/
def addSection (c : StreamCfg) (x : Section) : StreamCfg :=
  let es (n : Nat) : List Nat := readEntries n x.count x.body
  let e := leNat (x.body.take 16)
  let c := { c with present := c.present ||| 2 ^ x.typ }
  match x.typ with
  | 0x01 => { c with tenant := bits e 63 32 }
  | 0x02 => { c with period := bits e 13 0 }
  | 0x03 => { c with fieldUse := (es 8).map fun w => (bits w 3 0, bits w 63 32) }
  | 0x04 => { c with routes := (es 4).map fun w => (bits w 8 0, bits w 10 9) }
  | 0x05 => { c with shapers := (es 8).map fun w => (bits w 10 0, bits w 12 11, bits w 32 16, bits w 63 44) }
  | 0x06 => { c with divs := readDivs x.count x.body }
  | 0x07 => match readChannels x.count x.body with | some (qs, os) => { c with queues := qs, outs := os } | none => c
  | 0x08 => { c with places := (es 32).map placeOfEntry }
  | 0x09 => { c with reds := (es 32).map redOfEntry }
  | 0x0A => { c with
      policy := bits e 1 0, unres := bit e 4, seed := bits e 127 64
      taus := (List.range 7).map fun g => if bit e (43 + g) then bits e (12 + 5 * g) (8 + 5 * g) else c.taus.getD g 0 }
  | 0x0B => { c with pairs := (es 8).map fun w => (bits w 11 0, bits w 18 12, bits w 25 19, bits w 37 26, bits w 44 38) }
  | 0x0C => { c with pmin := bits e 3 0, slackMin := bits e 31 16, nframes := bits e 39 32 }
  | _ => { c with scheds := readScheds x.count x.body }

end Sys2Proof.Machine
end

