-- ==== Sys2Proof/Machine/StreamCheck.lean ====
section
/-! DEFINITION. The checks of a structure stream's sections, in ascending TYPE and in the order of the refusal table's rows
(R164, R175, R188, R256, R301 step 4, R309, R312). -/

namespace Sys2Proof.Machine

/-- A refusal: code of R312, index of the section, TYPE, ENTRY. -/
structure SsFail where
  code : Nat
  sect : Nat := 0
  typ : Nat := 0
  entry : Nat := 0
  deriving DecidableEq, Repr

/-- A check of a section: the code and the entry of its first failure. -/
abbrev Check := Option (Nat × Nat)

/-- The first entry that is bad. -/
def firstBad {α : Type} (code : Nat) (l : List α) (bad : α → Bool) : Check :=
  (l.findIdx? bad).map fun i => (code, i)

/-- The first entry that is bad in view of the entries before it. -/
def firstBadAfter {α : Type} (code : Nat) (l : List α) (bad : List α → α → Bool) : Check :=
  ((List.range l.length).find? fun i => match l[i]? with | some x => bad (l.take i) x | none => false).map fun i => (code, i)

/-- A failure of a section as a whole: ENTRY 0. -/
def wholeBad (code : Nat) (bad : Bool) : Check := if bad then some (code, 0) else none

/-- Is a logical cluster of a quarter mask? -/
def cluIn (m l : Nat) : Bool := l < 960 && bit m (fieldQuarter (l / 60))
/-- Is a logical unit of a quarter mask? -/
def unitIn (m l : Nat) : Bool := l < 3840 && bit m (fieldQuarter (l / 240))

/-! ### PARTITION to SHAPER -/

/-- PARTITION (R309, R482). -/
def checkPartition (s : State) (m qmaskEntry : Nat) : Check :=
  wholeBad 0x11 (m == 9 || m == 6)
  <|> wholeBad 0x12 ((maskQuarters m).any fun q =>
        (match partOf s q with | some p => p.qmask != m | none => false) || (s.qtr q).clr == 1 || (s.qtr q).clr == 2)
  <|> wholeBad 0x13 (qmaskEntry != m)

/-- FIELD_USE (R304, R310), and a FAILED quarter or a field that has lost a stack, which refuse any FULL stream (R383,
R420). -/
def checkFieldUse (s : State) (cfg : StreamCfg) : Check :=
  wholeBad 0x15 ((maskQuarters cfg.qmask).any fun q =>
    (s.qtr q).svc == 3 || (quarterStacks q).any fun n => (s.mr n).state == 4 && (s.fld (stackField n)).failed)
  <|> firstBad 0x15 cfg.fieldUse fun e => !bit cfg.qmask (fieldQuarter e.1) || e.2 != dmapSig s e.1

/-- ROUTE (R219). -/
def checkRoute (cfg : StreamCfg) : Check :=
  firstBadAfter 0x16 cfg.routes (fun before e =>
    decide (400 ≤ e.1) || !bit cfg.qmask (siteQuarter e.1) || before.any fun b => b.1 == e.1)
  <|> firstBad 0x17 cfg.routes fun e => e.2 == 3

/-- SHAPER entries (R250). -/
def checkShaper (cfg : StreamCfg) (es : List (Nat × Nat × Nat × Nat)) : Check :=
  firstBad 0x18 es (fun e => decide (e.2.2.1 > 65536) || (e.2.1 == 0 && e.2.2.1 != 0))
  <|> firstBadAfter 0x19 es fun before e =>
    e.2.1 == 3 || (!cluIn cfg.qmask e.1 && !(decide (1024 ≤ e.1 ∧ e.1 < 1040) && bit cfg.qmask (edgeQuarter (e.1 - 1024)))) ||
    (decide (1024 ≤ e.1) && e.2.1 != 0) || before.any fun b => b.1 == e.1 && b.2.1 == e.2.1

/-! ### SCRATCH_DIV and CHANNEL -/

/-- Do two runs of numbers share one? -/
def runsMeet (a b c d : Nat) : Bool := decide (a ≤ d ∧ c ≤ b)

/-- The ranges a stream gives a logical unit (R127, R309). -/
def divIn (cfg : StreamCfg) (l : Nat) : List (Nat × Nat × Nat) :=
  match (cfg.divs.find? fun d => d.1 == l).orElse fun _ => cfg.divs.find? fun d => d.1 == 0xFFF with
  | some d => d.2
  | none => [(0, 95, 1)]

/-- SCRATCH_DIV (R127, R309). -/
def checkDivs (cfg : StreamCfg) : Check :=
  firstBadAfter 0x20 cfg.divs (fun before d => (d.1 != 0xFFF && !unitIn cfg.qmask d.1) || before.any fun b => b.1 == d.1)
  <|> firstBad 0x21 cfg.divs (fun d => d.2.length == 0 || decide (d.2.length > 8))
  <|> firstBad 0x22 cfg.divs (fun d => d.2.any fun r =>
        decide (95 < r.1) || decide (95 < r.2.1) || decide (r.2.1 < r.1) || r.2.2 == 0 || decide (4 < r.2.2))
  <|> firstBad 0x23 cfg.divs fun d =>
        (firstBadAfter 0 d.2 fun before r => before.any fun b => runsMeet b.1 b.2.1 r.1 r.2.1).isSome

/-- Segments before channel k of a queue, and its total (R161). -/
def creditsBefore (d : QueueDecl) (k : Nat) : Nat := ((d.chans.take k).map fun c => c.2.2.2.2).sum

/-- First slot after a ring (R161). -/
def ringEnd (d : QueueDecl) : Nat := d.ring + creditsBefore d d.chans.length * d.segRows

/-- Does a ring break R160? -/
def ringBad (cfg : StreamCfg) (before : List QueueDecl) (d : QueueDecl) : Bool :=
  !((divIn cfg (4 * d.clu + d.unit)).any fun r => r.2.2 == 3 && decide (64 * r.1 ≤ d.ring ∧ ringEnd d ≤ 64 * (r.2.1 + 1)))
  || decide (6144 < ringEnd d)
  || before.any fun b => b.clu == d.clu && b.unit == d.unit && decide (b.ring < ringEnd d ∧ d.ring < ringEnd b)

/-- Has a queue's channel k a matching outgoing entry, or is it remote (R164, R311)? -/
def chanMatched (cfg : StreamCfg) (d : QueueDecl) (k : Nat) : Bool :=
  match d.chans[k]? with
  | none => true
  | some (src, panel, remote, next, cr) =>
    if remote then !next
    else panel == 0 && cfg.outs.any fun o => o.clu == src && !o.remote && o.dclu == d.clu && o.dque == d.queue && o.credits == cr
      && o.segRows == d.segRows && o.firstSeg == creditsBefore d k && o.nextph == next

/-- Has an outgoing entry a matching channel, or is it remote (R164, R311)? -/
def outMatched (cfg : StreamCfg) (o : OutDecl) : Bool :=
  if o.remote then !o.nextph
  else o.dpanel == 0 && cfg.queues.any fun d => d.clu == o.dclu && d.queue == o.dque && d.segRows == o.segRows
    && (List.range d.chans.length).any fun k => match d.chans[k]? with
      | some (src, _, remote, next, cr) => !remote && src == o.clu && cr == o.credits && o.firstSeg == creditsBefore d k && next == o.nextph
      | none => false

/-- The edges of the acyclicity graph: local SAME channels (R175). -/
def sameEdges (cfg : StreamCfg) : List (Nat × Nat) :=
  cfg.queues.flatMap fun d => (d.chans.filter fun c => !c.2.2.1 && !c.2.2.2.1).map fun c => (c.1, d.clu)

/-- Edges left after k rounds of taking away those whose source no edge leads to. -/
def peelEdges : Nat → List (Nat × Nat) → List (Nat × Nat)
  | 0, es => es
  | k + 1, es => peelEdges k (es.filter fun e => es.any fun f => f.2 == e.1)

/-- Has the graph a cycle: is there no topological order (R175)? -/
def hasCycle (es : List (Nat × Nat)) : Bool := !(peelEdges es.length es).isEmpty

/-- A check of the queue records, then of the outgoing entries, whose indices follow theirs. -/
def chanCheck (cfg : StreamCfg) (code : Nat) (q : List QueueDecl → QueueDecl → Bool) (o : List OutDecl → OutDecl → Bool) : Check :=
  firstBadAfter code cfg.queues q <|> (firstBadAfter code cfg.outs o).map fun r => (r.1, cfg.queues.length + r.2)

/-- CHANNEL (R164, R175). -/
def checkChannels (cfg : StreamCfg) : Check :=
  let m := cfg.qmask
  chanCheck cfg 0x28 (fun before d => decide (64 ≤ d.queue) || decide (64 ≤ before.countP fun b => b.clu == d.clu)) (fun _ _ => false)
  <|> chanCheck cfg 0x29 (fun before d => (before.any fun b => b.clu == d.clu && b.queue == d.queue)
        || (firstBadAfter 0 d.chans fun b c => b.any fun e => e.1 == c.1 && e.2.1 == c.2.1 && e.2.2.1 == c.2.2.1).isSome)
      (fun before o => before.any fun b => b.clu == o.clu && b.remote == o.remote && b.dpanel == o.dpanel && b.dclu == o.dclu && b.dque == o.dque)
  <|> chanCheck cfg 0x2A (fun _ d => d.chans.isEmpty || decide (16 < d.chans.length)
        || (d.chans.any fun c => c.2.2.2.2 == 0 || decide (16 < c.2.2.2.2)) || decide (16 < creditsBefore d d.chans.length))
      (fun _ o => o.credits == 0 || decide (16 < o.credits))
  <|> chanCheck cfg 0x2B (fun _ d => d.segRows == 0 || decide (64 < d.segRows)) (fun _ o => o.segRows == 0 || decide (64 < o.segRows))
  <|> chanCheck cfg 0x2C (fun before d => ringBad cfg before d) (fun _ _ => false)
  <|> chanCheck cfg 0x2D (fun _ _ => false) (fun before o => decide (256 ≤ before.countP fun b => b.clu == o.clu))
  <|> chanCheck cfg 0x2E (fun _ d => !(List.range d.chans.length).all (chanMatched cfg d)) (fun _ o => !outMatched cfg o)
  <|> chanCheck cfg 0x2F (fun _ d => !cluIn m d.clu || d.chans.any fun c => !c.2.2.1 && !cluIn m c.1)
      (fun _ o => !cluIn m o.clu || (!o.remote && !cluIn m o.dclu))
  <|> chanCheck cfg 0x30 (fun _ d => d.chans.any fun c => !c.2.2.1 && c.1 == d.clu && !c.2.2.2.1)
      (fun _ o => !o.remote && o.clu == o.dclu && !o.nextph)
  <|> wholeBad 0x31 (hasCycle (sameEdges cfg))

/-! ### MEM_PLACE and REDUCE_WINDOW -/

/-- Is a scope's target owned by a quarter mask (R186)? -/
def targetOwned (m scope target : Nat) : Bool :=
  match scope with
  | 0 => bit m (stackQuarter target)
  | 1 => decide (target < 16) && bit m (fieldQuarter target)
  | 2 => decide (target < 4) && bit m target
  | _ => false

/-- The unit of alignment of a scope (R186); SCOPE 3 as one stack. -/
def scopeUnit (scope : Nat) : Nat := if scope = 3 then 0x100000 else scopeCount scope * 0x100000

/-- Are BASE and LENGTH aligned as a scope asks, OFFSET a multiple of 1 MiB above the control window (R186, R254)? -/
def alignBad (scope base length offset : Nat) : Bool :=
  let u := scopeUnit scope
  base % u != 0 || length % u != 0 || decide (length < u) || offset % 0x100000 != 0 || decide (offset < 0x4000000)

/-- Does a run of addresses leave placement space (R182)? -/
def outsidePlacement (base length : Nat) : Bool :=
  !decide (base + length ≤ 0x47000000000 ∨ (0x47200000000 ≤ base ∧ base + length ≤ 0x48000000000))

/-- Stack-local extents of a placement range, mirror copies counted (R187). -/
def placeExtents (r : PlaceRange) : List (Nat × Nat × Nat) :=
  let n := r.length / scopeCount r.scope
  let stk := scopeStacks r.scope r.target
  stk.map (fun k => (k, r.offset, r.offset + n))
    ++ (if r.mirror then (if r.scope = 0 then [r.partner] else stk).map fun k => (k, r.offset + n, r.offset + 2 * n) else [])

/-- Record bytes of a reduction width (R255). -/
def recBytes (width : Nat) : Nat := if width = 0 then 4096 else 8192

/-- Stack-local extents of a reduction range (R255). -/
def redExtents (r : RedRange) : List (Nat × Nat × Nat) :=
  (scopeStacks r.scope r.target).map fun k =>
    (k, r.aoff, r.aoff + r.length / (1024 * scopeCount r.scope) * recBytes r.width)

/-- The firmware wells of R376. -/
def wells : List (Nat × Nat × Nat) := (List.range 16).map fun f => (32 * (f / 4) + 2 * (f % 4), 0x8ED000000, 0x8EE000000)

/-- Do two sets of extents share an offset of one stack? -/
def extentsMeet (a b : List (Nat × Nat × Nat)) : Bool :=
  a.any fun x => b.any fun y => x.1 == y.1 && decide (x.2.1 < y.2.2 ∧ y.2.1 < x.2.2)

/-- Do two runs base, length share an address? -/
def addrsMeet (a la b lb : Nat) : Bool := decide (a < b + lb ∧ b < a + la)

/-- The streams whose ranges a new one must not meet: in force on other partitions, or PENDING (R188, R256, R300). -/
def otherStreams (s : State) (m : Nat) : List StreamCfg :=
  ((s.parts.filter fun p => p.qmask != m).map (·.cfg)) ++ s.mgr.pends.map (·.cfg)

/-- The placement ranges, or the reduction ranges, that a partition has in force itself: a range of the other kind in its new stream must
not meet them (R256). -/
def ownRanges (s : State) (m : Nat) (reds : Bool) : List StreamCfg :=
  (s.parts.filter fun p => p.qmask == m).map fun p => if reds then { reds := p.cfg.reds } else { places := p.cfg.places }

/-- The reduction ranges in force that a range of the same partition's new stream must not meet: all but the one that it keeps or
changes, which has its RBASE (R256, R257; DEDUCED, log entry 148). -/
def ownReds (s : State) (m : Nat) (r : RedRange) : List StreamCfg :=
  (ownRanges s m true).map fun c => { c with reds := c.reds.filter fun o => o.base != r.base }

/-- Address runs of the ranges of some streams. -/
def rangeAddrs (cs : List StreamCfg) : List (Nat × Nat) :=
  cs.flatMap fun c => (c.places.map fun r => (r.base, r.length)) ++ c.reds.map fun r => (r.base, r.length)

/-- Extents of the ranges of some streams, and the wells (R377). -/
def rangeExtents (cs : List StreamCfg) : List (Nat × Nat × Nat) :=
  wells ++ cs.flatMap fun c => c.places.flatMap placeExtents ++ c.reds.flatMap redExtents

/-- MEM_PLACE (R188, R256): `given` when the stream carries the section. -/
def checkPlaces (s : State) (cfg : StreamCfg) (given : Bool) : Check :=
  let m := cfg.qmask
  let others := otherStreams s m ++ ownRanges s m true
  wholeBad 0x38 (given && decide (64 < cfg.places.length))
  <|> firstBad 0x39 cfg.places (fun r => alignBad r.scope r.base r.length r.offset)
  <|> firstBad 0x3A cfg.places (fun r => !targetOwned m r.scope r.target || (r.partner != 0 && !bit m (stackQuarter r.partner)))
  <|> firstBad 0x3B cfg.places (fun r => outsidePlacement r.base r.length)
  <|> firstBadAfter 0x3C cfg.places (fun before r =>
        ((before.map fun b => (b.base, b.length)) ++ rangeAddrs others).any fun t => addrsMeet r.base r.length t.1 t.2)
  <|> firstBadAfter 0x3D cfg.places (fun before r => extentsMeet (placeExtents r) (rangeExtents others ++ before.flatMap placeExtents))
  <|> firstBad 0x3E cfg.places (fun r =>
        decide (checkStoreBase < r.offset + r.length / scopeCount r.scope * (if r.mirror then 2 else 1)))
  <|> firstBad 0x3F cfg.places fun r =>
        (r.partner != 0 && (!r.mirror || r.scope != 0 || r.partner == r.target)) || (r.mirror && r.scope == 0 && r.partner == 0)

/-- REDUCE_WINDOW (R256). -/
def checkReds (s : State) (cfg : StreamCfg) : Check :=
  let others := otherStreams s cfg.qmask ++ { places := cfg.places } :: ownRanges s cfg.qmask false
  wholeBad 0x40 (decide (16 < cfg.reds.length))
  <|> firstBad 0x41 cfg.reds (fun r => alignBad r.scope r.base r.length r.aoff)
  <|> firstBad 0x42 cfg.reds (fun r => !targetOwned cfg.qmask r.scope r.target)
  <|> firstBad 0x43 cfg.reds (fun r => outsidePlacement r.base r.length)
  <|> firstBadAfter 0x44 cfg.reds (fun before r =>
        ((before.map fun b => (b.base, b.length)) ++ rangeAddrs (others ++ ownReds s cfg.qmask r)).any fun t =>
          addrsMeet r.base r.length t.1 t.2)
  <|> firstBadAfter 0x45 cfg.reds (fun before r =>
        extentsMeet (redExtents r) (rangeExtents (others ++ ownReds s cfg.qmask r) ++ before.flatMap redExtents))
  <|> firstBad 0x46 cfg.reds (fun r => (redExtents r).any fun e => decide (checkStoreBase < e.2.2))
  <|> firstBad 0x47 cfg.reds fun r =>
        decide (r.ebase < -160) || decide (127 < r.ebase) || decide (r.span < 8) || decide (96 < r.span)
        || decide (129 < r.ebase + (r.span : Int)) || decide (1 < r.width)

/-! ### INTEGRITY to SCHEDULE -/

/-- INTEGRITY (R84, R279). -/
def checkInteg (cfg : StreamCfg) : Check :=
  wholeBad 0x48 (cfg.policy == 3) <|> wholeBad 0x49 (cfg.taus.any fun t => t != 0 && (decide (t < 4) || decide (24 < t)))

/-- PAIRING (R309). -/
def checkPairs (cfg : StreamCfg) : Check :=
  wholeBad 0x4C (decide (256 < cfg.pairs.length))
  <|> firstBadAfter 0x4D cfg.pairs (fun before p =>
        let (l, a, b, pu, pf) := p
        let inRange (t : Nat) : Bool := (divIn cfg l).any fun r => decide (r.1 ≤ t ∧ t ≤ r.2.1) && (r.2.2 == 1 || r.2.2 == 2)
        decide (b < a) || !(List.range (b + 1 - a)).all (fun i => inRange (a + i))
        || !((divIn cfg pu).any fun r => r.2.2 == 4 && decide (r.1 ≤ pf ∧ pf + (b - a) ≤ r.2.1))
        || before.any fun e => e.2.2.2.1 == pu && runsMeet e.2.2.2.2 (e.2.2.2.2 + (e.2.2.1 - e.2.1)) pf (pf + (b - a)))
  <|> firstBad 0x4E cfg.pairs fun p => !unitIn cfg.qmask p.1 || !unitIn cfg.qmask p.2.2.2.1 || p.1 / 16 == p.2.2.2.1 / 16

/-- BUDGET limit of R50 times 10: period in µs, operating point (P4 in Dawn, R388). -/
def budgetBad (periodUs point budget : Nat) : Bool := decide (periodUs * pointMhz point * 8 < budget * 10)

/-- The point at which R50 is checked for the quarters of a mask (R388). -/
def budgetPoint (s : State) (m pmin : Nat) : Nat := if (maskQuarters m).any (inDawn s) then 4 else pmin

/-- GOVERNOR (R312): `live` checks the images in force. -/
def checkGov (s : State) (cfg : StreamCfg) (live : Bool) : Check :=
  wholeBad 0x50 (cfg.nframes == 0)
  <|> wholeBad 0x51 (live && cfg.scheds.any fun e => budgetBad cfg.period (budgetPoint s cfg.qmask cfg.pmin) (natAt e.image 8 4))

/-- Byte offset of the handler of queue q of an image (R139); 0 for none. -/
def handlerAt (img : Bytes) (q : Nat) : Nat := 4 * natAt img (0x80 + 2 * q) 2

/-- Are the handler slots of an image's header bad (R139, R140)? -/
def slotsBad (img : Bytes) : Bool :=
  let n := natAt img 0x10 4
  decide (8 < n)
  || decide (natAt img 8 4 < ((List.range (min n 8)).map fun k => natAt img (0x14 + 8 * k) 4).sum)
  || ((List.range 8).any fun k => if k < n
      then natAt img (0x18 + 8 * k) 2 == 0 || decide (1024 < natAt img (0x18 + 8 * k) 2) || natAt img (0x1A + 8 * k) 2 != 0
      else natAt img (0x14 + 8 * k) 8 != 0)
  || ((img.drop 0x54).take 44).any (· != 0)

/-- The logical clusters that take entry e of a stream (R309). -/
def takers (cfg : StreamCfg) (e : SchedEntry) : List Nat :=
  if e.clu = 0x3FF then (maskLogical cfg.qmask).filter fun l => !cfg.scheds.any fun x => x.clu == l else [e.clu]

/-- SCHEDULE (R140, R312): `given` when the stream carries the section.  An entry in force that a failed digest left without an image has
none to check (R298, R305). -/
def checkScheds (s : State) (cfg : StreamCfg) (given : Bool) (bodyLen : Nat) : Check :=
  let es := cfg.scheds
  firstBadAfter 0x58 (if given then es else []) (fun before e =>
      (e.clu != 0x3FF && !cluIn cfg.qmask e.clu) || (before.any fun b => b.clu == e.clu) || e.offset % 8 != 0 || e.length % 4 != 0
      || decide (e.offset < 64 * es.length) || decide (bodyLen < e.offset + e.length) || decide (e.length < 256)
      || decide (65536 < e.length))
  <|> firstBad 0x59 es (fun e => !e.image.isEmpty && natAt e.image 0 4 != 0x4C565331)
  <|> firstBad 0x5A es (fun e => budgetBad cfg.period (budgetPoint s cfg.qmask cfg.pmin) (natAt e.image 8 4))
  <|> firstBad 0x5B es (fun e =>
        let entry := natAt e.image 0xC 4
        !e.image.isEmpty && (entry % 4 != 0 || decide (entry < 0x100) || decide (e.length ≤ entry)
        || (List.range 64).any fun q => handlerAt e.image q != 0 && (decide (handlerAt e.image q < 0x100) || decide (e.length ≤ handlerAt e.image q))))
  <|> firstBad 0x5C es (fun e => !e.image.isEmpty && slotsBad e.image)
  <|> firstBad 0x5D es fun e => (List.range 64).any fun q => handlerAt e.image q != 0
        && !(takers cfg e).all fun l => cfg.queues.any fun d => d.clu == l && d.queue == q

end Sys2Proof.Machine
end

