-- ==== Sys2Proof/Machine/StreamLoad.lean ====
section
/-! DEFINITION. Loading, withdrawing and validating a structure stream (R297 to R303, R306). -/

namespace Sys2Proof.Machine

/-! ### QC_SS_STAT (R301, R313) -/

/-- Index of a section in its stream: sections stand in ascending TYPE, each once (R295); 0xF for one that is omitted. -/
def sectIndex (present typ : Nat) : Nat :=
  if bit present typ then ((List.range typ).filter fun t => bit present t).length else 0xF

/-- QC_SS_STAT of quarter q takes a state and the fields of a failure. -/
def setSs (s : State) (q state : Nat) (f : SsFail) : State :=
  s.setReg (qcSsStatAt q) (f.entry % 2 ^ 20 * 2 ^ 28 + f.typ % 256 * 2 ^ 20 + min f.sect 15 * 2 ^ 16 + f.code * 2 ^ 8 + state)

/-- STATE of QC_SS_STAT. -/
def ssState (s : State) (q : Nat) : Nat := s.regField (qcSsStatAt q) 3 0

/-- A stream comes to an end of its own: the state, and a STREAM_EVENT with QC_SS_STAT (R301, R353). -/
def endSs (s : State) (q state : Nat) (f : SsFail) : State :=
  let s := setSs s q state f
  stageMsg s q 3 (leBytes 8 (s.reg (qcSsStatAt q)))

/-- A stream is refused (R301). -/
def refuseSs (s : State) (q : Nat) (f : SsFail) : State := (endSs s q 6 f).bump (qcSsRefuseCntAt q)

/-- The clusters that a stream is installed into: those of the quarters without a stream in force that take an image (R302). -/
def installedInto (s : State) (cfg : StreamCfg) : List Nat :=
  (cfg.scheds.flatMap (takers cfg)).filterMap fun l =>
    (cluOfLogical s l).filter fun c => (partOf s (cluQuarter c)).isNone

/-- Clusters being installed are left without an image (R307). -/
def wipeImages (s : State) (cfg : StreamCfg) : State :=
  (installedInto s cfg).foldl (fun s c => s.clear (schedAt c 0) 65536) s

/-- A stream of quarter q leaves the queue of loads, step 5 of its validation or the list of PENDING streams, and its raise is asked
for no more (R306, R307). -/
def dropSs (s : State) (q : Nat) : State :=
  let s := match s.mgr.install with
    | some p => if p.q = q then wipeImages (s.modMgr fun m => { m with install := none }) p.cfg else s
    | none => s
  s.modMgr fun m => { m with
    ssQueue := m.ssQueue.filter (· != q), pends := m.pends.filter fun p => p.q != q
    locks := m.locks.filter fun r => r.stream != some q }

/-- A stream that is VALIDATING, INSTALLING or PENDING is aborted (R307). -/
def abortSs (s : State) (q code : Nat) : State :=
  if 1 ≤ ssState s q ∧ ssState s q ≤ 3 then endSs (dropSs s q) q 8 { code := code } else s

/-- The streams in progress of the quarters of a mask are aborted (R307). -/
def abortStreams (s : State) (m code : Nat) : State :=
  let qs := (List.range 4).filter fun q => bit m q || (s.mgr.install.toList ++ s.mgr.pends).any fun p =>
    p.q == q && (p.cfg.qmask &&& m) != 0
  qs.foldl (fun s q => abortSs s q code) s

/-! ### Apply edge (R46, R303) -/

/-- Earliest instant of the edge at which a PENDING stream may take effect, in ns at its controller: T of its raise, else
100 µs after validation and not before NOT_BEFORE. -/
def dueNs (s : State) (p : PendStream) : Nat :=
  if p.raise = 2 then p.due
  else max (qcNs s p.q + 100000 - (s.fab - max p.validAt s.mgr.setAt) / 2) p.cfg.notBefore

/-- The edge at which a PENDING stream will take effect: of the running period, or of its own; T of its raise where no tick runs (R46,
R303). -/
def applyEdge (s : State) (p : PendStream) : Nat :=
  let period := match (partOf s (lowestQuarter p.cfg.qmask)).filter (·.tick) with
    | some x => x.period
    | none => p.cfg.period * 1000
  let lo := max (dueNs s p) (qcNs s p.q)
  if p.raise = 2 ∧ ((partOf s (lowestQuarter p.cfg.qmask)).filter (·.tick)).isNone = true then p.due
  else (lo + period - 1) / period * period

/-! ### SS_LOAD and SS_CANCEL -/

/-- SS_LOAD: the controller hands the stream to the manager's queue, unless one of its own is in progress
or the quarter has no service level (R299, R300, R362). -/
def execSsLoad (q : QuarterId) (s : State) : Res :=
  when_ (decide (ssState s q = 0 ∨ 4 < ssState s q) && (s.qtr q).svc != 0) s
    (((setSs s q 1 { code := 0 }).modMgr fun m => { m with ssQueue := m.ssQueue ++ [q.val] }).bump (qcSsLoadCntAt q))

/-- Does a CANCEL come too late: less than 10 µs before the apply edge (R306)? -/
def cancelLate (s : State) (q : Nat) : Bool :=
  match s.mgr.pends.find? fun p => p.q == q with
  | some p => p.raise != 1 && decide (applyEdge s p < qcNs s q + 10000)
  | none => false

/-- SS_CANCEL (R306) -/
def execSsCancel (q : QuarterId) (s : State) : Res :=
  when_ (decide (1 ≤ ssState s q ∧ ssState s q ≤ 3) && !cancelLate s q) s (endSs (dropSs s q) q 7 { code := 0 })

/-! ### STREAM_VALIDATE (R301) -/

/-- The quarters of the streams that are PENDING or in IMAGES (R300). -/
def busyMask (s : State) : Nat :=
  (s.mgr.pends.foldl (fun m p => m ||| p.cfg.qmask) 0) ||| s.parts.foldl (fun m p => if p.loading then m ||| p.qmask else m) 0

/-- Step 1 of R301: the code of the header's first failure. -/
def headFailure (s : State) (q : Nat) (h : StreamHead) : Option Nat :=
  if h.magic ≠ 0x4C565354 ∨ h.version ≠ 1 then some 0x03
  else if h.device ≠ bits (s.reg pmIdAt) 31 16 ∨ h.step ≠ bits (s.reg pmIdAt) 15 8 then some 0x04
  else if h.total < 168 ∨ 0x8000000 < h.total ∨ h.total % 8 ≠ 0 ∨ h.total ≠ s.reg (qcSsLenAt q) then some 0x05
  else if h.qmask = 0 ∨ 15 < h.qmask ∨ bit h.qmask q = false then some 0x10
  else if (busyMask s &&& h.qmask) ≠ 0 then some 0x01
  else none

/-- Is the signature of a stream good (R296)? -/
def signatureOk (s : State) (h : StreamHead) (bytes : Bytes) : Bool :=
  match streamKey s h.keyid with
  | none => false
  | some key =>
    let n := bytes.length - 96
    ecdsaVerify key (sha384 (bytes.take n)) (beNat ((bytes.drop n).take 48)) (beNat (bytes.drop (n + 48)))

/-- Is SERIAL not above that of the last stream in effect on a quarter of the mask (R297)? -/
def serialBad (s : State) (h : StreamHead) : Bool :=
  (maskQuarters h.qmask).any fun q => (partOf s q).isSome && decide (h.serial ≤ s.reg (qcSsSerialAt q))

/-- The first section that is bad in view of those before it, as a failure. -/
def badSection (code : Nat) (secs : List Section) (bad : List Section → Section → Bool) : Option SsFail :=
  (firstBadAfter code secs bad).bind fun r => (secs[r.2]?).map fun x => { code := code, sect := r.2, typ := x.typ }

/-- The first entry of a section with a reserved bit set, as a failure that names it (R301). -/
def strayFailure (secs : List Section) : Option SsFail :=
  ((List.range secs.length).zip secs).findSome? fun x =>
    (strayEntry x.2).map fun e => { code := 0x0C, sect := x.1, typ := x.2.typ, entry := e }

/-- Is any quarter of a mask without a stream in force? -/
def anyFree (s : State) (m : Nat) : Bool := (maskQuarters m).any fun q => (partOf s q).isNone

/-- The KIND rules of R298. -/
def kindFailure (s : State) (h : StreamHead) (secs : List Section) : Option SsFail :=
  let has (t : Nat) : Bool := secs.any fun x => x.typ == t
  if h.kind = 0 then
    ([0x01, 0x02] ++ if anyFree s h.qmask then [0x0D] else []).findSome? fun t =>
      if has t then none else some { code := 0x0A, sect := 0xF, typ := t }
  else if h.kind = 1 then
    badSection 0x0B secs (fun _ x => x.typ != 0x05 && x.typ != 0x0C)
    <|> (if s.parts.any fun p => p.qmask == h.qmask then none else some { code := 0x0B })
  else some { code := 0x0B }

/-- Step 3 of R301: the walk over the section headers.  A section whose header is cut short has an index and no TYPE; NSECT, bytes left
over and the reserved bytes of the stream header are the stream's own failures (DESIGN CHOICE, log entry 149). -/
def walkFailure (s : State) (h : StreamHead) (r : List Section × Bytes × Bool) : Option SsFail :=
  let secs := r.1
  badSection 0x09 secs (fun before x => x.typ == 0 || decide (13 < x.typ) || before.any fun b => decide (x.typ ≤ b.typ))
  <|> badSection 0x0C secs (fun _ x => x.length % 8 != 0 || x.body.length != x.length)
  <|> (if r.2.2 then none else some { code := 0x0C, sect := secs.length })
  <|> (if h.nsect = 0 ∨ 13 < h.nsect ∨ r.2.1.isEmpty = false then some { code := 0x0C } else none)
  <|> badSection 0x08 secs (fun _ x => crc32c x.body != x.crc)
  <|> kindFailure s h secs
  <|> badSection 0x0C secs (fun _ x => !sectionShape x)
  <|> strayFailure secs
  <|> (if h.rsvd ≠ 0 then some { code := 0x0C } else none)

/-- The stream a LIVE one changes, or an empty one for FULL with the defaults of R308. -/
def baseStream (s : State) (h : StreamHead) : StreamCfg :=
  let c : StreamCfg := { qmask := h.qmask, serial := h.serial, notBefore := h.notBeforeNs }
  match s.parts.find? fun p => p.qmask == h.qmask with
  | some p =>
    if h.kind = 1 then { p.cfg with live := true, serial := h.serial, notBefore := h.notBeforeNs, present := 0 }
    else { c with share := uniformShare s h.qmask, scheds := p.cfg.scheds, places := defaultPlaces h.qmask }
  | none => { c with share := uniformShare s h.qmask, places := defaultPlaces h.qmask }

/-- A LIVE SHAPER changes the buckets it names and leaves the others (R309). -/
def mergeShapers (old new : List (Nat × Nat × Nat × Nat)) : List (Nat × Nat × Nat × Nat) :=
  new ++ old.filter fun e => !new.any fun n => n.1 == e.1 && n.2.1 == e.2.1

/-- The whole stream read over its base (R298, R308). -/
def streamOf (s : State) (h : StreamHead) (secs : List Section) : StreamCfg :=
  let b := baseStream s h
  let c := secs.foldl addSection b
  if h.kind = 1 ∧ bit c.present 5 then { c with shapers := mergeShapers b.shapers c.shapers } else c

/-- A section's check as a failure that names it (R301). -/
def sectFail (cfg : StreamCfg) (typ : Nat) (c : Check) : Option SsFail :=
  c.map fun r => { code := r.1, sect := sectIndex cfg.present typ, typ := typ, entry := r.2 }

/-- Checks of the sections up to SHAPER's entries. -/
def earlyChecks (s : State) (cfg : StreamCfg) (secs : List Section) : Option SsFail :=
  let own (t : Nat) : Option Section := secs.find? fun x => x.typ == t
  let shapers : List (Nat × Nat × Nat × Nat) := match own 5 with
    | some x => (addSection { qmask := cfg.qmask } x).shapers
    | none => []
  if cfg.live then sectFail cfg 5 (checkShaper cfg shapers)
  else
    sectFail cfg 1 (checkPartition s cfg.qmask (match own 1 with | some x => natAt x.body 0 4 % 16 | none => 0))
    <|> sectFail cfg 2 (wholeBad 0x14 (decide (cfg.period < 4) || decide (16000 < cfg.period)))
    <|> sectFail cfg 3 (checkFieldUse s cfg)
    <|> sectFail cfg 4 (checkRoute cfg)
    <|> sectFail cfg 5 (checkShaper cfg shapers)

/-- Checks of the sections after SHAPER. -/
def lateChecks (s : State) (cfg : StreamCfg) (secs : List Section) : Option SsFail :=
  let bodyLen := match secs.find? fun x => x.typ == 0x0D with | some x => x.length | none => 0
  if cfg.live then (if bit cfg.present 0x0C then sectFail cfg 0x0C (checkGov s cfg true) else none)
  else
    sectFail cfg 6 (checkDivs cfg)
    <|> sectFail cfg 7 (checkChannels cfg)
    <|> sectFail cfg 8 (checkPlaces s cfg (bit cfg.present 8))
    <|> sectFail cfg 9 (checkReds s cfg)
    <|> sectFail cfg 0x0A (checkInteg cfg)
    <|> sectFail cfg 0x0B (checkPairs cfg)
    <|> sectFail cfg 0x0C (checkGov s cfg false)
    <|> sectFail cfg 0x0D (checkScheds s cfg (bit cfg.present 0x0D) bodyLen)

/-- Step 4 of R301: the sections in ascending TYPE; the cut check, which records itself, stands after SHAPER's entries
(R250, R251). -/
def sectionChecks (s : State) (cfg : StreamCfg) (secs : List Section) : Option SsFail × State :=
  match earlyChecks s cfg secs with
  | some f => (some f, s)
  | none =>
    let c := if cfg.live && !bit cfg.present 5 then (true, s) else cutCheck s cfg
    if c.1 then (lateChecks c.2 cfg secs, c.2)
    else (sectFail cfg 5 (some (0x1A, 0)), c.2)

/-- The reduction ranges of a stream that are new or differ from those in force (R257). -/
def newReds (s : State) (cfg : StreamCfg) : List RedRange :=
  let old := match s.parts.find? fun p => p.qmask == cfg.qmask with | some p => p.cfg.reds | none => []
  if cfg.live then [] else cfg.reds.filter fun r => !old.contains r

/-- The extents of some records are zeroed, with their check values. -/
def zeroExtents (s : State) (es : List (Nat × Nat × Nat)) : State :=
  es.foldl (fun s e => (s.clear (stackAt e.1 e.2.1) (e.2.2 - e.2.1)).clear (stackAt e.1 (checkOff (e.2.1 / 1024)))
    (8 * ((e.2.2 - e.2.1) / 1024))) s

/-- Fabric cycles router n takes for its extents: 1.6 TB/s (R257). -/
def zeroCyclesAt (es : List (Nat × Nat × Nat)) (n : Nat) : Nat := ((es.filter fun e => e.1 == n).map fun e => e.2.2 - e.2.1).sum / 800

/-- Fabric cycles the slowest router takes (R257). -/
def zeroCycles (es : List (Nat × Nat × Nat)) : Nat := ((List.range 128).map (zeroCyclesAt es)).foldl max 0

/-- The extents whose records a stream in step 5 zeroes. -/
def zeroedBy (s : State) (cfg : StreamCfg) : List (Nat × Nat × Nat) := (newReds s cfg).flatMap redExtents

/-- The records of new reduction ranges have been zeroed by their routers, which began at a fabric cycle; no record of theirs is cached
any more (R257, R266, R301 step 5). -/
def zeroNewReds (s : State) (cfg : StreamCfg) (from_ : Nat) : State :=
  let es := zeroedBy s cfg
  let s := es.foldl (fun s e => s.modMr e.1 fun x => { x with redCache := x.redCache.filter fun o => !(e.2.1 ≤ o && o < e.2.2) }) s
  advFab (zeroExtents s es) (from_ + zeroCycles es)

/-- Does router n zero records for the stream in step 5: MR_RED_STAT.ZEROING (R270)? -/
def zeroingAt (s : State) (n : Nat) : Bool :=
  match s.mgr.install with
  | some p => decide (s.fab < p.validAt + zeroCyclesAt (zeroedBy s p.cfg) n)
  | none => false

/-- The images of a stream are written into the schedule memories of the logical clusters of a mask (R302). -/
def installImages (s : State) (cfg : StreamCfg) : State :=
  cfg.scheds.foldl (fun s e => (takers cfg e).foldl (fun s l =>
    match cluOfLogical s l with | some c => s.write (schedAt c 0) e.image | none => s) s) s

/-- Does an image fail its digest (R302)? -/
def digestBad (e : SchedEntry) : Bool := sha384 e.image != e.digest

/-- Does a stream need the point raised before it may apply (R303)?  A change that stands lowers the point it counts from, and Dawn
makes no change (R49, R388). -/
def needsRaise (s : State) (cfg : StreamCfg) : Bool :=
  decide (pointAhead s < cfg.pmin) && (!cfg.live || bit cfg.present 0x0C) && !(maskQuarters cfg.qmask).any (inDawn s)

/-- Has step 5 of R301 work for a stream: records to zero, or images to install into clusters without a stream (R302)? -/
def needsInstall (s : State) (cfg : StreamCfg) : Bool :=
  !(newReds s cfg).isEmpty || (!cfg.live && anyFree s cfg.qmask)

/-- A stream has passed every check and is PENDING (R303). -/
def passStream (s : State) (q : Nat) (cfg : StreamCfg) : State :=
  let raise := needsRaise s cfg
  let p : PendStream := { q := q, cfg := cfg, validAt := s.fab, raise := b2n raise, triedAt := s.fab }
  let s := setSs (s.modMgr fun m => { m with pends := m.pends ++ [p] }) q 3 { code := 0 }
  if raise then requestLock s { code := 4, qmask := 15, arg := cfg.pmin, reply := none, stream := some q }
  else s.setReg (qcSsApplyAt q) (timeWord (applyEdge s p))

/-- Steps 2 to 4 of R301 on the bytes of a stream: PENDING where step 5 has nothing to do, else INSTALLING (DESIGN CHOICE, log entry
75). -/
def validateBytes (s : State) (q : Nat) (h : StreamHead) (bytes : Bytes) : State :=
  if !signatureOk s h bytes then refuseSs s q { code := 0x06 }
  else if serialBad s h then refuseSs s q { code := 0x07 }
  else
    let r := readSections h.nsect ((bytes.drop 48).take (bytes.length - 144))
    match walkFailure s h r with
    | some f => refuseSs s q f
    | none =>
      let cfg := { streamOf s h r.1 with hash := sha384 bytes }
      match sectionChecks s cfg r.1 with
      | (some f, s) => refuseSs s q f
      | (none, s) =>
        if needsInstall s cfg then
          setSs (s.modMgr fun m => { m with install := some { q := q, cfg := cfg, validAt := s.fab } }) q 2 { code := 0 }
        else passStream s q cfg

/-- Step 5 of R301 ends: the records of new ranges are zeroed and the images installed into the clusters without a stream, unless one
fails its digest (R257, R302). -/
def finishInstall (s : State) (p : PendStream) : State :=
  let s := s.modMgr fun m => { m with install := none }
  let images := !p.cfg.live && anyFree s p.cfg.qmask
  match if images then sectFail p.cfg 0x0D (firstBad 0x5E p.cfg.scheds digestBad) else none with
  | some f => refuseSs s p.q f
  | none =>
    let s := zeroNewReds s p.cfg p.validAt
    passStream (if images then installImages s p.cfg else s) p.q p.cfg

/-- STREAM_VALIDATE: the manager validates the stream at the front of its queue of loads (R300, R301); for the stream that stands at
INSTALLING it is the end of step 5, and no other is validated meanwhile.  The bytes the DMA reads bring are operands; none is a read
that failed. -/
def execStreamValidate (q : QuarterId) (header rest : Option Bytes) (s : State) : Res :=
  match activeMgr s, s.mgr.install, s.mgr.ssQueue with
  | some _, some p, _ => when_ (p.q == q.val) s (finishInstall s p)
  | some _, none, k :: ks =>
    if k = q.val then
      let s := s.modMgr fun m => { m with ssQueue := ks }
      match header with
      | none => .next (refuseSs s q { code := 0x02 })
      | some hb =>
        let h := readHead hb
        if hb.length ≠ 48 then .next (refuseSs s q { code := 0x02 })
        else match headFailure s q h with
          | some code => .next (refuseSs s q { code := code })
          | none =>
            match rest with
            | none => .next (refuseSs s q { code := 0x02 })
            | some rb =>
              if hb.length + rb.length ≠ h.total then .next (refuseSs s q { code := 0x02 })
              else .next (validateBytes s q h (hb ++ rb))
    else .next s
  | _, _, _ => .next s

/-- PMIN_RAISE_RETRY: 1 ms after a BUSY_CONFLICT the raise to a stream's PMIN is requested again (R303). -/
def execPminRaiseRetry (s : State) : Res :=
  match activeMgr s, s.mgr.pends.find? fun p => p.raise == 1 && !s.mgr.locks.any fun r => r.stream == some p.q with
  | some _, some p =>
    let s := advFab s (p.triedAt + 2000000)
    if p.cfg.pmin ≤ s.mgr.cur then
      let s := modPend s p.q fun p => { p with raise := 0 }
      .next (s.setReg (qcSsApplyAt p.q) (timeWord (applyEdge s { p with raise := 0 })))
    else .next (requestLock (modPend s p.q fun p => { p with triedAt := s.fab })
      { code := 4, qmask := 15, arg := p.cfg.pmin, reply := none, stream := some p.q })
  | _, _ => .next s

end Sys2Proof.Machine
end

