-- ==== Sys2Proof/Machine/StreamApply.lean ====
section
/-! DEFINITION. A structure stream takes effect at step 2 of a tick edge (R47, R176, R245, R281, R304, R305). -/

namespace Sys2Proof.Machine

/-! ### What a stream sets in a cluster and an edge die -/

/-- UNIT_TAU as the seven tolerance exponents give it (R84). -/
def tauWord (taus : List Nat) : Nat := ((List.range 7).map fun g => taus.getD g 0 % 32 * 2 ^ (5 * g)).sum

/-- The buckets of logical cluster l at physical cluster c change as its own keeper counts edge t (R244, R245). -/
def configBuckets (s : State) (cfg : StreamCfg) (t : Option Nat) (l c : Nat) : State :=
  let f := switchCycle s (cluSite c) t
  (List.range 3).foldl (fun s k => let v := shaperOf cfg l k; setBucketCfg s (bucketOf c k) f v.2 v.1) s

/-- Logical cluster l at physical cluster c takes its shaper values, tolerances and seed (R79, R84, R244, R245). -/
def configCluster (s : State) (cfg : StreamCfg) (t : Option Nat) (l c : Nat) : State :=
  let s := configBuckets s cfg t l c
  (List.range 4).foldl (fun s i =>
    (s.setReg (unitTauAt (4 * c + i)) (tauWord cfg.taus)).setReg (unitSrSeedAt (4 * c + i)) cfg.seed) s

/-- Only the shaper values of a partition's sources (R245). -/
def configShapers (s : State) (cfg : StreamCfg) (t : Option Nat) : State :=
  let s := (maskLogical cfg.qmask).foldl (fun s l => match cluOfLogical s l with
    | some c => configBuckets s cfg t l c
    | none => s) s
  (maskEdges cfg.qmask).foldl (fun s e =>
    let v := shaperOf cfg (1024 + e) 0
    setBucketCfg s (bucketOfEdge e) (switchCycle s (edgeSite e) t) v.2 v.1) s

/-- Every configuration register of a partition as its stream gives it. -/
def configAll (s : State) (cfg : StreamCfg) (t : Option Nat) : State :=
  let s := configShapers s cfg t
  (maskLogical cfg.qmask).foldl (fun s l => match cluOfLogical s l with | some c => configCluster s cfg t l c | none => s) s

/-! ### Channels (R176) -/

/-- The clusters of the fields of a mask that hold a logical position, and every other cluster of the quarters. -/
def partClusters (m : Nat) : List Nat := allClusters m

/-- The new channel generation of a partition (R176). -/
def newGen (s : State) (m : Nat) : Nat :=
  let g0 := match allClusters (2 ^ lowestQuarter m) with | c :: _ => (s.cl c).gen | [] => 0
  nextGen g0 ((allClusters m).map fun c => (s.cl c).gen)

/-- The channel actions of R176 on every cluster of a partition, over the rings of the streams given. -/
def resetAllChannels (s : State) (m : Nat) (cfgs : List StreamCfg) : State :=
  let g := newGen s m
  (allClusters m).foldl (fun s c => resetChannels s c g (cfgs.flatMap fun cfg => ringSlots s cfg c)) s

/-! ### Shadow pairs under a new stream -/

/-- Is a slot of a logical unit in a source range of a stream (R309)? -/
def isSource (cfg : StreamCfg) (l slot : Nat) : Bool := cfg.pairs.any fun p => p.1 == l && p.2.1 ≤ slot / 64 && slot / 64 ≤ p.2.2.1

/-- Marks and sets are kept for the slots that are still sources; a unit without a pair has none (DESIGN CHOICE, log entry
49). -/
def keepShadow (s : State) (cfg : StreamCfg) : State :=
  (maskLogical cfg.qmask).foldl (fun s l => match cluOfLogical s l with
    | none => s
    | some c => (List.range 4).foldl (fun s i =>
        let u := 4 * c + i
        let keep (sl : Nat) : Bool := isSource cfg (4 * l + i) sl
        let x := s.un u
        let s := s.setUn u { x with
          dirty := x.dirty.filter keep, sets := x.sets.map fun t => (t.1, t.2.1.filter keep, t.2.2.filter keep) }
        if cfg.pairs.any fun p => p.1 == 4 * l + i then retireSets s u
        else (s.modUn u fun x => { x with sets := [] }).setReg (unitShadowStatAt u) 0) s) s

/-! ### Taking effect (R304) -/

/-- The ledger of a quarter starts anew (R459). -/
def clearLedger (s : State) (q : Nat) : State :=
  [pwrEnergyAt q, pwrTokensAt q, pwrTpmwhAt q, pwrJpfAt q, pwrOps0At q, pwrOps1At q, pwrOps2At q, pwrOps3At q, pwrOps4At q,
    pwrOps5At q, pwrOps6At q, pwrOps7At q].foldl (fun s a => s.setReg a 0) s

/-- QC_SS registers and counter when a stream takes effect (R304, R313). -/
def noteApplied (s : State) (p : PendStream) (t : Nat) (loading : Bool) : State :=
  let s := (maskQuarters p.cfg.qmask).foldl (fun s q => s.setReg (qcSsSerialAt q) p.cfg.serial) s
  let s := (s.bump (qcSsApplyCntAt p.q)).setReg (qcSsApplyAt p.q) (timeWord t)
  if loading then setSs s p.q 4 { code := 0 } else endSs s p.q 5 { code := 0 }

/-- A LIVE stream: its buckets change, and a GOVERNOR section replaces the one in force (R245, R309, R454). -/
def applyLive (s : State) (p : PendStream) (t : Nat) : State :=
  let cfg := p.cfg
  let s := modPart s (lowestQuarter cfg.qmask) fun x => { x with
    cfg := { cfg with present := x.cfg.present, live := false }
    slackN := if bit cfg.present 0x0C then 0 else x.slackN, slackLow := if bit cfg.present 0x0C then 65536 else x.slackLow }
  let s := if bit cfg.present 5 then configShapers s cfg (some t) else s
  noteApplied s p t false

/-- A stream whose images failed their digest in the load interval keeps no such image (R305). -/
def withoutBad (cfg : StreamCfg) : StreamCfg :=
  { cfg with scheds := cfg.scheds.map fun e => if digestBad e then { e with image := [] } else e }

/-- A FULL stream at edge t (R176, R304, R305): tick period and joining interval, channels, shapers, images. -/
def applyFull (s : State) (p : PendStream) (t : Nat) : State :=
  let m := p.cfg.qmask
  let old := partOf s (lowestQuarter m)
  let running := match old with | some x => x.tick | none => false
  let load := running && bit p.cfg.present 0x0D
  let cfg := if load then withoutBad p.cfg else p.cfg
  let period := cfg.period * 1000
  let s := resetAllChannels s m (cfg :: match old with | some x => [x.cfg] | none => [])
  let base : Partition := old.getD { qmask := m, cfg := cfg }
  let next : Partition := { base with
    cfg := cfg, tick := true, period := period, lastEdge := t
    joinTo := if t % period = 0 then none else some ((t + period - 1) / period * period)
    loading := load, loadBad := load && p.cfg.scheds.any digestBad
    hold := false, halted := false, held := [], slackN := 0, slackLow := 65536, slackUnder := false, overran := false
    linkSusp := p.linkMoved || (List.range 760).any fun l => linkIn m l && (s.link l).state == 4 }
  let s := match old with
    | some _ => modPart s (lowestQuarter m) fun _ => next
    | none => { s with parts := s.parts ++ [next] }
  let s := keepShadow (configAll s cfg (some t)) cfg
  let s := if load then
      let s := (allClusters m).foldl (fun s c => if (s.cl c).replay.isSome then s else
        (cancelAll s c).modCl c fun x => { x with seq := .idle, late := none, stall := none, handler := none }) s
      installImages s cfg
    else s
  let s := if old.isNone then (maskQuarters m).foldl clearLedger s else s
  refreshSusp (noteApplied s p t load)

/-- Is the check of FIELD_USE at the apply edge failed: has the map changed (R304)?  The entry that fails. -/
def fieldUseStale (s : State) (cfg : StreamCfg) : Option Nat :=
  if bit cfg.present 3 && !cfg.live then cfg.fieldUse.findIdx? fun e => e.2 != dmapSig s e.1 else none

/-- A PENDING stream meets its edge t: it takes effect, or is refused with FIELD_MAP (R304). -/
def applyStream (s : State) (p : PendStream) (t : Nat) : State :=
  let s := dropSs s p.q
  match fieldUseStale s p.cfg with
  | some i => refuseSs s p.q { code := 0x15, sect := sectIndex p.cfg.present 3, typ := 3, entry := i }
  | none => if p.cfg.live then applyLive s p t else applyFull s p t

/-- May a PENDING stream take effect at edge t (R46, R303)?  A raise to its PMIN sets its edge; otherwise 100 µs have
passed since validation and NOT_BEFORE has come; FULL asks for an empty held-step table. -/
def streamDue (s : State) (p : PendStream) (t : Nat) : Bool :=
  (if p.raise = 0 then decide (p.validAt + 200000 ≤ s.fab ∧ p.cfg.notBefore ≤ t) else p.raise == 2 && decide (p.due ≤ t))
  && (p.cfg.live || (partD s (lowestQuarter p.cfg.qmask)).held.isEmpty)

/-- Step 2 of R34 for the partition of quarter q at edge t. -/
def applyDue (s : State) (q t : Nat) : State :=
  match s.mgr.pends.find? fun p => bit p.cfg.qmask q && streamDue s p t with
  | some p => applyStream s p t
  | none => s

end Sys2Proof.Machine
end

