-- ==== Sys2Proof/Machine/Shadow.lean ====
section
/-! DEFINITION. Shadow pairing: copying the dirty sets (R425, R426). -/

namespace Sys2Proof.Machine

/-- The partner of a source slot: logical unit and slot (R309). -/
def partnerSlot (cfg : StreamCfg) (l slot : Nat) : Option (Nat × Nat) :=
  (cfg.pairs.find? fun p => p.1 == l && p.2.1 ≤ slot / 64 && slot / 64 ≤ p.2.2.1).map fun p =>
    (p.2.2.2.1, (p.2.2.2.2 + (slot / 64 - p.2.1)) * 64 + slot % 64)

/-- Is a source slot's partner there: is its position not VACANT (R426)? -/
def partnerThere (s : State) (cfg : StreamCfg) (l slot : Nat) : Bool :=
  match partnerSlot cfg l slot with | some (pl, _) => (unitOfLogical s pl).isSome | none => false

/-- Is a pair of a unit broken (R426)? -/
def shadowBroken (s : State) (u : Nat) : Bool :=
  match cfgOf s (dieQuarter (u / 16)), logicalOfUnit s u with
  | some cfg, some l => cfg.pairs.any fun p => p.1 == l && (unitOfLogical s p.2.2.2.1).isNone
  | _, _ => false

/-- The next slot a unit's engine sends: of the earliest set, in ascending order, its partner being there. -/
def nextCopy (s : State) (cfg : StreamCfg) (u l : Nat) : Option Nat :=
  (s.un u).sets.findSome? fun t => t.2.1.find? fun sl => partnerThere s cfg l sl

/-- Tag of a Shadow write, which no stream-engine tag uses (DESIGN CHOICE, log entry 50). -/
def shadowTag (i slot : Nat) : Nat := 0x10000 + 8192 * i + slot

/-- A slot moves from those to be read to those awaiting an acknowledgement. -/
def markSent (x : UnitState) (slot : Nat) : UnitState :=
  { x with sets := mapFirst (fun t => t.2.1.contains slot) (fun t => (t.1, t.2.1.filter (· != slot), insSorted t.2.2 slot)) x.sets }

/-- One slot is read and sent to its partner as a BULK write with its tag (R425). -/
def copySlot (s : State) (cfg : StreamCfg) (c i slot : Nat) : State :=
  let u := 4 * c + i
  match (logicalOfUnit s u).bind fun l => partnerSlot cfg l slot with
  | none => s
  | some (pl, psl) =>
    match unitOfLogical s pl with
    | none => s
    | some pu =>
      let s := atPresent (takePort s u false) u
      let p : Packet := withPayload { typ := tWr, cls := cBulk, addr := windowBase + pl * 0x800000 + 1024 * psl, sub := 1
                                      tagm := if tagFull (s.un u) slot then 3 else 0, wtag := shadowTag i slot
                                      dsite := cluSite (unitClu pu), dagt := cluAgent (unitClu pu) } (spadRead s u (1024 * slot) 1024)
      let s := s.modUn u fun x => markSent x slot
      (injectClu (charge s (bucketOf c cBulk)) c p).bump (unitShadowSlotCntAt u)

/-- The first unit of a cluster whose engine has a slot to send. -/
def copyHead (s : State) (cfg : StreamCfg) (c : Nat) : Option (Nat × Nat) :=
  (List.range 4).findSome? fun i =>
    (logicalOfUnit s (4 * c + i)).bind fun l => (nextCopy s cfg (4 * c + i) l).map fun sl => (i, sl)

/-- SHADOW_COPY: a cluster's Shadow engines send their next slot (R425). -/
def execShadowCopy (cl : ClusterId) (s : State) : Res :=
  let c := cl.val
  match cfgOf s (cluQuarter c) with
  | none => .next s
  | some cfg =>
    match copyHead s cfg c with
    | none => .next s
    | some (i, slot) =>
      if rgnRuns s (cluRgn c) && !(s.cl c).absorbing then
        match passBucket s c cBulk with
        | none => .next (startBucketWait s c cBulk)
        | some s => .next (copySlot s cfg c i slot)
      else .next s

/-- Every source slot of a logical unit's pairs becomes dirty (R423, R426). -/
def dirtyAll (s : State) (cfg : StreamCfg) (want : Nat × Nat × Nat × Nat × Nat → Bool) : State :=
  (cfg.pairs.filter want).foldl (fun s p => match unitOfLogical s p.1 with
    | none => s
    | some u => (List.range (64 * (p.2.2.1 + 1 - p.2.1))).foldl (fun s k =>
        s.modUn u fun x => { x with dirty := insSorted x.dirty (64 * p.2.1 + k) }) s) s

/-- A reset stops the engines: what is not acknowledged is dirty again (R398; DESIGN CHOICE, log entry 50). -/
def stopShadow (s : State) (u : Nat) : State :=
  s.modUn u fun x => { x with
    sets := [], dirty := (x.sets.flatMap fun t => t.2.1 ++ t.2.2).foldl insSorted x.dirty }

end Sys2Proof.Machine
end

