-- ==== Sys2Proof/Machine/Stops.lean ====
section
/-! DEFINITION. Stopping a cluster, quarantine of its tags, and withdrawal of a compute die (R398, R399, R419, R424). -/

namespace Sys2Proof.Machine

/-- QC_XTIMEOUT.US of a quarter, kept to 10 to 10,000 (R339). -/
def xtimeoutUs (s : State) (q : Nat) : Nat := min 10000 (max 10 (s.regField (qcXtimeoutAt q) 13 0))

/-- Fabric cycles of 2 × QC_XTIMEOUT.US of a quarter (R399, R402). -/
def quarCycles (s : State) (q : Nat) : Nat := 2 * xtimeoutUs s q * 2000

/-- Every tag of a cluster that still holds a request is held back, with the time of its release once that is known
(R398, R399). -/
def quarantineTags (s : State) (c : Nat) (until_ : Option Nat) : State :=
  s.modCl c fun x => { x with
    quar := x.quar ++ (x.rtags.map fun t => { write := false, tag := t.tag, until_ := until_, absorb := true })
      ++ x.wtags.map fun t => { write := true, tag := t.tag, until_ := until_, absorb := true }
    rtags := [], wtags := [] }

/-- A cluster stops: its sequencer halts, every descriptor completes CANCELLED, its tags are quarantined (R398 step 2). -/
def stopCluster (s : State) (c : Nat) (until_ : Option Nat) : State :=
  let s := s.modCl c fun x => { x with seq := .idle, stall := none, handler := none, late := none }
  quarantineTags (cancelAll s c) c until_

/-- PM_SPARE_STATUSf changes: the hosts hear of it (R353, R419, R421). -/
def spareEvent (s : State) (f : Nat) : State := stateEvent s (2 ^ fieldQuarter f) 2 (f * 16 + (s.fld f).proc)

/-- The logical position a die holds within its field. -/
def positionOf (s : State) (d : Nat) : Option Nat := (logicalOfDie s d).map (· % 15)

/-- Is a SPARE_IN of field f under way? -/
def spareRuns (s : State) (f : Nat) : Bool := 2 ≤ (s.fld f).proc && (s.fld f).proc ≤ 4

/-- An active die's position becomes VACANT: its clusters stop (R419).  PM_SPARE_STATUSf goes on naming the OLD of a SPARE_IN under way. -/
def vacate (s : State) (d : Nat) : State :=
  let f := dieField d
  match positionOf s d with
  | none => s
  | some l =>
    let until_ := some (s.fab + quarCycles s (dieQuarter d))
    let s := (List.range 4).foldl (fun s k => stopCluster s (4 * d + k) until_) s
    let x := s.fld f
    let x := { x with map := x.map.set l none, vacant := putAt x.vacant l d }
    (s.setFld f (if spareRuns s f then x else { x with old := d, logical := l })).bump pmVacantCntAt

/-- The mode in which the units of a die serve: wide-row throughout Dawn service (R116, R388; DEDUCED, log entry 131). -/
def serviceMode (s : State) (d : Nat) : SpadMode := if inDawn s (dieQuarter d) then .wideDawn else .normal

/-- A SPARE_IN aborts with an outcome (R424). -/
def abortSpare (s : State) (f outcome : Nat) : State :=
  let x := s.fld f
  let s := match x.spare with
    | some d => if (s.die d).state = 1 then (List.range 16).foldl (fun s i => startClear s (16 * d + i) (some (serviceMode s d))) s else s
    | none => s
  let s := s.setFld f { s.fld f with proc := outcome, procAt := none, mirrorFrame := 0, wiped := 0 }
  spareEvent ((releaseLock s 3 (2 ^ fieldQuarter f)).bump pmSpareAbortCntAt) f

/-- The partners of the pairs a SPARE_IN restores: those whose source lies on OLD's position (R423). -/
def restoredPairs (s : State) (f : Nat) : List (Nat × Nat × Nat × Nat × Nat) :=
  match cfgOf s (fieldQuarter f) with
  | none => []
  | some cfg => cfg.pairs.filter fun p => p.1 / 16 == 15 * f + (s.fld f).logical

/-- The partition of a field halts at the next edge (R281, R424). -/
def haltField (s : State) (f : Nat) : State := haltSoon s (fieldQuarter f)

/-- The procedures that a withdrawn die takes part in end (R424): as OLD of a whole copy, or as a partner of a restored
pair. -/
def spareLosses (s : State) (d : Nat) : State :=
  (List.range 16).foldl (fun s f =>
    let x := s.fld f
    if x.proc ≠ 3 then s
    else if x.old = d ∧ x.nocopy = false then haltField (abortSpare s f 8) f
    else if (s.die x.old).state = 2 ∧ x.nocopy = false
        ∧ ((restoredPairs s f).any fun p => find? (s.fld (p.2.2.2.1 / 240)).vacant (p.2.2.2.1 / 16 % 15) == some d) = true then
      haltField (abortSpare s f 6) f
    else s) s

/-- A field's spare is gone, and PM_SPARE_STATUSf says so: its lowest-numbered reserve serves from the next tick edge (R353,
R424, R432). -/
def loseSpare (s : State) (f : Nat) : State :=
  dropHopeless (spareEvent (s.setFld f { s.fld f with spare := none, promote := true }) f) (fieldQuarter f)

/-- SPARE_FAILED: the spare is withdrawn with cause SELFTEST; OLD's position returns to it when it is not withdrawn (R424). -/
def spareFailed (s : State) (f cause : Nat) : State :=
  match (s.fld f).spare with
  | none => s
  | some d =>
    let s := s.modDie d fun x => { x with state := 2, cause := cause }
    let back := (s.die (s.fld f).old).state != 2
    let s := loseSpare (abortSpare s f 7) f
    newGeneration (s.setFld f { s.fld f with giveBack := back })

/-- A die's router stops: its links read DOWN (R373, R419). -/
def stopRouter (s : State) (site : Nat) : State :=
  let s := s.modRtr site fun x => { x with running := false }
  (List.range 6).foldl (fun s p => match linkIndex site p with
    | none => s
    | some l => if (s.link l).state = 4 then s else linkChanged (countLink (changeLink s l { s.link l with state := 4 }) l 4) l) s

/-- A compute die is withdrawn in service (R419, R424): an active one leaves its position VACANT, a spare its field
without one. -/
def withdrawDie (s : State) (d cause : Nat) : State :=
  let f := dieField d
  if (s.die d).state = 2 then s
  else if (s.fld f).spare = some d ∧ spareRuns s f = true then spareFailed s f 5
  else
    let held := (positionOf s d).isSome
    let s := vacate s d
    let s := s.modDie d fun x => { x with state := 2, cause := cause }
    let s := if (s.fld f).spare = some d then loseSpare s f else s
    let s := s.setFld f { s.fld f with reserves := (s.fld f).reserves.filter (· != d) }
    let s := spareLosses s d
    let s := if held && !spareRuns s f then spareEvent (s.setFld f { s.fld f with proc := 1 }) f else s
    newGeneration s

end Sys2Proof.Machine
end

