-- ==== Sys2Proof/Machine/Spares.lean ====
section
/-! DEFINITION. SPARE_IN, remaps and reserves, retests, withdrawal of stacks (R417 to R424, R432). -/

namespace Sys2Proof.Machine

/-! ### SPARE_IN (R421, R422) -/

/-- Is a quarter without a service level, or has its controller lost both managers (R362, R431)? -/
def noService (s : State) (q : Nat) : Bool := (s.qtr q).svc == 0 || (s.qtr q).pmLost

/-- The partition a mailbox request of quarter q acts on through a quarter t: a host's own alone (R396). -/
def mayAct (s : State) (q t : Nat) (r : MbReq) : Bool := r.oper || bit (qmaskOf s q) t

/-- Causes that refuse a SPARE_IN of a partition (R396, R421). -/
def spareCause (s : State) (q : Nat) (r : MbReq) (d : Nat) : Option Nat :=
  let t := dieQuarter d
  if noService s q then some 1
  else if 256 ≤ natAt r.payload 0 2 ∨ 1 < natAt r.payload 2 1 ∨ natAt r.payload 3 5 ≠ 0 ∨ mayAct s q t r = false then some 7
  else match partOf s t with
    | none => some 8
    | some p =>
      if p.reset.isSome || (s.qtr t).pmoving then some 3
      else if (s.qtr t).pstate = 2 ∨ (s.qtr t).pstate = 3 then some 4
      else none

/-- The VACANT position of a field that a die held (R421). -/
def vacantOf (x : Field) (d : Nat) : Option Nat := (x.vacant.find? fun v => v.2 == d).map (·.1)

/-- A SPARE_IN of a field without a spare is refused, and PM_SPARE_STATUSf reads NO_SPARE (R421). -/
def refuseNoSpare (s : State) (q f : Nat) : State :=
  let x := s.fld f
  mbRefuse (if x.proc = 9 then s else spareEvent (s.setFld f { x with proc := 9 }) f) q 7

/-- Has a field a spare that is not withdrawn (R421)? -/
def hasSpare (s : State) (f : Nat) : Bool := ((s.fld f).spare.filter fun c => (s.die c).state != 2).isSome

/-- A SPARE_IN whose OLD holds a position, or held it until it became VACANT, asks for the lock (R421). -/
def askSpareIn (s : State) (q : Nat) (r : MbReq) (d : Nat) : State :=
  let f := dieField d
  if hasSpare s f then requestLock s { code := 3, qmask := 2 ^ fieldQuarter f, arg := d + 256 * natAt r.payload 2 1, reply := some q }
  else refuseNoSpare s q f

/-- SPARE_IN: a request that repeats an effect is answered OK; a new one asks for the lock (R421). -/
def execSpareIn (q : QuarterId) (s : State) : Res :=
  match mbOf s q 4, activeMgr s with
  | some r, some _ =>
    let d := natAt r.payload 0 2
    let f := dieField d
    let x := s.fld f
    match spareCause s q r d with
    | some cause => .next (mbRefuse s q cause)
    | none =>
      if spareRuns s f && x.old == d then .next (mbReply s q 0 [])
      else match positionOf s d with
        | none =>
          if (vacantOf x d).isSome then .next (askSpareIn s q r d)
          else if x.past.contains d then .next (mbReply s q 0 [])
          else .next (if hasSpare s f then mbRefuse s q 7 else refuseNoSpare s q f)
        | some _ => .next (askSpareIn s q r d)
  | _, _ => .next s

/-- Does a spare die run a replay (R286)? -/
def replaying (s : State) (d : Nat) : Bool := (List.range 4).any fun k => (s.cl (4 * d + k)).replay.isSome

/-- The check of a spare begins when no replay runs on it: its units enter WIDE_RECOVERY (R116, R422). -/
def beginCheck (s : State) (f : Nat) : State :=
  let x := s.fld f
  match x.spare with
  | none => s
  | some d =>
    if x.proc = 2 ∧ x.procAt.isNone = true ∧ replaying s d = false then
      (List.range 16).foldl (fun s i => startClear s (16 * d + i) (some .wideRecovery)) (s.setFld f { x with procAt := some s.fab })
    else s

/-- A granted SPARE_IN begins: an active OLD leaves its position VACANT, and the spare is checked (R422). -/
def startSpareIn (s : State) (arg : Nat) : State :=
  let d := arg % 256
  let f := dieField d
  let l := (positionOf s d).getD ((vacantOf (s.fld f) d).getD (s.fld f).logical)
  let s := vacate s d
  let s := s.setFld f { s.fld f with
    proc := 2, old := d, logical := l, nocopy := decide (256 ≤ arg), procAt := none, mirrorFrame := 0, wiped := 0 }
  beginCheck (dropHopeless (spareEvent s f) (fieldQuarter f)) f

/-- SPARE_CHECK_DONE: 2 ms after the check began it has passed, and the units clear into normal mode, or it has failed
(R422, R424).  A spare whose firmware does not stand at its digest fails (R379). -/
def execSpareCheckDone (f : FieldId) (pass : Bool) (s : State) : Res :=
  let x := s.fld f
  match activeMgr s, x.spare, x.procAt with
  | some _, some d, some t =>
    if x.proc = 2 then
      let s := advFab s (t + 4000000)
      if pass && (List.range 4).all fun k => (s.cl (4 * d + k)).fwOk then
        let s := (List.range 16).foldl (fun s i => startClear s (16 * d + i) (some (serviceMode s d))) s
        .next (spareEvent (s.setFld f { s.fld f with proc := 3, procAt := some s.fab }) f)
      else .next (spareFailed s f 5)
    else .next s
  | _, _, _ => .next s

/-! ### The copy (R423) -/

/-- A run of slots with their tags is copied from one unit to another. -/
def copySlots (s : State) (src from_ dst to_ n : Nat) : State :=
  let s := s.write (spadAt dst (1024 * to_)) (s.read (spadAt src (1024 * from_)) (1024 * n))
  let moved := ((s.un src).full.filter fun sl => from_ ≤ sl && sl < from_ + n).map fun sl => sl - from_ + to_
  s.modUn dst fun x => { x with full := moved.foldl insSorted (x.full.filter fun sl => !(to_ ≤ sl && sl < to_ + n)) }

/-- Rows of the copy charged to a cluster's BULK bucket: the clock moves on to the cycle at which the last passes; none while
the bucket's rate of 0 will never let it pass (R239, R242, R246, R423; the rows' carriage is one event, DESIGN CHOICE, log
entry 51). -/
def chargeRows (s : State) (c n : Nat) : Option State :=
  let b := bucketOf c cBulk
  let x := s.bucket b
  let v := balance s b - packetCharge * (n - 1 : Nat)
  if n = 0 then some s
  else
    let s := s.setBucket b { x with bal := v, at_ := s.fab }
    (solventAt s b).map fun t =>
      charge (if s.fab < t then endBucketWait (advFab (startBucketWait s c cBulk) t) c cBulk else s) b

/-- The whole of OLD into the spare, or the restored pairs, or nothing; none while a bucket holds rows back (R423). -/
def copyIntoSpare (s : State) (f d : Nat) : Option State :=
  let x := s.fld f
  if x.nocopy then some s
  else if (s.die x.old).state ≠ 2 then
    let s := (List.range 16).foldl (fun s i => copySlots s (16 * x.old + i) 0 (16 * d + i) 0 6144) s
    (List.range 4).foldl (fun (t : Option State) k => t.bind fun s => chargeRows s (4 * x.old + k) (4 * 6144)) (some s)
  else
    (restoredPairs s f).foldl (fun (t : Option State) p => t.bind fun s => match unitOfLogical s p.2.2.2.1 with
      | none => some s
      | some pu =>
        let n := 64 * (p.2.2.1 + 1 - p.2.1)
        chargeRows (copySlots s pu (64 * p.2.2.2.2) (16 * d + p.1 % 16) (64 * p.2.1) n) (unitClu pu) n) (some s)

/-- MIRROR_FRAME of the first restored pair's source as the copy begins (R423, R425). -/
def mirrorFrame (s : State) (f : Nat) : Nat :=
  let x := s.fld f
  match restoredPairs s f with
  | p :: _ => if x.nocopy || (s.die x.old).state != 2 then 0 else s.regField (unitShadowStatAt (16 * x.old + p.1 % 16)) 63 32
  | [] => 0

/-- SPARE_COPY_DONE: every copied row has been acknowledged and the procedure is PENDING (R422, R423). -/
def execSpareCopyDone (f : FieldId) (s : State) : Res :=
  let x := s.fld f
  match activeMgr s, x.spare with
  | some _, some d =>
    if x.proc = 3 ∧ ((List.range 16).any fun i => clearing (s.un (16 * d + i))) = false then
      let frame := mirrorFrame s f
      match copyIntoSpare s f d with
      | none => .next s
      | some s => .next (spareEvent (s.setFld f { s.fld f with proc := 4, procAt := some s.fab, mirrorFrame := frame }) f)
    else .next s
  | _, _ => .next s

/-! ### Step 3 of R34: remaps and reserves (R418, R422, R424, R432) -/

/-- The lowest-numbered reserve of a field becomes its spare (R432). -/
def promoteReserve (s : State) (f : Nat) : State :=
  let x := s.fld f
  match x.reserves with
  | r :: rest =>
    spareEvent (newGeneration ((s.setFld f { x with promote := false, spare := some r, reserves := rest }).modDie r fun y =>
      { y with state := 1 })) f
  | [] => s.setFld f { x with promote := false }

/-- The image and the configuration of the clusters a die has come to hold. -/
def installDie (s : State) (f l d : Nat) : State :=
  match cfgOf s (fieldQuarter f) with
  | none => s
  | some cfg => (List.range 4).foldl (fun s k =>
      let lc := 4 * (15 * f + l) + k
      let s := configCluster s cfg none lc (4 * d + k)
      match schedFor cfg lc with | some e => s.write (schedAt (4 * d + k) 0) e.image | none => s) s

/-- The results of an Eclipse that completed during the procedure (R422). -/
def wipeSpare (s : State) (d wiped : Nat) : State :=
  if wiped = 0 then s
  else (List.range 16).foldl (fun s i =>
    let s := s.modUn (16 * d + i) fun x => { x with full := [] }
    if wiped = 2 then s.clear (spadAt (16 * d + i) 0) 0x600000 else s) s

/-- The remap of a field: OLD's position maps to the spare, and OLD, its scratchpads cleared for replay runs, or a reserve becomes the
spare (R287, R422). -/
def remap (s : State) (f : Nat) : State :=
  let x := s.fld f
  match x.spare with
  | none => s
  | some d =>
    let s := wipeSpare s d x.wiped
    let serves := (s.die x.old).state != 2
    let s := s.modDie d fun y => { y with state := 0 }
    let s := if serves then s.modDie x.old fun y => { y with state := 1 } else s
    let s := s.setFld f { x with
      map := x.map.set x.logical (some d), vacant := dropAt x.vacant x.logical, spare := if serves then some x.old else none
      past := insSorted x.past x.old
      proc := 5, procAt := none, wiped := 0 }
    let s := if serves then (List.range 16).foldl (fun s i => startClear s (16 * x.old + i) (some (serviceMode s x.old))) s
      else promoteReserve s f
    let s := installDie s f x.logical d
    let s := match cfgOf s (fieldQuarter f) with
      | some cfg => dirtyAll s cfg fun p => p.2.2.2.1 / 16 == 15 * f + x.logical
      | none => s
    let s := (releaseLock s 3 (2 ^ fieldQuarter f)).bump pmSpareInCntAt
    dropHopeless (spareEvent (newGeneration s) f) (fieldQuarter f)

/-- OLD takes its position back after a failed procedure (R424). -/
def giveBack (s : State) (f : Nat) : State :=
  let x := s.fld f
  let s := s.setFld f { x with giveBack := false }
  if find? x.vacant x.logical = some x.old ∧ (s.die x.old).state ≠ 2 then
    s.setFld f { s.fld f with map := x.map.set x.logical (some x.old), vacant := dropAt x.vacant x.logical }
  else s

/-- Step 3 of R34 for the fields of a partition: none takes effect while a reset runs (R400). -/
def sparesAtEdge (s : State) (qmask : Nat) (resetting : Bool) : State :=
  if resetting then s
  else ((List.range 16).filter fun f => bit qmask (fieldQuarter f)).foldl (fun s f =>
    let s := if (s.fld f).giveBack then giveBack s f else s
    let s := if (s.fld f).promote then promoteReserve s f else s
    match (s.fld f).proc, (s.fld f).procAt with
    | 4, some t => if t + 200000 ≤ s.fab then remap s f else s
    | _, _ => s) s

/-! ### Retest (R432) -/

/-- A passed die serves as the spare of a field without one, stays its spare, or is a reserve (R432). -/
def retestPassed (s : State) (d : Nat) : State :=
  let f := dieField d
  let x := s.fld f
  if x.spare = some d then s
  else if x.spare.isNone then
    spareEvent (newGeneration ((s.setFld f { x with spare := some d, promote := false, reserves := x.reserves.filter (· != d) }).modDie d
      fun y => { y with state := 1, cause := 0 })) f
  else if (s.die d).state = 3 then s
  else newGeneration ((s.setFld f { x with reserves := insSorted x.reserves d }).modDie d fun y => { y with state := 3, cause := 0 })

/-- A failed die is withdrawn and stops its router; a spare is replaced by the lowest-numbered reserve (R432). -/
def retestFailed (s : State) (d cause : Nat) : State :=
  let f := dieField d
  let x := s.fld f
  let s := stopRouter (s.modDie d fun y => { y with state := 2, cause := cause }) (dieSite d)
  let s := s.setFld f { s.fld f with reserves := x.reserves.filter (· != d) }
  newGeneration (if x.spare = some d then loseSpare s f else s)

/-- The state in which a link returns to service: by its lanes, and DOWN while a router at one of its ends has stopped (R209 to
R211, R373). -/
def linkReturn (s : State) (l failed : Nat) : Nat :=
  if (linkRouters l).all fun r => (s.rtr r).running then linkStateOf (linkKind l) failed else 4

/-- A link returns to service in a state: out of UP it suspends its partitions' bound (R229). -/
def returnLink (s : State) (l : Nat) (x : Link) : State :=
  let s := changeLink s l x
  if x.state = 2 then s else linkChanged s l

/-- The links of a die return to the state their lanes give them. -/
def restoreLinks (s : State) (site : Nat) : State :=
  (List.range 6).foldl (fun s p => match linkIndex site p with
    | none => s
    | some l => returnLink s l { s.link l with state := linkReturn s l (max (s.link l).failedLo (s.link l).failedHi) }) s

/-- The links of a die are out of service (R432). -/
def dropLinks (s : State) (site st : Nat) : State :=
  (List.range 6).foldl (fun s p => match linkIndex site p with
    | none => s
    | some l => linkChanged (changeLink s l { s.link l with state := st }) l) s

/-- RETEST_DONE: the vote over the die, with its neighbours' vouches and any wrong signature they saw (R372, R432).  The
link phase takes 200 ms. -/
def execRetestDone (d : DieId) (vouches : Fin 5) (wrongSig : Bool) (s : State) : Res :=
  match s.mgr.maint.find? fun m => m.code == 2 && m.arg == d.val, activeMgr s with
  | some m, some _ =>
    let s := advFab s (m.startFab + 400000000)
    let s := restoreLinks (s.modMgr fun x => { x with maint := x.maint.filter fun y => y != m }) (dieSite d)
    let s := releaseLock s 2 m.qmask
    let s := (List.range 16).foldl (fun s i => startClear s (16 * d.val + i) (some (serviceMode s d))) s
    .next (refreshSusp (if vouches.val ≥ 2 then retestPassed s d else retestFailed s d (if wrongSig then 5 else 6)))
  | _, _ => .next s

/-! ### Stacks (R420) -/

/-- A stack is withdrawn in service (R420). -/
def withdrawStack (s : State) (n : Nat) (router : Bool) (cause : Nat) : State :=
  let s := s.modMr n fun x => { x with state := 4, cause := cause }
  let s := if router then stopRouter s (stackSite n) else s
  let s := s.setFld (stackField n) { s.fld (stackField n) with failed := true }
  newGeneration (stateEvent (s.bump pmStackWdCntAt) (2 ^ stackQuarter n) 3 n)

/-- MR_POLL: the manager's poll of every memory router, once each millisecond: a second miss in a row, or a report of lost
training, withdraws a stack in Day service (R420). -/
def execMrPoll (silent untrained : List StackId) (s : State) : Res :=
  match activeMgr s with
  | none => .next s
  | some _ =>
    let s := advFab s (s.mgr.pollFab + 2000000)
    let s := s.modMgr fun m => { m with pollFab := s.fab }
    .next ((List.range 128).foldl (fun s n =>
      let day := (s.qtr (stackQuarter n)).svc == 2 && (s.mr n).state != 4
      let missed := silent.any fun k => k.val == n
      let x := s.mr n
      let s := s.setMr n { x with missedPolls := if missed then x.missedPolls + 1 else 0 }
      if day && missed && x.missedPolls ≥ 1 then withdrawStack s n true 0
      else if day && untrained.any fun k => k.val == n then withdrawStack s n false 9
      else s) s)

end Sys2Proof.Machine
end

