-- ==== Sys2Proof/Machine/Headers.lean ====
section
/-! DEFINITION. Powering the regions through their headers, and the firmware each sequencer fetches (R364 to R367, R376 to
R380). -/

namespace Sys2Proof.Machine

/-! ### Bring-up step and wakes -/

/-- Bring-up has reached a step and has not stopped. -/
def inStep (s : State) (k : Nat) : Bool := s.mgr.step == k

/-- Is a quarter on its way back to Day with its regions waking (R405)? -/
def waking (s : State) (q : Nat) : Bool := (s.qtr q).pmoving && (s.qtr q).ptarget == 0 && 2 ≤ (s.qtr q).pstate

/-- Place of a field among the waking ones of its partition: they wake 20 µs apart (R405). -/
def wakeRank (s : State) (f : Nat) : Nat :=
  ((List.range f).filter fun g => bit (qmaskOf s (fieldQuarter f)) (fieldQuarter g)).length

/-- The clock moves on to the instant at which the regions of field f begin to stage; none when nothing wakes them
(R364, R405). -/
def wakeDue (s : State) (f : Nat) : Option State :=
  let q := fieldQuarter f
  if inStep s 5 then some (advFab s (s.mgr.stepFab + 40000 * f))
  else if waking s q then some (advNs s (edgeSite (controllerEdge q)) ((s.qtr q).pedge + 20000 * wakeRank s f))
  else none

/-- REGION_WAKE: a region begins to close its headers (R364). -/
def execRegionWake (r : RegionId) (s : State) : Res :=
  let d := r.val / 2
  if (s.rgn r).hdr = 0 ∧ (s.die d).state ≠ 2 then
    match wakeDue s (dieField d) with
    | none => .next s
    | some s => .next (s.modRgn r fun g => { g with
        hdr := 1, stage := 0, stageAt := s.fab, firstAt := s.fab, winAt := s.fab, voids := 0 })
  else .next s

/-! ### Checks of the headers (R365 to R367) -/

/-- A region's headers open: its clock stops and its clusters' firmware is lost (R380). -/
def openRegion (s : State) (r hdr : Nat) : State :=
  let s := retime (s.modRgn r fun g => { g with hdr := hdr, stage := 0, stalled := false }) r
  (s.modCl (2 * r) fun x => { x with fwOk := false, fwStore := [] }).modCl (2 * r + 1) fun x => { x with fwOk := false, fwStore := [] }

/-- CAUSE of PWR_RGN_STAT for a region (R392): 1 SHORT, 2 OPEN, 3 DIE. -/
def setRgnCause (s : State) (r c : Nat) : State := s.setField (pwrRgnStatAt (r / 2) (r % 2)) 9 8 c

/-- A region fails its wake: both regions of its die go Umbra and the die is withdrawn (R365, R367). -/
def failWake (s : State) (r cause : Nat) : State :=
  let o := 2 * (r / 2) + (1 - r % 2)
  let s := setRgnCause (setRgnCause (openRegion (openRegion s r 3) o 3) r cause) o 3
  withdrawDie s (r / 2) (cause + 2)

/-- Was the fast droop alert asserted at some time of the window that ends now (R366)? -/
def alertIn (s : State) (from_ : Nat) : Bool :=
  s.power.fda != 0 || (match s.power.fdaOff with | some t => decide (from_ < t) | none => false)

/-- HEADER_STAGE_CHECK: 400 ns after a stage has closed the sensor must read 85 % of the setpoint; a window in which the
alert was asserted is void, up to three for a stage (R365, R366). -/
def execHeaderStageCheck (r : RegionId) (sensorMv : Nat) (s : State) : Res :=
  let g := s.rgn r
  if g.hdr = 1 ∧ g.stage < 8 then
    let s := advFab s (g.winAt + 800)
    if g.voids < 3 ∧ alertIn s g.winAt = true then
      if s.power.fda ≠ 0 then .next s
      else .next ((s.modRgn r fun g => { g with voids := g.voids + 1, winAt := s.power.fdaOff.getD s.fab }).bump
        (pwrHdrRetryCntAt (r / 2)))
    else if sensorMv * 100 < 85 * s.mgr.vcoreMv then
      .next (failWake (advFab (s.bump (pwrHdrShortCntAt (r / 2))) (s.fab + 100)) r 1)
    else
      .next (s.modRgn r fun g =>
        if g.stage = 7 then { g with stage := 8 }
        else
          let t := max s.fab (g.firstAt + 1000 * (g.stage + 1))
          { g with stage := g.stage + 1, stageAt := t, winAt := t, voids := 0 })
  else .next s

/-- REGION_POWER_GOOD: the sensor has held 95 % of the setpoint for 100 ns and the clock starts; on a return from Dark its
units clear, and a unit whose clear was cut short clears in full (R129, R364, R406). -/
def execRegionPowerGood (r : RegionId) (s : State) : Res :=
  if (s.rgn r).hdr = 1 ∧ (s.rgn r).stage = 8 then
    let s := retime (s.modRgn r fun g => { g with hdr := 2, stage := 7 }) r
    let dark := waking s (dieQuarter (r / 2)) && (s.qtr (dieQuarter (r / 2))).pstate == 3
    .next ((List.range 8).foldl (fun s i =>
      let u := 8 * r.val + i
      if dark ∨ clearing (s.un u) = true then startClear s u (s.un u).modeAfter else s) s)
  else .next s

/-- HEADER_OPEN_CHECK: no power-good 2 µs after the last stage (R367). -/
def execHeaderOpenCheck (r : RegionId) (s : State) : Res :=
  let g := s.rgn r
  if g.hdr = 1 ∧ g.stage = 8 then
    let s := advFab s (g.stageAt + 4000)
    .next (failWake (s.bump (pwrHdrOpenCntAt (r / 2))) r 2)
  else .next s

/-- PWR_RGN_STATi of a compute die (R392). -/
def rgnStatView (s : State) (d i : Nat) : Nat :=
  let g := s.rgn (2 * d + i)
  let closed := if g.stage = 0 then 0 else if g.hdr = 1 ∧ s.fab < g.stageAt then g.stage - 1 else min g.stage 7
  s.reg (pwrRgnStatAt d i) / 256 % 4 * 256 + closed * 16 + g.hdr

/-! ### Firmware (R376 to R380) -/

/-- The stack that holds the firmware well of field f (R376). -/
def wellStack (f : Nat) : Nat := 32 * (f / 4) + 2 * (f % 4)

/-- Block of a stack at which its field's firmware well begins (R376). -/
def wellBlock : Nat := 0x8ED000000 / 1024

/-- The manifest and the cluster firmware image of the NOR bank an instance runs from (R378, R463). -/
def bankManifest (i : Instance) : Bytes :=
  match (if i.bankB then i.imgB else i.imgA) with | some x => x.manifest | none => Config.deliveredManifest i.bankB
/-- See `bankManifest`. -/
def bankFirmware (i : Instance) : Bytes :=
  match (if i.bankB then i.imgB else i.imgA) with | some x => x.firmware | none => Config.deliveredFirmware i.bankB

/-- Blocks that n bytes take. -/
def blocksOf (n : Nat) : Nat := (n + 1023) / 1024

/-- Bytes written into consecutive blocks of a stack with correct checks; the last block is filled with zeros. -/
def fillBlocks (s : State) (n beta : Nat) (bs : Bytes) : State :=
  (List.range (blocksOf bs.length)).foldl (fun s i =>
    let d := (bs.drop (1024 * i)).take 1024
    let d := d ++ zeros (1024 - d.length)
    storeBlock s n (beta + i) d (crc64 d)) s

/-- The manager writes the manifest and, from the next block on, the image into the well of a field whose well stack is READY
(R378; their places in the well are the model's, DESIGN CHOICE, log entry 52). -/
def buildWell (b : Bool) (s : State) (f : Nat) : State :=
  let n := wellStack f
  if (s.mr n).state = 2 then
    let m := bankManifest (s.inst b)
    let w := bankFirmware (s.inst b)
    let s := fillBlocks (fillBlocks s n wellBlock m) n (wellBlock + blocksOf m.length) w
    s.setFld f { s.fld f with well := (m.length, w.length) }
  else s.setFld f { s.fld f with well := (0, 0) }

/-- Every field's firmware well is built (R378). -/
def buildWells (s : State) : State :=
  match activeMgr s with
  | none => s
  | some b => (List.range 16).foldl (buildWell b) s

/-- The manifest in the firmware well of field f. -/
def wellManifest (s : State) (f : Nat) : Bytes := s.read (stackAt (wellStack f) (1024 * wellBlock)) (s.fld f).well.1

/-- The cluster firmware image there. -/
def wellFirmware (s : State) (f : Nat) : Bytes :=
  s.read (stackAt (wellStack f) (1024 * (wellBlock + blocksOf (s.fld f).well.1))) (s.fld f).well.2

/-- Version and cluster image digests of the NOR bank an instance runs from (R378). -/
def bankFw (i : Instance) : Nat × Nat := if i.bankB then i.fwB else i.fwA

/-- Firmware version of that bank. -/
def bankVer (i : Instance) : Nat := if i.bankB then i.verB else i.verA

/-- The active manager sends the manifest's digest to every sequencer (R378, R380). -/
def sendDigests (s : State) : State :=
  match activeMgr s with
  | none => s
  | some b =>
    (List.range 1024).foldl (fun s c =>
      fromMgr s (withPayload (mgmtTo (cluSite c) (cluAgent c) 0xA) (leBytes 48 (sha384 (bankManifest (s.inst b)))))) s

/-- FW_DIGEST: a sequencer receives the manifest's digest (R378). -/
def execFwDigest (cl : ClusterId) (s : State) : Res :=
  let site := cluSite cl
  match agentPortOf site (cluAgent cl) with
  | none => .next s
  | some p =>
    serve (site, p) (fun k => k.typ == tMgmt && k.sub == 0xA && k.dagt == cluAgent cl) (fun k s =>
      if obeys s site k then (seeEpoch s site (k.addr % 65536)).modCl cl fun x => { x with fwDigest := some (leNat k.payload) }
      else s) s

/-- Is the well of a cluster's field there (R376, R378)? -/
def hasWell (s : State) (c : Nat) : Bool := let n := wellStack (dieField (c / 4)); (s.mr n).state == 2 || (s.mr n).state == 3

/-- SEQ_BOOT of a cluster: FW_VER is VERSION[31:16] of the image (R392, R464). -/
def setBoot (s : State) (c tries st : Nat) : State :=
  let ver := match activeMgr s with | some b => bankVer (s.inst b) | none => 0
  s.setReg (seqBootAt c) (bits ver 31 16 * 2 ^ 16 + tries * 4 + st)

/-- Does the manifest in a cluster's well agree with the digest its sequencer has received (R379 step 1)? -/
def manifestOk (s : State) (c : Nat) : Bool :=
  hasWell s c && (s.cl c).fwDigest == some (sha384 (wellManifest s (dieField (c / 4))))

/-- FW_FETCH: a boot ROM fetches and checks its manifest and image, twice at most; the second mismatch withdraws the die
(R379).  What a fetch brings wrong, and the image's entry in the manifest, are the operands (DESIGN CHOICE, log entry 52). -/
def execFwFetch (cl : ClusterId) (bad1 bad2 : Bool) (s : State) : Res :=
  let c := cl.val
  let x := s.cl c
  if rgnRuns s (cluRgn c) && x.fwDigest.isSome && !x.fwOk then
    let bad1 := bad1 || !manifestOk s c
    let bad2 := bad2 || !manifestOk s c
    if bad1 && bad2 then .next (withdrawDie (setBoot s c 2 3) (c / 4) 7)
    else .next ((setBoot s c (if bad1 then 2 else 1) 2).modCl c fun x =>
      { x with fwOk := true, fwStore := (wellFirmware s (dieField (c / 4))).take 0x20000 })
  else .next s

end Sys2Proof.Machine
end

