-- ==== Sys2Proof/Machine/Replay.lean ====
section
/-! DEFINITION. Mirror replay: runs on spare dies, the vote, and the swap (R285 to R291); HALT (R281, R282). -/

namespace Sys2Proof.Machine

/-! ### Runs (R286, R287) -/

/-- Is a cluster of a spare free to run a replay: running no other, clear and powered, its firmware checked (R286, R287)? -/
def replayFree (s : State) (c : Nat) : Bool :=
  let x := s.cl c
  x.replay.isNone && x.fwOk && rgnRuns s (cluRgn c) && (List.range 4).all fun i => (s.un (4 * c + i)).mode == .normal && !clearing (s.un (4 * c + i))

/-- The candidate spares of an entry in the order in which they are tried: its own field's, then by distance from its
cluster's site, ties to the lower CD number (R286). -/
def replayOrder (s : State) (p : Partition) (l : Nat) : List Nat :=
  let f := l / 60
  let home := match find? (s.fld f).vacant (l / 4 % 15), dieOfLogical s (l / 4) with
    | _, some d => dieSite d
    | some d, none => dieSite d
    | none, none => 0
  let key (d : Nat) : Nat := (if dieField d = f then 0 else 1 + siteDist home (dieSite d)) * 256 + d
  (replaySpares s p).mergeSort fun a b => decide (key a ≤ key b)

/-- The free cluster an entry takes. -/
def replayCluster (s : State) (p : Partition) (l : Nat) : Option Nat :=
  (replayOrder s p l).findSome? fun d => ((List.range 4).map fun k => 4 * d + k).find? (replayFree s)

/-- Does an entry come before another: lower frame index, then lower logical cluster (R286)? -/
def heldBefore (a b : HeldStep) : Bool := decide (a.frame < b.frame ∨ (a.frame = b.frame ∧ a.lclu ≤ b.lclu))

/-- The entries that wait for a run, in the order of service. -/
def waitingSteps (p : Partition) : List HeldStep := (p.held.filter fun h => h.stage == 0 || h.stage == 2).mergeSort heldBefore

/-- Change the held step of a serial number. -/
def modHeld (s : State) (q serial : Nat) (f : HeldStep → HeldStep) : State :=
  modPart s q fun p => { p with held := mapFirst (fun h => h.serial == serial) f p.held }

/-- The registers of a run: the frame-start copy, with s1 and s2 of the entry (R287). -/
def replayRegs (h : HeldStep) : List (Nat × Word) :=
  let x : Cluster := { s := h.regs.filter fun r => decide (3 ≤ r.1) }
  (writeS (writeS x 1 (BitVec.ofNat 32 h.frame)) 2 (BitVec.ofNat 32 h.lclu)).s

/-- A run of an entry begins on a cluster of a spare (R287). -/
def startRun (s : State) (q c : Nat) (h : HeldStep) : State :=
  match cfgOf s q with
  | none => s
  | some cfg =>
    match schedFor cfg h.lclu with
    | none => s
    | some e =>
      let run := if h.stage = 0 then 1 else 2
      let s := (configCluster s cfg none h.lclu c).write (schedAt c 0) e.image
      let s := s.modCl c fun x => { x with
        seq := .run, pc := imageNat e 0xC 4, s := replayRegs h, s0 := replayRegs h, stall := none, late := none, workEnd := none
        handler := none, slotsRun := [], grpCnt := [], grpFlags := [], digest := [], frame := x.frame + 1, frameIdx := h.frame
        frameClk := cluClk s c, frameNs := cluNs s c, readyClk := cluClk s c
        replay := some { part := q, step := h.serial, run := run, orig := h.lclu } }
      let s := (List.range 4).foldl (fun s i =>
        s.modUn (4 * c + i) fun x => { x with replayAs := some (4 * h.lclu + i, h.frame), ord := 0, mmas := 0, lastMma := none }) s
      let s := s.setField (seqFrameUseAt c) 0 0 0
      (modHeld s q h.serial fun h => { h with stage := h.stage + 1 }).bump (pmReplayRunCntAt (partQ (partD s q)))

/-- REPLAY_RUN_START: at a tick edge of a partition that holds, the first entry that waits and finds a free cluster begins
a run (R286, R287). -/
def execReplayRunStart (q : QuarterId) (s : State) : Res :=
  match partOf s q, activeMgr s with
  | some p, some _ =>
    if p.edgeFab = s.fab ∧ p.hold = true then
      match (waitingSteps p).findSome? fun h => (replayCluster s p h.lclu).map fun c => (c, h) with
      | some (c, h) => .next (startRun s q c h)
      | none => .next s
    else .next s
  | _, _ => .next s

/-! ### The vote (R288 to R291) -/

/-- Is a run good: every descriptor of the step's groups OK, no breach, its work ended (R288)? -/
def runGood (s : State) (c : Nat) (r : ReplayRun) (gmask : Nat) : Bool :=
  !r.breach && !r.bad && (s.cl c).workEnd.isSome && (s.cl c).seq == .ended
    && (s.cl c).grpFlags.all fun g => !bit gmask g.1 || g.2 % 8 == 0

/-- An entry leaves the table, its outcome recorded (R291). -/
def resolveStep (s : State) (q : Nat) (h : HeldStep) (outcome : Nat) : State :=
  let s := modPart s q fun p => { p with held := p.held.filter fun x => x.serial != h.serial }
  let k := partQ (partD s q)
  match outcome with
  | 0 => recordReplay (s.bump (pmReplayAgreeCntAt k)) k h 0
  | 1 => recordReplay (s.bump (pmReplayCorrCntAt k)) k h 1
  | _ => unresolved s q h

/-- Number of a swap's tag, which no stream-engine tag uses (DESIGN CHOICE, log entry 50). -/
def swapTag (serial : Nat) : Nat := 0x20000 + serial

/-- AGREED or CORRECTED: the spare's stream engine sends the entry's compare-and-swap (R200, R291); the home of a withdrawn
stack leaves the record as it is. -/
def startSwap (s : State) (q c : Nat) (h : HeldStep) (outcome : Nat) : State :=
  if stackGone s (homeStack h.raddr) then resolveStep s q h 2
  else
    let p : Packet := { withPayload { typ := tAtom, cls := cCtrl, addr := h.raddr, dsite := stackSite (homeStack h.raddr), dagt := 2 }
      (leBytes 8 h.old.toNat ++ leBytes 8 h.new.toNat) with wtag := swapTag h.serial }
    sendCtrl (modHeld s q h.serial fun x => { x with stage := 4, outcome := outcome }) c p

/-- The answer of a swap: it flipped the record, or the step is unresolved (R291). -/
def swapAnswer (s : State) (c : Nat) (p : Packet) : State :=
  let q := cluQuarter c
  match (partD s q).held.find? fun h => swapTag h.serial == p.wtag && h.stage == 4 with
  | none => s
  | some h =>
    let flipped := p.status == sOk && !p.poison && leNat (p.payload.take 8) == h.old.toNat
    resolveStep s q h (if flipped then h.outcome else 2)

/-- The table of R290 after a run of an entry, with the run's digest when it votes. -/
def vote (s : State) (q c : Nat) (h : HeldStep) (run : Nat) (d : Option Nat) : State :=
  if run = 1 then
    if d = some h.digest then startSwap s q c h 0
    else modHeld s q h.serial fun x => { x with stage := 2, d1 := d, run1Bad := d.isNone }
  else if d = some h.digest then startSwap s q c h 0
  else if d.isSome && h.d1 == d then startSwap s q c h 1
  else resolveStep (modHeld s q h.serial fun x => { x with run2Bad := d.isNone }) q { h with run2Bad := d.isNone } 2

/-- The cluster of a spare leaves its run and clears its scratchpad; a SPARE_IN that waited begins its check (R286, R287). -/
def leaveRun (s : State) (c : Nat) : State :=
  let s := (cancelAll s c).modCl c fun x => { x with replay := none, seq := .idle, stall := none, late := none, workEnd := none }
  let s := (List.range 4).foldl (fun s i => startClear (s.modUn (4 * c + i) fun x => { x with replayAs := none }) (4 * c + i) none) s
  beginCheck s (dieField (c / 4))

/-- A run ends, good or failed, and the vote is taken (R288, R290). -/
def endRun (s : State) (c : Nat) : State :=
  match (s.cl c).replay with
  | none => s
  | some r =>
    let gmask := (((partD s r.part).held.find? fun h => h.serial == r.step).map (·.gmask)).getD 0
    let good := runGood s c r gmask
    let s := leaveRun s c
    match (partD s r.part).held.find? fun h => h.serial == r.step with
    | none => s
    | some h =>
      let h := { h with breach := h.breach || r.breach }
      vote (modHeld s r.part h.serial fun _ => h) r.part c h r.run (if good then some r.digest else none)

/-- REPLAY_RUN_END: a run whose work has ended is judged (R290); one that a tick edge overtakes is judged there. -/
def execReplayRunEnd (cl : ClusterId) (s : State) : Res :=
  let x := s.cl cl
  when_ (x.replay.isSome && (x.workEnd.isSome || x.seq == .trapped)) s (endRun s cl)

/-- The runs of a partition end at a tick edge: one whose work has not ended before it fails (R288). -/
def failRuns (s : State) (q : Nat) : State :=
  (List.range 1024).foldl (fun s c => match (s.cl c).replay with
    | some r => if bit (qmaskOf s q) r.part then endRun (s.modCl c fun x => { x with replay := some { r with bad := r.bad || x.workEnd.isNone } }) c else s
    | none => s) s

/-- A reset cancels the runs of a partition; their clusters are cleared (R398). -/
def cancelRuns (s : State) (q : Nat) : State :=
  (List.range 1024).foldl (fun s c => match (s.cl c).replay with
    | some r => if bit (qmaskOf s q) r.part then leaveRun s c else s
    | none => s) s

/-- A takeover restarts every unfinished run from its beginning at the next edge (R291). -/
def restartRuns (s : State) (q : Nat) : State :=
  modPart (cancelRuns s q) q fun p => { p with held := p.held.map fun h => { h with
    stage := match h.stage with | 1 => 0 | 3 => 2 | k => k } }

/-! ### HALT (R281, R282) -/

/-- The mask a mailbox request acts on: the operator's QMASK, or the host's own partition (R282, R396). -/
def requestMask (s : State) (q : Nat) (oper : Bool) (m : Nat) : Nat := if oper then m else qmaskOf s q

/-- Is a mask of the operator path not that of one partition, or does a host's request carry one (R282, R396)? -/
def badMask (s : State) (oper : Bool) (m : Nat) : Bool := if oper then !s.parts.any fun p => p.qmask == m else m != 0

/-- HALT: a partition halts at its next edge; the reply comes there (R281, R282). -/
def execHalt (q : QuarterId) (s : State) : Res :=
  match mbOf s q 7, activeMgr s with
  | some r, some _ =>
    let m := natAt r.payload 0 1
    if noService s q then .next (mbRefuse s q 1)
    else if 15 < m ∨ natAt r.payload 1 7 ≠ 0 then .next (mbRefuse s q 7)
    else if !r.oper && (partOf s q).isNone then .next (mbRefuse s q 8)
    else if badMask s r.oper m then .next (mbRefuse s q 7)
    else
      let t := lowestQuarter (requestMask s q r.oper m)
      let p := partD s t
      if p.reset.isSome || (s.qtr t).pmoving then .next (mbRefuse s q 3)
      else if (s.qtr t).pstate = 2 ∨ (s.qtr t).pstate = 3 then .next (mbRefuse s q 4)
      else if p.halted then .next (mbReply s q 0 [])
      else .next (modPart s t fun p => { p with haltDue := true, haltReply := p.haltReply ++ [q.val] })
  | _, _ => .next s

/-- A halt that is due begins at an edge (R281, R282). -/
def haltAtEdge (s : State) (q : Nat) : State :=
  let p := partD s q
  if p.haltDue then
    let s := if p.halted then s else s.bump (pmHaltCntAt (partQ p))
    let s := modPart s q fun p => { p with halted := true, haltDue := false, haltReply := [] }
    p.haltReply.foldl (fun s k => mbReply s k 0 []) s
  else s

/-- Holds begin and end at an edge (R283, R284); an edge of a hold is counted. -/
def holdAtEdge (s : State) (q : Nat) : State :=
  let p := partD s q
  if p.held.isEmpty then modPart s q fun p => { p with hold := false }
  else
    let s := if p.hold then s else s.bump (pmHoldCntAt (partQ p))
    modPart s q fun p => { p with hold := true }

end Sys2Proof.Machine
end

