-- ==== Sys2Proof/Machine/Resets.lean ====
section
/-! DEFINITION. Eclipse, the compatibility resets and their drains, and the mailbox request for a warm reset (R396 to R402,
R409). -/

namespace Sys2Proof.Machine

/-! ### The mailbox request (R396) -/

/-- A reset request's payload (R396). -/
structure ResetReq where
  sub : Nat
  zero : Bool
  qmask : Nat
  target : Nat
  /-- a bit or byte that must be 0 is not -/
  stray : Bool
  deriving DecidableEq, Repr

/-- The payload of a mailbox request of operation 0x0001. -/
def readReset (r : MbReq) : ResetReq :=
  let sub := natAt r.payload 0 1
  let b1 := natAt r.payload 1 1
  let tgt := natAt r.payload 2 2
  { sub := sub, zero := bit b1 0, qmask := bits b1 7 4, target := tgt
    stray := bits b1 3 1 != 0 || (bit b1 0 && sub != 1) || natAt r.payload 4 4 != 0 || r.payload.length != 8
      || (sub != 2 && sub != 3 && tgt != 0) }

/-- The partition a reset acts on: by its lowest quarter. -/
def resetPart (s : State) (q : Nat) (r : MbReq) (x : ResetReq) : Option Partition :=
  if r.oper then s.parts.find? fun p => p.qmask == x.qmask else partOf s q

/-- Does a TARGET of UNIT or CLUSTER lie outside the partition (R396)? -/
def targetOutside (p : Partition) (x : ResetReq) : Bool :=
  (x.sub == 2 && !unitIn p.qmask x.target) || (x.sub == 3 && !cluIn p.qmask x.target)

/-- May a requester ask for PANEL or WARM_RESET (R396)? -/
def ownsPanel (s : State) (q : Nat) (r : MbReq) : Bool := r.oper || (match partOf s q with | some p => p.qmask == 15 | none => false)

/-- Is a partition in a reset or a power transition (R396)? -/
def partBusy (s : State) (p : Partition) : Bool :=
  p.reset.isSome || (maskQuarters p.qmask).any fun q => (s.qtr q).pmoving

/-- Causes that refuse a reset of one partition: BUSY, STATE, MAINT (R396, R397, R408). -/
def partCause (s : State) (p : Partition) : Option Nat :=
  if partBusy s p then some 3
  else if (maskQuarters p.qmask).any fun q => (s.qtr q).pstate == 2 || (s.qtr q).pstate == 3 then some 4
  else if (maskQuarters p.qmask).any fun q => bit (s.qtr q).held 5 || bit (s.qtr q).held 6 then some 5
  else none

/-- The cause that refuses a reset request, if any (R396). -/
def resetCause (s : State) (q : Nat) (r : MbReq) (x : ResetReq) : Option Nat :=
  if noService s q then some 1
  else if x.stray ∨ x.sub = 0 ∨ 6 < x.sub ∨ (r.oper = false ∧ x.qmask ≠ 0) then some 7
  else if x.sub = 5 ∨ x.sub = 6 then
    if !ownsPanel s q r then some 2 else if x.sub = 6 then none else s.parts.findSome? (partCause s)
  else match resetPart s q r x with
    | none => some (if r.oper then 7 else 8)
    | some p => if targetOutside p x then some 7 else partCause s p

/-- A mailbox reset of one subcode: refused with its cause, or begun. -/
def resetRequest (sub : Nat) (q : Nat) (f : MbReq → ResetReq → State → State) (s : State) : Res :=
  match mbOf s q 1, activeMgr s with
  | some r, some _ =>
    let x := readReset r
    if x.sub = sub ∨ (sub = 1 ∧ (x.sub = 0 ∨ 6 < x.sub)) then
      match resetCause s q r x with
      | some cause => .next (mbRefuse s q cause)
      | none => .next (f r x s)
    else .next s
  | _, _ => .next s

/-! ### Eclipse steps (R398) -/

/-- The reset of a partition in progress. -/
def modReset (s : State) (q : Nat) (f : ResetOp → ResetOp) : State := modPart s q fun p => { p with reset := p.reset.map f }

/-- Steps 1 and 2 of R398 on the quarters of a mask: pending streams abort, clusters stop and absorb arrivals, data caches
are flushed. -/
def stopMask (s : State) (m : Nat) : State :=
  (maskClusters s m).foldl (fun s c => flushCache ((stopCluster s c none).modCl c fun x => { x with absorbing := true }) c)
    (abortStreams s m 0x60)

/-- A unit's accumulators and VRs are zero, its tags EMPTY (R121, R398 step 4). -/
def zeroUnit (s : State) (u : Nat) (tags : Bool) : State :=
  let s := s.modUn u fun x => { x with acc := [], vr := [] }
  if tags then
    let full := (s.un u).full
    full.foldl (fun s sl => markDirty s u sl) ((stopShadow s u).modUn u fun x => { x with full := [] })
  else s

/-- A cluster's shaper balances become 0 (R398 step 5). -/
def zeroBalances (s : State) (c : Nat) : State :=
  (List.range 3).foldl (fun s k => s.setBucket (bucketOf c k) { s.bucket (bucketOf c k) with bal := 0, at_ := s.fab }) s

/-- Steps 4 and 5 of R398 on the quarters of a mask: units zeroed and perhaps cleared, channels reset, registers and
balances 0. -/
def zeroMask (s : State) (m : Nat) (zero : Bool) : State :=
  let s := (maskClusters s m).foldl (fun s c =>
    let s := (List.range 4).foldl (fun s i =>
      let s := zeroUnit s (4 * c + i) true
      if zero then startClear s (4 * c + i) none else s) s
    (zeroBalances s c).modCl c fun x => { x with s := [], s0 := [], credits := [], absorbing := false }) s
  let cfgs := (s.parts.filter fun p => (p.qmask &&& m) != 0).map (·.cfg)
  let s := resetAllChannels s m cfgs
  let s := (maskEdges m).foldl (fun s e => s.setBucket (bucketOfEdge e) { s.bucket (bucketOfEdge e) with bal := 0, at_ := s.fab }) s
  (List.range 16).foldl (fun s f =>
    if bit m (fieldQuarter f) && spareRuns s f then s.setFld f { s.fld f with wiped := max (s.fld f).wiped (if zero then 2 else 1) } else s) s

/-- The table, holds, halts and runs of a partition end (R398 step 5). -/
def endHolds (s : State) (q : Nat) : State :=
  modPart (cancelRuns s q) q fun p => { p with held := [], hold := false, halted := false }

/-- Quarantined tags learn when they are free again (R399). -/
def releaseQuarantine (s : State) (m : Nat) : State :=
  (maskClusters s m).foldl (fun s c => s.modCl c fun x => { x with
    quar := x.quar.map fun t => if t.until_.isNone then { t with until_ := some (s.fab + quarCycles s (cluQuarter c)) } else t }) s

/-- Steps 1 and 2 of an Eclipse of a partition begin (R398). -/
def startEclipse (s : State) (p : Partition) (kind : Nat) (zero : Bool) (reply : Option Nat) (after : Nat) : State :=
  let q := lowestQuarter p.qmask
  let s := modPart s q fun p => { p with
    reset := some { kind := kind, start := s.fab, zero := zero, target := 0, stage := 1, reply := reply, after := after } }
  refreshSusp (stopMask s p.qmask)

/-- ECLIPSE (R396 to R398).  A reset request of no subcode is refused here. -/
def execEclipse (q : QuarterId) (s : State) : Res :=
  resetRequest 1 q (fun r x s => match resetPart s q r x with
    | some p => startEclipse s p 1 x.zero (some q) 0
    | none => s) s

/-- Spare and reserve dies of the quarters of a mask. -/
def spareDies (s : State) (m : Nat) : List Nat :=
  ((List.range 16).filter fun f => bit m (fieldQuarter f)).flatMap fun f => (s.fld f).spare.toList ++ (s.fld f).reserves

/-- The spares and reserves of a mask are zeroed and cleared (R481). -/
def zeroSpares (s : State) (m : Nat) : State :=
  (spareDies s m).foldl (fun s d => (List.range 16).foldl (fun s i => startClear (zeroUnit s (16 * d + i) true) (16 * d + i) none) s) s

/-- ECLIPSE_ABSORB_END: 20.5 µs after its start the absorb window ends; units are zeroed, channels reset (R398), within a
tenant clear the spares too (R481). -/
def execEclipseAbsorbEnd (q : QuarterId) (s : State) : Res :=
  match partOf s q with
  | none => .next s
  | some p =>
    match p.reset with
    | some r =>
      if r.stage = 1 then
        let s := advFab s (r.start + 41000)
        let s := endHolds (zeroMask s p.qmask r.zero) q
        let s := if r.after = 1 then zeroSpares s p.qmask else s
        .next (refreshSusp (modReset s q fun r => { r with stage := 2 }))
      else .next s
    | none => .next s

/-- Is a PANEL reset of some partition under way? -/
def panelResets (s : State) : Bool := s.parts.any fun p => match p.reset with | some r => r.kind == 5 | none => false

/-- A reset is over: its counter, the reply, the quarantines' end; the clusters wait for the next edge (R398 to R402).
PANEL is answered when the slowest partition completes (R401). -/
def finishReset (s : State) (p : Partition) (r : ResetOp) : State :=
  let q := lowestQuarter p.qmask
  let s := modPart s q fun p => { p with reset := none }
  let s := s.bump (if r.kind = 1 then pmEclipseCntAt q else pmCompatRstCntAt q)
  let s := refreshSusp (releaseQuarantine s p.qmask)
  match r.reply with
  | none => s
  | some k => if r.kind = 5 && panelResets s then s else mbReply s k 0 []

/-- ECLIPSE_COMPLETE: 40 µs after its start the reset completes (R398); the reset within a tenant clear ends with its first
pass. -/
def execEclipseComplete (q : QuarterId) (s : State) : Res :=
  match partOf s q with
  | none => .next s
  | some p =>
    match p.reset with
    | some r =>
      if r.stage = 2 ∧ r.after ≠ 1 then
        let s := advFab s (r.start + 80000)
        let s := (maskClusters s p.qmask).foldl (fun s c => s.modCl c fun x => { x with seq := .waitEdge }) s
        .next (finishReset s p r)
      else .next s
    | none => .next s

/-! ### Drains (R401, R402) -/

/-- A descriptor of a unit under a drain: one that has sent a request generates no more, any other completes CANCELLED
(R401). -/
def drainDesc (s : State) (c u : Nat) (e : Issued) : State :=
  match (s.cl c).eng.find? fun g => g.d.did == e.d.did with
  | some g =>
    if g.sent = 0 then complete (engDone s c g) c e.d.did stCancelled
    else modEng s c e.d.did fun g => { g with stopped := true }
  | none => complete (unitDone (abandonUnit s u e) u e.d.did) c e.d.did stCancelled

/-- The descriptors of a unit are drained (R401). -/
def drainUnit (s : State) (u : Nat) : State :=
  let c := unitClu u
  let s := (s.un u).uq.foldl (fun s d => complete s c d.did stCancelled) ((atPresent s u).modUn u fun x => { x with uq := [] })
  (s.un u).issued.foldl (fun s e => drainDesc s c u e) s

/-- A cluster is drained: its sequencer stops, queued descriptors and COMMITs that sent nothing complete CANCELLED, its
units drain (R401). -/
def drainCluster (s : State) (c : Nat) : State :=
  let s := (noteRoom s c).modCl c fun x => { x with seq := .idle, stall := none, handler := none, late := none, waiting := false }
  let s := endWaits ((List.range 4).foldl (fun s i => drainUnit s (4 * c + i)) s) c
  let x := s.cl c
  let s := s.setCl c { x with dq := [], commitQ := x.commitQ.filter (·.sent) }
  (x.dq.map (·.did) ++ (x.commitQ.filter fun k => !k.sent).map (·.d.did)).foldl (fun s d => complete s c d stCancelled) s

/-- Has a stopped transfer of a cluster outstanding requests? -/
def engOutstanding (x : Cluster) (e : Eng) : Bool := (x.rtags ++ x.wtags).any fun t => t.did == e.d.did

/-- The transfers of a cluster that have drained complete CANCELLED. -/
def endDrained (s : State) (c : Nat) : State :=
  ((s.cl c).eng.filter (·.stopped)).foldl (fun s e => complete (engDone s c e) c e.d.did stCancelled) s

/-- The clusters a drain concerns, and the unit when it is a unit's. -/
def drainScope (s : State) (p : Partition) (r : ResetOp) : List Nat :=
  match r.kind with
  | 2 => ((unitOfLogical s r.target).map unitClu).toList
  | 3 => (cluOfLogical s r.target).toList
  | _ => maskClusters s p.qmask

/-- Remote REQs accepted at a partition's edge dies and not yet in the fabric (R401). -/
def reqsAtEdges (s : State) (m : Nat) : Bool :=
  (maskEdges m).any fun e => !(s.edge e).ingressReq.isEmpty || (List.range 4).any fun k => (s.port (4 * e + k)).ingress.any fun x => x.1 == 0

/-- Is a packet of another panel's request, or its answer, inside the fabric at a site of a quarter mask or on the way to one? -/
def remoteIn (m : Nat) (k : Packet) : Bool := k.peer.isSome && bit m (siteQuarter k.dsite)

/-- Remote REQs that the fabric or a memory router still serves, and answers that have not reached their edge dies (R401). -/
def reqsInside (s : State) (m : Nat) : Bool :=
  s.flights.any (fun x => remoteIn m x.pkt)
    || s.routers.any (fun x => (x.2.inject ++ x.2.eject ++ x.2.park).any fun k => remoteIn m k.2)
    || s.mrs.any fun x => (x.2.merges.flatMap (·.reqs) ++ x.2.writes.map (·.pkt) ++ x.2.txs.map (·.req) ++ x.2.waits).any (remoteIn m)

/-- Is a request that another panel has made of a partition still to be answered (R401, R406)? -/
def remoteOpen (s : State) (m : Nat) : Bool := reqsAtEdges s m || reqsInside s m

/-- Is a drain over: is nothing outstanding (R401)? -/
def drained (s : State) (p : Partition) (r : ResetOp) : Bool :=
  match r.kind with
  | 2 => match unitOfLogical s r.target with
    | some u => !(s.cl (unitClu u)).eng.any fun e => e.unit == u && e.stopped && engOutstanding (s.cl (unitClu u)) e
    | none => true
  | 3 => (drainScope s p r).all fun c => (s.cl c).rtags.isEmpty && (s.cl c).wtags.isEmpty
  | _ => (drainScope s p r).all (fun c => (s.cl c).rtags.isEmpty && (s.cl c).wtags.isEmpty) && !remoteOpen s p.qmask

/-- A compatibility reset of a partition begins: the drain (R401). -/
def startCompat (s : State) (p : Partition) (kind target : Nat) (reply : Option Nat) : State :=
  let r : ResetOp := { kind := kind, start := s.fab, zero := false, target := target, stage := 0, reply := reply }
  let s := modPart s (lowestQuarter p.qmask) fun p => { p with reset := some r }
  let s := if kind = 2 then (match unitOfLogical s target with | some u => drainUnit s u | none => s)
    else (drainScope s p r).foldl drainCluster s
  refreshSusp (if kind = 2 ∨ kind = 3 then s else abortStreams s p.qmask 0x60)

/-- COMPAT_UNIT (R401) -/
def execCompatUnit (q : QuarterId) (s : State) : Res :=
  resetRequest 2 q (fun r x s => match resetPart s q r x with | some p => startCompat s p 2 x.target (some q) | none => s) s
/-- COMPAT_CLUSTER (R401) -/
def execCompatCluster (q : QuarterId) (s : State) : Res :=
  resetRequest 3 q (fun r x s => match resetPart s q r x with | some p => startCompat s p 3 x.target (some q) | none => s) s
/-- COMPAT_PARTITION (R401) -/
def execCompatPartition (q : QuarterId) (s : State) : Res :=
  resetRequest 4 q (fun r x s => match resetPart s q r x with | some p => startCompat s p 4 0 (some q) | none => s) s
/-- COMPAT_PANEL: every partition at once (R401); with none there is nothing to reset. -/
def execCompatPanel (q : QuarterId) (s : State) : Res :=
  resetRequest 5 q (fun _ _ s =>
    if s.parts.isEmpty then mbReply s q 0 [] else s.parts.foldl (fun s p => startCompat s p 5 0 (some q.val)) s) s

/-- What follows a drain: a unit's or a cluster's reset is complete; a partition goes on with steps 3 to 6 of R398 (R401). -/
def afterDrain (s : State) (p : Partition) (r : ResetOp) : State :=
  match r.kind with
  | 2 =>
    let s := match unitOfLogical s r.target with
      | some u =>
        let c := unitClu u
        let s := ((s.cl c).eng.filter fun e => e.stopped && e.unit == u).foldl (fun s e => complete (engDone s c e) c e.d.did stCancelled) s
        zeroUnit s u false
      | none => s
    finishReset s p r
  | 3 =>
    let s := (drainScope s p r).foldl (fun s c =>
      let s := endDrained s c
      let s := (s.cl c).commitQ.foldl (fun s k => complete s c k.d.did stCancelled) s
      let s := (List.range 4).foldl (fun s i => zeroUnit s (4 * c + i) false) s
      (zeroBalances (flushCache s c) c).modCl c fun x => { x with seq := .waitEdge, s := [], s0 := [], commitQ := [] }) s
    finishReset s p r
  | _ =>
    let s := (drainScope s p r).foldl (fun s c =>
      flushCache ((cancelAll (endDrained s c) c).modCl c fun x => { x with absorbing := true }) c) s
    modReset s (lowestQuarter p.qmask) fun r => { r with start := s.fab - 1000, stage := 1 }

/-- DRAIN_COMPLETE: the last outstanding request of a drain has landed (R401). -/
def execDrainComplete (q : QuarterId) (s : State) : Res :=
  match partOf s q with
  | none => .next s
  | some p =>
    match p.reset with
    | some r => when_ (r.stage == 0 && drained s p r) s (afterDrain s p r)
    | none => .next s

/-- Tags of the transfers a drain still waits for are quarantined (R402). -/
def quarantineDrain (s : State) (p : Partition) (r : ResetOp) : State :=
  match r.kind, unitOfLogical s r.target with
  | 2, some u =>
    let c := unitClu u
    let mine (t : Tag) : Bool := (s.cl c).eng.any fun e => e.unit == u && e.stopped && e.d.did == t.did
    s.modCl c fun x => { x with
      quar := x.quar ++ ((x.rtags.filter mine).map fun t => { write := false, tag := t.tag, until_ := none, absorb := true })
        ++ (x.wtags.filter mine).map fun t => { write := true, tag := t.tag, until_ := none, absorb := true }
      rtags := x.rtags.filter fun t => !mine t, wtags := x.wtags.filter fun t => !mine t }
  | _, _ => (drainScope s p r).foldl (fun s c => quarantineTags s c none) s

/-- DRAIN_TIMEOUT: 2 × QC_XTIMEOUT.US after the reset began an unfinished drain ends and the reset goes on (R402). -/
def execDrainTimeout (q : QuarterId) (s : State) : Res :=
  match partOf s q with
  | none => .next s
  | some p =>
    match p.reset with
    | some r =>
      if r.stage = 0 then
        let s := advFab s (r.start + quarCycles s (lowestQuarter p.qmask))
        .next (afterDrain (quarantineDrain s p r) p r)
      else .next s
    | none => .next s

/-- WARM_RESET: answered OK; the panel warm reset begins 100 µs later (R396). -/
def execWarmReset (q : QuarterId) (s : State) : Res :=
  resetRequest 6 q (fun _ _ s => (mbReply s q 0 []).modMgr fun m => { m with warmAt := some (s.fab + 200000) }) s

end Sys2Proof.Machine
end

