-- ==== Sys2Proof/Machine/Time.lean ====
section
/-! DEFINITION. Time beacons, the 1PPS input and time sets (R36 to R44). -/

namespace Sys2Proof.Machine

/-! ### Beacons (R36 to R38) -/

/-- The instant of the manager's next beacon: 16 µs after the last (R36). -/
def nextBeacon (s : State) : Nat := (s.mgr.beaconNs + 16000).toNat

/-- A beacon to the keeper at a router: header-only, with the manager's time in header fields that a beacon has no other use
for; its router writes it again in the slot in which the beacon is sent (R36, R216; DESIGN CHOICE, log entry 47). -/
def beaconTo (site ns : Nat) : Packet := beaconAt ns { typ := tBeacon, cls := cCtrl, dsite := site, dagt := regAgent site }

/-- BEACON_SEND: every 16 µs the active manager sends its time to every keeper (R36). -/
def execBeaconSend (s : State) : Res :=
  match activeMgr s with
  | none => .next s
  | some _ =>
    let s := advMgr s (nextBeacon s)
    let t := mgrNs s
    let s := s.modMgr fun m => { m with beaconNs := t }
    .next ((List.range 400).foldl (fun s i => fromMgr s (beaconTo i t)) s)

/-- What a keeper takes as its time at a beacon's arrival: the time it carries, the path delay and the fabric's correction
(R36, R223). -/
def beaconTarget (p : Packet) (delay : Nat) : Int := beaconTime p + delay + p.corr / 2

/-- BEACON: a keeper adds its path delay and the fabric's correction, and slews toward the result; one of an older epoch
is not obeyed (R36, R223, R428).  The time that the beacon has stood in the ejection buffer is no part of its path. -/
def execBeacon (site : RouterId) (s : State) : Res :=
  serve (site, regPort site) (fun p => p.typ == tBeacon) (fun p s =>
    if obeys s site p then
      let s := seeEpoch s site (p.addr % 65536)
      let s := s.modKeeper site fun k => { k with
        beaconAt := some s.fab, missed := 0, freeRun := false, src := p.ssite != edgeSite 0 }
      match (s.keeper site).delay with
      | none => refreshSusp s
      | some d =>
        refreshSusp (setSlew s site (beaconTarget p d + ((s.fab - p.ejAt) / 2 : Nat) - nsAt s site))
    else s) s

/-- GT_BEACON_MISS_CNT of the keeper at a router; the keeper of a memory router has no block (R509). -/
def bumpBeaconMiss (s : State) (site : Nat) : State :=
  match placeOf site with | .stack _ => s | _ => s.bump (gtBeaconMissCntAt (keeperGtBlk site))

/-- The fabric cycle from which a keeper's beacon intervals count: that of the last beacon, or of the start of its count
while none has come (R38). -/
def beaconSince (k : Keeper) : Nat := k.beaconAt.getD k.since

/-- BEACON_MISS: an interval of 16 µs passes without a beacon (R38).  A keeper counts once its time clock runs, which step 1 of
bring-up ends with (R35, R359). -/
def execBeaconMiss (site : RouterId) (s : State) : Res :=
  if s.mgr.step = 1 then .next s
  else
    let s := advFab s (beaconSince (s.keeper site) + 32000 * ((s.keeper site).missed + 1))
    .next (bumpBeaconMiss (s.modKeeper site fun k => { k with missed := k.missed + 1 }) site)

/-- BEACON_LOSS: more than 1 ms passes without a beacon, and the keeper runs free (R37, R38, R229). -/
def execBeaconLoss (site : RouterId) (s : State) : Res :=
  if s.mgr.step = 1 then .next s
  else
    let s := advFab s (beaconSince (s.keeper site) + 2000001)
    .next (refreshSusp (s.modKeeper site fun k => { k with freeRun := true }))

/-! ### 1PPS (R39) -/

/-- GT_PPS_CTL.EN (R44). -/
def ppsOn (s : State) : Bool := bit (s.reg (gtPpsCtlAt panelGtBlk)) 0 && (activeMgr s).isSome

/-- Offset of an edge from the nearest whole second of the manager's time, the cable delay taken off (R39).  R39 does not say
which of two equally near seconds counts: an edge half a second after one is taken as +500,000,000 ns (DESIGN CHOICE, log entry
124). -/
def ppsOffset (s : State) : Int :=
  let t : Int := (mgrNs s : Int) - s.regField (gtPpsCtlAt panelGtBlk) 27 16
  let r := t % 1000000000
  if r ≤ 500000000 then r else r - 1000000000

/-- The manager's time follows the exchanges with another panel, not 1PPS: PM_XTIME_CTL.ROLE is FOLLOW (R337). -/
def follows (s : State) : Bool := s.regField pmXtimeCtlAt 1 0 == 2

/-- The time port: PORT0, or PORT1 when that is allowed and PORT0 is not UP (R336). -/
def timePort (s : State) : Nat :=
  let c := s.reg pmXtimeCtlAt
  if bit c 2 && (s.port (bits c 8 3)).state != 2 then bits c 14 9 else bits c 8 3

/-- PM_XTIME_STAT with no exchange recorded (R339). -/
def noExchange (s : State) : Nat := 0x80000000 * 2 ^ 32 + b2n (timePort s != s.regField pmXtimeCtlAt 8 3) * 4

/-- The average of exchanges is discarded (R336, R337). -/
def discardAverage (s : State) : State :=
  (s.modMgr fun m => { m with xExch := [], xPort := timePort s }).setReg pmXtimeStatAt (noExchange s)

/-- A change of time port discards the average, and with it the slew of FOLLOW toward it (R336). -/
def settleTimePort (s : State) : State :=
  if timePort s = s.mgr.xPort then s
  else
    let t := discardAverage s
    if follows s then t.modMgr fun m => { m with toSlew := 0 } else t

/-- The servo of 1PPS works: EN and SERVO, which FOLLOW overrides (R39, R337). -/
def servoOn (s : State) : Bool := bit (s.reg (gtPpsCtlAt panelGtBlk)) 0 && bit (s.reg (gtPpsCtlAt panelGtBlk)) 2 && !follows s

/-- After a write of GT_PPS_CTL or PM_XTIME_CTL: a slew whose source no longer steers the manager's time ends, and a new time port
discards the average (R39, R336, R337). -/
def settleTimeCtl (before s : State) : State :=
  settleTimePort (if (follows before && !follows s) || (servoOn before && !servoOn s) then
    s.modMgr fun m => { m with toSlew := 0 } else s)

/-- PPS_EDGE: the manager records the offset of an edge of the selected polarity, and slews toward it with SERVO, which FOLLOW
overrides (R39, R337). -/
def execPpsEdge (falling : Bool) (s : State) : Res :=
  if ppsOn s && bit (s.reg (gtPpsCtlAt panelGtBlk)) 1 == falling then
    let ofs := ppsOffset s
    let s := (s.setReg (gtPpsOfsAt panelGtBlk) (ofSigned 32 ofs)).modMgr fun m => { m with ppsNs := some (mgrNs s) }
    .next (if bit (s.reg (gtPpsCtlAt panelGtBlk)) 2 && !follows s then setMgrSlew s (-ofs) else s)
  else .next s

/-- PPS_MISS: a whole second ends with no 1PPS edge in it, and time continues on the reference alone: a slew toward 1PPS ends
(R39). -/
def execPpsMiss (s : State) : Res :=
  if ppsOn s then
    let t := (mgrNs s / 1000000000 + 1) * 1000000000
    if (match s.mgr.ppsNs with | some e => decide (t ≤ e + 1000000000) | none => false) then .next s
    else .next (((advMgr s t).bump (gtPpsMissCntAt panelGtBlk)).modMgr fun m => { m with
      ppsNs := none, toSlew := if follows s then m.toSlew else 0 })
  else .next s

/-! ### Time sets (R42 to R44) -/

/-- A time set is pending: GT_SET_STAT.STATE reads PENDING. -/
def setPending (s : State) : Bool := s.mgr.set.isSome

/-- Cause of refusal of a set: a running tick, NSEC out of range, an Equinox change pending; 0 for none (R44).  R44 does not say
which cause is recorded when several hold: the first in that order (DESIGN CHOICE, log entry 125). -/
def setRefusal (s : State) : Nat :=
  if s.parts.any (·.tick) then 1
  else if s.reg (gtSetNsecAt panelGtBlk) % 2 ^ 30 > 999999999 then 2
  else if s.mgr.eqx.isSome then 3
  else 0

/-- The staged time in ns (R42). -/
def stagedNs (s : State) : Nat :=
  (s.reg (gtSetSecHiAt panelGtBlk) % 65536 * 2 ^ 32 + s.reg (gtSetSecLoAt panelGtBlk)) * 1000000000
    + s.reg (gtSetNsecAt panelGtBlk) % 2 ^ 30

/-- A set command of the operator: ignored while a set is pending, refused, or accepted for an instant (R42 to R44). -/
def gtSet (s : State) (who : Requester) (at_ : Nat) : State :=
  if operMgr s who && !setPending s then
    match setRefusal s with
    | 0 =>
      (s.modMgr fun m => { m with set := some (at_, stagedNs s / 1000000000, stagedNs s % 1000000000) }).setReg
        (gtSetStatAt panelGtBlk) 1
    | c => (s.setReg (gtSetStatAt panelGtBlk) 3).setReg (gtSetWhyAt panelGtBlk) c
  else s

/-- The first beacon instant at least 4 µs from now (R43). -/
def setBeaconInstant (s : State) : Nat :=
  let b := s.mgr.beaconNs
  let t : Int := mgrNs s + 4000
  (if t ≤ b then b else b + (t - b + 15999) / 16000 * 16000).toNat

/-- GT_SET_NOW (R43) -/
def execGtSetNow (who : Requester) (s : State) : Res := .next (gtSet s who (setBeaconInstant s))

/-- GT_SET_NEXT_SECOND: the first whole second at least 20 µs from now (R43). -/
def execGtSetNextSecond (who : Requester) (s : State) : Res :=
  .next (gtSet s who ((mgrNs s + 20000 + 999999999) / 1000000000 * 1000000000))

/-- GT_SET_CANCEL: a pending set is cancelled (R44).  With none pending the command is ignored and GT_SET_STAT stays as it is,
a case R44 does not speak of (DESIGN CHOICE, log entry 126). -/
def execGtSetCancel (who : Requester) (s : State) : Res :=
  when_ (operMgr s who && setPending s) s
    ((s.modMgr fun m => { m with set := none }).setReg (gtSetStatAt panelGtBlk) 4)

/-- TIME_SET_APPLY: at the chosen instant every keeper and the manager take exactly the staged time, and the 1PPS servo
starts again; an average of exchanges is discarded (R43, R337). -/
def execTimeSetApply (s : State) : Res :=
  match s.mgr.set with
  | none => .next s
  | some (t, sec, ns) =>
    let s := advMgr s t
    let new : Nat := sec * 1000000000 + ns
    let adj : Int := (new : Int) - (s.fab / 2 : Nat)
    let s := { s with keepers := (List.range 400).map fun i => (i, { s.keeper i with adj := adj, toSlew := 0 }) }
    let s := s.modMgr fun m => { m with
      adj := adj, toSlew := 0, set := none, setAt := s.fab
      beaconNs := m.beaconNs + new - t, ppsNs := none }
    .next ((discardAverage s).setReg (gtSetStatAt panelGtBlk) 2)

end Sys2Proof.Machine
end

