-- ==== Sys2Proof/Machine/PowerStates.lean ====
section
/-! DEFINITION. Day, Dim, Dusk and Dark: the mailbox operation POWER_STATE, entries and wakes (R403 to R408). -/

namespace Sys2Proof.Machine

/-! ### The request (R403, R408) -/

/-- Change the quarters of a mask. -/
def modQuarters (s : State) (m : Nat) (f : Quarter → Quarter) : State := (maskQuarters m).foldl (fun s q => s.modQtr q f) s

/-- The quarters a POWER_STATE request acts on: the operator's QMASK, of one partition or of free quarters, or the host's
partition; none for a mask of neither kind (R403). -/
def powerMask (s : State) (q : Nat) (r : MbReq) : Option Nat :=
  if r.oper then
    let m := natAt r.payload 1 1
    if 0 < m ∧ m < 16 ∧ ((s.parts.any fun p => p.qmask == m) || (maskQuarters m).all fun k => (partOf s k).isNone) = true then some m
    else none
  else (partOf s q).map (·.qmask)

/-- Does an activity other than patrol scrub or an Equinox change hold a quarter of a mask (R408)? -/
def heldAgainstDusk (s : State) (m : Nat) : Bool :=
  (maskQuarters m).any fun q => ((s.qtr q).held &&& (127 - 1 - 8)) != 0

/-- The cause that refuses a POWER_STATE request for the quarters of a mask, if any (R403, R408). -/
def powerCause (s : State) (m target : Nat) : Option Nat :=
  let t := lowestQuarter m
  let p := partD s t
  let cur := (s.qtr t).pstate
  if (maskQuarters m).any (inDawn s) then some 4
  else if p.reset.isSome || (maskQuarters m).any fun q => (s.qtr q).pmoving then some 3
  else if p.hold then some 6
  else if target ≠ 0 ∧ cur ≠ 0 ∧ target ≠ cur then some 4
  else if 2 ≤ target ∧ cur = 0 ∧ heldAgainstDusk s m = true then some 5
  else none

/-- The edge at which a change begins: the first at least 10 µs away for an entry, the first one for a return from Dim; at
once for a wake; without a running tick the instant itself (R403, R404). -/
def powerEdge (s : State) (m target : Nat) : Nat :=
  let q := lowestQuarter m
  let now := qcNs s q
  let from_ := if target = 0 then now + 1 else now + 10000
  match (partOf s q).filter (·.tick) with
  | some p => if p.period = 0 then now else (from_ + p.period - 1) / p.period * p.period
  | none => if target = 0 then now else now + 10000

/-- A POWER_STATE request of one target state: refused with its cause, or accepted and answered with its edge; one for the
state the quarters are in changes nothing (R403). -/
def powerRequest (target q : Nat) (s : State) : Res :=
  match mbOf s q 2, activeMgr s with
  | some r, some _ =>
    let want := natAt r.payload 0 1
    if want = target ∨ (target = 0 ∧ 3 < want) then
      if noService s q then .next (mbRefuse s q 1)
      else if 3 < want ∨ natAt r.payload 2 6 ≠ 0 ∨ r.payload.length ≠ 8 ∨ (r.oper = false ∧ natAt r.payload 1 1 ≠ 0) then
        .next (mbRefuse s q 7)
      else match powerMask s q r with
        | none => .next (mbRefuse s q (if r.oper then 7 else 2))
        | some m =>
          match powerCause s m target with
          | some c => .next (mbRefuse s q c)
          | none =>
            let e := powerEdge s m target
            let s := if (s.qtr (lowestQuarter m)).pstate = target then s
              else modQuarters s m fun x => { x with ptarget := target, pmoving := true, pstage := 0, pedge := e }
            let s := if target = 0 ∧ (s.qtr (lowestQuarter m)).pmoving = true ∧ (s.qtr (lowestQuarter m)).pstate = 3 then
                settleTimePort <|
                let s := (List.range 128).foldl (fun s n =>
                  if bit m (stackQuarter n) && (s.mr n).state == 3 then s.modMr n fun x => { x with state := 2 } else s) s
                (List.range 64).foldl (fun s p =>
                  if bit m (edgeQuarter (p / 4)) && (s.port p).state == 4 then s.modPort p fun x => { x with state := 2 } else s) s
              else s
            .next (mbReply s q 0 (leBytes 8 (timeWord e)))
    else .next s
  | _, _ => .next s

/-- PSTATE_DAY (R403, R404, R405, R406).  A request for a state that does not exist is refused here. -/
def execPstateDay (q : QuarterId) (s : State) : Res := powerRequest 0 q s
/-- PSTATE_DIM (R403, R404) -/
def execPstateDim (q : QuarterId) (s : State) : Res := powerRequest 1 q s
/-- PSTATE_DUSK (R403, R405) -/
def execPstateDusk (q : QuarterId) (s : State) : Res := powerRequest 2 q s
/-- PSTATE_DARK (R403, R406) -/
def execPstateDark (q : QuarterId) (s : State) : Res := powerRequest 3 q s

/-! ### Completion -/

/-- A power-state change has completed: PM_PSTATE, its counters, and a STATE_EVENT (R403, R415). -/
def endPower (s : State) (m : Nat) : State :=
  let t := (s.qtr (lowestQuarter m)).ptarget
  let s := modQuarters s m fun x => { x with pstate := x.ptarget, pmoving := false, pstage := 0 }
  stateEvent ((maskQuarters m).foldl (fun s q => s.bump (pmPstateCntAt q)) s) m 1 t

/-- The quarters that move together with quarter q. -/
def movingMask (s : State) (q : Nat) : Nat :=
  match partOf s q with
  | some p => p.qmask
  | none => ((List.range 4).map fun k =>
      if (partOf s k).isNone && (s.qtr k).pmoving && (s.qtr k).ptarget == (s.qtr q).ptarget && (s.qtr k).pedge == (s.qtr q).pedge
      then 2 ^ k else 0).sum

/-- At tick edge t a change that is due begins: Dim is entered or left, the way to Dusk or Dark starts (R404, R405). -/
def powerAtEdge (s : State) (q t : Nat) : State :=
  let x := s.qtr q
  let m := movingMask s q
  if x.pmoving ∧ x.pstage = 0 ∧ x.pedge ≤ t ∧ x.pstate < 2 then
    if x.ptarget < 2 then endPower s m else modQuarters s m fun x => { x with pstage := 1, pedge := t }
  else s

/-! ### Entry to Dusk and Dark (R405, R406) -/

/-- Has a cluster ended its work, with every request of its own answered? -/
def cluQuiet (s : State) (c : Nat) : Bool :=
  let x := s.cl c
  x.live.isEmpty && x.rtags.isEmpty && x.wtags.isEmpty && x.get.isNone && x.wb.isEmpty && x.stall.isNone && x.replay.isNone
    && x.ctrlOut.isEmpty && x.seq != .run && x.seq != .handler

/-- Has every memory request of a quarter mask's stacks been answered? -/
def memQuiet (s : State) (m : Nat) : Bool :=
  ((List.range 128).filter fun n => bit m (stackQuarter n)).all fun n =>
    let x := s.mr n
    x.merges.isEmpty && x.writes.isEmpty && x.txs.isEmpty && x.waits.isEmpty

/-- A cluster's data cache is written back into its homes and invalidated (R405; as one event, DESIGN CHOICE, log entry
53). -/
def writeBackCache (s : State) (c : Nat) : State :=
  let x := s.cl c
  let s := (x.cache.filter (·.excl)).foldl (fun s l =>
    let n := homeStack l.line
    (partialWrite s n ((l.line - controlBase) % 0x4000000) l.data).modMr n fun y => { y with dir := y.dir.filter fun e => e.line != l.line }) s
  s.modCl c fun x => { x with cache := [] }

/-- What of a cluster does not survive Dusk: its scalar registers, queues, balances, firmware (R405, R409). -/
def darkenCluster (s : State) (c : Nat) : State :=
  (zeroBalances s c).modCl c fun x => { x with
    seq := .idle, s := [], s0 := [], queues := [], outFree := [], outSeq := [], credits := [], dq := [], late := none, workEnd := none }

/-- Offset of a cluster's saved schedule memory in its field's well (R406). -/
def savedAt (c : Nat) : Nat :=
  let f := dieField (c / 4)
  let k := 4 * ((fieldDies f).idxOf (c / 4)) + c % 4
  0x8ED800000 + 0x10000 * k

/-- The schedule memory of a cluster is saved into its field's well, with the blocks' checks (R406). -/
def saveSchedule (s : State) (c : Nat) : State :=
  let n := wellStack (dieField (c / 4))
  (List.range 64).foldl (fun s i =>
    let bs := s.read (schedAt c (1024 * i)) 1024
    storeBlock s n (savedAt c / 1024 + i) bs (crc64 bs)) s

/-- The headers of every region of a quarter mask open, after the last work; on the way to Dark the schedule memories are
saved and the scratchpads lost (R405, R406). -/
def openQuarters (s : State) (m : Nat) (dark : Bool) : State :=
  let s := (allClusters m).foldl (fun s c => writeBackCache s c) s
  let s := if dark then (maskClusters s m).foldl (fun s c => saveSchedule s c) s else s
  let s := (allClusters m).foldl (fun s c => darkenCluster s c) s
  let s := ((List.range 4096).filter fun u => bit m (dieQuarter (u / 16))).foldl (fun s u =>
    let s := zeroUnit s u false
    if dark then wipeSpad s u else s) s
  let s := ((List.range 512).filter fun r => bit m (dieQuarter (r / 2)) && (s.rgn r).hdr != 3).foldl (fun s r => openRegion s r 0) s
  refreshSusp { s with parts := s.parts.map fun p => if p.qmask = m then { p with tick := false, joinTo := none } else p }

/-- Entry to a state without a tick to give it an edge: the instant itself. -/
def noTickEntry (s : State) (q : Nat) : State :=
  let x := s.qtr q
  if x.pmoving ∧ x.pstage = 0 ∧ x.ptarget ≠ 0 ∧ ((partOf s q).filter (·.tick)).isNone = true then
    powerAtEdge (advNs s (edgeSite (controllerEdge q)) x.pedge) q x.pedge
  else s

/-- PSTATE_ENTRY_DONE: late work has completed; about 30 µs after its edge Dusk is entered, about 60 µs after it Dark
(R403, R405, R406). -/
def execPstateEntryDone (q : QuarterId) (s : State) : Res :=
  let s := noTickEntry s q
  let x := s.qtr q
  let m := movingMask s q
  let site := edgeSite (controllerEdge q)
  if x.pmoving ∧ 2 ≤ x.ptarget then
    if x.pstage = 1 ∧ (allClusters m).all (cluQuiet s) = true ∧ memQuiet s m = true then
      let s := openQuarters (advNs s site (x.pedge + 30000)) m (x.ptarget == 3)
      .next (if x.ptarget = 2 then endPower s m else modQuarters s m fun x => { x with pstage := 2 })
    else if x.pstage = 3 then .next (endPower (advNs s site (x.pedge + 60000)) m)
    else .next s
  else .next s

/-- SELF_REFRESH_ENTRY: every request in flight has been answered: the stacks enter self-refresh, patrol scrub gives up its
grant, the ports enter LPI (R322, R406, R408). -/
def execSelfRefreshEntry (q : QuarterId) (s : State) : Res :=
  let x := s.qtr q
  let m := movingMask s q
  if x.pmoving ∧ x.pstage = 2 ∧ memQuiet s m = true ∧ remoteOpen s m = false then
    let s := (List.range 128).foldl (fun s n =>
      if bit m (stackQuarter n) && (s.mr n).state == 2 then s.modMr n fun y => { y with state := 3 } else s) s
    let s := (List.range 64).foldl (fun s p =>
      if bit m (edgeQuarter (p / 4)) && (s.port p).state == 2 then s.modPort p fun y => { y with state := 4 } else s) s
    .next (releaseLock (modQuarters (settleTimePort s) m fun x => { x with
      pstage := 3, scrubReq := if bit x.held 0 then some s.fab else x.scrubReq }) 1 m)
  else .next s

/-! ### Return to Day (R405, R406) -/

/-- Are the regions of a quarter mask awake, their clusters' firmware fetched and no unit clearing?  Withdrawn dies wake
no more. -/
def wokenUp (s : State) (m : Nat) : Bool :=
  ((List.range 256).filter fun d => bit m (dieQuarter d) && (s.die d).state != 2).all fun d =>
    (s.rgn (2 * d)).hdr == 2 && (s.rgn (2 * d + 1)).hdr == 2 && ((List.range 4).all fun k => (s.cl (4 * d + k)).fwOk)
      && (List.range 16).all fun i => !clearing (s.un (16 * d + i))

/-- A cluster's schedule memory comes back from the well; an image that fails its digest is none, and the partition halts
(R406). -/
def restoreSchedule (s : State) (q c : Nat) : State :=
  let n := wellStack (dieField (c / 4))
  let s := s.write (schedAt c 0) (s.read (stackAt n (savedAt c)) 0x10000)
  match (logicalOfClu s c), cfgOf s q with
  | some l, some cfg =>
    match schedFor cfg l with
    | none => s
    | some e =>
      if sha384 (s.read (schedAt c 0) e.length) = e.digest then s
      else haltSoon (modPart s q fun p => { p with cfg := { p.cfg with scheds := { e with clu := l, image := [] } :: p.cfg.scheds } }) q
  | _, _ => s

/-- PSTATE_WAKE_DONE: the regions have woken and hold their firmware; the manager restores every configuration register,
channels are reset, schedule memories restored, and the tick may start again; a free quarter leaves Dim at once (R405,
R406). -/
def execPstateWakeDone (q : QuarterId) (s : State) : Res :=
  let x := s.qtr q
  let m := movingMask s q
  if x.pmoving ∧ x.ptarget = 0 then
    if x.pstate < 2 then
      .next (if ((partOf s q).filter (·.tick)).isNone then endPower s m else s)
    else if wokenUp s m then
      let s := match partOf s q with
        | none => s
        | some p =>
          let s := resetAllChannels (configAll s p.cfg none) m [p.cfg]
          let s := if x.pstate = 3 then (maskClusters s m).foldl (fun s c => restoreSchedule s q c) s else s
          modPart s q fun p => { p with startFrom := some s.fab }
      .next (endPower s m)
    else .next s
  else .next s

end Sys2Proof.Machine
end

