-- ==== Sys2Proof/Machine/Managers.lean ====
section
/-! DEFINITION. The two panel managers: heartbeats, journal, takeover, loss of both (R427 to R431, R490). -/

namespace Sys2Proof.Machine

/-! ### Mirrored counters (R490) -/

/-- Addresses of the panel-manager counters. -/
def pmCounters : List Nat :=
  (pmRows.filter (·.ctr)).flatMap fun r => (List.range (max r.count 1)).map fun i => pmBlk + r.off + r.stride * i

/-- Their values now. -/
def pmCounts (s : State) : List (Nat × Nat) := pmCounters.map fun a => (a, s.ctr a)

/-- A panel-manager counter as a read returns it: what the standby has acknowledged, or its true value while the journal is
not mirrored (R490). -/
def pmCountView (s : State) (a : Nat) : Nat := if s.mgr.solo then s.ctr a else findD s.mgr.acked a 0

/-! ### Heartbeats (R427) -/

/-- Is an instance running and not stood down? -/
def instUp (s : State) (b : Bool) : Bool := (s.inst b).booted && !(s.inst b).down && !s.mgr.lost

/-- PM_HEARTBEAT_SEND: every 100 µs each manager sends its partner a heartbeat with its counters (R427, R490). -/
def execPmHeartbeatSend (m : MgrId) (s : State) : Res :=
  if instUp s m then
    let s := advFab s ((s.inst m).hbSent + 200000)
    let s := s.setInst m { s.inst m with hbSent := s.fab }
    let p := withPayload { mgmtTo (edgeSite (managerEdge (!m))) 5 0xB with cls := cCtrl, addr := (s.inst m).epoch % 65536 }
      ((pmCounts s).flatMap fun c => leBytes 8 c.2)
    .next (injectEdge s (managerEdge m) 5 p)
  else .next s

/-- Counters a heartbeat brought to the standby are acknowledged. -/
def ackCounters (s : State) (p : Packet) : State :=
  s.modMgr fun m => { m with
    solo := false
    acked := ((List.range pmCounters.length).zip pmCounters).map fun c => (c.2, leNat ((p.payload.drop (8 * c.1)).take 8)) }

/-- PM_HB: a manager receives its partner's heartbeat; a higher epoch makes it stand down (R427, R428). -/
def execPmHb (m : MgrId) (s : State) : Res :=
  serve (portOfEdge (managerEdge m)) (fun p => p.typ == tMgmt && p.sub == 0xB && p.dagt == 5) (fun p s =>
    if !instUp s m then s
    else if (s.inst m).epoch < p.addr % 65536 then
      let s := s.setInst m { s.inst m with down := true }
      if s.mgr.active = some m then s.modMgr fun g => { g with active := none } else s
    else
      let s := s.setInst m { s.inst m with hbHeard := s.fab, missed := 0 }
      if s.mgr.active = some (!m) then ackCounters s p else s) s

/-- PM_HB_MISS: a heartbeat of the partner has not arrived in its interval (R427). -/
def execPmHbMiss (m : MgrId) (s : State) : Res :=
  if instUp s m then
    let x := s.inst m
    let s := advFab s (x.hbHeard + 200000 * (x.missed + 1))
    .next ((s.setInst m { x with missed := x.missed + 1 }).bump pmHbMissCntAt)
  else .next s

/-- JOURNAL_ACK_TIMEOUT: the standby has not acknowledged a journal step within 50 µs (R427). -/
def execJournalAckTimeout (s : State) : Res :=
  match activeMgr s with
  | none => .next s
  | some _ => if s.mgr.solo then .next s else .next ((advFab s (s.fab + 100000)).modMgr fun m => { m with solo := true })

/-- PM_FAILOVER_STAT (R434). -/
def failoverView (s : State) : Nat :=
  let b := (activeMgr s).getD false
  let ok := instUp s (!b) && (s.inst b).missed == 0
  mgrEpoch s % 65536 * 2 ^ 16 + b2n s.mgr.solo * 4 + b2n ok * 2 + b2n (activeMgr s == some true)

/-! ### Takeover (R428 to R430) -/

/-- Has the pending Equinox change been confirmed with GO, or is it a lower (R430)? -/
def eqxStands (s : State) (e : Eqx) : Bool :=
  decide (e.point ≤ s.mgr.cur) || (e.confirmed && e.state != 2 && s.mgr.vcoreMv == pointMv e.point)

/-- The streams in progress are aborted (R307, R429). -/
def abortForTakeover (s : State) : State := (List.range 4).foldl (fun s q => abortSs s q 0x61) s

/-- Requests that wait for an answer are answered FAILOVER (R350, R429). -/
def answerFailover (s : State) : State :=
  let s := (List.range 4).foldl (fun s q => mbReply s q 4 []) s
  { s with
    parts := s.parts.map fun p => { p with haltReply := [], reset := p.reset.map fun r => { r with reply := none } }
    mgr := { s.mgr with locks := s.mgr.locks.map fun r => { r with reply := none } } }

/-- Fabric cycles after a tenant clear's start at which its pass k begins (R481). -/
def clearPassAt (k : Nat) : Nat :=
  match k with | 1 => 80000 | 2 => 48000000 | 3 => 24048000000 | 4 => 24144000000 | 5 => 48192000000 | _ => 0

/-- The present pass of every tenant clear begins again (R429, R482). -/
def restartClears (s : State) : State :=
  (List.range 4).foldl (fun s q => s.modQtr q fun x =>
    if x.clr = 2 then { x with clrAt := s.fab - clearPassAt x.clrPass } else x) s

/-- What the present step of bring-up needs to begin again: the window of the domain under way, the digests of the firmware
(R361). -/
def restartBringup (s : State) : State :=
  if s.mgr.step = 3 then { s with power := { s.power with domainFab := s.fab } }
  else if s.mgr.step = 8 then sendDigests (buildWells s) else s

/-- Current steps of maintenance and of bring-up start again (R361, R429). -/
def restartSteps (s : State) : State :=
  let s := restartBringup (restartClears s)
  let s := s.modMgr fun m => { m with
    maint := m.maint.map fun x => { x with startFab := s.fab }, stepFab := if m.step < 10 then s.fab else m.stepFab, phase := 0 }
  { s with fields := s.fields.map fun f => (f.1, if f.2.proc = 2 then { f.2 with procAt := f.2.procAt.map fun _ => s.fab } else f.2) }

/-- What the new active manager does with the open operations (R429, R430). -/
def resumeOpen (s : State) : State :=
  let s := answerFailover (abortForTakeover s)
  let s := s.parts.foldl (fun s p => restartRuns s (lowestQuarter p.qmask)) s
  let s := match s.mgr.glint with | some g => finishGlint s g.at_ [] | none => s
  let s := match s.mgr.eqx with
    | some e => if eqxStands s e then s else endEqx (withdrawPosts s) false
    | none => s
  restartSteps s

/-- The standby takes over: the old manager stands down, the new one raises the epoch and takes the counters the standby has
acknowledged, its keeper's time and the mesh as it finds it (R427, R428, R490). -/
def takeOver (s : State) (a b : Bool) (epoch : Nat) : State :=
  let s := s.setInst a { s.inst a with down := true }
  let s := s.setInst b { s.inst b with epoch := epoch }
  let s := s.mgr.acked.foldl (fun s c => s.setReg c.1 c.2) s
  let s := s.modMgr fun m => { m with
    active := some b, solo := true, adj := (s.keeper (edgeSite (managerEdge b))).adj, toSlew := 0, ppsNs := none }
  (discardAverage s).modMgr fun m => { m with beaconNs := mgrNs s - (16000 : Int) }

/-- PM_TAKEOVER: four heartbeats in a row have failed to arrive, and the standby becomes active with the next epoch; the
counters go on from what it has acknowledged (R428, R429, R490). -/
def execPmTakeover (s : State) : Res :=
  match activeMgr s with
  | none => .next s
  | some a =>
    if instUp s (!a) ∧ 4 ≤ (s.inst (!a)).missed then
      let s := advFab s ((s.inst (!a)).hbHeard + 800000)
      let epoch := max (s.inst a).epoch (s.inst (!a)).epoch + 1
      .next (stateEvent (resumeOpen ((takeOver s a (!a) epoch).bump pmTakeoverCntAt)) 15 4 epoch)
    else .next s

/-! ### Loss of both managers (R431) -/

/-- Kinds of operations that stand open: streams, mailbox requests, replays, resets, spares, an Equinox change (R427). -/
def openOperations (s : State) : Nat :=
  b2n (!s.mgr.pends.isEmpty || s.mgr.install.isSome || !s.mgr.ssQueue.isEmpty) + 2 * b2n (s.quarters.any fun q => q.2.mb.isSome)
    + 4 * b2n (s.parts.any fun p => !p.held.isEmpty) + 8 * b2n (s.parts.any fun p => p.reset.isSome)
    + 16 * b2n ((List.range 16).any (spareRuns s)) + 32 * b2n s.mgr.eqx.isSome + 64 * b2n (!s.mgr.maint.isEmpty)

/-- QC_PM_LOST: 2 ms after the last heartbeat or beacon of a manager a controller takes both as lost; a request in its
mailbox is refused (R431). -/
def execQcPmLost (q : QuarterId) (s : State) : Res :=
  match (s.keeper (edgeSite (controllerEdge q))).beaconAt with
  | none => .next s
  | some t =>
    if (s.qtr q).pmLost then .next s
    else
      let s := advFab s (t + 4000000)
      let s := s.modMgr fun m => { m with lost := true, openOps := if m.lost then m.openOps else openOperations s }
      let s := ((s.modQtr q fun x => { x with pmLost := true }).setReg (qcPmStatAt q) 1).bump (qcPmLostCntAt q)
      let s := mbRefuse s q 1
      .next (refreshSusp ((stateEvent s (2 ^ q.val) 4 0xFFFF).emit (.msix q 10)))

end Sys2Proof.Machine
end

