-- ==== Sys2Proof/Machine/Ports.lean ====
section
/-! DEFINITION. Scale-out ports: flits, acknowledgement and replay, credits, heartbeats, training and loss (R314 to R323,
R329, R330, R335 to R337). -/

namespace Sys2Proof.Machine

/-! ### Flits (R317) -/

/-- Router and port number of scale-out port p on its edge die. -/
def xpSite (p : Nat) : Nat := edgeSite (p / 4)

/-- Is a run of 256 bytes a flit whose CRC passes? -/
def flitOk (f : Bytes) : Bool := f.length == 256 && crc64 (f.take 248) == leNat (f.drop 248)

/-- The first word of a flit. -/
def flitHead (f : Bytes) : Nat := leNat (f.take 4)

/-- A flit of a type with a SEQ and a body; ACK and NAK are the port's (R317, R319). -/
def mkFlit (x : Port) (ftype seq : Nat) (nak : Bool) (body : Bytes) : Bytes :=
  let b := leBytes 4 (ftype + seq * 16 + (x.rxNext + 4095) % 4096 * 2 ^ 16 + b2n nak * 2 ^ 28) ++ (body ++ zeros 244).take 244
  b ++ leBytes 8 (crc64 b)

/-- The type of a flit that carries an acknowledgement alone: IDLE, in Dark LPI (R322). -/
def idleType (x : Port) : Nat := if x.state = 4 then 4 else 0

/-- A flit without SEQ leaves the port. -/
def sendBare (s : State) (p ftype : Nat) (nak : Bool) (body : Bytes) : State := s.emit (.flit p (mkFlit (s.port p) ftype 0 nak body))

/-- A DATA or CREDIT flit leaves the port and is kept for replay (R319). -/
def sendSeq (s : State) (p ftype : Nat) (body : Bytes) (pkts : List Packet) : State :=
  let x := s.port p
  (s.setPort p { x with
    txSeq := (x.txSeq + 1) % 4096, replay := x.replay ++ [{ ftype := ftype, seq := x.txSeq, body := body, pkts := pkts }] }).emit
      (.flit p (mkFlit x ftype x.txSeq false body))

/-! ### Ingress credits (R330) -/

/-- Entries of a CREDIT flit that grant n credits of a class. -/
def grantEntries (tcls : Nat) : Nat → List Nat
  | 0 => []
  | n + 1 => if n + 1 ≤ 31 then [0x3FF + tcls * 2 ^ 10 + (n + 1) * 2 ^ 11]
             else (0x3FF + tcls * 2 ^ 10 + 31 * 2 ^ 11) :: grantEntries tcls (n - 30)

/-- Credits that wait to be granted go out when the port is UP and its replay buffer has room. -/
def sendGrants (s : State) (p : Nat) : State :=
  let x := s.port p
  if x.state = 2 ∧ x.replay.length < 2048 ∧ 0 < x.grantReq + x.grantRsp then
    let es := grantEntries 0 x.grantReq ++ grantEntries 1 x.grantRsp
    sendSeq (s.setPort p { x with grantReq := 0, grantRsp := 0 }) p 2 (es.flatMap (leBytes 2)) []
  else s

/-- An ingress entry frees: one further credit (R330). -/
def freeEntry (s : State) (p tcls : Nat) : State :=
  sendGrants (s.modPort p fun x => if tcls = 0 then { x with grantReq := x.grantReq + 1 } else { x with grantRsp := x.grantRsp + 1 }) p

/-! ### Loss and retraining (R320, R323) -/

/-- A packet held at a lost port: a request is answered FENCED, a response discarded (R323). -/
def fencePacket (s : State) (port : Nat) (p : Packet) : State :=
  if isOutbound p then fenceLocally s (port / 4) (port % 4) p else lossFence s (port / 4)

/-- A port goes LOST (R323): its credits are gone, what it holds is fenced or discarded, and it retrains. -/
def loseLink (s : State) (p : Nat) : State :=
  let x := s.port p
  let held := x.replay.flatMap (·.pkts) ++ x.egress.map (·.2.2)
  let s := s.setPort p { x with
    state := 3, credits := [], replay := [], egress := [], partial_ := [], trainAt := s.fab, grantReq := 0, grantRsp := 0
    hbRx := none, hbRxAt := none, hbTx := [], naking := false, nakRun := 0, nakTimes := [] }
  settleTimePort (held.foldl (fun s k => fencePacket s p k) (s.bump (rtrXpLostCntAt (xpSite p) (p % 4))))

/-- The port sends a NAK; the eighth in a row for one flit, or the 65th within a millisecond, starts a retrain (R319,
R320). -/
def sendNak (s : State) (p : Nat) : State :=
  let x := s.port p
  let times := x.nakTimes.filter (fun t => decide (s.fab < t + 2000000)) ++ [s.fab]
  let s := (s.setPort p { x with naking := true, nakRun := x.nakRun + 1, nakTimes := times }).bump (rtrXpNakCntAt (xpSite p) (p % 4))
  let s := sendBare s p (idleType x) true []
  if 8 ≤ x.nakRun + 1 ∨ 64 < times.length then loseLink (s.bump (rtrXpRetrainCntAt (xpSite p) (p % 4))) p else s

/-! ### Acknowledgement (R319) -/

/-- Flits up to the one a partner acknowledges leave the replay buffer. -/
def ackUpTo (l : List SentFlit) (ack : Nat) : List SentFlit :=
  if l.any fun f => f.seq == ack then (l.dropWhile fun f => f.seq != ack).drop 1 else l

/-- The flits of the replay buffer go out again, with the acknowledgement of the present instant: an UP port alone resends, in
LPI only LPI and HEARTBEAT flits leave (R319, R322). -/
def resend (s : State) (p : Nat) : State :=
  let x := s.port p
  if x.state = 2 ∧ x.replay.isEmpty = false then
    x.replay.foldl (fun s g => s.emit (.flit p (mkFlit x g.ftype g.seq false g.body))) (s.bump (rtrXpReplayCntAt (xpSite p) (p % 4)))
  else s

/-- ACK and NAK of a flit that arrived: acknowledged flits are freed, a NAK makes the port resend the rest (R319). -/
def takeAck (s : State) (p : Nat) (f : Bytes) : State :=
  let w := flitHead f
  let s := s.modPort p fun x => { x with replay := ackUpTo x.replay (bits w 27 16) }
  sendGrants (if bit w 28 then resend s p else s) p

/-- Does a port's link carry flits: is it UP or in LPI? -/
def linkRuns (s : State) (p : Nat) : Bool := (s.port p).state == 2 || (s.port p).state == 4

/-- The FEC counters of a port whose link runs take what a flit's codewords met (R315, R339). -/
def countFec (s : State) (p : Nat) (f : Flit) : State :=
  (s.bumpBy (rtrXpFecCeCntAt (xpSite p) (p % 4)) f.corrected).bumpBy (rtrXpFecUeCntAt (xpSite p) (p % 4)) f.uncorrectable

/-- A flit arrives on a port: one whose CRC fails is discarded with a NAK, one of another type serves no command of this
type (R317, R319). -/
def takeFlit (p ftype : Nat) (f : Flit) (g : State → State) (s : State) : Res :=
  if linkRuns s p then
    let s := countFec s p f
    if !flitOk f.bytes then .next (sendNak s p)
    else if flitHead f.bytes % 16 = ftype then .next (g (takeAck s p f.bytes))
    else .next s
  else .next s

/-- A flit with SEQ is taken in order; out of order it is discarded, with one NAK until a resend begins (R319). -/
def takeSeq (p : Nat) (f : Bytes) (g : State → State) (s : State) : State :=
  let x := s.port p
  if bits (flitHead f) 15 4 = x.rxNext then
    let s := s.setPort p { x with rxNext := (x.rxNext + 1) % 4096, naking := false, nakRun := 0 }
    g (sendBare s p (idleType x) false [])
  else if x.naking then s
  else sendNak s p

/-! ### What DATA and CREDIT carry (R318, R325, R326, R329) -/

/-- Bytes a transport packet takes in the stream, when its header is there (R318). -/
def xpLength (bs : Bytes) : Nat := (16 + packetLength (bs.drop 16) + 3) / 4 * 4

/-- The packets of a byte stream, and the bytes of one not yet whole; a pad word ends the flit's contribution (R318). -/
def splitStream : Nat → Bytes → List Bytes × Bytes
  | 0, bs => ([], bs)
  | n + 1, bs =>
    if leNat (bs.take 4) = 0xFFFFFFFF ∧ 4 ≤ bs.length then ([], [])
    else if bs.length < 80 ∨ bs.length < xpLength bs then ([], bs)
    else let r := splitStream n (bs.drop (xpLength bs)); (bs.take (xpLength bs) :: r.1, r.2)

/-- Is a packet of a type and class one the transport carries (R326)? -/
def typeCarried (tcls typ : Nat) : Bool :=
  if tcls = 0 then typ == tRd || typ == tWr || typ == tMsg || typ == tRed || typ == tAtom || typ == tCredit
  else tcls == 1 && (typ == tRdData || typ == tWrAck || typ == tAtomRsp)

/-- A transport packet that has arrived whole: prefix and type are checked, and it takes an ingress entry (R325, R326,
R330). -/
def arrivePacket (s : State) (p : Nat) (bs : Bytes) : State :=
  let w := leNat (bs.take 16)
  let k := packetOf (bs.drop 16)
  let tcls := bits w 29 28
  if crc32c (bs.take 12) ≠ bits w 127 96 ∨ typeCarried tcls k.typ = false then s.bump (rtrXpPfxErrCntAt (xpSite p) (p % 4))
  else s.modPort p fun x => { x with
    ingress := x.ingress ++ [(tcls, { k with peer := some (bits w 23 14, bits w 27 24, bits w 40 32, bits w 44 41) })] }

/-- FLIT_DATA (R318, R319) -/
def execFlitData (p : PortId) (flit : Flit) (s : State) : Res :=
  takeFlit p 1 flit (takeSeq p flit.bytes fun s =>
    let bs := (s.port p).partial_ ++ (flit.bytes.drop 4).take 244
    let r := splitStream bs.length bs
    r.1.foldl (fun s b => arrivePacket s p b) (s.modPort p fun x => { x with partial_ := r.2 })) s

/-- One entry of a CREDIT flit from the switch: at most 255 credits for each destination and class (R318, R329). -/
def takeCredit (x : Port) (e : Nat) : Port :=
  if e = 0 then x
  else
    let k := 2 * (e % 1024) + bits e 10 10
    { x with credits := putAt x.credits k (min 255 (findD x.credits k 0 + bits e 15 11)) }

/-- FLIT_CREDIT (R318, R329) -/
def execFlitCredit (p : PortId) (flit : Flit) (s : State) : Res :=
  takeFlit p 2 flit (takeSeq p flit.bytes fun s =>
    s.modPort p fun x => (List.range 122).foldl (fun x i => takeCredit x (leNat ((flit.bytes.drop (4 + 2 * i)).take 2))) x) s

/-- FLIT_IDLE (R319) -/
def execFlitIdle (p : PortId) (flit : Flit) (s : State) : Res := takeFlit p 0 flit id s

/-- FLIT_LPI (R322) -/
def execFlitLpi (p : PortId) (flit : Flit) (s : State) : Res := takeFlit p 4 flit id s

/-! ### Heartbeats (R321, R335) -/

/-- STATE of a port's heartbeats: QUIESCE in LPI, whatever its quarter's partition (R321, R322). -/
def hbState (s : State) (p : Nat) : Nat :=
  if (s.port p).state = 4 then 3
  else match partOf s (edgeQuarter (p / 4)) with
  | none => 2
  | some x =>
    match x.reset with | some r => if r.kind = 2 ∨ r.kind = 3 then 0 else 1 | none => 0

/-- BODY of a heartbeat sent at t ns (R321). -/
def hbBody (s : State) (p t : Nat) : Bytes :=
  let x := s.port p
  let fresh := match x.hbRxAt with | some a => decide (s.fab ≤ a + 8000) | none => false
  let echo := if fresh then x.hbRx.getD (0, 0) else (0, 0)
  leBytes 8 (timeWord t) ++ leBytes 8 echo.1 ++ leBytes 8 echo.2 ++ leBytes 4 (x.panel % 1024 + p * 2 ^ 10)
    ++ leBytes 1 (hbState s p) ++ leBytes 1 (match partOf s (edgeQuarter (p / 4)) with | some y => y.qmask | none => 0)

/-- HEARTBEAT_SEND: just after each whole microsecond of global time a trained port sends its heartbeat; none while both
managers are lost (R321, R322). -/
def execHeartbeatSend (p : PortId) (s : State) : Res :=
  if linkRuns s p && (activeMgr s).isSome then
    let t := (nsAt s (xpSite p) / 1000 + 1) * 1000
    let s := advNs s (xpSite p) t
    let s := sendBare s p 3 false (hbBody s p t)
    .next (s.modPort p fun x => { x with hbTx := (x.hbTx ++ [t]).filter fun u => decide (t ≤ u + 4000) })
  else .next s

/-! ### Time across panels (R336, R337) -/

/-- Role of the manager's cross-panel time (R337): 3 is taken as OFF. -/
def xtimeRole (s : State) : Nat := let r := s.regField pmXtimeCtlAt 1 0; if r = 3 then 0 else r

/-- A sum divided by n: exact when it divides, else one of the two neighbours, which the spec does not say (free choice). -/
def average (s : State) (sum : Int) (n : Nat) : Int × State :=
  if sum % (n : Int) = 0 then (sum / n, s)
  else let r := s.drawChoice 2; (sum / n + r.1, r.2)

/-- A value kept to ±(2^31 − 1) (R339). -/
def sat31 (v : Int) : Int := max (-2147483647) (min 2147483647 v)

/-- PM_XTIME_STAT after an exchange, and the slew of FOLLOW, of which FAR allows none (R336, R337, R339). -/
def noteAverage (s : State) : State :=
  let n := s.mgr.xExch.length
  let c := s.reg pmXtimeCtlAt
  if n = 0 then s
  else
    let a := average s (s.mgr.xExch.map (·.1)).sum (2 * n)
    let d := average a.2 (s.mgr.xExch.map (·.2)).sum (2 * n)
    let far := decide (1000000 < a.1.natAbs)
    let locked := n == 64 && decide (a.1.natAbs ≤ 15)
    let using_ := b2n (timePort s != bits c 8 3)
    let s := d.2.setReg pmXtimeStatAt (ofSigned 32 (sat31 a.1) * 2 ^ 32 + min 65535 d.1.toNat * 2 ^ 16
      + b2n far * 16 + b2n locked * 8 + using_ * 4)
    if xtimeRole s = 2 ∧ (activeMgr s).isSome = true then setMgrSlew s (if far then 0 else a.1) else s

/-- An exchange on the time port joins the average of the last 64 (R336). -/
def noteExchange (s : State) (p : Nat) (e : Int × Int) : State :=
  if xtimeRole s ≠ 0 ∧ p = timePort s then
    noteAverage (s.modMgr fun m => { m with xPort := p, xExch := (m.xExch ++ [e]).drop (m.xExch.length + 1 - 64) })
  else s

/-- Nanoseconds of a time in the format of R313. -/
def wordNs (w : Nat) : Nat := w / 2 ^ 30 * 1000000000 + w % 2 ^ 30

/-- FLIT_HEARTBEAT: a valid heartbeat refreshes the partner, and forms an exchange when its echo matches (R321, R335,
R336). -/
def execFlitHeartbeat (p : PortId) (flit : Flit) (s : State) : Res :=
  if linkRuns s p then
    let s := countFec s p flit
    if !flitOk flit.bytes then .next ((sendNak s p).bump (rtrXpHbBadCntAt (xpSite p) (p % 4)))
    else if flitHead flit.bytes % 16 = 3 then
      let w (o n : Nat) : Nat := leNat ((flit.bytes.drop o).take n)
      let t4 := nsAt s (xpSite p)
      let s := takeAck s p flit.bytes
      let s := s.modPort p fun x => { x with hbRx := some (w 4 8, timeWord t4), hbRxAt := some s.fab }
      let s := s.setReg (rtrXpPartnerAt (xpSite p) (p % 4)) (w 28 4)
      let t1 := wordNs (w 12 8)
      if (s.port p).hbTx.any fun t => timeWord t == w 12 8 && decide (t4 ≤ t + 4000) then
        let a : Int := (wordNs (w 20 8) : Int) - t1
        let b : Int := (t4 : Int) - wordNs (w 4 8)
        .next (noteExchange s p (a - b, a + b))
      else .next (s.bump (rtrXpHbBadCntAt (xpSite p) (p % 4)))
    else .next s
  else .next s

/-! ### Training and loss -/

/-- PORT_LOST: 4 µs without a valid heartbeat (R323). -/
def execPortLost (p : PortId) (s : State) : Res :=
  if linkRuns s p then
    match (s.port p).hbRxAt with
    | some t => .next (loseLink (advFab s (t + 8000)) p)
    | none => .next s
  else .next s

/-- Is a port training, for the first time or again? -/
def portTrains (x : Port) : Bool := x.state == 1 || x.state == 3

/-- Lanes a training ends on: 8, or the lower or upper four; 4 lanes stay 4 until a recalibration; none otherwise (R316). -/
def lanesTrained (x : Port) (good : Nat) : Nat :=
  if good = 0xFF ∧ x.lanes ≠ 4 then 8 else if good % 16 = 15 ∨ good / 16 = 15 then 4 else 0

/-- The state of a port that has trained: UP, or LPI where its quarter is in Dark (R320, R322). -/
def trainedState (s : State) (p : Nat) : Nat := if (s.qtr (edgeQuarter (p / 4))).pstate = 3 then 4 else 2

/-- PORT_TRAIN_DONE: training ends on 8 or 4 lanes, within 200 µs or not at all, and the port is UP, granting its ingress entries;
with no whole group of lanes it stays DOWN (R316, R318, R320, R330). -/
def execPortTrainDone (p : PortId) (lanesGood : BitVec 8) (s : State) : Res :=
  let x := s.port p
  if portTrains x && decide (s.fab ≤ x.trainAt + 400000) then
    let n := lanesTrained x lanesGood.toNat
    if n = 0 then .next (s.setPort p { x with state := 0, lanes := 0 })
    else
      let waiting := (s.edge (p / 4)).ingressReq.countP fun e => e.1 == p.val
      let s := s.setPort p { x with
        state := trainedState s p, lanes := n, txSeq := 0, rxNext := 0, naking := false, nakRun := 0, nakTimes := [], failed := 0
        replay := [], partial_ := [], credits := [], hbRxAt := some s.fab, hbRx := none, hbTx := [], panel := panelNo s
        grantReq := 512 - (x.ingress.countP fun e => e.1 == 0) - waiting
        grantRsp := 256 - x.ingress.countP fun e => e.1 == 1 }
      .next (sendGrants (settleTimePort (if n = 4 then s.bump (rtrXpHalfCntAt (xpSite p) (p % 4)) else s)) p)
  else .next s

/-- PORT_TRAIN_FAIL: training has not ended within 200 µs; after the third failure in a row the port stays DOWN (R320). -/
def execPortTrainFail (p : PortId) (s : State) : Res :=
  let x := s.port p
  if portTrains x then
    let s := advFab s (x.trainAt + 400000)
    .next (s.setPort p { x with
      state := if x.failed ≥ 2 then 0 else 1, failed := x.failed + 1, trainAt := s.fab
      lanes := if x.failed ≥ 2 then 0 else x.lanes })
  else .next s

/-- A port begins to train (R384, R320). -/
def startTraining (s : State) (p : Nat) : State :=
  settleTimePort (s.modPort p fun x => { x with state := 1, lanes := 0, failed := 0, trainAt := s.fab })

/-- RTR_XP_STAT of a port (R339). -/
def xpStatView (s : State) (p : Nat) : Nat :=
  (match partOf s (edgeQuarter (p / 4)) with | some y => y.qmask | none => 0) * 2 ^ 16 + (s.port p).lanes * 2 ^ 8 + (s.port p).state

end Sys2Proof.Machine
end

