-- ==== Sys2Proof/Machine/Security.lean ====
section
/-! DEFINITION. Settings store, anti-rollback, key slots, SPDM sessions and measurements, the TAP chain, trace (R463 to
R479, R483 to R487). -/

namespace Sys2Proof.Machine

/-! ### Banks (R463, R464) -/

/-- SVN of the bank an instance runs. -/
def bankSvn (i : Instance) : Nat := if i.bankB then i.svnB else i.svnA
/-- Schema range of that bank. -/
def bankSchema (i : Instance) : Nat × Nat := if i.bankB then i.schemaB else i.schemaA
/-- Key slot of that bank's image. -/
def bankKeySlot (i : Instance) : Nat := if i.bankB then i.keyB else i.keyA
/-- Header digest of that bank's image. -/
def bankHdr (i : Instance) : Nat := if i.bankB then i.hdrB else i.hdrA

/-- The active instance; A's record while none acts. -/
def activeInst (s : State) : Instance := s.inst ((activeMgr s).getD false)

/-- An operator access advances the counter of a quarter (R483). -/
def countDebug (s : State) (q : Nat) : State := s.bump (secDbgAccCntAt q)

/-! ### Settings store and anti-rollback (R468 to R471) -/

/-- The store takes no more writes (R471). -/
def storeFull (s : State) : Bool := 100000 ≤ s.sec.writes

/-- Change the security state. -/
def modSec (s : State) (f : Security → Security) : State := { s with sec := f s.sec }

/-- SETTINGS_COMMIT: the staging window becomes the store (R469, R471). -/
def execSettingsCommit (who : Requester) (s : State) : Res :=
  when_ (operMgr s who && !storeFull s) s
    (modSec s fun x => { x with store := x.stage.foldl (fun m c => putAt m c.1 c.2) x.store, stage := [], writes := x.writes + 1 })

/-- FW_COMMIT: both counts rise to the running image's SVN where the fuses blow, and the schema is converted (R468, R470,
R471). -/
def execFwCommit (who : Requester) (okA okB : Bool) (s : State) : Res :=
  if operMgr s who then
    let svn := bankSvn (activeInst s)
    let top := (bankSchema (activeInst s)).2
    let blow (ok : Bool) (i : Instance) : Instance := if ok then { i with count := max i.count (min svn 64) } else i
    let err := (!okA && decide (s.instA.count < svn)) || (!okB && decide (s.instB.count < svn))
    let s := { s with instA := blow okA s.instA, instB := blow okB s.instB }
    let s := s.setField secSvnAt 15 15 (b2n err)
    .next (if s.sec.schema < top ∧ storeFull s = false then modSec s fun x => { x with schema := top, writes := x.writes + 1 } else s)
  else .next s

/-- SEC_STAT (R487). -/
def secStatView (s : State) : Nat :=
  ((List.range 4).map fun q => if (s.qtr q).operSessions.isEmpty then 0 else 2 ^ (20 + q)).sum
    + 8 * b2n (storeFull s) + 4 * b2n s.instB.bankB + 2 * b2n s.instA.bankB + b2n (activeInst s).fallback

/-- SEC_SVN (R487). -/
def secSvnView (s : State) : Nat :=
  s.instB.count % 128 * 2 ^ 16 + s.regField secSvnAt 15 15 * 2 ^ 15 + s.instA.count % 128 * 2 ^ 8 + bankSvn (activeInst s) % 128

/-- SEC_SETTINGS (R487). -/
def secSettingsView (s : State) : Nat := s.sec.schema % 65536 * 2 ^ 48 + b2n (storeFull s) * 2 ^ 47 + min s.sec.writes 0x1FFFF

/-! ### Keys of the boot ROMs (R465) -/

/-- Programmed slots. -/
def keysProg : Nat := Config.fusedProg.toNat

/-- Is a key slot acceptable and does it hold a public key's digest (R465, R466)? -/
def keyOk (s : State) (b : Bool) (slot digest : Nat) : Bool :=
  slot < 4 && bit keysProg slot && !bit s.sec.revoked slot && Config.fusedKey b slot == digest

/-- KEY_REVOKE: the written bits blow their fuses, unless every programmed slot would be revoked (R465). -/
def execKeyRevoke (who : Requester) (mask : BitVec 4) (s : State) : Res :=
  let new := s.sec.revoked ||| mask.toNat
  when_ (operMgr s who && (List.range 4).any fun k => bit keysProg k && !bit new k) s (modSec s fun x => { x with revoked := new })

/-- SEC_KEYS (R487). -/
def secKeysView (s : State) : Nat := s.sec.revoked % 16 * 16 + keysProg

/-! ### SPDM (R473, R475 to R478) -/

/-- Is the DOE of an endpoint served: has step 3 ended and does a manager act (R362, R475)? -/
def doeServes (s : State) : Bool := decide (3 < s.mgr.step) && (activeMgr s).isSome

/-- Does a root key hash to OPER_ROOT, which is set (R473)? -/
def isOperRoot (s : State) (key : Bytes) : Bool :=
  let root := storeBytes s 0x10 48
  (root.any fun b => b != 0) && beNat root == sha384 key

/-- SPDM_KEY_EXCHANGE: a secured session opens, at most four on an endpoint; mutual authentication against OPER_ROOT makes
it an operator session (R473, R475). -/
def execSpdmKeyExchange (q : QuarterId) (mutualRoot : Option Bytes) (s : State) : Res :=
  if doeServes s then
    match lowestFree (s.qtr q).sessions 4 with
    | none => .next (s.emit (.spdm q 1 []))
    | some n =>
      let oper := match mutualRoot with | some k => isOperRoot s k | none => false
      .next ((s.modQtr q fun x => { x with
        sessions := insSorted x.sessions n, operSessions := if oper then insSorted x.operSessions n else x.operSessions }).emit
          (.spdm q 0 (leBytes 1 n)))
  else .next s

/-- SPDM_END_SESSION (R473): the slots a session has set stay set (R478). -/
def execSpdmEndSession (q : QuarterId) (session : Nat) (s : State) : Res :=
  when_ ((s.qtr q).sessions.contains session) s
    (s.modQtr q fun x => { x with
      sessions := x.sessions.filter (· != session), operSessions := x.operSessions.filter (· != session) })

/-- The seven measurements of the partition that owns a quarter, one after another (R476).  The spec gives the block no
layout beyond their content (DESIGN CHOICE, log entry 55). -/
def measurements (s : State) (q : Nat) : Bytes :=
  let i := activeInst s
  let m := qmaskOf s q
  let stream := match cfgOf s q with
    | some c => leBytes 48 c.hash ++ leBytes 8 c.serial
    | none => zeros 56
  let t := s.reg secTraceCtlAt
  let traced := bit t 31 && bit m (siteQuarter (bits t 30 22))
  leBytes 4 Config.romVersion ++ leBytes 1 (bankKeySlot i) ++ leBytes 48 (bankHdr i) ++ leBytes 48 (sha384 (bankManifest i))
    ++ leBytes 1 s.instA.count ++ leBytes 1 s.instB.count ++ leBytes 2 s.sec.schema ++ stream
    ++ "operator debug available".toList.map (fun c => BitVec.ofNat 8 c.toNat)
    ++ leBytes 8 ((maskQuarters m).map fun k => s.ctr (secDbgAccCntAt k)).sum ++ leBytes 1 (b2n traced)
    ++ leBytes 8 (s.reg pmDmapGenAt)

/-- The signature of the active manager over a message, with its alias key (R475; a free value, log entry 55). -/
def aliasSignature (s : State) (m : Bytes) : Bytes :=
  leBytes 96 (Config.aliasSign ((activeMgr s).getD false) (bankHdr (activeInst s)) m s.fresh).toNat

/-- SPDM_GET_MEASUREMENTS: the measurements, and the alias key's signature over them (R475, R476). -/
def execSpdmGetMeasurements (q : QuarterId) (s : State) : Res :=
  let m := measurements s q
  when_ (doeServes s) s ({ s with fresh := s.fresh + 1 }.emit (.spdm q 0 (m ++ aliasSignature s m)))

/-- SEC_KSLOTq_n (R487). -/
def kslotAt (q n : Nat) : Nat := secKslot0At q + 8 * n

/-- Is a KEY_SET or KEY_ERASE accepted: inside a session of an endpoint of a partition with a stream in force (R478)? -/
def keyAccepted (s : State) (q session : Nat) : Bool := (s.qtr q).sessions.contains session && (partOf s q).isSome

/-- KEY_SET: a slot of the partition takes a key and its KEYID (R478). -/
def execKeySet (q : QuarterId) (session : Nat) (n : Fin 4) (keyId : BitVec 32) (key : BitVec 256) (s : State) : Res :=
  if doeServes s then
    if keyAccepted s q session then
      let k := partQ (partD s q)
      .next (((s.modQtr k fun x => { x with keys := putAt x.keys n key }).setReg (kslotAt k n) (keyId.toNat * 2 ^ 32 + 1)).emit (.spdm q 0 []))
    else .next (s.emit (.spdm q 1 []))
  else .next s

/-- A key slot is erased. -/
def eraseKey (s : State) (k n : Nat) : State := (s.modQtr k fun x => { x with keys := dropAt x.keys n }).setReg (kslotAt k n) 0

/-- KEY_ERASE (R478) -/
def execKeyErase (q : QuarterId) (session : Nat) (n : Fin 4) (s : State) : Res :=
  if doeServes s then
    if keyAccepted s q session then .next ((eraseKey s (partQ (partD s q)) n).emit (.spdm q 0 []))
    else .next (s.emit (.spdm q 1 []))
  else .next s

/-! ### TAP chain (R484) -/

/-- The bypass bit of an edge die's TAP. -/
def tapBitOf (s : State) (e : Nat) : Bool := findD s.sec.tapBit e false

/-- A TAP instruction other than EXTEST takes the place of it: the edge connectors of its die are driven no more (R484). -/
def release (s : State) (e : Nat) : State := modSec s fun x => { x with driven := dropAt x.driven e }

/-- BYPASS: the one-bit register gives its bit and takes TDI (R484). -/
def execBypass (e : EdgeId) (tdi : Bool) (s : State) : Res :=
  .next ((modSec s fun x => { x with tapBit := putAt x.tapBit e tdi, driven := dropAt x.driven e }).emit (.tdo e (b2n (tapBitOf s e))))

/-- IDCODE (R484) -/
def execIdcode (e : EdgeId) (s : State) : Res :=
  .next ((release s e).emit (.tdo e (siteStep s (edgeSite e) % 16 * 2 ^ 28 + 0x9384 * 2 ^ 12 + Config.jep106.toNat * 2 + 1)))

/-- SAMPLE_PRELOAD: the pins are captured, and the boundary register is preloaded when a value is shifted in (R484). -/
def execSamplePreload (e : EdgeId) (pins : Nat) (preload : Option Nat) (s : State) : Res :=
  let s := (release s e).emit (.pins e pins)
  .next (match preload with | some v => modSec s fun x => { x with preload := putAt x.preload e v } | none => s)

/-- EXTEST: the edge connectors are driven with the preloaded value while no quarter is in service; otherwise it acts as
BYPASS (R484). -/
def execExtest (e : EdgeId) (s : State) : Res :=
  if (List.range 4).all fun q => (s.qtr q).svc == 0 || (s.qtr q).svc == 3 then
    .next (modSec s fun x => { x with driven := putAt x.driven e (findD x.preload e 0) })
  else .next (s.emit (.tdo e (b2n (tapBitOf s e))))

/-! ### Trace (R483, R486) -/

/-- TRACE_START: the operator writes SEC_TRACE_CTL; a capture that starts counts for its router's quarter (R483, R486). -/
def execTraceStart (who : Requester) (ctl : BitVec 32) (s : State) : Res :=
  if operMgr s who then
    let v := ctl.toNat - ctl.toNat % 65536
    let s := s.setReg secTraceCtlAt v
    .next (if bit v 31 && bits v 30 22 < 400 then countDebug s (siteQuarter (bits v 30 22)) else s)
  else .next s

end Sys2Proof.Machine
end

