-- ==== Sys2Proof/Machine/PowerUp.lean ====
section
/-! DEFINITION. Cold reset, panel warm reset, and the supply domains: bring-up of a domain, soft-start, domain faults and loss
of the reference (R359, R360, R393 to R396, R409, R435 to R440, R505, R506). -/

namespace Sys2Proof.Machine

/-! ### What outlasts a reset (R394, R395, R409) -/

/-- NOR contents and fuses of a manager instance. -/
def norOf (i : Instance) : Instance :=
  { i with booted := false, down := false, epoch := 0, hbSent := 0, hbHeard := 0, missed := 0, bankB := false, fallback := false, bootStat := 1 }

/-- What of the security state outlasts a cold reset: settings store, revoked keys, repair list. -/
def secOf (x : Security) : Security :=
  { schema := x.schema, writes := x.writes, store := x.store, revoked := x.revoked, repairs := x.repairs, hardRows := x.hardRows }

/-- Hard repairs of the stacks. -/
def hardOf (l : List (Nat × Stack)) : List (Nat × Stack) :=
  l.map fun x => (x.1, { hardRepairs := x.2.hardRepairs, bankRepairs := x.2.bankRepairs })

/-- COLD_RESET: every activity ends and bring-up begins at step 1; the NOR contents and the fuses alone outlast it (R359,
R394). -/
def execColdReset (s : State) : Res :=
  .next { State.reset with
    pending := s.pending, out := s.out, fresh := s.fresh, units := cutClears s.units, mrs := hardOf s.mrs, instA := norOf s.instA, instB := norOf s.instB
    sec := secOf s.sec, power := { norFault := s.power.norFault } }

/-- All bits of a register. -/
def allBits : Nat := 2 ^ 64 - 1

/-- Bits of a register other than a counter that a panel warm reset keeps: records and highest readings since cold reset,
PM_XPANEL, the Glint buffer's register, PWR_FAULT in VAON (R395, R409, R440). -/
def keptBits (a : Nat) : Nat :=
  let o := a % 0x10000000
  if a < 0xF1000000000 then
    if 0x2000000 ≤ o then (if [0x218, 0x438].contains (o % 0x100000) then allBits else 0)
    else if 0x1000000 ≤ o then (if [0x150, 0x158, 0x170].contains (o % 0x100000) then allBits else 0)
    else if o = 0x20200 then 0xFF0000
    else if o = 0x40 then allBits else 0
  else if a < 0xF1800000000 then
    if o = 0x8 then 0xFF0000
    else if o = 0x18 then 0xFFFFFFFF00000000
    else if [0x20, 0x30, 0x10040].contains o then allBits else 0
  else if a < managerArea then (if o = 0x40 then allBits else 0)
  else if [0x208, 0x220, 0x238, 0x250, 0x2B8, 0x2C0, 0x20010].contains o then allBits else 0

/-- A stored register after a panel warm reset: counters and records stay, all else returns to its reset value. -/
def warmReg (c : Nat × Nat) : Option (Nat × Nat) :=
  match regAt c.1 with
  | none => none
  | some (r, _) => if r.ctr then some c else if keptBits c.1 = 0 then none else some (c.1, c.2 &&& keptBits c.1)

/-- A keeper after a panel warm reset: it goes on counting, hears no beacon until a manager has booted, and holds its fuse image
until power is lost (R38, R368, R395). -/
def warmKeeper (k : Keeper) : Keeper := { k with snap := [], post := none, go := false }

/-- The manager's state after a panel warm reset: its time, the Glint buffer, and the counters, which both instances hold
(R9, R395, R409, R490). -/
def warmMgr (s : State) : Manager :=
  { adj := s.mgr.adj, slewAt := s.mgr.slewAt, panelSnap := s.mgr.panelSnap, glintSeq := s.mgr.glintSeq, glints := s.mgr.glints
    openOps := openOperations s, step := s.mgr.step, stepFab := s.fab, setAt := s.mgr.setAt, vcoreMv := s.mgr.vcoreMv
    acked := pmCounts s }

/-- A quarter after a panel warm reset: the numbers its messages and snapshots carry go on. -/
def warmQuarter (x : Quarter) : Quarter := { msgSeq := x.msgSeq, snapSeq := x.snapSeq }

/-- Everything on the panel but the keepers' time, the counters and the records stops and returns to its reset value: ports
stop their heartbeats, headers open, engines stop, quarters are freed, keys erased (R395 step 1, R409). -/
def stopPanel (s : State) : State :=
  { State.reset with
    units := cutClears s.units
    pending := s.pending, fab := s.fab, regs := s.regs.filterMap warmReg, fresh := s.fresh
    regions := s.regions.map fun g => (g.1, { clocks := rgnClock s g.1, since := s.fab })
    keepers := s.keepers.map fun k => (k.1, warmKeeper k.2), mrs := hardOf s.mrs
    quarters := s.quarters.map fun q => (q.1, warmQuarter q.2), mgr := warmMgr s, instA := norOf s.instA, instB := norOf s.instB
    power := s.power, sec := secOf s.sec, out := s.out }

/-- A panel warm reset: bring-up begins at step 2 (R395). -/
def warmStart (s : State) : State :=
  let s := (stopPanel s).bump pmWarmRstCntAt
  let s := s.modMgr fun m => { m with step := 2, stepFab := s.fab }
  { s with
    instA := { s.instA with bootStat := 2 }, instB := { s.instB with bootStat := 2 }
    power := { s.power with fault := false, enabled := s.power.enabled ||| 96, good := s.power.good ||| 96 } }

/-- WARM_RST_N (R395); with COLD_RST_N in the same instant it is ignored (R505). -/
def execWarmRstN (s : State) : Res := .next (if s.fab = 0 then s else warmStart s)

/-- WARM_RESET_START: 100 µs after the mailbox's reply (R396). -/
def execWarmResetStart (s : State) : Res :=
  match s.mgr.warmAt with
  | none => .next s
  | some t => .next (warmStart (advFab s t))

/-! ### PM_BOOT_STAT (R360, R392) -/

/-- Both VAON copies take a field, each written by its own instance (R360): the copies of instances that have booted. -/
def bootField (s : State) (hi lo v : Nat) : State :=
  let put (i : Instance) : Instance := if i.booted then { i with bootStat := putBits i.bootStat hi lo v } else i
  { s with instA := put s.instA, instB := put s.instB }

/-- FAILSTEP of the copies: 0 while bring-up has not stopped. -/
def failStep (s : State) : Nat := max (bits s.instA.bootStat 19 16) (bits s.instB.bootStat 19 16)

/-- Bring-up stops as a whole at a step (R360). -/
def failBringup (s : State) (k : Nat) : State :=
  let put (i : Instance) : Instance := { i with bootStat := putBits i.bootStat 19 16 k }
  { s with instA := put s.instA, instB := put s.instB }

/-- A step begins. -/
def enterStep (s : State) (k : Nat) : State :=
  bootField (s.modMgr fun m => { m with step := k, stepFab := s.fab, phase := 0 }) 3 0 k

/-- Step k runs and bring-up has not stopped. -/
def atStep (s : State) (k : Nat) : Bool := inStep s k && failStep s == 0

/-- An instance's copy of PM_BOOT_STAT as a read returns it: milliseconds since VAON and VAUX became good, and the progress of
the Day checks (R392). -/
def bootView (s : State) (b : Bool) (progress : Nat) : Nat :=
  putBits (putBits (s.inst b).bootStat 63 32 (min (s.fab / 2000000) 0xFFFFFFFF)) 31 24 progress

/-! ### Domains (R359, R435, R438 to R440) -/

/-- The order in which the manager brings domains up: the reverse of the order in which R439 switches them off (log entry
61). -/
def domainOrder : List Nat := [4, 1, 2, 3, 0]

/-- Soft-start window of a domain in fabric cycles (R438). -/
def softWindow (d : Nat) : Nat := if d = 0 then 20000000 else 10000000

/-- Change the supplies. -/
def modPower (s : State) (f : Power → Power) : State := { s with power := f s.power }

/-- The next domain of the order that is not yet good. -/
def nextDomain (s : State) : Option Nat := domainOrder.find? fun d => !bit s.power.good d

/-- The manager sets a domain's setpoint and enables it (R359 step 3). -/
def enableNext (s : State) : State :=
  match nextDomain s with
  | none => s
  | some d => modPower s fun p => { p with enabled := p.enabled ||| 2 ^ d, domainFab := s.fab }

/-- The link of a quarter's endpoint trains, to a width and a rate that its partner and the cable allow: free values (R340; log
entry 100). -/
def trainHostLink (s : State) (q : Nat) : State :=
  let w := s.drawChoice 5
  let r := w.2.drawChoice 6
  (r.2.modQtr q fun x => { x with pcieUp := true }).setReg (hstStatAt q) ((r.1 + 1) * 256 + 2 ^ w.1 * 8)

/-- Step 3 ends: VCORE stands at 0.580 V, the endpoints' links train, the NOR's fault record is copied (R28, R362, R440). -/
def endStep3 (s : State) : State :=
  let s := s.modMgr fun m => { m with vcoreMv := 580, cur := 4 }
  let s := (List.range 4).foldl trainHostLink s
  let s := match s.power.norFault with
    | some w => if s.reg pwrFaultAt = 0 then s.setReg pwrFaultAt (w ||| 2 ^ 62) else s
    | none => s
  enterStep s 4

/-- DOMAIN_POWER_GOOD: the domain that comes up is good, and the manager enables the next or ends the step (R359). -/
def execDomainPowerGood (dom : DomainId) (s : State) : Res :=
  if atStep s 3 ∧ nextDomain s = some dom.val ∧ bit s.power.enabled dom.val = true ∧ s.fab ≤ s.power.domainFab + softWindow dom.val then
    let s := modPower s fun p => { p with good := p.good ||| 2 ^ dom.val }
    .next (if (nextDomain s).isSome then enableNext s else endStep3 s)
  else .next s

/-- PWR_FAULT's record (R460). -/
def faultWord (s : State) (dom cause status : Nat) : Nat :=
  2 ^ 63 + dom % 16 * 2 ^ 48 + cause % 16 * 2 ^ 44 + s.mgr.step % 16 * 2 ^ 40 + status % 2 ^ 16

/-- The domains go off and the record is written, in the NOR too unless VAUX itself has failed; only VAON stays up (R438 to
R440). -/
def shutDown (s : State) (dom cause status : Nat) : State :=
  let w := faultWord s dom cause status
  let a := s.instA
  let b := s.instB
  let s := (stopPanel s).setReg pwrFaultAt w
  { s with
    keepers := s.keepers.map fun k => (k.1, { k.2 with fuse := none })
    instA := { s.instA with bootStat := a.bootStat }, instB := { s.instB with bootStat := b.bootStat }
    power := { s.power with
      enabled := 64, good := 64, fault := true, fda := 0, norFault := if dom = 5 then s.power.norFault else some w } }

/-- SOFTSTART_TIMEOUT: a domain misses its window, or its regulator reports a fault within it: bring-up stops (R438). -/
def execSoftstartTimeout (dom : DomainId) (regulatorFault : Bool) (status : BitVec 16) (s : State) : Res :=
  if atStep s 3 ∧ nextDomain s = some dom.val ∧ bit s.power.enabled dom.val = true then
    let s := if regulatorFault then s else advFab s (s.power.domainFab + softWindow dom.val)
    .next (failBringup (shutDown s dom (if regulatorFault then 2 else 1) status.toNat) 3)
  else .next s

/-- DOMAIN_FAULT: after step 3 the active manager shuts the domains down within 10 µs; a fault of VAON is a cold reset
(R439). -/
def execDomainFault (dom : DomainId) (cause : Fin 16) (status : BitVec 16) (s : State) : Res :=
  if dom.val = 6 then execColdReset s
  else if (activeMgr s).isSome ∧ 3 < s.mgr.step ∧ s.power.fault = false then .next (shutDown s dom cause status.toNat)
  else .next s

/-- REF25_LOSS: 1 µs without an edge of the reference is handled as a domain fault that names no domain (R506). -/
def execRef25Loss (s : State) : Res :=
  if (activeMgr s).isSome ∧ s.power.fault = false then .next (shutDown (advFab s (s.fab + 2000)) 15 3 0) else .next s

end Sys2Proof.Machine
end

