-- ==== Sys2Proof/Machine/BringUp.lean ====
section
/-! DEFINITION. The steps of bring-up: boot, fuses, self-test, neighbour test, vote and path delays, stack training, firmware,
verdicts (R359 to R361, R368 to R375, R381 to R385, R417, R463 to R467). -/

namespace Sys2Proof.Machine

/-! ### Step 2: the managers boot (R361, R465 to R467) -/

/-- Bank A or B (true) of an instance is marked FAILED. -/
def markFailed (i : Instance) (b : Bool) : Instance := if b then { i with failedB := true } else { i with failedA := true }

/-- Does an image pass: the checks reported of it, its key not revoked, its SVN in range (R466)? -/
def bankOk (s : State) (i : Instance) (b romOk : Bool) : Bool :=
  let svn := if b then i.svnB else i.svnA
  romOk && !bit s.sec.revoked (if b then i.keyB else i.keyA) && decide (svn ≤ 64) && decide (i.count ≤ svn)

/-- The firmware of a bank starts; one that cannot read the settings' schema marks its bank and does not report itself booted
(R466, R467). -/
def runBank (s : State) (i : Instance) (b : Bool) : Instance :=
  let r := if b then i.schemaB else i.schemaA
  if s.sec.schema < r.1 ∨ r.2 < s.sec.schema then markFailed i b
  else { i with booted := true, bankB := b, fallback := b != i.preferB, hbSent := s.fab, hbHeard := s.fab }

/-- A boot ROM picks a bank, and the other one when that fails (R466). -/
def romBoot (s : State) (i : Instance) (ok : Bool × Bool) : Instance :=
  let pick := if (if i.preferB then i.failedB else i.failedA) then !i.preferB else i.preferB
  let good (b : Bool) : Bool := bankOk s i b (if b then ok.2 else ok.1)
  if good pick then runBank s i pick
  else if good (!pick) then runBank s (markFailed i pick) (!pick)
  else markFailed (markFailed i pick) (!pick)

/-- The settings store gives PM_XPANEL its value, unless a warm reset has kept one (R339, R409, R469). -/
def loadPanel (s : State) : State :=
  match find? s.regs pmXpanelAt with
  | some _ => s
  | none => s.setReg pmXpanelAt (leNat (storeBytes s 8 2) % 1024)

/-- Step 2 ends with the instances as they are: A becomes active, else B; with neither bring-up stops (R360, R361). -/
def endStep2 (s : State) : State :=
  let a := s.instA.booted
  let b := s.instB.booted
  let s := s.bumpBy secFallbackCntAt (b2n s.instA.fallback + b2n s.instB.fallback)
  if !a && !b then failBringup s 2
  else
    let s := s.modMgr fun m => { m with
      active := some (!a), solo := !(a && b), beaconNs := mgrNs s, pollFab := s.fab }
    let s := bootField (bootField (loadPanel s) 10 10 (b2n a)) 11 11 (b2n b)
    enableNext (enterStep s 3)

/-- Step 2: the ROMs that report have tried their banks. -/
def endBoot (s : State) (okA okB : Option (Bool × Bool)) : State :=
  let boot (i : Instance) (ok : Option (Bool × Bool)) : Instance := match ok with | some k => romBoot s i k | none => i
  endStep2 { s with instA := boot s.instA okA, instB := boot s.instB okB }

/-! ### Steps 1, 4 and 5 -/

/-- Step 1: every keeper begins counting from 0 s 0 ns, at a whole number of slots and of reference cycles, which begin with it
(R35, R60, R359). -/
def startKeepers (s : State) : State :=
  let s := advFab s ((s.fab + 79) / 80 * 80)
  let adj : Int := -((s.fab / 2 : Nat) : Int)
  let s := { s with keepers := (List.range 400).map fun i => (i, { s.keeper i with adj := adj, since := s.fab }) }
  enterStep (s.modMgr fun m => { m with adj := adj }) 2

/-- Step 4: a keeper reads its die's fuse image and holds it: a BAD die is withdrawn, and one with a bank that has more than 32
defective words (R368, R369). -/
def readFuses (s : State) (r : FuseReport) : State :=
  let s := s.modKeeper r.site fun k => { k with fuse := some r }
  match placeOf r.site with
  | .die d =>
    let s := s.modDie d fun x => { x with spareWords := (r.words.map (·.2.2)).sum }
    if r.bad then s.modDie d fun x => { x with state := 2, cause := 1 }
    else if r.words.any fun w => decide (32 < w.2.2) then s.modDie d fun x => { x with state := 2, cause := 2 }
    else s
  | .stack n => if r.bad then s.modMr n fun x => { x with state := 4, cause := 1 } else s
  | .edge e => if r.bad then s.modEdge e fun x => { x with state := 2, cause := 1 } else s

/-- Have the regions of every compute die that takes part come to an end of their wake (R359 step 5)? -/
def regionsDone (s : State) : Bool :=
  (List.range 256).all fun d => (s.die d).state == 2 || (decide (2 ≤ (s.rgn (2 * d)).hdr) && decide (2 ≤ (s.rgn (2 * d + 1)).hdr))

/-- Dies whose signature no neighbour will find right. -/
def addWrong (s : State) (l : List Nat) : State := s.modMgr fun m => { m with wrongSig := l.foldl insSorted m.wrongSig }

/-! ### Step 6: neighbours (R370 to R374) -/

/-- The neighbouring routers of a router. -/
def neighboursOf (site : Nat) : List Nat := (List.range 4).filterMap fun p => (neighbour site p).map (·.1)

/-- The link between two routers carries packets: UP or PENUMBRA. -/
def linkedTo (s : State) (site nb : Nat) : Bool :=
  (List.range 4).any fun p => (neighbour site p).map (·.1) == some nb &&
    (match linkIndex site p with | some l => (s.link l).state == 2 || (s.link l).state == 3 | none => false)

/-- Wires or lanes of a link that the fuse images of its ends name as failed at the factory (R368). -/
def factoryFailed (s : State) (l : Nat) : Nat :=
  (linkRouters l).foldl (fun n site =>
    match (s.keeper site).fuse with
    | none => n
    | some f => (f.lanes.filter fun e => linkIndex site e.1 == some l).foldl (fun n e => max n e.2) n) 0

/-- The link phase ends: both ends have agreed their repairs, which begin with what the fuses name
(R209 to R211, R368, R370). -/
def endLinks (s : State) (reports : List LinkReport) : State :=
  (List.range 760).foldl (fun s l =>
    let n := ((reports.filter fun r => r.link.val == l).map (·.failed)).foldl max (factoryFailed s l)
    let st := linkStateOf (linkKind l) n
    countLink (changeLink s l { state := st, failedLo := n, failedHi := 0 }) l st) s

/-- The neighbours a die vouches for: every TEST packet of theirs was right (R371).  A neighbour that has sent none has none
(log entry 62). -/
def vouchList (s : State) (site : Nat) : List Nat :=
  (neighboursOf site).filter fun n =>
    let t := s.mgr.tests.filter fun t => t.1 == site && t.2.1 == n
    linkedTo s site n && !t.isEmpty && t.all (·.2.2) && !s.mgr.wrongSig.contains n

/-- The vote phase begins: each die sends its vouch list to the active manager (R370). -/
def sendVouches (s : State) : State :=
  ((List.range 400).filter fun i => (s.rtr i).running).foldl (fun s i =>
    fromRegAgent s i (withPayload (mgmtTo (edgeSite (mgrEdge s)) 5 8) ((vouchList s i).flatMap (leBytes 2)))) s

/-- TEST: a die receives a neighbour's TEST packet and checks it (R370, R371). -/
def execTest (site nb : RouterId) (hcrcOk checkOk patternOk sigOk digestOk : Bool) (s : State) : Res :=
  if atStep s 6 ∧ s.mgr.phase = 1 ∧ linkedTo s site nb = true then
    let ok := hcrcOk && checkOk && patternOk && sigOk && digestOk
    let s := s.modMgr fun m => { m with tests := m.tests ++ [(site.val, nb.val, ok)] }
    .next (if hcrcOk && checkOk && !sigOk then addWrong s [nb] else s)
  else .next s

/-- Numbers of two bytes each. -/
def pairNats : Nat → Bytes → List Nat
  | 0, _ => []
  | n + 1, bs => leNat (bs.take 2) :: pairNats n (bs.drop 2)

/-- VOUCH: the active manager receives a die's list; one that comes after the vote phase counts for nothing (R370). -/
def execVouch (s : State) : Res :=
  serveMgr tMgmt 8 (fun p s =>
    if atStep s 6 ∧ s.mgr.phase = 2 then
      s.modMgr fun m => { m with vouches := putAt m.vouches p.ssite (pairNats (p.payload.length / 2) p.payload) }
    else s) s

/-- Cause of a withdrawn die at a router; 0 for none. -/
def siteCause (s : State) (site : Nat) : Nat :=
  match placeOf site with
  | .die d => if (s.die d).state = 2 then (s.die d).cause else 0
  | .stack n => if (s.mr n).state = 4 then (s.mr n).cause else 0
  | .edge e => if (s.edge e).state = 2 then (s.edge e).cause else 0

/-- The dies the vote begins with: those not withdrawn, and those that take part through their routers (R370, R372). -/
def voters (s : State) : List Nat :=
  (List.range 400).filter fun i => (s.rtr i).running && [0, 1, 3, 4, 11].contains (siteCause s i)

/-- One pass of the loop of R372. -/
def votePass (v : List (Nat × List Nat)) (good : List Nat) : List Nat :=
  good.filter fun d => 2 ≤ (neighboursOf d).countP fun n => good.contains n && (findD v n []).contains d

/-- The loop of R372: passes until none removes a die. -/
def voteLoop (v : List (Nat × List Nat)) : Nat → List Nat → List Nat
  | 0, good => good
  | n + 1, good => let g := votePass v good; if g.length = good.length then good else voteLoop v n g

/-- A die that the vote leaves out is withdrawn, and its router stops (R372, R373). -/
def removeDie (s : State) (site : Nat) : State :=
  let cause := if s.mgr.wrongSig.contains site then 5 else 6
  let s := match placeOf site with
    | .die d => s.modDie d fun x => { x with state := 2, cause := cause }
    | .stack n => s.modMr n fun x => { x with state := 4, cause := cause }
    | .edge e => s.modEdge e fun x => { x with state := 2, cause := cause }
  stopRouter s site

/-- A withdrawn ED0 or ED10 takes its manager with it; with both gone bring-up stops, the headers open (R360, R373). -/
def settleManagers (s : State) : State :=
  let out (s : State) (b : Bool) : State :=
    if (s.edge (managerEdge b)).state = 2 then s.setInst b { s.inst b with down := true } else s
  let s := out (out s false) true
  let up (b : Bool) : Bool := (s.inst b).booted && !(s.inst b).down
  if up false || up true then
    if (match s.mgr.active with | some b => up b | none => false) then s
    else s.modMgr fun m => { m with active := some (up true), solo := true }
  else
    let s := (failBringup s 6).modMgr fun m => { m with active := none }
    ((List.range 512).filter fun r => (s.rgn r).hdr != 3).foldl (fun s r => openRegion s r 0) s

/-- The manager sends the keeper of a router a timed echo (R374). -/
def sendEcho (s : State) (i : Nat) : State := fromMgr s (mgmtTo i (regAgent i) 9)

/-- The vote, and what it removes; then the timed echoes go out (R372 to R374). -/
def endVote (s : State) : State :=
  let start := voters s
  let good := voteLoop s.mgr.vouches 400 start
  let s := (start.filter fun i => !good.contains i).foldl removeDie s
  let s := settleManagers s
  if failStep s ≠ 0 then s
  else
    let s := s.modMgr fun m => { m with phase := 3 }
    ((List.range 400).filter fun i => (s.rtr i).running).foldl sendEcho s

/-- Fabric cycles that a packet has spent on its way through the mesh. -/
def flightCycles (p : Packet) : Nat := p.ejAt - p.enterAt

/-- DELAY_ECHO: a keeper answers a timed echo with the time it took; the manager takes half the time there and back as the
keeper's path delay, and sends the echo again when either way was not a minimal path (R374; DEDUCED, log entry 129). -/
def execDelayEcho (site : RouterId) (s : State) : Res :=
  serve (site, regPort site) (fun p => p.typ == tMgmt && p.sub == 9) (fun p s =>
    if p.dagt = 5 then
      match activeMgr s with
      | none => s
      | some _ =>
        if p.defl ≠ 0 ∨ leNat (p.payload.drop 8) ≠ 0 then sendEcho s p.ssite
        else s.modKeeper p.ssite fun k => { k with delay := some ((leNat (p.payload.take 8) + flightCycles p) / 4) }
    else if obeys s site p then
      fromRegAgent (seeEpoch s site (p.addr % 65536)) site
        (withPayload (mgmtTo p.ssite 5 9) (leBytes 8 (flightCycles p) ++ leBytes 8 p.defl))
    else s) s

/-- Does every running router's keeper know its path delay? -/
def delaysKnown (s : State) : Bool := (List.range 400).all fun i => !(s.rtr i).running || (s.keeper i).delay.isSome

/-- Step 7 begins: every router still in service trains its stack (R205, R375). -/
def beginTraining (s : State) : State :=
  enterStep ((List.range 128).foldl (fun s n => if (s.mr n).state = 4 then s else s.modMr n fun x => { x with state := 1 }) s) 7

/-- A phase of step 6 ends; with the last the step (R370, R374). -/
def endPhase (s : State) (links : List LinkReport) (wrong : List Nat) : State :=
  match s.mgr.phase with
  | 0 => (endLinks (advFab s (s.mgr.stepFab + 4000000000)) links).modMgr fun m => { m with phase := 1 }
  | 1 =>
    let s := addWrong (advFab s (s.mgr.stepFab + 4200000000)) wrong
    sendVouches (s.modMgr fun m => { m with phase := 2 })
  | 2 => endVote (advFab s (s.mgr.stepFab + 4220000000))
  | _ => if delaysKnown s then beginTraining s else s

/-! ### Step 7: stacks (R375) -/

/-- Hard repair of the row of a stack-local offset that has failed its test: it takes a spare row of its bank, and NOR records it; a bank
with none left withdraws the stack (R375). -/
def hardRepair (s : State) (n so : Nat) : State :=
  let x := s.mr n
  let b := bankOfRow (rowKey so)
  if findD x.bankRepairs b 0 < Config.spareRows then
    ((modSec s fun y => { y with hardRows := y.hardRows ++ [(n, rowKey so)] }).setMr n { x with
      hardRepairs := x.hardRepairs + 1, bankRepairs := addAt x.bankRepairs b 1 }).bump (mrHpprCntAt n)
  else s.setMr n { x with state := 4, cause := 10 }

/-- A stack's part of step 7: listed soft repairs become hard ones, rows that fail are repaired, and the stack is READY, or it
is withdrawn. -/
def trainStack (s : State) (failTrain failRepair : List Nat) (repairs : List (Nat × Nat)) (n : Nat) : State :=
  if (s.mr n).state = 4 then s
  else
    let listed := s.sec.repairs.filter fun r => r.1 == n
    let s := modSec s fun x => { x with repairs := x.repairs.filter fun r => r.1 != n, hardRows := x.hardRows ++ listed }
    let s := (s.modMr n fun x => { x with hardRepairs := x.hardRepairs + listed.length, state := 2, softRows := [] }).bumpBy (mrHpprCntAt n) listed.length
    let s := (repairs.filter fun r => r.1 == n).foldl (fun s r => hardRepair s n r.2) s
    if failTrain.contains n then s.modMr n fun x => { x with state := 4, cause := 9 }
    else if failRepair.contains n then s.modMr n fun x => { x with state := 4, cause := 10 }
    else s

/-- Step 7 ends: memory is zero with correct checks; step 8 begins with the firmware wells and the manifest's digest (R375,
R378). -/
def endStacks (s : State) (failTrain failRepair : List Nat) (repairs : List (Nat × Nat)) : State :=
  let s := (List.range 128).foldl (fun s n => trainStack s failTrain failRepair repairs n) s
  sendDigests (buildWells (enterStep { s with mem := [] } 8))

/-! ### Steps 8 and 9 (R380 to R386, R417) -/

/-- Has every sequencer of a compute die that takes part checked its firmware (R379)? -/
def firmwareDone (s : State) : Bool :=
  (List.range 1024).all fun c => (s.die (c / 4)).state == 2 || (s.cl c).fwOk

/-- Good compute dies of a field. -/
def goodOf (s : State) (f : Nat) : List Nat := (fieldDies f).filter fun d => (s.die d).state != 2

/-- Does a field pass (R382)? -/
def fieldPasses (s : State) (f : Nat) : Bool :=
  decide (15 ≤ (goodOf s f).length)
    && ((fieldStacks f).all fun n => (s.mr n).state == 2)
    && ((fieldDies f).all fun d => (s.die d).state != 2 || ((s.die d).cause != 5 && (s.die d).cause != 6))
    && ((List.range 760).all fun l => (s.link l).state != 4 || (linkRouters l).all fun r => r ≥ 384 || fieldOfXY (r % 24) (r / 24) != f)

/-- The verdict and the initial mapping of a field (R381, R382, R417). -/
def mapField (s : State) (f : Nat) : State :=
  if fieldPasses s f then
    let good := goodOf s f
    let s := s.setFld f { map := (good.take 15).map some, spare := good[15]?, well := (s.fld f).well }
    match good[15]? with
    | some d => s.modDie d fun x => { x with state := 1 }
    | none => s
  else s.setFld f { failed := true, well := (s.fld f).well }

/-- Service level of a quarter at step 9: 1 DAWN or 3 FAILED (R383). -/
def serviceOf (s : State) (q : Nat) : Nat :=
  if (quarterFields q).all (fun f => !(s.fld f).failed) && (s.edge (controllerEdge q)).state != 2 && (activeMgr s).isSome then 1 else 3

/-- Step 9: verdicts, mapping, defect map, service levels, ports; bring-up is complete (R359, R382 to R386, R389, R427). -/
def endStep9 (s : State) : State :=
  let s := (List.range 16).foldl mapField s
  let s := (List.range 4).foldl (fun s q => s.modQtr q fun x => { x with svc := serviceOf s q }) s
  let s := (List.range 64).foldl (fun s p => if (s.edge (p / 4)).state = 2 then s else startTraining s p) s
  let open_ := s.mgr.openOps
  let s := (s.setReg pmDmapGenAt 0).modMgr fun m => { m with
    dmapNs := mgrNs s, t9 := s.fab, dayDone := [], tDay := none, govNs := mgrNs s, telNs := mgrNs s, openOps := 0 }
  let s := modPower s fun p => { p with inletAt := s.fab }
  let s := enterStep s 10
  let s := sendDmap (if open_ = 0 then s else stateEvent s 15 4 (0x10000 + open_))
  (List.range 4).foldl (fun s q => requestLock s { code := 1, qmask := 2 ^ q, arg := 0, reply := none }) s

/-! ### The two commands -/

/-- BRINGUP_STEP_END: the last die finishes its part of a step, and the next step begins (R359). -/
def execBringupStepEnd (r : StepReport) (s : State) : Res :=
  if failStep s ≠ 0 then .next s
  else match r with
    | .pll => when_ (inStep s 1) s (startKeepers s)
    | .boot a b => when_ (inStep s 2) s (endBoot s (some a) (some b))
    | .domains => when_ (inStep s 3 && (nextDomain s).isNone) s (endStep3 s)
    | .fuses l => when_ (inStep s 4) s (enterStep (l.foldl readFuses s) 5)
    | .selfTest l => when_ (inStep s 5 && regionsDone s) s (enterStep (addWrong s (l.map fun d : DieId => dieSite d.val)) 6)
    | .neighbours l w => when_ (inStep s 6) s (endPhase s l (w.map (·.val)))
    | .stacks t r k =>
      when_ (inStep s 7) s (endStacks s (t.map (·.val)) (r.map (·.val)) (k.map fun x => (x.1.val, x.2)))
    | .firmware => when_ (inStep s 8 && firmwareDone s) s (enterStep s 9)
    | .verdicts => when_ (inStep s 9) s (endStep9 s)

/-- Limit of a step in fabric cycles (R359); step 3 has the windows of its domains. -/
def stepLimit (k : Nat) : Option Nat :=
  match k with
  | 1 => some 20000000
  | 2 => some 10000000000
  | 4 => some 100000000
  | 5 => some 40000000
  | 6 => some 12000000000
  | 7 => some 60000000000
  | 8 => some 10000000000
  | 9 => some 2000000000
  | _ => none

/-- The compute dies among routers. -/
def diesAt (l : List Nat) : List Nat := l.filterMap fun i => match placeOf i with | .die d => some d | _ => none

/-- Routers of the compute dies whose part of step 5 has not ended: a region that should wake is not yet ON (R360). -/
def unfinishedRegions (s : State) : List Nat :=
  ((List.range 256).filter fun d =>
    (s.die d).state != 2 && !(decide (2 ≤ (s.rgn (2 * d)).hdr) && decide (2 ≤ (s.rgn (2 * d + 1)).hdr))).map dieSite

/-- Compute dies with a sequencer whose firmware has not passed its check (R360, R379). -/
def unfinishedFirmware (s : State) : List Nat :=
  (List.range 256).filter fun d => (s.die d).state != 2 && !((List.range 4).all fun k => (s.cl (4 * d + k)).fwOk)

/-- A die whose sequencers have no firmware fails step 8 (R360, R379). -/
def failFirmware (s : State) (d : Nat) : State :=
  let s := (List.range 4).foldl (fun s k =>
    if (s.cl (4 * d + k)).fwOk then s else setBoot s (4 * d + k) (bits (s.reg (seqBootAt (4 * d + k))) 3 2) 3) s
  s.modDie d fun x => { x with state := 2, cause := 7 }

/-- Step 6 at its limit: the vote, if it has not been held; the dies whose part is unfinished, keepers without a path delay among
them, leave as the vote's (R360; DESIGN CHOICE, log entry 130). -/
def endNeighbours (s : State) (l : List Nat) : State :=
  let late := if s.mgr.phase = 3 then (List.range 400).filter fun i => (s.rtr i).running && (s.keeper i).delay.isNone else []
  let s := if s.mgr.phase = 3 then s else endVote s
  if failStep s ≠ 0 then s
  else
    let s := settleManagers (((l ++ late).filter fun i => (s.rtr i).running).foldl (fun s i => if (s.rtr i).running then removeDie s i else s) s)
    if failStep s = 0 then beginTraining s else s

/-- What unfinished parts of a step count as, and the step ends without them (R360). -/
def endUnfinished (s : State) (l : List Nat) : State :=
  match s.mgr.step with
  | 1 => startKeepers (l.foldl removeDie s)
  | 2 =>
    let of (b : Bool) : Option (Bool × Bool) := if l.contains (edgeSite (managerEdge b)) then none else some (true, true)
    endBoot s (of false) (of true)
  | 4 => enterStep ((diesAt l).foldl (fun s d => s.modDie d fun x => { x with state := 2, cause := 1 }) s) 5
  | 5 => enterStep (addWrong s (l ++ unfinishedRegions s)) 6
  | 6 => endNeighbours s l
  | 7 => endStacks s (l.filterMap fun i => match placeOf i with | .stack n => some n | _ => none) [] []
  | 8 => enterStep ((diesAt l ++ unfinishedFirmware s).foldl failFirmware s) 9
  | 9 => endStep9 s
  | _ => s

/-- BRINGUP_STEP_TIMEOUT: a step's limit expires (R360). -/
def execBringupStepTimeout (unfinished : List RouterId) (s : State) : Res :=
  match stepLimit s.mgr.step with
  | none => .next s
  | some n =>
    if failStep s = 0 then .next (endUnfinished (advFab s (s.mgr.stepFab + n)) (unfinished.map (·.val))) else .next s

end Sys2Proof.Machine
end

