-- ==== Sys2Proof/Machine/Tick.lean ====
section
/-! DEFINITION. A tick edge: its five steps in the order of R34 (R45 to R47, R57 to R59, R134, R141, R158), and a tick's
start (R46). -/

namespace Sys2Proof.Machine

/-! ### Step 1: the frame that ends (R57 to R59, R158) -/

/-- Is a cluster in a frame that began at an edge? -/
def runsFrame (x : Cluster) : Bool := x.inFrame && x.replay.isNone && x.seq != .idle && x.seq != .waitEdge

/-- Payload of a slack report: SLACK_FRAC, OVERRUN, the frame's index and the logical cluster.  The spec gives the packet no
layout (DESIGN CHOICE, log entry 56). -/
def slackBytes (frac : Nat) (overran : Bool) (frame lclu : Nat) : Bytes :=
  leBytes 2 frac ++ leBytes 1 (b2n overran) ++ leBytes 6 frame ++ leBytes 2 lclu

/-- A cluster reports its slack to the active manager (R158). -/
def reportSlack (s : State) (c frac : Nat) (overran : Bool) : State :=
  match activeMgr s with
  | none => s
  | some b =>
    sendCtrl s c (withPayload (mgmtTo (edgeSite (managerEdge b)) 5 3)
      (slackBytes frac overran (s.cl c).frameIdx ((logicalOfClu s c).getD 0)))

/-- The record of the ending frame of a cluster (R158). -/
def recordFrame (s : State) (c t period : Nat) (overran : Bool) : State :=
  let x := s.cl c
  let (used, slack) := match x.workEnd with
    | some (u, e) => if overran then (0xFFFFFFFF, 0) else (u, t - e)
    | none => (0xFFFFFFFF, 0)
  let frac := if period = 0 then 0 else min 65535 (slack * 65536 / period)
  let s := s.setReg (seqSlackAt c) (x.frameIdx % 2 ^ 32 * 2 ^ 32 + slack % 2 ^ 32)
  let s := ((s.setField (seqFrameUseAt c) 63 32 (used % 2 ^ 32)).setField (seqFrameUseAt c) 31 16 frac).setField
    (seqFrameUseAt c) 1 1 (b2n overran)
  reportSlack s c frac overran

/-- Step 1 for one cluster: it ends its frame in time, overruns it, or abandons its late work.  True when it begins no frame
at this edge. -/
def clusterEdge (s : State) (c t period : Nat) : Bool × State :=
  let x := s.cl c
  if x.replay.isSome then (true, s)
  else if runsFrame x then
    if x.workEnd.isSome then (false, recordFrame (s.modCl c fun x => { x with inFrame := false }) c t period false)
    else
      let s := s.modCl c fun x => { x with inFrame := false, late := some 0 }
      (true, checkEnd (recordFrame (s.bump (seqOverrunCntAt c)) c t period true) c)
  else if x.late.isSome && x.seq != .waitEdge then
    let s := s.modCl c fun x => { x with seq := .waitEdge, stall := none, handler := none, late := none }
    (true, (cancelAll s c).bump (seqAbandonCntAt c))
  else (false, s)

/-- Step 1 of R34 for a partition: the clusters that begin no frame at this edge, incomplete messages discarded (R171), runs
overtaken by the edge (R288). -/
def edgeStep1 (s : State) (q t : Nat) : List Nat × State :=
  let p := partD s q
  let (out, s) := (maskClusters s p.qmask).foldl (fun (acc : List Nat × State) c =>
    let (skip, s) := clusterEdge acc.2 c t p.period
    (if skip then c :: acc.1 else acc.1, s)) ([], s)
  (out, failRuns ((maskClusters s p.qmask).foldl ageMessages s) q)

/-! ### Step 5: the next frame (R134, R141, R281, R283, R305) -/

/-- A cluster begins a frame of index i at edge t (R134, R141, R285); here alone ord and the MMA ordinals begin again (DESIGN CHOICE for
late work, log entry 141). -/
def beginFrame (s : State) (c i t : Nat) (e : SchedEntry) : State :=
  let x := s.cl c
  let y := writeS (writeS x 1 (BitVec.ofNat 32 i)) 2 (BitVec.ofNat 32 ((logicalOfClu s c).getD 0))
  let s := s.setCl c { y with
    seq := .run, pc := imageNat e 0xC 4, s0 := y.s, stall := none, handler := none, slotsRun := [], grpCnt := [], grpFlags := []
    digest := [], frame := x.frame + 1, frameIdx := i, frameClk := cluClk s c, frameNs := t, workEnd := none, late := none
    inFrame := true, readyClk := cluClk s c }
  let s := (List.range 4).foldl (fun s i => s.modUn (4 * c + i) fun x => { x with ord := 0, mmas := 0 }) s
  (s.setField (seqFrameUseAt c) 0 0 0).setField (seqFrameUseAt c) 2 2 0

/-- Does a unit of a partition clear on its way to Day service (R390)? -/
def dayClearing (s : State) (m : Nat) : Bool :=
  s.units.any fun u => u.2.clear == 1 && u.2.modeAfter == some .normal && bit m (dieQuarter (u.1 / 16))
    && (logicalOfUnit s u.1).isSome

/-- May clusters of a partition begin frames: no joining or load interval, hold, halt, power state or reset of the whole
partition, nor a unit still clearing for Day service, stands against it? -/
def framesBegin (s : State) (p : Partition) (wasDay : Bool) : Bool :=
  let x := s.qtr (lowestQuarter p.qmask)
  p.tick && p.joinTo.isNone && !p.loading && !p.hold && !p.halted && wasDay && !dayClearing s p.qmask && x.pstate == 0 && !(x.pmoving && x.pstage != 0)
    && (match p.reset with | some r => r.kind == 2 || r.kind == 3 | none => true)

/-- Is a cluster held by a compatibility reset of its own (R401)? -/
def clusterResets (s : State) (p : Partition) (c : Nat) : Bool :=
  match p.reset with
  | some r => r.kind == 3 && cluOfLogical s r.target == some c
  | none => false

/-- Step 5 of R34: messages of phase NEXT become appendable and the clusters that are not excluded begin the frame (R58,
R141, R170). -/
def edgeStep5 (s : State) (q t : Nat) (skip : List Nat) (wasDay : Bool) : State :=
  let p := partD s q
  let i := frameIndex p
  let cs := maskClusters s p.qmask
  let s := cs.foldl flushQueues s
  let has (s : State) (c : Nat) : Option SchedEntry := (schedOf s c).filter fun e => !e.image.isEmpty
  let s := if p.joinTo.isNone then
      cs.foldl (fun s c => if skip.contains c && (has s c).isSome && (s.cl c).replay.isNone then s.bump (seqFrameSkipCntAt c) else s) s
    else s
  if framesBegin s p wasDay then
    let s := modPart s q fun p => { p with secFrames := p.secFrames + 1 }
    cs.foldl (fun s c =>
      if skip.contains c || clusterResets s p c || (s.cl c).replay.isSome then s
      else match has s c with
        | some e => beginFrame s c i t e
        | none => s.modCl c fun x => { x with seq := .idle }) s
  else if p.hold || p.halted then s.bump (pmHoldFrameCntAt (partQ p)) else s

/-! ### The edge -/

/-- A joining interval ends at an edge of the new period (R47). -/
def endJoin (s : State) (q t : Nat) : State :=
  modPart s q fun p => { p with joinTo := p.joinTo.filter fun j => decide (t < j) }

/-- The load interval ends at an edge of the new period: the stream is ACTIVE, or its clusters without an image halt the
partition (R305). -/
def endLoad (s : State) (q t : Nat) : State :=
  let p := partD s q
  if p.loading ∧ p.joinTo.isNone = true ∧ p.period ≠ 0 ∧ t % p.period = 0 then
    let s := modPart s q fun p => { p with loading := false, loadBad := false }
    let s := if p.loadBad then haltSoon s q else s
    match (maskQuarters p.qmask).find? fun k => ssState s k == 4 with
    | some k => endSs s k 5 { code := if p.loadBad then 0x5E else 0 }
    | none => s
  else s

/-- Trips of compute dies whose last reading lies below 100 °C clear at an edge of their partition (R446). -/
def clearTrips (s : State) (m : Nat) : State :=
  ((List.range 256).filter fun d => bit m (dieQuarter d) && (s.die d).tripped && decide (s.regField (thmDieTempAt d) 7 0 < 100)).foldl
    untripDie s

/-- The five steps of R34 at edge t of the partition of quarter q. -/
def runEdge (s : State) (q t : Nat) : State :=
  let s := modPart s q fun p => { p with lastEdge := t, edgeFab := s.fab }
  let (skip, s) := edgeStep1 s q t
  let s := applyDue (endLoad (endJoin s q t) q t) q t
  let p := partD s q
  let s := sparesAtEdge s p.qmask p.reset.isSome
  let s := match postedT s q with | some at_ => if at_ ≤ t then changeQuarters s p.qmask else s | none => s
  let wasDay := (s.qtr (lowestQuarter p.qmask)).pstate == 0
  let s := holdAtEdge (haltAtEdge (powerAtEdge s (lowestQuarter p.qmask) t) q) q
  refreshSusp (clearTrips (edgeStep5 s q t skip wasDay) p.qmask)

/-- The next edge of a partition: the end of its joining interval, or the next one of its period (R45, R47). -/
def nextEdge (p : Partition) : Nat :=
  match p.joinTo with
  | some j => j
  | none => (p.lastEdge / p.period + 1) * p.period

/-- TICK_EDGE: the next tick edge of the partition of quarter q comes, by the keeper of its lowest quarter's controller (R34,
R45). -/
def execTickEdge (q : QuarterId) (s : State) : Res :=
  match (partOf s q).filter fun p => p.tick && p.period != 0 with
  | none => .next s
  | some p =>
    let t := nextEdge p
    .next (runEdge (advNs s (edgeSite (controllerEdge (partQ p))) t) q t)

/-! ### The start of a tick (R46, R49, R405) -/

/-- A raise to the P_min of a partition whose tick is to start again (R49). -/
def raiseForTick (s : State) (pmin : Nat) : State :=
  if s.mgr.eqx.isSome || s.mgr.locks.any fun r => r.code == 4 then s
  else requestLock s { code := 4, qmask := 15, arg := pmin, reply := none }

/-- A tick stopped by Dusk or Dark starts again: at the first edge at least 100 µs after the wake and after a time set (R46,
R405). -/
def restartTick (s : State) (q : Nat) (p : Partition) (from_ : Nat) : State :=
  if pointAhead s < p.cfg.pmin ∧ inDawn s q = false then raiseForTick s p.cfg.pmin
  else
    let site := edgeSite (controllerEdge (partQ p))
    let ready := nsAt s site + 100000 - (s.fab - max from_ s.mgr.setAt) / 2
    let t := (max ready (nsAt s site) + p.period - 1) / p.period * p.period
    let s := modPart (advNs s site t) q fun p => { p with tick := true, joinTo := none, startFrom := none }
    runEdge s q t

/-- TICK_START: while no time set is pending, the first stream of a partition takes effect and its tick starts; a tick that
a wake allows starts again (R46). -/
def execTickStart (q : QuarterId) (s : State) : Res :=
  if setPending s then .next s
  else match partOf s q with
    | some p =>
      if p.tick = false ∧ p.period ≠ 0 then
        match p.startFrom with
        | some f => .next (restartTick s q p f)
        | none => .next s
      else .next s
    | none =>
      match s.mgr.pends.find? fun p => bit p.cfg.qmask q && p.raise != 1 with
      | none => .next s
      | some p =>
        let t := applyEdge s p
        let s := advNs s (edgeSite (controllerEdge (lowestQuarter p.cfg.qmask))) t
        let s := applyStream s p t
        match partOf s q with
        | none => .next s
        | some x => if x.tick then .next (runEdge s q t) else .next s

end Sys2Proof.Machine
end

