-- ==== Sys2Proof/Machine/DayService.lean ====
section
/-! DEFINITION. The Day checks and the change from Dawn to Day service (R389 to R391). -/

namespace Sys2Proof.Machine

/-! ### The checks (R389, R392) -/

/-- Routers of the dies and stacks that run Day checks: those of quarters that have passed, not withdrawn. -/
def dayExpected (s : State) : List Nat :=
  ((List.range 256).filter fun d => ((s.qtr (dieQuarter d)).svc == 1 || (s.qtr (dieQuarter d)).svc == 2) && (s.die d).state != 2).map dieSite
    ++ ((List.range 128).filter fun n => ((s.qtr (stackQuarter n)).svc == 1 || (s.qtr (stackQuarter n)).svc == 2) && (s.mr n).state != 4).map stackSite

/-- Progress of the Day checks in per cent: PM_BOOT_STAT.DAYCHK. -/
def dayProgress (s : State) : Nat :=
  let l := dayExpected s
  if s.mgr.step ≠ 10 ∨ l.isEmpty = true then 0 else 100 * (l.countP fun i => s.mgr.dayDone.contains i) / l.length

/-- Has every die and stack in Dawn finished its checks, and is some quarter in Dawn? -/
def dayReady (s : State) : Bool :=
  ((List.range 4).any (inDawn s)) && (dayExpected s).all fun i => s.mgr.dayDone.contains i

/-- The manager chooses T_day once the checks are done and HOLD_DAWN is 0 (R390). -/
def chooseDay (s : State) : State :=
  if (activeMgr s).isSome ∧ s.mgr.step = 10 ∧ s.mgr.tDay.isNone = true ∧ dayReady s = true ∧ bit (s.reg pmSvcCtlAt) 0 = false then
    s.modMgr fun m => { m with tDay := some (chooseT s 100000) }
  else s

/-- A failed check is recorded with cause DAYCHECK; the die or stack serves on until the Day change (R389). -/
def noteDayFail (s : State) (site : Nat) : State :=
  match placeOf site with
  | .die d => newGeneration (s.modDie d fun x => { x with cause := 8 })
  | .stack n => newGeneration (s.modMr n fun x => { x with cause := 8 })
  | .edge _ => s

/-- Fabric cycles by which the programme of a die is stretched: the clocks its unit that yielded most has yielded, at P4 (R389). -/
def dayStretch (s : State) (d : Nat) : Nat := ((List.range 16).map fun i => (s.un (16 * d + i)).yielded).foldl max 0 * 40 / 11

/-- DAY_CHECKS_DONE: a compute die's programme ends, 37,400,000,000 clocks of P4 and what it has yielded after step 9, or a memory
router's (R389). -/
def execDayChecksDone (site : RouterId) (failed : Bool) (s : State) : Res :=
  if s.mgr.step = 10 ∧ inDawn s (siteQuarter site) = true ∧ (dayExpected s).contains site.val = true
      ∧ s.mgr.dayDone.contains site.val = false then
    let s := match placeOf site with | .die d => advFab s (s.mgr.t9 + 136000000000 + dayStretch s d) | _ => s
    let s := s.modMgr fun m => { m with dayDone := insSorted m.dayDone site }
    .next (chooseDay (if failed then noteDayFail s site else s))
  else .next s

/-- PM_SVC_CTL: the operator writes HOLD_DAWN; clearing it starts the choice of T_day (R390, R392). -/
def execPmSvcCtl (who : Requester) (hold : Bool) (s : State) : Res :=
  when_ (operMgr s who) s (chooseDay (s.setReg pmSvcCtlAt (b2n hold)))

/-! ### T_day (R390, R391) -/

/-- Overruns of the frames that end at T_day are recorded, where T_day is an edge of a partition that has not come yet
(R390 action 1). -/
def dayEdge (s : State) (t : Nat) (p : Partition) : State :=
  if p.tick ∧ p.period ≠ 0 ∧ p.lastEdge < t ∧ t % p.period = 0 ∧ p.joinTo.isNone = true then
    let q := lowestQuarter p.qmask
    (edgeStep1 (modPart s q fun p => { p with lastEdge := t, edgeFab := s.fab }) q t).2
  else s

/-- A partition is reset as by an Eclipse and keeps its stream (R390 action 2). -/
def dayReset (s : State) (p : Partition) : State :=
  startEclipse s p 1 false (p.reset.bind (·.reply)) 2

/-- Every unit of the quarters in Dawn clears and changes to normal mode (R119, R390). -/
def dayClear (s : State) : State :=
  ((List.range 256).filter fun d => inDawn s (dieQuarter d) && (s.die d).state != 2).foldl (fun s d =>
    (List.range 16).foldl (fun s i => startClear s (16 * d + i) (some .normal)) s) s

/-- A die that failed its checks is replaced by its field's spare, or leaves its position VACANT (R390 action 3). -/
def dayReplace (s : State) (d : Nat) : State :=
  let f := dieField d
  let x := s.fld f
  if (s.die d).cause ≠ 8 ∨ (s.die d).state = 2 then s
  else
    let s := s.modDie d fun y => { y with state := 2 }
    if x.spare = some d then loseSpare s f
    else match positionOf s d, x.spare.filter fun c => (s.die c).cause != 8 with
      | some l, some c =>
        let s := (s.setFld f { x with map := x.map.set l (some c), spare := none, proc := 5, old := d, logical := l }).modDie c fun y =>
          { y with state := 0 }
        spareEvent ((installDie s f l c).bump pmSpareInCntAt) f
      | some l, none =>
        (s.setFld f { x with map := x.map.set l none, vacant := putAt x.vacant l d, proc := 1, old := d, logical := l }).bump pmVacantCntAt
      | none, _ => s

/-- A stack whose router failed its checks is withdrawn (R389). -/
def dayStack (s : State) (n : Nat) : State :=
  if (s.mr n).cause = 8 ∧ (s.mr n).state ≠ 4 then s.modMr n fun x => { x with state := 4 } else s

/-- A quarter in Dawn enters Day service, or is FAILED and halts its partition (R390 action 4, R391). -/
def dayService (s : State) (q : Nat) : State :=
  if inDawn s q then
    let s := (quarterFields q).foldl (fun s f => if fieldPasses s f then s else s.setFld f { s.fld f with failed := true }) s
    let ok := (quarterFields q).all fun f => !(s.fld f).failed
    let s := s.modQtr q fun x => { x with svc := if ok then 2 else 3 }
    if ok then s else haltSoon s q
  else s

/-- DAY_CHANGE: at T_day (R390, R391). -/
def execDayChange (s : State) : Res :=
  match activeMgr s, s.mgr.tDay with
  | some _, some t =>
    let s := (advMgr s t).modMgr fun m => { m with tDay := none }
    let day := s.parts.filter fun p => inDawn s (lowestQuarter p.qmask)
    let s := day.foldl (fun s p => dayEdge s t p) s
    let s := (s.parts.filter fun p => inDawn s (lowestQuarter p.qmask)).foldl dayReset s
    let s := dayClear s
    let s := ((List.range 256).filter fun d => inDawn s (dieQuarter d)).foldl dayReplace s
    let s := ((List.range 128).filter fun n => inDawn s (stackQuarter n)).foldl dayStack s
    .next (newGeneration ((List.range 4).foldl dayService s))
  | _, _ => .next s

end Sys2Proof.Machine
end

