-- ==== Sys2Proof/Machine/Supply.lean ====
section
/-! DEFINITION. The fast droop alert, telemetry, energy estimates and temperatures (R441 to R447). -/

namespace Sys2Proof.Machine

/-! ### The fast droop alert (R441, R442) -/

/-- Every region takes the frequency its state asks for, at once. -/
def retimeAll (s : State) : State := (List.range 512).foldl retime s

/-- FDA_ASSERT: a pin asserts; with the first the OR asserts and every region runs at its floor (R441). -/
def execFdaAssert (g : Fin 16) (s : State) : Res :=
  if bit s.power.fda g.val then .next s
  else
    let first := s.power.fda == 0
    let s := modPower s fun p => { p with fda := p.fda ||| 2 ^ g.val }
    if first then
      .next (retimeAll ((modPower s fun p => { p with fdaAt := some s.fab, fdaLong := false }).bump pwrFdaCntAt))
    else .next s

/-- Reference edges at which the OR of the alert that stands has been asserted (R441). -/
def fdaEdges (s : State) : Nat := match s.power.fdaAt with | some t => refEdges t s.fab | none => 0

/-- FDA_DEASSERT: a pin deasserts; 100 ns after the last each region begins its return (R441). -/
def execFdaDeassert (g : Fin 16) (s : State) : Res :=
  if bit s.power.fda g.val then
    let s := modPower s fun p => { p with fda := p.fda ^^^ 2 ^ g.val }
    if s.power.fda = 0 then
      let s := s.bumpBy pwrFdaTimeCntAt (fdaEdges s)
      let s := modPower s fun p => { p with fdaAt := none, fdaOff := some s.fab, fdaLong := false }
      .next ((List.range 512).foldl (fun s r => retimeAt s r (s.fab + 200)) s)
    else .next s
  else .next s

/-- FDA_LONG: the alert has stood for more than 1 ms (R442). -/
def execFdaLong (s : State) : Res :=
  match s.power.fdaAt with
  | none => .next s
  | some t =>
    if s.power.fdaLong then .next s
    else .next ((modPower (advFab s (t + 2000001)) fun p => { p with fdaLong := true }).bump pwrFdaLongCntAt)

/-! ### Telemetry (R443) -/

/-- Devices of R436: 0 to 15 the VCORE groups, then one for each other domain in the order of R435. -/
def deviceDomain (dev : Nat) : Nat := if dev < 16 then 0 else dev - 15

/-- Number of devices. -/
def devices : Nat := 22

/-- The last reading of a device: mV, mA, working phases, misses in a row. -/
def lastReading (s : State) (dev : Nat) : Nat × Nat × Nat × Nat :=
  ((s.power.readings.find? fun r => r.1 == dev).map (·.2)).getD (0, 0, 0, 0)

/-- A device answers, or keeps its last reading and is missed once more (R443). -/
def takeReading (s : State) (readings : List Reading) (dev : Nat) : State :=
  let old := lastReading s dev
  match readings.find? fun r => r.dev == dev with
  | some { answer := some (mv, ma), phases := k, .. } =>
    modPower s fun p => { p with readings := putAt p.readings dev (mv, ma, k, 0) }
  | _ => (modPower s fun p => { p with readings := putAt p.readings dev (old.1, old.2.1, old.2.2.1, old.2.2.2 + 1) }).bump pwrTelemErrCntAt

/-- Has some device missed 10 reads in a row: PWR_STAT.STALE (R443)? -/
def stale (s : State) : Bool := s.power.readings.any fun r => 10 ≤ r.2.2.2.2

/-- The devices of a domain. -/
def domainDevices (d : Nat) : List Nat := (List.range devices).filter fun dev => deviceDomain dev == d

/-- Voltage of a domain in mV: the mean of its devices' (DESIGN CHOICE, log entry 63). -/
def domainMv (s : State) (d : Nat) : Nat :=
  ((domainDevices d).map fun k => (lastReading s k).1).sum / (domainDevices d).length

/-- Current of a domain in mA. -/
def domainMa (s : State) (d : Nat) : Nat := ((domainDevices d).map fun k => (lastReading s k).2.1).sum

/-- Power of a domain in mW. -/
def domainMw (s : State) (d : Nat) : Nat :=
  ((domainDevices d).map fun k => (lastReading s k).1 * (lastReading s k).2.1).sum / 1000

/-- PWR_DOMd (R460). -/
def domWord (s : State) (d : Nat) : Nat :=
  min (domainMw s d / 1000) 65535 * 2 ^ 48 + min (domainMa s d / 1000) 65535 * 2 ^ 32 + domainMv s d % 65536

/-- Panel power in mW. -/
def panelMw (s : State) : Nat := ((List.range 7).map (domainMw s)).sum

/-- Working VCORE phases (R437). -/
def workingPhases (s : State) : Nat := ((List.range 16).map fun g => (lastReading s g).2.2.1).sum

/-- PWR_PHASES (R460). -/
def phasesWord (s : State) : Nat :=
  ((List.range 16).map fun g => if (lastReading s g).2.2.1 < 30 then 2 ^ (16 + g) else 0).sum + min (workingPhases s) 511

/-! ### Calibration and the division of energy (R444, R456) -/

/-- Estimates of the interval in µJ: a compute die's, a stack's, an edge die's. -/
def dieEst (s : State) (d : Nat) : Nat := (s.die d).microJ
/-- The manager's estimate of a stack, from its router's request count. -/
def stackEst (s : State) (n : Nat) : Nat := Config.stackMicroJ n (s.mr n).requests
/-- The manager's estimate of an edge die, from its ports' states. -/
def edgeEst (s : State) (e : Nat) : Nat :=
  Config.edgeMicroJ e ((List.range 4).countP fun p => (s.port (4 * e + p)).state == 2)

/-- An estimate calibrated by the measured energy of its domain: est × measured ÷ sum of the estimates (R444). -/
def calibrate (measured est total : Nat) : Nat := if total = 0 then 0 else est * measured / total

/-- Calibrated powers of the interval in mW, which are energies in µJ per millisecond: every compute die, stack and edge die
takes its own. -/
def calibrateAll (s : State) : State :=
  let core := domainMw s 0
  let mem := domainMw s 1 + domainMw s 2 + domainMw s 3
  let io := domainMw s 4
  let dt := ((List.range 256).map (dieEst s)).sum
  let mt := ((List.range 128).map (stackEst s)).sum
  let et := ((List.range 16).map (edgeEst s)).sum
  let t := s
  let s := (List.range 256).foldl (fun s d => s.modDie d fun x => { x with powerMw := calibrate core (dieEst t d) dt, microJ := 0 }) s
  let s := (List.range 128).foldl (fun s n => s.modMr n fun x => { x with powerMw := calibrate mem (stackEst t n) mt, requests := 0 }) s
  (List.range 16).foldl (fun s e => s.modEdge e fun x => { x with powerMw := calibrate io (edgeEst t e) et }) s

/-- Calibrated energy of a quarter's dies, stacks and edge dies. -/
def quarterMw (s : State) (q : Nat) : Nat :=
  ((quarterDies q).map fun d => (s.die d).powerMw).sum + ((quarterStacks q).map fun n => (s.mr n).powerMw).sum
    + ((quarterEdges q).map fun e => (s.edge e).powerMw).sum

/-- Energy of the quarters below q in µJ: theirs of what the domains but VAUX and VAON took, in proportion to the calibrated
estimates, and theirs of the managers', in equal parts (R456; DESIGN CHOICE, log entry 64). -/
def energyBelow (s : State) (total mgr q : Nat) : Nat :=
  let all := ((List.range 4).map (quarterMw s)).sum
  let part := if all = 0 then total * q / 4 else total * ((List.range q).map (quarterMw s)).sum / all
  part + mgr * q / 4

/-- The energy of an interval is divided among the quarters; the shares add up to it (R456). -/
def divideEnergy (s : State) : State :=
  let mgr := domainMw s 5 + domainMw s 6
  let total := panelMw s - mgr
  let t := s
  (List.range 4).foldl (fun s q =>
    let e := energyBelow t total mgr (q + 1) - energyBelow t total mgr q
    let a := match partOf s q with | some p => pwrEnergyAt (partQ p) | none => pwrEnergyFreeAt
    s.setReg a ((s.reg a + e) % 2 ^ 64)) s

/-- PWR_PANEL after a read at instant t: the mean of a second is taken at its end (R460). -/
def notePanel (s : State) (t : Nat) : State :=
  let w := panelMw s / 1000
  let s := s.modMgr fun m => { m with secPower := m.secPower + w, secSamples := m.secSamples + 1 }
  let s := s.setField pwrPanelAt 15 0 (min w 65535)
  if t % 1000000000 = 0 then
    let avg := s.mgr.secPower / s.mgr.secSamples
    (s.setField pwrPanelAt 47 32 (min avg 65535)).modMgr fun m => { m with secPower := 0, secSamples := 0 }
  else s

/-- The next whole millisecond at which the manager reads: the one that has just begun, when it has not been read (R443). -/
def nextMilli (s : State) : Nat :=
  let n := mgrNs s / 1000000 * 1000000
  if s.mgr.telNs < n then n else n + 1000000

/-- TELEMETRY_READ: at each whole millisecond the manager reads every device, updates the registers, calibrates the estimates
and divides the energy (R443, R444, R456). -/
def execTelemetryRead (readings : List Reading) (s : State) : Res :=
  if (activeMgr s).isSome ∧ 3 < s.mgr.step then
    let t := nextMilli s
    let s := (advMgr s t).modMgr fun m => { m with telNs := t }
    let s := (List.range devices).foldl (fun s d => takeReading s readings d) s
    let s := (List.range 7).foldl (fun s d => s.setReg (pwrDomAt d) (domWord s d)) s
    let s := s.setReg pwrPhasesAt (phasesWord s)
    let s := notePanel (modPower s fun p => { p with coreMw := domainMw s 0, otherMw := panelMw s - domainMw s 0 }) t
    .next (divideEnergy (calibrateAll s))
  else .next s

/-- DIE_ENERGY_LATCH: a die latches its estimate of the interval that has ended (R444, R461). -/
def execDieEnergyLatch (d : DieId) (microJ : Nat) (s : State) : Res :=
  if bit s.power.good 0 then
    let frame := match (partOf s (dieQuarter d)).filter (·.tick) with | some p => frameIndex p - 1 | none => 0
    let s := s.modDie d fun x => { x with microJ := x.microJ + microJ }
    let s := s.setReg (pwrDieEstAt d) ((s.reg (pwrDieEstAt d) + microJ) % 2 ^ 64)
    .next (s.setReg (pwrDieFrameAt d) (frame % 2 ^ 32 * 2 ^ 32 + microJ % 2 ^ 32))
  else .next s

/-! ### Temperatures (R204, R445 to R447) -/

/-- CUR and MAX of THM_DIE_TEMP or MR_TEMP. -/
def noteTemp (s : State) (a c : Nat) : State := (s.setField a 7 0 c).setField a 23 16 (max (s.regField a 23 16) c)

/-- DIE_TEMP_SAMPLE: a compute die's reading; it trips at 110 °C, and the trip clears below 100 °C at the next edge of its
partition, or at once when none ticks (R445, R446). -/
def execDieTempSample (d : DieId) (celsius : Fin 256) (s : State) : Res :=
  if bit s.power.good 0 then
    let s := noteTemp s (thmDieTempAt d) celsius
    if 110 ≤ celsius.val ∧ (s.die d).tripped = false then
      let s := ((s.modDie d fun x => { x with tripped := true }).setField (thmDieTempAt d) 24 24 1).bump (thmTripCntAt d)
      .next (retime (retime s (2 * d)) (2 * d + 1))
    else if celsius.val < 100 ∧ (s.die d).tripped = true ∧ ((partOf s (dieQuarter d)).filter (·.tick)).isNone = true then
      .next (untripDie s d)
    else .next s
  else .next s

/-- MR_TEMP_SAMPLE: a stack's reading: refresh doubles above 85 °C, the router trips at 100 °C until below 90 °C (R204,
R446). -/
def execMrTempSample (st : StackId) (celsius : Fin 256) (s : State) : Res :=
  if bit s.power.good 1 then
    let s := (noteTemp s (mrTempAt st) celsius).setField (mrTempAt st) 24 24 (b2n (decide (85 < celsius.val)))
    if 100 ≤ celsius.val ∧ (s.mr st).tripped = false then
      .next ((s.modMr st fun x => { x with tripped := true }).bump (mrThmTripCntAt st))
    else if celsius.val < 90 then .next (s.modMr st fun x => { x with tripped := false })
    else .next s
  else .next s

/-- An edge die is withdrawn in service: its ports are lost, its router stops, a manager on it stands down (R373, R446). -/
def withdrawEdge (s : State) (e : Nat) : State :=
  let s := s.modEdge e fun x => { x with state := 2 }
  let s := (List.range 4).foldl (fun s p => if linkRuns s (4 * e + p) then loseLink s (4 * e + p) else s) s
  let s := stopRouter s (edgeSite e)
  let s := (List.range 4).foldl (fun s q => if controllerEdge q = e then s.modQtr q fun x => { x with pcieUp := false } else s) s
  let lose (s : State) (b : Bool) : State :=
    if managerEdge b = e then
      let s := s.setInst b { s.inst b with down := true }
      if s.mgr.active = some b then
        s.modMgr fun m => { m with active := if (s.inst (!b)).booted && !(s.inst (!b)).down then some (!b) else none, solo := true }
      else s
    else s
  newGeneration (lose (lose s false) true)

/-- EDGE_TEMP_SAMPLE: the manager's reading of an edge die; at 110 °C the die counts as withdrawn (R445, R446). -/
def execEdgeTempSample (e : EdgeId) (celsius : Fin 256) (s : State) : Res :=
  if (activeMgr s).isSome then
    let s := s.modEdge e fun x => { x with celsius := celsius }
    .next (if 110 ≤ celsius.val ∧ (s.edge e).state ≠ 2 then withdrawEdge s e else s)
  else .next s

/-- A sensor's reading in 1/128 °C as THM_COOLANT holds it: whole °C, rounded down, none below 0 (R460, R500; DESIGN CHOICE, log
entry 154). -/
def coolantByte (v : Int) : Nat := min (v / 128).toNat 255

/-- Where the outlet's last reading lies more than 2 °C below the inlet's, the higher of the two (R447). -/
def outletBelow (p : Power) : Option Int :=
  match p.inletRead, p.outletRead with
  | some i, some o => if o + 256 < i then some (max i o) else none
  | _, _ => none

/-- COOLANT_READ: the manager's reading of the inlet and outlet sensors, each a two's-complement number of 1/128 °C (R445, R447,
R500). -/
def execCoolantRead (inlet outlet : Option (BitVec 16)) (s : State) : Res :=
  if (activeMgr s).isSome then
    let s := match outlet with
      | some v => modPower (s.setField thmCoolantAt 7 0 (coolantByte v.toInt)) fun p => { p with outletRead := some v.toInt }
      | none => s
    let s := match inlet with
      | some v =>
        let s := s.setField thmCoolantAt 15 8 (coolantByte v.toInt)
        let s := (s.setField thmStatAt 7 7 0).setField thmStatAt 6 6 (b2n (decide (v.toInt < 2560 ∨ 5760 < v.toInt)))
        modPower s fun p => { p with inletAt := s.fab, inletRead := some v.toInt }
      | none => s
    let s := s.setField thmStatAt 5 5 (b2n (outletBelow s.power).isSome)
    .next (modPower s fun p => { p with inlet := if s.regField thmStatAt 7 7 = 1 then 5760 else (outletBelow p).getD (p.inletRead.getD p.inlet) })
  else .next s

/-- INLET_LOST: 100 ms have passed without an inlet reading; the model takes 45 °C (R447). -/
def execInletLost (s : State) : Res :=
  if (activeMgr s).isSome ∧ s.regField thmStatAt 7 7 = 0 then
    let s := advFab s (s.power.inletAt + 200000000)
    .next (modPower ((s.setField thmStatAt 7 7 1).bump thmInletLostCntAt) fun p => { p with inlet := 5760 })
  else .next s

end Sys2Proof.Machine
end

