-- ==== Sys2Proof/Machine/Governor.lean ====
section
/-! DEFINITION. The thermal model and cap, the governor, slack reports and the energy ledger (R448 to R459). -/

namespace Sys2Proof.Machine

/-! ### Predicted power (R450, R452) -/

/-- Leakage of every compute die at its last reading and a VCORE in mV, in mW (R452). -/
def leakMw (s : State) (mv : Nat) : Nat :=
  ((List.range 256).map fun d => Config.leakMilliwatt d (s.regField (thmDieTempAt d) 7 0) mv).sum

/-- f·v² of a point. -/
def fv2 (p : Nat) : Nat := pointMhz p * pointMv p * pointMv p

/-- Core power at point p times f·v² of the current point, in mW: an exact fraction (R452). -/
def coreNum (s : State) (p : Nat) : Int :=
  let dyn : Int := (s.power.coreMw : Int) - leakMw s (pointMv s.mgr.cur)
  dyn * fv2 p + (leakMw s (pointMv p) : Int) * fv2 s.mgr.cur

/-- Is the predicted panel power at point p at or below a cap in W (R452)? -/
def predAtMost (s : State) (p capW : Nat) : Bool :=
  decide (coreNum s p + (s.power.otherMw : Int) * fv2 s.mgr.cur ≤ (capW : Int) * 1000 * fv2 s.mgr.cur)

/-! ### Caps (R437, R449, R460) -/

/-- PWR_CAP.CAPW as it is taken. -/
def operatorCap (s : State) : Nat := min 36000 (max 10000 (s.regField pwrCapAt 15 0))
/-- The phase cap (R437). -/
def phaseCap (s : State) : Nat := 36000 * s.regField pwrPhasesAt 8 0 / 480
/-- The filtered thermal cap. -/
def thermalCap (s : State) : Nat := s.regField thmRthAt 47 32
/-- The cap in force (R449). -/
def capNow (s : State) : Nat := min (operatorCap s) (min (thermalCap s) (phaseCap s))
/-- THM_CTL.MARGIN_C as it is taken. -/
def marginC (s : State) : Nat := min 20 (max 2 (s.regField thmCtlAt 7 0))

/-! ### The thermal model (R448, R449) -/

/-- Limit, present temperature and calibrated power of a site that has a model; none for a withdrawn one (R446). -/
def siteHeat (s : State) (site : Nat) : Option (Nat × Nat × Nat) :=
  match placeOf site with
  | .die d => if (s.die d).state = 2 then none else some (105, s.regField (thmDieTempAt d) 7 0, (s.die d).powerMw)
  | .stack n => if (s.mr n).state = 4 then none else some (95, s.regField (mrTempAt n) 7 0, (s.mr n).powerMw)
  | .edge e => if (s.edge e).state = 2 then none else some (105, (s.edge e).celsius, (s.edge e).powerMw)

/-- Has the die or stack of a site tripped: a forecast that exceeds its limit (R446)? -/
def siteTripped (s : State) (site : Nat) : Bool :=
  match placeOf site with | .die d => (s.die d).tripped | .stack n => (s.mr n).tripped | .edge _ => false

/-- Steady temperature rise of a site in µK at a power of p × num ÷ den (R448). -/
def steadyRise (s : State) (site powerMw : Nat) (num den : Int) : Int :=
  (Config.thermalR site s.mgr.fitN : Int) * powerMw * num / (1000 * den)

/-- The 20 ms forecast of a site in µK, its power scaled by num ÷ den (R448). -/
def forecast (s : State) (site now powerMw : Nat) (num den : Int) : Int :=
  let ss := s.power.inlet * 1000000 / 128 + steadyRise s site powerMw num den
  ss + ((now : Int) * 1000000 - ss) * Config.expDecay (Config.thermalTau site s.mgr.fitN) / 65536

/-- Does every site's forecast at point p stay at or below its limit less the margin (R448)? -/
def forecastOk (s : State) (p : Nat) : Bool :=
  let den : Int := (s.power.coreMw : Int) * fv2 s.mgr.cur
  let num := coreNum s p
  (List.range 400).all fun i => match siteHeat s i with
    | none => true
    | some (limit, now, mw) =>
      !siteTripped s i && decide (forecast s i now mw (if den = 0 then 1 else num) (if den = 0 then 1 else den)
        ≤ ((limit : Int) - marginC s) * 1000000)

/-- The highest point of a list of candidates in falling order that a test admits. -/
def highestOf (test : Nat → Bool) (from_ : Nat) : Option Nat := ((List.range 16).reverse.filter (from_ ≤ ·)).find? test

/-- P_therm (R448) -/
def pTherm (s : State) : Nat := (highestOf (forecastOk s) 0).getD 0

/-- The thermal cap of a site in W with its ρ in µK/W; none when the site sets none (R449). -/
def siteCap (s : State) (site : Nat) : Option (Nat × Nat) :=
  match siteHeat s site with
  | none => none
  | some (limit, _, mw) =>
    let rise := (steadyRise s site mw 1 1).toNat
    let w := (s.power.coreMw + s.power.otherMw) / 1000
    if w = 0 ∨ rise / w = 0 then none
    else some (((((limit : Int) - marginC s) * 128 - s.power.inlet) * 1000000 / 128).toNat / (rise / w), rise / w)

/-- The site that binds the thermal cap. -/
def bindingCap (s : State) : Option (Nat × Nat) :=
  (List.range 400).foldl (fun best i => match best, siteCap s i with
    | some b, some c => if c.1 < b.1 then some c else some b
    | none, c => c
    | b, none => b) none

/-- THM_RTH after an evaluation (R449). -/
def noteThermalCap (s : State) : State :=
  match bindingCap s with
  | none => s
  | some (cap, rho) =>
    (s.setField thmRthAt 47 32 (min 65535 (Config.capFilter (thermalCap s) cap))).setField thmRthAt 31 0 (min rho 0xFFFFFFFF)

/-- The hottest site, its temperature and its power. -/
def hottest (s : State) : Option (Nat × Nat × Nat) :=
  (List.range 400).foldl (fun best i => match best, siteHeat s i with
    | some (b : Nat × Nat × Nat), some (_, now, mw) => if b.2.1 < now then some (i, now, mw) else some b
    | none, some (_, now, mw) => some (i, now, mw)
    | b, none => b) none

/-- THM_STAT's hottest site and its forecast (R460). -/
def noteHottest (s : State) : State :=
  match hottest s with
  | none => s
  | some (i, now, mw) =>
    let f := (forecast s i now mw 1 1 / 1000000).toNat
    ((s.setField thmStatAt 54 46 i).setField thmStatAt 45 38 (min now 255)).setField thmStatAt 37 30 (min f 255)

/-- THERMAL_FIT: every 10 ms the manager fits the parameters of every site anew (R448). -/
def execThermalFit (s : State) : Res := when_ (activeMgr s).isSome s (s.modMgr fun m => { m with fitN := m.fitN + 1 })

/-! ### Slack (R158, R454) -/

/-- A cluster's report enters its partition's counts. -/
def takeSlack (s : State) (frac : Nat) (overran : Bool) (frame lclu : Nat) : State :=
  modPart s (fieldQuarter (lclu / 60)) fun p => { p with
    slackN := if p.slackN = 0 ∨ p.slackLast < frame then p.slackN + 1 else p.slackN
    slackLast := max p.slackLast frame, slackLow := min p.slackLow frac
    slackUnder := p.slackUnder || decide (frac < p.cfg.slackMin), overran := p.overran || overran }

/-- SLACK: the active manager receives a cluster's report (R158). -/
def execSlack (s : State) : Res :=
  serveMgr tMgmt 3 (fun p s =>
    takeSlack s (leNat (p.payload.take 2)) (p.payload.getD 2 0 != 0) (leNat ((p.payload.drop 3).take 6))
      (leNat ((p.payload.drop 9).take 2))) s

/-! ### The governor (R450 to R455) -/

/-- PWR_GOV_CTL.MODE as it is taken: 3 is RATE. -/
def govMode (s : State) : Nat := let m := s.regField pwrGovCtlAt 1 0; if m = 3 then 0 else m

/-- P_high from P_low (R450). -/
def pHigh (s : State) (low : Nat) : Nat := (highestOf (fun p => predAtMost s p (capNow s)) low).getD low

/-- P_cap (R450) -/
def pCap (s : State) : Nat :=
  (highestOf (fun p => decide (Config.worstPowerW p ≤ min (operatorCap s) (phaseCap s))) 0).getD 0

/-- Rule 3 of R454 for a partition: enough frames, all of them with room at the next lower point. -/
def hasRoom (cur : Nat) (p : Partition) : Bool :=
  let used := 65536 - p.slackLow
  let scaled := (used * pointMhz cur + pointMhz (cur - 1) - 1) / pointMhz (cur - 1)
  decide (p.cfg.nframes ≤ p.slackN) && decide (p.cfg.slackMin + scaled ≤ 65536)

/-- The rules of R454. -/
def efficiencyTarget (s : State) (low high : Nat) : Nat :=
  let l := s.parts.filter (·.tick)
  let cur := s.mgr.cur
  if l.isEmpty then low
  else if l.any (·.overran) then high
  else if l.any (·.slackUnder) then cur + 1
  else if 0 < cur ∧ l.all (hasRoom cur) = true then cur - 1
  else cur

/-- Code of the cap that binds: 0 PWR_CAP, 1 thermal cap, 2 phase cap (R460). -/
def capCode (s : State) : Nat :=
  if capNow s = operatorCap s then 0 else if capNow s = thermalCap s then 1 else 2

/-- A point chosen by a mode, with what set it: codes of PWR_STAT.LIMIT (R453, R460). -/
def modeTarget (s : State) (low high therm : Nat) : Nat × Nat :=
  let bound := min high therm
  let code := if therm < high then 3 else if high = 15 then 5 else capCode s
  match govMode s with
  | 1 => let t := efficiencyTarget s low high; if t < bound then (t, 4) else (bound, code)
  | 2 =>
    let c := pCap s
    (min c therm, if therm < c then 3 else if c = 15 then 5 else if operatorCap s ≤ phaseCap s then 0 else 2)
  | _ => (bound, code)

/-- The target: never below P_low, no raise while readings are stale, one point lower while an alert stands longer than 1 ms
(R442, R443, R451, R453). -/
def chooseTarget (s : State) (low high therm : Nat) : Nat × Nat :=
  let (t, code) := modeTarget s low high therm
  let (t, code) := if t < low then (low, 6) else (t, code)
  let t := if stale s then min t (max low s.mgr.cur) else t
  if s.power.fdaLong then (max low (min t (s.mgr.cur - 1)), code) else (t, code)

/-- PWR_STAT after an evaluation (R460). -/
def notePwrStat (s : State) (low high therm code : Nat) (over_ : Bool) : State :=
  s.setReg pwrStatAt (capNow s * 2 ^ 48 + therm * 2 ^ 20 + high * 2 ^ 16 + low * 2 ^ 12 + code * 2 ^ 6 + b2n over_ * 16 + govMode s)

/-- Does an Equinox change stand, or wait for the lock (R450, R455)? -/
def eqxWaits (s : State) : Bool :=
  s.mgr.eqx.isSome || (s.mgr.locks.any fun r => r.code == 4) || s.mgr.pends.any fun p => p.raise == 1

/-- Does the governor run: in Day service, with a manager (R450)? -/
def governs (s : State) : Bool :=
  (activeMgr s).isSome && s.mgr.step == 10 && ((List.range 4).any fun q => (s.qtr q).svc == 2) && !(List.range 4).any (inDawn s)

/-- GOVERNOR_EVALUATE: right after a telemetry read (R450 to R455). -/
def execGovernorEvaluate (s : State) : Res :=
  if governs s = true ∧ eqxWaits s = false ∧ s.mgr.govNs < s.mgr.telNs then
    let s := noteHottest (noteThermalCap (s.modMgr fun m => { m with govNs := m.telNs }))
    let low := pminNow s
    let high := pHigh s low
    let therm := pTherm s
    let over_ := !predAtMost s low (capNow s)
    let (t, code) := chooseTarget s low high therm
    let (t, code) := if t < lowestPoint s then (lowestPoint s, 6) else (t, code)
    let cur := s.mgr.cur
    let s := notePwrStat (if over_ then s.bump pwrOvercapCntAt else s) low high therm code over_
    let s := { s with parts := s.parts.map fun p => { p with slackUnder := false, overran := false } }
    if t = cur then .next s
    else
      let forecastLowers := code = 3 ∧ t < cur
      .next (requestLock s { code := 4, qmask := 15, arg := t + (if forecastLowers then 32 else 16), reply := none })
  else .next s

/-- PWR_STAT as a read returns it: FDA and STALE follow the pins and the readings (R460). -/
def pwrStatView (s : State) : Nat :=
  putBits (putBits (s.reg pwrStatAt) 5 5 (b2n (s.power.fda != 0))) 3 3 (b2n (stale s))

/-! ### The ledger (R457 to R459) -/

/-- PWR_OPSq_g. -/
def opsAt (q g : Nat) : Nat := pwrOps0At q + 8 * g

/-- FLOP of a group that a partition's units have counted. -/
def flopOf (s : State) (m g : Nat) : Nat :=
  ((s.units.filter fun u => bit m (dieQuarter (u.1 / 16))).map fun u => findD u.2.flop g 0).sum

/-- A partition's registers take whole units of 2^30 FLOP; the rest stays for the next gathering. -/
def gatherPart (s : State) (p : Partition) : State :=
  let q := partQ p
  let sum (g : Nat) : Nat := flopOf s p.qmask g + findD p.flopRest g 0
  let t := (List.range 8).foldl (fun t g =>
    t.setReg (opsAt q g) ((t.reg (opsAt q g) + sum g / 2 ^ 30) % 2 ^ 64)) s
  modPart t q fun p => { p with flopRest := (List.range 8).map fun g => (g, sum g % 2 ^ 30) }

/-- OPS_GATHER: the units' counts are gathered, those of quarters in no partition nowhere (R457). -/
def execOpsGather (s : State) : Res :=
  if (activeMgr s).isSome then
    let s := s.parts.foldl gatherPart s
    .next { s with units := s.units.map fun u => (u.1, { u.2 with flop := [] }) }
  else .next s

/-- May a requester add tokens to a register: the operator to any, a host to its own partition's (R458)? -/
def mayAddTokens (s : State) (who : Requester) (q : Nat) : Bool :=
  (activeMgr s).isSome && (isOperator s who || (match who with
    | .host h => (match partOf s h with | some p => partQ p == q | none => false)
    | _ => false))

/-- PWR_TOKEN_ADD (R458) -/
def execPwrTokenAdd (who : Requester) (q : QuarterId) (n : BitVec 32) (s : State) : Res :=
  when_ (mayAddTokens s who q) s (s.setReg (pwrTokensAt q) ((s.reg (pwrTokensAt q) + n.toNat) % 2 ^ 64))

/-- The two figures of a partition for the second that ends (R459). -/
def ledgerPart (s : State) (p : Partition) : State :=
  let q := partQ p
  let dt := (s.reg (pwrTokensAt q) + 2 ^ 64 - p.secTokens) % 2 ^ 64
  let de := (s.reg (pwrEnergyAt q) + 2 ^ 64 - p.secEnergy) % 2 ^ 64
  let s := s.setReg (pwrTpmwhAt q) (if de = 0 then 0 else dt * 3600000000000000 / de % 2 ^ 64)
  let s := s.setReg (pwrJpfAt q) (if p.secFrames = 0 then 0 else min (de / p.secFrames) 0xFFFFFFFF)
  modPart s q fun x => { x with secTokens := s.reg (pwrTokensAt q), secEnergy := s.reg (pwrEnergyAt q), secFrames := 0 }

/-- LEDGER_SECOND: the next whole second of global time comes (R459). -/
def execLedgerSecond (s : State) : Res :=
  if (activeMgr s).isSome then
    let s := advMgr s ((mgrNs s / 1000000000 + 1) * 1000000000)
    .next (s.parts.foldl ledgerPart s)
  else .next s

end Sys2Proof.Machine
end

