-- ==== Sys2Proof/Machine/Transport.lean ====
section
/-! DEFINITION. Transport packets at the edge dies: sending, serving and answering remote requests; timeouts and
quarantine of tags (R324 to R333, R399, R407). -/

namespace Sys2Proof.Machine

/-! ### Sending (R325, R328, R329) -/

/-- The 16-byte prefix of a packet leaving on a port (R325). -/
def prefixBytes (s : State) (p tcls : Nat) (k : Packet) : Bytes :=
  let (panel, qmask, rsite, ragt) := k.peer.getD (0, 0, 0, 0)
  let own := partD s (edgeQuarter (p / 4))
  let low := if tcls = 0 then
      k.sagt % 16 * 2 ^ 41 + k.ssite % 512 * 2 ^ 32 + own.qmask % 16 * 2 ^ 24 + (s.port p).panel % 1024 * 2 ^ 14
        + qmask % 16 * 2 ^ 10 + panel % 1024
    else
      ragt % 16 * 2 ^ 41 + rsite % 512 * 2 ^ 32 + 2 ^ 28 + qmask % 16 * 2 ^ 24 + panel % 1024 * 2 ^ 14
        + qmask % 16 * 2 ^ 10 + panel % 1024
  let b := leBytes 12 low
  b ++ leBytes 4 (crc32c b)

/-- A transport packet as it travels, rounded up to 4 bytes (R318). -/
def transportBytes (s : State) (p tcls : Nat) (k : Packet) : Bytes :=
  let b := prefixBytes s p tcls k ++ packetBytes k
  b ++ zeros ((4 - b.length % 4) % 4)

/-- A packet begins at byte 4 of a DATA flit and pad words fill the last flit (R318; DESIGN CHOICE, log entry 54). -/
def sendPacket (s : State) (p tcls : Nat) (k : Packet) : State :=
  let b := transportBytes s p tcls k
  let n := (b.length + 243) / 244
  let padded := b ++ List.replicate (244 * n - b.length) 0xFF
  (List.range n).foldl (fun s i => sendSeq s p 1 ((padded.drop (244 * i)).take 244) (if i + 1 = n then [k] else [])) s

/-- DATA flits that a packet takes. -/
def flitsOf (k : Packet) : Nat := (16 + packetLength (headerBytes k) + 3 + 243) / 244

/-- Requests that have reached an edge die for another panel join an egress queue (R328). -/
def queueOutbound (e : Nat) : Nat → State → State
  | 0, s => s
  | n + 1, s =>
    match ejected s (edgeSite e) 2 isOutbound with
    | some k => queueOutbound e n (toEgress (popEject s (edgeSite e) 2 k.dagt) e 0 k)
    | none => s

/-- Packets of the egress queues that hold a credit: no earlier packet to the same destination waits for one (R329). -/
def sendable (x : Port) : List (Nat × Nat × Packet) → List (Nat × Nat × Packet) → List (Nat × Nat × Packet)
  | _, [] => []
  | before, e :: t =>
    let has (f : Nat × Nat × Packet) : Bool := findD x.credits (2 * f.1 + f.2.1) 0 != 0
    let free := has e && (before.filter fun f => f.1 == e.1).all has
    (if free then [e] else []) ++ sendable x (before ++ [e]) t

/-- The order among packets that hold credits: RSP before REQ, then SCHED, CTRL, BULK (R329). -/
def egressRank (e : Nat × Nat × Packet) : Nat := (1 - e.2.1) * 3 + classRank e.2.2.cls

/-- The next packet a port sends. -/
def nextEgress (x : Port) : Option (Nat × Nat × Packet) :=
  (sendable x [] x.egress).foldl (fun m e => match m with
    | none => some e
    | some b => if egressRank e < egressRank b then some e else some b) none

/-- EGRESS_SEND: requests at the edge die are queued; a port that is UP sends its next packet, using one credit (R328,
R329). -/
def execEgressSend (p : PortId) (s : State) : Res :=
  let e := p.val / 4
  let s := queueOutbound e 4 s
  let x := s.port p
  if x.state = 2 then
    match nextEgress x with
    | none => .next s
    | some (panel, tcls, k) =>
      if x.replay.length + flitsOf k ≤ 2048 then
        let key := 2 * panel + tcls
        let s := s.setPort p { x with
          egress := eraseFirst (fun f => f == (panel, tcls, k)) x.egress
          credits := putAt x.credits key (findD x.credits key 0 - 1) }
        .next (sendPacket s p tcls k)
      else .next s
  else .next s

/-! ### Serving (R331) -/

/-- How an edge die serves a request of another panel (R331). -/
inductive Incoming where
  /-- into the fabric, to a router and agent -/
  | pass (site agt : Nat)
  /-- answered with a STATUS, counted -/
  | answer (status counter : Nat)
  deriving DecidableEq, Repr

/-- Does the power state of quarter q refuse a request (R407)? -/
def darkRefuses (s : State) (q : Nat) (k : Packet) : Bool :=
  match (s.qtr q).pstate with
  | 2 => k.typ == tMsg || inWindow k.addr
  | 3 => true
  | _ => false

/-- The counter of a request for an unassigned address. -/
def unassigned (q : Nat) : Incoming := .answer sUnassigned (qcUnassignedCntAt q)

/-- Where an address leads within a partition (R185, R331 check 4). -/
def incomingAt (s : State) (x : Partition) (q : Nat) (k : Packet) : Incoming :=
  match resolve s x k.addr false with
  | .mem h => if k.typ = tAtom then unassigned q else match liveStack s h with | some n => .pass (stackSite n) 0 | none => unassigned q
  | .control h => if k.typ = tAtom ∧ stackGone s h.stack = false ∧ k.addr % 8 = 0 then .pass (stackSite h.stack) 2 else unassigned q
  | .spad u _ => if k.typ = tAtom then unassigned q else .pass (cluSite (unitClu u)) (cluAgent (unitClu u))
  | .none => unassigned q

/-- The checks of R331 on a request that arrived on a port of quarter q; in Dawn service, which has no reduction, no row address
lies in a range (R388). -/
def checkIncoming (s : State) (q : Nat) (k : Packet) : Incoming :=
  match partOf s q with
  | none => unassigned q
  | some x =>
    let panel := match k.peer with | some t => t.1 | none => 0
    if !bit (s.reg (qcXacceptAt (partQ x) (panel / 32))) (panel % 32) then .answer sNack (qcXfilterCntAt q)
    else if (match x.reset with | some r => r.kind != 2 && r.kind != 3 | none => false) || darkRefuses s q k then
      .answer sEclipsed (qcXeclipsedCntAt q)
    else if k.typ = tMsg ∨ k.typ = tCredit then
      match (if cluIn x.qmask k.addr then cluOfLogical s k.addr else none) with
      | some c => .pass (cluSite c) (cluAgent c)
      | none => unassigned q
    else if k.typ = tRed then
      match (redRangeOf x k.addr).filter fun _ => !inDawn s q with
      | none => .answer sNack (qcXredNackCntAt q)
      | some r => let n := (recordAt r k.addr).1; if stackGone s n then unassigned q else .pass (stackSite n) 1
    else incomingAt s x q k

/-- A request of a port enters the fabric, past the SCHED bucket or behind it (R239, R330, R331). -/
def admitReq (s : State) (p : Nat) (k : Packet) : State :=
  let e := p / 4
  let b := bucketOfEdge e
  if k.cls ≠ cSched ∨ k.typ = tCredit then freeEntry (injectEdge s e (p % 4) k) p 0
  else if (s.edge e).ingressReq.isEmpty && mayPass s b then freeEntry (injectEdge (charge s b) e (p % 4) k) p 0
  else
    let s := if (s.bucket b).waitAt.isSome then s else s.setBucket b { s.bucket b with waitAt := some s.fab }
    s.modEdge e fun x => { x with ingressReq := x.ingressReq ++ [(p, k)] }

/-- The first packet of a class leaves a port's ingress buffer. -/
def popIngress (s : State) (p tcls : Nat) : State := s.modPort p fun x => { x with ingress := eraseFirst (fun e => e.1 == tcls) x.ingress }

/-- TRANSPORT_REQ_ARRIVE: the oldest request of a port is checked, and answered or turned into a fabric packet (R331).  A
CREDIT that fails is discarded. -/
def execTransportReqArrive (p : PortId) (s : State) : Res :=
  match (s.port p).ingress.find? fun e => e.1 == 0 with
  | none => .next s
  | some (_, k) =>
    let q := edgeQuarter (p / 4)
    let s := popIngress s p 0
    if k.bad then .next (freeEntry (s.bump (rtrHdrErrCntAt (xpSite p))) p 0)
    else match checkIncoming s q k with
      | .pass site agt => .next (admitReq s p { k with dsite := site, dagt := agt, remote := true })
      | .answer st counter =>
        let s := s.bump counter
        let s := if k.typ = tCredit then s else toEgress s (p / 4) 1 (statusAnswer k st)
        .next (freeEntry s p 0)

/-- The wait on an edge die's SCHED bucket ends, and the next begins where more requests wait: SHP_WAIT_CNT0 counts fabric cycles,
an edge die having no region clock (R243, R253; DESIGN CHOICE, log entry 145). -/
def noteEdgeWait (s : State) (e : Nat) (more : Bool) : State :=
  let b := bucketOfEdge e
  match (s.bucket b).waitAt with
  | none => s
  | some t => (s.setBucket b { s.bucket b with waitAt := if more then some s.fab else none }).bumpBy (shpWaitCnt0At (1024 + e)) (s.fab - t)

/-- The request that waits longest for an edge die's SCHED bucket passes when the debt is repaid (R330). -/
def admitNext (s : State) (e : Nat) : State :=
  match (s.edge e).ingressReq, solventAt s (bucketOfEdge e) with
  | (p, k) :: rest, some t =>
    let s := noteEdgeWait ((advFab s t).modEdge e fun x => { x with ingressReq := rest }) e (!rest.isEmpty)
    freeEntry (injectEdge (charge s (bucketOfEdge e)) e (p % 4) k) p 0
  | _, _ => s

/-- INGRESS_REQ_ADMIT (R330) -/
def execIngressReqAdmit (e : EdgeId) (s : State) : Res := .next (admitNext s e)

/-- TRANSPORT_RSP_ARRIVE: the oldest answer of a port goes back to its requester across the fabric (R325, R330, R332). -/
def execTransportRspArrive (p : PortId) (s : State) : Res :=
  match (s.port p).ingress.find? fun e => e.1 == 1 with
  | none => .next s
  | some (_, k) =>
    let s := popIngress s p 1
    if k.bad then .next (freeEntry (s.bump (rtrHdrErrCntAt (xpSite p))) p 1)
    else
      let (_, _, site, agt) := k.peer.getD (0, 0, 0, 0)
      .next (freeEntry (injectEdge s (p / 4) (p % 4) { k with dsite := site, dagt := agt, remote := true, peer := none }) p 1)

/-! ### Timeouts and quarantine (R333, R399) -/

/-- REMOTE_TIMEOUT: a remote request unanswered QC_XTIMEOUT.US after it was sent completes as though answered FENCED, and
its tag is held back for twice that time (R333). -/
def execRemoteTimeout (cl : ClusterId) (write : Bool) (tag : Nat) (s : State) : Res :=
  let c := cl.val
  let x := s.cl c
  match (if write then x.wtags else x.rtags).find? fun t => t.tag == tag && t.remote with
  | none => .next s
  | some t =>
    let s := (advFab s (t.sentAt + 2000 * xtimeoutUs s (cluQuarter c))).bump (seXtimeoutCntAt c)
    let s := if write then ackAtCluster s c { typ := tWrAck, wtag := tag, status := sFenced }
      else landReply s c t (withPoison { typ := tRdData, rtag := tag, status := sFenced } 1024)
    .next (s.modCl c fun x => { x with
      quar := x.quar ++ [{ write := write, tag := tag, until_ := some (s.fab + quarCycles s (cluQuarter c)), absorb := false }] })

/-- TAG_QUARANTINE_END: a tag held back is free again (R333, R399). -/
def execTagQuarantineEnd (cl : ClusterId) (write : Bool) (tag : Nat) (s : State) : Res :=
  match (s.cl cl).quar.find? fun t => t.write == write && t.tag == tag with
  | none => .next s
  | some t =>
    match t.until_ with
    | none => .next s
    | some f => .next ((endWait (advFab s f) cl (if write then 2 else 1)).modCl cl fun x => { x with quar := eraseFirst (fun u => u == t) x.quar })

/-! ### Answers of atomics (R154, R290, R348) -/

/-- An atomic's answer at a cluster: of a replay's swap, or of a COMMIT (R154, R290). -/
def atomAnswer (s : State) (c : Nat) (k : Packet) : State :=
  if (s.cl c).absorbing then s.bump (seAbsorbCntAt c)
  else if k.wtag ≥ 0x20000 then swapAnswer s c k
  else atomAtCluster c k s

/-- Quarter whose endpoint stands on an edge die. -/
def endpointOf (e : Nat) : Option Nat := (List.range 4).find? fun q => controllerEdge q == e

/-- The tag of a host's next access to a control window: the lowest that is free; one that has timed out stays taken for twice
QC_XTIMEOUT.US after its abort (R333, R348). -/
def hostTag (s : State) (q : Nat) : Option Nat :=
  lowestFree (((s.qtr q).atoms.filter fun a => a.2.2 != 6 || decide (s.fab < a.2.1 + 4000 * xtimeoutUs s q)).map (·.1)) 4096

/-- A host's access to a control window takes a tag. -/
def takeHostTag (s : State) (q tag kind : Nat) : State :=
  s.modQtr q fun x => { x with atoms := (x.atoms.filter fun a => a.1 != tag) ++ [(tag, s.fab, kind)] }

/-- The answer of a host's access to a control window: its data; Completer Abort for an AtomicOp that was not carried out; one
that comes after the timeout is discarded (R333, R346, R348). -/
def hostAtomAnswer (s : State) (q : Nat) (k : Packet) : State :=
  match (s.qtr q).atoms.find? fun a => a.1 == k.rtag && a.2.2 != 6 with
  | none => s
  | some (_, _, kind) =>
    let s := s.modQtr q fun x => { x with atoms := x.atoms.filter fun a => a.1 != k.rtag }
    let word := if k.poison then zeros 8 else k.payload.take 8
    if kind = 5 then s
    else if k.status ≠ sOk ∧ kind < 2 then toHost s q (.bar2 q [] 2)
    else toHost s q (.bar2 q (if kind = 3 then word.take 4 else if kind = 4 then word.drop 4 else word) (b2n (k.poison || k.status != sOk)))

/-- The oldest AtomicOp of a quarter that has waited QC_XTIMEOUT.US is aborted; its tag stays taken (R333, R348). -/
def hostAtomTimeout (s : State) (q : Nat) : State :=
  match (s.qtr q).atoms.find? fun a => a.2.2 == 0 with
  | none => s
  | some (a, t, _) =>
    let s := advFab s (t + 2000 * xtimeoutUs s q)
    toHost (s.modQtr q fun x => { x with atoms := (x.atoms.filter fun b => b.1 != a) ++ [(a, s.fab, 6)] }) q (.bar2 q [] 2)

/-- ATOM_RSP: an atomic's answer reaches the cluster, the transport or the endpoint that asked; at an endpoint without an
answer the oldest atomic to another panel has timed out (R154, R331, R348). -/
def execAtomRsp (p : AgentPort) (s : State) : Res :=
  match p with
  | .region r =>
    serve (portOfRegion r) (fun k => k.typ == tAtomRsp) (fun k s =>
      match agentClu k.dsite k.dagt with | none => s | some c => atomAnswer s c k) s
  | .edge e =>
    match ejected s (edgeSite e) 2 fun k => k.typ == tAtomRsp with
    | some k =>
        let s := popEject s (edgeSite e) 2 k.dagt
        .next (if k.peer.isSome then answerAtEdge e k s else match endpointOf e with | some q => hostAtomAnswer s q k | none => s)
    | none => match endpointOf e with | some q => .next (hostAtomTimeout s q) | none => .next s
  | .router _ => .next s

end Sys2Proof.Machine
end

