-- ==== Sys2Proof/Machine/Host.lean ====
section
/-! DEFINITION. The host interface: the memory aperture, DMA engines, messages to the host, the mailbox (R340 to R355,
R407, R479).  An access of the host or of DMA to memory or a scratchpad is one event at its target (DESIGN CHOICE, log
entry 57). -/

namespace Sys2Proof.Machine

/-! ### Targets (R185, R346, R352, R407) -/

/-- Is a quarter's host served: link up, a service level, a partition (R341, R362)? -/
def hostServed (s : State) (q : Nat) : Bool := (s.qtr q).pcieUp && (s.qtr q).svc != 0

/-- The target of an address for the host of a quarter, in the power state of its partition. -/
def hostTarget (s : State) (q a : Nat) (spares : Bool) : Target :=
  match partOf s q with
  | none => .none
  | some p =>
    if (s.qtr q).svc = 0 then .none
    else match resolve s p a spares, (s.qtr q).pstate with
      | _, 3 => .none
      | .spad _ _, 2 => .none
      | t, _ => t

/-- The pieces of a byte range that lie in one block each; the first argument bounds their number. -/
def blockPieces : Nat → Nat → Nat → List (Nat × Nat)
  | 0, _, _ => []
  | n + 1, a, len =>
    if len = 0 then []
    else
      let k := min len (1024 - a % 1024)
      (a, k) :: blockPieces n (a + k) (len - k)

/-- The pieces of a range. -/
def pieces (a len : Nat) : List (Nat × Nat) := blockPieces (len / 1024 + 2) a len

/-- How the router that serves an address serves it now: it and its place (R185, R420). -/
def hostServe (s : State) (q a : Nat) : Option (Nat × Serve) :=
  match hostTarget s q a true with
  | .mem h => match liveStack s h with
    | some n => (serveAt s n a).map fun v => (n, v)
    | none => none
  | _ => none

/-- A block of placement space read for the host: its bytes and check, none when it is poisoned, has no copy left or no
place; it comes after the accesses to the block that have arrived (R189, R193, R194, R272, R346, R420). -/
def hostReadBlock (s : State) (q a : Nat) : Option Bytes × State :=
  match hostServe s q a with
  | none => (none, s)
  | some (n, v) =>
    let s := settleAll (countMerge (noteSolo (noteRequest s n) n v) n (v.so / 1024)) n (v.so / 1024)
    let e := takeEcc s n (v.so / 1024)
    match readBlock e.2 n v e.1.1 e.1.2.1 e.1.2.2.1 e.1.2.2.2 with
    | (some (data, check), s) => (if crc64 data = check then some data else none, s)
    | (none, s) => (none, s)

/-- A block of placement space is written with a check, and its copy with it, after the accesses to it that have arrived (R189,
R203, R271). -/
def hostWriteBlock (s : State) (q a : Nat) (data : Bytes) (check : Nat) : State :=
  match hostServe s q a with
  | none => s
  | some (n, v) =>
    let s := storeBlock (settleAll (noteSolo (noteRequest s n) n v) n (v.so / 1024)) n (v.so / 1024) data check
    match v.copy with
    | some (m, so) => storeBlock s m (so / 1024) data check
    | none => s

/-- A write to part of a block is a read-modify-write; poison stays (R347). -/
def modifyBlock (s : State) (q a : Nat) (bs : Bytes) : State :=
  let r := hostReadBlock s q a
  let o := a % 1024
  let old := r.1.getD (zeros 1024)
  let new := old.take o ++ bs ++ old.drop (o + bs.length)
  hostWriteBlock r.2 q a new (if r.1.isSome then crc64 new else complementCheck (crc64 new))

/-- The host's read-modify-write is counted (R347). -/
def hostModifyBlock (s : State) (q a : Nat) (bs : Bytes) : State := (modifyBlock s q a bs).bump (hstRmwCntAt q)

/-- Is an address in placement space that the host of a quarter reaches? -/
def hostMem (s : State) (q a : Nat) : Bool := match hostTarget s q a true with | .mem _ => true | _ => false

/-- A read of placement space, piece by piece: the bytes, and whether any piece is poisoned or unassigned. -/
def hostReadMem (s : State) (q : Nat) (ps : List (Nat × Nat)) : Bytes × Bool × State :=
  ps.foldl (fun (acc : Bytes × Bool × State) p =>
    let r := hostReadBlock acc.2.2 q p.1
    match r.1 with
    | some d => (acc.1 ++ (d.drop (p.1 % 1024)).take p.2, acc.2.1, r.2)
    | none => (acc.1 ++ zeros p.2, true, r.2)) ([], false, s)

/-! ### BAR2 (R345 to R348) -/

/-- Size of BAR2 in GiB: 1 to 64, as the host has sized it (R345). -/
def bar2Gib (s : State) (q : Nat) : Nat := 2 ^ min 6 (s.qtr q).bar2Log

/-- Does an access lie within BAR2? -/
def inBar2 (s : State) (q ofs len : Nat) : Bool := decide (ofs + len ≤ bar2Gib s q * 2 ^ 30)

/-- The panel address of a BAR2 offset; BASE loses its low bits below the BAR's size (R345). -/
def apertureAddr (s : State) (q ofs : Nat) : Nat := bits (s.reg (hstApBaseAt q)) 13 0 / bar2Gib s q * bar2Gib s q * 2 ^ 30 + ofs

/-- Does the aperture show the panel's own memory (R346)? -/
def apertureOwn (s : State) (q : Nat) : Bool := bits (s.reg (hstApBaseAt q)) 23 14 == panelNo s

/-- An access without a target (R345). -/
def hostUnassigned (s : State) (q : Nat) : State := s.bump (qcUnassignedCntAt q)

/-- An access of the host to a control window goes to its home as an atomic (R200, R346). -/
def hostControl (s : State) (q : Nat) (h : Home) (a kind sub : Nat) (payload : Bytes) : State :=
  match hostTag s q with
  | none => s
  | some tag =>
    let s := takeHostTag s q tag kind
    injectEdge s (controllerEdge q) 4 (withPayload
      { typ := tAtom, cls := cCtrl, sub := sub, addr := a, dsite := stackSite h.stack, dagt := 2, rtag := tag } payload)

/-- BAR2_READ (R345, R346): data, or a poisoned completion of zeros.  An access beyond the BAR is none of the endpoint's. -/
def execBar2Read (q : QuarterId) (ofs : BitVec 36) (len : Fin 4097) (s : State) : Res :=
  let a := apertureAddr s q ofs.toNat
  let n := len.val
  if (s.qtr q).pcieUp = false ∨ n = 0 ∨ inBar2 s q ofs.toNat n = false then .next s
  else if !apertureOwn s q then .next ((hostUnassigned s q).emit (.bar2 q (zeros n) 1))
  else match hostTarget s q a true with
    | .none => .next ((hostUnassigned s q).emit (.bar2 q (zeros n) 1))
    | .spad u o =>
      let r := outsideRead s u o n .host
      .next (r.2.emit (.bar2 q (r.1.getD (zeros n)) (b2n r.1.isNone)))
    | .control h =>
      if (n = 4 ∨ n = 8) ∧ a % n = 0 then
        if stackGone s h.stack then .next (s.emit (.bar2 q (zeros n) 1))
        else .next (hostControl s q h (a / 8 * 8) (if n = 8 then 2 else if a % 8 = 0 then 3 else 4) 0 (zeros 16))
      else .next ((s.bump (hstBadAccCntAt q)).emit (.bar2 q [] 2))
    | .mem _ =>
      let ps := pieces a n
      let s := if ps.all fun p => hostMem s q p.1 then s else hostUnassigned s q
      let r := hostReadMem s q ps
      .next (r.2.2.emit (.bar2 q r.1 (b2n r.2.1)))

/-- BAR2_WRITE (R345 to R347) -/
def execBar2Write (q : QuarterId) (ofs : BitVec 36) (data : Bytes) (s : State) : Res :=
  let a := apertureAddr s q ofs.toNat
  let n := data.length
  if (s.qtr q).pcieUp = false ∨ n = 0 ∨ inBar2 s q ofs.toNat n = false then .next s
  else if !apertureOwn s q then .next (hostUnassigned s q)
  else match hostTarget s q a true with
    | .none => .next (hostUnassigned s q)
    | .spad u o => .next (outsideWrite s u o data false .plain .host).2
    | .control h =>
      if (n = 4 ∨ n = 8) ∧ a % n = 0 then
        if stackGone s h.stack then .next s else .next (hostControl s q h a 5 1 data)
      else .next (s.bump (hstBadAccCntAt q))
    | .mem _ =>
      let ps := pieces a n
      let s := if ps.all fun p => hostMem s q p.1 then s else hostUnassigned s q
      .next (ps.foldl (fun s p =>
        let bs := (data.drop (p.1 - a)).take p.2
        if !hostMem s q p.1 then s
        else if p.2 = 1024 then hostWriteBlock s q p.1 bs (crc64 bs) else hostModifyBlock s q p.1 bs) s)

/-- BAR2_ATOMIC: a CompareAndSwap at a control window's home, or as ATOM to another panel; any other target is an Unsupported
Request on the own panel and unassigned on another (R345, R346, R348). -/
def execBar2Atomic (q : QuarterId) (ofs : BitVec 36) (old new : BitVec 64) (s : State) : Res :=
  let a := apertureAddr s q ofs.toNat
  let body := leBytes 8 old.toNat ++ leBytes 8 new.toNat
  if (s.qtr q).pcieUp = false ∨ inBar2 s q ofs.toNat 8 = false then .next s
  else if apertureOwn s q then
    match hostTarget s q a true with
    | .control h =>
      if a % 8 ≠ 0 then .next (s.emit (.bar2 q [] 3))
      else if stackGone s h.stack then .next (s.emit (.bar2 q [] 2))
      else .next (hostControl s q h a 1 0 body)
    | .none => .next ((hostUnassigned s q).emit (.bar2 q [] 3))
    | _ => .next (s.emit (.bar2 q [] 3))
  else
    let panel := bits (s.reg (hstApBaseAt q)) 23 14
    if !inControl a || a % 8 != 0 || (partOf s q).isNone || (s.qtr q).svc == 0 then
      .next ((hostUnassigned s q).emit (.bar2 q (zeros 8) 1))
    else if xdest s q panel = 0 then .next (s.emit (.bar2 q [] 2))
    else match hostTag s q with
      | none => .next s
      | some tag =>
        let s := takeHostTag s q tag 0
        .next (injectEdge s (controllerEdge q) 4
          (toPanel s q panel (xdest s q panel) tag (withPayload { typ := tAtom, cls := cCtrl, addr := a, rtag := tag } body)))

/-! ### DMA engines (R351, R352, R479) -/

/-- A DMA descriptor's field. -/
def dmaF (d : BitVec 256) (hi lo : Nat) : Nat := bits d.toNat hi lo

/-- A DMA engine of a quarter. -/
def dmaOf (s : State) (q c : Nat) : Dma := findD (s.qtr q).dma c {}

/-- Change a DMA engine. -/
def modDma (s : State) (q c : Nat) (f : Dma → Dma) : State :=
  s.modQtr q fun x => { x with dma := putAt x.dma c (f (findD x.dma c {})) }

/-- Entries of an engine's ring. -/
def dmaSize (s : State) (q c : Nat) : Nat := 2 ^ min 16 (max 6 (s.regField (hstDmaCtlAt q c) 4 0))

/-- DMA_DOORBELL (R351) -/
def execDmaDoorbell (q : QuarterId) (c : Fin 8) (total : BitVec 16) (s : State) : Res :=
  let out := (total.toNat + 0x10000 - s.reg (hstDmaConsAt q c)) % 0x10000
  if (s.qtr q).pcieUp then
    if dmaSize s q c ≤ out then .next (s.bump (hstBadAccCntAt q))
    else .next (modDma s q c fun x => { x with posted := total.toNat })
  else .next s

/-- May an engine take its next descriptor, read as `d`: enabled, one posted, fewer than four in progress, a FENCE met
(R351)? -/
def dmaTakes (s : State) (q c : Nat) (d : BitVec 256) : Bool :=
  let x := dmaOf s q c
  (s.qtr q).pcieUp && bit (s.reg (hstDmaCtlAt q c)) 31 && x.posted != x.fetched && decide (x.ended.length < 4)
    && (!bit d.toNat 5 || x.ended.isEmpty)

/-- A descriptor ends with a CODE and waits for its completion in ring order; one that ends UNASSIGNED is an access refused under
R185 (R351, R352). -/
def dmaEnd (s : State) (q c : Nat) (d : BitVec 256) (code : Nat) : State :=
  let s := modDma s q c fun x => { x with fetched := (x.fetched + 1) % 0x10000, ended := x.ended ++ [(x.fetched, code, bit d.toNat 4)] }
  let s := if code = 3 then hostUnassigned s q else s
  if code = 1 then s else s.bump (hstDmaErrCntAt q)

/-- The target of a descriptor's range: memory, or an offset in a unit's scratchpad. -/
inductive DmaTarget where
  | mem
  | spad (u off : Nat)
  deriving DecidableEq, Repr

/-- The checks of R352 on a descriptor: its target, or the CODE with which it ends. -/
def dmaCheck (s : State) (q : Nat) (d : BitVec 256) : Except Nat DmaTarget :=
  let op := dmaF d 3 0
  let a := dmaF d 171 128
  let len := dmaF d 63 32
  let tagm := dmaF d 7 6
  if dmaF d 191 172 ≠ 0 ∨ dmaF d 15 12 ≠ 0 ∨ op = 0 ∨ 4 < op ∨ tagm = 1 ∨ tagm = 2 ∨ 3 < dmaF d 11 8 ∨ (dmaF d 11 8 ≠ 0 ∧ op ≠ 3)
      ∨ (tagm = 3 ∧ (op ≠ 1 ∨ inPlacementSpace a = true)) then .error 7
  else if len < 16 then .error 4
  else match hostTarget s q a false with
    | .mem _ =>
      if a % 1024 ≠ 0 ∨ len % 1024 ≠ 0 then .error 4
      else if (List.range (len / 1024)).all fun i => (hostServe s q (a + 1024 * i)).isSome then .ok .mem else .error 3
    | .spad u o =>
      let unit := if (s.un u).mode == .normal then 16 else 1024
      if a % unit ≠ 0 ∨ len % unit ≠ 0 then .error 4
      else if o + len ≤ 0x600000 then .ok (.spad u o) else .error 3
    | _ => .error 3

/-- A range is written with the bytes a descriptor brings (R271, R352). -/
def dmaWrite (s : State) (q : Nat) (t : DmaTarget) (a : Nat) (data : Bytes) (set : Bool) : State :=
  match t with
  | .mem => (pieces a data.length).foldl (fun s p =>
      let bs := (data.drop (p.1 - a)).take p.2
      hostWriteBlock s q p.1 bs (crc64 bs)) s
  | .spad u o => (pieces o data.length).foldl (fun s p =>
      (outsideWrite s u p.1 ((data.drop (p.1 - o)).take p.2) set .plain .host).2) s

/-- A range is read: its bytes and whether a piece is poisoned (R352). -/
def dmaRead (s : State) (q : Nat) (t : DmaTarget) (a len : Nat) : Bytes × Bool × State :=
  match t with
  | .mem => hostReadMem s q (pieces a len)
  | .spad u o => (pieces o len).foldl (fun (acc : Bytes × Bool × State) p =>
      let r := outsideRead acc.2.2 u p.1 p.2 .host
      (acc.1 ++ r.1.getD (zeros p.2), acc.2.1 || r.1.isNone, r.2)) ([], false, s)

/-- The next descriptor of an engine, when its OP is the one given: ended with the CODE of a failed check, or run. -/
def dmaRun (op q c : Nat) (d : BitVec 256) (f : DmaTarget → State → Nat × State) (s : State) : Res :=
  if dmaTakes s q c d && (dmaF d 3 0 == op || (op == 1 && (dmaF d 3 0 == 0 || 4 < dmaF d 3 0))) then
    match dmaCheck s q d with
    | .error code => .next (dmaEnd s q c d code)
    | .ok t => let r := f t s; .next (dmaEnd r.2 q c d r.1)
  else .next s

/-- H2P (R352); data is none when the host read failed.  A descriptor of no OP ends here with FORMAT. -/
def execH2p (q : QuarterId) (c : Fin 8) (desc : BitVec 256) (data : Option Bytes) (s : State) : Res :=
  dmaRun 1 q c desc (fun t s => match data with
    | some bs =>
      if bs.length = dmaF desc 63 32 then (1, dmaWrite s q t (dmaF desc 171 128) bs (dmaF desc 7 6 == 3)) else (5, s)
    | none => (5, s)) s

/-- P2H (R352); hostOk is false when a host write failed. -/
def execP2h (q : QuarterId) (c : Fin 8) (desc : BitVec 256) (hostOk : Bool) (s : State) : Res :=
  dmaRun 2 q c desc (fun t s =>
    let r := dmaRead s q t (dmaF desc 171 128) (dmaF desc 63 32)
    let s := r.2.2.emit (.hostWrite q (dmaF desc 127 64) r.1 r.2.1)
    (if !hostOk then 5 else if r.2.1 then 2 else 1, s)) s

/-- DMA_ZERO (R352) -/
def execDmaZero (q : QuarterId) (c : Fin 8) (desc : BitVec 256) (s : State) : Res :=
  dmaRun 4 q c desc (fun t s => (1, dmaWrite s q t (dmaF desc 171 128) (zeros (dmaF desc 63 32)) false)) s

/-- H2P_DECRYPT: 32 bytes of header, then the ciphertext; a slot that is not VALID ends AUTH with nothing written, a failed
tag zeroes the range (R352, R479). -/
def execH2pDecrypt (q : QuarterId) (c : Fin 8) (desc : BitVec 256) (data : Option Bytes) (s : State) : Res :=
  dmaRun 3 q c desc (fun t s =>
    let a := dmaF desc 171 128
    let len := dmaF desc 63 32
    match find? (s.qtr (partQ (partD s q))).keys (dmaF desc 11 8), data with
    | none, _ => (6, s)
    | some _, none => (5, s)
    | some key, some bs =>
      if bs.length = 32 + len then
        let aad := leBytes 8 a ++ leBytes 4 len ++ zeros 4
        let r := gcmDecrypt (leBytes 32 key.toNat) (bs.take 12) aad (bs.drop 32)
        if r.2 = (bs.drop 16).take 16 then (1, dmaWrite s q t a r.1 false) else (6, dmaWrite s q t a (zeros len) false)
      else (5, s)) s

/-- DMA_COMPLETE: the oldest ended descriptor completes, its STATUS word and vector sent while the link is up (R341, R351). -/
def execDmaComplete (q : QuarterId) (c : Fin 8) (s : State) : Res :=
  match (dmaOf s q c).ended with
  | [] => .next s
  | (i, code, irq) :: rest =>
    let base := s.reg (hstDmaBaseAt q c) / 4096 * 4096
    let s := toHost (modDma s q c fun x => { x with ended := rest }) q
      (.hostWrite q (base + 32 * (i % dmaSize s q c) + 24) (leBytes 8 (code + 256)) false)
    let s := s.setReg (hstDmaConsAt q c) ((i + 1) % 0x10000)
    .next (if irq then toHost s q (.msix q c) else s)

/-- An engine takes no more descriptors (R358). -/
def disableDma (s : State) (q c : Nat) : State := s.setField (hstDmaCtlAt q c) 31 31 0

/-- DMA_ENGINE_DISABLE: EN is cleared by the host of the endpoint or by the operator (R358, R474). -/
def execDmaEngineDisable (who : Requester) (q : QuarterId) (c : Fin 8) (s : State) : Res :=
  when_ ((who == .host q && (s.qtr q).pcieUp) || isOperator s who) s (disableDma s q c)

/-! ### Messages (R354, R355) -/

/-- Buffers posted and not used. -/
def freeBuffers (s : State) (q : Nat) : Nat := ((s.qtr q).msgTail + 0x10000 - s.reg (hstMsgProdAt q)) % 0x10000

/-- Buffers a message takes (R354). -/
def msgBuffers (x : Quarter) (m : HostMsg) : Nat := (64 * (1 + b2n x.dropped.isSome) + m.payload.length + 4095) / 4096

/-- May the controller write a message into host buffers now? -/
def msgFits (s : State) (q : Nat) (m : HostMsg) : Bool :=
  (s.qtr q).pcieUp && bit (s.reg (hstMsgCtlAt q)) 31 && decide (msgBuffers (s.qtr q) m ≤ freeBuffers s q)

/-- The first staged message is dropped whole when its deadline has passed without its buffers (R355). -/
def dropOverdue (s : State) (q : Nat) : State :=
  match (s.qtr q).msgs with
  | [] => s
  | m :: rest =>
    match m.deadline with
    | none => s
    | some t => if s.fab ≤ t ∨ msgFits s q m = true then s else dropMsg (s.modQtr q fun x => { x with msgs := rest }) q m.seq

/-- MSG_BUFFER_DOORBELL: one that comes after the clock of a message's deadline does not save it (R354, R355). -/
def execMsgBufferDoorbell (q : QuarterId) (tail : BitVec 16) (s : State) : Res :=
  when_ (s.qtr q).pcieUp s ((dropOverdue s q).modQtr q fun x => { x with msgTail := tail.toNat })

/-- Host address of the ring entry that names the buffer a message begins in (R354). -/
def ringEntry (s : State) (q : Nat) : Nat :=
  s.reg (hstMsgBaseAt q) / 4096 * 4096 + 8 * (s.reg (hstMsgProdAt q) % 2 ^ min 12 (max 4 (s.regField (hstMsgCtlAt q) 4 0)))

/-- The DROPPED record that a message carries first (R355). -/
def droppedBytes : Option (Nat × Nat × Nat) → Bytes
  | none => []
  | some (n, first, last) => leBytes 2 0xFFFF ++ zeros 2 ++ leBytes 4 n ++ leBytes 8 first ++ leBytes 8 last ++ zeros 40

/-- HOST_MSG_PUBLISH: the first staged message goes into its buffers and is published; without enough of them its deadline
is set at the first instant it needs one (R354, R355). -/
def execHostMsgPublish (q : QuarterId) (s : State) : Res :=
  let x := s.qtr q
  match x.msgs with
  | [] => .next s
  | m :: rest =>
    if msgFits s q m then
      let n := msgBuffers x m
      let prod := s.reg (hstMsgProdAt q)
      let s := s.emit (.message q (ringEntry s q) (droppedBytes x.dropped ++ msgHeader m n ++ m.payload))
      let new := (prod + n) % 0x10000
      let s := (s.setReg (hstMsgProdAt q) new).emit (.hostWrite q (s.reg (hstMsgShadowAt q) / 8 * 8) (leBytes 4 new) false)
      .next ((s.modQtr q fun x => { x with msgs := rest, dropped := none }).emit (.msix q 8))
    else match m.deadline with
      | some _ => .next s
      | none => .next (s.modQtr q fun x => { x with msgs := { m with deadline := some (s.fab + 2000000) } :: rest })

/-- HOST_MSG_DROP: at its deadline a message without its buffers is dropped whole (R355). -/
def execHostMsgDrop (q : QuarterId) (s : State) : Res :=
  match (s.qtr q).msgs with
  | [] => .next s
  | m :: rest =>
    match m.deadline with
    | none => .next s
    | some t =>
      if msgFits s q m then .next s
      else
        let s := advFab s t
        .next (dropMsg (s.modQtr q fun x => { x with msgs := rest }) q m.seq)

/-! ### Mailbox (R350, R362, R431) -/

/-- A byte of the mailbox request area (R349). -/
def reqByte (x : Quarter) (o : Nat) : Byte := BitVec.ofNat 8 (findD x.reqArea o 0)

/-- Bytes written into the request area at an offset. -/
def putReqArea (x : Quarter) (o : Nat) (bs : Bytes) : Quarter :=
  { x with reqArea := bs.zipIdx.foldl (fun m b => putAt m (o + b.2) b.1.toNat) x.reqArea }

/-- The header of a request (R350). -/
def requestHeader (tag op len : Nat) : Bytes := leBytes 2 op ++ leBytes 2 tag ++ leBytes 4 len ++ zeros 56

/-- MAILBOX_DOORBELL: the host has written the request area and writes its TAG.  A request is taken unless one is being served; an
unknown OP, a quarter without service and the loss of both managers are answered at once (R350, R362, R431). -/
def execMailboxDoorbell (q : QuarterId) (tag : BitVec 16) (op : BitVec 16) (len : BitVec 32) (payload : Bytes) (s : State) : Res :=
  let x := s.qtr q
  let s := if x.pcieUp then s.modQtr q fun x => putReqArea x 0 (requestHeader tag.toNat op.toNat len.toNat ++ payload) else s
  if x.pcieUp = false then .next s
  else if bit (s.reg (hstMbStatAt q)) 0 then .next (s.bump (hstMbBusyCntAt q))
  else
    let r : MbReq := { tag := tag.toNat, op := op.toNat, payload := payload.take len.toNat, oper := isOperator s (.host q) }
    let s := (s.setField (hstMbStatAt q) 0 0 1).modQtr q fun x => { x with mb := some r }
    .next (if x.svc = 0 ∨ x.pmLost = true then mbRefuse s q 1
      else if op.toNat = 0 ∨ 7 < op.toNat ∨ 4032 < len.toNat ∨ payload.length < len.toNat then mbReply s q 1 []
      else s)

/-- DEFECT_MAP: the current map as a long reply (R386). -/
def execDefectMap (q : QuarterId) (s : State) : Res :=
  match mbOf s q 6, activeMgr s with
  | some _, some _ => .next (mbReply s q 0 (dmapBytes s))
  | _, _ => .next s

/-- PCIE_LINK_DOWN: an endpoint's link goes down (R341). -/
def execPcieLinkDown (q : QuarterId) (s : State) : Res :=
  .next ((s.modQtr q fun x => { x with pcieUp := false }).setReg (hstStatAt q) 0)

end Sys2Proof.Machine
end

