-- ==== Sys2Proof/Machine/Tenant.lean ====
section
/-! DEFINITION. Tenant clear (R480 to R482). -/

namespace Sys2Proof.Machine

/-! ### The request (R480) -/

/-- The quarters a TENANT_CLEAR request names: the host's partition, or the operator's QMASK of one partition or of free
quarters; the cause that refuses it otherwise. -/
def clearMask (s : State) (q : Nat) (r : MbReq) : Except Nat Nat :=
  let m := natAt r.payload 0 1
  if r.payload.length ≠ 8 ∨ 15 < m ∨ natAt r.payload 1 7 ≠ 0 then .error 7
  else if r.oper then
    if 0 < m ∧ ((s.parts.any fun p => p.qmask == m) || (maskQuarters m).all fun k => (partOf s k).isNone) = true then .ok m else .error 7
  else if m ≠ 0 then .error 7
  else match partOf s q with
    | some p => .ok p.qmask
    | none => .error 8

/-- The cause that refuses a clear of the quarters of a mask, if any (R480). -/
def clearCause (s : State) (m : Nat) : Option Nat :=
  if (maskQuarters m).any fun k => (partD s k).reset.isSome || (s.qtr k).pmoving then some 3
  else if (maskQuarters m).any fun k => (s.qtr k).pstate == 2 || (s.qtr k).pstate == 3 then some 4
  else none

/-- TENANT_CLEAR: refused with its cause, or the lock is asked for (R480). -/
def execTenantClear (q : QuarterId) (s : State) : Res :=
  match mbOf s q 5, activeMgr s with
  | some r, some _ =>
    if noService s q then .next (mbRefuse s q 1)
    else match clearMask s q r with
      | .error c => .next (mbRefuse s q c)
      | .ok m =>
        match clearCause s m with
        | some c => .next (mbRefuse s q c)
        | none => .next (requestLock s { code := 7, qmask := m, arg := 0, reply := some q.val })
  | _, _ => .next s

/-! ### The steps (R481) -/

/-- SEC_CLEAR_STAT of a quarter takes a STATE and a PASS. -/
def setClearStat (s : State) (q state pass : Nat) : State :=
  (s.setField secClearStatAt (8 * q + 2) (8 * q) state).setField secClearStatAt (8 * q + 6) (8 * q + 4) pass

/-- A granted clear begins: key slots erased, DMA engines disabled, an Eclipse with ZERO of the partition (R481). -/
def beginTenantClear (s : State) (m : Nat) (reply : Option Nat) : State :=
  let s := (maskQuarters m).foldl (fun s q =>
    let s := (List.range 8).foldl (fun s c => disableDma s q c) ((List.range 4).foldl (fun s n => eraseKey s q n) s)
    setClearStat (s.modQtr q fun x => { x with clr := 1, clrPass := 0, clrAt := s.fab, clrReply := none }) q 1 0) s
  let s := s.modQtr (lowestQuarter m) fun x => { x with clrReply := reply }
  match s.parts.find? fun p => p.qmask == m with
  | some p => startEclipse s p 1 true none 1
  | none => stopMask s m

/-- The quarters that clear together with quarter q. -/
def clearingMask (s : State) (q : Nat) : Nat :=
  ((List.range 4).map fun k =>
    if ((s.qtr k).clr == 1 || (s.qtr k).clr == 2) && (s.qtr k).clrAt == (s.qtr q).clrAt then 2 ^ k else 0).sum

/-- Registers of a cluster, of its units and of its shaper at their reset values; counters are kept (R9, R481).  Which
registers return to reset is the model's reading (DESIGN CHOICE, log entry 59). -/
def resetBlocks (s : State) (blocks : List Nat) : State :=
  { s with regs := s.regs.filter fun r => !(blocks.any fun b => decide (b ≤ r.1 ∧ r.1 < b + 0x10000))
      || (match regAt r.1 with | some (row, _) => row.ctr | none => true) }

/-- The register blocks of the clusters and edge dies of a mask. -/
def maskBlocks (m : Nat) : List Nat :=
  (allClusters m).flatMap (fun c => [seqBlk c, seBlk c, queBlk c, shpBlk c] ++ (List.range 4).map fun i => unitBlk (4 * c + i))
    ++ (maskEdges m).map fun e => edgeArea e + 0x20000

/-- 40 µs: the stream is removed with the partition; registers, buckets and serials return to reset (R481). -/
def removeStream (s : State) (m : Nat) : State :=
  let s := resetBlocks { s with parts := s.parts.filter fun p => p.qmask != m } (maskBlocks m)
  let s := (allClusters m).foldl (fun s c =>
    let s := s.modCl c fun x => { x with seq := .idle, absorbing := false, inFrame := false, workEnd := none }
    (List.range 3).foldl (fun s k => s.setBucket (bucketOf c k) {}) s) s
  let s := (maskEdges m).foldl (fun s e => s.setBucket (bucketOfEdge e) {}) s
  (maskQuarters m).foldl (fun s q => ((s.setReg (qcSsSerialAt q) 0).setReg (qcSsStatAt q) 0).setReg (qcSsApplyAt q) 0) s

/-- Stacks of a mask that a clear can write. -/
def clearableStacks (s : State) (m : Nat) : List Nat :=
  (List.range 128).filter fun n => bit m (stackQuarter n) && !stackGone s n

/-- Is a stack the one that holds its field's firmware well (R376)? -/
def isWellStack (n : Nat) : Bool := wellStack (stackField n) == n

/-- Every block of a stack but the firmware well becomes zeros with a correct check (R376, R481). -/
def clearStack (s : State) (n : Nat) : State :=
  if isWellStack n then
    let s := s.clear (stackAt n 0) 0x8ED000000
    let s := s.clear (stackAt n (checkOff 0)) (8 * (0x8ED000000 / 1024))
    s.clear (stackAt n (checkOff (0x8EE000000 / 1024))) (0x1000000000 - checkOff (0x8EE000000 / 1024))
  else s.clear (stackAt n 0) 0x1000000000

/-- Every clearable stack of a mask is written whole: a pattern that nothing can read before the zeros of the last pass, or
those zeros with correct checks. -/
def patternStacks (s : State) (m : Nat) : State :=
  (clearableStacks s m).foldl (fun s n => (clearStack s n).modMr n fun x => { x with dir := [] }) s

/-- A row of stack n that failed its read-back, named by a stack-local offset in it, takes a spare row of its bank and is recorded in NOR;
a bank with none left withdraws the stack (R202, R420, R481). -/
def readBackRow (s : State) (n so : Nat) : State :=
  let t := repairRow n s (rowKey so)
  if findD (s.mr n).bankRepairs (bankOfRow (rowKey so)) 0 < Config.spareRows then t else withdrawStack t n false 10

/-- A read-back ends: the rows of the clear's stacks that failed are repaired (R481). -/
def readBack (s : State) (m : Nat) (failing : List (StackId × Nat)) : State :=
  failing.foldl (fun s r => if bit m (stackQuarter r.1) && !stackGone s r.1 then readBackRow s r.1 r.2 else s) s

/-- The clear ends: zeros everywhere, the quarters are free, the lock is released (R481). -/
def endClear (s : State) (m : Nat) : State :=
  let s := releaseLock (patternStacks s m) 7 m
  (maskQuarters m).foldl (fun s q =>
    let un := (quarterStacks q).any (stackGone s)
    (setClearStat (s.modQtr q fun x => { x with clr := 3 }) q 3 0).setField secClearStatAt (8 * q + 7) (8 * q + 7) (b2n un)) s

/-- Every quarter of a mask goes on to a pass. -/
def nextPass (s : State) (m pass stat : Nat) : State :=
  (maskQuarters m).foldl (fun s q => setClearStat (s.modQtr q fun x => { x with clrPass := pass }) q 2 stat) s

/-- TENANT_CLEAR_PASS: the next instant of R481's table: 40 µs, 24 ms, 12.024 s, 12.072 s, 24.096 s and 24.120 s after the
start.  The units have been zeroed at 20.5 µs by the absorb window's end. -/
def execTenantClearPass (q : QuarterId) (failing : List (StackId × Nat)) (s : State) : Res :=
  let x := s.qtr q
  let m := clearingMask s q
  match activeMgr s, x.clr, x.clrPass with
  | some _, 1, _ =>
    let part := s.parts.find? fun p => p.qmask == m
    if (match part with | some p => (match p.reset with | some r => r.stage == 2 | none => false) | none => true) then
      let s := if part.isNone then zeroSpares (zeroMask s m true) m else s
      let s := releaseQuarantine (advFab s (x.clrAt + 80000)) m
      let s := refreshSusp (removeStream s m)
      let s := match (s.qtr (lowestQuarter m)).clrReply with | some k => mbReply s k 0 [] | none => s
      .next (nextPass (modQuarters s m fun x => { x with clr := 2, clrReply := none }) m 1 1)
    else .next s
  | some _, 2, 1 => .next (nextPass (patternStacks (advFab s (x.clrAt + 48000000)) m) m 2 2)
  | some _, 2, 2 => .next (nextPass (readBack (advFab s (x.clrAt + 24048000000)) m failing) m 3 3)
  | some _, 2, 3 => .next (nextPass (patternStacks (advFab s (x.clrAt + 24144000000)) m) m 4 4)
  | some _, 2, 4 => .next (nextPass (readBack (advFab s (x.clrAt + 48192000000)) m failing) m 5 5)
  | some _, 2, 5 => .next (endClear (advFab s (x.clrAt + 48240000000)) m)
  | _, _, _ => .next s

end Sys2Proof.Machine
end

