-- ==== Sys2Proof/Machine/Maintenance.lean ====
section
/-! DEFINITION. Maintenance activities: requests, evaluation of the lock, patrol scrub, retest, recalibration, firmware
update (R201, R212, R410 to R414, R432, R472). -/

namespace Sys2Proof.Machine

/-! ### MAINT_REQUEST (R414, R432) -/

/-- A MAINT_REQUEST: activity, quarters the requester names, target; whether a byte that must be 0 is not. -/
structure MaintReq where
  act : Nat
  mask : Nat
  arg : Nat
  stray : Bool
  deriving DecidableEq, Repr

/-- The payload of a MAINT_REQUEST; QMASK is the operator's, a host acts on its partition. -/
def readMaint (s : State) (q : Nat) (r : MbReq) : MaintReq :=
  let b1 := natAt r.payload 1 1
  { act := natAt r.payload 0 1, mask := if r.oper then b1 % 16 else qmaskOf s q, arg := natAt r.payload 4 4
    stray := natAt r.payload 2 2 != 0 || 15 < b1 || (!r.oper && b1 != 0) || r.payload.length != 8 }

/-- May die d be retested: the spare or a reserve of its field, or withdrawn with its router running (R432)? -/
def retestable (s : State) (d : Nat) : Bool :=
  let y := s.die d
  (y.state == 1 && (s.fld (dieField d)).spare == some d) || y.state == 3 || (y.state == 2 && (s.rtr (dieSite d)).running)

/-- The quarters of a recalibration's target: of both ends of a link, or of a port (R410, R414). -/
def recalMask (arg : Nat) : Nat :=
  if arg < 760 then (linkQuarters arg).foldl (fun m q => m ||| 2 ^ q) 0
  else if 0x1000 ≤ arg ∧ arg < 0x1040 then 2 ^ edgeQuarter ((arg - 0x1000) / 4)
  else 0

/-- A MAINT_REQUEST for an activity asks for the lock, or is refused; one of no activity is refused with TARGET (R414). -/
def maintRequest (act : Nat) (scope : State → MaintReq → Option Nat) (q : Nat) (s : State) : Res :=
  match mbOf s q 3, activeMgr s with
  | some r, some _ =>
    let x := readMaint s q r
    if x.act = act ∨ (act = 2 ∧ x.act ≠ 5) then
      if noService s q then .next (mbRefuse s q 1)
      else if x.stray ∨ x.act ≠ act then .next (mbRefuse s q 7)
      else match scope s x with
        | some m =>
          if (m &&& x.mask) ≠ m then .next (mbRefuse s q 7)
          else .next (requestLock s { code := act, qmask := m, arg := x.arg, reply := some q })
        | none => .next (mbRefuse s q 7)
    else .next s
  | _, _ => .next s

/-- MAINT_REQUEST_RETEST (R414, R432) -/
def execMaintRequestRetest (q : QuarterId) (s : State) : Res :=
  maintRequest 2 (fun s x => if x.arg < 256 ∧ retestable s x.arg = true then some (2 ^ dieQuarter x.arg) else none) q s

/-- MAINT_REQUEST_RECAL (R212, R414) -/
def execMaintRequestRecal (q : QuarterId) (s : State) : Res :=
  maintRequest 5 (fun _ x => if recalMask x.arg = 0 then none else some (recalMask x.arg)) q s

/-! ### What a grant begins (R410) -/

/-- A maintenance activity runs from now. -/
def addMaint (s : State) (code arg m : Nat) : State :=
  s.modMgr fun x => { x with maint := x.maint ++ [{ code := code, arg := arg, startFab := s.fab, qmask := m }] }

/-- A retest begins: runs on the die fail, its units enter WIDE_TEST, its links leave service (R116, R432). -/
def startRetest (s : State) (d m : Nat) : State :=
  let s := (List.range 4).foldl (fun s k =>
    endRun (s.modCl (4 * d + k) fun x => { x with replay := x.replay.map fun r => { r with bad := true } }) (4 * d + k)) s
  let s := (List.range 16).foldl (fun s i => startClear s (16 * d + i) (some .wideTest)) s
  dropLinks (addMaint s 2 d m) (dieSite d) 1

/-- A recalibration begins: the link reads RECAL, or the port retrains (R212, R316). -/
def startRecal (s : State) (arg m : Nat) : State :=
  let s := addMaint s 5 arg m
  if arg < 760 then linkChanged (changeLink s arg { s.link arg with state := 5 }) arg
  else
    let p := arg - 0x1000
    let s := if (s.port p).state = 2 ∨ (s.port p).state = 4 then loseLink s p else s
    startTraining s p

/-- What a granted request begins. -/
def beginActivity (s : State) (r : LockReq) : State :=
  let ok (s : State) : State := match r.reply with | some q => mbReply s q 0 [] | none => s
  match r.code with
  | 1 => modQuarters s r.qmask fun x => { x with scrubReq := none }
  | 2 => ok (startRetest s r.arg r.qmask)
  | 3 => ok (startSpareIn s r.arg)
  | 4 =>
    let s := if 16 ≤ r.arg then s.bump pwrGovChangeCntAt else s
    let s := if 32 ≤ r.arg then s.bump pwrPreemptCntAt else s
    startEqx s (max (r.arg % 16) (lowestPoint s)) r.stream
  | 5 => ok (startRecal s r.arg r.qmask)
  | 6 => s.setReg secFwStatAt 1
  | _ => beginTenantClear s r.qmask r.reply

/-- What a refusal with BUSY_CONFLICT leaves (R201, R303, R412, R472). -/
def refuseActivity (s : State) (r : LockReq) : State :=
  let s := recordConflict s r
  match r.code with
  | 1 => modQuarters s r.qmask fun x => { x with scrubReq := some s.fab }
  | 4 => match r.stream with
    | some q => modPend s q fun p => { p with triedAt := s.fab }
    | none => s
  | 6 => s.setReg secFwStatAt 6
  | _ => match r.reply with | some q => mbReply s q 3 [] | none => s

/-- One request is granted or refused (R412). -/
def decideLock (s : State) (r : LockReq) : State :=
  if blockersIn s r = 0 then beginActivity ((holdLock s r.code r.qmask).bump pmMaintGrantCntAt) r
  else refuseActivity s r

/-- Scrub grants whose stacks have all been told to stop are released (R201). -/
def releaseIdleScrub (s : State) : State :=
  (List.range 4).foldl (fun s q =>
    if bit (s.qtr q).held 0 && (quarterStacks q).all fun n => s.regField (mrScrubCtlAt n) 7 0 == 0 then
      (releaseLock s 1 (2 ^ q)).modQtr q fun x => { x with scrubReq := some s.fab }
    else s) s

/-- MAINT_LOCK_EVALUATE: at the next multiple of 100 ns the waiting requests are decided (R412). -/
def execMaintLockEvaluate (s : State) : Res :=
  match activeMgr s with
  | none => .next s
  | some _ =>
    let s := releaseIdleScrub s
    let l := lockOrder s.mgr.locks
    if l.isEmpty then .next s
    else
      let s := (advMgr s ((mgrNs s + 99) / 100 * 100)).modMgr fun m => { m with locks := [] }
      .next (l.foldl decideLock s)

/-! ### Patrol scrub (R201) -/

/-- SCRUB_LOCK_RETRY: 1 ms after BUSY_CONFLICT, or after a grant has ended, the manager asks for the scrub grant (R201,
R408). -/
def execScrubLockRetry (q : QuarterId) (s : State) : Res :=
  match activeMgr s, (s.qtr q).scrubReq with
  | some _, some t =>
    let x := s.qtr q
    if x.pstate = 3 ∨ (x.pmoving = true ∧ x.pstage = 3) ∨ x.svc = 0 then .next s
    else if (quarterStacks q).all fun n => s.regField (mrScrubCtlAt n) 7 0 == 0 then .next s
    else
      let s := (advFab s (t + 2000000)).modQtr q fun x => { x with scrubReq := none }
      .next (requestLock s { code := 1, qmask := 2 ^ q.val, arg := 0, reply := none })
  | _, _ => .next s

/-- Has every stack of a quarter that scrubs ended its pass? -/
def scrubPassed (s : State) (q : Nat) : Bool :=
  (quarterStacks q).all fun n => (s.mr n).state != 2 || s.regField (mrScrubStatAt n) 25 0 == 0

/-- SCRUB_READ: patrol scrub reads the next block of a stack, while the quarter's maintenance lock grants it (activity 1
of R411), the period is not 0 and nothing else waits at the block's slice (R190, R201).  The grant ends with the quarter's pass (DESIGN CHOICE, log entry 60). -/
def execScrubRead (st : StackId) (first second copy1 copy2 : Ecc) (s : State) : Res :=
  let q := stackQuarter st
  if bit (s.qtr q).held 0 ∧ (s.mr st).state = 2 ∧ s.regField (mrScrubCtlAt st) 7 0 ≠ 0
      ∧ sliceFree (s.mr st) (bits (s.reg (mrScrubStatAt st)) 25 0) 3 = true then
    let s := scrubNext (scrubBlock s st (bits (s.reg (mrScrubStatAt st)) 25 0) first second copy1 copy2) st
    .next (if scrubPassed s q then (releaseLock s 1 (2 ^ q)).modQtr q fun x => { x with scrubReq := some s.fab } else s)
  else .next s

/-! ### Recalibration ends (R209 to R212, R316) -/

/-- The link of a recalibration returns with the lanes or wires that pass: failed ones are replaced by spares (R209 to
R211). -/
def endLinkRecal (s : State) (l failedLo failedHi : Nat) : State :=
  let x := s.link l
  let st := linkReturn s l (max failedLo failedHi)
  let was := linkReturn s l (max x.failedLo x.failedHi)
  let s := returnLink s l { state := st, failedLo := failedLo, failedHi := failedHi }
  let s := if st ≠ was then countLink s l st else s
  if x.failedLo = failedLo ∧ x.failedHi = failedHi then s else newGeneration s

/-- LANE_RECAL_DONE: within 20 µs the link is back and the grant released; a port's recalibration ends when its training
has ended (R212, R316, R412). -/
def execLaneRecalDone (t : RecalTarget) (failedLo failedHi : Nat) (s : State) : Res :=
  let arg := match t with | .link l => l.val | .port p => 0x1000 + p.val
  match s.mgr.maint.find? fun m => m.code == 5 && m.arg == arg, activeMgr s with
  | some m, some _ =>
    let done (s : State) : State :=
      refreshSusp (releaseLock (s.modMgr fun x => { x with maint := x.maint.filter fun y => y != m }) 5 m.qmask)
    match t with
    | .link l => .next (done (endLinkRecal s l failedLo failedHi))
    | .port p => .next (if portTrains (s.port p) then s else done s)
  | _, _ => .next s

/-! ### Firmware update (R472) -/

/-- The cause for which an image is refused, if any: the order of R466, then the settings schema (R472). -/
def imageCause (s : State) (x : Image) : Option Nat :=
  let b := (activeMgr s).getD false
  if x.magic ≠ 0x4C564657 then some 1
  else if x.step ≠ bits (s.reg pmIdAt) 15 8 then some 4
  else if !keyOk s b x.keyIdx (sha384 x.pubKey) then some 2
  else if !ecdsaVerify x.pubKey (sha384 x.signed) (beNat (x.sig.take 48)) (beNat (x.sig.drop 48)) then some 1
  else if sha384 x.body ≠ beNat x.bodyHash then some 1
  else if 64 < x.svn ∨ x.svn < (s.inst b).count then some 3
  else if s.sec.schema < x.schemaMin ∨ x.schemaMax < s.sec.schema then some 5
  else none

/-- The bank an instance does not run takes an image, becomes preferred and loses its FAILED mark (R472). -/
def writeBank (x : Image) (i : Instance) : Instance :=
  let fw := (sha384 x.manifest, sha384 x.firmware)
  let hdr := sha384 (x.signed ++ x.sig ++ zeros 240)
  if i.bankB then { i with
    svnA := x.svn, verA := x.version, schemaA := (x.schemaMin, x.schemaMax), keyA := x.keyIdx, hdrA := hdr, fwA := fw, imgA := some x
    preferB := false, failedA := false }
  else { i with
    svnB := x.svn, verB := x.version, schemaB := (x.schemaMin, x.schemaMax), keyB := x.keyIdx, hdrB := hdr, fwB := fw, imgB := some x
    preferB := true, failedB := false }

/-- The image that an update has fetched is kept, and none once it ends. -/
def setFetched (s : State) (x : Option Image) : State := { s with sec := { s.sec with fetched := x } }

/-- An update ends: SEC_FW_STAT reads DONE, or REFUSED with a CAUSE, and the lock is released (R472). -/
def endUpdate (s : State) (stat : Nat) : State := releaseLock ((setFetched s none).setReg secFwStatAt stat) 6 15

/-- The end of the step that SEC_FW_STAT.STATE names (R472 steps 3 to 7): 1 FETCH brings the image, 2 VERIFY checks it, 3 WRITE
puts it into the bank that is not running of both NORs. -/
def updateStep (st : Nat) (image : Option Image) (norOk : Bool) (s : State) : State :=
  match st, s.sec.fetched with
  | 1, _ => match image with
    | none => endUpdate s (6 * 256 + 5)
    | some x => (setFetched s (some x)).setReg secFwStatAt 2
  | 2, some x => match imageCause s x with
    | some c => endUpdate s (c * 256 + 5)
    | none => s.setReg secFwStatAt 3
  | 3, some x =>
    if norOk then endUpdate { s with instA := writeBank x s.instA, instB := writeBank x s.instB } 4
    else endUpdate s (7 * 256 + 5)
  | _, _ => s

/-- FW_UPDATE: the operator's command asks for the lock; once granted, the steps end one after another, each as such a command
with what the fetch brought and whether the NORs took the bank (R472; DESIGN CHOICE, log entry 132). -/
def execFwUpdate (who : Requester) (image : Option Image) (norOk : Bool) (s : State) : Res :=
  if operMgr s who then
    let st := s.regField secFwStatAt 3 0
    if 1 ≤ st ∧ st ≤ 3 then .next (updateStep st image norOk s)
    else if s.mgr.locks.any fun r => r.code == 6 then .next s
    else .next (requestLock s { code := 6, qmask := 15, arg := 0, reply := none })
  else .next s

end Sys2Proof.Machine
end

