-- ==== Sys2Proof/Machine/Reduction.lean ====
section
/-! DEFINITION. Exact in-network reduction: records, accumulation and readback (R254 to R270). -/

namespace Sys2Proof.Machine

/-- One accumulator word (R258). -/
structure AccWord where
  sum : Int
  nan : Bool
  pinf : Bool
  ninf : Bool
  deriving DecidableEq, Repr

/-- The word as its 16 bytes hold it. -/
def accOf (v : Nat) : AccWord := ⟨toSigned 125 (v / 8), bit v 2, bit v 1, bit v 0⟩

/-- The 128-bit value of a word; SUM wraps modulo 2^125 (R269). -/
def accNat (a : AccWord) : Nat := ofSigned 125 a.sum * 8 + b2n a.nan * 4 + b2n a.pinf * 2 + b2n a.ninf

/-- What one row adds to the counters: saturated, inexact, underflowed, non-finite. -/
structure RedCount where
  sat : Nat
  inexact : Nat
  uflow : Nat
  nonfin : Nat
  deriving DecidableEq, Repr

/-- The sum of two counts. -/
def RedCount.plus (a b : RedCount) : RedCount :=
  ⟨a.sat + b.sat, a.inexact + b.inexact, a.uflow + b.uflow, a.nonfin + b.nonfin⟩

/-- One input brought into the window and added (R260, R261). -/
def addInput (ebase : Int) (span : Nat) (a : AccWord) (x : FV) : AccWord × RedCount :=
  match x with
  | .nan => ({ a with nan := true }, ⟨0, 0, 0, 1⟩)
  | .inf n => (if n then { a with ninf := true } else { a with pinf := true }, ⟨0, 0, 0, 1⟩)
  | .fin n m e =>
    let sh := e - ebase
    let q := if 0 ≤ sh then m * 2 ^ sh.toNat else m / 2 ^ (-sh).toNat
    let lost := decide (sh < 0) && m % 2 ^ (-sh).toNat != 0
    let sign (k : Nat) : Int := if n then -(k : Int) else k
    if q > 2 ^ span - 1 then ({ a with sum := a.sum + sign (2 ^ span - 1) }, ⟨1, 0, 0, 0⟩)
    else ({ a with sum := a.sum + sign q }, ⟨0, b2n lost, b2n (lost && q == 0), 0⟩)

/-- The format a RED names: FP32, BF16 or FP16 (R152). -/
def redFormat (c : Nat) : Format := match c with | 0 => .fp32 | 1 => .bf16 | _ => .fp16

/-- Bytes of one element of a row. -/
def redBytes (width : Nat) : Nat := if width = 0 then 4 else 2

/-- Elements of a row (R254). -/
def redElems (width : Nat) : Nat := if width = 0 then 256 else 512

/-- The rounding of one accumulator to a format, and whether it lies beyond the format (R265). -/
def readback (f : Format) (rtz : Bool) (ebase : Int) (a : AccWord) : Nat × Nat :=
  let sb := 2 ^ f.signBit
  if a.nan || (a.pinf && a.ninf) then (match f with | .fp32 => 0x7FC00000 | .fp16 => 0x7E00 | _ => 0x7FC0, 0)
  else if a.pinf then (f.maxCode + 1, 0)
  else if a.ninf then (f.maxCode + 1 + sb, 0)
  else
    let n := decide (a.sum < 0)
    let r := roundMag (f.layout.2.1 + 1) f.lsbMin (if rtz then .rtz else .rne) a.sum.natAbs ebase
    let c := encodeMag f.layout.2.1 f.lsbMin r.1 r.2
    let s := b2n n * sb
    if c > f.maxCode then ((if rtz then f.maxCode else f.maxCode + 1) + s, 1) else (c + s, 0)

/-- Bytes of a record (R255). -/
def recordBytes (width : Nat) : Nat := if width = 0 then 4096 else 8192

/-- Is a block marked as poisoned: the complement of its correct check is stored (R192)? -/
def blockMarked (s : State) (n beta : Nat) : Bool :=
  storedCheck s n beta == complementCheck (crc64 (blockBytes s n beta))

/-- The blocks of a record. -/
def recordBlocks (r : RedRange) (off : Nat) : List Nat := (List.range (recordBytes r.width / 1024)).map fun i => off / 1024 + i

/-- A record becomes poisoned: every block is stored as zeros with the complement of their correct check, the same whatever rows had
been added before (R262, R263; DEDUCED, log entry 146). -/
def poisonRecord (s : State) (n : Nat) (blocks : List Nat) : State :=
  blocks.foldl (fun s b => storeBlock s n b (zeros 1024) (complementCheck (crc64 (zeros 1024)))) s

/-- A record's blocks are written with correct checks (R271). -/
def writeRecord (s : State) (n off : Nat) (bs : Bytes) : State :=
  ((List.range (bs.length / 1024)).foldl (fun s i =>
    let d := (bs.drop (1024 * i)).take 1024
    storeBlock s n (off / 1024 + i) d (crc64 d)) s)

/-- The records of part of a stack are zeroed (R257): a zeroed block reads as memory that nothing has written. -/
def zeroBlocks (s : State) (n off len : Nat) : State :=
  (s.clear (stackAt n off) len).clear (stackAt n (checkOff (off / 1024))) (8 * (len / 1024))

/-- MR_RED_POISON_LOG records an event (R270). -/
def logRed (s : State) (n cause : Nat) (p : Partition) (r : RedRange) (a : Nat) : State :=
  let ix := ((List.range p.cfg.reds.length).zip p.cfg.reds).findSome? fun e => if e.2 = r then some e.1 else none
  let g := (a - r.base) / 1024 / scopeCount r.scope
  s.setReg (mrRedPoisonLogAt n) (cause * 2 ^ 62 + 2 ^ 61 + (ix.getD 0) * 2 ^ 53 + partQ p * 2 ^ 51 + g % 2 ^ 26)

/-- One block of a record is read, with its re-read: one that fails twice counts as uncorrectable and as a poisoned record block
(R193, R262). -/
def readRecordBlock (s : State) (n b : Nat) (e1 e2 : Ecc) : Bool × State :=
  let k := readTwice s n b e1 e2
  if k.1 then k else (false, (logBlock (k.2.bump (mrCheckUncorrCntAt n)) n 1 b).bump (mrRedRecPoisonCntAt n))

/-- The blocks of a record are read in turn; what on-die ECC reports of block i stands at place i of the two lists.  Have all passed?
-/
def readRecordBlocks (s : State) (n : Nat) (blocks : List Nat) (e1 e2 : List Ecc) : Bool × State :=
  ((List.range blocks.length).zip blocks).foldl (fun (t : Bool × State) b =>
    let k := readRecordBlock t.2 n b.2 (e1.getD b.1 .clean) (e2.getD b.1 .clean)
    (t.1 && k.1, k.2)) (true, s)

/-- The engine reads a record: is it poisoned?  A block that fails its check twice poisons it (R193, R262). -/
def recordPoisoned (s : State) (n : Nat) (p : Partition) (r : RedRange) (a : Nat) (blocks : List Nat) (e1 e2 : List Ecc) :
    Bool × State :=
  if blocks.any (blockMarked s n) then (true, s)
  else
    let t := readRecordBlocks s n blocks e1 e2
    if t.1 then (false, t.2) else (true, logRed (poisonRecord t.2 n blocks) n 3 p r a)

/-- A record comes into the engine's cache of 64, where the one that has gone unserved longest makes room (R266; DESIGN CHOICE for the
order, log entry 24). -/
def cacheRecord (s : State) (n off : Nat) : State :=
  s.modMr n fun x => { x with redCache := (off :: x.redCache.filter (· != off)).take 64 }

/-- The range and record of a RED row at router n; none when the row belongs to no range in force, or its format to another
width (R259, R268). -/
def redAt (s : State) (n : Nat) (p : Packet) : Option (Partition × RedRange × Nat) :=
  match partOf s (stackQuarter n) with
  | none => none
  | some part =>
    match redRangeOf part p.addr with
    | none => none
    | some r =>
      if (p.rfmt = 0) ≠ (r.width = 0) ∨ (recordAt r p.addr).1 ≠ n then none else some (part, r, (recordAt r p.addr).2)

/-- Is a row turned away at router n for the width of its range alone (R259, R267)? -/
def widthWrong (s : State) (n : Nat) (p : Packet) : Bool :=
  match (partOf s (stackQuarter n)).bind fun part => redRangeOf part p.addr with
  | some r => (p.rfmt == 0) != (r.width == 0)
  | none => false

/-- A row that is turned away: NACK_ADDR for a remote one, counted here when the width is the cause, UNASSIGNED for a local one (R267,
R268, R270). -/
def refuseRow (s : State) (n : Nat) (p : Packet) : State :=
  let st := if p.remote then sNack else sUnassigned
  let s := if p.remote && widthWrong s n p then s.bump (mrRedNackCntAt n) else s
  injectMr s n 1 (statusAnswer p st)

/-- An ACCUMULATE row at the engine (R260 to R262). -/
def accumulate (n : Nat) (e1 e2 : List Ecc) (p : Packet) (s : State) : State :=
  let s := noteRequest s n
  match redAt s n p with
  | none => refuseRow s n p
  | some (part, r, off) =>
    let s := cacheRecord s n off
    let blocks := recordBlocks r off
    let ack (s : State) : State := injectMr s n 1 (replyTo p tWrAck sOk)
    if !payloadOk p then
      ack (logRed ((poisonRecord s n blocks).bump (mrRedInPoisonCntAt n)) n (if p.poison then 2 else 1) part r p.addr)
    else
      let k := recordPoisoned s n part r p.addr blocks e1 e2
      if k.1 then ack k.2
      else
        let s := k.2
        let rec_ := s.read (stackAt n off) (recordBytes r.width)
        let f := redFormat p.rfmt
        let w := redBytes r.width
        let outs := (List.range (redElems r.width)).map fun e =>
          addInput r.ebase r.span (accOf (leNat ((rec_.drop (16 * e)).take 16))) (decodeElem f (leNat ((p.payload.drop (w * e)).take w)))
        let s := writeRecord s n off (outs.flatMap fun o => leBytes 16 (accNat o.1))
        let c := (outs.map (·.2)).foldl RedCount.plus ⟨0, 0, 0, 0⟩
        ack (((((s.bump (mrRedRowCntAt n)).bumpBy (mrRedSatCntAt n) c.sat).bumpBy (mrRedInexactCntAt n) c.inexact).bumpBy
          (mrRedUflowCntAt n) c.uflow).bumpBy (mrRedNonfinCntAt n) c.nonfin)

/-- A READ or READ_CLEAR row at the engine (R262, R264, R265). -/
def readRow (n : Nat) (e1 e2 : List Ecc) (clear : Bool) (p : Packet) (s : State) : State :=
  let s := noteRequest s n
  match redAt s n p with
  | none => refuseRow s n p
  | some (part, r, off) =>
    let k := recordPoisoned (cacheRecord s n off) n part r p.addr (recordBlocks r off) e1 e2
    let s := k.2
    let rec_ := s.read (stackAt n off) (recordBytes r.width)
    let s := if clear then zeroBlocks s n off (recordBytes r.width) else s
    if k.1 then injectMr s n 1 (poisonReply p sOk)
    else
      let outs := (List.range (redElems r.width)).map fun e =>
        readback (redFormat p.rfmt) (p.rrm == 1) r.ebase (accOf (leNat ((rec_.drop (16 * e)).take 16)))
      let s := s.bumpBy (mrRedRbOvfCntAt n) (outs.map (·.2)).sum
      injectMr s n 1 (withPayload (replyTo p tRdData sOk) (outs.flatMap fun o => leBytes (redBytes r.width) o.1))

/-- ACCUMULATE_ROW (R260) -/
def execAccumulateRow (st : StackId) (first second : List Ecc) (s : State) : Res :=
  serve (portOfStack st) (fun p => p.typ == tRed && p.rop == 0) (accumulate st first second) s

/-- READ_ROW (R265) -/
def execReadRow (st : StackId) (first second : List Ecc) (s : State) : Res :=
  serve (portOfStack st) (fun p => p.typ == tRed && p.rop == 1) (readRow st first second false) s

/-- READ_CLEAR_ROW (R265) -/
def execReadClearRow (st : StackId) (first second : List Ecc) (s : State) : Res :=
  serve (portOfStack st) (fun p => p.typ == tRed && p.rop == 2) (readRow st first second true) s

end Sys2Proof.Machine
end

