-- ==== Sys2Proof/Machine/Snapshots.lean ====
section
/-! DEFINITION. Counter snapshots: what is latched, the records of the dies, the slot in host memory (R356, R488 to R493). -/

namespace Sys2Proof.Machine

/-! ### Records in the order of the catalogue (R488, R492) -/

/-- n counters 8 bytes apart from an address. -/
def counterRow (s : State) (a n : Nat) : List Nat := (List.range n).map fun i => s.ctr (a + 8 * i)

/-- A counter of the manager as a snapshot carries it: a PM_ counter as a read returns it (R490), PWR_FDA_TIME_CNT with the
edges of an alert that stands. -/
def mgrCounter (s : State) (a : Nat) : Nat :=
  if a < pmBlk + 0x10000 then pmCountView s a
  else if a = pwrFdaTimeCntAt then min (s.ctr a + fdaEdges s) 0xFFFFFFFFFFFF
  else s.ctr a

/-- n counters of the manager 8 bytes apart. -/
def mgrRow (s : State) (a n : Nat) : List Nat := (List.range n).map fun i => mgrCounter s (a + 8 * i)

/-- n counters 8 bytes apart from an offset of a block whose views count the clocks of waits that have not ended. -/
def viewRow (view : Nat → Nat) (off n : Nat) : List Nat := (List.range n).map fun i => min (view (off + 8 * i)) 0xFFFFFFFFFFFF

/-- Words of a cluster within its die's record. -/
def cluWords (s : State) (c : Nat) : List Nat :=
  viewRow (seqView s c) (seqOverrunCntAt c - seqBlk c) 12 ++ viewRow (seView s c) (seInflightFullCntAt c - seBlk c) 8
    ++ counterRow s (queMsgCntAt c) 5 ++ viewRow (shpView s c) (shpWaitCnt0At c - shpBlk c) 3 ++ List.replicate 4 0

/-- Words of a compute die's record. -/
def dieWords (s : State) (d : Nat) : List Nat :=
  counterRow s (rtrDeflCntAt (dieSite d)) 13 ++ counterRow s (pwrHdrShortCntAt d) 4 ++ [s.ctr (thmTripCntAt d)]
    ++ [s.ctr (gtBeaconMissCntAt (keeperGtBlk (dieSite d)))] ++ List.replicate 13 0
    ++ ((List.range 4).flatMap fun k => cluWords s (4 * d + k))
    ++ (List.range 16).flatMap fun u => viewRow (unitView s (16 * d + u)) (unitCsumFailCntAt (16 * d + u) - unitBlk (16 * d + u)) 14 ++ [0, 0]

/-- Words of a stack's record. -/
def stackWords (s : State) (n : Nat) : List Nat :=
  counterRow s (rtrDeflCntAt (stackSite n)) 13 ++ counterRow s (mrMergeHitCntAt n) 27

/-- The quarter whose controller an edge die carries. -/
def controlledBy (e : Nat) : Option Nat := (List.range 4).find? fun q => controllerEdge q == e

/-- Words of an edge die's record. -/
def edgeWords (s : State) (e : Nat) : List Nat :=
  counterRow s (rtrDeflCntAt (edgeSite e)) 13 ++ [s.ctr (gtBeaconMissCntAt (keeperGtBlk (edgeSite e))), min (shpView s (1024 + e) 0x100) 0xFFFFFFFFFFFF, 0]
    ++ ((List.range 4).flatMap fun p => counterRow s (rtrXpFecCeCntAt (edgeSite e) p) 9)
    ++ (match controlledBy e with
        | some q => counterRow s (qcUnassignedCntAt q) 9 ++ counterRow s (hstBadAccCntAt q) 6
        | none => List.replicate 15 0)
    ++ List.replicate 5 0

/-- The record of the die or stack at a router. -/
def counterRecord (s : State) (site : Nat) : Bytes :=
  (match placeOf site with
    | .die d => dieWords s d
    | .stack n => stackWords s n
    | .edge e => edgeWords s e).flatMap (leBytes 8)

/-- Size of the record of a router in bytes. -/
def recordSize (site : Nat) : Nat := match placeOf site with | .die _ => 3328 | .stack _ => 320 | .edge _ => 576

/-- Place of a router's record in the slot, and its VALID bit (R492). -/
def recordPlace (site : Nat) : Nat × Nat :=
  let q := siteQuarter site
  let base := 0x1000 + 0x38000 * q
  match placeOf site with
  | .die d => let i := (quarterDies q).idxOf d; (base + 0x80 + 0xD00 * i, i)
  | .stack n => let j := (quarterStacks q).idxOf n; (base + 0x34080 + 0x140 * j, 64 + j)
  | .edge e => let k := (quarterEdges q).idxOf e; (base + 0x36880 + 0x240 * k, 96 + k)

/-- Routers whose dies and stacks lie in the quarters of a mask. -/
def recordSites (m : Nat) : List Nat := (List.range 400).filter fun i => bit m (siteQuarter i)

/-! ### CNT_REC packets -/

/-- Bytes of a record in one CNT_REC packet, behind the sampling instant.  The spec gives the packet no layout (DESIGN CHOICE,
log entry 65). -/
def pieceSize : Nat := 1008

/-- The CNT_REC packets of a router's record, for the snapshot of an instant. -/
def recordPackets (s : State) (site at_ : Nat) : List Packet :=
  let b := counterRecord s site
  let to_ := edgeSite (controllerEdge (siteQuarter site))
  (List.range ((b.length + pieceSize - 1) / pieceSize)).map fun i =>
    { withPayload (mgmtTo to_ 4 7) (leBytes 16 at_ ++ (b.drop (pieceSize * i)).take pieceSize) with addr := i }

/-- The keeper or register agent of a router sends its record (R491). -/
def sendRecord (s : State) (site at_ : Nat) : State := (recordPackets s site at_).foldl (fun s p => fromRegAgent s site p) s

/-- CNT_LATCH: a memory router receives the manager's latch packet, latches its counters and sends them (R491). -/
def execCntLatch (st : StackId) (s : State) : Res :=
  serveMgmt (stackSite st) 6 (fun p s => sendRecord s (stackSite st) (leNat p.payload)) s

/-! ### The slot (R356, R492) -/

/-- Host address of slot n's byte at an offset. -/
def slotAddr (s : State) (q n off : Nat) : Nat :=
  s.reg (hstSnapBaseAt q) / 4096 * 4096 + 0x100000 * (n % 2 ^ (s.regField (hstSnapCtlAt q) 3 0)) + off

/-- The controller writes bytes into its slot, while the link is up (R341). -/
def slotWrite (s : State) (q n off : Nat) (bs : Bytes) : State := toHost s q (.hostWrite q (slotAddr s q n off) bs false)

/-- Bytes 0x08 to 0x27 of the slot. -/
def slotHead (s : State) (at_ frame m : Nat) : Bytes :=
  leBytes 8 (timeWord at_) ++ leBytes 8 frame ++ leBytes 8 (s.reg pmDmapGenAt) ++ leBytes 1 m ++ leBytes 1 1
    ++ leBytes 2 (mgrEpoch s) ++ leBytes 4 0x100000

/-- The panel section. -/
def panelSection (s : State) : Bytes :=
  ([s.ctr (gtPpsMissCntAt panelGtBlk)] ++ mgrRow s pmFabSuspCntAt 2 ++ mgrRow s pmWarmRstCntAt 4 ++ mgrRow s pmSpareInCntAt 6
    ++ mgrRow s pwrFdaCntAt 7 ++ mgrRow s thmInletLostCntAt 1 ++ [s.ctr secFallbackCntAt]).flatMap (leBytes 8)

/-- The partition section. -/
def partSection (s : State) (m : Nat) : Bytes :=
  let q := lowestQuarter m
  (mgrRow s (pmHoldCntAt q) 8 ++ mgrRow s (pmEclipseCntAt q) 3
    ++ (List.range 4).map fun k => if bit m k then s.ctr (secDbgAccCntAt k) else 0).flatMap (leBytes 8)

/-- The instant at which quarter q's next snapshot falls due, with its frame: an edge whose index is a multiple of FRAMES, or
a whole millisecond (R356). -/
def snapDue (s : State) (q : Nat) (p : Partition) : Option (Nat × Nat) :=
  let n := s.regField (hstSnapCtlAt q) 23 8
  if p.tick ∧ n ≠ 0 ∧ p.period ≠ 0 then
    if frameIndex p % n = 0 ∧ (s.qtr q).snapAt ≠ p.lastEdge ∧ p.joinTo.isNone = true then some (p.lastEdge, frameIndex p) else none
  else
    let ms := qcNs s q / 1000000 * 1000000
    some (if (s.qtr q).snapAt < ms then ms else ms + 1000000, 0)

/-- A snapshot begins at its instant: the slot's SEQ reads all ones, the panel's and partition's counters are latched, dies send
their records, the manager tells the memory routers; a snapshot of the partition at the same instant shares them (R491,
R492). -/
def beginSnap (s : State) (q : Nat) (p : Partition) (at_ frame : Nat) : State :=
  let n := (s.qtr q).snapSeq
  let shared := (maskQuarters p.qmask).findSome? fun k => (s.qtr k).snap.filter fun x => x.at_ == at_
  let op : SnapOp := match shared with
    | some x => { x with seq := n }
    | none => { at_ := at_, fab := s.fab, seq := n, qmask := p.qmask, head := slotHead s at_ frame p.qmask
                panel := panelSection s, part := partSection s p.qmask }
  let s := s.modQtr q fun x => { x with snap := some op, snapSeq := x.snapSeq + 1, snapAt := at_ }
  let s := slotWrite s q n 0 (List.replicate 8 0xFF)
  match shared with
  | some _ => s
  | none =>
    (recordSites p.qmask).foldl (fun s i =>
      if (s.rtr i).running then
        match placeOf i with
        | .stack _ => fromMgr s (withPayload (mgmtTo i 3 6) (leBytes 16 at_))
        | _ => sendRecord s i at_
      else s) s

/-- SNAPSHOT_DUE: a snapshot falls due; it is skipped while the previous one is being written or the link is down (R341,
R356). -/
def execSnapshotDue (q : QuarterId) (s : State) : Res :=
  match partOf s q with
  | none => .next s
  | some p =>
    if bit (s.reg (hstSnapCtlAt q)) 31 = true ∧ (s.qtr q).svc ≠ 0 then
      match snapDue s q p with
      | none => .next s
      | some (t, frame) =>
        let s := advNs s (edgeSite (controllerEdge q)) t
        if (s.qtr q).snap.isSome ∨ (s.qtr q).pcieUp = false then
          .next ((s.modQtr q fun x => { x with snapSeq := x.snapSeq + 1, snapAt := t }).bump (hstSnapSkipCntAt q))
        else .next (beginSnap s q p t frame)
    else .next s

/-- The record of a router that has arrived whole. -/
def wholeRecord (x : SnapOp) (site : Nat) : Option Bytes :=
  let n := (recordSize site + pieceSize - 1) / pieceSize
  let l := (List.range n).filterMap fun i => (x.pieces.find? fun p => p.1 == site && p.2.1 == i).map (·.2.2)
  if l.length = n then some l.flatten else none

/-- The snapshot of quarter q ends: what has not come is written as zeros, then the sections, VALID bits, and SEQ last (R492,
R493). -/
def endSnap (s : State) (q : Nat) (x : SnapOp) : State :=
  let sites := recordSites x.qmask
  let s := sites.foldl (fun s i => match wholeRecord x i with
    | some _ => s
    | none => slotWrite s q x.seq (recordPlace i).1 (zeros (recordSize i))) s
  let s := (maskQuarters x.qmask).foldl (fun s k =>
    let valid := ((sites.filter fun i => siteQuarter i == k && (wholeRecord x i).isSome).map fun i => 2 ^ (recordPlace i).2).sum
    slotWrite s q x.seq (0x1000 + 0x38000 * k) (leBytes 128 valid)) s
  let s := slotWrite (slotWrite (slotWrite s q x.seq 8 x.head) q x.seq 0x40 x.panel) q x.seq 0x140 x.part
  (slotWrite s q x.seq 0 (leBytes 8 x.seq)).modQtr q fun y => { y with snap := none }

/-- A piece of a record reaches the snapshot of quarter q: a whole record is written, and the last one ends the snapshot;
what comes after the 500 µs counts as not arrived (R493). -/
def takePiece (s : State) (q site i at_ : Nat) (bs : Bytes) : State :=
  match (s.qtr q).snap.filter fun x => x.at_ == at_ && decide (s.fab ≤ x.fab + 1000000) && bit x.qmask (siteQuarter site) with
  | none => s
  | some x =>
    let x := { x with pieces := x.pieces ++ [(site, i, bs)] }
    let s := s.modQtr q fun y => { y with snap := some x }
    let s := match wholeRecord x site with
      | some b => slotWrite s q x.seq (recordPlace site).1 b
      | none => s
    if (recordSites x.qmask).all fun k => !(s.rtr k).running || (wholeRecord x k).isSome then endSnap s q x else s

/-- CNT_REC: a quarter controller receives a die's record; the controllers of one partition share what they receive (R491,
R493; DESIGN CHOICE, log entry 65). -/
def execCntRec (q : QuarterId) (s : State) : Res :=
  serve (portOfEdge (controllerEdge q)) (fun p => p.typ == tMgmt && p.sub == 7 && p.dagt == 4) (fun p s =>
    (maskQuarters (qmaskOf s q)).foldl (fun s k => takePiece s k p.ssite p.addr (leNat (p.payload.take 16)) (p.payload.drop 16)) s) s

/-- SNAPSHOT_RECORD_TIMEOUT: 500 µs after the sampling instant (R493). -/
def execSnapshotRecordTimeout (q : QuarterId) (s : State) : Res :=
  match (s.qtr q).snap with
  | none => .next s
  | some x => .next (endSnap (advFab s (x.fab + 1000000)) q x)

end Sys2Proof.Machine
end

