-- ==== Sys2Proof/Machine/Registers.lean ====
section
/-! DEFINITION. Register space as a requester sees it: views of every block, access codes, register packets, DBGACC, reads of
global time (R4, R5, R8, R40, R41, R182, R184, R232, R342 to R344, R473, R474, R483 to R487). -/

namespace Sys2Proof.Machine

/-! ### Registers of the dies (R205, R237, R270, R339, R392, R461) -/

/-- RTR_PORTp of a router (R237). -/
def portWord (s : State) (site p : Nat) : Nat :=
  if isLinkPort site p then
    match linkIndex site p with
    | none => 0
    | some l => b2n (portAbsent s site p false) * 2 ^ 31 + (s.link l).state * 2 ^ 24 + (linkKind l).code * 2 ^ 22
        + lanesInService s l * 2 ^ 16 + sparesInUse s l
  else 0

/-- RTR_STAT of a router (R237). -/
def rtrStatView (site : Nat) : Nat :=
  siteQuarter site * 2 ^ 18 + (match placeOf site with | .die _ => 0 | .stack _ => 1 | .edge _ => 2) * 2 ^ 16 + site

/-- A register of an RTR_ block; the port registers stand in those of edge dies (R237, R339). -/
def routerView (s : State) (site off : Nat) : Nat :=
  if off = 0 then rtrStatView site
  else if 0x10 ≤ off ∧ off < 0x20 then portWord s site ((off - 0x10) / 4)
  else if 0x1000 ≤ off then
    match placeOf site with
    | .edge e => if off % 256 = 0 then xpStatView s (4 * e + (off - 0x1000) / 256) else s.reg (rtrBlk site + off)
    | _ => 0
  else s.reg (rtrBlk site + off)

/-- Does a placement range use a stack (R187)? -/
def placeUses (r : PlaceRange) (n : Nat) : Bool :=
  (scopeStacks r.scope r.target).contains n || (r.mirror && r.scope == 0 && r.partner == n)

/-- A register of an MR_ block (R205, R270).  CACHED is the number of records in the engine's cache (log entry 24). -/
def mrView (s : State) (n off : Nat) : Nat :=
  let cfg := cfgOf s (stackQuarter n)
  if off = 0 then
    let k := match cfg with | some c => c.places.countP fun r => placeUses r n | none => 0
    stackQuarter n * 2 ^ 16 + k % 256 * 2 ^ 8 + (s.mr n).state
  else if off = 0x28 then
    let k := match cfg with | some c => c.reds.countP fun r => (scopeStacks r.scope r.target).contains n | none => 0
    b2n (zeroingAt s n) * 2 ^ 16 + (s.mr n).redCache.length * 2 ^ 8 + k % 128
  else s.reg (mrBlk n + off)

/-- A register of a compute die's PWR_ and THM_ monitors. -/
def monitorView (s : State) (d off : Nat) : Nat :=
  if off = 0x40 ∨ off = 0x44 then rgnStatView s d ((off - 0x40) / 4) else s.reg (dmonBlk d + off)

/-- Slots that await their copy: dirty ones, and those of the sets taken that have not been read (R425, R434). -/
def awaitingCopy (x : UnitState) : Nat := ((x.sets.flatMap (·.2.1)).foldl insSorted x.dirty).length

/-- A register of a unit's block, with BROKEN of its Shadow pairs and DIRTY (R434). -/
def unitRegView (s : State) (u off : Nat) : Nat :=
  if off = 0x500 then
    putBits (putBits (s.reg (unitBlk u + off)) 16 16 (b2n (shadowBroken s u))) 12 0 (awaitingCopy (s.un u))
  else unitView s u off

/-- A register of a quarter controller: QC_SS_APPLY of a PENDING stream shows the apply edge as it stands now, which held steps and time
sets move (R303, R313). -/
def qcView (s : State) (a : Nat) : Nat :=
  match s.mgr.pends.find? fun p => a == qcSsApplyAt p.q && p.raise != 1 with
  | some p => timeWord (applyEdge s p)
  | none => s.reg a

/-- The register of a die that begins at a panel address, as a requester reads it (R182, R184, R343). -/
def dieView (s : State) (req a : Nat) : Nat :=
  let o := a % 0x10000000
  let i := (a - registerBase) / 0x10000000
  if i < 256 then
    if o < 0x10000 then routerView s (dieSite i) o
    else if o < 0x20000 then keeperView s (dieSite i) req (o - 0x10000)
    else if o < 0x30000 then monitorView s i (o - 0x20000)
    else if o < 0x1400000 then
      let c := 4 * i + (o / 0x100000 - 16)
      let k := o % 0x100000
      if k < 0x10000 then seqView s c k
      else if k < 0x20000 then seView s c (k - 0x10000)
      else if k < 0x30000 then queView s c (k - 0x20000)
      else shpView s c (k - 0x30000)
    else unitRegView s (16 * i + (o / 0x100000 - 32)) (o % 0x100000)
  else if i < 384 then
    if o < 0x10000 then mrView s (i - 256) o else routerView s (stackSite (i - 256)) (o - 0x10000)
  else
    if o < 0x10000 then routerView s (edgeSite (i - 384)) o
    else if o < 0x20000 then keeperView s (edgeSite (i - 384)) req (o - 0x10000)
    else if o < 0x30000 then shpView s (1024 + (i - 384)) (o - 0x20000)
    else qcView s a

/-- Router of the die whose register area holds an address (R182). -/
def siteOfReg (a : Nat) : Nat :=
  let i := (a - registerBase) / 0x10000000
  if i < 256 then dieSite i else if i < 384 then stackSite (i - 256) else edgeSite (i - 384)

/-- Is an address in the register area of a die? -/
def inDieArea (a : Nat) : Bool := registerBase ≤ a && a < managerArea

/-- Is it in the area of the active manager? -/
def inMgrArea (a : Nat) : Bool := managerArea ≤ a && a < managerArea + 0x10000000

/-- Are the block's registers there: QC_ and HST_ stand only on edge dies with a quarter controller (R343)? -/
def blockThere (a : Nat) : Bool :=
  let i := (a - registerBase) / 0x10000000
  i < 384 || a % 0x10000000 < 0x30000 || (controlledBy (i - 384)).isSome

/-- The 32-bit word of a die's registers at an address; an offset without a register reads 0 (R184). -/
def dieWord (s : State) (req a : Nat) : Nat :=
  match blockAt a with
  | none => 0
  | some (rows, b) => if blockThere a then wordOf rows (fun o => dieView s req (b + o)) (a - b) else 0

/-- Is a word GT_NSEC of a keeper? -/
def isKeeperNsec (a : Nat) : Bool := inDieArea a && a == keeperGtBlk (siteOfReg a)

/-- A read of a die's register word: GT_NSEC latches the seconds (R40). -/
def readDieWord (s : State) (req a : Nat) : Nat × State :=
  let s := if isKeeperNsec a then latchSeconds s (siteOfReg a) req else s
  (dieWord s req a, s)

/-! ### Registers of the active manager (R205, R293, R392, R415, R434, R460, R487, R509) -/

/-- PM_INTEG_STAT of a quarter's partition (R293). -/
def integWord (p : Partition) : Nat :=
  b2n p.hold * 2 ^ 15 + b2n p.halted * 2 ^ 14 + p.cfg.policy % 4 * 2 ^ 12 + b2n p.cfg.unres * 2 ^ 11 + p.held.length

/-- PM_RESET_STAT of a quarter's partition (R415). -/
def resetWord (p : Partition) : Nat :=
  match p.reset with
  | some r => b2n (r.kind != 1 && r.stage == 0) * 8 + r.kind % 8
  | none => 0

/-- A byte or 16-bit group for each quarter that a view may see. -/
def perQuarter (width : Nat) (see : Nat → Bool) (f : Nat → Nat) : Nat :=
  ((List.range 4).map fun q => if see q then f q * 2 ^ (width * q) else 0).sum

/-- PM_SPARE_STATUSf (R434). -/
def spareWord (s : State) (f : Nat) : Nat :=
  let x := s.fld f
  x.proc * 2 ^ 60 + b2n x.spare.isSome * 2 ^ 59 + x.spare.getD 0 * 2 ^ 51 + x.old * 2 ^ 43 + x.logical * 2 ^ 39 + x.mirrorFrame % 2 ^ 32

/-- What a view shows: all of it (the operator's), or what a host may see (R474): its own partition's quarters, and whether it
has a partition. -/
structure View where
  oper : Bool
  own : Nat
  part : Bool
  deriving DecidableEq, Repr

/-- The operator's view. -/
def operView : View := ⟨true, 15, true⟩

/-- The host view of a quarter (R474). -/
def hostView (s : State) (q : Nat) : View := ⟨false, match partOf s q with | some p => p.qmask | none => 0, (partOf s q).isSome⟩

/-- A value that a view may or may not see. -/
def hide (b : Bool) (v : Nat) : Nat := if b then v else 0

/-- A register of the PM_ block (R293, R392, R415, R434). -/
def pmView (s : State) (v : View) (off : Nat) : Nat :=
  let part (f : Partition → Nat) (q : Nat) : Nat := match partOf s q with | some p => f p | none => 0
  if off = 0 then pmIdView s
  else if off = 0x100 then putBits (s.reg pmOpStatAt) 15 12 (pminNow s)
  else if off = 0x210 then hide v.part (s.reg pmFabSuspAt)
  else if off = 0x230 then hide v.part (perQuarter 16 (fun _ => true) (part integWord))
  else if off = 0x238 then hide (bit v.own (s.regField pmReplayLastAt 37 36)) (s.reg pmReplayLastAt)
  else if off = 0x280 then bootView s ((activeMgr s).getD false) (dayProgress s)
  else if off = 0x288 then perQuarter 8 (fun _ => true) fun q => (s.qtr q).svc % 4
  else if off = 0x2A0 then perQuarter 8 (fun _ => true) fun q =>
    b2n (s.qtr q).pmoving * 16 + (s.qtr q).ptarget % 4 * 4 + (s.qtr q).pstate % 4
  else if off = 0x2A8 then hide v.part (perQuarter 8 (fun _ => true) (part resetWord))
  else if off = 0x2B0 then perQuarter 8 (fun _ => true) fun q => (s.qtr q).held % 128
  else if 0x400 ≤ off ∧ off < 0x600 then hide (bit v.own (off / 0x40 % 4)) (pmCountView s (pmBlk + off))
  else if 0x700 ≤ off ∧ off < 0x780 then hide (bit v.own (fieldQuarter ((off - 0x700) / 8))) (spareWord s ((off - 0x700) / 8))
  else if off = 0x780 then failoverView s
  else if 0x300 ≤ off then pmCountView s (pmBlk + off)
  else s.reg (pmBlk + off)

/-- GT_STAT of the panel-wide block: the manager's own time is always locked; PPS_OK tells of an edge in the last whole second
(R39, R41). -/
def panelStat (s : State) : Nat :=
  let seen := match s.mgr.ppsNs with | some t => mgrNs s < t + 1000000000 | none => false
  b2n (activeMgr s == some true) * 4 + b2n seen * 2 + 1

/-- A register of the panel-wide GT_ block, as a requester sees it (R41, R509). -/
def panelGtView (s : State) (req q off : Nat) : Nat :=
  let snap := findD s.mgr.panelSnap req 0
  if off = 0 then mgrNs s % 1000000000
  else if off = 4 then snap % 2 ^ 32
  else if off = 8 then snap / 2 ^ 32
  else if off = 0x38 then panelStat s
  else if off = 0x40 then tickView (partOf s q)
  else if off = 0x48 then frameView (partOf s q)
  else s.reg (panelGtBlk + off)

/-- A register of the manager's PWR_ block (R460). -/
def pwrView (s : State) (v : View) (off : Nat) : Nat :=
  if off = 0 then pwrStatView s
  else if off = 0x20 ∨ (0x100 ≤ off ∧ off < 0x138) ∨ off = 0x400 then hide v.oper (s.reg (pwrBlk + off))
  else if 0x200 ≤ off ∧ off < 0x400 then hide (bit v.own ((off - 0x200) / 0x80)) (s.reg (pwrBlk + off))
  else if off = 0x508 then mgrCounter s (pwrBlk + off)
  else s.reg (pwrBlk + off)

/-- A register of the SEC_ block (R474, R487). -/
def secView (s : State) (v : View) (q off : Nat) : Nat :=
  if off = 0 then secStatView s
  else if off = 8 then secSvnView s
  else if off = 0x10 then secSettingsView s
  else if 0x100 ≤ off ∧ off < 0x200 then hide (bit v.own ((off - 0x100) / 0x40)) (s.reg (secBlk + off))
  else if 0xF00 ≤ off ∧ off < 0xF20 then
    hide (v.oper || bit v.own ((off - 0xF00) / 8) || (!v.part && q == (off - 0xF00) / 8)) (s.ctr (secBlk + off))
  else if v.oper then
    if off = 0x40 then secKeysView s
    else if off = 0x308 then b2n s.sec.traceWrap * 2 ^ 31 + s.sec.traceNext % 2 ^ 14
    else s.reg (secBlk + off)
  else 0

/-- A byte of the map buffer (R235): a record of a router outside the view's partition is all zeros (R236). -/
def mapByte (s : State) (v : View) (o : Nat) : Byte :=
  match s.mgr.glints.find? fun g => g.slot == o / 0x4000 with
  | none => 0
  | some g =>
    let k := o % 0x4000
    let head := leBytes 8 g.seq ++ leBytes 8 (g.at_ / 1000000000 % 2 ^ 48) ++ leBytes 4 (g.at_ % 1000000000)
    if k < 0x40 then head.getD k 0
    else
      let i := (k - 0x40) / 32
      match find? g.recs i with
      | some ws => if v.oper || bit v.own (siteQuarter i) then (ws.flatMap (leBytes 4)).getD ((k - 0x40) % 32) 0 else 0
      | none => 0

/-- The 32-bit word of the active manager's area at an address, as a requester of a quarter sees it through a view (R182, R235,
R469, R474, R486); with no active manager it reads 0 (R431). -/
def mgrWord (s : State) (v : View) (req q a : Nat) : Nat :=
  let o := a - managerArea
  let word (f : Nat → Byte) (base : Nat) : Nat := leNat ((List.range 4).map fun i => f (o - base + i))
  if (activeMgr s).isNone then 0
  else if 0x60000 ≤ o ∧ o < 0x70000 then hide v.oper (word (windowByte s) 0x60000)
  else if 0x140000 ≤ o ∧ o < 0x240000 then
    hide v.oper (bits (findD s.sec.trace ((o - 0x140000) / 64) 0) (8 * (o % 64) + 31) (8 * (o % 64)))
  else if 0x1000000 ≤ o ∧ o < 0x1100000 then word (mapByte s v) 0x1000000
  else match blockAt a with
    | none => 0
    | some (rows, b) => wordOf rows (fun f =>
        if o < 0x10000 then pmView s v f
        else if o < 0x20000 then panelGtView s req q f
        else if o < 0x30000 then pwrView s v f
        else if o < 0x40000 then hide (v.oper || (f != 0 && f != 0x10)) (s.reg (thmBlk + f))
        else secView s v q f) (a - b)

/-- A read of GT_NSEC of the panel-wide block latches the seconds, 48 bits of them (R35, R40, R41). -/
def latchPanel (s : State) (req : Nat) : State := s.modMgr fun m => { m with panelSnap := putAt m.panelSnap req (mgrNs s / 1000000000 % 2 ^ 48) }

/-- A read of a word of the manager's area. -/
def readMgrWord (s : State) (v : View) (req q a : Nat) : Nat × State :=
  let s := if a = panelGtBlk ∧ (activeMgr s).isSome = true then latchPanel s req else s
  (mgrWord s v req q a, s)

/-- Two words of an 8-byte access are read together (R4). -/
def readWords (eight : Bool) (a : Nat) (f : State → Nat → Nat × State) (s : State) : Nat × State :=
  let lo := f s a
  if eight then
    let hi := f lo.2 (a + 4)
    (lo.1 + 2 ^ 32 * hi.1, hi.2)
  else lo

/-! ### Writes (R5, R8) -/

/-- Has the manager set HST_MB_STAT.DONE of a quarter in this very fabric cycle (R6)? -/
def doneNow (s : State) (a : Nat) : Bool :=
  (List.range 4).any fun q => a == hstMbStatAt q && (s.qtr q).mbDoneAt == some s.fab

/-- A written word clears the W1C bits of the register it lies in; where the hardware sets a bit in the same fabric cycle, the bit
ends set (R6). -/
def clearW1c (s : State) (rows : List RegRow) (blk off v : Nat) : State :=
  match rowAtOff rows off with
  | none => s
  | some r =>
    let b := rowStart r off
    let sh := 8 * (off - b)
    let ones := v &&& bits r.w1c (sh + 31) sh
    if ones = 0 ∨ doneNow s (blk + b) = true then s
    else
      let old := s.reg (blk + b)
      s.setReg (blk + b) (putBits old (sh + 31) sh (bits old (sh + 31) sh &&& (0xFFFFFFFF ^^^ ones)))

/-- A written word of a register block: RW bits take it, W1C bits clear where it has ones (unless the view writes RW fields
only), everything else ignores it (R5, R8, R474). -/
def writeWord (s : State) (rwOnly : Bool) (a v : Nat) : State :=
  match blockAt a with
  | none => s
  | some (rows, b) =>
    let s := writeRwWord s rows b (a - b) v
    if rwOnly then s else clearW1c s rows b (a - b) v

/-- Is an address a register that a host view reads only (R205, R339, R474): MR_SCRUB_CTL, and QC_XACCEPT? -/
def hostReadsOnly (a : Nat) : Bool :=
  let i := (a - registerBase) / 0x10000000
  (256 ≤ i && i < 384 && a % 0x10000000 / 4 == 4)
    || (384 ≤ i && 0x30600 ≤ a % 0x10000000 && a % 0x10000000 < 0x30680)

/-- A written word of a die's register. -/
def writeDieWord (s : State) (oper rwOnly : Bool) (a v : Nat) : State :=
  if !blockThere a || (!oper && hostReadsOnly a) then s else writeWord s rwOnly a v

/-- An 8-byte write is two words. -/
def writeWords (eight : Bool) (a v : Nat) (f : State → Nat → Nat → State) (s : State) : State :=
  let s := f s a (v % 2 ^ 32)
  if eight then f s (a + 4) (v / 2 ^ 32 % 2 ^ 32) else s

/-- A byte that the settings window takes: an item's, SCHEMA excepted (R469). -/
def windowTakes (o : Nat) : Bool := (8 ≤ o && o < 0xA) || (0x10 ≤ o && o < 0x440)

/-- The operator writes a word of the manager's area: the settings window, or a register. -/
def writeMgrWord (s : State) (a v : Nat) : State :=
  let o := a - managerArea
  if (activeMgr s).isNone then s
  else if 0x60000 ≤ o ∧ o < 0x70000 then
    modSec s fun x => { x with stage := (List.range 4).foldl (fun m i =>
      if windowTakes (o - 0x60000 + i) then putAt m (o - 0x60000 + i) ((leBytes 4 v).getD i 0) else m) x.stage }
  else if panelGtBlk + 0x10 ≤ a ∧ a < panelGtBlk + 0x1C ∧ setPending s = true then s
  else settleTimeCtl s (writeWord s false a v)

/-! ### Registers whose write has a row of its own (R44, R313, R392, R458, R465, R469, R487) -/

/-- The state an outcome goes on with. -/
def outcomeState (s : State) : Res → State
  | .next t => t
  | _ => s

/-- A written word of the manager that is a command with a row of its own: that row's effect.  FW_COMMIT's fuses blow or fail
freely; FW_UPDATE's fetch is the row's own. -/
def mgrCommand (s : State) (who : Requester) (a v : Nat) : Option State :=
  if a = gtSetCmdAt panelGtBlk then
    some (match v % 4 with
      | 1 => outcomeState s (execGtSetNow who s)
      | 2 => outcomeState s (execGtSetNextSecond who s)
      | 3 => outcomeState s (execGtSetCancel who s)
      | _ => s)
  else if a = pmSvcCtlAt then some (outcomeState s (execPmSvcCtl who (bit v 0) s))
  else if a = secKeysAt then some (outcomeState s (execKeyRevoke who (BitVec.ofNat 4 (v / 16)) s))
  else if a = secTraceCtlAt then some (outcomeState s (execTraceStart who (BitVec.ofNat 32 v) s))
  else if a = secSetCmdAt then
    some (match v % 4 with
      | 1 => outcomeState s (execSettingsCommit who s)
      | 2 =>
        let x := s.drawChoice 2
        let y := x.2.drawChoice 2
        outcomeState s (execFwCommit who (x.1 == 1) (y.1 == 1) y.2)
      | _ => s)
  else if a = secFwCmdAt then
    some (if v % 2 = 1 ∧ s.regField secFwStatAt 3 0 ≠ 1 then outcomeState s (execFwUpdate who none false s) else s)
  else (List.finRange 4).findSome? fun q =>
    if a = pwrTokenAddAt q.val then some (outcomeState s (execPwrTokenAdd who q (BitVec.ofNat 32 v) s)) else none

/-- The operator's write of a manager word. -/
def operMgrWrite (s : State) (who : Requester) (a v : Nat) : State := (mgrCommand s who a v).getD (writeMgrWord s a v)

/-- A written word of a die, with the commands of QC_SS_CMD (R297, R313). -/
def dieWrite (s : State) (oper rwOnly : Bool) (a v : Nat) : State :=
  match (List.finRange 4).find? fun q => a == qcSsCmdAt q.val with
  | some q =>
    if rwOnly then s
    else match v % 4 with
      | 1 => outcomeState s (execSsLoad q s)
      | 2 => outcomeState s (execSsCancel q s)
      | _ => s
  | none => writeDieWord s oper rwOnly a v

/-! ### Register packets (R232, R428) -/

/-- The payload of a REG packet: flags (bit 0 write, bit 1 eight bytes, bit 2 operator), the RW-only flag, address, data,
requester code.  The spec gives it no layout (DESIGN CHOICE, log entry 66). -/
def regPayload (write eight oper rwOnly : Bool) (a v req : Nat) : Bytes :=
  leBytes 1 (b2n write + 2 * b2n eight + 4 * b2n oper) ++ leBytes 1 (b2n rwOnly) ++ leBytes 6 a ++ leBytes 8 v ++ leBytes 2 req

/-- A REG packet to the register agent of the die or stack at a router. -/
def regPacket (site : Nat) (payload : Bytes) : Packet :=
  withPayload { typ := tReg, cls := cCtrl, dsite := site, dagt := regAgent site } payload

/-- Is the address in the control window of the stack at a router? -/
def ownControl (site a : Nat) : Bool :=
  inControl a && (match placeOf site with | .stack n => (a - controlBase) / 0x4000000 == n | _ => false)

/-- The access to a control window that a REG packet carries, served at the home as an atomic (R200). -/
def regAtom (k : Packet) (write eight : Bool) (a v : Nat) : Packet :=
  { withPayload { typ := tAtom, cls := cCtrl, addr := if write then a else a / 8 * 8, ssite := k.ssite, sagt := k.sagt
                  rtag := if eight then 0 else 1 + a % 8 / 4, sub := b2n write }
      (if write then leBytes (if eight then 8 else 4) v else zeros 16) with addr := if write then a else a / 8 * 8 }

/-- The access a REG packet asks for at a router: its answer is a REG_RSP, at once or from the home. -/
def regServe (s : State) (site : Nat) (k : Packet) : State :=
  let f := leNat (k.payload.take 1)
  let a := leNat ((k.payload.drop 2).take 6)
  let v := leNat ((k.payload.drop 8).take 8)
  let req := leNat ((k.payload.drop 16).take 2)
  let write := bit f 0
  let eight := bit f 1
  let rwOnly := bit (leNat ((k.payload.drop 1).take 1)) 0
  let answer (s : State) (v : Nat) : State :=
    fromRegAgent s site { withPayload { typ := tRegRsp, dsite := k.ssite, dagt := k.sagt } (leBytes 8 v) with sub := b2n write }
  if ownControl site a then
    match placeOf site with
    | .stack n => homeRequest s n (regAtom k write eight a v)
    | _ => s
  else if write then answer (writeWords eight a v (fun s a v => dieWrite s (bit f 2) rwOnly a v) s) 0
  else
    let r := readWords eight a (fun s a => readDieWord s req a) s
    answer r.2 r.1

/-- REG: the register agent of a die makes the access, unless the manager that sent it is no longer obeyed; an access to a
control window waits for one of the home's shared slots (R197, R232, R428). -/
def execReg (p : AgentPort) (s : State) : Res :=
  let at_ := portOf p
  let room := match p with | .router n => decide (sharedHeld (s.mr n) < 128) | _ => true
  if room then
    serve at_ (fun k => k.typ == tReg && k.dagt == regAgent at_.1) (fun k s =>
      if k.sagt = 5 then
        if obeys s at_.1 k then regServe (seeEpoch s at_.1 (k.addr % 65536)) at_.1 k else s
      else regServe s at_.1 k) s
  else .next s

/-- REG_RSP: the manager or quarter controller on an edge die receives the answer: a read's value (R232). -/
def execRegRsp (e : EdgeId) (s : State) : Res :=
  serve (portOfEdge e) (fun k => k.typ == tRegRsp && (k.dagt == 4 || k.dagt == 5)) (fun k s =>
    if k.sub = 1 then s
    else
      let v := leNat (k.payload.take 8)
      s.emit (.value (match k.rtag with | 0 => v | 1 => v % 2 ^ 32 | _ => v / 2 ^ 32))) s

/-- PM_CMD: an agent receives a management command of its manager and has seen its epoch; what the command stands for is the
effect of the step's own row (R217, R428; DESIGN CHOICE, log entry 67). -/
def execPmCmd (p : AgentPort) (s : State) : Res :=
  let at_ := portOf p
  serve at_ (fun k => k.typ == tMgmt && k.sub == 0xC) (fun k s =>
    if obeys s at_.1 k then seeEpoch s at_.1 (k.addr % 65536) else s) s

/-! ### The operator through a TAP (R483, R485) -/

/-- The partition that resolves an address of memory, as its lowest quarter, for the operator's access. -/
def memQuarter (s : State) (a : Nat) : Option Nat :=
  ((s.parts.find? fun p => (homeOf p a).isSome)).map partQ

/-- A VAON register of a manager's edge die: PWR_FAULT, and its copy of PM_BOOT_STAT (R360, R440, R485). -/
def vaonWord (s : State) (b : Bool) (a : Nat) : Nat :=
  if a / 8 * 8 = pwrFaultAt then bits (s.reg pwrFaultAt) (8 * (a % 8) + 31) (8 * (a % 8))
  else if a / 8 * 8 = pmBootStatAt then bits (bootView s b (dayProgress s)) (8 * (a % 8) + 31) (8 * (a % 8))
  else 0

/-- The value of a read goes out. -/
def giveValue (r : Nat × State) : State := r.2.emit (.value r.1)

/-- A REG packet of the manager instance b, with its epoch (R428). -/
def regFrom (s : State) (b : Bool) (site : Nat) (payload : Bytes) : State :=
  injectEdge s (managerEdge b) 5 { regPacket site payload with addr := (s.inst b).epoch % 65536 }

/-- An operator's access to placement space: a read of the bytes, or a read-modify-write of their block (R192, R347). -/
def operMemory (s : State) (a : Nat) (write : Option Nat) (n : Nat) : State :=
  match memQuarter s a with
  | none => if write.isSome then s else s.emit (.value 0)
  | some q =>
    let s := match (partOf s q).bind fun p => homeOf p a with
      | some h => countDebug s (stackQuarter h.stack)
      | none => s
    match write with
    | some v => modifyBlock s q a (leBytes n v)
    | none =>
      let r := hostReadBlock s q a
      r.2.emit (.value (match r.1 with | some d => leNat ((d.drop (a % 1024)).take n) | none => 0))

/-- An operator's access to a scratchpad window (R117, R120, R183). -/
def operSpad (s : State) (a : Nat) (write : Option Nat) (n : Nat) : State :=
  match windowOf s a true with
  | none => if write.isSome then s else s.emit (.value 0)
  | some (u, o) =>
    let s := countDebug s (dieQuarter (u / 16))
    match write with
    | some v => (outsideWrite s u o (leBytes n v) false .plain .jtag).2
    | none =>
      let r := outsideRead s u o n .jtag
      r.2.emit (.value (leNat (r.1.getD [])))

/-- An operator's access to a control window: to its home as a REG packet (R200, R232). -/
def operControl (s : State) (b : Bool) (a : Nat) (write : Option Nat) (eight : Bool) : State :=
  let n := (a - controlBase) / 0x4000000
  let s := countDebug s (stackQuarter n)
  if stackGone s n then (if write.isSome then s else s.emit (.value 0))
  else regFrom s b (stackSite n) (regPayload write.isSome eight true false a (write.getD 0) (reqCode (.tap b)))

/-- An operator's access to a die's registers: counted for the die's quarter, and carried as a REG packet (R232, R483). -/
def operDie (s : State) (b : Bool) (a : Nat) (write : Option Nat) (eight : Bool) (req : Nat) : State :=
  regFrom (countDebug s (siteQuarter (siteOfReg a))) b (siteOfReg a) (regPayload write.isSome eight true false a (write.getD 0) req)

/-- An operator's access to the manager's area. -/
def operMgrAccess (s : State) (who : Requester) (a : Nat) (write : Option Nat) (eight : Bool) : State :=
  match write with
  | some v => writeWords eight a v (fun s a v => operMgrWrite s who a v) s
  | none => giveValue (readWords eight a (fun s a => readMgrWord s operView (reqCode who) (reqQuarter who) a) s)

/-- DBGACC: an access of 4 or 8 bytes, aligned, to any panel address; with the manager on that die lost or not booted, only to
the VAON registers (R4, R483, R485).  An unassigned address reads 0. -/
def execDbgacc (b : Bool) (a : PAddr) (write : Option (BitVec 64)) (eight : Bool) (s : State) : Res :=
  let a := a.toNat
  let n := if eight then 8 else 4
  let w := write.map (·.toNat)
  if a % n ≠ 0 then .next s
  else if !tapReaches s b then
    .next (if w.isSome then s else giveValue (readWords eight a (fun s a => (vaonWord s b a, s)) s))
  else if inMgrArea a then .next (operMgrAccess s (.tap b) a w eight)
  else if inDieArea a then .next (operDie s b a w eight (reqCode (.tap b)))
  else if inControl a then .next (operControl s b a w eight)
  else if inWindow a then .next (operSpad s a w n)
  else .next (operMemory s a w n)

/-! ### Writes of the hosts and the TAPs (R342 to R344, R473, R474) -/

/-- Does register window w of a quarter show an address (R344)? -/
def windowShows (s : State) (q a w : Nat) : Bool :=
  let v := s.reg (hstRwinAt q w)
  bit v 31 && bits v 17 0 == a / 0x4000000

/-- Does BAR0 of a quarter's endpoint reach an address: the manager's area, its own edge die, a register window (R342)? -/
def bar0Reaches (s : State) (q a : Nat) : Bool :=
  (managerArea ≤ a && a < managerArea + 0x2000000)
    || (edgeArea (controllerEdge q) ≤ a && a < edgeArea (controllerEdge q) + 0x2000000)
    || windowShows s q a 0 || windowShows s q a 1

/-- A host's write of a register (R474): with operator view anything, through the active manager; in host view its own edge die,
and the RW fields of the dies of its partition; of the manager's area only PWR_TOKEN_ADD. -/
def hostWrite (s : State) (q : QuarterId) (a v : Nat) (eight : Bool) : State :=
  let own := decide (siteOfReg a = edgeSite (controllerEdge q))
  let oper := isOperator s (.host q)
  if inMgrArea a then
    if oper then operMgrAccess s (.host q) a (some v) eight
    else match (List.finRange 4).find? fun k => a == pwrTokenAddAt k.val with
      | some k => outcomeState s (execPwrTokenAdd (.host q) k (BitVec.ofNat 32 v) s)
      | none => s
  else if inDieArea a then
    if oper then
      match activeMgr s with
      | some b => operDie s b a (some v) eight (reqCode (.host q))
      | none => s
    else if own then writeWords eight a v (fun s a v => dieWrite s false false a v) s
    else if bit (qmaskOf s q) (siteQuarter (siteOfReg a)) then
      injectEdge s (controllerEdge q) 4 (regPacket (siteOfReg a) (regPayload true eight false true a v (reqCode (.host q))))
    else s
  else s

/-- Is an access to a BAR of 4 or 8 bytes, and aligned to its size (R342)? -/
def barAligned (o n : Nat) : Bool := (n == 4 || n == 8) && o % n == 0

/-- The doorbell at an offset of BAR4 (R349). -/
def isDoorbell (o : Nat) : Bool := (o < 0x40 && o % 8 == 0) || o == 0x40 || o == 0x80

/-- A host's write of BAR4: a doorbell of 4 bytes, the request area; any other access is treated as under R342 (R349).  The mailbox
doorbell finds its request in the area. -/
def bar4Write (s : State) (q : QuarterId) (o n v : Nat) : State :=
  if isDoorbell (o / 8 * 8) then
    if n = 4 ∧ isDoorbell o = true then
      let idx := BitVec.ofNat 16 v
      let x := s.qtr q
      let at_ (o k : Nat) : Nat := leNat ((List.range k).map fun i => reqByte x (o + i))
      if o = 0x40 then outcomeState s (execMsgBufferDoorbell q idx s)
      else if o = 0x80 then
        outcomeState s (execMailboxDoorbell q idx (BitVec.ofNat 16 (at_ 0 2)) (BitVec.ofNat 32 (at_ 4 4))
          ((List.range (min 4032 (at_ 4 4))).map fun i => reqByte x (64 + i)) s)
      else match (List.finRange 8).find? fun c => o == 8 * c.val with
        | some c => outcomeState s (execDmaDoorbell q c idx s)
        | none => s
    else s.bump (hstBadAccCntAt q)
  else if !barAligned o n then s.bump (hstBadAccCntAt q)
  else if 0x1000 ≤ o ∧ o < 0x2000 then s.modQtr q fun x => putReqArea x (o - 0x1000) (leBytes n v)
  else s

/-- A host's write through BAR0 must be of 4 or 8 bytes and aligned, else it is dropped and counted; what the view or no window shows
is ignored (R342 to R344, R474). -/
def bar0Write (s : State) (q : QuarterId) (a n v : Nat) : State :=
  if !barAligned a n then s.bump (hstBadAccCntAt q)
  else if bar0Reaches s q a then hostWrite s q a v (n == 8)
  else s

/-- Size in bytes of a register write. -/
def widthOf : RegWidth → Nat
  | .four => 4
  | .eight => 8
  | .other n => n
  | .bar4 n => n
  | .config => 4

/-- BAR SIZE of the Resizable BAR Control register: bits [13:8] code 1 MiB times a power of two, and the endpoint supports 1 GiB to
64 GiB (R340, R345; PRESUMED of the PCI Express specification, log entry 151). -/
def sizeBar2 (s : State) (q v : Nat) : State :=
  let k := bits v 13 8
  if 10 ≤ k ∧ k ≤ 16 then s.modQtr q fun x => { x with bar2Log := k - 10 } else s

/-- REGISTER_WRITE: a write acts on the register's fields by their access codes (R5).  A host writes through BAR0, BAR4 or
configuration space (R340, R342 to R344, R349); a TAP's is DBGACC's; a sequencer writes through CSRW only. -/
def execRegisterWrite (who : Requester) (a : PAddr) (v : BitVec 64) (how : RegWidth) (s : State) : Res :=
  match who with
  | .seq _ => .next s
  | .tap b =>
    if barAligned a.toNat (widthOf how) = false ∨ tapReaches s b = false ∨ (how ≠ .four ∧ how ≠ .eight) then .next s
    else if inMgrArea a.toNat then .next (operMgrAccess s who a.toNat (some v.toNat) (how == .eight))
    else if inDieArea a.toNat then .next (operDie s b a.toNat (some v.toNat) (how == .eight) (reqCode who))
    else .next s
  | .host q =>
    if (s.qtr q).pcieUp = false then .next s
    else match how with
      | .bar4 n => .next (bar4Write s q (a.toNat % 0x4000) n v.toNat)
      | .config => .next (sizeBar2 s q v.toNat)
      | _ => .next (bar0Write s q a.toNat (widthOf how) v.toNat)

/-! ### GT_NSEC (R40, R41) -/

/-- May a requester read the GT_ block of a keeper: a sequencer that of its own die, a host that of its edge die and of the dies
its view reaches through its windows, a TAP any (R41, R474)? -/
def readsKeeper (s : State) (who : Requester) (site : Nat) : Bool :=
  (match placeOf site with | .stack _ => false | _ => true) &&
  match who with
  | .seq c => site == cluSite c
  | .tap b => tapReaches s b
  | .host q => (s.qtr q).pcieUp && bar0Reaches s q (keeperGtBlk site)
      && (isOperator s who || site == edgeSite (controllerEdge q) || bit (qmaskOf s q) (siteQuarter site))

/-- May a requester read the panel-wide block? -/
def readsPanel (s : State) (who : Requester) : Bool :=
  (activeMgr s).isSome && match who with
  | .seq _ => false
  | .tap b => tapReaches s b
  | .host q => (s.qtr q).pcieUp

/-- A read that returns 0: a host's, of what its view may not reach or what no window shows (R343, R344, R431); a requester
that reaches no register at all gets no answer. -/
def readsZero (s : State) (who : Requester) : State :=
  match who with
  | .host q => toHost s q (.value 0)
  | _ => s

/-- The panel address at an offset of BAR0; none in its reserved part and in a window that is not enabled (R342, R344). -/
def bar0Addr (s : State) (q o : Nat) : Option Nat :=
  if o < 0x2000000 then some (managerArea + o)
  else if o < 0x4000000 then some (edgeArea (controllerEdge q) + (o - 0x2000000))
  else if o < 0xC000000 then
    let v := s.reg (hstRwinAt q (o / 0x4000000 - 1))
    if bit v 31 then some (bits v 17 0 * 0x4000000 + o % 0x4000000) else none
  else none

/-- A host's read of a register at a panel address: through the operator view anything, through the active manager; in host view its
own edge die, the dies of its partition, and the manager's area as it is shown to it; anything else reads 0 (R41, R343, R474). -/
def hostRead (s : State) (q : QuarterId) (a : Nat) (eight : Bool) : State :=
  let req := reqCode (.host q)
  let own := decide (siteOfReg a = edgeSite (controllerEdge q))
  if inMgrArea a then
    if isOperator s (.host q) then operMgrAccess s (.host q) a none eight
    else giveValue (readWords eight a (fun s a => readMgrWord s (hostView s q) req q a) s)
  else if inDieArea a then
    if isOperator s (.host q) then
      match activeMgr s with
      | some b => operDie s b a none eight req
      | none => readsZero s (.host q)
    else if own then giveValue (readWords eight a (fun s a => readDieWord s req a) s)
    else if bit (qmaskOf s q) (siteQuarter (siteOfReg a)) then
      injectEdge s (controllerEdge q) 4 (regPacket (siteOfReg a) (regPayload false eight false false a 0 req))
    else readsZero s (.host q)
  else readsZero s (.host q)

/-- A host's read of BAR0: of 4 or 8 bytes, aligned, else Completer Abort (R342). -/
def bar0Read (s : State) (q : QuarterId) (o n : Nat) : State :=
  if !barAligned o n then (s.bump (hstBadAccCntAt q)).emit (.bar2 q [] 2)
  else match bar0Addr s q o with
    | some a => hostRead s q a (n == 8)
    | none => readsZero s (.host q)

/-- A host's read of BAR4: doorbells read 0, the two mailbox areas their bytes (R342, R349). -/
def bar4Read (s : State) (q : QuarterId) (o n : Nat) : State :=
  let x := s.qtr q
  if !barAligned o n then (s.bump (hstBadAccCntAt q)).emit (.bar2 q [] 2)
  else if 0x1000 ≤ o ∧ o < 0x2000 then s.emit (.value (leNat ((List.range n).map fun i => reqByte x (o - 0x1000 + i))))
  else if 0x2000 ≤ o ∧ o < 0x3000 then s.emit (.value (leNat ((List.range n).map fun i => x.repArea.getD (o - 0x2000 + i) 0)))
  else readsZero s (.host q)

/-- A configuration read: Request Retry Status until step 3 has ended; the readiness time is 6 s, 179 times 32 ^ 5 ns (R340, R362;
the encodings PRESUMED, log entry 151). -/
def configRead (s : State) (q : QuarterId) (r : ConfigReg) : State :=
  if s.mgr.step ≤ 3 then s.emit (.bar2 q [] 4)
  else toHost s q (.value (match r with
    | .ids => 0x9384 * 2 ^ 16 + Config.vendorId.toNat
    | .classCode => 0x120000 * 2 ^ 8 + Config.revisionId.toNat
    | .bar2Size => (10 + min 6 (s.qtr q).bar2Log) * 2 ^ 8 + 2
    | .readiness => 2 ^ 31 + 5 * 2 ^ 9 + 179))

/-- GT_NSEC_READ: the nanoseconds are returned and the seconds latched for the requester (R40, R41); an operator's read of a
die counts (R483).  A host's reads of other registers are operands of this command, the table's only register read (R342,
R349; DESIGN CHOICE, log entry 152). -/
def execGtNsecRead (who : Requester) (blk : GtBlock) (s : State) : Res :=
  match blk with
  | .keeper site =>
    if readsKeeper s who site then
      let s := if isOperator s who then countDebug s (siteQuarter site) else s
      let s := latchSeconds s site (reqCode who)
      .next (s.emit (.value (keeperView s site (reqCode who) 0)))
    else .next (readsZero s who)
  | .panel =>
    if readsPanel s who then
      let s := latchPanel s (reqCode who)
      .next (s.emit (.value (panelGtView s (reqCode who) (reqQuarter who) 0)))
    else .next (readsZero s who)
  | .bar0 ofs len => match who with
    | .host q => when_ (s.qtr q).pcieUp s (bar0Read s q ofs.toNat len.val)
    | _ => .next s
  | .bar4 ofs len => match who with
    | .host q => when_ (s.qtr q).pcieUp s (bar4Read s q ofs.toNat len.val)
    | _ => .next s
  | .config r => match who with
    | .host q => .next (configRead s q r)
    | _ => .next s

/-! ### BUCKET_DEBT_REPAID (R242, R243) -/

/-- The first of a cluster's packets that wait on a bucket passes; the next begins its own wait. -/
def passFirst (s : State) (c cls : Nat) (p : Packet) (more : Bool) : State :=
  let s := injectClu (charge (endBucketWait s c cls) (bucketOf c cls)) c p
  if more then startBucketWait s c cls else s

/-- A cluster's bucket has repaid its debt: the packet that waits on it passes. -/
def passCluster (s : State) (c cls : Nat) : State :=
  let x := s.cl c
  match cls with
  | 0 => match x.credits with
    | [] => s
    | p :: rest => passFirst (s.setCl c { x with credits := rest }) c 0 p !rest.isEmpty
  | 2 => match x.ctrlOut with
    | [] => s
    | p :: rest => passFirst (s.setCl c { x with ctrlOut := rest }) c 2 p !rest.isEmpty
  | _ => match cfgOf s (cluQuarter c) with
    | none => s
    | some cfg => match copyHead s cfg c with
      | none => s
      | some (i, slot) => if x.absorbing then s else copySlot (endBucketWait s c cls) cfg c i slot

/-- BUCKET_DEBT_REPAID: the balance is 0 again, and the packet that waits passes (R242, R243, R330). -/
def execBucketDebtRepaid (b : BucketId) (s : State) : Res :=
  match b with
  | .edge e => .next (admitNext s e)
  | .cluster c k =>
    match solventAt s (bucketOf c k) with
    | none => .next s
    | some t => if rgnRuns s (cluRgn c) then .next (passCluster (advFab s t) c k) else .next s

end Sys2Proof.Machine
end

