-- ==== Sys2Proof/Machine/Dispatch.lean ====
section
/-! DEFINITION. One arm for each command. -/

namespace Sys2Proof.Machine

def exec (i : Instr) (s : State) : Host.Outcome State Fault Refusal :=
  match i with
  | .coldReset => Sys2Proof.Machine.execColdReset s
  | .bringupStepTimeout unfinished => Sys2Proof.Machine.execBringupStepTimeout unfinished s
  | .regionWake r => Sys2Proof.Machine.execRegionWake r s
  | .headerStageCheck r sensorMv => Sys2Proof.Machine.execHeaderStageCheck r sensorMv s
  | .regionPowerGood r => Sys2Proof.Machine.execRegionPowerGood r s
  | .headerOpenCheck r => Sys2Proof.Machine.execHeaderOpenCheck r s
  | .fwFetch cl bad1 bad2 => Sys2Proof.Machine.execFwFetch cl bad1 bad2 s
  | .dayChecksDone site failed => Sys2Proof.Machine.execDayChecksDone site failed s
  | .dayChange => Sys2Proof.Machine.execDayChange s
  | .pmSvcCtl who hold => Sys2Proof.Machine.execPmSvcCtl who hold s
  | .warmRstN => Sys2Proof.Machine.execWarmRstN s
  | .warmResetStart => Sys2Proof.Machine.execWarmResetStart s
  | .tickEdge q => Sys2Proof.Machine.execTickEdge q s
  | .tickStart q => Sys2Proof.Machine.execTickStart q s
  | .beaconSend => Sys2Proof.Machine.execBeaconSend s
  | .beacon site => Sys2Proof.Machine.execBeacon site s
  | .beaconMiss site => Sys2Proof.Machine.execBeaconMiss site s
  | .beaconLoss site => Sys2Proof.Machine.execBeaconLoss site s
  | .ppsEdge falling => Sys2Proof.Machine.execPpsEdge falling s
  | .ppsMiss => Sys2Proof.Machine.execPpsMiss s
  | .gtNsecRead who blk => Sys2Proof.Machine.execGtNsecRead who blk s
  | .gtSetNow who => Sys2Proof.Machine.execGtSetNow who s
  | .gtSetNextSecond who => Sys2Proof.Machine.execGtSetNextSecond who s
  | .gtSetCancel who => Sys2Proof.Machine.execGtSetCancel who s
  | .timeSetApply => Sys2Proof.Machine.execTimeSetApply s
  | .eqxPost site => Sys2Proof.Machine.execEqxPost site s
  | .eqxAck => Sys2Proof.Machine.execEqxAck s
  | .eqxAckWindowEnd => Sys2Proof.Machine.execEqxAckWindowEnd s
  | .eqxRampDone => Sys2Proof.Machine.execEqxRampDone s
  | .eqxGo site => Sys2Proof.Machine.execEqxGo site s
  | .eqxFreqChange q => Sys2Proof.Machine.execEqxFreqChange q s
  | .eqxVoltageLower => Sys2Proof.Machine.execEqxVoltageLower s
  | .keeperFallback site => Sys2Proof.Machine.execKeeperFallback site s
  | .supplyDroop r => Sys2Proof.Machine.execSupplyDroop r s
  | .droopStall r => Sys2Proof.Machine.execDroopStall r s
  | .add cl d a b => Sys2Proof.Machine.execAdd cl d a b s
  | .sub cl d a b => Sys2Proof.Machine.execSub cl d a b s
  | .and cl d a b => Sys2Proof.Machine.execAnd cl d a b s
  | .or cl d a b => Sys2Proof.Machine.execOr cl d a b s
  | .xor cl d a b => Sys2Proof.Machine.execXor cl d a b s
  | .sll cl d a b => Sys2Proof.Machine.execSll cl d a b s
  | .srl cl d a b => Sys2Proof.Machine.execSrl cl d a b s
  | .sra cl d a b => Sys2Proof.Machine.execSra cl d a b s
  | .slt cl d a b => Sys2Proof.Machine.execSlt cl d a b s
  | .sltu cl d a b => Sys2Proof.Machine.execSltu cl d a b s
  | .mul cl d a b => Sys2Proof.Machine.execMul cl d a b s
  | .mulhu cl d a b => Sys2Proof.Machine.execMulhu cl d a b s
  | .addi cl d a imm => Sys2Proof.Machine.execAddi cl d a imm s
  | .slti cl d a imm => Sys2Proof.Machine.execSlti cl d a imm s
  | .andi cl d a imm => Sys2Proof.Machine.execAndi cl d a imm s
  | .ori cl d a imm => Sys2Proof.Machine.execOri cl d a imm s
  | .xori cl d a imm => Sys2Proof.Machine.execXori cl d a imm s
  | .lui cl d imm => Sys2Proof.Machine.execLui cl d imm s
  | .lw cl d a imm => Sys2Proof.Machine.execLw cl d a imm s
  | .sw cl d a imm => Sys2Proof.Machine.execSw cl d a imm s
  | .beq cl d a imm => Sys2Proof.Machine.execBeq cl d a imm s
  | .bne cl d a imm => Sys2Proof.Machine.execBne cl d a imm s
  | .blt cl d a imm => Sys2Proof.Machine.execBlt cl d a imm s
  | .bltu cl d a imm => Sys2Proof.Machine.execBltu cl d a imm s
  | .jal cl d imm => Sys2Proof.Machine.execJal cl d imm s
  | .jalr cl d a imm => Sys2Proof.Machine.execJalr cl d a imm s
  | .disp cl a => Sys2Proof.Machine.execDisp cl a s
  | .dispm cl a imm => Sys2Proof.Machine.execDispm cl a imm s
  | .dispatchStallRelease cl => Sys2Proof.Machine.execDispatchStallRelease cl s
  | .waitg cl a imm => Sys2Proof.Machine.execWaitg cl a imm s
  | .waitgSatisfied cl => Sys2Proof.Machine.execWaitgSatisfied cl s
  | .grd cl d imm => Sys2Proof.Machine.execGrd cl d imm s
  | .qrd cl d imm => Sys2Proof.Machine.execQrd cl d imm s
  | .qcnt cl d imm => Sys2Proof.Machine.execQcnt cl d imm s
  | .hslot cl imm => Sys2Proof.Machine.execHslot cl imm s
  | .hend cl => Sys2Proof.Machine.execHend cl s
  | .fend cl => Sys2Proof.Machine.execFend cl s
  | .csrr cl d imm => Sys2Proof.Machine.execCsrr cl d imm s
  | .csrw cl a imm => Sys2Proof.Machine.execCsrw cl a imm s
  | .fence cl => Sys2Proof.Machine.execFence cl s
  | .fenceSatisfied cl => Sys2Proof.Machine.execFenceSatisfied cl s
  | .dispatchHeadDepart cl => Sys2Proof.Machine.execDispatchHeadDepart cl s
  | .mma u => Sys2Proof.Machine.execMma u s
  | .mmaComplete u did upset => Sys2Proof.Machine.execMmaComplete u did upset s
  | .tagWaitSatisfied u did => Sys2Proof.Machine.execTagWaitSatisfied u did s
  | .vopMov u => Sys2Proof.Machine.execVopMov u s
  | .vopAdd u => Sys2Proof.Machine.execVopAdd u s
  | .vopSub u => Sys2Proof.Machine.execVopSub u s
  | .vopMul u => Sys2Proof.Machine.execVopMul u s
  | .vopFma u => Sys2Proof.Machine.execVopFma u s
  | .vopMin u => Sys2Proof.Machine.execVopMin u s
  | .vopMax u => Sys2Proof.Machine.execVopMax u s
  | .vopAbs u => Sys2Proof.Machine.execVopAbs u s
  | .vopNeg u => Sys2Proof.Machine.execVopNeg u s
  | .vopDiv u => Sys2Proof.Machine.execVopDiv u s
  | .vopRcp u => Sys2Proof.Machine.execVopRcp u s
  | .vopSqrt u => Sys2Proof.Machine.execVopSqrt u s
  | .vopRsqrt u => Sys2Proof.Machine.execVopRsqrt u s
  | .vopExp2 u => Sys2Proof.Machine.execVopExp2 u s
  | .vopLog2 u => Sys2Proof.Machine.execVopLog2 u s
  | .vopTanh u => Sys2Proof.Machine.execVopTanh u s
  | .vopRowsum u => Sys2Proof.Machine.execVopRowsum u s
  | .vopRowmax u => Sys2Proof.Machine.execVopRowmax u s
  | .vopColsum u => Sys2Proof.Machine.execVopColsum u s
  | .vopColmax u => Sys2Proof.Machine.execVopColmax u s
  | .vopCmpx u => Sys2Proof.Machine.execVopCmpx u s
  | .vopComplete u did portWaits => Sys2Proof.Machine.execVopComplete u did portWaits s
  | .load u => Sys2Proof.Machine.execLoad u s
  | .store u => Sys2Proof.Machine.execStore u s
  | .send u => Sys2Proof.Machine.execSend u s
  | .redAccumulate u => Sys2Proof.Machine.execRedAccumulate u s
  | .redRead u => Sys2Proof.Machine.execRedRead u s
  | .redReadClear u => Sys2Proof.Machine.execRedReadClear u s
  | .waitGroupGe cl => Sys2Proof.Machine.execWaitGroupGe cl s
  | .waitQueueNe cl => Sys2Proof.Machine.execWaitQueueNe cl s
  | .waitFrameTime cl => Sys2Proof.Machine.execWaitFrameTime cl s
  | .waitTagFull cl => Sys2Proof.Machine.execWaitTagFull cl s
  | .waitTagEmpty cl => Sys2Proof.Machine.execWaitTagEmpty cl s
  | .waitSatisfied cl => Sys2Proof.Machine.execWaitSatisfied cl s
  | .commit cl => Sys2Proof.Machine.execCommit cl s
  | .commitEvaluate cl => Sys2Proof.Machine.execCommitEvaluate cl s
  | .commitCas st => Sys2Proof.Machine.execCommitCas st s
  | .descComplete cl did => Sys2Proof.Machine.execDescComplete cl did s
  | .seGenerateRequest cl => Sys2Proof.Machine.execSeGenerateRequest cl s
  | .rd p => Sys2Proof.Machine.execRd p s
  | .mrDramReadDone st beta first second copy1 copy2 => Sys2Proof.Machine.execMrDramReadDone st beta first second copy1 copy2 s
  | .wr p => Sys2Proof.Machine.execWr p s
  | .mrWriteDone st beta => Sys2Proof.Machine.execMrWriteDone st beta s
  | .rdData p => Sys2Proof.Machine.execRdData p s
  | .wrAck p => Sys2Proof.Machine.execWrAck p s
  | .msg r => Sys2Proof.Machine.execMsg r s
  | .msgAppend cl q => Sys2Proof.Machine.execMsgAppend cl q s
  | .msgIncompleteDiscard cl q => Sys2Proof.Machine.execMsgIncompleteDiscard cl q s
  | .msgDequeue cl q => Sys2Proof.Machine.execMsgDequeue cl q s
  | .credit r => Sys2Proof.Machine.execCredit r s
  | .cohGets st => Sys2Proof.Machine.execCohGets st s
  | .cohGetm st => Sys2Proof.Machine.execCohGetm st s
  | .cohPutm st => Sys2Proof.Machine.execCohPutm st s
  | .cohFwdgets r => Sys2Proof.Machine.execCohFwdgets r s
  | .cohFwdgetm r => Sys2Proof.Machine.execCohFwdgetm r s
  | .cohInv r => Sys2Proof.Machine.execCohInv r s
  | .cohInvack p => Sys2Proof.Machine.execCohInvack p s
  | .cohData p => Sys2Proof.Machine.execCohData p s
  | .cohUnblock st => Sys2Proof.Machine.execCohUnblock st s
  | .cohPutack r => Sys2Proof.Machine.execCohPutack r s
  | .cohRecall r => Sys2Proof.Machine.execCohRecall r s
  | .atom st => Sys2Proof.Machine.execAtom st s
  | .atomRsp p => Sys2Proof.Machine.execAtomRsp p s
  | .scrubRead st first second copy1 copy2 => Sys2Proof.Machine.execScrubRead st first second copy1 copy2 s
  | .scrubLockRetry q => Sys2Proof.Machine.execScrubLockRetry q s
  | .mrTempSample st celsius => Sys2Proof.Machine.execMrTempSample st celsius s
  | .routerSlot site hits => Sys2Proof.Machine.execRouterSlot site hits s
  | .laneLossOfLock l hiEnd => Sys2Proof.Machine.execLaneLossOfLock l hiEnd s
  | .laneRecalDone t failedLo failedHi => Sys2Proof.Machine.execLaneRecalDone t failedLo failedHi s
  | .ejectFullTimeout p => Sys2Proof.Machine.execEjectFullTimeout p s
  | .ejectSuspendEnd p => Sys2Proof.Machine.execEjectSuspendEnd p s
  | .cmapLatch site => Sys2Proof.Machine.execCmapLatch site s
  | .glintTake => Sys2Proof.Machine.execGlintTake s
  | .glintReq site => Sys2Proof.Machine.execGlintReq site s
  | .glintRec => Sys2Proof.Machine.execGlintRec s
  | .glintRecordTimeout => Sys2Proof.Machine.execGlintRecordTimeout s
  | .ingressReqAdmit e => Sys2Proof.Machine.execIngressReqAdmit e s
  | .accumulateRow st first second => Sys2Proof.Machine.execAccumulateRow st first second s
  | .readRow st first second => Sys2Proof.Machine.execReadRow st first second s
  | .readClearRow st first second => Sys2Proof.Machine.execReadClearRow st first second s
  | .replayRunStart q => Sys2Proof.Machine.execReplayRunStart q s
  | .replayRunEnd cl => Sys2Proof.Machine.execReplayRunEnd cl s
  | .ssLoad q => Sys2Proof.Machine.execSsLoad q s
  | .ssCancel q => Sys2Proof.Machine.execSsCancel q s
  | .streamValidate q header rest => Sys2Proof.Machine.execStreamValidate q header rest s
  | .heartbeatSend p => Sys2Proof.Machine.execHeartbeatSend p s
  | .flitHeartbeat p flit => Sys2Proof.Machine.execFlitHeartbeat p flit s
  | .flitData p flit => Sys2Proof.Machine.execFlitData p flit s
  | .flitCredit p flit => Sys2Proof.Machine.execFlitCredit p flit s
  | .flitIdle p flit => Sys2Proof.Machine.execFlitIdle p flit s
  | .flitLpi p flit => Sys2Proof.Machine.execFlitLpi p flit s
  | .portLost p => Sys2Proof.Machine.execPortLost p s
  | .portTrainDone p lanesGood => Sys2Proof.Machine.execPortTrainDone p lanesGood s
  | .portTrainFail p => Sys2Proof.Machine.execPortTrainFail p s
  | .egressSend p => Sys2Proof.Machine.execEgressSend p s
  | .transportReqArrive p => Sys2Proof.Machine.execTransportReqArrive p s
  | .transportRspArrive p => Sys2Proof.Machine.execTransportRspArrive p s
  | .remoteTimeout cl write tag => Sys2Proof.Machine.execRemoteTimeout cl write tag s
  | .tagQuarantineEnd cl write tag => Sys2Proof.Machine.execTagQuarantineEnd cl write tag s
  | .bar2Read q ofs len => Sys2Proof.Machine.execBar2Read q ofs len s
  | .bar2Write q ofs data => Sys2Proof.Machine.execBar2Write q ofs data s
  | .bar2Atomic q ofs old new => Sys2Proof.Machine.execBar2Atomic q ofs old new s
  | .dmaDoorbell q c total => Sys2Proof.Machine.execDmaDoorbell q c total s
  | .h2p q c desc data => Sys2Proof.Machine.execH2p q c desc data s
  | .p2h q c desc hostOk => Sys2Proof.Machine.execP2h q c desc hostOk s
  | .h2pDecrypt q c desc data => Sys2Proof.Machine.execH2pDecrypt q c desc data s
  | .dmaZero q c desc => Sys2Proof.Machine.execDmaZero q c desc s
  | .dmaComplete q c => Sys2Proof.Machine.execDmaComplete q c s
  | .dmaEngineDisable who q c => Sys2Proof.Machine.execDmaEngineDisable who q c s
  | .msgBufferDoorbell q tail => Sys2Proof.Machine.execMsgBufferDoorbell q tail s
  | .hostMsgPublish q => Sys2Proof.Machine.execHostMsgPublish q s
  | .hostMsgDrop q => Sys2Proof.Machine.execHostMsgDrop q s
  | .mailboxDoorbell q tag op len payload => Sys2Proof.Machine.execMailboxDoorbell q tag op len payload s
  | .eclipse q => Sys2Proof.Machine.execEclipse q s
  | .eclipseAbsorbEnd q => Sys2Proof.Machine.execEclipseAbsorbEnd q s
  | .eclipseComplete q => Sys2Proof.Machine.execEclipseComplete q s
  | .compatUnit q => Sys2Proof.Machine.execCompatUnit q s
  | .compatCluster q => Sys2Proof.Machine.execCompatCluster q s
  | .compatPartition q => Sys2Proof.Machine.execCompatPartition q s
  | .compatPanel q => Sys2Proof.Machine.execCompatPanel q s
  | .warmReset q => Sys2Proof.Machine.execWarmReset q s
  | .drainComplete q => Sys2Proof.Machine.execDrainComplete q s
  | .drainTimeout q => Sys2Proof.Machine.execDrainTimeout q s
  | .pstateDay q => Sys2Proof.Machine.execPstateDay q s
  | .pstateDim q => Sys2Proof.Machine.execPstateDim q s
  | .pstateDusk q => Sys2Proof.Machine.execPstateDusk q s
  | .pstateDark q => Sys2Proof.Machine.execPstateDark q s
  | .pstateEntryDone q => Sys2Proof.Machine.execPstateEntryDone q s
  | .selfRefreshEntry q => Sys2Proof.Machine.execSelfRefreshEntry q s
  | .pstateWakeDone q => Sys2Proof.Machine.execPstateWakeDone q s
  | .maintRequestRetest q => Sys2Proof.Machine.execMaintRequestRetest q s
  | .maintRequestRecal q => Sys2Proof.Machine.execMaintRequestRecal q s
  | .maintLockEvaluate => Sys2Proof.Machine.execMaintLockEvaluate s
  | .retestDone d vouches wrongSig => Sys2Proof.Machine.execRetestDone d vouches wrongSig s
  | .spareIn q => Sys2Proof.Machine.execSpareIn q s
  | .spareCheckDone f pass => Sys2Proof.Machine.execSpareCheckDone f pass s
  | .spareCopyDone f => Sys2Proof.Machine.execSpareCopyDone f s
  | .tenantClear q => Sys2Proof.Machine.execTenantClear q s
  | .tenantClearPass q failing => Sys2Proof.Machine.execTenantClearPass q failing s
  | .defectMap q => Sys2Proof.Machine.execDefectMap q s
  | .halt q => Sys2Proof.Machine.execHalt q s
  | .shadowCopy cl => Sys2Proof.Machine.execShadowCopy cl s
  | .mrPoll silent untrained => Sys2Proof.Machine.execMrPoll silent untrained s
  | .pmHeartbeatSend m => Sys2Proof.Machine.execPmHeartbeatSend m s
  | .pmHb m => Sys2Proof.Machine.execPmHb m s
  | .pmHbMiss m => Sys2Proof.Machine.execPmHbMiss m s
  | .journalAckTimeout => Sys2Proof.Machine.execJournalAckTimeout s
  | .pmTakeover => Sys2Proof.Machine.execPmTakeover s
  | .qcPmLost q => Sys2Proof.Machine.execQcPmLost q s
  | .domainFault dom cause status => Sys2Proof.Machine.execDomainFault dom cause status s
  | .softstartTimeout dom regulatorFault status => Sys2Proof.Machine.execSoftstartTimeout dom regulatorFault status s
  | .ref25Loss => Sys2Proof.Machine.execRef25Loss s
  | .fdaAssert g => Sys2Proof.Machine.execFdaAssert g s
  | .fdaDeassert g => Sys2Proof.Machine.execFdaDeassert g s
  | .fdaLong => Sys2Proof.Machine.execFdaLong s
  | .telemetryRead readings => Sys2Proof.Machine.execTelemetryRead readings s
  | .dieEnergyLatch d microJ => Sys2Proof.Machine.execDieEnergyLatch d microJ s
  | .dieTempSample d celsius => Sys2Proof.Machine.execDieTempSample d celsius s
  | .edgeTempSample e celsius => Sys2Proof.Machine.execEdgeTempSample e celsius s
  | .coolantRead inlet outlet => Sys2Proof.Machine.execCoolantRead inlet outlet s
  | .inletLost => Sys2Proof.Machine.execInletLost s
  | .thermalFit => Sys2Proof.Machine.execThermalFit s
  | .governorEvaluate => Sys2Proof.Machine.execGovernorEvaluate s
  | .opsGather => Sys2Proof.Machine.execOpsGather s
  | .pwrTokenAdd who q n => Sys2Proof.Machine.execPwrTokenAdd who q n s
  | .ledgerSecond => Sys2Proof.Machine.execLedgerSecond s
  | .snapshotDue q => Sys2Proof.Machine.execSnapshotDue q s
  | .cntLatch st => Sys2Proof.Machine.execCntLatch st s
  | .cntRec q => Sys2Proof.Machine.execCntRec q s
  | .snapshotRecordTimeout q => Sys2Proof.Machine.execSnapshotRecordTimeout q s
  | .slack => Sys2Proof.Machine.execSlack s
  | .vouch => Sys2Proof.Machine.execVouch s
  | .test site nb hcrcOk checkOk patternOk sigOk digestOk => Sys2Proof.Machine.execTest site nb hcrcOk checkOk patternOk sigOk digestOk s
  | .delayEcho site => Sys2Proof.Machine.execDelayEcho site s
  | .fwDigest cl => Sys2Proof.Machine.execFwDigest cl s
  | .pmCmd p => Sys2Proof.Machine.execPmCmd p s
  | .reg p => Sys2Proof.Machine.execReg p s
  | .regRsp e => Sys2Proof.Machine.execRegRsp e s
  | .pcieLinkDown q => Sys2Proof.Machine.execPcieLinkDown q s
  | .settingsCommit who => Sys2Proof.Machine.execSettingsCommit who s
  | .fwCommit who okA okB => Sys2Proof.Machine.execFwCommit who okA okB s
  | .fwUpdate who image norOk => Sys2Proof.Machine.execFwUpdate who image norOk s
  | .keyRevoke who mask => Sys2Proof.Machine.execKeyRevoke who mask s
  | .spdmKeyExchange q mutualRoot => Sys2Proof.Machine.execSpdmKeyExchange q mutualRoot s
  | .spdmGetMeasurements q => Sys2Proof.Machine.execSpdmGetMeasurements q s
  | .keySet q session n keyId key => Sys2Proof.Machine.execKeySet q session n keyId key s
  | .keyErase q session n => Sys2Proof.Machine.execKeyErase q session n s
  | .traceStart who ctl => Sys2Proof.Machine.execTraceStart who ctl s
  | .bypass e tdi => Sys2Proof.Machine.execBypass e tdi s
  | .idcode e => Sys2Proof.Machine.execIdcode e s
  | .samplePreload e pins preload => Sys2Proof.Machine.execSamplePreload e pins preload s
  | .extest e => Sys2Proof.Machine.execExtest e s
  | .dbgacc b a write eight => Sys2Proof.Machine.execDbgacc b a write eight s
  | .registerWrite who a v how => Sys2Proof.Machine.execRegisterWrite who a v how s
  | .spadClearDone u => Sys2Proof.Machine.execSpadClearDone u s
  | .pminRaiseRetry => Sys2Proof.Machine.execPminRaiseRetry s
  | .bucketDebtRepaid b => Sys2Proof.Machine.execBucketDebtRepaid b s
  | .spdmEndSession q session => Sys2Proof.Machine.execSpdmEndSession q session s
  | .domainPowerGood dom => Sys2Proof.Machine.execDomainPowerGood dom s
  | .bringupStepEnd r => Sys2Proof.Machine.execBringupStepEnd r s
  | .droopRecovery r => Sys2Proof.Machine.execDroopRecovery r s

end Sys2Proof.Machine
end

