-- ==== Sys2Proof/Safety.lean ====
section
/-! DEFINITION. What counts as a safe step, and the terms in which the statements are made: what stands where before a
command, and what it leaves as it is. -/

namespace Sys2Proof.Machine

/-- The byte memory is in canonical form. -/
def State.memOk (s : State) : Prop := memWf s.mem = true

/-- A step answers a next state: neither a fault nor a refusal. -/
def StepsTo (s t : State) : Prop := step s = .next t

/-- A state from which a step always goes on. -/
def SafeStep (s : State) : Prop := ∃ t, StepsTo s t

/-- Every byte of memory reads in t as it reads in s. -/
def SameMem (s t : State) : Prop := ∀ a, memByte t.mem a = memByte s.mem a

/-- Every byte of memory outside the n bytes from a reads in t as it reads in s. -/
def SameMemBut (a n : Nat) (s t : State) : Prop := ∀ k, k < a ∨ a + n ≤ k → memByte t.mem k = memByte s.mem k

/-! ### The sequencer -/

/-- LVS instruction i stands at the pc of cluster c, whose sequencer may execute it (R131, R136, R137). -/
def LvsAt (s : State) (c : ClusterId) (i : Instr) : Prop :=
  seqReady s c = true ∧ (s.cl c).pc ≤ 0xFFFC ∧ lvsDecode c (lvsFetch s c) = .ok i

/-- The state at the clock in which cluster c executes its next instruction: only time has moved on. -/
def lvsNow (s : State) (c : ClusterId) : State := advClock s (cluRgn c) (s.cl c).readyClk

/-- t is s but for the passage of time, and for cluster c, of which only scalar registers, pc and the clock at which the next
instruction may execute may differ. -/
def OnlyScalar (c : ClusterId) (s t : State) : Prop :=
  t = { lvsNow s c with clusters := t.clusters } ∧ SameMem s t ∧ (∀ k, k ≠ c.val → t.cl k = s.cl k) ∧
  ∃ rs pc clk, t.cl c = { s.cl c with s := rs, pc := pc, readyClk := clk }

/-- Every scalar register of cluster c but d reads in t as in s. -/
def OtherRegs (c : ClusterId) (d : SReg) (s t : State) : Prop := ∀ r : SReg, r ≠ d → lvsReg t c r = lvsReg s c r

/-- The instruction i writes v to d (a write to s0 is ignored, R134) and execution goes on at pc after `cost` clocks;
nothing else changes. -/
def SetsReg (i : Instr) (c : ClusterId) (d : SReg) (v : Word) (pc cost : Nat) (s : State) : Prop :=
  ∃ t, exec i s = .next t ∧ lvsReg t c d = (if d = 0 then 0 else v) ∧ OtherRegs c d s t ∧ (t.cl c).pc = pc ∧
    (t.cl c).readyClk = cluClk (lvsNow s c) c + cost ∧ OnlyScalar c s t

/-- The instruction i traps with a cause: the sequencer stops, SEQ_TRAP records pc, cause and frame, SEQ_TRAP_CNT advances; no
memory changes and no scalar register but d (R136, R159). -/
def Traps (i : Instr) (c : ClusterId) (d : SReg) (cause : Nat) (s : State) : Prop :=
  ∃ t, exec i s = .next t ∧ (t.cl c).seq = .trapped ∧
    t.reg (seqTrapAt c) = (s.cl c).pc * 2 ^ 32 + cause * 2 ^ 28 + 2 ^ 27 + (s.cl c).frameIdx % 2 ^ 20 ∧
    t.ctr (seqTrapCntAt c) = min (s.ctr (seqTrapCntAt c) + 1) 0xFFFFFFFFFFFF ∧
    (∀ a, a ≠ seqTrapAt c → a ≠ seqTrapCntAt c → t.reg a = s.reg a) ∧ OtherRegs c d s t ∧ SameMem s t ∧
    (∀ k, k ≠ c.val → t.cl k = s.cl k)

/-- The fields of an LVS instruction of cluster c that a word can hold: the parts of imm that its row does not name are 0
(R138). -/
def LvsFits (c : ClusterId) : Instr → Prop
  | .add k _ _ _ | .sub k _ _ _ | .and k _ _ _ | .or k _ _ _ | .xor k _ _ _ | .sll k _ _ _ | .srl k _ _ _ | .sra k _ _ _
  | .slt k _ _ _ | .sltu k _ _ _ | .mul k _ _ _ | .mulhu k _ _ _ | .addi k _ _ _ | .andi k _ _ _ | .ori k _ _ _
  | .xori k _ _ _ | .slti k _ _ _ | .lui k _ _ | .lw k _ _ _ | .sw k _ _ _ | .beq k _ _ _ | .bne k _ _ _ | .blt k _ _ _
  | .bltu k _ _ _ | .jal k _ _ | .jalr k _ _ _ | .disp k _ | .dispm k _ _ | .csrr k _ _ | .csrw k _ _ | .hend k | .fend k
  | .fence k => k = c
  | .waitg k _ i | .grd k _ i => k = c ∧ i.toNat < 16
  | .qrd k _ i | .qcnt k _ i => k = c ∧ i.toNat < 64
  | .hslot k i => k = c ∧ i.toNat < 8
  | _ => False

/-- A cluster apart from its data cache and the control packets that wait for their bucket. -/
def Cluster.outsideCache (x : Cluster) : Cluster := { x with cache := [], wb := [], get := none, ctrlOut := [] }

/-- A cluster apart from what the end of its frame's work writes (R142). -/
def Cluster.noEnd (x : Cluster) : Cluster := { x with seq := .idle, workEnd := none }

/-- A unit apart from its Shadow engine's sets (R425). -/
def UnitState.noSets (x : UnitState) : UnitState := { x with dirty := [], sets := [] }

/-! ### Every command -/

/-- Command i runs on s and answers a next state of which P holds. -/
def Goes (i : Instr) (s : State) (P : State → Prop) : Prop := ∃ t, exec i s = .next t ∧ P t

/-- Every register but those of the list holds in t what it holds in s. -/
def RegsBut (l : List Nat) (s t : State) : Prop := ∀ a, a ∉ l → t.reg a = s.reg a

/-- A counter has advanced by one; it stops at 2^48 − 1 (R9). -/
def Counted (a : Nat) (s t : State) : Prop := t.ctr a = min (s.ctr a + 1) 0xFFFFFFFFFFFF

/-- A counter has advanced by n; it stops at 2^48 − 1 (R9). -/
def CountedBy (a n : Nat) (s t : State) : Prop := t.ctr a = if n = 0 then s.ctr a else min (s.ctr a + n) 0xFFFFFFFFFFFF

/-- Of the clusters only c differs. -/
def OnlyCl (c : Nat) (s t : State) : Prop := ∀ k, k ≠ c → t.cl k = s.cl k

/-- Of the units only u differs. -/
def OnlyUn (u : Nat) (s t : State) : Prop := ∀ k, k ≠ u → t.un k = s.un k

/-- Of the stacks only n differs. -/
def OnlyMr (n : Nat) (s t : State) : Prop := ∀ k, k ≠ n → t.mr k = s.mr k

/-- Of the quarters only q differs. -/
def OnlyQtr (q : Nat) (s t : State) : Prop := ∀ k, k ≠ q → t.qtr k = s.qtr k

/-- Of the scale-out ports only p differs. -/
def OnlyPort (p : Nat) (s t : State) : Prop := ∀ k, k ≠ p → t.port k = s.port k

/-- One packet more waits at an agent port of a router to enter the mesh, behind the others. -/
def Sends (site port : Nat) (p : Packet) (s t : State) : Prop := (t.rtr site).inject = (s.rtr site).inject ++ [(port, p)]

/-- The mailbox of quarter q, which holds request r, has been answered with a short reply: DONE, vector 9 and the reply while the link is
up (R349, R350). -/
def Replies (q : Nat) (r : MbReq) (status : Nat) (payload : Bytes) (s t : State) : Prop :=
  let body := replyHeader r.tag payload.length status 0 0 ++ payload
  t = { s with regs := t.regs, quarters := t.quarters, out := t.out } ∧ OnlyQtr q s t ∧
  t.reg (hstMbStatAt q) = 2 ∧ RegsBut [hstMbStatAt q] s t ∧
  t.qtr q = { s.qtr q with mb := none, mbDoneAt := some s.fab, repArea := body } ∧
  t.out = if (s.qtr q).pcieUp then .msix q 9 :: .reply q r.tag status body :: s.out else s.out

/-- The mailbox of quarter q has answered REFUSED with a cause (R350). -/
def Refuses (q : Nat) (r : MbReq) (cause : Nat) (s t : State) : Prop := Replies q r 2 (leBytes 4 cause) s t

end Sys2Proof.Machine
end

