-- ==== Sys2Proof/Certificates/Slice0/Obligations.lean ====
section
/-! DEFINITION. The statements for the provers.  Each formalises rules of the spec, or says of the model what it is used for;
its docstring says which. -/

open Sys2Proof Sys2Proof.Machine

/-- A step takes the command at the front of the queue and runs it with the queue's rest; the step of an empty queue is the
passage of one fabric cycle, the model's choice (log entry 2). -/
def Obligations.StepRunsFront : Prop :=
  (∀ (c : Instr) (rest : List Instr) (s : State), s.pending = c :: rest → step s = exec c { s with pending := rest }) ∧
  ∀ s : State, s.pending = [] → ∃ t, step s = .next t ∧ t.fab = s.fab + 1 ∧
    t = { s with fab := t.fab, keepers := t.keepers, mgr := t.mgr }

/-- No command stops the block: each has an effect the spec gives, if only to answer an error. -/
def Obligations.EveryCommandGoesOn : Prop :=
  (∀ (i : Instr) (s : State), ∃ t, exec i s = .next t) ∧ ∀ s : State, SafeStep s

/-- What every command keeps: the queue of commands, the canonical form of the byte memory, and what has left the block. -/
def Obligations.CommandsKeepQueueMemoryAndOutputs : Prop :=
  ∀ (i : Instr) (s t : State), exec i s = .next t →
    t.pending = s.pending ∧ (s.memOk → t.memOk) ∧ s.out <:+ t.out

/-- Scratchpads, schedule memories and stacked memory stay in the one canonical form, whatever command runs. -/
def Obligations.MemoryStaysCanonical : Prop :=
  ∀ s t : State, s.memOk → StepsTo s t → t.memOk

/-- Cold and warm reset (R394, R395), the survival table (R409), and the warm reset that a cold one overrides (R505). -/
def Obligations.WhatResetsKeep : Prop :=
  ∀ (s : State),
  let kept (t : State) : Prop := t.pending = s.pending ∧ t.out = s.out ∧ t.sec.store = s.sec.store ∧ t.sec.schema = s.sec.schema ∧
    t.sec.revoked = s.sec.revoked ∧ t.sec.repairs = s.sec.repairs ∧ t.sec.hardRows = s.sec.hardRows ∧
    (∀ n, (t.mr n).hardRepairs = (s.mr n).hardRepairs ∧ (t.mr n).bankRepairs = (s.mr n).bankRepairs) ∧
    ∀ b, (t.inst b).count = (s.inst b).count ∧ (t.inst b).svnA = (s.inst b).svnA ∧ (t.inst b).svnB = (s.inst b).svnB ∧
      (t.inst b).preferB = (s.inst b).preferB ∧ (t.inst b).hdrA = (s.inst b).hdrA ∧ (t.inst b).hdrB = (s.inst b).hdrB ∧
      (t.inst b).imgA = (s.inst b).imgA ∧ (t.inst b).imgB = (s.inst b).imgB
  let cleared (t : State) : Prop := (∀ a, memByte t.mem a = memByte [] a) ∧ t.clusters = [] ∧
    (∀ u, t.un u = if clearing (s.un u) = true then { clear := 1 } else {}) ∧ t.routers = [] ∧ t.flights = [] ∧ t.parts = [] ∧ t.fields = [] ∧ t.ports = [] ∧ (∀ q, (t.qtr q).keys = []) ∧ (∀ r, (t.rgn r).hdr = 0 ∧ (t.rgn r).mhz = 0)
  let warm (v : State) (i : Instr) : Prop := Goes i s fun t => kept t ∧ cleared t ∧ t.fab = v.fab ∧ t.mgr.step = 2 ∧
    (∀ k, nsAt t k = nsAt v k ∧ (t.keeper k).fuse = (s.keeper k).fuse) ∧ mgrNs t = mgrNs v ∧ Counted pmWarmRstCntAt s t ∧
    ∀ a r, regAt a = some r → r.1.ctr = true → a ≠ pmWarmRstCntAt → t.ctr a = s.ctr a
  Goes .coldReset s (fun t => kept t ∧ cleared t ∧ (∀ a, t.ctr a = 0) ∧ t.fab = 0 ∧ t.mgr = State.reset.mgr ∧ t.quarters = []) ∧
  (s.fab ≠ 0 → warm s .warmRstN) ∧ (s.fab = 0 → Goes .warmRstN s fun t => t = s) ∧ (∀ f, s.mgr.warmAt = some f → warm (advFab s f) .warmResetStart)

/-- Anti-rollback fuses and key revocations are permanent: nothing the panel can be told to do takes one back. -/
def Obligations.FusesAndRevokedKeysStand : Prop :=
  ∀ s t : State, StepsTo s t → s.instA.count ≤ t.instA.count ∧ s.instB.count ≤ t.instB.count ∧
    ∀ k, bit s.sec.revoked k = true → bit t.sec.revoked k = true

/-- The clock moves forwards only; a cold reset, which a fault of VAON is too, begins it anew. -/
def Obligations.TimeNeverRunsBack : Prop :=
  ∀ s t : State, StepsTo s t → s.fab ≤ t.fab ∨
    (t.fab = 0 ∧ ∃ rest, s.pending = .coldReset :: rest ∨ ∃ cause status, s.pending = .domainFault 6 cause status :: rest)

/-- The 38 LVS instructions: decode of encode is the instruction, with every operand at every value its row admits, and encode
of decode is the word. -/
def Obligations.LvsDecodeEncode : Prop :=
  (∀ (c : ClusterId) (i : Instr), LvsFits c i → ∃ w, w < 2 ^ 32 ∧ lvsEncode i = some w ∧ lvsDecode c w = .ok i) ∧
  ∀ (c : ClusterId) (w : Nat) (i : Instr), w < 2 ^ 32 → lvsDecode c w = .ok i → LvsFits c i ∧ lvsEncode i = some w

/-- Form A of R137, with operands x = a and y = b: shifts count by y[4:0], SLT compares signed, MUL and MULHU give the low and
the high half of the unsigned product.  Results, costs and frame, for every register, s0 among them. -/
def Obligations.LvsRegisterOperations : Prop :=
  ∀ (s : State) (c : ClusterId) (d a b : SReg),
  let x := lvsReg s c a
  let y := lvsReg s c b
  let pc := (s.cl c).pc + 4
  (LvsAt s c (.add c d a b) → SetsReg (.add c d a b) c d (x + y) pc 1 s) ∧
  (LvsAt s c (.sub c d a b) → SetsReg (.sub c d a b) c d (x - y) pc 1 s) ∧
  (LvsAt s c (.and c d a b) → SetsReg (.and c d a b) c d (x &&& y) pc 1 s) ∧
  (LvsAt s c (.or c d a b) → SetsReg (.or c d a b) c d (x ||| y) pc 1 s) ∧
  (LvsAt s c (.xor c d a b) → SetsReg (.xor c d a b) c d (x ^^^ y) pc 1 s) ∧
  (LvsAt s c (.sll c d a b) → SetsReg (.sll c d a b) c d (x <<< (y.toNat % 32)) pc 1 s) ∧
  (LvsAt s c (.srl c d a b) → SetsReg (.srl c d a b) c d (x >>> (y.toNat % 32)) pc 1 s) ∧
  (LvsAt s c (.sra c d a b) → SetsReg (.sra c d a b) c d (x.sshiftRight (y.toNat % 32)) pc 1 s) ∧
  (LvsAt s c (.slt c d a b) → SetsReg (.slt c d a b) c d (if x.toInt < y.toInt then 1 else 0) pc 1 s) ∧
  (LvsAt s c (.sltu c d a b) → SetsReg (.sltu c d a b) c d (if x.toNat < y.toNat then 1 else 0) pc 1 s) ∧
  (LvsAt s c (.mul c d a b) → SetsReg (.mul c d a b) c d (BitVec.ofNat 32 (x.toNat * y.toNat)) pc 3 s) ∧
  (LvsAt s c (.mulhu c d a b) → SetsReg (.mulhu c d a b) c d (BitVec.ofNat 32 (x.toNat * y.toNat / 2 ^ 32)) pc 3 s)

/-- Form B arithmetic and LUI of R137: results, cost and frame, for every register, s0 among them. -/
def Obligations.LvsImmediateOperations : Prop :=
  ∀ (s : State) (c : ClusterId) (d a : SReg) (i : Imm14) (j : Imm20),
  let x := lvsReg s c a
  let pc := (s.cl c).pc + 4
  (LvsAt s c (.addi c d a i) → SetsReg (.addi c d a i) c d (x + i.signExtend 32) pc 1 s) ∧
  (LvsAt s c (.slti c d a i) → SetsReg (.slti c d a i) c d (if x.toInt < i.toInt then 1 else 0) pc 1 s) ∧
  (LvsAt s c (.andi c d a i) → SetsReg (.andi c d a i) c d (x &&& i.zeroExtend 32) pc 1 s) ∧
  (LvsAt s c (.ori c d a i) → SetsReg (.ori c d a i) c d (x ||| i.zeroExtend 32) pc 1 s) ∧
  (LvsAt s c (.xori c d a i) → SetsReg (.xori c d a i) c d (x ^^^ i.zeroExtend 32) pc 1 s) ∧
  (LvsAt s c (.lui c d j) → SetsReg (.lui c d j) c d (BitVec.ofNat 32 (j.toNat * 2 ^ 12)) pc 1 s)

/-- Branches (R137): taken, not taken, and taken to an address outside schedule memory (R136). -/
def Obligations.LvsBranches : Prop :=
  ∀ (s : State) (c : ClusterId) (d a : SReg) (i : Imm14),
  let x := lvsReg s c d
  let y := lvsReg s c a
  let target : Int := (s.cl c).pc + 4 * i.toInt
  let ok (j : Instr) (p : Prop) : Prop := LvsAt s c j →
    (p → 0 ≤ target → target < 0x10000 → SetsReg j c 0 0 target.toNat 2 s) ∧
    (¬p → SetsReg j c 0 0 ((s.cl c).pc + 4) 1 s) ∧
    (p → (target < 0 ∨ 0x10000 ≤ target) → (s.cl c).late = none → Traps j c 0 3 s)
  ok (.beq c d a i) (y = x) ∧
  ok (.bne c d a i) (y ≠ x) ∧
  ok (.blt c d a i) (y.toInt < x.toInt) ∧
  ok (.bltu c d a i) (y.toNat < x.toNat)

/-- Jumps (R137).  The target of JALR is read before d is written, so d may be a. -/
def Obligations.LvsJumps : Prop :=
  ∀ (s : State) (c : ClusterId) (d a : SReg) (i : Imm14) (j : Imm20),
  let pc := (s.cl c).pc
  let link := BitVec.ofNat 32 (pc + 4)
  let ok (k : Instr) (target : Int) : Prop := LvsAt s c k →
    (0 ≤ target → target < 0x10000 → SetsReg k c d link target.toNat 2 s) ∧
    ((target < 0 ∨ 0x10000 ≤ target) → (s.cl c).late = none → Traps k c d 3 s)
  ok (.jal c d j) (pc + 4 * j.toInt) ∧ ok (.jalr c d a i) ((lvsReg s c a + i.signExtend 32).toNat / 4 * 4 : Nat)

/-- LW for every place an address can name (R135 to R137, R196). -/
def Obligations.LvsLoads : Prop :=
  ∀ (s : State) (c : ClusterId) (d a : SReg) (i : Imm14), LvsAt s c (.lw c d a i) →
  let x := s.cl c
  let ad := (lvsReg s c a + i.signExtend 32).toNat
  (ad % 4 ≠ 0 → x.late = none → Traps (.lw c d a i) c 0 2 s) ∧
  (ad % 4 = 0 → ad < 0x10000 →
    SetsReg (.lw c d a i) c d (BitVec.ofNat 32 (leNat (s.read (schedAt c ad) 4))) (x.pc + 4) 2 s) ∧
  (ad % 4 = 0 → scalarPlace s c ad = .unmapped → x.late = none → Traps (.lw c d a i) c 0 3 s) ∧
  ∀ w, ad % 4 = 0 → scalarPlace s c ad = .window w →
    (stackGone s (homeStack w) = true → SetsReg (.lw c d a i) c d 0 (x.pc + 4) 3 s) ∧
    (stackGone s (homeStack w) = false → ∀ l, cached x (lineOf w) = some l →
      SetsReg (.lw c d a i) c d (lineWord l.data w) (x.pc + 4) 3 s) ∧
    (stackGone s (homeStack w) = false → cached x (lineOf w) = none → Goes (.lw c d a i) s fun t =>
      (t.cl c).stall = some (.miss (lineOf w) false d w none) ∧ (t.cl c).pc = x.pc + 4 ∧ SameMem s t ∧
      (∀ k, k ≠ c.val → (t.cl k).outsideCache = (s.cl k).outsideCache) ∧
      (t.cl c).outsideCache = { x.outsideCache with pc := (t.cl c).pc, stall := (t.cl c).stall, readyClk := (t.cl c).readyClk })

/-- SW for every place an address can name (R135 to R137, R196, R288). -/
def Obligations.LvsStores : Prop :=
  ∀ (s : State) (c : ClusterId) (d a : SReg) (i : Imm14), LvsAt s c (.sw c d a i) →
  let x := s.cl c
  let v := lvsReg s c d
  let ad := (lvsReg s c a + i.signExtend 32).toNat
  let done (cost : Nat) (y : Cluster) : Cluster := { y with pc := x.pc + 4, readyClk := cluClk (lvsNow s c) c + cost }
  (ad % 4 ≠ 0 → x.late = none → Traps (.sw c d a i) c 0 2 s) ∧
  (ad % 4 = 0 → ad < 0x10000 → Goes (.sw c d a i) s fun t =>
    t.read (schedAt c ad) 4 = leBytes 4 v.toNat ∧ SameMemBut (schedAt c ad) 4 s t ∧
    t = { lvsNow s c with clusters := t.clusters, mem := t.mem } ∧ t.cl c = done 2 x ∧ ∀ k, k ≠ c.val → t.cl k = s.cl k) ∧
  (ad % 4 = 0 → scalarPlace s c ad = .unmapped → x.late = none → Traps (.sw c d a i) c 0 3 s) ∧
  ∀ w, ad % 4 = 0 → scalarPlace s c ad = .window w →
    (x.replay = none → stackGone s (homeStack w) = false → ∀ l, cached x (lineOf w) = some l → l.excl = true →
      Goes (.sw c d a i) s fun t => t = { lvsNow s c with clusters := t.clusters } ∧
        t.cl c = done 3 (cachePut x { l with data := lineWith l.data w v }) ∧ ∀ k, k ≠ c.val → t.cl k = s.cl k) ∧
    (x.replay = none → stackGone s (homeStack w) = false → (∀ l, cached x (lineOf w) = some l → l.excl = false) →
      Goes (.sw c d a i) s fun t =>
        (t.cl c).stall = some (.miss (lineOf w) true 0 w (some v)) ∧ (t.cl c).pc = x.pc + 4 ∧ SameMem s t ∧
        (∀ k, k ≠ c.val → (t.cl k).outsideCache = (s.cl k).outsideCache) ∧
        (t.cl c).outsideCache = { x.outsideCache with pc := (t.cl c).pc, stall := (t.cl c).stall, readyClk := (t.cl c).readyClk }) ∧
    (x.replay = none → stackGone s (homeStack w) = true → SetsReg (.sw c d a i) c 0 0 (x.pc + 4) 3 s) ∧
    (∀ r, x.replay = some r → Goes (.sw c d a i) s fun t => t = { lvsNow s c with clusters := t.clusters } ∧
      t.cl c = done 3 { x with replay := some { r with breach := true } } ∧ ∀ k, k ≠ c.val → t.cl k = s.cl k)

/-- Dispatch (R132, R133, R138). -/
def Obligations.LvsDispatch : Prop :=
  ∀ (s : State) (c : ClusterId) (a : SReg) (i : Imm14),
  let x := s.cl c
  let now := cluClk (lvsNow s c) c
  let joins (raw : BitVec 256) (at_ : Nat) (y : Cluster) : Cluster :=
    let d : Desc := { did := x.nextDid, raw := raw, frame := x.frame, at_ := at_, replay := x.replay.isSome }
    { y with nextDid := x.nextDid + 1, dq := x.dq ++ [d], live := x.live ++ [(x.nextDid, d.grp)] }
  let ok (j : Instr) (raw : BitVec 256) (cost : Nat) : Prop :=
    let y : Cluster := { x with pc := x.pc + 4, readyClk := now + cost }
    Goes j s fun t => t = { lvsNow s c with clusters := t.clusters } ∧ (∀ k, k ≠ c.val → t.cl k = s.cl k) ∧
      t.cl c = if x.dq.length < 64 then joins raw now y else { y with stall := some (.dispatch raw), stallAt := now, stallOpen := true }
  (LvsAt s c (.disp c a) →
    (a.val % 8 = 0 → 8 ≤ a.val → a.val ≤ 56 →
      ok (.disp c a) (BitVec.ofNat 256 ((List.range 8).map fun w => (readS x (a.val + w)).toNat * 2 ^ (32 * w)).sum) 1) ∧
    ((a.val % 8 ≠ 0 ∨ a.val < 8 ∨ 56 < a.val) → x.late = none → Traps (.disp c a) c 0 4 s)) ∧
  (LvsAt s c (.dispm c a i) →
    let ad := (lvsReg s c a + i.signExtend 32).toNat
    (ad % 32 = 0 → ad ≤ 65504 → ok (.dispm c a i) (BitVec.ofNat 256 (leNat (s.read (schedAt c ad) 32))) 2) ∧
    ((ad % 32 ≠ 0 ∨ 65504 < ad) → x.late = none → Traps (.dispm c a i) c 0 5 s)) ∧
  ∀ raw, x.stall = some (.dispatch raw) → x.dq.length < 64 → Goes (.dispatchStallRelease c) s fun t =>
    t = { s with clusters := t.clusters, regs := t.regs } ∧ (∀ k, k ≠ c.val → t.cl k = s.cl k) ∧
    t.cl c = joins raw (cluClk s c) { x with stall := none, stallOpen := false, readyClk := max x.readyClk (cluClk s c + 1) } ∧
    RegsBut [seqDqFullCntAt c] s t ∧
    (s.ctr (seqDqFullCntAt c) ≤ 0xFFFFFFFFFFFF → t.ctr (seqDqFullCntAt c) =
      min (s.ctr (seqDqFullCntAt c) + (if x.stallOpen = true then cluClk s c - x.stallAt else 0)) 0xFFFFFFFFFFFF)

/-- Counts, queues and register blocks (R138). -/
def Obligations.LvsCountsQueuesAndRegisters : Prop :=
  ∀ (s : State) (c : ClusterId) (d a : SReg) (i : Imm14),
  let x := s.cl c
  let pc := x.pc + 4
  let q := i.toNat % 64
  let blk := i.toNat / 2 ^ 12
  let off := i.toNat % 2 ^ 12
  let bad := blk = 3 ∨ off % 4 ≠ 0
  (LvsAt s c (.grd c d i) → SetsReg (.grd c d i) c d (BitVec.ofNat 32 (findD x.grpCnt (i.toNat % 16) 0)) pc 1 s) ∧
  (LvsAt s c (.qcnt c d i) → x.replay = none →
    SetsReg (.qcnt c d i) c d (BitVec.ofNat 32 (entries (queueOf x q)).length) pc 1 s) ∧
  (LvsAt s c (.qcnt c d i) → ∀ r, x.replay = some r → Goes (.qcnt c d i) s fun t =>
    lvsReg t c d = 0 ∧ OtherRegs c d s t ∧ (t.cl c).pc = pc ∧ (t.cl c).replay = some { r with breach := true } ∧ SameMem s t) ∧
  (LvsAt s c (.qrd c d i) → ∀ e es dc, x.replay = none → entries (queueOf x q) = e :: es →
    declOf s c q = some dc → Goes (.qrd c d i) s fun t =>
      lvsReg t c d = (if d = 0 then 0 else BitVec.ofNat 32 (entryLow dc e)) ∧ OtherRegs c d s t ∧ (t.cl c).pc = pc ∧
      t.reg (seqQlastAt c) = entryHigh dc e ∧ SameMem s t ∧
      queueOf (t.cl c) q = { queueOf x q with
        msgs := mapFirst (fun n => n.stage == 2) (fun n => { n with stage := 3 }) (queueOf x q).msgs }) ∧
  (LvsAt s c (.qrd c d i) → ((x.replay = none ∧ entries (queueOf x q) = []) ∨ x.replay.isSome = true) →
    Goes (.qrd c d i) s fun t => lvsReg t c d = 0 ∧ OtherRegs c d s t ∧ (t.cl c).pc = pc ∧ t.reg (seqQlastAt c) = 0 ∧
      RegsBut [seqQlastAt c] s t ∧ SameMem s t) ∧
  (LvsAt s c (.csrr c d i) → ¬bad → Goes (.csrr c d i) s fun t =>
    lvsReg t c d = (if d = 0 then 0 else BitVec.ofNat 32 (csrWord (lvsNow s c) c blk off)) ∧ OtherRegs c d s t ∧
    (t.cl c).pc = pc ∧ SameMem s t ∧ RegsBut [] s t) ∧
  (LvsAt s c (.csrw c a i) → ¬bad → Goes (.csrw c a i) s fun t =>
    let u := lvsNow s c
    let v := (lvsReg s c a).toNat
    t.regs = (if blk = 0 then (writeRwWord u seqRows (seqBlk c) off v).regs
      else if blk = 1 then (writeRwWord u seRows (seBlk c) off v).regs else s.regs) ∧
    (t.cl c).pc = pc ∧ (∀ r, lvsReg t c r = lvsReg s c r) ∧ SameMem s t) ∧
  (bad → x.late = none → (LvsAt s c (.csrr c d i) → Traps (.csrr c d i) c 0 5 s) ∧
    (LvsAt s c (.csrw c a i) → Traps (.csrw c a i) c 0 5 s))

/-- WAITG, FENCE and the end of their stalls (R138). -/
def Obligations.LvsWaits : Prop :=
  ∀ (s : State) (c : ClusterId) (a : SReg) (i : Imm14),
  let x := s.cl c
  let g := i.toNat % 16
  let k := (lvsReg s c a).toNat
  let stalls (j : Instr) (w : Stall) : Prop := Goes j s fun t => t = { lvsNow s c with clusters := t.clusters } ∧
    (∀ k, k ≠ c.val → t.cl k = s.cl k) ∧
    t.cl c = { x with pc := x.pc + 4, readyClk := cluClk (lvsNow s c) c + 1, stall := some w }
  let goesOn (j : Instr) : Prop := Goes j s fun t => t = { s with clusters := t.clusters } ∧
    (∀ k, k ≠ c.val → t.cl k = s.cl k) ∧ t.cl c = { x with stall := none, readyClk := max x.readyClk (cluClk s c + 1) }
  (LvsAt s c (.waitg c a i) →
    (k ≤ findD x.grpCnt g 0 → SetsReg (.waitg c a i) c 0 0 (x.pc + 4) 1 s) ∧
    (findD x.grpCnt g 0 < k → stalls (.waitg c a i) (.waitg g k))) ∧
  (LvsAt s c (.fence c) →
    (x.live = [] → SetsReg (.fence c) c 0 0 (x.pc + 4) 1 s) ∧ (x.live ≠ [] → stalls (.fence c) .fence)) ∧
  (∀ g k, x.stall = some (.waitg g k) → k ≤ findD x.grpCnt g 0 → goesOn (.waitgSatisfied c)) ∧
  (x.stall = some .fence → x.live = [] → goesOn (.fenceSatisfied c))

/-- FEND and handler slots (R142 to R144). -/
def Obligations.LvsFrameEndAndHandlers : Prop :=
  ∀ (s : State) (c : ClusterId) (i : Imm14) (e : SchedEntry),
  let x := s.cl c
  let m := i.toNat % 8
  let allow (m : Nat) := imageNat e (0x14 + 8 * m) 4
  let maxmsg (m : Nat) := imageNat e (0x18 + 8 * m) 2
  let begins (q ret m n : Nat) (t : State) : Prop :=
    (t.cl c).seq = .handler ∧ (t.cl c).pc = 4 * handlerOf e q ∧ Counted (seqHandlerCntAt c) s t ∧
    lvsReg t c 3 = BitVec.ofNat 32 (takeEntry s c q).1 ∧ lvsReg t c 4 = BitVec.ofNat 32 q ∧
    (∃ t0, (t.cl c).handler = some (q, ret, m, t0, n)) ∧ (∀ r : SReg, r ≠ 3 → r ≠ 4 → lvsReg t c r = lvsReg s c r)
  let ends (ret : Nat) (t : State) : Prop :=
    (t.cl c).seq = .run ∧ (t.cl c).pc = ret ∧ (t.cl c).handler = none ∧ (∀ r : SReg, lvsReg t c r = lvsReg s c r) ∧ SameMem s t
  (LvsAt s c (.fend c) → x.seq = .run → x.late = none → x.workEnd = none → Goes (.fend c) s fun t =>
    (t.cl c).seq = .ended ∧ ((t.cl c).workEnd.isSome = true ↔ x.live = []) ∧ (∀ r, lvsReg t c r = lvsReg s c r) ∧ SameMem s t ∧
    ∀ k, k ≠ c.val → t.cl k = s.cl k) ∧
  (LvsAt s c (.fend c) → x.seq = .handler → x.late = none → Traps (.fend c) c 0 6 s) ∧
  (LvsAt s c (.hslot c i) → x.seq = .handler → x.late = none → Traps (.hslot c i) c 0 6 s) ∧
  (LvsAt s c (.hslot c i) → x.seq = .run → schedOf s c = some e →
    ((x.replay.isSome = true ∨ imageNat e 0x10 4 ≤ m ∨ m ∈ x.slotsRun) → SetsReg (.hslot c i) c 0 0 (x.pc + 4) 1 s) ∧
    (x.replay = none → m < imageNat e 0x10 4 → m ∉ x.slotsRun → Goes (.hslot c i) s fun t => m ∈ (t.cl c).slotsRun ∧
      (∀ q, handlerQueue x e = some q → 0 < allow m → 0 < maxmsg m → begins q (x.pc + 4) m 1 t) ∧
      ((handlerQueue x e = none ∨ allow m = 0 ∨ maxmsg m = 0) → ends (x.pc + 4) t))) ∧
  (LvsAt s c (.hend c) → x.handler = none → x.late = none → Traps (.hend c) c 0 6 s) ∧
  (LvsAt s c (.hend c) → schedOf s c = some e → ∀ q0 ret m t0 n, x.handler = some (q0, ret, m, t0, n) →
    Goes (.hend c) s fun t =>
      let used := cluClk (advClock (lvsNow s c) (cluRgn c) (cluClk (lvsNow s c) c + 1)) c - t0
      (∀ q, handlerQueue x e = some q → n < maxmsg m → used < allow m → begins q ret m (n + 1) t) ∧
      ((handlerQueue x e = none ∨ maxmsg m ≤ n ∨ allow m ≤ used) → ends ret t ∧
        (allow m < used → Counted (seqHslotOverCntAt c) s t)))

/-- Issue at a unit (R62, R133), and the illegal descriptor (R146): the same for every class and operation.  v is the state in the
region clock of the issue, the unit's own accesses of earlier clocks made. -/
def Obligations.UnitIssue : Prop :=
  ∀ (s : State) (u : UnitId) (d : Desc) (rest : List Desc),
  let x := s.un u
  let c := unitClu u
  let v := atPresent (advClock s (unitRgn u) (max (d.at_ + 3) x.issueClk)) u
  let y := v.un u
  let w := v.modUn u fun z => { z with uq := rest, issueClk := unitClk v u + 1 }
  let ok (i : Instr) (p : Prop) : Prop := p → x.uq = d :: rest → canIssue s u d = true →
    (illegal w c d = none → Goes i s fun t =>
      (t.un u).uq = rest ∧ (t.un u).issueClk = unitClk v u + 1 ∧ (t.un u).issued.map (·.d) = y.issued.map (·.d) ++ [d] ∧
      (∃ e, (t.un u).issued.getLast? = some e ∧ e.d = d ∧ e.ord = y.ord ∧ e.mmaOrd = y.mmas) ∧
      (t.un u).ord = (if convertsSr d = true then (y.ord + 1) % 2 ^ 20 else y.ord) ∧
      (t.un u).mmas = (if d.cls = 0 then y.mmas + 1 else y.mmas) ∧
      (∃ n, (engRemote d = false → n = 0) ∧ (t.cl c).eng = if 2 ≤ d.cls ∧ d.cls ≤ 5 then
        insEng (s.cl c).eng { d := d, unit := u.val, at_ := unitClk v u, dq := n } else (s.cl c).eng) ∧
      (∀ k, k ≠ u.val → t.un k = v.un k) ∧ (∀ k, k ≠ c → t.cl k = s.cl k) ∧ SameMem v t ∧ RegsBut [] v t ∧ t.fab = v.fab) ∧
    (∀ code, illegal w c d = some code → Goes i s fun t =>
      (t.un u).uq = rest ∧ (t.un u).issued = y.issued ∧ find? (t.cl c).live d.did = none ∧
      (∀ g, find? (s.cl c).live d.did = some g → findD (t.cl c).grpFlags g 0 = findD (s.cl c).grpFlags g 0 ||| stError) ∧
      (t.reg (seqDescErrAt c) =
        let r := d.raw.toNat
        bits r 31 16 * 2 ^ 48 + code * 2 ^ 32 + bits r 3 0 * 2 ^ 28 + bits r 5 4 * 2 ^ 26 + 2 ^ 25 + (s.cl c).frameIdx % 2 ^ 20) ∧
      Counted (seqDescErrCntAt c) v t ∧ SameMem v t)
  ok (.mma u) (d.cls = 0) ∧
  ok (.vopMov u) (d.cls = 1 ∧ d.op = 0x00) ∧
  ok (.vopAdd u) (d.cls = 1 ∧ d.op = 0x01) ∧
  ok (.vopSub u) (d.cls = 1 ∧ d.op = 0x02) ∧
  ok (.vopMul u) (d.cls = 1 ∧ d.op = 0x03) ∧
  ok (.vopFma u) (d.cls = 1 ∧ d.op = 0x04) ∧
  ok (.vopMin u) (d.cls = 1 ∧ d.op = 0x05) ∧
  ok (.vopMax u) (d.cls = 1 ∧ d.op = 0x06) ∧
  ok (.vopAbs u) (d.cls = 1 ∧ d.op = 0x07) ∧
  ok (.vopNeg u) (d.cls = 1 ∧ d.op = 0x08) ∧
  ok (.vopDiv u) (d.cls = 1 ∧ d.op = 0x09) ∧
  ok (.vopRcp u) (d.cls = 1 ∧ d.op = 0x0A) ∧
  ok (.vopSqrt u) (d.cls = 1 ∧ d.op = 0x0B) ∧
  ok (.vopRsqrt u) (d.cls = 1 ∧ d.op = 0x0C) ∧
  ok (.vopExp2 u) (d.cls = 1 ∧ d.op = 0x0D) ∧
  ok (.vopLog2 u) (d.cls = 1 ∧ d.op = 0x0E) ∧
  ok (.vopTanh u) (d.cls = 1 ∧ d.op = 0x0F) ∧
  ok (.vopRowsum u) (d.cls = 1 ∧ d.op = 0x10) ∧
  ok (.vopRowmax u) (d.cls = 1 ∧ d.op = 0x11) ∧
  ok (.vopColsum u) (d.cls = 1 ∧ d.op = 0x12) ∧
  ok (.vopColmax u) (d.cls = 1 ∧ d.op = 0x13) ∧
  ok (.vopCmpx u) (d.cls = 1 ∧ d.op = 0x14) ∧
  ok (.load u) (d.cls = 2) ∧
  ok (.store u) (d.cls = 3) ∧
  ok (.send u) (d.cls = 4) ∧
  ok (.redAccumulate u) (d.cls = 5 ∧ d.redOp = 0) ∧
  ok (.redRead u) (d.cls = 5 ∧ d.redOp = 1) ∧
  ok (.redReadClear u) (d.cls = 5 ∧ d.redOp = 2)

/-- The dispatch queue (R132, R133), the five WAITs (R153) and the way into the commit queue (R154).  The head leaves in the
region clock of v. -/
def Obligations.DispatchQueueHead : Prop :=
  ∀ (s : State) (c : ClusterId) (d : Desc) (rest : List Desc),
  let x := s.cl c
  x.dq = d :: rest → rgnRuns s (cluRgn c) = true →
  let u := 4 * c.val + d.unit
  let v := advClock s (cluRgn c) (max (d.at_ + 1) x.dqClk)
  let popped : Cluster := { x with dq := rest, waiting := false, stallOpen := false, dqClk := cluClk v c + 1 }
  let leaves (t : State) : Prop := (∀ k, k ≠ c.val → t.cl k = s.cl k) ∧ SameMem s t ∧ RegsBut [seqDqFullCntAt c] s t ∧ t.fab = v.fab ∧
    (s.ctr (seqDqFullCntAt c) ≤ 0xFFFFFFFFFFFF → t.ctr (seqDqFullCntAt c) =
      min (s.ctr (seqDqFullCntAt c) + (if x.stallOpen = true then cluClk v c - x.stallAt else 0)) 0xFFFFFFFFFFFF)
  let errs (g : Nat) (t : State) : Prop := (t.cl c).dq = rest ∧ (t.cl c).commitQ = x.commitQ ∧ find? (t.cl c).live d.did = none ∧
    findD (t.cl c).grpFlags g 0 = findD x.grpFlags g 0 ||| stError ∧ Counted (seqDescErrCntAt c) s t ∧ SameMem s t
  let waits (i : Instr) (k : Nat) : Prop := d.cond = k ∨ d.cond > 4 → d.cls = 6 → x.waiting = false →
    (illegal s c d = none → Goes i s fun t => t.cl c = { x with waiting := true } ∧
      (∀ k, k ≠ c.val → t.cl k = s.cl k) ∧ SameMem s t ∧ RegsBut [] s t) ∧
    (∀ code g, illegal s c d = some code → find? x.live d.did = some g → Goes i s (errs g))
  let commits (i : Instr) : Prop := d.cls = 7 → x.commitQ.length < 8 →
    (illegal (dqPop s c d) c d = none → Goes i s fun t => leaves t ∧
      t.cl c = { popped with commitQ := x.commitQ ++ [{ d := d, waits := (x.live.filter fun p => p.1 < d.did && bit (d.f 95 80) p.2).map (·.1) }] }) ∧
    (∀ code g, illegal (dqPop s c d) c d = some code → find? x.live d.did = some g → Goes i s (errs g))
  (d.cls ≠ 6 → d.cls ≠ 7 → (s.un u).uq.length < 16 → Goes (.dispatchHeadDepart c) s fun t => leaves t ∧
    t.cl c = popped ∧ t.un u = { s.un u with uq := (s.un u).uq ++ [d] } ∧ ∀ k, k ≠ u → t.un k = s.un k) ∧
  commits (.dispatchHeadDepart c) ∧ commits (.commit c) ∧
  waits (.waitGroupGe c) 0 ∧ waits (.waitQueueNe c) 1 ∧ waits (.waitFrameTime c) 2 ∧ waits (.waitTagFull c) 3 ∧
  waits (.waitTagEmpty c) 4 ∧
  (d.cls = 6 → x.waiting = true → waitHolds s c d = true → ∀ g, find? x.live d.did = some g → Goes (.waitSatisfied c) s fun t =>
    (t.cl c).dq = rest ∧ (t.cl c).waiting = false ∧ find? (t.cl c).live d.did = none ∧ (t.cl c).grpCnt = grpAdd x.grpCnt g ∧
    findD (t.cl c).grpFlags g 0 = findD x.grpFlags g 0 ||| (if x.late.isSome then stSuspect else stOk) ∧
    (∀ k, k ≠ c.val → t.cl k = s.cl k) ∧ SameMem s t)

/-- The work of a unit ends (R67, R68, R82 to R85, R98, R100, R123, R147), on the state v to which the unit has worked by itself. -/
def Obligations.UnitWorkEnds : Prop :=
  ∀ (s : State) (u : UnitId) (did : Nat), rgnRuns s (unitRgn u) = true →
  let c := unitClu u
  let closes (st : Nat) (t : State) : Prop := (∀ i ∈ (t.un u).issued, i.d.did ≠ did) ∧ find? (t.cl c).live did = none ∧
    (∀ g, find? (s.cl c).live did = some g → (t.cl c).grpCnt = grpAdd (s.cl c).grpCnt g ∧
      findD (t.cl c).grpFlags g 0 = findD (s.cl c).grpFlags g 0 ||| (if (s.cl c).late.isSome && st == 0 then stSuspect else st)) ∧
    ∀ k, k ≠ c → t.cl k = s.cl k
  (let v := atPresent s u
   mayBegin v u did = true → Goes (.tagWaitSatisfied u did) s fun t =>
      (∃ e ∈ (t.un u).issued, e.d.did = did ∧ e.begun = true) ∧ (t.un u).issued.map (·.d) = (v.un u).issued.map (·.d) ∧
      (∀ k, k ≠ u.val → t.un k = v.un k) ∧ (∀ k, t.cl k = s.cl k) ∧ SameMem v t ∧ RegsBut [] v t ∧ t.fab = s.fab) ∧
  (∀ e upset, mmaNext (s.un u) did = some e →
    let a := advClock s (unitRgn u) (e.beganAt + e.span)
    let v := catchUp a u (max (unitClk a u) (e.beganAt + e.span))
    let f := (mmaNext (v.un u) did).getD e
    let b := f.d.f 40 40
    let r := mmaCompute v u f (accWords (v.un u) b) upset
    let fails := ((List.range 64).zip r.cols).any fun p => match p.2 with | some (some _) => true | _ => false
    Goes (.mmaComplete u did upset) s fun t =>
      (t.un u).acc = (setAcc (v.un u) b r.c).acc ∧ SameMem v t ∧ t.fab = v.fab ∧ closes (if fails then stSuspect else stOk) t ∧
      (fails = true → Counted (unitCsumFailCntAt u) v t)) ∧
  (∀ e waits, vopOf (s.un u) did = some e →
    let v := runVop 65536 u did (atPresent s u)
    let f := (vopOf (v.un u) did).getD e
    Goes (.vopComplete u did waits) s fun t =>
      SameMem v t ∧ (t.un u).acc = (v.un u).acc ∧ (t.un u).vr = (v.un u).vr ∧ closes (if f.lane.diff then stSuspect else stOk) t ∧
      t.fab = (advClock v (unitRgn u) (f.beganAt + f.span + f.shift)).fab ∧
      (f.lane.diff = true → Counted (unitVcmpFailCntAt u) v t))

/-- The power headers of a region (R364 to R367), and the fetch of its firmware (R379, R380). -/
def Obligations.RegionHeaders : Prop :=
  ∀ (s : State) (r : RegionId) (c : ClusterId),
  let g := s.rgn r
  let d := r.val / 2
  let others (t : State) : Prop := (∀ k, k ≠ r.val → t.rgn k = s.rgn k) ∧ SameMem s t ∧
    (∀ k, t.cl k = s.cl k) ∧ (∀ k, t.un k = s.un k) ∧ (∀ k, t.die k = s.die k)
  let umbra (v : State) : Prop := SameMem s v ∧ (∀ k, v.die k = s.die k) ∧ ∀ k ∈ [2 * d, 2 * d + 1], (v.rgn k).hdr = (s.rgn k).hdr
  (g.hdr = 0 → (s.die d).state ≠ 2 → s.mgr.step = 5 → Goes (.regionWake r) s fun t =>
    t.fab = max s.fab (s.mgr.stepFab + 40000 * dieField d) ∧
    t.rgn r = { g with hdr := 1, stage := 0, stageAt := t.fab, firstAt := t.fab, winAt := t.fab, voids := 0 } ∧
    others t ∧ RegsBut [] s t) ∧
  (∀ mv, g.hdr = 1 → g.stage < 8 →
    let v := advFab s (g.winAt + 800)
    (alertIn v g.winAt = false ∨ 3 ≤ g.voids → 85 * s.mgr.vcoreMv ≤ mv * 100 → Goes (.headerStageCheck r mv) s fun t =>
      t.fab = max s.fab (g.winAt + 800) ∧ others t ∧ RegsBut [] s t ∧
      (g.stage = 7 → t.rgn r = { g with stage := 8 }) ∧
      (g.stage < 7 → ∃ w, w = max t.fab (g.firstAt + 1000 * (g.stage + 1)) ∧
        t.rgn r = { g with stage := g.stage + 1, stageAt := w, winAt := w, voids := 0 })) ∧
    (alertIn v g.winAt = true → g.voids < 3 → s.power.fda = 0 → Goes (.headerStageCheck r mv) s fun t =>
      t.rgn r = { g with voids := g.voids + 1, winAt := s.power.fdaOff.getD t.fab } ∧ others t ∧
      Counted (pwrHdrRetryCntAt d) s t) ∧
    (alertIn v g.winAt = true → g.voids < 3 → s.power.fda ≠ 0 → Goes (.headerStageCheck r mv) s fun t =>
      t.rgn r = g ∧ others t ∧ RegsBut [] s t) ∧
    (alertIn v g.winAt = false ∨ 3 ≤ g.voids → mv * 100 < 85 * s.mgr.vcoreMv → Goes (.headerStageCheck r mv) s fun t =>
      (t.die d).state = 2 ∧ ∃ w, umbra w ∧ Counted (pwrHdrShortCntAt d) s w ∧ t = failWake w r 1)) ∧
  (g.hdr = 1 → g.stage = 8 → Goes (.regionPowerGood r) s fun t =>
    let dark := waking s (dieQuarter d) && (s.qtr (dieQuarter d)).pstate == 3
    (t.rgn r).hdr = 2 ∧ (t.rgn r).since = s.fab ∧ (∀ k, k ≠ r.val → t.rgn k = s.rgn k) ∧ RegsBut [] s t ∧ t.fab = s.fab ∧
    (t.rgn r).mhz = (let p := if (s.die d).tripped then 0 else g.point
      if g.stalled then 0 else if g.droop || s.power.fda != 0 then pointMhz p * 4 / 5 else pointMhz p) ∧
    (∀ k, t.cl k = s.cl k) ∧ (∀ k, t.die k = s.die k) ∧ (∀ k, k / 8 ≠ r.val → t.un k = s.un k) ∧
    (∀ i < 8, (t.un (8 * r.val + i)).clear = if dark = true then 1 else (s.un (8 * r.val + i)).clear) ∧
    (dark = false → (∀ i < 8, clearing (s.un (8 * r.val + i)) = false) → SameMem s t ∧ ∀ k, t.un k = s.un k)) ∧
  (g.hdr = 1 → g.stage = 8 → Goes (.headerOpenCheck r) s fun t =>
    (t.die d).state = 2 ∧ (∀ k ∈ [2 * d, 2 * d + 1], (t.rgn k).hdr = 3 ∧ (t.rgn k).mhz = 0) ∧
    t.fab = max s.fab (g.stageAt + 4000) ∧ ∃ w, umbra w ∧ Counted (pwrHdrOpenCntAt d) s w ∧ w.fab = t.fab ∧ t = failWake w r 2) ∧
  (∀ bad1 bad2, rgnRuns s (cluRgn c) = true → (s.cl c).fwDigest.isSome = true → (s.cl c).fwOk = false →
    (manifestOk s c = true → (bad1 && bad2) = false → Goes (.fwFetch c bad1 bad2) s fun t =>
      t.cl c = { s.cl c with fwOk := true, fwStore := (wellFirmware s (dieField (c.val / 4))).take 0x20000 } ∧
      (∀ k, k ≠ c.val → t.cl k = s.cl k) ∧ RegsBut [seqBootAt c] s t ∧
      bits (t.reg (seqBootAt c)) 3 0 = (if bad1 then 10 else 6) ∧ SameMem s t) ∧
    (manifestOk s c = false ∨ (bad1 && bad2) = true → Goes (.fwFetch c bad1 bad2) s fun t => (t.die (c.val / 4)).state = 2))

/-- The steps of bring-up end one after the other (R359, R370, R372, R375), at the latest at their limits (R360); the supply domains
come up in step 3 (R438). -/
def Obligations.BringUpSteps : Prop :=
  ∀ (s : State), failStep s = 0 →
  let at_ (k : Nat) (t : State) : Prop := t.mgr.step = k ∧ t.mgr.stepFab = t.fab
  (s.mgr.step = 1 → Goes (.bringupStepEnd .pll) s fun t => at_ 2 t ∧ t.fab = (s.fab + 79) / 80 * 80 ∧ SameMem s t ∧
    (∀ i < 400, nsAt t i = 0) ∧ mgrNs t = 0) ∧
  (∀ a b, s.mgr.step = 2 →
    let upA := (romBoot s s.instA a).booted
    let upB := (romBoot s s.instB b).booted
    (upA = true ∨ upB = true → Goes (.bringupStepEnd (.boot a b)) s fun t =>
      at_ 3 t ∧ t.mgr.active = some (!upA) ∧ t.mgr.solo = !(upA && upB) ∧ SameMem s t) ∧
    (upA = false → upB = false → Goes (.bringupStepEnd (.boot a b)) s fun t => failStep t = 2)) ∧
  (s.mgr.step = 3 → nextDomain s = none → Goes (.bringupStepEnd .domains) s fun t => at_ 4 t ∧ t.mgr.vcoreMv = 580 ∧
    (∀ q < 4, (t.qtr q).pcieUp = true) ∧ SameMem s t) ∧
  (∀ l, s.mgr.step = 4 → Goes (.bringupStepEnd (.fuses l)) s fun t => at_ 5 t ∧ SameMem s t ∧
    ((l.map (·.site)).Nodup → ∀ r ∈ l, (t.keeper r.site).fuse = some r) ∧
    (∀ r ∈ l, ∀ d, placeOf r.site = .die d → (r.bad = true ∨ ∃ w ∈ r.words, 32 < w.2.2) → (t.die d).state = 2) ∧
    (∀ r ∈ l, ∀ n, placeOf r.site = .stack n → r.bad = true → (t.mr n).state = 4) ∧
    ∀ r ∈ l, ∀ e, placeOf r.site = .edge e → r.bad = true → (t.edge e).state = 2) ∧
  (∀ l : List DieId, s.mgr.step = 5 → regionsDone s = true → Goes (.bringupStepEnd (.selfTest l)) s fun t => at_ 6 t ∧ SameMem s t ∧
    ∀ d ∈ l, dieSite d.val ∈ t.mgr.wrongSig) ∧
  (∀ l w, s.mgr.step = 6 →
    (s.mgr.phase = 0 → Goes (.bringupStepEnd (.neighbours l w)) s fun t => t.mgr.phase = 1 ∧
      t.fab = max s.fab (s.mgr.stepFab + 4000000000)) ∧
    (s.mgr.phase = 1 → Goes (.bringupStepEnd (.neighbours l w)) s fun t => t.mgr.phase = 2 ∧
      t.fab = max s.fab (s.mgr.stepFab + 4200000000) ∧ ∀ i ∈ w, i.val ∈ t.mgr.wrongSig) ∧
    (s.mgr.phase = 2 → Goes (.bringupStepEnd (.neighbours l w)) s fun t =>
      t.fab = max s.fab (s.mgr.stepFab + 4220000000) ∧ (failStep t = 0 → t.mgr.phase = 3) ∧
      ∀ d, placeOf (dieSite d) = .die d → dieSite d ∈ voters s → dieSite d ∉ voteLoop s.mgr.vouches 400 (voters s) → (t.die d).state = 2) ∧
    (3 ≤ s.mgr.phase → delaysKnown s = true → Goes (.bringupStepEnd (.neighbours l w)) s fun t => at_ 7 t ∧ SameMem s t ∧
      ∀ n < 128, (t.mr n).state = if (s.mr n).state = 4 then 4 else 1)) ∧
  (∀ f r k, s.mgr.step = 7 → Goes (.bringupStepEnd (.stacks f r k)) s fun t => at_ 8 t ∧ ∀ n ∈ f, (t.mr n.val).state = 4) ∧
  (s.mgr.step = 8 → firmwareDone s = true → Goes (.bringupStepEnd .firmware) s fun t => at_ 9 t ∧ SameMem s t ∧ t.dies = s.dies) ∧
  (s.mgr.step = 9 → Goes (.bringupStepEnd .verdicts) s fun t => at_ 10 t ∧ SameMem s t ∧
    ∀ q < 4, (t.qtr q).svc = 1 ∨ (t.qtr q).svc = 3) ∧
  (∀ l : List RouterId, ∀ k limit, (k, limit) ∈ [(1, 20000000), (2, 10000000000), (4, 100000000), (5, 40000000), (6, 12000000000),
      (7, 60000000000), (8, 10000000000), (9, 2000000000)] → s.mgr.step = k → Goes (.bringupStepTimeout l) s fun t =>
    max s.fab (s.mgr.stepFab + limit) ≤ t.fab ∧ (at_ (k + 1) t ∨ failStep t = k) ∧
    (k = 4 ∨ k = 8 → ∀ i ∈ l, ∀ d, placeOf i = .die d → (t.die d).state = 2 ∧ (t.die d).cause = if k = 4 then 1 else 7) ∧
    (k = 5 → ∀ i ∈ l, i.val ∈ t.mgr.wrongSig)) ∧
  (∀ dom : DomainId, s.mgr.step = 3 → nextDomain s = some dom.val → bit s.power.enabled dom.val = true →
    (s.fab ≤ s.power.domainFab + softWindow dom → Goes (.domainPowerGood dom) s fun t =>
      t.power.good = s.power.good ||| 2 ^ dom.val ∧ SameMem s t ∧ t.fab = s.fab ∧
      ((∀ d ∈ domainOrder, bit (s.power.good ||| 2 ^ dom.val) d = true) → at_ 4 t) ∧
      (∀ d, nextDomain { s with power := { s.power with good := s.power.good ||| 2 ^ dom.val } } = some d →
        t.mgr.step = 3 ∧ t.power.enabled = s.power.enabled ||| 2 ^ d ∧ t.power.domainFab = s.fab)) ∧
    (∀ fault status, Goes (.softstartTimeout dom fault status) s fun t => failStep t = 3 ∧ t.power.enabled = 64 ∧ t.power.good = 64 ∧
      t.reg pwrFaultAt = 2 ^ 63 + dom.val * 2 ^ 48 + (if fault then 2 else 1) * 2 ^ 44 + 3 * 2 ^ 40 + status.toNat))

/-- The Day checks (R389), the choice of the Day instant and the Day change (R119, R390, R391). -/
def Obligations.DayChecksAndDayChange : Prop :=
  ∀ (s : State), (activeMgr s).isSome = true →
  (∀ (site : RouterId) failed, s.mgr.step = 10 → inDawn s (siteQuarter site) = true → (dayExpected s).contains site.val = true →
    s.mgr.dayDone.contains site.val = false → Goes (.dayChecksDone site failed) s fun t => site.val ∈ t.mgr.dayDone ∧
      (∀ k ∈ s.mgr.dayDone, k ∈ t.mgr.dayDone) ∧ SameMem s t ∧
      (failed = false → RegsBut [] s t ∧ ∀ k, t.die k = s.die k) ∧
      (∀ d, placeOf site = .die d → t.fab = max s.fab (s.mgr.t9 + 136000000000 + dayStretch s d) ∧
        (failed = true → t.die d = { s.die d with cause := 8 } ∧ t.reg pmDmapGenAt = s.reg pmDmapGenAt + 1)) ∧
      (∀ n, placeOf site = .stack n → t.fab = s.fab ∧ (failed = true → t.mr n = { s.mr n with cause := 8 }))) ∧
  (∀ who hold, isOperator s who = true → Goes (.pmSvcCtl who hold) s fun t => t.reg pmSvcCtlAt = b2n hold ∧
    RegsBut [pmSvcCtlAt] s t ∧ SameMem s t ∧ t.fab = s.fab ∧
    (hold = true → t.mgr = s.mgr) ∧
    (hold = false → s.mgr.step = 10 → s.mgr.tDay = none → dayReady s = true → tickLcm s ≠ 0 → ∃ T, t.mgr.tDay = some T ∧
      mgrNs s + 100000 ≤ T ∧ T % (if s.parts.any (·.tick) && tickLcm s ≤ 16000000 then tickLcm s else 1000) = 0)) ∧
  (∀ T, s.mgr.tDay = some T → Goes .dayChange s fun t => t.mgr.tDay = none ∧ t.fab = (advMgr s T).fab ∧
    (∀ q < 4, if (s.qtr q).svc = 1 then (t.qtr q).svc = 2 ∨ (t.qtr q).svc = 3 else (t.qtr q).svc = (s.qtr q).svc) ∧
    ∀ d < 256, ∀ i < 16, (s.qtr (dieQuarter d)).svc = 1 → (s.die d).state ≠ 2 →
      (t.un (16 * d + i)).clear = 1 ∧ (t.un (16 * d + i)).modeAfter = some .normal)

/-- The time beacons (R36 to R38) and the 1PPS input (R39). -/
def Obligations.BeaconsAndPps : Prop :=
  ∀ (s : State),
  let others (site : Nat) (t : State) : Prop := (∀ k, k ≠ site → t.keeper k = s.keeper k) ∧ SameMem s t
  ((activeMgr s).isSome = true → Goes .beaconSend s fun t =>
    let v := advMgr s (s.mgr.beaconNs + 16000).toNat
    t.mgr.beaconNs = mgrNs v ∧ t.fab = v.fab ∧ t = { v with mgr := { v.mgr with beaconNs := mgrNs v }, routers := t.routers } ∧
    t = (List.range 400).foldl (fun u i => fromMgr u (beaconTo i (mgrNs v))) { v with mgr := { v.mgr with beaconNs := mgrNs v } }) ∧
  (∀ (site : RouterId) p, ejected s site (regPort site) (fun p => p.typ == tBeacon) = some p → obeys s site p = true →
    Goes (.beacon site) s fun t => others site t ∧ RegsBut [pmFabSuspAt, pmFabSuspCntAt] s t ∧ t.fab = s.fab ∧
      (t.keeper site).adj = (s.keeper site).adj ∧ (t.keeper site).beaconAt = some s.fab ∧ (t.keeper site).missed = 0 ∧
      (t.keeper site).freeRun = false ∧ (t.keeper site).src = (p.ssite != edgeSite 0) ∧
      ∀ d, (s.keeper site).delay = some d → (t.keeper site).toSlew =
        (beaconTime p + d + p.corr / 2 : Int) + ((s.fab - p.ejAt) / 2 : Nat) - nsAt s site) ∧
  (∀ (site : RouterId), s.mgr.step ≠ 1 →
    let since := beaconSince (s.keeper site)
    (Goes (.beaconMiss site) s fun t => t.fab = max s.fab (since + 32000 * ((s.keeper site).missed + 1)) ∧ SameMem s t ∧
      (t.keeper site).missed = (s.keeper site).missed + 1 ∧ RegsBut [gtBeaconMissCntAt (keeperGtBlk site)] s t ∧
      ((∀ n, placeOf site ≠ .stack n) → Counted (gtBeaconMissCntAt (keeperGtBlk site)) s t)) ∧
    Goes (.beaconLoss site) s fun t => t.fab = max s.fab (since + 2000001) ∧ SameMem s t ∧ (t.keeper site).freeRun = true ∧
      RegsBut [pmFabSuspAt, pmFabSuspCntAt] s t) ∧
  (∀ falling, ppsOn s = true → bit (s.reg (gtPpsCtlAt panelGtBlk)) 1 = falling → Goes (.ppsEdge falling) s fun t =>
    t.reg (gtPpsOfsAt panelGtBlk) = ofSigned 32 (ppsOffset s) ∧ RegsBut [gtPpsOfsAt panelGtBlk] s t ∧
    t.mgr.ppsNs = some (mgrNs s) ∧ t = { s with regs := t.regs, mgr := t.mgr } ∧ t.mgr.adj = s.mgr.adj ∧
    t.mgr.toSlew = if bit (s.reg (gtPpsCtlAt panelGtBlk)) 2 && !follows s then -ppsOffset s else s.mgr.toSlew) ∧
  (ppsOn s = true → (∀ e, s.mgr.ppsNs = some e → e + 1000000000 < (mgrNs s / 1000000000 + 1) * 1000000000) → Goes .ppsMiss s fun t =>
    t.mgr.ppsNs = none ∧ Counted (gtPpsMissCntAt panelGtBlk) s t ∧ SameMem s t ∧ RegsBut [gtPpsMissCntAt panelGtBlk] s t ∧
    (follows s = false → t.mgr.toSlew = 0))

/-- Reading (R35, R40, R41, R340, R342, R343, R349) and setting (R42 to R44) of global time; which cause a
refusal records when several hold is the model's choice (log entry 125). -/
def Obligations.GlobalTimeReadsAndSets : Prop :=
  ∀ (s : State) (who : Requester),
  let stat := gtSetStatAt panelGtBlk
  let sets (i : Instr) (ok : Nat → Prop) : Prop := isOperator s who = true → (activeMgr s).isSome = true → s.mgr.set = none →
    (setRefusal s = 0 → Goes i s fun t => t.reg stat = 1 ∧ RegsBut [stat] s t ∧ t = { s with regs := t.regs, mgr := t.mgr } ∧
      ∃ at_, ok at_ ∧ t.mgr = { s.mgr with set := some (at_, stagedNs s / 1000000000, stagedNs s % 1000000000) }) ∧
    (∀ c, setRefusal s = c → c ≠ 0 → Goes i s fun t => t.reg stat = 3 ∧ t.reg (gtSetWhyAt panelGtBlk) = c ∧
      RegsBut [stat, gtSetWhyAt panelGtBlk] s t ∧ t = { s with regs := t.regs })
  (∀ site : RouterId, readsKeeper s who site = true → Goes (.gtNsecRead who (.keeper site)) s fun t =>
    t.out = .value (nsAt s site % 1000000000) :: s.out ∧ t = { s with regs := t.regs, keepers := t.keepers, out := t.out } ∧
    (∀ k, k ≠ site.val → t.keeper k = s.keeper k) ∧ nsAt t site = nsAt s site ∧
    findD (t.keeper site).snap (reqCode who) 0 = nsAt s site / 1000000000 % 2 ^ 48 ∧
    (∀ r, r ≠ reqCode who → findD (t.keeper site).snap r 0 = findD (s.keeper site).snap r 0) ∧
    RegsBut [secDbgAccCntAt (siteQuarter site)] s t ∧
    (isOperator s who = true → Counted (secDbgAccCntAt (siteQuarter site)) s t) ∧ (isOperator s who = false → t.regs = s.regs)) ∧
  (readsPanel s who = true → Goes (.gtNsecRead who .panel) s fun t =>
    t.out = .value (mgrNs s % 1000000000) :: s.out ∧ t = { s with mgr := { s.mgr with panelSnap := t.mgr.panelSnap }, out := t.out } ∧
    findD t.mgr.panelSnap (reqCode who) 0 = mgrNs s / 1000000000 % 2 ^ 48 ∧
    ∀ r, r ≠ reqCode who → findD t.mgr.panelSnap r 0 = findD s.mgr.panelSnap r 0) ∧
  (∀ q : QuarterId, who = .host q → (s.qtr q).pcieUp = true →
    (∀ site : RouterId, readsKeeper s who site = false → Goes (.gtNsecRead who (.keeper site)) s fun t => t = s.emit (.value 0)) ∧
    (∀ o n, ¬((n.val = 4 ∨ n.val = 8) ∧ o.toNat % n.val = 0) → Goes (.gtNsecRead who (.bar0 o n)) s fun t =>
      t.out = .bar2 q [] 2 :: s.out ∧ Counted (hstBadAccCntAt q) s t ∧ t = { s with regs := t.regs, out := t.out }) ∧
    (∀ o n, (n.val = 4 ∨ n.val = 8) → o.toNat % n.val = 0 → o.toNat < 0x1000 → Goes (.gtNsecRead who (.bar4 o n)) s fun t =>
      t = s.emit (.value 0)) ∧
    (3 < s.mgr.step → Goes (.gtNsecRead who (.config .ids)) s fun t =>
      ∃ v < 2 ^ 16, t = s.emit (.value (0x9384 * 2 ^ 16 + v)))) ∧
  sets (.gtSetNow who) (fun at_ => mgrNs s + 4000 ≤ at_) ∧
  sets (.gtSetNextSecond who) (fun at_ => at_ % 1000000000 = 0 ∧ mgrNs s + 20000 ≤ at_ ∧ at_ < mgrNs s + 1000020000) ∧
  (isOperator s who = true → (activeMgr s).isSome = true → s.mgr.set.isSome = true → Goes (.gtSetCancel who) s fun t =>
    t.reg stat = 4 ∧ RegsBut [stat] s t ∧ t = { s with regs := t.regs, mgr := { s.mgr with set := none } }) ∧
  (∀ at_ sec ns, s.mgr.set = some (at_, sec, ns) → Goes .timeSetApply s fun t => t.mgr.set = none ∧ t.reg stat = 2 ∧
    RegsBut [stat, pmXtimeStatAt] s t ∧ SameMem s t ∧ t.fab = (advMgr s at_).fab ∧
    mgrNs t = sec * 1000000000 + ns ∧ t.mgr.toSlew = 0 ∧ t.mgr.xExch = [] ∧ t.mgr.beaconNs = s.mgr.beaconNs + (sec * 1000000000 + ns : Nat) - at_ ∧
    ∀ k < 400, nsAt t k = sec * 1000000000 + ns ∧ (t.keeper k).toSlew = 0)

/-- The Equinox change (R53 to R56, R430) and the droop of a region (R51, R52). -/
def Obligations.EquinoxChange : Prop :=
  ∀ (s : State),
  let mgmt (site sub : Nat) (p : Packet) : Prop :=
    ejected s site (regPort site) (fun p => p.typ == tMgmt && p.sub == sub) = some p ∧ obeys s site p = true
  let atKeeper (site : Nat) (k : Keeper) (t : State) : Prop := t.keeper site = k ∧
    (∀ j, j ≠ site → t.keeper j = s.keeper j) ∧ t = { s with keepers := t.keepers, routers := t.routers }
  let changes (m : Nat) (t : State) : Prop := ∀ d < 256, bit m (dieQuarter d) = true → ∀ w u, (s.keeper (dieSite d)).post = some (w, u) →
    (t.keeper (dieSite d)).post = none ∧
    ∀ r ∈ [2 * d, 2 * d + 1], (t.rgn r).point = if w > (s.rgn r).point ∧ (s.keeper (dieSite d)).go = false then (s.rgn r).point else w
  (∀ (site : RouterId) p, mgmt site 0 p → let post := (leNat (p.payload.take 1), leNat (p.payload.drop 1))
    (postStands s post = true → Goes (.eqxPost site) s (atKeeper site { s.keeper site with post := some post, go := false })) ∧
    (postStands s post = false → Goes (.eqxPost site) s (atKeeper site (s.keeper site)))) ∧
  (∀ (site : RouterId) p, mgmt site 2 p → Goes (.eqxGo site) s (atKeeper site { s.keeper site with go := (s.keeper site).post.isSome })) ∧
  (∀ b e p, activeMgr s = some b → s.mgr.eqx = some e → ejected s (portOfEdge (managerEdge b)).1 (portOfEdge (managerEdge b)).2
      (fun p => p.typ == tMgmt && p.sub == 1 && p.dagt == 5) = some p → Goes .eqxAck s fun t =>
      t.mgr.eqx = some { e with acks := insSorted e.acks p.ssite } ∧ t = { s with mgr := t.mgr, routers := t.routers }) ∧
  (∀ e, (activeMgr s).isSome = true → s.mgr.eqx = some e → e.state = 1 → e.confirmed = false →
    let v := advFab s (e.postAt + 20000)
    ((∃ k < 400, (s.rtr k).running = true ∧ k ∉ e.acks) → Goes .eqxAckWindowEnd s fun t => t.mgr.eqx = none ∧
      (∀ k, (t.keeper k).post = none ∧ (t.keeper k).go = false) ∧ t.fab = v.fab ∧ t.regions = s.regions ∧ SameMem s t ∧
      t.reg pmOpStatAt = s.mgr.cur ∧ RegsBut [pmOpStatAt] s t) ∧
    ((∀ k < 400, (s.rtr k).running = true → k ∈ e.acks) →
      (s.mgr.cur < e.point → Goes .eqxAckWindowEnd s fun t => t.fab = v.fab ∧ t.reg pmOpStatAt = 2 * 2 ^ 16 + e.point * 2 ^ 4 + s.mgr.cur ∧
        RegsBut [pmOpStatAt] s t ∧ t.mgr.eqx = some { e with state := 2, confirmed := true, rampEnd := v.fab + 2 * rampNs s.mgr.vcoreMv (pointMv e.point) }) ∧
      (e.point ≤ s.mgr.cur → Goes .eqxAckWindowEnd s fun t => t.fab = v.fab ∧ RegsBut [] s t ∧ t.mgr.eqx = some { e with confirmed := true }))) ∧
  (∀ e, (activeMgr s).isSome = true → s.mgr.eqx = some e →
    (e.state = 2 → Goes .eqxRampDone s fun t => t.fab = max s.fab e.rampEnd ∧ t.mgr.vcoreMv = pointMv e.point ∧
      t.mgr.eqx = some { e with state := 1 } ∧ t.reg pmOpStatAt = 2 ^ 16 + e.point * 2 ^ 4 + s.mgr.cur ∧ RegsBut [pmOpStatAt] s t) ∧
    (e.state = 4 → Goes .eqxRampDone s fun t => t.fab = max s.fab e.rampEnd ∧ t.mgr.vcoreMv = pointMv e.point ∧ t.mgr.eqx = none ∧
      Counted pmEqxCntAt s t ∧ RegsBut [pmOpStatAt, pmEqxCntAt] s t) ∧
    (e.state = 3 → postsLeft s = false → Goes .eqxVoltageLower s fun t => t.fab = max s.fab (e.rampEnd + 2000) ∧
      t.mgr.eqx = some { e with state := 4, rampEnd := t.fab + 2 * rampNs s.mgr.vcoreMv (pointMv e.point) } ∧
      t.reg pmOpStatAt = 4 * 2 ^ 16 + e.point * 2 ^ 4 + s.mgr.cur ∧ RegsBut [pmOpStatAt] s t)) ∧
  (∀ (q : QuarterId) T, postedT s q = some T →
    (∀ p, partOf s q.val = some p → p.tick = true → T ≤ p.lastEdge → Goes (.eqxFreqChange q) s fun t => changes p.qmask t ∧ t.fab = s.fab) ∧
    ((∀ p, partOf s q.val = some p → p.tick = false) → Goes (.eqxFreqChange q) s fun t => changes (2 ^ q.val) t ∧
      t.fab = (advNs s (edgeSite (controllerEdge q)) T).fab)) ∧
  (∀ (site : RouterId) d, placeOf site = .die d → s.mgr.lost = true → Goes (.keeperFallback site) s fun t =>
    (∀ r ∈ [2 * d, 2 * d + 1], (t.rgn r).point = min (s.rgn r).point 4) ∧ SameMem s t ∧ RegsBut [] s t ∧
    (t.keeper site).post = match (s.keeper site).post with
      | some (w, T) => if w > (s.rgn (2 * d)).point ∧ (s.keeper site).go = false then none else some (min w 4, T)
      | none => none) ∧
  (∀ r : RegionId, let others (t : State) : Prop := (∀ k, k ≠ r.val → t.rgn k = s.rgn k) ∧ SameMem s t ∧ t.fab = s.fab
    (Goes (.supplyDroop r) s fun t => (t.rgn r).droop = true ∧ others t ∧ RegsBut [] s t ∧
      ((s.rgn r).hdr = 2 → (s.rgn r).stalled = false → (s.die (r.val / 2)).tripped = false → (t.rgn r).mhz = pointMhz (s.rgn r).point * 4 / 5)) ∧
    ((s.rgn r).hdr = 2 → (s.rgn r).stalled = false → Goes (.droopStall r) s fun t => (t.rgn r).stalled = true ∧ (t.rgn r).mhz = 0 ∧ others t ∧
      Counted (pwrDroopStallCntAt (r.val / 2)) s t) ∧
    (Goes (.droopRecovery r) s fun t => (t.rgn r).droop = false ∧ (t.rgn r).stalled = false ∧ others t ∧ RegsBut [] s t))

/-- R394: a cold reset ends every activity at once and begins bring-up at step 1; losing every supply does the same; NOR and the
fuses outlast it. -/
def Obligations.ColdResetAndLossOfSupply : Prop :=
  ∀ (s : State) (cause : Fin 16) (status : BitVec 16),
  Goes .coldReset s fun t => exec (.domainFault 6 cause status) s = .next t ∧ t.mgr.step = 1 ∧
    t = { State.reset with pending := t.pending, out := t.out, fresh := t.fresh, units := t.units, mrs := t.mrs, instA := t.instA
                           instB := t.instB, sec := t.sec, power := t.power } ∧
    (∀ u, t.un u = if clearing (s.un u) = true then { State.reset.un u with clear := 1 } else State.reset.un u) ∧
    t.pending = s.pending ∧ t.out = s.out ∧ t.fresh = s.fresh ∧
    (∀ n, t.mr n = { State.reset.mr n with hardRepairs := (s.mr n).hardRepairs, bankRepairs := (s.mr n).bankRepairs }) ∧
    (∀ b, t.inst b = { State.reset.inst b with
      preferB := (s.inst b).preferB, failedA := (s.inst b).failedA, failedB := (s.inst b).failedB
      svnA := (s.inst b).svnA, svnB := (s.inst b).svnB, verA := (s.inst b).verA, verB := (s.inst b).verB
      schemaA := (s.inst b).schemaA, schemaB := (s.inst b).schemaB, keyA := (s.inst b).keyA, keyB := (s.inst b).keyB
      hdrA := (s.inst b).hdrA, hdrB := (s.inst b).hdrB, imgA := (s.inst b).imgA, imgB := (s.inst b).imgB
      fwA := (s.inst b).fwA, fwB := (s.inst b).fwB, count := (s.inst b).count }) ∧
    t.sec = { State.reset.sec with schema := s.sec.schema, writes := s.sec.writes, store := s.sec.store
                                   revoked := s.sec.revoked, repairs := s.sec.repairs, hardRows := s.sec.hardRows } ∧
    t.power = { State.reset.power with norFault := s.power.norFault }

/-- R458, for the operator and for a host: PWR_TOKENSq grows by what is written to PWR_TOKEN_ADDq; what another host writes is
ignored. -/
def Obligations.TokensAddToTheirPartition : Prop :=
  ∀ (s : State) (who : Requester) (q : QuarterId) (n : BitVec 32), (activeMgr s).isSome = true →
  let mine : Prop := isOperator s who = true ∨ ∃ h p, who = .host h ∧ partOf s h = some p ∧ partQ p = q.val
  Goes (.pwrTokenAdd who q n) s fun t => t = { s with regs := t.regs } ∧ RegsBut [pwrTokensAt q] s t ∧
    (mine → s.reg (pwrTokensAt q) + n.toNat < 2 ^ 64 → t.reg (pwrTokensAt q) = s.reg (pwrTokensAt q) + n.toNat) ∧
    (¬mine → t.reg (pwrTokensAt q) = s.reg (pwrTokensAt q))

/-- R465: which key is acceptable; revocation for good; the write that would leave no slot. -/
def Obligations.KeySlotsAndRevocation : Prop :=
  (∀ (s : State) (b : Bool) (slot : Nat) (key : Bytes), keyOk s b slot (sha384 key) = true ↔
    slot < 4 ∧ bit keysProg slot = true ∧ bit s.sec.revoked slot = false ∧ Config.fusedKey b slot = sha384 key) ∧
  (∀ s t : State, StepsTo s t → ∀ k, bit s.sec.revoked k = true → bit t.sec.revoked k = true) ∧
  ∀ (s : State) (who : Requester) (mask : BitVec 4),
    let left : Prop := ∃ k < 4, bit keysProg k = true ∧ bit s.sec.revoked k = false ∧ mask.getLsbD k = false
    Goes (.keyRevoke who mask) s fun t => t = { s with sec := { s.sec with revoked := t.sec.revoked } } ∧
      (operMgr s who = true ∧ left → ∀ k, bit t.sec.revoked k = (bit s.sec.revoked k || mask.getLsbD k)) ∧
      (¬(operMgr s who = true ∧ left) → t = s)

/-- R471, and what COMMIT and FW_COMMIT do before the store is full (R468 to R470). -/
def Obligations.SettingsStoreWrites : Prop :=
  ∀ (s : State) (who : Requester),
  let full : Prop := 100000 ≤ s.sec.writes
  bits (secSettingsView s) 47 47 = (if full then 1 else 0) ∧
  (operMgr s who = true →
    Goes (.settingsCommit who) s (fun t => (full → t = s) ∧
      (¬full → t = { s with sec := { s.sec with writes := s.sec.writes + 1, stage := [], store := t.sec.store } } ∧
        ((s.sec.stage.map (·.1)).Nodup → ∀ o, storeByte t o = windowByte s o))) ∧
    ∀ okA okB : Bool, Goes (.fwCommit who okA okB) s fun t =>
      let svn := bankSvn (activeInst s)
      let top := (bankSchema (activeInst s)).2
      t = { s with regs := t.regs, instA := { s.instA with count := t.instA.count }
                   instB := { s.instB with count := t.instB.count }
                   sec := { s.sec with schema := t.sec.schema, writes := t.sec.writes } } ∧
      RegsBut [secSvnAt] s t ∧
      t.instA.count = (if okA then max s.instA.count (min svn 64) else s.instA.count) ∧
      t.instB.count = (if okB then max s.instB.count (min svn 64) else s.instB.count) ∧
      (full ∨ top ≤ s.sec.schema → t.sec.schema = s.sec.schema ∧ t.sec.writes = s.sec.writes) ∧
      (¬full → s.sec.schema < top → t.sec.schema = top ∧ t.sec.writes = s.sec.writes + 1) ∧
      ∀ o, 2 ≤ o → storeByte t o = storeByte s o)

/-- The transfers of a stream engine: requests (R155 to R157), replies and acknowledgements (R273, R332), completion (R147, R154). -/
def Obligations.TransferRequestsAndReplies : Prop :=
  ∀ (s : State) (c : ClusterId),
  let x := s.cl c
  let v := advClock s (cluRgn c) x.genClk
  let only (t : State) : Prop := OnlyCl c s t ∧ t = { s with
    fab := t.fab, regs := t.regs, mem := t.mem, clusters := t.clusters, units := t.units, buckets := t.buckets, routers := t.routers, keepers := t.keepers, mgr := t.mgr }
  (∀ e, x.eng.find? (fun e => !e.stopped && e.sent < engRows e.d) = some e → rgnRuns s (cluRgn c) = true →
    ((s.un e.unit).issued.any fun i => i.d.did == e.d.did && i.begun) = true →
    Goes (.seGenerateRequest c) s only ∧
    (∀ site agt, e.d.cls = 2 → (s.un e.unit).mode = .normal → x.replay = none → rowRoute v c e.d e.sent = .fabric site agt →
      (lowestFree (rtagsUsed x) 4096 = none → Goes (.seGenerateRequest c) s fun t => t = startWait v c 1) ∧
      (∀ tag, lowestFree (rtagsUsed x) 4096 = some tag →
        (passBucket (endWaits v c) c (engClass e.d) = none → Goes (.seGenerateRequest c) s fun t =>
          t = startBucketWait (endWaits v c) c (engClass e.d)) ∧
        ∀ w, passBucket (endWaits v c) c (engClass e.d) = some w → Goes (.seGenerateRequest c) s fun t =>
          let p : Packet := { typ := tRd, cls := engClass e.d, addr := engAddr e.d e.sent, mlen := e.d.f 120 115, rtag := tag
                              dsite := site, dagt := agt }
          Sends (cluSite c) (4 + c.val % 4 / 2) (fromClu c p) s t ∧ t.fab = w.fab ∧ SameMem s t ∧
          (t.cl c).rtags = x.rtags ++ [{ tag := tag, did := e.d.did, row := e.sent, sentAt := w.fab, remote := engRemote e.d, pkt := p }] ∧
          (t.cl c).eng = mapFirst (fun f => f.d.did == e.d.did) (fun f => { f with sent := f.sent + 1 }) x.eng ∧
          (t.cl c).genClk = cluClk w c + 1))) ∧
  (∀ (r : RegionId) p, agentClu p.dsite p.dagt = some c.val → x.absorbing = false →
    let at_ := portOfRegion r
    (∀ g, ejected s at_.1 at_.2 (fun q => q.typ == tRdData) = some p → x.rtags.find? (fun k => k.tag == p.rtag) = some g →
      let again := mustRetry g p && x.eng.any fun e => e.d.did == g.did && !e.stopped
      let u := (endWait s c 1).modCl c fun y => { y with rtags := y.rtags.filter fun k => k.tag != g.tag }
      (again = false → ∀ e, x.eng.find? (fun e => e.d.did == g.did) = some e → Goes (.rdData (.region r)) s fun t =>
        let bad := !payloadOk p
        let failed := p.status != sOk && (g.remote || !fromStack p)
        only t ∧ t.fab = s.fab ∧ (t.cl c).rtags = x.rtags.filter (fun k => k.tag != g.tag) ∧ OnlyUn e.unit s t ∧
        (e.stopped = true → (t.cl c).eng = x.eng ∧ SameMem s t ∧ t.units = s.units) ∧
        (e.stopped = false → (t.cl c).eng = mapFirst (fun f => f.d.did == g.did) (fun f => { f with
            done := f.done + 1, suspect := f.suspect || (bad && !failed), error := f.error || failed }) x.eng ∧
          t.mem = (landRowLocal u e.unit e.d g.row (if bad then zeros (engCells e.d).2 else p.payload)).mem)) ∧
      (again = true →
        (passBucket s c p.cls = none → Goes (.rdData (.region r)) s fun t => t = s) ∧
        ∀ w, passBucket s c p.cls = some w → Goes (.rdData (.region r)) s fun t => only t ∧ t.fab = w.fab ∧
          Counted (seCheckRetryCntAt c) w t ∧ SameMem s t ∧ t.units = s.units ∧
          Sends (cluSite c) (4 + c.val % 4 / 2) (fromClu c g.pkt) s t ∧
          t.cl c = { x with rtags := x.rtags.map fun k => if k.tag = g.tag then { k with retried := true } else k })) ∧
    (∀ g e, ejected s at_.1 at_.2 (fun q => q.typ == tWrAck) = some p → p.wtag < 0x10000 →
      x.wtags.find? (fun k => k.tag == p.wtag) = some g → x.eng.find? (fun e => e.d.did == g.did) = some e →
      Goes (.wrAck (.region r)) s fun t => OnlyCl c s t ∧
        t = { s with regs := t.regs, clusters := t.clusters, routers := t.routers } ∧
        (t.cl c).wtags = x.wtags.filter (fun k => k.tag != g.tag) ∧
        (t.cl c).eng = if e.stopped = true then x.eng else mapFirst (fun f => f.d.did == g.did) (fun f => { f with
          done := f.done + 1, suspect := f.suspect || (p.poison && p.status == sOk)
          error := f.error || (p.status != sOk && (f.d.cls != 5 || g.remote)) }) x.eng)) ∧
  (∀ did,
    let closes (st : Nat) (t : State) : Prop := OnlyCl c s t ∧ SameMem s t ∧ t.fab = s.fab ∧ find? (t.cl c).live did = none ∧
      ∀ g, find? x.live did = some g → (t.cl c).grpCnt = grpAdd x.grpCnt g ∧
        findD (t.cl c).grpFlags g 0 = findD x.grpFlags g 0 ||| (if x.late.isSome && st == 0 then stSuspect else st)
    (∀ e, x.eng.find? (fun e => e.d.did == did) = some e → engRows e.d ≤ e.done → Goes (.descComplete c did) s fun t =>
      closes (if e.error then stError else if e.suspect then stSuspect else stOk) t ∧
      (t.cl c).eng = x.eng.filter fun f => f.d.did != did) ∧
    (∀ k o, x.eng.find? (fun e => e.d.did == did) = none → x.commitQ.find? (fun k => k.d.did == did) = some k → k.outcome = some o →
      Goes (.descComplete c did) s fun t => closes (if o = 1 then stError else stOk) t ∧
        t.reg (seqCommitLastAt c) = k.d.id * 2 ^ 48 + 2 ^ 34 + o * 2 ^ 32 + x.frameIdx % 2 ^ 32 ∧
        Counted (match o with | 0 => seqCommitCntAt c | 1 => seqCommitMismatchCntAt c | _ => seqCommitHoldCntAt c) s t ∧
        (t.cl c).commitQ = x.commitQ.filter fun j => j.d.did != did))

/-- Message rows land or are dropped (R168, R169), complete messages become entries (R170), incomplete ones are discarded (R171), and
finished ones are dequeued with their credits (R173). -/
def Obligations.MessageQueues : Prop :=
  ∀ (s : State) (c : ClusterId),
  let x := s.cl c
  let inbox (r : RegionId) (typ : Nat) (p : Packet) : Prop :=
    ejected s (portOfRegion r).1 (portOfRegion r).2 (fun p => p.typ == typ) = some p ∧ agentClu p.dsite p.dagt = some c.val
  let ours (q : Nat) (t : State) : Prop := OnlyCl c s t ∧ t.fab = s.fab ∧ ∀ k, k ≠ q → queueOf (t.cl c) k = queueOf x k
  (∀ r p, inbox r tMsg p →
    let v := popEject s (portOfRegion r).1 (portOfRegion r).2 p.dagt
    let drops (t : State) : Prop := t = { s with regs := t.regs, routers := t.routers } ∧ RegsBut [queBadLandCntAt c] s t ∧
      Counted (queBadLandCntAt c) s t
    (x.absorbing = true → Goes (.msg r) s fun t => t = { s with regs := t.regs, routers := t.routers } ∧
      Counted (seAbsorbCntAt c) s t ∧ RegsBut [seAbsorbCntAt c] s t) ∧
    (x.absorbing = false → declOf s c p.dque = none → Goes (.msg r) s drops) ∧
    (∀ d, x.absorbing = false → declOf s c p.dque = some d →
      (chanOf d p.remote p.spanel p.sclu = none → Goes (.msg r) s drops) ∧
      ∀ ch, chanOf d p.remote p.spanel p.sclu = some ch →
        (badLanding s c d ch p = true → Goes (.msg r) s drops) ∧
        ∀ ok w, badLanding s c d ch p = false →
          outsideWrite v (4 * c.val + d.unit) (1024 * (segSlot d p.seg + p.mrow)) (if !payloadOk p then zeros 1024 else p.payload)
            true .message .fabric = (ok, w) →
          Goes (.msg r) s fun t => ours p.dque t ∧ SameMem w t ∧ t.regs = w.regs ∧ t.units = w.units ∧
            queueOf (t.cl c) p.dque = if ok = true then noteRow (queueOf x p.dque) ch p (if p.remote then p.spanel else panelNo s) (!payloadOk p)
              else queueOf x p.dque)) ∧
  (∀ q : Fin 64, Goes (.msgAppend c q) s fun t => ours q t ∧ t = { s with regs := t.regs, clusters := t.clusters } ∧
    ∀ m ∈ (queueOf (t.cl c) q).msgs, appendable (queueOf (t.cl c) q) (partFrame s c) m = false) ∧
  (∀ q : Fin 64, Goes (.msgIncompleteDiscard c q) s fun t => ours q t ∧ SameMem s t ∧
    t = { s with regs := t.regs, clusters := t.clusters, units := t.units, buckets := t.buckets, routers := t.routers } ∧
    (declOf s c q = none → t = s) ∧
    (declOf s c q ≠ none → ∀ m ∈ (queueOf (t.cl c) q).msgs, ¬(m.stage = 0 ∧ 2 ≤ m.edges))) ∧
  (∀ (q : Fin 64) d m, declOf s c q = some d → (queueOf x q).msgs.find? (fun m => m.stage == 3 && msgEmpty s c d m) = some m →
    Goes (.msgDequeue c q) s fun t => ours q t ∧
      t = { s with clusters := t.clusters, buckets := t.buckets, routers := t.routers } ∧
      (queueOf (t.cl c) q).msgs = (queueOf x q).msgs.filter (fun n => n.seg != m.seg) ∧
      ∀ k, m.remote = false → cluOfLogical s m.sclu = some k →
        let p : Packet := { typ := tCredit, cls := cSched, msgv := true, dque := q, seg := m.seg, gen := x.gen
                            sclu := (logicalOfClu s c).getD 0, spanel := panelNo s, dsite := cluSite k, dagt := cluAgent k }
        if x.credits.isEmpty && mayPass s (bucketOf c cSched) then Sends (cluSite c) (4 + c.val % 4 / 2) (fromClu c p) s t
        else (t.cl c).credits = x.credits ++ [p]) ∧
  (∀ r p, inbox r tCredit p →
    (p.remote = false → p.gen ≠ x.gen → Goes (.credit r) s fun t => t = { s with routers := t.routers }) ∧
    (p.remote = true ∨ p.gen = x.gen → Goes (.credit r) s fun t => OnlyCl c s t ∧
      t = { s with regs := t.regs, clusters := t.clusters, routers := t.routers } ∧
      ∀ i o, ((List.range (outsOf s c).length).zip (outsOf s c)).find? (fun e => e.2.remote == p.remote &&
          (!p.remote || e.2.dpanel == p.spanel) && e.2.dclu == p.sclu && e.2.dque == p.dque) = some (i, o) →
        let free := freeSegs x o i
        (t.cl c).outFree = putAt x.outFree i (if free.contains p.seg then free else free ++ [p.seg])))

/-- Reads and writes at a memory router (R185, R189 to R195, R203). -/
def Obligations.MemoryRouterAccesses : Prop :=
  ∀ (s : State) (n : StackId),
  let x := s.mr n
  let inbox (typ : Nat) (p : Packet) : Prop := ejected s (portOfStack n).1 (portOfStack n).2 (fun q => q.typ == typ) = some p
  let answers (p : Packet) (t : State) : Prop := Sends (stackSite n) 4 { p with ssite := stackSite n, sagt := 0 } s t
  let takes (t : State) : Prop := t = { s with regs := t.regs, routers := t.routers, mrs := t.mrs } ∧ OnlyMr n s t
  (∀ p, inbox tRd p →
    (serveAt s n p.addr = none → Goes (.rd (.router n)) s fun t => takes t ∧ t.regs = s.regs ∧
      t.mr n = { x with requests := x.requests + 1 } ∧ answers (poisonReply p sUnassigned) t) ∧
    (∀ h, serveAt s n p.addr = some h →
      let here (m : Merge) : Bool := m.block == h.so / 1024 && m.open_
      (∀ m, x.merges.find? here = some m → m.reqs.length < 32 → Goes (.rd (.router n)) s fun t => takes t ∧
        Counted (mrMergeHitCntAt n) s t ∧
        t.mr n = { x with requests := x.requests + 1, merges := mapFirst here (fun m => { m with reqs := m.reqs ++ [p] }) x.merges }) ∧
      let full := decide (256 ≤ tabled x)
      (∀ m, x.merges.find? here = some m → 32 ≤ m.reqs.length → Goes (.rd (.router n)) s fun t => takes t ∧
        Counted (mrMergeLimitCntAt n) s t ∧ (t.mr n).merges = mapFirst here (fun m => { m with open_ := false }) x.merges ++
          [{ block := h.so / 1024, open_ := !full, tabled := !full, reqs := [p], seq := x.tick }]) ∧
      (x.merges.find? here = none → Goes (.rd (.router n)) s fun t =>
        takes t ∧ (full = true → Counted (mrMergeFullCntAt n) s t) ∧
        t.mr n = { x with requests := x.requests + 1, tick := x.tick + 1, merges := x.merges ++
          [{ block := h.so / 1024, open_ := !full, tabled := !full, reqs := [p], seq := x.tick }] }))) ∧
  (∀ beta e1 e2 c1 c2,
    (x.merges.find? (fun m => m.block == beta) = none → Goes (.mrDramReadDone n beta e1 e2 c1 c2) s fun t =>
      t = { s with mrs := t.mrs } ∧ OnlyMr n s t ∧ t.mr n = { x with ecc := putAt x.ecc beta (e1, e2, c1, c2) }) ∧
    (∀ m, x.merges.find? (fun m => m.block == beta) = some m → (x.writes.any fun w => w.block == beta && w.seq < m.seq) = false →
      sliceFree x beta (slicePlace (((m.reqs.head?).map (·.cls)).getD cBulk)) = true →
      Goes (.mrDramReadDone n beta e1 e2 c1 c2) s fun t =>
        t = { s with regs := t.regs, mem := t.mem, routers := t.routers, mrs := t.mrs } ∧ (t.mr n).merges = x.merges.erase m ∧
        (t.rtr (stackSite n)).inject.length = (s.rtr (stackSite n)).inject.length + m.reqs.length ∧
        ∀ p ps h, m.reqs = p :: ps → serveAt s n p.addr = some h → e1 = .clean → blockOk s n beta = true →
          SameMem s t ∧ RegsBut [] s t ∧ (t.rtr (stackSite n)).inject = (s.rtr (stackSite n)).inject ++ m.reqs.map fun q =>
            (4, { replyTo q tRdData sOk with hdrOnly := false, payload := blockBytes s n beta, check := storedCheck s n beta
                                             ssite := stackSite n, sagt := 0 }))) ∧
  (∀ p, inbox tWr p →
    (serveAt s n p.addr = none → Goes (.wr (.router n)) s fun t => takes t ∧ t.regs = s.regs ∧
      t.mr n = { x with requests := x.requests + 1 } ∧ answers (replyTo p tWrAck sUnassigned) t) ∧
    (∀ h, serveAt s n p.addr = some h → Goes (.wr (.router n)) s fun t => takes t ∧ t.routers = (popEject s (stackSite n) 4 p.dagt).routers ∧
      (p.poison = false → crc64 p.payload ≠ p.check → h.copy = none → Counted (mrWrCheckBadCntAt n) s t) ∧
      t.mr n = { x with
        requests := x.requests + 1, tick := x.tick + 1
        merges := x.merges.map fun m => if m.block = h.so / 1024 then { m with open_ := false } else m
        writes := x.writes ++ [{ block := h.so / 1024, pkt := p, seq := x.tick, copy := h.copy.map fun c => (c.1, c.2 / 1024) }] })) ∧
  (∀ beta w, x.writes.find? (fun w => w.block == beta) = some w → (x.merges.any fun m => m.block == beta && m.seq < w.seq) = false →
    sliceFree x beta (slicePlace w.pkt.cls) = true → Goes (.mrWriteDone n beta) s fun t =>
      t = { s with mem := t.mem, routers := t.routers, mrs := t.mrs } ∧ OnlyMr n s t ∧ t.mr n = { x with writes := x.writes.erase w } ∧
      answers (replyTo w.pkt tWrAck sOk) t ∧
      t.mem = (match w.copy with
        | some (m, b) => storeRow (storeRow s n beta w.pkt) m b w.pkt
        | none => storeRow s n beta w.pkt).mem ∧
      (w.copy = none → ∀ k, (k < stackAt n (1024 * beta) ∨ stackAt n (1024 * beta) + (if w.pkt.poison then 1024 else w.pkt.payload.length) ≤ k) →
        (k < stackAt n (checkOff beta) ∨ stackAt n (checkOff beta) + 8 ≤ k) → memByte t.mem k = memByte s.mem k))

/-- Reads and writes that reach a unit's scratchpad over the fabric (R117, R120, R122, R127, R272), a clear that ends (R128), and the
copies of the Shadow engines (R425). -/
def Obligations.ScratchpadAccesses : Prop :=
  ∀ (s : State) (r : RegionId) (p : Packet),
  let v := popEject s (portOfRegion r).1 (portOfRegion r).2 p.dagt
  let inbox (typ : Nat) : Prop := ejected s (portOfRegion r).1 (portOfRegion r).2 (fun q => q.typ == typ) = some p
  let answers (q : Packet) (w t : State) : Prop := t = { w with routers := t.routers } ∧
    Sends (dieSite (r.val / 2)) (4 + r.val % 2) { q with ssite := dieSite (r.val / 2), sagt := p.dagt } w t
  (inbox tRd →
    (windowOf s p.addr true = none → Goes (.rd (.region r)) s fun t => answers (poisonReply p sUnassigned) v t) ∧
    (∀ u off, windowOf s p.addr true = some (u, off) →
      (unitRgn u ≠ r.val → Goes (.rd (.region r)) s fun t => answers (poisonReply p sUnassigned) v t) ∧
      (unitRgn u = r.val → ∀ o w, outsideRead v u off (16 * (p.mlen + 1)) .fabric = (o, w) → Goes (.rd (.region r)) s fun t =>
        answers (match o with
          | some bs => withPayload (replyTo p tRdData sOk) bs
          | none => withPoison (replyTo p tRdData sUnassigned) (16 * (p.mlen + 1))) w t))) ∧
  (inbox tWr →
    let bad := !payloadOk p
    let ack (status : Nat) (poison : Bool) : Packet := { replyTo p tWrAck status with poison := poison }
    (windowOf s p.addr true = none → Goes (.wr (.region r)) s fun t => answers (ack sUnassigned false) v t) ∧
    (∀ u off, windowOf s p.addr true = some (u, off) →
      (unitRgn u ≠ r.val → Goes (.wr (.region r)) s fun t => answers (ack sUnassigned false) v t) ∧
      (unitRgn u = r.val → ∀ ok w, outsideWrite v u off (if bad then zeros p.payload.length else p.payload) (p.tagm == 3 && !bad)
          (if p.sub = 1 then .shadow else .plain) .fabric = (ok, w) → Goes (.wr (.region r)) s fun t =>
        (ok = false → answers (ack sUnassigned false) w t) ∧
        (ok = true → Sends (dieSite (r.val / 2)) (4 + r.val % 2)
            { ack sOk bad with ssite := dieSite (r.val / 2), sagt := p.dagt } w t ∧ SameMem w t ∧ OnlyUn u w t ∧
          t = { w with regs := t.regs, units := t.units, routers := t.routers } ∧ (bad = true → Counted (unitLandCheckCntAt u) w t) ∧
          (p.sub = 1 → p.tagm = 0 → bad = false → tagFull (t.un u) (off / 1024) = false))))) ∧
  (∀ u : UnitId, (s.un u).clear = 1 → rgnRuns s (unitRgn u) = true → Goes (.spadClearDone u) s fun t =>
    let f := advClock s (unitRgn u) ((s.un u).clearAt + 6544)
    t.fab = f.fab ∧ t = { f with regs := t.regs, mem := t.mem, units := t.units } ∧ OnlyUn u s t ∧
    Counted (unitSpadClearCntAt u) s t ∧ RegsBut [unitSpadClearCntAt u] s t ∧
    t.un u = { s.un u with clear := 2, full := [], dirty := [], mode := (s.un u).modeAfter.getD (s.un u).mode, modeAfter := none } ∧
    t.mem = (s.clear (spadAt u 0) 0x600000).mem) ∧
  (∀ (c : ClusterId) cfg i slot l pl psl pu w, cfgOf s (cluQuarter c) = some cfg → copyHead s cfg c = some (i, slot) →
    logicalOfUnit s (4 * c + i) = some l → partnerSlot cfg l slot = some (pl, psl) → unitOfLogical s pl = some pu →
    rgnRuns s (cluRgn c) = true → (s.cl c).absorbing = false → passBucket s c cBulk = some w → Goes (.shadowCopy c) s fun t =>
      let f := atPresent (takePort w (4 * c + i) false) (4 * c + i)
      t.fab = w.fab ∧ t.mem = f.mem ∧ t.clusters = s.clusters ∧ Counted (unitShadowSlotCntAt (4 * c + i)) f t ∧
      (t.un (4 * c + i)).sets = (markSent (f.un (4 * c + i)) slot).sets ∧
      Sends (cluSite c) (4 + c.val % 4 / 2) (fromClu c (withPayload
        { typ := tWr, cls := cBulk, addr := windowBase + pl * 0x800000 + 1024 * psl, sub := 1
          tagm := if tagFull (f.un (4 * c + i)) slot then 3 else 0, wtag := shadowTag i slot
          dsite := cluSite (unitClu pu), dagt := cluAgent (unitClu pu) } (spadRead f (4 * c + i) (1024 * slot) 1024))) s t)

/-- The home of a control window: Gets, PutMs, transactions and atomics (R154, R196 to R200); the packet of a host's write is the
model's choice (log entry 57). -/
def Obligations.HomeOfAControlWindow : Prop :=
  ∀ (s : State) (n : StackId) (p : Packet),
  let x := s.mr n
  let v := popEject s (portOfStack n).1 (portOfStack n).2 p.dagt
  let inbox (want : Packet → Bool) : Prop := ejected s (portOfStack n).1 (portOfStack n).2 want = some p
  let coh (sub : Nat) : Prop := inbox fun p => p.typ == tCoh && p.sub == sub
  let tells (q : Packet) (t : State) : Prop := Sends (stackSite n) 4 { q with ssite := stackSite n, sagt := 2 } s t
  let line := lineOf p.addr
  let c := senderClu p
  let queued : Bool := lineBusy x line || x.waits.any fun w => lineOf w.addr == line
  let idle : Prop := queued = false ∧ dirOf x line = none ∧ (x.dir.countP fun e => dirSet e.line == dirSet line) < 16
  let sound (a : Nat) : Prop := find? x.ecc (windowOff a / 1024) = none ∧ blockOk s n (windowOff a / 1024) = true
  let waits (i : Instr) : Prop := queued = true → Goes i s fun t => Counted (mrCohPendCntAt n) s t ∧ RegsBut [mrCohPendCntAt n] s t ∧
    OnlyMr n s t ∧ t.mr n = { x with waits := x.waits ++ [p] } ∧ t = { v with regs := t.regs, mrs := t.mrs }
  let gets (i : Instr) (excl : Bool) : Prop := waits i ∧
    (idle → sound line → Goes i s fun t => SameMem s t ∧ RegsBut [] s t ∧ OnlyMr n s t ∧ t = { s with routers := t.routers, mrs := t.mrs } ∧
      (t.mr n).txs = x.txs ++ [{ line := line, req := p, kind := 0, needData := false }] ∧
      dirOf (t.mr n) line = some { line := line, owner := if excl then some c else none, sharers := if excl then [] else [c], used := x.tick } ∧
      tells { withPayload (toCluster c line uData) (s.read (stackAt n (windowOff line)) 64) with acks := 0 } t) ∧
    (∀ e o, queued = false → dirOf x line = some e → e.owner = some o → o ≠ c → Goes i s fun t => SameMem s t ∧ OnlyMr n s t ∧
      t = { s with routers := t.routers, mrs := t.mrs } ∧ (t.mr n).fwd = x.fwd ++ [(line, o)] ∧
      (t.mr n).txs = x.txs ++ [{ line := line, req := p, kind := 0, needData := !excl }] ∧
      dirOf (t.mr n) line = some { line := line, owner := if excl then some c else none, sharers := if excl then [] else [o, c], used := x.tick } ∧
      tells { toCluster o line (if excl then uFwdGetM else uFwdGetS) with sclu := c } t)
  let swaps (i : Instr) : Prop := waits i ∧ (queued = false → dirOf x line = none → p.sub ≠ 1 → sound p.addr → Goes i s fun t =>
    let old := s.read (stackAt n (windowOff p.addr)) 8
    tells (withPayload (atomReply p) old) t ∧
    t = { s with regs := t.regs, mem := t.mem, routers := t.routers, mrs := t.mrs } ∧
    (old ≠ p.payload.take 8 → SameMem s t) ∧
    (old = p.payload.take 8 → t.mem = (partialWrite s n (windowOff p.addr) ((p.payload.drop 8).take 8)).mem))
  (coh uGetS → gets (.cohGets n) false) ∧ (coh uGetM → gets (.cohGetm n) true) ∧
  (inbox (fun p => p.typ == tAtom && p.ssite < 384) → swaps (.commitCas n)) ∧
  (inbox (fun p => p.typ == tAtom && p.ssite ≥ 384) →
    (sharedHeld x < 128 → swaps (.atom n)) ∧
    (128 ≤ sharedHeld x → Goes (.atom n) s fun t => t = { v with edges := t.edges } ∧
      (t.edge (p.ssite - 384)).held = (s.edge (p.ssite - 384)).held ++ [p] ∧ ∀ k, k ≠ p.ssite - 384 → t.edge k = s.edge k)) ∧
  (coh uPutM →
    let owner : Bool := match dirOf x p.addr with | some e => e.owner == some c | none => false
    let recalled : Bool := match txOf x p.addr with | some t => t.kind == 2 | none => false
    let later : Bool := x.fwd.contains (p.addr, c) || recalled
    (owner = false → Goes (.cohPutm n) s fun t => Counted (mrPutmStaleCntAt n) s t ∧ RegsBut [mrPutmStaleCntAt n] s t ∧ SameMem s t ∧
      OnlyMr n s t ∧ (later = false → tells (toCluster c p.addr uPutAck) t) ∧
      t.mr n = if later = true then { x with putAcks := x.putAcks ++ [(p.addr, c)] } else x) ∧
    (owner = true → Goes (.cohPutm n) s fun t => t = { s with regs := t.regs, mem := t.mem, routers := t.routers, mrs := t.mrs } ∧
      t.mem = (partialWrite s n (windowOff p.addr) p.payload).mem ∧
      (recalled = false → dirOf (t.mr n) p.addr = none) ∧
      (later = false → tells (toCluster c p.addr uPutAck) t) ∧
      (later = true → (t.mr n).putAcks = x.putAcks ++ [(p.addr, c)]))) ∧
  (∀ h, txOf x p.addr = some h →
    let upd (f : HomeTx → HomeTx) (t : State) : Prop := (t.mr n).txs = x.txs.map fun u => if u = h then f u else u
    (coh uInvAck → (h.kind ≠ 1 → Goes (.cohInvack (.router n)) s fun t => t = v) ∧
      (h.kind = 1 → 1 < h.acks → Goes (.cohInvack (.router n)) s fun t => t = { v with mrs := t.mrs } ∧ OnlyMr n s t ∧
        upd (fun u => { u with acks := u.acks - 1 }) t) ∧
      (h.kind = 1 → h.acks ≤ 1 → Goes (.cohInvack (.router n)) s fun t => t = endTx v n h)) ∧
    (coh uData → (h.kind = 2 → Goes (.cohData (.router n)) s fun t => t = endTx (partialWrite v n (windowOff p.addr) p.payload) n h) ∧
      (h.kind ≠ 2 → h.needData = true → h.acks ≠ 1 → Goes (.cohData (.router n)) s fun t =>
        t.mem = (partialWrite s n (windowOff p.addr) p.payload).mem ∧ upd (fun u => { u with needData := false }) t ∧
        t = { v with regs := t.regs, mem := t.mem, mrs := t.mrs })) ∧
    (coh uUnblock → (h.needData = true → Goes (.cohUnblock n) s fun t => t = { v with mrs := t.mrs } ∧ OnlyMr n s t ∧
        upd (fun u => { u with acks := 1 }) t) ∧
      (h.needData = false → h.kind = 0 → x.waits = [] → (∀ a ∈ x.putAcks, a.1 ≠ h.line) → (∀ e < 16, (s.edge e).held = []) →
        Goes (.cohUnblock n) s fun t => t = { v with mrs := t.mrs } ∧ OnlyMr n s t ∧ (t.mr n).txs = x.txs.erase h ∧
          (t.mr n).fwd = x.fwd.filter fun a => a.1 != h.line)))

/-- A cluster's side of coherence (R135, R196, R198): what it answers the home and other clusters, and how a Get ends. -/
def Obligations.CacheCoherence : Prop :=
  ∀ (s : State) (r : RegionId) (c : ClusterId) (p : Packet), agentClu p.dsite p.dagt = some c.val →
  let x := s.cl c
  let v := popEject s (portOfRegion r).1 (portOfRegion r).2 p.dagt
  let inbox (sub : Nat) : Prop := ejected s (portOfRegion r).1 (portOfRegion r).2 (fun p => p.typ == tCoh && p.sub == sub) = some p
  let passes : Bool := x.ctrlOut.isEmpty && mayPass s (bucketOf c cCtrl)
  let quiet (t : State) : Prop := OnlyCl c s t ∧ t = { s with clusters := t.clusters, buckets := t.buckets, routers := t.routers }
  let tells (q : Packet) (t : State) : Prop :=
    if passes then Sends (cluSite c) (4 + c.val % 4 / 2) (fromClu c { q with cls := cCtrl }) s t ∧ (t.cl c).ctrlOut = []
    else (t.cl c).ctrlOut = x.ctrlOut ++ [{ q with cls := cCtrl }]
  let drops (i : Instr) (q : Packet) : Prop := Goes i s fun t => quiet t ∧ tells q t ∧ cached (t.cl c) p.addr = none ∧
    ∀ l, l ≠ p.addr → cached (t.cl c) l = cached x l
  (inbox uFwdGetS →
    (ownedData x p.addr = none → Goes (.cohFwdgets r) s fun t => t = v) ∧
    (∀ d, ownedData x p.addr = some d → Goes (.cohFwdgets r) s fun t => quiet t ∧
      (t.cl c).cache = x.cache.map (fun l => if l.line = p.addr then { l with excl := false } else l) ∧
      (passes = false → (t.cl c).ctrlOut = x.ctrlOut ++ [{ withPayload (toCluster p.sclu p.addr uData) d with cls := cCtrl },
        { withPayload (toHome p.addr uData) d with cls := cCtrl }]))) ∧
  (inbox uFwdGetM →
    (ownedData x p.addr = none → Goes (.cohFwdgetm r) s fun t => t = v) ∧
    (∀ d, ownedData x p.addr = some d → drops (.cohFwdgetm r) (withPayload (toCluster p.sclu p.addr uData) d))) ∧
  (inbox uRecall →
    (ownedData x p.addr = none → Goes (.cohRecall r) s fun t => t = v) ∧
    (∀ d, ownedData x p.addr = some d → drops (.cohRecall r) (withPayload (toHome p.addr uData) d))) ∧
  (inbox uInv → drops (.cohInv r) (if p.rtag = 1 then toHome p.addr uInvAck else toCluster p.sclu p.addr uInvAck)) ∧
  (inbox uPutAck → Goes (.cohPutack r) s fun t => OnlyCl c s t ∧ SameMem s t ∧ RegsBut [] s t ∧ t.fab = s.fab ∧
    (x.stall = none ∨ x.get.isSome = true → t = { v with clusters := t.clusters } ∧
      t.cl c = { x with wb := x.wb.filter fun w => w.1 != p.addr })) ∧
  (∀ g, x.get = some g → g.line = p.addr →
    let ends (g : Get) (data : Bytes) (t : State) : Prop := (t.cl c).get = none ∧ OnlyCl c s t ∧ SameMem s t ∧
      (x.absorbing = false → x.stall = none → cached (t.cl c) p.addr = some ⟨p.addr, g.excl, data⟩) ∧
      (∀ e d a, x.absorbing = false → x.stall = some (.miss p.addr e d a none) → cached (t.cl c) p.addr = some ⟨p.addr, g.excl, data⟩ ∧
        (t.cl c).stall = none ∧ readS (t.cl c) d = if d = 0 then 0 else lineWord data a)
    (inbox uInvAck →
      (∀ data k, g.data = some data → g.acksWant = some k → k ≤ g.acksGot + 1 → Goes (.cohInvack (.region r)) s (ends g data)) ∧
      (g.data = none ∨ g.acksWant = none ∨ (∃ k, g.acksWant = some k ∧ g.acksGot + 1 < k) → Goes (.cohInvack (.region r)) s fun t =>
        t = { v with clusters := t.clusters } ∧ OnlyCl c s t ∧ t.cl c = { x with get := some { g with acksGot := g.acksGot + 1 } })) ∧
    (inbox uData →
      (p.acks ≤ g.acksGot → Goes (.cohData (.region r)) s (ends g p.payload)) ∧
      (g.acksGot < p.acks → Goes (.cohData (.region r)) s fun t => t = { v with clusters := t.clusters } ∧ OnlyCl c s t ∧
        t.cl c = { x with get := some { g with data := some p.payload, acksWant := some p.acks } })))

/-- The reduction engine's rows: refused (R259, R267, R268), accumulated (R260 to R262), read back (R264, R265). -/
def Obligations.ReductionRows : Prop :=
  ∀ (s : State) (n : StackId) (e1 e2 : List Ecc) (p : Packet),
  let u := noteRequest (popEject s (portOfStack n).1 (portOfStack n).2 p.dagt) n
  let inbox (op : Nat) : Prop := ejected s (portOfStack n).1 (portOfStack n).2 (fun p => p.typ == tRed && p.rop == op) = some p
  let answers (q : Packet) (t : State) : Prop := Sends (stackSite n) 4 { q with ssite := stackSite n, sagt := 1 } s t
  let frame (t : State) : Prop := t = { s with regs := t.regs, mem := t.mem, routers := t.routers, mrs := t.mrs }
  let refuses (i : Instr) : Prop := redAt s n p = none → Goes i s fun t => frame t ∧ SameMem s t ∧
    answers (statusAnswer p (if p.remote then sNack else sUnassigned)) t ∧
    (if p.remote && widthWrong s n p then Counted (mrRedNackCntAt n) s t ∧ RegsBut [mrRedNackCntAt n] s t else RegsBut [] s t)
  let reads (i : Instr) (clear : Bool) : Prop := refuses i ∧ ∀ part r off bad w, redAt s n p = some (part, r, off) →
    recordPoisoned (cacheRecord u n off) n part r p.addr (recordBlocks r off) e1 e2 = (bad, w) → Goes i s fun t =>
      let outs := (List.range (redElems r.width)).map fun e => readback (redFormat p.rfmt) (p.rrm == 1) r.ebase
        (accOf (leNat (((w.read (stackAt n off) (recordBytes r.width)).drop (16 * e)).take 16)))
      let z := if clear then zeroBlocks w n off (recordBytes r.width) else w
      frame t ∧ t = { (if bad then z else z.bumpBy (mrRedRbOvfCntAt n) (outs.map (·.2)).sum) with routers := t.routers } ∧
      answers (if bad then poisonReply p sOk
        else withPayload (replyTo p tRdData sOk) (outs.flatMap fun o => leBytes (redBytes r.width) o.1)) t
  (inbox 0 → refuses (.accumulateRow n e1 e2) ∧ ∀ part r off, redAt s n p = some (part, r, off) →
    (payloadOk p = false → Goes (.accumulateRow n e1 e2) s fun t => frame t ∧ t.mem = (poisonRecord s n (recordBlocks r off)).mem ∧
      Counted (mrRedInPoisonCntAt n) s t ∧ RegsBut [mrRedInPoisonCntAt n, mrRedPoisonLogAt n] s t ∧ answers (replyTo p tWrAck sOk) t) ∧
    (∀ bad w, payloadOk p = true → recordPoisoned (cacheRecord u n off) n part r p.addr (recordBlocks r off) e1 e2 = (bad, w) →
      (bad = true → Goes (.accumulateRow n e1 e2) s fun t => t = { w with routers := t.routers } ∧ answers (replyTo p tWrAck sOk) t) ∧
      (bad = false → Goes (.accumulateRow n e1 e2) s fun t =>
        let outs := (List.range (redElems r.width)).map fun e => addInput r.ebase r.span
          (accOf (leNat (((w.read (stackAt n off) (recordBytes r.width)).drop (16 * e)).take 16)))
          (decodeElem (redFormat p.rfmt) (leNat ((p.payload.drop (redBytes r.width * e)).take (redBytes r.width))))
        t = { w with regs := t.regs, mem := t.mem, routers := t.routers } ∧ Counted (mrRedRowCntAt n) w t ∧
        RegsBut [mrRedRowCntAt n, mrRedSatCntAt n, mrRedInexactCntAt n, mrRedUflowCntAt n, mrRedNonfinCntAt n] w t ∧
        t.mem = (writeRecord w n off (outs.flatMap fun o => leBytes 16 (accNat o.1))).mem ∧ answers (replyTo p tWrAck sOk) t))) ∧
  (inbox 1 → reads (.readRow n e1 e2) false) ∧ (inbox 2 → reads (.readClearRow n e1 e2) true)

/-- The routers: their slots (R207, R220 to R222), lanes that lose lock (R209, R210), full ejection buffers (R229), congestion maps
(R233). -/
def Obligations.RoutersAndLinks : Prop :=
  ∀ (s : State),
  let m := s.fab / 5
  let still (t : State) : Prop := SameMem s t ∧ t.clusters = s.clusters ∧ t.units = s.units ∧ t.mrs = s.mrs ∧ t.flights = s.flights
  (∀ (site : RouterId) hits, (s.rtr site).running = true → (s.rtr site).lastSlot ≠ some m → Goes (.routerSlot site hits) s fun t =>
    t = { s with regs := t.regs, routers := t.routers, flights := t.flights, sec := t.sec } ∧ (∀ k, k ≠ site.val → t.rtr k = s.rtr k) ∧
    (t.rtr site).lastSlot = some m ∧ (∀ f ∈ t.flights, f.site = site.val → m < f.slot) ∧
    ((∀ f ∈ s.flights, f.site = site.val → m < f.slot) → (s.rtr site).inject = [] → (s.rtr site).park = [] →
      t = { s with routers := t.routers } ∧ t.rtr site = { s.rtr site with lastSlot := some m })) ∧
  (∀ (l : LinkId) hiEnd, linkKind l = .seam ∨ linkKind l = .edge → (s.link l).state = 2 ∨ (s.link l).state = 3 →
    Goes (.laneLossOfLock l hiEnd) s fun t =>
      let x := s.link l
      let lo := if hiEnd then x.failedLo else x.failedLo + 1
      let hi := if hiEnd then x.failedHi + 1 else x.failedHi
      t.fab = (m + 1) * 5 ∧ still t ∧ (∀ k, k ≠ l.val → t.link k = s.link k) ∧
      t.link l = { x with failedLo := lo, failedHi := hi, state := max x.state (linkStateOf (linkKind l) (max lo hi)) } ∧
      t.reg pmDmapGenAt = s.reg pmDmapGenAt + 1 ∧
      ((if hiEnd then hi else lo) ≤ 2 → Counted (rtrLaneSwapCntAt (if hiEnd then (linkEnds l).2.1 else (linkEnds l).1.1)) s t)) ∧
  (∀ p : AgentPort,
    let a := portOf p
    let r := s.rtr a.1
    let susp (t : State) : Prop := still t ∧ RegsBut [pmFabSuspAt, pmFabSuspCntAt] s t ∧ ∀ k, k ≠ a.1 → t.rtr k = s.rtr k
    (∀ b f, earliest (r.fullSince.filter fun e => atPort a.2 e.1 && (find? r.ejSusp e.1).isNone) = some (b, f) →
      Goes (.ejectFullTimeout p) s fun t => susp t ∧ t.fab = max s.fab (f + 100) ∧ t.rtr a.1 = { r with ejSusp := putAt r.ejSusp b none }) ∧
    (∀ b f, earliest ((r.ejSusp.filterMap fun e => e.2.map (e.1, ·)).filter fun e => atPort a.2 e.1 && (find? r.fullSince e.1).isNone) = some (b, f) →
      Goes (.ejectSuspendEnd p) s fun t => susp t ∧ t.fab = max s.fab (f + 2000) ∧ t.rtr a.1 = { r with ejSusp := dropAt r.ejSusp b })) ∧
  (∀ site : RouterId,
    let began : Int := ((s.rtr site).cmapFrom * 5 / 2 : Nat) + (s.keeper site).adj
    let latches (v : State) (frame : Nat) (t : State) : Prop := t.fab = v.fab ∧ t = { v with regs := t.regs, routers := t.routers } ∧
      (∀ k, k ≠ site.val → t.rtr k = s.rtr k) ∧
      t.rtr site = { s.rtr site with used := [0, 0, 0, 0, 0, 0], defl := [0, 0, 0, 0, 0, 0], cmapFrom := v.fab / 5, cmapPos := [] } ∧
      t.reg (rtrCmapFrameAt site) = frame % 2 ^ 32 ∧ ∀ i < 6, t.reg (rtrCmapAt site i) = cmapWord v site i (v.fab / 5)
    (∀ p, (partOf s (siteQuarter site)).filter (·.tick) = some p → began < p.lastEdge →
      Goes (.cmapLatch site) s (latches s (p.lastEdge / p.period - 1))) ∧
    ((partOf s (siteQuarter site)).filter (·.tick) = none →
      Goes (.cmapLatch site) s (latches (advNs s site ((began.toNat / 250000 + 1) * 250000)) 0)))

/-- Glints (R234, R235) and counter snapshots (R356, R491 to R493). -/
def Obligations.GlintsAndSnapshots : Prop :=
  ∀ (s : State),
  let mgmt (site sub : Nat) (p : Packet) : Prop :=
    ejected s site (regPort site) (fun p => p.typ == tMgmt && p.sub == sub) = some p ∧ obeys s site p = true
  let whole (v : State) (g : GlintOp) (recs : List (Nat × List Nat)) (t : State) : Prop :=
    let seq := s.mgr.glintSeq
    t.mgr = { v.mgr with glint := none, glintSeq := seq + 1, glints := s.mgr.glints.filter (fun x => x.slot != seq % 64) ++
      [{ slot := seq % 64, seq := seq, at_ := g.at_, recs := recs }] } ∧
    t.reg pmGlintStatAt = seq % 2 ^ 32 * 2 ^ 32 + 64 + seq % 64 ∧ RegsBut [pmGlintStatAt, pmGlintMissCntAt] s t ∧
    (recs.length < 400 → t.ctr pmGlintMissCntAt = min (s.ctr pmGlintMissCntAt + (400 - recs.length)) 0xFFFFFFFFFFFF)
  ((activeMgr s).isSome = true → s.regField pmGlintCtlAt 31 31 = 1 → s.mgr.glint = none → Goes .glintTake s fun t =>
    ∃ T, mgrNs s < T ∧ T ≤ mgrNs s + glintPeriod s ∧ T % glintPeriod s = 0 ∧ t.fab = (advMgr s T).fab ∧
      t.mgr.glint = some { at_ := T, sentAt := t.fab } ∧ SameMem s t ∧ RegsBut [] s t ∧
      ∃ w, w = { advMgr s T with mgr := t.mgr } ∧ t = (List.range 400).foldl (fun u i => fromMgr u (mgmtTo i (regAgent i) 4)) w) ∧
  (∀ (site : RouterId) p, mgmt site 4 p → Goes (.glintReq site) s fun t => t = { s with routers := t.routers } ∧
    Sends site (regPort site) { withPayload (mgmtTo p.ssite p.sagt 5) ((glintRecord s site).flatMap (leBytes 4)) with
      cls := cCtrl, ssite := site, sagt := regAgent site } s t ∧ ∀ k, k ≠ site.val → t.rtr k = s.rtr k) ∧
  (∀ b p g, activeMgr s = some b → s.mgr.glint = some g → ejected s (portOfEdge (managerEdge b)).1 (portOfEdge (managerEdge b)).2
      (fun p => p.typ == tMgmt && p.sub == 5 && p.dagt == 5) = some p →
    let recs := putAt g.got p.ssite ((List.range 8).map fun i => leNat ((p.payload.drop (4 * i)).take 4))
    (g.sentAt + 200000 < s.fab → Goes .glintRec s fun t => t = { s with routers := t.routers }) ∧
    (s.fab ≤ g.sentAt + 200000 → recs.length < 400 → Goes .glintRec s fun t => t.mgr = { s.mgr with glint := some { g with got := recs } } ∧
      t = { s with mgr := t.mgr, routers := t.routers }) ∧
    (s.fab ≤ g.sentAt + 200000 → 400 ≤ recs.length → Goes .glintRec s fun t => whole s g recs t ∧ t = { s with regs := t.regs, mgr := t.mgr, routers := t.routers })) ∧
  (∀ g, (activeMgr s).isSome = true → s.mgr.glint = some g → Goes .glintRecordTimeout s fun t =>
    let v := advFab s (g.sentAt + 200000)
    whole v g g.got t ∧ t.fab = max s.fab (g.sentAt + 200000) ∧ t = { v with regs := t.regs, mgr := t.mgr }) ∧
  (∀ (q : QuarterId) p T frame, partOf s q = some p → bit (s.reg (hstSnapCtlAt q)) 31 = true → (s.qtr q).svc ≠ 0 →
    snapDue s q p = some (T, frame) →
    let v := advNs s (edgeSite (controllerEdge q)) T
    ((s.qtr q).snap.isSome = true ∨ (s.qtr q).pcieUp = false → Goes (.snapshotDue q) s fun t => t.fab = v.fab ∧
      Counted (hstSnapSkipCntAt q) s t ∧ RegsBut [hstSnapSkipCntAt q] s t ∧ t = { v with regs := t.regs, quarters := t.quarters } ∧
      OnlyQtr q s t ∧ t.qtr q = { s.qtr q with snapSeq := (s.qtr q).snapSeq + 1, snapAt := T }) ∧
    ((s.qtr q).snap = none → (s.qtr q).pcieUp = true → Goes (.snapshotDue q) s fun t => t.fab = v.fab ∧
      t = { v with quarters := t.quarters, routers := t.routers, out := t.out } ∧ OnlyQtr q s t ∧
      t.out = .hostWrite q (slotAddr s q (s.qtr q).snapSeq 0) (List.replicate 8 0xFF) false :: s.out ∧
      ∃ x, t.qtr q = { s.qtr q with snap := some x, snapSeq := (s.qtr q).snapSeq + 1, snapAt := T } ∧
        x.at_ = T ∧ x.seq = (s.qtr q).snapSeq)) ∧
  (∀ (st : StackId) p, mgmt (stackSite st) 6 p → Goes (.cntLatch st) s fun t => t = { s with routers := t.routers } ∧
    (∀ k, k ≠ stackSite st → t.rtr k = s.rtr k) ∧
    (t.rtr (stackSite st)).inject = (s.rtr (stackSite st)).inject ++ (recordPackets s (stackSite st) (leNat p.payload)).map fun k =>
      (regPort (stackSite st), { k with cls := cCtrl, ssite := stackSite st, sagt := regAgent (stackSite st) })) ∧
  (∀ (q : QuarterId) p, ejected s (portOfEdge (controllerEdge q)).1 (portOfEdge (controllerEdge q)).2
      (fun p => p.typ == tMgmt && p.sub == 7 && p.dagt == 4) = some p → Goes (.cntRec q) s fun t =>
    t = { s with routers := t.routers, quarters := t.quarters, out := t.out } ∧
    (∀ k, bit (qmaskOf s q) k = false → t.qtr k = s.qtr k) ∧
    ∀ k < 4, bit (qmaskOf s q) k = true → (∀ x, (s.qtr k).snap = some x → x.at_ ≠ leNat (p.payload.take 16)) → t.qtr k = s.qtr k) ∧
  (∀ (q : QuarterId) x, (s.qtr q).snap = some x → Goes (.snapshotRecordTimeout q) s fun t =>
    let v := advFab s (x.fab + 1000000)
    t.fab = max s.fab (x.fab + 1000000) ∧ t = { v with quarters := t.quarters, out := t.out } ∧ OnlyQtr q s t ∧
    t.qtr q = { s.qtr q with snap := none } ∧
    ((s.qtr q).pcieUp = true → ∃ l, t.out = .hostWrite q (slotAddr s q x.seq 0) (leBytes 8 x.seq) false :: l) ∧
    ((s.qtr q).pcieUp = false → t.out = s.out))

/-- Accesses to registers: management packets and REG packets (R217, R232, R428), DBGACC (R4, R483, R485), host writes (R5, R342 to R345,
R349, R474); the layouts are the model's choice (log entries 66, 67, 151). -/
def Obligations.RegisterAccesses : Prop :=
  ∀ (s : State),
  (∀ (a : AgentPort) k,
    let site := (portOf a).1
    let v := popEject s site (portOf a).2 k.dagt
    (ejected s site (portOf a).2 (fun k => k.typ == tMgmt && k.sub == 0xC) = some k → Goes (.pmCmd a) s fun t =>
      t = { s with routers := t.routers } ∧ (∀ j, j ≠ site → t.rtr j = s.rtr j) ∧
      (t.rtr site).epoch = if obeys s site k then k.addr % 65536 else (s.rtr site).epoch) ∧
    (ejected s site (portOf a).2 (fun k => k.typ == tReg && k.dagt == regAgent site) = some k →
      (∀ n, a = .router n → sharedHeld (s.mr n) < 128) →
      (k.sagt = 5 → obeys s site k = false → Goes (.reg a) s fun t => t = v) ∧
      (k.sagt ≠ 5 ∨ obeys s site k = true →
        let w := if k.sagt = 5 then seeEpoch v site (k.addr % 65536) else v
        let f := leNat (k.payload.take 1)
        let addr := leNat ((k.payload.drop 2).take 6)
        let data := leNat ((k.payload.drop 8).take 8)
        let answer (x : Nat) (z t : State) : Prop := t = { z with routers := t.routers } ∧ Sends site (regPort site)
          { withPayload { typ := tRegRsp, dsite := k.ssite, dagt := k.sagt } (leBytes 8 x) with
            sub := b2n (bit f 0), cls := cCtrl, ssite := site, sagt := regAgent site } z t
        (ownControl site addr = false → bit f 0 = true → Goes (.reg a) s
          (answer 0 (writeWords (bit f 1) addr data
            (fun s a v => dieWrite s (bit f 2) (bit (leNat ((k.payload.drop 1).take 1)) 0) a v) w))) ∧
        (ownControl site addr = false → bit f 0 = false →
          let r := readWords (bit f 1) addr (fun s a => readDieWord s (leNat ((k.payload.drop 16).take 2)) a) w
          Goes (.reg a) s (answer r.1 r.2)) ∧
        (∀ n, ownControl site addr = true → placeOf site = .stack n → Goes (.reg a) s fun t =>
          t = homeRequest w n (regAtom k (bit f 0) (bit f 1) addr data))))) ∧
  (∀ (e : EdgeId) k, ejected s (portOfEdge e).1 (portOfEdge e).2 (fun k => k.typ == tRegRsp && (k.dagt == 4 || k.dagt == 5)) = some k →
    let v := popEject s (portOfEdge e).1 (portOfEdge e).2 k.dagt
    let x := leNat (k.payload.take 8)
    Goes (.regRsp e) s fun t => t = if k.sub = 1 then v
      else v.emit (.value (match k.rtag with | 0 => x | 1 => x % 2 ^ 32 | _ => x / 2 ^ 32))) ∧
  (∀ (b : Bool) (a : PAddr) (w : Option (BitVec 64)) (eight : Bool),
    let n := a.toNat
    (n % (if eight then 8 else 4) ≠ 0 → Goes (.dbgacc b a w eight) s fun t => t = s) ∧
    (n % (if eight then 8 else 4) = 0 →
      (tapReaches s b = false → Goes (.dbgacc b a w eight) s fun t =>
        if w.isSome then t = s else ∃ x, t = s.emit (.value x)) ∧
      (tapReaches s b = true →
        (inMgrArea n = true → Goes (.dbgacc b a w eight) s fun t => t = operMgrAccess s (.tap b) n (w.map (·.toNat)) eight) ∧
        (inMgrArea n = false → inDieArea n = true → Goes (.dbgacc b a w eight) s fun t =>
          t = { s with regs := t.regs, routers := t.routers } ∧ Counted (secDbgAccCntAt (siteQuarter (siteOfReg n))) s t ∧
          RegsBut [secDbgAccCntAt (siteQuarter (siteOfReg n))] s t ∧
          Sends (edgeSite (managerEdge b)) 2 { regPacket (siteOfReg n) (regPayload w.isSome eight true false n ((w.map (·.toNat)).getD 0)
              (reqCode (.tap b))) with addr := (s.inst b).epoch % 65536, ssite := edgeSite (managerEdge b), sagt := 5 } s t) ∧
        (inMgrArea n = false → inDieArea n = false → inControl n = false → inWindow n = false → memQuarter s n = none →
          Goes (.dbgacc b a w eight) s fun t => t = if w.isSome then s else s.emit (.value 0))))) ∧
  (∀ (q : QuarterId) (a : PAddr) (v : BitVec 64),
    let host : Requester := .host q
    let n := a.toNat
    let cnt (t : State) : Prop := t = { s with regs := t.regs } ∧ Counted (hstBadAccCntAt q) s t ∧ RegsBut [hstBadAccCntAt q] s t
    (∀ how, (s.qtr q).pcieUp = false → Goes (.registerWrite host a v how) s fun t => t = s) ∧
    (∀ k how, (how, k) = (.four, 4) ∨ (how, k) = (.eight, 8) ∨ how = .other k → (s.qtr q).pcieUp = true →
      (barAligned n k = false → Goes (.registerWrite host a v how) s cnt) ∧
      (barAligned n k = true → bar0Reaches s q n = false → Goes (.registerWrite host a v how) s fun t => t = s) ∧
      (barAligned n k = true → bar0Reaches s q n = true → inMgrArea n = false → inDieArea n = true → isOperator s host = false →
        (siteOfReg n = edgeSite (controllerEdge q) → Goes (.registerWrite host a v how) s fun t =>
          t = writeWords (k == 8) n v.toNat (fun s a v => dieWrite s false false a v) s) ∧
        (siteOfReg n ≠ edgeSite (controllerEdge q) → bit (qmaskOf s q) (siteQuarter (siteOfReg n)) = false →
          Goes (.registerWrite host a v how) s fun t => t = s) ∧
        (siteOfReg n ≠ edgeSite (controllerEdge q) → bit (qmaskOf s q) (siteQuarter (siteOfReg n)) = true →
          Goes (.registerWrite host a v how) s fun t => t = { s with routers := t.routers } ∧
            Sends (edgeSite (controllerEdge q)) 2 { regPacket (siteOfReg n) (regPayload true (k == 8) false true n v.toNat (reqCode host)) with
              ssite := edgeSite (controllerEdge q), sagt := 4 } s t))) ∧
    (∀ k, (s.qtr q).pcieUp = true → let o := n % 0x4000
      (isDoorbell (o / 8 * 8) = false → barAligned o k = false → Goes (.registerWrite host a v (.bar4 k)) s cnt) ∧
      (isDoorbell (o / 8 * 8) = true → k ≠ 4 → Goes (.registerWrite host a v (.bar4 k)) s cnt) ∧
      (isDoorbell (o / 8 * 8) = false → barAligned o k = true → 0x1000 ≤ o → o < 0x2000 → Goes (.registerWrite host a v (.bar4 k)) s fun t =>
        t = { s with quarters := t.quarters } ∧ OnlyQtr q s t ∧ t.qtr q = putReqArea (s.qtr q) (o - 0x1000) (leBytes k v.toNat))) ∧
    ((s.qtr q).pcieUp = true → Goes (.registerWrite host a v .config) s fun t => t = { s with quarters := t.quarters } ∧ OnlyQtr q s t ∧
      t.qtr q = (let k := bits v.toNat 13 8; if 10 ≤ k ∧ k ≤ 16 then { s.qtr q with bar2Log := k - 10 } else s.qtr q))) ∧
  (∀ (c : ClusterId) (k : Fin 3) f p rest, solventAt s (bucketOf c k) = some f → rgnRuns s (cluRgn c) = true →
    (k = 0 ∧ (s.cl c).credits = p :: rest) ∨ (k = 2 ∧ (s.cl c).ctrlOut = p :: rest) → Goes (.bucketDebtRepaid (.cluster c k)) s fun t =>
      t.fab = max s.fab f ∧ OnlyCl c s t ∧ SameMem s t ∧ Sends (cluSite c) (4 + c.val % 4 / 2) (fromClu c p) s t ∧
      t.cl c = if k = 0 then { s.cl c with credits := rest } else { s.cl c with ctrlOut := rest }) ∧
  (∀ (e : EdgeId) p k rest f i, (s.edge e).ingressReq = (p, k) :: rest → solventAt s (bucketOfEdge e) = some f →
    i ∈ [.bucketDebtRepaid (.edge e), .ingressReqAdmit e] → Goes i s fun t =>
      t.fab = max s.fab f ∧ SameMem s t ∧ OnlyPort p s t ∧ (∀ j, j ≠ e.val → t.edge j = s.edge j) ∧
      t.edge e = { s.edge e with ingressReq := rest } ∧
      Sends (edgeSite e) 2 { k with ssite := edgeSite e, sagt := p % 4 } s t ∧
      ((s.bucket (bucketOfEdge e)).waitAt = none → RegsBut [] s t))

/-- Runs of mirror replay begin and end (R286 to R288), and HALT (R281, R282). -/
def Obligations.ReplayRunsAndHalt : Prop :=
  ∀ (s : State) (q : QuarterId), (activeMgr s).isSome = true →
  (∀ p c h e, partOf s q = some p → p.edgeFab = s.fab → p.hold = true →
    (waitingSteps p).findSome? (fun h => (replayCluster s p h.lclu).map fun c => (c, h)) = some (c, h) → schedFor p.cfg h.lclu = some e →
    Goes (.replayRunStart q) s fun t => t.fab = s.fab ∧ OnlyCl c s t ∧ SameMemBut (schedAt c 0) e.image.length s t ∧
      (∀ u, u / 4 ≠ c → t.un u = s.un u) ∧ (∀ i < 4, (t.un (4 * c + i)).replayAs = some (4 * h.lclu + i, h.frame)) ∧
      (t.cl c).seq = .run ∧ (t.cl c).pc = imageNat e 0xC 4 ∧ (t.cl c).s = replayRegs h ∧ (t.cl c).frameIdx = h.frame ∧
      (t.cl c).replay = some { part := q.val, step := h.serial, run := if h.stage = 0 then 1 else 2, orig := h.lclu } ∧
      Counted (pmReplayRunCntAt (partQ p)) s t ∧
      ∃ y, partOf t q = some y ∧ y.held = mapFirst (fun k => k.serial == h.serial) (fun k => { k with stage := k.stage + 1 }) p.held) ∧
  (∀ (c : ClusterId) r, (s.cl c).replay = some r → (s.cl c).workEnd.isSome = true ∨ (s.cl c).seq = .trapped →
    Goes (.replayRunEnd c) s fun t => t.fab = s.fab ∧ OnlyCl c s t ∧ (t.cl c).replay = none ∧
      ((partD s r.part).held.find? (fun h => h.serial == r.step) = none → t = leaveRun s c) ∧
      ∀ h, (partD s r.part).held.find? (fun h => h.serial == r.step) = some h →
        t = vote (modHeld (leaveRun s c) r.part h.serial fun _ => { h with breach := h.breach || r.breach }) r.part c
          { h with breach := h.breach || r.breach } r.run (if runGood s c r h.gmask then some r.digest else none)) ∧
  (∀ r, mbOf s q 7 = some r →
    let m := natAt r.payload 0 1
    let k := lowestQuarter (requestMask s q r.oper m)
    let p := partD s k
    let good : Prop := noService s q = false ∧ m ≤ 15 ∧ natAt r.payload 1 7 = 0 ∧ (r.oper = true ∨ (partOf s q).isSome = true) ∧
      badMask s r.oper m = false
    let ready : Prop := good ∧ p.reset = none ∧ (s.qtr k).pmoving = false ∧ (s.qtr k).pstate ≠ 2 ∧ (s.qtr k).pstate ≠ 3
    (noService s q = true → Goes (.halt q) s (Refuses q r 1 s)) ∧
    (noService s q = false → 15 < m ∨ natAt r.payload 1 7 ≠ 0 → Goes (.halt q) s (Refuses q r 7 s)) ∧
    (noService s q = false → m ≤ 15 → natAt r.payload 1 7 = 0 → r.oper = false → partOf s q = none → Goes (.halt q) s (Refuses q r 8 s)) ∧
    (good → p.reset.isSome = true ∨ (s.qtr k).pmoving = true → Goes (.halt q) s (Refuses q r 3 s)) ∧
    (good → p.reset = none → (s.qtr k).pmoving = false → (s.qtr k).pstate = 2 ∨ (s.qtr k).pstate = 3 → Goes (.halt q) s (Refuses q r 4 s)) ∧
    (ready → p.halted = true → Goes (.halt q) s (Replies q r 0 [] s)) ∧
    (ready → p.halted = false → Goes (.halt q) s fun t => t = { s with parts := t.parts } ∧
      t.parts = mapFirst (fun y => bit y.qmask k) (fun y => { y with haltDue := true, haltReply := y.haltReply ++ [q.val] }) s.parts))

/-- Structure streams are loaded, withdrawn and validated (R299 to R302, R306), and a raise to a stream's PMIN is asked for again (R303). -/
def Obligations.StreamsLoadedAndValidated : Prop :=
  ∀ (s : State) (q : QuarterId),
  let waits : Prop := 1 ≤ ssState s q ∧ ssState s q ≤ 3
  (ssState s q = 0 ∨ 4 < ssState s q → (s.qtr q).svc ≠ 0 → Goes (.ssLoad q) s fun t => t = { s with regs := t.regs, mgr := t.mgr } ∧
    t.mgr = { s.mgr with ssQueue := s.mgr.ssQueue ++ [q.val] } ∧ ssState t q = 1 ∧ Counted (qcSsLoadCntAt q) s t ∧
    RegsBut [qcSsStatAt q, qcSsLoadCntAt q] s t) ∧
  (¬((ssState s q = 0 ∨ 4 < ssState s q) ∧ (s.qtr q).svc ≠ 0) → Goes (.ssLoad q) s fun t => t = s) ∧
  (waits → cancelLate s q = false → Goes (.ssCancel q) s fun t => ssState t q = 7 ∧ t.fab = s.fab ∧ t.clusters = s.clusters ∧
    t.mgr.ssQueue = s.mgr.ssQueue.filter (· != q.val) ∧ t.mgr.pends = s.mgr.pends.filter (fun p => p.q != q.val) ∧
    t.mgr.locks = s.mgr.locks.filter (fun r => r.stream != some q.val) ∧
    (∀ p, t.mgr.install = some p → p.q ≠ q.val) ∧ ((∀ p, s.mgr.install = some p → p.q ≠ q.val) → SameMem s t)) ∧
  (¬waits ∨ cancelLate s q = true → Goes (.ssCancel q) s fun t => t = s) ∧
  (∀ ks header rest, (activeMgr s).isSome = true → s.mgr.install = none → s.mgr.ssQueue = q.val :: ks →
    let refused (code : Nat) (t : State) : Prop := ssState t q = 6 ∧ bits (t.reg (qcSsStatAt q)) 15 8 = code ∧ t.fab = s.fab ∧
      Counted (qcSsRefuseCntAt q) s t ∧ t.mgr = { s.mgr with ssQueue := ks } ∧ t = { s with regs := t.regs, quarters := t.quarters, mgr := t.mgr }
    let short : Prop := header = none ∨ ∃ hb, header = some hb ∧ (hb.length ≠ 48 ∨ headFailure s q (readHead hb) = none ∧
      (rest = none ∨ ∃ rb, rest = some rb ∧ hb.length + rb.length ≠ (readHead hb).total))
    (short → Goes (.streamValidate q header rest) s (refused 2)) ∧
    (∀ hb code, header = some hb → hb.length = 48 → headFailure s q (readHead hb) = some code →
      Goes (.streamValidate q header rest) s (refused code)) ∧
    (∀ hb rb, header = some hb → rest = some rb → hb.length = 48 → headFailure s q (readHead hb) = none →
      48 + rb.length = (readHead hb).total →
      (signatureOk s (readHead hb) (hb ++ rb) = false → Goes (.streamValidate q header rest) s (refused 6)) ∧
      (signatureOk s (readHead hb) (hb ++ rb) = true → serialBad s (readHead hb) = true → Goes (.streamValidate q header rest) s (refused 7)) ∧
      (Goes (.streamValidate q header rest) s fun t => t.fab = s.fab ∧ SameMem s t ∧ t.mgr.ssQueue = ks ∧ ssState t q ∈ [2, 3, 6] ∧
        (ssState t q = 2 → ∃ cfg, t.mgr.install = some { q := q.val, cfg := cfg, validAt := s.fab }) ∧
        (ssState t q = 3 → ∃ p, p.q = q.val ∧ t.mgr.pends = s.mgr.pends ++ [p])))) ∧
  (∀ p header rest, (activeMgr s).isSome = true → s.mgr.install = some p → p.q = q.val → Goes (.streamValidate q header rest) s fun t =>
    t.mgr.install = none ∧ (ssState t q = 3 ∨ ssState t q = 6) ∧
    (ssState t q = 3 → t.fab = max s.fab (p.validAt + zeroCycles (zeroedBy s p.cfg)))) ∧
  (∀ p, (activeMgr s).isSome = true →
    s.mgr.pends.find? (fun p => p.raise == 1 && !s.mgr.locks.any fun r => r.stream == some p.q) = some p →
    let v := advFab s (p.triedAt + 2000000)
    (p.cfg.pmin ≤ s.mgr.cur → Goes .pminRaiseRetry s fun t =>
      let w := modPend v p.q fun p => { p with raise := 0 }
      t = w.setReg (qcSsApplyAt p.q) (timeWord (applyEdge w { p with raise := 0 }))) ∧
    (s.mgr.cur < p.cfg.pmin → Goes .pminRaiseRetry s fun t => t.fab = max s.fab (p.triedAt + 2000000) ∧ SameMem s t ∧ RegsBut [] s t ∧
      t.mgr.locks = s.mgr.locks ++ [{ code := 4, qmask := 15, arg := p.cfg.pmin, reply := none, stream := some p.q }] ∧
      t.mgr.pends = (modPend v p.q fun p => { p with triedAt := t.fab }).mgr.pends))

/-- Step 6 of bring-up: neighbour tests, vouches and timed echoes (R370, R371, R374; log entries 62 and 129). -/
def Obligations.NeighbourTestsVouchesAndEchoes : Prop :=
  ∀ (s : State),
  (∀ (site nb : RouterId) h c pat sig d, atStep s 6 = true → s.mgr.phase = 1 → linkedTo s site nb = true →
    Goes (.test site nb h c pat sig d) s fun t => t = { s with mgr := t.mgr } ∧
      t.mgr = { s.mgr with tests := s.mgr.tests ++ [(site.val, nb.val, h && c && pat && sig && d)], wrongSig := t.mgr.wrongSig } ∧
      (∀ k, k ≠ nb.val → (k ∈ t.mgr.wrongSig ↔ k ∈ s.mgr.wrongSig)) ∧
      (nb.val ∈ t.mgr.wrongSig ↔ nb.val ∈ s.mgr.wrongSig ∨ (h = true ∧ c = true ∧ sig = false))) ∧
  (∀ b p, activeMgr s = some b →
    ejected s (portOfEdge (managerEdge b)).1 (portOfEdge (managerEdge b)).2 (fun p => p.typ == tMgmt && p.sub == 8 && p.dagt == 5) = some p →
    let v := popEject s (portOfEdge (managerEdge b)).1 (portOfEdge (managerEdge b)).2 p.dagt
    (atStep s 6 = true → s.mgr.phase = 2 → Goes .vouch s fun t => t = { v with mgr := t.mgr } ∧
      t.mgr = { s.mgr with vouches := putAt s.mgr.vouches p.ssite (pairNats (p.payload.length / 2) p.payload) }) ∧
    (atStep s 6 = false ∨ s.mgr.phase ≠ 2 → Goes .vouch s fun t => t = v)) ∧
  (∀ (site : RouterId) p, ejected s site (regPort site) (fun p => p.typ == tMgmt && p.sub == 9) = some p →
    let v := popEject s site (regPort site) p.dagt
    (p.dagt ≠ 5 → obeys s site p = true → Goes (.delayEcho site) s fun t => t = { s with routers := t.routers } ∧
      Sends site (regPort site) { withPayload (mgmtTo p.ssite 5 9) (leBytes 8 (flightCycles p) ++ leBytes 8 p.defl) with
        cls := cCtrl, ssite := site, sagt := regAgent site } v t ∧
      (t.rtr site).epoch = max (s.rtr site).epoch (p.addr % 65536) ∧ ∀ k, k ≠ site.val → t.rtr k = s.rtr k) ∧
    (p.dagt ≠ 5 → obeys s site p = false → Goes (.delayEcho site) s fun t => t = v) ∧
    (p.dagt = 5 → (activeMgr s).isSome = true →
      (p.defl = 0 → leNat (p.payload.drop 8) = 0 → Goes (.delayEcho site) s fun t => t = { v with keepers := t.keepers } ∧
        t.keeper p.ssite = { s.keeper p.ssite with delay := some ((leNat (p.payload.take 8) + flightCycles p) / 4) } ∧
        ∀ k, k ≠ p.ssite → t.keeper k = s.keeper k) ∧
      (p.defl ≠ 0 ∨ leNat (p.payload.drop 8) ≠ 0 → Goes (.delayEcho site) s fun t => t = sendEcho v p.ssite)))

/-- A tick edge comes at the next whole multiple of the period, or at the end of a joining interval, as the keeper of the partition's controller
edge die reads it, and its steps run in the order of R34 (R45, R47); a tick starts at its first edge (R46, R49; log entries 7 and 141).  A cluster at a tick edge:
step 1 ends its frame, overruns it or abandons its late work (R57 to R59, R158); step 5 begins the next frame
in every cluster with an image (R134, R141), and an edge of a hold or a halt begins none and is counted (R293). -/
def Obligations.TickEdgesAndFrames : Prop :=
  (∀ (s : State) (q : QuarterId),
  let edge (p : Partition) (v : State) (T : Nat) (t : State) : Prop := t = runEdge v q T ∧ t.fab = v.fab ∧
    ∃ y, partOf t q = some y ∧ y.qmask = p.qmask ∧ y.lastEdge = T ∧ y.edgeFab = t.fab
  (∀ p, partOf s q = some p → p.tick = true → p.period ≠ 0 → Goes (.tickEdge q) s fun t =>
    ∃ T, (p.joinTo = none → p.lastEdge < T ∧ T ≤ p.lastEdge + p.period ∧ T % p.period = 0) ∧ (∀ j, p.joinTo = some j → T = j) ∧
      edge p (advNs s (edgeSite (controllerEdge (partQ p))) T) T t) ∧
  ((∀ p, partOf s q = some p → p.tick = false ∨ p.period = 0) → Goes (.tickEdge q) s fun t => t = s) ∧
  (setPending s = true → Goes (.tickStart q) s fun t => t = s) ∧
  (∀ p f, setPending s = false → partOf s q = some p → p.tick = false → p.period ≠ 0 → p.startFrom = some f →
    (pointAhead s < p.cfg.pmin → inDawn s q = false → Goes (.tickStart q) s fun t => t = { s with mgr := t.mgr } ∧
      t.mgr = { s.mgr with locks := t.mgr.locks } ∧ t.mgr.locks = if s.mgr.eqx.isSome || s.mgr.locks.any fun r => r.code == 4 then s.mgr.locks
        else s.mgr.locks ++ [{ code := 4, qmask := 15, arg := p.cfg.pmin, reply := none }]) ∧
    (p.cfg.pmin ≤ pointAhead s ∨ inDawn s q = true → Goes (.tickStart q) s fun t => ∃ T, T % p.period = 0 ∧
      let site := edgeSite (controllerEdge (partQ p))
      nsAt s site ≤ T ∧ nsAt s site + 100000 ≤ T + (s.fab - max f s.mgr.setAt) / 2 ∧
      edge p (modPart (advNs s site T) q fun p => { p with tick := true, joinTo := none, startFrom := none }) T t)) ∧
  (∀ p, setPending s = false → partOf s q = none → s.mgr.pends.find? (fun p => bit p.cfg.qmask q && p.raise != 1) = some p →
    Goes (.tickStart q) s fun t =>
      let v := applyStream (advNs s (edgeSite (controllerEdge (lowestQuarter p.cfg.qmask))) (applyEdge s p)) p (applyEdge s p)
      (∀ x, partOf v q = some x → x.tick = true → edge x v (applyEdge s p) t) ∧
      (∀ x, (partOf v q).filter (·.tick) = x → x = none → t = v))) ∧
  (∀ (s : State),
  (∀ (c : ClusterId) T period, period ≠ 0 → (s.cl c).replay = none →
    let x := s.cl c
    let r := clusterEdge s c T period
    let w := r.2
    SameMemBut (spadAt (4 * c) 0) (4 * 2 ^ 23) s w ∧ w.fab = s.fab ∧ OnlyCl c s w ∧
    (runsFrame x = true → ∀ u e, x.workEnd = some (u, e) → r.1 = false ∧ (w.cl c).inFrame = false ∧ (w.cl c).seq = x.seq ∧
      w.reg (seqSlackAt c) = x.frameIdx % 2 ^ 32 * 2 ^ 32 + (T - e) % 2 ^ 32 ∧ w.units = s.units ∧
      bits (w.reg (seqFrameUseAt c)) 63 32 = u % 2 ^ 32 ∧ bits (w.reg (seqFrameUseAt c)) 31 16 = min 65535 ((T - e) * 65536 / period) ∧
      bits (w.reg (seqFrameUseAt c)) 1 1 = 0) ∧
    (runsFrame x = true → x.workEnd = none → r.1 = true ∧ Counted (seqOverrunCntAt c) s w ∧ (∀ u, (w.un u).noSets = (s.un u).noSets) ∧
      w.reg (seqSlackAt c) = x.frameIdx % 2 ^ 32 * 2 ^ 32 ∧ bits (w.reg (seqFrameUseAt c)) 1 1 = 1) ∧
    (runsFrame x = false → x.late.isSome = true → x.seq ≠ .waitEdge → r.1 = true ∧ Counted (seqAbandonCntAt c) s w ∧
      (w.cl c).seq = .waitEdge ∧ (w.cl c).late = none ∧ (w.cl c).dq = [] ∧ (w.cl c).eng = [] ∧ (w.cl c).commitQ = [] ∧
      ∀ i < 4, (w.un (4 * c + i)).uq = [] ∧ (w.un (4 * c + i)).issued = [])) ∧
  (∀ (c : ClusterId) i T e, let w := beginFrame s c i T e
    w = { s with regs := w.regs, clusters := w.clusters, units := w.units } ∧ OnlyCl c s w ∧ (∀ u, u / 4 ≠ c.val → w.un u = s.un u) ∧
    (w.cl c).seq = .run ∧ (w.cl c).pc = imageNat e 0xC 4 ∧ (w.cl c).frame = (s.cl c).frame + 1 ∧ (w.cl c).frameIdx = i ∧
    (w.cl c).frameNs = T ∧ (w.cl c).inFrame = true ∧ (w.cl c).workEnd = none ∧ lvsReg w c 1 = BitVec.ofNat 32 i ∧
    lvsReg w c 2 = BitVec.ofNat 32 ((logicalOfClu s c).getD 0) ∧ (∀ r : SReg, r ≠ 1 → r ≠ 2 → lvsReg w c r = lvsReg s c r) ∧
    (∀ k < 4, (w.un (4 * c + k)).ord = 0) ∧ RegsBut [seqFrameUseAt c] s w) ∧
  (∀ (q : QuarterId) p T skip day, partOf s q = some p →
    let w := edgeStep5 s q T skip day
    (framesBegin s p day = true → ∀ (c : ClusterId) e, c.val ∈ maskClusters s p.qmask → c.val ∉ skip → clusterResets s p c = false →
      (s.cl c).replay = none → schedOf s c = some e → e.image ≠ [] →
      (w.cl c).seq = .run ∧ (w.cl c).pc = imageNat e 0xC 4 ∧ (w.cl c).frameIdx = frameIndex p ∧ (w.cl c).frameNs = T ∧
      lvsReg w c 1 = BitVec.ofNat 32 (frameIndex p)) ∧
    (framesBegin s p day = false → (∀ c, (w.cl c).seq = (s.cl c).seq ∧ (w.cl c).frame = (s.cl c).frame) ∧ w.parts = s.parts ∧
      (p.hold = true ∨ p.halted = true → Counted (pmHoldFrameCntAt (partQ p)) s w))))

/-- A COMMIT whose descriptors have completed: HELD when a group of its mask is SUSPECT and the policy is not IGNORE, else its compare-and-swap
is sent to the record's home, with a write tag; a replay run sends none and records its digest (R154, R157, R280, R283, R286, R288). -/
def Obligations.CommitsAreEvaluated : Prop :=
  ∀ (s : State) (c : ClusterId) k, (s.cl c).commitQ.find? (fun k => !k.sent && k.outcome.isNone) = some k →
  let x := s.cl c
  let q := cluQuarter c
  let p := partD s q
  let gm := k.d.f 95 80
  let ready : Prop := ∀ d ∈ k.waits, (find? x.live d).isNone = true
  let susp : Prop := ∃ g ∈ x.grpFlags, bit gm g.1 = true ∧ g.2 ≠ 0
  let gone : List Commit := x.commitQ.filter fun j => j.d.did != k.d.did
  let home := homeStack (k.d.f 75 32)
  (¬ready → Goes (.commitEvaluate c) s fun t => t = s) ∧
  (∀ r, ready → x.replay = some r → Goes (.commitEvaluate c) s fun t =>
    t = { s with regs := t.regs, clusters := t.clusters, units := t.units } ∧ OnlyCl c s t ∧ (t.cl c).commitQ = gone ∧
    (∀ u, (t.un u).noSets = (s.un u).noSets) ∧ t.reg (seqCommitLastAt c) = s.reg (seqCommitLastAt c) ∧
    ((∃ h ∈ p.held, h.serial = r.step ∧ h.id = k.d.id ∧ h.gmask = gm) → (susp → ∃ y, (t.cl c).replay = some y ∧ y.bad = true ∧ y.digest = stepDigest x gm) ∧
      (¬susp → (t.cl c).replay = some { r with digest := stepDigest x gm })) ∧
    ((∀ h ∈ p.held, ¬(h.serial = r.step ∧ h.id = k.d.id ∧ h.gmask = gm)) → (t.cl c).replay = some r)) ∧
  (ready → x.replay = none → susp → p.cfg.policy ≠ 1 → Goes (.commitEvaluate c) s fun t =>
    t = { s with regs := t.regs, clusters := t.clusters, units := t.units, parts := t.parts } ∧ OnlyCl c s t ∧ (t.cl c).commitQ = gone ∧
    (∀ u, (t.un u).noSets = (s.un u).noSets) ∧ Counted (seqCommitHoldCntAt c) s t ∧
    t.reg (seqCommitLastAt c) = k.d.id * 2 ^ 48 + 2 ^ 34 + 2 * 2 ^ 32 + x.frameIdx % 2 ^ 32 ∧
    ((partOf s q).isSome = true → p.cfg.policy = 0 → p.held.length < 64 → replaySpares s p ≠ [] → ∃ y, partOf t q = some y ∧
      y = { p with heldSerial := p.heldSerial + 1, held := p.held ++ [{
        serial := p.heldSerial, id := k.d.id, raddr := k.d.f 75 32, old := BitVec.ofNat 64 (k.d.f 191 128), new := BitVec.ofNat 64 (k.d.f 255 192)
        gmask := gm, digest := stepDigest x gm, lclu := (logicalOfClu s c).getD 0, frame := x.frameIdx, regs := x.s0 }] }) ∧
    (p.cfg.policy = 0 → 64 ≤ p.held.length ∨ replaySpares s p = [] → Counted (pmReplayUnresCntAt (partQ p)) s t ∧
      ∀ y, partOf t q = some y → y.held = p.held) ∧
    (p.cfg.policy ≠ 0 → ∀ y, partOf t q = some y → y = if p.halted then p else { p with haltDue := true })) ∧
  (ready → x.replay = none → ¬susp ∨ p.cfg.policy = 1 →
    (lowestFree (wtagsUsed x) 1024 = none → Goes (.commitEvaluate c) s fun t => t = { s with clusters := t.clusters } ∧ OnlyCl c s t ∧
      (t.cl c).commitQ = x.commitQ ∧ (find? (t.cl c).waits 2).isSome = true) ∧
    (∀ tag, lowestFree (wtagsUsed x) 1024 = some tag →
      (stackGone s home = true → Goes (.commitEvaluate c) s fun t => t = { s with regs := t.regs, clusters := t.clusters } ∧ OnlyCl c s t ∧
        ∀ j ∈ (t.cl c).commitQ, j.d.did = k.d.did → j.outcome = some 1) ∧
      (stackGone s home = false → Goes (.commitEvaluate c) s fun t =>
        t = { s with regs := t.regs, clusters := t.clusters, buckets := t.buckets, routers := t.routers } ∧ OnlyCl c s t ∧
        (∀ j ∈ (t.cl c).commitQ, j.d.did = k.d.did → j.sent = true) ∧
        ∃ m : Packet, m.typ = tAtom ∧ m.cls = cCtrl ∧ m.addr = k.d.f 75 32 ∧ m.dsite = stackSite home ∧ m.dagt = 2 ∧ m.wtag = tag ∧
          m.payload = leBytes 8 (k.d.f 191 128) ++ leBytes 8 (k.d.f 255 192) ∧
          (t.cl c).wtags = x.wtags ++ [{ tag := tag, did := k.d.did, row := 0, sentAt := s.fab, remote := false, pkt := m }] ∧
          ∃ w, w.routers = s.routers ∧ w.buckets = s.buckets ∧ (w.cl c).ctrlOut = x.ctrlOut ∧ t = sendCtrl w c m)))

/-- Flits that arrive on a trained port: one whose CRC fails is discarded with a NAK, acknowledgements free the replay buffer, and DATA and CREDIT
flits are taken in SEQ order alone (R315, R317 to R320, R322, R326, R329). -/
def Obligations.FlitsArrive : Prop :=
  ∀ (s : State) (p : PortId) (f : Flit), linkRuns s p = true →
  let x := s.port p
  let site := xpSite p
  let port := p.val % 4
  let head := flitHead f.bytes
  let v := takeAck (countFec s p f) p f.bytes
  let frame (t : State) : Prop := t = { s with regs := t.regs, routers := t.routers, ports := t.ports, mgr := t.mgr, out := t.out } ∧ OnlyPort p s t ∧
    CountedBy (rtrXpFecCeCntAt site port) f.corrected s t ∧
    CountedBy (rtrXpFecUeCntAt site port) f.uncorrectable s t
  let times := x.nakTimes.filter (fun t => decide (s.fab < t + 2000000)) ++ [s.fab]
  let nak (t : State) : Prop := frame t ∧ Counted (rtrXpNakCntAt site port) s t ∧
    (x.nakRun + 1 < 8 → times.length ≤ 64 → t.port p = { x with naking := true, nakRun := x.nakRun + 1, nakTimes := times } ∧
      t.out = .flit p (mkFlit x (idleType x) 0 true []) :: s.out ∧ t.routers = s.routers) ∧
    (8 ≤ x.nakRun + 1 ∨ 64 < times.length → (t.port p).state = 3 ∧ Counted (rtrXpRetrainCntAt site port) s t ∧ Counted (rtrXpLostCntAt site port) s t)
  let order (cmd : Instr) (taken : State → Prop) : Prop :=
    (bits head 15 4 = x.rxNext → Goes cmd s fun t => frame t ∧ (t.port p).rxNext = (x.rxNext + 1) % 4096 ∧ (t.port p).naking = false ∧
      (t.port p).nakRun = 0 ∧ t.out = .flit p (mkFlit (t.port p) (idleType x) 0 false []) :: v.out ∧ taken t) ∧
    (bits head 15 4 ≠ x.rxNext → x.naking = true → Goes cmd s fun t => frame t ∧ t = v) ∧
    (bits head 15 4 ≠ x.rxNext → x.naking = false → Goes cmd s fun t => frame t ∧ t = sendNak v p)
  (flitOk f.bytes = false → Goes (.flitData p f) s nak ∧ Goes (.flitCredit p f) s nak ∧ Goes (.flitIdle p f) s nak ∧ Goes (.flitLpi p f) s nak ∧
    Goes (.flitHeartbeat p f) s fun t => nak t ∧ Counted (rtrXpHbBadCntAt site port) s t) ∧
  (flitOk f.bytes = true → ∀ cmd, (cmd = .flitIdle p f ∧ head % 16 = 0) ∨ (cmd = .flitLpi p f ∧ head % 16 = 4) → Goes cmd s fun t => frame t ∧ t = v ∧
    (bits head 28 28 = 0 → x.state ≠ 2 ∨ x.grantReq + x.grantRsp = 0 →
      t.port p = { x with replay := ackUpTo x.replay (bits head 27 16) } ∧ t.out = s.out)) ∧
  (flitOk f.bytes = true → head % 16 = 1 →
    let r := splitStream (x.partial_ ++ (f.bytes.drop 4).take 244).length (x.partial_ ++ (f.bytes.drop 4).take 244)
    let taken (b : Bytes) : Bool := crc32c (b.take 12) == bits (leNat (b.take 16)) 127 96 && typeCarried (bits (leNat (b.take 16)) 29 28) (packetOf (b.drop 16)).typ
    order (.flitData p f) fun t => (t.port p).partial_ = r.2 ∧
      CountedBy (rtrXpPfxErrCntAt site port) (r.1.filter fun b => !taken b).length s t ∧
      (t.port p).ingress = x.ingress ++ (r.1.filter taken).map fun b => let w := leNat (b.take 16)
        (bits w 29 28, { packetOf (b.drop 16) with peer := some (bits w 23 14, bits w 27 24, bits w 40 32, bits w 44 41) })) ∧
  (flitOk f.bytes = true → head % 16 = 2 → order (.flitCredit p f) fun t => (t.port p).ingress = x.ingress ∧
    (t.port p).credits = ((List.range 122).foldl (fun y i => takeCredit y (leNat ((f.bytes.drop (4 + 2 * i)).take 2))) x).credits)

/-- Heartbeats are sent just after each whole microsecond and refresh the partner when they arrive (R321, R335, R336).  A port is LOST 4 µs after its last valid heartbeat, and what it held is fenced; it trains for at most 200 µs, and stays DOWN
after the third failure in a row (R316, R318, R320, R322, R323, R330). -/
def Obligations.HeartbeatsTrainingAndLossOfPorts : Prop :=
  (∀ (s : State) (p : PortId), linkRuns s p = true →
  let x := s.port p
  let site := xpSite p
  ((activeMgr s).isSome = true → Goes (.heartbeatSend p) s fun t => ∃ T, nsAt s site < T ∧ T ≤ nsAt s site + 1000 ∧ T % 1000 = 0 ∧
    let v := advNs s site T
    t = { v with ports := t.ports, out := .flit p (mkFlit x 3 0 false (hbBody v p T)) :: s.out } ∧ OnlyPort p s t ∧
    t.port p = { x with hbTx := (x.hbTx ++ [T]).filter fun u => decide (T ≤ u + 4000) }) ∧
  (activeMgr s = none → Goes (.heartbeatSend p) s fun t => t = s) ∧
  (∀ f : Flit, flitOk f.bytes = true → flitHead f.bytes % 16 = 3 →
    let w (o n : Nat) : Nat := leNat ((f.bytes.drop o).take n)
    let now := nsAt s site
    let echoed : Prop := ∃ u ∈ x.hbTx, timeWord u = w 12 8 ∧ now ≤ u + 4000
    let a : Int := (wordNs (w 20 8) : Int) - wordNs (w 12 8)
    let b : Int := (now : Int) - wordNs (w 4 8)
    Goes (.flitHeartbeat p f) s fun t =>
      t = { s with regs := t.regs, fresh := t.fresh, ports := t.ports, mgr := t.mgr, out := t.out } ∧ OnlyPort p s t ∧
      (t.port p).hbRx = some (w 4 8, timeWord now) ∧ (t.port p).hbRxAt = some s.fab ∧ (t.port p).state = x.state ∧
      t.reg (rtrXpPartnerAt site (p.val % 4)) = w 28 4 ∧
      (¬echoed → t.mgr = s.mgr ∧ Counted (rtrXpHbBadCntAt site (p.val % 4)) s t) ∧
      (echoed → (xtimeRole s = 0 ∨ timePort s ≠ p.val → t.mgr = s.mgr) ∧
        (xtimeRole s ≠ 0 → timePort s = p.val → t.mgr.xPort = p.val ∧
          t.mgr.xExch = (s.mgr.xExch ++ [(a - b, a + b)]).drop (s.mgr.xExch.length + 1 - 64))))) ∧
  (∀ (s : State) (p : PortId),
  let x := s.port p
  let site := xpSite p
  let trains : Prop := x.state = 1 ∨ x.state = 3
  (∀ f, linkRuns s p = true → x.hbRxAt = some f → Goes (.portLost p) s fun t => t.fab = max s.fab (f + 8000) ∧
    t = { s with fab := t.fab, regs := t.regs, routers := t.routers, keepers := t.keepers, ports := t.ports, mgr := t.mgr } ∧ OnlyPort p s t ∧
    t.port p = { x with
      state := 3, credits := [], replay := [], egress := [], partial_ := [], trainAt := t.fab, grantReq := 0, grantRsp := 0
      hbRx := none, hbRxAt := none, hbTx := [], naking := false, nakRun := 0, nakTimes := [] } ∧
    Counted (rtrXpLostCntAt site (p.val % 4)) s t) ∧
  (∀ good : BitVec 8, trains → s.fab ≤ x.trainAt + 400000 → lanesTrained x good.toNat = 0 → Goes (.portTrainDone p good) s fun t =>
    t = { s with ports := t.ports } ∧ OnlyPort p s t ∧ t.port p = { x with state := 0, lanes := 0 }) ∧
  (∀ good : BitVec 8, trains → s.fab ≤ x.trainAt + 400000 → lanesTrained x good.toNat ≠ 0 → Goes (.portTrainDone p good) s fun t =>
    t = { s with regs := t.regs, ports := t.ports, mgr := t.mgr, out := t.out } ∧ OnlyPort p s t ∧
    (t.port p).state = trainedState s p ∧ (t.port p).lanes = lanesTrained x good.toNat ∧ (t.port p).rxNext = 0 ∧ (t.port p).failed = 0 ∧
    (t.port p).hbRxAt = some s.fab ∧ (t.port p).credits = [] ∧ (t.port p).partial_ = [] ∧ (t.port p).ingress = x.ingress ∧
    let req := 512 - (x.ingress.countP fun e => e.1 == 0) - (s.edge (p.val / 4)).ingressReq.countP fun e => e.1 == p.val
    let rsp := 256 - x.ingress.countP fun e => e.1 == 1
    (trainedState s p = 2 → 0 < req + rsp → (t.port p).txSeq = 1 ∧ (t.port p).grantReq = 0 ∧ (t.port p).grantRsp = 0 ∧
      (t.port p).replay = [{ ftype := 2, seq := 0, body := (grantEntries 0 req ++ grantEntries 1 rsp).flatMap (leBytes 2), pkts := [] }] ∧
      t.out = .flit p (mkFlit (t.port p) 2 0 false ((grantEntries 0 req ++ grantEntries 1 rsp).flatMap (leBytes 2))) :: s.out) ∧
    (trainedState s p = 4 → (t.port p).replay = [] ∧ (t.port p).grantReq = req ∧ (t.port p).grantRsp = rsp ∧ t.out = s.out) ∧
    (lanesTrained x good.toNat = 4 → Counted (rtrXpHalfCntAt site (p.val % 4)) s t)) ∧
  (∀ good, ¬trains ∨ x.trainAt + 400000 < s.fab → Goes (.portTrainDone p good) s fun t => t = s) ∧
  (trains → Goes (.portTrainFail p) s fun t => t = { s with fab := t.fab, keepers := t.keepers, ports := t.ports, mgr := t.mgr } ∧
    t.fab = max s.fab (x.trainAt + 400000) ∧ OnlyPort p s t ∧ t.port p = { x with
      state := if x.failed ≥ 2 then 0 else 1, failed := x.failed + 1, trainAt := t.fab, lanes := if x.failed ≥ 2 then 0 else x.lanes }))

/-- Packets between panels: the egress queues of an edge die and the flits a port sends (R318, R325, R326, R328, R329), the checks on a request that
arrives and how it is served (R331), and the answers that come back (R325, R330, R332). -/
def Obligations.PacketsBetweenPanels : Prop :=
  ∀ (s : State) (p : PortId),
  let e := p.val / 4
  let site := edgeSite e
  let x := s.port p
  let v := queueOutbound e 4 s
  ((ejected s site 2 isOutbound = none → v = s) ∧
    (∀ k, ejected s site 2 isOutbound = some k → v = queueOutbound e 3 (toEgress (popEject s site 2 k.dagt) e 0 k)) ∧
    ((v.port p).state ≠ 2 ∨ nextEgress (v.port p) = none → Goes (.egressSend p) s fun t => t = v) ∧
    (∀ panel tcls k, (v.port p).state = 2 → nextEgress (v.port p) = some (panel, tcls, k) →
      (2048 < (v.port p).replay.length + flitsOf k → Goes (.egressSend p) s fun t => t = v) ∧
      ((v.port p).replay.length + flitsOf k ≤ 2048 → Goes (.egressSend p) s fun t =>
        let y := v.port p
        let b := transportBytes v p tcls k
        let n := (b.length + 243) / 244
        t = { v with ports := t.ports, out := t.out } ∧ OnlyPort p v t ∧ t.out.length = v.out.length + n ∧
        (t.port p).egress = eraseFirst (fun f => f == (panel, tcls, k)) y.egress ∧
        (t.port p).credits = putAt y.credits (2 * panel + tcls) (findD y.credits (2 * panel + tcls) 0 - 1) ∧
        (t.port p).txSeq = (y.txSeq + n) % 4096 ∧ (t.port p).replay.take y.replay.length = y.replay ∧
        (((t.port p).replay.drop y.replay.length).flatMap (·.body)).take b.length = b ∧
        ∀ g ∈ (t.port p).replay.drop y.replay.length, g.ftype = 1 ∧ g.body.length = 244))) ∧
  (∀ tcls k panel m rs ra, k.peer = some (panel, m, rs, ra) →
    (∀ j, egressPort s e panel tcls = some j → let w := toEgress s e tcls k
      w = { s with ports := w.ports } ∧ OnlyPort (4 * e + j) s w ∧
      w.port (4 * e + j) = { s.port (4 * e + j) with egress := (s.port (4 * e + j)).egress ++ [(panel, tcls, leaving k)] }) ∧
    (egressPort s e panel tcls = none → let w := toEgress s e tcls k
      w = { s with regs := w.regs, routers := w.routers } ∧ Counted (qcXlossFenceCntAt (edgeQuarter e)) s w ∧
      (tcls = 0 → k.typ ≠ tCredit → Sends site 2 { statusAnswer k sFenced with peer := none, ssite := site, sagt := k.dagt } s w))) ∧
  (∀ (d : EdgeId) q,
    let at_ := portOfEdge d
    (ejected s at_.1 at_.2 (fun q => q.typ == tRdData && isAnswer q) = some q → Goes (.rdData (.edge d)) s fun t =>
      t = toEgress (popEject s at_.1 at_.2 q.dagt) d 1 q) ∧
    (ejected s at_.1 at_.2 (fun q => q.typ == tWrAck && isAnswer q) = some q → Goes (.wrAck (.edge d)) s fun t =>
      t = toEgress (popEject s at_.1 at_.2 q.dagt) d 1 q)) ∧
  (∀ i k, x.ingress.find? (fun e => e.1 == 0) = some (i, k) →
    let v := popIngress s p 0
    let q := edgeQuarter e
    (k.bad = true → Goes (.transportReqArrive p) s fun t => t = freeEntry (v.bump (rtrHdrErrCntAt (xpSite p))) p 0) ∧
    (∀ st counter, k.bad = false → checkIncoming v q k = .answer st counter → Goes (.transportReqArrive p) s fun t =>
      t = freeEntry (if k.typ = tCredit then v.bump counter else toEgress (v.bump counter) e 1 (statusAnswer k st)) p 0) ∧
    (∀ dst agt, k.bad = false → checkIncoming v q k = .pass dst agt →
      let m := { k with dsite := dst, dagt := agt, remote := true }
      let goes (w : State) (t : State) : Prop := t = freeEntry (injectEdge w e (p.val % 4) m) p 0
      (k.cls ≠ cSched ∨ k.typ = tCredit → Goes (.transportReqArrive p) s (goes v)) ∧
      (k.cls = cSched → k.typ ≠ tCredit → (s.edge e).ingressReq = [] → mayPass s (bucketOfEdge e) = true →
        Goes (.transportReqArrive p) s (goes (charge v (bucketOfEdge e)))) ∧
      (k.cls = cSched → k.typ ≠ tCredit → (s.edge e).ingressReq ≠ [] ∨ mayPass s (bucketOfEdge e) = false →
        Goes (.transportReqArrive p) s fun t => t = { v with buckets := t.buckets, edges := t.edges } ∧ (t.bucket (bucketOfEdge e)).waitAt.isSome = true ∧
          t.edge e = { s.edge e with ingressReq := (s.edge e).ingressReq ++ [(p.val, m)] })) ∧
    (partOf s q = none → checkIncoming v q k = unassigned q) ∧
    (∀ z, partOf s q = some z →
      bit (s.reg (qcXacceptAt (partQ z) ((k.peer.map (·.1)).getD 0 / 32))) ((k.peer.map (·.1)).getD 0 % 32) = false →
      checkIncoming v q k = .answer sNack (qcXfilterCntAt q))) ∧
  (∀ i k, x.ingress.find? (fun e => e.1 == 1) = some (i, k) →
    let v := popIngress s p 1
    (k.bad = true → Goes (.transportRspArrive p) s fun t => t = freeEntry (v.bump (rtrHdrErrCntAt (xpSite p))) p 1) ∧
    (∀ panel m dst agt, k.bad = false → k.peer = some (panel, m, dst, agt) → Goes (.transportRspArrive p) s fun t =>
      t = freeEntry (injectEdge v e (p.val % 4) { k with dsite := dst, dagt := agt, remote := true, peer := none }) p 1)) ∧
  (∀ tcls, let w := freeEntry s p tcls
    w = { s with ports := w.ports, out := w.out } ∧ OnlyPort p s w ∧
    (x.state ≠ 2 ∨ 2048 ≤ x.replay.length → w.out = s.out ∧ w.port p =
      if tcls = 0 then { x with grantReq := x.grantReq + 1 } else { x with grantRsp := x.grantRsp + 1 }) ∧
    (x.state = 2 → x.replay.length < 2048 → (w.port p).grantReq = 0 ∧ (w.port p).grantRsp = 0 ∧ (w.port p).ingress = x.ingress ∧
      (w.port p).replay.length = x.replay.length + 1))

/-- A remote request times out and its tag is held back (R333, R399); the answers of atomics reach the cluster, the transport or the endpoint that
asked (R154, R331, R346, R348). -/
def Obligations.RemoteTimeoutsAndAtomicAnswers : Prop :=
  ∀ (s : State),
  (∀ (c : ClusterId) (tag : Nat) g, (s.cl c).absorbing = false →
    let x := s.cl c
    let T := max s.fab (g.sentAt + 2000 * xtimeoutUs s (cluQuarter c))
    let held (w : Bool) (t : State) : Prop := t.fab = T ∧ OnlyCl c s t ∧ Counted (seXtimeoutCntAt c) s t ∧
      t = { s with fab := T, regs := t.regs, mem := t.mem, clusters := t.clusters, units := t.units, keepers := t.keepers, mgr := t.mgr } ∧
      (t.cl c).quar = x.quar ++ [{ write := w, tag := tag, until_ := some (T + 4000 * xtimeoutUs s (cluQuarter c)), absorb := false }]
    (x.wtags.find? (fun k => k.tag == tag) = some g → g.remote = true → tag < 0x10000 → Goes (.remoteTimeout c true tag) s fun t => held true t ∧
      t.units = s.units ∧ SameMem s t ∧ (t.cl c).wtags = x.wtags.filter (fun k => k.tag != tag) ∧
      ∀ e, x.eng.find? (fun e => e.d.did == g.did) = some e → (t.cl c).eng = if e.stopped = true then x.eng else
        mapFirst (fun f => f.d.did == g.did) (fun f => { f with done := f.done + 1, error := true }) x.eng) ∧
    (x.rtags.find? (fun k => k.tag == tag && k.remote) = some g → Goes (.remoteTimeout c false tag) s fun t => held false t ∧
      (t.cl c).rtags = x.rtags.filter (fun k => k.tag != tag) ∧
      (∀ e, x.eng.find? (fun e => e.d.did == g.did) = some e →
        (e.stopped = true → (t.cl c).eng = x.eng ∧ SameMem s t ∧ t.units = s.units) ∧
        (e.stopped = false → OnlyUn e.unit s t ∧ Counted (sePoisonCntAt c) s t ∧
          (t.cl c).eng = mapFirst (fun f => f.d.did == g.did) (fun f => { f with done := f.done + 1, error := true }) x.eng))) ∧
    (x.quar.find? (fun t => t.write == true && t.tag == tag) = none → x.quar.find? (fun t => t.write == false && t.tag == tag) = none →
      ∀ w, Goes (.tagQuarantineEnd c w tag) s fun t => t = s) ∧
    (∀ w h f, x.quar.find? (fun t => t.write == w && t.tag == tag) = some h → h.until_ = some f → Goes (.tagQuarantineEnd c w tag) s fun t =>
      t.fab = max s.fab f ∧ OnlyCl c s t ∧ SameMem s t ∧ t = { s with
        fab := t.fab, regs := t.regs, clusters := t.clusters, keepers := t.keepers, mgr := t.mgr } ∧
      (t.cl c).quar = eraseFirst (fun u => u == h) x.quar)) ∧
  (∀ (r : RegionId) (c : ClusterId) k, ejected s (portOfRegion r).1 (portOfRegion r).2 (fun k => k.typ == tAtomRsp) = some k →
    agentClu k.dsite k.dagt = some c.val →
    let x := s.cl c
    let v := popEject s (portOfRegion r).1 (portOfRegion r).2 k.dagt
    (x.absorbing = true → Goes (.atomRsp (.region r)) s fun t => t = v.bump (seAbsorbCntAt c)) ∧
    (x.absorbing = false → 0x20000 ≤ k.wtag → Goes (.atomRsp (.region r)) s fun t => t = swapAnswer v c k) ∧
    (∀ g, x.absorbing = false → k.wtag < 0x20000 → x.wtags.find? (fun t => t.tag == k.wtag) = some g → Goes (.atomRsp (.region r)) s fun t =>
      t = { s with regs := t.regs, clusters := t.clusters, routers := t.routers } ∧ OnlyCl c s t ∧
      (t.cl c).wtags = x.wtags.filter (fun t => t.tag != k.wtag) ∧
      (t.cl c).commitQ = x.commitQ.map fun j => if j.d.did = g.did then { j with
        outcome := some (if k.status = sOk ∧ k.poison = false ∧ leNat (k.payload.take 8) = j.d.f 191 128 then 0 else 1) } else j) ∧
    (x.absorbing = false → k.wtag < 0x20000 → x.wtags.find? (fun t => t.tag == k.wtag) = none → Goes (.atomRsp (.region r)) s fun t => t = v)) ∧
  (∀ (e : EdgeId),
    let sends (q : Nat) (o : Output) (v t : State) : Prop := t = { v with quarters := t.quarters, out := t.out } ∧ OnlyQtr q v t ∧
      t.out = if (v.qtr q).pcieUp then o :: v.out else v.out
    (∀ k, ejected s (edgeSite e) 2 (fun k => k.typ == tAtomRsp) = some k →
      let v := popEject s (edgeSite e) 2 k.dagt
      (k.peer.isSome = true → Goes (.atomRsp (.edge e)) s fun t => t = toEgress v e 1 k) ∧
      (∀ q a, k.peer = none → endpointOf e = some q → (s.qtr q).atoms.find? (fun a => a.1 == k.rtag && a.2.2 != 6) = some a →
        let rest (t : State) : Prop := (t.qtr q).atoms = (s.qtr q).atoms.filter fun a => a.1 != k.rtag
        (a.2.2 < 2 → k.status ≠ sOk → Goes (.atomRsp (.edge e)) s fun t => rest t ∧ sends q (.bar2 q [] 2) v t) ∧
        (a.2.2 < 2 → k.status = sOk → k.poison = false → Goes (.atomRsp (.edge e)) s fun t => rest t ∧ sends q (.bar2 q (k.payload.take 8) 0) v t)) ∧
      (∀ q, k.peer = none → endpointOf e = some q → (s.qtr q).atoms.find? (fun a => a.1 == k.rtag && a.2.2 != 6) = none →
        Goes (.atomRsp (.edge e)) s fun t => t = v)) ∧
    (∀ q a, ejected s (edgeSite e) 2 (fun k => k.typ == tAtomRsp) = none → endpointOf e = some q →
      (s.qtr q).atoms.find? (fun a => a.2.2 == 0) = some a → Goes (.atomRsp (.edge e)) s fun t =>
        t.fab = max s.fab (a.2.1 + 2000 * xtimeoutUs s q) ∧ sends q (.bar2 q [] 2) (advFab s (a.2.1 + 2000 * xtimeoutUs s q)) t ∧
        (t.qtr q).atoms = (s.qtr q).atoms.filter (fun b => b.1 != a.1) ++ [(a.1, t.fab, 6)]))

/-- The host's accesses through BAR2 (R345 to R348; log entry 58) and its DMA engines (R341, R351, R352, R358, R479). -/
def Obligations.HostAccessesAndDma : Prop :=
  ∀ (s : State) (q : QuarterId),
  let tells (o : Output) (v t : State) : Prop := t = { v with out := o :: v.out }
  let lost (t : State) : Prop := t = { s with regs := t.regs } ∧ Counted (qcUnassignedCntAt q) s t ∧ RegsBut [qcUnassignedCntAt q] s t
  let asks (h : Home) (kind : Nat) (m : Packet) (t : State) : Prop := ∀ tag, hostTag s q = some tag →
    t = { s with quarters := t.quarters, routers := t.routers } ∧ OnlyQtr q s t ∧
    t.qtr q = { s.qtr q with atoms := ((s.qtr q).atoms.filter fun a => a.1 != tag) ++ [(tag, s.fab, kind)] } ∧
    Sends (edgeSite (controllerEdge q)) 2 { m with
      typ := tAtom, cls := cCtrl, dsite := stackSite h.stack, dagt := 2, rtag := tag, ssite := edgeSite (controllerEdge q), sagt := 4 } s t
  (∀ (ofs : BitVec 36) (len : Fin 4097), (s.qtr q).pcieUp = true → len.val ≠ 0 → inBar2 s q ofs.toNat len = true →
    let a := apertureAddr s q ofs.toNat
    let n := len.val
    let cmd := Instr.bar2Read q ofs len
    (apertureOwn s q = false ∨ hostTarget s q a true = .none → Goes cmd s fun t => ∃ w, lost w ∧ tells (.bar2 q (zeros n) 1) w t) ∧
    (∀ u o, apertureOwn s q = true → hostTarget s q a true = .spad u o → Goes cmd s fun t =>
      let r := outsideRead s u o n .host
      tells (.bar2 q (r.1.getD (zeros n)) (b2n r.1.isNone)) r.2 t) ∧
    (∀ h, apertureOwn s q = true → hostTarget s q a true = .control h →
      ((n = 4 ∨ n = 8) ∧ a % n = 0 →
        (stackGone s h.stack = true → Goes cmd s (tells (.bar2 q (zeros n) 1) s)) ∧
        (stackGone s h.stack = false → Goes cmd s (asks h (if n = 8 then 2 else if a % 8 = 0 then 3 else 4)
          (withPayload { addr := a / 8 * 8 } (zeros 16))))) ∧
      (¬((n = 4 ∨ n = 8) ∧ a % n = 0) → Goes cmd s fun t => ∃ v, v = { s with regs := v.regs } ∧ Counted (hstBadAccCntAt q) s v ∧
        tells (.bar2 q [] 2) v t)) ∧
    (∀ h, apertureOwn s q = true → hostTarget s q a true = .mem h → a % 1024 + n ≤ 1024 → Goes cmd s fun t =>
      let r := hostReadBlock s q a
      (∀ d, r.1 = some d → tells (.bar2 q ((d.drop (a % 1024)).take n) 0) r.2 t) ∧ (r.1 = none → tells (.bar2 q (zeros n) 1) r.2 t))) ∧
  (∀ (ofs : BitVec 36) (data : Bytes), (s.qtr q).pcieUp = true → data ≠ [] → inBar2 s q ofs.toNat data.length = true →
    let a := apertureAddr s q ofs.toNat
    let n := data.length
    let cmd := Instr.bar2Write q ofs data
    (apertureOwn s q = false ∨ hostTarget s q a true = .none → Goes cmd s lost) ∧
    (∀ u o, apertureOwn s q = true → hostTarget s q a true = .spad u o → Goes cmd s fun t => t = (outsideWrite s u o data false .plain .host).2) ∧
    (∀ h, apertureOwn s q = true → hostTarget s q a true = .control h →
      ((n = 4 ∨ n = 8) ∧ a % n = 0 → (stackGone s h.stack = true → Goes cmd s fun t => t = s) ∧
        (stackGone s h.stack = false → Goes cmd s (asks h 5 (withPayload { sub := 1, addr := a } data)))) ∧
      (¬((n = 4 ∨ n = 8) ∧ a % n = 0) → Goes cmd s fun t => t = { s with regs := t.regs } ∧ Counted (hstBadAccCntAt q) s t)) ∧
    (∀ h, apertureOwn s q = true → hostTarget s q a true = .mem h →
      (a % 1024 = 0 → n = 1024 → Goes cmd s fun t => t = hostWriteBlock s q a data (crc64 data)) ∧
      (n < 1024 → a % 1024 + n ≤ 1024 → Goes cmd s fun t => t = (modifyBlock s q a data).bump (hstRmwCntAt q)))) ∧
  (∀ (ofs : BitVec 36) (old new : BitVec 64), (s.qtr q).pcieUp = true → inBar2 s q ofs.toNat 8 = true →
    let a := apertureAddr s q ofs.toNat
    let panel := bits (s.reg (hstApBaseAt q)) 23 14
    let body := leBytes 8 old.toNat ++ leBytes 8 new.toNat
    let cmd := Instr.bar2Atomic q ofs old new
    let reached : Prop := inControl a = true ∧ a % 8 = 0 ∧ (partOf s q).isSome = true ∧ (s.qtr q).svc ≠ 0
    (∀ h, apertureOwn s q = true → hostTarget s q a true = .control h →
      (a % 8 ≠ 0 → Goes cmd s (tells (.bar2 q [] 3) s)) ∧
      (a % 8 = 0 → stackGone s h.stack = true → Goes cmd s (tells (.bar2 q [] 2) s)) ∧
      (a % 8 = 0 → stackGone s h.stack = false → Goes cmd s (asks h 1 (withPayload { addr := a } body)))) ∧
    (∀ x, apertureOwn s q = true → x = hostTarget s q a true → (∀ h, x ≠ .control h) → x ≠ .none → Goes cmd s (tells (.bar2 q [] 3) s)) ∧
    (apertureOwn s q = true → hostTarget s q a true = .none → Goes cmd s fun t => ∃ w, lost w ∧ tells (.bar2 q [] 3) w t) ∧
    (apertureOwn s q = false → ¬reached → Goes cmd s fun t => ∃ w, lost w ∧ tells (.bar2 q (zeros 8) 1) w t) ∧
    (apertureOwn s q = false → reached → xdest s q panel = 0 → Goes cmd s (tells (.bar2 q [] 2) s)) ∧
    (∀ tag, apertureOwn s q = false → reached → xdest s q panel ≠ 0 → hostTag s q = some tag → Goes cmd s fun t =>
      t = injectEdge (takeHostTag s q tag 0) (controllerEdge q) 4
        (toPanel (takeHostTag s q tag 0) q panel (xdest s q panel) tag (withPayload { typ := tAtom, cls := cCtrl, addr := a, rtag := tag } body)))) ∧
  (∀ c : Fin 8,
    let x := dmaOf s q c
    let engine (y : Dma) (t : State) : Prop := OnlyQtr q s t ∧ dmaOf t q c = y ∧ ∀ k : Fin 8, k ≠ c → dmaOf t q k = dmaOf s q k
    (∀ total : BitVec 16, (s.qtr q).pcieUp = true →
      let open_ := (total.toNat + 0x10000 - s.reg (hstDmaConsAt q c)) % 0x10000
      (dmaSize s q c ≤ open_ → Goes (.dmaDoorbell q c total) s fun t => t = { s with regs := t.regs } ∧ Counted (hstBadAccCntAt q) s t) ∧
      (open_ < dmaSize s q c → Goes (.dmaDoorbell q c total) s fun t => t = { s with quarters := t.quarters } ∧ engine { x with posted := total.toNat } t)) ∧
    (∀ d code, let t := dmaEnd s q c d code
      t = { s with regs := t.regs, quarters := t.quarters } ∧ (code = 3 → Counted (qcUnassignedCntAt q) s t) ∧
      (code ≠ 1 → Counted (hstDmaErrCntAt q) s t) ∧
      engine { x with fetched := (x.fetched + 1) % 0x10000, ended := x.ended ++ [(x.fetched, code, bit d.toNat 4)] } t) ∧
    (∀ (d : BitVec 256), dmaTakes s q c d = true →
      let op := dmaF d 3 0
      let a := dmaF d 171 128
      let len := dmaF d 63 32
      (∀ code, dmaCheck s q d = .error code → let ends (t : State) : Prop := t = dmaEnd s q c d code
        (∀ data, op ≠ 2 → op ≠ 3 → op ≠ 4 → Goes (.h2p q c d data) s ends) ∧ (∀ ok, op = 2 → Goes (.p2h q c d ok) s ends) ∧
        (∀ data, op = 3 → Goes (.h2pDecrypt q c d data) s ends) ∧ (op = 4 → Goes (.dmaZero q c d) s ends)) ∧
      (∀ g, dmaCheck s q d = .ok g → let ends (v : State) (code : Nat) (t : State) : Prop := t = dmaEnd v q c d code
        (∀ data, op = 1 → (∀ bs, data = some bs → bs.length = len → Goes (.h2p q c d data) s (ends (dmaWrite s q g a bs (dmaF d 7 6 == 3)) 1)) ∧
          ((∀ bs, data = some bs → bs.length ≠ len) → Goes (.h2p q c d data) s (ends s 5))) ∧
        (∀ ok, op = 2 → let r := dmaRead s q g a len
          Goes (.p2h q c d ok) s (ends { r.2.2 with out := .hostWrite q (dmaF d 127 64) r.1 r.2.1 :: r.2.2.out } (if !ok then 5 else if r.2.1 then 2 else 1))) ∧
        (op = 4 → Goes (.dmaZero q c d) s (ends (dmaWrite s q g a (zeros len) false) 1)) ∧
        (∀ data, op = 3 → let slot := find? (s.qtr (partQ (partD s q))).keys (dmaF d 11 8)
          (slot = none → Goes (.h2pDecrypt q c d data) s (ends s 6)) ∧
          (∀ key, slot = some key → (∀ bs, data = some bs → bs.length ≠ 32 + len) → Goes (.h2pDecrypt q c d data) s (ends s 5)) ∧
          (∀ key bs, slot = some key → data = some bs → bs.length = 32 + len →
            let r := gcmDecrypt (leBytes 32 key.toNat) (bs.take 12) (leBytes 8 a ++ leBytes 4 len ++ zeros 4) (bs.drop 32)
            (r.2 = (bs.drop 16).take 16 → Goes (.h2pDecrypt q c d data) s (ends (dmaWrite s q g a r.1 false) 1)) ∧
            (r.2 ≠ (bs.drop 16).take 16 → Goes (.h2pDecrypt q c d data) s (ends (dmaWrite s q g a (zeros len) false) 6)))))) ∧
    (∀ i code irq rest, x.ended = (i, code, irq) :: rest → Goes (.dmaComplete q c) s fun t =>
      t = { s with regs := t.regs, quarters := t.quarters, out := t.out } ∧ engine { x with ended := rest } t ∧
      t.reg (hstDmaConsAt q c) = (i + 1) % 0x10000 ∧ RegsBut [hstDmaConsAt q c] s t ∧
      let status := Output.hostWrite q (s.reg (hstDmaBaseAt q c) / 4096 * 4096 + 32 * (i % dmaSize s q c) + 24) (leBytes 8 (code + 256)) false
      t.out = if (s.qtr q).pcieUp then (if irq then [.msix q c] else []) ++ status :: s.out else s.out) ∧
    (∀ who, (who = .host q ∧ (s.qtr q).pcieUp = true) ∨ isOperator s who = true → Goes (.dmaEngineDisable who q c) s fun t =>
      t = { s with regs := t.regs } ∧ RegsBut [hstDmaCtlAt q c] s t ∧ bits (t.reg (hstDmaCtlAt q c)) 31 31 = 0 ∧
      bits (t.reg (hstDmaCtlAt q c)) 30 0 = bits (s.reg (hstDmaCtlAt q c)) 30 0))

/-- Messages to the host wait for its buffers, at most 1 ms (R354, R355), the mailbox takes one request at a time (R349, R350, R362, R431), and an
endpoint's link goes down (R341); the defect map is a long reply (R386). -/
def Obligations.HostMessagesAndMailbox : Prop :=
  ∀ (s : State) (q : QuarterId),
  let x := s.qtr q
  let prod := s.reg (hstMsgProdAt q)
  let drops (m : HostMsg) (rest : List HostMsg) (v t : State) : Prop := t = { v with regs := t.regs, quarters := t.quarters } ∧ OnlyQtr q v t ∧
    Counted (hstMsgDropCntAt q) v t ∧ t.qtr q = { x with msgs := rest, dropped := some (match x.dropped with
      | none => (1, m.seq, m.seq)
      | some (n, first, _) => (n + 1, first, m.seq)) }
  (∀ tail : BitVec 16,
    (x.pcieUp = false → Goes (.msgBufferDoorbell q tail) s fun t => t = s) ∧
    (x.pcieUp = true → (∀ m, x.msgs.head? = some m → m.deadline = none ∨ (∃ f, m.deadline = some f ∧ s.fab ≤ f)) → Goes (.msgBufferDoorbell q tail) s fun t =>
      t = { s with quarters := t.quarters } ∧ OnlyQtr q s t ∧ t.qtr q = { x with msgTail := tail.toNat }) ∧
    (∀ m rest f, x.pcieUp = true → x.msgs = m :: rest → m.deadline = some f → f < s.fab → msgFits s q m = false →
      Goes (.msgBufferDoorbell q tail) s fun t => ∃ v, drops m rest s v ∧ t = v.modQtr q fun y => { y with msgTail := tail.toNat })) ∧
  (∀ m rest, x.msgs = m :: rest →
    (msgFits s q m = true → Goes (.hostMsgPublish q) s fun t =>
      let n := msgBuffers x m
      t = { s with regs := t.regs, quarters := t.quarters, out := t.out } ∧ OnlyQtr q s t ∧ RegsBut [hstMsgProdAt q] s t ∧
      t.reg (hstMsgProdAt q) = (prod + n) % 0x10000 ∧ t.qtr q = { x with msgs := rest, dropped := none } ∧
      t.out = .msix q 8 :: .hostWrite q (s.reg (hstMsgShadowAt q) / 8 * 8) (leBytes 4 ((prod + n) % 0x10000)) false ::
        .message q (ringEntry s q) (droppedBytes x.dropped ++ msgHeader m n ++ m.payload) :: s.out) ∧
    (msgFits s q m = false → m.deadline = none → Goes (.hostMsgPublish q) s fun t => t = { s with quarters := t.quarters } ∧ OnlyQtr q s t ∧
      t.qtr q = { x with msgs := { m with deadline := some (s.fab + 2000000) } :: rest }) ∧
    (∀ f, m.deadline = some f → msgFits s q m = false → Goes (.hostMsgPublish q) s (fun t => t = s) ∧
      Goes (.hostMsgDrop q) s fun t => t.fab = max s.fab f ∧ drops m rest (advFab s f) t) ∧
    (msgFits s q m = true ∨ m.deadline = none → Goes (.hostMsgDrop q) s fun t => t = s)) ∧
  (∀ (tag op : BitVec 16) (len : BitVec 32) payload,
    let cmd := Instr.mailboxDoorbell q tag op len payload
    let area := (putReqArea x 0 (requestHeader tag.toNat op.toNat len.toNat ++ payload)).reqArea
    let r : MbReq := { tag := tag.toNat, op := op.toNat, payload := payload.take len.toNat, oper := isOperator s (.host q) }
    let v := s.modQtr q fun y => { y with reqArea := area }
    let bad : Prop := op.toNat = 0 ∨ 7 < op.toNat ∨ 4032 < len.toNat ∨ payload.length < len.toNat
    (x.pcieUp = false → Goes cmd s fun t => t = s) ∧
    (x.pcieUp = true → bits (s.reg (hstMbStatAt q)) 0 0 = 1 → Goes cmd s fun t => t = v.bump (hstMbBusyCntAt q)) ∧
    (x.pcieUp = true → bits (s.reg (hstMbStatAt q)) 0 0 = 0 →
      (x.svc = 0 ∨ x.pmLost = true → Goes cmd s (Refuses q r 1 v)) ∧
      (x.svc ≠ 0 → x.pmLost = false → bad → Goes cmd s (Replies q r 1 [] v)) ∧
      (x.svc ≠ 0 → x.pmLost = false → ¬bad → Goes cmd s fun t => t = { s with regs := t.regs, quarters := t.quarters } ∧ OnlyQtr q s t ∧
        t.qtr q = { x with reqArea := area, mb := some r } ∧ bits (t.reg (hstMbStatAt q)) 0 0 = 1 ∧ RegsBut [hstMbStatAt q] s t))) ∧
  (∀ r, mbOf s q 6 = some r → (activeMgr s).isSome = true → Goes (.defectMap q) s fun t => t = mbReply s q 0 (dmapBytes s) ∧
    (t.qtr q).mb = none ∧ t.reg (hstMbStatAt q) = 2) ∧
  (Goes (.pcieLinkDown q) s fun t => t = { s with regs := t.regs, quarters := t.quarters } ∧ OnlyQtr q s t ∧ t.qtr q = { x with pcieUp := false } ∧
    t.reg (hstStatAt q) = 0 ∧ RegsBut [hstStatAt q] s t)

/-- Patrol scrub (R190, R201), maintenance requests and the lock that grants them (R410 to R412, R414, R415, R432), recalibration (R209 to R212, R316) and
firmware update (R472; log entries 60 and 132). -/
def Obligations.ScrubMaintenanceAndUpdate : Prop :=
  ∀ (s : State),
  (∀ (n : StackId) e1 e2 c1 c2,
    let q := stackQuarter n
    let v := scrubBlock s n (bits (s.reg (mrScrubStatAt n)) 25 0) e1 e2 c1 c2
    let runs : Prop := bit (s.qtr q).held 0 = true ∧ (s.mr n).state = 2 ∧ s.regField (mrScrubCtlAt n) 7 0 ≠ 0 ∧
      sliceFree (s.mr n) (bits (s.reg (mrScrubStatAt n)) 25 0) 3 = true
    (¬runs → Goes (.scrubRead n e1 e2 c1 c2) s fun t => t = s) ∧
    (runs → Goes (.scrubRead n e1 e2 c1 c2) s fun t => ∃ w, w = scrubNext v n ∧
      (bits (v.reg (mrScrubStatAt n)) 25 0 + 1 < scrubEnd → bits (w.reg (mrScrubStatAt n)) 25 0 = bits (v.reg (mrScrubStatAt n)) 25 0 + 1 ∧
        bits (w.reg (mrScrubStatAt n)) 63 32 = bits (v.reg (mrScrubStatAt n)) 63 32) ∧
      (scrubEnd ≤ bits (v.reg (mrScrubStatAt n)) 25 0 + 1 → bits (w.reg (mrScrubStatAt n)) 25 0 = 0 ∧ (w.mr n).rowErrs = [] ∧
        bits (w.reg (mrScrubStatAt n)) 63 32 = (bits (v.reg (mrScrubStatAt n)) 63 32 + 1) % 2 ^ 32) ∧
      (scrubPassed w q = false → t = w) ∧
      (scrubPassed w q = true → t = { w with quarters := t.quarters } ∧ OnlyQtr q w t ∧
        t.qtr q = { w.qtr q with held := (w.qtr q).held &&& 126, scrubReq := some s.fab }))) ∧
  (∀ (q : QuarterId) f, (activeMgr s).isSome = true → (s.qtr q).scrubReq = some f →
    let x := s.qtr q
    let off : Prop := x.pstate = 3 ∨ (x.pmoving = true ∧ x.pstage = 3) ∨ x.svc = 0 ∨ ∀ n ∈ quarterStacks q, s.regField (mrScrubCtlAt n) 7 0 = 0
    (off → Goes (.scrubLockRetry q) s fun t => t = s) ∧
    (¬off → Goes (.scrubLockRetry q) s fun t => t.fab = max s.fab (f + 2000000) ∧ OnlyQtr q s t ∧ t.qtr q = { x with scrubReq := none } ∧
      t = { s with fab := t.fab, keepers := t.keepers, quarters := t.quarters, mgr := t.mgr } ∧
      t.mgr.locks = s.mgr.locks ++ [{ code := 1, qmask := 2 ^ q.val, arg := 0, reply := none }])) ∧
  (∀ (q : QuarterId) r, mbOf s q 3 = some r → (activeMgr s).isSome = true →
    let x := readMaint s q r
    let asks (act m : Nat) (t : State) : Prop := t = { s with mgr := t.mgr } ∧
      t.mgr = { s.mgr with locks := s.mgr.locks ++ [{ code := act, qmask := m, arg := x.arg, reply := some q.val }] }
    (x.act ≠ 5 →
      (noService s q = true → Goes (.maintRequestRetest q) s (Refuses q r 1 s)) ∧
      (noService s q = false →
        let good : Prop := x.act = 2 ∧ x.stray = false ∧ x.arg < 256 ∧ retestable s x.arg = true ∧
          2 ^ dieQuarter x.arg &&& x.mask = 2 ^ dieQuarter x.arg
        (¬good → Goes (.maintRequestRetest q) s (Refuses q r 7 s)) ∧ (good → Goes (.maintRequestRetest q) s (asks 2 (2 ^ dieQuarter x.arg))))) ∧
    (x.act = 5 →
      (noService s q = true → Goes (.maintRequestRecal q) s (Refuses q r 1 s)) ∧
      (noService s q = false →
        let good : Prop := x.stray = false ∧ recalMask x.arg ≠ 0 ∧ recalMask x.arg &&& x.mask = recalMask x.arg
        (¬good → Goes (.maintRequestRecal q) s (Refuses q r 7 s)) ∧ (good → Goes (.maintRequestRecal q) s (asks 5 (recalMask x.arg)))))) ∧
  ((activeMgr s).isSome = true →
    let v := releaseIdleScrub s
    (lockOrder v.mgr.locks = [] → Goes .maintLockEvaluate s fun t => t = v) ∧
    (lockOrder v.mgr.locks ≠ [] → Goes .maintLockEvaluate s fun t => ∃ T, T % 100 = 0 ∧ mgrNs v ≤ T ∧ T < mgrNs v + 100 ∧
      t = (lockOrder v.mgr.locks).foldl decideLock ((advMgr v T).modMgr fun m => { m with locks := [] }))) ∧
  (∀ r : LockReq,
    (blockersIn s r = 0 ↔ ∀ q ∈ maskQuarters r.qmask, ∀ i < 7, bit (s.qtr q).held i = true → i + 1 ∈ compatibleWith r.code) ∧
    (blockersIn s r = 0 → ∃ w, decideLock s r = beginActivity w r ∧ w = { s with regs := w.regs, quarters := w.quarters } ∧
      Counted pmMaintGrantCntAt s w ∧ RegsBut [pmMaintGrantCntAt] s w ∧ ∀ q : QuarterId, w.qtr q = if bit r.qmask q then
        { s.qtr q with held := (s.qtr q).held ||| 2 ^ (r.code - 1) } else s.qtr q) ∧
    (blockersIn s r ≠ 0 → Counted pmMaintConflictCntAt s (decideLock s r) ∧
      (decideLock s r).reg pmMaintLastAt = timeWord (mgrNs s) ∧ (decideLock s r).reg pmMaintLastIdAt = 2 ^ 16 + r.qmask % 16 * 2 ^ 12 + blockersIn s r ∧
      (r.code = 6 → (decideLock s r).reg secFwStatAt = 6) ∧
      (∀ q : QuarterId, ∀ m, r.code = 2 ∨ r.code = 3 ∨ r.code = 5 ∨ r.code = 7 → r.reply = some q.val → (s.qtr q).mb = some m →
        Replies q m 3 [] (recordConflict s r) (decideLock s r)))) ∧
  (∀ (l : LinkId) lo hi m, s.mgr.maint.find? (fun m => m.code == 5 && m.arg == l.val) = some m → (activeMgr s).isSome = true →
    Goes (.laneRecalDone (.link l) lo hi) s fun t => (t.link l).state = linkReturn s l (max lo hi) ∧ (t.link l).failedLo = lo ∧
      (t.link l).failedHi = hi ∧ (∀ k, k ≠ l.val → t.link k = s.link k) ∧ t.mgr.maint = s.mgr.maint.filter (fun y => y != m) ∧
      t = { s with regs := t.regs, routers := t.routers, links := t.links, parts := t.parts, quarters := t.quarters, mgr := t.mgr } ∧
      ∀ q : QuarterId, (t.qtr q).held = if bit m.qmask q then (s.qtr q).held &&& 111 else (s.qtr q).held) ∧
  (∀ (p : PortId) lo hi m, s.mgr.maint.find? (fun m => m.code == 5 && m.arg == 0x1000 + p.val) = some m → (activeMgr s).isSome = true →
    (portTrains (s.port p) = true → Goes (.laneRecalDone (.port p) lo hi) s fun t => t = s) ∧
    (portTrains (s.port p) = false → Goes (.laneRecalDone (.port p) lo hi) s fun t =>
      t = { s with regs := t.regs, quarters := t.quarters, mgr := t.mgr } ∧ t.mgr = { s.mgr with maint := s.mgr.maint.filter fun y => y != m } ∧
      ∀ q : QuarterId, t.qtr q = if bit m.qmask q then { s.qtr q with held := (s.qtr q).held &&& 111 } else s.qtr q)) ∧
  (∀ who image ok, operMgr s who = true →
    let st := s.regField secFwStatAt 3 0
    let ends (stat : Nat) (t : State) : Prop := t.reg secFwStatAt = stat ∧ RegsBut [secFwStatAt] s t ∧ t.sec = { s.sec with fetched := none } ∧
      t = { s with regs := t.regs, quarters := t.quarters, sec := t.sec, instA := t.instA, instB := t.instB } ∧
      ∀ q : QuarterId, t.qtr q = { s.qtr q with held := (s.qtr q).held &&& 95 }
    let goesOn (stat : Nat) (f : Option Image) (t : State) : Prop := t = { s with regs := t.regs, sec := { s.sec with fetched := f } } ∧
      t.reg secFwStatAt = stat ∧ RegsBut [secFwStatAt] s t
    let cmd := Instr.fwUpdate who image ok
    (st = 0 ∨ 3 < st → (∃ r ∈ s.mgr.locks, r.code = 6) → Goes cmd s fun t => t = s) ∧
    (st = 0 ∨ 3 < st → (∀ r ∈ s.mgr.locks, r.code ≠ 6) → Goes cmd s fun t => t = { s with mgr := { s.mgr with
      locks := s.mgr.locks ++ [{ code := 6, qmask := 15, arg := 0, reply := none }] } }) ∧
    (st = 1 → (image = none → Goes cmd s fun t => ends (6 * 256 + 5) t ∧ t.instA = s.instA ∧ t.instB = s.instB) ∧
      ∀ x, image = some x → Goes cmd s (goesOn 2 (some x))) ∧
    (∀ x, st = 2 → s.sec.fetched = some x → (∀ c, imageCause s x = some c → Goes cmd s fun t => ends (c * 256 + 5) t ∧ t.instA = s.instA ∧ t.instB = s.instB) ∧
      (imageCause s x = none → Goes cmd s (goesOn 3 (some x)))) ∧
    (∀ x, st = 3 → s.sec.fetched = some x →
      (ok = true → Goes cmd s fun t => ends 4 t ∧ t.instA = writeBank x s.instA ∧ t.instB = writeBank x s.instB) ∧
      (ok = false → Goes cmd s fun t => ends (7 * 256 + 5) t ∧ t.instA = s.instA ∧ t.instB = s.instB)))

/-- The panel managers: heartbeats and their loss, the journal, takeover by the standby, and a quarter that has lost both (R427 to R431, R490). -/
def Obligations.ManagersAndFailover : Prop :=
  ∀ (s : State),
  (∀ m : MgrId,
    let x := s.inst m
    (instUp s m = false → Goes (.pmHeartbeatSend m) s (fun t => t = s) ∧ Goes (.pmHbMiss m) s fun t => t = s) ∧
    (instUp s m = true → Goes (.pmHeartbeatSend m) s fun t => t.fab = max s.fab (x.hbSent + 200000) ∧
      t.inst m = { x with hbSent := t.fab } ∧ t.inst (!m) = s.inst (!m) ∧
      t = { s with fab := t.fab, routers := t.routers, keepers := t.keepers, mgr := t.mgr, instA := t.instA, instB := t.instB } ∧
      Sends (edgeSite (managerEdge m)) 2 { withPayload { mgmtTo (edgeSite (managerEdge (!m))) 5 0xB with cls := cCtrl, addr := x.epoch % 65536 }
        ((pmCounts s).flatMap fun c => leBytes 8 c.2) with ssite := edgeSite (managerEdge m), sagt := 5 } s t) ∧
    (instUp s m = true → Goes (.pmHbMiss m) s fun t => t.fab = max s.fab (x.hbHeard + 200000 * (x.missed + 1)) ∧
      t.inst m = { x with missed := x.missed + 1 } ∧ t.inst (!m) = s.inst (!m) ∧ Counted pmHbMissCntAt s t ∧ RegsBut [pmHbMissCntAt] s t ∧
      t = { s with fab := t.fab, regs := t.regs, keepers := t.keepers, mgr := t.mgr, instA := t.instA, instB := t.instB }) ∧
    (∀ p, ejected s (portOfEdge (managerEdge m)).1 (portOfEdge (managerEdge m)).2 (fun p => p.typ == tMgmt && p.sub == 0xB && p.dagt == 5) = some p →
      let v := popEject s (portOfEdge (managerEdge m)).1 (portOfEdge (managerEdge m)).2 p.dagt
      let only (t : State) : Prop := t = { v with mgr := t.mgr, instA := t.instA, instB := t.instB } ∧ t.inst (!m) = s.inst (!m)
      (instUp s m = false → Goes (.pmHb m) s fun t => t = v) ∧
      (instUp s m = true → x.epoch < p.addr % 65536 → Goes (.pmHb m) s fun t => only t ∧ t.inst m = { x with down := true } ∧
        t.mgr = { s.mgr with active := if s.mgr.active = some m then none else s.mgr.active }) ∧
      (instUp s m = true → p.addr % 65536 ≤ x.epoch → Goes (.pmHb m) s fun t => only t ∧ t.inst m = { x with hbHeard := s.fab, missed := 0 } ∧
        (s.mgr.active ≠ some (!m) → t.mgr = s.mgr) ∧
        (s.mgr.active = some (!m) → t.mgr = { s.mgr with solo := false, acked := t.mgr.acked } ∧
          ∀ i a, pmCounters[i]? = some a → t.mgr.acked[i]? = some (a, leNat ((p.payload.drop (8 * i)).take 8)))))) ∧
  ((activeMgr s).isSome = true → s.mgr.solo = false → Goes .journalAckTimeout s fun t => t.fab = s.fab + 100000 ∧ t.mgr.solo = true ∧
    t = { s with fab := t.fab, keepers := t.keepers, mgr := t.mgr }) ∧
  ((activeMgr s).isSome = true → s.mgr.solo = true → Goes .journalAckTimeout s fun t => t = s) ∧
  (∀ a, activeMgr s = some a →
    let epoch := max (s.inst a).epoch (s.inst (!a)).epoch + 1
    (instUp s (!a) = false ∨ (s.inst (!a)).missed < 4 → Goes .pmTakeover s fun t => t = s) ∧
    (instUp s (!a) = true → 4 ≤ (s.inst (!a)).missed → Goes .pmTakeover s fun t => ∃ w,
      w = (takeOver (advFab s ((s.inst (!a)).hbHeard + 800000)) a (!a) epoch).bump pmTakeoverCntAt ∧
      w.mgr.active = some (!a) ∧ w.mgr.solo = true ∧ (w.inst a).down = true ∧ (w.inst (!a)).epoch = epoch ∧
      w.mgr.adj = (w.keeper (edgeSite (managerEdge (!a)))).adj ∧
      t = stateEvent (resumeOpen w) 15 4 epoch ∧ t.mgr.active = some (!a) ∧ (t.inst (!a)).epoch = epoch ∧
      (∀ q : QuarterId, (t.qtr q).mb = none ∧ (1 ≤ ssState w q → ssState w q ≤ 3 → ssState t q = 8)))) ∧
  (∀ (q : QuarterId) f, (s.keeper (edgeSite (controllerEdge q))).beaconAt = some f →
    ((s.qtr q).pmLost = true → Goes (.qcPmLost q) s fun t => t = s) ∧
    ((s.qtr q).pmLost = false → Goes (.qcPmLost q) s fun t => t.fab = max s.fab (f + 4000000) ∧ OnlyQtr q s t ∧ (t.qtr q).pmLost = true ∧
      (t.qtr q).mb = none ∧ t.mgr.lost = true ∧ t.reg (qcPmStatAt q) = 1 ∧ Counted (qcPmLostCntAt q) s t ∧ t.out.head? = some (.msix q 10) ∧
      (s.mgr.lost = true → t.mgr.openOps = s.mgr.openOps) ∧
      (∀ r, (s.qtr q).mb = some r → (s.qtr q).pcieUp = true → .reply q r.tag 2 (replyHeader r.tag 4 2 0 0 ++ leBytes 4 1) ∈ t.out) ∧
      t = { s with fab := t.fab, regs := t.regs, keepers := t.keepers, quarters := t.quarters, mgr := t.mgr, out := t.out }))

/-- Temperatures, trips and the coolant (R204, R445 to R448), energy latches (R444), telemetry (R443, R456), the fast droop alert (R441, R442), and domain
faults (R439, R506; log entries 63 and 64). -/
def Obligations.SensorsAlertsAndSupply : Prop :=
  ∀ (s : State),
  let noted (a c : Nat) (t : State) : Prop := bits (t.reg a) 7 0 = c ∧ bits (t.reg a) 23 16 = max (bits (s.reg a) 23 16) c
  let down (dom cause status : Nat) (t : State) : Prop := t.power.fault = true ∧ t.power.enabled = 64 ∧ t.power.good = 64 ∧ t.parts = [] ∧
    (∀ k, t.cl k = {}) ∧ t.reg pwrFaultAt = 2 ^ 63 + dom * 2 ^ 48 + cause * 2 ^ 44 + s.mgr.step % 16 * 2 ^ 40 + status
  (∀ (n : StackId) (c : Fin 256), bit s.power.good 1 = true → Goes (.mrTempSample n c) s fun t =>
    t = { s with regs := t.regs, mrs := t.mrs } ∧ OnlyMr n s t ∧ RegsBut [mrTempAt n, mrThmTripCntAt n] s t ∧ noted (mrTempAt n) c t ∧
    bits (t.reg (mrTempAt n)) 24 24 = (if 85 < c.val then 1 else 0) ∧
    t.mr n = { s.mr n with tripped := decide (100 ≤ c.val) || (decide (90 ≤ c.val) && (s.mr n).tripped) } ∧
    (100 ≤ c.val → (s.mr n).tripped = false → Counted (mrThmTripCntAt n) s t)) ∧
  (∀ (d : DieId) (c : Fin 256), bit s.power.good 0 = true → Goes (.dieTempSample d c) s fun t =>
    t = { s with regs := t.regs, regions := t.regions, dies := t.dies } ∧ RegsBut [thmDieTempAt d, thmTripCntAt d] s t ∧ noted (thmDieTempAt d) c t ∧
    (∀ k, k ≠ d.val → t.die k = s.die k) ∧ (∀ r, r / 2 ≠ d.val → t.rgn r = s.rgn r) ∧
    let ticks := (partOf s (dieQuarter d)).filter (·.tick)
    (110 ≤ c.val → t.die d = { s.die d with tripped := true } ∧ ((s.die d).tripped = false → Counted (thmTripCntAt d) s t ∧
      ∀ i < 2, (t.rgn (2 * d + i)).mhz = rgnTarget t (2 * d + i))) ∧
    (100 ≤ c.val → c.val < 110 → t.die d = s.die d ∧ t.regions = s.regions) ∧
    (c.val < 100 → t.die d = { s.die d with tripped := (s.die d).tripped && ticks.isSome } ∧
      ((s.die d).tripped = true → ticks = none → ∀ i < 2, (t.rgn (2 * d + i)).mhz = rgnTarget t (2 * d + i)))) ∧
  (∀ (e : EdgeId) (c : Fin 256), (activeMgr s).isSome = true →
    let v := s.modEdge e fun x => { x with celsius := c.val }
    (c.val < 110 ∨ (s.edge e).state = 2 → Goes (.edgeTempSample e c) s fun t => t = v) ∧
    (110 ≤ c.val → (s.edge e).state ≠ 2 → Goes (.edgeTempSample e c) s fun t => t = withdrawEdge v e ∧ (t.edge e).state = 2 ∧
      (t.rtr (edgeSite e)).running = false ∧ (∀ k < 4, (t.port (4 * e + k)).state ≠ 2) ∧ t.reg pmDmapGenAt = s.reg pmDmapGenAt + 1 ∧
      ∀ b, managerEdge b = e → (t.inst b).down = true ∧ t.mgr.active ≠ some b)) ∧
  (∀ (d : DieId) e, bit s.power.good 0 = true → Goes (.dieEnergyLatch d e) s fun t => t = { s with regs := t.regs, dies := t.dies } ∧
    RegsBut [pwrDieEstAt d, pwrDieFrameAt d] s t ∧ t.reg (pwrDieEstAt d) = (s.reg (pwrDieEstAt d) + e) % 2 ^ 64 ∧
    t.die d = { s.die d with microJ := (s.die d).microJ + e } ∧ (∀ k, k ≠ d.val → t.die k = s.die k) ∧ bits (t.reg (pwrDieFrameAt d)) 31 0 = e % 2 ^ 32 ∧
    ∀ p, (partOf s (dieQuarter d)).filter (·.tick) = some p → bits (t.reg (pwrDieFrameAt d)) 63 32 = (frameIndex p - 1) % 2 ^ 32) ∧
  ((activeMgr s).isSome = true →
    (∀ inlet outlet, Goes (.coolantRead inlet outlet) s fun t => t = { s with regs := t.regs, power := t.power } ∧
      RegsBut [thmCoolantAt, thmStatAt] s t ∧
      (∀ v, outlet = some v → bits (t.reg thmCoolantAt) 7 0 = min (v.toInt / 128).toNat 255 ∧ t.power.outletRead = some v.toInt) ∧
      (outlet = none → bits (t.reg thmCoolantAt) 7 0 = bits (s.reg thmCoolantAt) 7 0 ∧ t.power.outletRead = s.power.outletRead) ∧
      (∀ v, inlet = some v → bits (t.reg thmCoolantAt) 15 8 = min (v.toInt / 128).toNat 255 ∧ t.power.inletRead = some v.toInt ∧
        t.power.inletAt = s.fab ∧ bits (t.reg thmStatAt) 7 7 = 0 ∧
        (bits (t.reg thmStatAt) 6 6 = if v.toInt < 20 * 128 ∨ 45 * 128 < v.toInt then 1 else 0)) ∧
      (inlet = none → t.power.inletRead = s.power.inletRead ∧ t.power.inletAt = s.power.inletAt ∧ bits (t.reg thmStatAt) 7 7 = bits (s.reg thmStatAt) 7 7) ∧
      (bits (t.reg thmStatAt) 5 5 = 1 ↔ ∃ i o, t.power.inletRead = some i ∧ t.power.outletRead = some o ∧ o + 2 * 128 < i) ∧
      (bits (t.reg thmStatAt) 7 7 = 1 → t.power.inlet = 45 * 128) ∧
      (∀ i, bits (t.reg thmStatAt) 7 7 = 0 → t.power.inletRead = some i → t.power.inlet = i ∧
        ∀ o, t.power.outletRead = some o → o + 2 * 128 < i → t.power.inlet = max i o)) ∧
    (bits (s.reg thmStatAt) 7 7 = 0 → Goes .inletLost s fun t => t.fab = max s.fab (s.power.inletAt + 200000000) ∧
      t = { s with fab := t.fab, regs := t.regs, keepers := t.keepers, mgr := t.mgr, power := { s.power with inlet := 45 * 128 } } ∧
      bits (t.reg thmStatAt) 7 7 = 1 ∧ Counted thmInletLostCntAt s t ∧ RegsBut [thmStatAt, thmInletLostCntAt] s t) ∧
    (Goes .thermalFit s fun t => t = { s with mgr := { s.mgr with fitN := s.mgr.fitN + 1 } }) ∧
    (∀ rs, 3 < s.mgr.step → Goes (.telemetryRead rs) s fun t => ∃ T, T % 1000000 = 0 ∧ mgrNs s < T + 1000000 ∧ T ≤ mgrNs s + 1000000 ∧
      (s.mgr.telNs < mgrNs s / 1000000 * 1000000 → T ≤ mgrNs s) ∧ t.mgr.telNs = T ∧ t.fab = (advMgr s T).fab ∧ SameMem s t ∧
      t = { s with fab := t.fab, regs := t.regs, keepers := t.keepers, dies := t.dies, mrs := t.mrs, edges := t.edges, mgr := t.mgr, power := t.power } ∧
      (∀ dev < 22, (∀ r mv ma, rs.find? (fun r => r.dev == dev) = some r → r.answer = some (mv, ma) →
          lastReading t dev = (mv, ma, r.phases, 0)) ∧
        ((∀ r, rs.find? (fun r => r.dev == dev) = some r → r.answer = none) →
          lastReading t dev = ((lastReading s dev).1, (lastReading s dev).2.1, (lastReading s dev).2.2.1, (lastReading s dev).2.2.2 + 1))) ∧
      (∀ d < 7, t.reg (pwrDomAt d) = domWord t d) ∧ t.reg pwrPhasesAt = phasesWord t ∧ t.power.coreMw = domainMw t 0 ∧
      t.power.otherMw = panelMw t - domainMw t 0 ∧ (∀ d : DieId, (t.die d).microJ = 0) ∧ ∀ n : StackId, (t.mr n).requests = 0)) ∧
  (∀ g : Fin 16,
    let alert (t : State) : Prop := t = { s with regs := t.regs, regions := t.regions, power := t.power }
    (bit s.power.fda g = true → Goes (.fdaAssert g) s fun t => t = s) ∧
    (bit s.power.fda g = false → s.power.fda ≠ 0 → Goes (.fdaAssert g) s fun t => t = { s with power := { s.power with fda := s.power.fda ||| 2 ^ g.val } }) ∧
    (s.power.fda = 0 → Goes (.fdaAssert g) s fun t => alert t ∧ Counted pwrFdaCntAt s t ∧ RegsBut [pwrFdaCntAt] s t ∧
      t.power = { s.power with fda := 2 ^ g.val, fdaAt := some s.fab, fdaLong := false } ∧
      ∀ r < 512, (t.rgn r).mhz = rgnTarget t r ∧ (t.rgn r).later = none) ∧
    (bit s.power.fda g = false → Goes (.fdaDeassert g) s fun t => t = s) ∧
    (bit s.power.fda g = true → s.power.fda ≠ 2 ^ g.val → Goes (.fdaDeassert g) s fun t =>
      t = { s with power := { s.power with fda := s.power.fda ^^^ 2 ^ g.val } }) ∧
    (∀ f, s.power.fda = 2 ^ g.val → s.power.fdaAt = some f → Goes (.fdaDeassert g) s fun t => alert t ∧
      CountedBy pwrFdaTimeCntAt (s.fab / 80 - f / 80) s t ∧ RegsBut [pwrFdaTimeCntAt] s t ∧
      t.power = { s.power with fda := 0, fdaAt := none, fdaOff := some s.fab, fdaLong := false } ∧
      ∀ r < 512, (t.rgn r).mhz = (s.rgn r).mhz ∧ (t.rgn r).later = some (s.fab + 200, rgnTarget t r))) ∧
  (∀ f, s.power.fdaAt = some f → s.power.fdaLong = false → Goes .fdaLong s fun t => t.fab = max s.fab (f + 2000001) ∧ t.power = { s.power with fdaLong := true } ∧
    Counted pwrFdaLongCntAt s t ∧ t = { s with fab := t.fab, regs := t.regs, keepers := t.keepers, mgr := t.mgr, power := t.power }) ∧
  ((activeMgr s).isSome = true → s.power.fault = false →
    (∀ (dom : DomainId) (cause : Fin 16) (status : BitVec 16), dom.val ≠ 6 → 3 < s.mgr.step → Goes (.domainFault dom cause status) s fun t => t.fab = s.fab ∧
      down dom cause status.toNat t) ∧
    Goes .ref25Loss s fun t => t.fab = s.fab + 2000 ∧ down 15 3 0 t)

/-- The governor chooses an operating point after each telemetry read (R450 to R455), slack reports and FLOP counts are gathered (R158, R457), and the
ledger closes a second (R458, R459). -/
def Obligations.GovernorAndLedger : Prop :=
  ∀ (s : State),
  (governs s = false ∨ eqxWaits s = true ∨ s.mgr.telNs ≤ s.mgr.govNs → Goes .governorEvaluate s fun t => t = s) ∧
  (governs s = true → eqxWaits s = false → s.mgr.govNs < s.mgr.telNs → Goes .governorEvaluate s fun t =>
    t = { s with regs := t.regs, parts := t.parts, mgr := t.mgr } ∧ t.mgr.govNs = s.mgr.telNs ∧
    t.parts = s.parts.map (fun p => { p with slackUnder := false, overran := false }) ∧
    ∃ v P, v = noteHottest (noteThermalCap (s.modMgr fun m => { m with govNs := m.telNs })) ∧
      let low := pminNow v
      let high := pHigh v low
      let therm := pTherm v
      P = max (chooseTarget v low high therm).1 (lowestPoint v) ∧ low ≤ P ∧ lowestPoint v ≤ P ∧
      (therm < low → govMode v ≠ 1 → s.power.fdaLong = false → stale v = false → P = max low (lowestPoint v)) ∧
      (govMode v = 0 → low ≤ min high therm → s.power.fdaLong = false → stale v = false → P = max (min high therm) (lowestPoint v)) ∧
      (low < 16 → bits (t.reg pwrStatAt) 63 48 = capNow v ∧ bits (t.reg pwrStatAt) 1 0 = govMode v ∧ bits (t.reg pwrStatAt) 15 12 = low ∧
        bits (t.reg pwrStatAt) 4 4 = b2n (!predAtMost v low (capNow v))) ∧
      (predAtMost v low (capNow v) = false → Counted pwrOvercapCntAt s t) ∧
      (P = s.mgr.cur → t.mgr.locks = s.mgr.locks) ∧
      (P ≠ s.mgr.cur → ∃ k, (k = 16 ∨ (k = 32 ∧ P < s.mgr.cur)) ∧
        t.mgr.locks = s.mgr.locks ++ [{ code := 4, qmask := 15, arg := P + k, reply := none }])) ∧
  (∀ b p, activeMgr s = some b →
    ejected s (portOfEdge (managerEdge b)).1 (portOfEdge (managerEdge b)).2 (fun p => p.typ == tMgmt && p.sub == 3 && p.dagt == 5) = some p →
    let v := popEject s (portOfEdge (managerEdge b)).1 (portOfEdge (managerEdge b)).2 p.dagt
    let frac := leNat (p.payload.take 2)
    let ovr := p.payload.getD 2 0 != 0
    let frame := leNat ((p.payload.drop 3).take 6)
    let q := fieldQuarter (leNat ((p.payload.drop 9).take 2) / 60)
    Goes .slack s fun t => t = { v with parts := t.parts } ∧
      (partOf s q = none → t.parts = s.parts) ∧ ∀ y, partOf s q = some y → partOf t q = some { y with
        slackN := if y.slackN = 0 ∨ y.slackLast < frame then y.slackN + 1 else y.slackN, slackLast := max y.slackLast frame
        slackLow := min y.slackLow frac, slackUnder := y.slackUnder || decide (frac < y.cfg.slackMin), overran := y.overran || ovr }) ∧
  ((activeMgr s).isSome = true → Goes .opsGather s fun t => t = { s with regs := t.regs, units := t.units, parts := t.parts } ∧
    (∀ u, t.un u = { s.un u with flop := [] }) ∧ (s.parts = [] → t.regs = s.regs) ∧
    ∀ p, s.parts = [p] → ∀ g < 8, let n := flopOf s p.qmask g + findD p.flopRest g 0
      t.reg (opsAt (partQ p) g) = (s.reg (opsAt (partQ p) g) + n / 2 ^ 30) % 2 ^ 64 ∧
      (p.qmask ≠ 0 → p.qmask < 16 → ∀ y, t.parts = [y] → findD y.flopRest g 0 = n % 2 ^ 30)) ∧
  ((activeMgr s).isSome = true → Goes .ledgerSecond s fun t => ∃ T, T % 1000000000 = 0 ∧ mgrNs s < T ∧ T ≤ mgrNs s + 1000000000 ∧
    t.fab = (advMgr s T).fab ∧ t = s.parts.foldl ledgerPart (advMgr s T) ∧ SameMem s t) ∧
  (∀ p, partOf s (partQ p) = some p →
    let q := partQ p
    let t := ledgerPart s p
    let tokens := (s.reg (pwrTokensAt q) + 2 ^ 64 - p.secTokens) % 2 ^ 64
    let energy := (s.reg (pwrEnergyAt q) + 2 ^ 64 - p.secEnergy) % 2 ^ 64
    t = { s with regs := t.regs, parts := t.parts } ∧ RegsBut [pwrTpmwhAt q, pwrJpfAt q] s t ∧
    t.reg (pwrTpmwhAt q) = (if energy = 0 then 0 else tokens * 3600000000000000 / energy % 2 ^ 64) ∧
    t.reg (pwrJpfAt q) = (if p.secFrames = 0 then 0 else min (energy / p.secFrames) 0xFFFFFFFF) ∧
    partOf t q = some { p with secTokens := s.reg (pwrTokensAt q), secEnergy := s.reg (pwrEnergyAt q), secFrames := 0 })

/-- Power states: requests and their refusals (R403, R408), entry to Dusk and Dark (R405, R406, R322), and the return to Day (R405). -/
def Obligations.PowerStatesOfQuarters : Prop :=
  ∀ (s : State) (q : QuarterId),
  (∀ cmd target r, (cmd, target) ∈ [(Instr.pstateDay q, 0), (.pstateDim q, 1), (.pstateDusk q, 2), (.pstateDark q, 3)] → mbOf s q 2 = some r →
    (activeMgr s).isSome = true →
    let want := natAt r.payload 0 1
    let bad : Prop := 3 < want ∨ natAt r.payload 2 6 ≠ 0 ∨ r.payload.length ≠ 8 ∨ (r.oper = false ∧ natAt r.payload 1 1 ≠ 0)
    (want ≠ target → (target ≠ 0 ∨ want ≤ 3) → Goes cmd s fun t => t = s) ∧
    (want = target ∨ (target = 0 ∧ 3 < want) →
      (noService s q = true → Goes cmd s (Refuses q r 1 s)) ∧
      (noService s q = false → bad → Goes cmd s (Refuses q r 7 s)) ∧
      (noService s q = false → ¬bad → powerMask s q r = none → Goes cmd s (Refuses q r (if r.oper then 7 else 2) s)) ∧
      (∀ m c, noService s q = false → ¬bad → powerMask s q r = some m → powerCause s m target = some c → Goes cmd s (Refuses q r c s)) ∧
      (∀ m, noService s q = false → ¬bad → powerMask s q r = some m → powerCause s m target = none → Goes cmd s fun t =>
        let e := powerEdge s m target
        let low := lowestQuarter m
        ∃ v, Replies q r 0 (leBytes 8 (timeWord e)) v t ∧
          v = { s with regs := v.regs, mrs := v.mrs, ports := v.ports, quarters := v.quarters, mgr := v.mgr } ∧
          (∀ p, (partOf s low).filter (·.tick) = some p → p.period ≠ 0 → e % p.period = 0 ∧ qcNs s low < e ∧
            (target ≠ 0 → qcNs s low + 10000 ≤ e)) ∧
          ((s.qtr low).pstate = target → v.quarters = s.quarters) ∧
          ((s.qtr low).pstate ≠ target → ∀ k : QuarterId, v.qtr k =
            if bit m k then { s.qtr k with ptarget := target, pmoving := true, pstage := 0, pedge := e } else s.qtr k) ∧
          (target ≠ 0 ∨ (s.qtr low).pstate ≠ 3 → v = { s with quarters := v.quarters }) ∧
          (target = 0 → (s.qtr low).pstate = 3 →
            (∀ n : StackId, v.mr n = if bit m (stackQuarter n) = true ∧ (s.mr n).state = 3 then { s.mr n with state := 2 } else s.mr n) ∧
            ∀ p : PortId, v.port p = if bit m (edgeQuarter (p / 4)) = true ∧ (s.port p).state = 4 then { s.port p with state := 2 } else s.port p)))) ∧
  (let v := noTickEntry s q
   let x := v.qtr q
   let m := movingMask v q
   let from_ (ns : Nat) : State := advNs v (edgeSite (controllerEdge q)) (x.pedge + ns)
   let ends (w t : State) : Prop := t = endPower w m ∧ ∀ k : QuarterId, if bit m k then
     (t.qtr k).pstate = (w.qtr k).ptarget ∧ (t.qtr k).pmoving = false ∧ (t.qtr k).pstage = 0 ∧ Counted (pmPstateCntAt k) w t else t.qtr k = w.qtr k
   (x.pmoving = false ∨ x.ptarget < 2 → Goes (.pstateEntryDone q) s fun t => t = v) ∧
   (x.pmoving = true → 2 ≤ x.ptarget → x.pstage = 1 →
     ((∃ c ∈ allClusters m, cluQuiet v c = false) ∨ memQuiet v m = false → Goes (.pstateEntryDone q) s fun t => t = v) ∧
     ((∀ c ∈ allClusters m, cluQuiet v c = true) → memQuiet v m = true → Goes (.pstateEntryDone q) s fun t =>
       ∃ w, w = openQuarters (from_ 30000) m (x.ptarget == 3) ∧ t.fab = (from_ 30000).fab ∧
         (∀ c ∈ allClusters m, (t.cl c).seq = .idle ∧ (t.cl c).s = [] ∧ (t.cl c).dq = [] ∧ (t.cl c).queues = [] ∧ (t.cl c).cache = []) ∧
         (∀ r < 512, bit m (dieQuarter (r / 2)) = true → (s.rgn r).hdr ≠ 3 → (t.rgn r).hdr = 0) ∧
         (∀ r, r < 512 → bit m (dieQuarter (r / 2)) = false → t.rgn r = s.rgn r) ∧
         (∀ y ∈ t.parts, y.qmask = m → y.tick = false) ∧
         (x.ptarget = 2 → ends w t) ∧
         (x.ptarget ≠ 2 → t = { w with quarters := t.quarters } ∧ ∀ k : QuarterId, t.qtr k = if bit m k then { w.qtr k with pstage := 2 } else w.qtr k))) ∧
   (x.pmoving = true → 2 ≤ x.ptarget → x.pstage = 3 → Goes (.pstateEntryDone q) s fun t => t.fab = (from_ 60000).fab ∧ ends (from_ 60000) t)) ∧
  (let x := s.qtr q
   let m := movingMask s q
   (x.pmoving = true → x.pstage = 2 → memQuiet s m = true → remoteOpen s m = false → Goes (.selfRefreshEntry q) s fun t =>
     t = { s with regs := t.regs, mrs := t.mrs, ports := t.ports, quarters := t.quarters, mgr := t.mgr } ∧
     (∀ n : StackId, t.mr n = if bit m (stackQuarter n) = true ∧ (s.mr n).state = 2 then { s.mr n with state := 3 } else s.mr n) ∧
     (∀ p : PortId, t.port p = if bit m (edgeQuarter (p / 4)) = true ∧ (s.port p).state = 2 then { s.port p with state := 4 } else s.port p) ∧
     ∀ k : QuarterId, t.qtr k = if bit m k then { s.qtr k with
       held := (s.qtr k).held &&& 126, pstage := 3, scrubReq := if bit (s.qtr k).held 0 then some s.fab else (s.qtr k).scrubReq } else s.qtr k) ∧
   (x.pmoving = false ∨ x.pstage ≠ 2 ∨ memQuiet s m = false ∨ remoteOpen s m = true → Goes (.selfRefreshEntry q) s fun t => t = s) ∧
   (x.pmoving = false ∨ x.ptarget ≠ 0 → Goes (.pstateWakeDone q) s fun t => t = s) ∧
   (x.pmoving = true → x.ptarget = 0 →
     (x.pstate < 2 → (partOf s q).filter (·.tick) = none → Goes (.pstateWakeDone q) s fun t => t = endPower s m) ∧
     (2 ≤ x.pstate → wokenUp s m = false → Goes (.pstateWakeDone q) s fun t => t = s) ∧
     (2 ≤ x.pstate → wokenUp s m = true → Goes (.pstateWakeDone q) s fun t => t.fab = s.fab ∧ (t.qtr q).pstate = (if bit m q then 0 else x.pstate) ∧
       (partOf s q = none → t = endPower s m) ∧ (x.pstate = 2 → SameMem s t) ∧
       ∀ p, partOf s q = some p → (∃ y, partOf t q = some y ∧ y.qmask = p.qmask ∧ y.startFrom = some s.fab ∧ (x.pstate = 2 → y.cfg = p.cfg)) ∧
         ∀ c ∈ allClusters m, (t.cl c).gen = newGen s m ∧ (t.cl c).queues = [])))

/-- Resets asked for at the mailbox (R396, R397, R408), the steps of an Eclipse (R398, R399), compatibility resets and their drains (R401, R402). -/
def Obligations.ResetsOfPartitions : Prop :=
  ∀ (s : State) (q : QuarterId),
  let whole (p : Partition) : Prop := partOf s (lowestQuarter p.qmask) = some p
  let has (p : Partition) (r : Option ResetOp) (t : State) : Prop := ∃ y, partOf t (lowestQuarter p.qmask) = some y ∧ y.qmask = p.qmask ∧ y.reset = r
  (∀ cmd sub r, (cmd, sub) ∈ [(Instr.eclipse q, 1), (.compatUnit q, 2), (.compatCluster q, 3), (.compatPartition q, 4), (.compatPanel q, 5), (.warmReset q, 6)] →
    mbOf s q 1 = some r → (activeMgr s).isSome = true →
    let x := readReset r
    (x.sub ≠ sub → (sub ≠ 1 ∨ (x.sub ≠ 0 ∧ x.sub ≤ 6)) → Goes cmd s fun t => t = s) ∧
    (∀ c, x.sub = sub ∨ (sub = 1 ∧ (x.sub = 0 ∨ 6 < x.sub)) → resetCause s q r x = some c → Goes cmd s (Refuses q r c s)) ∧
    (x.sub = sub → resetCause s q r x = none →
      (∀ p, resetPart s q r x = some p → whole p →
        let begun (kind stage : Nat) (zero : Bool) (t : State) : Prop := t.fab = s.fab ∧ (t.qtr q).mb = some r ∧ has p (some {
          kind := kind, start := s.fab, zero := zero, target := if kind = 2 ∨ kind = 3 then x.target else 0, stage := stage, reply := some q.val }) t
        (sub = 1 → Goes cmd s fun t => begun 1 1 x.zero t ∧ ∀ c ∈ maskClusters s p.qmask, (t.cl c).absorbing = true ∧ (t.cl c).seq = .idle ∧
          (t.cl c).eng = [] ∧ (t.cl c).dq = [] ∧ (t.cl c).rtags = [] ∧ (t.cl c).wtags = [] ∧ (t.cl c).cache = []) ∧
        (sub = 2 → Goes cmd s (begun 2 0 false)) ∧
        (sub = 3 → Goes cmd s fun t => begun 3 0 false t ∧ ∀ c, cluOfLogical s x.target = some c → (t.cl c).seq = .idle ∧ (t.cl c).dq = []) ∧
        (sub = 4 → Goes cmd s fun t => begun 4 0 false t ∧ ∀ c ∈ maskClusters s p.qmask, (t.cl c).seq = .idle ∧ (t.cl c).dq = [])) ∧
      (sub = 5 → s.parts = [] → Goes cmd s (Replies q r 0 [] s)) ∧
      (sub = 5 → s.parts ≠ [] → Goes cmd s fun t => t = s.parts.foldl (fun s p => startCompat s p 5 0 (some q.val)) s ∧ t.fab = s.fab ∧
        (t.qtr q).mb = some r) ∧
      (sub = 6 → Goes cmd s fun t => ∃ v, Replies q r 0 [] s v ∧ t = { v with mgr := { s.mgr with warmAt := some (s.fab + 200000) } }))) ∧
  (∀ p r, partOf s q = some p → p.reset = some r → whole p →
    let over_ (n : Nat) (v t : State) : Prop := has p none t ∧ Counted n v t ∧ t.fab = v.fab ∧
      ∀ k m, r.reply = some k → r.kind ≠ 5 → (v.qtr k).mb = some m → (t.qtr k).mb = none ∧ t.reg (hstMbStatAt k) = 2
    let after (v t : State) : Prop :=
      (r.kind = 2 ∨ r.kind = 3 → over_ (pmCompatRstCntAt (lowestQuarter p.qmask)) v t) ∧
      (r.kind ≠ 2 → r.kind ≠ 3 → t.fab = v.fab ∧ has p (some { r with start := v.fab - 1000, stage := 1 }) t ∧
        ∀ c ∈ maskClusters s p.qmask, (t.cl c).absorbing = true ∧ (t.cl c).eng = [] ∧ (t.cl c).dq = [])
    (r.stage ≠ 1 → Goes (.eclipseAbsorbEnd q) s fun t => t = s) ∧
    (r.stage = 1 → Goes (.eclipseAbsorbEnd q) s fun t => t.fab = max s.fab (r.start + 41000) ∧
      (∃ y, partOf t q = some y ∧ y.held = [] ∧ y.hold = false ∧ y.halted = false ∧ y.reset = some { r with stage := 2 }) ∧
      ∀ c ∈ maskClusters s p.qmask, (s.cl c).replay = none → (t.cl c).absorbing = false ∧ (t.cl c).s = [] ∧ (t.cl c).credits = [] ∧
        ∀ i < 4, (t.un (4 * c + i)).acc = [] ∧ (t.un (4 * c + i)).vr = [] ∧ (r.zero = false → (t.un (4 * c + i)).full = [])) ∧
    (r.stage ≠ 2 ∨ r.after = 1 → Goes (.eclipseComplete q) s fun t => t = s) ∧
    (r.stage = 2 → r.after ≠ 1 → Goes (.eclipseComplete q) s fun t => t.fab = max s.fab (r.start + 80000) ∧
      (∀ c ∈ maskClusters s p.qmask, (t.cl c).seq = .waitEdge) ∧
      over_ (if r.kind = 1 then pmEclipseCntAt (lowestQuarter p.qmask) else pmCompatRstCntAt (lowestQuarter p.qmask)) (advFab s (r.start + 80000)) t) ∧
    (r.stage ≠ 0 ∨ drained s p r = false → Goes (.drainComplete q) s fun t => t = s) ∧
    (r.stage = 0 → drained s p r = true → Goes (.drainComplete q) s fun t => t = afterDrain s p r ∧ after s t) ∧
    (r.stage ≠ 0 → Goes (.drainTimeout q) s fun t => t = s) ∧
    (r.stage = 0 → Goes (.drainTimeout q) s fun t =>
      let v := advFab s (r.start + quarCycles s (lowestQuarter p.qmask))
      t.fab = max s.fab (r.start + quarCycles s (lowestQuarter p.qmask)) ∧ t = afterDrain (quarantineDrain v p r) p r ∧ after v t ∧
      (r.kind ≠ 2 → ∀ c ∈ drainScope s p r, (t.cl c).rtags = [] ∧ (t.cl c).wtags = [])))

/-- SPARE_IN from its request to PENDING (R421 to R424), retests (R432), and the poll of the memory routers (R420). -/
def Obligations.SparesRetestsAndStacks : Prop :=
  ∀ (s : State), (activeMgr s).isSome = true →
  (∀ (q : QuarterId) r, mbOf s q 4 = some r →
    let d := natAt r.payload 0 2
    let f := dieField d
    let x := s.fld f
    let holds : Prop := (positionOf s d).isSome = true ∨ (vacantOf x d).isSome = true
    let running : Prop := spareRuns s f = true ∧ x.old = d
    (∀ c, spareCause s q r d = some c → Goes (.spareIn q) s (Refuses q r c s)) ∧
    (spareCause s q r d = none →
      (running → Goes (.spareIn q) s (Replies q r 0 [] s)) ∧
      (¬running → ¬holds → d ∈ x.past → Goes (.spareIn q) s (Replies q r 0 [] s)) ∧
      (¬running → ¬holds → d ∉ x.past → (∃ c, x.spare = some c ∧ (s.die c).state ≠ 2) → Goes (.spareIn q) s (Refuses q r 7 s)) ∧
      (¬running → holds → (∃ c, x.spare = some c ∧ (s.die c).state ≠ 2) → Goes (.spareIn q) s fun t => t = { s with mgr := { s.mgr with
        locks := s.mgr.locks ++ [{ code := 3, qmask := 2 ^ fieldQuarter f, arg := d + 256 * natAt r.payload 2 1, reply := some q.val }] } }) ∧
      (¬running → holds ∨ d ∉ x.past → (∀ c, x.spare = some c → (s.die c).state = 2) → Goes (.spareIn q) s fun t => ∃ v, Refuses q r 7 v t ∧
        v = { s with regs := v.regs, quarters := v.quarters, fields := v.fields } ∧ v.fld f = { x with proc := 9 } ∧
        ∀ k, k ≠ f → v.fld k = s.fld k))) ∧
  (∀ (f : FieldId) pass d from_, (s.fld f).spare = some d → (s.fld f).procAt = some from_ → (s.fld f).proc = 2 →
    let v := advFab s (from_ + 4000000)
    let good : Prop := pass = true ∧ ∀ k < 4, (s.cl (4 * d + k)).fwOk = true
    (good → Goes (.spareCheckDone f pass) s fun t => t.fab = max s.fab (from_ + 4000000) ∧ t.fld f = { s.fld f with proc := 3, procAt := some t.fab } ∧
      (∀ k, k ≠ f.val → t.fld k = s.fld k) ∧ (∀ u, u / 16 ≠ d → t.un u = s.un u) ∧
      ∀ i < 16, (t.un (16 * d + i)).clear = 1 ∧ (t.un (16 * d + i)).modeAfter = some (serviceMode s d)) ∧
    (¬good → Goes (.spareCheckDone f pass) s fun t => t = spareFailed v f 5 ∧ t.fab = v.fab ∧ Counted pmSpareAbortCntAt s t ∧ (t.fld f).procAt = none)) ∧
  (∀ (f : FieldId) d, (s.fld f).spare = some d → (s.fld f).proc = 3 → (∀ i < 16, clearing (s.un (16 * d + i)) = false) →
    let x := s.fld f
    (copyIntoSpare s f d = none → Goes (.spareCopyDone f) s fun t => t = s) ∧
    (∀ w, copyIntoSpare s f d = some w → Goes (.spareCopyDone f) s (fun t => t.fab = w.fab ∧ t.mem = w.mem ∧ t.units = w.units ∧
        t.fld f = { x with proc := 4, procAt := some w.fab, mirrorFrame := mirrorFrame s f } ∧ ∀ k, k ≠ f.val → t.fld k = s.fld k) ∧
      (x.nocopy = true → w = s) ∧
      (x.nocopy = false → (s.die x.old).state ≠ 2 → x.old ≠ d → ∀ i < 16,
        (∀ k < 6144 * 1024, memByte w.mem (spadAt (16 * d + i) k) = memByte s.mem (spadAt (16 * x.old + i) k)) ∧
        ∀ sl, sl < 6144 → (sl ∈ (w.un (16 * d + i)).full ↔ sl ∈ (s.un (16 * x.old + i)).full)))) ∧
  (∀ (d : DieId) (vouches : Fin 5) wrong m, s.mgr.maint.find? (fun m => m.code == 2 && m.arg == d.val) = some m →
    Goes (.retestDone d vouches wrong) s fun t =>
      let f := dieField d
      let x := s.fld f
      let y := s.die d
      t.fab = max s.fab (m.startFab + 400000000) ∧ t.mgr.maint = s.mgr.maint.filter (fun y => y != m) ∧
      (∀ q : QuarterId, (t.qtr q).held = if bit m.qmask q then (s.qtr q).held &&& 125 else (s.qtr q).held) ∧
      (2 ≤ vouches.val → x.spare = some d.val → t.die d = y ∧ t.fields = s.fields) ∧
      (2 ≤ vouches.val → x.spare = none → t.die d = { y with state := 1, cause := 0 } ∧ t.reg pmDmapGenAt = s.reg pmDmapGenAt + 1 ∧
        t.fld f = { x with spare := some d.val, promote := false, reserves := x.reserves.filter (· != d.val) }) ∧
      (∀ k, 2 ≤ vouches.val → x.spare = some k → k ≠ d.val →
        (y.state = 3 → t.die d = y ∧ t.fields = s.fields) ∧
        (y.state ≠ 3 → t.die d = { y with state := 3, cause := 0 } ∧ t.reg pmDmapGenAt = s.reg pmDmapGenAt + 1 ∧
          t.fld f = { x with reserves := insSorted x.reserves d.val })) ∧
      (vouches.val < 2 → (t.die d).state = 2 ∧ (t.die d).cause = (if wrong then 5 else 6) ∧ (t.rtr (dieSite d)).running = false ∧
        (∀ k ∈ (t.fld f).reserves, k ∈ x.reserves ∧ k ≠ d.val) ∧ (t.fld f).spare ≠ some d.val)) ∧
  (∀ silent untrained : List StackId, Goes (.mrPoll silent untrained) s fun t =>
    t.fab = max s.fab (s.mgr.pollFab + 2000000) ∧ t.mgr.pollFab = t.fab ∧ SameMem s t ∧ t.clusters = s.clusters ∧ t.units = s.units ∧
    ∀ n : StackId,
      let x := s.mr n
      let day : Prop := (s.qtr (stackQuarter n)).svc = 2 ∧ x.state ≠ 4
      let y := { x with missedPolls := if n ∈ silent then x.missedPolls + 1 else 0 }
      (day → n ∈ silent → 1 ≤ x.missedPolls → t.mr n = { y with state := 4, cause := 0 } ∧ (t.rtr (stackSite n)).running = false ∧
        (t.fld (stackField n)).failed = true) ∧
      (day → ¬(n ∈ silent ∧ 1 ≤ x.missedPolls) → n ∈ untrained → t.mr n = { y with state := 4, cause := 9 } ∧ (t.fld (stackField n)).failed = true) ∧
      (¬day ∨ (¬(n ∈ silent ∧ 1 ≤ x.missedPolls) ∧ n ∉ untrained) → t.mr n = y))

/-- Secured sessions and keys (R473, R475 to R478), the boundary-scan instructions (R484), trace (R483, R486), and the tenant clear with its
passes (R480, R481; log entries 55 and 59). -/
def Obligations.SecurityScanAndTenantClear : Prop :=
  ∀ (s : State),
  (∀ q : QuarterId, doeServes s = true →
    let x := s.qtr q
    let answers (code : Nat) (bs : Bytes) (t : State) : Prop := t = { s with
      regs := t.regs, quarters := t.quarters, out := .spdm q code bs :: s.out }
    (∀ root,
      (lowestFree x.sessions 4 = none → Goes (.spdmKeyExchange q root) s fun t => answers 1 [] t ∧ t.regs = s.regs ∧ t.quarters = s.quarters) ∧
      (∀ n, lowestFree x.sessions 4 = some n → Goes (.spdmKeyExchange q root) s fun t => answers 0 (leBytes 1 n) t ∧ t.regs = s.regs ∧ OnlyQtr q s t ∧
        t.qtr q = { x with sessions := insSorted x.sessions n, operSessions := (t.qtr q).operSessions } ∧
        (t.qtr q).operSessions = if root.any (isOperRoot s) then insSorted x.operSessions n else x.operSessions)) ∧
    (Goes (.spdmGetMeasurements q) s fun t => t = { s with
      fresh := s.fresh + 1, out := .spdm q 0 (measurements s q ++ aliasSignature s (measurements s q)) :: s.out }) ∧
    (∀ session (n : Fin 4) id key,
      let k := partQ (partD s q)
      let may : Prop := session ∈ x.sessions ∧ (partOf s q).isSome = true
      (¬may → Goes (.keySet q session n id key) s (fun t => t = { s with out := .spdm q 1 [] :: s.out }) ∧
        Goes (.keyErase q session n) s fun t => t = { s with out := .spdm q 1 [] :: s.out }) ∧
      (may → Goes (.keySet q session n id key) s (fun t => answers 0 [] t ∧ OnlyQtr k s t ∧ RegsBut [kslotAt k n] s t ∧
          t.reg (kslotAt k n) = id.toNat * 2 ^ 32 + 1 ∧ t.qtr k = { s.qtr k with keys := putAt (s.qtr k).keys n key }) ∧
        Goes (.keyErase q session n) s fun t => answers 0 [] t ∧ OnlyQtr k s t ∧ RegsBut [kslotAt k n] s t ∧
          t.reg (kslotAt k n) = 0 ∧ t.qtr k = { s.qtr k with keys := dropAt (s.qtr k).keys n }))) ∧
  (∀ (q : QuarterId) session, session ∈ (s.qtr q).sessions → Goes (.spdmEndSession q session) s fun t => t = { s with quarters := t.quarters } ∧ OnlyQtr q s t ∧
    t.qtr q = { s.qtr q with sessions := (s.qtr q).sessions.filter (· != session), operSessions := (s.qtr q).operSessions.filter (· != session) }) ∧
  (∀ e : EdgeId,
    (∀ tdi, Goes (.bypass e tdi) s fun t => t = { s with sec := { s.sec with tapBit := putAt s.sec.tapBit e tdi, driven := dropAt s.sec.driven e }, out := .tdo e (b2n (tapBitOf s e)) :: s.out }) ∧
    (Goes (.idcode e) s fun t => t = { s with
      sec := { s.sec with driven := dropAt s.sec.driven e }
      out := .tdo e (siteStep s (edgeSite e) % 16 * 2 ^ 28 + 0x9384 * 2 ^ 12 + Config.jep106.toNat * 2 + 1) :: s.out }) ∧
    (∀ pins preload, Goes (.samplePreload e pins preload) s fun t => t = { s with sec := t.sec, out := .pins e pins :: s.out } ∧
      t.sec = { s.sec with driven := dropAt s.sec.driven e, preload := match preload with | some v => putAt s.sec.preload e v | none => s.sec.preload }) ∧
    ((∀ q : QuarterId, (s.qtr q).svc = 0 ∨ (s.qtr q).svc = 3) → Goes (.extest e) s fun t => t = { s with
      sec := { s.sec with driven := putAt s.sec.driven e (findD s.sec.preload e 0) } }) ∧
    ((∃ q : QuarterId, (s.qtr q).svc ≠ 0 ∧ (s.qtr q).svc ≠ 3) → Goes (.extest e) s fun t => t = { s with
      out := .tdo e (b2n (tapBitOf s e)) :: s.out })) ∧
  (∀ who (ctl : BitVec 32),
    (operMgr s who = false → Goes (.traceStart who ctl) s fun t => t = s) ∧
    (operMgr s who = true → Goes (.traceStart who ctl) s fun t => t = { s with regs := t.regs } ∧
      t.reg secTraceCtlAt = ctl.toNat / 65536 * 65536 ∧ (∀ a, a ≠ secTraceCtlAt → (∀ q : QuarterId, a ≠ secDbgAccCntAt q) → t.reg a = s.reg a) ∧
      (bits ctl.toNat 31 31 = 1 → bits ctl.toNat 30 22 < 400 → Counted (secDbgAccCntAt (siteQuarter (bits ctl.toNat 30 22))) s t))) ∧
  (∀ (q : QuarterId) r, mbOf s q 5 = some r → (activeMgr s).isSome = true →
    (noService s q = true → Goes (.tenantClear q) s (Refuses q r 1 s)) ∧
    (∀ c, noService s q = false → clearMask s q r = .error c → Goes (.tenantClear q) s (Refuses q r c s)) ∧
    (∀ m, noService s q = false → clearMask s q r = .ok m →
      (∀ c, clearCause s m = some c → Goes (.tenantClear q) s (Refuses q r c s)) ∧
      (clearCause s m = none → Goes (.tenantClear q) s fun t => t = { s with mgr := { s.mgr with
        locks := s.mgr.locks ++ [{ code := 7, qmask := m, arg := 0, reply := some q.val }] } }))) ∧
  (∀ q : QuarterId, (activeMgr s).isSome = true →
    let x := s.qtr q
    let m := clearingMask s q
    let at_ (n : Nat) : State := advFab s (x.clrAt + n)
    let passed (state pass : Nat) (t : State) : Prop := ∀ k : QuarterId, bit m k = true → (state = 3 → (t.qtr k).clr = 3) ∧ (state = 2 → (t.qtr k).clrPass = pass) ∧
      bits (t.reg secClearStatAt) (8 * k + 2) (8 * k) = state ∧ bits (t.reg secClearStatAt) (8 * k + 6) (8 * k + 4) = (if state = 2 then pass else 0)
    (∀ bad, x.clr = 1 → (∀ p, s.parts.find? (fun p => p.qmask == m) = some p → ∃ r, p.reset = some r ∧ r.stage = 2) →
      Goes (.tenantClearPass q bad) s fun t => t.fab = max s.fab (x.clrAt + 80000) ∧ passed 2 1 t ∧ (∀ y ∈ t.parts, y.qmask ≠ m) ∧
        (∀ c ∈ allClusters m, (t.cl c).seq = .idle ∧ (t.cl c).absorbing = false) ∧
        ∀ k : QuarterId, bit m k = true → (t.qtr k).clr = 2 ∧ t.reg (qcSsSerialAt k) = 0 ∧ t.reg (qcSsStatAt k) = 0) ∧
    (∀ (n : StackId) (so : Nat), x.clr = 2 → x.clrPass = 2 ∨ x.clrPass = 4 → bit m (stackQuarter n) = true → stackGone s n = false →
      Goes (.tenantClearPass q [(n, so)]) s fun t =>
        let k := rowKey so
        let free : Prop := findD (s.mr n).bankRepairs (bankOfRow k) 0 < Config.spareRows
        (free → t.sec.repairs = s.sec.repairs ++ [(n.val, k)] ∧ Counted (mrPprCntAt n) s t ∧ (t.mr n).state = (s.mr n).state) ∧
        (¬free → t.sec.repairs = s.sec.repairs ∧ (t.mr n).state = 4 ∧ (t.mr n).cause = 10 ∧ Counted pmStackWdCntAt s t)) ∧
    (∀ bad, x.clr = 2 →
      (x.clrPass = 1 → Goes (.tenantClearPass q bad) s fun t => t.fab = (at_ 48000000).fab ∧ t.mem = (patternStacks (at_ 48000000) m).mem ∧ passed 2 2 t) ∧
      (x.clrPass = 2 → Goes (.tenantClearPass q bad) s fun t => t.fab = (at_ 24048000000).fab ∧ passed 2 3 t ∧ SameMem s t) ∧
      (x.clrPass = 3 → Goes (.tenantClearPass q bad) s fun t => t.fab = (at_ 24144000000).fab ∧ t.mem = (patternStacks (at_ 24144000000) m).mem ∧ passed 2 4 t) ∧
      (x.clrPass = 4 → Goes (.tenantClearPass q bad) s fun t => t.fab = (at_ 48192000000).fab ∧ passed 2 5 t ∧ SameMem s t) ∧
      (x.clrPass = 5 → Goes (.tenantClearPass q bad) s fun t => t.fab = (at_ 48240000000).fab ∧ passed 3 0 t ∧
        (∀ k : QuarterId, bit m k = true → (t.qtr k).held = (s.qtr k).held &&& 63) ∧
        ∀ n ∈ clearableStacks s m, (t.mr n).dir = [] ∧ ∀ k < 0x8ED000000, memByte t.mem (stackAt n k) = 0)))
end

