-- ==== Sys2Proof/Laws/Memory.lean ====
section
/-! SUPPORT. The byte memory: reading after writing and after clearing, and that every memory operation keeps the canonical
form. -/

namespace Sys2Proof.Machine

/-! ### Sparse maps -/

theorem find?_putAt_self {α : Type} (m : List (Nat × α)) (k : Nat) (x : α) : find? (putAt m k x) k = some x := by
  induction m with
  | nil => simp [putAt, find?]
  | cons p t ih =>
    obtain ⟨j, y⟩ := p
    unfold putAt
    split
    · simp [find?]
    · split
      · simp [find?]
      · have : j ≠ k := by omega
        simp [find?, this, ih]

theorem find?_putAt_ne {α : Type} (m : List (Nat × α)) {k j : Nat} (x : α) (h : j ≠ k) :
    find? (putAt m k x) j = find? m j := by
  induction m with
  | nil => simp [putAt, find?, Ne.symm h]
  | cons p t ih =>
    obtain ⟨i, y⟩ := p
    unfold putAt
    split
    · simp [find?, Ne.symm h]
    · split
      · subst_vars; simp [find?, Ne.symm h]
      · simp [find?, ih]

@[simp] theorem findD_putAt_self {α : Type} (m : List (Nat × α)) (k : Nat) (x d : α) : findD (putAt m k x) k d = x := by
  simp [findD, find?_putAt_self]

theorem findD_putAt_ne {α : Type} (m : List (Nat × α)) {k j : Nat} (x d : α) (h : j ≠ k) :
    findD (putAt m k x) j d = findD m j d := by simp [findD, find?_putAt_ne m x h]

theorem findD_putAt {α : Type} (m : List (Nat × α)) (k j : Nat) (x d : α) :
    findD (putAt m k x) j d = if j = k then x else findD m j d := by
  split
  · subst_vars; simp
  · rename_i h; exact findD_putAt_ne m x d h

theorem find?_append {α : Type} (l m : List (Nat × α)) (k : Nat) :
    find? (l ++ m) k = (find? l k).or (find? m k) := by
  induction l with
  | nil => simp [find?]
  | cons p t ih =>
    obtain ⟨j, y⟩ := p
    by_cases h : j = k <;> simp [find?, h, ih]

theorem find?_eq_none_of_forall {α : Type} (l : List (Nat × α)) (k : Nat) (h : ∀ p ∈ l, p.1 ≠ k) : find? l k = none := by
  induction l with
  | nil => rfl
  | cons p t ih =>
    obtain ⟨j, y⟩ := p
    have hj : j ≠ k := h _ (List.mem_cons_self ..)
    simp [find?, hj, ih fun q hq => h q (List.mem_cons_of_mem _ hq)]

theorem find?_filter {α : Type} (l : List (Nat × α)) (f : Nat → Bool) (k : Nat) :
    find? (l.filter fun c => f c.1) k = if f k then find? l k else none := by
  induction l with
  | nil => simp [find?]
  | cons p t ih =>
    obtain ⟨j, y⟩ := p
    by_cases hj : j = k
    · subst hj
      cases hf : f j <;> simp [hf, find?, ih]
    · cases hf : f j <;> simp [hf, find?, ih, hj]

/-! ### The run of cells a write leaves -/

theorem runCells_bounds (a : Nat) (bs : Bytes) : ∀ c ∈ runCells a bs, a ≤ c.1 ∧ c.1 < a + bs.length := by
  induction bs generalizing a with
  | nil => simp [runCells]
  | cons b bs ih =>
    intro c hc
    unfold runCells at hc
    simp only [List.length_cons]
    split at hc
    · have := ih _ c hc; omega
    · rcases List.mem_cons.1 hc with h | h
      · subst h; simp
      · have := ih _ c h; omega

/-- Reading one byte of a freshly written run. -/
theorem find?_runCells (a : Nat) (bs : Bytes) (i : Nat) (h : i < bs.length) :
    (find? (runCells a bs) (a + i)).getD (memDefault (a + i)) = bs[i] := by
  induction bs generalizing a i with
  | nil => simp at h
  | cons b bs ih =>
    unfold runCells
    cases i with
    | zero =>
      split
      · rename_i hb
        rw [find?_eq_none_of_forall]
        · simp [hb]
        · intro p hp; have := runCells_bounds _ _ p hp; omega
      · simp [find?]
    | succ n =>
      have hn : n < bs.length := by simpa using h
      have := ih (a + 1) n hn
      have e : a + 1 + n = a + (n + 1) := by omega
      rw [e] at this
      split
      · simpa using this
      · simpa [find?, show a ≠ a + (n + 1) by omega] using this

/-! ### Reading after writing -/

theorem memByte_memWrite_outside (m : List Host.Cell) (a : Nat) (bs : Bytes) (k : Nat) (h : k < a ∨ a + bs.length ≤ k) :
    memByte (memWrite m a bs) k = memByte m k := by
  have hr : find? (runCells a bs) k = none :=
    find?_eq_none_of_forall _ _ fun p hp e => by have := runCells_bounds _ _ p hp; omega
  have h1 := find?_filter m (fun j => decide (j < a)) k
  have h2 := find?_filter m (fun j => decide (a + bs.length ≤ j)) k
  unfold memByte findD memWrite
  rw [find?_append, find?_append, hr, h1, h2]
  by_cases ha : k < a
  · have : ¬ a + bs.length ≤ k := by omega
    simp [ha, this]
  · have : a + bs.length ≤ k := by omega
    simp [ha, this]

theorem memByte_memWrite_inside (m : List Host.Cell) (a : Nat) (bs : Bytes) (i : Nat) (h : i < bs.length) :
    memByte (memWrite m a bs) (a + i) = bs[i] := by
  have h1 := find?_filter m (fun j => decide (j < a)) (a + i)
  have h2 := find?_filter m (fun j => decide (a + bs.length ≤ j)) (a + i)
  have n1 : ¬ a + i < a := by omega
  have n2 : ¬ a + bs.length ≤ a + i := by omega
  have := find?_runCells a bs i h
  unfold memByte findD memWrite
  rw [find?_append, find?_append, h1, h2]
  simpa [n1, n2] using this

/-- A run of bytes is read byte by byte. -/
theorem memRead_eq (m : List Host.Cell) (a n : Nat) : memRead m a n = (List.range n).map fun i => memByte m (a + i) := by
  cases m <;> rfl

/-- Reading back what was written. -/
theorem memRead_memWrite (m : List Host.Cell) (a : Nat) (bs : Bytes) : memRead (memWrite m a bs) a bs.length = bs := by
  apply List.ext_getElem
  · simp [memRead_eq]
  · intro i h1 h2
    simpa [memRead_eq] using memByte_memWrite_inside m a bs i h2

theorem memByte_memClear (m : List Host.Cell) (a n k : Nat) :
    memByte (memClear m a n) k = if k < a ∨ a + n ≤ k then memByte m k else memDefault k := by
  have h := find?_filter m (fun j => decide (j < a) || decide (a + n ≤ j)) k
  unfold memByte findD memClear
  rw [h]
  by_cases h1 : k < a <;> by_cases h2 : a + n ≤ k <;> simp [h1, h2]

/-! ### The canonical form -/

/-- The canonical form as a pairwise order and a property of each cell. -/
theorem memWf_iff (m : List Host.Cell) :
    memWf m = true ↔ m.Pairwise (fun c d => c.1 < d.1) ∧ ∀ c ∈ m, c.2 ≠ memDefault c.1 := by
  induction m with
  | nil => simp [memWf]
  | cons c t ih =>
    cases t with
    | nil => simp [memWf]
    | cons d t =>
      simp only [memWf, Bool.and_eq_true, decide_eq_true_eq, ih]
      constructor
      · rintro ⟨⟨h1, h2⟩, hp, hv⟩
        refine ⟨List.pairwise_cons.2 ⟨?_, hp⟩, ?_⟩
        · intro e he
          rcases List.mem_cons.1 he with rfl | he
          · exact h1
          · exact Nat.lt_trans h1 ((List.pairwise_cons.1 hp).1 e he)
        · intro e he
          rcases List.mem_cons.1 he with rfl | he
          · exact h2
          · exact hv e he
      · rintro ⟨hp, hv⟩
        obtain ⟨h1, h2⟩ := List.pairwise_cons.1 hp
        exact ⟨⟨h1 d (List.mem_cons_self ..), hv c (List.mem_cons_self ..)⟩, h2,
          fun e he => hv e (List.mem_cons_of_mem _ he)⟩

theorem memWf_filter {m : List Host.Cell} (p : Host.Cell → Bool) (h : memWf m = true) : memWf (m.filter p) = true := by
  rw [memWf_iff] at *
  exact ⟨h.1.filter p, fun c hc => h.2 c (List.mem_filter.1 hc).1⟩

theorem memWf_runCells (a : Nat) (bs : Bytes) : memWf (runCells a bs) = true := by
  rw [memWf_iff]
  induction bs generalizing a with
  | nil => simp [runCells]
  | cons b bs ih =>
    obtain ⟨h1, h2⟩ := ih (a + 1)
    unfold runCells
    split
    · exact ⟨h1, h2⟩
    · rename_i hb
      refine ⟨List.pairwise_cons.2 ⟨?_, h1⟩, ?_⟩
      · intro c hc; have := runCells_bounds _ _ c hc; simp; omega
      · intro c hc
        rcases List.mem_cons.1 hc with rfl | hc
        · exact hb
        · exact h2 c hc

/-- A write keeps the canonical form. -/
theorem memWf_memWrite {m : List Host.Cell} (a : Nat) (bs : Bytes) (h : memWf m = true) : memWf (memWrite m a bs) = true := by
  have hl := memWf_filter (fun c => decide (c.1 < a)) h
  have hr := memWf_filter (fun c => decide (a + bs.length ≤ c.1)) h
  have hm := memWf_runCells a bs
  rw [memWf_iff] at *
  unfold memWrite
  refine ⟨?_, ?_⟩
  · rw [List.pairwise_append, List.pairwise_append]
    refine ⟨⟨hl.1, hm.1, ?_⟩, hr.1, ?_⟩
    · intro c hc d hd
      have := (List.mem_filter.1 hc).2
      have := runCells_bounds _ _ d hd
      simp at *; omega
    · intro c hc d hd
      have hd := (List.mem_filter.1 hd).2
      rcases List.mem_append.1 hc with hc | hc
      · have := (List.mem_filter.1 hc).2
        simp at *; omega
      · have := runCells_bounds _ _ c hc
        simp at *; omega
  · intro c hc
    rcases List.mem_append.1 hc with hc | hc
    · rcases List.mem_append.1 hc with hc | hc
      · exact hl.2 c hc
      · exact hm.2 c hc
    · exact hr.2 c hc

/-- A clear keeps the canonical form. -/
theorem memWf_memClear {m : List Host.Cell} (a n : Nat) (h : memWf m = true) : memWf (memClear m a n) = true :=
  memWf_filter _ h

/-- Reset's memory has the canonical form. -/
theorem memWf_reset : memWf State.reset.mem = true := rfl

end Sys2Proof.Machine
end

