-- ==== Sys2Proof/Laws/State.lean ====
section
/-! SUPPORT. One lemma for each named update of a state: the fields and the records it leaves as they are, and what the
updated record reads as.  Every fact is true by rfl, or by the map lemmas of Laws/Memory.lean. -/

namespace Sys2Proof.Machine.State

/-- What setCl leaves as it is: every other field. -/
@[simp] theorem setCl_fields (s : State) (i : Nat) (x : Cluster) :
    (s.setCl i x).pending = s.pending ∧ (s.setCl i x).fab = s.fab ∧ (s.setCl i x).regs = s.regs ∧
    (s.setCl i x).mem = s.mem ∧ (s.setCl i x).fresh = s.fresh ∧ (s.setCl i x).units = s.units ∧
    (s.setCl i x).buckets = s.buckets ∧ (s.setCl i x).regions = s.regions ∧ (s.setCl i x).dies = s.dies ∧
    (s.setCl i x).routers = s.routers ∧ (s.setCl i x).links = s.links ∧ (s.setCl i x).flights = s.flights ∧
    (s.setCl i x).keepers = s.keepers ∧ (s.setCl i x).mrs = s.mrs ∧ (s.setCl i x).ports = s.ports ∧
    (s.setCl i x).edges = s.edges ∧ (s.setCl i x).parts = s.parts ∧ (s.setCl i x).fields = s.fields ∧
    (s.setCl i x).quarters = s.quarters ∧ (s.setCl i x).mgr = s.mgr ∧ (s.setCl i x).instA = s.instA ∧
    (s.setCl i x).instB = s.instB ∧ (s.setCl i x).power = s.power ∧ (s.setCl i x).sec = s.sec ∧ (s.setCl i x).out = s.out := by
  repeat' (first | rfl | intro _ | constructor)

/-- What setCl leaves as it is: every other record. -/
@[simp] theorem setCl_records (s : State) (i : Nat) (x : Cluster) :
    (∀ k, (s.setCl i x).un k = s.un k) ∧ (∀ k, (s.setCl i x).rtr k = s.rtr k) ∧ (∀ k, (s.setCl i x).mr k = s.mr k) ∧
    (∀ k, (s.setCl i x).bucket k = s.bucket k) ∧ (∀ k, (s.setCl i x).rgn k = s.rgn k) ∧
    (∀ k, (s.setCl i x).die k = s.die k) ∧ (∀ k, (s.setCl i x).link k = s.link k) ∧
    (∀ k, (s.setCl i x).keeper k = s.keeper k) ∧ (∀ k, (s.setCl i x).port k = s.port k) ∧
    (∀ k, (s.setCl i x).edge k = s.edge k) ∧ (∀ k, (s.setCl i x).fld k = s.fld k) ∧
    (∀ k, (s.setCl i x).qtr k = s.qtr k) ∧ (∀ k, (s.setCl i x).reg k = s.reg k) ∧ (∀ k, (s.setCl i x).ctr k = s.ctr k) ∧
    (∀ k n, (s.setCl i x).read k n = s.read k n) ∧ (∀ b, (s.setCl i x).inst b = s.inst b) := by
  repeat' (first | rfl | intro _ | constructor)

@[simp] theorem setCl_self (s : State) (i : Nat) (x : Cluster) : (s.setCl i x).cl i = x := by simp [setCl, cl]

theorem setCl_cl (s : State) (i j : Nat) (x : Cluster) : (s.setCl i x).cl j = if j = i then x else s.cl j := by
  simp [setCl, cl, findD_putAt]

/-- What setUn leaves as it is: every other field. -/
@[simp] theorem setUn_fields (s : State) (i : Nat) (x : UnitState) :
    (s.setUn i x).pending = s.pending ∧ (s.setUn i x).fab = s.fab ∧ (s.setUn i x).regs = s.regs ∧
    (s.setUn i x).mem = s.mem ∧ (s.setUn i x).fresh = s.fresh ∧ (s.setUn i x).clusters = s.clusters ∧
    (s.setUn i x).buckets = s.buckets ∧ (s.setUn i x).regions = s.regions ∧ (s.setUn i x).dies = s.dies ∧
    (s.setUn i x).routers = s.routers ∧ (s.setUn i x).links = s.links ∧ (s.setUn i x).flights = s.flights ∧
    (s.setUn i x).keepers = s.keepers ∧ (s.setUn i x).mrs = s.mrs ∧ (s.setUn i x).ports = s.ports ∧
    (s.setUn i x).edges = s.edges ∧ (s.setUn i x).parts = s.parts ∧ (s.setUn i x).fields = s.fields ∧
    (s.setUn i x).quarters = s.quarters ∧ (s.setUn i x).mgr = s.mgr ∧ (s.setUn i x).instA = s.instA ∧
    (s.setUn i x).instB = s.instB ∧ (s.setUn i x).power = s.power ∧ (s.setUn i x).sec = s.sec ∧ (s.setUn i x).out = s.out := by
  repeat' (first | rfl | intro _ | constructor)

/-- What setUn leaves as it is: every other record. -/
@[simp] theorem setUn_records (s : State) (i : Nat) (x : UnitState) :
    (∀ k, (s.setUn i x).cl k = s.cl k) ∧ (∀ k, (s.setUn i x).rtr k = s.rtr k) ∧ (∀ k, (s.setUn i x).mr k = s.mr k) ∧
    (∀ k, (s.setUn i x).bucket k = s.bucket k) ∧ (∀ k, (s.setUn i x).rgn k = s.rgn k) ∧
    (∀ k, (s.setUn i x).die k = s.die k) ∧ (∀ k, (s.setUn i x).link k = s.link k) ∧
    (∀ k, (s.setUn i x).keeper k = s.keeper k) ∧ (∀ k, (s.setUn i x).port k = s.port k) ∧
    (∀ k, (s.setUn i x).edge k = s.edge k) ∧ (∀ k, (s.setUn i x).fld k = s.fld k) ∧
    (∀ k, (s.setUn i x).qtr k = s.qtr k) ∧ (∀ k, (s.setUn i x).reg k = s.reg k) ∧ (∀ k, (s.setUn i x).ctr k = s.ctr k) ∧
    (∀ k n, (s.setUn i x).read k n = s.read k n) ∧ (∀ b, (s.setUn i x).inst b = s.inst b) := by
  repeat' (first | rfl | intro _ | constructor)

@[simp] theorem setUn_self (s : State) (i : Nat) (x : UnitState) : (s.setUn i x).un i = x := by simp [setUn, un]

theorem setUn_un (s : State) (i j : Nat) (x : UnitState) : (s.setUn i x).un j = if j = i then x else s.un j := by
  simp [setUn, un, findD_putAt]

/-- What setRtr leaves as it is: every other field. -/
@[simp] theorem setRtr_fields (s : State) (i : Nat) (x : Router) :
    (s.setRtr i x).pending = s.pending ∧ (s.setRtr i x).fab = s.fab ∧ (s.setRtr i x).regs = s.regs ∧
    (s.setRtr i x).mem = s.mem ∧ (s.setRtr i x).fresh = s.fresh ∧ (s.setRtr i x).clusters = s.clusters ∧
    (s.setRtr i x).units = s.units ∧ (s.setRtr i x).buckets = s.buckets ∧ (s.setRtr i x).regions = s.regions ∧
    (s.setRtr i x).dies = s.dies ∧ (s.setRtr i x).links = s.links ∧ (s.setRtr i x).flights = s.flights ∧
    (s.setRtr i x).keepers = s.keepers ∧ (s.setRtr i x).mrs = s.mrs ∧ (s.setRtr i x).ports = s.ports ∧
    (s.setRtr i x).edges = s.edges ∧ (s.setRtr i x).parts = s.parts ∧ (s.setRtr i x).fields = s.fields ∧
    (s.setRtr i x).quarters = s.quarters ∧ (s.setRtr i x).mgr = s.mgr ∧ (s.setRtr i x).instA = s.instA ∧
    (s.setRtr i x).instB = s.instB ∧ (s.setRtr i x).power = s.power ∧ (s.setRtr i x).sec = s.sec ∧
    (s.setRtr i x).out = s.out := by
  repeat' (first | rfl | intro _ | constructor)

/-- What setRtr leaves as it is: every other record. -/
@[simp] theorem setRtr_records (s : State) (i : Nat) (x : Router) :
    (∀ k, (s.setRtr i x).cl k = s.cl k) ∧ (∀ k, (s.setRtr i x).un k = s.un k) ∧ (∀ k, (s.setRtr i x).mr k = s.mr k) ∧
    (∀ k, (s.setRtr i x).bucket k = s.bucket k) ∧ (∀ k, (s.setRtr i x).rgn k = s.rgn k) ∧
    (∀ k, (s.setRtr i x).die k = s.die k) ∧ (∀ k, (s.setRtr i x).link k = s.link k) ∧
    (∀ k, (s.setRtr i x).keeper k = s.keeper k) ∧ (∀ k, (s.setRtr i x).port k = s.port k) ∧
    (∀ k, (s.setRtr i x).edge k = s.edge k) ∧ (∀ k, (s.setRtr i x).fld k = s.fld k) ∧
    (∀ k, (s.setRtr i x).qtr k = s.qtr k) ∧ (∀ k, (s.setRtr i x).reg k = s.reg k) ∧
    (∀ k, (s.setRtr i x).ctr k = s.ctr k) ∧ (∀ k n, (s.setRtr i x).read k n = s.read k n) ∧
    (∀ b, (s.setRtr i x).inst b = s.inst b) := by
  repeat' (first | rfl | intro _ | constructor)

@[simp] theorem setRtr_self (s : State) (i : Nat) (x : Router) : (s.setRtr i x).rtr i = x := by simp [setRtr, rtr]

theorem setRtr_rtr (s : State) (i j : Nat) (x : Router) : (s.setRtr i x).rtr j = if j = i then x else s.rtr j := by
  simp [setRtr, rtr, findD_putAt]

/-- What setMr leaves as it is: every other field. -/
@[simp] theorem setMr_fields (s : State) (i : Nat) (x : Stack) :
    (s.setMr i x).pending = s.pending ∧ (s.setMr i x).fab = s.fab ∧ (s.setMr i x).regs = s.regs ∧
    (s.setMr i x).mem = s.mem ∧ (s.setMr i x).fresh = s.fresh ∧ (s.setMr i x).clusters = s.clusters ∧
    (s.setMr i x).units = s.units ∧ (s.setMr i x).buckets = s.buckets ∧ (s.setMr i x).regions = s.regions ∧
    (s.setMr i x).dies = s.dies ∧ (s.setMr i x).routers = s.routers ∧ (s.setMr i x).links = s.links ∧
    (s.setMr i x).flights = s.flights ∧ (s.setMr i x).keepers = s.keepers ∧ (s.setMr i x).ports = s.ports ∧
    (s.setMr i x).edges = s.edges ∧ (s.setMr i x).parts = s.parts ∧ (s.setMr i x).fields = s.fields ∧
    (s.setMr i x).quarters = s.quarters ∧ (s.setMr i x).mgr = s.mgr ∧ (s.setMr i x).instA = s.instA ∧
    (s.setMr i x).instB = s.instB ∧ (s.setMr i x).power = s.power ∧ (s.setMr i x).sec = s.sec ∧ (s.setMr i x).out = s.out := by
  repeat' (first | rfl | intro _ | constructor)

/-- What setMr leaves as it is: every other record. -/
@[simp] theorem setMr_records (s : State) (i : Nat) (x : Stack) :
    (∀ k, (s.setMr i x).cl k = s.cl k) ∧ (∀ k, (s.setMr i x).un k = s.un k) ∧ (∀ k, (s.setMr i x).rtr k = s.rtr k) ∧
    (∀ k, (s.setMr i x).bucket k = s.bucket k) ∧ (∀ k, (s.setMr i x).rgn k = s.rgn k) ∧
    (∀ k, (s.setMr i x).die k = s.die k) ∧ (∀ k, (s.setMr i x).link k = s.link k) ∧
    (∀ k, (s.setMr i x).keeper k = s.keeper k) ∧ (∀ k, (s.setMr i x).port k = s.port k) ∧
    (∀ k, (s.setMr i x).edge k = s.edge k) ∧ (∀ k, (s.setMr i x).fld k = s.fld k) ∧
    (∀ k, (s.setMr i x).qtr k = s.qtr k) ∧ (∀ k, (s.setMr i x).reg k = s.reg k) ∧ (∀ k, (s.setMr i x).ctr k = s.ctr k) ∧
    (∀ k n, (s.setMr i x).read k n = s.read k n) ∧ (∀ b, (s.setMr i x).inst b = s.inst b) := by
  repeat' (first | rfl | intro _ | constructor)

@[simp] theorem setMr_self (s : State) (i : Nat) (x : Stack) : (s.setMr i x).mr i = x := by simp [setMr, mr]

theorem setMr_mr (s : State) (i j : Nat) (x : Stack) : (s.setMr i x).mr j = if j = i then x else s.mr j := by
  simp [setMr, mr, findD_putAt]

/-- What setBucket leaves as it is: every other field. -/
@[simp] theorem setBucket_fields (s : State) (i : Nat) (x : Bucket) :
    (s.setBucket i x).pending = s.pending ∧ (s.setBucket i x).fab = s.fab ∧ (s.setBucket i x).regs = s.regs ∧
    (s.setBucket i x).mem = s.mem ∧ (s.setBucket i x).fresh = s.fresh ∧ (s.setBucket i x).clusters = s.clusters ∧
    (s.setBucket i x).units = s.units ∧ (s.setBucket i x).regions = s.regions ∧ (s.setBucket i x).dies = s.dies ∧
    (s.setBucket i x).routers = s.routers ∧ (s.setBucket i x).links = s.links ∧ (s.setBucket i x).flights = s.flights ∧
    (s.setBucket i x).keepers = s.keepers ∧ (s.setBucket i x).mrs = s.mrs ∧ (s.setBucket i x).ports = s.ports ∧
    (s.setBucket i x).edges = s.edges ∧ (s.setBucket i x).parts = s.parts ∧ (s.setBucket i x).fields = s.fields ∧
    (s.setBucket i x).quarters = s.quarters ∧ (s.setBucket i x).mgr = s.mgr ∧ (s.setBucket i x).instA = s.instA ∧
    (s.setBucket i x).instB = s.instB ∧ (s.setBucket i x).power = s.power ∧ (s.setBucket i x).sec = s.sec ∧
    (s.setBucket i x).out = s.out := by
  repeat' (first | rfl | intro _ | constructor)

/-- What setBucket leaves as it is: every other record. -/
@[simp] theorem setBucket_records (s : State) (i : Nat) (x : Bucket) :
    (∀ k, (s.setBucket i x).cl k = s.cl k) ∧ (∀ k, (s.setBucket i x).un k = s.un k) ∧
    (∀ k, (s.setBucket i x).rtr k = s.rtr k) ∧ (∀ k, (s.setBucket i x).mr k = s.mr k) ∧
    (∀ k, (s.setBucket i x).rgn k = s.rgn k) ∧ (∀ k, (s.setBucket i x).die k = s.die k) ∧
    (∀ k, (s.setBucket i x).link k = s.link k) ∧ (∀ k, (s.setBucket i x).keeper k = s.keeper k) ∧
    (∀ k, (s.setBucket i x).port k = s.port k) ∧ (∀ k, (s.setBucket i x).edge k = s.edge k) ∧
    (∀ k, (s.setBucket i x).fld k = s.fld k) ∧ (∀ k, (s.setBucket i x).qtr k = s.qtr k) ∧
    (∀ k, (s.setBucket i x).reg k = s.reg k) ∧ (∀ k, (s.setBucket i x).ctr k = s.ctr k) ∧
    (∀ k n, (s.setBucket i x).read k n = s.read k n) ∧ (∀ b, (s.setBucket i x).inst b = s.inst b) := by
  repeat' (first | rfl | intro _ | constructor)

@[simp] theorem setBucket_self (s : State) (i : Nat) (x : Bucket) : (s.setBucket i x).bucket i = x := by simp [setBucket, bucket]

theorem setBucket_bucket (s : State) (i j : Nat) (x : Bucket) : (s.setBucket i x).bucket j = if j = i then x else s.bucket j := by
  simp [setBucket, bucket, findD_putAt]

/-- What setRgn leaves as it is: every other field. -/
@[simp] theorem setRgn_fields (s : State) (i : Nat) (x : Region) :
    (s.setRgn i x).pending = s.pending ∧ (s.setRgn i x).fab = s.fab ∧ (s.setRgn i x).regs = s.regs ∧
    (s.setRgn i x).mem = s.mem ∧ (s.setRgn i x).fresh = s.fresh ∧ (s.setRgn i x).clusters = s.clusters ∧
    (s.setRgn i x).units = s.units ∧ (s.setRgn i x).buckets = s.buckets ∧ (s.setRgn i x).dies = s.dies ∧
    (s.setRgn i x).routers = s.routers ∧ (s.setRgn i x).links = s.links ∧ (s.setRgn i x).flights = s.flights ∧
    (s.setRgn i x).keepers = s.keepers ∧ (s.setRgn i x).mrs = s.mrs ∧ (s.setRgn i x).ports = s.ports ∧
    (s.setRgn i x).edges = s.edges ∧ (s.setRgn i x).parts = s.parts ∧ (s.setRgn i x).fields = s.fields ∧
    (s.setRgn i x).quarters = s.quarters ∧ (s.setRgn i x).mgr = s.mgr ∧ (s.setRgn i x).instA = s.instA ∧
    (s.setRgn i x).instB = s.instB ∧ (s.setRgn i x).power = s.power ∧ (s.setRgn i x).sec = s.sec ∧
    (s.setRgn i x).out = s.out := by
  repeat' (first | rfl | intro _ | constructor)

/-- What setRgn leaves as it is: every other record. -/
@[simp] theorem setRgn_records (s : State) (i : Nat) (x : Region) :
    (∀ k, (s.setRgn i x).cl k = s.cl k) ∧ (∀ k, (s.setRgn i x).un k = s.un k) ∧ (∀ k, (s.setRgn i x).rtr k = s.rtr k) ∧
    (∀ k, (s.setRgn i x).mr k = s.mr k) ∧ (∀ k, (s.setRgn i x).bucket k = s.bucket k) ∧
    (∀ k, (s.setRgn i x).die k = s.die k) ∧ (∀ k, (s.setRgn i x).link k = s.link k) ∧
    (∀ k, (s.setRgn i x).keeper k = s.keeper k) ∧ (∀ k, (s.setRgn i x).port k = s.port k) ∧
    (∀ k, (s.setRgn i x).edge k = s.edge k) ∧ (∀ k, (s.setRgn i x).fld k = s.fld k) ∧
    (∀ k, (s.setRgn i x).qtr k = s.qtr k) ∧ (∀ k, (s.setRgn i x).reg k = s.reg k) ∧
    (∀ k, (s.setRgn i x).ctr k = s.ctr k) ∧ (∀ k n, (s.setRgn i x).read k n = s.read k n) ∧
    (∀ b, (s.setRgn i x).inst b = s.inst b) := by
  repeat' (first | rfl | intro _ | constructor)

@[simp] theorem setRgn_self (s : State) (i : Nat) (x : Region) : (s.setRgn i x).rgn i = x := by simp [setRgn, rgn]

theorem setRgn_rgn (s : State) (i j : Nat) (x : Region) : (s.setRgn i x).rgn j = if j = i then x else s.rgn j := by
  simp [setRgn, rgn, findD_putAt]

/-- What setDie leaves as it is: every other field. -/
@[simp] theorem setDie_fields (s : State) (i : Nat) (x : Die) :
    (s.setDie i x).pending = s.pending ∧ (s.setDie i x).fab = s.fab ∧ (s.setDie i x).regs = s.regs ∧
    (s.setDie i x).mem = s.mem ∧ (s.setDie i x).fresh = s.fresh ∧ (s.setDie i x).clusters = s.clusters ∧
    (s.setDie i x).units = s.units ∧ (s.setDie i x).buckets = s.buckets ∧ (s.setDie i x).regions = s.regions ∧
    (s.setDie i x).routers = s.routers ∧ (s.setDie i x).links = s.links ∧ (s.setDie i x).flights = s.flights ∧
    (s.setDie i x).keepers = s.keepers ∧ (s.setDie i x).mrs = s.mrs ∧ (s.setDie i x).ports = s.ports ∧
    (s.setDie i x).edges = s.edges ∧ (s.setDie i x).parts = s.parts ∧ (s.setDie i x).fields = s.fields ∧
    (s.setDie i x).quarters = s.quarters ∧ (s.setDie i x).mgr = s.mgr ∧ (s.setDie i x).instA = s.instA ∧
    (s.setDie i x).instB = s.instB ∧ (s.setDie i x).power = s.power ∧ (s.setDie i x).sec = s.sec ∧
    (s.setDie i x).out = s.out := by
  repeat' (first | rfl | intro _ | constructor)

/-- What setDie leaves as it is: every other record. -/
@[simp] theorem setDie_records (s : State) (i : Nat) (x : Die) :
    (∀ k, (s.setDie i x).cl k = s.cl k) ∧ (∀ k, (s.setDie i x).un k = s.un k) ∧ (∀ k, (s.setDie i x).rtr k = s.rtr k) ∧
    (∀ k, (s.setDie i x).mr k = s.mr k) ∧ (∀ k, (s.setDie i x).bucket k = s.bucket k) ∧
    (∀ k, (s.setDie i x).rgn k = s.rgn k) ∧ (∀ k, (s.setDie i x).link k = s.link k) ∧
    (∀ k, (s.setDie i x).keeper k = s.keeper k) ∧ (∀ k, (s.setDie i x).port k = s.port k) ∧
    (∀ k, (s.setDie i x).edge k = s.edge k) ∧ (∀ k, (s.setDie i x).fld k = s.fld k) ∧
    (∀ k, (s.setDie i x).qtr k = s.qtr k) ∧ (∀ k, (s.setDie i x).reg k = s.reg k) ∧
    (∀ k, (s.setDie i x).ctr k = s.ctr k) ∧ (∀ k n, (s.setDie i x).read k n = s.read k n) ∧
    (∀ b, (s.setDie i x).inst b = s.inst b) := by
  repeat' (first | rfl | intro _ | constructor)

@[simp] theorem setDie_self (s : State) (i : Nat) (x : Die) : (s.setDie i x).die i = x := by simp [setDie, die]

theorem setDie_die (s : State) (i j : Nat) (x : Die) : (s.setDie i x).die j = if j = i then x else s.die j := by
  simp [setDie, die, findD_putAt]

/-- What setLink leaves as it is: every other field. -/
@[simp] theorem setLink_fields (s : State) (i : Nat) (x : Link) :
    (s.setLink i x).pending = s.pending ∧ (s.setLink i x).fab = s.fab ∧ (s.setLink i x).regs = s.regs ∧
    (s.setLink i x).mem = s.mem ∧ (s.setLink i x).fresh = s.fresh ∧ (s.setLink i x).clusters = s.clusters ∧
    (s.setLink i x).units = s.units ∧ (s.setLink i x).buckets = s.buckets ∧ (s.setLink i x).regions = s.regions ∧
    (s.setLink i x).dies = s.dies ∧ (s.setLink i x).routers = s.routers ∧ (s.setLink i x).flights = s.flights ∧
    (s.setLink i x).keepers = s.keepers ∧ (s.setLink i x).mrs = s.mrs ∧ (s.setLink i x).ports = s.ports ∧
    (s.setLink i x).edges = s.edges ∧ (s.setLink i x).parts = s.parts ∧ (s.setLink i x).fields = s.fields ∧
    (s.setLink i x).quarters = s.quarters ∧ (s.setLink i x).mgr = s.mgr ∧ (s.setLink i x).instA = s.instA ∧
    (s.setLink i x).instB = s.instB ∧ (s.setLink i x).power = s.power ∧ (s.setLink i x).sec = s.sec ∧
    (s.setLink i x).out = s.out := by
  repeat' (first | rfl | intro _ | constructor)

/-- What setLink leaves as it is: every other record. -/
@[simp] theorem setLink_records (s : State) (i : Nat) (x : Link) :
    (∀ k, (s.setLink i x).cl k = s.cl k) ∧ (∀ k, (s.setLink i x).un k = s.un k) ∧
    (∀ k, (s.setLink i x).rtr k = s.rtr k) ∧ (∀ k, (s.setLink i x).mr k = s.mr k) ∧
    (∀ k, (s.setLink i x).bucket k = s.bucket k) ∧ (∀ k, (s.setLink i x).rgn k = s.rgn k) ∧
    (∀ k, (s.setLink i x).die k = s.die k) ∧ (∀ k, (s.setLink i x).keeper k = s.keeper k) ∧
    (∀ k, (s.setLink i x).port k = s.port k) ∧ (∀ k, (s.setLink i x).edge k = s.edge k) ∧
    (∀ k, (s.setLink i x).fld k = s.fld k) ∧ (∀ k, (s.setLink i x).qtr k = s.qtr k) ∧
    (∀ k, (s.setLink i x).reg k = s.reg k) ∧ (∀ k, (s.setLink i x).ctr k = s.ctr k) ∧
    (∀ k n, (s.setLink i x).read k n = s.read k n) ∧ (∀ b, (s.setLink i x).inst b = s.inst b) := by
  repeat' (first | rfl | intro _ | constructor)

@[simp] theorem setLink_self (s : State) (i : Nat) (x : Link) : (s.setLink i x).link i = x := by simp [setLink, link]

theorem setLink_link (s : State) (i j : Nat) (x : Link) : (s.setLink i x).link j = if j = i then x else s.link j := by
  simp [setLink, link, findD_putAt]

/-- What setKeeper leaves as it is: every other field. -/
@[simp] theorem setKeeper_fields (s : State) (i : Nat) (x : Keeper) :
    (s.setKeeper i x).pending = s.pending ∧ (s.setKeeper i x).fab = s.fab ∧ (s.setKeeper i x).regs = s.regs ∧
    (s.setKeeper i x).mem = s.mem ∧ (s.setKeeper i x).fresh = s.fresh ∧ (s.setKeeper i x).clusters = s.clusters ∧
    (s.setKeeper i x).units = s.units ∧ (s.setKeeper i x).buckets = s.buckets ∧ (s.setKeeper i x).regions = s.regions ∧
    (s.setKeeper i x).dies = s.dies ∧ (s.setKeeper i x).routers = s.routers ∧ (s.setKeeper i x).links = s.links ∧
    (s.setKeeper i x).flights = s.flights ∧ (s.setKeeper i x).mrs = s.mrs ∧ (s.setKeeper i x).ports = s.ports ∧
    (s.setKeeper i x).edges = s.edges ∧ (s.setKeeper i x).parts = s.parts ∧ (s.setKeeper i x).fields = s.fields ∧
    (s.setKeeper i x).quarters = s.quarters ∧ (s.setKeeper i x).mgr = s.mgr ∧ (s.setKeeper i x).instA = s.instA ∧
    (s.setKeeper i x).instB = s.instB ∧ (s.setKeeper i x).power = s.power ∧ (s.setKeeper i x).sec = s.sec ∧
    (s.setKeeper i x).out = s.out := by
  repeat' (first | rfl | intro _ | constructor)

/-- What setKeeper leaves as it is: every other record. -/
@[simp] theorem setKeeper_records (s : State) (i : Nat) (x : Keeper) :
    (∀ k, (s.setKeeper i x).cl k = s.cl k) ∧ (∀ k, (s.setKeeper i x).un k = s.un k) ∧
    (∀ k, (s.setKeeper i x).rtr k = s.rtr k) ∧ (∀ k, (s.setKeeper i x).mr k = s.mr k) ∧
    (∀ k, (s.setKeeper i x).bucket k = s.bucket k) ∧ (∀ k, (s.setKeeper i x).rgn k = s.rgn k) ∧
    (∀ k, (s.setKeeper i x).die k = s.die k) ∧ (∀ k, (s.setKeeper i x).link k = s.link k) ∧
    (∀ k, (s.setKeeper i x).port k = s.port k) ∧ (∀ k, (s.setKeeper i x).edge k = s.edge k) ∧
    (∀ k, (s.setKeeper i x).fld k = s.fld k) ∧ (∀ k, (s.setKeeper i x).qtr k = s.qtr k) ∧
    (∀ k, (s.setKeeper i x).reg k = s.reg k) ∧ (∀ k, (s.setKeeper i x).ctr k = s.ctr k) ∧
    (∀ k n, (s.setKeeper i x).read k n = s.read k n) ∧ (∀ b, (s.setKeeper i x).inst b = s.inst b) := by
  repeat' (first | rfl | intro _ | constructor)

@[simp] theorem setKeeper_self (s : State) (i : Nat) (x : Keeper) : (s.setKeeper i x).keeper i = x := by simp [setKeeper, keeper]

theorem setKeeper_keeper (s : State) (i j : Nat) (x : Keeper) : (s.setKeeper i x).keeper j = if j = i then x else s.keeper j := by
  simp [setKeeper, keeper, findD_putAt]

/-- What setPort leaves as it is: every other field. -/
@[simp] theorem setPort_fields (s : State) (i : Nat) (x : Port) :
    (s.setPort i x).pending = s.pending ∧ (s.setPort i x).fab = s.fab ∧ (s.setPort i x).regs = s.regs ∧
    (s.setPort i x).mem = s.mem ∧ (s.setPort i x).fresh = s.fresh ∧ (s.setPort i x).clusters = s.clusters ∧
    (s.setPort i x).units = s.units ∧ (s.setPort i x).buckets = s.buckets ∧ (s.setPort i x).regions = s.regions ∧
    (s.setPort i x).dies = s.dies ∧ (s.setPort i x).routers = s.routers ∧ (s.setPort i x).links = s.links ∧
    (s.setPort i x).flights = s.flights ∧ (s.setPort i x).keepers = s.keepers ∧ (s.setPort i x).mrs = s.mrs ∧
    (s.setPort i x).edges = s.edges ∧ (s.setPort i x).parts = s.parts ∧ (s.setPort i x).fields = s.fields ∧
    (s.setPort i x).quarters = s.quarters ∧ (s.setPort i x).mgr = s.mgr ∧ (s.setPort i x).instA = s.instA ∧
    (s.setPort i x).instB = s.instB ∧ (s.setPort i x).power = s.power ∧ (s.setPort i x).sec = s.sec ∧
    (s.setPort i x).out = s.out := by
  repeat' (first | rfl | intro _ | constructor)

/-- What setPort leaves as it is: every other record. -/
@[simp] theorem setPort_records (s : State) (i : Nat) (x : Port) :
    (∀ k, (s.setPort i x).cl k = s.cl k) ∧ (∀ k, (s.setPort i x).un k = s.un k) ∧
    (∀ k, (s.setPort i x).rtr k = s.rtr k) ∧ (∀ k, (s.setPort i x).mr k = s.mr k) ∧
    (∀ k, (s.setPort i x).bucket k = s.bucket k) ∧ (∀ k, (s.setPort i x).rgn k = s.rgn k) ∧
    (∀ k, (s.setPort i x).die k = s.die k) ∧ (∀ k, (s.setPort i x).link k = s.link k) ∧
    (∀ k, (s.setPort i x).keeper k = s.keeper k) ∧ (∀ k, (s.setPort i x).edge k = s.edge k) ∧
    (∀ k, (s.setPort i x).fld k = s.fld k) ∧ (∀ k, (s.setPort i x).qtr k = s.qtr k) ∧
    (∀ k, (s.setPort i x).reg k = s.reg k) ∧ (∀ k, (s.setPort i x).ctr k = s.ctr k) ∧
    (∀ k n, (s.setPort i x).read k n = s.read k n) ∧ (∀ b, (s.setPort i x).inst b = s.inst b) := by
  repeat' (first | rfl | intro _ | constructor)

@[simp] theorem setPort_self (s : State) (i : Nat) (x : Port) : (s.setPort i x).port i = x := by simp [setPort, port]

theorem setPort_port (s : State) (i j : Nat) (x : Port) : (s.setPort i x).port j = if j = i then x else s.port j := by
  simp [setPort, port, findD_putAt]

/-- What setEdge leaves as it is: every other field. -/
@[simp] theorem setEdge_fields (s : State) (i : Nat) (x : Edge) :
    (s.setEdge i x).pending = s.pending ∧ (s.setEdge i x).fab = s.fab ∧ (s.setEdge i x).regs = s.regs ∧
    (s.setEdge i x).mem = s.mem ∧ (s.setEdge i x).fresh = s.fresh ∧ (s.setEdge i x).clusters = s.clusters ∧
    (s.setEdge i x).units = s.units ∧ (s.setEdge i x).buckets = s.buckets ∧ (s.setEdge i x).regions = s.regions ∧
    (s.setEdge i x).dies = s.dies ∧ (s.setEdge i x).routers = s.routers ∧ (s.setEdge i x).links = s.links ∧
    (s.setEdge i x).flights = s.flights ∧ (s.setEdge i x).keepers = s.keepers ∧ (s.setEdge i x).mrs = s.mrs ∧
    (s.setEdge i x).ports = s.ports ∧ (s.setEdge i x).parts = s.parts ∧ (s.setEdge i x).fields = s.fields ∧
    (s.setEdge i x).quarters = s.quarters ∧ (s.setEdge i x).mgr = s.mgr ∧ (s.setEdge i x).instA = s.instA ∧
    (s.setEdge i x).instB = s.instB ∧ (s.setEdge i x).power = s.power ∧ (s.setEdge i x).sec = s.sec ∧
    (s.setEdge i x).out = s.out := by
  repeat' (first | rfl | intro _ | constructor)

/-- What setEdge leaves as it is: every other record. -/
@[simp] theorem setEdge_records (s : State) (i : Nat) (x : Edge) :
    (∀ k, (s.setEdge i x).cl k = s.cl k) ∧ (∀ k, (s.setEdge i x).un k = s.un k) ∧
    (∀ k, (s.setEdge i x).rtr k = s.rtr k) ∧ (∀ k, (s.setEdge i x).mr k = s.mr k) ∧
    (∀ k, (s.setEdge i x).bucket k = s.bucket k) ∧ (∀ k, (s.setEdge i x).rgn k = s.rgn k) ∧
    (∀ k, (s.setEdge i x).die k = s.die k) ∧ (∀ k, (s.setEdge i x).link k = s.link k) ∧
    (∀ k, (s.setEdge i x).keeper k = s.keeper k) ∧ (∀ k, (s.setEdge i x).port k = s.port k) ∧
    (∀ k, (s.setEdge i x).fld k = s.fld k) ∧ (∀ k, (s.setEdge i x).qtr k = s.qtr k) ∧
    (∀ k, (s.setEdge i x).reg k = s.reg k) ∧ (∀ k, (s.setEdge i x).ctr k = s.ctr k) ∧
    (∀ k n, (s.setEdge i x).read k n = s.read k n) ∧ (∀ b, (s.setEdge i x).inst b = s.inst b) := by
  repeat' (first | rfl | intro _ | constructor)

@[simp] theorem setEdge_self (s : State) (i : Nat) (x : Edge) : (s.setEdge i x).edge i = x := by simp [setEdge, edge]

theorem setEdge_edge (s : State) (i j : Nat) (x : Edge) : (s.setEdge i x).edge j = if j = i then x else s.edge j := by
  simp [setEdge, edge, findD_putAt]

/-- What setFld leaves as it is: every other field. -/
@[simp] theorem setFld_fields (s : State) (i : Nat) (x : Field) :
    (s.setFld i x).pending = s.pending ∧ (s.setFld i x).fab = s.fab ∧ (s.setFld i x).regs = s.regs ∧
    (s.setFld i x).mem = s.mem ∧ (s.setFld i x).fresh = s.fresh ∧ (s.setFld i x).clusters = s.clusters ∧
    (s.setFld i x).units = s.units ∧ (s.setFld i x).buckets = s.buckets ∧ (s.setFld i x).regions = s.regions ∧
    (s.setFld i x).dies = s.dies ∧ (s.setFld i x).routers = s.routers ∧ (s.setFld i x).links = s.links ∧
    (s.setFld i x).flights = s.flights ∧ (s.setFld i x).keepers = s.keepers ∧ (s.setFld i x).mrs = s.mrs ∧
    (s.setFld i x).ports = s.ports ∧ (s.setFld i x).edges = s.edges ∧ (s.setFld i x).parts = s.parts ∧
    (s.setFld i x).quarters = s.quarters ∧ (s.setFld i x).mgr = s.mgr ∧ (s.setFld i x).instA = s.instA ∧
    (s.setFld i x).instB = s.instB ∧ (s.setFld i x).power = s.power ∧ (s.setFld i x).sec = s.sec ∧
    (s.setFld i x).out = s.out := by
  repeat' (first | rfl | intro _ | constructor)

/-- What setFld leaves as it is: every other record. -/
@[simp] theorem setFld_records (s : State) (i : Nat) (x : Field) :
    (∀ k, (s.setFld i x).cl k = s.cl k) ∧ (∀ k, (s.setFld i x).un k = s.un k) ∧ (∀ k, (s.setFld i x).rtr k = s.rtr k) ∧
    (∀ k, (s.setFld i x).mr k = s.mr k) ∧ (∀ k, (s.setFld i x).bucket k = s.bucket k) ∧
    (∀ k, (s.setFld i x).rgn k = s.rgn k) ∧ (∀ k, (s.setFld i x).die k = s.die k) ∧
    (∀ k, (s.setFld i x).link k = s.link k) ∧ (∀ k, (s.setFld i x).keeper k = s.keeper k) ∧
    (∀ k, (s.setFld i x).port k = s.port k) ∧ (∀ k, (s.setFld i x).edge k = s.edge k) ∧
    (∀ k, (s.setFld i x).qtr k = s.qtr k) ∧ (∀ k, (s.setFld i x).reg k = s.reg k) ∧
    (∀ k, (s.setFld i x).ctr k = s.ctr k) ∧ (∀ k n, (s.setFld i x).read k n = s.read k n) ∧
    (∀ b, (s.setFld i x).inst b = s.inst b) := by
  repeat' (first | rfl | intro _ | constructor)

@[simp] theorem setFld_self (s : State) (i : Nat) (x : Field) : (s.setFld i x).fld i = x := by simp [setFld, fld]

theorem setFld_fld (s : State) (i j : Nat) (x : Field) : (s.setFld i x).fld j = if j = i then x else s.fld j := by
  simp [setFld, fld, findD_putAt]

/-- What setQtr leaves as it is: every other field. -/
@[simp] theorem setQtr_fields (s : State) (i : Nat) (x : Quarter) :
    (s.setQtr i x).pending = s.pending ∧ (s.setQtr i x).fab = s.fab ∧ (s.setQtr i x).regs = s.regs ∧
    (s.setQtr i x).mem = s.mem ∧ (s.setQtr i x).fresh = s.fresh ∧ (s.setQtr i x).clusters = s.clusters ∧
    (s.setQtr i x).units = s.units ∧ (s.setQtr i x).buckets = s.buckets ∧ (s.setQtr i x).regions = s.regions ∧
    (s.setQtr i x).dies = s.dies ∧ (s.setQtr i x).routers = s.routers ∧ (s.setQtr i x).links = s.links ∧
    (s.setQtr i x).flights = s.flights ∧ (s.setQtr i x).keepers = s.keepers ∧ (s.setQtr i x).mrs = s.mrs ∧
    (s.setQtr i x).ports = s.ports ∧ (s.setQtr i x).edges = s.edges ∧ (s.setQtr i x).parts = s.parts ∧
    (s.setQtr i x).fields = s.fields ∧ (s.setQtr i x).mgr = s.mgr ∧ (s.setQtr i x).instA = s.instA ∧
    (s.setQtr i x).instB = s.instB ∧ (s.setQtr i x).power = s.power ∧ (s.setQtr i x).sec = s.sec ∧
    (s.setQtr i x).out = s.out := by
  repeat' (first | rfl | intro _ | constructor)

/-- What setQtr leaves as it is: every other record. -/
@[simp] theorem setQtr_records (s : State) (i : Nat) (x : Quarter) :
    (∀ k, (s.setQtr i x).cl k = s.cl k) ∧ (∀ k, (s.setQtr i x).un k = s.un k) ∧ (∀ k, (s.setQtr i x).rtr k = s.rtr k) ∧
    (∀ k, (s.setQtr i x).mr k = s.mr k) ∧ (∀ k, (s.setQtr i x).bucket k = s.bucket k) ∧
    (∀ k, (s.setQtr i x).rgn k = s.rgn k) ∧ (∀ k, (s.setQtr i x).die k = s.die k) ∧
    (∀ k, (s.setQtr i x).link k = s.link k) ∧ (∀ k, (s.setQtr i x).keeper k = s.keeper k) ∧
    (∀ k, (s.setQtr i x).port k = s.port k) ∧ (∀ k, (s.setQtr i x).edge k = s.edge k) ∧
    (∀ k, (s.setQtr i x).fld k = s.fld k) ∧ (∀ k, (s.setQtr i x).reg k = s.reg k) ∧
    (∀ k, (s.setQtr i x).ctr k = s.ctr k) ∧ (∀ k n, (s.setQtr i x).read k n = s.read k n) ∧
    (∀ b, (s.setQtr i x).inst b = s.inst b) := by
  repeat' (first | rfl | intro _ | constructor)

@[simp] theorem setQtr_self (s : State) (i : Nat) (x : Quarter) : (s.setQtr i x).qtr i = x := by simp [setQtr, qtr]

theorem setQtr_qtr (s : State) (i j : Nat) (x : Quarter) : (s.setQtr i x).qtr j = if j = i then x else s.qtr j := by
  simp [setQtr, qtr, findD_putAt]

/-- What modMgr leaves as it is: every other field. -/
@[simp] theorem modMgr_fields (s : State) (f : Manager → Manager) :
    (s.modMgr f).pending = s.pending ∧ (s.modMgr f).fab = s.fab ∧ (s.modMgr f).regs = s.regs ∧ (s.modMgr f).mem = s.mem ∧
    (s.modMgr f).fresh = s.fresh ∧ (s.modMgr f).clusters = s.clusters ∧ (s.modMgr f).units = s.units ∧
    (s.modMgr f).buckets = s.buckets ∧ (s.modMgr f).regions = s.regions ∧ (s.modMgr f).dies = s.dies ∧
    (s.modMgr f).routers = s.routers ∧ (s.modMgr f).links = s.links ∧ (s.modMgr f).flights = s.flights ∧
    (s.modMgr f).keepers = s.keepers ∧ (s.modMgr f).mrs = s.mrs ∧ (s.modMgr f).ports = s.ports ∧
    (s.modMgr f).edges = s.edges ∧ (s.modMgr f).parts = s.parts ∧ (s.modMgr f).fields = s.fields ∧
    (s.modMgr f).quarters = s.quarters ∧ (s.modMgr f).instA = s.instA ∧ (s.modMgr f).instB = s.instB ∧
    (s.modMgr f).power = s.power ∧ (s.modMgr f).sec = s.sec ∧ (s.modMgr f).out = s.out := by
  repeat' (first | rfl | intro _ | constructor)

/-- What modMgr leaves as it is: every other record. -/
@[simp] theorem modMgr_records (s : State) (f : Manager → Manager) :
    (∀ k, (s.modMgr f).cl k = s.cl k) ∧ (∀ k, (s.modMgr f).un k = s.un k) ∧ (∀ k, (s.modMgr f).rtr k = s.rtr k) ∧
    (∀ k, (s.modMgr f).mr k = s.mr k) ∧ (∀ k, (s.modMgr f).bucket k = s.bucket k) ∧ (∀ k, (s.modMgr f).rgn k = s.rgn k) ∧
    (∀ k, (s.modMgr f).die k = s.die k) ∧ (∀ k, (s.modMgr f).link k = s.link k) ∧
    (∀ k, (s.modMgr f).keeper k = s.keeper k) ∧ (∀ k, (s.modMgr f).port k = s.port k) ∧
    (∀ k, (s.modMgr f).edge k = s.edge k) ∧ (∀ k, (s.modMgr f).fld k = s.fld k) ∧ (∀ k, (s.modMgr f).qtr k = s.qtr k) ∧
    (∀ k, (s.modMgr f).reg k = s.reg k) ∧ (∀ k, (s.modMgr f).ctr k = s.ctr k) ∧
    (∀ k n, (s.modMgr f).read k n = s.read k n) ∧ (∀ b, (s.modMgr f).inst b = s.inst b) := by
  repeat' (first | rfl | intro _ | constructor)

@[simp] theorem modMgr_mgr (s : State) (f : Manager → Manager) : (s.modMgr f).mgr = f s.mgr := rfl

/-- What emit leaves as it is: every other field. -/
@[simp] theorem emit_fields (s : State) (x : Output) :
    (s.emit x).pending = s.pending ∧ (s.emit x).fab = s.fab ∧ (s.emit x).regs = s.regs ∧ (s.emit x).mem = s.mem ∧
    (s.emit x).fresh = s.fresh ∧ (s.emit x).clusters = s.clusters ∧ (s.emit x).units = s.units ∧
    (s.emit x).buckets = s.buckets ∧ (s.emit x).regions = s.regions ∧ (s.emit x).dies = s.dies ∧
    (s.emit x).routers = s.routers ∧ (s.emit x).links = s.links ∧ (s.emit x).flights = s.flights ∧
    (s.emit x).keepers = s.keepers ∧ (s.emit x).mrs = s.mrs ∧ (s.emit x).ports = s.ports ∧ (s.emit x).edges = s.edges ∧
    (s.emit x).parts = s.parts ∧ (s.emit x).fields = s.fields ∧ (s.emit x).quarters = s.quarters ∧
    (s.emit x).mgr = s.mgr ∧ (s.emit x).instA = s.instA ∧ (s.emit x).instB = s.instB ∧ (s.emit x).power = s.power ∧
    (s.emit x).sec = s.sec := by
  repeat' (first | rfl | intro _ | constructor)

/-- What emit leaves as it is: every other record. -/
@[simp] theorem emit_records (s : State) (x : Output) :
    (∀ k, (s.emit x).cl k = s.cl k) ∧ (∀ k, (s.emit x).un k = s.un k) ∧ (∀ k, (s.emit x).rtr k = s.rtr k) ∧
    (∀ k, (s.emit x).mr k = s.mr k) ∧ (∀ k, (s.emit x).bucket k = s.bucket k) ∧ (∀ k, (s.emit x).rgn k = s.rgn k) ∧
    (∀ k, (s.emit x).die k = s.die k) ∧ (∀ k, (s.emit x).link k = s.link k) ∧ (∀ k, (s.emit x).keeper k = s.keeper k) ∧
    (∀ k, (s.emit x).port k = s.port k) ∧ (∀ k, (s.emit x).edge k = s.edge k) ∧ (∀ k, (s.emit x).fld k = s.fld k) ∧
    (∀ k, (s.emit x).qtr k = s.qtr k) ∧ (∀ k, (s.emit x).reg k = s.reg k) ∧ (∀ k, (s.emit x).ctr k = s.ctr k) ∧
    (∀ k n, (s.emit x).read k n = s.read k n) ∧ (∀ b, (s.emit x).inst b = s.inst b) := by
  repeat' (first | rfl | intro _ | constructor)

@[simp] theorem emit_out (s : State) (x : Output) : (s.emit x).out = x :: s.out := rfl

/-- What setReg leaves as it is: every other field. -/
@[simp] theorem setReg_fields (s : State) (a v : Nat) :
    (s.setReg a v).pending = s.pending ∧ (s.setReg a v).fab = s.fab ∧ (s.setReg a v).mem = s.mem ∧
    (s.setReg a v).fresh = s.fresh ∧ (s.setReg a v).clusters = s.clusters ∧ (s.setReg a v).units = s.units ∧
    (s.setReg a v).buckets = s.buckets ∧ (s.setReg a v).regions = s.regions ∧ (s.setReg a v).dies = s.dies ∧
    (s.setReg a v).routers = s.routers ∧ (s.setReg a v).links = s.links ∧ (s.setReg a v).flights = s.flights ∧
    (s.setReg a v).keepers = s.keepers ∧ (s.setReg a v).mrs = s.mrs ∧ (s.setReg a v).ports = s.ports ∧
    (s.setReg a v).edges = s.edges ∧ (s.setReg a v).parts = s.parts ∧ (s.setReg a v).fields = s.fields ∧
    (s.setReg a v).quarters = s.quarters ∧ (s.setReg a v).mgr = s.mgr ∧ (s.setReg a v).instA = s.instA ∧
    (s.setReg a v).instB = s.instB ∧ (s.setReg a v).power = s.power ∧ (s.setReg a v).sec = s.sec ∧
    (s.setReg a v).out = s.out := by
  repeat' (first | rfl | intro _ | constructor)

/-- What setReg leaves as it is: every other record. -/
@[simp] theorem setReg_records (s : State) (a v : Nat) :
    (∀ k, (s.setReg a v).cl k = s.cl k) ∧ (∀ k, (s.setReg a v).un k = s.un k) ∧ (∀ k, (s.setReg a v).rtr k = s.rtr k) ∧
    (∀ k, (s.setReg a v).mr k = s.mr k) ∧ (∀ k, (s.setReg a v).bucket k = s.bucket k) ∧
    (∀ k, (s.setReg a v).rgn k = s.rgn k) ∧ (∀ k, (s.setReg a v).die k = s.die k) ∧
    (∀ k, (s.setReg a v).link k = s.link k) ∧ (∀ k, (s.setReg a v).keeper k = s.keeper k) ∧
    (∀ k, (s.setReg a v).port k = s.port k) ∧ (∀ k, (s.setReg a v).edge k = s.edge k) ∧
    (∀ k, (s.setReg a v).fld k = s.fld k) ∧ (∀ k, (s.setReg a v).qtr k = s.qtr k) ∧
    (∀ k n, (s.setReg a v).read k n = s.read k n) ∧ (∀ b, (s.setReg a v).inst b = s.inst b) := by
  repeat' (first | rfl | intro _ | constructor)

@[simp] theorem setReg_self (s : State) (a v : Nat) : (s.setReg a v).reg a = v := by
  simp [setReg, reg, find?_putAt_self]

theorem setReg_reg (s : State) (a b v : Nat) : (s.setReg a v).reg b = if b = a then v else s.reg b := by
  unfold reg setReg
  by_cases h : b = a
  · subst h; simp [find?_putAt_self]
  · simp [find?_putAt_ne _ _ h, h]

/-- What write leaves as it is: every other field. -/
@[simp] theorem write_fields (s : State) (a : Nat) (bs : Bytes) :
    (s.write a bs).pending = s.pending ∧ (s.write a bs).fab = s.fab ∧ (s.write a bs).regs = s.regs ∧
    (s.write a bs).fresh = s.fresh ∧ (s.write a bs).clusters = s.clusters ∧ (s.write a bs).units = s.units ∧
    (s.write a bs).buckets = s.buckets ∧ (s.write a bs).regions = s.regions ∧ (s.write a bs).dies = s.dies ∧
    (s.write a bs).routers = s.routers ∧ (s.write a bs).links = s.links ∧ (s.write a bs).flights = s.flights ∧
    (s.write a bs).keepers = s.keepers ∧ (s.write a bs).mrs = s.mrs ∧ (s.write a bs).ports = s.ports ∧
    (s.write a bs).edges = s.edges ∧ (s.write a bs).parts = s.parts ∧ (s.write a bs).fields = s.fields ∧
    (s.write a bs).quarters = s.quarters ∧ (s.write a bs).mgr = s.mgr ∧ (s.write a bs).instA = s.instA ∧
    (s.write a bs).instB = s.instB ∧ (s.write a bs).power = s.power ∧ (s.write a bs).sec = s.sec ∧
    (s.write a bs).out = s.out := by
  repeat' (first | rfl | intro _ | constructor)

/-- What write leaves as it is: every other record. -/
@[simp] theorem write_records (s : State) (a : Nat) (bs : Bytes) :
    (∀ k, (s.write a bs).cl k = s.cl k) ∧ (∀ k, (s.write a bs).un k = s.un k) ∧ (∀ k, (s.write a bs).rtr k = s.rtr k) ∧
    (∀ k, (s.write a bs).mr k = s.mr k) ∧ (∀ k, (s.write a bs).bucket k = s.bucket k) ∧
    (∀ k, (s.write a bs).rgn k = s.rgn k) ∧ (∀ k, (s.write a bs).die k = s.die k) ∧
    (∀ k, (s.write a bs).link k = s.link k) ∧ (∀ k, (s.write a bs).keeper k = s.keeper k) ∧
    (∀ k, (s.write a bs).port k = s.port k) ∧ (∀ k, (s.write a bs).edge k = s.edge k) ∧
    (∀ k, (s.write a bs).fld k = s.fld k) ∧ (∀ k, (s.write a bs).qtr k = s.qtr k) ∧
    (∀ k, (s.write a bs).reg k = s.reg k) ∧ (∀ k, (s.write a bs).ctr k = s.ctr k) ∧
    (∀ b, (s.write a bs).inst b = s.inst b) := by
  repeat' (first | rfl | intro _ | constructor)

/-- What clear leaves as it is: every other field. -/
@[simp] theorem clear_fields (s : State) (a c : Nat) :
    (s.clear a c).pending = s.pending ∧ (s.clear a c).fab = s.fab ∧ (s.clear a c).regs = s.regs ∧
    (s.clear a c).fresh = s.fresh ∧ (s.clear a c).clusters = s.clusters ∧ (s.clear a c).units = s.units ∧
    (s.clear a c).buckets = s.buckets ∧ (s.clear a c).regions = s.regions ∧ (s.clear a c).dies = s.dies ∧
    (s.clear a c).routers = s.routers ∧ (s.clear a c).links = s.links ∧ (s.clear a c).flights = s.flights ∧
    (s.clear a c).keepers = s.keepers ∧ (s.clear a c).mrs = s.mrs ∧ (s.clear a c).ports = s.ports ∧
    (s.clear a c).edges = s.edges ∧ (s.clear a c).parts = s.parts ∧ (s.clear a c).fields = s.fields ∧
    (s.clear a c).quarters = s.quarters ∧ (s.clear a c).mgr = s.mgr ∧ (s.clear a c).instA = s.instA ∧
    (s.clear a c).instB = s.instB ∧ (s.clear a c).power = s.power ∧ (s.clear a c).sec = s.sec ∧ (s.clear a c).out = s.out := by
  repeat' (first | rfl | intro _ | constructor)

/-- What clear leaves as it is: every other record. -/
@[simp] theorem clear_records (s : State) (a c : Nat) :
    (∀ k, (s.clear a c).cl k = s.cl k) ∧ (∀ k, (s.clear a c).un k = s.un k) ∧ (∀ k, (s.clear a c).rtr k = s.rtr k) ∧
    (∀ k, (s.clear a c).mr k = s.mr k) ∧ (∀ k, (s.clear a c).bucket k = s.bucket k) ∧
    (∀ k, (s.clear a c).rgn k = s.rgn k) ∧ (∀ k, (s.clear a c).die k = s.die k) ∧
    (∀ k, (s.clear a c).link k = s.link k) ∧ (∀ k, (s.clear a c).keeper k = s.keeper k) ∧
    (∀ k, (s.clear a c).port k = s.port k) ∧ (∀ k, (s.clear a c).edge k = s.edge k) ∧
    (∀ k, (s.clear a c).fld k = s.fld k) ∧ (∀ k, (s.clear a c).qtr k = s.qtr k) ∧ (∀ k, (s.clear a c).reg k = s.reg k) ∧
    (∀ k, (s.clear a c).ctr k = s.ctr k) ∧ (∀ b, (s.clear a c).inst b = s.inst b) := by
  repeat' (first | rfl | intro _ | constructor)

/-- What bumpBy leaves as it is: every other field. -/
@[simp] theorem bumpBy_fields (s : State) (a n : Nat) :
    (s.bumpBy a n).pending = s.pending ∧ (s.bumpBy a n).fab = s.fab ∧ (s.bumpBy a n).mem = s.mem ∧
    (s.bumpBy a n).fresh = s.fresh ∧ (s.bumpBy a n).clusters = s.clusters ∧ (s.bumpBy a n).units = s.units ∧
    (s.bumpBy a n).buckets = s.buckets ∧ (s.bumpBy a n).regions = s.regions ∧ (s.bumpBy a n).dies = s.dies ∧
    (s.bumpBy a n).routers = s.routers ∧ (s.bumpBy a n).links = s.links ∧ (s.bumpBy a n).flights = s.flights ∧
    (s.bumpBy a n).keepers = s.keepers ∧ (s.bumpBy a n).mrs = s.mrs ∧ (s.bumpBy a n).ports = s.ports ∧
    (s.bumpBy a n).edges = s.edges ∧ (s.bumpBy a n).parts = s.parts ∧ (s.bumpBy a n).fields = s.fields ∧
    (s.bumpBy a n).quarters = s.quarters ∧ (s.bumpBy a n).mgr = s.mgr ∧ (s.bumpBy a n).instA = s.instA ∧
    (s.bumpBy a n).instB = s.instB ∧ (s.bumpBy a n).power = s.power ∧ (s.bumpBy a n).sec = s.sec ∧
    (s.bumpBy a n).out = s.out := by
  unfold bumpBy; split <;> repeat' (first | rfl | intro _ | constructor)

/-- What bumpBy leaves as it is: every other record. -/
@[simp] theorem bumpBy_records (s : State) (a n : Nat) :
    (∀ k, (s.bumpBy a n).cl k = s.cl k) ∧ (∀ k, (s.bumpBy a n).un k = s.un k) ∧ (∀ k, (s.bumpBy a n).rtr k = s.rtr k) ∧
    (∀ k, (s.bumpBy a n).mr k = s.mr k) ∧ (∀ k, (s.bumpBy a n).bucket k = s.bucket k) ∧
    (∀ k, (s.bumpBy a n).rgn k = s.rgn k) ∧ (∀ k, (s.bumpBy a n).die k = s.die k) ∧
    (∀ k, (s.bumpBy a n).link k = s.link k) ∧ (∀ k, (s.bumpBy a n).keeper k = s.keeper k) ∧
    (∀ k, (s.bumpBy a n).port k = s.port k) ∧ (∀ k, (s.bumpBy a n).edge k = s.edge k) ∧
    (∀ k, (s.bumpBy a n).fld k = s.fld k) ∧ (∀ k, (s.bumpBy a n).qtr k = s.qtr k) ∧
    (∀ k m, (s.bumpBy a n).read k m = s.read k m) ∧ (∀ b, (s.bumpBy a n).inst b = s.inst b) := by
  unfold bumpBy; split <;> repeat' (first | rfl | intro _ | constructor)

theorem bumpBy_ctr (s : State) (a b n : Nat) (h : s.ctr a ≤ 0xFFFFFFFFFFFF) :
    (s.bumpBy a n).ctr b = if b = a then min (s.ctr a + n) 0xFFFFFFFFFFFF else s.ctr b := by
  unfold bumpBy
  split
  · split
    · subst_vars; omega
    · rfl
  · simp [ctr, findD_putAt]

end Sys2Proof.Machine.State
end

