-- ==== Sys2Proof/Laws/Keep.lean ====
section
/-! SUPPORT. What every operation of the model keeps, whatever it does otherwise: the queue of commands, the canonical form
of the memory, what has been sent to the outside, the direction of time, the anti-rollback fuses and the revoked keys.  One
lemma `keep_f` for each operation `f` stands in the files Laws/Keep*.lean; the statements over every command follow from
them. -/

namespace Sys2Proof.Machine

/-- `s` comes after `r`: the queue is the same, a canonical memory stays canonical, outputs are only added, time does not run
backwards, fuses are only blown, keys only revoked. -/
structure Keep (r s : State) : Prop where
  pending : s.pending = r.pending
  mem : memWf r.mem = true → memWf s.mem = true
  out : r.out <:+ s.out
  fab : r.fab ≤ s.fab
  fuseA : r.instA.count ≤ s.instA.count
  fuseB : r.instB.count ≤ s.instB.count
  keys : ∀ k, bit r.sec.revoked k = true → bit s.sec.revoked k = true

theorem Keep.refl (s : State) : Keep s s := ⟨rfl, id, List.suffix_refl _, Nat.le_refl _, Nat.le_refl _, Nat.le_refl _, fun _ h => h⟩

/-- An update that leaves the seven things as they are. -/
theorem Keep.same {r s t : State} (h : Keep r s) (hp : t.pending = s.pending := by rfl) (hm : t.mem = s.mem := by rfl)
    (ho : t.out = s.out := by rfl) (hf : t.fab = s.fab := by rfl) (ha : t.instA.count = s.instA.count := by rfl)
    (hb : t.instB.count = s.instB.count := by rfl) (hk : t.sec.revoked = s.sec.revoked := by rfl) : Keep r t :=
  ⟨hp.trans h.pending, fun w => by rw [hm]; exact h.mem w, ho ▸ h.out, hf ▸ h.fab, ha ▸ h.fuseA, hb ▸ h.fuseB, hk ▸ h.keys⟩

/-- A command goes on, with everything kept. -/
def KeepRes (r : State) (o : Res) : Prop := ∃ t, o = .next t ∧ Keep r t

theorem KeepRes.of {r t : State} (h : Keep r t) : KeepRes r (.next t) := ⟨t, rfl, h⟩

theorem keep_when {r s t : State} (c : Bool) (hs : Keep r s) (ht : Keep r t) : KeepRes r (when_ c s t) := by
  cases c
  · exact ⟨s, rfl, hs⟩
  · exact ⟨t, rfl, ht⟩

theorem keep_foldl {α : Type} {r : State} (f : State → α → State) (hf : ∀ s a, Keep r s → Keep r (f s a)) (l : List α)
    (s : State) (h : Keep r s) : Keep r (l.foldl f s) := by
  induction l generalizing s with
  | nil => exact h
  | cons a l ih => exact ih _ (hf s a h)

theorem keep_ite {r s t : State} {c : Prop} [Decidable c] (hs : Keep r s) (ht : Keep r t) : Keep r (if c then s else t) := by
  split
  · exact hs
  · exact ht

theorem keepRes_ite {r : State} {a b : Res} {c : Prop} [Decidable c] (ha : KeepRes r a) (hb : KeepRes r b) :
    KeepRes r (if c then a else b) := by
  split
  · exact ha
  · exact hb

theorem keep_pair {α : Type} {r t : State} (a : α) (h : Keep r t) : Keep r (a, t).2 := h

/-- A record written out anew, as an update `{ s with … }` unfolds to. -/
theorem keep_rec {r s : State} (h : Keep r s)
    {regs fresh clusters units buckets regions dies routers links flights keepers mrs ports edges parts fields quarters mgr instA instB power sec}
    (ha : instA.count = s.instA.count) (hb : instB.count = s.instB.count) (hk : sec.revoked = s.sec.revoked) :
    Keep r ⟨s.pending, s.fab, regs, s.mem, fresh, clusters, units, buckets, regions, dies, routers, links, flights, keepers, mrs, ports, edges, parts, fields, quarters, mgr, instA, instB, power, sec, s.out⟩ :=
  h.same rfl rfl rfl rfl ha hb hk

/-- Setting more bits loses none. -/
theorem bit_or_left {a b k : Nat} (h : bit a k = true) : bit (a ||| b) k = true := by
  have e : ∀ v, bit v k = v.testBit k := fun v => by
    rw [bit, Nat.testBit_eq_decide_div_mod_eq]
    by_cases h : v / 2 ^ k % 2 = 1 <;> simp [h]
  rw [e] at *
  simp [h]

/-! ### The named updates -/

variable {r s : State}

theorem keep_setCl (h : Keep r s) (i : Nat) (x : Cluster) : Keep r (s.setCl i x) := h.same rfl rfl rfl rfl rfl rfl rfl
theorem keep_setUn (h : Keep r s) (i : Nat) (x : UnitState) : Keep r (s.setUn i x) := h.same rfl rfl rfl rfl rfl rfl rfl
theorem keep_setRtr (h : Keep r s) (i : Nat) (x : Router) : Keep r (s.setRtr i x) := h.same rfl rfl rfl rfl rfl rfl rfl
theorem keep_setMr (h : Keep r s) (i : Nat) (x : Stack) : Keep r (s.setMr i x) := h.same rfl rfl rfl rfl rfl rfl rfl
theorem keep_setBucket (h : Keep r s) (i : Nat) (x : Bucket) : Keep r (s.setBucket i x) := h.same rfl rfl rfl rfl rfl rfl rfl
theorem keep_setRgn (h : Keep r s) (i : Nat) (x : Region) : Keep r (s.setRgn i x) := h.same rfl rfl rfl rfl rfl rfl rfl
theorem keep_setDie (h : Keep r s) (i : Nat) (x : Die) : Keep r (s.setDie i x) := h.same rfl rfl rfl rfl rfl rfl rfl
theorem keep_setLink (h : Keep r s) (i : Nat) (x : Link) : Keep r (s.setLink i x) := h.same rfl rfl rfl rfl rfl rfl rfl
theorem keep_setKeeper (h : Keep r s) (i : Nat) (x : Keeper) : Keep r (s.setKeeper i x) := h.same rfl rfl rfl rfl rfl rfl rfl
theorem keep_setPort (h : Keep r s) (i : Nat) (x : Port) : Keep r (s.setPort i x) := h.same rfl rfl rfl rfl rfl rfl rfl
theorem keep_setEdge (h : Keep r s) (i : Nat) (x : Edge) : Keep r (s.setEdge i x) := h.same rfl rfl rfl rfl rfl rfl rfl
theorem keep_setFld (h : Keep r s) (i : Nat) (x : Field) : Keep r (s.setFld i x) := h.same rfl rfl rfl rfl rfl rfl rfl
theorem keep_setQtr (h : Keep r s) (i : Nat) (x : Quarter) : Keep r (s.setQtr i x) := h.same rfl rfl rfl rfl rfl rfl rfl
theorem keep_modCl (h : Keep r s) (i : Nat) (f : Cluster → Cluster) : Keep r (s.modCl i f) := h.same rfl rfl rfl rfl rfl rfl rfl
theorem keep_modUn (h : Keep r s) (i : Nat) (f : UnitState → UnitState) : Keep r (s.modUn i f) := h.same rfl rfl rfl rfl rfl rfl rfl
theorem keep_modRtr (h : Keep r s) (i : Nat) (f : Router → Router) : Keep r (s.modRtr i f) := h.same rfl rfl rfl rfl rfl rfl rfl
theorem keep_modMr (h : Keep r s) (i : Nat) (f : Stack → Stack) : Keep r (s.modMr i f) := h.same rfl rfl rfl rfl rfl rfl rfl
theorem keep_modRgn (h : Keep r s) (i : Nat) (f : Region → Region) : Keep r (s.modRgn i f) := h.same rfl rfl rfl rfl rfl rfl rfl
theorem keep_modDie (h : Keep r s) (i : Nat) (f : Die → Die) : Keep r (s.modDie i f) := h.same rfl rfl rfl rfl rfl rfl rfl
theorem keep_modKeeper (h : Keep r s) (i : Nat) (f : Keeper → Keeper) : Keep r (s.modKeeper i f) := h.same rfl rfl rfl rfl rfl rfl rfl
theorem keep_modPort (h : Keep r s) (i : Nat) (f : Port → Port) : Keep r (s.modPort i f) := h.same rfl rfl rfl rfl rfl rfl rfl
theorem keep_modEdge (h : Keep r s) (i : Nat) (f : Edge → Edge) : Keep r (s.modEdge i f) := h.same rfl rfl rfl rfl rfl rfl rfl
theorem keep_modQtr (h : Keep r s) (i : Nat) (f : Quarter → Quarter) : Keep r (s.modQtr i f) := h.same rfl rfl rfl rfl rfl rfl rfl
theorem keep_setInst (h : Keep r s) (b : Bool) (x : Instance) (hx : (s.inst b).count ≤ x.count) : Keep r (s.setInst b x) := by
  cases b
  · exact { h.same (t := { s with fresh := s.fresh }) with fuseA := h.fuseA.trans hx }
  · exact { h.same (t := { s with fresh := s.fresh }) with fuseB := h.fuseB.trans hx }
theorem keep_modMgr (h : Keep r s) (f : Manager → Manager) : Keep r (s.modMgr f) := h.same rfl rfl rfl rfl rfl rfl rfl
theorem keep_setReg (h : Keep r s) (a v : Nat) : Keep r (s.setReg a v) := h.same rfl rfl rfl rfl rfl rfl rfl
theorem keep_setField (h : Keep r s) (a hi lo v : Nat) : Keep r (s.setField a hi lo v) := h.same rfl rfl rfl rfl rfl rfl rfl
theorem keep_bumpBy (h : Keep r s) (a n : Nat) : Keep r (s.bumpBy a n) := by
  unfold State.bumpBy; split
  · exact h
  · exact h.same
theorem keep_bump (h : Keep r s) (a : Nat) : Keep r (s.bump a) := keep_bumpBy h a 1
theorem keep_emit (h : Keep r s) (x : Output) : Keep r (s.emit x) :=
  { h.same (t := { s with out := s.out }) with out := h.out.trans (List.suffix_cons x s.out) }
theorem keep_drawWord (h : Keep r s) : Keep r s.drawWord.2 := h.same rfl rfl rfl rfl rfl rfl rfl
theorem keep_drawChoice (h : Keep r s) (n : Nat) : Keep r (s.drawChoice n).2 := h.same rfl rfl rfl rfl rfl rfl rfl
theorem keep_write (h : Keep r s) (a : Nat) (bs : Bytes) : Keep r (s.write a bs) :=
  { h.same (t := { s with fresh := s.fresh }) with mem := fun w => memWf_memWrite a bs (h.mem w) }
theorem keep_clear (h : Keep r s) (a n : Nat) : Keep r (s.clear a n) :=
  { h.same (t := { s with fresh := s.fresh }) with mem := fun w => memWf_memClear a n (h.mem w) }

theorem keep_noMem (h : Keep r s) : Keep r { s with mem := [] } :=
  ⟨h.pending, fun _ => rfl, h.out, h.fab, h.fuseA, h.fuseB, h.keys⟩

theorem inst_advFab (s : State) (f : Nat) (b : Bool) : (advFab s f).inst b = s.inst b := by
  unfold advFab; split <;> rfl

end Sys2Proof.Machine
end

