-- ==== Sys2Proof/Laws/Sequencer.lean ====
section
/-! SUPPORT. The passage of time, and the sequencer's shared operations: what `advFab`, `advClock`, `lvs` and the writing of a
scalar register do, said once. -/

namespace Sys2Proof.Machine

/-! ### Time -/

/-- Moving the clock on changes the clock, the slewing keepers and the manager, and nothing else. -/
theorem advFab_eq (s : State) (f : Nat) :
    advFab s f = { s with fab := (advFab s f).fab, keepers := (advFab s f).keepers, mgr := (advFab s f).mgr } := by
  unfold advFab; split <;> rfl

theorem advClock_eq (s : State) (r k : Nat) : advClock s r k =
    { s with fab := (advClock s r k).fab, keepers := (advClock s r k).keepers, mgr := (advClock s r k).mgr } := by
  unfold advClock
  split
  · rfl
  · exact advFab_eq ..

theorem lvsNow_eq (s : State) (c : ClusterId) : lvsNow s c =
    { s with fab := (lvsNow s c).fab, keepers := (lvsNow s c).keepers, mgr := (lvsNow s c).mgr } := advClock_eq ..

theorem fab_advFab (s : State) (f : Nat) : (advFab s f).fab = max s.fab f := by
  unfold advFab
  split
  · omega
  · show f = max s.fab f
    omega

@[simp] theorem cl_advFab (s : State) (f c : Nat) : (advFab s f).cl c = s.cl c := by rw [advFab_eq]; rfl
@[simp] theorem un_advFab (s : State) (f u : Nat) : (advFab s f).un u = s.un u := by rw [advFab_eq]; rfl
@[simp] theorem mem_advFab (s : State) (f : Nat) : (advFab s f).mem = s.mem := by rw [advFab_eq]
@[simp] theorem reg_advFab (s : State) (f a : Nat) : (advFab s f).reg a = s.reg a := by rw [advFab_eq]; rfl
@[simp] theorem cl_advClock (s : State) (r k c : Nat) : (advClock s r k).cl c = s.cl c := by rw [advClock_eq]; rfl
@[simp] theorem un_advClock (s : State) (r k u : Nat) : (advClock s r k).un u = s.un u := by rw [advClock_eq]; rfl
@[simp] theorem mem_advClock (s : State) (r k : Nat) : (advClock s r k).mem = s.mem := by rw [advClock_eq]
@[simp] theorem reg_advClock (s : State) (r k a : Nat) : (advClock s r k).reg a = s.reg a := by rw [advClock_eq]; rfl
@[simp] theorem ctr_advClock (s : State) (r k a : Nat) : (advClock s r k).ctr a = s.ctr a := by rw [advClock_eq]; rfl
@[simp] theorem cl_lvsNow (s : State) (c : ClusterId) (k : Nat) : (lvsNow s c).cl k = s.cl k := cl_advClock ..
@[simp] theorem mem_lvsNow (s : State) (c : ClusterId) : (lvsNow s c).mem = s.mem := mem_advClock ..
@[simp] theorem reg_lvsNow (s : State) (c : ClusterId) (a : Nat) : (lvsNow s c).reg a = s.reg a := reg_advClock ..
@[simp] theorem ctr_lvsNow (s : State) (c : ClusterId) (a : Nat) : (lvsNow s c).ctr a = s.ctr a := ctr_advClock ..
@[simp] theorem lvsReg_lvsNow (s : State) (c : ClusterId) (r : SReg) : lvsReg (lvsNow s c) c r = lvsReg s c r := by
  simp [lvsReg]

/-! ### The instruction at the pc -/

/-- An instruction that stands at the pc executes in the clock of `lvsNow`. -/
theorem lvs_next {c : ClusterId} {i : Instr} {s : State} (h : LvsAt s c i) (f : State → State) :
    lvs c i f s = .next (f (lvsNow s c)) := by
  obtain ⟨h1, h2, h3⟩ := h
  have : ¬ (s.cl c).pc > 0xFFFC := by omega
  unfold lvs
  rw [if_pos h1, if_neg this, h3]
  exact if_pos rfl

/-! ### Scalar registers -/

theorem readS_writeS_self (x : Cluster) (d : Nat) (w : Word) : readS (writeS x d w) d = if d = 0 then 0 else w := by
  unfold readS writeS
  split
  · rfl
  · split
    · rename_i h
      have hf : find? (dropAt x.s d) d = none := find?_eq_none_of_forall _ _ fun p hp => by
        have := (List.mem_filter.1 hp).2
        simpa using this
      simp [findD, hf, h]
    · simp

theorem readS_writeS_ne (x : Cluster) {d r : Nat} (w : Word) (h : r ≠ d) : readS (writeS x d w) r = readS x r := by
  unfold readS writeS
  split
  · rfl
  · split
    · rfl
    · split
      · have := find?_filter x.s (fun k => k != d) r
        simp only [findD, dropAt]
        rw [this]; simp [h]
      · simp [findD_putAt_ne _ _ _ h]

/-- Writing a scalar register changes the scalar registers only. -/
theorem writeS_eq (x : Cluster) (d : Nat) (w : Word) : writeS x d w = { x with s := (writeS x d w).s } := by
  unfold writeS
  split
  · rfl
  · split <;> rfl

/-- A result written to a register: the whole effect of an instruction that computes one. -/
theorem setsReg {i : Instr} {c : ClusterId} {d : SReg} {v : Word} {cost : Nat} {s : State}
    (h : exec i s = .next (lvsWrite c d cost v (lvsNow s c))) : SetsReg i c d v ((s.cl c).pc + 4) cost s := by
  have e : (lvsWrite c d cost v (lvsNow s c)).cl c =
      { writeS (s.cl c) d v with pc := (s.cl c).pc + 4, readyClk := cluClk (lvsNow s c) c + cost } := by
    unfold lvsWrite lvsDone
    rw [State.setCl_self, cl_lvsNow, writeS_eq]
  refine ⟨_, h, ?_, ?_, ?_, ?_, ?_⟩
  · unfold lvsReg; rw [e]
    have := readS_writeS_self (s.cl c) d v
    simp only [Fin.ext_iff, Fin.val_zero]
    exact this
  · intro r hr
    unfold lvsReg; rw [e]
    exact readS_writeS_ne (s.cl c) v (Fin.val_ne_of_ne hr)
  · rw [e]
  · rw [e]
  · refine ⟨rfl, fun a => ?_, fun k hk => ?_, ?_⟩
    · simp [lvsWrite, lvsDone]
    · simp [lvsWrite, lvsDone, State.setCl_cl, hk]
    · rw [e, writeS_eq]
      exact ⟨_, _, _, rfl⟩

/-! ### Traps -/

/-- A counter that advances by one. -/
@[simp] theorem ctr_bump_self (s : State) (a : Nat) : (s.bump a).ctr a = min (s.ctr a + 1) 0xFFFFFFFFFFFF := by
  unfold State.bump State.bumpBy
  simp [State.ctr]

/-- Other registers when a counter advances. -/
theorem reg_bump_ne (s : State) {a b : Nat} (h : b ≠ a) : (s.bump a).reg b = s.reg b := by
  unfold State.bump State.bumpBy
  split
  · rfl
  · exact (State.setReg_reg ..).trans (if_neg h)

/-- A cluster that runs no late work and has not ended its frame has no work end to note. -/
theorem checkEnd_trapped (s : State) (c : Nat) (h1 : (s.cl c).late = none) (h2 : (s.cl c).seq = .trapped) : checkEnd s c = s := by
  unfold checkEnd
  simp [h1, h2]

/-! ### Control packets and the data cache -/

theorem scalarPlace_lvsNow (s : State) (k : ClusterId) (c a : Nat) : scalarPlace (lvsNow s k) c a = scalarPlace s c a := by
  rw [lvsNow_eq]; rfl

@[simp] theorem stackGone_lvsNow (s : State) (k : ClusterId) (n : Nat) : stackGone (lvsNow s k) n = stackGone s n := by
  rw [lvsNow_eq]; rfl

@[simp] theorem read_lvsNow (s : State) (k : ClusterId) (a n : Nat) : (lvsNow s k).read a n = s.read a n := by
  rw [lvsNow_eq]; rfl

/-- s and t agree on every cluster outside the caches, on memory and on registers. -/
def CacheOnly (s t : State) : Prop :=
  (∀ k, (t.cl k).outsideCache = (s.cl k).outsideCache) ∧ t.mem = s.mem ∧ t.regs = s.regs

theorem CacheOnly.modCl {s t : State} (h : CacheOnly s t) (c : Nat) (f : Cluster → Cluster)
    (hf : ∀ x, (f x).outsideCache = x.outsideCache) : CacheOnly s (t.modCl c f) := by
  refine ⟨fun k => ?_, h.2.1, h.2.2⟩
  rw [State.modCl, State.setCl_cl]
  split
  · subst_vars; rw [hf]; exact h.1 _
  · exact h.1 _

/-- A control packet changes of clusters only the queue of packets that wait for the bucket, and no memory. -/
theorem CacheOnly.sendCtrl {s t : State} (h : CacheOnly s t) (c : Nat) (p : Packet) : CacheOnly s (sendCtrl t c p) := by
  unfold Machine.sendCtrl
  dsimp only
  split
  · exact h
  · have := h.modCl c (fun x => { x with ctrlOut := x.ctrlOut ++ [{ p with cls := cCtrl }] }) fun _ => rfl
    unfold startBucketWait
    dsimp only
    split
    · exact this
    · exact this

/-- Asking for a line changes of clusters only their caches and waiting packets, and no memory. -/
theorem CacheOnly.tryGet (s : State) (c : Nat) : CacheOnly s (tryGet s c) := by
  have h0 : CacheOnly s s := ⟨fun _ => rfl, rfl, rfl⟩
  have hd : ∀ n, CacheOnly s (s.drawChoice n).2 := fun n => ⟨fun _ => rfl, rfl, rfl⟩
  have drop : ∀ (x : Cluster) l, (cacheDrop x l).outsideCache = x.outsideCache := fun _ _ => rfl
  unfold Machine.tryGet
  extract_lets x
  split
  · split
    · exact h0
    split
    · exact h0
    extract_lets ways want r
    have hw : ∀ u, CacheOnly s u → CacheOnly s (want u) := by
      intro u hu
      show CacheOnly s (Machine.sendCtrl (u.modCl c fun x => { x with get := some { line := _, excl := _ } }) c _)
      apply CacheOnly.sendCtrl
      apply CacheOnly.modCl hu
      intro x
      rfl
    split
    · exact hw _ h0
    split
    · exact h0
    split
    · split
      · exact h0
      extract_lets u
      apply hw
      apply CacheOnly.sendCtrl
      apply CacheOnly.modCl (hd _)
      intro x
      rfl
    · apply hw
      apply CacheOnly.modCl (hd _)
      intro x
      exact drop x _
  · exact h0

/-- A trap taken in a state u that differs from the state before in time and in register d alone. -/
theorem traps {i : Instr} {c : ClusterId} {d : SReg} {v : Word} {cause : Nat} {s u : State} (h : exec i s = .next (trap u c cause))
    (hc : u.cl c = writeS (s.cl c) d v) (ho : ∀ k, k ≠ c.val → u.cl k = s.cl k) (hr : ∀ a, u.reg a = s.reg a)
    (hm : u.mem = s.mem) (hctr : ∀ a, u.ctr a = s.ctr a)
    (hl : (s.cl c).late = none) (hp : (s.cl c).pc ≤ 0xFFFC) : Traps i c d cause s := by
  have hx : ∀ {α : Type} (g : Cluster → α), (∀ y l, g { y with s := l } = g y) → g (u.cl c) = g (s.cl c) := by
    intro α g hg
    rw [hc, writeS_eq, hg]
  have hpc : (u.cl c).pc = (s.cl c).pc := hx (·.pc) fun _ _ => rfl
  have hfi : (u.cl c).frameIdx = (s.cl c).frameIdx := hx (·.frameIdx) fun _ _ => rfl
  have hla : (u.cl c).late = none := (hx (·.late) fun _ _ => rfl).trans hl
  have e : trap u c cause = ((u.bump (seqTrapCntAt c)).setReg (seqTrapAt c)
      ((u.cl c).pc * 2 ^ 32 + cause * 2 ^ 28 + 2 ^ 27 + (u.cl c).frameIdx % 2 ^ 20)).setCl c
        { u.cl c with seq := .trapped, stall := none, handler := none } := by
    have hm : min (u.cl c).pc 0xFFFC = (u.cl c).pc := by omega
    unfold trap
    refine (checkEnd_trapped _ _ (by simp [hla]) (by simp)).trans ?_
    dsimp only
    rw [hm]
  have hne : seqTrapCntAt c ≠ seqTrapAt c := by unfold seqTrapCntAt seqTrapAt; omega
  have hb : ∀ a, a ≠ seqTrapCntAt c → (u.bump (seqTrapCntAt c)).reg a = u.reg a := by
    intro a ha
    exact reg_bump_ne _ ha
  refine ⟨_, h, ?_, ?_, ?_, ?_, ?_, ?_, ?_⟩
  · rw [e]; simp
  · rw [e]; simp [hpc, hfi]
  · have hcc : (trap u c cause).ctr (seqTrapCntAt c) = (u.bump (seqTrapCntAt c)).ctr (seqTrapCntAt c) := by
      rw [e, (State.setCl_records _ _ _).2.2.2.2.2.2.2.2.2.2.2.2.2.1]
      unfold State.ctr
      simp only [State.setReg, findD_putAt_ne _ _ _ hne]
    rw [hcc, ctr_bump_self, hctr]
  · intro a h1 h2
    rw [e, (State.setCl_records _ _ _).2.2.2.2.2.2.2.2.2.2.2.2.1, State.setReg_reg, if_neg h1, hb a h2, hr]
  · intro r hr'
    have : readS (u.cl c) r = readS (s.cl c) r := by rw [hc]; exact readS_writeS_ne _ _ (Fin.val_ne_of_ne hr')
    rw [e]
    unfold lvsReg
    rw [State.setCl_self]
    exact this
  · intro a; rw [e]; simp [hm, State.bump]
  · intro k hk'; rw [e, State.setCl_cl, if_neg hk']; simp [ho k hk', State.bump]

end Sys2Proof.Machine
end

