-- ==== Sys2Proof/Laws/Completion.lean ====
section
/-! SUPPORT. The completion of a descriptor, said once: what `takeDirty`, `checkEnd`, `complete` and `descError` change. -/

namespace Sys2Proof.Machine

/-- The registers the Shadow engines of cluster c write at a work end. -/
def shadowRegs (c : Nat) : List Nat :=
  (List.range 4).flatMap fun i => [unitShadowStatAt (4 * c + i), unitShadowLagCntAt (4 * c + i)]

/-- What taking the dirty sets of cluster c leaves as it is. -/
structure SetsOnly (c : Nat) (s t : State) : Prop where
  cl : ∀ k, t.cl k = s.cl k
  mem : t.mem = s.mem
  un : ∀ u, (t.un u).noSets = (s.un u).noSets
  reg : ∀ a, a ∉ shadowRegs c → t.reg a = s.reg a
  ctr : ∀ a, a ∉ shadowRegs c → t.ctr a = s.ctr a
  out : t.out = s.out
  fab : t.fab = s.fab

theorem SetsOnly.refl (c : Nat) (s : State) : SetsOnly c s s :=
  ⟨fun _ => rfl, rfl, fun _ => rfl, fun _ _ => rfl, fun _ _ => rfl, rfl, rfl⟩

theorem SetsOnly.trans {c : Nat} {s t u : State} (h : SetsOnly c s t) (k : SetsOnly c t u) : SetsOnly c s u :=
  ⟨fun i => (k.cl i).trans (h.cl i), k.mem.trans h.mem, fun i => (k.un i).trans (h.un i),
    fun a ha => (k.reg a ha).trans (h.reg a ha), fun a ha => (k.ctr a ha).trans (h.ctr a ha), k.out.trans h.out, k.fab.trans h.fab⟩

theorem SetsOnly.setUn (c : Nat) (s : State) (u : Nat) (x : UnitState) (h : x.noSets = (s.un u).noSets) :
    SetsOnly c s (s.setUn u x) :=
  ⟨fun _ => rfl, rfl, fun i => by rw [State.setUn_un]; split
                                  · subst_vars; exact h
                                  · rfl, fun _ _ => rfl, fun _ _ => rfl, rfl, rfl⟩

theorem ctr_setReg_ne (s : State) {a b : Nat} (v : Nat) (h : b ≠ a) : (s.setReg a v).ctr b = s.ctr b := by
  simp only [State.ctr, State.setReg, findD_putAt_ne _ _ _ h]

theorem ctr_bump_ne (s : State) {a b : Nat} (h : b ≠ a) : (s.bump a).ctr b = s.ctr b := by
  unfold State.bump State.bumpBy
  split
  · rfl
  · simp only [State.ctr, findD_putAt_ne _ _ _ h]

theorem SetsOnly.setReg (c : Nat) (s : State) (b v : Nat) (h : b ∈ shadowRegs c) : SetsOnly c s (s.setReg b v) := by
  have hne : ∀ a, a ∉ shadowRegs c → a ≠ b := fun a ha hab => ha (hab ▸ h)
  exact ⟨fun _ => rfl, rfl, fun _ => rfl, fun a ha => (State.setReg_reg ..).trans (if_neg (hne a ha)),
    fun a ha => ctr_setReg_ne _ _ (hne a ha), rfl, rfl⟩

theorem SetsOnly.bump (c : Nat) (s : State) (b : Nat) (h : b ∈ shadowRegs c) : SetsOnly c s (s.bump b) := by
  have hne : ∀ a, a ∉ shadowRegs c → a ≠ b := fun a ha hab => ha (hab ▸ h)
  exact ⟨fun _ => by simp [State.bump], by simp [State.bump], fun _ => by simp [State.bump],
    fun a ha => reg_bump_ne _ (hne a ha), fun a ha => ctr_bump_ne _ (hne a ha), by simp [State.bump], by simp [State.bump]⟩

theorem setsOnly_retireSets (c i : Nat) (hi : i < 4) (s : State) : SetsOnly c s (retireSets s (4 * c + i)) := by
  have h1 : unitShadowStatAt (4 * c + i) ∈ shadowRegs c :=
    List.mem_flatMap.2 ⟨i, List.mem_range.2 hi, by simp⟩
  unfold retireSets
  dsimp only
  split
  · exact .refl ..
  · exact (SetsOnly.setUn c s _ _ (by rfl)).trans (SetsOnly.setReg c _ _ _ h1)

theorem setsOnly_takeDirtyUnit (c i f : Nat) (hi : i < 4) (s : State) : SetsOnly c s (takeDirtyUnit s (4 * c + i) f) := by
  have h2 : unitShadowLagCntAt (4 * c + i) ∈ shadowRegs c :=
    List.mem_flatMap.2 ⟨i, List.mem_range.2 hi, by simp⟩
  unfold takeDirtyUnit
  split
  · have h0 : ∀ x : UnitState, x.noSets = (s.un (4 * c + i)).noSets → SetsOnly c s (retireSets
        (if (s.un (4 * c + i)).sets.isEmpty then s.setUn (4 * c + i) x
          else (s.setUn (4 * c + i) x).bump (unitShadowLagCntAt (4 * c + i))) (4 * c + i)) := by
      intro x hx
      refine (SetsOnly.setUn c s _ x hx).trans (SetsOnly.trans ?_ (setsOnly_retireSets c i hi _))
      split
      · exact .refl ..
      · exact SetsOnly.bump c _ _ h2
    exact h0 _ rfl
  · exact .refl ..

theorem setsOnly_takeDirty (s : State) (c : Nat) : SetsOnly c s (takeDirty s c) := by
  unfold takeDirty
  have : ∀ l : List Nat, (∀ i ∈ l, i < 4) → ∀ u : State,
      SetsOnly c u (l.foldl (fun s i => takeDirtyUnit s (4 * c + i) (s.cl c).frameIdx) u) := by
    intro l
    induction l with
    | nil => exact fun _ u => .refl ..
    | cons i l ih =>
      intro hl u
      exact (setsOnly_takeDirtyUnit c i _ (hl i (by simp)) u).trans (ih (fun j hj => hl j (by simp [hj])) _)
  exact this (List.range 4) (fun i hi => List.mem_range.1 hi) s

/-- What a work end of cluster c leaves as it is: all but the sequencer's state and the record of the work end, and the
Shadow engines' sets. -/
structure EndOnly (c : Nat) (s t : State) : Prop where
  cl : ∀ k, k ≠ c → t.cl k = s.cl k
  self : (t.cl c).noEnd = (s.cl c).noEnd
  mem : t.mem = s.mem
  un : ∀ u, (t.un u).noSets = (s.un u).noSets
  reg : ∀ a, a ∉ shadowRegs c → t.reg a = s.reg a
  ctr : ∀ a, a ∉ shadowRegs c → t.ctr a = s.ctr a
  out : t.out = s.out
  fab : t.fab = s.fab

theorem endOnly_setCl (s : State) (c : Nat) (x : Cluster) (h : x.noEnd = (s.cl c).noEnd) : EndOnly c s (s.setCl c x) :=
  ⟨fun k hk => by rw [State.setCl_cl, if_neg hk], by rw [State.setCl_self]; exact h, rfl, fun _ => rfl, fun _ _ => rfl,
    fun _ _ => rfl, rfl, rfl⟩

theorem EndOnly.sets {c : Nat} {s t u : State} (h : EndOnly c s t) (k : SetsOnly c t u) : EndOnly c s u :=
  ⟨fun i hi => (k.cl i).trans (h.cl i hi), by rw [k.cl]; exact h.self, k.mem.trans h.mem, fun i => (k.un i).trans (h.un i),
    fun a ha => (k.reg a ha).trans (h.reg a ha), fun a ha => (k.ctr a ha).trans (h.ctr a ha), k.out.trans h.out, k.fab.trans h.fab⟩

theorem endOnly_checkEnd (s : State) (c : Nat) : EndOnly c s (checkEnd s c) := by
  have r : EndOnly c s s := ⟨fun _ _ => rfl, rfl, rfl, fun _ => rfl, fun _ _ => rfl, fun _ _ => rfl, rfl, rfl⟩
  unfold checkEnd
  dsimp only
  split
  · split
    · split
      · exact (endOnly_setCl s c _ (by rfl)).sets (setsOnly_takeDirty ..)
      · split
        · exact endOnly_setCl s c _ (by rfl)
        · exact r
    · split
      · exact (endOnly_setCl s c _ (by rfl)).sets (setsOnly_takeDirty ..)
      · exact r
  · exact r

/-- The status a completion takes: late work that would complete OK completes SUSPECT (R57). -/
def lateStatus (x : Cluster) (st : Nat) : Nat := if x.late.isSome && st == 0 then stSuspect else st

/-- Completion of an open descriptor: it is open no more, its group's count and flags advance, and nothing else changes but
the frame's marks and what a work end writes (R142, R147). -/
theorem complete_law {s : State} {c did g : Nat} (st : Nat) (h : find? (s.cl c).live did = some g) :
    let t := complete s c did st
    (∀ k, k ≠ c → t.cl k = s.cl k) ∧
    (t.cl c).noEnd = Cluster.noEnd { s.cl c with
      live := dropAt (s.cl c).live did, grpCnt := grpAdd (s.cl c).grpCnt g
      grpFlags := putAt (s.cl c).grpFlags g (findD (s.cl c).grpFlags g 0 ||| lateStatus (s.cl c) st) } ∧
    t.mem = s.mem ∧ (∀ u, (t.un u).noSets = (s.un u).noSets) ∧
    (∀ a, a ≠ seqFrameUseAt c → a ≠ seqSuspectCntAt c → a ∉ shadowRegs c → t.reg a = s.reg a ∧ t.ctr a = s.ctr a) ∧
    t.out = s.out ∧ t.fab = s.fab := by
  intro t
  generalize hx : ({ s.cl c with
      live := dropAt (s.cl c).live did, grpCnt := grpAdd (s.cl c).grpCnt g
      grpFlags := putAt (s.cl c).grpFlags g (findD (s.cl c).grpFlags g 0 ||| lateStatus (s.cl c) st) } : Cluster) = x
  generalize hv : (if bit (lateStatus (s.cl c) st) 0 then (if lateStatus (s.cl c) st &&& 3 ≠ 0 then (s.setCl c x).setField (seqFrameUseAt c) 0 0 1 else s.setCl c x).bump (seqSuspectCntAt c)
    else (if lateStatus (s.cl c) st &&& 3 ≠ 0 then (s.setCl c x).setField (seqFrameUseAt c) 0 0 1 else s.setCl c x)) = v
  have ht : t = checkEnd v c := by
    show complete s c did st = _
    unfold complete
    dsimp only
    rw [h]
    dsimp only
    rw [← hv, ← hx]
    rfl
  have v1 : ∀ k, v.cl k = (s.setCl c x).cl k := by intro k; rw [← hv]; split <;> split <;> simp [State.setField, State.bump]
  have v2 : v.mem = s.mem := by rw [← hv]; split <;> split <;> simp [State.setField, State.bump]
  have v3 : ∀ u, v.un u = s.un u := by intro k; rw [← hv]; split <;> split <;> simp [State.setField, State.bump]
  have v4 : ∀ a, a ≠ seqFrameUseAt c → a ≠ seqSuspectCntAt c → v.reg a = s.reg a ∧ v.ctr a = s.ctr a := by
    intro a h1 h2
    have w : ∀ y : State, (y.setField (seqFrameUseAt c) 0 0 1).reg a = y.reg a ∧ (y.setField (seqFrameUseAt c) 0 0 1).ctr a = y.ctr a :=
      fun y => ⟨(State.setReg_reg ..).trans (if_neg h1), ctr_setReg_ne _ _ h1⟩
    have b : ∀ y : State, (y.bump (seqSuspectCntAt c)).reg a = y.reg a ∧ (y.bump (seqSuspectCntAt c)).ctr a = y.ctr a :=
      fun y => ⟨reg_bump_ne _ h2, ctr_bump_ne _ h2⟩
    have z : (s.setCl c x).reg a = s.reg a ∧ (s.setCl c x).ctr a = s.ctr a := ⟨rfl, rfl⟩
    rw [← hv]
    split <;> split <;> simp only [w, b, z, and_self]
  have v5 : v.out = s.out := by rw [← hv]; split <;> split <;> simp [State.setField, State.bump]
  have v6 : v.fab = s.fab := by rw [← hv]; split <;> split <;> simp [State.setField, State.bump]
  have k := endOnly_checkEnd v c
  rw [ht]
  refine ⟨fun i hi => ?_, ?_, k.mem.trans v2, fun u => ?_, fun a h1 h2 h3 => ?_, k.out.trans v5, k.fab.trans v6⟩
  · rw [k.cl i hi, v1, State.setCl_cl, if_neg hi]
  · rw [k.self, v1, State.setCl_self]
  · rw [k.un, v3]
  · exact ⟨(k.reg a h3).trans (v4 a h1 h2).1, (k.ctr a h3).trans (v4 a h1 h2).2⟩

/-- A register of a cluster's SEQ_ block is none of its Shadow engines'. -/
theorem seq_not_shadow (c k : Nat) (hk : k < 0x100000) : seqBlk c + k ∉ shadowRegs c := by
  intro h
  obtain ⟨i, hi, h⟩ := List.mem_flatMap.1 h
  have hi := List.mem_range.1 hi
  have e : (4 * c + i) / 16 = c / 4 := by omega
  simp only [List.mem_cons, List.not_mem_nil, or_false, unitShadowStatAt, unitShadowLagCntAt, seqBlk, unitBlk, e] at h
  omega

theorem find?_dropAt {α : Type} (m : List (Nat × α)) (k : Nat) : find? (dropAt m k) k = none :=
  find?_eq_none_of_forall _ _ fun p hp => by
    have := (List.mem_filter.1 hp).2
    simpa using this

end Sys2Proof.Machine
end

