-- ==== Sys2Proof/Laws/Flits.lean ====
section
/-! SUPPORT. Bytes and their values, the range of the block check, and that a flit the port builds passes the receiver's test
(R191, R317). -/

namespace Sys2Proof.Machine
open Sys2Proof

/-- The little-endian bytes of a value read back as that value, taken to their width. -/
theorem leNat_leBytes (n v : Nat) : leNat (leBytes n v) = v % 256 ^ n := by
  induction n generalizing v with
  | zero => simp [leBytes, leNat, Nat.mod_one]
  | succ n ih =>
    simp only [leBytes, leNat, ih, BitVec.toNat_ofNat]
    have h : v % 256 + 256 * (v / 256 % 256 ^ n) = v % 256 ^ (n + 1) := by rw [Nat.pow_succ, Nat.mul_comm (256 ^ n), Nat.mod_mul]
    simpa using h

theorem leBytes_length (n v : Nat) : (leBytes n v).length = n := by
  induction n generalizing v with
  | zero => rfl
  | succ n ih => simp [leBytes, ih]

theorem crc64Bit_lt {c : Nat} (h : c < 2 ^ 64) : crc64Bit c < 2 ^ 64 := by
  unfold crc64Bit; split
  · omega
  · exact Nat.xor_lt_two_pow (Nat.mod_lt _ (by decide)) (by decide)

theorem crc64Byte_lt {c : Nat} (b : Byte) (h : c < 2 ^ 64) : crc64Byte c b < 2 ^ 64 := by
  have hb : c ^^^ (b.toNat * 2 ^ 56) < 2 ^ 64 := Nat.xor_lt_two_pow h (by have := b.isLt; omega)
  exact crc64Bit_lt (crc64Bit_lt (crc64Bit_lt (crc64Bit_lt (crc64Bit_lt (crc64Bit_lt (crc64Bit_lt (crc64Bit_lt hb)))))))

/-- The block check of any bytes has 64 bits (R191). -/
theorem crc64_lt (bs : Bytes) : crc64 bs < 2 ^ 64 := by
  have h : ∀ (bs : Bytes) (c : Nat), c < 2 ^ 64 → bs.foldl crc64Byte c < 2 ^ 64 := by
    intro bs
    induction bs with
    | nil => exact fun _ h => h
    | cons b t ih => intro c h; rw [List.foldl_cons]; exact ih _ (crc64Byte_lt b h)
  unfold crc64
  exact Nat.xor_lt_two_pow (h bs _ (by decide)) (by decide)

/-- Whatever a port sends, the receiver's CRC passes (R317). -/
theorem flitOk_mkFlit (x : Port) (ftype seq : Nat) (nak : Bool) (body : Bytes) : flitOk (mkFlit x ftype seq nak body) = true := by
  have h : ∀ b : Bytes, b.length = 248 → flitOk (b ++ leBytes 8 (crc64 b)) = true := by
    intro b hb
    have h : leNat (leBytes 8 (crc64 b)) = crc64 b := by rw [leNat_leBytes]; exact Nat.mod_eq_of_lt (crc64_lt b)
    have ht : (b ++ leBytes 8 (crc64 b)).take 248 = b := List.take_left' hb
    have hd : (b ++ leBytes 8 (crc64 b)).drop 248 = leBytes 8 (crc64 b) := List.drop_left' hb
    rw [flitOk, ht, hd, h, List.length_append, leBytes_length, hb]
    simp
  refine h _ ?_
  rw [List.length_append, leBytes_length, List.length_take, List.length_append, zeros, List.length_replicate]
  omega

end Sys2Proof.Machine
end

