-- ==== Sys2Proof/Laws/Frames.lean ====
section
/-! SUPPORT. Frames of the operations that many commands share: folds, maps of records, counters, time, packets. -/

namespace Sys2Proof.Machine

theorem bits_putBits_self (v hi lo x : Nat) (_hl : lo ≤ hi) : bits (putBits v hi lo x) hi lo = x % 2 ^ (hi + 1 - lo) := by
  unfold putBits bits
  generalize hn : 2 ^ (hi + 1 - lo) = n
  generalize hm : 2 ^ lo = m
  have hm0 : 0 < m := by rw [← hm]; exact Nat.pow_pos (by decide)
  have hn0 : 0 < n := by rw [← hn]; exact Nat.pow_pos (by decide)
  have e : v - v / m % n * m + x % n * m = (v / m / n * n + x % n) * m + v % m := by
    have h1 : v = m * (v / m) + v % m := (Nat.div_add_mod v m).symm
    have h2 : v / m = n * (v / m / n) + v / m % n := (Nat.div_add_mod _ n).symm
    generalize v / m / n = a at *
    generalize v / m % n = b at *
    generalize v % m = c at *
    rw [h1, h2]
    have : m * (n * a + b) + c - b * m = m * (n * a) + c := by
      rw [Nat.mul_add, Nat.mul_comm b m]; omega
    rw [this, Nat.add_mul, Nat.mul_comm a n, Nat.mul_comm m (n * a)]; omega
  rw [e]
  have : ((v / m / n * n + x % n) * m + v % m) / m = v / m / n * n + x % n := by
    rw [Nat.add_comm, Nat.add_mul_div_right _ _ hm0, Nat.div_eq_of_lt (Nat.mod_lt _ hm0), Nat.zero_add]
  rw [this, Nat.add_comm, Nat.add_mul_mod_self_right, Nat.mod_mod]

theorem step_advFab (s : State) (f : Nat) : (advFab s f).mgr.step = s.mgr.step := by
  unfold advFab slewMgr
  split
  · rfl
  · show (if _ then _ else _ : Manager).step = _
    split <;> rfl

theorem enterStep_facts (s : State) (k : Nat) : (enterStep s k).mgr = { s.mgr with step := k, stepFab := s.fab, phase := 0 } ∧
    (enterStep s k).fab = s.fab ∧ (enterStep s k).mem = s.mem ∧ (enterStep s k).dies = s.dies ∧ (enterStep s k).keepers = s.keepers ∧
    (enterStep s k).power = s.power := ⟨rfl, rfl, rfl, rfl, rfl, rfl⟩

theorem foldl_inv {α β : Type} (P : β → Prop) (f : β → α → β) : ∀ (l : List α) (b : β), P b → (∀ b a, a ∈ l → P b → P (f b a)) → P (l.foldl f b)
  | [], b, h, _ => h
  | a :: l, b, h, hf => foldl_inv P f l _ (hf b a (by simp) h) fun b x hx => hf b x (by simp [hx])

theorem foldl_sets {α β : Type} (P : α → β → Prop) (f : β → α → β) : ∀ (l : List α) (b : β), (∀ b a, P a (f b a)) →
    (∀ b a c, P c b → P c (f b a)) → ∀ a ∈ l, P a (l.foldl f b)
  | [], _, _, _, _, h => by simp at h
  | x :: l, b, h1, h2, a, ha => by
    rcases List.mem_cons.1 ha with rfl | h
    · exact foldl_inv (P a) f l _ (h1 b a) fun b c _ hb => h2 b c a hb
    · exact foldl_sets P f l _ h1 h2 a h

theorem find?_table {α : Type} (g : Nat → α) (k : Nat) : ∀ l : List Nat, k ∈ l → find? (l.map fun i => (i, g i)) k = some (g k)
  | [], h => by simp at h
  | a :: l, h => by
    show (if a = k then some (g a) else find? (l.map fun i => (i, g i)) k) = _
    split
    · subst_vars; rfl
    · rename_i hn
      exact find?_table g k l (by rcases List.mem_cons.1 h with rfl | h; exacts [absurd rfl hn, h])

theorem mem_insSorted (l : List Nat) (k j : Nat) : j ∈ insSorted l k ↔ j = k ∨ j ∈ l := by
  induction l with
  | nil => simp [insSorted]
  | cons a t ih =>
    unfold insSorted
    split
    · simp
    · split
      · subst_vars; simp
      · simp [ih]; tauto

theorem find?_mapSnd {α β : Type} (g : Nat → α → β) (k : Nat) : ∀ l : List (Nat × α), find? (l.map fun x => (x.1, g x.1 x.2)) k = (find? l k).map (g k)
  | [] => rfl
  | (j, x) :: l => by
    show (if j = k then some (g j x) else find? (l.map fun x => (x.1, g x.1 x.2)) k) = (if j = k then some x else find? l k).map (g k)
    split
    · subst_vars; rfl
    · exact find?_mapSnd g k l

theorem rgn_advFab (s : State) (f k : Nat) : (advFab s f).rgn k = s.rgn k := by rw [advFab_eq]; rfl

theorem die_advFab (s : State) (f k : Nat) : (advFab s f).die k = s.die k := by rw [advFab_eq]; rfl

theorem power_advFab (s : State) (f : Nat) : (advFab s f).power = s.power := by rw [advFab_eq]

theorem ctr_advFab (s : State) (f a : Nat) : (advFab s f).ctr a = s.ctr a := by rw [advFab_eq]; rfl

theorem vcore_advFab (s : State) (f : Nat) : (advFab s f).mgr.vcoreMv = s.mgr.vcoreMv := by
  unfold advFab slewMgr
  split
  · rfl
  · show (if _ then _ else _ : Manager).vcoreMv = _
    split <;> rfl

theorem dayDone_advFab (s : State) (f : Nat) : (advFab s f).mgr.dayDone = s.mgr.dayDone := by
  unfold advFab slewMgr
  split
  · rfl
  · show (if _ then _ else _ : Manager).dayDone = _
    split <;> rfl

theorem keeper_modKeeper (s : State) (a b : Nat) (f : Keeper → Keeper) : (s.modKeeper a f).keeper b = if b = a then f (s.keeper a) else s.keeper b := by
  rw [State.modKeeper, State.setKeeper_keeper]

theorem bumpBy_eq (s : State) (a n : Nat) : s.bumpBy a n = { s with regs := (s.bumpBy a n).regs } := by
  unfold State.bumpBy; split <;> rfl

theorem bump_eq (s : State) (a : Nat) : s.bump a = { s with regs := (s.bump a).regs } := bumpBy_eq ..

/-- The fabric suspensions are a register and its counter. -/
theorem refreshSusp_cases (s : State) : ∃ a n, refreshSusp s = (s.setReg pmFabSuspAt a).bumpBy pmFabSuspCntAt n := ⟨_, _, rfl⟩

theorem refreshSusp_eq (s : State) : refreshSusp s = { s with regs := (refreshSusp s).regs } := by
  obtain ⟨a, n, h⟩ := refreshSusp_cases s
  rw [h, bumpBy_eq]; rfl

theorem reg_bumpBy_ne (s : State) {a b n : Nat} (h : b ≠ a) : (s.bumpBy a n).reg b = s.reg b := by
  have : find? (s.bumpBy a n).regs b = find? s.regs b := by
    unfold State.bumpBy
    split
    · rfl
    · exact find?_putAt_ne _ _ h
  unfold State.reg
  rw [this]

theorem keeper_refreshSusp (s : State) (k : Nat) : (refreshSusp s).keeper k = s.keeper k := by
  obtain ⟨a, n, h⟩ := refreshSusp_cases s
  rw [h]; simp

theorem fab_refreshSusp (s : State) : (refreshSusp s).fab = s.fab := by
  obtain ⟨a, n, h⟩ := refreshSusp_cases s
  rw [h]; simp

theorem mem_refreshSusp (s : State) : (refreshSusp s).mem = s.mem := by
  obtain ⟨a, n, h⟩ := refreshSusp_cases s
  rw [h]; simp

theorem refreshSusp_reg (s : State) (a : Nat) (h : a ≠ pmFabSuspAt) (h2 : a ≠ pmFabSuspCntAt) : (refreshSusp s).reg a = s.reg a := by
  obtain ⟨b, n, e⟩ := refreshSusp_cases s
  rw [e, reg_bumpBy_ne _ h2, State.setReg_reg, if_neg h]

theorem foldl_routers (f : State → Nat → State) (hf : ∀ s k, f s k = { s with routers := (f s k).routers }) (l : List Nat) (s : State) :
    l.foldl f s = { s with routers := (l.foldl f s).routers } :=
  foldl_inv (fun t : State => t = { s with routers := t.routers }) f l s rfl fun b a _ h => by
    generalize hb : f b a = x
    have := hf b a
    rw [hb] at this
    rw [this, h]

theorem fromMgr_eq (s : State) (p : Packet) : fromMgr s p = { s with routers := (fromMgr s p).routers } := by
  unfold fromMgr; split <;> rfl

/-! ### Packets served -/

theorem popEject_eq (s : State) (site port agt : Nat) :
    popEject s site port agt = { s with routers := (popEject s site port agt).routers } := rfl

/-- An agent serves the packet at the head of its ejection buffer. -/
theorem serve_eq {s : State} {at_ : Nat × Nat} {p : Packet} (want : Packet → Bool) (f : Packet → State → State)
    (h : ejected s at_.1 at_.2 want = some p) : serve at_ want f s = .next (f p (popEject s at_.1 at_.2 p.dagt)) := by
  unfold serve
  rw [h]

/-- The packet served is one that was wanted. -/
theorem ejected_want {s : State} {site port : Nat} {want : Packet → Bool} {p : Packet} (h : ejected s site port want = some p) :
    want p = true := by
  have := List.find?_some h
  simp only [Bool.and_eq_true] at this
  exact this.1

theorem obeys_popEject (s : State) (site port agt : Nat) (p : Packet) : obeys (popEject s site port agt) site p = obeys s site p := by
  unfold obeys popEject
  simp [State.modRtr]

/-- A MGMT packet that is obeyed (R428) is served on a state that differs in routers alone. -/
theorem serveMgmt_eq {s : State} {site : Nat} {p : Packet} (sub : Nat) (f : Packet → State → State)
    (h : ejected s site (regPort site) (fun p => p.typ == tMgmt && p.sub == sub) = some p) (ho : obeys s site p = true) :
    ∃ v, v = { s with routers := v.routers } ∧ serveMgmt site sub f s = .next (f p v) := by
  refine ⟨seeEpoch (popEject s site (regPort site) p.dagt) site (p.addr % 65536), ?_, ?_⟩
  · unfold seeEpoch; split <;> rfl
  · unfold serveMgmt
    rw [serve_eq (at_ := (site, regPort site)) _ _ h]
    dsimp only
    rw [if_pos (by rw [obeys_popEject]; exact ho)]

theorem serveMgr_eq {s : State} {b : Bool} {p : Packet} (typ sub : Nat) (f : Packet → State → State) (ha : activeMgr s = some b)
    (h : ejected s (portOfEdge (managerEdge b)).1 (portOfEdge (managerEdge b)).2
      (fun p => p.typ == typ && p.sub == sub && p.dagt == 5) = some p) :
    serveMgr typ sub f s = .next (f p (popEject s (portOfEdge (managerEdge b)).1 (portOfEdge (managerEdge b)).2 p.dagt)) := by
  unfold serveMgr
  rw [ha]
  exact serve_eq _ _ h

theorem inject_eq (s : State) (site port : Nat) (p : Packet) : inject s site port p = { s with routers := (inject s site port p).routers } := rfl

/-- A fold whose every step acts on its own part of the state acts on each part once. -/
theorem foldl_each {α β γ : Type} (f : β → α → β) (V : β → α → γ) (F : α → γ → γ) (R : α → α → Prop)
    (h1 : ∀ b a, V (f b a) a = F a (V b a)) (h2 : ∀ b a c, R c a → V (f b a) c = V b c) :
    ∀ (l : List α) (b : β), l.Pairwise (fun x y => R x y ∧ R y x) → ∀ a ∈ l, V (l.foldl f b) a = F a (V b a)
  | [], _, _, _, h => by simp at h
  | x :: l, b, hp, a, ha => by
    obtain ⟨hx, hl⟩ := List.pairwise_cons.1 hp
    rcases List.mem_cons.1 ha with rfl | hm
    · show V (l.foldl f (f b a)) a = _
      rw [← h1]
      exact foldl_inv (fun t => V t a = V (f b a) a) f l _ rfl fun t c hc ht => (h2 t c a (hx c hc).1).trans ht
    · show V (l.foldl f (f b x)) a = _
      rw [foldl_each f V F R h1 h2 l (f b x) hl a hm, h2 b x a (hx a hm).2]

end Sys2Proof.Machine
end

