-- ==== Sys2Proof/Laws/KeepCore.lean ====
section
/-! SUPPORT. What every operation keeps (`Keep` of Laws/Keep.lean): the shared operations, the scratchpads, the issue of descriptors, the packets and the operating points. -/

set_option linter.unusedTactic false
set_option linter.unreachableTactic false

namespace Sys2Proof.Machine

/-! ### Machine/Ops.lean -/

theorem keep_advFab {r₀ s : State} (kp : Keep r₀ s) (f : Nat) :
    Keep r₀ (advFab s f) := by
  unfold advFab
  split
  · exact kp
  · rename_i hf
    exact { kp.same (t := { s with keepers := s.keepers.map fun k => (k.1, slewKeeper f k.2), mgr := slewMgr f s.mgr }) with
      fab := kp.fab.trans (Nat.le_of_not_le hf) }

theorem keep_setSlew {r₀ s : State} (kp : Keep r₀ s) (site : Nat) (d : Int) :
    Keep r₀ (setSlew s site d) := by
  unfold setSlew
  try dsimp only
  repeat' first
    | with_reducible
        first
        | assumption | intro _ | apply keep_modKeeper
    | split
    | with_reducible first | apply keep_rec | rfl

theorem keep_setMgrSlew {r₀ s : State} (kp : Keep r₀ s) (d : Int) :
    Keep r₀ (setMgrSlew s d) := by
  unfold setMgrSlew
  try dsimp only
  repeat' first
    | with_reducible
        first
        | assumption | intro _ | apply keep_modMgr
    | split
    | with_reducible first | apply keep_rec | rfl

theorem keep_advNs {r₀ s : State} (kp : Keep r₀ s) (site t : Nat) :
    Keep r₀ (advNs s site t) := by
  unfold advNs
  try dsimp only
  repeat' first
    | with_reducible
        first
        | assumption | intro _ | apply keep_advFab
    | split
    | with_reducible first | apply keep_rec | rfl

theorem keep_advMgr {r₀ s : State} (kp : Keep r₀ s) (t : Nat) :
    Keep r₀ (advMgr s t) := by
  unfold advMgr
  try dsimp only
  repeat' first
    | with_reducible
        first
        | assumption | intro _ | apply keep_advFab
    | split
    | with_reducible first | apply keep_rec | rfl

theorem keep_retime {r₀ s : State} (kp : Keep r₀ s) (r : Nat) :
    Keep r₀ (retime s r) := by
  unfold retime
  try dsimp only
  repeat' first
    | with_reducible
        first
        | assumption | intro _ | apply keep_setRgn
    | split
    | with_reducible first | apply keep_rec | rfl

theorem keep_retimeAt {r₀ s : State} (kp : Keep r₀ s) (r t : Nat) :
    Keep r₀ (retimeAt s r t) := by
  unfold retimeAt
  try dsimp only
  repeat' first
    | with_reducible
        first
        | assumption | intro _ | apply keep_setRgn
    | split
    | with_reducible first | apply keep_rec | rfl

theorem keep_untripDie {r₀ s : State} (kp : Keep r₀ s) (d : Nat) :
    Keep r₀ (untripDie s d) := by
  unfold untripDie
  try dsimp only
  repeat' first
    | with_reducible
        first
        | assumption | intro _ | apply keep_modDie | apply keep_setField | apply keep_retime
    | split
    | with_reducible first | apply keep_rec | rfl

theorem keep_advClock {r₀ s : State} (kp : Keep r₀ s) (r k : Nat) :
    Keep r₀ (advClock s r k) := by
  unfold advClock
  try dsimp only
  repeat' first
    | with_reducible
        first
        | assumption | intro _ | apply keep_ite | apply keep_advFab
    | split
    | with_reducible first | apply keep_rec | rfl

theorem keep_modPart {r₀ s : State} (kp : Keep r₀ s) (q : Nat) (f : Partition → Partition) :
    Keep r₀ (modPart s q f) := by
  unfold modPart
  try dsimp only
  repeat' first
    | with_reducible
        first
        | assumption | intro _
    | split
    | with_reducible first | apply keep_rec | rfl

theorem keep_retireSets {r₀ s : State} (kp : Keep r₀ s) (u : Nat) :
    Keep r₀ (retireSets s u) := by
  unfold retireSets
  try dsimp only
  repeat' first
    | with_reducible
        first
        | assumption | intro _ | apply keep_setUn | apply keep_setReg
    | split
    | with_reducible first | apply keep_rec | rfl

theorem keep_takeDirtyUnit {r₀ s : State} (kp : Keep r₀ s) (u frame : Nat) :
    Keep r₀ (takeDirtyUnit s u frame) := by
  unfold takeDirtyUnit
  try dsimp only
  repeat' first
    | with_reducible
        first
        | assumption | intro _ | apply keep_ite | apply keep_setUn | apply keep_bump | apply keep_retireSets
    | split
    | with_reducible first | apply keep_rec | rfl

theorem keep_takeDirty {r₀ s : State} (kp : Keep r₀ s) (c : Nat) :
    Keep r₀ (takeDirty s c) := by
  unfold takeDirty
  try dsimp only
  repeat' first
    | with_reducible
        first
        | assumption | intro _ | apply keep_foldl | apply keep_takeDirtyUnit
    | split
    | with_reducible first | apply keep_rec | rfl

theorem keep_checkEnd {r₀ s : State} (kp : Keep r₀ s) (c : Nat) :
    Keep r₀ (checkEnd s c) := by
  unfold checkEnd
  try dsimp only
  repeat' first
    | with_reducible
        first
        | assumption | intro _ | apply keep_ite | apply keep_setCl | apply keep_takeDirty
    | split
    | with_reducible first | apply keep_rec | rfl

theorem keep_complete {r₀ s : State} (kp : Keep r₀ s) (c did st : Nat) :
    Keep r₀ (complete s c did st) := by
  unfold complete
  try dsimp only
  repeat' first
    | with_reducible
        first
        | assumption | intro _ | apply keep_ite | apply keep_setCl | apply keep_setField | apply keep_bump
        | apply keep_checkEnd
    | split
    | with_reducible first | apply keep_rec | rfl

theorem keep_descError {r₀ s : State} (kp : Keep r₀ s) (c : Nat) (d : Desc) (code : Nat) :
    Keep r₀ (descError s c d code) := by
  unfold descError
  try dsimp only
  repeat' first
    | with_reducible
        first
        | assumption | intro _ | apply keep_setReg | apply keep_bump | apply keep_complete
    | split
    | with_reducible first | apply keep_rec | rfl

/-! ### Machine/Scratchpad.lean -/

theorem keep_recordDrop {r₀ s : State} (kp : Keep r₀ s) (u off cause : Nat) (src : DropSrc) :
    Keep r₀ (recordDrop s u off cause src) := by
  unfold recordDrop
  try dsimp only
  repeat' first
    | with_reducible
        first
        | assumption | intro _ | apply keep_ite | apply keep_setReg | apply keep_bump
    | split
    | with_reducible first | apply keep_rec | rfl

theorem keep_spadWrite {r₀ s : State} (kp : Keep r₀ s) (u off : Nat) (bs : Bytes) :
    Keep r₀ (spadWrite s u off bs) := by
  unfold spadWrite
  try dsimp only
  repeat' first
    | with_reducible
        first
        | assumption | intro _ | apply keep_write
    | split
    | with_reducible first | apply keep_rec | rfl

theorem keep_markDirty {r₀ s : State} (kp : Keep r₀ s) (u slot : Nat) :
    Keep r₀ (markDirty s u slot) := by
  unfold markDirty
  try dsimp only
  repeat' first
    | with_reducible
        first
        | assumption | intro _ | apply keep_ite | apply keep_modUn
    | split
    | with_reducible first | apply keep_rec | rfl

theorem keep_markDirtyRange {r₀ s : State} (kp : Keep r₀ s) (u off len : Nat) :
    Keep r₀ (markDirtyRange s u off len) := by
  unfold markDirtyRange
  try dsimp only
  repeat' first
    | with_reducible
        first
        | assumption | intro _ | apply keep_foldl | apply keep_markDirty
    | split
    | with_reducible first | apply keep_rec | rfl

theorem keep_sweep {r₀ s : State} (kp : Keep r₀ s) (u upto : Nat) :
    Keep r₀ (sweep s u upto) := by
  unfold sweep
  try dsimp only
  repeat' first
    | with_reducible
        first
        | assumption | intro _ | apply keep_ite | apply keep_clear | apply keep_modUn
    | split
    | with_reducible first | apply keep_rec | rfl

theorem keep_startClear {r₀ s : State} (kp : Keep r₀ s) (u : Nat) (after : Option SpadMode) :
    Keep r₀ (startClear s u after) := by
  unfold startClear
  try dsimp only
  repeat' first
    | with_reducible
        first
        | assumption | intro _ | apply keep_sweep | apply keep_modUn | apply keep_clear
    | split
    | with_reducible first | apply keep_rec | rfl

theorem keep_wipeSpad {r₀ s : State} (kp : Keep r₀ s) (u : Nat) :
    Keep r₀ (wipeSpad s u) := by
  unfold wipeSpad
  try dsimp only
  repeat' first
    | with_reducible
        first
        | assumption | intro _ | apply keep_modUn | apply keep_clear
    | split
    | with_reducible first | apply keep_rec | rfl

theorem keep_execSpadClearDone {r₀ s : State} (kp : Keep r₀ s) (u : UnitId) :
    KeepRes r₀ (execSpadClearDone u s) := by
  unfold execSpadClearDone
  try dsimp only
  repeat' first
    | with_reducible
        first
        | assumption | intro _ | apply KeepRes.of | apply keep_ite | apply keepRes_ite | apply keep_modUn
        | apply keep_bump | apply keep_clear | apply keep_advClock | apply keep_wipeSpad
    | split
    | with_reducible first | apply keep_rec | rfl

/-! ### Machine/Issue.lean -/

theorem keep_tagSlot {r₀ s : State} (kp : Keep r₀ s) (u : Nat) (a : Access) (slot : Nat) :
    Keep r₀ (tagSlot s u a slot) := by
  unfold tagSlot
  try dsimp only
  repeat' first
    | with_reducible
        first
        | assumption | intro _ | apply keep_ite | apply keep_modUn | apply keep_markDirty
    | split
    | with_reducible first | apply keep_rec | rfl

theorem keep_tagDone {r₀ s : State} (kp : Keep r₀ s) (u : Nat) (d : Desc) (slot : Nat) :
    Keep r₀ (tagDone s u d slot) := by
  unfold tagDone
  try dsimp only
  repeat' first
    | with_reducible
        first
        | assumption | intro _ | apply keep_foldl | apply keep_tagSlot
    | split
    | with_reducible first | apply keep_rec | rfl

theorem keep_dayWait {r₀ s : State} (kp : Keep r₀ s) (u : Nat) (d : Desc) :
    Keep r₀ (dayWait s u d).2 := by
  unfold dayWait
  try dsimp only
  repeat' first
    | with_reducible
        first
        | assumption | intro _ | apply keep_ite | apply keep_drawChoice
    | split
    | with_reducible first | apply keep_rec | rfl

theorem keep_begin_ {r₀ s : State} (kp : Keep r₀ s) (u did : Nat) :
    Keep r₀ (begin_ s u did) := by
  unfold begin_
  try dsimp only
  repeat' first
    | with_reducible
        first
        | assumption | intro _ | apply keep_dayWait | apply keep_setUn
    | split
    | with_reducible first | apply keep_rec | rfl

/-! ### Machine/Array.lean -/

theorem keep_addFlop {r₀ s : State} (kp : Keep r₀ s) (u grp n : Nat) :
    Keep r₀ (addFlop s u grp n) := by
  unfold addFlop
  try dsimp only
  repeat' first
    | with_reducible
        first
        | assumption | intro _ | apply keep_modUn
    | split
    | with_reducible first | apply keep_rec | rfl

/-! ### Machine/Packets.lean -/

theorem keep_inject {r₀ s : State} (kp : Keep r₀ s) (site port : Nat) (p : Packet) :
    Keep r₀ (inject s site port p) := by
  unfold inject
  try dsimp only
  repeat' first
    | with_reducible
        first
        | assumption | intro _ | apply keep_modRtr
    | split
    | with_reducible first | apply keep_rec | rfl

theorem keep_popEject {r₀ s : State} (kp : Keep r₀ s) (site port agt : Nat) :
    Keep r₀ (popEject s site port agt) := by
  unfold popEject
  try dsimp only
  repeat' first
    | with_reducible
        first
        | assumption | intro _ | apply keep_ite | apply keep_modRtr
    | split
    | with_reducible first | apply keep_rec | rfl

theorem keep_serve {r₀ s : State} (kp : Keep r₀ s) (at_ : Nat × Nat) (want : Packet → Bool) (f : Packet → State →
    State) (hf : ∀ a0 t, Keep r₀ t → Keep r₀ (f a0 t)) :
    KeepRes r₀ (serve at_ want f s) := by
  unfold serve
  try dsimp only
  repeat' first
    | with_reducible
        first
        | assumption | intro _ | apply KeepRes.of | apply keep_popEject | apply hf
    | split
    | with_reducible first | apply keep_rec | rfl

theorem keep_injectClu {r₀ s : State} (kp : Keep r₀ s) (c : Nat) (p : Packet) :
    Keep r₀ (injectClu s c p) := by
  unfold injectClu
  try dsimp only
  repeat' first
    | with_reducible
        first
        | assumption | intro _ | apply keep_inject
    | split
    | with_reducible first | apply keep_rec | rfl

theorem keep_injectMr {r₀ s : State} (kp : Keep r₀ s) (n agt : Nat) (p : Packet) :
    Keep r₀ (injectMr s n agt p) := by
  unfold injectMr
  try dsimp only
  repeat' first
    | with_reducible
        first
        | assumption | intro _ | apply keep_inject
    | split
    | with_reducible first | apply keep_rec | rfl

theorem keep_injectEdge {r₀ s : State} (kp : Keep r₀ s) (e agt : Nat) (p : Packet) :
    Keep r₀ (injectEdge s e agt p) := by
  unfold injectEdge
  try dsimp only
  repeat' first
    | with_reducible
        first
        | assumption | intro _ | apply keep_inject
    | split
    | with_reducible first | apply keep_rec | rfl

theorem keep_charge {r₀ s : State} (kp : Keep r₀ s) (b : Nat) :
    Keep r₀ (charge s b) := by
  unfold charge
  try dsimp only
  repeat' first
    | with_reducible
        first
        | assumption | intro _ | apply keep_setBucket
    | split
    | with_reducible first | apply keep_rec | rfl

theorem keep_setBucketCfg {r₀ s : State} (kp : Keep r₀ s) (b f rate depth : Nat) :
    Keep r₀ (setBucketCfg s b f rate depth) := by
  unfold setBucketCfg
  try dsimp only
  repeat' first
    | with_reducible
        first
        | assumption | intro _ | apply keep_ite | apply keep_setBucket
    | split
    | with_reducible first | apply keep_rec | rfl

theorem keep_endBucketWait {r₀ s : State} (kp : Keep r₀ s) (c cls : Nat) :
    Keep r₀ (endBucketWait s c cls) := by
  unfold endBucketWait
  try dsimp only
  repeat' first
    | with_reducible
        first
        | assumption | intro _ | apply keep_setBucket | apply keep_bumpBy
    | split
    | with_reducible first | apply keep_rec | rfl

theorem keep_startBucketWait {r₀ s : State} (kp : Keep r₀ s) (c cls : Nat) :
    Keep r₀ (startBucketWait s c cls) := by
  unfold startBucketWait
  try dsimp only
  repeat' first
    | with_reducible
        first
        | assumption | intro _ | apply keep_ite | apply keep_setBucket
    | split
    | with_reducible first | apply keep_rec | rfl

theorem keep_sendCtrl {r₀ s : State} (kp : Keep r₀ s) (c : Nat) (p : Packet) :
    Keep r₀ (sendCtrl s c p) := by
  unfold sendCtrl
  try dsimp only
  repeat' first
    | with_reducible
        first
        | assumption | intro _ | apply keep_ite | apply keep_modCl | apply keep_injectClu | apply keep_charge
        | apply keep_startBucketWait
    | split
    | with_reducible first | apply keep_rec | rfl

theorem keep_sendCredit {r₀ s : State} (kp : Keep r₀ s) (c : Nat) (p : Packet) :
    Keep r₀ (sendCredit s c p) := by
  unfold sendCredit
  try dsimp only
  repeat' first
    | with_reducible
        first
        | assumption | intro _ | apply keep_ite | apply keep_modCl | apply keep_injectClu | apply keep_charge
        | apply keep_startBucketWait
    | split
    | with_reducible first | apply keep_rec | rfl

/-! ### Machine/Suspension.lean -/

theorem keep_fromMgr {r₀ s : State} (kp : Keep r₀ s) (p : Packet) :
    Keep r₀ (fromMgr s p) := by
  unfold fromMgr
  try dsimp only
  repeat' first
    | with_reducible
        first
        | assumption | intro _ | apply keep_injectEdge
    | split
    | with_reducible first | apply keep_rec | rfl

theorem keep_fromRegAgent {r₀ s : State} (kp : Keep r₀ s) (site : Nat) (p : Packet) :
    Keep r₀ (fromRegAgent s site p) := by
  unfold fromRegAgent
  try dsimp only
  repeat' first
    | with_reducible
        first
        | assumption | intro _ | apply keep_inject
    | split
    | with_reducible first | apply keep_rec | rfl

theorem keep_seeEpoch {r₀ s : State} (kp : Keep r₀ s) (site e : Nat) :
    Keep r₀ (seeEpoch s site e) := by
  unfold seeEpoch
  try dsimp only
  repeat' first
    | with_reducible
        first
        | assumption | intro _ | apply keep_ite | apply keep_modRtr
    | split
    | with_reducible first | apply keep_rec | rfl

theorem keep_serveMgmt {r₀ s : State} (kp : Keep r₀ s) (site sub : Nat) (f : Packet → State → State) (hf : ∀ a0 t,
    Keep r₀ t → Keep r₀ (f a0 t)) :
    KeepRes r₀ (serveMgmt site sub f s) := by
  unfold serveMgmt
  try dsimp only
  repeat' first
    | with_reducible
        first
        | assumption | intro _ | apply KeepRes.of | apply keep_ite | apply keepRes_ite | apply keep_serve
        | apply keep_seeEpoch | apply hf
    | split
    | with_reducible first | apply keep_rec | rfl

theorem keep_serveMgr {r₀ s : State} (kp : Keep r₀ s) (typ sub : Nat) (f : Packet → State → State) (hf : ∀ a0 t, Keep
    r₀ t → Keep r₀ (f a0 t)) :
    KeepRes r₀ (serveMgr typ sub f s) := by
  unfold serveMgr
  try dsimp only
  repeat' first
    | with_reducible
        first
        | assumption | intro _ | apply KeepRes.of | apply keep_serve | apply hf
    | split
    | with_reducible first | apply keep_rec | rfl

theorem keep_countLink {r₀ s : State} (kp : Keep r₀ s) (l st : Nat) :
    Keep r₀ (countLink s l st) := by
  unfold countLink
  try dsimp only
  repeat' first
    | with_reducible
        first
        | assumption | intro _ | apply keep_ite | apply keep_foldl | apply keep_bump
    | split
    | with_reducible first | apply keep_rec | rfl

theorem keep_changeLink {r₀ s : State} (kp : Keep r₀ s) (l : Nat) (x : Link) :
    Keep r₀ (changeLink s l x) := by
  unfold changeLink
  try dsimp only
  repeat' first
    | with_reducible
        first
        | assumption | intro _ | apply keep_modRtr | apply keep_setLink
    | split
    | with_reducible first | apply keep_rec | rfl

theorem keep_refreshSusp {r₀ s : State} (kp : Keep r₀ s) :
    Keep r₀ (refreshSusp s) := by
  unfold refreshSusp
  try dsimp only
  repeat' first
    | with_reducible
        first
        | assumption | intro _ | apply keep_setReg | apply keep_bumpBy
    | split
    | with_reducible first | apply keep_rec | rfl

theorem keep_linkChanged {r₀ s : State} (kp : Keep r₀ s) (l : Nat) :
    Keep r₀ (linkChanged s l) := by
  unfold linkChanged
  try dsimp only
  repeat' first
    | with_reducible
        first
        | assumption | intro _ | apply keep_ite | apply keep_refreshSusp
    | split
    | with_reducible first | apply keep_rec | rfl

/-! ### Machine/Messages.lean -/

theorem keep_dropMsg {r₀ s : State} (kp : Keep r₀ s) (q seq : Nat) :
    Keep r₀ (dropMsg s q seq) := by
  unfold dropMsg
  try dsimp only
  repeat' first
    | with_reducible
        first
        | assumption | intro _ | apply keep_modQtr | apply keep_bump
    | split
    | with_reducible first | apply keep_rec | rfl

theorem keep_stageMsg {r₀ s : State} (kp : Keep r₀ s) (q typ : Nat) (payload : Bytes) :
    Keep r₀ (stageMsg s q typ payload) := by
  unfold stageMsg
  try dsimp only
  repeat' first
    | with_reducible
        first
        | assumption | intro _ | apply keep_ite | apply keep_modQtr | apply keep_dropMsg
    | split
    | with_reducible first | apply keep_rec | rfl

theorem keep_stateEvent {r₀ s : State} (kp : Keep r₀ s) (qmask code value : Nat) :
    Keep r₀ (stateEvent s qmask code value) := by
  unfold stateEvent
  try dsimp only
  repeat' first
    | with_reducible
        first
        | assumption | intro _ | apply keep_foldl | apply keep_stageMsg
    | split
    | with_reducible first | apply keep_rec | rfl

theorem keep_toHost {r₀ s : State} (kp : Keep r₀ s) (q : Nat) (o : Output) :
    Keep r₀ (toHost s q o) := by
  unfold toHost
  try dsimp only
  repeat' first
    | with_reducible
        first
        | assumption | intro _ | apply keep_ite | apply keep_emit
    | split
    | with_reducible first | apply keep_rec | rfl

theorem keep_mbReply {r₀ s : State} (kp : Keep r₀ s) (q status : Nat) (payload : Bytes) :
    Keep r₀ (mbReply s q status payload) := by
  unfold mbReply
  try dsimp only
  repeat' first
    | with_reducible
        first
        | assumption | intro _ | apply keep_ite | apply keep_stageMsg | apply keep_toHost | apply keep_setReg
        | apply keep_modQtr
    | split
    | with_reducible first | apply keep_rec | rfl

theorem keep_mbRefuse {r₀ s : State} (kp : Keep r₀ s) (q cause : Nat) :
    Keep r₀ (mbRefuse s q cause) := by
  unfold mbRefuse
  try dsimp only
  repeat' first
    | with_reducible
        first
        | assumption | intro _ | apply keep_mbReply
    | split
    | with_reducible first | apply keep_rec | rfl

/-! ### Machine/CutCheck.lean -/

theorem keep_cutCheck {r₀ s : State} (kp : Keep r₀ s) (cfg : StreamCfg) :
    Keep r₀ (cutCheck s cfg).2 := by
  unfold cutCheck
  try dsimp only
  repeat' first
    | with_reducible
        first
        | assumption | intro _ | apply keep_setReg
    | split
    | with_reducible first | apply keep_rec | rfl

/-! ### Machine/Lock.lean -/

theorem keep_requestLock {r₀ s : State} (kp : Keep r₀ s) (r : LockReq) :
    Keep r₀ (requestLock s r) := by
  unfold requestLock
  try dsimp only
  repeat' first
    | with_reducible
        first
        | assumption | intro _ | apply keep_modMgr
    | split
    | with_reducible first | apply keep_rec | rfl

theorem keep_holdLock {r₀ s : State} (kp : Keep r₀ s) (code qmask : Nat) :
    Keep r₀ (holdLock s code qmask) := by
  unfold holdLock
  try dsimp only
  repeat' first
    | with_reducible
        first
        | assumption | intro _ | apply keep_foldl | apply keep_modQtr
    | split
    | with_reducible first | apply keep_rec | rfl

theorem keep_releaseLock {r₀ s : State} (kp : Keep r₀ s) (code qmask : Nat) :
    Keep r₀ (releaseLock s code qmask) := by
  unfold releaseLock
  try dsimp only
  repeat' first
    | with_reducible
        first
        | assumption | intro _ | apply keep_foldl | apply keep_modQtr
    | split
    | with_reducible first | apply keep_rec | rfl

theorem keep_recordConflict {r₀ s : State} (kp : Keep r₀ s) (r : LockReq) :
    Keep r₀ (recordConflict s r) := by
  unfold recordConflict
  try dsimp only
  repeat' first
    | with_reducible
        first
        | assumption | intro _ | apply keep_setReg | apply keep_bump
    | split
    | with_reducible first | apply keep_rec | rfl

/-! ### Machine/Equinox.lean -/

theorem keep_setOpStat {r₀ s : State} (kp : Keep r₀ s) (state tgt : Nat) :
    Keep r₀ (setOpStat s state tgt) := by
  unfold setOpStat
  try dsimp only
  repeat' first
    | with_reducible
        first
        | assumption | intro _ | apply keep_setReg
    | split
    | with_reducible first | apply keep_rec | rfl

theorem keep_modPend {r₀ s : State} (kp : Keep r₀ s) (q : Nat) (f : PendStream → PendStream) :
    Keep r₀ (modPend s q f) := by
  unfold modPend
  try dsimp only
  repeat' first
    | with_reducible
        first
        | assumption | intro _ | apply keep_modMgr
    | split
    | with_reducible first | apply keep_rec | rfl

theorem keep_startEqx {r₀ s : State} (kp : Keep r₀ s) (point : Nat) (stream : Option Nat) :
    Keep r₀ (startEqx s point stream) := by
  unfold startEqx
  try dsimp only
  repeat' first
    | with_reducible
        first
        | assumption | intro _ | apply keep_foldl | apply keep_modMgr | apply keep_setOpStat | apply keep_setReg
        | apply keep_modPend | apply keep_fromMgr
    | split
    | with_reducible first | apply keep_rec | rfl

theorem keep_modEqx {r₀ s : State} (kp : Keep r₀ s) (f : Eqx → Eqx) :
    Keep r₀ (modEqx s f) := by
  unfold modEqx
  try dsimp only
  repeat' first
    | with_reducible
        first
        | assumption | intro _ | apply keep_modMgr
    | split
    | with_reducible first | apply keep_rec | rfl

theorem keep_endEqx {r₀ s : State} (kp : Keep r₀ s) (done : Bool) :
    Keep r₀ (endEqx s done) := by
  unfold endEqx
  try dsimp only
  repeat' first
    | with_reducible
        first
        | assumption | intro _ | apply keep_ite | apply keep_modMgr | apply keep_bump | apply keep_releaseLock
        | apply keep_setOpStat | apply keep_modPend
    | split
    | with_reducible first | apply keep_rec | rfl

theorem keep_withdrawPosts {r₀ s : State} (kp : Keep r₀ s) :
    Keep r₀ (withdrawPosts s) := by
  unfold withdrawPosts
  try dsimp only
  repeat' first
    | with_reducible
        first
        | assumption | intro _
    | split
    | with_reducible first | apply keep_rec | rfl

theorem keep_execEqxPost {r₀ s : State} (kp : Keep r₀ s) (site : RouterId) :
    KeepRes r₀ (execEqxPost site s) := by
  unfold execEqxPost
  try dsimp only
  repeat' first
    | with_reducible
        first
        | assumption | intro _ | apply KeepRes.of | apply keep_ite | apply keepRes_ite | apply keep_serveMgmt
        | apply keep_fromRegAgent | apply keep_modKeeper
    | split
    | with_reducible first | apply keep_rec | rfl

theorem keep_execEqxAck {r₀ s : State} (kp : Keep r₀ s) :
    KeepRes r₀ (execEqxAck s) := by
  unfold execEqxAck
  try dsimp only
  repeat' first
    | with_reducible
        first
        | assumption | intro _ | apply KeepRes.of | apply keep_serveMgr | apply keep_modEqx
    | split
    | with_reducible first | apply keep_rec | rfl

theorem keep_execEqxAckWindowEnd {r₀ s : State} (kp : Keep r₀ s) :
    KeepRes r₀ (execEqxAckWindowEnd s) := by
  unfold execEqxAckWindowEnd
  try dsimp only
  repeat' first
    | with_reducible
        first
        | assumption | intro _ | apply KeepRes.of | apply keep_ite | apply keepRes_ite | apply keep_advFab
        | apply keep_endEqx | apply keep_withdrawPosts | apply keep_modEqx | apply keep_setOpStat
    | split
    | with_reducible first | apply keep_rec | rfl

theorem keep_execEqxRampDone {r₀ s : State} (kp : Keep r₀ s) :
    KeepRes r₀ (execEqxRampDone s) := by
  unfold execEqxRampDone
  try dsimp only
  repeat' first
    | with_reducible
        first
        | assumption | intro _ | apply KeepRes.of | apply keep_ite | apply keepRes_ite | apply keep_foldl
        | apply keep_modMgr | apply keep_advFab | apply keep_fromMgr | apply keep_setOpStat | apply keep_modEqx
        | apply keep_endEqx
    | split
    | with_reducible first | apply keep_rec | rfl

theorem keep_execEqxGo {r₀ s : State} (kp : Keep r₀ s) (site : RouterId) :
    KeepRes r₀ (execEqxGo site s) := by
  unfold execEqxGo
  try dsimp only
  repeat' first
    | with_reducible
        first
        | assumption | intro _ | apply KeepRes.of | apply keep_modKeeper | apply keep_serveMgmt
    | split
    | with_reducible first | apply keep_rec | rfl

theorem keep_changeDie {r₀ s : State} (kp : Keep r₀ s) (d : Nat) :
    Keep r₀ (changeDie s d) := by
  unfold changeDie
  try dsimp only
  repeat' first
    | with_reducible
        first
        | assumption | intro _ | apply keep_ite | apply keep_modRgn | apply keep_modKeeper | apply keep_retime
    | split
    | with_reducible first | apply keep_rec | rfl

theorem keep_restartSlack {r₀ s : State} (kp : Keep r₀ s) :
    Keep r₀ (restartSlack s) := by
  unfold restartSlack
  try dsimp only
  repeat' first
    | with_reducible
        first
        | assumption | intro _
    | split
    | with_reducible first | apply keep_rec | rfl

theorem keep_noteChanged {r₀ s : State} (kp : Keep r₀ s) :
    Keep r₀ (noteChanged s) := by
  unfold noteChanged
  try dsimp only
  repeat' first
    | with_reducible
        first
        | assumption | intro _ | apply keep_ite | apply keep_modMgr | apply keep_setOpStat | apply keep_modEqx
        | apply keep_endEqx | apply keep_restartSlack
    | split
    | with_reducible first | apply keep_rec | rfl

theorem keep_changeQuarters {r₀ s : State} (kp : Keep r₀ s) (qmask : Nat) :
    Keep r₀ (changeQuarters s qmask) := by
  unfold changeQuarters
  try dsimp only
  repeat' first
    | with_reducible
        first
        | assumption | intro _ | apply keep_foldl | apply keep_changeDie | apply keep_noteChanged
    | split
    | with_reducible first | apply keep_rec | rfl

theorem keep_execEqxFreqChange {r₀ s : State} (kp : Keep r₀ s) (q : QuarterId) :
    KeepRes r₀ (execEqxFreqChange q s) := by
  unfold execEqxFreqChange
  try dsimp only
  repeat' first
    | with_reducible
        first
        | assumption | intro _ | apply KeepRes.of | apply keep_when | apply keep_advNs | apply keep_changeQuarters
    | split
    | with_reducible first | apply keep_rec | rfl

theorem keep_execEqxVoltageLower {r₀ s : State} (kp : Keep r₀ s) :
    KeepRes r₀ (execEqxVoltageLower s) := by
  unfold execEqxVoltageLower
  try dsimp only
  repeat' first
    | with_reducible
        first
        | assumption | intro _ | apply KeepRes.of | apply keep_ite | apply keepRes_ite | apply keep_advFab
        | apply keep_setOpStat | apply keep_modEqx
    | split
    | with_reducible first | apply keep_rec | rfl

theorem keep_execKeeperFallback {r₀ s : State} (kp : Keep r₀ s) (site : RouterId) :
    KeepRes r₀ (execKeeperFallback site s) := by
  unfold execKeeperFallback
  try dsimp only
  repeat' first
    | with_reducible
        first
        | assumption | intro _ | apply KeepRes.of | apply keep_ite | apply keepRes_ite | apply keep_modRgn
        | apply keep_modKeeper | apply keep_retime
    | split
    | with_reducible first | apply keep_rec | rfl

theorem keep_execSupplyDroop {r₀ s : State} (kp : Keep r₀ s) (r : RegionId) :
    KeepRes r₀ (execSupplyDroop r s) := by
  unfold execSupplyDroop
  try dsimp only
  repeat' first
    | with_reducible
        first
        | assumption | intro _ | apply KeepRes.of | apply keep_modRgn | apply keep_retime
    | split
    | with_reducible first | apply keep_rec | rfl

theorem keep_execDroopStall {r₀ s : State} (kp : Keep r₀ s) (r : RegionId) :
    KeepRes r₀ (execDroopStall r s) := by
  unfold execDroopStall
  try dsimp only
  repeat' first
    | with_reducible
        first
        | assumption | intro _ | apply KeepRes.of | apply keep_ite | apply keepRes_ite | apply keep_modRgn
        | apply keep_bump | apply keep_retime
    | split
    | with_reducible first | apply keep_rec | rfl

theorem keep_execDroopRecovery {r₀ s : State} (kp : Keep r₀ s) (r : RegionId) :
    KeepRes r₀ (execDroopRecovery r s) := by
  unfold execDroopRecovery
  try dsimp only
  repeat' first
    | with_reducible
        first
        | assumption | intro _ | apply KeepRes.of | apply keep_modRgn | apply keep_retime
    | split
    | with_reducible first | apply keep_rec | rfl

end Sys2Proof.Machine
end

