-- ==== Sys2Proof/Laws/KeepData.lean ====
section
/-! SUPPORT. What every operation keeps (`Keep` of Laws/Keep.lean): the streams, the channels, the blocks, the caches and the sequencers. -/

set_option linter.unusedTactic false
set_option linter.unreachableTactic false

namespace Sys2Proof.Machine

/-! ### Machine/StreamLoad.lean -/

theorem keep_setSs {r₀ s : State} (kp : Keep r₀ s) (q state : Nat) (f : SsFail) :
    Keep r₀ (setSs s q state f) := by
  unfold setSs
  try dsimp only
  repeat' first
    | with_reducible
        first
        | assumption | intro _ | apply keep_setReg
    | split
    | with_reducible first | apply keep_rec | rfl

theorem keep_endSs {r₀ s : State} (kp : Keep r₀ s) (q state : Nat) (f : SsFail) :
    Keep r₀ (endSs s q state f) := by
  unfold endSs
  try dsimp only
  repeat' first
    | with_reducible
        first
        | assumption | intro _ | apply keep_stageMsg | apply keep_setSs
    | split
    | with_reducible first | apply keep_rec | rfl

theorem keep_refuseSs {r₀ s : State} (kp : Keep r₀ s) (q : Nat) (f : SsFail) :
    Keep r₀ (refuseSs s q f) := by
  unfold refuseSs
  try dsimp only
  repeat' first
    | with_reducible
        first
        | assumption | intro _ | apply keep_bump | apply keep_endSs
    | split
    | with_reducible first | apply keep_rec | rfl

theorem keep_wipeImages {r₀ s : State} (kp : Keep r₀ s) (cfg : StreamCfg) :
    Keep r₀ (wipeImages s cfg) := by
  unfold wipeImages
  try dsimp only
  repeat' first
    | with_reducible
        first
        | assumption | intro _ | apply keep_foldl | apply keep_clear
    | split
    | with_reducible first | apply keep_rec | rfl

theorem keep_dropSs {r₀ s : State} (kp : Keep r₀ s) (q : Nat) :
    Keep r₀ (dropSs s q) := by
  unfold dropSs
  try dsimp only
  repeat' first
    | with_reducible
        first
        | assumption | intro _ | apply keep_ite | apply keep_wipeImages | apply keep_modMgr
    | split
    | with_reducible first | apply keep_rec | rfl

theorem keep_abortSs {r₀ s : State} (kp : Keep r₀ s) (q code : Nat) :
    Keep r₀ (abortSs s q code) := by
  unfold abortSs
  try dsimp only
  repeat' first
    | with_reducible
        first
        | assumption | intro _ | apply keep_ite | apply keep_endSs | apply keep_dropSs
    | split
    | with_reducible first | apply keep_rec | rfl

theorem keep_abortStreams {r₀ s : State} (kp : Keep r₀ s) (m code : Nat) :
    Keep r₀ (abortStreams s m code) := by
  unfold abortStreams
  try dsimp only
  repeat' first
    | with_reducible
        first
        | assumption | intro _ | apply keep_foldl | apply keep_abortSs
    | split
    | with_reducible first | apply keep_rec | rfl

theorem keep_execSsLoad {r₀ s : State} (kp : Keep r₀ s) (q : QuarterId) :
    KeepRes r₀ (execSsLoad q s) := by
  unfold execSsLoad
  try dsimp only
  repeat' first
    | with_reducible
        first
        | assumption | intro _ | apply KeepRes.of | apply keep_modMgr | apply keep_bump | apply keep_when
        | apply keep_setSs
    | split
    | with_reducible first | apply keep_rec | rfl

theorem keep_execSsCancel {r₀ s : State} (kp : Keep r₀ s) (q : QuarterId) :
    KeepRes r₀ (execSsCancel q s) := by
  unfold execSsCancel
  try dsimp only
  repeat' first
    | with_reducible
        first
        | assumption | intro _ | apply KeepRes.of | apply keep_when | apply keep_endSs | apply keep_dropSs
    | split
    | with_reducible first | apply keep_rec | rfl

theorem keep_sectionChecks {r₀ s : State} (kp : Keep r₀ s) (cfg : StreamCfg) (secs : List Section) :
    Keep r₀ (sectionChecks s cfg secs).2 := by
  unfold sectionChecks
  try dsimp only
  repeat' first
    | with_reducible
        first
        | assumption | intro _ | apply keep_ite | apply keep_cutCheck
    | split
    | with_reducible first | apply keep_rec | rfl

theorem keep_zeroExtents {r₀ s : State} (kp : Keep r₀ s) (es : List (Nat × Nat × Nat)) :
    Keep r₀ (zeroExtents s es) := by
  unfold zeroExtents
  try dsimp only
  repeat' first
    | with_reducible
        first
        | assumption | intro _ | apply keep_foldl | apply keep_clear
    | split
    | with_reducible first | apply keep_rec | rfl

theorem keep_zeroNewReds {r₀ s : State} (kp : Keep r₀ s) (cfg : StreamCfg) (from_ : Nat) :
    Keep r₀ (zeroNewReds s cfg from_) := by
  unfold zeroNewReds
  try dsimp only
  repeat' first
    | with_reducible
        first
        | assumption | intro _ | apply keep_foldl | apply keep_modMr | apply keep_advFab
        | apply keep_zeroExtents
    | split
    | with_reducible first | apply keep_rec | rfl

theorem keep_installImages {r₀ s : State} (kp : Keep r₀ s) (cfg : StreamCfg) :
    Keep r₀ (installImages s cfg) := by
  unfold installImages
  try dsimp only
  repeat' first
    | with_reducible
        first
        | assumption | intro _ | apply keep_foldl | apply keep_write
    | split
    | with_reducible first | apply keep_rec | rfl

theorem keep_passStream {r₀ s : State} (kp : Keep r₀ s) (q : Nat) (cfg : StreamCfg) :
    Keep r₀ (passStream s q cfg) := by
  unfold passStream
  try dsimp only
  repeat' first
    | with_reducible
        first
        | assumption | intro _ | apply keep_ite | apply keep_setSs | apply keep_modMgr | apply keep_requestLock
        | apply keep_setReg
    | split
    | with_reducible first | apply keep_rec | rfl

theorem keep_validateBytes {r₀ s : State} (kp : Keep r₀ s) (q : Nat) (h : StreamHead) (bytes : Bytes) :
    Keep r₀ (validateBytes s q h bytes) := by
  unfold validateBytes
  split
  · exact keep_refuseSs kp ..
  split
  · exact keep_refuseSs kp ..
  extract_lets r b cfg
  split
  · exact keep_refuseSs kp ..
  have hc := keep_sectionChecks kp cfg r.1
  split
  · rename_i e; rw [e] at hc; exact keep_refuseSs hc ..
  · rename_i e; rw [e] at hc
    split
    · exact keep_setSs (keep_modMgr hc _) ..
    · exact keep_passStream hc ..

theorem keep_finishInstall {r₀ s : State} (kp : Keep r₀ s) (p : PendStream) :
    Keep r₀ (finishInstall s p) := by
  unfold finishInstall
  try dsimp only
  repeat' first
    | with_reducible
        first
        | assumption | intro _ | apply keep_ite | apply keep_modMgr | apply keep_refuseSs
        | apply keep_zeroNewReds | apply keep_passStream | apply keep_installImages
    | split
    | with_reducible first | apply keep_rec | rfl

theorem keep_execStreamValidate {r₀ s : State} (kp : Keep r₀ s) (q : QuarterId) (header rest : Option Bytes) :
    KeepRes r₀ (execStreamValidate q header rest s) := by
  unfold execStreamValidate
  try dsimp only
  repeat' first
    | with_reducible
        first
        | assumption | intro _ | apply KeepRes.of | apply keep_ite | apply keepRes_ite | apply keep_when
        | apply keep_finishInstall | apply keep_modMgr | apply keep_refuseSs | apply keep_validateBytes
    | split
    | with_reducible first | apply keep_rec | rfl

theorem keep_execPminRaiseRetry {r₀ s : State} (kp : Keep r₀ s) :
    KeepRes r₀ (execPminRaiseRetry s) := by
  unfold execPminRaiseRetry
  try dsimp only
  repeat' first
    | with_reducible
        first
        | assumption | intro _ | apply KeepRes.of | apply keep_ite | apply keepRes_ite | apply keep_setReg
        | apply keep_advFab | apply keep_requestLock | apply keep_modPend
    | split
    | with_reducible first | apply keep_rec | rfl

/-! ### Machine/Blocks.lean -/

theorem keep_storeBlock {r₀ s : State} (kp : Keep r₀ s) (n beta : Nat) (data : Bytes) (check : Nat) :
    Keep r₀ (storeBlock s n beta data check) := by
  unfold storeBlock
  try dsimp only
  repeat' first
    | with_reducible
        first
        | assumption | intro _ | apply keep_write
    | split
    | with_reducible first | apply keep_rec | rfl

theorem keep_storeRow {r₀ s : State} (kp : Keep r₀ s) (n beta : Nat) (p : Packet) :
    Keep r₀ (storeRow s n beta p) := by
  unfold storeRow
  try dsimp only
  repeat' first
    | with_reducible
        first
        | assumption | intro _ | apply keep_ite | apply keep_storeBlock
    | split
    | with_reducible first | apply keep_rec | rfl

theorem keep_noteRowErr {r₀ s : State} (kp : Keep r₀ s) (n k : Nat) :
    Keep r₀ (noteRowErr s n k) := by
  unfold noteRowErr
  try dsimp only
  repeat' first
    | with_reducible
        first
        | assumption | intro _ | apply keep_ite | apply keep_modMr
    | split
    | with_reducible first | apply keep_rec | rfl

theorem keep_noteEcc {r₀ s : State} (kp : Keep r₀ s) (n beta : Nat) (e : Ecc) : Keep r₀ (noteEcc s n beta e) := by
  cases e
  · exact kp
  · exact keep_noteRowErr (keep_bump kp _) ..
  · exact keep_bump kp _

theorem keep_readOnce {r₀ s : State} (kp : Keep r₀ s) (n beta : Nat) (e : Ecc) :
    Keep r₀ (readOnce s n beta e).2 := by
  unfold readOnce
  try dsimp only
  repeat' first
    | with_reducible
        first
        | assumption | intro _ | apply keep_noteEcc
    | split
    | with_reducible first | apply keep_rec | rfl

theorem keep_readTwice {r₀ s : State} (kp : Keep r₀ s) (n beta : Nat) (e1 e2 : Ecc) : Keep r₀ (readTwice s n beta e1
    e2).2 := by
  unfold readTwice
  extract_lets x
  have hx : Keep r₀ x.2 := keep_readOnce kp ..
  split
  · exact hx
  · exact keep_readOnce (keep_bump hx _) ..

theorem keep_logBlock {r₀ s : State} (kp : Keep r₀ s) (n cause beta : Nat) :
    Keep r₀ (logBlock s n cause beta) := by
  unfold logBlock
  try dsimp only
  repeat' first
    | with_reducible
        first
        | assumption | intro _ | apply keep_setReg
    | split
    | with_reducible first | apply keep_rec | rfl

theorem keep_noteSolo {r₀ s : State} (kp : Keep r₀ s) (n : Nat) (v : Serve) :
    Keep r₀ (noteSolo s n v) := by
  unfold noteSolo
  try dsimp only
  repeat' first
    | with_reducible
        first
        | assumption | intro _ | apply keep_ite | apply keep_bump
    | split
    | with_reducible first | apply keep_rec | rfl

theorem keep_readBlock {r₀ s : State} (kp : Keep r₀ s) (n : Nat) (v : Serve) (e1 e2 c1 c2 : Ecc) :
    Keep r₀ (readBlock s n v e1 e2 c1 c2).2 := by
  unfold readBlock
  extract_lets b x
  have hx : Keep r₀ x.2 := keep_readTwice kp ..
  split
  · exact hx
  split
  · exact keep_logBlock (keep_bump hx _) ..
  · extract_lets b2 y
    have hy : Keep r₀ y.2 := keep_readTwice hx ..
    split
    · exact keep_bump (keep_storeBlock hy ..) _
    · exact keep_logBlock (keep_bump hy _) ..

theorem keep_takeEcc {r₀ s : State} (kp : Keep r₀ s) (n beta : Nat) :
    Keep r₀ (takeEcc s n beta).2 := by
  unfold takeEcc
  try dsimp only
  repeat' first
    | with_reducible
        first
        | assumption | intro _ | apply keep_modMr
    | split
    | with_reducible first | apply keep_rec | rfl

theorem keep_verifyBlock {r₀ s : State} (kp : Keep r₀ s) (n beta : Nat) :
    Keep r₀ (verifyBlock s n beta).2 := by
  suffices ∀ x, verifyBlock s n beta = x → Keep r₀ x.2 from this _ rfl
  intro x hx
  unfold verifyBlock at hx
  extract_lets e y at hx
  have hy : Keep r₀ y.2 := keep_readTwice (keep_takeEcc kp ..) ..
  split at hx
  · subst hx; exact hy
  · subst hx; exact keep_pair _ (keep_logBlock (keep_bump hy _) ..)

theorem keep_partialWrite {r₀ s : State} (kp : Keep r₀ s) (n so : Nat) (bs : Bytes) :
    Keep r₀ (partialWrite s n so bs) := by
  unfold partialWrite
  extract_lets b x old o new
  exact keep_storeBlock (keep_verifyBlock kp ..) ..

theorem keep_partialRead {r₀ s : State} (kp : Keep r₀ s) (n so len : Nat) :
    Keep r₀ (partialRead s n so len).2 := by
  suffices ∀ x, partialRead s n so len = x → Keep r₀ x.2 from this _ rfl
  intro x hx
  unfold partialRead at hx
  extract_lets y at hx
  have hy : Keep r₀ y.2 := keep_verifyBlock kp ..
  subst hx; exact keep_pair _ hy

/-! ### Machine/Cache.lean -/

theorem keep_tryGet {r₀ s : State} (kp : Keep r₀ s) (c : Nat) :
    Keep r₀ (tryGet s c) := by
  unfold tryGet
  try dsimp only
  repeat' first
    | with_reducible
        first
        | assumption | intro _ | apply keep_ite | apply keep_modCl | apply keep_drawChoice | apply keep_sendCtrl
    | split
    | with_reducible first | apply keep_rec | rfl

theorem keep_flushCache {r₀ s : State} (kp : Keep r₀ s) (c : Nat) :
    Keep r₀ (flushCache s c) := by
  unfold flushCache
  try dsimp only
  repeat' first
    | with_reducible
        first
        | assumption | intro _ | apply keep_foldl | apply keep_modCl | apply keep_sendCtrl
    | split
    | with_reducible first | apply keep_rec | rfl

theorem keep_finishGet {r₀ s : State} (kp : Keep r₀ s) (c : Nat) :
    Keep r₀ (finishGet s c) := by
  unfold finishGet
  try dsimp only
  repeat' first
    | with_reducible
        first
        | assumption | intro _ | apply keep_ite | apply keep_setCl | apply keep_checkEnd | apply keep_sendCtrl
        | apply keep_flushCache
    | split
    | with_reducible first | apply keep_rec | rfl

theorem keep_serveCoh {r₀ s : State} (kp : Keep r₀ s) (r : RegionId) (sub : Nat) (f : Nat → Packet → State → State)
    (hf : ∀ a0 a1 t, Keep r₀ t → Keep r₀ (f a0 a1 t)) :
    KeepRes r₀ (serveCoh r sub f s) := by
  unfold serveCoh
  try dsimp only
  repeat' first
    | with_reducible
        first
        | assumption | intro _ | apply KeepRes.of | apply keep_serve | apply hf
    | split
    | with_reducible first | apply keep_rec | rfl

theorem keep_execCohFwdgets {r₀ s : State} (kp : Keep r₀ s) (r : RegionId) :
    KeepRes r₀ (execCohFwdgets r s) := by
  unfold execCohFwdgets
  try dsimp only
  repeat' first
    | with_reducible
        first
        | assumption | intro _ | apply KeepRes.of | apply keep_ite | apply keepRes_ite | apply keep_modCl
        | apply keep_sendCtrl | apply keep_serveCoh
    | split
    | with_reducible first | apply keep_rec | rfl

theorem keep_execCohFwdgetm {r₀ s : State} (kp : Keep r₀ s) (r : RegionId) :
    KeepRes r₀ (execCohFwdgetm r s) := by
  unfold execCohFwdgetm
  try dsimp only
  repeat' first
    | with_reducible
        first
        | assumption | intro _ | apply KeepRes.of | apply keep_modCl | apply keep_sendCtrl | apply keep_serveCoh
    | split
    | with_reducible first | apply keep_rec | rfl

theorem keep_execCohInv {r₀ s : State} (kp : Keep r₀ s) (r : RegionId) :
    KeepRes r₀ (execCohInv r s) := by
  unfold execCohInv
  try dsimp only
  repeat' first
    | with_reducible
        first
        | assumption | intro _ | apply KeepRes.of | apply keep_ite | apply keepRes_ite | apply keep_modCl
        | apply keep_sendCtrl | apply keep_serveCoh
    | split
    | with_reducible first | apply keep_rec | rfl

theorem keep_execCohRecall {r₀ s : State} (kp : Keep r₀ s) (r : RegionId) :
    KeepRes r₀ (execCohRecall r s) := by
  unfold execCohRecall
  try dsimp only
  repeat' first
    | with_reducible
        first
        | assumption | intro _ | apply KeepRes.of | apply keep_modCl | apply keep_sendCtrl | apply keep_serveCoh
    | split
    | with_reducible first | apply keep_rec | rfl

theorem keep_execCohPutack {r₀ s : State} (kp : Keep r₀ s) (r : RegionId) :
    KeepRes r₀ (execCohPutack r s) := by
  unfold execCohPutack
  try dsimp only
  repeat' first
    | with_reducible
        first
        | assumption | intro _ | apply KeepRes.of | apply keep_modCl | apply keep_tryGet | apply keep_serveCoh
    | split
    | with_reducible first | apply keep_rec | rfl

theorem keep_dataAtCache {r₀ s : State} (kp : Keep r₀ s) (c : Nat) (p : Packet) :
    Keep r₀ (dataAtCache c p s) := by
  unfold dataAtCache
  try dsimp only
  repeat' first
    | with_reducible
        first
        | assumption | intro _ | apply keep_ite | apply keep_modCl | apply keep_finishGet
    | split
    | with_reducible first | apply keep_rec | rfl

theorem keep_ackAtCache {r₀ s : State} (kp : Keep r₀ s) (c : Nat) (p : Packet) :
    Keep r₀ (ackAtCache c p s) := by
  unfold ackAtCache
  try dsimp only
  repeat' first
    | with_reducible
        first
        | assumption | intro _ | apply keep_ite | apply keep_modCl | apply keep_finishGet
    | split
    | with_reducible first | apply keep_rec | rfl

/-! ### Machine/HomeAgent.lean -/

theorem keep_sendEach {r₀ s : State} (kp : Keep r₀ s) (n : Nat) (cs : List Nat) (p : Nat → Packet) :
    Keep r₀ (sendEach s n cs p) := by
  unfold sendEach
  try dsimp only
  repeat' first
    | with_reducible
        first
        | assumption | intro _ | apply keep_foldl | apply keep_injectMr
    | split
    | with_reducible first | apply keep_rec | rfl

theorem keep_sendLine {r₀ s : State} (kp : Keep r₀ s) (n c line acks : Nat) :
    Keep r₀ (sendLine s n c line acks) := by
  unfold sendLine
  try dsimp only
  repeat' first
    | with_reducible
        first
        | assumption | intro _ | apply keep_injectMr | apply keep_partialRead
    | split
    | with_reducible first | apply keep_rec | rfl

theorem keep_doAtomic {r₀ s : State} (kp : Keep r₀ s) (n : Nat) (p : Packet) :
    Keep r₀ (doAtomic s n p) := by
  unfold doAtomic
  split
  · exact keep_injectMr (keep_partialWrite kp ..) ..
  extract_lets x
  have hx : Keep r₀ x.2 := keep_partialRead kp ..
  split
  · exact keep_injectMr hx ..
  extract_lets y
  apply keep_injectMr
  show Keep r₀ (if _ then _ else _)
  split
  · exact keep_partialWrite hx ..
  · exact hx

theorem keep_serveGet {r₀ s : State} (kp : Keep r₀ s) (n : Nat) (p : Packet) :
    Keep r₀ (serveGet s n p) := by
  unfold serveGet
  try dsimp only
  repeat' first
    | with_reducible
        first
        | assumption | intro _ | apply keep_ite | apply keep_modMr | apply keep_injectMr | apply keep_sendEach
        | apply keep_sendLine
    | split
    | with_reducible first | apply keep_rec | rfl

theorem keep_revoke {r₀ s : State} (kp : Keep r₀ s) (n : Nat) (e : DirEntry) (req : Packet) (evict : Bool) :
    Keep r₀ (revoke s n e req evict) := by
  unfold revoke
  try dsimp only
  repeat' first
    | with_reducible
        first
        | assumption | intro _ | apply keep_modMr | apply keep_injectMr | apply keep_sendEach
    | split
    | with_reducible first | apply keep_rec | rfl

theorem keep_startReq {r₀ s : State} (kp : Keep r₀ s) (n : Nat) (p : Packet) :
    Keep r₀ (startReq s n p) := by
  unfold startReq
  try dsimp only
  repeat' first
    | with_reducible
        first
        | assumption | intro _ | apply keep_ite | apply keep_modMr | apply keep_bump | apply keep_doAtomic
        | apply keep_serveGet | apply keep_revoke
    | split
    | with_reducible first | apply keep_rec | rfl

theorem keep_nextReqs {r₀ s : State} (kp : Keep r₀ s) (n k : Nat) : Keep r₀ (nextReqs n k s) := by
  induction k generalizing s with
  | zero => exact kp
  | succ k ih =>
    unfold nextReqs
    extract_lets x
    split
    · exact kp
    · exact ih (keep_startReq (keep_setMr kp ..) ..)

theorem keep_nextReq {r₀ s : State} (kp : Keep r₀ s) (n : Nat) :
    Keep r₀ (nextReq s n) := by
  unfold nextReq
  try dsimp only
  repeat' first
    | with_reducible
        first
        | assumption | intro _ | apply keep_nextReqs
    | split
    | with_reducible first | apply keep_rec | rfl

theorem keep_releaseHeld {r₀ s : State} (kp : Keep r₀ s) (n k : Nat) : Keep r₀ (releaseHeld n k s) := by
  induction k generalizing s with
  | zero => exact kp
  | succ k ih =>
    unfold releaseHeld
    split
    · exact kp
    · exact ih (keep_injectEdge (keep_modEdge kp ..) ..)

theorem keep_holdBack {r₀ s : State} (kp : Keep r₀ s) (p : Packet) :
    Keep r₀ (holdBack s p) := by
  unfold holdBack
  try dsimp only
  repeat' first
    | with_reducible
        first
        | assumption | intro _ | apply keep_modEdge
    | split
    | with_reducible first | apply keep_rec | rfl

theorem keep_homeRequest {r₀ s : State} (kp : Keep r₀ s) (n : Nat) (p : Packet) :
    Keep r₀ (homeRequest s n p) := by
  unfold homeRequest
  try dsimp only
  repeat' first
    | with_reducible
        first
        | assumption | intro _ | apply keep_ite | apply keep_setMr | apply keep_bump | apply keep_startReq
    | split
    | with_reducible first | apply keep_rec | rfl

theorem keep_endTx {r₀ s : State} (kp : Keep r₀ s) (n : Nat) (t : HomeTx) :
    Keep r₀ (endTx s n t) := by
  unfold endTx
  try dsimp only
  repeat' first
    | with_reducible
        first
        | assumption | intro _ | apply keep_ite | apply keep_foldl | apply keep_setMr | apply keep_injectMr
        | apply keep_modMr | apply keep_startReq | apply keep_doAtomic | apply keep_nextReq
        | apply keep_releaseHeld
    | split
    | with_reducible first | apply keep_rec | rfl

theorem keep_serveHome {r₀ s : State} (kp : Keep r₀ s) (st : StackId) (want : Packet → Bool) (f : Packet → State →
    State) (hf : ∀ a0 t, Keep r₀ t → Keep r₀ (f a0 t)) :
    KeepRes r₀ (serveHome st want f s) := by
  unfold serveHome
  try dsimp only
  repeat' first
    | with_reducible
        first
        | assumption | intro _ | apply KeepRes.of | apply keep_serve | apply hf
    | split
    | with_reducible first | apply keep_rec | rfl

theorem keep_execCohGets {r₀ s : State} (kp : Keep r₀ s) (st : StackId) :
    KeepRes r₀ (execCohGets st s) := by
  unfold execCohGets
  try dsimp only
  repeat' first
    | with_reducible
        first
        | assumption | intro _ | apply KeepRes.of | apply keep_homeRequest | apply keep_serveHome
    | split
    | with_reducible first | apply keep_rec | rfl

theorem keep_execCohGetm {r₀ s : State} (kp : Keep r₀ s) (st : StackId) :
    KeepRes r₀ (execCohGetm st s) := by
  unfold execCohGetm
  try dsimp only
  repeat' first
    | with_reducible
        first
        | assumption | intro _ | apply KeepRes.of | apply keep_homeRequest | apply keep_serveHome
    | split
    | with_reducible first | apply keep_rec | rfl

theorem keep_putAckOrDefer {r₀ s : State} (kp : Keep r₀ s) (n line c : Nat) :
    Keep r₀ (putAckOrDefer s n line c) := by
  unfold putAckOrDefer
  try dsimp only
  repeat' first
    | with_reducible
        first
        | assumption | intro _ | apply keep_ite | apply keep_setMr | apply keep_injectMr
    | split
    | with_reducible first | apply keep_rec | rfl

theorem keep_execCohPutm {r₀ s : State} (kp : Keep r₀ s) (st : StackId) :
    KeepRes r₀ (execCohPutm st s) := by
  unfold execCohPutm
  try dsimp only
  repeat' first
    | with_reducible
        first
        | assumption | intro _ | apply KeepRes.of | apply keep_ite | apply keepRes_ite | apply keep_modMr
        | apply keep_bump | apply keep_partialWrite | apply keep_serveHome | apply keep_putAckOrDefer
    | split
    | with_reducible first | apply keep_rec | rfl

theorem keep_dataAtHome {r₀ s : State} (kp : Keep r₀ s) (n : Nat) (p : Packet) :
    Keep r₀ (dataAtHome n p s) := by
  unfold dataAtHome
  try dsimp only
  repeat' first
    | with_reducible
        first
        | assumption | intro _ | apply keep_ite | apply keep_modMr | apply keep_partialWrite | apply keep_endTx
    | split
    | with_reducible first | apply keep_rec | rfl

theorem keep_ackAtHome {r₀ s : State} (kp : Keep r₀ s) (n : Nat) (p : Packet) :
    Keep r₀ (ackAtHome n p s) := by
  unfold ackAtHome
  try dsimp only
  repeat' first
    | with_reducible
        first
        | assumption | intro _ | apply keep_ite | apply keep_modMr | apply keep_endTx
    | split
    | with_reducible first | apply keep_rec | rfl

theorem keep_execCohInvack {r₀ s : State} (kp : Keep r₀ s) (p : AgentPort) :
    KeepRes r₀ (execCohInvack p s) := by
  unfold execCohInvack
  try dsimp only
  repeat' first
    | with_reducible
        first
        | assumption | intro _ | apply KeepRes.of | apply keep_serveCoh | apply keep_ackAtCache
        | apply keep_serveHome | apply keep_ackAtHome
    | split
    | with_reducible first | apply keep_rec | rfl

theorem keep_execCohData {r₀ s : State} (kp : Keep r₀ s) (p : AgentPort) :
    KeepRes r₀ (execCohData p s) := by
  unfold execCohData
  try dsimp only
  repeat' first
    | with_reducible
        first
        | assumption | intro _ | apply KeepRes.of | apply keep_serveCoh | apply keep_dataAtCache
        | apply keep_serveHome | apply keep_dataAtHome
    | split
    | with_reducible first | apply keep_rec | rfl

theorem keep_execCohUnblock {r₀ s : State} (kp : Keep r₀ s) (st : StackId) :
    KeepRes r₀ (execCohUnblock st s) := by
  unfold execCohUnblock
  try dsimp only
  repeat' first
    | with_reducible
        first
        | assumption | intro _ | apply KeepRes.of | apply keep_ite | apply keepRes_ite | apply keep_modMr
        | apply keep_endTx | apply keep_serveHome
    | split
    | with_reducible first | apply keep_rec | rfl

theorem keep_execAtom {r₀ s : State} (kp : Keep r₀ s) (st : StackId) :
    KeepRes r₀ (execAtom st s) := by
  unfold execAtom
  try dsimp only
  repeat' first
    | with_reducible
        first
        | assumption | intro _ | apply KeepRes.of | apply keep_ite | apply keepRes_ite | apply keep_serveHome
        | apply keep_homeRequest | apply keep_holdBack
    | split
    | with_reducible first | apply keep_rec | rfl

theorem keep_execCommitCas {r₀ s : State} (kp : Keep r₀ s) (st : StackId) :
    KeepRes r₀ (execCommitCas st s) := by
  unfold execCommitCas
  try dsimp only
  repeat' first
    | with_reducible
        first
        | assumption | intro _ | apply KeepRes.of | apply keep_homeRequest | apply keep_serveHome
    | split
    | with_reducible first | apply keep_rec | rfl

/-! ### Machine/Held.lean -/

theorem keep_recordReplay {r₀ s : State} (kp : Keep r₀ s) (q : Nat) (h : HeldStep) (outcome : Nat) :
    Keep r₀ (recordReplay s q h outcome) := by
  unfold recordReplay
  try dsimp only
  repeat' first
    | with_reducible
        first
        | assumption | intro _ | apply keep_setReg
    | split
    | with_reducible first | apply keep_rec | rfl

theorem keep_haltSoon {r₀ s : State} (kp : Keep r₀ s) (q : Nat) :
    Keep r₀ (haltSoon s q) := by
  unfold haltSoon
  try dsimp only
  repeat' first
    | with_reducible
        first
        | assumption | intro _ | apply keep_ite | apply keep_modPart
    | split
    | with_reducible first | apply keep_rec | rfl

theorem keep_unresolved {r₀ s : State} (kp : Keep r₀ s) (q : Nat) (h : HeldStep) :
    Keep r₀ (unresolved s q h) := by
  unfold unresolved
  try dsimp only
  repeat' first
    | with_reducible
        first
        | assumption | intro _ | apply keep_ite | apply keep_bump | apply keep_recordReplay | apply keep_haltSoon
    | split
    | with_reducible first | apply keep_rec | rfl

theorem keep_dropHopeless {r₀ s : State} (kp : Keep r₀ s) (q : Nat) :
    Keep r₀ (dropHopeless s q) := by
  unfold dropHopeless
  try dsimp only
  repeat' first
    | with_reducible
        first
        | assumption | intro _ | apply keep_ite | apply keep_foldl | apply keep_unresolved | apply keep_modPart
    | split
    | with_reducible first | apply keep_rec | rfl

theorem keep_addHeld {r₀ s : State} (kp : Keep r₀ s) (q : Nat) (h : HeldStep) :
    Keep r₀ (addHeld s q h) := by
  unfold addHeld
  try dsimp only
  repeat' first
    | with_reducible
        first
        | assumption | intro _ | apply keep_ite | apply keep_modPart | apply keep_unresolved
    | split
    | with_reducible first | apply keep_rec | rfl

theorem keep_breach {r₀ s : State} (kp : Keep r₀ s) (c : Nat) :
    Keep r₀ (breach s c) := by
  unfold breach
  try dsimp only
  repeat' first
    | with_reducible
        first
        | assumption | intro _ | apply keep_modCl
    | split
    | with_reducible first | apply keep_rec | rfl

end Sys2Proof.Machine
end

