-- ==== Sys2Proof/Laws/KeepEngines.lean ====
section
/-! SUPPORT. What every operation keeps (`Keep` of Laws/Keep.lean): the memory routers, the lanes, the stream engines, the stops and the spares. -/

set_option linter.unusedTactic false
set_option linter.unreachableTactic false

namespace Sys2Proof.Machine

/-! ### Machine/Lanes.lean -/

theorem keep_putElem {r₀ s : State} (kp : Keep r₀ s) (u : Nat) (f : Format) (tile r e v : Nat) :
    Keep r₀ (putElem s u f tile r e v) := by
  unfold putElem
  try dsimp only
  repeat' first
    | with_reducible
        first
        | assumption | intro _ | apply keep_ite | apply keep_spadWrite
    | split
    | with_reducible first | apply keep_rec | rfl

theorem keep_countCvt {r₀ s : State} (kp : Keep r₀ s) (u : Nat) (c : CvtCount) :
    Keep r₀ (countCvt s u c) := by
  unfold countCvt
  try dsimp only
  repeat' first
    | with_reducible
        first
        | assumption | intro _ | apply keep_bumpBy
    | split
    | with_reducible first | apply keep_rec | rfl

theorem keep_putRow {r₀ s : State} (kp : Keep r₀ s) (u : Nat) (d : Desc) (f : Format) (r : Nat) (vs : List Nat) :
    Keep r₀ (putRow s u d f r vs) := by
  unfold putRow
  try dsimp only
  repeat' first
    | with_reducible
        first
        | assumption | intro _ | apply keep_ite | apply keep_foldl | apply keep_spadWrite | apply keep_putElem
    | split
    | with_reducible first | apply keep_rec | rfl

theorem keep_putScale {r₀ s : State} (kp : Keep r₀ s) (u : Nat) (d : Desc) (f : Format) (r i sc : Nat) :
    Keep r₀ (putScale s u d f r i sc) := by
  unfold putScale
  try dsimp only
  repeat' first
    | with_reducible
        first
        | assumption | intro _ | apply keep_spadWrite
    | split
    | with_reducible first | apply keep_rec | rfl

theorem keep_writeRow {r₀ s : State} (kp : Keep r₀ s) (u : Nat) (e : Issued) (r : Nat) :
    Keep r₀ (writeRow s u e r) := by
  unfold writeRow
  try dsimp only
  repeat' first
    | with_reducible
        first
        | assumption | intro _ | apply keep_ite | apply keep_foldl | apply keep_putRow | apply keep_countCvt
        | apply keep_putScale | apply keep_modUn
    | split
    | with_reducible first | apply keep_rec | rfl

/-! ### Machine/UnitWork.lean -/

theorem keep_modIssued {r₀ s : State} (kp : Keep r₀ s) (u did : Nat) (f : Issued → Issued) :
    Keep r₀ (modIssued s u did f) := by
  unfold modIssued
  try dsimp only
  repeat' first
    | with_reducible
        first
        | assumption | intro _ | apply keep_modUn
    | split
    | with_reducible first | apply keep_rec | rfl

theorem keep_takeIn {r₀ s : State} (kp : Keep r₀ s) (u did k off len : Nat) :
    Keep r₀ (takeIn s u did k off len) := by
  unfold takeIn
  try dsimp only
  repeat' first
    | with_reducible
        first
        | assumption | intro _ | apply keep_modIssued
    | split
    | with_reducible first | apply keep_rec | rfl

theorem keep_takeColumn {r₀ s : State} (kp : Keep r₀ s) (u did k fmt tile q j : Nat) :
    Keep r₀ (takeColumn s u did k fmt tile q j) := by
  unfold takeColumn
  try dsimp only
  repeat' first
    | with_reducible
        first
        | assumption | intro _ | apply keep_foldl | apply keep_takeIn
    | split
    | with_reducible first | apply keep_rec | rfl

theorem keep_accessEffect {r₀ s : State} (kp : Keep r₀ s) (u : Nat) (e : Issued) (k : AccessKind) :
    Keep r₀ (accessEffect s u e k) := by
  unfold accessEffect
  try dsimp only
  repeat' first
    | with_reducible
        first
        | assumption | intro _ | apply keep_ite | apply keep_foldl | apply keep_takeIn | apply keep_takeColumn
        | apply keep_modIssued | apply keep_bumpBy | apply keep_write | apply keep_markDirty
        | apply keep_writeRow | apply keep_modUn
    | split
    | with_reducible first | apply keep_rec | rfl

theorem keep_makeAccess {r₀ s : State} (kp : Keep r₀ s) (u did : Nat) (a : UnitAccess) :
    Keep r₀ (makeAccess s u did a) := by
  unfold makeAccess
  try dsimp only
  repeat' first
    | with_reducible
        first
        | assumption | intro _ | apply keep_foldl | apply keep_modIssued | apply keep_accessEffect
        | apply keep_tagDone
    | split
    | with_reducible first | apply keep_rec | rfl

theorem keep_foldl_fst {α β : Type} {r : State} (f : State × β → α → State × β) (hf : ∀ v a, Keep r v.1 → Keep r (f v a).1)
    (l : List α) (v : State × β) (h : Keep r v.1) : Keep r (l.foldl f v).1 := by
  induction l generalizing v with
  | nil => exact h
  | cons a l ih => exact ih _ (hf v a h)

theorem keep_vopPhase {r₀ : State} (writes : Bool) (u t : Nat) (v : State × Bool) (kp : Keep r₀ v.1) (did : Nat) :
    Keep r₀ (vopPhase writes u t v did).1 := by
  unfold vopPhase
  split
  · exact kp
  · refine keep_foldl_fst _ (fun v a h => ?_) _ _ kp
    dsimp only
    generalize ((if writes then usesWrite _ a.kind else usesRead _ a.kind) && v.2 || waitsLanes _ _ _ _) = b
    cases b
    · exact keep_makeAccess h ..
    · exact h

theorem keep_vopWait {r₀ s : State} (kp : Keep r₀ s) (u t : Nat) (did : Nat) :
    Keep r₀ (vopWait u t s did) := by
  unfold vopWait
  try dsimp only
  repeat' first
    | with_reducible
        first
        | assumption | intro _ | apply keep_ite | apply keep_modIssued | apply keep_bump
    | split
    | with_reducible first | apply keep_rec | rfl

theorem keep_unitClock {r₀ s : State} (kp : Keep r₀ s) (u t : Nat) : Keep r₀ (unitClock u s t) := by
  unfold unitClock
  extract_lets x s1 begun op vops s2 s3 s4
  have h1 : Keep r₀ s1 := keep_ite (keep_bump kp _) kp
  have h2 : Keep r₀ s2 := keep_foldl _ (fun _ _ h => keep_makeAccess h ..) _ _ h1
  have h3 : Keep r₀ s3 := keep_foldl_fst _ (fun v a h => keep_vopPhase _ _ _ v h a) _ (s2, _) h2
  have h4 : Keep r₀ s4 := keep_foldl_fst _ (fun v a h => keep_vopPhase _ _ _ v h a) _ (s3, _) h3
  exact keep_foldl _ (fun _ _ h => keep_vopWait h ..) _ _ h4

theorem keep_catchUp {r₀ s : State} (kp : Keep r₀ s) (u upto : Nat) :
    Keep r₀ (catchUp s u upto) := by
  unfold catchUp
  try dsimp only
  repeat' first
    | with_reducible
        first
        | assumption | intro _ | apply keep_ite | apply keep_foldl | apply keep_sweep | apply keep_unitClock
        | apply keep_modUn
    | split
    | with_reducible first | apply keep_rec | rfl

theorem keep_atPresent {r₀ s : State} (kp : Keep r₀ s) (u : Nat) :
    Keep r₀ (atPresent s u) := by
  unfold atPresent
  try dsimp only
  repeat' first
    | with_reducible
        first
        | assumption | intro _ | apply keep_catchUp
    | split
    | with_reducible first | apply keep_rec | rfl

theorem keep_takePort {r₀ s : State} (kp : Keep r₀ s) (u : Nat) (write : Bool) :
    Keep r₀ (takePort s u write) := by
  unfold takePort
  try dsimp only
  repeat' first
    | with_reducible
        first
        | assumption | intro _ | apply keep_ite | apply keep_write | apply keep_modUn
    | split
    | with_reducible first | apply keep_rec | rfl

theorem keep_putOutside {r₀ s : State} (kp : Keep r₀ s) (u off : Nat) (bs : Bytes) (set : Bool) :
    Keep r₀ (putOutside s u off bs set) := by
  unfold putOutside
  try dsimp only
  repeat' first
    | with_reducible
        first
        | assumption | intro _ | apply keep_ite | apply keep_markDirtyRange | apply keep_spadWrite
        | apply keep_modUn | apply keep_bump
    | split
    | with_reducible first | apply keep_rec | rfl

theorem keep_undoOutside {r₀ s : State} (kp : Keep r₀ s) (u : Nat) (w : OutWrite) :
    Keep r₀ (undoOutside u s w) := by
  unfold undoOutside
  try dsimp only
  repeat' first
    | with_reducible
        first
        | assumption | intro _ | apply keep_ite | apply keep_spadWrite | apply keep_modUn
    | split
    | with_reducible first | apply keep_rec | rfl

theorem keep_unitFirst {r₀ s : State} (kp : Keep r₀ s) {α : Type} (u : Nat) (f : State → α × State) (hf : ∀ t, Keep r₀ t → Keep r₀ (f t).2) :
    Keep r₀ (unitFirst s u f).2 := by
  unfold unitFirst
  try dsimp only
  repeat' first
    | with_reducible
        first
        | assumption | intro _ | apply keep_ite | apply keep_foldl | apply keep_undoOutside
        | apply keep_putOutside | apply keep_modUn | apply hf
    | split
    | with_reducible first | apply keep_rec | rfl

theorem keep_outsideWrite {r₀ s : State} (kp : Keep r₀ s) (u off : Nat) (bs : Bytes) (set : Bool) (who : Outside) (src
    : DropSrc) :
    Keep r₀ (outsideWrite s u off bs set who src).2 := by
  unfold outsideWrite
  try dsimp only
  repeat' first
    | with_reducible
        first
        | assumption | intro _ | apply keep_recordDrop | apply keep_putOutside | apply keep_catchUp
        | apply keep_takePort
    | split
    | with_reducible first | apply keep_rec | rfl

theorem keep_outsideRead {r₀ s : State} (kp : Keep r₀ s) (u off len : Nat) (src : DropSrc) :
    Keep r₀ (outsideRead s u off len src).2 := by
  unfold outsideRead
  try dsimp only
  repeat' first
    | with_reducible
        first
        | assumption | intro _ | apply keep_recordDrop | apply keep_atPresent | apply keep_takePort
    | split
    | with_reducible first | apply keep_rec | rfl

theorem keep_unitIssue {r₀ s : State} (kp : Keep r₀ s) (want : Desc → Bool) (u : Nat) :
    KeepRes r₀ (unitIssue want u s) := by
  unfold unitIssue
  try dsimp only
  repeat' first
    | with_reducible
        first
        | assumption | intro _ | apply KeepRes.of | apply keep_ite | apply keepRes_ite | apply keep_advClock
        | apply keep_atPresent | apply keep_modUn | apply keep_descError | apply keep_setUn | apply keep_modCl
        | apply keep_begin_
    | split
    | with_reducible first | apply keep_rec | rfl

theorem keep_execTagWaitSatisfied {r₀ s : State} (kp : Keep r₀ s) (u : UnitId) (did : Nat) :
    KeepRes r₀ (execTagWaitSatisfied u did s) := by
  unfold execTagWaitSatisfied
  try dsimp only
  repeat' first
    | with_reducible
        first
        | assumption | intro _ | apply KeepRes.of | apply keep_when | apply keep_atPresent | apply keep_begin_
    | split
    | with_reducible first | apply keep_rec | rfl

theorem keep_unitDone {r₀ s : State} (kp : Keep r₀ s) (u did : Nat) :
    Keep r₀ (unitDone s u did) := by
  unfold unitDone
  try dsimp only
  repeat' first
    | with_reducible
        first
        | assumption | intro _ | apply keep_modUn
    | split
    | with_reducible first | apply keep_rec | rfl

theorem keep_execLoad {r₀ s : State} (kp : Keep r₀ s) (u : UnitId) :
    KeepRes r₀ (execLoad u s) := by
  unfold execLoad
  try dsimp only
  repeat' first
    | with_reducible
        first
        | assumption | intro _ | apply KeepRes.of | apply keep_unitIssue
    | split
    | with_reducible first | apply keep_rec | rfl

theorem keep_execStore {r₀ s : State} (kp : Keep r₀ s) (u : UnitId) :
    KeepRes r₀ (execStore u s) := by
  unfold execStore
  try dsimp only
  repeat' first
    | with_reducible
        first
        | assumption | intro _ | apply KeepRes.of | apply keep_unitIssue
    | split
    | with_reducible first | apply keep_rec | rfl

theorem keep_execSend {r₀ s : State} (kp : Keep r₀ s) (u : UnitId) :
    KeepRes r₀ (execSend u s) := by
  unfold execSend
  try dsimp only
  repeat' first
    | with_reducible
        first
        | assumption | intro _ | apply KeepRes.of | apply keep_unitIssue
    | split
    | with_reducible first | apply keep_rec | rfl

theorem keep_execRedAccumulate {r₀ s : State} (kp : Keep r₀ s) (u : UnitId) :
    KeepRes r₀ (execRedAccumulate u s) := by
  unfold execRedAccumulate
  try dsimp only
  repeat' first
    | with_reducible
        first
        | assumption | intro _ | apply KeepRes.of | apply keep_unitIssue
    | split
    | with_reducible first | apply keep_rec | rfl

theorem keep_execRedRead {r₀ s : State} (kp : Keep r₀ s) (u : UnitId) :
    KeepRes r₀ (execRedRead u s) := by
  unfold execRedRead
  try dsimp only
  repeat' first
    | with_reducible
        first
        | assumption | intro _ | apply KeepRes.of | apply keep_unitIssue
    | split
    | with_reducible first | apply keep_rec | rfl

theorem keep_execRedReadClear {r₀ s : State} (kp : Keep r₀ s) (u : UnitId) :
    KeepRes r₀ (execRedReadClear u s) := by
  unfold execRedReadClear
  try dsimp only
  repeat' first
    | with_reducible
        first
        | assumption | intro _ | apply KeepRes.of | apply keep_unitIssue
    | split
    | with_reducible first | apply keep_rec | rfl

theorem keep_execMma {r₀ s : State} (kp : Keep r₀ s) (u : UnitId) :
    KeepRes r₀ (execMma u s) := by
  unfold execMma
  try dsimp only
  repeat' first
    | with_reducible
        first
        | assumption | intro _ | apply KeepRes.of | apply keep_unitIssue
    | split
    | with_reducible first | apply keep_rec | rfl

theorem keep_execMmaComplete {r₀ s : State} (kp : Keep r₀ s) (u : UnitId) (did : Nat) (upset : List (Nat × BitVec 32)) :
    KeepRes r₀ (execMmaComplete u did upset s) := by
  unfold execMmaComplete
  try dsimp only
  repeat' first
    | with_reducible
        first
        | assumption | intro _ | apply KeepRes.of | apply keep_ite | apply keepRes_ite | apply keep_advClock
        | apply keep_catchUp | apply keep_modUn | apply keep_bumpBy | apply keep_bump | apply keep_setReg
        | apply keep_addFlop | apply keep_complete | apply keep_unitDone
    | split
    | with_reducible first | apply keep_rec | rfl

theorem keep_runVop {r₀ s : State} (kp : Keep r₀ s) (n u did : Nat) : Keep r₀ (runVop n u did s) := by
  induction n generalizing s with
  | zero => exact kp
  | succ n ih =>
    unfold runVop
    split
    · exact kp
    · dsimp only
      split
      · exact kp
      · exact ih (keep_catchUp kp ..)

theorem keep_execVopComplete {r₀ s : State} (kp : Keep r₀ s) (u : UnitId) (did : Nat) (w : Nat) :
    KeepRes r₀ (execVopComplete u did w s) := by
  unfold execVopComplete
  split
  · exact .of kp
  split
  · extract_lets s1 e1 s2 diff s3 s4
    have h1 : Keep r₀ s1 := keep_runVop (keep_atPresent kp ..) ..
    have h2 : Keep r₀ s2 := keep_advClock h1 ..
    have h3 : Keep r₀ s3 := keep_addFlop h2 ..
    have h4 : Keep r₀ s4 := keep_ite (keep_bump h3 _) h3
    exact .of (keep_complete (keep_unitDone h4 ..) ..)
  · exact .of kp

theorem keep_abandonUnit {r₀ s : State} (kp : Keep r₀ s) (u : Nat) (e : Issued) :
    Keep r₀ (abandonUnit s u e) := by
  unfold abandonUnit
  try dsimp only
  repeat' first
    | with_reducible
        first
        | assumption | intro _ | apply keep_ite | apply keep_modUn
    | split
    | with_reducible first | apply keep_rec | rfl

theorem keep_issueVop {r₀ s : State} (kp : Keep r₀ s) (k : Nat) (u : UnitId) :
    KeepRes r₀ (issueVop k u s) := by
  unfold issueVop
  try dsimp only
  repeat' first
    | with_reducible
        first
        | assumption | intro _ | apply KeepRes.of | apply keep_unitIssue
    | split
    | with_reducible first | apply keep_rec | rfl

theorem keep_execVopMov {r₀ s : State} (kp : Keep r₀ s) (u : UnitId) :
    KeepRes r₀ (execVopMov u s) := by
  unfold execVopMov
  try dsimp only
  repeat' first
    | with_reducible
        first
        | assumption | intro _ | apply KeepRes.of | apply keep_issueVop
    | split
    | with_reducible first | apply keep_rec | rfl

theorem keep_execVopAdd {r₀ s : State} (kp : Keep r₀ s) (u : UnitId) :
    KeepRes r₀ (execVopAdd u s) := by
  unfold execVopAdd
  try dsimp only
  repeat' first
    | with_reducible
        first
        | assumption | intro _ | apply KeepRes.of | apply keep_issueVop
    | split
    | with_reducible first | apply keep_rec | rfl

theorem keep_execVopSub {r₀ s : State} (kp : Keep r₀ s) (u : UnitId) :
    KeepRes r₀ (execVopSub u s) := by
  unfold execVopSub
  try dsimp only
  repeat' first
    | with_reducible
        first
        | assumption | intro _ | apply KeepRes.of | apply keep_issueVop
    | split
    | with_reducible first | apply keep_rec | rfl

theorem keep_execVopMul {r₀ s : State} (kp : Keep r₀ s) (u : UnitId) :
    KeepRes r₀ (execVopMul u s) := by
  unfold execVopMul
  try dsimp only
  repeat' first
    | with_reducible
        first
        | assumption | intro _ | apply KeepRes.of | apply keep_issueVop
    | split
    | with_reducible first | apply keep_rec | rfl

theorem keep_execVopFma {r₀ s : State} (kp : Keep r₀ s) (u : UnitId) :
    KeepRes r₀ (execVopFma u s) := by
  unfold execVopFma
  try dsimp only
  repeat' first
    | with_reducible
        first
        | assumption | intro _ | apply KeepRes.of | apply keep_issueVop
    | split
    | with_reducible first | apply keep_rec | rfl

theorem keep_execVopMin {r₀ s : State} (kp : Keep r₀ s) (u : UnitId) :
    KeepRes r₀ (execVopMin u s) := by
  unfold execVopMin
  try dsimp only
  repeat' first
    | with_reducible
        first
        | assumption | intro _ | apply KeepRes.of | apply keep_issueVop
    | split
    | with_reducible first | apply keep_rec | rfl

theorem keep_execVopMax {r₀ s : State} (kp : Keep r₀ s) (u : UnitId) :
    KeepRes r₀ (execVopMax u s) := by
  unfold execVopMax
  try dsimp only
  repeat' first
    | with_reducible
        first
        | assumption | intro _ | apply KeepRes.of | apply keep_issueVop
    | split
    | with_reducible first | apply keep_rec | rfl

theorem keep_execVopAbs {r₀ s : State} (kp : Keep r₀ s) (u : UnitId) :
    KeepRes r₀ (execVopAbs u s) := by
  unfold execVopAbs
  try dsimp only
  repeat' first
    | with_reducible
        first
        | assumption | intro _ | apply KeepRes.of | apply keep_issueVop
    | split
    | with_reducible first | apply keep_rec | rfl

theorem keep_execVopNeg {r₀ s : State} (kp : Keep r₀ s) (u : UnitId) :
    KeepRes r₀ (execVopNeg u s) := by
  unfold execVopNeg
  try dsimp only
  repeat' first
    | with_reducible
        first
        | assumption | intro _ | apply KeepRes.of | apply keep_issueVop
    | split
    | with_reducible first | apply keep_rec | rfl

theorem keep_execVopDiv {r₀ s : State} (kp : Keep r₀ s) (u : UnitId) :
    KeepRes r₀ (execVopDiv u s) := by
  unfold execVopDiv
  try dsimp only
  repeat' first
    | with_reducible
        first
        | assumption | intro _ | apply KeepRes.of | apply keep_issueVop
    | split
    | with_reducible first | apply keep_rec | rfl

theorem keep_execVopRcp {r₀ s : State} (kp : Keep r₀ s) (u : UnitId) :
    KeepRes r₀ (execVopRcp u s) := by
  unfold execVopRcp
  try dsimp only
  repeat' first
    | with_reducible
        first
        | assumption | intro _ | apply KeepRes.of | apply keep_issueVop
    | split
    | with_reducible first | apply keep_rec | rfl

theorem keep_execVopSqrt {r₀ s : State} (kp : Keep r₀ s) (u : UnitId) :
    KeepRes r₀ (execVopSqrt u s) := by
  unfold execVopSqrt
  try dsimp only
  repeat' first
    | with_reducible
        first
        | assumption | intro _ | apply KeepRes.of | apply keep_issueVop
    | split
    | with_reducible first | apply keep_rec | rfl

theorem keep_execVopRsqrt {r₀ s : State} (kp : Keep r₀ s) (u : UnitId) :
    KeepRes r₀ (execVopRsqrt u s) := by
  unfold execVopRsqrt
  try dsimp only
  repeat' first
    | with_reducible
        first
        | assumption | intro _ | apply KeepRes.of | apply keep_issueVop
    | split
    | with_reducible first | apply keep_rec | rfl

theorem keep_execVopExp2 {r₀ s : State} (kp : Keep r₀ s) (u : UnitId) :
    KeepRes r₀ (execVopExp2 u s) := by
  unfold execVopExp2
  try dsimp only
  repeat' first
    | with_reducible
        first
        | assumption | intro _ | apply KeepRes.of | apply keep_issueVop
    | split
    | with_reducible first | apply keep_rec | rfl

theorem keep_execVopLog2 {r₀ s : State} (kp : Keep r₀ s) (u : UnitId) :
    KeepRes r₀ (execVopLog2 u s) := by
  unfold execVopLog2
  try dsimp only
  repeat' first
    | with_reducible
        first
        | assumption | intro _ | apply KeepRes.of | apply keep_issueVop
    | split
    | with_reducible first | apply keep_rec | rfl

theorem keep_execVopTanh {r₀ s : State} (kp : Keep r₀ s) (u : UnitId) :
    KeepRes r₀ (execVopTanh u s) := by
  unfold execVopTanh
  try dsimp only
  repeat' first
    | with_reducible
        first
        | assumption | intro _ | apply KeepRes.of | apply keep_issueVop
    | split
    | with_reducible first | apply keep_rec | rfl

theorem keep_execVopRowsum {r₀ s : State} (kp : Keep r₀ s) (u : UnitId) :
    KeepRes r₀ (execVopRowsum u s) := by
  unfold execVopRowsum
  try dsimp only
  repeat' first
    | with_reducible
        first
        | assumption | intro _ | apply KeepRes.of | apply keep_issueVop
    | split
    | with_reducible first | apply keep_rec | rfl

theorem keep_execVopRowmax {r₀ s : State} (kp : Keep r₀ s) (u : UnitId) :
    KeepRes r₀ (execVopRowmax u s) := by
  unfold execVopRowmax
  try dsimp only
  repeat' first
    | with_reducible
        first
        | assumption | intro _ | apply KeepRes.of | apply keep_issueVop
    | split
    | with_reducible first | apply keep_rec | rfl

theorem keep_execVopColsum {r₀ s : State} (kp : Keep r₀ s) (u : UnitId) :
    KeepRes r₀ (execVopColsum u s) := by
  unfold execVopColsum
  try dsimp only
  repeat' first
    | with_reducible
        first
        | assumption | intro _ | apply KeepRes.of | apply keep_issueVop
    | split
    | with_reducible first | apply keep_rec | rfl

theorem keep_execVopColmax {r₀ s : State} (kp : Keep r₀ s) (u : UnitId) :
    KeepRes r₀ (execVopColmax u s) := by
  unfold execVopColmax
  try dsimp only
  repeat' first
    | with_reducible
        first
        | assumption | intro _ | apply KeepRes.of | apply keep_issueVop
    | split
    | with_reducible first | apply keep_rec | rfl

theorem keep_execVopCmpx {r₀ s : State} (kp : Keep r₀ s) (u : UnitId) :
    KeepRes r₀ (execVopCmpx u s) := by
  unfold execVopCmpx
  try dsimp only
  repeat' first
    | with_reducible
        first
        | assumption | intro _ | apply KeepRes.of | apply keep_issueVop
    | split
    | with_reducible first | apply keep_rec | rfl

/-! ### Machine/Channels.lean -/

theorem keep_modQueue {r₀ s : State} (kp : Keep r₀ s) (c q : Nat) (f : Queue → Queue) :
    Keep r₀ (modQueue s c q f) := by
  unfold modQueue
  try dsimp only
  repeat' first
    | with_reducible
        first
        | assumption | intro _ | apply keep_modCl
    | split
    | with_reducible first | apply keep_rec | rfl

theorem keep_flagPoison {r₀ s : State} (kp : Keep r₀ s) (c : Nat) :
    Keep r₀ (flagPoison s c) := by
  unfold flagPoison
  try dsimp only
  repeat' first
    | with_reducible
        first
        | assumption | intro _ | apply keep_ite | apply keep_modCl | apply keep_setField
    | split
    | with_reducible first | apply keep_rec | rfl

theorem keep_takeEntry {r₀ s : State} (kp : Keep r₀ s) (c q : Nat) :
    Keep r₀ (takeEntry s c q).2 := by
  unfold takeEntry
  try dsimp only
  repeat' first
    | with_reducible
        first
        | assumption | intro _ | apply keep_ite | apply keep_setReg | apply keep_modQueue | apply keep_flagPoison
    | split
    | with_reducible first | apply keep_rec | rfl

theorem keep_landRow {r₀ s : State} (kp : Keep r₀ s) (c : Nat) (p : Packet) :
    Keep r₀ (landRow s c p).2 := by
  unfold landRow
  try dsimp only
  repeat' first
    | with_reducible
        first
        | assumption | intro _ | apply keep_ite | apply keep_bump | apply keep_outsideWrite | apply keep_modQueue
    | split
    | with_reducible first | apply keep_rec | rfl

theorem keep_appendMsg {r₀ s : State} (kp : Keep r₀ s) (c q : Nat) (m : Msg) :
    Keep r₀ (appendMsg s c q m) := by
  unfold appendMsg
  try dsimp only
  repeat' first
    | with_reducible
        first
        | assumption | intro _ | apply keep_ite | apply keep_bump | apply keep_modQueue
    | split
    | with_reducible first | apply keep_rec | rfl

theorem keep_appendAll {r₀ s : State} (kp : Keep r₀ s) (k c q frame : Nat) : Keep r₀ (appendAll k s c q frame) := by
  induction k generalizing s with
  | zero => exact kp
  | succ k ih =>
    unfold appendAll
    extract_lets x
    split
    · exact kp
    · exact ih (keep_appendMsg kp ..)

theorem keep_countHeld {r₀ s : State} (kp : Keep r₀ s) (c q : Nat) :
    Keep r₀ (countHeld s c q) := by
  unfold countHeld
  try dsimp only
  repeat' first
    | with_reducible
        first
        | assumption | intro _ | apply keep_ite | apply keep_bumpBy | apply keep_modQueue
    | split
    | with_reducible first | apply keep_rec | rfl

theorem keep_flushQueue {r₀ s : State} (kp : Keep r₀ s) (c q frame : Nat) :
    Keep r₀ (flushQueue s c q frame) := by
  unfold flushQueue
  try dsimp only
  repeat' first
    | with_reducible
        first
        | assumption | intro _ | apply keep_countHeld | apply keep_appendAll
    | split
    | with_reducible first | apply keep_rec | rfl

theorem keep_flushQueues {r₀ s : State} (kp : Keep r₀ s) (c : Nat) :
    Keep r₀ (flushQueues s c) := by
  unfold flushQueues
  try dsimp only
  repeat' first
    | with_reducible
        first
        | assumption | intro _ | apply keep_foldl | apply keep_flushQueue
    | split
    | with_reducible first | apply keep_rec | rfl

theorem keep_creditReturn {r₀ s : State} (kp : Keep r₀ s) (c q : Nat) (m : Msg) :
    Keep r₀ (creditReturn s c q m) := by
  unfold creditReturn
  try dsimp only
  repeat' first
    | with_reducible
        first
        | assumption | intro _ | apply keep_ite | apply keep_sendCredit
    | split
    | with_reducible first | apply keep_rec | rfl

theorem keep_freeMsg {r₀ s : State} (kp : Keep r₀ s) (c q : Nat) (m : Msg) :
    Keep r₀ (freeMsg s c q m) := by
  unfold freeMsg
  try dsimp only
  repeat' first
    | with_reducible
        first
        | assumption | intro _ | apply keep_modQueue | apply keep_creditReturn
    | split
    | with_reducible first | apply keep_rec | rfl

theorem keep_discardMsg {r₀ s : State} (kp : Keep r₀ s) (c q : Nat) (d : QueueDecl) (m : Msg) :
    Keep r₀ (discardMsg s c q d m) := by
  unfold discardMsg
  try dsimp only
  repeat' first
    | with_reducible
        first
        | assumption | intro _ | apply keep_modUn | apply keep_bump | apply keep_modQueue | apply keep_freeMsg
    | split
    | with_reducible first | apply keep_rec | rfl

theorem keep_discardIncomplete {r₀ s : State} (kp : Keep r₀ s) (c q frame : Nat) :
    Keep r₀ (discardIncomplete s c q frame) := by
  unfold discardIncomplete
  try dsimp only
  repeat' first
    | with_reducible
        first
        | assumption | intro _ | apply keep_ite | apply keep_foldl | apply keep_flushQueue
        | apply keep_discardMsg
    | split
    | with_reducible first | apply keep_rec | rfl

theorem keep_ageMessages {r₀ s : State} (kp : Keep r₀ s) (c : Nat) :
    Keep r₀ (ageMessages s c) := by
  unfold ageMessages
  try dsimp only
  repeat' first
    | with_reducible
        first
        | assumption | intro _ | apply keep_foldl | apply keep_modCl | apply keep_discardIncomplete
    | split
    | with_reducible first | apply keep_rec | rfl

theorem keep_startWait {r₀ s : State} (kp : Keep r₀ s) (c cause : Nat) :
    Keep r₀ (startWait s c cause) := by
  unfold startWait
  try dsimp only
  repeat' first
    | with_reducible
        first
        | assumption | intro _ | apply keep_ite | apply keep_modCl
    | split
    | with_reducible first | apply keep_rec | rfl

theorem keep_endWait {r₀ s : State} (kp : Keep r₀ s) (c cause : Nat) :
    Keep r₀ (endWait s c cause) := by
  unfold endWait
  try dsimp only
  repeat' first
    | with_reducible
        first
        | assumption | intro _ | apply keep_modCl | apply keep_bumpBy
    | split
    | with_reducible first | apply keep_rec | rfl

theorem keep_endWaits {r₀ s : State} (kp : Keep r₀ s) (c : Nat) :
    Keep r₀ (endWaits s c) := by
  unfold endWaits
  try dsimp only
  repeat' first
    | with_reducible
        first
        | assumption | intro _ | apply keep_endWait
    | split
    | with_reducible first | apply keep_rec | rfl

theorem keep_returnSeg {r₀ s : State} (kp : Keep r₀ s) (c : Nat) (remote : Bool) (panel dclu dque seg : Nat) :
    Keep r₀ (returnSeg s c remote panel dclu dque seg) := by
  unfold returnSeg
  try dsimp only
  repeat' first
    | with_reducible
        first
        | assumption | intro _ | apply keep_ite | apply keep_endWait | apply keep_modCl
    | split
    | with_reducible first | apply keep_rec | rfl

theorem keep_resetChannels {r₀ s : State} (kp : Keep r₀ s) (c gen : Nat) (rings : List (Nat × Nat × Nat)) :
    Keep r₀ (resetChannels s c gen rings) := by
  unfold resetChannels
  try dsimp only
  repeat' first
    | with_reducible
        first
        | assumption | intro _ | apply keep_foldl | apply keep_modCl | apply keep_modUn
    | split
    | with_reducible first | apply keep_rec | rfl

theorem keep_answerRow {r₀ s : State} (kp : Keep r₀ s) (c : Nat) (p : Packet) (poison : Bool) (status : Nat) :
    Keep r₀ (answerRow s c p poison status) := by
  unfold answerRow
  try dsimp only
  repeat' first
    | with_reducible
        first
        | assumption | intro _ | apply keep_inject
    | split
    | with_reducible first | apply keep_rec | rfl

theorem keep_execMsg {r₀ s : State} (kp : Keep r₀ s) (r : RegionId) :
    KeepRes r₀ (execMsg r s) := by
  unfold execMsg
  try dsimp only
  repeat' first
    | with_reducible
        first
        | assumption | intro _ | apply KeepRes.of | apply keep_ite | apply keepRes_ite | apply keep_bump
        | apply keep_serve | apply keep_landRow | apply keep_answerRow
    | split
    | with_reducible first | apply keep_rec | rfl

theorem keep_execMsgAppend {r₀ s : State} (kp : Keep r₀ s) (cl : ClusterId) (q : Fin 64) :
    KeepRes r₀ (execMsgAppend cl q s) := by
  unfold execMsgAppend
  try dsimp only
  repeat' first
    | with_reducible
        first
        | assumption | intro _ | apply KeepRes.of | apply keep_flushQueue
    | split
    | with_reducible first | apply keep_rec | rfl

theorem keep_execMsgIncompleteDiscard {r₀ s : State} (kp : Keep r₀ s) (cl : ClusterId) (q : Fin 64) :
    KeepRes r₀ (execMsgIncompleteDiscard cl q s) := by
  unfold execMsgIncompleteDiscard
  try dsimp only
  repeat' first
    | with_reducible
        first
        | assumption | intro _ | apply KeepRes.of | apply keep_discardIncomplete
    | split
    | with_reducible first | apply keep_rec | rfl

theorem keep_execMsgDequeue {r₀ s : State} (kp : Keep r₀ s) (cl : ClusterId) (q : Fin 64) :
    KeepRes r₀ (execMsgDequeue cl q s) := by
  unfold execMsgDequeue
  try dsimp only
  repeat' first
    | with_reducible
        first
        | assumption | intro _ | apply KeepRes.of | apply keep_freeMsg
    | split
    | with_reducible first | apply keep_rec | rfl

theorem keep_execCredit {r₀ s : State} (kp : Keep r₀ s) (r : RegionId) :
    KeepRes r₀ (execCredit r s) := by
  unfold execCredit
  try dsimp only
  repeat' first
    | with_reducible
        first
        | assumption | intro _ | apply KeepRes.of | apply keep_ite | apply keepRes_ite | apply keep_serve
        | apply keep_returnSeg
    | split
    | with_reducible first | apply keep_rec | rfl

/-! ### Machine/Views.lean -/

theorem keep_latchSeconds {r₀ s : State} (kp : Keep r₀ s) (site req : Nat) :
    Keep r₀ (latchSeconds s site req) := by
  unfold latchSeconds
  try dsimp only
  repeat' first
    | with_reducible
        first
        | assumption | intro _ | apply keep_modKeeper
    | split
    | with_reducible first | apply keep_rec | rfl

theorem keep_writeRwWord {r₀ s : State} (kp : Keep r₀ s) (rows : List RegRow) (blk off v : Nat) :
    Keep r₀ (writeRwWord s rows blk off v) := by
  unfold writeRwWord
  try dsimp only
  repeat' first
    | with_reducible
        first
        | assumption | intro _ | apply keep_setReg
    | split
    | with_reducible first | apply keep_rec | rfl

/-! ### Machine/Sequencer.lean -/

theorem keep_trap {r₀ s : State} (kp : Keep r₀ s) (c cause : Nat) :
    Keep r₀ (trap s c cause) := by
  unfold trap
  try dsimp only
  repeat' first
    | with_reducible
        first
        | assumption | intro _ | apply keep_setCl | apply keep_setReg | apply keep_bump | apply keep_checkEnd
    | split
    | with_reducible first | apply keep_rec | rfl

theorem keep_lvs {r₀ s : State} (kp : Keep r₀ s) (c : ClusterId) (i : Instr) (f : State → State) (hf : ∀ t, Keep r₀ t
    → Keep r₀ (f t)) :
    KeepRes r₀ (lvs c i f s) := by
  unfold lvs
  try dsimp only
  repeat' first
    | with_reducible
        first
        | assumption | intro _ | apply KeepRes.of | apply keep_ite | apply keepRes_ite | apply keep_advClock
        | apply keep_trap | apply hf
    | split
    | with_reducible first | apply keep_rec | rfl

theorem keep_lvsDone {r₀ s : State} (kp : Keep r₀ s) (c cost : Nat) (x : Cluster) :
    Keep r₀ (lvsDone s c cost x) := by
  unfold lvsDone
  try dsimp only
  repeat' first
    | with_reducible
        first
        | assumption | intro _ | apply keep_setCl
    | split
    | with_reducible first | apply keep_rec | rfl

theorem keep_lvsWrite {r₀ s : State} (kp : Keep r₀ s) (c : ClusterId) (d : SReg) (cost : Nat) (v : Word) :
    Keep r₀ (lvsWrite c d cost v s) := by
  unfold lvsWrite
  try dsimp only
  repeat' first
    | with_reducible
        first
        | assumption | intro _ | apply keep_lvsDone
    | split
    | with_reducible first | apply keep_rec | rfl

theorem keep_lvsOp3 {r₀ s : State} (kp : Keep r₀ s) (i : Instr) (c : ClusterId) (d a b : SReg) (cost : Nat) (f : Word
    → Word → Word) :
    KeepRes r₀ (lvsOp3 i c d a b cost f s) := by
  unfold lvsOp3
  try dsimp only
  repeat' first
    | with_reducible
        first
        | assumption | intro _ | apply KeepRes.of | apply keep_lvs | apply keep_lvsWrite
    | split
    | with_reducible first | apply keep_rec | rfl

theorem keep_lvsOpI {r₀ s : State} (kp : Keep r₀ s) (i : Instr) (c : ClusterId) (d a : SReg) (f : Word → Word) :
    KeepRes r₀ (lvsOpI i c d a f s) := by
  unfold lvsOpI
  try dsimp only
  repeat' first
    | with_reducible
        first
        | assumption | intro _ | apply KeepRes.of | apply keep_lvs | apply keep_lvsWrite
    | split
    | with_reducible first | apply keep_rec | rfl

theorem keep_lvsGoto {r₀ s : State} (kp : Keep r₀ s) (c : ClusterId) (target : Int) (x : Cluster) :
    Keep r₀ (lvsGoto s c target x) := by
  unfold lvsGoto
  try dsimp only
  repeat' first
    | with_reducible
        first
        | assumption | intro _ | apply keep_ite | apply keep_setCl | apply keep_trap
    | split
    | with_reducible first | apply keep_rec | rfl

theorem keep_execAdd {r₀ s : State} (kp : Keep r₀ s) (c : ClusterId) (d a b : SReg) :
    KeepRes r₀ (execAdd c d a b s) := by
  unfold execAdd
  try dsimp only
  repeat' first
    | with_reducible
        first
        | assumption | intro _ | apply KeepRes.of | apply keep_lvsOp3
    | split
    | with_reducible first | apply keep_rec | rfl

theorem keep_execSub {r₀ s : State} (kp : Keep r₀ s) (c : ClusterId) (d a b : SReg) :
    KeepRes r₀ (execSub c d a b s) := by
  unfold execSub
  try dsimp only
  repeat' first
    | with_reducible
        first
        | assumption | intro _ | apply KeepRes.of | apply keep_lvsOp3
    | split
    | with_reducible first | apply keep_rec | rfl

theorem keep_execAnd {r₀ s : State} (kp : Keep r₀ s) (c : ClusterId) (d a b : SReg) :
    KeepRes r₀ (execAnd c d a b s) := by
  unfold execAnd
  try dsimp only
  repeat' first
    | with_reducible
        first
        | assumption | intro _ | apply KeepRes.of | apply keep_lvsOp3
    | split
    | with_reducible first | apply keep_rec | rfl

theorem keep_execOr {r₀ s : State} (kp : Keep r₀ s) (c : ClusterId) (d a b : SReg) :
    KeepRes r₀ (execOr c d a b s) := by
  unfold execOr
  try dsimp only
  repeat' first
    | with_reducible
        first
        | assumption | intro _ | apply KeepRes.of | apply keep_lvsOp3
    | split
    | with_reducible first | apply keep_rec | rfl

theorem keep_execXor {r₀ s : State} (kp : Keep r₀ s) (c : ClusterId) (d a b : SReg) :
    KeepRes r₀ (execXor c d a b s) := by
  unfold execXor
  try dsimp only
  repeat' first
    | with_reducible
        first
        | assumption | intro _ | apply KeepRes.of | apply keep_lvsOp3
    | split
    | with_reducible first | apply keep_rec | rfl

theorem keep_execSll {r₀ s : State} (kp : Keep r₀ s) (c : ClusterId) (d a b : SReg) :
    KeepRes r₀ (execSll c d a b s) := by
  unfold execSll
  try dsimp only
  repeat' first
    | with_reducible
        first
        | assumption | intro _ | apply KeepRes.of | apply keep_lvsOp3
    | split
    | with_reducible first | apply keep_rec | rfl

theorem keep_execSrl {r₀ s : State} (kp : Keep r₀ s) (c : ClusterId) (d a b : SReg) :
    KeepRes r₀ (execSrl c d a b s) := by
  unfold execSrl
  try dsimp only
  repeat' first
    | with_reducible
        first
        | assumption | intro _ | apply KeepRes.of | apply keep_lvsOp3
    | split
    | with_reducible first | apply keep_rec | rfl

theorem keep_execSra {r₀ s : State} (kp : Keep r₀ s) (c : ClusterId) (d a b : SReg) :
    KeepRes r₀ (execSra c d a b s) := by
  unfold execSra
  try dsimp only
  repeat' first
    | with_reducible
        first
        | assumption | intro _ | apply KeepRes.of | apply keep_lvsOp3
    | split
    | with_reducible first | apply keep_rec | rfl

theorem keep_execSlt {r₀ s : State} (kp : Keep r₀ s) (c : ClusterId) (d a b : SReg) :
    KeepRes r₀ (execSlt c d a b s) := by
  unfold execSlt
  try dsimp only
  repeat' first
    | with_reducible
        first
        | assumption | intro _ | apply KeepRes.of | apply keep_lvsOp3
    | split
    | with_reducible first | apply keep_rec | rfl

theorem keep_execSltu {r₀ s : State} (kp : Keep r₀ s) (c : ClusterId) (d a b : SReg) :
    KeepRes r₀ (execSltu c d a b s) := by
  unfold execSltu
  try dsimp only
  repeat' first
    | with_reducible
        first
        | assumption | intro _ | apply KeepRes.of | apply keep_lvsOp3
    | split
    | with_reducible first | apply keep_rec | rfl

theorem keep_execMul {r₀ s : State} (kp : Keep r₀ s) (c : ClusterId) (d a b : SReg) :
    KeepRes r₀ (execMul c d a b s) := by
  unfold execMul
  try dsimp only
  repeat' first
    | with_reducible
        first
        | assumption | intro _ | apply KeepRes.of | apply keep_lvsOp3
    | split
    | with_reducible first | apply keep_rec | rfl

theorem keep_execMulhu {r₀ s : State} (kp : Keep r₀ s) (c : ClusterId) (d a b : SReg) :
    KeepRes r₀ (execMulhu c d a b s) := by
  unfold execMulhu
  try dsimp only
  repeat' first
    | with_reducible
        first
        | assumption | intro _ | apply KeepRes.of | apply keep_lvsOp3
    | split
    | with_reducible first | apply keep_rec | rfl

theorem keep_execAddi {r₀ s : State} (kp : Keep r₀ s) (c : ClusterId) (d a : SReg) (i : Imm14) :
    KeepRes r₀ (execAddi c d a i s) := by
  unfold execAddi
  try dsimp only
  repeat' first
    | with_reducible
        first
        | assumption | intro _ | apply KeepRes.of | apply keep_lvsOpI
    | split
    | with_reducible first | apply keep_rec | rfl

theorem keep_execSlti {r₀ s : State} (kp : Keep r₀ s) (c : ClusterId) (d a : SReg) (i : Imm14) :
    KeepRes r₀ (execSlti c d a i s) := by
  unfold execSlti
  try dsimp only
  repeat' first
    | with_reducible
        first
        | assumption | intro _ | apply KeepRes.of | apply keep_lvsOpI
    | split
    | with_reducible first | apply keep_rec | rfl

theorem keep_execAndi {r₀ s : State} (kp : Keep r₀ s) (c : ClusterId) (d a : SReg) (i : Imm14) :
    KeepRes r₀ (execAndi c d a i s) := by
  unfold execAndi
  try dsimp only
  repeat' first
    | with_reducible
        first
        | assumption | intro _ | apply KeepRes.of | apply keep_lvsOpI
    | split
    | with_reducible first | apply keep_rec | rfl

theorem keep_execOri {r₀ s : State} (kp : Keep r₀ s) (c : ClusterId) (d a : SReg) (i : Imm14) :
    KeepRes r₀ (execOri c d a i s) := by
  unfold execOri
  try dsimp only
  repeat' first
    | with_reducible
        first
        | assumption | intro _ | apply KeepRes.of | apply keep_lvsOpI
    | split
    | with_reducible first | apply keep_rec | rfl

theorem keep_execXori {r₀ s : State} (kp : Keep r₀ s) (c : ClusterId) (d a : SReg) (i : Imm14) :
    KeepRes r₀ (execXori c d a i s) := by
  unfold execXori
  try dsimp only
  repeat' first
    | with_reducible
        first
        | assumption | intro _ | apply KeepRes.of | apply keep_lvsOpI
    | split
    | with_reducible first | apply keep_rec | rfl

theorem keep_execLui {r₀ s : State} (kp : Keep r₀ s) (c : ClusterId) (d : SReg) (i : Imm20) :
    KeepRes r₀ (execLui c d i s) := by
  unfold execLui
  try dsimp only
  repeat' first
    | with_reducible
        first
        | assumption | intro _ | apply KeepRes.of | apply keep_lvs | apply keep_lvsWrite
    | split
    | with_reducible first | apply keep_rec | rfl

theorem keep_lvsBranch {r₀ s : State} (kp : Keep r₀ s) (j : Instr) (c : ClusterId) (d a : SReg) (i : Imm14) (p : Word
    → Word → Bool) :
    KeepRes r₀ (lvsBranch j c d a i p s) := by
  unfold lvsBranch
  try dsimp only
  repeat' first
    | with_reducible
        first
        | assumption | intro _ | apply KeepRes.of | apply keep_ite | apply keepRes_ite | apply keep_lvs
        | apply keep_lvsDone | apply keep_lvsGoto
    | split
    | with_reducible first | apply keep_rec | rfl

theorem keep_execBeq {r₀ s : State} (kp : Keep r₀ s) (c : ClusterId) (d a : SReg) (i : Imm14) :
    KeepRes r₀ (execBeq c d a i s) := by
  unfold execBeq
  try dsimp only
  repeat' first
    | with_reducible
        first
        | assumption | intro _ | apply KeepRes.of | apply keep_lvsBranch
    | split
    | with_reducible first | apply keep_rec | rfl

theorem keep_execBne {r₀ s : State} (kp : Keep r₀ s) (c : ClusterId) (d a : SReg) (i : Imm14) :
    KeepRes r₀ (execBne c d a i s) := by
  unfold execBne
  try dsimp only
  repeat' first
    | with_reducible
        first
        | assumption | intro _ | apply KeepRes.of | apply keep_lvsBranch
    | split
    | with_reducible first | apply keep_rec | rfl

theorem keep_execBlt {r₀ s : State} (kp : Keep r₀ s) (c : ClusterId) (d a : SReg) (i : Imm14) :
    KeepRes r₀ (execBlt c d a i s) := by
  unfold execBlt
  try dsimp only
  repeat' first
    | with_reducible
        first
        | assumption | intro _ | apply KeepRes.of | apply keep_lvsBranch
    | split
    | with_reducible first | apply keep_rec | rfl

theorem keep_execBltu {r₀ s : State} (kp : Keep r₀ s) (c : ClusterId) (d a : SReg) (i : Imm14) :
    KeepRes r₀ (execBltu c d a i s) := by
  unfold execBltu
  try dsimp only
  repeat' first
    | with_reducible
        first
        | assumption | intro _ | apply KeepRes.of | apply keep_lvsBranch
    | split
    | with_reducible first | apply keep_rec | rfl

theorem keep_execJal {r₀ s : State} (kp : Keep r₀ s) (c : ClusterId) (d : SReg) (i : Imm20) :
    KeepRes r₀ (execJal c d i s) := by
  unfold execJal
  try dsimp only
  repeat' first
    | with_reducible
        first
        | assumption | intro _ | apply KeepRes.of | apply keep_lvs | apply keep_lvsGoto
    | split
    | with_reducible first | apply keep_rec | rfl

theorem keep_execJalr {r₀ s : State} (kp : Keep r₀ s) (c : ClusterId) (d a : SReg) (i : Imm14) :
    KeepRes r₀ (execJalr c d a i s) := by
  unfold execJalr
  try dsimp only
  repeat' first
    | with_reducible
        first
        | assumption | intro _ | apply KeepRes.of | apply keep_lvs | apply keep_lvsGoto
    | split
    | with_reducible first | apply keep_rec | rfl

theorem keep_lvsMiss {r₀ s : State} (kp : Keep r₀ s) (c : ClusterId) (x : Cluster) (line : Nat) (excl : Bool) (d a :
    Nat) (store : Option Word) :
    Keep r₀ (lvsMiss s c x line excl d a store) := by
  unfold lvsMiss
  try dsimp only
  repeat' first
    | with_reducible
        first
        | assumption | intro _ | apply keep_setCl | apply keep_tryGet
    | split
    | with_reducible first | apply keep_rec | rfl

theorem keep_execLw {r₀ s : State} (kp : Keep r₀ s) (c : ClusterId) (d a : SReg) (i : Imm14) :
    KeepRes r₀ (execLw c d a i s) := by
  unfold execLw
  try dsimp only
  repeat' first
    | with_reducible
        first
        | assumption | intro _ | apply KeepRes.of | apply keep_ite | apply keepRes_ite | apply keep_trap
        | apply keep_lvs | apply keep_lvsDone | apply keep_lvsMiss
    | split
    | with_reducible first | apply keep_rec | rfl

theorem keep_execSw {r₀ s : State} (kp : Keep r₀ s) (c : ClusterId) (d a : SReg) (i : Imm14) :
    KeepRes r₀ (execSw c d a i s) := by
  unfold execSw
  try dsimp only
  repeat' first
    | with_reducible
        first
        | assumption | intro _ | apply KeepRes.of | apply keep_ite | apply keepRes_ite | apply keep_write
        | apply keep_breach | apply keep_trap | apply keep_lvs | apply keep_lvsDone | apply keep_lvsMiss
    | split
    | with_reducible first | apply keep_rec | rfl

theorem keep_appendDesc {r₀ s : State} (kp : Keep r₀ s) (c : Nat) (raw : BitVec 256) :
    Keep r₀ (appendDesc s c raw) := by
  unfold appendDesc
  try dsimp only
  repeat' first
    | with_reducible
        first
        | assumption | intro _ | apply keep_setCl
    | split
    | with_reducible first | apply keep_rec | rfl

theorem keep_noteRoom {r₀ s : State} (kp : Keep r₀ s) (c : Nat) :
    Keep r₀ (noteRoom s c) := by
  unfold noteRoom
  try dsimp only
  repeat' first
    | with_reducible
        first
        | assumption | intro _ | apply keep_ite | apply keep_setCl | apply keep_bumpBy
    | split
    | with_reducible first | apply keep_rec | rfl

theorem keep_dispatch {r₀ s : State} (kp : Keep r₀ s) (c : ClusterId) (raw : BitVec 256) (cost : Nat) :
    Keep r₀ (dispatch s c raw cost) := by
  unfold dispatch
  try dsimp only
  repeat' first
    | with_reducible
        first
        | assumption | intro _ | apply keep_ite | apply keep_lvsDone | apply keep_modCl | apply keep_appendDesc
    | split
    | with_reducible first | apply keep_rec | rfl

theorem keep_execDisp {r₀ s : State} (kp : Keep r₀ s) (c : ClusterId) (a : SReg) :
    KeepRes r₀ (execDisp c a s) := by
  unfold execDisp
  try dsimp only
  repeat' first
    | with_reducible
        first
        | assumption | intro _ | apply KeepRes.of | apply keep_ite | apply keepRes_ite | apply keep_trap
        | apply keep_lvs | apply keep_dispatch
    | split
    | with_reducible first | apply keep_rec | rfl

theorem keep_execDispm {r₀ s : State} (kp : Keep r₀ s) (c : ClusterId) (a : SReg) (i : Imm14) :
    KeepRes r₀ (execDispm c a i s) := by
  unfold execDispm
  try dsimp only
  repeat' first
    | with_reducible
        first
        | assumption | intro _ | apply KeepRes.of | apply keep_ite | apply keepRes_ite | apply keep_trap
        | apply keep_lvs | apply keep_dispatch
    | split
    | with_reducible first | apply keep_rec | rfl

theorem keep_execDispatchStallRelease {r₀ s : State} (kp : Keep r₀ s) (c : ClusterId) :
    KeepRes r₀ (execDispatchStallRelease c s) := by
  unfold execDispatchStallRelease
  try dsimp only
  repeat' first
    | with_reducible
        first
        | assumption | intro _ | apply KeepRes.of | apply keep_ite | apply keepRes_ite | apply keep_dispatch
        | apply keep_noteRoom | apply keep_appendDesc | apply keep_modCl
    | split
    | with_reducible first | apply keep_rec | rfl

theorem keep_execWaitg {r₀ s : State} (kp : Keep r₀ s) (c : ClusterId) (a : SReg) (i : Imm14) :
    KeepRes r₀ (execWaitg c a i s) := by
  unfold execWaitg
  try dsimp only
  repeat' first
    | with_reducible
        first
        | assumption | intro _ | apply KeepRes.of | apply keep_ite | apply keepRes_ite | apply keep_lvs
        | apply keep_lvsDone
    | split
    | with_reducible first | apply keep_rec | rfl

theorem keep_execWaitgSatisfied {r₀ s : State} (kp : Keep r₀ s) (c : ClusterId) :
    KeepRes r₀ (execWaitgSatisfied c s) := by
  unfold execWaitgSatisfied
  try dsimp only
  repeat' first
    | with_reducible
        first
        | assumption | intro _ | apply KeepRes.of | apply keep_setCl | apply keep_when
    | split
    | with_reducible first | apply keep_rec | rfl

theorem keep_execGrd {r₀ s : State} (kp : Keep r₀ s) (c : ClusterId) (d : SReg) (i : Imm14) :
    KeepRes r₀ (execGrd c d i s) := by
  unfold execGrd
  try dsimp only
  repeat' first
    | with_reducible
        first
        | assumption | intro _ | apply KeepRes.of | apply keep_lvs | apply keep_lvsWrite
    | split
    | with_reducible first | apply keep_rec | rfl

theorem keep_execQrd {r₀ s : State} (kp : Keep r₀ s) (c : ClusterId) (d : SReg) (i : Imm14) :
    KeepRes r₀ (execQrd c d i s) := by
  unfold execQrd
  try dsimp only
  repeat' first
    | with_reducible
        first
        | assumption | intro _ | apply KeepRes.of | apply keep_ite | apply keepRes_ite | apply keep_setReg
        | apply keep_takeEntry | apply keep_breach | apply keep_lvs | apply keep_lvsWrite
    | split
    | with_reducible first | apply keep_rec | rfl

theorem keep_execQcnt {r₀ s : State} (kp : Keep r₀ s) (c : ClusterId) (d : SReg) (i : Imm14) :
    KeepRes r₀ (execQcnt c d i s) := by
  unfold execQcnt
  try dsimp only
  repeat' first
    | with_reducible
        first
        | assumption | intro _ | apply KeepRes.of | apply keep_ite | apply keepRes_ite | apply keep_breach
        | apply keep_lvs | apply keep_lvsWrite
    | split
    | with_reducible first | apply keep_rec | rfl

theorem keep_execCsrr {r₀ s : State} (kp : Keep r₀ s) (c : ClusterId) (d : SReg) (i : Imm14) :
    KeepRes r₀ (execCsrr c d i s) := by
  unfold execCsrr
  try dsimp only
  repeat' first
    | with_reducible
        first
        | assumption | intro _ | apply KeepRes.of | apply keep_ite | apply keepRes_ite | apply keep_latchSeconds
        | apply keep_trap | apply keep_lvs | apply keep_lvsWrite
    | split
    | with_reducible first | apply keep_rec | rfl

theorem keep_execCsrw {r₀ s : State} (kp : Keep r₀ s) (c : ClusterId) (a : SReg) (i : Imm14) :
    KeepRes r₀ (execCsrw c a i s) := by
  unfold execCsrw
  try dsimp only
  repeat' first
    | with_reducible
        first
        | assumption | intro _ | apply KeepRes.of | apply keep_ite | apply keepRes_ite | apply keep_writeRwWord
        | apply keep_trap | apply keep_lvs | apply keep_lvsDone
    | split
    | with_reducible first | apply keep_rec | rfl

theorem keep_execFence {r₀ s : State} (kp : Keep r₀ s) (c : ClusterId) :
    KeepRes r₀ (execFence c s) := by
  unfold execFence
  try dsimp only
  repeat' first
    | with_reducible
        first
        | assumption | intro _ | apply KeepRes.of | apply keep_ite | apply keepRes_ite | apply keep_lvs
        | apply keep_lvsDone
    | split
    | with_reducible first | apply keep_rec | rfl

theorem keep_execFenceSatisfied {r₀ s : State} (kp : Keep r₀ s) (c : ClusterId) :
    KeepRes r₀ (execFenceSatisfied c s) := by
  unfold execFenceSatisfied
  try dsimp only
  repeat' first
    | with_reducible
        first
        | assumption | intro _ | apply KeepRes.of | apply keep_setCl | apply keep_when
    | split
    | with_reducible first | apply keep_rec | rfl

theorem keep_execFend {r₀ s : State} (kp : Keep r₀ s) (c : ClusterId) :
    KeepRes r₀ (execFend c s) := by
  unfold execFend
  try dsimp only
  repeat' first
    | with_reducible
        first
        | assumption | intro _ | apply KeepRes.of | apply keep_ite | apply keepRes_ite | apply keep_setCl
        | apply keep_checkEnd | apply keep_trap | apply keep_lvs
    | split
    | with_reducible first | apply keep_rec | rfl

theorem keep_slotNext {r₀ s : State} (kp : Keep r₀ s) (c : ClusterId) (e : SchedEntry) (m ret t0 n : Nat) :
    Keep r₀ (slotNext s c e m ret t0 n) := by
  unfold slotNext
  try dsimp only
  repeat' first
    | with_reducible
        first
        | assumption | intro _ | apply keep_ite | apply keep_setCl | apply keep_modCl | apply keep_setField
        | apply keep_bump | apply keep_takeEntry
    | split
    | with_reducible first | apply keep_rec | rfl

theorem keep_execHslot {r₀ s : State} (kp : Keep r₀ s) (c : ClusterId) (i : Imm14) :
    KeepRes r₀ (execHslot c i s) := by
  unfold execHslot
  try dsimp only
  repeat' first
    | with_reducible
        first
        | assumption | intro _ | apply KeepRes.of | apply keep_ite | apply keepRes_ite | apply keep_setCl
        | apply keep_trap | apply keep_lvs | apply keep_lvsDone | apply keep_slotNext
    | split
    | with_reducible first | apply keep_rec | rfl

theorem keep_execHend {r₀ s : State} (kp : Keep r₀ s) (c : ClusterId) :
    KeepRes r₀ (execHend c s) := by
  unfold execHend
  try dsimp only
  repeat' first
    | with_reducible
        first
        | assumption | intro _ | apply KeepRes.of | apply keep_advClock | apply keep_trap | apply keep_lvs
        | apply keep_slotNext
    | split
    | with_reducible first | apply keep_rec | rfl

theorem keep_dqPop {r₀ s : State} (kp : Keep r₀ s) (c : Nat) (d : Desc) :
    Keep r₀ (dqPop s c d) := by
  unfold dqPop
  try dsimp only
  repeat' first
    | with_reducible
        first
        | assumption | intro _ | apply keep_noteRoom | apply keep_advClock | apply keep_modCl
    | split
    | with_reducible first | apply keep_rec | rfl

theorem keep_errorNext {r₀ s : State} (kp : Keep r₀ s) (c : Nat) (d : Desc) (code : Nat) :
    Keep r₀ (errorNext s c d code) := by
  unfold errorNext
  try dsimp only
  repeat' first
    | with_reducible
        first
        | assumption | intro _ | apply keep_descError | apply keep_advClock
    | split
    | with_reducible first | apply keep_rec | rfl

theorem keep_enterCommit {r₀ s : State} (kp : Keep r₀ s) (c : Nat) (d : Desc) :
    Keep r₀ (enterCommit s c d) := by
  unfold enterCommit
  try dsimp only
  repeat' first
    | with_reducible
        first
        | assumption | intro _ | apply keep_dqPop | apply keep_errorNext | apply keep_modCl
    | split
    | with_reducible first | apply keep_rec | rfl

theorem keep_execDispatchHeadDepart {r₀ s : State} (kp : Keep r₀ s) (c : ClusterId) :
    KeepRes r₀ (execDispatchHeadDepart c s) := by
  unfold execDispatchHeadDepart
  try dsimp only
  repeat' first
    | with_reducible
        first
        | assumption | intro _ | apply KeepRes.of | apply keep_ite | apply keepRes_ite | apply keep_modUn
        | apply keep_when | apply keep_dqPop | apply keep_enterCommit
    | split
    | with_reducible first | apply keep_rec | rfl

theorem keep_execCommit {r₀ s : State} (kp : Keep r₀ s) (c : ClusterId) :
    KeepRes r₀ (execCommit c s) := by
  unfold execCommit
  try dsimp only
  repeat' first
    | with_reducible
        first
        | assumption | intro _ | apply KeepRes.of | apply keep_when | apply keep_enterCommit
    | split
    | with_reducible first | apply keep_rec | rfl

theorem keep_waitHead {r₀ s : State} (kp : Keep r₀ s) (k : Nat) (c : ClusterId) :
    KeepRes r₀ (waitHead k c s) := by
  unfold waitHead
  try dsimp only
  repeat' first
    | with_reducible
        first
        | assumption | intro _ | apply KeepRes.of | apply keep_ite | apply keepRes_ite | apply keep_errorNext
        | apply keep_dqPop | apply keep_advClock | apply keep_modCl
    | split
    | with_reducible first | apply keep_rec | rfl

theorem keep_execWaitGroupGe {r₀ s : State} (kp : Keep r₀ s) (c : ClusterId) :
    KeepRes r₀ (execWaitGroupGe c s) := by
  unfold execWaitGroupGe
  try dsimp only
  repeat' first
    | with_reducible
        first
        | assumption | intro _ | apply KeepRes.of | apply keep_waitHead
    | split
    | with_reducible first | apply keep_rec | rfl

theorem keep_execWaitQueueNe {r₀ s : State} (kp : Keep r₀ s) (c : ClusterId) :
    KeepRes r₀ (execWaitQueueNe c s) := by
  unfold execWaitQueueNe
  try dsimp only
  repeat' first
    | with_reducible
        first
        | assumption | intro _ | apply KeepRes.of | apply keep_waitHead
    | split
    | with_reducible first | apply keep_rec | rfl

theorem keep_execWaitFrameTime {r₀ s : State} (kp : Keep r₀ s) (c : ClusterId) :
    KeepRes r₀ (execWaitFrameTime c s) := by
  unfold execWaitFrameTime
  try dsimp only
  repeat' first
    | with_reducible
        first
        | assumption | intro _ | apply KeepRes.of | apply keep_waitHead
    | split
    | with_reducible first | apply keep_rec | rfl

theorem keep_execWaitTagFull {r₀ s : State} (kp : Keep r₀ s) (c : ClusterId) :
    KeepRes r₀ (execWaitTagFull c s) := by
  unfold execWaitTagFull
  try dsimp only
  repeat' first
    | with_reducible
        first
        | assumption | intro _ | apply KeepRes.of | apply keep_waitHead
    | split
    | with_reducible first | apply keep_rec | rfl

theorem keep_execWaitTagEmpty {r₀ s : State} (kp : Keep r₀ s) (c : ClusterId) :
    KeepRes r₀ (execWaitTagEmpty c s) := by
  unfold execWaitTagEmpty
  try dsimp only
  repeat' first
    | with_reducible
        first
        | assumption | intro _ | apply KeepRes.of | apply keep_waitHead
    | split
    | with_reducible first | apply keep_rec | rfl

theorem keep_execWaitSatisfied {r₀ s : State} (kp : Keep r₀ s) (c : ClusterId) :
    KeepRes r₀ (execWaitSatisfied c s) := by
  unfold execWaitSatisfied
  try dsimp only
  repeat' first
    | with_reducible
        first
        | assumption | intro _ | apply KeepRes.of | apply keep_ite | apply keepRes_ite | apply keep_advNs
        | apply keep_complete | apply keep_breach | apply keep_dqPop
    | split
    | with_reducible first | apply keep_rec | rfl

theorem keep_recordCommit {r₀ s : State} (kp : Keep r₀ s) (c : Nat) (d : Desc) (outcome : Nat) :
    Keep r₀ (recordCommit s c d outcome) := by
  unfold recordCommit
  try dsimp only
  repeat' first
    | with_reducible
        first
        | assumption | intro _ | apply keep_setReg | apply keep_bump
    | split
    | with_reducible first | apply keep_rec | rfl

theorem keep_commitPop {r₀ s : State} (kp : Keep r₀ s) (c did : Nat) :
    Keep r₀ (commitPop s c did) := by
  unfold commitPop
  try dsimp only
  repeat' first
    | with_reducible
        first
        | assumption | intro _ | apply keep_modCl
    | split
    | with_reducible first | apply keep_rec | rfl

theorem keep_sendCommit {r₀ s : State} (kp : Keep r₀ s) (c : Nat) (k : Commit) (susp : Bool) (tag : Nat) :
    Keep r₀ (sendCommit s c k susp tag) := by
  unfold sendCommit
  try dsimp only
  repeat' first
    | with_reducible
        first
        | assumption | intro _ | apply keep_ite | apply keep_modCl | apply keep_sendCtrl
    | split
    | with_reducible first | apply keep_rec | rfl

theorem keep_execCommitEvaluate {r₀ s : State} (kp : Keep r₀ s) (c : ClusterId) :
    KeepRes r₀ (execCommitEvaluate c s) := by
  unfold execCommitEvaluate
  try dsimp only
  repeat' first
    | with_reducible
        first
        | assumption | intro _ | apply KeepRes.of | apply keep_ite | apply keepRes_ite | apply keep_complete
        | apply keep_commitPop | apply keep_setCl | apply keep_recordCommit | apply keep_addHeld
        | apply keep_haltSoon | apply keep_startWait | apply keep_endWait | apply keep_sendCommit
    | split
    | with_reducible first | apply keep_rec | rfl

theorem keep_atomAtCluster {r₀ s : State} (kp : Keep r₀ s) (c : Nat) (p : Packet) :
    Keep r₀ (atomAtCluster c p s) := by
  unfold atomAtCluster
  try dsimp only
  repeat' first
    | with_reducible
        first
        | assumption | intro _ | apply keep_ite | apply keep_endWait | apply keep_setCl
    | split
    | with_reducible first | apply keep_rec | rfl

theorem keep_finishCommit {r₀ s : State} (kp : Keep r₀ s) (c : Nat) (k : Commit) (outcome : Nat) :
    Keep r₀ (finishCommit s c k outcome) := by
  unfold finishCommit
  try dsimp only
  repeat' first
    | with_reducible
        first
        | assumption | intro _ | apply keep_ite | apply keep_bump | apply keep_complete | apply keep_recordCommit
        | apply keep_commitPop
    | split
    | with_reducible first | apply keep_rec | rfl

/-! ### Machine/MemRouter.lean -/

theorem keep_openMerge {r₀ s : State} (kp : Keep r₀ s) (n beta : Nat) (p : Packet) :
    Keep r₀ (openMerge s n beta p) := by
  unfold openMerge
  try dsimp only
  repeat' first
    | with_reducible
        first
        | assumption | intro _ | apply keep_ite | apply keep_setMr | apply keep_bump
    | split
    | with_reducible first | apply keep_rec | rfl

theorem keep_mergeRead {r₀ s : State} (kp : Keep r₀ s) (n beta : Nat) (p : Packet) :
    Keep r₀ (mergeRead s n beta p) := by
  unfold mergeRead
  try dsimp only
  repeat' first
    | with_reducible
        first
        | assumption | intro _ | apply keep_ite | apply keep_setMr | apply keep_bump | apply keep_openMerge
    | split
    | with_reducible first | apply keep_rec | rfl

theorem keep_noteRequest {r₀ s : State} (kp : Keep r₀ s) (n : Nat) :
    Keep r₀ (noteRequest s n) := by
  unfold noteRequest
  try dsimp only
  repeat' first
    | with_reducible
        first
        | assumption | intro _ | apply keep_modMr
    | split
    | with_reducible first | apply keep_rec | rfl

theorem keep_readArrives {r₀ s : State} (kp : Keep r₀ s) (n : Nat) (p : Packet) :
    Keep r₀ (readArrives s n p) := by
  unfold readArrives
  try dsimp only
  repeat' first
    | with_reducible
        first
        | assumption | intro _ | apply keep_injectMr | apply keep_noteSolo | apply keep_mergeRead
        | apply keep_noteRequest
    | split
    | with_reducible first | apply keep_rec | rfl

theorem keep_readSpad {r₀ s : State} (kp : Keep r₀ s) (r : Nat) (p : Packet) :
    Keep r₀ (readSpad s r p) := by
  unfold readSpad
  extract_lets back len
  have hb : ∀ q t, Keep r₀ t → Keep r₀ (back q t) := fun q t ht => keep_inject ht ..
  split
  · exact hb _ _ kp
  split
  · exact hb _ _ kp
  rename_i u off _ _
  have hc := keep_outsideRead kp u off len .fabric
  split
  · rename_i e; rw [e] at hc; exact hb _ _ hc
  · rename_i e; rw [e] at hc; exact hb _ _ hc

theorem keep_execRd {r₀ s : State} (kp : Keep r₀ s) (p : AgentPort) :
    KeepRes r₀ (execRd p s) := by
  unfold execRd
  try dsimp only
  repeat' first
    | with_reducible
        first
        | assumption | intro _ | apply KeepRes.of | apply keep_serve | apply keep_readArrives | apply keep_readSpad
    | split
    | with_reducible first | apply keep_rec | rfl

theorem keep_replyAll {r₀ s : State} (kp : Keep r₀ s) (n : Nat) (out : Option (Bytes × Nat)) (reqs : List Packet) :
    Keep r₀ (replyAll s n out reqs) := by
  unfold replyAll
  try dsimp only
  repeat' first
    | with_reducible
        first
        | assumption | intro _ | apply keep_foldl | apply keep_injectMr
    | split
    | with_reducible first | apply keep_rec | rfl

theorem keep_finishRead {r₀ s : State} (kp : Keep r₀ s) (n : Nat) (m : Merge) (e1 e2 c1 c2 : Ecc) :
    Keep r₀ (finishRead s n m e1 e2 c1 c2) := by
  unfold finishRead
  try dsimp only
  repeat' first
    | with_reducible
        first
        | assumption | intro _ | apply keep_foldl | apply keep_modMr | apply keep_injectMr
        | apply keep_readBlock | apply keep_replyAll
    | split
    | with_reducible first | apply keep_rec | rfl

theorem keep_execMrDramReadDone {r₀ s : State} (kp : Keep r₀ s) (st : StackId) (beta : Nat) (first second copy1 copy2
    : Ecc) :
    KeepRes r₀ (execMrDramReadDone st beta first second copy1 copy2 s) := by
  unfold execMrDramReadDone
  extract_lets x
  split
  · exact .of (keep_setMr kp ..)
  split
  · exact .of kp
  · exact .of (keep_finishRead kp ..)

theorem keep_writeArrives {r₀ s : State} (kp : Keep r₀ s) (n : Nat) (p : Packet) :
    Keep r₀ (writeArrives s n p) := by
  unfold writeArrives
  try dsimp only
  repeat' first
    | with_reducible
        first
        | assumption | intro _ | apply keep_ite | apply keep_setMr | apply keep_bump | apply keep_injectMr
        | apply keep_noteSolo | apply keep_noteRequest
    | split
    | with_reducible first | apply keep_rec | rfl

theorem keep_writeSpad {r₀ s : State} (kp : Keep r₀ s) (r : Nat) (p : Packet) :
    Keep r₀ (writeSpad s r p) := by
  unfold writeSpad
  extract_lets back bad
  have hb : ∀ a b t, Keep r₀ t → Keep r₀ (back a b t) := fun a b t ht => keep_inject ht ..
  split
  · exact hb _ _ _ kp
  split
  · exact hb _ _ _ kp
  rename_i u off _ _
  have hc := keep_outsideWrite kp u off (if bad = true then zeros p.payload.length else p.payload) (p.tagm == 3 && !bad)
    (if p.sub = 1 then .shadow else .plain) .fabric
  split
  · rename_i t e; rw [e] at hc
    extract_lets y
    have hy : Keep r₀ y := by
      show Keep r₀ (if _ then _ else _)
      split
      · exact keep_modUn hc ..
      · exact hc
    apply hb
    split
    · exact keep_bump hy _
    · exact hy
  · rename_i e; rw [e] at hc; exact hb _ _ _ hc

theorem keep_execWr {r₀ s : State} (kp : Keep r₀ s) (p : AgentPort) :
    KeepRes r₀ (execWr p s) := by
  unfold execWr
  try dsimp only
  repeat' first
    | with_reducible
        first
        | assumption | intro _ | apply KeepRes.of | apply keep_serve | apply keep_writeArrives | apply keep_writeSpad
    | split
    | with_reducible first | apply keep_rec | rfl

theorem keep_finishWrite {r₀ s : State} (kp : Keep r₀ s) (n : Nat) (w : WriteJob) :
    Keep r₀ (finishWrite s n w) := by
  unfold finishWrite
  try dsimp only
  repeat' first
    | with_reducible
        first
        | assumption | intro _ | apply keep_modMr | apply keep_storeRow | apply keep_injectMr
    | split
    | with_reducible first | apply keep_rec | rfl

theorem keep_execMrWriteDone {r₀ s : State} (kp : Keep r₀ s) (st : StackId) (beta : Nat) :
    KeepRes r₀ (execMrWriteDone st beta s) := by
  unfold execMrWriteDone
  try dsimp only
  repeat' first
    | with_reducible
        first
        | assumption | intro _ | apply KeepRes.of | apply keep_ite | apply keepRes_ite | apply keep_finishWrite
    | split
    | with_reducible first | apply keep_rec | rfl

theorem keep_settleBlock {r₀ s : State} (kp : Keep r₀ s) (st beta n : Nat) : Keep r₀ (settleBlock st beta n s) := by
  induction n generalizing s with
  | zero => exact kp
  | succ n ih =>
    unfold settleBlock
    extract_lets x
    split
    · exact kp
    · exact ih (keep_finishRead kp ..)
    · exact ih (keep_finishWrite kp ..)
    · exact ih (keep_ite (keep_finishRead kp ..) (keep_finishWrite kp ..))

theorem keep_settleAll {r₀ s : State} (kp : Keep r₀ s) (n beta : Nat) :
    Keep r₀ (settleAll s n beta) := by
  unfold settleAll
  try dsimp only
  repeat' first
    | with_reducible
        first
        | assumption | intro _ | apply keep_settleBlock
    | split
    | with_reducible first | apply keep_rec | rfl

theorem keep_countMerge {r₀ s : State} (kp : Keep r₀ s) (n beta : Nat) :
    Keep r₀ (countMerge s n beta) := by
  unfold countMerge
  try dsimp only
  repeat' first
    | with_reducible
        first
        | assumption | intro _ | apply keep_ite | apply keep_bump
    | split
    | with_reducible first | apply keep_rec | rfl

theorem keep_repairRow {r₀ s : State} (kp : Keep r₀ s) (n : Nat) (k : Nat) :
    Keep r₀ (repairRow n s k) := by
  unfold repairRow
  try dsimp only
  repeat' first
    | with_reducible
        first
        | assumption | intro _ | apply keep_ite | apply keep_setMr | apply keep_bump
    | split
    | with_reducible first | apply keep_rec | rfl

theorem keep_softRepair {r₀ s : State} (kp : Keep r₀ s) (n : Nat) :
    Keep r₀ (softRepair s n) := by
  unfold softRepair
  try dsimp only
  repeat' first
    | with_reducible
        first
        | assumption | intro _ | apply keep_foldl | apply keep_repairRow
    | split
    | with_reducible first | apply keep_rec | rfl

theorem keep_scrubNext {r₀ s : State} (kp : Keep r₀ s) (n : Nat) :
    Keep r₀ (scrubNext s n) := by
  unfold scrubNext
  try dsimp only
  repeat' first
    | with_reducible
        first
        | assumption | intro _ | apply keep_ite | apply keep_softRepair | apply keep_setReg | apply keep_modMr
    | split
    | with_reducible first | apply keep_rec | rfl

theorem keep_scrubBlock {r₀ s : State} (kp : Keep r₀ s) (n beta : Nat) (e1 e2 c1 c2 : Ecc) :
    Keep r₀ (scrubBlock s n beta e1 e2 c1 c2) := by
  unfold scrubBlock
  extract_lets inS ok t t2 lost
  have ht : Keep r₀ t := keep_noteEcc kp ..
  split
  · exact ht
  have ht2 : Keep r₀ t2 := keep_noteEcc (keep_bump ht _) ..
  split
  · exact ht2
  have hl : ∀ c t, Keep r₀ t → Keep r₀ (lost c t) := fun c t h => keep_logBlock (keep_bump h _) ..
  split
  · split
    · exact hl _ _ ht2
    extract_lets b2 y
    have hy : Keep r₀ y.2 := keep_readTwice ht2 ..
    split
    · exact keep_bump (keep_storeBlock hy ..) _
    · exact hl _ _ hy
  · exact hl _ _ ht2

/-! ### Machine/Egress.lean -/

theorem keep_lossFence {r₀ s : State} (kp : Keep r₀ s) (e : Nat) :
    Keep r₀ (lossFence s e) := by
  unfold lossFence
  try dsimp only
  repeat' first
    | with_reducible
        first
        | assumption | intro _ | apply keep_bump
    | split
    | with_reducible first | apply keep_rec | rfl

theorem keep_fenceLocally {r₀ s : State} (kp : Keep r₀ s) (e agt : Nat) (p : Packet) :
    Keep r₀ (fenceLocally s e agt p) := by
  unfold fenceLocally
  try dsimp only
  repeat' first
    | with_reducible
        first
        | assumption | intro _ | apply keep_ite | apply keep_lossFence | apply keep_injectEdge
    | split
    | with_reducible first | apply keep_rec | rfl

theorem keep_toEgress {r₀ s : State} (kp : Keep r₀ s) (e tcls : Nat) (p : Packet) :
    Keep r₀ (toEgress s e tcls p) := by
  unfold toEgress
  try dsimp only
  repeat' first
    | with_reducible
        first
        | assumption | intro _ | apply keep_ite | apply keep_modPort | apply keep_fenceLocally
        | apply keep_lossFence
    | split
    | with_reducible first | apply keep_rec | rfl

theorem keep_answerAtEdge {r₀ s : State} (kp : Keep r₀ s) (e : Nat) (p : Packet) :
    Keep r₀ (answerAtEdge e p s) := by
  unfold answerAtEdge
  try dsimp only
  repeat' first
    | with_reducible
        first
        | assumption | intro _ | apply keep_toEgress
    | split
    | with_reducible first | apply keep_rec | rfl

/-! ### Machine/StreamEngine.lean -/

theorem keep_modEng {r₀ s : State} (kp : Keep r₀ s) (c did : Nat) (f : Eng → Eng) :
    Keep r₀ (modEng s c did f) := by
  unfold modEng
  try dsimp only
  repeat' first
    | with_reducible
        first
        | assumption | intro _ | apply keep_modCl
    | split
    | with_reducible first | apply keep_rec | rfl

theorem keep_readRowLocal {r₀ s : State} (kp : Keep r₀ s) (u : Nat) (d : Desc) (m : Nat) :
    Keep r₀ (readRowLocal s u d m).2 := by
  unfold readRowLocal
  try dsimp only
  repeat' first
    | with_reducible
        first
        | assumption | intro _ | apply keep_foldl | apply keep_unitFirst | apply keep_atPresent
        | apply keep_takePort | apply keep_tagSlot
    | split
    | with_reducible first | apply keep_rec | rfl

theorem keep_landRowLocal {r₀ s : State} (kp : Keep r₀ s) (u : Nat) (d : Desc) (m : Nat) (bs : Bytes) :
    Keep r₀ (landRowLocal s u d m bs) := by
  unfold landRowLocal
  try dsimp only
  repeat' first
    | with_reducible
        first
        | assumption | intro _ | apply keep_foldl | apply keep_unitFirst | apply keep_atPresent
        | apply keep_takePort | apply keep_markDirty | apply keep_spadWrite | apply keep_tagSlot
    | split
    | with_reducible first | apply keep_rec | rfl

theorem keep_addDigest {r₀ s : State} (kp : Keep r₀ s) (c : Nat) (d : Desc) (m check : Nat) :
    Keep r₀ (addDigest s c d m check) := by
  unfold addDigest
  try dsimp only
  repeat' first
    | with_reducible
        first
        | assumption | intro _ | apply keep_ite | apply keep_modCl
    | split
    | with_reducible first | apply keep_rec | rfl

theorem keep_rowOver {r₀ s : State} (kp : Keep r₀ s) (c did : Nat) (suspect error : Bool) :
    Keep r₀ (rowOver s c did suspect error) := by
  unfold rowOver
  try dsimp only
  repeat' first
    | with_reducible
        first
        | assumption | intro _ | apply keep_modEng
    | split
    | with_reducible first | apply keep_rec | rfl

theorem keep_takeSegment {r₀ s : State} (kp : Keep r₀ s) (c : Nat) (d : Desc) :
    ∀ x, takeSegment s c d = some x → Keep r₀ x.2.2.2 := by
  intro x hx
  unfold takeSegment at hx
  extract_lets p at hx
  split at hx
  · cases hx
  split at hx
  · cases hx
  · cases hx; dsimp only; exact keep_modCl kp ..

theorem keep_segmentFor {r₀ s : State} (kp : Keep r₀ s) (c : Nat) (e : Eng) :
    ∀ x, segmentFor s c e = some x → Keep r₀ x.2.2.2 := by
  intro x hx
  unfold segmentFor at hx
  split at hx
  · extract_lets p at hx
    split at hx <;> cases hx <;> exact kp
  · obtain ⟨y, hy, rfl⟩ := Option.map_eq_some_iff.1 hx
    exact keep_modEng (keep_takeSegment kp c _ y hy) ..

theorem keep_sendRow {r₀ s : State} (kp : Keep r₀ s) (c : Nat) (e : Eng) (m : Nat) (route : Route) (tag : Option Nat)
    (seg seq : Nat) (nextph : Bool) :
    Keep r₀ (sendRow s c e m route tag seg seq nextph) := by
  unfold sendRow
  try dsimp only
  repeat' first
    | with_reducible
        first
        | assumption | intro _ | apply keep_ite | apply keep_readRowLocal | apply keep_addDigest
        | apply keep_modCl | apply keep_injectClu | apply keep_charge | apply keep_modEng
    | split
    | with_reducible first | apply keep_rec | rfl

theorem keep_passBucket {r₀ s : State} (kp : Keep r₀ s) (c cls : Nat) :
    ∀ t, (passBucket s c cls) = some t → Keep r₀ t := by
  intro t ht
  unfold passBucket at ht
  split at ht
  · cases ht
  split at ht
  · cases ht
  · cases ht
    apply keep_endBucketWait
    apply keep_advFab
    split
    · exact keep_startBucketWait kp ..
    · exact kp

theorem keep_rowGone {r₀ s : State} (kp : Keep r₀ s) (c : Nat) (e : Eng) (m : Nat) :
    Keep r₀ (rowGone s c e m) := by
  unfold rowGone
  try dsimp only
  repeat' first
    | with_reducible
        first
        | assumption | intro _ | apply keep_ite | apply keep_bump | apply keep_readRowLocal | apply keep_landRowLocal
        | apply keep_rowOver
    | split
    | with_reducible first | apply keep_rec | rfl

theorem keep_genDone {r₀ s : State} (kp : Keep r₀ s) (c : Nat) :
    Keep r₀ (genDone s c) := by
  unfold genDone
  try dsimp only
  repeat' first
    | with_reducible
        first
        | assumption | intro _ | apply keep_modCl
    | split
    | with_reducible first | apply keep_rec | rfl

theorem keep_requestRow {r₀ s : State} (kp : Keep r₀ s) (c : Nat) (e : Eng) (m : Nat) (route : Route) :
    Keep r₀ (requestRow s c e m route) := by
  unfold requestRow
  extract_lets x d tag
  split
  · exact keep_startWait kp ..
  · rename_i g seq nextph s1 hs
    have h1 : Keep r₀ s1 := by
      revert hs
      split
      · intro hs; exact keep_segmentFor kp _ _ _ hs
      · intro hs; cases hs; exact kp
    split
    · exact keep_startWait kp ..
    split
    · exact keep_startBucketWait (keep_endWaits kp ..) ..
    · rename_i e2; exact keep_genDone (keep_sendRow (keep_passBucket (keep_endWaits h1 ..) _ _ _ e2) ..) _

theorem keep_generateRow {r₀ s : State} (kp : Keep r₀ s) (c : Nat) (e : Eng) :
    Keep r₀ (generateRow s c e) := by
  unfold generateRow
  try dsimp only
  repeat' first
    | with_reducible
        first
        | assumption | intro _ | apply keep_ite | apply keep_rowOver | apply keep_recordDrop | apply keep_breach
        | apply keep_genDone | apply keep_rowGone | apply keep_readRowLocal | apply keep_addDigest
        | apply keep_requestRow
    | split
    | with_reducible first | apply keep_rec | rfl

theorem keep_execSeGenerateRequest {r₀ s : State} (kp : Keep r₀ s) (cl : ClusterId) :
    KeepRes r₀ (execSeGenerateRequest cl s) := by
  unfold execSeGenerateRequest
  try dsimp only
  repeat' first
    | with_reducible
        first
        | assumption | intro _ | apply KeepRes.of | apply keep_when | apply keep_advClock | apply keep_generateRow
    | split
    | with_reducible first | apply keep_rec | rfl

theorem keep_lateAnswer {r₀ s : State} (kp : Keep r₀ s) (c : Nat) (write : Bool) (tag : Nat) :
    Keep r₀ (lateAnswer s c write tag) := by
  unfold lateAnswer
  try dsimp only
  repeat' first
    | with_reducible
        first
        | assumption | intro _ | apply keep_ite | apply keep_bump | apply keep_write
    | split
    | with_reducible first | apply keep_rec | rfl

theorem keep_landReply {r₀ s : State} (kp : Keep r₀ s) (c : Nat) (t : Tag) (p : Packet) :
    Keep r₀ (landReply s c t p) := by
  unfold landReply
  try dsimp only
  repeat' first
    | with_reducible
        first
        | assumption | intro _ | apply keep_ite | apply keep_endWait | apply keep_modCl
        | apply keep_landRowLocal | apply keep_bump | apply keep_modEng
    | split
    | with_reducible first | apply keep_rec | rfl

theorem keep_replyAtCluster {r₀ s : State} (kp : Keep r₀ s) (c : Nat) (p : Packet) :
    ∀ t, (replyAtCluster s c p) = some t → Keep r₀ t := by
  intro t ht
  unfold replyAtCluster at ht
  extract_lets x at ht
  split at ht
  · cases ht; exact keep_bump kp _
  split at ht
  · cases ht; exact keep_lateAnswer kp ..
  split at ht
  · obtain ⟨y, hy, rfl⟩ := Option.map_eq_some_iff.1 ht
    exact keep_injectClu (keep_charge (keep_modCl (keep_bump (keep_passBucket kp _ _ _ hy) _) ..) ..) ..
  · cases ht; exact keep_landReply kp ..

theorem keep_execRdData {r₀ s : State} (kp : Keep r₀ s) (p : AgentPort) :
    KeepRes r₀ (execRdData p s) := by
  unfold execRdData
  split
  · split
    · exact .of kp
    split
    · exact .of (keep_popEject kp ..)
    split
    · exact .of kp
    · rename_i e; exact .of (keep_popEject (keep_replyAtCluster kp _ _ _ e) ..)
  · exact keep_serve kp _ _ _ fun p t h => keep_answerAtEdge h ..
  · exact .of kp

theorem keep_shadowAck {r₀ s : State} (kp : Keep r₀ s) (c : Nat) (p : Packet) :
    Keep r₀ (shadowAck s c p) := by
  unfold shadowAck
  try dsimp only
  repeat' first
    | with_reducible
        first
        | assumption | intro _ | apply keep_ite | apply keep_modUn | apply keep_retireSets
    | split
    | with_reducible first | apply keep_rec | rfl

theorem keep_ackAtCluster {r₀ s : State} (kp : Keep r₀ s) (c : Nat) (p : Packet) :
    Keep r₀ (ackAtCluster s c p) := by
  unfold ackAtCluster
  try dsimp only
  repeat' first
    | with_reducible
        first
        | assumption | intro _ | apply keep_ite | apply keep_bump | apply keep_shadowAck | apply keep_lateAnswer
        | apply keep_endWait | apply keep_modCl | apply keep_modEng
    | split
    | with_reducible first | apply keep_rec | rfl

theorem keep_execWrAck {r₀ s : State} (kp : Keep r₀ s) (p : AgentPort) :
    KeepRes r₀ (execWrAck p s) := by
  unfold execWrAck
  try dsimp only
  repeat' first
    | with_reducible
        first
        | assumption | intro _ | apply KeepRes.of | apply keep_serve | apply keep_answerAtEdge
        | apply keep_ackAtCluster
    | split
    | with_reducible first | apply keep_rec | rfl

theorem keep_engDone {r₀ s : State} (kp : Keep r₀ s) (c : Nat) (e : Eng) :
    Keep r₀ (engDone s c e) := by
  unfold engDone
  try dsimp only
  repeat' first
    | with_reducible
        first
        | assumption | intro _ | apply keep_ite | apply keep_modCl | apply keep_returnSeg | apply keep_unitDone
    | split
    | with_reducible first | apply keep_rec | rfl

theorem keep_execDescComplete {r₀ s : State} (kp : Keep r₀ s) (cl : ClusterId) (did : Nat) :
    KeepRes r₀ (execDescComplete cl did s) := by
  unfold execDescComplete
  try dsimp only
  repeat' first
    | with_reducible
        first
        | assumption | intro _ | apply KeepRes.of | apply keep_ite | apply keepRes_ite | apply keep_complete
        | apply keep_finishCommit | apply keep_engDone
    | split
    | with_reducible first | apply keep_rec | rfl

theorem keep_endRequests {r₀ s : State} (kp : Keep r₀ s) (c : Nat) :
    Keep r₀ (endRequests s c) := by
  unfold endRequests
  try dsimp only
  repeat' first
    | with_reducible
        first
        | assumption | intro _ | apply keep_ite | apply keep_endBucketWait | apply keep_startBucketWait
    | split
    | with_reducible first | apply keep_rec | rfl

theorem keep_cancelAll {r₀ s : State} (kp : Keep r₀ s) (c : Nat) :
    Keep r₀ (cancelAll s c) := by
  unfold cancelAll
  try dsimp only
  repeat' first
    | with_reducible
        first
        | assumption | intro _ | apply keep_foldl | apply keep_atPresent | apply keep_abandonUnit
        | apply keep_modUn | apply keep_endRequests | apply keep_endWaits | apply keep_noteRoom
        | apply keep_modCl | apply keep_complete
    | split
    | with_reducible first | apply keep_rec | rfl

/-! ### Machine/StreamApply.lean -/

theorem keep_configBuckets {r₀ s : State} (kp : Keep r₀ s) (cfg : StreamCfg) (t : Option Nat) (l c : Nat) :
    Keep r₀ (configBuckets s cfg t l c) := by
  unfold configBuckets
  try dsimp only
  repeat' first
    | with_reducible
        first
        | assumption | intro _ | apply keep_foldl | apply keep_setBucketCfg
    | split
    | with_reducible first | apply keep_rec | rfl

theorem keep_configCluster {r₀ s : State} (kp : Keep r₀ s) (cfg : StreamCfg) (t : Option Nat) (l c : Nat) :
    Keep r₀ (configCluster s cfg t l c) := by
  unfold configCluster
  try dsimp only
  repeat' first
    | with_reducible
        first
        | assumption | intro _ | apply keep_foldl | apply keep_configBuckets | apply keep_setReg
    | split
    | with_reducible first | apply keep_rec | rfl

theorem keep_configShapers {r₀ s : State} (kp : Keep r₀ s) (cfg : StreamCfg) (t : Option Nat) :
    Keep r₀ (configShapers s cfg t) := by
  unfold configShapers
  try dsimp only
  repeat' first
    | with_reducible
        first
        | assumption | intro _ | apply keep_foldl | apply keep_configBuckets | apply keep_setBucketCfg
    | split
    | with_reducible first | apply keep_rec | rfl

theorem keep_configAll {r₀ s : State} (kp : Keep r₀ s) (cfg : StreamCfg) (t : Option Nat) :
    Keep r₀ (configAll s cfg t) := by
  unfold configAll
  try dsimp only
  repeat' first
    | with_reducible
        first
        | assumption | intro _ | apply keep_foldl | apply keep_configShapers | apply keep_configCluster
    | split
    | with_reducible first | apply keep_rec | rfl

theorem keep_resetAllChannels {r₀ s : State} (kp : Keep r₀ s) (m : Nat) (cfgs : List StreamCfg) :
    Keep r₀ (resetAllChannels s m cfgs) := by
  unfold resetAllChannels
  try dsimp only
  repeat' first
    | with_reducible
        first
        | assumption | intro _ | apply keep_foldl | apply keep_resetChannels
    | split
    | with_reducible first | apply keep_rec | rfl

theorem keep_keepShadow {r₀ s : State} (kp : Keep r₀ s) (cfg : StreamCfg) :
    Keep r₀ (keepShadow s cfg) := by
  unfold keepShadow
  try dsimp only
  repeat' first
    | with_reducible
        first
        | assumption | intro _ | apply keep_ite | apply keep_foldl | apply keep_setUn | apply keep_modUn
        | apply keep_setReg | apply keep_retireSets
    | split
    | with_reducible first | apply keep_rec | rfl

theorem keep_clearLedger {r₀ s : State} (kp : Keep r₀ s) (q : Nat) :
    Keep r₀ (clearLedger s q) := by
  unfold clearLedger
  try dsimp only
  repeat' first
    | with_reducible
        first
        | assumption | intro _ | apply keep_foldl | apply keep_setReg
    | split
    | with_reducible first | apply keep_rec | rfl

theorem keep_noteApplied {r₀ s : State} (kp : Keep r₀ s) (p : PendStream) (t : Nat) (loading : Bool) :
    Keep r₀ (noteApplied s p t loading) := by
  unfold noteApplied
  try dsimp only
  repeat' first
    | with_reducible
        first
        | assumption | intro _ | apply keep_ite | apply keep_foldl | apply keep_setReg | apply keep_bump
        | apply keep_setSs | apply keep_endSs
    | split
    | with_reducible first | apply keep_rec | rfl

theorem keep_applyLive {r₀ s : State} (kp : Keep r₀ s) (p : PendStream) (t : Nat) :
    Keep r₀ (applyLive s p t) := by
  unfold applyLive
  try dsimp only
  repeat' first
    | with_reducible
        first
        | assumption | intro _ | apply keep_ite | apply keep_modPart | apply keep_configShapers
        | apply keep_noteApplied
    | split
    | with_reducible first | apply keep_rec | rfl

theorem keep_applyFull {r₀ s : State} (kp : Keep r₀ s) (p : PendStream) (t : Nat) :
    Keep r₀ (applyFull s p t) := by
  unfold applyFull
  try dsimp only
  repeat' first
    | with_reducible
        first
        | assumption | intro _ | apply keep_ite | apply keep_foldl | apply keep_resetAllChannels
        | apply keep_modPart | apply keep_keepShadow | apply keep_configAll | apply keep_cancelAll
        | apply keep_modCl | apply keep_installImages | apply keep_clearLedger | apply keep_refreshSusp
        | apply keep_noteApplied
    | split
    | with_reducible first | apply keep_rec | rfl

theorem keep_applyStream {r₀ s : State} (kp : Keep r₀ s) (p : PendStream) (t : Nat) :
    Keep r₀ (applyStream s p t) := by
  unfold applyStream
  try dsimp only
  repeat' first
    | with_reducible
        first
        | assumption | intro _ | apply keep_ite | apply keep_refuseSs | apply keep_dropSs | apply keep_applyLive
        | apply keep_applyFull
    | split
    | with_reducible first | apply keep_rec | rfl

theorem keep_applyDue {r₀ s : State} (kp : Keep r₀ s) (q t : Nat) :
    Keep r₀ (applyDue s q t) := by
  unfold applyDue
  try dsimp only
  repeat' first
    | with_reducible
        first
        | assumption | intro _ | apply keep_applyStream
    | split
    | with_reducible first | apply keep_rec | rfl

/-! ### Machine/Shadow.lean -/

theorem keep_copySlot {r₀ s : State} (kp : Keep r₀ s) (cfg : StreamCfg) (c i slot : Nat) :
    Keep r₀ (copySlot s cfg c i slot) := by
  unfold copySlot
  try dsimp only
  repeat' first
    | with_reducible
        first
        | assumption | intro _ | apply keep_ite | apply keep_atPresent | apply keep_takePort | apply keep_modUn
        | apply keep_injectClu | apply keep_charge | apply keep_bump
    | split
    | with_reducible first | apply keep_rec | rfl

theorem keep_execShadowCopy {r₀ s : State} (kp : Keep r₀ s) (cl : ClusterId) :
    KeepRes r₀ (execShadowCopy cl s) := by
  unfold execShadowCopy
  extract_lets c
  split
  · exact .of kp
  split
  · exact .of kp
  split
  · split
    · exact .of (keep_startBucketWait kp ..)
    · rename_i e; exact .of (keep_copySlot (keep_passBucket kp _ _ _ e) ..)
  · exact .of kp

theorem keep_dirtyAll {r₀ s : State} (kp : Keep r₀ s) (cfg : StreamCfg) (want : Nat × Nat × Nat × Nat × Nat → Bool) :
    Keep r₀ (dirtyAll s cfg want) := by
  unfold dirtyAll
  try dsimp only
  repeat' first
    | with_reducible
        first
        | assumption | intro _ | apply keep_foldl | apply keep_modUn
    | split
    | with_reducible first | apply keep_rec | rfl

theorem keep_stopShadow {r₀ s : State} (kp : Keep r₀ s) (u : Nat) :
    Keep r₀ (stopShadow s u) := by
  unfold stopShadow
  try dsimp only
  repeat' first
    | with_reducible
        first
        | assumption | intro _ | apply keep_foldl | apply keep_modUn
    | split
    | with_reducible first | apply keep_rec | rfl

/-! ### Machine/DefectMap.lean -/

theorem keep_sendDmap {r₀ s : State} (kp : Keep r₀ s) :
    Keep r₀ (sendDmap s) := by
  unfold sendDmap
  try dsimp only
  repeat' first
    | with_reducible
        first
        | assumption | intro _ | apply keep_ite | apply keep_foldl | apply keep_stageMsg
    | split
    | with_reducible first | apply keep_rec | rfl

theorem keep_newGeneration {r₀ s : State} (kp : Keep r₀ s) :
    Keep r₀ (newGeneration s) := by
  unfold newGeneration
  try dsimp only
  repeat' first
    | with_reducible
        first
        | assumption | intro _ | apply keep_modMgr | apply keep_setReg | apply keep_sendDmap
    | split
    | with_reducible first | apply keep_rec | rfl

/-! ### Machine/Stops.lean -/

theorem keep_quarantineTags {r₀ s : State} (kp : Keep r₀ s) (c : Nat) (until_ : Option Nat) :
    Keep r₀ (quarantineTags s c until_) := by
  unfold quarantineTags
  try dsimp only
  repeat' first
    | with_reducible
        first
        | assumption | intro _ | apply keep_modCl | apply keep_write
    | split
    | with_reducible first | apply keep_rec | rfl

theorem keep_stopCluster {r₀ s : State} (kp : Keep r₀ s) (c : Nat) (until_ : Option Nat) :
    Keep r₀ (stopCluster s c until_) := by
  unfold stopCluster
  try dsimp only
  repeat' first
    | with_reducible
        first
        | assumption | intro _ | apply keep_modCl | apply keep_cancelAll | apply keep_quarantineTags
    | split
    | with_reducible first | apply keep_rec | rfl

theorem keep_spareEvent {r₀ s : State} (kp : Keep r₀ s) (f : Nat) :
    Keep r₀ (spareEvent s f) := by
  unfold spareEvent
  try dsimp only
  repeat' first
    | with_reducible
        first
        | assumption | intro _ | apply keep_stateEvent
    | split
    | with_reducible first | apply keep_rec | rfl

theorem keep_vacate {r₀ s : State} (kp : Keep r₀ s) (d : Nat) :
    Keep r₀ (vacate s d) := by
  unfold vacate
  try dsimp only
  repeat' first
    | with_reducible
        first
        | assumption | intro _ | apply keep_ite | apply keep_foldl | apply keep_stopCluster | apply keep_setFld
        | apply keep_bump
    | split
    | with_reducible first | apply keep_rec | rfl

theorem keep_abortSpare {r₀ s : State} (kp : Keep r₀ s) (f outcome : Nat) :
    Keep r₀ (abortSpare s f outcome) := by
  unfold abortSpare
  try dsimp only
  repeat' first
    | with_reducible
        first
        | assumption | intro _ | apply keep_ite | apply keep_foldl | apply keep_startClear | apply keep_setFld
        | apply keep_spareEvent | apply keep_releaseLock | apply keep_bump
    | split
    | with_reducible first | apply keep_rec | rfl

theorem keep_haltField {r₀ s : State} (kp : Keep r₀ s) (f : Nat) :
    Keep r₀ (haltField s f) := by
  unfold haltField
  try dsimp only
  repeat' first
    | with_reducible
        first
        | assumption | intro _ | apply keep_haltSoon
    | split
    | with_reducible first | apply keep_rec | rfl

theorem keep_spareLosses {r₀ s : State} (kp : Keep r₀ s) (d : Nat) :
    Keep r₀ (spareLosses s d) := by
  unfold spareLosses
  try dsimp only
  repeat' first
    | with_reducible
        first
        | assumption | intro _ | apply keep_ite | apply keep_foldl | apply keep_abortSpare | apply keep_haltField
    | split
    | with_reducible first | apply keep_rec | rfl

theorem keep_loseSpare {r₀ s : State} (kp : Keep r₀ s) (f : Nat) :
    Keep r₀ (loseSpare s f) := by
  unfold loseSpare
  try dsimp only
  repeat' first
    | with_reducible
        first
        | assumption | intro _ | apply keep_dropHopeless | apply keep_spareEvent | apply keep_setFld
    | split
    | with_reducible first | apply keep_rec | rfl

theorem keep_spareFailed {r₀ s : State} (kp : Keep r₀ s) (f cause : Nat) :
    Keep r₀ (spareFailed s f cause) := by
  unfold spareFailed
  try dsimp only
  repeat' first
    | with_reducible
        first
        | assumption | intro _ | apply keep_setFld | apply keep_modDie | apply keep_newGeneration
        | apply keep_abortSpare | apply keep_loseSpare
    | split
    | with_reducible first | apply keep_rec | rfl

theorem keep_stopRouter {r₀ s : State} (kp : Keep r₀ s) (site : Nat) :
    Keep r₀ (stopRouter s site) := by
  unfold stopRouter
  try dsimp only
  repeat' first
    | with_reducible
        first
        | assumption | intro _ | apply keep_ite | apply keep_foldl | apply keep_modRtr | apply keep_linkChanged
        | apply keep_countLink | apply keep_changeLink
    | split
    | with_reducible first | apply keep_rec | rfl

theorem keep_withdrawDie {r₀ s : State} (kp : Keep r₀ s) (d cause : Nat) :
    Keep r₀ (withdrawDie s d cause) := by
  unfold withdrawDie
  try dsimp only
  repeat' first
    | with_reducible
        first
        | assumption | intro _ | apply keep_ite | apply keep_setFld | apply keep_modDie | apply keep_newGeneration
        | apply keep_spareEvent | apply keep_vacate | apply keep_spareLosses | apply keep_loseSpare
        | apply keep_spareFailed
    | split
    | with_reducible first | apply keep_rec | rfl

/-! ### Machine/Spares.lean -/

theorem keep_refuseNoSpare {r₀ s : State} (kp : Keep r₀ s) (q f : Nat) :
    Keep r₀ (refuseNoSpare s q f) := by
  unfold refuseNoSpare
  try dsimp only
  repeat' first
    | with_reducible
        first
        | assumption | intro _ | apply keep_ite | apply keep_mbRefuse | apply keep_spareEvent
        | apply keep_setFld
    | split
    | with_reducible first | apply keep_rec | rfl

theorem keep_askSpareIn {r₀ s : State} (kp : Keep r₀ s) (q : Nat) (r : MbReq) (d : Nat) :
    Keep r₀ (askSpareIn s q r d) := by
  unfold askSpareIn
  try dsimp only
  repeat' first
    | with_reducible
        first
        | assumption | intro _ | apply keep_ite | apply keep_requestLock | apply keep_refuseNoSpare
    | split
    | with_reducible first | apply keep_rec | rfl

theorem keep_execSpareIn {r₀ s : State} (kp : Keep r₀ s) (q : QuarterId) :
    KeepRes r₀ (execSpareIn q s) := by
  unfold execSpareIn
  try dsimp only
  repeat' first
    | with_reducible
        first
        | assumption | intro _ | apply KeepRes.of | apply keep_ite | apply keepRes_ite | apply keep_mbRefuse
        | apply keep_mbReply | apply keep_askSpareIn | apply keep_refuseNoSpare
    | split
    | with_reducible first | apply keep_rec | rfl

theorem keep_beginCheck {r₀ s : State} (kp : Keep r₀ s) (f : Nat) :
    Keep r₀ (beginCheck s f) := by
  unfold beginCheck
  try dsimp only
  repeat' first
    | with_reducible
        first
        | assumption | intro _ | apply keep_ite | apply keep_foldl | apply keep_setFld | apply keep_startClear
    | split
    | with_reducible first | apply keep_rec | rfl

theorem keep_startSpareIn {r₀ s : State} (kp : Keep r₀ s) (arg : Nat) :
    Keep r₀ (startSpareIn s arg) := by
  unfold startSpareIn
  try dsimp only
  repeat' first
    | with_reducible
        first
        | assumption | intro _ | apply keep_vacate | apply keep_setFld | apply keep_beginCheck
        | apply keep_dropHopeless | apply keep_spareEvent
    | split
    | with_reducible first | apply keep_rec | rfl

theorem keep_execSpareCheckDone {r₀ s : State} (kp : Keep r₀ s) (f : FieldId) (pass : Bool) :
    KeepRes r₀ (execSpareCheckDone f pass s) := by
  unfold execSpareCheckDone
  try dsimp only
  repeat' first
    | with_reducible
        first
        | assumption | intro _ | apply KeepRes.of | apply keep_ite | apply keepRes_ite | apply keep_foldl
        | apply keep_advFab | apply keep_startClear | apply keep_spareEvent | apply keep_setFld
        | apply keep_spareFailed
    | split
    | with_reducible first | apply keep_rec | rfl

theorem keep_copySlots {r₀ s : State} (kp : Keep r₀ s) (src from_ dst to_ n : Nat) :
    Keep r₀ (copySlots s src from_ dst to_ n) := by
  unfold copySlots
  try dsimp only
  repeat' first
    | with_reducible
        first
        | assumption | intro _ | apply keep_foldl | apply keep_modUn | apply keep_write
    | split
    | with_reducible first | apply keep_rec | rfl

theorem keep_chargeRows {r₀ s : State} (kp : Keep r₀ s) (c n : Nat) : ∀ t, chargeRows s c n = some t → Keep r₀ t := by
  intro t ht
  unfold chargeRows at ht
  extract_lets b x v s1 at ht
  have h1 : Keep r₀ s1 := keep_setBucket kp ..
  split at ht
  · cases ht; exact kp
  · obtain ⟨y, _, rfl⟩ := Option.map_eq_some_iff.1 ht
    exact keep_charge (keep_ite (keep_endBucketWait (keep_advFab (keep_startBucketWait h1 ..) ..) ..) h1) ..

theorem keep_foldl_some {α : Type} {r : State} (f : State → α → Option State) (hf : ∀ s a, Keep r s → ∀ t, f s a = some t → Keep r t)
    (l : List α) (o : Option State) (h : ∀ s, o = some s → Keep r s) :
    ∀ t, l.foldl (fun (t : Option State) a => t.bind fun s => f s a) o = some t → Keep r t := by
  induction l generalizing o with
  | nil => exact h
  | cons a l ih =>
    refine ih _ fun s hs => ?_
    obtain ⟨u, hu, hv⟩ := Option.bind_eq_some_iff.1 hs
    exact hf u a (h u hu) s hv

theorem keep_copyIntoSpare {r₀ s : State} (kp : Keep r₀ s) (f d : Nat) : ∀ t, copyIntoSpare s f d = some t → Keep r₀ t := by
  intro t ht
  unfold copyIntoSpare at ht
  extract_lets x s1 at ht
  split at ht
  · cases ht; exact kp
  split at ht
  · have h1 : Keep r₀ s1 := keep_foldl _ (fun _ _ h => keep_copySlots h ..) _ _ kp
    exact keep_foldl_some (fun s k => chargeRows s (4 * x.old + k) (4 * 6144)) (fun s k h => keep_chargeRows h _ _) _ _
      (fun s e => by cases e; exact h1) t ht
  · refine keep_foldl_some (fun s (p : Nat × Nat × Nat × Nat × Nat) => match unitOfLogical s p.2.2.2.1 with
      | none => some s
      | some pu => chargeRows (copySlots s pu (64 * p.2.2.2.2) (16 * d + p.1 % 16) (64 * p.2.1) (64 * (p.2.2.1 + 1 - p.2.1)))
          (unitClu pu) (64 * (p.2.2.1 + 1 - p.2.1))) (fun s p h t => ?_) _ _ (fun s e => by cases e; exact kp) t ht
    split
    · intro e; cases e; exact h
    · exact keep_chargeRows (keep_copySlots h ..) _ _ t

theorem keep_execSpareCopyDone {r₀ s : State} (kp : Keep r₀ s) (f : FieldId) :
    KeepRes r₀ (execSpareCopyDone f s) := by
  unfold execSpareCopyDone
  extract_lets x frame
  split
  · split
    · split
      · exact .of kp
      · rename_i e; exact .of (keep_spareEvent (keep_setFld (keep_copyIntoSpare kp _ _ _ e) ..) ..)
    · exact .of kp
  · exact .of kp

theorem keep_promoteReserve {r₀ s : State} (kp : Keep r₀ s) (f : Nat) :
    Keep r₀ (promoteReserve s f) := by
  unfold promoteReserve
  try dsimp only
  repeat' first
    | with_reducible
        first
        | assumption | intro _ | apply keep_spareEvent | apply keep_newGeneration | apply keep_setFld
        | apply keep_modDie
    | split
    | with_reducible first | apply keep_rec | rfl

theorem keep_installDie {r₀ s : State} (kp : Keep r₀ s) (f l d : Nat) :
    Keep r₀ (installDie s f l d) := by
  unfold installDie
  try dsimp only
  repeat' first
    | with_reducible
        first
        | assumption | intro _ | apply keep_foldl | apply keep_configCluster | apply keep_write
    | split
    | with_reducible first | apply keep_rec | rfl

theorem keep_wipeSpare {r₀ s : State} (kp : Keep r₀ s) (d wiped : Nat) :
    Keep r₀ (wipeSpare s d wiped) := by
  unfold wipeSpare
  try dsimp only
  repeat' first
    | with_reducible
        first
        | assumption | intro _ | apply keep_ite | apply keep_foldl | apply keep_modUn | apply keep_clear
    | split
    | with_reducible first | apply keep_rec | rfl

theorem keep_remap {r₀ s : State} (kp : Keep r₀ s) (f : Nat) :
    Keep r₀ (remap s f) := by
  unfold remap
  try dsimp only
  repeat' first
    | with_reducible
        first
        | assumption | intro _ | apply keep_ite | apply keep_foldl | apply keep_wipeSpare | apply keep_modDie
        | apply keep_setFld | apply keep_startClear | apply keep_promoteReserve | apply keep_installDie
        | apply keep_dirtyAll | apply keep_releaseLock | apply keep_bump | apply keep_dropHopeless
        | apply keep_spareEvent | apply keep_newGeneration
    | split
    | with_reducible first | apply keep_rec | rfl

theorem keep_giveBack {r₀ s : State} (kp : Keep r₀ s) (f : Nat) :
    Keep r₀ (giveBack s f) := by
  unfold giveBack
  try dsimp only
  repeat' first
    | with_reducible
        first
        | assumption | intro _ | apply keep_ite | apply keep_setFld
    | split
    | with_reducible first | apply keep_rec | rfl

theorem keep_sparesAtEdge {r₀ s : State} (kp : Keep r₀ s) (qmask : Nat) (resetting : Bool) :
    Keep r₀ (sparesAtEdge s qmask resetting) := by
  unfold sparesAtEdge
  try dsimp only
  repeat' first
    | with_reducible
        first
        | assumption | intro _ | apply keep_ite | apply keep_foldl | apply keep_promoteReserve | apply keep_remap
        | apply keep_giveBack
    | split
    | with_reducible first | apply keep_rec | rfl

theorem keep_retestPassed {r₀ s : State} (kp : Keep r₀ s) (d : Nat) :
    Keep r₀ (retestPassed s d) := by
  unfold retestPassed
  try dsimp only
  repeat' first
    | with_reducible
        first
        | assumption | intro _ | apply keep_ite | apply keep_spareEvent | apply keep_newGeneration
        | apply keep_setFld | apply keep_modDie
    | split
    | with_reducible first | apply keep_rec | rfl

theorem keep_retestFailed {r₀ s : State} (kp : Keep r₀ s) (d cause : Nat) :
    Keep r₀ (retestFailed s d cause) := by
  unfold retestFailed
  try dsimp only
  repeat' first
    | with_reducible
        first
        | assumption | intro _ | apply keep_ite | apply keep_setFld | apply keep_modDie | apply keep_newGeneration
        | apply keep_loseSpare | apply keep_stopRouter
    | split
    | with_reducible first | apply keep_rec | rfl

theorem keep_returnLink {r₀ s : State} (kp : Keep r₀ s) (l : Nat) (x : Link) :
    Keep r₀ (returnLink s l x) := by
  unfold returnLink
  try dsimp only
  repeat' first
    | with_reducible
        first
        | assumption | intro _ | apply keep_ite | apply keep_changeLink | apply keep_linkChanged
    | split
    | with_reducible first | apply keep_rec | rfl

theorem keep_restoreLinks {r₀ s : State} (kp : Keep r₀ s) (site : Nat) :
    Keep r₀ (restoreLinks s site) := by
  unfold restoreLinks
  try dsimp only
  repeat' first
    | with_reducible
        first
        | assumption | intro _ | apply keep_foldl | apply keep_returnLink
    | split
    | with_reducible first | apply keep_rec | rfl

theorem keep_dropLinks {r₀ s : State} (kp : Keep r₀ s) (site st : Nat) :
    Keep r₀ (dropLinks s site st) := by
  unfold dropLinks
  try dsimp only
  repeat' first
    | with_reducible
        first
        | assumption | intro _ | apply keep_foldl | apply keep_linkChanged | apply keep_changeLink
    | split
    | with_reducible first | apply keep_rec | rfl

theorem keep_execRetestDone {r₀ s : State} (kp : Keep r₀ s) (d : DieId) (vouches : Fin 5) (wrongSig : Bool) :
    KeepRes r₀ (execRetestDone d vouches wrongSig s) := by
  unfold execRetestDone
  try dsimp only
  repeat' first
    | with_reducible
        first
        | assumption | intro _ | apply KeepRes.of | apply keep_ite | apply keepRes_ite | apply keep_foldl
        | apply keep_advFab | apply keep_restoreLinks | apply keep_modMgr | apply keep_releaseLock
        | apply keep_startClear | apply keep_refreshSusp | apply keep_retestPassed | apply keep_retestFailed
    | split
    | with_reducible first | apply keep_rec | rfl

theorem keep_withdrawStack {r₀ s : State} (kp : Keep r₀ s) (n : Nat) (router : Bool) (cause : Nat) :
    Keep r₀ (withdrawStack s n router cause) := by
  unfold withdrawStack
  try dsimp only
  repeat' first
    | with_reducible
        first
        | assumption | intro _ | apply keep_ite | apply keep_modMr | apply keep_stopRouter | apply keep_setFld
        | apply keep_newGeneration | apply keep_stateEvent | apply keep_bump
    | split
    | with_reducible first | apply keep_rec | rfl

theorem keep_execMrPoll {r₀ s : State} (kp : Keep r₀ s) (silent untrained : List StackId) :
    KeepRes r₀ (execMrPoll silent untrained s) := by
  unfold execMrPoll
  try dsimp only
  repeat' first
    | with_reducible
        first
        | assumption | intro _ | apply KeepRes.of | apply keep_ite | apply keepRes_ite | apply keep_foldl
        | apply keep_advFab | apply keep_modMgr | apply keep_setMr | apply keep_withdrawStack
    | split
    | with_reducible first | apply keep_rec | rfl

end Sys2Proof.Machine
end

