-- ==== Sys2Proof/Laws/KeepPanel.lean ====
section
/-! SUPPORT. What every operation keeps (`Keep` of Laws/Keep.lean): the headers, the resets, the power states, the mesh, the managers, security and time. -/

set_option linter.unusedTactic false
set_option linter.unreachableTactic false

namespace Sys2Proof.Machine

/-! ### Machine/Headers.lean -/

theorem keep_wakeDue {r₀ s : State} (kp : Keep r₀ s) (f : Nat) :
    ∀ t, (wakeDue s f) = some t → Keep r₀ t := by
  intro t ht
  unfold wakeDue at ht
  extract_lets q at ht
  split at ht
  · cases ht; exact keep_advFab kp ..
  split at ht
  · cases ht; exact keep_advNs kp ..
  · cases ht

theorem keep_execRegionWake {r₀ s : State} (kp : Keep r₀ s) (r : RegionId) :
    KeepRes r₀ (execRegionWake r s) := by
  unfold execRegionWake
  extract_lets d
  split
  · split
    · exact .of kp
    · rename_i e; exact .of (keep_modRgn (keep_wakeDue kp _ _ e) ..)
  · exact .of kp

theorem keep_openRegion {r₀ s : State} (kp : Keep r₀ s) (r hdr : Nat) :
    Keep r₀ (openRegion s r hdr) := by
  unfold openRegion
  try dsimp only
  repeat' first
    | with_reducible
        first
        | assumption | intro _ | apply keep_retime | apply keep_modRgn | apply keep_modCl
    | split
    | with_reducible first | apply keep_rec | rfl

theorem keep_setRgnCause {r₀ s : State} (kp : Keep r₀ s) (r c : Nat) :
    Keep r₀ (setRgnCause s r c) := by
  unfold setRgnCause
  try dsimp only
  repeat' first
    | with_reducible
        first
        | assumption | intro _ | apply keep_setField
    | split
    | with_reducible first | apply keep_rec | rfl

theorem keep_failWake {r₀ s : State} (kp : Keep r₀ s) (r cause : Nat) :
    Keep r₀ (failWake s r cause) := by
  unfold failWake
  try dsimp only
  repeat' first
    | with_reducible
        first
        | assumption | intro _ | apply keep_withdrawDie | apply keep_openRegion | apply keep_setRgnCause
    | split
    | with_reducible first | apply keep_rec | rfl

theorem keep_execHeaderStageCheck {r₀ s : State} (kp : Keep r₀ s) (r : RegionId) (sensorMv : Nat) :
    KeepRes r₀ (execHeaderStageCheck r sensorMv s) := by
  unfold execHeaderStageCheck
  try dsimp only
  repeat' first
    | with_reducible
        first
        | assumption | intro _ | apply KeepRes.of | apply keep_ite | apply keepRes_ite | apply keep_modRgn
        | apply keep_bump | apply keep_advFab | apply keep_failWake
    | split
    | with_reducible first | apply keep_rec | rfl

theorem keep_execRegionPowerGood {r₀ s : State} (kp : Keep r₀ s) (r : RegionId) :
    KeepRes r₀ (execRegionPowerGood r s) := by
  unfold execRegionPowerGood
  try dsimp only
  repeat' first
    | with_reducible
        first
        | assumption | intro _ | apply KeepRes.of | apply keep_ite | apply keepRes_ite | apply keep_foldl
        | apply keep_retime | apply keep_modRgn | apply keep_startClear
    | split
    | with_reducible first | apply keep_rec | rfl

theorem keep_execHeaderOpenCheck {r₀ s : State} (kp : Keep r₀ s) (r : RegionId) :
    KeepRes r₀ (execHeaderOpenCheck r s) := by
  unfold execHeaderOpenCheck
  try dsimp only
  repeat' first
    | with_reducible
        first
        | assumption | intro _ | apply KeepRes.of | apply keep_ite | apply keepRes_ite | apply keep_bump
        | apply keep_advFab | apply keep_failWake
    | split
    | with_reducible first | apply keep_rec | rfl

theorem keep_fillBlocks {r₀ s : State} (kp : Keep r₀ s) (n beta : Nat) (bs : Bytes) :
    Keep r₀ (fillBlocks s n beta bs) := by
  unfold fillBlocks
  try dsimp only
  repeat' first
    | with_reducible
        first
        | assumption | intro _ | apply keep_foldl | apply keep_storeBlock
    | split
    | with_reducible first | apply keep_rec | rfl

theorem keep_buildWell {r₀ s : State} (kp : Keep r₀ s) (b : Bool) (f : Nat) :
    Keep r₀ (buildWell b s f) := by
  unfold buildWell
  try dsimp only
  repeat' first
    | with_reducible
        first
        | assumption | intro _ | apply keep_ite | apply keep_fillBlocks | apply keep_setFld
    | split
    | with_reducible first | apply keep_rec | rfl

theorem keep_buildWells {r₀ s : State} (kp : Keep r₀ s) :
    Keep r₀ (buildWells s) := by
  unfold buildWells
  try dsimp only
  repeat' first
    | with_reducible
        first
        | assumption | intro _ | apply keep_foldl | apply keep_buildWell
    | split
    | with_reducible first | apply keep_rec | rfl

theorem keep_sendDigests {r₀ s : State} (kp : Keep r₀ s) :
    Keep r₀ (sendDigests s) := by
  unfold sendDigests
  try dsimp only
  repeat' first
    | with_reducible
        first
        | assumption | intro _ | apply keep_foldl | apply keep_fromMgr
    | split
    | with_reducible first | apply keep_rec | rfl

theorem keep_execFwDigest {r₀ s : State} (kp : Keep r₀ s) (cl : ClusterId) :
    KeepRes r₀ (execFwDigest cl s) := by
  unfold execFwDigest
  try dsimp only
  repeat' first
    | with_reducible
        first
        | assumption | intro _ | apply KeepRes.of | apply keep_ite | apply keepRes_ite | apply keep_modCl
        | apply keep_serve | apply keep_seeEpoch
    | split
    | with_reducible first | apply keep_rec | rfl

theorem keep_setBoot {r₀ s : State} (kp : Keep r₀ s) (c tries st : Nat) :
    Keep r₀ (setBoot s c tries st) := by
  unfold setBoot
  try dsimp only
  repeat' first
    | with_reducible
        first
        | assumption | intro _ | apply keep_setReg
    | split
    | with_reducible first | apply keep_rec | rfl

theorem keep_execFwFetch {r₀ s : State} (kp : Keep r₀ s) (cl : ClusterId) (bad1 bad2 : Bool) :
    KeepRes r₀ (execFwFetch cl bad1 bad2 s) := by
  unfold execFwFetch
  try dsimp only
  repeat' first
    | with_reducible
        first
        | assumption | intro _ | apply KeepRes.of | apply keep_ite | apply keepRes_ite | apply keep_withdrawDie
        | apply keep_setBoot | apply keep_modCl
    | split
    | with_reducible first | apply keep_rec | rfl

/-! ### Machine/Replay.lean -/

theorem keep_modHeld {r₀ s : State} (kp : Keep r₀ s) (q serial : Nat) (f : HeldStep → HeldStep) :
    Keep r₀ (modHeld s q serial f) := by
  unfold modHeld
  try dsimp only
  repeat' first
    | with_reducible
        first
        | assumption | intro _ | apply keep_modPart
    | split
    | with_reducible first | apply keep_rec | rfl

theorem keep_startRun {r₀ s : State} (kp : Keep r₀ s) (q c : Nat) (h : HeldStep) :
    Keep r₀ (startRun s q c h) := by
  unfold startRun
  try dsimp only
  repeat' first
    | with_reducible
        first
        | assumption | intro _ | apply keep_ite | apply keep_foldl | apply keep_configCluster | apply keep_write
        | apply keep_modCl | apply keep_modUn | apply keep_setField | apply keep_modHeld | apply keep_bump
    | split
    | with_reducible first | apply keep_rec | rfl

theorem keep_execReplayRunStart {r₀ s : State} (kp : Keep r₀ s) (q : QuarterId) :
    KeepRes r₀ (execReplayRunStart q s) := by
  unfold execReplayRunStart
  try dsimp only
  repeat' first
    | with_reducible
        first
        | assumption | intro _ | apply KeepRes.of | apply keep_ite | apply keepRes_ite | apply keep_startRun
    | split
    | with_reducible first | apply keep_rec | rfl

theorem keep_resolveStep {r₀ s : State} (kp : Keep r₀ s) (q : Nat) (h : HeldStep) (outcome : Nat) :
    Keep r₀ (resolveStep s q h outcome) := by
  unfold resolveStep
  try dsimp only
  repeat' first
    | with_reducible
        first
        | assumption | intro _ | apply keep_bump | apply keep_modPart | apply keep_recordReplay
        | apply keep_unresolved
    | split
    | with_reducible first | apply keep_rec | rfl

theorem keep_startSwap {r₀ s : State} (kp : Keep r₀ s) (q c : Nat) (h : HeldStep) (outcome : Nat) :
    Keep r₀ (startSwap s q c h outcome) := by
  unfold startSwap
  try dsimp only
  repeat' first
    | with_reducible
        first
        | assumption | intro _ | apply keep_ite | apply keep_sendCtrl | apply keep_modHeld | apply keep_resolveStep
    | split
    | with_reducible first | apply keep_rec | rfl

theorem keep_swapAnswer {r₀ s : State} (kp : Keep r₀ s) (c : Nat) (p : Packet) :
    Keep r₀ (swapAnswer s c p) := by
  unfold swapAnswer
  try dsimp only
  repeat' first
    | with_reducible
        first
        | assumption | intro _ | apply keep_ite | apply keep_resolveStep
    | split
    | with_reducible first | apply keep_rec | rfl

theorem keep_vote {r₀ s : State} (kp : Keep r₀ s) (q c : Nat) (h : HeldStep) (run : Nat) (d : Option Nat) :
    Keep r₀ (vote s q c h run d) := by
  unfold vote
  try dsimp only
  repeat' first
    | with_reducible
        first
        | assumption | intro _ | apply keep_ite | apply keep_modHeld | apply keep_resolveStep | apply keep_startSwap
    | split
    | with_reducible first | apply keep_rec | rfl

theorem keep_leaveRun {r₀ s : State} (kp : Keep r₀ s) (c : Nat) :
    Keep r₀ (leaveRun s c) := by
  unfold leaveRun
  try dsimp only
  repeat' first
    | with_reducible
        first
        | assumption | intro _ | apply keep_foldl | apply keep_modCl | apply keep_modUn | apply keep_startClear
        | apply keep_cancelAll | apply keep_beginCheck
    | split
    | with_reducible first | apply keep_rec | rfl

theorem keep_endRun {r₀ s : State} (kp : Keep r₀ s) (c : Nat) :
    Keep r₀ (endRun s c) := by
  unfold endRun
  try dsimp only
  repeat' first
    | with_reducible
        first
        | assumption | intro _ | apply keep_ite | apply keep_leaveRun | apply keep_breach | apply keep_vote
        | apply keep_modHeld
    | split
    | with_reducible first | apply keep_rec | rfl

theorem keep_execReplayRunEnd {r₀ s : State} (kp : Keep r₀ s) (cl : ClusterId) :
    KeepRes r₀ (execReplayRunEnd cl s) := by
  unfold execReplayRunEnd
  try dsimp only
  repeat' first
    | with_reducible
        first
        | assumption | intro _ | apply KeepRes.of | apply keep_when | apply keep_endRun
    | split
    | with_reducible first | apply keep_rec | rfl

theorem keep_failRuns {r₀ s : State} (kp : Keep r₀ s) (q : Nat) :
    Keep r₀ (failRuns s q) := by
  unfold failRuns
  try dsimp only
  repeat' first
    | with_reducible
        first
        | assumption | intro _ | apply keep_ite | apply keep_foldl | apply keep_endRun | apply keep_modCl
    | split
    | with_reducible first | apply keep_rec | rfl

theorem keep_cancelRuns {r₀ s : State} (kp : Keep r₀ s) (q : Nat) :
    Keep r₀ (cancelRuns s q) := by
  unfold cancelRuns
  try dsimp only
  repeat' first
    | with_reducible
        first
        | assumption | intro _ | apply keep_ite | apply keep_foldl | apply keep_leaveRun
    | split
    | with_reducible first | apply keep_rec | rfl

theorem keep_restartRuns {r₀ s : State} (kp : Keep r₀ s) (q : Nat) :
    Keep r₀ (restartRuns s q) := by
  unfold restartRuns
  try dsimp only
  repeat' first
    | with_reducible
        first
        | assumption | intro _ | apply keep_modPart | apply keep_cancelRuns
    | split
    | with_reducible first | apply keep_rec | rfl

theorem keep_execHalt {r₀ s : State} (kp : Keep r₀ s) (q : QuarterId) :
    KeepRes r₀ (execHalt q s) := by
  unfold execHalt
  try dsimp only
  repeat' first
    | with_reducible
        first
        | assumption | intro _ | apply KeepRes.of | apply keep_ite | apply keepRes_ite | apply keep_modPart
        | apply keep_mbReply | apply keep_mbRefuse
    | split
    | with_reducible first | apply keep_rec | rfl

theorem keep_haltAtEdge {r₀ s : State} (kp : Keep r₀ s) (q : Nat) :
    Keep r₀ (haltAtEdge s q) := by
  unfold haltAtEdge
  try dsimp only
  repeat' first
    | with_reducible
        first
        | assumption | intro _ | apply keep_ite | apply keep_foldl | apply keep_bump | apply keep_modPart
        | apply keep_mbReply
    | split
    | with_reducible first | apply keep_rec | rfl

theorem keep_holdAtEdge {r₀ s : State} (kp : Keep r₀ s) (q : Nat) :
    Keep r₀ (holdAtEdge s q) := by
  unfold holdAtEdge
  try dsimp only
  repeat' first
    | with_reducible
        first
        | assumption | intro _ | apply keep_ite | apply keep_bump | apply keep_modPart
    | split
    | with_reducible first | apply keep_rec | rfl

/-! ### Machine/Resets.lean -/

theorem keep_resetRequest {r₀ s : State} (kp : Keep r₀ s) (sub : Nat) (q : Nat) (f : MbReq → ResetReq → State → State)
    (hf : ∀ a0 a1 t, Keep r₀ t → Keep r₀ (f a0 a1 t)) :
    KeepRes r₀ (resetRequest sub q f s) := by
  unfold resetRequest
  try dsimp only
  repeat' first
    | with_reducible
        first
        | assumption | intro _ | apply KeepRes.of | apply keep_ite | apply keepRes_ite | apply keep_mbRefuse
        | apply hf
    | split
    | with_reducible first | apply keep_rec | rfl

theorem keep_modReset {r₀ s : State} (kp : Keep r₀ s) (q : Nat) (f : ResetOp → ResetOp) :
    Keep r₀ (modReset s q f) := by
  unfold modReset
  try dsimp only
  repeat' first
    | with_reducible
        first
        | assumption | intro _ | apply keep_modPart
    | split
    | with_reducible first | apply keep_rec | rfl

theorem keep_stopMask {r₀ s : State} (kp : Keep r₀ s) (m : Nat) :
    Keep r₀ (stopMask s m) := by
  unfold stopMask
  try dsimp only
  repeat' first
    | with_reducible
        first
        | assumption | intro _ | apply keep_foldl | apply keep_modCl | apply keep_abortStreams
        | apply keep_flushCache | apply keep_stopCluster
    | split
    | with_reducible first | apply keep_rec | rfl

theorem keep_zeroUnit {r₀ s : State} (kp : Keep r₀ s) (u : Nat) (tags : Bool) :
    Keep r₀ (zeroUnit s u tags) := by
  unfold zeroUnit
  try dsimp only
  repeat' first
    | with_reducible
        first
        | assumption | intro _ | apply keep_ite | apply keep_foldl | apply keep_modUn | apply keep_markDirty
        | apply keep_stopShadow
    | split
    | with_reducible first | apply keep_rec | rfl

theorem keep_zeroBalances {r₀ s : State} (kp : Keep r₀ s) (c : Nat) :
    Keep r₀ (zeroBalances s c) := by
  unfold zeroBalances
  try dsimp only
  repeat' first
    | with_reducible
        first
        | assumption | intro _ | apply keep_foldl | apply keep_setBucket
    | split
    | with_reducible first | apply keep_rec | rfl

theorem keep_zeroMask {r₀ s : State} (kp : Keep r₀ s) (m : Nat) (zero : Bool) :
    Keep r₀ (zeroMask s m zero) := by
  unfold zeroMask
  try dsimp only
  repeat' first
    | with_reducible
        first
        | assumption | intro _ | apply keep_ite | apply keep_foldl | apply keep_setBucket | apply keep_setFld
        | apply keep_modCl | apply keep_startClear | apply keep_resetAllChannels | apply keep_zeroUnit
        | apply keep_zeroBalances
    | split
    | with_reducible first | apply keep_rec | rfl

theorem keep_endHolds {r₀ s : State} (kp : Keep r₀ s) (q : Nat) :
    Keep r₀ (endHolds s q) := by
  unfold endHolds
  try dsimp only
  repeat' first
    | with_reducible
        first
        | assumption | intro _ | apply keep_modPart | apply keep_cancelRuns
    | split
    | with_reducible first | apply keep_rec | rfl

theorem keep_releaseQuarantine {r₀ s : State} (kp : Keep r₀ s) (m : Nat) :
    Keep r₀ (releaseQuarantine s m) := by
  unfold releaseQuarantine
  try dsimp only
  repeat' first
    | with_reducible
        first
        | assumption | intro _ | apply keep_ite | apply keep_foldl | apply keep_modCl
    | split
    | with_reducible first | apply keep_rec | rfl

theorem keep_startEclipse {r₀ s : State} (kp : Keep r₀ s) (p : Partition) (kind : Nat) (zero : Bool) (reply : Option
    Nat) (after : Nat) :
    Keep r₀ (startEclipse s p kind zero reply after) := by
  unfold startEclipse
  try dsimp only
  repeat' first
    | with_reducible
        first
        | assumption | intro _ | apply keep_modPart | apply keep_refreshSusp | apply keep_stopMask
    | split
    | with_reducible first | apply keep_rec | rfl

theorem keep_execEclipse {r₀ s : State} (kp : Keep r₀ s) (q : QuarterId) :
    KeepRes r₀ (execEclipse q s) := by
  unfold execEclipse
  try dsimp only
  repeat' first
    | with_reducible
        first
        | assumption | intro _ | apply KeepRes.of | apply keep_resetRequest | apply keep_startEclipse
    | split
    | with_reducible first | apply keep_rec | rfl

theorem keep_zeroSpares {r₀ s : State} (kp : Keep r₀ s) (m : Nat) :
    Keep r₀ (zeroSpares s m) := by
  unfold zeroSpares
  try dsimp only
  repeat' first
    | with_reducible
        first
        | assumption | intro _ | apply keep_foldl | apply keep_startClear | apply keep_zeroUnit
    | split
    | with_reducible first | apply keep_rec | rfl

theorem keep_execEclipseAbsorbEnd {r₀ s : State} (kp : Keep r₀ s) (q : QuarterId) :
    KeepRes r₀ (execEclipseAbsorbEnd q s) := by
  unfold execEclipseAbsorbEnd
  try dsimp only
  repeat' first
    | with_reducible
        first
        | assumption | intro _ | apply KeepRes.of | apply keep_ite | apply keepRes_ite | apply keep_advFab
        | apply keep_endHolds | apply keep_zeroMask | apply keep_zeroSpares | apply keep_refreshSusp
        | apply keep_modReset
    | split
    | with_reducible first | apply keep_rec | rfl

theorem keep_finishReset {r₀ s : State} (kp : Keep r₀ s) (p : Partition) (r : ResetOp) :
    Keep r₀ (finishReset s p r) := by
  unfold finishReset
  try dsimp only
  repeat' first
    | with_reducible
        first
        | assumption | intro _ | apply keep_ite | apply keep_bump | apply keep_modPart | apply keep_refreshSusp
        | apply keep_mbReply | apply keep_releaseQuarantine
    | split
    | with_reducible first | apply keep_rec | rfl

theorem keep_execEclipseComplete {r₀ s : State} (kp : Keep r₀ s) (q : QuarterId) :
    KeepRes r₀ (execEclipseComplete q s) := by
  unfold execEclipseComplete
  try dsimp only
  repeat' first
    | with_reducible
        first
        | assumption | intro _ | apply KeepRes.of | apply keep_ite | apply keepRes_ite | apply keep_foldl
        | apply keep_modCl | apply keep_advFab | apply keep_finishReset
    | split
    | with_reducible first | apply keep_rec | rfl

theorem keep_drainDesc {r₀ s : State} (kp : Keep r₀ s) (c u : Nat) (e : Issued) :
    Keep r₀ (drainDesc s c u e) := by
  unfold drainDesc
  try dsimp only
  repeat' first
    | with_reducible
        first
        | assumption | intro _ | apply keep_ite | apply keep_complete | apply keep_unitDone | apply keep_abandonUnit
        | apply keep_modEng | apply keep_engDone
    | split
    | with_reducible first | apply keep_rec | rfl

theorem keep_drainUnit {r₀ s : State} (kp : Keep r₀ s) (u : Nat) :
    Keep r₀ (drainUnit s u) := by
  unfold drainUnit
  try dsimp only
  repeat' first
    | with_reducible
        first
        | assumption | intro _ | apply keep_foldl | apply keep_complete | apply keep_atPresent
        | apply keep_modUn | apply keep_drainDesc
    | split
    | with_reducible first | apply keep_rec | rfl

theorem keep_drainCluster {r₀ s : State} (kp : Keep r₀ s) (c : Nat) :
    Keep r₀ (drainCluster s c) := by
  unfold drainCluster
  try dsimp only
  repeat' first
    | with_reducible
        first
        | assumption | intro _ | apply keep_foldl | apply keep_noteRoom | apply keep_modCl | apply keep_endWaits
        | apply keep_drainUnit | apply keep_setCl | apply keep_complete
    | split
    | with_reducible first | apply keep_rec | rfl

theorem keep_endDrained {r₀ s : State} (kp : Keep r₀ s) (c : Nat) :
    Keep r₀ (endDrained s c) := by
  unfold endDrained
  try dsimp only
  repeat' first
    | with_reducible
        first
        | assumption | intro _ | apply keep_foldl | apply keep_complete | apply keep_engDone
    | split
    | with_reducible first | apply keep_rec | rfl

theorem keep_startCompat {r₀ s : State} (kp : Keep r₀ s) (p : Partition) (kind target : Nat) (reply : Option Nat) :
    Keep r₀ (startCompat s p kind target reply) := by
  unfold startCompat
  try dsimp only
  repeat' first
    | with_reducible
        first
        | assumption | intro _ | apply keep_ite | apply keep_foldl | apply keep_modPart | apply keep_refreshSusp
        | apply keep_abortStreams | apply keep_drainUnit | apply keep_drainCluster
    | split
    | with_reducible first | apply keep_rec | rfl

theorem keep_execCompatUnit {r₀ s : State} (kp : Keep r₀ s) (q : QuarterId) :
    KeepRes r₀ (execCompatUnit q s) := by
  unfold execCompatUnit
  try dsimp only
  repeat' first
    | with_reducible
        first
        | assumption | intro _ | apply KeepRes.of | apply keep_resetRequest | apply keep_startCompat
    | split
    | with_reducible first | apply keep_rec | rfl

theorem keep_execCompatCluster {r₀ s : State} (kp : Keep r₀ s) (q : QuarterId) :
    KeepRes r₀ (execCompatCluster q s) := by
  unfold execCompatCluster
  try dsimp only
  repeat' first
    | with_reducible
        first
        | assumption | intro _ | apply KeepRes.of | apply keep_resetRequest | apply keep_startCompat
    | split
    | with_reducible first | apply keep_rec | rfl

theorem keep_execCompatPartition {r₀ s : State} (kp : Keep r₀ s) (q : QuarterId) :
    KeepRes r₀ (execCompatPartition q s) := by
  unfold execCompatPartition
  try dsimp only
  repeat' first
    | with_reducible
        first
        | assumption | intro _ | apply KeepRes.of | apply keep_resetRequest | apply keep_startCompat
    | split
    | with_reducible first | apply keep_rec | rfl

theorem keep_execCompatPanel {r₀ s : State} (kp : Keep r₀ s) (q : QuarterId) :
    KeepRes r₀ (execCompatPanel q s) := by
  unfold execCompatPanel
  try dsimp only
  repeat' first
    | with_reducible
        first
        | assumption | intro _ | apply KeepRes.of | apply keep_ite | apply keepRes_ite | apply keep_foldl
        | apply keep_mbReply | apply keep_resetRequest | apply keep_startCompat
    | split
    | with_reducible first | apply keep_rec | rfl

theorem keep_afterDrain {r₀ s : State} (kp : Keep r₀ s) (p : Partition) (r : ResetOp) :
    Keep r₀ (afterDrain s p r) := by
  unfold afterDrain
  try dsimp only
  repeat' first
    | with_reducible
        first
        | assumption | intro _ | apply keep_foldl | apply keep_modCl | apply keep_complete | apply keep_flushCache
        | apply keep_engDone | apply keep_cancelAll | apply keep_modReset | apply keep_zeroUnit
        | apply keep_zeroBalances | apply keep_finishReset | apply keep_endDrained
    | split
    | with_reducible first | apply keep_rec | rfl

theorem keep_execDrainComplete {r₀ s : State} (kp : Keep r₀ s) (q : QuarterId) :
    KeepRes r₀ (execDrainComplete q s) := by
  unfold execDrainComplete
  try dsimp only
  repeat' first
    | with_reducible
        first
        | assumption | intro _ | apply KeepRes.of | apply keep_when | apply keep_afterDrain
    | split
    | with_reducible first | apply keep_rec | rfl

theorem keep_quarantineDrain {r₀ s : State} (kp : Keep r₀ s) (p : Partition) (r : ResetOp) :
    Keep r₀ (quarantineDrain s p r) := by
  unfold quarantineDrain
  try dsimp only
  repeat' first
    | with_reducible
        first
        | assumption | intro _ | apply keep_foldl | apply keep_modCl | apply keep_write | apply keep_quarantineTags
    | split
    | with_reducible first | apply keep_rec | rfl

theorem keep_execDrainTimeout {r₀ s : State} (kp : Keep r₀ s) (q : QuarterId) :
    KeepRes r₀ (execDrainTimeout q s) := by
  unfold execDrainTimeout
  try dsimp only
  repeat' first
    | with_reducible
        first
        | assumption | intro _ | apply KeepRes.of | apply keep_ite | apply keepRes_ite | apply keep_advFab
        | apply keep_afterDrain | apply keep_quarantineDrain
    | split
    | with_reducible first | apply keep_rec | rfl

theorem keep_execWarmReset {r₀ s : State} (kp : Keep r₀ s) (q : QuarterId) :
    KeepRes r₀ (execWarmReset q s) := by
  unfold execWarmReset
  try dsimp only
  repeat' first
    | with_reducible
        first
        | assumption | intro _ | apply KeepRes.of | apply keep_modMgr | apply keep_mbReply | apply keep_resetRequest
    | split
    | with_reducible first | apply keep_rec | rfl

/-! ### Machine/Time.lean -/

theorem keep_execBeaconSend {r₀ s : State} (kp : Keep r₀ s) :
    KeepRes r₀ (execBeaconSend s) := by
  unfold execBeaconSend
  try dsimp only
  repeat' first
    | with_reducible
        first
        | assumption | intro _ | apply KeepRes.of | apply keep_foldl | apply keep_modMgr | apply keep_advMgr
        | apply keep_fromMgr
    | split
    | with_reducible first | apply keep_rec | rfl

theorem keep_execBeacon {r₀ s : State} (kp : Keep r₀ s) (site : RouterId) :
    KeepRes r₀ (execBeacon site s) := by
  unfold execBeacon
  try dsimp only
  repeat' first
    | with_reducible
        first
        | assumption | intro _ | apply KeepRes.of | apply keep_ite | apply keepRes_ite | apply keep_serve
        | apply keep_seeEpoch | apply keep_modKeeper | apply keep_refreshSusp | apply keep_setSlew
    | split
    | with_reducible first | apply keep_rec | rfl

theorem keep_bumpBeaconMiss {r₀ s : State} (kp : Keep r₀ s) (site : Nat) :
    Keep r₀ (bumpBeaconMiss s site) := by
  unfold bumpBeaconMiss
  try dsimp only
  repeat' first
    | with_reducible
        first
        | assumption | intro _ | apply keep_bump
    | split
    | with_reducible first | apply keep_rec | rfl

theorem keep_execBeaconMiss {r₀ s : State} (kp : Keep r₀ s) (site : RouterId) :
    KeepRes r₀ (execBeaconMiss site s) := by
  unfold execBeaconMiss
  try dsimp only
  repeat' first
    | with_reducible
        first
        | assumption | intro _ | apply KeepRes.of | apply keep_ite | apply keepRes_ite | apply keep_advFab
        | apply keep_bumpBeaconMiss | apply keep_modKeeper
    | split
    | with_reducible first | apply keep_rec | rfl

theorem keep_execBeaconLoss {r₀ s : State} (kp : Keep r₀ s) (site : RouterId) :
    KeepRes r₀ (execBeaconLoss site s) := by
  unfold execBeaconLoss
  try dsimp only
  repeat' first
    | with_reducible
        first
        | assumption | intro _ | apply KeepRes.of | apply keep_ite | apply keepRes_ite | apply keep_advFab
        | apply keep_refreshSusp | apply keep_modKeeper
    | split
    | with_reducible first | apply keep_rec | rfl

theorem keep_discardAverage {r₀ s : State} (kp : Keep r₀ s) :
    Keep r₀ (discardAverage s) := by
  unfold discardAverage
  try dsimp only
  repeat' first
    | with_reducible
        first
        | assumption | intro _ | apply keep_modMgr | apply keep_setReg
    | split
    | with_reducible first | apply keep_rec | rfl

theorem keep_settleTimePort {r₀ s : State} (kp : Keep r₀ s) :
    Keep r₀ (settleTimePort s) := by
  unfold settleTimePort
  try dsimp only
  repeat' first
    | with_reducible
        first
        | assumption | intro _ | apply keep_ite | apply keep_discardAverage | apply keep_modMgr
    | split
    | with_reducible first | apply keep_rec | rfl

theorem keep_settleTimeCtl {r₀ s : State} (kp : Keep r₀ s) (before : State) :
    Keep r₀ (settleTimeCtl before s) := by
  unfold settleTimeCtl
  try dsimp only
  repeat' first
    | with_reducible
        first
        | assumption | intro _ | apply keep_ite | apply keep_settleTimePort | apply keep_modMgr
    | split
    | with_reducible first | apply keep_rec | rfl

theorem keep_execPpsEdge {r₀ s : State} (kp : Keep r₀ s) (falling : Bool) :
    KeepRes r₀ (execPpsEdge falling s) := by
  unfold execPpsEdge
  try dsimp only
  repeat' first
    | with_reducible
        first
        | assumption | intro _ | apply KeepRes.of | apply keep_ite | apply keepRes_ite | apply keep_setReg
        | apply keep_modMgr | apply keep_setMgrSlew
    | split
    | with_reducible first | apply keep_rec | rfl

theorem keep_execPpsMiss {r₀ s : State} (kp : Keep r₀ s) :
    KeepRes r₀ (execPpsMiss s) := by
  unfold execPpsMiss
  try dsimp only
  repeat' first
    | with_reducible
        first
        | assumption | intro _ | apply KeepRes.of | apply keep_ite | apply keepRes_ite | apply keep_advMgr
        | apply keep_bump | apply keep_modMgr
    | split
    | with_reducible first | apply keep_rec | rfl

theorem keep_gtSet {r₀ s : State} (kp : Keep r₀ s) (who : Requester) (at_ : Nat) :
    Keep r₀ (gtSet s who at_) := by
  unfold gtSet
  try dsimp only
  repeat' first
    | with_reducible
        first
        | assumption | intro _ | apply keep_ite | apply keep_modMgr | apply keep_setReg
    | split
    | with_reducible first | apply keep_rec | rfl

theorem keep_execGtSetNow {r₀ s : State} (kp : Keep r₀ s) (who : Requester) :
    KeepRes r₀ (execGtSetNow who s) := by
  unfold execGtSetNow
  try dsimp only
  repeat' first
    | with_reducible
        first
        | assumption | intro _ | apply KeepRes.of | apply keep_gtSet
    | split
    | with_reducible first | apply keep_rec | rfl

theorem keep_execGtSetNextSecond {r₀ s : State} (kp : Keep r₀ s) (who : Requester) :
    KeepRes r₀ (execGtSetNextSecond who s) := by
  unfold execGtSetNextSecond
  try dsimp only
  repeat' first
    | with_reducible
        first
        | assumption | intro _ | apply KeepRes.of | apply keep_gtSet
    | split
    | with_reducible first | apply keep_rec | rfl

theorem keep_execGtSetCancel {r₀ s : State} (kp : Keep r₀ s) (who : Requester) :
    KeepRes r₀ (execGtSetCancel who s) := by
  unfold execGtSetCancel
  try dsimp only
  repeat' first
    | with_reducible
        first
        | assumption | intro _ | apply KeepRes.of | apply keep_modMgr | apply keep_setReg | apply keep_when
    | split
    | with_reducible first | apply keep_rec | rfl

theorem keep_execTimeSetApply {r₀ s : State} (kp : Keep r₀ s) :
    KeepRes r₀ (execTimeSetApply s) := by
  unfold execTimeSetApply
  try dsimp only
  repeat' first
    | with_reducible
        first
        | assumption | intro _ | apply KeepRes.of | apply keep_advMgr | apply keep_modMgr
        | apply keep_discardAverage | apply keep_setReg
    | split
    | with_reducible first | apply keep_rec | rfl

/-! ### Machine/PowerStates.lean -/

theorem keep_modQuarters {r₀ s : State} (kp : Keep r₀ s) (m : Nat) (f : Quarter → Quarter) :
    Keep r₀ (modQuarters s m f) := by
  unfold modQuarters
  try dsimp only
  repeat' first
    | with_reducible
        first
        | assumption | intro _ | apply keep_foldl | apply keep_modQtr
    | split
    | with_reducible first | apply keep_rec | rfl

theorem keep_powerRequest {r₀ s : State} (kp : Keep r₀ s) (target q : Nat) :
    KeepRes r₀ (powerRequest target q s) := by
  unfold powerRequest
  try dsimp only
  repeat' first
    | with_reducible
        first
        | assumption | intro _ | apply KeepRes.of | apply keep_ite | apply keepRes_ite | apply keep_foldl
        | apply keep_mbRefuse | apply keep_modQuarters | apply keep_settleTimePort | apply keep_modMr
        | apply keep_modPort | apply keep_mbReply
    | split
    | with_reducible first | apply keep_rec | rfl

theorem keep_execPstateDay {r₀ s : State} (kp : Keep r₀ s) (q : QuarterId) :
    KeepRes r₀ (execPstateDay q s) := by
  unfold execPstateDay
  try dsimp only
  repeat' first
    | with_reducible
        first
        | assumption | intro _ | apply KeepRes.of | apply keep_powerRequest
    | split
    | with_reducible first | apply keep_rec | rfl

theorem keep_execPstateDim {r₀ s : State} (kp : Keep r₀ s) (q : QuarterId) :
    KeepRes r₀ (execPstateDim q s) := by
  unfold execPstateDim
  try dsimp only
  repeat' first
    | with_reducible
        first
        | assumption | intro _ | apply KeepRes.of | apply keep_powerRequest
    | split
    | with_reducible first | apply keep_rec | rfl

theorem keep_execPstateDusk {r₀ s : State} (kp : Keep r₀ s) (q : QuarterId) :
    KeepRes r₀ (execPstateDusk q s) := by
  unfold execPstateDusk
  try dsimp only
  repeat' first
    | with_reducible
        first
        | assumption | intro _ | apply KeepRes.of | apply keep_powerRequest
    | split
    | with_reducible first | apply keep_rec | rfl

theorem keep_execPstateDark {r₀ s : State} (kp : Keep r₀ s) (q : QuarterId) :
    KeepRes r₀ (execPstateDark q s) := by
  unfold execPstateDark
  try dsimp only
  repeat' first
    | with_reducible
        first
        | assumption | intro _ | apply KeepRes.of | apply keep_powerRequest
    | split
    | with_reducible first | apply keep_rec | rfl

theorem keep_endPower {r₀ s : State} (kp : Keep r₀ s) (m : Nat) :
    Keep r₀ (endPower s m) := by
  unfold endPower
  try dsimp only
  repeat' first
    | with_reducible
        first
        | assumption | intro _ | apply keep_foldl | apply keep_bump | apply keep_stateEvent | apply keep_modQuarters
    | split
    | with_reducible first | apply keep_rec | rfl

theorem keep_powerAtEdge {r₀ s : State} (kp : Keep r₀ s) (q t : Nat) :
    Keep r₀ (powerAtEdge s q t) := by
  unfold powerAtEdge
  try dsimp only
  repeat' first
    | with_reducible
        first
        | assumption | intro _ | apply keep_ite | apply keep_modQuarters | apply keep_endPower
    | split
    | with_reducible first | apply keep_rec | rfl

theorem keep_writeBackCache {r₀ s : State} (kp : Keep r₀ s) (c : Nat) :
    Keep r₀ (writeBackCache s c) := by
  unfold writeBackCache
  try dsimp only
  repeat' first
    | with_reducible
        first
        | assumption | intro _ | apply keep_foldl | apply keep_modCl | apply keep_modMr | apply keep_partialWrite
    | split
    | with_reducible first | apply keep_rec | rfl

theorem keep_darkenCluster {r₀ s : State} (kp : Keep r₀ s) (c : Nat) :
    Keep r₀ (darkenCluster s c) := by
  unfold darkenCluster
  try dsimp only
  repeat' first
    | with_reducible
        first
        | assumption | intro _ | apply keep_modCl | apply keep_zeroBalances
    | split
    | with_reducible first | apply keep_rec | rfl

theorem keep_saveSchedule {r₀ s : State} (kp : Keep r₀ s) (c : Nat) :
    Keep r₀ (saveSchedule s c) := by
  unfold saveSchedule
  try dsimp only
  repeat' first
    | with_reducible
        first
        | assumption | intro _ | apply keep_foldl | apply keep_storeBlock
    | split
    | with_reducible first | apply keep_rec | rfl

theorem keep_openQuarters {r₀ s : State} (kp : Keep r₀ s) (m : Nat) (dark : Bool) :
    Keep r₀ (openQuarters s m dark) := by
  unfold openQuarters
  try dsimp only
  repeat' first
    | with_reducible
        first
        | assumption | intro _ | apply keep_ite | apply keep_foldl | apply keep_wipeSpad | apply keep_refreshSusp
        | apply keep_openRegion | apply keep_zeroUnit | apply keep_writeBackCache | apply keep_darkenCluster
        | apply keep_saveSchedule
    | split
    | with_reducible first | apply keep_rec | rfl

theorem keep_noTickEntry {r₀ s : State} (kp : Keep r₀ s) (q : Nat) :
    Keep r₀ (noTickEntry s q) := by
  unfold noTickEntry
  try dsimp only
  repeat' first
    | with_reducible
        first
        | assumption | intro _ | apply keep_ite | apply keep_advNs | apply keep_powerAtEdge
    | split
    | with_reducible first | apply keep_rec | rfl

theorem keep_execPstateEntryDone {r₀ s : State} (kp : Keep r₀ s) (q : QuarterId) :
    KeepRes r₀ (execPstateEntryDone q s) := by
  unfold execPstateEntryDone
  try dsimp only
  repeat' first
    | with_reducible
        first
        | assumption | intro _ | apply KeepRes.of | apply keep_ite | apply keepRes_ite | apply keep_advNs
        | apply keep_modQuarters | apply keep_endPower | apply keep_openQuarters | apply keep_noTickEntry
    | split
    | with_reducible first | apply keep_rec | rfl

theorem keep_execSelfRefreshEntry {r₀ s : State} (kp : Keep r₀ s) (q : QuarterId) :
    KeepRes r₀ (execSelfRefreshEntry q s) := by
  unfold execSelfRefreshEntry
  try dsimp only
  repeat' first
    | with_reducible
        first
        | assumption | intro _ | apply KeepRes.of | apply keep_ite | apply keepRes_ite | apply keep_foldl
        | apply keep_modMr | apply keep_modPort | apply keep_releaseLock | apply keep_modQuarters
        | apply keep_settleTimePort
    | split
    | with_reducible first | apply keep_rec | rfl

theorem keep_restoreSchedule {r₀ s : State} (kp : Keep r₀ s) (q c : Nat) :
    Keep r₀ (restoreSchedule s q c) := by
  unfold restoreSchedule
  try dsimp only
  repeat' first
    | with_reducible
        first
        | assumption | intro _ | apply keep_ite | apply keep_write | apply keep_modPart | apply keep_haltSoon
    | split
    | with_reducible first | apply keep_rec | rfl

theorem keep_execPstateWakeDone {r₀ s : State} (kp : Keep r₀ s) (q : QuarterId) :
    KeepRes r₀ (execPstateWakeDone q s) := by
  unfold execPstateWakeDone
  try dsimp only
  repeat' first
    | with_reducible
        first
        | assumption | intro _ | apply KeepRes.of | apply keep_ite | apply keepRes_ite | apply keep_foldl
        | apply keep_endPower | apply keep_resetAllChannels | apply keep_configAll | apply keep_restoreSchedule
        | apply keep_modPart
    | split
    | with_reducible first | apply keep_rec | rfl

/-! ### Machine/Fabric.lean -/

theorem keep_dropFirewall {r₀ s : State} (kp : Keep r₀ s) (site port : Nat) (p : Packet) :
    Keep r₀ (dropFirewall s site port p) := by
  unfold dropFirewall
  try dsimp only
  repeat' first
    | with_reducible
        first
        | assumption | intro _ | apply keep_setReg | apply keep_bump
    | split
    | with_reducible first | apply keep_rec | rfl

theorem keep_checkHeads {r₀ s : State} (kp : Keep r₀ s) (site : Nat) (l : List (Nat × Packet)) :
    Keep r₀ (checkHeads s site l).2 := by
  induction l generalizing s with
  | nil => exact kp
  | cons a l ih =>
    unfold checkHeads
    split
    · exact ih (keep_bump kp _)
    split
    · exact ih (keep_dropFirewall kp ..)
    · exact ih kp

theorem keep_checkEntries {r₀ s : State} (kp : Keep r₀ s) (site : Nat) (l : List (Nat × Packet)) :
    Keep r₀ (checkEntries s site l).2 := by
  induction l generalizing s with
  | nil => exact kp
  | cons a l ih =>
    unfold checkEntries
    split
    · exact ih (keep_bump kp _)
    split
    · exact ih (keep_bump kp _)
    split
    · exact ih (keep_dropFirewall kp ..)
    · exact ih kp

theorem keep_sendOn {r₀ s : State} (kp : Keep r₀ s) (site m : Nat) (x : Placed) :
    Keep r₀ (sendOn s site m x) := by
  unfold sendOn
  try dsimp only
  repeat' first
    | with_reducible
        first
        | assumption | intro _ | apply keep_ite | apply keep_bump
    | split
    | with_reducible first | apply keep_rec | rfl

theorem keep_ejectTo {r₀ s : State} (kp : Keep r₀ s) (site : Nat) (x : Placed) :
    Keep r₀ (ejectTo s site x) := by
  unfold ejectTo
  try dsimp only
  repeat' first
    | with_reducible
        first
        | assumption | intro _ | apply keep_ite | apply keep_modRtr | apply keep_bump
    | split
    | with_reducible first | apply keep_rec | rfl

theorem keep_dispatchPlaced {r₀ s : State} (kp : Keep r₀ s) (site m : Nat) (x : Placed) :
    Keep r₀ (dispatchPlaced site m s x) := by
  unfold dispatchPlaced
  try dsimp only
  repeat' first
    | with_reducible
        first
        | assumption | intro _ | apply keep_ite | apply keep_modRtr | apply keep_sendOn | apply keep_ejectTo
    | split
    | with_reducible first | apply keep_rec | rfl

theorem keep_addTrace {r₀ s : State} (kp : Keep r₀ s) (v : Nat) :
    Keep r₀ (addTrace s v) := by
  unfold addTrace
  try dsimp only
  repeat' first
    | with_reducible
        first
        | assumption | intro _
    | split
    | with_reducible first | apply keep_rec | rfl

theorem keep_capture {r₀ s : State} (kp : Keep r₀ s) (site dir : Nat) (ps : List (Nat × Packet)) :
    Keep r₀ (capture s site dir ps) := by
  unfold capture
  try dsimp only
  repeat' first
    | with_reducible
        first
        | assumption | intro _ | apply keep_ite | apply keep_foldl | apply keep_addTrace
    | split
    | with_reducible first | apply keep_rec | rfl

theorem keep_routerSlot {r₀ s : State} (kp : Keep r₀ s) (site m : Nat) (hits : List (Nat × Hit)) :
    Keep r₀ (routerSlot s site m hits) := by
  unfold routerSlot
  try dsimp only
  repeat' first
    | with_reducible
        first
        | assumption | intro _ | apply keep_ite | apply keep_foldl | apply keep_capture | apply keep_checkHeads
        | apply keep_checkEntries | apply keep_inject | apply keep_modRtr | apply keep_dispatchPlaced
        | apply keep_bumpBy | apply keep_bump
    | split
    | with_reducible first | apply keep_rec | rfl

theorem keep_execRouterSlot {r₀ s : State} (kp : Keep r₀ s) (site : RouterId) (hits : List (Nat × Hit)) :
    KeepRes r₀ (execRouterSlot site hits s) := by
  unfold execRouterSlot
  try dsimp only
  repeat' first
    | with_reducible
        first
        | assumption | intro _ | apply KeepRes.of | apply keep_when | apply keep_routerSlot
    | split
    | with_reducible first | apply keep_rec | rfl

theorem keep_execLaneLossOfLock {r₀ s : State} (kp : Keep r₀ s) (l : LinkId) (hiEnd : Bool) :
    KeepRes r₀ (execLaneLossOfLock l hiEnd s) := by
  unfold execLaneLossOfLock
  try dsimp only
  repeat' first
    | with_reducible
        first
        | assumption | intro _ | apply KeepRes.of | apply keep_ite | apply keepRes_ite | apply keep_advFab
        | apply keep_changeLink | apply keep_bump | apply keep_newGeneration | apply keep_linkChanged
        | apply keep_countLink
    | split
    | with_reducible first | apply keep_rec | rfl

theorem keep_execEjectFullTimeout {r₀ s : State} (kp : Keep r₀ s) (p : AgentPort) :
    KeepRes r₀ (execEjectFullTimeout p s) := by
  unfold execEjectFullTimeout
  try dsimp only
  repeat' first
    | with_reducible
        first
        | assumption | intro _ | apply KeepRes.of | apply keep_advFab | apply keep_refreshSusp
        | apply keep_modRtr
    | split
    | with_reducible first | apply keep_rec | rfl

theorem keep_execEjectSuspendEnd {r₀ s : State} (kp : Keep r₀ s) (p : AgentPort) :
    KeepRes r₀ (execEjectSuspendEnd p s) := by
  unfold execEjectSuspendEnd
  try dsimp only
  repeat' first
    | with_reducible
        first
        | assumption | intro _ | apply KeepRes.of | apply keep_advFab | apply keep_refreshSusp
        | apply keep_modRtr
    | split
    | with_reducible first | apply keep_rec | rfl

theorem keep_latchCmap {r₀ s : State} (kp : Keep r₀ s) (site frame : Nat) :
    Keep r₀ (latchCmap s site frame) := by
  unfold latchCmap
  try dsimp only
  repeat' first
    | with_reducible
        first
        | assumption | intro _ | apply keep_foldl | apply keep_setReg | apply keep_modRtr
    | split
    | with_reducible first | apply keep_rec | rfl

theorem keep_execCmapLatch {r₀ s : State} (kp : Keep r₀ s) (site : RouterId) :
    KeepRes r₀ (execCmapLatch site s) := by
  unfold execCmapLatch
  try dsimp only
  repeat' first
    | with_reducible
        first
        | assumption | intro _ | apply KeepRes.of | apply keep_ite | apply keepRes_ite | apply keep_advNs
        | apply keep_latchCmap
    | split
    | with_reducible first | apply keep_rec | rfl

theorem keep_finishGlint {r₀ s : State} (kp : Keep r₀ s) (at_ : Nat) (recs : List (Nat × List Nat)) :
    Keep r₀ (finishGlint s at_ recs) := by
  unfold finishGlint
  try dsimp only
  repeat' first
    | with_reducible
        first
        | assumption | intro _ | apply keep_modMgr | apply keep_setReg | apply keep_bumpBy
    | split
    | with_reducible first | apply keep_rec | rfl

theorem keep_execGlintTake {r₀ s : State} (kp : Keep r₀ s) :
    KeepRes r₀ (execGlintTake s) := by
  unfold execGlintTake
  try dsimp only
  repeat' first
    | with_reducible
        first
        | assumption | intro _ | apply KeepRes.of | apply keep_ite | apply keepRes_ite | apply keep_foldl
        | apply keep_modMgr | apply keep_advMgr | apply keep_fromMgr
    | split
    | with_reducible first | apply keep_rec | rfl

theorem keep_execGlintReq {r₀ s : State} (kp : Keep r₀ s) (site : RouterId) :
    KeepRes r₀ (execGlintReq site s) := by
  unfold execGlintReq
  try dsimp only
  repeat' first
    | with_reducible
        first
        | assumption | intro _ | apply KeepRes.of | apply keep_fromRegAgent | apply keep_serveMgmt
    | split
    | with_reducible first | apply keep_rec | rfl

theorem keep_execGlintRec {r₀ s : State} (kp : Keep r₀ s) :
    KeepRes r₀ (execGlintRec s) := by
  unfold execGlintRec
  try dsimp only
  repeat' first
    | with_reducible
        first
        | assumption | intro _ | apply KeepRes.of | apply keep_ite | apply keepRes_ite | apply keep_serveMgr
        | apply keep_finishGlint | apply keep_modMgr
    | split
    | with_reducible first | apply keep_rec | rfl

theorem keep_execGlintRecordTimeout {r₀ s : State} (kp : Keep r₀ s) :
    KeepRes r₀ (execGlintRecordTimeout s) := by
  unfold execGlintRecordTimeout
  try dsimp only
  repeat' first
    | with_reducible
        first
        | assumption | intro _ | apply KeepRes.of | apply keep_advFab | apply keep_finishGlint
    | split
    | with_reducible first | apply keep_rec | rfl

/-! ### Machine/Managers.lean -/

theorem keep_execPmHeartbeatSend {r₀ s : State} (kp : Keep r₀ s) (m : MgrId) :
    KeepRes r₀ (execPmHeartbeatSend m s) := by
  unfold execPmHeartbeatSend
  split
  · exact .of (keep_injectEdge (keep_setInst (keep_advFab kp _) _ _ (by exact Nat.le_refl _)) ..)
  · exact .of kp

theorem keep_ackCounters {r₀ s : State} (kp : Keep r₀ s) (p : Packet) :
    Keep r₀ (ackCounters s p) := by
  unfold ackCounters
  try dsimp only
  repeat' first
    | with_reducible
        first
        | assumption | intro _ | apply keep_modMgr
    | split
    | with_reducible first | apply keep_rec | rfl

theorem keep_execPmHb {r₀ s : State} (kp : Keep r₀ s) (m : MgrId) :
    KeepRes r₀ (execPmHb m s) := by
  unfold execPmHb
  apply keep_serve kp
  intro p t ht
  split
  · exact ht
  split
  · have hu := keep_setInst ht m { t.inst m with down := true } (Nat.le_refl _)
    exact keep_ite (keep_modMgr hu _) hu
  · have hu := keep_setInst ht m { t.inst m with hbHeard := t.fab, missed := 0 } (Nat.le_refl _)
    exact keep_ite (keep_ackCounters hu _) hu

theorem keep_execPmHbMiss {r₀ s : State} (kp : Keep r₀ s) (m : MgrId) :
    KeepRes r₀ (execPmHbMiss m s) := by
  unfold execPmHbMiss
  split
  · refine .of (keep_bump (keep_setInst (keep_advFab kp _) _ _ ?_) _)
    rw [inst_advFab]
  · exact .of kp

theorem keep_execJournalAckTimeout {r₀ s : State} (kp : Keep r₀ s) :
    KeepRes r₀ (execJournalAckTimeout s) := by
  unfold execJournalAckTimeout
  try dsimp only
  repeat' first
    | with_reducible
        first
        | assumption | intro _ | apply KeepRes.of | apply keep_ite | apply keepRes_ite | apply keep_modMgr
        | apply keep_advFab
    | split
    | with_reducible first | apply keep_rec | rfl

theorem keep_abortForTakeover {r₀ s : State} (kp : Keep r₀ s) :
    Keep r₀ (abortForTakeover s) := by
  unfold abortForTakeover
  try dsimp only
  repeat' first
    | with_reducible
        first
        | assumption | intro _ | apply keep_foldl | apply keep_abortSs
    | split
    | with_reducible first | apply keep_rec | rfl

theorem keep_answerFailover {r₀ s : State} (kp : Keep r₀ s) :
    Keep r₀ (answerFailover s) := by
  unfold answerFailover
  try dsimp only
  repeat' first
    | with_reducible
        first
        | assumption | intro _ | apply keep_foldl | apply keep_mbReply
    | split
    | with_reducible first | apply keep_rec | rfl

theorem keep_restartClears {r₀ s : State} (kp : Keep r₀ s) :
    Keep r₀ (restartClears s) := by
  unfold restartClears
  try dsimp only
  repeat' first
    | with_reducible
        first
        | assumption | intro _ | apply keep_ite | apply keep_foldl | apply keep_modQtr
    | split
    | with_reducible first | apply keep_rec | rfl

theorem keep_restartBringup {r₀ s : State} (kp : Keep r₀ s) :
    Keep r₀ (restartBringup s) := by
  unfold restartBringup
  try dsimp only
  repeat' first
    | with_reducible
        first
        | assumption | intro _ | apply keep_ite | apply keep_sendDigests | apply keep_buildWells
    | split
    | with_reducible first | apply keep_rec | rfl

theorem keep_restartSteps {r₀ s : State} (kp : Keep r₀ s) :
    Keep r₀ (restartSteps s) := by
  unfold restartSteps
  try dsimp only
  repeat' first
    | with_reducible
        first
        | assumption | intro _ | apply keep_ite | apply keep_restartBringup | apply keep_restartClears
        | apply keep_modMgr
    | split
    | with_reducible first | apply keep_rec | rfl

theorem keep_resumeOpen {r₀ s : State} (kp : Keep r₀ s) :
    Keep r₀ (resumeOpen s) := by
  unfold resumeOpen
  try dsimp only
  repeat' first
    | with_reducible
        first
        | assumption | intro _ | apply keep_ite | apply keep_foldl | apply keep_answerFailover
        | apply keep_abortForTakeover | apply keep_restartRuns | apply keep_finishGlint | apply keep_endEqx
        | apply keep_withdrawPosts | apply keep_restartSteps
    | split
    | with_reducible first | apply keep_rec | rfl

theorem keep_takeOver {r₀ s : State} (kp : Keep r₀ s) (a b : Bool) (epoch : Nat) :
    Keep r₀ (takeOver s a b epoch) := by
  unfold takeOver
  apply keep_modMgr
  apply keep_discardAverage
  apply keep_modMgr
  apply keep_foldl _ fun s a h => keep_setReg h ..
  refine keep_setInst ?_ _ _ (by exact Nat.le_refl _)
  exact keep_setInst kp _ _ (by exact Nat.le_refl _)

theorem keep_execPmTakeover {r₀ s : State} (kp : Keep r₀ s) :
    KeepRes r₀ (execPmTakeover s) := by
  unfold execPmTakeover
  split
  · exact .of kp
  split
  · exact .of (keep_stateEvent (keep_resumeOpen (keep_bump (keep_takeOver (keep_advFab kp _) ..) _)) ..)
  · exact .of kp

theorem keep_execQcPmLost {r₀ s : State} (kp : Keep r₀ s) (q : QuarterId) :
    KeepRes r₀ (execQcPmLost q s) := by
  unfold execQcPmLost
  try dsimp only
  repeat' first
    | with_reducible
        first
        | assumption | intro _ | apply KeepRes.of | apply keep_ite | apply keepRes_ite | apply keep_modQtr
        | apply keep_modMgr | apply keep_setReg | apply keep_bump | apply keep_emit | apply keep_advFab
        | apply keep_refreshSusp | apply keep_stateEvent | apply keep_mbRefuse
    | split
    | with_reducible first | apply keep_rec | rfl

/-! ### Machine/Security.lean -/

theorem keep_countDebug {r₀ s : State} (kp : Keep r₀ s) (q : Nat) :
    Keep r₀ (countDebug s q) := by
  unfold countDebug
  try dsimp only
  repeat' first
    | with_reducible
        first
        | assumption | intro _ | apply keep_bump
    | split
    | with_reducible first | apply keep_rec | rfl

theorem keep_modSec {r₀ s : State} (kp : Keep r₀ s) (f : Security → Security)
    (hf : ∀ k, bit s.sec.revoked k = true → bit (f s.sec).revoked k = true := by exact fun _ h => h) : Keep r₀ (modSec
    s f) := by
  exact { kp.same (t := { s with fresh := s.fresh }) with keys := fun k h => hf k (kp.keys k h) }

theorem keep_execSettingsCommit {r₀ s : State} (kp : Keep r₀ s) (who : Requester) :
    KeepRes r₀ (execSettingsCommit who s) := by
  unfold execSettingsCommit
  try dsimp only
  repeat' first
    | with_reducible
        first
        | assumption | intro _ | apply KeepRes.of | apply keep_foldl | apply keep_when | apply keep_modSec
    | split
    | with_reducible first | apply keep_rec | rfl

theorem keep_execFwCommit {r₀ s : State} (kp : Keep r₀ s) (who : Requester) (okA okB : Bool) :
    KeepRes r₀ (execFwCommit who okA okB s) := by
  unfold execFwCommit
  split
  · extract_lets svn top blow err t t2
    have hb : ∀ ok i, i.count ≤ (blow ok i).count := by
      intro ok i
      show i.count ≤ (if ok = true then _ else i).count
      split
      · exact Nat.le_max_left ..
      · exact Nat.le_refl _
    have ht : Keep r₀ t := { kp.same (t := { s with fresh := s.fresh }) with
      fuseA := kp.fuseA.trans (hb _ _), fuseB := kp.fuseB.trans (hb _ _) }
    have h2 : Keep r₀ t2 := keep_setField ht ..
    apply KeepRes.of
    split
    · exact keep_modSec h2 _
    · exact h2
  · exact .of kp

theorem keep_execKeyRevoke {r₀ s : State} (kp : Keep r₀ s) (who : Requester) (mask : BitVec 4) :
    KeepRes r₀ (execKeyRevoke who mask s) := by
  unfold execKeyRevoke
  exact keep_when _ kp (keep_modSec kp _ fun k hk => bit_or_left hk)

theorem keep_execSpdmKeyExchange {r₀ s : State} (kp : Keep r₀ s) (q : QuarterId) (mutualRoot : Option Bytes) :
    KeepRes r₀ (execSpdmKeyExchange q mutualRoot s) := by
  unfold execSpdmKeyExchange
  try dsimp only
  repeat' first
    | with_reducible
        first
        | assumption | intro _ | apply KeepRes.of | apply keep_ite | apply keepRes_ite | apply keep_modQtr
        | apply keep_emit
    | split
    | with_reducible first | apply keep_rec | rfl

theorem keep_execSpdmEndSession {r₀ s : State} (kp : Keep r₀ s) (q : QuarterId) (session : Nat) :
    KeepRes r₀ (execSpdmEndSession q session s) := by
  unfold execSpdmEndSession
  try dsimp only
  repeat' first
    | with_reducible
        first
        | assumption | intro _ | apply KeepRes.of | apply keep_modQtr | apply keep_when
    | split
    | with_reducible first | apply keep_rec | rfl

theorem keep_execSpdmGetMeasurements {r₀ s : State} (kp : Keep r₀ s) (q : QuarterId) :
    KeepRes r₀ (execSpdmGetMeasurements q s) := by
  unfold execSpdmGetMeasurements
  try dsimp only
  repeat' first
    | with_reducible
        first
        | assumption | intro _ | apply KeepRes.of | apply keep_when | apply keep_emit
    | split
    | with_reducible first | apply keep_rec | rfl

theorem keep_execKeySet {r₀ s : State} (kp : Keep r₀ s) (q : QuarterId) (session : Nat) (n : Fin 4) (keyId : BitVec
    32) (key : BitVec 256) :
    KeepRes r₀ (execKeySet q session n keyId key s) := by
  unfold execKeySet
  try dsimp only
  repeat' first
    | with_reducible
        first
        | assumption | intro _ | apply KeepRes.of | apply keep_ite | apply keepRes_ite | apply keep_modQtr
        | apply keep_setReg | apply keep_emit
    | split
    | with_reducible first | apply keep_rec | rfl

theorem keep_eraseKey {r₀ s : State} (kp : Keep r₀ s) (k n : Nat) :
    Keep r₀ (eraseKey s k n) := by
  unfold eraseKey
  try dsimp only
  repeat' first
    | with_reducible
        first
        | assumption | intro _ | apply keep_modQtr | apply keep_setReg
    | split
    | with_reducible first | apply keep_rec | rfl

theorem keep_execKeyErase {r₀ s : State} (kp : Keep r₀ s) (q : QuarterId) (session : Nat) (n : Fin 4) :
    KeepRes r₀ (execKeyErase q session n s) := by
  unfold execKeyErase
  try dsimp only
  repeat' first
    | with_reducible
        first
        | assumption | intro _ | apply KeepRes.of | apply keep_ite | apply keepRes_ite | apply keep_emit
        | apply keep_eraseKey
    | split
    | with_reducible first | apply keep_rec | rfl

theorem keep_release {r₀ s : State} (kp : Keep r₀ s) (e : Nat) :
    Keep r₀ (release s e) := by
  unfold release
  try dsimp only
  repeat' first
    | with_reducible
        first
        | assumption | intro _ | apply keep_modSec
    | split
    | with_reducible first | apply keep_rec | rfl

theorem keep_execBypass {r₀ s : State} (kp : Keep r₀ s) (e : EdgeId) (tdi : Bool) :
    KeepRes r₀ (execBypass e tdi s) := by
  unfold execBypass
  try dsimp only
  repeat' first
    | with_reducible
        first
        | assumption | intro _ | apply KeepRes.of | apply keep_modSec | apply keep_emit
    | split
    | with_reducible first | apply keep_rec | rfl

theorem keep_execIdcode {r₀ s : State} (kp : Keep r₀ s) (e : EdgeId) :
    KeepRes r₀ (execIdcode e s) := by
  unfold execIdcode
  try dsimp only
  repeat' first
    | with_reducible
        first
        | assumption | intro _ | apply KeepRes.of | apply keep_release | apply keep_emit
    | split
    | with_reducible first | apply keep_rec | rfl

theorem keep_execSamplePreload {r₀ s : State} (kp : Keep r₀ s) (e : EdgeId) (pins : Nat) (preload : Option Nat) :
    KeepRes r₀ (execSamplePreload e pins preload s) := by
  unfold execSamplePreload
  try dsimp only
  repeat' first
    | with_reducible
        first
        | assumption | intro _ | apply KeepRes.of | apply keep_release | apply keep_emit | apply keep_modSec
    | split
    | with_reducible first | apply keep_rec | rfl

theorem keep_execExtest {r₀ s : State} (kp : Keep r₀ s) (e : EdgeId) :
    KeepRes r₀ (execExtest e s) := by
  unfold execExtest
  try dsimp only
  repeat' first
    | with_reducible
        first
        | assumption | intro _ | apply KeepRes.of | apply keep_ite | apply keepRes_ite | apply keep_emit
        | apply keep_modSec
    | split
    | with_reducible first | apply keep_rec | rfl

theorem keep_execTraceStart {r₀ s : State} (kp : Keep r₀ s) (who : Requester) (ctl : BitVec 32) :
    KeepRes r₀ (execTraceStart who ctl s) := by
  unfold execTraceStart
  try dsimp only
  repeat' first
    | with_reducible
        first
        | assumption | intro _ | apply KeepRes.of | apply keep_ite | apply keepRes_ite | apply keep_setReg
        | apply keep_countDebug
    | split
    | with_reducible first | apply keep_rec | rfl

end Sys2Proof.Machine
end

