-- ==== Sys2Proof/Laws/KeepSupply.lean ====
section
/-! SUPPORT. What every operation keeps (`Keep` of Laws/Keep.lean): the ports, bring-up, the tick, the supplies, the governor and the transport. -/

set_option linter.unusedTactic false
set_option linter.unreachableTactic false

namespace Sys2Proof.Machine

/-! ### Machine/Ports.lean -/

theorem keep_sendBare {r₀ s : State} (kp : Keep r₀ s) (p ftype : Nat) (nak : Bool) (body : Bytes) :
    Keep r₀ (sendBare s p ftype nak body) := by
  unfold sendBare
  try dsimp only
  repeat' first
    | with_reducible
        first
        | assumption | intro _ | apply keep_emit
    | split
    | with_reducible first | apply keep_rec | rfl

theorem keep_sendSeq {r₀ s : State} (kp : Keep r₀ s) (p ftype : Nat) (body : Bytes) (pkts : List Packet) :
    Keep r₀ (sendSeq s p ftype body pkts) := by
  unfold sendSeq
  try dsimp only
  repeat' first
    | with_reducible
        first
        | assumption | intro _ | apply keep_setPort | apply keep_emit
    | split
    | with_reducible first | apply keep_rec | rfl

theorem keep_sendGrants {r₀ s : State} (kp : Keep r₀ s) (p : Nat) :
    Keep r₀ (sendGrants s p) := by
  unfold sendGrants
  try dsimp only
  repeat' first
    | with_reducible
        first
        | assumption | intro _ | apply keep_ite | apply keep_setPort | apply keep_sendSeq
    | split
    | with_reducible first | apply keep_rec | rfl

theorem keep_freeEntry {r₀ s : State} (kp : Keep r₀ s) (p tcls : Nat) :
    Keep r₀ (freeEntry s p tcls) := by
  unfold freeEntry
  try dsimp only
  repeat' first
    | with_reducible
        first
        | assumption | intro _ | apply keep_ite | apply keep_modPort | apply keep_sendGrants
    | split
    | with_reducible first | apply keep_rec | rfl

theorem keep_fencePacket {r₀ s : State} (kp : Keep r₀ s) (port : Nat) (p : Packet) :
    Keep r₀ (fencePacket s port p) := by
  unfold fencePacket
  try dsimp only
  repeat' first
    | with_reducible
        first
        | assumption | intro _ | apply keep_ite | apply keep_fenceLocally | apply keep_lossFence
    | split
    | with_reducible first | apply keep_rec | rfl

theorem keep_loseLink {r₀ s : State} (kp : Keep r₀ s) (p : Nat) :
    Keep r₀ (loseLink s p) := by
  unfold loseLink
  try dsimp only
  repeat' first
    | with_reducible
        first
        | assumption | intro _ | apply keep_foldl | apply keep_setPort | apply keep_settleTimePort
        | apply keep_fencePacket | apply keep_bump
    | split
    | with_reducible first | apply keep_rec | rfl

theorem keep_sendNak {r₀ s : State} (kp : Keep r₀ s) (p : Nat) :
    Keep r₀ (sendNak s p) := by
  unfold sendNak
  try dsimp only
  repeat' first
    | with_reducible
        first
        | assumption | intro _ | apply keep_ite | apply keep_setPort | apply keep_bump | apply keep_sendBare
        | apply keep_loseLink
    | split
    | with_reducible first | apply keep_rec | rfl

theorem keep_resend {r₀ s : State} (kp : Keep r₀ s) (p : Nat) :
    Keep r₀ (resend s p) := by
  unfold resend
  try dsimp only
  repeat' first
    | with_reducible
        first
        | assumption | intro _ | apply keep_ite | apply keep_foldl | apply keep_emit | apply keep_bump
    | split
    | with_reducible first | apply keep_rec | rfl

theorem keep_takeAck {r₀ s : State} (kp : Keep r₀ s) (p : Nat) (f : Bytes) :
    Keep r₀ (takeAck s p f) := by
  unfold takeAck
  try dsimp only
  repeat' first
    | with_reducible
        first
        | assumption | intro _ | apply keep_ite | apply keep_modPort | apply keep_sendGrants | apply keep_resend
    | split
    | with_reducible first | apply keep_rec | rfl

theorem keep_countFec {r₀ s : State} (kp : Keep r₀ s) (p : Nat) (f : Flit) :
    Keep r₀ (countFec s p f) := by
  unfold countFec
  try dsimp only
  repeat' first
    | with_reducible
        first
        | assumption | intro _ | apply keep_bumpBy
    | split
    | with_reducible first | apply keep_rec | rfl

theorem keep_takeFlit {r₀ s : State} (kp : Keep r₀ s) (p ftype : Nat) (f : Flit) (g : State → State) (hg : ∀ t, Keep r₀ t → Keep r₀ (g t)) :
    KeepRes r₀ (takeFlit p ftype f g s) := by
  unfold takeFlit
  try dsimp only
  repeat' first
    | with_reducible
        first
        | assumption | intro _ | apply KeepRes.of | apply keep_ite | apply keepRes_ite | apply keep_countFec
        | apply keep_sendNak | apply keep_takeAck | apply hg
    | split
    | with_reducible first | apply keep_rec | rfl

theorem keep_takeSeq {r₀ s : State} (kp : Keep r₀ s) (p : Nat) (f : Bytes) (g : State → State) (hg : ∀ t, Keep r₀ t →
    Keep r₀ (g t)) :
    Keep r₀ (takeSeq p f g s) := by
  unfold takeSeq
  try dsimp only
  repeat' first
    | with_reducible
        first
        | assumption | intro _ | apply keep_ite | apply keep_setPort | apply keep_sendBare | apply keep_sendNak
        | apply hg
    | split
    | with_reducible first | apply keep_rec | rfl

theorem keep_arrivePacket {r₀ s : State} (kp : Keep r₀ s) (p : Nat) (bs : Bytes) :
    Keep r₀ (arrivePacket s p bs) := by
  unfold arrivePacket
  try dsimp only
  repeat' first
    | with_reducible
        first
        | assumption | intro _ | apply keep_ite | apply keep_modPort | apply keep_bump
    | split
    | with_reducible first | apply keep_rec | rfl

theorem keep_execFlitData {r₀ s : State} (kp : Keep r₀ s) (p : PortId) (flit : Flit) :
    KeepRes r₀ (execFlitData p flit s) := by
  unfold execFlitData
  try dsimp only
  repeat' first
    | with_reducible
        first
        | assumption | intro _ | apply KeepRes.of | apply keep_foldl | apply keep_takeFlit | apply keep_takeSeq
        | apply keep_arrivePacket | apply keep_modPort
    | split
    | with_reducible first | apply keep_rec | rfl

theorem keep_execFlitCredit {r₀ s : State} (kp : Keep r₀ s) (p : PortId) (flit : Flit) :
    KeepRes r₀ (execFlitCredit p flit s) := by
  unfold execFlitCredit
  try dsimp only
  repeat' first
    | with_reducible
        first
        | assumption | intro _ | apply KeepRes.of | apply keep_foldl | apply keep_takeFlit | apply keep_takeSeq
        | apply keep_modPort
    | split
    | with_reducible first | apply keep_rec | rfl

theorem keep_execFlitIdle {r₀ s : State} (kp : Keep r₀ s) (p : PortId) (flit : Flit) :
    KeepRes r₀ (execFlitIdle p flit s) := by
  exact keep_takeFlit kp _ _ _ _ fun t h => h

theorem keep_execFlitLpi {r₀ s : State} (kp : Keep r₀ s) (p : PortId) (flit : Flit) :
    KeepRes r₀ (execFlitLpi p flit s) := by
  exact keep_takeFlit kp _ _ _ _ fun t h => h

theorem keep_execHeartbeatSend {r₀ s : State} (kp : Keep r₀ s) (p : PortId) :
    KeepRes r₀ (execHeartbeatSend p s) := by
  unfold execHeartbeatSend
  try dsimp only
  repeat' first
    | with_reducible
        first
        | assumption | intro _ | apply KeepRes.of | apply keep_ite | apply keepRes_ite | apply keep_modPort
        | apply keep_advNs | apply keep_sendBare
    | split
    | with_reducible first | apply keep_rec | rfl

theorem keep_average {r₀ s : State} (kp : Keep r₀ s) (sum : Int) (n : Nat) :
    Keep r₀ (average s sum n).2 := by
  unfold average
  try dsimp only
  repeat' first
    | with_reducible
        first
        | assumption | intro _ | apply keep_ite | apply keep_drawChoice
    | split
    | with_reducible first | apply keep_rec | rfl

theorem keep_noteAverage {r₀ s : State} (kp : Keep r₀ s) :
    Keep r₀ (noteAverage s) := by
  unfold noteAverage
  try dsimp only
  repeat' first
    | with_reducible
        first
        | assumption | intro _ | apply keep_ite | apply keep_average | apply keep_setReg | apply keep_setMgrSlew
    | split
    | with_reducible first | apply keep_rec | rfl

theorem keep_noteExchange {r₀ s : State} (kp : Keep r₀ s) (p : Nat) (e : Int × Int) :
    Keep r₀ (noteExchange s p e) := by
  unfold noteExchange
  try dsimp only
  repeat' first
    | with_reducible
        first
        | assumption | intro _ | apply keep_ite | apply keep_noteAverage | apply keep_modMgr
    | split
    | with_reducible first | apply keep_rec | rfl

theorem keep_execFlitHeartbeat {r₀ s : State} (kp : Keep r₀ s) (p : PortId) (flit : Flit) :
    KeepRes r₀ (execFlitHeartbeat p flit s) := by
  unfold execFlitHeartbeat
  try dsimp only
  repeat' first
    | with_reducible
        first
        | assumption | intro _ | apply KeepRes.of | apply keep_ite | apply keepRes_ite | apply keep_countFec
        | apply keep_sendNak | apply keep_bump | apply keep_takeAck | apply keep_modPort | apply keep_setReg
        | apply keep_noteExchange
    | split
    | with_reducible first | apply keep_rec | rfl

theorem keep_execPortLost {r₀ s : State} (kp : Keep r₀ s) (p : PortId) :
    KeepRes r₀ (execPortLost p s) := by
  unfold execPortLost
  try dsimp only
  repeat' first
    | with_reducible
        first
        | assumption | intro _ | apply KeepRes.of | apply keep_ite | apply keepRes_ite | apply keep_advFab
        | apply keep_loseLink
    | split
    | with_reducible first | apply keep_rec | rfl

theorem keep_execPortTrainDone {r₀ s : State} (kp : Keep r₀ s) (p : PortId) (lanesGood : BitVec 8) :
    KeepRes r₀ (execPortTrainDone p lanesGood s) := by
  unfold execPortTrainDone
  try dsimp only
  repeat' first
    | with_reducible
        first
        | assumption | intro _ | apply KeepRes.of | apply keep_ite | apply keepRes_ite | apply keep_setPort
        | apply keep_sendGrants | apply keep_settleTimePort | apply keep_bump
    | split
    | with_reducible first | apply keep_rec | rfl

theorem keep_execPortTrainFail {r₀ s : State} (kp : Keep r₀ s) (p : PortId) :
    KeepRes r₀ (execPortTrainFail p s) := by
  unfold execPortTrainFail
  try dsimp only
  repeat' first
    | with_reducible
        first
        | assumption | intro _ | apply KeepRes.of | apply keep_ite | apply keepRes_ite | apply keep_setPort
        | apply keep_advFab
    | split
    | with_reducible first | apply keep_rec | rfl

theorem keep_startTraining {r₀ s : State} (kp : Keep r₀ s) (p : Nat) :
    Keep r₀ (startTraining s p) := by
  unfold startTraining
  try dsimp only
  repeat' first
    | with_reducible
        first
        | assumption | intro _ | apply keep_settleTimePort | apply keep_modPort
    | split
    | with_reducible first | apply keep_rec | rfl

/-! ### Machine/PowerUp.lean -/

theorem keep_execColdReset (s : State) : ∃ t, execColdReset s = .next t ∧ Keep s { t with fab := s.fab } := by
  exact ⟨_, rfl, ⟨rfl, fun _ => rfl, List.suffix_refl _, Nat.le_refl _, Nat.le_refl _, Nat.le_refl _, fun _ h => h⟩⟩

theorem keep_stopPanel {r₀ s : State} (kp : Keep r₀ s) :
    Keep r₀ (stopPanel s) := by
  exact ⟨kp.pending, fun _ => rfl, kp.out, kp.fab, kp.fuseA, kp.fuseB, kp.keys⟩

theorem keep_warmStart {r₀ s : State} (kp : Keep r₀ s) :
    Keep r₀ (warmStart s) := by
  unfold warmStart
  extract_lets t t2
  have h2 : Keep r₀ t2 := keep_modMgr (keep_bump (keep_stopPanel kp) _) _
  exact h2.same

theorem keep_execWarmRstN {r₀ s : State} (kp : Keep r₀ s) :
    KeepRes r₀ (execWarmRstN s) := by
  unfold execWarmRstN
  try dsimp only
  repeat' first
    | with_reducible
        first
        | assumption | intro _ | apply KeepRes.of | apply keep_ite | apply keepRes_ite | apply keep_warmStart
    | split
    | with_reducible first | apply keep_rec | rfl

theorem keep_execWarmResetStart {r₀ s : State} (kp : Keep r₀ s) :
    KeepRes r₀ (execWarmResetStart s) := by
  unfold execWarmResetStart
  try dsimp only
  repeat' first
    | with_reducible
        first
        | assumption | intro _ | apply KeepRes.of | apply keep_advFab | apply keep_warmStart
    | split
    | with_reducible first | apply keep_rec | rfl

theorem keep_bootField {r₀ s : State} (kp : Keep r₀ s) (hi lo v : Nat) :
    Keep r₀ (bootField s hi lo v) := by
  unfold bootField
  try dsimp only
  repeat' first
    | with_reducible
        first
        | assumption | intro _ | apply keep_ite
    | split
    | with_reducible first | apply keep_rec | rfl

theorem keep_failBringup {r₀ s : State} (kp : Keep r₀ s) (k : Nat) :
    Keep r₀ (failBringup s k) := by
  unfold failBringup
  try dsimp only
  repeat' first
    | with_reducible
        first
        | assumption | intro _
    | split
    | with_reducible first | apply keep_rec | rfl

theorem keep_enterStep {r₀ s : State} (kp : Keep r₀ s) (k : Nat) :
    Keep r₀ (enterStep s k) := by
  unfold enterStep
  try dsimp only
  repeat' first
    | with_reducible
        first
        | assumption | intro _ | apply keep_modMgr | apply keep_bootField
    | split
    | with_reducible first | apply keep_rec | rfl

theorem keep_modPower {r₀ s : State} (kp : Keep r₀ s) (f : Power → Power) :
    Keep r₀ (modPower s f) := by
  unfold modPower
  try dsimp only
  repeat' first
    | with_reducible
        first
        | assumption | intro _
    | split
    | with_reducible first | apply keep_rec | rfl

theorem keep_enableNext {r₀ s : State} (kp : Keep r₀ s) :
    Keep r₀ (enableNext s) := by
  unfold enableNext
  try dsimp only
  repeat' first
    | with_reducible
        first
        | assumption | intro _ | apply keep_modPower
    | split
    | with_reducible first | apply keep_rec | rfl

theorem keep_trainHostLink {r₀ s : State} (kp : Keep r₀ s) (q : Nat) :
    Keep r₀ (trainHostLink s q) := by
  unfold trainHostLink
  try dsimp only
  repeat' first
    | with_reducible
        first
        | assumption | intro _ | apply keep_drawChoice | apply keep_modQtr | apply keep_setReg
    | split
    | with_reducible first | apply keep_rec | rfl

theorem keep_endStep3 {r₀ s : State} (kp : Keep r₀ s) :
    Keep r₀ (endStep3 s) := by
  unfold endStep3
  try dsimp only
  repeat' first
    | with_reducible
        first
        | assumption | intro _ | apply keep_ite | apply keep_foldl | apply keep_modMgr
        | apply keep_trainHostLink | apply keep_setReg | apply keep_enterStep
    | split
    | with_reducible first | apply keep_rec | rfl

theorem keep_execDomainPowerGood {r₀ s : State} (kp : Keep r₀ s) (dom : DomainId) :
    KeepRes r₀ (execDomainPowerGood dom s) := by
  unfold execDomainPowerGood
  try dsimp only
  repeat' first
    | with_reducible
        first
        | assumption | intro _ | apply KeepRes.of | apply keep_ite | apply keepRes_ite | apply keep_modPower
        | apply keep_enableNext | apply keep_endStep3
    | split
    | with_reducible first | apply keep_rec | rfl

theorem keep_shutDown {r₀ s : State} (kp : Keep r₀ s) (dom cause status : Nat) :
    Keep r₀ (shutDown s dom cause status) := by
  unfold shutDown
  try dsimp only
  repeat' first
    | with_reducible
        first
        | assumption | intro _ | apply keep_ite | apply keep_stopPanel | apply keep_setReg
    | split
    | with_reducible first | apply keep_rec | rfl

theorem keep_execSoftstartTimeout {r₀ s : State} (kp : Keep r₀ s) (dom : DomainId) (regulatorFault : Bool) (status :
    BitVec 16) :
    KeepRes r₀ (execSoftstartTimeout dom regulatorFault status s) := by
  unfold execSoftstartTimeout
  try dsimp only
  repeat' first
    | with_reducible
        first
        | assumption | intro _ | apply KeepRes.of | apply keep_ite | apply keepRes_ite | apply keep_advFab
        | apply keep_failBringup | apply keep_shutDown
    | split
    | with_reducible first | apply keep_rec | rfl

theorem keep_execDomainFault {r₀ s : State} (kp : Keep r₀ s) (dom : DomainId) (cause : Fin 16) (status : BitVec 16)
    (hd : dom.val ≠ 6) : KeepRes r₀ (execDomainFault dom cause status s) := by
  unfold execDomainFault
  rw [if_neg hd]
  split
  · exact .of (keep_shutDown kp ..)
  · exact .of kp

theorem keep_execRef25Loss {r₀ s : State} (kp : Keep r₀ s) :
    KeepRes r₀ (execRef25Loss s) := by
  unfold execRef25Loss
  try dsimp only
  repeat' first
    | with_reducible
        first
        | assumption | intro _ | apply KeepRes.of | apply keep_ite | apply keepRes_ite | apply keep_advFab
        | apply keep_shutDown
    | split
    | with_reducible first | apply keep_rec | rfl

/-! ### Machine/BringUp.lean -/

theorem keep_loadPanel {r₀ s : State} (kp : Keep r₀ s) :
    Keep r₀ (loadPanel s) := by
  unfold loadPanel
  try dsimp only
  repeat' first
    | with_reducible
        first
        | assumption | intro _ | apply keep_setReg
    | split
    | with_reducible first | apply keep_rec | rfl

theorem keep_endStep2 {r₀ s : State} (kp : Keep r₀ s) :
    Keep r₀ (endStep2 s) := by
  unfold endStep2
  try dsimp only
  repeat' first
    | with_reducible
        first
        | assumption | intro _ | apply keep_ite | apply keep_modMgr | apply keep_bumpBy | apply keep_bootField
        | apply keep_failBringup | apply keep_enterStep | apply keep_enableNext | apply keep_loadPanel
    | split
    | with_reducible first | apply keep_rec | rfl

theorem keep_endBoot {r₀ s : State} (kp : Keep r₀ s) (okA okB : Option (Bool × Bool)) :
    Keep r₀ (endBoot s okA okB) := by
  unfold endBoot
  extract_lets boot
  have hb : ∀ i ok, (boot i ok).count = i.count := by
    intro i ok
    show (match ok with | some k => romBoot s i k | none => i).count = i.count
    split
    · unfold romBoot runBank markFailed
      extract_lets pick good
      repeat' split
      all_goals rfl
    · rfl
  exact keep_endStep2 (kp.same (ha := hb ..) (hb := hb ..))

theorem keep_startKeepers {r₀ s : State} (kp : Keep r₀ s) :
    Keep r₀ (startKeepers s) := by
  unfold startKeepers
  try dsimp only
  repeat' first
    | with_reducible
        first
        | assumption | intro _ | apply keep_advFab | apply keep_enterStep | apply keep_modMgr
    | split
    | with_reducible first | apply keep_rec | rfl

theorem keep_readFuses {r₀ s : State} (kp : Keep r₀ s) (r : FuseReport) :
    Keep r₀ (readFuses s r) := by
  unfold readFuses
  try dsimp only
  repeat' first
    | with_reducible
        first
        | assumption | intro _ | apply keep_ite | apply keep_modKeeper | apply keep_modDie | apply keep_modMr
        | apply keep_modEdge
    | split
    | with_reducible first | apply keep_rec | rfl

theorem keep_addWrong {r₀ s : State} (kp : Keep r₀ s) (l : List Nat) :
    Keep r₀ (addWrong s l) := by
  unfold addWrong
  try dsimp only
  repeat' first
    | with_reducible
        first
        | assumption | intro _ | apply keep_foldl | apply keep_modMgr
    | split
    | with_reducible first | apply keep_rec | rfl

theorem keep_endLinks {r₀ s : State} (kp : Keep r₀ s) (reports : List LinkReport) :
    Keep r₀ (endLinks s reports) := by
  unfold endLinks
  try dsimp only
  repeat' first
    | with_reducible
        first
        | assumption | intro _ | apply keep_foldl | apply keep_countLink | apply keep_changeLink
    | split
    | with_reducible first | apply keep_rec | rfl

theorem keep_sendVouches {r₀ s : State} (kp : Keep r₀ s) :
    Keep r₀ (sendVouches s) := by
  unfold sendVouches
  try dsimp only
  repeat' first
    | with_reducible
        first
        | assumption | intro _ | apply keep_foldl | apply keep_fromRegAgent
    | split
    | with_reducible first | apply keep_rec | rfl

theorem keep_execTest {r₀ s : State} (kp : Keep r₀ s) (site nb : RouterId) (hcrcOk checkOk patternOk sigOk digestOk :
    Bool) :
    KeepRes r₀ (execTest site nb hcrcOk checkOk patternOk sigOk digestOk s) := by
  unfold execTest
  try dsimp only
  repeat' first
    | with_reducible
        first
        | assumption | intro _ | apply KeepRes.of | apply keep_ite | apply keepRes_ite | apply keep_modMgr
        | apply keep_addWrong
    | split
    | with_reducible first | apply keep_rec | rfl

theorem keep_execVouch {r₀ s : State} (kp : Keep r₀ s) :
    KeepRes r₀ (execVouch s) := by
  unfold execVouch
  try dsimp only
  repeat' first
    | with_reducible
        first
        | assumption | intro _ | apply KeepRes.of | apply keep_ite | apply keepRes_ite | apply keep_modMgr
        | apply keep_serveMgr
    | split
    | with_reducible first | apply keep_rec | rfl

theorem keep_removeDie {r₀ s : State} (kp : Keep r₀ s) (site : Nat) :
    Keep r₀ (removeDie s site) := by
  unfold removeDie
  try dsimp only
  repeat' first
    | with_reducible
        first
        | assumption | intro _ | apply keep_ite | apply keep_modMr | apply keep_modDie | apply keep_modEdge
        | apply keep_stopRouter
    | split
    | with_reducible first | apply keep_rec | rfl

theorem keep_settleManagers {r₀ s : State} (kp : Keep r₀ s) :
    Keep r₀ (settleManagers s) := by
  unfold settleManagers
  extract_lets out t up t2
  have ho : ∀ t b, Keep r₀ t → Keep r₀ (out t b) := by
    intro t b ht
    show Keep r₀ (if _ then _ else _)
    split
    · exact keep_setInst ht _ _ (Nat.le_refl _)
    · exact ht
  have ht : Keep r₀ t := ho _ _ (ho _ _ kp)
  split
  · exact keep_ite ht (keep_modMgr ht _)
  · exact keep_foldl _ (fun s a h => keep_openRegion h ..) _ _ (keep_modMgr (keep_failBringup ht _) _)

theorem keep_sendEcho {r₀ s : State} (kp : Keep r₀ s) (i : Nat) :
    Keep r₀ (sendEcho s i) := by
  unfold sendEcho
  try dsimp only
  repeat' first
    | with_reducible
        first
        | assumption | intro _ | apply keep_fromMgr
    | split
    | with_reducible first | apply keep_rec | rfl

theorem keep_endVote {r₀ s : State} (kp : Keep r₀ s) :
    Keep r₀ (endVote s) := by
  unfold endVote
  try dsimp only
  repeat' first
    | with_reducible
        first
        | assumption | intro _ | apply keep_ite | apply keep_foldl | apply keep_removeDie
        | apply keep_settleManagers | apply keep_modMgr | apply keep_sendEcho
    | split
    | with_reducible first | apply keep_rec | rfl

theorem keep_execDelayEcho {r₀ s : State} (kp : Keep r₀ s) (site : RouterId) :
    KeepRes r₀ (execDelayEcho site s) := by
  unfold execDelayEcho
  try dsimp only
  repeat' first
    | with_reducible
        first
        | assumption | intro _ | apply KeepRes.of | apply keep_ite | apply keepRes_ite | apply keep_serve
        | apply keep_sendEcho | apply keep_modKeeper | apply keep_fromRegAgent | apply keep_seeEpoch
    | split
    | with_reducible first | apply keep_rec | rfl

theorem keep_beginTraining {r₀ s : State} (kp : Keep r₀ s) :
    Keep r₀ (beginTraining s) := by
  unfold beginTraining
  try dsimp only
  repeat' first
    | with_reducible
        first
        | assumption | intro _ | apply keep_ite | apply keep_foldl | apply keep_enterStep | apply keep_modMr
    | split
    | with_reducible first | apply keep_rec | rfl

theorem keep_endPhase {r₀ s : State} (kp : Keep r₀ s) (links : List LinkReport) (wrong : List Nat) :
    Keep r₀ (endPhase s links wrong) := by
  unfold endPhase
  try dsimp only
  repeat' first
    | with_reducible
        first
        | assumption | intro _ | apply keep_ite | apply keep_endLinks | apply keep_advFab | apply keep_modMgr
        | apply keep_addWrong | apply keep_sendVouches | apply keep_endVote | apply keep_beginTraining
    | split
    | with_reducible first | apply keep_rec | rfl

theorem keep_hardRepair {r₀ s : State} (kp : Keep r₀ s) (n so : Nat) :
    Keep r₀ (hardRepair s n so) := by
  unfold hardRepair
  try dsimp only
  repeat' first
    | with_reducible
        first
        | assumption | intro _ | apply keep_ite | apply keep_modSec | apply keep_setMr | apply keep_bump
    | split
    | with_reducible first | apply keep_rec | rfl

theorem keep_trainStack {r₀ s : State} (kp : Keep r₀ s) (failTrain failRepair : List Nat) (repairs : List (Nat × Nat))
    (n : Nat) :
    Keep r₀ (trainStack s failTrain failRepair repairs n) := by
  unfold trainStack
  try dsimp only
  repeat' first
    | with_reducible
        first
        | assumption | intro _ | apply keep_ite | apply keep_foldl | apply keep_modSec | apply keep_modMr
        | apply keep_bumpBy | apply keep_hardRepair
    | split
    | with_reducible first | apply keep_rec | rfl

theorem keep_endStacks {r₀ s : State} (kp : Keep r₀ s) (failTrain failRepair : List Nat) (repairs : List (Nat × Nat)) :
    Keep r₀ (endStacks s failTrain failRepair repairs) := by
  unfold endStacks
  exact keep_sendDigests (keep_buildWells (keep_enterStep (keep_noMem (keep_foldl _ (fun s a h => keep_trainStack h ..) _ _ kp)) 8))

theorem keep_mapField {r₀ s : State} (kp : Keep r₀ s) (f : Nat) :
    Keep r₀ (mapField s f) := by
  unfold mapField
  try dsimp only
  repeat' first
    | with_reducible
        first
        | assumption | intro _ | apply keep_ite | apply keep_setFld | apply keep_modDie
    | split
    | with_reducible first | apply keep_rec | rfl

theorem keep_endStep9 {r₀ s : State} (kp : Keep r₀ s) :
    Keep r₀ (endStep9 s) := by
  unfold endStep9
  try dsimp only
  repeat' first
    | with_reducible
        first
        | assumption | intro _ | apply keep_ite | apply keep_foldl | apply keep_modQtr | apply keep_modMgr
        | apply keep_setReg | apply keep_stateEvent | apply keep_requestLock | apply keep_sendDmap
        | apply keep_startTraining | apply keep_enterStep | apply keep_modPower | apply keep_mapField
    | split
    | with_reducible first | apply keep_rec | rfl

theorem keep_execBringupStepEnd {r₀ s : State} (kp : Keep r₀ s) (r : StepReport) :
    KeepRes r₀ (execBringupStepEnd r s) := by
  unfold execBringupStepEnd
  try dsimp only
  repeat' first
    | with_reducible
        first
        | assumption | intro _ | apply KeepRes.of | apply keep_ite | apply keepRes_ite | apply keep_foldl
        | apply keep_when | apply keep_enterStep | apply keep_endStep3 | apply keep_endBoot | apply keep_startKeepers
        | apply keep_readFuses | apply keep_addWrong | apply keep_endPhase | apply keep_endStacks
        | apply keep_endStep9
    | split
    | with_reducible first | apply keep_rec | rfl

theorem keep_failFirmware {r₀ s : State} (kp : Keep r₀ s) (d : Nat) :
    Keep r₀ (failFirmware s d) := by
  unfold failFirmware
  try dsimp only
  repeat' first
    | with_reducible
        first
        | assumption | intro _ | apply keep_ite | apply keep_foldl | apply keep_setBoot | apply keep_modDie
    | split
    | with_reducible first | apply keep_rec | rfl

theorem keep_endNeighbours {r₀ s : State} (kp : Keep r₀ s) (l : List Nat) :
    Keep r₀ (endNeighbours s l) := by
  unfold endNeighbours
  try dsimp only
  repeat' first
    | with_reducible
        first
        | assumption | intro _ | apply keep_ite | apply keep_foldl | apply keep_endVote
        | apply keep_settleManagers | apply keep_removeDie | apply keep_beginTraining
    | split
    | with_reducible first | apply keep_rec | rfl

theorem keep_endUnfinished {r₀ s : State} (kp : Keep r₀ s) (l : List Nat) :
    Keep r₀ (endUnfinished s l) := by
  unfold endUnfinished
  try dsimp only
  repeat' first
    | with_reducible
        first
        | assumption | intro _ | apply keep_ite | apply keep_foldl | apply keep_startKeepers
        | apply keep_removeDie | apply keep_endBoot | apply keep_enterStep | apply keep_modDie
        | apply keep_addWrong | apply keep_endNeighbours | apply keep_endStacks | apply keep_failFirmware
        | apply keep_endStep9
    | split
    | with_reducible first | apply keep_rec | rfl

theorem keep_execBringupStepTimeout {r₀ s : State} (kp : Keep r₀ s) (unfinished : List RouterId) :
    KeepRes r₀ (execBringupStepTimeout unfinished s) := by
  unfold execBringupStepTimeout
  try dsimp only
  repeat' first
    | with_reducible
        first
        | assumption | intro _ | apply KeepRes.of | apply keep_ite | apply keepRes_ite | apply keep_advFab
        | apply keep_endUnfinished
    | split
    | with_reducible first | apply keep_rec | rfl

/-! ### Machine/Tick.lean -/

theorem keep_reportSlack {r₀ s : State} (kp : Keep r₀ s) (c frac : Nat) (overran : Bool) :
    Keep r₀ (reportSlack s c frac overran) := by
  unfold reportSlack
  try dsimp only
  repeat' first
    | with_reducible
        first
        | assumption | intro _ | apply keep_sendCtrl
    | split
    | with_reducible first | apply keep_rec | rfl

theorem keep_recordFrame {r₀ s : State} (kp : Keep r₀ s) (c t period : Nat) (overran : Bool) :
    Keep r₀ (recordFrame s c t period overran) := by
  unfold recordFrame
  try dsimp only
  repeat' first
    | with_reducible
        first
        | assumption | intro _ | apply keep_ite | apply keep_setReg | apply keep_setField | apply keep_reportSlack
    | split
    | with_reducible first | apply keep_rec | rfl

theorem keep_clusterEdge {r₀ s : State} (kp : Keep r₀ s) (c t period : Nat) :
    Keep r₀ (clusterEdge s c t period).2 := by
  unfold clusterEdge
  try dsimp only
  repeat' first
    | with_reducible
        first
        | assumption | intro _ | apply keep_ite | apply keep_modCl | apply keep_bump | apply keep_checkEnd
        | apply keep_cancelAll | apply keep_recordFrame
    | split
    | with_reducible first | apply keep_rec | rfl

theorem keep_edgeStep1 {r₀ s : State} (kp : Keep r₀ s) (q t : Nat) :
    Keep r₀ (edgeStep1 s q t).2 := by
  unfold edgeStep1
  extract_lets p
  have hc : ∀ (l : List Nat) (a : List Nat × State), Keep r₀ a.2 → Keep r₀ (l.foldl (fun (acc : List Nat × State) c =>
      match clusterEdge acc.2 c t p.period with
      | (skip, s) => (if skip then c :: acc.1 else acc.1, s)) a).2 := by
    intro l
    induction l with
    | nil => intro a h; exact h
    | cons c l ih => intro a h; exact ih _ (keep_clusterEdge h ..)
  exact keep_pair _ (keep_failRuns (keep_foldl _ (fun s a h => keep_ageMessages h ..) _ _ (hc _ _ kp)) _)

theorem keep_beginFrame {r₀ s : State} (kp : Keep r₀ s) (c i t : Nat) (e : SchedEntry) :
    Keep r₀ (beginFrame s c i t e) := by
  unfold beginFrame
  try dsimp only
  repeat' first
    | with_reducible
        first
        | assumption | intro _ | apply keep_foldl | apply keep_setCl | apply keep_modUn | apply keep_setField
    | split
    | with_reducible first | apply keep_rec | rfl

theorem keep_edgeStep5 {r₀ s : State} (kp : Keep r₀ s) (q t : Nat) (skip : List Nat) (wasDay : Bool) :
    Keep r₀ (edgeStep5 s q t skip wasDay) := by
  unfold edgeStep5
  try dsimp only
  repeat' first
    | with_reducible
        first
        | assumption | intro _ | apply keep_ite | apply keep_foldl | apply keep_flushQueues | apply keep_bump
        | apply keep_modPart | apply keep_beginFrame | apply keep_modCl
    | split
    | with_reducible first | apply keep_rec | rfl

theorem keep_endJoin {r₀ s : State} (kp : Keep r₀ s) (q t : Nat) :
    Keep r₀ (endJoin s q t) := by
  unfold endJoin
  try dsimp only
  repeat' first
    | with_reducible
        first
        | assumption | intro _ | apply keep_modPart
    | split
    | with_reducible first | apply keep_rec | rfl

theorem keep_endLoad {r₀ s : State} (kp : Keep r₀ s) (q t : Nat) :
    Keep r₀ (endLoad s q t) := by
  unfold endLoad
  try dsimp only
  repeat' first
    | with_reducible
        first
        | assumption | intro _ | apply keep_ite | apply keep_modPart | apply keep_endSs | apply keep_haltSoon
    | split
    | with_reducible first | apply keep_rec | rfl

theorem keep_clearTrips {r₀ s : State} (kp : Keep r₀ s) (m : Nat) :
    Keep r₀ (clearTrips s m) := by
  unfold clearTrips
  try dsimp only
  repeat' first
    | with_reducible
        first
        | assumption | intro _ | apply keep_foldl | apply keep_untripDie
    | split
    | with_reducible first | apply keep_rec | rfl

theorem keep_runEdge {r₀ s : State} (kp : Keep r₀ s) (q t : Nat) :
    Keep r₀ (runEdge s q t) := by
  unfold runEdge
  extract_lets t0
  have h0 : Keep r₀ t0 := keep_modPart kp ..
  have h1 := keep_edgeStep1 h0 q t
  split
  rename_i skip t1 e
  rw [e] at h1
  extract_lets t2 p t3 t4 wasDay t5
  have h2 : Keep r₀ t2 := keep_applyDue (keep_endLoad (keep_endJoin h1 ..) ..) ..
  have h3 : Keep r₀ t3 := keep_sparesAtEdge h2 ..
  have h4 : Keep r₀ t4 := by
    unfold t4
    split
    · exact keep_ite (keep_changeQuarters h3 _) h3
    · exact h3
  have h5 : Keep r₀ t5 := keep_holdAtEdge (keep_haltAtEdge (keep_powerAtEdge h4 ..) _) _
  exact keep_refreshSusp (keep_clearTrips (keep_edgeStep5 h5 ..) _)

theorem keep_execTickEdge {r₀ s : State} (kp : Keep r₀ s) (q : QuarterId) :
    KeepRes r₀ (execTickEdge q s) := by
  unfold execTickEdge
  try dsimp only
  repeat' first
    | with_reducible
        first
        | assumption | intro _ | apply KeepRes.of | apply keep_advNs | apply keep_runEdge
    | split
    | with_reducible first | apply keep_rec | rfl

theorem keep_raiseForTick {r₀ s : State} (kp : Keep r₀ s) (pmin : Nat) :
    Keep r₀ (raiseForTick s pmin) := by
  unfold raiseForTick
  try dsimp only
  repeat' first
    | with_reducible
        first
        | assumption | intro _ | apply keep_ite | apply keep_requestLock
    | split
    | with_reducible first | apply keep_rec | rfl

theorem keep_restartTick {r₀ s : State} (kp : Keep r₀ s) (q : Nat) (p : Partition) (from_ : Nat) :
    Keep r₀ (restartTick s q p from_) := by
  unfold restartTick
  try dsimp only
  repeat' first
    | with_reducible
        first
        | assumption | intro _ | apply keep_ite | apply keep_raiseForTick | apply keep_modPart
        | apply keep_advNs | apply keep_runEdge
    | split
    | with_reducible first | apply keep_rec | rfl

theorem keep_execTickStart {r₀ s : State} (kp : Keep r₀ s) (q : QuarterId) :
    KeepRes r₀ (execTickStart q s) := by
  unfold execTickStart
  try dsimp only
  repeat' first
    | with_reducible
        first
        | assumption | intro _ | apply KeepRes.of | apply keep_ite | apply keepRes_ite | apply keep_advNs
        | apply keep_applyStream | apply keep_runEdge | apply keep_restartTick
    | split
    | with_reducible first | apply keep_rec | rfl

/-! ### Machine/DayService.lean -/

theorem keep_chooseDay {r₀ s : State} (kp : Keep r₀ s) :
    Keep r₀ (chooseDay s) := by
  unfold chooseDay
  try dsimp only
  repeat' first
    | with_reducible
        first
        | assumption | intro _ | apply keep_ite | apply keep_modMgr
    | split
    | with_reducible first | apply keep_rec | rfl

theorem keep_noteDayFail {r₀ s : State} (kp : Keep r₀ s) (site : Nat) :
    Keep r₀ (noteDayFail s site) := by
  unfold noteDayFail
  try dsimp only
  repeat' first
    | with_reducible
        first
        | assumption | intro _ | apply keep_modMr | apply keep_modDie | apply keep_newGeneration
    | split
    | with_reducible first | apply keep_rec | rfl

theorem keep_execDayChecksDone {r₀ s : State} (kp : Keep r₀ s) (site : RouterId) (failed : Bool) :
    KeepRes r₀ (execDayChecksDone site failed s) := by
  unfold execDayChecksDone
  try dsimp only
  repeat' first
    | with_reducible
        first
        | assumption | intro _ | apply KeepRes.of | apply keep_ite | apply keepRes_ite | apply keep_advFab
        | apply keep_modMgr | apply keep_chooseDay | apply keep_noteDayFail
    | split
    | with_reducible first | apply keep_rec | rfl

theorem keep_execPmSvcCtl {r₀ s : State} (kp : Keep r₀ s) (who : Requester) (hold : Bool) :
    KeepRes r₀ (execPmSvcCtl who hold s) := by
  unfold execPmSvcCtl
  try dsimp only
  repeat' first
    | with_reducible
        first
        | assumption | intro _ | apply KeepRes.of | apply keep_setReg | apply keep_when | apply keep_chooseDay
    | split
    | with_reducible first | apply keep_rec | rfl

theorem keep_dayEdge {r₀ s : State} (kp : Keep r₀ s) (t : Nat) (p : Partition) :
    Keep r₀ (dayEdge s t p) := by
  unfold dayEdge
  try dsimp only
  repeat' first
    | with_reducible
        first
        | assumption | intro _ | apply keep_ite | apply keep_modPart | apply keep_edgeStep1
    | split
    | with_reducible first | apply keep_rec | rfl

theorem keep_dayReset {r₀ s : State} (kp : Keep r₀ s) (p : Partition) :
    Keep r₀ (dayReset s p) := by
  unfold dayReset
  try dsimp only
  repeat' first
    | with_reducible
        first
        | assumption | intro _ | apply keep_startEclipse
    | split
    | with_reducible first | apply keep_rec | rfl

theorem keep_dayClear {r₀ s : State} (kp : Keep r₀ s) :
    Keep r₀ (dayClear s) := by
  unfold dayClear
  try dsimp only
  repeat' first
    | with_reducible
        first
        | assumption | intro _ | apply keep_foldl | apply keep_startClear
    | split
    | with_reducible first | apply keep_rec | rfl

theorem keep_dayReplace {r₀ s : State} (kp : Keep r₀ s) (d : Nat) :
    Keep r₀ (dayReplace s d) := by
  unfold dayReplace
  try dsimp only
  repeat' first
    | with_reducible
        first
        | assumption | intro _ | apply keep_ite | apply keep_modDie | apply keep_loseSpare | apply keep_setFld
        | apply keep_spareEvent | apply keep_installDie | apply keep_bump
    | split
    | with_reducible first | apply keep_rec | rfl

theorem keep_dayStack {r₀ s : State} (kp : Keep r₀ s) (n : Nat) :
    Keep r₀ (dayStack s n) := by
  unfold dayStack
  try dsimp only
  repeat' first
    | with_reducible
        first
        | assumption | intro _ | apply keep_ite | apply keep_modMr
    | split
    | with_reducible first | apply keep_rec | rfl

theorem keep_dayService {r₀ s : State} (kp : Keep r₀ s) (q : Nat) :
    Keep r₀ (dayService s q) := by
  unfold dayService
  try dsimp only
  repeat' first
    | with_reducible
        first
        | assumption | intro _ | apply keep_ite | apply keep_foldl | apply keep_setFld | apply keep_modQtr
        | apply keep_haltSoon
    | split
    | with_reducible first | apply keep_rec | rfl

theorem keep_execDayChange {r₀ s : State} (kp : Keep r₀ s) :
    KeepRes r₀ (execDayChange s) := by
  unfold execDayChange
  try dsimp only
  repeat' first
    | with_reducible
        first
        | assumption | intro _ | apply KeepRes.of | apply keep_foldl | apply keep_modMgr | apply keep_advMgr
        | apply keep_newGeneration | apply keep_dayEdge | apply keep_dayReset | apply keep_dayClear
        | apply keep_dayReplace | apply keep_dayStack | apply keep_dayService
    | split
    | with_reducible first | apply keep_rec | rfl

/-! ### Machine/Supply.lean -/

theorem keep_retimeAll {r₀ s : State} (kp : Keep r₀ s) :
    Keep r₀ (retimeAll s) := by
  unfold retimeAll
  try dsimp only
  repeat' first
    | with_reducible
        first
        | assumption | intro _ | apply keep_foldl | apply keep_retime
    | split
    | with_reducible first | apply keep_rec | rfl

theorem keep_execFdaAssert {r₀ s : State} (kp : Keep r₀ s) (g : Fin 16) :
    KeepRes r₀ (execFdaAssert g s) := by
  unfold execFdaAssert
  try dsimp only
  repeat' first
    | with_reducible
        first
        | assumption | intro _ | apply KeepRes.of | apply keep_ite | apply keepRes_ite | apply keep_bump
        | apply keep_modPower | apply keep_retimeAll
    | split
    | with_reducible first | apply keep_rec | rfl

theorem keep_execFdaDeassert {r₀ s : State} (kp : Keep r₀ s) (g : Fin 16) :
    KeepRes r₀ (execFdaDeassert g s) := by
  unfold execFdaDeassert
  try dsimp only
  repeat' first
    | with_reducible
        first
        | assumption | intro _ | apply KeepRes.of | apply keep_ite | apply keepRes_ite | apply keep_foldl
        | apply keep_bumpBy | apply keep_retimeAt | apply keep_modPower
    | split
    | with_reducible first | apply keep_rec | rfl

theorem keep_execFdaLong {r₀ s : State} (kp : Keep r₀ s) :
    KeepRes r₀ (execFdaLong s) := by
  unfold execFdaLong
  try dsimp only
  repeat' first
    | with_reducible
        first
        | assumption | intro _ | apply KeepRes.of | apply keep_ite | apply keepRes_ite | apply keep_bump
        | apply keep_advFab | apply keep_modPower
    | split
    | with_reducible first | apply keep_rec | rfl

theorem keep_takeReading {r₀ s : State} (kp : Keep r₀ s) (readings : List Reading) (dev : Nat) :
    Keep r₀ (takeReading s readings dev) := by
  unfold takeReading
  try dsimp only
  repeat' first
    | with_reducible
        first
        | assumption | intro _ | apply keep_bump | apply keep_modPower
    | split
    | with_reducible first | apply keep_rec | rfl

theorem keep_calibrateAll {r₀ s : State} (kp : Keep r₀ s) :
    Keep r₀ (calibrateAll s) := by
  unfold calibrateAll
  try dsimp only
  repeat' first
    | with_reducible
        first
        | assumption | intro _ | apply keep_foldl | apply keep_modMr | apply keep_modDie | apply keep_modEdge
    | split
    | with_reducible first | apply keep_rec | rfl

theorem keep_divideEnergy {r₀ s : State} (kp : Keep r₀ s) :
    Keep r₀ (divideEnergy s) := by
  unfold divideEnergy
  try dsimp only
  repeat' first
    | with_reducible
        first
        | assumption | intro _ | apply keep_foldl | apply keep_setReg
    | split
    | with_reducible first | apply keep_rec | rfl

theorem keep_notePanel {r₀ s : State} (kp : Keep r₀ s) (t : Nat) :
    Keep r₀ (notePanel s t) := by
  unfold notePanel
  try dsimp only
  repeat' first
    | with_reducible
        first
        | assumption | intro _ | apply keep_ite | apply keep_modMgr | apply keep_setField
    | split
    | with_reducible first | apply keep_rec | rfl

theorem keep_execTelemetryRead {r₀ s : State} (kp : Keep r₀ s) (readings : List Reading) :
    KeepRes r₀ (execTelemetryRead readings s) := by
  unfold execTelemetryRead
  try dsimp only
  repeat' first
    | with_reducible
        first
        | assumption | intro _ | apply KeepRes.of | apply keep_ite | apply keepRes_ite | apply keep_foldl
        | apply keep_modMgr | apply keep_setReg | apply keep_advMgr | apply keep_modPower | apply keep_takeReading
        | apply keep_calibrateAll | apply keep_divideEnergy | apply keep_notePanel
    | split
    | with_reducible first | apply keep_rec | rfl

theorem keep_execDieEnergyLatch {r₀ s : State} (kp : Keep r₀ s) (d : DieId) (microJ : Nat) :
    KeepRes r₀ (execDieEnergyLatch d microJ s) := by
  unfold execDieEnergyLatch
  try dsimp only
  repeat' first
    | with_reducible
        first
        | assumption | intro _ | apply KeepRes.of | apply keep_ite | apply keepRes_ite | apply keep_modDie
        | apply keep_setReg
    | split
    | with_reducible first | apply keep_rec | rfl

theorem keep_noteTemp {r₀ s : State} (kp : Keep r₀ s) (a c : Nat) :
    Keep r₀ (noteTemp s a c) := by
  unfold noteTemp
  try dsimp only
  repeat' first
    | with_reducible
        first
        | assumption | intro _ | apply keep_setField
    | split
    | with_reducible first | apply keep_rec | rfl

theorem keep_execDieTempSample {r₀ s : State} (kp : Keep r₀ s) (d : DieId) (celsius : Fin 256) :
    KeepRes r₀ (execDieTempSample d celsius s) := by
  unfold execDieTempSample
  try dsimp only
  repeat' first
    | with_reducible
        first
        | assumption | intro _ | apply KeepRes.of | apply keep_ite | apply keepRes_ite | apply keep_modDie
        | apply keep_setField | apply keep_bump | apply keep_retime | apply keep_untripDie | apply keep_noteTemp
    | split
    | with_reducible first | apply keep_rec | rfl

theorem keep_execMrTempSample {r₀ s : State} (kp : Keep r₀ s) (st : StackId) (celsius : Fin 256) :
    KeepRes r₀ (execMrTempSample st celsius s) := by
  unfold execMrTempSample
  try dsimp only
  repeat' first
    | with_reducible
        first
        | assumption | intro _ | apply KeepRes.of | apply keep_ite | apply keepRes_ite | apply keep_modMr
        | apply keep_setField | apply keep_bump | apply keep_noteTemp
    | split
    | with_reducible first | apply keep_rec | rfl

theorem keep_withdrawEdge {r₀ s : State} (kp : Keep r₀ s) (e : Nat) :
    Keep r₀ (withdrawEdge s e) := by
  unfold withdrawEdge
  extract_lets t1 t2 t3 t4 lose
  have h1 : Keep r₀ t1 := keep_modEdge kp ..
  have h2 : Keep r₀ t2 := keep_foldl _ (fun s a h => keep_ite (keep_loseLink h _) h) _ _ h1
  have h3 : Keep r₀ t3 := keep_stopRouter h2 _
  have h4 : Keep r₀ t4 := keep_foldl _ (fun s a h => keep_ite (keep_modQtr h ..) h) _ _ h3
  have hl : ∀ t b, Keep r₀ t → Keep r₀ (lose t b) := by
    intro t b ht
    have hu : Keep r₀ (t.setInst b { t.inst b with down := true }) := keep_setInst ht _ _ (Nat.le_refl _)
    exact keep_ite (keep_ite (keep_modMgr hu _) hu) ht
  exact keep_newGeneration (hl _ _ (hl _ _ h4))

theorem keep_execEdgeTempSample {r₀ s : State} (kp : Keep r₀ s) (e : EdgeId) (celsius : Fin 256) :
    KeepRes r₀ (execEdgeTempSample e celsius s) := by
  unfold execEdgeTempSample
  try dsimp only
  repeat' first
    | with_reducible
        first
        | assumption | intro _ | apply KeepRes.of | apply keep_ite | apply keepRes_ite | apply keep_modEdge
        | apply keep_withdrawEdge
    | split
    | with_reducible first | apply keep_rec | rfl

theorem keep_execCoolantRead {r₀ s : State} (kp : Keep r₀ s) (inlet outlet : Option (BitVec 16)) :
    KeepRes r₀ (execCoolantRead inlet outlet s) := by
  unfold execCoolantRead
  try dsimp only
  repeat' first
    | with_reducible
        first
        | assumption | intro _ | apply KeepRes.of | apply keep_ite | apply keepRes_ite | apply keep_modPower
        | apply keep_setField
    | split
    | with_reducible first | apply keep_rec | rfl

theorem keep_execInletLost {r₀ s : State} (kp : Keep r₀ s) :
    KeepRes r₀ (execInletLost s) := by
  unfold execInletLost
  try dsimp only
  repeat' first
    | with_reducible
        first
        | assumption | intro _ | apply KeepRes.of | apply keep_ite | apply keepRes_ite | apply keep_advFab
        | apply keep_modPower | apply keep_setField | apply keep_bump
    | split
    | with_reducible first | apply keep_rec | rfl

/-! ### Machine/Governor.lean -/

theorem keep_noteThermalCap {r₀ s : State} (kp : Keep r₀ s) :
    Keep r₀ (noteThermalCap s) := by
  unfold noteThermalCap
  try dsimp only
  repeat' first
    | with_reducible
        first
        | assumption | intro _ | apply keep_setField
    | split
    | with_reducible first | apply keep_rec | rfl

theorem keep_noteHottest {r₀ s : State} (kp : Keep r₀ s) :
    Keep r₀ (noteHottest s) := by
  unfold noteHottest
  try dsimp only
  repeat' first
    | with_reducible
        first
        | assumption | intro _ | apply keep_setField
    | split
    | with_reducible first | apply keep_rec | rfl

theorem keep_execThermalFit {r₀ s : State} (kp : Keep r₀ s) :
    KeepRes r₀ (execThermalFit s) := by
  unfold execThermalFit
  try dsimp only
  repeat' first
    | with_reducible
        first
        | assumption | intro _ | apply KeepRes.of | apply keep_modMgr | apply keep_when
    | split
    | with_reducible first | apply keep_rec | rfl

theorem keep_takeSlack {r₀ s : State} (kp : Keep r₀ s) (frac : Nat) (overran : Bool) (frame lclu : Nat) :
    Keep r₀ (takeSlack s frac overran frame lclu) := by
  unfold takeSlack
  try dsimp only
  repeat' first
    | with_reducible
        first
        | assumption | intro _ | apply keep_ite | apply keep_modPart
    | split
    | with_reducible first | apply keep_rec | rfl

theorem keep_execSlack {r₀ s : State} (kp : Keep r₀ s) :
    KeepRes r₀ (execSlack s) := by
  unfold execSlack
  try dsimp only
  repeat' first
    | with_reducible
        first
        | assumption | intro _ | apply KeepRes.of | apply keep_serveMgr | apply keep_takeSlack
    | split
    | with_reducible first | apply keep_rec | rfl

theorem keep_notePwrStat {r₀ s : State} (kp : Keep r₀ s) (low high therm code : Nat) (over_ : Bool) :
    Keep r₀ (notePwrStat s low high therm code over_) := by
  unfold notePwrStat
  try dsimp only
  repeat' first
    | with_reducible
        first
        | assumption | intro _ | apply keep_setReg
    | split
    | with_reducible first | apply keep_rec | rfl

theorem keep_execGovernorEvaluate {r₀ s : State} (kp : Keep r₀ s) :
    KeepRes r₀ (execGovernorEvaluate s) := by
  unfold execGovernorEvaluate
  try dsimp only
  repeat' first
    | with_reducible
        first
        | assumption | intro _ | apply KeepRes.of | apply keep_ite | apply keepRes_ite | apply keep_noteHottest
        | apply keep_noteThermalCap | apply keep_modMgr | apply keep_notePwrStat | apply keep_bump
        | apply keep_requestLock
    | split
    | with_reducible first | apply keep_rec | rfl

theorem keep_gatherPart {r₀ s : State} (kp : Keep r₀ s) (p : Partition) :
    Keep r₀ (gatherPart s p) := by
  unfold gatherPart
  try dsimp only
  repeat' first
    | with_reducible
        first
        | assumption | intro _ | apply keep_foldl | apply keep_setReg | apply keep_modPart
    | split
    | with_reducible first | apply keep_rec | rfl

theorem keep_execOpsGather {r₀ s : State} (kp : Keep r₀ s) :
    KeepRes r₀ (execOpsGather s) := by
  unfold execOpsGather
  try dsimp only
  repeat' first
    | with_reducible
        first
        | assumption | intro _ | apply KeepRes.of | apply keep_ite | apply keepRes_ite | apply keep_foldl
        | apply keep_gatherPart
    | split
    | with_reducible first | apply keep_rec | rfl

theorem keep_execPwrTokenAdd {r₀ s : State} (kp : Keep r₀ s) (who : Requester) (q : QuarterId) (n : BitVec 32) :
    KeepRes r₀ (execPwrTokenAdd who q n s) := by
  unfold execPwrTokenAdd
  try dsimp only
  repeat' first
    | with_reducible
        first
        | assumption | intro _ | apply KeepRes.of | apply keep_setReg | apply keep_when
    | split
    | with_reducible first | apply keep_rec | rfl

theorem keep_ledgerPart {r₀ s : State} (kp : Keep r₀ s) (p : Partition) :
    Keep r₀ (ledgerPart s p) := by
  unfold ledgerPart
  try dsimp only
  repeat' first
    | with_reducible
        first
        | assumption | intro _ | apply keep_ite | apply keep_setReg | apply keep_modPart
    | split
    | with_reducible first | apply keep_rec | rfl

theorem keep_execLedgerSecond {r₀ s : State} (kp : Keep r₀ s) :
    KeepRes r₀ (execLedgerSecond s) := by
  unfold execLedgerSecond
  try dsimp only
  repeat' first
    | with_reducible
        first
        | assumption | intro _ | apply KeepRes.of | apply keep_ite | apply keepRes_ite | apply keep_foldl
        | apply keep_advMgr | apply keep_ledgerPart
    | split
    | with_reducible first | apply keep_rec | rfl

/-! ### Machine/Transport.lean -/

theorem keep_sendPacket {r₀ s : State} (kp : Keep r₀ s) (p tcls : Nat) (k : Packet) :
    Keep r₀ (sendPacket s p tcls k) := by
  unfold sendPacket
  try dsimp only
  repeat' first
    | with_reducible
        first
        | assumption | intro _ | apply keep_ite | apply keep_foldl | apply keep_sendSeq
    | split
    | with_reducible first | apply keep_rec | rfl

theorem keep_queueOutbound {r₀ s : State} (kp : Keep r₀ s) (e n : Nat) : Keep r₀ (queueOutbound e n s) := by
  induction n generalizing s with
  | zero => exact kp
  | succ n ih =>
    unfold queueOutbound
    split
    · exact ih (keep_toEgress (keep_popEject kp ..) ..)
    · exact kp

theorem keep_execEgressSend {r₀ s : State} (kp : Keep r₀ s) (p : PortId) :
    KeepRes r₀ (execEgressSend p s) := by
  unfold execEgressSend
  try dsimp only
  repeat' first
    | with_reducible
        first
        | assumption | intro _ | apply KeepRes.of | apply keep_ite | apply keepRes_ite | apply keep_setPort
        | apply keep_sendPacket | apply keep_queueOutbound
    | split
    | with_reducible first | apply keep_rec | rfl

theorem keep_admitReq {r₀ s : State} (kp : Keep r₀ s) (p : Nat) (k : Packet) :
    Keep r₀ (admitReq s p k) := by
  unfold admitReq
  try dsimp only
  repeat' first
    | with_reducible
        first
        | assumption | intro _ | apply keep_ite | apply keep_freeEntry | apply keep_injectEdge
        | apply keep_charge | apply keep_setBucket | apply keep_modEdge
    | split
    | with_reducible first | apply keep_rec | rfl

theorem keep_popIngress {r₀ s : State} (kp : Keep r₀ s) (p tcls : Nat) :
    Keep r₀ (popIngress s p tcls) := by
  unfold popIngress
  try dsimp only
  repeat' first
    | with_reducible
        first
        | assumption | intro _ | apply keep_modPort
    | split
    | with_reducible first | apply keep_rec | rfl

theorem keep_execTransportReqArrive {r₀ s : State} (kp : Keep r₀ s) (p : PortId) :
    KeepRes r₀ (execTransportReqArrive p s) := by
  unfold execTransportReqArrive
  try dsimp only
  repeat' first
    | with_reducible
        first
        | assumption | intro _ | apply KeepRes.of | apply keep_ite | apply keepRes_ite | apply keep_bump
        | apply keep_toEgress | apply keep_freeEntry | apply keep_admitReq | apply keep_popIngress
    | split
    | with_reducible first | apply keep_rec | rfl

theorem keep_noteEdgeWait {r₀ s : State} (kp : Keep r₀ s) (e : Nat) (more : Bool) :
    Keep r₀ (noteEdgeWait s e more) := by
  unfold noteEdgeWait
  try dsimp only
  repeat' first
    | with_reducible
        first
        | assumption | intro _ | apply keep_ite | apply keep_setBucket | apply keep_bumpBy
    | split
    | with_reducible first | apply keep_rec | rfl

theorem keep_admitNext {r₀ s : State} (kp : Keep r₀ s) (e : Nat) :
    Keep r₀ (admitNext s e) := by
  unfold admitNext
  try dsimp only
  repeat' first
    | with_reducible
        first
        | assumption | intro _ | apply keep_noteEdgeWait | apply keep_advFab | apply keep_modEdge
        | apply keep_freeEntry | apply keep_injectEdge | apply keep_charge
    | split
    | with_reducible first | apply keep_rec | rfl

theorem keep_execIngressReqAdmit {r₀ s : State} (kp : Keep r₀ s) (e : EdgeId) :
    KeepRes r₀ (execIngressReqAdmit e s) := by
  unfold execIngressReqAdmit
  try dsimp only
  repeat' first
    | with_reducible
        first
        | assumption | intro _ | apply KeepRes.of | apply keep_admitNext
    | split
    | with_reducible first | apply keep_rec | rfl

theorem keep_execTransportRspArrive {r₀ s : State} (kp : Keep r₀ s) (p : PortId) :
    KeepRes r₀ (execTransportRspArrive p s) := by
  unfold execTransportRspArrive
  try dsimp only
  repeat' first
    | with_reducible
        first
        | assumption | intro _ | apply KeepRes.of | apply keep_ite | apply keepRes_ite | apply keep_popIngress
        | apply keep_freeEntry | apply keep_bump | apply keep_injectEdge
    | split
    | with_reducible first | apply keep_rec | rfl

theorem keep_execRemoteTimeout {r₀ s : State} (kp : Keep r₀ s) (cl : ClusterId) (write : Bool) (tag : Nat) :
    KeepRes r₀ (execRemoteTimeout cl write tag s) := by
  unfold execRemoteTimeout
  try dsimp only
  repeat' first
    | with_reducible
        first
        | assumption | intro _ | apply KeepRes.of | apply keep_ite | apply keepRes_ite | apply keep_modCl
        | apply keep_bump | apply keep_write | apply keep_advFab | apply keep_landReply | apply keep_ackAtCluster
    | split
    | with_reducible first | apply keep_rec | rfl

theorem keep_execTagQuarantineEnd {r₀ s : State} (kp : Keep r₀ s) (cl : ClusterId) (write : Bool) (tag : Nat) :
    KeepRes r₀ (execTagQuarantineEnd cl write tag s) := by
  unfold execTagQuarantineEnd
  try dsimp only
  repeat' first
    | with_reducible
        first
        | assumption | intro _ | apply KeepRes.of | apply keep_ite | apply keepRes_ite | apply keep_write
        | apply keep_endWait | apply keep_advFab | apply keep_modCl
    | split
    | with_reducible first | apply keep_rec | rfl

theorem keep_atomAnswer {r₀ s : State} (kp : Keep r₀ s) (c : Nat) (k : Packet) :
    Keep r₀ (atomAnswer s c k) := by
  unfold atomAnswer
  try dsimp only
  repeat' first
    | with_reducible
        first
        | assumption | intro _ | apply keep_ite | apply keep_bump | apply keep_atomAtCluster | apply keep_swapAnswer
    | split
    | with_reducible first | apply keep_rec | rfl

theorem keep_takeHostTag {r₀ s : State} (kp : Keep r₀ s) (q tag kind : Nat) :
    Keep r₀ (takeHostTag s q tag kind) := by
  unfold takeHostTag
  try dsimp only
  repeat' first
    | with_reducible
        first
        | assumption | intro _ | apply keep_modQtr
    | split
    | with_reducible first | apply keep_rec | rfl

theorem keep_hostAtomAnswer {r₀ s : State} (kp : Keep r₀ s) (q : Nat) (k : Packet) :
    Keep r₀ (hostAtomAnswer s q k) := by
  unfold hostAtomAnswer
  try dsimp only
  repeat' first
    | with_reducible
        first
        | assumption | intro _ | apply keep_ite | apply keep_modQtr | apply keep_toHost
    | split
    | with_reducible first | apply keep_rec | rfl

theorem keep_hostAtomTimeout {r₀ s : State} (kp : Keep r₀ s) (q : Nat) :
    Keep r₀ (hostAtomTimeout s q) := by
  unfold hostAtomTimeout
  try dsimp only
  repeat' first
    | with_reducible
        first
        | assumption | intro _ | apply keep_advFab | apply keep_toHost | apply keep_modQtr
    | split
    | with_reducible first | apply keep_rec | rfl

theorem keep_execAtomRsp {r₀ s : State} (kp : Keep r₀ s) (p : AgentPort) :
    KeepRes r₀ (execAtomRsp p s) := by
  unfold execAtomRsp
  try dsimp only
  repeat' first
    | with_reducible
        first
        | assumption | intro _ | apply KeepRes.of | apply keep_ite | apply keepRes_ite | apply keep_serve
        | apply keep_atomAnswer | apply keep_popEject | apply keep_answerAtEdge | apply keep_hostAtomAnswer
        | apply keep_hostAtomTimeout
    | split
    | with_reducible first | apply keep_rec | rfl

end Sys2Proof.Machine
end

