-- ==== Sys2Proof/Laws/KeepHost.lean ====
section
/-! SUPPORT. What every operation keeps (`Keep` of Laws/Keep.lean): the host interface, the tenant clear, maintenance, reduction, the snapshots and the registers. -/

set_option linter.unusedTactic false
set_option linter.unreachableTactic false

namespace Sys2Proof.Machine

/-! ### Machine/Host.lean -/

theorem keep_hostReadBlock {r₀ s : State} (kp : Keep r₀ s) (q a : Nat) :
    Keep r₀ (hostReadBlock s q a).2 := by
  suffices ∀ x, hostReadBlock s q a = x → Keep r₀ x.2 from this _ rfl
  intro x hx
  unfold hostReadBlock at hx
  split at hx
  · subst hx; exact keep_pair _ kp
  rename_i n v _
  extract_lets s1 e at hx
  have h1 : Keep r₀ s1 := keep_settleAll (keep_countMerge (keep_noteSolo (keep_noteRequest kp n) n v) ..) ..
  have hr := keep_readBlock (keep_takeEcc h1 n (v.so / 1024)) n v e.1.1 e.1.2.1 e.1.2.2.1 e.1.2.2.2
  split at hx
  · rename_i e; rw [e] at hr; subst hx; exact keep_pair _ hr
  · rename_i e; rw [e] at hr; subst hx; exact keep_pair _ hr

theorem keep_hostWriteBlock {r₀ s : State} (kp : Keep r₀ s) (q a : Nat) (data : Bytes) (check : Nat) :
    Keep r₀ (hostWriteBlock s q a data check) := by
  unfold hostWriteBlock
  try dsimp only
  repeat' first
    | with_reducible
        first
        | assumption | intro _ | apply keep_storeBlock | apply keep_settleAll | apply keep_noteSolo
        | apply keep_noteRequest
    | split
    | with_reducible first | apply keep_rec | rfl

theorem keep_modifyBlock {r₀ s : State} (kp : Keep r₀ s) (q a : Nat) (bs : Bytes) :
    Keep r₀ (modifyBlock s q a bs) := by
  unfold modifyBlock
  try dsimp only
  repeat' first
    | with_reducible
        first
        | assumption | intro _ | apply keep_ite | apply keep_hostReadBlock | apply keep_hostWriteBlock
    | split
    | with_reducible first | apply keep_rec | rfl

theorem keep_hostModifyBlock {r₀ s : State} (kp : Keep r₀ s) (q a : Nat) (bs : Bytes) :
    Keep r₀ (hostModifyBlock s q a bs) := by
  unfold hostModifyBlock
  try dsimp only
  repeat' first
    | with_reducible
        first
        | assumption | intro _ | apply keep_bump | apply keep_modifyBlock
    | split
    | with_reducible first | apply keep_rec | rfl

theorem keep_hostReadMem_acc {r₀ : State} (q : Nat) (ps : List (Nat × Nat)) (acc : Bytes × Bool × State) (ha : Keep r₀
    acc.2.2) :
    Keep r₀ (ps.foldl (fun (acc : Bytes × Bool × State) p =>
      let r := hostReadBlock acc.2.2 q p.1
      match r.1 with
      | some d => (acc.1 ++ (d.drop (p.1 % 1024)).take p.2, acc.2.1, r.2)
      | none => (acc.1 ++ zeros p.2, true, r.2)) acc).2.2 := by
  induction ps generalizing acc with
  | nil => exact ha
  | cons p ps ih =>
    rw [List.foldl_cons]
    apply ih
    have hr := keep_hostReadBlock ha q p.1
    generalize hostReadBlock acc.2.2 q p.1 = r at hr
    obtain ⟨r1, r2⟩ := r
    cases r1 <;> exact hr

theorem keep_hostReadMem {r₀ s : State} (kp : Keep r₀ s) (q : Nat) (ps : List (Nat × Nat)) : Keep r₀ (hostReadMem s q
    ps).2.2 := by
  exact keep_hostReadMem_acc _ _ _ kp

theorem keep_hostUnassigned {r₀ s : State} (kp : Keep r₀ s) (q : Nat) :
    Keep r₀ (hostUnassigned s q) := by
  unfold hostUnassigned
  try dsimp only
  repeat' first
    | with_reducible
        first
        | assumption | intro _ | apply keep_bump
    | split
    | with_reducible first | apply keep_rec | rfl

theorem keep_hostControl {r₀ s : State} (kp : Keep r₀ s) (q : Nat) (h : Home) (a kind sub : Nat) (payload : Bytes) :
    Keep r₀ (hostControl s q h a kind sub payload) := by
  unfold hostControl
  split
  · exact kp
  · exact keep_injectEdge (keep_takeHostTag kp ..) ..

theorem keep_execBar2Read {r₀ s : State} (kp : Keep r₀ s) (q : QuarterId) (ofs : BitVec 36) (len : Fin 4097) :
    KeepRes r₀ (execBar2Read q ofs len s) := by
  unfold execBar2Read
  try dsimp only
  repeat' first
    | with_reducible
        first
        | assumption | intro _ | apply KeepRes.of | apply keep_ite | apply keepRes_ite
        | apply keep_hostUnassigned | apply keep_emit | apply keep_outsideRead | apply keep_hostControl
        | apply keep_bump | apply keep_hostReadMem
    | split
    | with_reducible first | apply keep_rec | rfl

theorem keep_execBar2Write {r₀ s : State} (kp : Keep r₀ s) (q : QuarterId) (ofs : BitVec 36) (data : Bytes) :
    KeepRes r₀ (execBar2Write q ofs data s) := by
  unfold execBar2Write
  try dsimp only
  repeat' first
    | with_reducible
        first
        | assumption | intro _ | apply KeepRes.of | apply keep_ite | apply keepRes_ite | apply keep_foldl
        | apply keep_hostUnassigned | apply keep_outsideWrite | apply keep_hostControl | apply keep_bump
        | apply keep_hostWriteBlock | apply keep_hostModifyBlock
    | split
    | with_reducible first | apply keep_rec | rfl

theorem keep_execBar2Atomic {r₀ s : State} (kp : Keep r₀ s) (q : QuarterId) (ofs : BitVec 36) (old new : BitVec 64) :
    KeepRes r₀ (execBar2Atomic q ofs old new s) := by
  unfold execBar2Atomic
  extract_lets a body panel
  split
  · exact .of kp
  split
  · split
    · split
      · exact .of (keep_emit kp _)
      split
      · exact .of (keep_emit kp _)
      · exact .of (keep_hostControl kp ..)
    · exact .of (keep_emit (keep_hostUnassigned kp _) _)
    · exact .of (keep_emit kp _)
  split
  · exact .of (keep_emit (keep_hostUnassigned kp _) _)
  split
  · exact .of (keep_emit kp _)
  split
  · exact .of kp
  · exact .of (keep_injectEdge (keep_takeHostTag kp ..) ..)

theorem keep_modDma {r₀ s : State} (kp : Keep r₀ s) (q c : Nat) (f : Dma → Dma) :
    Keep r₀ (modDma s q c f) := by
  unfold modDma
  try dsimp only
  repeat' first
    | with_reducible
        first
        | assumption | intro _ | apply keep_modQtr
    | split
    | with_reducible first | apply keep_rec | rfl

theorem keep_execDmaDoorbell {r₀ s : State} (kp : Keep r₀ s) (q : QuarterId) (c : Fin 8) (total : BitVec 16) :
    KeepRes r₀ (execDmaDoorbell q c total s) := by
  unfold execDmaDoorbell
  try dsimp only
  repeat' first
    | with_reducible
        first
        | assumption | intro _ | apply KeepRes.of | apply keep_ite | apply keepRes_ite | apply keep_bump
        | apply keep_modDma
    | split
    | with_reducible first | apply keep_rec | rfl

theorem keep_dmaEnd {r₀ s : State} (kp : Keep r₀ s) (q c : Nat) (d : BitVec 256) (code : Nat) :
    Keep r₀ (dmaEnd s q c d code) := by
  unfold dmaEnd
  try dsimp only
  repeat' first
    | with_reducible
        first
        | assumption | intro _ | apply keep_ite | apply keep_modDma | apply keep_hostUnassigned
        | apply keep_bump
    | split
    | with_reducible first | apply keep_rec | rfl

theorem keep_dmaWrite {r₀ s : State} (kp : Keep r₀ s) (q : Nat) (t : DmaTarget) (a : Nat) (data : Bytes) (set : Bool) :
    Keep r₀ (dmaWrite s q t a data set) := by
  unfold dmaWrite
  try dsimp only
  repeat' first
    | with_reducible
        first
        | assumption | intro _ | apply keep_foldl | apply keep_outsideWrite | apply keep_hostWriteBlock
    | split
    | with_reducible first | apply keep_rec | rfl

theorem keep_dmaRead_acc {r₀ : State} (u : Nat) (ps : List (Nat × Nat)) (acc : Bytes × Bool × State) (ha : Keep r₀
    acc.2.2) :
    Keep r₀ (ps.foldl (fun (acc : Bytes × Bool × State) p =>
      let r := outsideRead acc.2.2 u p.1 p.2 .host
      (acc.1 ++ r.1.getD (zeros p.2), acc.2.1 || r.1.isNone, r.2)) acc).2.2 := by
  induction ps generalizing acc with
  | nil => exact ha
  | cons p ps ih =>
    rw [List.foldl_cons]
    apply ih
    exact keep_outsideRead ha ..

theorem keep_dmaRead {r₀ s : State} (kp : Keep r₀ s) (q : Nat) (t : DmaTarget) (a len : Nat) :
    Keep r₀ (dmaRead s q t a len).2.2 := by
  cases t
  · exact keep_hostReadMem kp ..
  · exact keep_dmaRead_acc _ _ _ kp

theorem keep_dmaRun {r₀ s : State} (kp : Keep r₀ s) (op q c : Nat) (d : BitVec 256) (f : DmaTarget → State → Nat ×
    State) (hf : ∀ a0 t, Keep r₀ t → Keep r₀ (f a0 t).2) :
    KeepRes r₀ (dmaRun op q c d f s) := by
  unfold dmaRun
  try dsimp only
  repeat' first
    | with_reducible
        first
        | assumption | intro _ | apply KeepRes.of | apply keep_ite | apply keepRes_ite | apply keep_dmaEnd | apply hf
    | split
    | with_reducible first | apply keep_rec | rfl

theorem keep_execH2p {r₀ s : State} (kp : Keep r₀ s) (q : QuarterId) (c : Fin 8) (desc : BitVec 256) (data : Option
    Bytes) :
    KeepRes r₀ (execH2p q c desc data s) := by
  unfold execH2p
  try dsimp only
  repeat' first
    | with_reducible
        first
        | assumption | intro _ | apply KeepRes.of | apply keep_ite | apply keepRes_ite | apply keep_dmaWrite
        | apply keep_dmaRun
    | split
    | with_reducible first | apply keep_rec | rfl

theorem keep_execP2h {r₀ s : State} (kp : Keep r₀ s) (q : QuarterId) (c : Fin 8) (desc : BitVec 256) (hostOk : Bool) :
    KeepRes r₀ (execP2h q c desc hostOk s) := by
  unfold execP2h
  try dsimp only
  repeat' first
    | with_reducible
        first
        | assumption | intro _ | apply KeepRes.of | apply keep_ite | apply keepRes_ite | apply keep_emit
        | apply keep_dmaRead | apply keep_dmaRun
    | split
    | with_reducible first | apply keep_rec | rfl

theorem keep_execDmaZero {r₀ s : State} (kp : Keep r₀ s) (q : QuarterId) (c : Fin 8) (desc : BitVec 256) :
    KeepRes r₀ (execDmaZero q c desc s) := by
  unfold execDmaZero
  try dsimp only
  repeat' first
    | with_reducible
        first
        | assumption | intro _ | apply KeepRes.of | apply keep_dmaWrite | apply keep_dmaRun
    | split
    | with_reducible first | apply keep_rec | rfl

theorem keep_execH2pDecrypt {r₀ s : State} (kp : Keep r₀ s) (q : QuarterId) (c : Fin 8) (desc : BitVec 256) (data :
    Option Bytes) :
    KeepRes r₀ (execH2pDecrypt q c desc data s) := by
  unfold execH2pDecrypt
  try dsimp only
  repeat' first
    | with_reducible
        first
        | assumption | intro _ | apply KeepRes.of | apply keep_ite | apply keepRes_ite | apply keep_dmaWrite
        | apply keep_dmaRun
    | split
    | with_reducible first | apply keep_rec | rfl

theorem keep_execDmaComplete {r₀ s : State} (kp : Keep r₀ s) (q : QuarterId) (c : Fin 8) :
    KeepRes r₀ (execDmaComplete q c s) := by
  unfold execDmaComplete
  try dsimp only
  repeat' first
    | with_reducible
        first
        | assumption | intro _ | apply KeepRes.of | apply keep_ite | apply keepRes_ite | apply keep_toHost
        | apply keep_modDma | apply keep_setReg
    | split
    | with_reducible first | apply keep_rec | rfl

theorem keep_disableDma {r₀ s : State} (kp : Keep r₀ s) (q c : Nat) :
    Keep r₀ (disableDma s q c) := by
  unfold disableDma
  try dsimp only
  repeat' first
    | with_reducible
        first
        | assumption | intro _ | apply keep_setField
    | split
    | with_reducible first | apply keep_rec | rfl

theorem keep_execDmaEngineDisable {r₀ s : State} (kp : Keep r₀ s) (who : Requester) (q : QuarterId) (c : Fin 8) :
    KeepRes r₀ (execDmaEngineDisable who q c s) := by
  unfold execDmaEngineDisable
  try dsimp only
  repeat' first
    | with_reducible
        first
        | assumption | intro _ | apply KeepRes.of | apply keep_when | apply keep_disableDma
    | split
    | with_reducible first | apply keep_rec | rfl

theorem keep_dropOverdue {r₀ s : State} (kp : Keep r₀ s) (q : Nat) :
    Keep r₀ (dropOverdue s q) := by
  unfold dropOverdue
  try dsimp only
  repeat' first
    | with_reducible
        first
        | assumption | intro _ | apply keep_ite | apply keep_dropMsg | apply keep_modQtr
    | split
    | with_reducible first | apply keep_rec | rfl

theorem keep_execMsgBufferDoorbell {r₀ s : State} (kp : Keep r₀ s) (q : QuarterId) (tail : BitVec 16) :
    KeepRes r₀ (execMsgBufferDoorbell q tail s) := by
  unfold execMsgBufferDoorbell
  try dsimp only
  repeat' first
    | with_reducible
        first
        | assumption | intro _ | apply KeepRes.of | apply keep_when | apply keep_dropOverdue | apply keep_modQtr
    | split
    | with_reducible first | apply keep_rec | rfl

theorem keep_execHostMsgPublish {r₀ s : State} (kp : Keep r₀ s) (q : QuarterId) :
    KeepRes r₀ (execHostMsgPublish q s) := by
  unfold execHostMsgPublish
  try dsimp only
  repeat' first
    | with_reducible
        first
        | assumption | intro _ | apply KeepRes.of | apply keep_ite | apply keepRes_ite | apply keep_emit
        | apply keep_setReg | apply keep_modQtr
    | split
    | with_reducible first | apply keep_rec | rfl

theorem keep_execHostMsgDrop {r₀ s : State} (kp : Keep r₀ s) (q : QuarterId) :
    KeepRes r₀ (execHostMsgDrop q s) := by
  unfold execHostMsgDrop
  try dsimp only
  repeat' first
    | with_reducible
        first
        | assumption | intro _ | apply KeepRes.of | apply keep_ite | apply keepRes_ite | apply keep_modQtr
        | apply keep_advFab | apply keep_dropMsg
    | split
    | with_reducible first | apply keep_rec | rfl

theorem keep_execMailboxDoorbell {r₀ s : State} (kp : Keep r₀ s) (q : QuarterId) (tag : BitVec 16) (op : BitVec 16)
    (len : BitVec 32) (payload : Bytes) :
    KeepRes r₀ (execMailboxDoorbell q tag op len payload s) := by
  unfold execMailboxDoorbell
  try dsimp only
  repeat' first
    | with_reducible
        first
        | assumption | intro _ | apply KeepRes.of | apply keep_ite | apply keepRes_ite | apply keep_modQtr
        | apply keep_bump | apply keep_setField | apply keep_mbRefuse | apply keep_mbReply
    | split
    | with_reducible first | apply keep_rec | rfl

theorem keep_execDefectMap {r₀ s : State} (kp : Keep r₀ s) (q : QuarterId) :
    KeepRes r₀ (execDefectMap q s) := by
  unfold execDefectMap
  try dsimp only
  repeat' first
    | with_reducible
        first
        | assumption | intro _ | apply KeepRes.of | apply keep_mbReply
    | split
    | with_reducible first | apply keep_rec | rfl

theorem keep_execPcieLinkDown {r₀ s : State} (kp : Keep r₀ s) (q : QuarterId) :
    KeepRes r₀ (execPcieLinkDown q s) := by
  unfold execPcieLinkDown
  try dsimp only
  repeat' first
    | with_reducible
        first
        | assumption | intro _ | apply KeepRes.of | apply keep_modQtr | apply keep_setReg
    | split
    | with_reducible first | apply keep_rec | rfl

/-! ### Machine/Tenant.lean -/

theorem keep_execTenantClear {r₀ s : State} (kp : Keep r₀ s) (q : QuarterId) :
    KeepRes r₀ (execTenantClear q s) := by
  unfold execTenantClear
  try dsimp only
  repeat' first
    | with_reducible
        first
        | assumption | intro _ | apply KeepRes.of | apply keep_ite | apply keepRes_ite | apply keep_mbRefuse
        | apply keep_requestLock
    | split
    | with_reducible first | apply keep_rec | rfl

theorem keep_setClearStat {r₀ s : State} (kp : Keep r₀ s) (q state pass : Nat) :
    Keep r₀ (setClearStat s q state pass) := by
  unfold setClearStat
  try dsimp only
  repeat' first
    | with_reducible
        first
        | assumption | intro _ | apply keep_setField
    | split
    | with_reducible first | apply keep_rec | rfl

theorem keep_beginTenantClear {r₀ s : State} (kp : Keep r₀ s) (m : Nat) (reply : Option Nat) :
    Keep r₀ (beginTenantClear s m reply) := by
  unfold beginTenantClear
  try dsimp only
  repeat' first
    | with_reducible
        first
        | assumption | intro _ | apply keep_foldl | apply keep_modQtr | apply keep_stopMask | apply keep_startEclipse
        | apply keep_eraseKey | apply keep_disableDma | apply keep_setClearStat
    | split
    | with_reducible first | apply keep_rec | rfl

theorem keep_resetBlocks {r₀ s : State} (kp : Keep r₀ s) (blocks : List Nat) :
    Keep r₀ (resetBlocks s blocks) := by
  unfold resetBlocks
  try dsimp only
  repeat' first
    | with_reducible
        first
        | assumption | intro _
    | split
    | with_reducible first | apply keep_rec | rfl

theorem keep_removeStream {r₀ s : State} (kp : Keep r₀ s) (m : Nat) :
    Keep r₀ (removeStream s m) := by
  unfold removeStream
  try dsimp only
  repeat' first
    | with_reducible
        first
        | assumption | intro _ | apply keep_foldl | apply keep_setBucket | apply keep_modCl | apply keep_setReg
        | apply keep_resetBlocks
    | split
    | with_reducible first | apply keep_rec | rfl

theorem keep_clearStack {r₀ s : State} (kp : Keep r₀ s) (n : Nat) :
    Keep r₀ (clearStack s n) := by
  unfold clearStack
  try dsimp only
  repeat' first
    | with_reducible
        first
        | assumption | intro _ | apply keep_ite | apply keep_clear
    | split
    | with_reducible first | apply keep_rec | rfl

theorem keep_patternStacks {r₀ s : State} (kp : Keep r₀ s) (m : Nat) :
    Keep r₀ (patternStacks s m) := by
  unfold patternStacks
  try dsimp only
  repeat' first
    | with_reducible
        first
        | assumption | intro _ | apply keep_foldl | apply keep_modMr | apply keep_clearStack
    | split
    | with_reducible first | apply keep_rec | rfl

theorem keep_readBackRow {r₀ s : State} (kp : Keep r₀ s) (n so : Nat) :
    Keep r₀ (readBackRow s n so) := by
  unfold readBackRow
  try dsimp only
  repeat' first
    | with_reducible
        first
        | assumption | intro _ | apply keep_ite | apply keep_repairRow | apply keep_withdrawStack
    | split
    | with_reducible first | apply keep_rec | rfl

theorem keep_readBack {r₀ s : State} (kp : Keep r₀ s) (m : Nat) (failing : List (StackId × Nat)) :
    Keep r₀ (readBack s m failing) := by
  unfold readBack
  try dsimp only
  repeat' first
    | with_reducible
        first
        | assumption | intro _ | apply keep_ite | apply keep_foldl | apply keep_readBackRow
    | split
    | with_reducible first | apply keep_rec | rfl

theorem keep_endClear {r₀ s : State} (kp : Keep r₀ s) (m : Nat) :
    Keep r₀ (endClear s m) := by
  unfold endClear
  try dsimp only
  repeat' first
    | with_reducible
        first
        | assumption | intro _ | apply keep_foldl | apply keep_modQtr | apply keep_setField | apply keep_releaseLock
        | apply keep_setClearStat | apply keep_patternStacks
    | split
    | with_reducible first | apply keep_rec | rfl

theorem keep_nextPass {r₀ s : State} (kp : Keep r₀ s) (m pass stat : Nat) :
    Keep r₀ (nextPass s m pass stat) := by
  unfold nextPass
  try dsimp only
  repeat' first
    | with_reducible
        first
        | assumption | intro _ | apply keep_foldl | apply keep_modQtr | apply keep_setClearStat
    | split
    | with_reducible first | apply keep_rec | rfl

theorem keep_execTenantClearPass {r₀ s : State} (kp : Keep r₀ s) (q : QuarterId) (failing : List (StackId × Nat)) :
    KeepRes r₀ (execTenantClearPass q failing s) := by
  unfold execTenantClearPass
  try dsimp only
  repeat' first
    | with_reducible
        first
        | assumption | intro _ | apply KeepRes.of | apply keep_ite | apply keepRes_ite | apply keep_zeroSpares
        | apply keep_zeroMask | apply keep_releaseQuarantine | apply keep_advFab | apply keep_refreshSusp
        | apply keep_removeStream | apply keep_mbReply | apply keep_nextPass | apply keep_modQuarters
        | apply keep_patternStacks | apply keep_readBack | apply keep_endClear
    | split
    | with_reducible first | apply keep_rec | rfl

/-! ### Machine/Maintenance.lean -/

theorem keep_maintRequest {r₀ s : State} (kp : Keep r₀ s) (act : Nat) (scope : State → MaintReq → Option Nat) (q : Nat) :
    KeepRes r₀ (maintRequest act scope q s) := by
  unfold maintRequest
  try dsimp only
  repeat' first
    | with_reducible
        first
        | assumption | intro _ | apply KeepRes.of | apply keep_ite | apply keepRes_ite | apply keep_mbRefuse
        | apply keep_requestLock | apply hscope
    | split
    | with_reducible first | apply keep_rec | rfl

theorem keep_execMaintRequestRetest {r₀ s : State} (kp : Keep r₀ s) (q : QuarterId) :
    KeepRes r₀ (execMaintRequestRetest q s) := by
  unfold execMaintRequestRetest
  try dsimp only
  repeat' first
    | with_reducible
        first
        | assumption | intro _ | apply KeepRes.of | apply keep_ite | apply keepRes_ite | apply keep_maintRequest
    | split
    | with_reducible first | apply keep_rec | rfl

theorem keep_execMaintRequestRecal {r₀ s : State} (kp : Keep r₀ s) (q : QuarterId) :
    KeepRes r₀ (execMaintRequestRecal q s) := by
  unfold execMaintRequestRecal
  try dsimp only
  repeat' first
    | with_reducible
        first
        | assumption | intro _ | apply KeepRes.of | apply keep_ite | apply keepRes_ite | apply keep_maintRequest
    | split
    | with_reducible first | apply keep_rec | rfl

theorem keep_addMaint {r₀ s : State} (kp : Keep r₀ s) (code arg m : Nat) :
    Keep r₀ (addMaint s code arg m) := by
  unfold addMaint
  try dsimp only
  repeat' first
    | with_reducible
        first
        | assumption | intro _ | apply keep_modMgr
    | split
    | with_reducible first | apply keep_rec | rfl

theorem keep_startRetest {r₀ s : State} (kp : Keep r₀ s) (d m : Nat) :
    Keep r₀ (startRetest s d m) := by
  unfold startRetest
  try dsimp only
  repeat' first
    | with_reducible
        first
        | assumption | intro _ | apply keep_foldl | apply keep_modCl | apply keep_startClear | apply keep_dropLinks
        | apply keep_endRun | apply keep_addMaint
    | split
    | with_reducible first | apply keep_rec | rfl

theorem keep_startRecal {r₀ s : State} (kp : Keep r₀ s) (arg m : Nat) :
    Keep r₀ (startRecal s arg m) := by
  unfold startRecal
  try dsimp only
  repeat' first
    | with_reducible
        first
        | assumption | intro _ | apply keep_ite | apply keep_addMaint | apply keep_linkChanged
        | apply keep_changeLink | apply keep_loseLink | apply keep_startTraining
    | split
    | with_reducible first | apply keep_rec | rfl

theorem keep_beginActivity {r₀ s : State} (kp : Keep r₀ s) (r : LockReq) :
    Keep r₀ (beginActivity s r) := by
  unfold beginActivity
  try dsimp only
  repeat' first
    | with_reducible
        first
        | assumption | intro _ | apply keep_ite | apply keep_mbReply | apply keep_modQuarters
        | apply keep_startRetest | apply keep_startSpareIn | apply keep_bump | apply keep_startEqx
        | apply keep_startRecal | apply keep_setReg | apply keep_beginTenantClear
    | split
    | with_reducible first | apply keep_rec | rfl

theorem keep_refuseActivity {r₀ s : State} (kp : Keep r₀ s) (r : LockReq) :
    Keep r₀ (refuseActivity s r) := by
  unfold refuseActivity
  try dsimp only
  repeat' first
    | with_reducible
        first
        | assumption | intro _ | apply keep_recordConflict | apply keep_modQuarters | apply keep_modPend
        | apply keep_setReg | apply keep_mbReply
    | split
    | with_reducible first | apply keep_rec | rfl

theorem keep_decideLock {r₀ s : State} (kp : Keep r₀ s) (r : LockReq) :
    Keep r₀ (decideLock s r) := by
  unfold decideLock
  try dsimp only
  repeat' first
    | with_reducible
        first
        | assumption | intro _ | apply keep_ite | apply keep_bump | apply keep_holdLock | apply keep_beginActivity
        | apply keep_refuseActivity
    | split
    | with_reducible first | apply keep_rec | rfl

theorem keep_releaseIdleScrub {r₀ s : State} (kp : Keep r₀ s) :
    Keep r₀ (releaseIdleScrub s) := by
  unfold releaseIdleScrub
  try dsimp only
  repeat' first
    | with_reducible
        first
        | assumption | intro _ | apply keep_ite | apply keep_foldl | apply keep_modQtr | apply keep_releaseLock
    | split
    | with_reducible first | apply keep_rec | rfl

theorem keep_execMaintLockEvaluate {r₀ s : State} (kp : Keep r₀ s) :
    KeepRes r₀ (execMaintLockEvaluate s) := by
  unfold execMaintLockEvaluate
  try dsimp only
  repeat' first
    | with_reducible
        first
        | assumption | intro _ | apply KeepRes.of | apply keep_ite | apply keepRes_ite | apply keep_foldl
        | apply keep_modMgr | apply keep_advMgr | apply keep_decideLock | apply keep_releaseIdleScrub
    | split
    | with_reducible first | apply keep_rec | rfl

theorem keep_execScrubLockRetry {r₀ s : State} (kp : Keep r₀ s) (q : QuarterId) :
    KeepRes r₀ (execScrubLockRetry q s) := by
  unfold execScrubLockRetry
  try dsimp only
  repeat' first
    | with_reducible
        first
        | assumption | intro _ | apply KeepRes.of | apply keep_ite | apply keepRes_ite | apply keep_modQtr
        | apply keep_advFab | apply keep_requestLock
    | split
    | with_reducible first | apply keep_rec | rfl

theorem keep_execScrubRead {r₀ s : State} (kp : Keep r₀ s) (st : StackId) (first second copy1 copy2 : Ecc) :
    KeepRes r₀ (execScrubRead st first second copy1 copy2 s) := by
  unfold execScrubRead
  try dsimp only
  repeat' first
    | with_reducible
        first
        | assumption | intro _ | apply KeepRes.of | apply keep_ite | apply keepRes_ite | apply keep_scrubNext
        | apply keep_scrubBlock | apply keep_releaseLock | apply keep_modQtr
    | split
    | with_reducible first | apply keep_rec | rfl

theorem keep_endLinkRecal {r₀ s : State} (kp : Keep r₀ s) (l failedLo failedHi : Nat) :
    Keep r₀ (endLinkRecal s l failedLo failedHi) := by
  unfold endLinkRecal
  try dsimp only
  repeat' first
    | with_reducible
        first
        | assumption | intro _ | apply keep_ite | apply keep_returnLink | apply keep_countLink
        | apply keep_newGeneration
    | split
    | with_reducible first | apply keep_rec | rfl

theorem keep_execLaneRecalDone {r₀ s : State} (kp : Keep r₀ s) (t : RecalTarget) (failedLo failedHi : Nat) :
    KeepRes r₀ (execLaneRecalDone t failedLo failedHi s) := by
  unfold execLaneRecalDone
  try dsimp only
  repeat' first
    | with_reducible
        first
        | assumption | intro _ | apply KeepRes.of | apply keep_ite | apply keepRes_ite | apply keep_modMgr
        | apply keep_refreshSusp | apply keep_releaseLock | apply keep_endLinkRecal
    | split
    | with_reducible first | apply keep_rec | rfl

theorem keep_setFetched {r₀ s : State} (kp : Keep r₀ s) (x : Option Image) :
    Keep r₀ (setFetched s x) := by
  unfold setFetched
  try dsimp only
  repeat' first
    | with_reducible
        first
        | assumption | intro _
    | split
    | with_reducible first | apply keep_rec | rfl

theorem keep_endUpdate {r₀ s : State} (kp : Keep r₀ s) (stat : Nat) : Keep r₀ (endUpdate s stat) := by
  unfold endUpdate
  exact keep_releaseLock (keep_setReg (keep_setFetched kp _) ..) ..

theorem keep_updateStep {r₀ s : State} (kp : Keep r₀ s) (st : Nat) (image : Option Image) (norOk : Bool) :
    Keep r₀ (updateStep st image norOk s) := by
  have hw : ∀ x i, (writeBank x i).count = i.count := by
    intro x i; unfold writeBank; extract_lets; split <;> rfl
  unfold updateStep
  split
  · split
    · exact keep_endUpdate kp _
    · exact keep_setReg (keep_setFetched kp _) ..
  · split
    · exact keep_endUpdate kp _
    · exact keep_setReg kp ..
  · split
    · exact keep_endUpdate (kp.same (ha := hw ..) (hb := hw ..)) _
    · exact keep_endUpdate kp _
  · exact kp

theorem keep_execFwUpdate {r₀ s : State} (kp : Keep r₀ s) (who : Requester) (image : Option Image) (norOk : Bool) :
    KeepRes r₀ (execFwUpdate who image norOk s) := by
  unfold execFwUpdate
  try dsimp only
  repeat' first
    | with_reducible
        first
        | assumption | intro _ | apply KeepRes.of | apply keep_ite | apply keepRes_ite | apply keep_updateStep
        | apply keep_requestLock
    | split
    | with_reducible first | apply keep_rec | rfl

/-! ### Machine/Reduction.lean -/

theorem keep_poisonRecord {r₀ s : State} (kp : Keep r₀ s) (n : Nat) (blocks : List Nat) :
    Keep r₀ (poisonRecord s n blocks) := by
  unfold poisonRecord
  try dsimp only
  repeat' first
    | with_reducible
        first
        | assumption | intro _ | apply keep_foldl | apply keep_storeBlock
    | split
    | with_reducible first | apply keep_rec | rfl

theorem keep_writeRecord {r₀ s : State} (kp : Keep r₀ s) (n off : Nat) (bs : Bytes) :
    Keep r₀ (writeRecord s n off bs) := by
  unfold writeRecord
  try dsimp only
  repeat' first
    | with_reducible
        first
        | assumption | intro _ | apply keep_foldl | apply keep_storeBlock
    | split
    | with_reducible first | apply keep_rec | rfl

theorem keep_zeroBlocks {r₀ s : State} (kp : Keep r₀ s) (n off len : Nat) :
    Keep r₀ (zeroBlocks s n off len) := by
  unfold zeroBlocks
  try dsimp only
  repeat' first
    | with_reducible
        first
        | assumption | intro _ | apply keep_clear
    | split
    | with_reducible first | apply keep_rec | rfl

theorem keep_logRed {r₀ s : State} (kp : Keep r₀ s) (n cause : Nat) (p : Partition) (r : RedRange) (a : Nat) :
    Keep r₀ (logRed s n cause p r a) := by
  unfold logRed
  try dsimp only
  repeat' first
    | with_reducible
        first
        | assumption | intro _ | apply keep_ite | apply keep_setReg
    | split
    | with_reducible first | apply keep_rec | rfl

theorem keep_readRecordBlock {r₀ s : State} (kp : Keep r₀ s) (n b : Nat) (e1 e2 : Ecc) :
    Keep r₀ (readRecordBlock s n b e1 e2).2 := by
  suffices ∀ x, readRecordBlock s n b e1 e2 = x → Keep r₀ x.2 from this _ rfl
  intro x hx
  unfold readRecordBlock at hx
  extract_lets k at hx
  have hk : Keep r₀ k.2 := keep_readTwice kp ..
  split at hx
  · subst hx; exact hk
  · subst hx; exact keep_pair _ (keep_bump (keep_logBlock (keep_bump hk _) ..) _)

theorem keep_foldl_snd {α β : Type} {r : State} (f : β × State → α → β × State) (hf : ∀ v a, Keep r v.2 → Keep r (f v a).2)
    (l : List α) (v : β × State) (h : Keep r v.2) : Keep r (l.foldl f v).2 := by
  induction l generalizing v with
  | nil => exact h
  | cons a l ih => exact ih _ (hf v a h)

theorem keep_readRecordBlocks {r₀ s : State} (kp : Keep r₀ s) (n : Nat) (blocks : List Nat) (e1 e2 : List Ecc) :
    Keep r₀ (readRecordBlocks s n blocks e1 e2).2 := by
  unfold readRecordBlocks
  refine keep_foldl_snd _ (fun v a h => ?_) _ (true, s) kp
  exact keep_readRecordBlock h ..

theorem keep_recordPoisoned {r₀ s : State} (kp : Keep r₀ s) (n : Nat) (p : Partition) (r : RedRange) (a : Nat)
    (blocks : List Nat) (e1 e2 : List Ecc) : Keep r₀ (recordPoisoned s n p r a blocks e1 e2).2 := by
  suffices ∀ x, recordPoisoned s n p r a blocks e1 e2 = x → Keep r₀ x.2 from this _ rfl
  intro x hx
  unfold recordPoisoned at hx
  split at hx
  · subst hx; exact keep_pair _ kp
  extract_lets t at hx
  have ht : Keep r₀ t.2 := keep_readRecordBlocks kp ..
  split at hx
  · subst hx; exact keep_pair _ ht
  · subst hx; exact keep_pair _ (keep_logRed (keep_poisonRecord ht ..) ..)

theorem keep_cacheRecord {r₀ s : State} (kp : Keep r₀ s) (n off : Nat) :
    Keep r₀ (cacheRecord s n off) := by
  unfold cacheRecord
  try dsimp only
  repeat' first
    | with_reducible
        first
        | assumption | intro _ | apply keep_modMr
    | split
    | with_reducible first | apply keep_rec | rfl

theorem keep_refuseRow {r₀ s : State} (kp : Keep r₀ s) (n : Nat) (p : Packet) :
    Keep r₀ (refuseRow s n p) := by
  unfold refuseRow
  try dsimp only
  repeat' first
    | with_reducible
        first
        | assumption | intro _ | apply keep_ite | apply keep_bump | apply keep_injectMr
    | split
    | with_reducible first | apply keep_rec | rfl

theorem keep_accumulate {r₀ s : State} (kp : Keep r₀ s) (n : Nat) (e1 e2 : List Ecc) (p : Packet) :
    Keep r₀ (accumulate n e1 e2 p s) := by
  unfold accumulate
  try dsimp only
  repeat' first
    | with_reducible
        first
        | assumption | intro _ | apply keep_ite | apply keep_foldl | apply keep_noteRequest
        | apply keep_refuseRow | apply keep_cacheRecord | apply keep_injectMr | apply keep_logRed
        | apply keep_poisonRecord | apply keep_bump | apply keep_recordPoisoned | apply keep_writeRecord
        | apply keep_bumpBy
    | split
    | with_reducible first | apply keep_rec | rfl

theorem keep_readRow {r₀ s : State} (kp : Keep r₀ s) (n : Nat) (e1 e2 : List Ecc) (clear : Bool) (p : Packet) :
    Keep r₀ (readRow n e1 e2 clear p s) := by
  unfold readRow
  try dsimp only
  repeat' first
    | with_reducible
        first
        | assumption | intro _ | apply keep_ite | apply keep_noteRequest | apply keep_refuseRow
        | apply keep_recordPoisoned | apply keep_cacheRecord | apply keep_clear | apply keep_zeroBlocks
        | apply keep_injectMr | apply keep_bumpBy
    | split
    | with_reducible first | apply keep_rec | rfl

theorem keep_execAccumulateRow {r₀ s : State} (kp : Keep r₀ s) (st : StackId) (first second : List Ecc) :
    KeepRes r₀ (execAccumulateRow st first second s) := by
  unfold execAccumulateRow
  try dsimp only
  repeat' first
    | with_reducible
        first
        | assumption | intro _ | apply KeepRes.of | apply keep_serve | apply keep_accumulate
    | split
    | with_reducible first | apply keep_rec | rfl

theorem keep_execReadRow {r₀ s : State} (kp : Keep r₀ s) (st : StackId) (first second : List Ecc) :
    KeepRes r₀ (execReadRow st first second s) := by
  unfold execReadRow
  try dsimp only
  repeat' first
    | with_reducible
        first
        | assumption | intro _ | apply KeepRes.of | apply keep_serve | apply keep_readRow
    | split
    | with_reducible first | apply keep_rec | rfl

theorem keep_execReadClearRow {r₀ s : State} (kp : Keep r₀ s) (st : StackId) (first second : List Ecc) :
    KeepRes r₀ (execReadClearRow st first second s) := by
  unfold execReadClearRow
  try dsimp only
  repeat' first
    | with_reducible
        first
        | assumption | intro _ | apply KeepRes.of | apply keep_serve | apply keep_readRow
    | split
    | with_reducible first | apply keep_rec | rfl

/-! ### Machine/Snapshots.lean -/

theorem keep_sendRecord {r₀ s : State} (kp : Keep r₀ s) (site at_ : Nat) :
    Keep r₀ (sendRecord s site at_) := by
  unfold sendRecord
  try dsimp only
  repeat' first
    | with_reducible
        first
        | assumption | intro _ | apply keep_foldl | apply keep_fromRegAgent
    | split
    | with_reducible first | apply keep_rec | rfl

theorem keep_execCntLatch {r₀ s : State} (kp : Keep r₀ s) (st : StackId) :
    KeepRes r₀ (execCntLatch st s) := by
  unfold execCntLatch
  try dsimp only
  repeat' first
    | with_reducible
        first
        | assumption | intro _ | apply KeepRes.of | apply keep_serveMgmt | apply keep_sendRecord
    | split
    | with_reducible first | apply keep_rec | rfl

theorem keep_slotWrite {r₀ s : State} (kp : Keep r₀ s) (q n off : Nat) (bs : Bytes) :
    Keep r₀ (slotWrite s q n off bs) := by
  unfold slotWrite
  try dsimp only
  repeat' first
    | with_reducible
        first
        | assumption | intro _ | apply keep_toHost
    | split
    | with_reducible first | apply keep_rec | rfl

theorem keep_beginSnap {r₀ s : State} (kp : Keep r₀ s) (q : Nat) (p : Partition) (at_ frame : Nat) :
    Keep r₀ (beginSnap s q p at_ frame) := by
  unfold beginSnap
  try dsimp only
  repeat' first
    | with_reducible
        first
        | assumption | intro _ | apply keep_ite | apply keep_foldl | apply keep_modQtr | apply keep_fromMgr
        | apply keep_sendRecord | apply keep_slotWrite
    | split
    | with_reducible first | apply keep_rec | rfl

theorem keep_execSnapshotDue {r₀ s : State} (kp : Keep r₀ s) (q : QuarterId) :
    KeepRes r₀ (execSnapshotDue q s) := by
  unfold execSnapshotDue
  try dsimp only
  repeat' first
    | with_reducible
        first
        | assumption | intro _ | apply KeepRes.of | apply keep_ite | apply keepRes_ite | apply keep_modQtr
        | apply keep_bump | apply keep_advNs | apply keep_beginSnap
    | split
    | with_reducible first | apply keep_rec | rfl

theorem keep_endSnap {r₀ s : State} (kp : Keep r₀ s) (q : Nat) (x : SnapOp) :
    Keep r₀ (endSnap s q x) := by
  unfold endSnap
  try dsimp only
  repeat' first
    | with_reducible
        first
        | assumption | intro _ | apply keep_foldl | apply keep_modQtr | apply keep_slotWrite
    | split
    | with_reducible first | apply keep_rec | rfl

theorem keep_takePiece {r₀ s : State} (kp : Keep r₀ s) (q site i at_ : Nat) (bs : Bytes) :
    Keep r₀ (takePiece s q site i at_ bs) := by
  unfold takePiece
  split
  · exact kp
  · extract_lets x t t2
    have ht : Keep r₀ t := keep_modQtr kp ..
    have h2 : Keep r₀ t2 := by
      unfold t2
      split
      · exact keep_slotWrite ht ..
      · exact ht
    exact keep_ite (keep_endSnap h2 ..) h2

theorem keep_execCntRec {r₀ s : State} (kp : Keep r₀ s) (q : QuarterId) :
    KeepRes r₀ (execCntRec q s) := by
  unfold execCntRec
  try dsimp only
  repeat' first
    | with_reducible
        first
        | assumption | intro _ | apply KeepRes.of | apply keep_foldl | apply keep_serve | apply keep_takePiece
    | split
    | with_reducible first | apply keep_rec | rfl

theorem keep_execSnapshotRecordTimeout {r₀ s : State} (kp : Keep r₀ s) (q : QuarterId) :
    KeepRes r₀ (execSnapshotRecordTimeout q s) := by
  unfold execSnapshotRecordTimeout
  try dsimp only
  repeat' first
    | with_reducible
        first
        | assumption | intro _ | apply KeepRes.of | apply keep_advFab | apply keep_endSnap
    | split
    | with_reducible first | apply keep_rec | rfl

/-! ### Machine/Registers.lean -/

theorem keep_readDieWord {r₀ s : State} (kp : Keep r₀ s) (req a : Nat) :
    Keep r₀ (readDieWord s req a).2 := by
  unfold readDieWord
  try dsimp only
  repeat' first
    | with_reducible
        first
        | assumption | intro _ | apply keep_ite | apply keep_latchSeconds
    | split
    | with_reducible first | apply keep_rec | rfl

theorem keep_latchPanel {r₀ s : State} (kp : Keep r₀ s) (req : Nat) :
    Keep r₀ (latchPanel s req) := by
  unfold latchPanel
  try dsimp only
  repeat' first
    | with_reducible
        first
        | assumption | intro _ | apply keep_modMgr
    | split
    | with_reducible first | apply keep_rec | rfl

theorem keep_readMgrWord {r₀ s : State} (kp : Keep r₀ s) (v : View) (req q a : Nat) :
    Keep r₀ (readMgrWord s v req q a).2 := by
  unfold readMgrWord
  try dsimp only
  repeat' first
    | with_reducible
        first
        | assumption | intro _ | apply keep_ite | apply keep_latchPanel
    | split
    | with_reducible first | apply keep_rec | rfl

theorem keep_readWords {r₀ s : State} (kp : Keep r₀ s) (eight : Bool) (a : Nat) (f : State → Nat → Nat × State) (hf :
    ∀ t a1, Keep r₀ t → Keep r₀ (f t a1).2) :
    Keep r₀ (readWords eight a f s).2 := by
  unfold readWords
  try dsimp only
  repeat' first
    | with_reducible
        first
        | assumption | intro _ | apply keep_ite | apply hf
    | split
    | with_reducible first | apply keep_rec | rfl

theorem keep_clearW1c {r₀ s : State} (kp : Keep r₀ s) (rows : List RegRow) (blk off v : Nat) :
    Keep r₀ (clearW1c s rows blk off v) := by
  unfold clearW1c
  try dsimp only
  repeat' first
    | with_reducible
        first
        | assumption | intro _ | apply keep_ite | apply keep_setReg
    | split
    | with_reducible first | apply keep_rec | rfl

theorem keep_writeWord {r₀ s : State} (kp : Keep r₀ s) (rwOnly : Bool) (a v : Nat) :
    Keep r₀ (writeWord s rwOnly a v) := by
  unfold writeWord
  try dsimp only
  repeat' first
    | with_reducible
        first
        | assumption | intro _ | apply keep_ite | apply keep_writeRwWord | apply keep_clearW1c
    | split
    | with_reducible first | apply keep_rec | rfl

theorem keep_writeDieWord {r₀ s : State} (kp : Keep r₀ s) (oper rwOnly : Bool) (a v : Nat) :
    Keep r₀ (writeDieWord s oper rwOnly a v) := by
  unfold writeDieWord
  try dsimp only
  repeat' first
    | with_reducible
        first
        | assumption | intro _ | apply keep_ite | apply keep_writeWord
    | split
    | with_reducible first | apply keep_rec | rfl

theorem keep_writeWords {r₀ s : State} (kp : Keep r₀ s) (eight : Bool) (a v : Nat) (f : State → Nat → Nat → State) (hf
    : ∀ t a1 a2, Keep r₀ t → Keep r₀ (f t a1 a2)) :
    Keep r₀ (writeWords eight a v f s) := by
  unfold writeWords
  try dsimp only
  repeat' first
    | with_reducible
        first
        | assumption | intro _ | apply keep_ite | apply hf
    | split
    | with_reducible first | apply keep_rec | rfl

theorem keep_writeMgrWord {r₀ s : State} (kp : Keep r₀ s) (a v : Nat) :
    Keep r₀ (writeMgrWord s a v) := by
  unfold writeMgrWord
  try dsimp only
  repeat' first
    | with_reducible
        first
        | assumption | intro _ | apply keep_ite | apply keep_foldl | apply keep_modSec
        | apply keep_settleTimeCtl | apply keep_writeWord
    | split
    | with_reducible first | apply keep_rec | rfl

theorem keep_outcomeState {r₀ s : State} {o : Res} (ho : KeepRes r₀ o) : Keep r₀ (outcomeState s o) := by
  obtain ⟨t, rfl, h⟩ := ho
  exact h

theorem keep_mgrCommand {r₀ s : State} (kp : Keep r₀ s) (who : Requester) (a v : Nat) :
    ∀ t, (mgrCommand s who a v) = some t → Keep r₀ t := by
  intro t ht
  unfold mgrCommand at ht
  split at ht
  · cases ht
    split
    · exact keep_outcomeState (keep_execGtSetNow kp ..)
    · exact keep_outcomeState (keep_execGtSetNextSecond kp ..)
    · exact keep_outcomeState (keep_execGtSetCancel kp ..)
    · exact kp
  split at ht
  · cases ht; exact keep_outcomeState (keep_execPmSvcCtl kp ..)
  split at ht
  · cases ht; exact keep_outcomeState (keep_execKeyRevoke kp ..)
  split at ht
  · cases ht; exact keep_outcomeState (keep_execTraceStart kp ..)
  split at ht
  · cases ht
    split
    · exact keep_outcomeState (keep_execSettingsCommit kp ..)
    · exact keep_outcomeState (keep_execFwCommit (keep_drawChoice (keep_drawChoice kp _) _) ..)
    · exact kp
  split at ht
  · cases ht
    exact keep_ite (keep_outcomeState (keep_execFwUpdate kp ..)) kp
  · obtain ⟨k, _, hk⟩ := List.exists_of_findSome?_eq_some ht
    split at hk
    · cases hk; exact keep_outcomeState (keep_execPwrTokenAdd kp ..)
    · cases hk

theorem keep_operMgrWrite {r₀ s : State} (kp : Keep r₀ s) (who : Requester) (a v : Nat) :
    Keep r₀ (operMgrWrite s who a v) := by
  unfold operMgrWrite
  cases h : mgrCommand s who a v with
  | none => exact keep_writeMgrWord kp ..
  | some t => exact keep_mgrCommand kp _ _ _ _ h

theorem keep_dieWrite {r₀ s : State} (kp : Keep r₀ s) (oper rwOnly : Bool) (a v : Nat) :
    Keep r₀ (dieWrite s oper rwOnly a v) := by
  unfold dieWrite
  split
  · split
    · exact kp
    split
    · exact keep_outcomeState (keep_execSsLoad kp ..)
    · exact keep_outcomeState (keep_execSsCancel kp ..)
    · exact kp
  · exact keep_writeDieWord kp ..

theorem keep_regServe {r₀ s : State} (kp : Keep r₀ s) (site : Nat) (k : Packet) :
    Keep r₀ (regServe s site k) := by
  unfold regServe
  try dsimp only
  repeat' first
    | with_reducible
        first
        | assumption | intro _ | apply keep_ite | apply keep_write | apply keep_fromRegAgent | apply keep_homeRequest
        | apply keep_readDieWord | apply keep_readWords | apply keep_writeWords | apply keep_dieWrite
    | split
    | with_reducible first | apply keep_rec | rfl

theorem keep_execReg {r₀ s : State} (kp : Keep r₀ s) (p : AgentPort) :
    KeepRes r₀ (execReg p s) := by
  unfold execReg
  try dsimp only
  repeat' first
    | with_reducible
        first
        | assumption | intro _ | apply KeepRes.of | apply keep_ite | apply keepRes_ite | apply keep_serve
        | apply keep_seeEpoch | apply keep_regServe
    | split
    | with_reducible first | apply keep_rec | rfl

theorem keep_execRegRsp {r₀ s : State} (kp : Keep r₀ s) (e : EdgeId) :
    KeepRes r₀ (execRegRsp e s) := by
  unfold execRegRsp
  try dsimp only
  repeat' first
    | with_reducible
        first
        | assumption | intro _ | apply KeepRes.of | apply keep_ite | apply keepRes_ite | apply keep_emit
        | apply keep_serve
    | split
    | with_reducible first | apply keep_rec | rfl

theorem keep_execPmCmd {r₀ s : State} (kp : Keep r₀ s) (p : AgentPort) :
    KeepRes r₀ (execPmCmd p s) := by
  unfold execPmCmd
  try dsimp only
  repeat' first
    | with_reducible
        first
        | assumption | intro _ | apply KeepRes.of | apply keep_ite | apply keepRes_ite | apply keep_serve
        | apply keep_seeEpoch
    | split
    | with_reducible first | apply keep_rec | rfl

theorem keep_giveValue {r₀ : State} {x : Nat × State} (kp : Keep r₀ x.2) : Keep r₀ (giveValue x) := by
  exact keep_emit kp _

theorem keep_regFrom {r₀ s : State} (kp : Keep r₀ s) (b : Bool) (site : Nat) (payload : Bytes) :
    Keep r₀ (regFrom s b site payload) := by
  unfold regFrom
  try dsimp only
  repeat' first
    | with_reducible
        first
        | assumption | intro _ | apply keep_injectEdge
    | split
    | with_reducible first | apply keep_rec | rfl

theorem keep_operMemory {r₀ s : State} (kp : Keep r₀ s) (a : Nat) (write : Option Nat) (n : Nat) :
    Keep r₀ (operMemory s a write n) := by
  unfold operMemory
  try dsimp only
  repeat' first
    | with_reducible
        first
        | assumption | intro _ | apply keep_ite | apply keep_emit | apply keep_write | apply keep_countDebug
        | apply keep_hostReadBlock | apply keep_modifyBlock
    | split
    | with_reducible first | apply keep_rec | rfl

theorem keep_operSpad {r₀ s : State} (kp : Keep r₀ s) (a : Nat) (write : Option Nat) (n : Nat) :
    Keep r₀ (operSpad s a write n) := by
  unfold operSpad
  try dsimp only
  repeat' first
    | with_reducible
        first
        | assumption | intro _ | apply keep_ite | apply keep_emit | apply keep_write | apply keep_outsideWrite
        | apply keep_outsideRead | apply keep_countDebug
    | split
    | with_reducible first | apply keep_rec | rfl

theorem keep_operControl {r₀ s : State} (kp : Keep r₀ s) (b : Bool) (a : Nat) (write : Option Nat) (eight : Bool) :
    Keep r₀ (operControl s b a write eight) := by
  unfold operControl
  try dsimp only
  repeat' first
    | with_reducible
        first
        | assumption | intro _ | apply keep_ite | apply keep_emit | apply keep_write | apply keep_countDebug
        | apply keep_regFrom
    | split
    | with_reducible first | apply keep_rec | rfl

theorem keep_operDie {r₀ s : State} (kp : Keep r₀ s) (b : Bool) (a : Nat) (write : Option Nat) (eight : Bool) (req :
    Nat) :
    Keep r₀ (operDie s b a write eight req) := by
  unfold operDie
  try dsimp only
  repeat' first
    | with_reducible
        first
        | assumption | intro _ | apply keep_write | apply keep_countDebug | apply keep_regFrom
    | split
    | with_reducible first | apply keep_rec | rfl

theorem keep_operMgrAccess {r₀ s : State} (kp : Keep r₀ s) (who : Requester) (a : Nat) (write : Option Nat) (eight :
    Bool) :
    Keep r₀ (operMgrAccess s who a write eight) := by
  unfold operMgrAccess
  try dsimp only
  repeat' first
    | with_reducible
        first
        | assumption | intro _ | apply keep_write | apply keep_readMgrWord | apply keep_readWords
        | apply keep_writeWords | apply keep_operMgrWrite | apply keep_giveValue
    | split
    | with_reducible first | apply keep_rec | rfl

theorem keep_execDbgacc {r₀ s : State} (kp : Keep r₀ s) (b : Bool) (a : PAddr) (write : Option (BitVec 64)) (eight :
    Bool) :
    KeepRes r₀ (execDbgacc b a write eight s) := by
  unfold execDbgacc
  try dsimp only
  repeat' first
    | with_reducible
        first
        | assumption | intro _ | apply KeepRes.of | apply keep_ite | apply keepRes_ite | apply keep_write
        | apply keep_readWords | apply keep_giveValue | apply keep_operMemory | apply keep_operSpad
        | apply keep_operControl | apply keep_operDie | apply keep_operMgrAccess
    | split
    | with_reducible first | apply keep_rec | rfl

theorem keep_hostWrite {r₀ s : State} (kp : Keep r₀ s) (q : QuarterId) (a v : Nat) (eight : Bool) :
    Keep r₀ (hostWrite s q a v eight) := by
  unfold hostWrite
  try dsimp only
  repeat' first
    | with_reducible
        first
        | assumption | intro _ | apply keep_ite | apply keep_injectEdge | apply keep_execPwrTokenAdd
        | apply keep_writeWords | apply keep_outcomeState | apply keep_dieWrite | apply keep_operDie
        | apply keep_operMgrAccess
    | split
    | with_reducible first | apply keep_rec | rfl

theorem keep_bar4Write {r₀ s : State} (kp : Keep r₀ s) (q : QuarterId) (o n v : Nat) :
    Keep r₀ (bar4Write s q o n v) := by
  unfold bar4Write
  try dsimp only
  repeat' first
    | with_reducible
        first
        | assumption | intro _ | apply keep_ite | apply keep_outcomeState | apply keep_execMsgBufferDoorbell
        | apply keep_execMailboxDoorbell | apply keep_execDmaDoorbell | apply keep_bump | apply keep_modQtr
    | split
    | with_reducible first | apply keep_rec | rfl

theorem keep_bar0Write {r₀ s : State} (kp : Keep r₀ s) (q : QuarterId) (a n v : Nat) :
    Keep r₀ (bar0Write s q a n v) := by
  unfold bar0Write
  try dsimp only
  repeat' first
    | with_reducible
        first
        | assumption | intro _ | apply keep_ite | apply keep_bump | apply keep_hostWrite
    | split
    | with_reducible first | apply keep_rec | rfl

theorem keep_sizeBar2 {r₀ s : State} (kp : Keep r₀ s) (q v : Nat) :
    Keep r₀ (sizeBar2 s q v) := by
  unfold sizeBar2
  try dsimp only
  repeat' first
    | with_reducible
        first
        | assumption | intro _ | apply keep_ite | apply keep_modQtr
    | split
    | with_reducible first | apply keep_rec | rfl

theorem keep_execRegisterWrite {r₀ s : State} (kp : Keep r₀ s) (who : Requester) (a : PAddr) (v : BitVec 64) (how : RegWidth) :
    KeepRes r₀ (execRegisterWrite who a v how s) := by
  unfold execRegisterWrite
  try dsimp only
  repeat' first
    | with_reducible
        first
        | assumption | intro _ | apply KeepRes.of | apply keep_ite | apply keepRes_ite
        | apply keep_operMgrAccess | apply keep_operDie | apply keep_bar4Write | apply keep_sizeBar2
        | apply keep_bar0Write
    | split
    | with_reducible first | apply keep_rec | rfl

theorem keep_readsZero {r₀ s : State} (kp : Keep r₀ s) (who : Requester) :
    Keep r₀ (readsZero s who) := by
  unfold readsZero
  try dsimp only
  repeat' first
    | with_reducible
        first
        | assumption | intro _ | apply keep_toHost
    | split
    | with_reducible first | apply keep_rec | rfl

theorem keep_hostRead {r₀ s : State} (kp : Keep r₀ s) (q : QuarterId) (a : Nat) (eight : Bool) :
    Keep r₀ (hostRead s q a eight) := by
  unfold hostRead
  try dsimp only
  repeat' first
    | with_reducible
        first
        | assumption | intro _ | apply keep_ite | apply keep_operMgrAccess | apply keep_giveValue
        | apply keep_readWords | apply keep_readMgrWord | apply keep_operDie | apply keep_readsZero
        | apply keep_readDieWord | apply keep_injectEdge
    | split
    | with_reducible first | apply keep_rec | rfl

theorem keep_bar0Read {r₀ s : State} (kp : Keep r₀ s) (q : QuarterId) (o n : Nat) :
    Keep r₀ (bar0Read s q o n) := by
  unfold bar0Read
  try dsimp only
  repeat' first
    | with_reducible
        first
        | assumption | intro _ | apply keep_ite | apply keep_bump | apply keep_emit | apply keep_hostRead
        | apply keep_readsZero
    | split
    | with_reducible first | apply keep_rec | rfl

theorem keep_bar4Read {r₀ s : State} (kp : Keep r₀ s) (q : QuarterId) (o n : Nat) :
    Keep r₀ (bar4Read s q o n) := by
  unfold bar4Read
  try dsimp only
  repeat' first
    | with_reducible
        first
        | assumption | intro _ | apply keep_ite | apply keep_bump | apply keep_emit | apply keep_readsZero
    | split
    | with_reducible first | apply keep_rec | rfl

theorem keep_configRead {r₀ s : State} (kp : Keep r₀ s) (q : QuarterId) (r : ConfigReg) :
    Keep r₀ (configRead s q r) := by
  unfold configRead
  try dsimp only
  repeat' first
    | with_reducible
        first
        | assumption | intro _ | apply keep_ite | apply keep_emit | apply keep_toHost
    | split
    | with_reducible first | apply keep_rec | rfl

theorem keep_execGtNsecRead {r₀ s : State} (kp : Keep r₀ s) (who : Requester) (blk : GtBlock) :
    KeepRes r₀ (execGtNsecRead who blk s) := by
  unfold execGtNsecRead
  try dsimp only
  repeat' first
    | with_reducible
        first
        | assumption | intro _ | apply KeepRes.of | apply keep_ite | apply keepRes_ite | apply keep_when
        | apply keep_countDebug | apply keep_latchSeconds | apply keep_emit | apply keep_readsZero
        | apply keep_latchPanel | apply keep_bar0Read | apply keep_bar4Read | apply keep_configRead
    | split
    | with_reducible first | apply keep_rec | rfl

theorem keep_passFirst {r₀ s : State} (kp : Keep r₀ s) (c cls : Nat) (p : Packet) (more : Bool) :
    Keep r₀ (passFirst s c cls p more) := by
  unfold passFirst
  try dsimp only
  repeat' first
    | with_reducible
        first
        | assumption | intro _ | apply keep_ite | apply keep_injectClu | apply keep_charge | apply keep_endBucketWait
        | apply keep_startBucketWait
    | split
    | with_reducible first | apply keep_rec | rfl

theorem keep_passCluster {r₀ s : State} (kp : Keep r₀ s) (c cls : Nat) :
    Keep r₀ (passCluster s c cls) := by
  unfold passCluster
  try dsimp only
  repeat' first
    | with_reducible
        first
        | assumption | intro _ | apply keep_ite | apply keep_setCl | apply keep_endBucketWait | apply keep_copySlot
        | apply keep_passFirst
    | split
    | with_reducible first | apply keep_rec | rfl

theorem keep_execBucketDebtRepaid {r₀ s : State} (kp : Keep r₀ s) (b : BucketId) :
    KeepRes r₀ (execBucketDebtRepaid b s) := by
  unfold execBucketDebtRepaid
  try dsimp only
  repeat' first
    | with_reducible
        first
        | assumption | intro _ | apply KeepRes.of | apply keep_ite | apply keepRes_ite | apply keep_advFab
        | apply keep_admitNext | apply keep_passCluster
    | split
    | with_reducible first | apply keep_rec | rfl

/-! ### Machine/Clock.lean -/

theorem keep_idleCycle {r₀ s : State} (kp : Keep r₀ s) :
    Keep r₀ (idleCycle s) := by
  unfold idleCycle
  try dsimp only
  repeat' first
    | with_reducible
        first
        | assumption | intro _ | apply keep_advFab
    | split
    | with_reducible first | apply keep_rec | rfl

end Sys2Proof.Machine
end

