-- ==== Sys2Proof/Laws/Units.lean ====
section
/-! SUPPORT. What the work of a unit's MMAs and VOPs leaves as it is, said once for every operation it is made of. -/

namespace Sys2Proof.Machine

/-- An issued descriptor apart from the progress of its accesses. -/
def Issued.bare (e : Issued) : Issued := { e with todo := [], shift := 0, img := [], lane := {} }

/-- t differs from s in memory, counters and the contents of units alone; which descriptors stand in each unit, and since when,
is the same. -/
structure UnitOnly (s t : State) : Prop where
  same : t = { s with units := t.units, regs := t.regs, mem := t.mem }
  issued : ∀ u, (t.un u).issued.map Issued.bare = (s.un u).issued.map Issued.bare
  uq : ∀ u, (t.un u).uq = (s.un u).uq

theorem UnitOnly.refl (s : State) : UnitOnly s s := ⟨rfl, fun _ => rfl, fun _ => rfl⟩

variable {r s t : State}

theorem UnitOnly.trans (h : UnitOnly r s) (k : UnitOnly s t) : UnitOnly r t :=
  ⟨k.same.trans (by rw [h.same]), fun u => (k.issued u).trans (h.issued u), fun u => (k.uq u).trans (h.uq u)⟩

theorem UnitOnly.cl (h : UnitOnly s t) (k : Nat) : t.cl k = s.cl k := by rw [h.same]; rfl

theorem UnitOnly.fab (h : UnitOnly s t) : t.fab = s.fab := by rw [h.same]

theorem UnitOnly.ite {c : Prop} [Decidable c] (h : UnitOnly r s) (k : UnitOnly r t) : UnitOnly r (if c then s else t) := by
  split
  · exact h
  · exact k

theorem UnitOnly.foldl {α : Type} (f : State → α → State) (hf : ∀ s a, UnitOnly s (f s a)) (l : List α) (s : State) :
    UnitOnly s (l.foldl f s) := by
  induction l generalizing s with
  | nil => exact .refl s
  | cons a l ih => exact (hf s a).trans (ih _)

theorem unitOnly_bumpBy (s : State) (a n : Nat) : UnitOnly s (s.bumpBy a n) := by
  refine ⟨?_, fun _ => by simp, fun _ => by simp⟩
  unfold State.bumpBy; split <;> rfl

theorem unitOnly_bump (s : State) (a : Nat) : UnitOnly s (s.bump a) := unitOnly_bumpBy s a 1

theorem unitOnly_setReg (s : State) (a v : Nat) : UnitOnly s (s.setReg a v) := ⟨rfl, fun _ => rfl, fun _ => rfl⟩

theorem unitOnly_write (s : State) (a : Nat) (bs : Bytes) : UnitOnly s (s.write a bs) := ⟨rfl, fun _ => rfl, fun _ => rfl⟩

theorem unitOnly_clear (s : State) (a n : Nat) : UnitOnly s (s.clear a n) := ⟨rfl, fun _ => rfl, fun _ => rfl⟩

theorem unitOnly_modUn (s : State) (u : Nat) (f : UnitState → UnitState)
    (h1 : ∀ x, (f x).issued.map Issued.bare = x.issued.map Issued.bare) (h2 : ∀ x, (f x).uq = x.uq) : UnitOnly s (s.modUn u f) := by
  refine ⟨rfl, fun k => ?_, fun k => ?_⟩ <;> rw [State.modUn, State.setUn_un] <;> split <;> subst_vars <;> simp [h1, h2]

theorem map_mapFirst {α β : Type} (p : α → Bool) (f : α → α) (g : α → β) (h : ∀ a, g (f a) = g a) :
    ∀ l : List α, (mapFirst p f l).map g = l.map g
  | [] => rfl
  | a :: l => by
    unfold mapFirst
    split
    · simp [h]
    · simp [map_mapFirst p f g h l]

theorem unitOnly_modIssued (s : State) (u did : Nat) (f : Issued → Issued) (h : ∀ e, (f e).bare = e.bare) :
    UnitOnly s (modIssued s u did f) :=
  unitOnly_modUn _ _ _ (fun _ => map_mapFirst _ _ _ h _) fun _ => rfl

theorem unitOnly_spadWrite (s : State) (u o : Nat) (bs : Bytes) : UnitOnly s (spadWrite s u o bs) := by
  unfold spadWrite
  exact unitOnly_write ..

theorem unitOnly_putElem (s : State) (u : Nat) (f : Format) (tile r e v : Nat) : UnitOnly s (putElem s u f tile r e v) := by
  unfold putElem
  dsimp only
  split <;> exact unitOnly_spadWrite ..

theorem unitOnly_countCvt (s : State) (u : Nat) (c : CvtCount) : UnitOnly s (countCvt s u c) :=
  (unitOnly_bumpBy ..).trans (unitOnly_bumpBy ..)

theorem unitOnly_putRow (s : State) (u : Nat) (d : Desc) (f : Format) (r : Nat) (vs : List Nat) : UnitOnly s (putRow s u d f r vs) := by
  unfold putRow
  dsimp only
  split
  · exact UnitOnly.foldl _ (fun _ _ => unitOnly_putElem ..) _ _
  · exact unitOnly_spadWrite ..

theorem unitOnly_putScale (s : State) (u : Nat) (d : Desc) (f : Format) (r i sc : Nat) : UnitOnly s (putScale s u d f r i sc) :=
  unitOnly_spadWrite ..

theorem unitOnly_writeRow (s : State) (u : Nat) (e : Issued) (r : Nat) : UnitOnly s (writeRow s u e r) := by
  unfold writeRow
  dsimp only
  split
  · split
    · exact unitOnly_putRow ..
    · split
      · split
        · refine UnitOnly.trans (.ite (UnitOnly.foldl _ (fun _ _ => ?_) _ _) (.refl _)) (unitOnly_putRow ..)
          exact (unitOnly_putScale ..).trans (unitOnly_countCvt ..)
        · exact (((unitOnly_putScale ..).trans (unitOnly_countCvt ..)).trans ((unitOnly_putScale ..).trans (unitOnly_countCvt ..))).trans
            (unitOnly_putRow ..)
      · exact (unitOnly_countCvt ..).trans (unitOnly_putRow ..)
  · exact unitOnly_modUn _ _ _ (fun _ => rfl) (fun _ => rfl)
  · exact unitOnly_modUn _ _ _ (fun _ => rfl) (fun _ => rfl)
  · exact unitOnly_modUn _ _ _ (fun _ => rfl) (fun _ => rfl)
  · exact .refl _

/-! ### Tags and Shadow marks -/

/-- A unit apart from its tags and its Shadow marks. -/
def UnitState.noTags (x : UnitState) : UnitState := { x with full := [], dirty := [], sets := [] }

/-- t differs from s in tags and Shadow marks of units alone. -/
structure TagsOnly (s t : State) : Prop where
  same : t = { s with units := t.units }
  un : ∀ u, (t.un u).noTags = (s.un u).noTags

theorem TagsOnly.refl (s : State) : TagsOnly s s := ⟨rfl, fun _ => rfl⟩

theorem TagsOnly.trans (h : TagsOnly r s) (k : TagsOnly s t) : TagsOnly r t :=
  ⟨k.same.trans (by rw [h.same]), fun u => (k.un u).trans (h.un u)⟩

theorem TagsOnly.foldl {α : Type} (f : State → α → State) (hf : ∀ s a, TagsOnly s (f s a)) (l : List α) (s : State) :
    TagsOnly s (l.foldl f s) := by
  induction l generalizing s with
  | nil => exact .refl s
  | cons a l ih => exact (hf s a).trans (ih _)

theorem tagsOnly_modUn (s : State) (u : Nat) (f : UnitState → UnitState) (h : ∀ x, (f x).noTags = x.noTags) : TagsOnly s (s.modUn u f) := by
  refine ⟨rfl, fun k => ?_⟩
  rw [State.modUn, State.setUn_un]
  split
  · subst_vars; exact h _
  · rfl

theorem tagsOnly_markDirty (s : State) (u slot : Nat) : TagsOnly s (markDirty s u slot) := by
  unfold markDirty
  split
  · exact .refl _
  · split
    · exact .refl _
    · split
      · exact tagsOnly_modUn _ _ _ fun _ => rfl
      · exact .refl _

theorem noTags_applyTag (a : Access) (x : UnitState) (slot : Nat) : (applyTag a x slot).noTags = x.noTags := by
  unfold applyTag
  split
  · split <;> rfl
  · rfl

theorem tagsOnly_tagSlot (s : State) (u : Nat) (a : Access) (slot : Nat) : TagsOnly s (tagSlot s u a slot) := by
  have h := tagsOnly_modUn s u (fun x => applyTag a x slot) (fun x => noTags_applyTag a x slot)
  unfold tagSlot
  dsimp only
  split
  · exact h
  · exact h.trans (tagsOnly_markDirty ..)

theorem tagsOnly_tagDone (s : State) (u : Nat) (d : Desc) (slot : Nat) : TagsOnly s (tagDone s u d slot) :=
  TagsOnly.foldl _ (fun _ _ => tagsOnly_tagSlot ..) _ _

theorem TagsOnly.unitOnly (h : TagsOnly s t) : UnitOnly s t := by
  refine ⟨by rw [h.same], fun u => ?_, fun u => ?_⟩
  · have := congrArg UnitState.issued (h.un u)
    exact congrArg (List.map Issued.bare) this
  · have := congrArg UnitState.uq (h.un u)
    exact this

/-! ### One access, one clock, all that is due -/

theorem unitOnly_takeIn (s : State) (u did k off len : Nat) : UnitOnly s (takeIn s u did k off len) := by
  unfold takeIn
  exact unitOnly_modIssued _ _ _ _ fun _ => rfl

theorem unitOnly_takeColumn (s : State) (u did k fmt tile q j : Nat) : UnitOnly s (takeColumn s u did k fmt tile q j) := by
  unfold takeColumn
  exact UnitOnly.foldl _ (fun _ _ => unitOnly_takeIn ..) _ _

theorem unitOnly_accessEffect (s : State) (u : Nat) (e : Issued) (k : AccessKind) : UnitOnly s (accessEffect s u e k) := by
  unfold accessEffect
  dsimp only
  split
  · exact unitOnly_takeIn ..
  · exact unitOnly_takeColumn ..
  · exact unitOnly_takeIn ..
  · exact (UnitOnly.ite (unitOnly_takeIn ..) (.refl _)).trans (unitOnly_takeColumn ..)
  · exact (unitOnly_bumpBy ..).trans (unitOnly_modIssued _ _ _ _ fun _ => rfl)
  · exact .refl _
  · exact (UnitOnly.foldl _ (fun _ _ => unitOnly_writeRow ..) _ _).trans
      (UnitOnly.foldl _ (fun _ _ => (tagsOnly_markDirty ..).unitOnly) _ _)
  · exact unitOnly_modUn _ _ _ (fun _ => rfl) fun _ => rfl

theorem unitOnly_makeAccess (s : State) (u did : Nat) (a : UnitAccess) : UnitOnly s (makeAccess s u did a) := by
  unfold makeAccess
  split
  · exact .refl _
  · rename_i e _
    exact ((unitOnly_accessEffect s u e a.kind).trans (unitOnly_modIssued _ u did
      (fun f => { f with todo := e.todo.filter (· != a) }) fun _ => rfl)).trans
      (UnitOnly.foldl _ (fun _ _ => (tagsOnly_tagDone ..).unitOnly) _ _)

theorem unitOnly_vopPhase (writes : Bool) (u t : Nat) (v : State × Bool) (did : Nat) :
    UnitOnly v.1 (vopPhase writes u t v did).1 := by
  unfold vopPhase
  split
  · exact .refl _
  · rename_i e _
    have : ∀ (l : List UnitAccess) (w : State × Bool), UnitOnly w.1 (l.foldl (fun v a =>
        let port := if writes then usesWrite e.d a.kind else usesRead e.d a.kind
        if (port && v.2) || waitsLanes (v.1.un u) e t a then v else (makeAccess v.1 u did a, v.2 || port)) w).1 := by
      intro l
      induction l with
      | nil => exact fun w => .refl _
      | cons a l ih =>
        intro w
        refine UnitOnly.trans ?_ (ih _)
        have k : ∀ b c : Bool, UnitOnly w.1 (if b then w else (makeAccess w.1 u did a, c)).1 := by
          intro b c
          cases b
          · exact unitOnly_makeAccess ..
          · exact .refl _
        exact k _ _
    exact this _ _

theorem unitOnly_vopWait (u t : Nat) (s : State) (did : Nat) : UnitOnly s (vopWait u t s did) := by
  unfold vopWait
  split
  · exact .refl _
  · dsimp only
    split
    · exact .refl _
    · have h := unitOnly_modIssued s u did (fun e => { e with shift := e.shift + 1 }) fun _ => rfl
      split
      · exact h.trans (unitOnly_bump ..)
      · exact h

theorem unitOnly_vopPhases (writes : Bool) (u t : Nat) (l : List Nat) (v : State × Bool) :
    UnitOnly v.1 (l.foldl (vopPhase writes u t) v).1 := by
  induction l generalizing v with
  | nil => exact .refl _
  | cons a l ih => exact (unitOnly_vopPhase ..).trans (ih _)

theorem unitOnly_unitClock (u : Nat) (s : State) (t : Nat) : UnitOnly s (unitClock u s t) := by
  unfold unitClock
  dsimp only
  refine UnitOnly.trans ?_ (UnitOnly.foldl _ (fun _ _ => unitOnly_vopWait ..) _ _)
  refine UnitOnly.trans ?_ (unitOnly_vopPhases ..)
  refine UnitOnly.trans ?_ (unitOnly_vopPhases ..)
  exact (UnitOnly.ite (unitOnly_bump ..) (.refl _)).trans (UnitOnly.foldl _ (fun _ _ => unitOnly_makeAccess ..) _ _)

theorem unitOnly_sweep (s : State) (u upto : Nat) : UnitOnly s (sweep s u upto) := by
  unfold sweep
  dsimp only
  split
  · exact (unitOnly_clear ..).trans (unitOnly_modUn _ _ _ (fun _ => rfl) fun _ => rfl)
  · exact .refl _

/-- The unit's own work up to a clock touches memory, counters and the insides of units alone. -/
theorem unitOnly_catchUp (s : State) (u upto : Nat) : UnitOnly s (catchUp s u upto) := by
  unfold catchUp
  dsimp only
  split
  · exact unitOnly_sweep ..
  · exact ((unitOnly_sweep ..).trans (UnitOnly.foldl _ (fun _ _ => unitOnly_unitClock ..) _ _)).trans
      (unitOnly_modUn _ _ _ (fun _ => rfl) fun _ => rfl)

theorem unitOnly_atPresent (s : State) (u : Nat) : UnitOnly s (atPresent s u) := unitOnly_catchUp ..

end Sys2Proof.Machine
end

