-- ==== Sys2Proof/WellFormed.lean ====
section
/-! DEFINITION. Which commands name something the outside world can do: lengths, ranges and alignments that the operands'
types do not carry. -/

namespace Sys2Proof

/-- A flit is 256 bytes (R317). -/
def flitWf (flit : Flit) : Bool := flit.bytes.length == 256

/-- A block address of a stack: β is below 2^26 (R181). -/
def betaWf (beta : Nat) : Bool := decide (beta < 0x4000000)

/-- An upset reported for the array names elements of the accumulator buffers: two buffers of 64 rows and 64 columns
(R63, R90). -/
def upsetWf (upset : List (Nat × BitVec 32)) : Bool := upset.all fun x => decide (x.1 < 8192)

/-- Noise is named by port and position: six ports of two positions (R206, R207). -/
def hitsWf (hits : List (Nat × Hit)) : Bool := hits.all fun h => decide (h.1 < 12)

/-- A telemetry read hears of each of the 22 devices at most once, and of at most 30 phases of a VCORE group (R437, R443). -/
def readingsWf (rs : List Reading) : Bool :=
  rs.all (fun r => decide (r.dev < 22 ∧ r.phases ≤ 30)) && decide ((rs.map (·.dev)).Nodup)

/-- An image has the field sizes of R464. -/
def imageWf (x : Image) : Bool :=
  x.pubKey.length == 97 && x.bodyHash.length == 48 && x.sig.length == 96 && x.signed.length == 0xB0
    && decide (x.svn < 256 ∧ x.step < 256 ∧ x.schemaMin < 65536 ∧ x.schemaMax < 65536 ∧ x.keyIdx < 256 ∧ x.version < 2 ^ 32)

/-- An access of 4 or 8 bytes is aligned to its size (R4). -/
def alignedWf (a : PAddr) (eight : Bool) : Bool := a.toNat % (if eight then 8 else 4) == 0

/-- Sessions of an endpoint are numbered 0 to 3 (R475). -/
def sessionWf (n : Nat) : Bool := decide (n < 4)

/-- The bytes that a DMA read of host memory brings: LEN, and 32 of header before an H2P_DECRYPT's (R352, R479). -/
def dmaDataWf (desc : BitVec 256) (extra : Nat) (data : Option Bytes) : Bool :=
  match data with | none => true | some bs => bs.length == extra + desc.toNat / 2 ^ 32 % 2 ^ 32

/-- A register write: what a TAP or a sequencer writes is 4 or 8 bytes, aligned; a host may write any size (R342, R349). -/
def registerWriteWf (who : Requester) (a : PAddr) : RegWidth → Bool
  | .four => alignedWf a false || (match who with | .host _ => true | _ => false)
  | .eight => alignedWf a true || (match who with | .host _ => true | _ => false)
  | .other n => (match who with | .host _ => decide (n ≠ 4 ∧ n ≠ 8) | _ => false)
  | .bar4 n => (match who with | .host _ => decide (a.toNat + n ≤ 0x4000) | _ => false)
  | .config => (match who with | .host _ => true | _ => false)

/-- Is a command well formed? -/
def Instr.wf : Instr → Bool
  | .flitHeartbeat _ f => flitWf f
  | .flitData _ f => flitWf f
  | .flitCredit _ f => flitWf f
  | .flitIdle _ f => flitWf f
  | .flitLpi _ f => flitWf f
  | .mrDramReadDone _ beta _ _ _ _ => betaWf beta
  | .mrWriteDone _ beta => betaWf beta
  | .mmaComplete _ _ upset => upsetWf upset
  | .routerSlot _ hits => hitsWf hits
  | .laneRecalDone _ lo hi => decide (lo ≤ 2112 ∧ hi ≤ 2112)
  | .telemetryRead rs => readingsWf rs
  | .streamValidate _ header _ => match header with | some h => h.length == 48 | none => true
  | .bar2Read _ ofs len => decide (0 < len.val ∧ ofs.toNat + len.val ≤ 2 ^ 36)
  | .bar2Write _ ofs data => decide (0 < data.length ∧ data.length ≤ 4096 ∧ ofs.toNat + data.length ≤ 2 ^ 36)
  | .bar2Atomic _ ofs _ _ => ofs.toNat % 8 == 0
  | .h2p _ _ desc data => dmaDataWf desc 0 data
  | .h2pDecrypt _ _ desc data => dmaDataWf desc 32 data
  | .mailboxDoorbell _ _ _ _ payload => decide (payload.length ≤ 4032)
  | .remoteTimeout _ _ tag => decide (tag < 4096)
  | .tagQuarantineEnd _ _ tag => decide (tag < 4096)
  | .fwUpdate _ image _ => match image with | some x => imageWf x | none => true
  | .spdmKeyExchange _ key => match key with | some k => k.length == 97 | none => true
  | .keySet _ session _ _ _ => sessionWf session
  | .keyErase _ session _ => sessionWf session
  | .spdmEndSession _ session => sessionWf session
  | .dbgacc _ a _ eight => alignedWf a eight
  | .registerWrite who a _ how => registerWriteWf who a how
  | .coldReset .. | .bringupStepTimeout .. | .regionWake .. | .headerStageCheck .. | .regionPowerGood ..
  | .headerOpenCheck .. | .fwFetch .. | .dayChecksDone .. | .dayChange .. | .pmSvcCtl .. | .warmRstN ..
  | .warmResetStart .. | .tickEdge .. | .tickStart .. | .beaconSend .. | .beacon .. | .beaconMiss .. | .beaconLoss ..
  | .ppsEdge .. | .ppsMiss .. | .gtNsecRead .. | .gtSetNow .. | .gtSetNextSecond .. | .gtSetCancel .. | .timeSetApply ..
  | .eqxPost .. | .eqxAck .. | .eqxAckWindowEnd .. | .eqxRampDone .. | .eqxGo .. | .eqxFreqChange .. | .eqxVoltageLower ..
  | .keeperFallback .. | .supplyDroop .. | .droopStall .. | .add .. | .sub .. | .and .. | .or .. | .xor .. | .sll ..
  | .srl .. | .sra .. | .slt .. | .sltu .. | .mul .. | .mulhu .. | .addi .. | .slti .. | .andi .. | .ori .. | .xori ..
  | .lui .. | .lw .. | .sw .. | .beq .. | .bne .. | .blt .. | .bltu .. | .jal .. | .jalr .. | .disp .. | .dispm ..
  | .dispatchStallRelease .. | .waitg .. | .waitgSatisfied .. | .grd .. | .qrd .. | .qcnt .. | .hslot .. | .hend ..
  | .fend .. | .csrr .. | .csrw .. | .fence .. | .fenceSatisfied .. | .dispatchHeadDepart .. | .mma ..
  | .tagWaitSatisfied .. | .vopMov .. | .vopAdd .. | .vopSub .. | .vopMul .. | .vopFma .. | .vopMin .. | .vopMax ..
  | .vopAbs .. | .vopNeg .. | .vopDiv .. | .vopRcp .. | .vopSqrt .. | .vopRsqrt .. | .vopExp2 .. | .vopLog2 ..
  | .vopTanh .. | .vopRowsum .. | .vopRowmax .. | .vopColsum .. | .vopColmax .. | .vopCmpx .. | .vopComplete .. | .load ..
  | .store .. | .send .. | .redAccumulate .. | .redRead .. | .redReadClear .. | .waitGroupGe .. | .waitQueueNe ..
  | .waitFrameTime .. | .waitTagFull .. | .waitTagEmpty .. | .waitSatisfied .. | .commit .. | .commitEvaluate ..
  | .commitCas .. | .descComplete .. | .seGenerateRequest .. | .rd .. | .wr .. | .rdData .. | .wrAck .. | .msg ..
  | .msgAppend .. | .msgIncompleteDiscard .. | .msgDequeue .. | .credit .. | .cohGets .. | .cohGetm .. | .cohPutm ..
  | .cohFwdgets .. | .cohFwdgetm .. | .cohInv .. | .cohInvack .. | .cohData .. | .cohUnblock .. | .cohPutack ..
  | .cohRecall .. | .atom .. | .atomRsp .. | .scrubRead .. | .scrubLockRetry .. | .mrTempSample .. | .laneLossOfLock ..
  | .ejectFullTimeout .. | .ejectSuspendEnd .. | .cmapLatch .. | .glintTake .. | .glintReq .. | .glintRec ..
  | .glintRecordTimeout .. | .ingressReqAdmit .. | .accumulateRow .. | .readRow .. | .readClearRow .. | .replayRunStart ..
  | .replayRunEnd .. | .ssLoad .. | .ssCancel .. | .heartbeatSend .. | .portLost .. | .portTrainDone .. | .portTrainFail ..
  | .egressSend .. | .transportReqArrive .. | .transportRspArrive .. | .dmaDoorbell .. | .p2h .. | .dmaZero ..
  | .dmaComplete .. | .dmaEngineDisable .. | .msgBufferDoorbell .. | .hostMsgPublish .. | .hostMsgDrop .. | .eclipse ..
  | .eclipseAbsorbEnd .. | .eclipseComplete .. | .compatUnit .. | .compatCluster .. | .compatPartition .. | .compatPanel ..
  | .warmReset .. | .drainComplete .. | .drainTimeout .. | .pstateDay .. | .pstateDim .. | .pstateDusk .. | .pstateDark ..
  | .pstateEntryDone .. | .selfRefreshEntry .. | .pstateWakeDone .. | .maintRequestRetest .. | .maintRequestRecal ..
  | .maintLockEvaluate .. | .retestDone .. | .spareIn .. | .spareCheckDone .. | .spareCopyDone .. | .tenantClear ..
  | .tenantClearPass .. | .defectMap .. | .halt .. | .shadowCopy .. | .mrPoll .. | .pmHeartbeatSend .. | .pmHb ..
  | .pmHbMiss .. | .journalAckTimeout .. | .pmTakeover .. | .qcPmLost .. | .domainFault .. | .softstartTimeout ..
  | .ref25Loss .. | .fdaAssert .. | .fdaDeassert .. | .fdaLong .. | .dieEnergyLatch .. | .dieTempSample ..
  | .edgeTempSample .. | .coolantRead .. | .inletLost .. | .thermalFit .. | .governorEvaluate .. | .opsGather ..
  | .pwrTokenAdd .. | .ledgerSecond .. | .snapshotDue .. | .cntLatch .. | .cntRec .. | .snapshotRecordTimeout ..
  | .slack .. | .vouch .. | .test .. | .delayEcho .. | .fwDigest .. | .pmCmd .. | .reg .. | .regRsp .. | .pcieLinkDown ..
  | .settingsCommit .. | .fwCommit .. | .keyRevoke .. | .spdmGetMeasurements .. | .traceStart .. | .bypass .. | .idcode ..
  | .samplePreload .. | .extest .. | .spadClearDone .. | .pminRaiseRetry .. | .bucketDebtRepaid .. | .domainPowerGood ..
  | .bringupStepEnd .. | .droopRecovery .. => true

end Sys2Proof
end

