-- ==== Sys2Proof/Tests/Slice0.lean ====
section
/-! SUPPORT. Tests of the model on small states: ill-formed commands that the checks of WellFormed refuse, LVS words written out
from R135 to R138, single commands and worked examples against the spec's words, and for every statement a witness that meets the hypotheses of each
of its clauses. -/

namespace Sys2Proof.Machine

set_option Elab.async false

/-! ### Small states -/

/-- A region whose headers are closed and whose clock runs. -/
def onRegion : Region := { hdr := 2, mhz := 2000 }

/-- A sequencer that may execute, its registers s1 = 1 and s2 = −1. -/
def runSeq : Cluster := { seq := .run, s := [(1, 1), (2, 0xFFFFFFFF)] }

/-- The stream in force of the test partition: its clusters' image has one handler slot of 100 clocks and 1 message, and the
handler of queue 0 at word 64; queue 0 of logical cluster 0 has one channel of two credits. -/
def testCfg : StreamCfg :=
  { qmask := 1, period := 4
    queues := [{ clu := 0, queue := 0, unit := 0, ring := 0, segRows := 2, chans := [(0, 0, false, false, 2)] }]
    outs := [{ clu := 0, dpanel := 0, dclu := 0, dque := 0, remote := false, nextph := false, credits := 2, segRows := 2, firstSeg := 0 }]
    places := [{ base := 0, length := 0x40000000, offset := 0x4000000, scope := 0, target := 0 }]
    reds := [{ base := 0x46000000000, length := 0x10000, aoff := 0x80000000, scope := 0, target := 0, width := 0, ebase := 0, span := 64 }]
    scheds := [{ clu := 0x3FF, offset := 0, length := 1024, digest := 0
                 image := zeros 0x10 ++ leBytes 4 1 ++ leBytes 4 100 ++ leBytes 2 1 ++ zeros 0x66 ++ leBytes 2 64 }] }

/-- A panel in service: manager A active, quarter 0 a partition of its own in Day, die 0 at logical position 0, its first region
on, its buckets at a rate, and the cluster x, unit y and stack z where numbered 0. -/
def panel (x : Cluster := {}) (y : UnitState := {}) (z : Stack := {}) : State :=
  { clusters := [(0, x)], units := [(0, y)], mrs := [(0, z)], regions := [(0, onRegion)]
    buckets := [0, 1, 2, bucketOfEdge 0].map fun b => (b, { rate := 1 })
    parts := [{ qmask := 1, cfg := testCfg, period := 1000 }], fields := [(0, { map := [some 0] })]
    quarters := [(0, { svc := 2, pcieUp := true })], mgr := { active := some false, step := 10 }, instA := { booted := true } }

/-- The state with a packet at the head of an agent port's ejection buffer. -/
def State.box (s : State) (at_ : Nat × Nat) (p : Packet) : State := s.modRtr at_.1 fun r => { r with eject := [(at_.2, p)] }

/-- The panel with the word w at address 0 of the schedule memory of cluster 0. -/
def lvsState (w : Nat) (x : Cluster := runSeq) : State := (panel x).write (schedAt 0 0) (leBytes 4 w)

/-! ### Well-formedness: one ill-formed command for each check -/

theorem test_wf_flit : Instr.wf (.flitData 0 ⟨zeros 255, 0, 0⟩) = false ∧ Instr.wf (.flitIdle 0 ⟨zeros 257, 0, 0⟩) = false ∧
    Instr.wf (.flitCredit 0 ⟨[], 0, 0⟩) = false ∧ Instr.wf (.flitLpi 0 ⟨[], 0, 0⟩) = false ∧
    Instr.wf (.flitHeartbeat 0 ⟨[], 0, 0⟩) = false := by decide +kernel
theorem test_wf_beta : Instr.wf (.mrWriteDone 0 0x4000000) = false ∧
    Instr.wf (.mrDramReadDone 0 0x4000000 .clean .clean .clean .clean) = false := by decide
theorem test_wf_upset : Instr.wf (.mmaComplete 0 0 [(8192, 1)]) = false := by decide
theorem test_wf_hits : Instr.wf (.routerSlot 0 [(12, .lost)]) = false := by decide
theorem test_wf_mailbox : Instr.wf (.mailboxDoorbell 0 0 1 0 (zeros 4033)) = false := by decide +kernel
theorem test_wf_image : Instr.wf (.fwUpdate (.tap false) (some ⟨0, 0, 0, 0, 0, 0, 0, zeros 96, zeros 48, zeros 96, zeros 0xB0, [], [], []⟩) true) = false := by
  decide +kernel
theorem test_wf_lanes : Instr.wf (.laneRecalDone (.link 0) 2113 0) = false ∧ Instr.wf (.laneRecalDone (.link 0) 0 2113) = false := by
  decide
theorem test_wf_telemetry : Instr.wf (.telemetryRead [⟨22, none, 0⟩]) = false := by decide
theorem test_wf_stream : Instr.wf (.streamValidate 0 (some (zeros 47)) none) = false := by decide
theorem test_wf_bar2 : Instr.wf (.bar2Read 0 0 0) = false ∧ Instr.wf (.bar2Write 0 0xFFFFFFFFF [0, 0]) = false ∧
    Instr.wf (.bar2Atomic 0 4 0 0) = false := by decide
theorem test_wf_dma : Instr.wf (.h2p 0 0 (BitVec.ofNat 256 (2 ^ 32)) (some [])) = false ∧
    Instr.wf (.h2pDecrypt 0 0 (BitVec.ofNat 256 (2 ^ 32)) (some [0])) = false := by decide
theorem test_wf_tag : Instr.wf (.remoteTimeout 0 true 4096) = false ∧ Instr.wf (.tagQuarantineEnd 0 true 4096) = false := by decide
theorem test_wf_session : Instr.wf (.keySet 0 4 0 0 0) = false ∧ Instr.wf (.keyErase 0 4 0) = false ∧
    Instr.wf (.spdmEndSession 0 4) = false ∧ Instr.wf (.spdmKeyExchange 0 (some [0])) = false := by decide
theorem test_wf_access : Instr.wf (.dbgacc false 2 none false) = false ∧ Instr.wf (.registerWrite (.tap false) 4 0 .eight) = false ∧
    Instr.wf (.registerWrite (.host 0) 0 0 (.other 4)) = false := by decide +kernel

/-! ### The words of R135 to R138 -/

/-- No row of the table has bits, so no word spells a command. -/
theorem test_no_table_word : Sys2Proof.decodeTableWord 32 0 = none ∧ State.reset.withFetchWord 32 0 = State.reset := by decide
theorem test_decode_undefined : lvsDecode 0 0b000000_000001_000010_000011_00001100 = .error 1 ∧
    lvsDecode 0 0b000111_000001_000010_00000000000000 = .error 1 := by decide
theorem test_decode_reserved : lvsDecode 0 0b111000_000000_000001_00000000000000 = .error 5 ∧
    lvsDecode 0 0b110110_000000_000000_00000000001000 = .error 5 := by decide

/-! ### Witnesses: every command, and the sequencer -/

theorem test_witness_StepRunsFront : ({ pending := [.coldReset, .ppsMiss] } : State).pending = .coldReset :: [.ppsMiss] ∧
    State.reset.pending = [] := ⟨rfl, rfl⟩
theorem test_witness_CommandsKeepQueueMemoryAndOutputs : ∃ t, exec (.coldReset) State.reset = .next t ∧ memWf State.reset.mem = true :=
  ⟨_, rfl, rfl⟩
theorem test_witness_MemoryStaysCanonical : State.reset.memOk ∧ ∃ t, StepsTo State.reset t := ⟨rfl, _, rfl⟩
theorem test_witness_WhatResetsKeep : ({ mgr := { warmAt := some 7 } } : State).mgr.warmAt = some 7 ∧
    ({ fab := 7 } : State).fab ≠ 0 ∧ State.reset.fab = 0 := by decide +kernel
theorem test_witness_FusesAndRevokedKeysStand : ∃ t, StepsTo State.reset t := ⟨_, rfl⟩
theorem test_witness_TimeNeverRunsBack : (∃ t, StepsTo State.reset t) ∧ State.reset.pending.head? = none := ⟨⟨_, rfl⟩, rfl⟩

theorem test_witness_LvsDecodeEncode : LvsFits 0 (.waitg 0 1 15) ∧ LvsFits 0 (.qrd 0 63 63) ∧ LvsFits 0 (.hslot 0 7) ∧
    (0b111011_000000_000000_00000000000000 : Nat) < 2 ^ 32 ∧ lvsDecode 0 0b111011_000000_000000_00000000000000 = .ok (.fence 0) := by
  unfold LvsFits; decide

theorem test_witness_LvsRegisterOperations : ∀ p ∈ [
    (0b000000_000001_000010_000011_00000000, Instr.add 0 1 2 3), (0b000000_000000_111111_000001_00000001, .sub 0 0 63 1),
    (0b000000_000001_000010_000011_00000010, .and 0 1 2 3), (0b000000_000001_000010_000011_00000011, .or 0 1 2 3),
    (0b000000_000001_000010_000011_00000100, .xor 0 1 2 3), (0b000000_000001_000010_000011_00000101, .sll 0 1 2 3),
    (0b000000_000001_000010_000011_00000110, .srl 0 1 2 3), (0b000000_000001_000010_000011_00000111, .sra 0 1 2 3),
    (0b000000_000001_000010_000011_00001000, .slt 0 1 2 3), (0b000000_000001_000010_000011_00001001, .sltu 0 1 2 3),
    (0b000000_111111_000010_000011_00001010, .mul 0 63 2 3), (0b000000_000001_000010_000011_00001011, .mulhu 0 1 2 3)],
    LvsAt (lvsState p.1) 0 p.2 := by unfold LvsAt; decide +kernel

theorem test_witness_LvsImmediateOperations : ∀ p ∈ [
    (0b000001_000001_000010_10000000000000, Instr.addi 0 1 2 0x2000), (0b000010_000001_000010_00000000000011, .andi 0 1 2 3),
    (0b000011_000001_000010_11111111111111, .ori 0 1 2 0x3FFF), (0b000100_000001_000010_00000000000011, .xori 0 1 2 3),
    (0b000101_000000_000010_01111111111111, .slti 0 0 2 0x1FFF), (0b000110_000001_11111111111111111111, .lui 0 1 0xFFFFF)],
    LvsAt (lvsState p.1) 0 p.2 := by unfold LvsAt; decide +kernel

/-- Taken to pc itself, the lowest target inside; not taken; taken to pc − 4, outside. -/
theorem test_witness_LvsBranches :
    (∀ p ∈ [(0b010000_000001_000001_00000000000000, Instr.beq 0 1 1 0), (0b010000_000001_000001_11111111111111, .beq 0 1 1 0x3FFF),
      (0b010000_000001_000000_00000000000001, .beq 0 1 0 1), (0b010001_000001_000000_00000000000000, .bne 0 1 0 0),
      (0b010001_000001_000000_11111111111111, .bne 0 1 0 0x3FFF), (0b010001_000001_000001_00000000000001, .bne 0 1 1 1),
      (0b010010_000001_000010_00000000000000, .blt 0 1 2 0), (0b010010_000001_000010_11111111111111, .blt 0 1 2 0x3FFF),
      (0b010010_000010_000001_00000000000001, .blt 0 2 1 1), (0b010011_000010_000001_00000000000000, .bltu 0 2 1 0),
      (0b010011_000010_000001_11111111111111, .bltu 0 2 1 0x3FFF), (0b010011_000001_000010_00000000000001, .bltu 0 1 2 1)],
      LvsAt (lvsState p.1) 0 p.2) ∧
    lvsReg (lvsState 0) 0 1 = 1 ∧ lvsReg (lvsState 0) 0 2 = -1 ∧ lvsReg (lvsState 0) 0 0 = 0 ∧ runSeq.late = none ∧
    (runSeq.pc : Int) + 4 * (0 : Imm14).toInt = 0 ∧ (runSeq.pc : Int) + 4 * (0x3FFF : Imm14).toInt = -4 := by
  unfold LvsAt; decide +kernel

/-- Targets 0 and −4 of JAL; targets 0 and 0x1_0000 of JALR. -/
theorem test_witness_LvsJumps :
    (∀ p ∈ [(0b010100_000001_00000000000000000000, Instr.jal 0 1 0), (0b010100_000000_11111111111111111111, .jal 0 0 0xFFFFF),
      (0b010101_000001_000000_00000000000011, .jalr 0 1 0 3), (0b010101_000001_000011_00000000000000, .jalr 0 1 3 0)],
      LvsAt (lvsState p.1 { runSeq with s := [(3, 0x10000)] }) 0 p.2) ∧
    ((0 : Nat) : Int) + 4 * (0xFFFFF : Imm20).toInt = -4 ∧
    (lvsReg (lvsState 0 { runSeq with s := [(3, 0x10000)] }) 0 3 + (0 : Imm14).signExtend 32).toNat / 4 * 4 = 0x10000 := by
  unfold LvsAt; decide +kernel
/-! ### Witnesses: the rest of the sequencer -/

/-- The panel with window 0 of cluster 0 mapped to stack 0, and a word at its pc. -/
def cwState (w : Nat) (x : Cluster := { runSeq with s := [(1, 0x10000000), (2, 0x20000000)] }) (z : Stack := {}) : State :=
  (((panel x {} z).write (schedAt 0 0) (leBytes 4 w)).setReg (seqCwmapAt 0 0) (2 ^ 31))

/-- A line of the control window of stack 0. -/
def testLine (excl : Bool) : CacheLine := ⟨controlBase, excl, zeros 64⟩

theorem test_witness_LvsLoads :
    (∀ p ∈ [(0b001000_000101_000000_00000000000001, Instr.lw 0 5 0 1), (0b001000_000101_000000_00000000000000, .lw 0 5 0 0),
      (0b001000_000101_000010_00000000000000, .lw 0 5 2 0), (0b001000_000101_000001_00000000000000, .lw 0 5 1 0)],
      LvsAt (cwState p.1) 0 p.2) ∧
    (∀ c, c ∈ [testLine false, testLine true] → LvsAt (cwState 0b001000_000101_000001_00000000000000
      { runSeq with s := [(1, 0x10000000)], cache := [c] }) 0 (.lw 0 5 1 0)) ∧
    LvsAt (cwState 0b001000_000101_000001_00000000000000 { runSeq with s := [(1, 0x10000000)] } { state := 4 }) 0 (.lw 0 5 1 0) ∧
    scalarPlace (cwState 0) 0 0xFFFC = .sched 0xFFFC ∧ scalarPlace (cwState 0) 0 0x20000000 = .unmapped ∧
    scalarPlace (cwState 0) 0 0x10000000 = .window controlBase ∧ lineOf controlBase = controlBase ∧
    stackGone (cwState 0) (homeStack controlBase) = false ∧ stackGone (cwState 0 {} { state := 4 }) (homeStack controlBase) = true ∧
    cached { cache := [testLine false] } controlBase = some (testLine false) ∧ cached runSeq controlBase = none ∧ runSeq.late = none := by
  unfold LvsAt; decide +kernel

/-- One replay run on cluster 0. -/
def testRun : ReplayRun := { part := 0, step := 0, run := 1, orig := 0 }

theorem test_witness_LvsStores :
    (∀ p ∈ [(0b001001_000101_000000_00000000000001, Instr.sw 0 5 0 1), (0b001001_000101_000000_00000000000000, .sw 0 5 0 0),
      (0b001001_000101_000010_00000000000000, .sw 0 5 2 0), (0b001001_000101_000001_00000000000000, .sw 0 5 1 0)],
      LvsAt (cwState p.1) 0 p.2) ∧
    (∀ x ∈ ([{ runSeq with s := [(1, 0x10000000)], cache := [testLine true] }, { runSeq with s := [(1, 0x10000000)], cache := [testLine false] },
      { runSeq with s := [(1, 0x10000000)], replay := some testRun }] : List Cluster),
      LvsAt (cwState 0b001001_000101_000001_00000000000000 x) 0 (.sw 0 5 1 0)) ∧
    LvsAt (cwState 0b001001_000101_000001_00000000000000 { runSeq with s := [(1, 0x10000000)] } { state := 4 }) 0 (.sw 0 5 1 0) ∧
    (testLine true).excl = true ∧ (testLine false).excl = false ∧ runSeq.replay = none := by
  unfold LvsAt; decide +kernel

/-- A full dispatch queue. -/
def fullDq : List Desc := List.replicate 64 { did := 0, raw := 0, frame := 0 }

theorem test_witness_LvsDispatch :
    (∀ p ∈ [(0b110000_000000_001000_00000000000000, Instr.disp 0 8), (0b110000_000000_111000_00000000000000, .disp 0 56),
      (0b110000_000000_000000_00000000000000, .disp 0 0), (0b110000_000000_001001_00000000000000, .disp 0 9),
      (0b110001_000000_000000_00000000000000, .dispm 0 0 0), (0b110001_000000_000000_00000000000001, .dispm 0 0 1),
      (0b110001_000000_000011_00000000000000, .dispm 0 3 0), (0b110001_000000_000100_00000000000000, .dispm 0 4 0)],
      LvsAt (lvsState p.1 { runSeq with s := [(3, 65504), (4, 65536)] }) 0 p.2) ∧
    LvsAt (lvsState 0b110000_000000_001000_00000000000000 { runSeq with dq := fullDq }) 0 (.disp 0 8) ∧
    LvsAt (lvsState 0b110001_000000_000000_00000000000000 { runSeq with dq := fullDq }) 0 (.dispm 0 0 0) ∧ fullDq.length = 64 ∧
    (∃ x : Cluster, x.stall = some (.dispatch 5) ∧ x.dq.length < 64) := by
  unfold LvsAt; exact ⟨by decide +kernel, by decide +kernel, by decide +kernel, rfl, { stall := some (.dispatch 5) }, rfl, by decide⟩

/-- A message of queue 0 that is complete. -/
def testMsg (stage : Nat) : Msg :=
  { chan := 0, seg := 0, seq := 0, len := 1, landed := [0], poison := false, remote := false, spanel := 0, sclu := 0, nextph := false
    mframe := 0, edges := 0, stage := stage }

theorem test_witness_LvsCountsQueuesAndRegisters :
    (∀ p ∈ [(0b110011_000001_000000_00000000001111, Instr.grd 0 1 15), (0b110101_000001_000000_00000000000000, .qcnt 0 1 0),
      (0b110100_000000_000000_00000000000000, .qrd 0 0 0), (0b110100_000001_000000_00000000111111, .qrd 0 1 63),
      (0b111001_000001_000000_10000000000000, .csrr 0 1 0x2000), (0b111010_000000_000001_00000000000000, .csrw 0 1 0),
      (0b111001_000001_000000_11000000000000, .csrr 0 1 0x3000), (0b111010_000000_000001_11000000000000, .csrw 0 1 0x3000),
      (0b111001_000001_000000_00000000000010, .csrr 0 1 2), (0b111010_000000_000001_00000000000001, .csrw 0 1 1)],
      LvsAt (lvsState p.1 { runSeq with queues := [(0, { msgs := [testMsg 2] })] }) 0 p.2) ∧
    LvsAt (lvsState 0b110101_000001_000000_00000000000000 { runSeq with replay := some testRun }) 0 (.qcnt 0 1 0) ∧
    LvsAt (lvsState 0b110100_000000_000000_00000000000000 { runSeq with replay := some testRun }) 0 (.qrd 0 0 0) ∧
    entries (queueOf { queues := [(0, { msgs := [testMsg 2] })] } 0) = [testMsg 2] ∧ entries (queueOf runSeq 63) = [] ∧
    (declOf (lvsState 0) 0 0).isSome = true := by unfold LvsAt; decide +kernel

theorem test_witness_LvsWaits :
    (∀ g ∈ [0, 1], LvsAt (lvsState 0b110010_000000_000001_00000000001111 { runSeq with grpCnt := [(15, g)] }) 0 (.waitg 0 1 15)) ∧
    (∀ l ∈ [[], [(3, 0)]], LvsAt (lvsState 0b111011_000000_000000_00000000000000 { runSeq with live := l }) 0 (.fence 0)) ∧
    (lvsReg (lvsState 0) 0 1).toNat = 1 ∧
    ∃ x y : Cluster, x.stall = some (.waitg 15 1) ∧ 1 ≤ findD x.grpCnt 15 0 ∧ y.stall = some .fence ∧ y.live = [] := by
  unfold LvsAt
  exact ⟨by decide +kernel, by decide +kernel, by decide +kernel, { stall := some (.waitg 15 1), grpCnt := [(15, 1)] },
    { stall := some .fence }, rfl, by decide, rfl, rfl⟩

/-- In queue 0's handler of slot 0, begun at clock 0, the first that runs. -/
def inHandler (n : Nat) : Cluster := { seq := .handler, handler := some (0, 8, 0, 0, n), queues := [(0, { msgs := [testMsg 2] })] }

theorem test_witness_LvsFrameEndAndHandlers :
    (∀ x ∈ [runSeq, inHandler 1], LvsAt (lvsState 0b111000_000000_000000_00000000000000 x) 0 (.fend 0)) ∧
    (∀ x ∈ [runSeq, { runSeq with slotsRun := [0] }, { runSeq with queues := [(0, { msgs := [testMsg 2] })] }, inHandler 1],
      LvsAt (lvsState 0b110110_000000_000000_00000000000000 x) 0 (.hslot 0 0)) ∧
    LvsAt (lvsState 0b110110_000000_000000_00000000000001) 0 (.hslot 0 1) ∧
    (∀ x ∈ [runSeq, inHandler 0, inHandler 1], LvsAt (lvsState 0b110111_000000_000000_00000000000000 x) 0 (.hend 0)) ∧
    (∀ e ∈ schedOf (lvsState 0) 0, imageNat e 0x10 4 = 1 ∧ imageNat e 0x14 4 = 100 ∧ imageNat e 0x18 2 = 1 ∧ handlerOf e 0 = 64 ∧
      handlerQueue (inHandler 0) e = some 0 ∧ handlerQueue runSeq e = none) ∧
    (schedOf (lvsState 0) 0).isSome = true ∧ runSeq.handler = none ∧ runSeq.workEnd = none ∧
    cluClk (advClock (lvsNow (lvsState 0 (inHandler 0)) 0) (cluRgn 0) (cluClk (lvsNow (lvsState 0 (inHandler 0)) 0) 0 + 1)) 0 - 0 < 100 := by
  unfold LvsAt; decide +kernel

/-! ### Witnesses: descriptors -/

/-- A descriptor of cluster 0 with its 256 bits. -/
def testDesc (raw : Nat) : Desc := { did := 0, raw := BitVec.ofNat 256 raw, frame := 0 }

/-- Unit 0 in normal mode with a descriptor at the head of its queue. -/
def issueState (raw : Nat) : State := panel { live := [(0, 0)] } { uq := [testDesc raw], mode := .normal }

/-- The bits of a VOP of one row with n sources of kind IMM and destination kind dk (R149). -/
def vopRaw (op dk n : Nat) : Nat :=
  1 + (op + 1 * 2 ^ 5 + dk * 2 ^ 16) * 2 ^ 32 + (if 0 < n then 5 else 7) * 2 ^ 96 + (if 1 < n then 5 else 7) * 2 ^ 128 +
    (if 2 < n then 5 else 7) * 2 ^ 160

/-- The worked example of R148 on unit 0. -/
def mmaRaw : Nat := 0x01230200 + 0x02009B11 * 2 ^ 32 + 0x4 * 2 ^ 64 + 0x194 * 2 ^ 96

/-- A RED of one row of the reduction range (R152). -/
def redRaw (op : Nat) : Nat := 5 + op * 2 ^ 32 + 0x46000000000 * 2 ^ 64

/-- One legal descriptor of each class and operation, a transfer of stacked memory's first block, and an MMA with a reserved bit set. -/
def legalRaws : List Nat :=
  [mmaRaw, vopRaw 0x00 0 1, vopRaw 0x01 0 2, vopRaw 0x02 0 2, vopRaw 0x03 0 2, vopRaw 0x04 0 3, vopRaw 0x05 0 2, vopRaw 0x06 0 2,
    vopRaw 0x07 0 1, vopRaw 0x08 0 1, vopRaw 0x09 0 2, vopRaw 0x0A 0 1, vopRaw 0x0B 0 1, vopRaw 0x0C 0 1, vopRaw 0x0D 0 1,
    vopRaw 0x0E 0 1, vopRaw 0x0F 0 1, vopRaw 0x10 3 1, vopRaw 0x11 3 1, vopRaw 0x12 3 1, vopRaw 0x13 3 1, vopRaw 0x14 7 2,
    2 + 63 * 2 ^ 115, 3 + 63 * 2 ^ 115, 4, redRaw 0, redRaw 1, redRaw 2]

theorem test_witness_UnitIssue :
    (∀ raw ∈ (mmaRaw + 2 ^ 12) :: legalRaws, ((issueState raw).un 0).uq = testDesc raw :: [] ∧ canIssue (issueState raw) 0 (testDesc raw) = true) ∧
    (∀ raw ∈ legalRaws, let s := issueState raw
      let v := atPresent (advClock s (unitRgn 0) (max ((testDesc raw).at_ + 3) (s.un 0).issueClk)) 0
      illegal (v.modUn 0 fun z => { z with uq := [], issueClk := unitClk v 0 + 1 }) 0 (testDesc raw) = none) ∧
    (let s := issueState (mmaRaw + 2 ^ 12)
      let v := atPresent (advClock s (unitRgn 0) (max ((testDesc 0).at_ + 3) (s.un 0).issueClk)) 0
      illegal (v.modUn 0 fun z => { z with uq := [], issueClk := unitClk v 0 + 1 }) 0 (testDesc (mmaRaw + 2 ^ 12)) = some 2) ∧
    legalRaws.map (fun r => ((testDesc r).cls, if (testDesc r).cls = 1 then (testDesc r).op else (testDesc r).redOp % 4)) =
      [(0, 1)] ++ (List.range 21).map (fun k => (1, k)) ++ [(2, 0), (3, 0), (4, 0), (5, 0), (5, 1), (5, 2)] := by decide +kernel

/-- Cluster 0 with a descriptor at the head of its dispatch queue. -/
def dqState (raw : Nat) (waiting : Bool := false) (y : UnitState := {}) : State :=
  panel { live := [(0, 0)], dq := [testDesc raw], waiting := waiting } y

/-- The WAITs of R153, and a COMMIT of a record of stack 0. -/
def waitRaw (cond : Nat) : Nat := 6 + cond * 2 ^ 32
def commitRaw : Nat := 7 + controlBase * 2 ^ 32

theorem test_witness_DispatchQueueHead :
    (∀ raw ∈ [mmaRaw, 8, commitRaw, commitRaw + 2 ^ 12, waitRaw 0, waitRaw 1, waitRaw 2, waitRaw 3, waitRaw 4, waitRaw 5, waitRaw 15],
      ((dqState raw).cl 0).dq = testDesc raw :: [] ∧ rgnRuns (dqState raw) (cluRgn 0) = true ∧ find? ((dqState raw).cl 0).live 0 = some 0) ∧
    (∀ raw ∈ [mmaRaw, 8], (testDesc raw).cls ≠ 6 ∧ (testDesc raw).cls ≠ 7 ∧ ((dqState raw).un 0).uq.length < 16) ∧
    (testDesc commitRaw).cls = 7 ∧ ((dqState commitRaw).cl 0).commitQ.length < 8 ∧
    illegal (dqPop (dqState commitRaw) 0 (testDesc commitRaw)) 0 (testDesc commitRaw) = none ∧
    illegal (dqPop (dqState (commitRaw + 2 ^ 12)) 0 (testDesc (commitRaw + 2 ^ 12))) 0 (testDesc (commitRaw + 2 ^ 12)) = some 2 ∧
    (∀ k ∈ [0, 1, 2, 3, 4], (testDesc (waitRaw k)).cls = 6 ∧ (testDesc (waitRaw k)).cond = k ∧
      illegal (dqState (waitRaw k)) 0 (testDesc (waitRaw k)) = none) ∧
    (∀ k ∈ [5, 15], (testDesc (waitRaw k)).cond > 4 ∧ illegal (dqState (waitRaw k)) 0 (testDesc (waitRaw k)) = some 3) ∧
    (∀ k ∈ [0, 4], ((dqState (waitRaw k) true).cl 0).waiting = true ∧
      waitHolds (dqState (waitRaw k) true) 0 (testDesc (waitRaw k)) = true) := by decide +kernel

/-- A descriptor issued by unit 0. -/
def testIssued (raw : Nat) (begun : Bool) : Issued :=
  { d := testDesc raw, begun := begun, beganAt := 0, span := 1, ord := 0, frameIdx := 0 }

theorem test_witness_UnitWorkEnds :
    (let s := panel { live := [(0, 0)] } { mode := .normal, issued := [testIssued (vopRaw 0 0 1) false] }; rgnRuns s (unitRgn 0) = true ∧ mayBegin (atPresent s 0) 0 0 = true) ∧
    (let s := panel { live := [(0, 0)] } { mode := .normal, issued := [testIssued mmaRaw true] }; rgnRuns s (unitRgn 0) = true ∧ mmaNext (s.un 0) 0 = some (testIssued mmaRaw true)) ∧
    (let s := panel { live := [(0, 0)] } { mode := .normal, issued := [testIssued (vopRaw 0x14 7 2) true] }; rgnRuns s (unitRgn 0) = true ∧ vopOf (s.un 0) 0 = some (testIssued (vopRaw 0x14 7 2) true)) := by decide +kernel

/-! ### Witnesses: supply, bring-up and time -/

/-- Region 0 as given, in a step of bring-up. -/
def hdrState (g : Region) (step : Nat := 5) (p : Power := {}) : State :=
  { regions := [(0, g)], power := p, mgr := { active := some false, step := step }, instA := { booted := true } }

theorem test_witness_RegionHeaders :
    (let s := hdrState {}; (s.rgn 0).hdr = 0 ∧ (s.die 0).state ≠ 2 ∧ s.mgr.step = 5) ∧
    (∀ st ∈ [0, 6, 7], let s := hdrState { hdr := 1, stage := st }; (s.rgn 0).hdr = 1 ∧ (s.rgn 0).stage < 8 ∧ alertIn (advFab s 800) 0 = false ∧ 85 * s.mgr.vcoreMv ≤ 493 * 100 ∧ 492 * 100 < 85 * s.mgr.vcoreMv) ∧
    (∀ v ∈ [2, 3], ∀ p ∈ ([{ fda := 1 }, { fdaOff := some 1 }] : List Power), let s := hdrState { hdr := 1, voids := v } 5 p
      alertIn (advFab s ((s.rgn 0).winAt + 800)) (s.rgn 0).winAt = true ∧ (s.power.fda = 0 ↔ p.fdaOff.isSome = true) ∧ (s.rgn 0).voids = v) ∧
    (let s := hdrState { hdr := 1, stage := 8 }; (s.rgn 0).hdr = 1 ∧ (s.rgn 0).stage = 8 ∧ (waking s (dieQuarter 0) && (s.qtr (dieQuarter 0)).pstate == 3) = false ∧
        ∀ i < 8, clearing (s.un i) = false) ∧
    (let s := panel { fwDigest := some (sha384 []) } {} { state := 2 }
      let z := { s with mrs := [(wellStack 0, { state := 2 })] }
      rgnRuns z (cluRgn 0) = true ∧ (z.cl 0).fwDigest.isSome = true ∧ (z.cl 0).fwOk = false ∧ manifestOk z 0 = true ∧
        manifestOk { s with mrs := [] } 0 = false ∧ rgnRuns { s with mrs := [] } (cluRgn 0) = true) := by decide +kernel

/-- Bring-up in step k and a phase of step 6, with every die withdrawn and every router stopped, or none. -/
def upState (k : Nat) (gone : Bool := false) (phase : Nat := 0) (good : Nat := 96) (domainFab : Nat := 0) : State :=
  { mgr := { active := some false, step := k, phase := phase }, instA := { booted := true }
    power := { enabled := 127, good := good, domainFab := domainFab }
    dies := if gone then (List.range 256).map fun d => (d, { state := 2 }) else []
    routers := if gone then (List.range 400).map fun i => (i, { running := false }) else [] }

/-- A fuse image with a bad grade, and one with 33 defective words in a bank. -/
def badFuse : FuseReport := { site := 0, dieType := 0, step := 0, serial := 0, bad := true, words := [], lanes := [], trims := [] }
def wornFuse : FuseReport := { badFuse with bad := false, words := [(0, 0, 33)] }

theorem test_witness_BringUpSteps :
    (∀ k ∈ [1, 2, 3, 4, 5, 6, 7, 8, 9], failStep (upState k) = 0 ∧ (upState k).mgr.step = k) ∧
    (romBoot (upState 2) (upState 2).instA (true, true)).booted = true ∧
    (romBoot { upState 2 with instA := {} } ({} : Instance) (false, false)).booted = false ∧
    nextDomain (upState 3 false 0 127) = none ∧ nextDomain (upState 3) = some 4 ∧
    [badFuse].map (·.site) = [(0 : RouterId)] ∧ ([badFuse].map (·.site)).Nodup ∧
    placeOf (badFuse.site : RouterId) = .die 0 ∧ badFuse.bad = true ∧ (∃ w ∈ wornFuse.words, 32 < w.2.2) ∧
    placeOf 1 = .stack 0 ∧ placeOf 384 = .edge 0 ∧
    bit (upState 3).power.enabled 4 = true ∧ (upState 3).fab ≤ (upState 3).power.domainFab + softWindow 4 ∧
    (∀ d ∈ domainOrder, bit ((upState 3 false 0 126).power.good ||| 2 ^ 0) d = true) ∧ nextDomain (upState 3 false 0 126) = some 0 := by
  decide +kernel

/-- A list of withdrawn dies and of stopped routers answers as it should. -/
theorem upState_gone (k phase : Nat) : (∀ d < 256, ((upState k true phase).die d).state = 2) ∧
    ∀ i < 400, ((upState k true phase).rtr i).running = false := by
  refine ⟨fun d h => ?_, fun i h => ?_⟩
  · have := find?_table (fun _ => ({ state := 2 } : Die)) d (List.range 256) (List.mem_range.2 h)
    simp [State.die, upState, findD, this]
  · have := find?_table (fun _ => ({ running := false } : Router)) i (List.range 400) (List.mem_range.2 h)
    simp [State.rtr, upState, findD, this]

theorem test_witness_BringUpSteps_dies :
    regionsDone (upState 5 true) = true ∧ firmwareDone (upState 8 true) = true ∧ delaysKnown (upState 6 true 3) = true ∧
    (upState 6 true 3).mgr.phase = 3 ∧ (upState 6 false 1).mgr.phase = 1 ∧ (upState 6 false 2).mgr.phase = 2 := by
  refine ⟨List.all_eq_true.2 fun d h => ?_, List.all_eq_true.2 fun c h => ?_, List.all_eq_true.2 fun i h => ?_, rfl, rfl, rfl⟩
  · simp [(upState_gone 5 0).1 d (List.mem_range.1 h)]
  · simp [(upState_gone 8 0).1 (c / 4) (by have := List.mem_range.1 h; omega)]
  · simp [(upState_gone 6 3).2 i (List.mem_range.1 h)]

/-- With no vouch, the vote leaves no die. -/
theorem test_witness_BringUpSteps_vote :
    dieSite 0 ∈ voters (upState 6 false 2) ∧ dieSite 0 ∉ voteLoop (upState 6 false 2).mgr.vouches 400 (voters (upState 6 false 2)) ∧
    placeOf (dieSite 0) = .die 0 := by
  have hv : dieSite 0 ∈ voters (upState 6 false 2) := List.mem_filter.2 ⟨List.mem_range.2 (by decide), by decide +kernel⟩
  have hp : ∀ g : List Nat, votePass [] g = [] := fun g => by simp [votePass, findD, find?]
  refine ⟨hv, ?_, by decide⟩
  have hn : ∀ n, voteLoop [] n [] = [] := fun n => by cases n <;> simp [voteLoop, hp]
  show dieSite 0 ∉ voteLoop [] (399 + 1) (voters (upState 6 false 2))
  rw [voteLoop, hp, if_neg (show ¬([] : List Nat).length = _ from (List.length_pos_of_mem hv).ne), hn]
  simp

/-- The Day checks of a quarter in Dawn. -/
def dawnState (done : List Nat) (tDay : Option Nat) (parts : List Partition := []) : State :=
  { quarters := [(0, { svc := 1 })], parts := parts, instA := { booted := true }
    mgr := { active := some false, step := 10, dayDone := done, tDay := tDay } }

theorem test_witness_DayChecksAndDayChange :
    (∀ site ∈ ([0, 1] : List RouterId), let s := dawnState [] none; (activeMgr s).isSome = true ∧ s.mgr.step = 10 ∧ inDawn s (siteQuarter site) = true ∧ (dayExpected s).contains site.val = true ∧
        s.mgr.dayDone.contains site.val = false) ∧
    isOperator (dawnState [] none) (.tap false) = true ∧
    (dawnState [] (some 5)).mgr.tDay = some 5 ∧ (activeMgr (dawnState [] (some 5))).isSome = true ∧
    ((dawnState [] (some 5)).qtr (dieQuarter 0)).svc = 1 ∧ ((dawnState [] (some 5)).die 0).state ≠ 2 := by decide +kernel

theorem test_witness_DayChecksAndDayChange_instant (parts : List Partition)
    (h : parts ∈ [[], [{ qmask := 1, cfg := {}, tick := true, period := 1000000 }]]) :
    let s := dawnState (dayExpected (dawnState [] none)) none parts
    s.mgr.step = 10 ∧ s.mgr.tDay = none ∧ dayReady s = true ∧ tickLcm s ≠ 0 ∧ (activeMgr s).isSome = true ∧ isOperator s (.tap false) = true := by
  refine ⟨rfl, rfl, ?_, ?_, rfl, rfl⟩
  · refine Bool.and_eq_true_iff.2 ⟨by rfl, List.all_eq_true.2 fun i hi => ?_⟩
    exact List.contains_iff_mem.2 hi
  · simp only [List.mem_cons, List.not_mem_nil, or_false] at h
    rcases h with rfl | rfl <;> decide

/-! ### Witnesses: time, the Equinox and resets -/

/-- The panel with a packet for the keeper of die 0, or its registers. -/
def keeperBox (p : Packet) : State := (panel.box (dieSite 0, regPort (dieSite 0)) p).modKeeper (dieSite 0) fun k => { k with delay := some 3 }

theorem test_witness_BeaconsAndPps :
    (activeMgr panel).isSome = true ∧
    (∀ e ∈ [384, 394], let p : Packet := { typ := tBeacon, dagt := 4, ssite := e };
      ejected (keeperBox p) (0 : RouterId) (regPort (dieSite 0)) (fun p => p.typ == tBeacon) = some p ∧
      obeys (keeperBox p) (0 : RouterId) p = true ∧ ((keeperBox p).keeper (dieSite 0)).delay = some 3) ∧
    panel.mgr.step ≠ 1 ∧ placeOf 1 = .stack 0 ∧ placeOf 0 = .die 0 ∧
    (∀ c ∈ [1, 3, 5], let s := panel.setReg (gtPpsCtlAt panelGtBlk) c;
      ppsOn s = true ∧ bit (s.reg (gtPpsCtlAt panelGtBlk)) 1 = (c == 3) ∧ follows s = false ∧ s.mgr.ppsNs = none) ∧
    (let s := { panel.setReg (gtPpsCtlAt panelGtBlk) 1 with fab := 2 * 1500000000, mgr := { panel.mgr with ppsNs := some 0 } };
      ppsOn s = true ∧ 0 + 1000000000 < (mgrNs s / 1000000000 + 1) * 1000000000) := by decide +kernel

/-- A session of the operator over quarter 0's endpoint. -/
def operHost : State := panel.modQtr 0 fun q => { q with operSessions := [0] }

theorem test_witness_GlobalTimeReadsAndSets :
    (∀ w ∈ [Requester.tap false, .seq 0], readsKeeper panel w (0 : RouterId) = true) ∧ readsKeeper panel (.host 0) (384 : RouterId) = true ∧
    readsPanel panel (.host 0) = true ∧ readsPanel panel (.tap false) = true ∧ isOperator panel (.tap false) = true ∧
    isOperator panel (.host 0) = false ∧ (panel.qtr (0 : QuarterId)).pcieUp = true ∧ readsKeeper panel (.host 0) (2 : RouterId) = false ∧
    readsKeeper panel (.host 0) (399 : RouterId) = false ∧ isOperator operHost (.host 0) = true ∧ 3 < panel.mgr.step ∧
    (∀ on : Nat × Nat, on ∈ [(0, 2), (4, 8)] → ¬((on.2 = 4 ∨ on.2 = 8) ∧ on.1 % on.2 = 0)) ∧ 0xFF8 % 8 = 0 ∧
    (activeMgr panel).isSome = true ∧ panel.mgr.set = none ∧
    setRefusal panel = 0 ∧ setRefusal { panel with parts := [{ qmask := 1, cfg := {}, tick := true }] } = 1 ∧
    setRefusal (panel.setReg (gtSetNsecAt panelGtBlk) 1000000000) = 2 ∧
    setRefusal (panel.setReg (gtSetNsecAt panelGtBlk) 999999999) = 0 ∧
    setRefusal { panel with mgr := { panel.mgr with eqx := some { point := 1, t := 0, acks := [], state := 1, rampEnd := 0, postAt := 0 } } } = 3 ∧
    (∃ s : State, s.mgr.set = some (4000, 5, 6)) := ⟨by decide +kernel, by decide +kernel, by decide +kernel, by decide +kernel, by decide +kernel, by decide +kernel,
      by decide +kernel, by decide +kernel, by decide +kernel, by decide +kernel, by decide, by decide, by decide, rfl, rfl, by decide +kernel,
      by decide +kernel, by decide +kernel, by decide +kernel, by decide +kernel, { mgr := { set := some (4000, 5, 6) } }, rfl⟩

/-- A change of the operating point to point w in a state of R55, its posts sent at cycle 0. -/
def testEqx (w state : Nat) (acks : List Nat := []) : Eqx := { point := w, t := 8, acks := acks, state := state, rampEnd := 0, postAt := 0 }

/-- The panel in such a change, from point 4. -/
def eqxState (e : Eqx) (x : Keeper := {}) : State :=
  { panel with mgr := { panel.mgr with eqx := some e, cur := 4 }, keepers := [(dieSite 0, x)] }

theorem test_witness_EquinoxChange :
    (∀ t ∈ [8, 9], let p : Packet := { typ := tMgmt, sub := 0, dagt := 4, payload := [5] ++ leBytes 8 t };
      let s := (eqxState (testEqx 5 1)).box (dieSite 0, regPort (dieSite 0)) p;
      ejected s (0 : RouterId) (regPort (dieSite 0)) (fun p => p.typ == tMgmt && p.sub == 0) = some p ∧ obeys s (0 : RouterId) p = true ∧
      postStands s (leNat (p.payload.take 1), leNat (p.payload.drop 1)) = (t == 8)) ∧
    (let p : Packet := { typ := tMgmt, sub := 2, dagt := 4 };
      let s := (eqxState (testEqx 5 1)).box (dieSite 0, regPort (dieSite 0)) p;
      ejected s (0 : RouterId) (regPort (dieSite 0)) (fun p => p.typ == tMgmt && p.sub == 2) = some p ∧ obeys s (0 : RouterId) p = true) ∧
    (let p : Packet := { typ := tMgmt, sub := 1, dagt := 5, ssite := 7 };
      let s := (eqxState (testEqx 5 1)).box (portOfEdge 0) p;
      activeMgr s = some false ∧ s.mgr.eqx = some (testEqx 5 1) ∧ ejected s (portOfEdge (managerEdge false)).1 (portOfEdge (managerEdge false)).2
        (fun p => p.typ == tMgmt && p.sub == 1 && p.dagt == 5) = some p) ∧
    (let s := eqxState (testEqx 5 1); (s.rtr 399).running = true ∧ 399 ∉ (testEqx 5 1).acks ∧ (testEqx 5 1).confirmed = false) ∧
    (∀ w ∈ [4, 5], ∀ k < 400, k ∈ (testEqx w 1 (List.range 400)).acks) ∧
    (eqxState (testEqx 5 1)).mgr.cur < 5 ∧ (eqxState (testEqx 4 1)).mgr.cur ≥ 4 ∧
    postsLeft (eqxState (testEqx 3 3)) = false ∧ (testEqx 3 3).state = 3 ∧ (testEqx 3 2).state = 2 ∧ (testEqx 3 4).state = 4 ∧
    (∀ g ∈ [true, false], let s := eqxState (testEqx 5 3) { post := some (5, 0), go := g };
      postedT s (0 : QuarterId) = some 0 ∧ ((s.keeper (dieSite 0)).post = some (5, 0)) ∧ bit 1 (dieQuarter 0) = true ∧
      partOf s 0 = some { qmask := 1, cfg := testCfg, period := 1000 }) ∧
    (let s := { eqxState (testEqx 5 3) { post := some (5, 0) } with parts := [{ qmask := 1, cfg := {}, tick := true, lastEdge := 0 }] };
      postedT s (0 : QuarterId) = some 0 ∧ partOf s 0 = some { qmask := 1, cfg := {}, tick := true, lastEdge := 0 }) ∧
    placeOf (0 : RouterId) = .die 0 ∧ (∃ s : State, s.mgr.lost = true) ∧
    (panel.rgn (0 : RegionId)).hdr = 2 ∧ (panel.rgn (0 : RegionId)).stalled = false ∧ (panel.die 0).tripped = false := by
  refine ⟨?_, ?_, ?_, ?_, fun w _ k h => by simp only [testEqx, List.mem_range]; exact h, ?_, ?_, ?_, ?_, ?_, ?_, ?_, ?_, ?_, ⟨{ mgr := { lost := true } }, rfl⟩, ?_⟩
  all_goals decide +kernel

theorem test_witness_ColdResetAndLossOfSupply : ∃ t, exec (.domainFault 6 0 0) panel = .next t := ⟨_, rfl⟩

/-- The operator; the host of the partition of quarter 0; the host of another quarter; a sum that wraps. -/
theorem test_witness_TokensAddToTheirPartition :
    (activeMgr panel).isSome = true ∧ isOperator panel (.tap false) = true ∧
    (∃ p, partOf panel (0 : QuarterId) = some p ∧ partQ p = 0) ∧ isOperator panel (.host 1) = false ∧ partOf panel (1 : QuarterId) = none ∧
    ¬((panel.setReg (pwrTokensAt 0) (2 ^ 64 - 1)).reg (pwrTokensAt 0) + 1 < 2 ^ 64) ∧
    panel.reg (pwrTokensAt 0) + (0xFFFFFFFF : BitVec 32).toNat < 2 ^ 64 := by
  exact ⟨rfl, by decide, ⟨_, rfl, by decide⟩, by decide, by decide, by decide +kernel, by decide +kernel⟩

/-- Which slots are programmed is open (R486): for a programmed slot k, one revocation leaves it and one does not. -/
theorem test_witness_KeySlotsAndRevocation (k : Nat) (h : k < 4 ∧ bit keysProg k = true) :
    operMgr panel (.tap false) = true ∧ operMgr panel (.host 0) = false ∧
    (∃ j < 4, bit keysProg j = true ∧ bit panel.sec.revoked j = false ∧ (0 : BitVec 4).getLsbD j = false) ∧
    ¬(∃ j < 4, bit keysProg j = true ∧ bit panel.sec.revoked j = false ∧ (15 : BitVec 4).getLsbD j = false) ∧
    bit ({ panel with sec := { panel.sec with revoked := 15 } }).sec.revoked k = true := by
  refine ⟨by decide, by decide, ⟨k, h.1, h.2, ?_, by simp⟩, ?_, ?_⟩
  · show bit 0 k = false
    simp [bit]
  · rintro ⟨j, hj, -, -, hm⟩
    revert hm; revert j; decide
  · show bit 15 k = true
    rcases h with ⟨h, -⟩
    revert h; revert k; decide

/-- The settings store before its 100,000th write and at it, and a running bank of a newer settings schema. -/
theorem test_witness_SettingsStoreWrites :
    operMgr panel (.tap false) = true ∧ ¬(100000 ≤ panel.sec.writes) ∧ (panel.sec.stage.map (·.1)).Nodup ∧
    100000 ≤ ({ panel with sec := { panel.sec with writes := 100000 } }).sec.writes ∧
    (bankSchema (activeInst { panel with instA := { booted := true, schemaA := (1, 2), schemaB := (1, 2) } })).2 = 2 ∧
    panel.sec.schema < 2 := by decide +kernel

/-! ### Witnesses: packets of clusters, memory routers and homes -/

/-- An address of unit 0's scratchpad window. -/
def spadWin : Nat := windowBase

/-- A transfer of 1 row from stacked memory that unit 0 has begun, and its engine's entry. -/
def inRaw : Nat := 2 + 63 * 2 ^ 115
def engOf (raw : Nat) (done : Nat := 0) : Eng := { d := testDesc raw, unit := 0, seg := none, done := done }
def engState (raw : Nat) (x : Cluster := {}) : State :=
  panel { x with live := [(0, 0)] } { mode := .normal, issued := [testIssued raw true] }
    |>.box (portOfRegion 0) { typ := tRdData, dsite := 0 }

/-- A read tag and a write tag of it. -/
def tagOf (retried : Bool := false) : Tag := { tag := 0, did := 0, row := 0, sentAt := 0, remote := false, retried := retried, pkt := {} }

theorem test_witness_TransferRequestsAndReplies :
    (∀ tags ∈ [[], [tagOf]], let s := engState inRaw { eng := [engOf inRaw], rtags := tags }
      (s.cl 0).eng.find? (fun e => !e.stopped && e.sent < engRows e.d) = some (engOf inRaw) ∧ rgnRuns s (cluRgn 0) = true ∧
      ((s.un 0).issued.any fun i => i.d.did == 0 && i.begun) = true ∧ (testDesc inRaw).cls = 2 ∧ (s.un 0).mode = .normal ∧
      (s.cl 0).replay = none ∧ rowRoute (advClock s (cluRgn 0) 0) 0 (testDesc inRaw) 0 = .fabric 1 0 ∧
      lowestFree (rtagsUsed (s.cl 0)) 4096 = some tags.length ∧ (passBucket (endWaits s 0) 0 (engClass (testDesc inRaw))).isSome = true) ∧
    (∀ b ∈ [true, false], ∀ p ∈ ([{ typ := tRdData }, { typ := tRdData, poison := true }, { typ := tRdData, check := 1 }] : List Packet),
      let s := engState inRaw { eng := [{ engOf inRaw with stopped := b }], rtags := [tagOf] } |>.box (portOfRegion 0) p
      agentClu p.dsite p.dagt = some 0 ∧ (s.cl 0).absorbing = false ∧
      ejected s (portOfRegion 0).1 (portOfRegion 0).2 (fun q => q.typ == tRdData) = some p ∧
      (s.cl 0).rtags.find? (fun k => k.tag == p.rtag) = some (tagOf) ∧ (mustRetry (tagOf) p = (p.check == 1 && !p.poison)) ∧
      ((s.cl 0).eng.any fun e => e.d.did == 0 && !e.stopped) = !b ∧ (passBucket s 0 p.cls).isSome = true) ∧
    (let p : Packet := { typ := tWrAck };
      let s := engState inRaw { eng := [engOf inRaw], wtags := [tagOf] } |>.box (portOfRegion 0) p;
      ejected s (portOfRegion 0).1 (portOfRegion 0).2 (fun q => q.typ == tWrAck) = some p ∧ p.wtag < 0x10000 ∧
      (s.cl 0).wtags.find? (fun k => k.tag == p.wtag) = some (tagOf) ∧ (s.cl 0).eng.find? (fun e => e.d.did == 0) = some (engOf inRaw)) ∧
    (let s := engState inRaw { eng := [engOf inRaw 1] };
      (s.cl 0).eng.find? (fun e => e.d.did == 0) = some (engOf inRaw 1) ∧ engRows (testDesc inRaw) ≤ 1 ∧ find? (s.cl 0).live 0 = some 0) ∧
    (∀ o ∈ [0, 1, 2], let k : Commit := { d := testDesc commitRaw, waits := [], outcome := some o };
      let s := engState commitRaw { commitQ := [k] };
      (s.cl 0).eng.find? (fun e => e.d.did == 0) = none ∧ (s.cl 0).commitQ.find? (fun k => k.d.did == 0) = some k ∧ k.outcome = some o) := by
  decide +kernel

/-- No read tag is free when all 4,096 are held, whatever the held tags are. -/
theorem test_witness_TransferRequestsAndReplies_full :
    lowestFree (List.range 4096) 4096 = none := by
  simp only [lowestFree, List.length_range, Option.filter_eq_none_iff, List.find?_range_eq_some]
  simp; omega

/-- A row of a message for queue 0 of cluster 0, from logical cluster 0. -/
def msgPkt : Packet := { typ := tMsg, mlen := 0, check := crc64 [] }
def msgState (p : Packet) (x : Cluster := {}) (y : UnitState := {}) : State := (panel x y).box (portOfRegion 0) p

theorem test_witness_MessageQueues :
    (∀ p ∈ [msgPkt, { msgPkt with dque := 1 }, { msgPkt with sclu := 1 }, { msgPkt with seg := 2 }, { msgPkt with gen := 1 }, { msgPkt with mrow := 1 }],
      ∀ b ∈ [true, false], let s := msgState p { absorbing := b }
      ejected s (portOfRegion 0).1 (portOfRegion 0).2 (fun p => p.typ == tMsg) = some p ∧ agentClu p.dsite p.dagt = some 0 ∧
        (s.cl 0).absorbing = b) ∧
    declOf (msgState msgPkt) 0 1 = none ∧
    (∀ d ∈ declOf (msgState msgPkt) 0 0, chanOf d false 0 1 = none ∧ chanOf d false 0 0 = some 0 ∧
      badLanding (msgState msgPkt) 0 d 0 msgPkt = false ∧
      (∀ p ∈ [{ msgPkt with seg := 2 }, { msgPkt with gen := 1 }, { msgPkt with mrow := 1 }], badLanding (msgState p) 0 d 0 p = true) ∧
      msgEmpty (msgState msgPkt) 0 d (testMsg 3) = true) ∧ (declOf (msgState msgPkt) 0 0).isSome = true ∧
    (∀ k ∈ [0, 1], (outsideWrite (popEject (msgState msgPkt {} { clear := k }) 0 4 0) 0 0 (zeros 1024) true .message .fabric).1 = (k == 0)) ∧
    (queueOf { queues := [(0, { msgs := [testMsg 3] })] } 0).msgs.find? (fun m => m.stage == 3 && testCfg.queues.all fun d => msgEmpty panel 0 d m) = some (testMsg 3) ∧
    (testMsg 3).remote = false ∧ cluOfLogical panel 0 = some 0 ∧ mayPass panel (bucketOf 0 cSched) = true ∧
    (∀ p ∈ ([{ typ := tCredit, gen := 1 }, { typ := tCredit }, { typ := tCredit, remote := true }] : List Packet),
      ejected (msgState p) (portOfRegion 0).1 (portOfRegion 0).2 (fun p => p.typ == tCredit) = some p ∧ agentClu p.dsite p.dagt = some 0) ∧
    (((List.range (outsOf panel 0).length).zip (outsOf panel 0)).find? (fun e => e.2.remote == false && e.2.dclu == 0 && e.2.dque == 0)).isSome = true := by
  refine ⟨by decide +kernel, by decide +kernel, by decide +kernel, by decide +kernel, by decide +kernel, ?_⟩
  decide +kernel

theorem crc_chain : ∀ (l : List Nat) (a : Nat), (∀ p ∈ (a :: l).zip l, (zeros 64).foldl crc64Byte p.1 = p.2) →
    (zeros (64 * l.length)).foldl crc64Byte a = l.getLastD a
  | [], a, _ => rfl
  | b :: t, a, h => by
    have h1 := h (a, b) (by simp)
    have h2 := crc_chain t b fun p hp => h p (by simp only [List.zip_cons_cons, List.mem_cons]; exact .inr hp)
    rw [show 64 * (b :: t).length = 64 + 64 * t.length by simp; omega, zeros, List.replicate_add, List.foldl_append]
    simp only [zeros] at h1 h2
    rw [h1, h2]
    cases t <;> simp [List.getLast?_eq_some_getLast]

/-- The CRC of 64, 128, … zeros before the last inversion. -/
def zeroCrcs : List Nat :=
  [13824911312530036100, 237272312677228044, 8689686066235957578, 14162721010667443444, 11309559910477369806, 10000395412961697780,
    12681924178000301829, 14537661149805590121, 12015225618581444766, 12254936814503786557, 14556120480709449827, 2982656755020154036,
    13532702238355828772, 2805729668113279595, 8087074885118220178, 14923638317352870204]

theorem crc64_of_fold {bs : Bytes} {x : Nat} (h : bs.foldl crc64Byte 0xFFFFFFFFFFFFFFFF = x) : crc64 bs = x ^^^ 0xFFFFFFFFFFFFFFFF := by
  rw [crc64, h]

/-- The block check of 1,024 zeros is what a check store that nothing has written reads as (R191, R192). -/
theorem test_zero_block_check : crc64 (zeros 1024) = zeroBlockCheck := by
  have h := crc64_of_fold (crc_chain zeroCrcs 0xFFFFFFFFFFFFFFFF (by decide +kernel))
  rw [show 1024 = 64 * zeroCrcs.length by decide]
  exact h.trans (by decide)

theorem blockOk_empty (s : State) (b : Nat) (h : s.mem = []) (hb : stackAt 0 (1024 * b) + 1024 ≤ 0x8EE000000)
    (hc : storedCheck {} 0 b = zeroBlockCheck) : blockOk s 0 b = true := by
  have hz : blockBytes s 0 b = zeros 1024 := by
    rw [blockBytes, State.read, h]
    unfold memRead zeros
    refine List.ext_getElem (by rw [List.length_map, List.length_range, List.length_replicate]) fun i h _ => ?_
    rw [List.length_map, List.length_range] at h
    rw [List.getElem_map, List.getElem_range, List.getElem_replicate, memDefault, if_neg]
    unfold checkStoreBase; omega
  have hs : storedCheck s 0 b = storedCheck {} 0 b := by rw [storedCheck, storedCheck, State.read, State.read, h]
  rw [blockOk, hz, test_zero_block_check, hs, hc]; decide

/-- Stack 0 with a packet at its router. -/
def mrState (p : Packet) (z : Stack := {}) : State := (panel {} {} { z with state := 2 }).box (portOfStack 0) p

theorem test_witness_MemoryRouterAccesses :
    (∀ t ∈ [tRd, tWr], ∀ a ∈ [0, 0x30000000, 0x40000000, 0x3FFFFFFFFFF], let p : Packet := { typ := t, addr := a }
      ejected (mrState p) (portOfStack 0).1 (portOfStack 0).2 (fun q => q.typ == t) = some p) ∧
    (serveAt (mrState {}) 0 0).isSome = true ∧ serveAt (mrState {}) 0 0x40000000 = none ∧
    (∀ h ∈ serveAt (mrState {}) 0 0, h.copy = none ∧ ∀ k ∈ [31, 32],
      let m : Merge := { block := h.so / 1024, open_ := true, tabled := true, reqs := List.replicate k {} };
      ((mrState {} { merges := [m] }).mr 0).merges.find? (fun m => m.block == h.so / 1024 && m.open_) = some m ∧ m.reqs.length = k) ∧
    tabled ((mrState {}).mr 0) < 256 ∧
    (let m : Merge := { block := 7, open_ := true, tabled := true, reqs := [{}] };
      ([m].find? fun m => m.block == 7) = some m ∧ sliceFree { merges := [m] } 7 (slicePlace cSched) = true) ∧
    (let w : WriteJob := { block := 7, pkt := {}, copy := none, seq := 0 };
      ([w].find? fun w => w.block == 7) = some w ∧ sliceFree { writes := [w] } 7 (slicePlace cSched) = true) ∧
    blockOk (mrState {}) 0 7 = true := by
  exact ⟨by decide +kernel, by decide +kernel, by decide +kernel, by decide +kernel, by decide +kernel, by decide +kernel, by decide +kernel,
    blockOk_empty _ 7 rfl (by decide) (by decide +kernel)⟩

theorem test_witness_ScratchpadAccesses :
    (∀ t ∈ [tRd, tWr], ∀ p ∈ ([{ typ := t, addr := spadWin + 0x600000 }, { typ := t, addr := spadWin },
      { typ := t, addr := spadWin + 8 * 0x800000 }, { typ := t, addr := spadWin + 0x600000 - 1024, tagm := 3, poison := true },
      { typ := t, addr := spadWin, sub := 1 }] : List Packet),
      ejected (msgState p) (portOfRegion 0).1 (portOfRegion 0).2 (fun q => q.typ == t) = some p) ∧
    windowOf panel (spadWin + 0x600000) true = none ∧ windowOf panel spadWin true = some (0, 0) ∧
    windowOf panel (spadWin + 8 * 0x800000) true = some (8, 0) ∧ unitRgn 0 = 0 ∧ unitRgn 8 ≠ 0 ∧
    (outsideRead (msgState {} {} { mode := .normal }) 0 0 16 .fabric).1.isSome = true ∧ (outsideRead (msgState {} {} { clear := 1 }) 0 0 16 .fabric).1 = none ∧
    (let s := panel {} { clear := 1 }; (s.un (0 : UnitId)).clear = 1 ∧ rgnRuns s (unitRgn (0 : UnitId)) = true) := by decide +kernel

/-- A partition with a Shadow pair from logical unit 0 to unit 1, whose first slot is to be copied. -/
def shadowState : State :=
  { panel {} { full := [0], sets := [(0, [0], [])], mode := .normal } with
    parts := [{ qmask := 1, cfg := { testCfg with pairs := [(0, 0, 0, 1, 0)] } }] }

theorem test_witness_ScratchpadAccesses_shadow : ∃ cfg i slot l pl psl pu w, cfgOf shadowState (cluQuarter 0) = some cfg ∧
    copyHead shadowState cfg 0 = some (i, slot) ∧ logicalOfUnit shadowState (4 * 0 + i) = some l ∧ partnerSlot cfg l slot = some (pl, psl) ∧
    unitOfLogical shadowState pl = some pu ∧ rgnRuns shadowState (cluRgn 0) = true ∧ (shadowState.cl 0).absorbing = false ∧
    passBucket shadowState 0 cBulk = some w :=
  ⟨_, 0, 0, 0, 1, 0, 1, _, rfl, by decide +kernel, by decide +kernel, by decide +kernel, by decide +kernel, by decide +kernel, rfl, rfl⟩

/-- A coherence packet of cluster 0, agent 0 of router 0, for the first line of stack 0's window. -/
def cohPkt (sub : Nat) : Packet := { typ := tCoh, sub := sub, addr := controlBase }

/-- A home transaction of that line. -/
def homeTx (kind acks : Nat) (need : Bool) : HomeTx := { line := controlBase, req := {}, kind := kind, acks := acks, needData := need }

theorem test_witness_HomeOfAControlWindow :
    (∀ u ∈ [uGetS, uGetM, uPutM, uInvAck, uData, uUnblock],
      ejected (mrState (cohPkt u)) (portOfStack 0).1 (portOfStack 0).2 (fun p => p.typ == tCoh && p.sub == u) = some (cohPkt u)) ∧
    (∀ e ∈ [0, 384], let p : Packet := { typ := tAtom, ssite := e, addr := controlBase, payload := zeros 16 };
      ejected (mrState p) (portOfStack 0).1 (portOfStack 0).2 (fun p => p.typ == tAtom && (p.ssite < 384) == (e == 0)) = some p ∧
      (decide (p.ssite ≥ 384) = (e == 384)) ∧ p.sub ≠ 1) ∧
    lineOf controlBase = controlBase ∧ senderClu (cohPkt uGetS) = 0 ∧ lineBusy ({} : Stack) controlBase = false ∧
    (({} : Stack).waits.any fun w => lineOf w.addr == controlBase) = false ∧ dirOf ({} : Stack) controlBase = none ∧
    lineBusy { txs := [homeTx 0 0 false] } controlBase = true ∧
    (∀ o ∈ [0, 5], dirOf { dir := [{ line := controlBase, owner := some o, sharers := [], used := 0 }] } controlBase =
      some { line := controlBase, owner := some o, sharers := [], used := 0 }) ∧
    find? ({} : Stack).ecc (windowOff controlBase / 1024) = none ∧ blockOk (mrState {}) 0 (windowOff controlBase / 1024) = true ∧ sharedHeld ({} : Stack) < 128 ∧
    128 ≤ sharedHeld { waits := List.replicate 128 { typ := tAtom, ssite := 384 } } ∧
    (∀ t ∈ [homeTx 0 0 true, homeTx 0 1 true, homeTx 0 0 false, homeTx 1 1 false, homeTx 1 2 false, homeTx 2 0 false],
      txOf { txs := [t] } controlBase = some t ∧ ({ txs := [t] } : Stack).waits = [] ∧ ({ txs := [t] } : Stack).putAcks = []) ∧
    (∀ e < 16, (panel.edge e).held = []) := by
  refine ⟨?_, ?_, ?_, ?_, ?_, ?_, ?_, ?_, ?_, ?_, blockOk_empty _ _ rfl (by decide) (by decide +kernel), ?_⟩
  all_goals decide +kernel

/-- Cluster 0 with a line, a request under way, and a coherence packet for it. -/
def cohState (u : Nat) (x : Cluster) (acks : Nat := 0) : State := msgState { cohPkt u with acks := acks } x

theorem test_witness_CacheCoherence :
    (∀ u ∈ [uFwdGetS, uFwdGetM, uRecall, uInv, uPutAck, uInvAck, uData], ∀ k ∈ [0, 1, 2], let p : Packet := { cohPkt u with acks := k };
      agentClu p.dsite p.dagt = some (0 : ClusterId).val ∧
      ejected (cohState u {} k) (portOfRegion 0).1 (portOfRegion 0).2 (fun p => p.typ == tCoh && p.sub == u) = some p) ∧
    ownedData { cache := [testLine false] } controlBase = none ∧ ownedData { cache := [testLine true] } controlBase = some (zeros 64) ∧
    (mayPass panel (bucketOf 0 cCtrl) = true ∧ mayPass {} (bucketOf 0 cCtrl) = false) ∧
    (∀ g ∈ ([{ line := controlBase, excl := false, data := some (zeros 64), acksWant := some 1 }, { line := controlBase, excl := false },
        { line := controlBase, excl := true, data := some (zeros 64), acksWant := some 2, acksGot := 0 }] : List Get),
      ∃ x : Cluster, x.get = some g ∧ g.line = controlBase ∧ x.absorbing = false ∧ x.stall = some (.miss controlBase false 5 0 none)) ∧
    (∃ x : Cluster, x.stall = none) := by
  refine ⟨by decide +kernel, by decide +kernel, by decide +kernel, by decide +kernel, fun g h => ?_, ⟨{}, rfl⟩⟩
  refine ⟨{ get := some g, stall := some (.miss controlBase false 5 0 none) }, rfl, ?_, rfl, rfl⟩
  simp at h; rcases h with rfl | rfl | rfl <;> rfl

/-- A reduction row for the first record of the test range, which stack 0 holds. -/
def redPkt (op : Nat) (a : Nat := 0x46000000000) (remote : Bool := false) : Packet :=
  { typ := tRed, rop := op, addr := a, remote := remote, check := crc64 [] }

theorem test_witness_ReductionRows :
    (∀ op ∈ [0, 1, 2], ∀ a ∈ [0x46000000000, 0x46000010000 - 1024, 0x46000010000], ∀ r ∈ [true, false], let p := redPkt op a r;
      ejected (mrState p) (portOfStack 0).1 (portOfStack 0).2 (fun p => p.typ == tRed && p.rop == op) = some p ∧
      ((redAt (mrState p) 0 p).isSome = (a != 0x46000010000)) ∧ payloadOk p = true) ∧
    payloadOk { redPkt 0 with poison := true } = false ∧ payloadOk { redPkt 0 with check := 1 } = false ∧
    redAt (mrState {}) 0 { redPkt 0 with rfmt := 1, remote := true } = none ∧
    widthWrong (mrState {}) 0 { redPkt 0 with rfmt := 1, remote := true } = true ∧ widthWrong (mrState {}) 0 (redPkt 0 0x46000010000 true) = false ∧
    (∀ s n part r a b e1 e2, (∃ bad w, recordPoisoned s n part r a b e1 e2 = (bad, w))) := by
  exact ⟨by decide +kernel, by decide +kernel, by decide +kernel, by decide +kernel, by decide +kernel, by decide +kernel, fun _ _ _ _ _ _ _ _ => ⟨_, _, rfl⟩⟩

/-! ### Witnesses: routers, registers and telemetry -/

theorem test_witness_RoutersAndLinks :
    (∀ l ∈ [none, some 0, some 7], let s := panel.modRtr 5 fun r => { r with lastSlot := l };
      (s.rtr (5 : RouterId)).running = true ∧ ((s.rtr (5 : RouterId)).lastSlot ≠ some (s.fab / 5) ↔ l ≠ some 0) ∧ s.flights = [] ∧
      (s.rtr (5 : RouterId)).inject = [] ∧ (s.rtr (5 : RouterId)).park = []) ∧
    linkKind (5 : LinkId) = .seam ∧ linkKind (728 : LinkId) = .edge ∧
    (({ state := 2, failedHi := 1 } : Link).state = 2) ∧
    earliest ([(68, 5)].filter fun e => atPort 4 e.1 && (find? ([] : List (Nat × Option Nat)) e.1).isNone) = some (68, 5) ∧
    earliest (([(68, some 5)].filterMap fun e => e.2.map (e.1, ·)).filter fun e => atPort 4 e.1 && (find? ([] : List (Nat × Nat)) e.1).isNone) = some (68, 5) ∧
    (let p : Partition := { qmask := 1, cfg := {}, tick := true, period := 1000, lastEdge := 1 };
      (partOf { parts := [p] } (siteQuarter (0 : RouterId))).filter (·.tick) = some p ∧
      (((({ parts := [p] } : State).rtr 0).cmapFrom * 5 / 2 : Nat) : Int) + (({ parts := [p] } : State).keeper 0).adj < p.lastEdge) ∧
    (partOf panel (siteQuarter (0 : RouterId))).filter (·.tick) = none := by decide +kernel

/-- Global time of an operation's T as a Glint under way. -/
def testGlint (n : Nat) : GlintOp := { at_ := 0, sentAt := 0, got := (List.range n).map fun i => (i, []) }

/-- The panel with the packet for the active manager at its agent port, and its record. -/
def mgrBox (p : Packet) (f : Manager → Manager := id) : State := { panel with mgr := f panel.mgr }.box (portOfEdge 0) p

theorem test_witness_GlintsAndSnapshots :
    (let s := panel.setReg pmGlintCtlAt (2 ^ 31); (activeMgr s).isSome = true ∧ s.regField pmGlintCtlAt 31 31 = 1 ∧ s.mgr.glint = none) ∧
    (∀ u ∈ [4, 6], ∀ i ∈ [0, 1], let p : Packet := { typ := tMgmt, sub := u, dagt := regAgent i };
      let s := panel.box (i, regPort i) p;
      ejected s i (regPort i) (fun p => p.typ == tMgmt && p.sub == u) = some p ∧ obeys s i p = true) ∧ stackSite 0 = 1 ∧
    (let p : Packet := { typ := tMgmt, sub := 5, dagt := 5, payload := zeros 32 };
      ∀ f ∈ [0, 200001], let s := { mgrBox p fun m => { m with glint := some (testGlint 0) } with fab := f };
      ((testGlint 0).sentAt + 200000 < s.fab ↔ f = 200001) ∧ activeMgr s = some false ∧ s.mgr.glint = some (testGlint 0) ∧
      ejected s (portOfEdge (managerEdge false)).1 (portOfEdge (managerEdge false)).2 (fun p => p.typ == tMgmt && p.sub == 5 && p.dagt == 5) = some p) ∧
    (∀ up ∈ [true, false], let p : Partition := { qmask := 1, cfg := {}, tick := true, period := 1000, lastEdge := 5000 };
      let s := { panel with parts := [p], quarters := [(0, { svc := 2, pcieUp := up })] }.setReg (hstSnapCtlAt 0) (2 ^ 31 + 2 ^ 8);
      partOf s (0 : QuarterId) = some p ∧ bit (s.reg (hstSnapCtlAt (0 : QuarterId))) 31 = true ∧ (s.qtr (0 : QuarterId)).svc ≠ 0 ∧
      snapDue s (0 : QuarterId) p = some (5000, 5) ∧ (s.qtr (0 : QuarterId)).snap = none ∧ (s.qtr (0 : QuarterId)).pcieUp = up) ∧
    (let p : Packet := { typ := tMgmt, sub := 7, dagt := 4, payload := leBytes 16 5 };
      ejected (panel.box (portOfEdge 0) p) (portOfEdge (controllerEdge 0)).1 (portOfEdge (controllerEdge 0)).2
        (fun p => p.typ == tMgmt && p.sub == 7 && p.dagt == 4) = some p ∧ bit (qmaskOf panel (0 : QuarterId)) 0 = true ∧
        bit (qmaskOf panel (0 : QuarterId)) 1 = false ∧ (panel.qtr 0).snap = none) := by decide +kernel

/-- The last of 400 Glint records. -/
theorem test_witness_GlintsAndSnapshots_last : 400 ≤ (putAt (testGlint 399).got 399 []).length := by
  have h : (testGlint 399).got.length = 399 := by simp [testGlint]
  have hn : find? (testGlint 399).got 399 = none := by decide +kernel
  have : ∀ (l : List (Nat × List Nat)) k v, find? l k = none → (putAt l k v).length = l.length + 1 := by
    intro l k v hk
    induction l with
    | nil => rfl
    | cons a t ih =>
      simp only [find?] at hk
      split at hk
      · cases hk
      · rename_i hne
        simp only [putAt]
        split <;> rename_i h2
        · simp_all
        · split <;> simp_all
  rw [this _ _ _ hn, h]

theorem test_witness_RegisterAccesses :
    (∀ a ∈ [(5, 4), (4, 5), (4, 4)], ∀ i ∈ [0, 1, 384], let p : Packet := { typ := tReg, dagt := regAgent i, sagt := a.1, payload := zeros 24 };
      let s := panel.box (i, regPort i) p;
      ejected s i (regPort i) (fun k => k.typ == tReg && k.dagt == regAgent i) = some p ∧ obeys s i p = true ∧ ownControl i 0 = false) ∧
    (let p : Packet := { typ := tReg, dagt := 4, sagt := 5 };
      let s := (panel.box (0, regPort 0) p).modRtr 0 fun r => { r with epoch := 1 }; obeys s 0 p = false) ∧
    ownControl (stackSite 0) controlBase = true ∧ sharedHeld (panel.mr 0) < 128 ∧
    (∀ u ∈ [0, 1], ∀ a ∈ [4, 5], let p : Packet := { typ := tRegRsp, dagt := a, sub := u };
      ejected (panel.box (portOfEdge 0) p) (portOfEdge 0).1 (portOfEdge 0).2 (fun k => k.typ == tRegRsp && (k.dagt == 4 || k.dagt == 5)) = some p) ∧
    (let p : Packet := { typ := tMgmt, sub := 0xC, dagt := 4 };
      ejected (panel.box (0, regPort 0) p) 0 (regPort 0) (fun k => k.typ == tMgmt && k.sub == 0xC) = some p) ∧
    (∀ b ∈ [true, false], tapReaches panel b = !b) ∧ inMgrArea managerArea = true ∧ inMgrArea registerBase = false ∧ inDieArea registerBase = true ∧
    (∀ a ∈ [0x40000000, 2 ^ 43 - 1], inMgrArea a = false ∧ inDieArea a = false ∧ inControl a = false ∧ inWindow a = false ∧ memQuarter panel a = none) ∧
    (∀ n ∈ [2, 4, 8], barAligned 8 n = (n != 2)) ∧ barAligned 4 8 = false ∧
    bar0Reaches panel 0 (edgeArea 0) = true ∧ bar0Reaches panel 0 0 = false ∧ siteOfReg (edgeArea 0) = edgeSite (controllerEdge 0) ∧
    (bar0Reaches (panel.setReg (hstRwinAt 0 0) (2 ^ 31 + registerBase / 2 ^ 26)) 0 registerBase = true ∧ siteOfReg registerBase ≠ edgeSite (controllerEdge 0) ∧
      bit (qmaskOf panel 0) (siteQuarter (siteOfReg registerBase)) = true ∧ bit (qmaskOf panel 0) 1 = false) ∧
    isDoorbell 0x38 = true ∧ isDoorbell 0x48 = false ∧ isDoorbell 0x1000 = false ∧
    (∃ s : State, (s.qtr 0).pcieUp = false) ∧ solventAt panel (bucketOf 0 0) = some 0 ∧ solventAt panel (bucketOf 0 2) = some 0 ∧
    rgnRuns panel (cluRgn 0) = true ∧ solventAt panel (bucketOfEdge 0) = some 0 ∧ (panel.bucket (bucketOfEdge 0)).waitAt = none ∧
    (∃ x : Cluster, x.credits = {} :: [] ∧ x.ctrlOut = {} :: []) ∧ (∃ e : Edge, e.ingressReq = (0, {}) :: []) := by
  refine ⟨?_, ?_, ?_, ?_, ?_, ?_, ?_, ?_, ?_, ?_, ?_, ?_, ?_, ?_, ?_, ?_, ?_, ?_, ?_, ?_, ⟨{}, by decide⟩, ?_, ?_, ?_, ?_, ?_,
    ⟨{ credits := [{}], ctrlOut := [{}] }, rfl, rfl⟩, ⟨{ ingressReq := [(0, {})] }, rfl⟩⟩
  all_goals decide +kernel

/-- A mailbox request before quarter 0's controller. -/
def mbState (op : Nat) (payload : Bytes) (oper : Bool := false) (f : Partition → Partition := id) (x : Quarter := {}) : State :=
  { panel with
    parts := panel.parts.map f
    quarters := [(0, { x with svc := 2, pcieUp := true, mb := some { tag := 0, op := op, payload := payload, oper := oper } })] }

/-- A held step of logical cluster 0. -/
def testHeld (stage : Nat) : HeldStep :=
  { serial := 0, id := 0, raddr := controlBase, old := 0, new := 1, gmask := 0, digest := 0, lclu := 0, frame := 0, regs := [], stage := stage }

theorem test_witness_ReplayRunsAndHalt :
    (activeMgr panel).isSome = true ∧
    (∀ st ∈ [0, 2], let p : Partition := { qmask := 1, cfg := testCfg, hold := true, held := [testHeld st] };
      let d := 3;
      let s := { panel with
        parts := [p], fields := [(0, { map := [some 0], spare := some d })], dies := [(d, { state := 1 })]
        regions := [(2 * d, onRegion), (2 * d + 1, onRegion)], clusters := [(4 * d, { fwOk := true })]
        units := (List.range 4).map fun i => (16 * d + i, { mode := .normal }) };
      partOf s (0 : QuarterId) = some p ∧ p.edgeFab = s.fab ∧ (waitingSteps p).map (·.stage) = [st] ∧ (schedFor p.cfg 0).isSome = true ∧
      replayFree s (4 * d) = true ∧ replaySpares s p = [d]) ∧
    (∃ c : Cluster, c.replay = some testRun ∧ c.workEnd.isSome = true) ∧ (partD panel testRun.part).held = [] ∧
    (let p : Partition := { qmask := 1, cfg := testCfg, held := [testHeld 1] };
      (partD { panel with parts := [p] } testRun.part).held.find? (fun h => h.serial == testRun.step) = some (testHeld 1)) ∧
    (∀ o ∈ [true, false], ∀ m ∈ [0, 1, 16], (mbOf (mbState 7 (leBytes 8 m) o) (0 : QuarterId) 7).isSome = true ∧
      noService (mbState 7 (leBytes 8 m) o) (0 : QuarterId) = false ∧
      badMask (mbState 7 (leBytes 8 m) o) o m = (if o then m != 1 else m != 0)) ∧
    noService (mbState 7 [] false id { pmLost := true }) 0 = true ∧ partOf (mbState 7 [] false (fun p => { p with qmask := 2 })) 0 = none ∧
    (∀ k ∈ [0, 2, 3], ((mbState 7 [] false id { pstate := k }).qtr 0).pstate = k) ∧
    ((mbState 7 [] false id { pmoving := true }).qtr 0).pmoving = true ∧ (partD (mbState 7 []) 0).reset = none ∧
    (partD (mbState 7 []) 0).halted = false ∧ (partD (mbState 7 [] false fun p => { p with halted := true }) 0).halted = true := by
  refine ⟨rfl, ?_, ⟨{ replay := some testRun, workEnd := some (0, 0) }, rfl, rfl⟩, ?_⟩
  all_goals decide +kernel

/-- The header of a stream of 168 bytes for quarter 0 (R294). -/
def headBytes (qmask := 1) : Bytes :=
  leBytes 4 0x4C565354 ++ leBytes 2 1 ++ leBytes 2 (bits (panel.reg pmIdAt) 31 16) ++ leBytes 1 (bits (panel.reg pmIdAt) 15 8) ++ [0] ++
    leBytes 1 qmask ++ [0] ++ leBytes 4 168 ++ zeros 32

/-- Quarter 0 with a stream in a state, the first of the manager's queue or PENDING. -/
def ssQ (st : Nat) (f : Manager → Manager := id) : State :=
  { panel with mgr := f panel.mgr }.setReg (qcSsStatAt 0) st |>.setReg (qcSsLenAt 0) 168

/-- A PENDING stream with a raise. -/
def testPend (raise pmin : Nat) : PendStream := { q := 0, cfg := { qmask := 1, pmin := pmin }, validAt := 0, raise := raise }

theorem test_witness_StreamsLoadedAndValidated :
    (∀ k ∈ [0, 1, 2, 3, 4, 5, 6, 7], ssState (ssQ k) (0 : QuarterId) = k ∧ ((ssQ k).qtr (0 : QuarterId)).svc = 2 ∧
      cancelLate (ssQ k) (0 : QuarterId) = false) ∧
    (let s := { (ssQ 3 fun m => { m with pends := [testPend 0 4] }) with fab := 2 * (1000000000 - 5000) }; ssState s (0 : QuarterId) = 3 ∧ cancelLate s (0 : QuarterId) = true) ∧
    (∃ s : State, (s.qtr (0 : QuarterId)).svc = 0) ∧
    (let s := ssQ 1 fun m => { m with ssQueue := [0] };
      (activeMgr s).isSome = true ∧ s.mgr.install = none ∧ s.mgr.ssQueue = (0 : QuarterId).val :: [] ∧ (headBytes).length = 48 ∧
      headFailure s (0 : QuarterId) (readHead headBytes) = none ∧ 48 + (zeros 120).length = (readHead headBytes).total ∧
      headFailure s (0 : QuarterId) (readHead (zeros 48)) = some 3 ∧ headFailure s (0 : QuarterId) (readHead (headBytes 2)) = some 0x10 ∧
      serialBad s (readHead headBytes) = true) ∧
    (let s := ssQ 2 fun m => { m with install := some (testPend 0 4) }; s.mgr.install = some (testPend 0 4) ∧ (testPend 0 4).q = (0 : QuarterId).val) ∧
    (∀ w ∈ [1, 6], let s := ssQ 3 fun m => { m with pends := [testPend 1 w], cur := 4 };
      s.mgr.pends.find? (fun p => p.raise == 1 && !s.mgr.locks.any fun r => r.stream == some p.q) = some (testPend 1 w) ∧
      (w ≤ s.mgr.cur ↔ w = 1)) := by
  refine ⟨?_, ?_, ⟨{}, by decide⟩, ?_⟩
  all_goals decide +kernel

theorem test_witness_NeighbourTestsVouchesAndEchoes :
    (let s := { upState 6 false 1 with links := [((linkIndex 0 0).getD ((linkIndex 0 1).getD 0), { state := 2 })] };
      atStep s 6 = true ∧ s.mgr.phase = 1 ∧ (List.range 400).any (linkedTo s 0) = true) ∧
    (∀ ph ∈ [1, 2], let p : Packet := { typ := tMgmt, sub := 8, dagt := 5, ssite := 3, payload := [1, 0] };
      let s := (upState 6 false ph).box (portOfEdge 0) p;
      activeMgr s = some false ∧ atStep s 6 = true ∧ s.mgr.phase = ph ∧
      ejected s (portOfEdge (managerEdge false)).1 (portOfEdge (managerEdge false)).2 (fun p => p.typ == tMgmt && p.sub == 8 && p.dagt == 5) = some p) ∧
    (∀ e ∈ [0, 1], let p : Packet := { typ := tMgmt, sub := 9, dagt := 4 };
      let s := (panel.box (0, regPort 0) p).modRtr 0 fun r => { r with epoch := e };
      ejected s (0 : RouterId) (regPort 0) (fun p => p.typ == tMgmt && p.sub == 9) = some p ∧ p.dagt ≠ 5 ∧ obeys s (0 : RouterId) p = (e == 0)) ∧
    (∀ d ∈ [0, 1], let p : Packet := { typ := tMgmt, sub := 9, dagt := 5, defl := d, payload := zeros 16 };
      ejected (panel.box (portOfEdge 0) p) (384 : RouterId) (regPort 384) (fun p => p.typ == tMgmt && p.sub == 9) = some p ∧
      leNat (p.payload.drop 8) = 0) := by decide +kernel

/-- Cluster 0 in a frame, ended or not; late; and a partition about to start or at an edge. -/
theorem test_witness_TickEdgesAndFrames :
    (∀ t ∈ [true, false], ∀ j ∈ [none, some 7000], let p : Partition := { qmask := 1, cfg := testCfg, tick := t, period := 1000, joinTo := j, startFrom := some 0 };
      let s := { panel with parts := [p] }; partOf s (0 : QuarterId) = some p ∧ setPending s = false ∧ pointAhead s = s.mgr.cur ∧
        (framesBegin s p true = (t && j.isNone)) ∧ framesBegin s p false = false ∧ clusterResets s p 0 = false) ∧
    (∃ s : State, setPending s = true) ∧ inDawn panel (0 : QuarterId) = false ∧ inDawn (dawnState [] none) 0 = true ∧
    (∀ w ∈ [4, 9], ∃ s : State, (s.mgr.cur < w ↔ w = 9) ∧ pointAhead s = s.mgr.cur) ∧
    (let s := { panel with parts := [], mgr := { panel.mgr with pends := [testPend 0 4] } };
      partOf s (0 : QuarterId) = none ∧ s.mgr.pends.find? (fun p => bit p.cfg.qmask (0 : QuarterId) && p.raise != 1) = some (testPend 0 4)) ∧
    (∀ x ∈ ([{ runSeq with inFrame := true }, { runSeq with inFrame := true, workEnd := some (5, 5) }] : List Cluster),
      runsFrame x = true ∧ x.replay = none) ∧
    (let x := { runSeq with late := some 0 }; runsFrame x = false ∧ x.late.isSome = true ∧ x.seq ≠ .waitEdge) ∧
    (schedOf panel (0 : ClusterId)).isSome = true ∧ (0 : ClusterId).val ∈ maskClusters panel 1 ∧ (∀ e ∈ schedOf panel 0, e.image ≠ []) := by
  refine ⟨?_, ⟨{ mgr := { set := some (0, 0, 0) } }, rfl⟩, ?_, ?_, fun w h => ⟨{ mgr := { cur := 4 } }, ?_, rfl⟩, ?_, ?_, ?_, ?_, ?_, ?_⟩
  case refine_4 => simp at h; rcases h with rfl | rfl <;> decide
  all_goals decide +kernel

theorem test_witness_CommitsAreEvaluated :
    (∀ l ∈ [[], [(5, 0)]], ∀ fl ∈ [[], [(0, 1)]], ∀ r ∈ [none, some testRun], ∀ z ∈ ([{}, { state := 4 }] : List Stack),
      let k : Commit := { d := testDesc (commitRaw + 2 ^ 80), waits := [5] };
      let s := panel { commitQ := [k], live := l, grpFlags := fl, replay := r } {} z;
      (s.cl (0 : ClusterId)).commitQ.find? (fun k => !k.sent && k.outcome.isNone) = some k ∧
      ((∀ d ∈ k.waits, (find? (s.cl 0).live d).isNone = true) ↔ l = []) ∧
      ((∃ g ∈ (s.cl 0).grpFlags, bit (k.d.f 95 80) g.1 = true ∧ g.2 ≠ 0) ↔ fl ≠ []) ∧
      lowestFree (wtagsUsed (s.cl 0)) 1024 = some 0 ∧ (stackGone s (homeStack (k.d.f 75 32)) = (z.state == 4)) ∧
      (partD s (cluQuarter 0)).cfg.policy = 0 ∧ (partOf s (cluQuarter 0)).isSome = true ∧ (partD s (cluQuarter 0)).held.length < 64) := by
  decide +kernel

/-! ### Witnesses: other panels and the host -/

/-- The panel with port 0 in a state, with the port as given. -/
def portState (x : Port) : State := { panel with ports := [(0, x)] }

/-- A flit of a type and SEQ. -/
def testFlit (ftype seq : Nat) (body : Bytes := []) : Flit := ⟨mkFlit {} ftype seq false body, 0, 0⟩

theorem test_witness_FlitsArrive :
    (∀ k ∈ [2, 4], linkRuns (portState { state := k }) (0 : PortId) = true) ∧ flitOk ([] : Bytes) = false ∧
    (∀ t s, flitOk (testFlit t s).bytes = true) ∧
    (∀ t ∈ [0, 1, 2, 3, 4], ∀ n ∈ [0, 4095], flitHead (testFlit t n).bytes % 16 = t ∧ bits (flitHead (testFlit t n).bytes) 15 4 = n ∧
      bits (flitHead (testFlit t n).bytes) 28 28 = 0) ∧
    (∀ k ∈ [0, 7, 8], ∃ x : Port, x.nakRun = k ∧ x.naking = (k == 7) ∧ x.rxNext = 0 ∧
      (x.nakTimes.filter fun t => decide (0 < t + 2000000)).length ≤ 64) := by
  refine ⟨by decide +kernel, by decide, fun t s => flitOk_mkFlit _ _ _ _ _, by decide +kernel, fun k h => ?_⟩
  exact ⟨{ nakRun := k, naking := k == 7 }, rfl, rfl, rfl, by simp⟩

theorem test_witness_HeartbeatsTrainingAndLossOfPorts :
    (∀ k ∈ [2, 4], linkRuns (portState { state := k, hbRxAt := some 0 }) (0 : PortId) = true) ∧
    (activeMgr (portState { state := 2 })).isSome = true ∧ activeMgr { portState { state := 2 } with mgr := {} } = none ∧
    flitOk (testFlit 3 0 (zeros 8 ++ leBytes 8 (timeWord 5) ++ zeros 12)).bytes = true ∧
    flitHead (testFlit 3 0 (zeros 8 ++ leBytes 8 (timeWord 5) ++ zeros 12)).bytes % 16 = 3 ∧
    leNat (((testFlit 3 0 (zeros 8 ++ leBytes 8 (timeWord 5) ++ zeros 12)).bytes.drop 12).take 8) = timeWord 5 ∧
    (let x : Port := { state := 2, hbTx := [5] }; 5 ∈ x.hbTx ∧ nsAt (portState x) (xpSite 0) ≤ 5 + 4000) ∧
    xtimeRole (portState {}) = 0 ∧ xtimeRole ((portState {}).setReg pmXtimeCtlAt 2) = 2 ∧
    timePort ((portState {}).setReg pmXtimeCtlAt 2) = (0 : PortId).val ∧
    (∀ k ∈ [1, 3], let x : Port := { state := k, trainAt := 0 };
      (x.state = 1 ∨ x.state = 3) ∧ (portState x).fab ≤ x.trainAt + 400000 ∧ lanesTrained x 0x7F ≠ 0 ∧ lanesTrained x 0xFF = 8 ∧
      lanesTrained x 0xF0 = 4 ∧ lanesTrained x 0x77 = 0) ∧
    trainedState (portState {}) (0 : PortId) = 2 ∧ trainedState { portState {} with quarters := [(0, { pstate := 3 })] } (0 : PortId) = 4 ∧
    ¬((({} : Port).state = 1) ∨ (({} : Port).state = 3)) := by
  refine ⟨?_, ?_, ?_, flitOk_mkFlit _ _ _ _ _, ?_⟩
  all_goals decide +kernel

/-- A packet for another panel, to or from it. -/
def farPkt (typ cls : Nat) : Packet := { typ := typ, cls := cls, dagt := 4, peer := some (1, 1, 384, 4) }

theorem test_witness_PacketsBetweenPanels :
    ejected (portState { state := 2 }) (edgeSite 0) 2 isOutbound = none ∧
    ejected ((portState { state := 2 }).box (portOfEdge 0) (farPkt tRd 0)) (edgeSite 0) 2 isOutbound = some (farPkt tRd 0) ∧
    nextEgress ({ state := 2 } : Port) = none ∧
    (∀ n ∈ [0, 2048], let x : Port := { state := 2, egress := [(1, 0, farPkt tRd 0)], credits := [(2, 1)], replay := List.replicate n ⟨1, 0, [], []⟩ };
      nextEgress x = some (1, 0, farPkt tRd 0) ∧ (2048 < x.replay.length + flitsOf (farPkt tRd 0) ↔ n = 2048)) ∧
    (farPkt tRd 0).peer = some (1, 1, 384, 4) ∧ egressPort (portState { state := 2, credits := [(2, 1)] }) 0 1 0 = some 0 ∧
    egressPort (portState {}) 0 1 0 = none ∧
    (∀ t ∈ [tRdData, tWrAck], ejected (panel.box (portOfEdge 0) (farPkt t 0)) (portOfEdge (0 : EdgeId)).1 (portOfEdge 0).2
      (fun q => q.typ == t && isAnswer q) = some (farPkt t 0)) ∧
    (∀ k ∈ [0, 1], ∀ b ∈ [true, false], let x : Port := { ingress := [(k, { farPkt tRd 0 with bad := b })] };
      x.ingress.find? (fun e => e.1 == k) = some (k, { farPkt tRd 0 with bad := b })) ∧
    partOf panel 1 = none ∧ partOf panel 0 = some { qmask := 1, cfg := testCfg, period := 1000 } ∧
    bit ((panel.setReg (qcXacceptAt 0 0) 0).reg (qcXacceptAt (partQ { qmask := 1, cfg := testCfg, period := 1000 }) 0)) 1 = false ∧
    (let s := panel.setReg (qcXacceptAt 0 0) 2;
      (∃ d a, checkIncoming s 0 (farPkt tRd 0) = .pass d a) ∧ (s.edge 0).ingressReq = [] ∧ mayPass s (bucketOfEdge 0) = true) := by
  refine ⟨?_, ?_, ?_, ?_, ?_, ?_, ?_, ?_, ?_, ?_, ?_, ?_, ⟨_, _, rfl⟩, ?_⟩
  all_goals decide +kernel

/-- A tag of a remote transfer. -/
def farTag (tag : Nat) : Tag := { tag := tag, did := 0, row := 0, sentAt := 0, remote := true, pkt := {} }

theorem test_witness_RemoteTimeoutsAndAtomicAnswers :
    (let x : Cluster := { rtags := [farTag 4095], wtags := [farTag 1023], eng := [engOf inRaw], quar := [⟨true, 5, some 3, false⟩] };
      x.absorbing = false ∧ x.wtags.find? (fun k => k.tag == 1023) = some (farTag 1023) ∧ (farTag 1023).remote = true ∧
      x.rtags.find? (fun k => k.tag == 4095 && k.remote) = some (farTag 4095) ∧ x.eng.find? (fun e => e.d.did == 0) = some (engOf inRaw) ∧
      x.quar.find? (fun t => t.write == true && t.tag == 5) = some ⟨true, 5, some 3, false⟩ ∧
      x.quar.find? (fun t => t.write == false && t.tag == 5) = none) ∧
    (∀ t ∈ [0, 0x20000], let k : Packet := { typ := tAtomRsp, wtag := t };
      ejected (msgState k) (portOfRegion (0 : RegionId)).1 (portOfRegion 0).2 (fun k => k.typ == tAtomRsp) = some k ∧
      agentClu k.dsite k.dagt = some (0 : ClusterId).val ∧ ((msgState k { absorbing := true }).cl 0).absorbing = true ∧
      ((msgState k { wtags := [farTag 0] }).cl 0).wtags.find? (fun t => t.tag == 0) = some (farTag 0)) ∧
    (∀ p ∈ [none, some (1, 1, 384, 4)], ∀ st ∈ [0, 1], let k : Packet := { typ := tAtomRsp, peer := p, status := st, dagt := 4 };
      ejected (panel.box (portOfEdge 0) k) (edgeSite (0 : EdgeId)) 2 (fun k => k.typ == tAtomRsp) = some k) ∧
    endpointOf 0 = some 0 ∧
    (∀ kind ∈ [0, 1], let x : Quarter := { atoms := [(0, 0, kind)] };
      x.atoms.find? (fun a => a.1 == 0 && a.2.2 != 6) = some (0, 0, kind) ∧ (x.atoms.find? (fun a => a.2.2 == 0)).isSome = (kind == 0)) ∧
    ejected panel (edgeSite 0) 2 (fun k => k.typ == tAtomRsp) = none := by decide +kernel

/-- Quarter 0's aperture on panel n from address 2^30 · base, and its DMA engine 0 with one descriptor posted. -/
def hostState (n base : Nat) (z : Stack := {}) (y : UnitState := { mode := .normal }) : State :=
  { panel {} y z with quarters := [(0, { svc := 2, pcieUp := true, bar2Log := 6, dma := [(0, { posted := 1 })], keys := [(0, 5)] })] }
    |>.setReg (hstApBaseAt 0) (n * 2 ^ 14 + base) |>.setReg (hstDmaCtlAt 0 0) (2 ^ 31 + 6)

/-- A DMA descriptor of an operation, a length and a panel address. -/
def dmaRaw (op len a : Nat) : BitVec 256 := BitVec.ofNat 256 (op + len * 2 ^ 32 + a * 2 ^ 128)

theorem test_witness_HostAccessesAndDma :
    ((hostState 0 0).qtr (0 : QuarterId)).pcieUp = true ∧ apertureOwn (hostState 0 0) (0 : QuarterId) = true ∧ apertureOwn (hostState 5 0) (0 : QuarterId) = false ∧
    inBar2 (hostState 0 0) (0 : QuarterId) 0 4096 = true ∧ inBar2 (hostState 0 0) (0 : QuarterId) (2 ^ 36 - 1) 1 = true ∧
    apertureAddr (hostState 0 (windowBase / 2 ^ 30)) (0 : QuarterId) 5 = windowBase + 5 ∧ hostTag (hostState 0 0) (0 : QuarterId) = some 0 ∧
    (∀ a ∈ [0, 1024], (match hostTarget (hostState 0 0) 0 a true with | .mem _ => true | _ => false) = true) ∧
    hostTarget (hostState 0 0) 0 0x40000000 true = .none ∧ hostTarget (hostState 0 0) 0 windowBase true = .spad 0 0 ∧
    (match hostTarget (hostState 0 0) 0 controlBase true with | .control h => h.stack == 0 && !stackGone (hostState 0 0) h.stack | _ => false) = true ∧
    stackGone (hostState 0 0 { state := 4 }) 0 = true ∧ xdest (hostState 0 0) (0 : QuarterId) 5 = 0 ∧
    xdest ((hostState 0 0).setReg (qcXdestAt 0 0) (2 ^ 20)) (0 : QuarterId) 5 ≠ 0 ∧ inControl (controlBase + 8) = true ∧
    (dmaSize (hostState 0 0) (0 : QuarterId) 0 = 64 ∧ (64 + 0x10000 - (hostState 0 0).reg (hstDmaConsAt 0 0)) % 0x10000 = 64) ∧
    (∀ op ∈ [0, 1, 2, 3, 4, 5], ∀ a ∈ [windowBase, 0x40000000], let d := dmaRaw op 1024 a; dmaTakes (hostState 0 0) (0 : QuarterId) 0 d = true ∧
      dmaF d 3 0 = op ∧ dmaF d 63 32 = 1024 ∧ (match dmaCheck (hostState 0 0) (0 : QuarterId) d with | .ok _ => 0 | .error c => c) =
        if op = 0 ∨ op = 5 then 7 else if a = windowBase then 0 else 3) ∧
    (find? ((hostState 0 0).qtr (partQ (partD (hostState 0 0) 0))).keys 0 = some 5) ∧
    (∃ x : Dma, x.ended = (0, 1, true) :: []) ∧ isOperator (hostState 0 0) (.tap false) = true := by
  refine ⟨?_, ?_, ?_, ?_, ?_, ?_, ?_, ?_, ?_, ?_, ?_, ?_, ?_, ?_, ?_, ?_, ?_, ?_, ⟨{ ended := [(0, 1, true)] }, rfl⟩, ?_⟩
  all_goals decide +kernel

/-- A staged message and its deadline. -/
def testHostMsg (d : Option Nat) : HostMsg := { typ := 3, seq := 0, payload := zeros 8, ns := 0, deadline := d }

/-- Quarter 0 with a staged message, and buffers or none. -/
def stagedState (d : Option Nat) (buffers : Bool) (fab : Nat := 0) : State :=
  { panel with quarters := [(0, { svc := 2, pcieUp := true, msgs := [testHostMsg d], msgTail := b2n buffers })], fab := fab }
    |>.setReg (hstMsgCtlAt 0) (2 ^ 31 + 8)

theorem test_witness_HostMessagesAndMailbox :
    (∃ s : State, (s.qtr (0 : QuarterId)).pcieUp = false) ∧
    (∀ d ∈ [none, some 5], ((stagedState d true 5).qtr (0 : QuarterId)).pcieUp = true ∧
      ((stagedState d true 5).qtr (0 : QuarterId)).msgs = testHostMsg d :: [] ∧ msgFits (stagedState d true) (0 : QuarterId) (testHostMsg d) = true ∧
      msgFits (stagedState d false) (0 : QuarterId) (testHostMsg d) = false ∧ (stagedState d true 5).fab ≤ 5) ∧
    5 < (stagedState (some 5) false 6).fab ∧
    (∀ b ∈ [0, 1], bits ((panel.setReg (hstMbStatAt 0) b).reg (hstMbStatAt (0 : QuarterId))) 0 0 = b) ∧
    ((panel.qtr (0 : QuarterId)).svc ≠ 0 ∧ (panel.qtr (0 : QuarterId)).pmLost = false) ∧
    (∀ p ∈ [(0, 0, 0), (8, 0, 0), (1, 4033, 0), (1, 8, 7)], p.1 = 0 ∨ 7 < p.1 ∨ 4032 < p.2.1 ∨ p.2.2 < p.2.1) ∧
    ¬((1 : BitVec 16).toNat = 0 ∨ 7 < (1 : BitVec 16).toNat ∨ 4032 < (4032 : BitVec 32).toNat ∨ 4032 < (4032 : BitVec 32).toNat) ∧
    (mbOf (mbState 6 []) (0 : QuarterId) 6).isSome = true ∧ (activeMgr (mbState 6 [])).isSome = true := by
  refine ⟨⟨{}, by decide⟩, ?_⟩
  decide +kernel

/-! ### Witnesses: maintenance, managers, supply and power -/

/-- The panel with a change of quarter 0 or of the manager. -/
def withQtr (x : Quarter) (s : State := panel) : State := { s with quarters := [(0, x)] }
def withMgr (f : Manager → Manager) (s : State := panel) : State := { s with mgr := f s.mgr }

/-- A request of activity c for quarter 0. -/
def testLock (c : Nat) (reply : Option Nat := none) : LockReq := { code := c, qmask := 1, arg := 0, reply := reply }

/-- An image with a wrong magic number. -/
def testImage : Image := ⟨0, 0, 0, 0, 0, 0, 0, zeros 96, zeros 48, zeros 96, zeros 0xB0, [], [], []⟩

theorem test_witness_ScrubMaintenanceAndUpdate :
    (∀ h ∈ [0, 1], let s := (withQtr { svc := 2, held := h } (panel {} {} { state := 2 })).setReg (mrScrubCtlAt 0) 1;
      bit (s.qtr (stackQuarter (0 : StackId))).held 0 = (h == 1) ∧ (s.mr (0 : StackId)).state = 2 ∧ s.regField (mrScrubCtlAt (0 : StackId)) 7 0 ≠ 0 ∧
      sliceFree (s.mr 0) (bits (s.reg (mrScrubStatAt 0)) 25 0) 3 = true) ∧
    (∀ k ∈ [0, 3], let s := withQtr { svc := 2, scrubReq := some 5, pstate := k };
      (activeMgr s).isSome = true ∧ (s.qtr (0 : QuarterId)).scrubReq = some 5 ∧ (s.qtr 0).pstate = k ∧ (s.qtr 0).svc ≠ 0) ∧
    (∀ a ∈ [2, 3, 5], ∀ n ∈ [0, 255, 256, 759, 760, 0x1000, 0x1040], let s := mbState 3 (leBytes 1 a ++ zeros 3 ++ leBytes 4 n);
      (mbOf s (0 : QuarterId) 3).isSome = true ∧ noService s (0 : QuarterId) = false ∧
      (∀ r ∈ mbOf s (0 : QuarterId) 3, (readMaint s 0 r).act = a ∧ (readMaint s 0 r).arg = n ∧ (readMaint s 0 r).stray = false ∧ (readMaint s 0 r).mask = 1)) ∧
    recalMask 760 = 0 ∧ recalMask 0x1000 = 1 ∧ recalMask 0x1040 = 0 ∧
    (let s := { panel with dies := [(0, { state := 3 })] }; retestable s 0 = true ∧ 2 ^ dieQuarter 0 &&& 1 = 2 ^ dieQuarter 0) ∧
    lockOrder (releaseIdleScrub panel).mgr.locks = [] ∧ lockOrder (releaseIdleScrub (withMgr fun m => { m with locks := [testLock 5] })).mgr.locks = [testLock 5] ∧
    blockersIn panel (testLock 5) = 0 ∧ (∀ c ∈ [2, 3, 5, 7, 6], blockersIn (withQtr { held := 2 }) (testLock c) ≠ 0) ∧
    (let m : Maint := { code := 5, arg := 0, startFab := 0, qmask := 1 };
      (withMgr fun x => { x with maint := [m] }).mgr.maint.find? (fun m => m.code == 5 && m.arg == (0 : LinkId).val) = some m) ∧
    (let m : Maint := { code := 5, arg := 0x1000, startFab := 0, qmask := 1 };
      (withMgr fun x => { x with maint := [m] }).mgr.maint.find? (fun m => m.code == 5 && m.arg == 0x1000 + (0 : PortId).val) = some m) ∧
    (portTrains { state := 1 } = true ∧ portTrains { state := 2 } = false) ∧ operMgr panel (.tap false) = true ∧
    (∀ k ∈ [0, 1, 2, 3, 4, 5], (panel.setReg secFwStatAt k).regField secFwStatAt 3 0 = k) ∧ imageCause panel testImage = some 1 ∧
    ({ panel with sec := { panel.sec with fetched := some testImage } }).sec.fetched = some testImage := by decide +kernel

/-- Both instances, A active, and a heartbeat packet for A. -/
def bothState (a b : Instance) (f : Manager → Manager := id) : State := { withMgr f with instA := a, instB := b }

theorem test_witness_ManagersAndFailover :
    (∀ m : Bool, instUp (bothState { booted := true } { booted := true }) m = true ∧ instUp (bothState { booted := true, down := true } {}) m = false) ∧
    (∀ e ∈ [0, 5, 6], let p : Packet := { typ := tMgmt, sub := 0xB, dagt := 5, addr := e, payload := zeros 8 };
      let s := (bothState { booted := true, epoch := 5 } { booted := true }).box (portOfEdge 0) p;
      ejected s (portOfEdge (managerEdge false)).1 (portOfEdge (managerEdge false)).2 (fun p => p.typ == tMgmt && p.sub == 0xB && p.dagt == 5) = some p ∧
      instUp s false = true ∧ ((s.inst false).epoch < p.addr % 65536 ↔ e = 6)) ∧
    (bothState {} {} fun m => { m with active := some true }).mgr.active = some (!false) ∧
    (∀ o ∈ [true, false], (activeMgr (withMgr fun m => { m with solo := o })).isSome = true ∧ (withMgr fun m => { m with solo := o }).mgr.solo = o) ∧
    (∀ k ∈ [3, 4], let s := bothState { booted := true } { booted := true, missed := k };
      activeMgr s = some false ∧ instUp s (!false) = true ∧ (4 ≤ (s.inst (!false)).missed ↔ k = 4)) ∧
    (∀ b ∈ [true, false], let s := (withQtr { pmLost := b }).modKeeper (edgeSite (controllerEdge 0)) fun k => { k with beaconAt := some 5 };
      (s.keeper (edgeSite (controllerEdge (0 : QuarterId)))).beaconAt = some 5 ∧ (s.qtr (0 : QuarterId)).pmLost = b) := by decide +kernel

/-- The panel with its supply. -/
def withPower (p : Power) : State := { panel with power := p }

theorem test_witness_SensorsAlertsAndSupply :
    bit (withPower { good := 3 }).power.good 1 = true ∧ bit (withPower { good := 3 }).power.good 0 = true ∧
    (∀ t ∈ [true, false], let s := { panel with parts := [{ qmask := 1, cfg := {}, tick := t }], dies := [(0, { tripped := true })] };
      (s.die (0 : DieId)).tripped = true ∧ ((partOf s (dieQuarter (0 : DieId))).filter (·.tick)).isSome = t) ∧
    (activeMgr panel).isSome = true ∧ (panel.edge (0 : EdgeId)).state ≠ 2 ∧ ({ panel with edges := [(0, { state := 2 })] }.edge (0 : EdgeId)).state = 2 ∧
    bits ((panel.setReg thmStatAt 0).reg thmStatAt) 7 7 = 0 ∧ 3 < panel.mgr.step ∧
    (∀ f ∈ [0, 1, 2, 3], bit (withPower { fda := f }).power.fda (0 : Fin 16) = (f % 2 == 1)) ∧
    (withPower { fda := 1, fdaAt := some 5 }).power.fda = 2 ^ (0 : Fin 16).val ∧ (withPower { fda := 1, fdaAt := some 5 }).power.fdaAt = some 5 ∧
    (withPower { fda := 1, fdaAt := some 5 }).power.fdaLong = false ∧ panel.power.fault = false ∧ (0 : DomainId).val ≠ 6 := by decide +kernel

/-- The governor's state: telemetry newer than its last evaluation, or not; and a change under way, or not. -/
theorem test_witness_GovernorAndLedger :
    (∀ n ∈ [0, 5], let s := withMgr fun m => { m with telNs := n }; governs s = true ∧ eqxWaits s = false ∧ (s.mgr.govNs < s.mgr.telNs ↔ n = 5)) ∧
    governs (withQtr { svc := 1 }) = false ∧ eqxWaits (withMgr fun m => { m with locks := [testLock 4] }) = true ∧
    (let p : Packet := { typ := tMgmt, sub := 3, dagt := 5, payload := zeros 11 };
      let s := mgrBox p;
      activeMgr s = some false ∧ ejected s (portOfEdge (managerEdge false)).1 (portOfEdge (managerEdge false)).2
        (fun p => p.typ == tMgmt && p.sub == 3 && p.dagt == 5) = some p ∧ (partOf s 0).isSome = true ∧ partOf s 1 = none) ∧
    (∃ p, panel.parts = [p] ∧ p.qmask ≠ 0 ∧ p.qmask < 16 ∧ partOf panel (partQ p) = some p) ∧ State.reset.parts = [] := by
  refine ⟨?_, ?_, ?_, ?_, ⟨_, rfl, ?_⟩, rfl⟩
  all_goals decide +kernel

/-- A quarter whose dies are all withdrawn. -/
def goneDies (s : State) : State := { s with dies := (quarterDies 0).map fun d => (d, { state := 2 }) }

theorem test_witness_PowerStatesOfQuarters :
    (∀ w ∈ [0, 1, 2, 3, 4], let s := mbState 2 (leBytes 8 w);
      (mbOf s (0 : QuarterId) 2).isSome = true ∧ noService s (0 : QuarterId) = false ∧
      (∀ r ∈ mbOf s (0 : QuarterId) 2, natAt r.payload 0 1 = w ∧ natAt r.payload 2 6 = 0 ∧ r.payload.length = 8 ∧ natAt r.payload 1 1 = 0 ∧
        powerMask s 0 r = some 1) ∧ powerCause s 1 w = none) ∧
    powerMask (mbState 2 (zeros 8) true) 0 { tag := 0, op := 2, payload := zeros 8, oper := true } = none ∧
    powerCause (mbState 2 [] false id { pmoving := true }) 1 2 = some 3 ∧
    (∀ k ∈ [2, 3], ∀ g ∈ [1, 3], let x : Quarter := { svc := 2, pmoving := true, ptarget := k, pstage := g };
      let s := withQtr x; ((noTickEntry s 0).qtr 0) = x ∧ movingMask (noTickEntry s 0) 0 = 1 ∧ memQuiet (noTickEntry s 0) 1 = true ∧
      cluQuiet (noTickEntry s 0) 0 = true) ∧
    cluQuiet (panel { live := [(0, 0)] }) 0 = false ∧ (∃ c ∈ allClusters 1, c = 0) ∧
    (let s := withQtr { pmoving := true, ptarget := 3, pstage := 2 }; (s.qtr (0 : QuarterId)).pmoving = true ∧ (s.qtr 0).pstage = 2 ∧
      memQuiet s (movingMask s 0) = true ∧ remoteOpen s (movingMask s 0) = false) ∧
    (∀ k ∈ [1, 2, 3], let s := withQtr { pmoving := true, ptarget := 0, pstate := k }; (s.qtr (0 : QuarterId)).pmoving = true ∧ (s.qtr 0).ptarget = 0 ∧
      (partOf s (0 : QuarterId)).filter (·.tick) = none ∧ (partOf s (0 : QuarterId)).isSome = true ∧ (wokenUp s 1 = false) ∧ wokenUp (goneDies s) 1 = true) := by
  refine ⟨?_, ?_, ?_, ?_, ?_, ⟨0, List.mem_filter.2 ⟨List.mem_range.2 (by decide), by decide⟩, rfl⟩, ?_⟩
  all_goals decide +kernel

/-- Every cluster of quarter 0 of the panel is quiet. -/
theorem test_witness_PowerStatesOfQuarters_quiet : ∀ c, cluQuiet panel c = true := by
  intro c
  by_cases h : c = 0
  · subst h; decide +kernel
  · have : panel.cl c = {} := by simp [State.cl, panel, findD, find?, Ne.symm h]
    simp [cluQuiet, this]

/-- A partition in a reset. -/
def resetState (kind stage after : Nat) (x : Cluster := {}) : State :=
  { panel x with parts := [{ qmask := 1, cfg := testCfg, reset := some { kind := kind, start := 0, zero := false, target := 0, stage := stage, reply := some 0, after := after } }] }

theorem test_witness_ResetsOfPartitions :
    (∀ k ∈ [0, 1, 2, 3, 4, 5, 6, 7], let s := mbState 1 (leBytes 8 k);
      (mbOf s (0 : QuarterId) 1).isSome = true ∧ ∀ r ∈ mbOf s (0 : QuarterId) 1, (readReset r).sub = k ∧
        resetCause s 0 r (readReset r) = (if k = 0 ∨ k = 7 then some 7 else if k = 5 ∨ k = 6 then some 2 else none) ∧
        (resetPart s 0 r (readReset r)).isSome = true) ∧
    (∀ k ∈ [5, 6], let s := mbState 1 (leBytes 8 k) true; ∀ r ∈ mbOf s (0 : QuarterId) 1, resetCause s 0 r (readReset r) = none ∧ s.parts ≠ []) ∧
    (∀ k ∈ [1, 2, 3, 4, 5], ∀ g ∈ [0, 1, 2], ∀ a ∈ [0, 1], let s := resetState k g a; (partOf s (0 : QuarterId)).isSome = true ∧
      ∀ p ∈ partOf s (0 : QuarterId), partOf s (lowestQuarter p.qmask) = some p ∧ ∀ r ∈ p.reset, r.kind = k ∧ r.stage = g ∧ r.after = a ∧
        drained s p r = true ∧ ∀ x ∈ ([{ rtags := [farTag 0] }] : List Cluster), (k = 4 → drained (resetState k g a x) p r = false)) ∧
    cluOfLogical (resetState 3 0 0) 0 = some 0 ∧ (0 : Nat) ∈ maskClusters (resetState 4 0 0) 1 := by decide +kernel

/-- Field 0 with die 0 at position 0 and die 3 the spare, in a state of a SPARE_IN. -/
def spareState (proc : Nat) (f : Field → Field := id) (payload : Bytes := zeros 8) : State :=
  { mbState 4 payload with
    fields := [(0, f { map := [some 0], spare := some 3, proc := proc, procAt := some 5, nocopy := true })], dies := [(3, { state := 1 })]
    clusters := (List.range 4).map fun k => (4 * 3 + k, { fwOk := true }) }

theorem test_witness_SparesRetestsAndStacks :
    (activeMgr (spareState 0)).isSome = true ∧
    (∀ d ∈ [0, 3, 256], let s := spareState 0 id (leBytes 8 d); (mbOf s (0 : QuarterId) 4).isSome = true ∧
      ∀ r ∈ mbOf s (0 : QuarterId) 4, natAt r.payload 0 2 = d ∧ spareCause s 0 r d = (if d = 256 then some 7 else none) ∧
        spareRuns s (dieField d) = false ∧ (positionOf s d).isSome = (d == 0) ∧ vacantOf (s.fld (dieField d)) d = none) ∧
    spareRuns (spareState 2) 0 = true ∧ ((spareState 2).fld 0).old = 0 ∧ ((spareState 0 fun f => { f with past := [3] }).fld 0).past = [3] ∧
    (∃ c, ((spareState 0).fld 0).spare = some c ∧ ((spareState 0).die c).state ≠ 2) ∧ ((spareState 0 fun f => { f with spare := none }).fld 0).spare = none ∧
    ((spareState 2).fld (0 : FieldId)).spare = some 3 ∧ ((spareState 2).fld (0 : FieldId)).procAt = some 5 ∧ ((spareState 2).fld (0 : FieldId)).proc = 2 ∧
    (∀ k < 4, ((spareState 2).cl (4 * 3 + k)).fwOk = true) ∧ (∀ i < 16, clearing ((spareState 3).un (16 * 3 + i)) = false) ∧
    (copyIntoSpare (spareState 3) 0 3).isSome = true ∧ copyIntoSpare (spareState 3 fun f => { f with nocopy := false }) 0 3 = none ∧
    (let m : Maint := { code := 2, arg := 3, startFab := 0, qmask := 1 };
      (withMgr (fun x => { x with maint := [m] }) (spareState 0)).mgr.maint.find? (fun m => m.code == 2 && m.arg == (3 : DieId).val) = some m) ∧
    (∀ k ∈ [2, 3], let s := { spareState 0 with dies := [(1, { state := k })] }; (s.die 1).state = k ∧ (s.fld (dieField 1)).spare = some 3 ∧ 3 ≠ 1) ∧
    (∀ n ∈ [0, 1], let s := panel {} {} { missedPolls := n }; (s.qtr (stackQuarter (0 : StackId))).svc = 2 ∧ (s.mr (0 : StackId)).state ≠ 4 ∧
      (s.mr (0 : StackId)).missedPolls = n) := by
  refine ⟨rfl, ?_, ?_, ?_, ?_, ⟨3, by decide +kernel, by decide +kernel⟩, ?_⟩
  all_goals decide +kernel

theorem test_witness_SecurityScanAndTenantClear :
    doeServes panel = true ∧
    (∀ l ∈ [[], [0], [0, 1, 2], [0, 1, 2, 3]], let s := withQtr { sessions := l };
      lowestFree (s.qtr (0 : QuarterId)).sessions 4 = if l = [0, 1, 2, 3] then none else some l.length) ∧
    0 ∈ ((withQtr { sessions := [0] }).qtr (0 : QuarterId)).sessions ∧ (partOf panel (0 : QuarterId)).isSome = true ∧
    (∀ q : QuarterId, ((withQtr { svc := 3 }).qtr q).svc = 0 ∨ ((withQtr { svc := 3 }).qtr q).svc = 3) ∧
    (∃ q : QuarterId, (panel.qtr q).svc ≠ 0 ∧ (panel.qtr q).svc ≠ 3) ∧ operMgr panel (.tap false) = true ∧ operMgr panel (.host 0) = false ∧
    (bits (0x80000000 : BitVec 32).toNat 31 31 = 1 ∧ bits (0x80000000 : BitVec 32).toNat 30 22 < 400) ∧
    (∀ k ∈ [0, 1, 16], let s := mbState 5 (leBytes 8 k); (mbOf s (0 : QuarterId) 5).isSome = true ∧ noService s (0 : QuarterId) = false ∧
      ∀ r ∈ mbOf s (0 : QuarterId) 5, (match clearMask s 0 r with | .ok m => m | .error _ => 99) = if k = 0 then 1 else 99) ∧
    clearCause panel 1 = none ∧ clearCause (withQtr { pstate := 2 }) 1 = some 4 ∧
    (∀ k ∈ [1, 2], ∀ n ∈ [0, 1, 2, 3, 4, 5], let s := withQtr { clr := k, clrPass := n, clrAt := 7 };
      (s.qtr (0 : QuarterId)).clr = k ∧ (s.qtr (0 : QuarterId)).clrPass = n ∧ clearingMask s 0 = 1 ∧
      bit (clearingMask s 0) (stackQuarter (0 : StackId)) = true ∧ stackGone s (0 : StackId) = false) ∧
    (∀ p ∈ (resetState 1 2 1).parts.find? (fun p => p.qmask == 1), ∃ r, p.reset = some r ∧ r.stage = 2) := by
  refine ⟨?_, ?_, ?_, ?_, ?_, ?_, ?_, ?_, ?_, ?_, ?_, ?_, ?_, ?_⟩
  case refine_14 => intro p h; simp [resetState] at h; subst h; exact ⟨_, rfl, rfl⟩
  all_goals decide +kernel

/-! ### Single commands -/

/-- What a command leaves in register s3 of cluster 0, from s1 = 1 and s2 = −1; none where it does not answer a next state. -/
def s3After (i : Instr) (w : Nat) : Option Word :=
  match exec i (lvsState w) with
  | .next t => some (lvsReg t 0 3)
  | _ => none

/-- R136: the sum wraps; the shifts take Rs2[4:0]; SLT is signed and SLTU unsigned; MULHU gives the upper 32 bits. -/
theorem test_lvs_results : s3After (.add 0 3 1 2) 0b000000_000011_000001_000010_00000000 = some 0 ∧
    s3After (.srl 0 3 2 2) 0b000000_000011_000010_000010_00000110 = some 1 ∧
    s3After (.sra 0 3 2 1) 0b000000_000011_000010_000001_00000111 = some (-1) ∧
    s3After (.slt 0 3 2 1) 0b000000_000011_000010_000001_00001000 = some 1 ∧
    s3After (.sltu 0 3 2 1) 0b000000_000011_000010_000001_00001001 = some 0 ∧
    s3After (.mulhu 0 3 2 2) 0b000000_000011_000010_000010_00001011 = some 0xFFFFFFFE ∧
    s3After (.lui 0 3 0xFFFFF) 0b000110_000011_11111111111111111111 = some 0xFFFFF000 := by decide +kernel

/-- R136: nothing is written to s0, which reads 0. -/
theorem test_lvs_s0 : (match exec (.add 0 0 1 1) (lvsState 0b000000_000000_000001_000001_00000000) with
    | .next t => some (lvsReg t 0 0) | _ => none) = some 0 := by decide +kernel

/-! ### Worked examples of the spec -/

/-- CD37 stands at (8, 2), in F1 of Q0; MS18 at (7, 2) (R10). -/
theorem test_example_sites : dieSite 37 = 2 * 24 + 8 ∧ dieField 37 = 1 ∧ dieQuarter 37 = 0 ∧ stackSite 18 = 2 * 24 + 7 ∧
    fieldStacks 1 = [2, 3, 10, 11, 18, 19, 26, 27] := by decide +kernel

/-- Address 0x040_0012_3456 of a FIELD range over F1 lies at 0x0402_4456 of MS2, in slice 23, bank 18, row 21, half 0, its check at
0x8_EE08_0488 (R181, R182). -/
theorem test_example_placement :
    let h := placeIn { base := 0x4000000000, length := 0x1000000000, offset := 0x4000000, scope := 1, target := 1 } 0x4000123456
    h.stack = 2 ∧ h.so = 0x4024456 ∧ h.copy = none ∧ checkOff 65681 = 0x8EE080488 ∧ fold5 65681 = 23 ∧
    (dramPlace 0x4024456).slice = 23 ∧ (dramPlace 0x4024456).bank = 18 ∧ (dramPlace 0x4024456).row = 21 ∧ (dramPlace 0x4024456).pc = 0 ∧ (dramPlace 0x4024456).half = 0 := by
  decide +kernel

/-- The check values of the CRC-64 and of the CRC-32C over "123456789" (R191, R295). -/
theorem test_example_crcs : crc64 ((List.range 9).map fun i => BitVec.ofNat 8 (0x31 + i)) = 0x62EC59E3F1A4F00A ∧
    crc32c ((List.range 9).map fun i => BitVec.ofNat 8 (0x31 + i)) = 0xE3069283 := by decide +kernel

/-- The ring of queue 5: the entry of a 9-row message of cluster 18 in segment 6 (R161, R172, R174). -/
theorem test_example_entry :
    let d : QueueDecl := { clu := 0, queue := 5, unit := 2, ring := 5120, segRows := 16
                           chans := [(17, 0, false, false, 4), (18, 0, false, false, 4), (500, 3, true, false, 8)] }
    let m : Msg := { testMsg 2 with chan := 1, seg := 6, seq := 40, len := 8, sclu := 18 }
    chanOf d false 0 18 = some 1 ∧ chanOf d true 3 500 = some 2 ∧ chanFirstSeg d 1 = 4 ∧ chanFirstSeg d 2 = 8 ∧ ringSegs d = 16 ∧
      entryLow d m = 0x81221460 ∧ entryHigh d m = 0x00060028 := by decide +kernel

/-- The inputs of the example of R260 in FP32, and their sum in a window of EBASE −4 and SPAN 32. -/
def exampleSum : AccWord × Nat :=
  [0x4B800000, 0x401A0000, 0xCB800000, 0x3DC00000, 0xBF840000].foldl
    (fun (a, n) v => let r := addInput (-4) 32 a (decodeElem .fp32 v); (r.1, n + r.2.inexact)) (⟨0, false, false, false⟩, 0)

/-- The word, the inputs that lose bits, and the value read back in BF16 and FP32 (R260, R265). -/
theorem test_example_reduction : accNat exampleSum.1 = 0xB8 ∧ exampleSum.2 = 3 ∧ (readback .bf16 false (-4) exampleSum.1).1 = 0x3FB8 ∧
    (readback .fp32 false (-4) exampleSum.1).1 = 0x3FB80000 := by decide +kernel

/-- The worst pair of routers' nearest sites are 34 hops apart (R213). -/
theorem test_example_distance : siteDist (2 * 24 + 0) (13 * 24 + 23) = 34 := by decide

end Sys2Proof.Machine
end

section
/-! What every command keeps, over all of `exec`: the 279 commands of Laws/Keep*.lean and the two that can be a cold reset. -/

namespace Sys2Proof.Machine

/-- The commands that start the block anew: a cold reset, and a fault of VAON, which is domain 6 (R394, R439). -/
def coldResets : Instr → Bool
  | .coldReset => true
  | .domainFault dom _ _ => dom.val = 6
  | _ => false

theorem exec_coldResets {i : Instr} (hi : coldResets i = true) (s : State) : exec i s = execColdReset s := by
  cases i with
  | coldReset => rfl
  | domainFault dom => exact if_pos (of_decide_eq_true hi)
  | _ => cases hi

/-- Every other command goes on and keeps what `Keep` lists, by the lemma of its own meaning. -/
theorem keepRes_exec {i : Instr} (hi : coldResets i ≠ true) (s : State) : KeepRes s (exec i s) := by
  unfold exec
  cases i with
  | coldReset => exact absurd rfl hi
  | bringupStepTimeout => exact keep_execBringupStepTimeout (.refl s) ..
  | regionWake => exact keep_execRegionWake (.refl s) ..
  | headerStageCheck => exact keep_execHeaderStageCheck (.refl s) ..
  | regionPowerGood => exact keep_execRegionPowerGood (.refl s) ..
  | headerOpenCheck => exact keep_execHeaderOpenCheck (.refl s) ..
  | fwFetch => exact keep_execFwFetch (.refl s) ..
  | dayChecksDone => exact keep_execDayChecksDone (.refl s) ..
  | dayChange => exact keep_execDayChange (.refl s)
  | pmSvcCtl => exact keep_execPmSvcCtl (.refl s) ..
  | warmRstN => exact keep_execWarmRstN (.refl s)
  | warmResetStart => exact keep_execWarmResetStart (.refl s)
  | tickEdge => exact keep_execTickEdge (.refl s) ..
  | tickStart => exact keep_execTickStart (.refl s) ..
  | beaconSend => exact keep_execBeaconSend (.refl s)
  | beacon => exact keep_execBeacon (.refl s) ..
  | beaconMiss => exact keep_execBeaconMiss (.refl s) ..
  | beaconLoss => exact keep_execBeaconLoss (.refl s) ..
  | ppsEdge => exact keep_execPpsEdge (.refl s) ..
  | ppsMiss => exact keep_execPpsMiss (.refl s)
  | gtNsecRead => exact keep_execGtNsecRead (.refl s) ..
  | gtSetNow => exact keep_execGtSetNow (.refl s) ..
  | gtSetNextSecond => exact keep_execGtSetNextSecond (.refl s) ..
  | gtSetCancel => exact keep_execGtSetCancel (.refl s) ..
  | timeSetApply => exact keep_execTimeSetApply (.refl s)
  | eqxPost => exact keep_execEqxPost (.refl s) ..
  | eqxAck => exact keep_execEqxAck (.refl s)
  | eqxAckWindowEnd => exact keep_execEqxAckWindowEnd (.refl s)
  | eqxRampDone => exact keep_execEqxRampDone (.refl s)
  | eqxGo => exact keep_execEqxGo (.refl s) ..
  | eqxFreqChange => exact keep_execEqxFreqChange (.refl s) ..
  | eqxVoltageLower => exact keep_execEqxVoltageLower (.refl s)
  | keeperFallback => exact keep_execKeeperFallback (.refl s) ..
  | supplyDroop => exact keep_execSupplyDroop (.refl s) ..
  | droopStall => exact keep_execDroopStall (.refl s) ..
  | add => exact keep_execAdd (.refl s) ..
  | sub => exact keep_execSub (.refl s) ..
  | and => exact keep_execAnd (.refl s) ..
  | or => exact keep_execOr (.refl s) ..
  | xor => exact keep_execXor (.refl s) ..
  | sll => exact keep_execSll (.refl s) ..
  | srl => exact keep_execSrl (.refl s) ..
  | sra => exact keep_execSra (.refl s) ..
  | slt => exact keep_execSlt (.refl s) ..
  | sltu => exact keep_execSltu (.refl s) ..
  | mul => exact keep_execMul (.refl s) ..
  | mulhu => exact keep_execMulhu (.refl s) ..
  | addi => exact keep_execAddi (.refl s) ..
  | slti => exact keep_execSlti (.refl s) ..
  | andi => exact keep_execAndi (.refl s) ..
  | ori => exact keep_execOri (.refl s) ..
  | xori => exact keep_execXori (.refl s) ..
  | lui => exact keep_execLui (.refl s) ..
  | lw => exact keep_execLw (.refl s) ..
  | sw => exact keep_execSw (.refl s) ..
  | beq => exact keep_execBeq (.refl s) ..
  | bne => exact keep_execBne (.refl s) ..
  | blt => exact keep_execBlt (.refl s) ..
  | bltu => exact keep_execBltu (.refl s) ..
  | jal => exact keep_execJal (.refl s) ..
  | jalr => exact keep_execJalr (.refl s) ..
  | disp => exact keep_execDisp (.refl s) ..
  | dispm => exact keep_execDispm (.refl s) ..
  | dispatchStallRelease => exact keep_execDispatchStallRelease (.refl s) ..
  | waitg => exact keep_execWaitg (.refl s) ..
  | waitgSatisfied => exact keep_execWaitgSatisfied (.refl s) ..
  | grd => exact keep_execGrd (.refl s) ..
  | qrd => exact keep_execQrd (.refl s) ..
  | qcnt => exact keep_execQcnt (.refl s) ..
  | hslot => exact keep_execHslot (.refl s) ..
  | hend => exact keep_execHend (.refl s) ..
  | fend => exact keep_execFend (.refl s) ..
  | csrr => exact keep_execCsrr (.refl s) ..
  | csrw => exact keep_execCsrw (.refl s) ..
  | fence => exact keep_execFence (.refl s) ..
  | fenceSatisfied => exact keep_execFenceSatisfied (.refl s) ..
  | dispatchHeadDepart => exact keep_execDispatchHeadDepart (.refl s) ..
  | mma => exact keep_execMma (.refl s) ..
  | mmaComplete => exact keep_execMmaComplete (.refl s) ..
  | tagWaitSatisfied => exact keep_execTagWaitSatisfied (.refl s) ..
  | vopMov => exact keep_execVopMov (.refl s) ..
  | vopAdd => exact keep_execVopAdd (.refl s) ..
  | vopSub => exact keep_execVopSub (.refl s) ..
  | vopMul => exact keep_execVopMul (.refl s) ..
  | vopFma => exact keep_execVopFma (.refl s) ..
  | vopMin => exact keep_execVopMin (.refl s) ..
  | vopMax => exact keep_execVopMax (.refl s) ..
  | vopAbs => exact keep_execVopAbs (.refl s) ..
  | vopNeg => exact keep_execVopNeg (.refl s) ..
  | vopDiv => exact keep_execVopDiv (.refl s) ..
  | vopRcp => exact keep_execVopRcp (.refl s) ..
  | vopSqrt => exact keep_execVopSqrt (.refl s) ..
  | vopRsqrt => exact keep_execVopRsqrt (.refl s) ..
  | vopExp2 => exact keep_execVopExp2 (.refl s) ..
  | vopLog2 => exact keep_execVopLog2 (.refl s) ..
  | vopTanh => exact keep_execVopTanh (.refl s) ..
  | vopRowsum => exact keep_execVopRowsum (.refl s) ..
  | vopRowmax => exact keep_execVopRowmax (.refl s) ..
  | vopColsum => exact keep_execVopColsum (.refl s) ..
  | vopColmax => exact keep_execVopColmax (.refl s) ..
  | vopCmpx => exact keep_execVopCmpx (.refl s) ..
  | vopComplete _ _ w => exact keep_execVopComplete (.refl s) _ _ w
  | load => exact keep_execLoad (.refl s) ..
  | store => exact keep_execStore (.refl s) ..
  | send => exact keep_execSend (.refl s) ..
  | redAccumulate => exact keep_execRedAccumulate (.refl s) ..
  | redRead => exact keep_execRedRead (.refl s) ..
  | redReadClear => exact keep_execRedReadClear (.refl s) ..
  | waitGroupGe => exact keep_execWaitGroupGe (.refl s) ..
  | waitQueueNe => exact keep_execWaitQueueNe (.refl s) ..
  | waitFrameTime => exact keep_execWaitFrameTime (.refl s) ..
  | waitTagFull => exact keep_execWaitTagFull (.refl s) ..
  | waitTagEmpty => exact keep_execWaitTagEmpty (.refl s) ..
  | waitSatisfied => exact keep_execWaitSatisfied (.refl s) ..
  | commit => exact keep_execCommit (.refl s) ..
  | commitEvaluate => exact keep_execCommitEvaluate (.refl s) ..
  | commitCas => exact keep_execCommitCas (.refl s) ..
  | descComplete => exact keep_execDescComplete (.refl s) ..
  | seGenerateRequest => exact keep_execSeGenerateRequest (.refl s) ..
  | rd => exact keep_execRd (.refl s) ..
  | mrDramReadDone => exact keep_execMrDramReadDone (.refl s) ..
  | wr => exact keep_execWr (.refl s) ..
  | mrWriteDone => exact keep_execMrWriteDone (.refl s) ..
  | rdData => exact keep_execRdData (.refl s) ..
  | wrAck => exact keep_execWrAck (.refl s) ..
  | msg => exact keep_execMsg (.refl s) ..
  | msgAppend => exact keep_execMsgAppend (.refl s) ..
  | msgIncompleteDiscard => exact keep_execMsgIncompleteDiscard (.refl s) ..
  | msgDequeue => exact keep_execMsgDequeue (.refl s) ..
  | credit => exact keep_execCredit (.refl s) ..
  | cohGets => exact keep_execCohGets (.refl s) ..
  | cohGetm => exact keep_execCohGetm (.refl s) ..
  | cohPutm => exact keep_execCohPutm (.refl s) ..
  | cohFwdgets => exact keep_execCohFwdgets (.refl s) ..
  | cohFwdgetm => exact keep_execCohFwdgetm (.refl s) ..
  | cohInv => exact keep_execCohInv (.refl s) ..
  | cohInvack => exact keep_execCohInvack (.refl s) ..
  | cohData => exact keep_execCohData (.refl s) ..
  | cohUnblock => exact keep_execCohUnblock (.refl s) ..
  | cohPutack => exact keep_execCohPutack (.refl s) ..
  | cohRecall => exact keep_execCohRecall (.refl s) ..
  | atom => exact keep_execAtom (.refl s) ..
  | atomRsp => exact keep_execAtomRsp (.refl s) ..
  | scrubRead => exact keep_execScrubRead (.refl s) ..
  | scrubLockRetry => exact keep_execScrubLockRetry (.refl s) ..
  | mrTempSample => exact keep_execMrTempSample (.refl s) ..
  | routerSlot => exact keep_execRouterSlot (.refl s) ..
  | laneLossOfLock => exact keep_execLaneLossOfLock (.refl s) ..
  | laneRecalDone => exact keep_execLaneRecalDone (.refl s) ..
  | ejectFullTimeout => exact keep_execEjectFullTimeout (.refl s) ..
  | ejectSuspendEnd => exact keep_execEjectSuspendEnd (.refl s) ..
  | cmapLatch => exact keep_execCmapLatch (.refl s) ..
  | glintTake => exact keep_execGlintTake (.refl s)
  | glintReq => exact keep_execGlintReq (.refl s) ..
  | glintRec => exact keep_execGlintRec (.refl s)
  | glintRecordTimeout => exact keep_execGlintRecordTimeout (.refl s)
  | ingressReqAdmit => exact keep_execIngressReqAdmit (.refl s) ..
  | accumulateRow => exact keep_execAccumulateRow (.refl s) ..
  | readRow => exact keep_execReadRow (.refl s) ..
  | readClearRow => exact keep_execReadClearRow (.refl s) ..
  | replayRunStart => exact keep_execReplayRunStart (.refl s) ..
  | replayRunEnd => exact keep_execReplayRunEnd (.refl s) ..
  | ssLoad => exact keep_execSsLoad (.refl s) ..
  | ssCancel => exact keep_execSsCancel (.refl s) ..
  | streamValidate => exact keep_execStreamValidate (.refl s) ..
  | heartbeatSend => exact keep_execHeartbeatSend (.refl s) ..
  | flitHeartbeat => exact keep_execFlitHeartbeat (.refl s) ..
  | flitData => exact keep_execFlitData (.refl s) ..
  | flitCredit => exact keep_execFlitCredit (.refl s) ..
  | flitIdle => exact keep_execFlitIdle (.refl s) ..
  | flitLpi => exact keep_execFlitLpi (.refl s) ..
  | portLost => exact keep_execPortLost (.refl s) ..
  | portTrainDone => exact keep_execPortTrainDone (.refl s) ..
  | portTrainFail => exact keep_execPortTrainFail (.refl s) ..
  | egressSend => exact keep_execEgressSend (.refl s) ..
  | transportReqArrive => exact keep_execTransportReqArrive (.refl s) ..
  | transportRspArrive => exact keep_execTransportRspArrive (.refl s) ..
  | remoteTimeout => exact keep_execRemoteTimeout (.refl s) ..
  | tagQuarantineEnd => exact keep_execTagQuarantineEnd (.refl s) ..
  | bar2Read => exact keep_execBar2Read (.refl s) ..
  | bar2Write => exact keep_execBar2Write (.refl s) ..
  | bar2Atomic => exact keep_execBar2Atomic (.refl s) ..
  | dmaDoorbell => exact keep_execDmaDoorbell (.refl s) ..
  | h2p => exact keep_execH2p (.refl s) ..
  | p2h => exact keep_execP2h (.refl s) ..
  | h2pDecrypt => exact keep_execH2pDecrypt (.refl s) ..
  | dmaZero => exact keep_execDmaZero (.refl s) ..
  | dmaComplete => exact keep_execDmaComplete (.refl s) ..
  | dmaEngineDisable => exact keep_execDmaEngineDisable (.refl s) ..
  | msgBufferDoorbell => exact keep_execMsgBufferDoorbell (.refl s) ..
  | hostMsgPublish => exact keep_execHostMsgPublish (.refl s) ..
  | hostMsgDrop => exact keep_execHostMsgDrop (.refl s) ..
  | mailboxDoorbell => exact keep_execMailboxDoorbell (.refl s) ..
  | eclipse => exact keep_execEclipse (.refl s) ..
  | eclipseAbsorbEnd => exact keep_execEclipseAbsorbEnd (.refl s) ..
  | eclipseComplete => exact keep_execEclipseComplete (.refl s) ..
  | compatUnit => exact keep_execCompatUnit (.refl s) ..
  | compatCluster => exact keep_execCompatCluster (.refl s) ..
  | compatPartition => exact keep_execCompatPartition (.refl s) ..
  | compatPanel => exact keep_execCompatPanel (.refl s) ..
  | warmReset => exact keep_execWarmReset (.refl s) ..
  | drainComplete => exact keep_execDrainComplete (.refl s) ..
  | drainTimeout => exact keep_execDrainTimeout (.refl s) ..
  | pstateDay => exact keep_execPstateDay (.refl s) ..
  | pstateDim => exact keep_execPstateDim (.refl s) ..
  | pstateDusk => exact keep_execPstateDusk (.refl s) ..
  | pstateDark => exact keep_execPstateDark (.refl s) ..
  | pstateEntryDone => exact keep_execPstateEntryDone (.refl s) ..
  | selfRefreshEntry => exact keep_execSelfRefreshEntry (.refl s) ..
  | pstateWakeDone => exact keep_execPstateWakeDone (.refl s) ..
  | maintRequestRetest => exact keep_execMaintRequestRetest (.refl s) ..
  | maintRequestRecal => exact keep_execMaintRequestRecal (.refl s) ..
  | maintLockEvaluate => exact keep_execMaintLockEvaluate (.refl s)
  | retestDone => exact keep_execRetestDone (.refl s) ..
  | spareIn => exact keep_execSpareIn (.refl s) ..
  | spareCheckDone => exact keep_execSpareCheckDone (.refl s) ..
  | spareCopyDone => exact keep_execSpareCopyDone (.refl s) ..
  | tenantClear => exact keep_execTenantClear (.refl s) ..
  | tenantClearPass => exact keep_execTenantClearPass (.refl s) ..
  | defectMap => exact keep_execDefectMap (.refl s) ..
  | halt => exact keep_execHalt (.refl s) ..
  | shadowCopy => exact keep_execShadowCopy (.refl s) ..
  | mrPoll => exact keep_execMrPoll (.refl s) ..
  | pmHeartbeatSend => exact keep_execPmHeartbeatSend (.refl s) ..
  | pmHb => exact keep_execPmHb (.refl s) ..
  | pmHbMiss => exact keep_execPmHbMiss (.refl s) ..
  | journalAckTimeout => exact keep_execJournalAckTimeout (.refl s)
  | pmTakeover => exact keep_execPmTakeover (.refl s)
  | qcPmLost => exact keep_execQcPmLost (.refl s) ..
  | domainFault dom => exact keep_execDomainFault (.refl s) dom _ _ fun hd => hi (decide_eq_true hd)
  | softstartTimeout => exact keep_execSoftstartTimeout (.refl s) ..
  | ref25Loss => exact keep_execRef25Loss (.refl s)
  | fdaAssert => exact keep_execFdaAssert (.refl s) ..
  | fdaDeassert => exact keep_execFdaDeassert (.refl s) ..
  | fdaLong => exact keep_execFdaLong (.refl s)
  | telemetryRead => exact keep_execTelemetryRead (.refl s) ..
  | dieEnergyLatch => exact keep_execDieEnergyLatch (.refl s) ..
  | dieTempSample => exact keep_execDieTempSample (.refl s) ..
  | edgeTempSample => exact keep_execEdgeTempSample (.refl s) ..
  | coolantRead => exact keep_execCoolantRead (.refl s) ..
  | inletLost => exact keep_execInletLost (.refl s)
  | thermalFit => exact keep_execThermalFit (.refl s)
  | governorEvaluate => exact keep_execGovernorEvaluate (.refl s)
  | opsGather => exact keep_execOpsGather (.refl s)
  | pwrTokenAdd => exact keep_execPwrTokenAdd (.refl s) ..
  | ledgerSecond => exact keep_execLedgerSecond (.refl s)
  | snapshotDue => exact keep_execSnapshotDue (.refl s) ..
  | cntLatch => exact keep_execCntLatch (.refl s) ..
  | cntRec => exact keep_execCntRec (.refl s) ..
  | snapshotRecordTimeout => exact keep_execSnapshotRecordTimeout (.refl s) ..
  | slack => exact keep_execSlack (.refl s)
  | vouch => exact keep_execVouch (.refl s)
  | test => exact keep_execTest (.refl s) ..
  | delayEcho => exact keep_execDelayEcho (.refl s) ..
  | fwDigest => exact keep_execFwDigest (.refl s) ..
  | pmCmd => exact keep_execPmCmd (.refl s) ..
  | reg => exact keep_execReg (.refl s) ..
  | regRsp => exact keep_execRegRsp (.refl s) ..
  | pcieLinkDown => exact keep_execPcieLinkDown (.refl s) ..
  | settingsCommit => exact keep_execSettingsCommit (.refl s) ..
  | fwCommit => exact keep_execFwCommit (.refl s) ..
  | fwUpdate => exact keep_execFwUpdate (.refl s) ..
  | keyRevoke => exact keep_execKeyRevoke (.refl s) ..
  | spdmKeyExchange => exact keep_execSpdmKeyExchange (.refl s) ..
  | spdmGetMeasurements => exact keep_execSpdmGetMeasurements (.refl s) ..
  | keySet => exact keep_execKeySet (.refl s) ..
  | keyErase => exact keep_execKeyErase (.refl s) ..
  | traceStart => exact keep_execTraceStart (.refl s) ..
  | bypass => exact keep_execBypass (.refl s) ..
  | idcode => exact keep_execIdcode (.refl s) ..
  | samplePreload => exact keep_execSamplePreload (.refl s) ..
  | extest => exact keep_execExtest (.refl s) ..
  | dbgacc => exact keep_execDbgacc (.refl s) ..
  | registerWrite => exact keep_execRegisterWrite (.refl s) ..
  | spadClearDone => exact keep_execSpadClearDone (.refl s) ..
  | pminRaiseRetry => exact keep_execPminRaiseRetry (.refl s)
  | bucketDebtRepaid => exact keep_execBucketDebtRepaid (.refl s) ..
  | spdmEndSession => exact keep_execSpdmEndSession (.refl s) ..
  | domainPowerGood => exact keep_execDomainPowerGood (.refl s) ..
  | bringupStepEnd => exact keep_execBringupStepEnd (.refl s) ..
  | droopRecovery => exact keep_execDroopRecovery (.refl s) ..

theorem exec_goes_on (i : Instr) (s : State) : ∃ t, exec i s = .next t := by
  by_cases hi : coldResets i = true
  · exact ⟨_, exec_coldResets hi s⟩
  · obtain ⟨t, ht, -⟩ := keepRes_exec hi s
    exact ⟨t, ht⟩

/-- A step runs the command at the front of the queue, or lets a fabric cycle pass. -/
theorem step_goes_on (s : State) : SafeStep s := by
  unfold SafeStep StepsTo step
  cases s.pending with
  | nil => exact ⟨_, rfl⟩
  | cons c rest => exact exec_goes_on c _

/-- Settles O2: a cold reset answers the state of its record, every other command by `keepRes_exec`. -/
theorem everyCommandGoesOn : Obligations.EveryCommandGoesOn := ⟨exec_goes_on, step_goes_on⟩

end Sys2Proof.Machine
end

section
/-! Accesses to registers: what the shared operations of packets, counters, buckets and ports leave as they are, and the
statement of O41 clause by clause. -/

namespace Sys2Proof.Machine

/-! ### Packets that enter the mesh, and epochs -/

theorem sends_inject (s : State) (site port : Nat) (p : Packet) : Sends site port p s (inject s site port p) := by
  simp [Sends, inject, State.modRtr]

theorem rtr_popEject_ne (s : State) {site j : Nat} (port agt : Nat) (h : j ≠ site) :
    (popEject s site port agt).rtr j = s.rtr j := by
  simp [popEject, State.modRtr, State.setRtr_rtr, h]

theorem epoch_popEject (s : State) (site port agt : Nat) :
    ((popEject s site port agt).rtr site).epoch = (s.rtr site).epoch := by
  simp [popEject, State.modRtr]

theorem seeEpoch_eq (s : State) (site e : Nat) : seeEpoch s site e = { s with routers := (seeEpoch s site e).routers } := by
  unfold seeEpoch
  split <;> rfl

theorem rtr_seeEpoch_ne (s : State) {site j : Nat} (e : Nat) (h : j ≠ site) : (seeEpoch s site e).rtr j = s.rtr j := by
  unfold seeEpoch
  split
  · simp [State.modRtr, State.setRtr_rtr, h]
  · rfl

/-- A receiver that obeys has afterwards seen the sender's own epoch (R428). -/
theorem epoch_seeEpoch {s : State} {site : Nat} {k : Packet} (h : obeys s site k = true) :
    ((seeEpoch s site (k.addr % 65536)).rtr site).epoch = k.addr % 65536 := by
  have hle : (s.rtr site).epoch ≤ k.addr % 65536 := of_decide_eq_true h
  unfold seeEpoch
  split
  · simp [State.modRtr]
  · omega

theorem goes_pmCmd {s : State} {a : AgentPort} {k : Packet}
    (h : ejected s (portOf a).1 (portOf a).2 (fun k => k.typ == tMgmt && k.sub == 0xC) = some k) :
    Goes (.pmCmd a) s fun t => t = { s with routers := t.routers } ∧ (∀ j, j ≠ (portOf a).1 → t.rtr j = s.rtr j) ∧
      (t.rtr (portOf a).1).epoch = if obeys s (portOf a).1 k then k.addr % 65536 else (s.rtr (portOf a).1).epoch := by
  refine ⟨_, serve_eq (at_ := portOf a) _ _ h, ?_⟩
  have ho := obeys_popEject s (portOf a).1 (portOf a).2 k.dagt k
  rw [← ho]
  by_cases hk : obeys (popEject s (portOf a).1 (portOf a).2 k.dagt) (portOf a).1 k = true
  · rw [if_pos hk, if_pos hk]
    refine ⟨?_, fun j hj => (rtr_seeEpoch_ne _ _ hj).trans (rtr_popEject_ne _ _ _ hj), epoch_seeEpoch hk⟩
    rw [seeEpoch_eq, popEject_eq]
  · rw [if_neg hk, if_neg hk]
    exact ⟨popEject_eq .., fun j hj => rtr_popEject_ne _ _ _ hj, epoch_popEject ..⟩

/-! ### REG packets -/

/-- REG, where the home has room: the access is made unless the sender is a manager that is no longer obeyed. -/
theorem exec_reg {s : State} {a : AgentPort} {k : Packet}
    (h : ejected s (portOf a).1 (portOf a).2 (fun k => k.typ == tReg && k.dagt == regAgent (portOf a).1) = some k)
    (room : ∀ n, a = .router n → sharedHeld (s.mr n) < 128) :
    exec (.reg a) s = .next (
      if k.sagt = 5 then
        if obeys s (portOf a).1 k then
          regServe (seeEpoch (popEject s (portOf a).1 (portOf a).2 k.dagt) (portOf a).1 (k.addr % 65536)) (portOf a).1 k
        else popEject s (portOf a).1 (portOf a).2 k.dagt
      else regServe (popEject s (portOf a).1 (portOf a).2 k.dagt) (portOf a).1 k) := by
  show execReg a s = _
  unfold execReg
  dsimp only
  rw [if_pos, serve_eq (at_ := portOf a) _ _ h, obeys_popEject]
  cases a with
  | region r => rfl
  | router n => exact decide_eq_true (room n rfl)
  | edge e => rfl

theorem exec_reg_served {s : State} {a : AgentPort} {k : Packet}
    (h : ejected s (portOf a).1 (portOf a).2 (fun k => k.typ == tReg && k.dagt == regAgent (portOf a).1) = some k)
    (room : ∀ n, a = .router n → sharedHeld (s.mr n) < 128) (ho : k.sagt ≠ 5 ∨ obeys s (portOf a).1 k = true) :
    exec (.reg a) s = .next (regServe (if k.sagt = 5 then
      seeEpoch (popEject s (portOf a).1 (portOf a).2 k.dagt) (portOf a).1 (k.addr % 65536)
      else popEject s (portOf a).1 (portOf a).2 k.dagt) (portOf a).1 k) := by
  rw [exec_reg h room]
  by_cases h5 : k.sagt = 5
  · rw [if_pos h5, if_pos h5, if_pos (ho.resolve_left (not_not.2 h5))]
  · rw [if_neg h5, if_neg h5]

theorem regServe_write {s : State} {site : Nat} {k : Packet} (ho : ownControl site (leNat ((k.payload.drop 2).take 6)) = false)
    (hw : bit (leNat (k.payload.take 1)) 0 = true) :
    regServe s site k = fromRegAgent (writeWords (bit (leNat (k.payload.take 1)) 1) (leNat ((k.payload.drop 2).take 6))
        (leNat ((k.payload.drop 8).take 8)) (fun s a v => dieWrite s (bit (leNat (k.payload.take 1)) 2)
          (bit (leNat ((k.payload.drop 1).take 1)) 0) a v) s) site
      { withPayload { typ := tRegRsp, dsite := k.ssite, dagt := k.sagt } (leBytes 8 0) with
        sub := b2n (bit (leNat (k.payload.take 1)) 0) } := by
  unfold regServe
  dsimp only
  rw [if_neg (by rw [ho]; decide), if_pos hw]

theorem regServe_read {s : State} {site : Nat} {k : Packet} (ho : ownControl site (leNat ((k.payload.drop 2).take 6)) = false)
    (hw : bit (leNat (k.payload.take 1)) 0 = false) :
    let r := readWords (bit (leNat (k.payload.take 1)) 1) (leNat ((k.payload.drop 2).take 6))
      (fun s a => readDieWord s (leNat ((k.payload.drop 16).take 2)) a) s
    regServe s site k = fromRegAgent r.2 site
      { withPayload { typ := tRegRsp, dsite := k.ssite, dagt := k.sagt } (leBytes 8 r.1) with
        sub := b2n (bit (leNat (k.payload.take 1)) 0) } := by
  unfold regServe
  dsimp only
  rw [if_neg (by rw [ho]; decide), if_neg (by rw [hw]; decide)]

theorem regServe_ownControl {s : State} {site : Nat} {n : Nat} {k : Packet}
    (ho : ownControl site (leNat ((k.payload.drop 2).take 6)) = true) (hp : placeOf site = .stack n) :
    regServe s site k = homeRequest s n (regAtom k (bit (leNat (k.payload.take 1)) 0) (bit (leNat (k.payload.take 1)) 1)
      (leNat ((k.payload.drop 2).take 6)) (leNat ((k.payload.drop 8).take 8))) := by
  unfold regServe
  dsimp only
  rw [if_pos ho, hp]

/-! ### Counters, and the operator's accesses -/

/-- A counter that advances is the one register that changes. -/
theorem bump_counts (s : State) (a : Nat) :
    s.bump a = { s with regs := (s.bump a).regs } ∧ Counted a s (s.bump a) ∧ RegsBut [a] s (s.bump a) :=
  ⟨bump_eq s a, ctr_bump_self s a, fun _ hb => reg_bump_ne s (List.ne_of_not_mem_cons hb)⟩

/-- An operator's access to a die's registers is counted and leaves as one REG packet of the manager (R232, R483). -/
theorem operDie_sends (s : State) (b : Bool) (a : Nat) (w : Option Nat) (eight : Bool) (req : Nat) :
    let t := operDie s b a w eight req
    t = { s with regs := t.regs, routers := t.routers } ∧ Counted (secDbgAccCntAt (siteQuarter (siteOfReg a))) s t ∧
    RegsBut [secDbgAccCntAt (siteQuarter (siteOfReg a))] s t ∧
    Sends (edgeSite (managerEdge b)) 2 { regPacket (siteOfReg a) (regPayload w.isSome eight true false a (w.getD 0) req) with
      addr := (s.inst b).epoch % 65536, ssite := edgeSite (managerEdge b), sagt := 5 } s t := by
  obtain ⟨hu, hc, hr⟩ := bump_counts s (secDbgAccCntAt (siteQuarter (siteOfReg a)))
  unfold operDie regFrom injectEdge countDebug
  generalize s.bump (secDbgAccCntAt (siteQuarter (siteOfReg a))) = u at hu hc hr
  refine ⟨?_, hc, hr, ?_⟩
  · rw [inject_eq, hu]
  · rw [hu]
    exact sends_inject { s with regs := u.regs } ..

/-! ### DBGACC -/

theorem exec_dbgacc_misaligned {a : PAddr} {eight : Bool} (b : Bool) (w : Option (BitVec 64)) (s : State)
    (h : a.toNat % (if eight then 8 else 4) ≠ 0) : exec (.dbgacc b a w eight) s = .next s := by
  show execDbgacc b a w eight s = _
  unfold execDbgacc
  exact if_pos h

/-- With the gate shut a TAP reaches the VAON registers only, which it may read (R485). -/
theorem exec_dbgacc_shut {s : State} {b : Bool} {a : PAddr} {eight : Bool} (w : Option (BitVec 64))
    (h : a.toNat % (if eight then 8 else 4) = 0) (ht : tapReaches s b = false) :
    exec (.dbgacc b a w eight) s = .next (if w.isSome then s
      else giveValue (readWords eight a.toNat (fun s a => (vaonWord s b a, s)) s)) := by
  show execDbgacc b a w eight s = _
  unfold execDbgacc
  dsimp only
  rw [if_neg (not_not.2 h), if_pos (by rw [ht]; rfl), Option.isSome_map]

/-- A read that changes no state gives a value and leaves the state as it is. -/
theorem giveValue_readWords_pure (eight : Bool) (a : Nat) (f : State → Nat → Nat) (s : State) :
    ∃ x, giveValue (readWords eight a (fun s a => (f s a, s)) s) = s.emit (.value x) := by
  cases eight <;> exact ⟨_, rfl⟩

theorem exec_dbgacc_open {s : State} {b : Bool} {a : PAddr} {eight : Bool} (w : Option (BitVec 64))
    (h : a.toNat % (if eight then 8 else 4) = 0) (ht : tapReaches s b = true) :
    exec (.dbgacc b a w eight) s = .next (
      if inMgrArea a.toNat then operMgrAccess s (.tap b) a.toNat (w.map (·.toNat)) eight
      else if inDieArea a.toNat then operDie s b a.toNat (w.map (·.toNat)) eight (reqCode (.tap b))
      else if inControl a.toNat then operControl s b a.toNat (w.map (·.toNat)) eight
      else if inWindow a.toNat then operSpad s a.toNat (w.map (·.toNat)) (if eight then 8 else 4)
      else operMemory s a.toNat (w.map (·.toNat)) (if eight then 8 else 4)) := by
  show execDbgacc b a w eight s = _
  unfold execDbgacc
  dsimp only
  rw [if_neg (not_not.2 h), if_neg (by rw [ht]; decide)]
  simp only [apply_ite Host.Outcome.next]

theorem exec_dbgacc_die {s : State} {b : Bool} {a : PAddr} {eight : Bool} (w : Option (BitVec 64))
    (h : a.toNat % (if eight then 8 else 4) = 0) (ht : tapReaches s b = true) (hm : inMgrArea a.toNat = false)
    (hd : inDieArea a.toNat = true) :
    exec (.dbgacc b a w eight) s = .next (operDie s b a.toNat (w.map (·.toNat)) eight (reqCode (.tap b))) := by
  rw [exec_dbgacc_open w h ht, if_neg (by rw [hm]; decide), if_pos hd]

/-- What no area, window or placement range holds takes no write and reads 0 (R4). -/
theorem exec_dbgacc_unassigned {s : State} {b : Bool} {a : PAddr} {eight : Bool} (w : Option (BitVec 64))
    (h : a.toNat % (if eight then 8 else 4) = 0) (ht : tapReaches s b = true) (hm : inMgrArea a.toNat = false)
    (hd : inDieArea a.toNat = false) (hc : inControl a.toNat = false) (hw : inWindow a.toNat = false)
    (hq : memQuarter s a.toNat = none) :
    exec (.dbgacc b a w eight) s = .next (if w.isSome then s else s.emit (.value 0)) := by
  rw [exec_dbgacc_open w h ht, if_neg (by rw [hm]; decide), if_neg (by rw [hd]; decide), if_neg (by rw [hc]; decide),
    if_neg (by rw [hw]; decide)]
  unfold operMemory
  rw [hq, Option.isSome_map]

/-! ### Register writes of a host -/

theorem exec_registerWrite_down {s : State} {q : QuarterId} (a : PAddr) (v : BitVec 64) (how : RegWidth)
    (h : (s.qtr q).pcieUp = false) : exec (.registerWrite (.host q) a v how) s = .next s :=
  if_pos h

/-- A write of 4 or 8 bytes, or of another size, goes through BAR0 (R342). -/
theorem exec_registerWrite_bar0 {s : State} {q : QuarterId} {how : RegWidth} {k : Nat} (a : PAddr) (v : BitVec 64)
    (hk : (how, k) = (.four, 4) ∨ (how, k) = (.eight, 8) ∨ how = .other k) (h : (s.qtr q).pcieUp = true) :
    exec (.registerWrite (.host q) a v how) s = .next (bar0Write s q a.toNat k v.toNat) := by
  have hup : ¬ (s.qtr q).pcieUp = false := by rw [h]; decide
  obtain hk | hk | rfl := hk
  · cases hk
    exact if_neg hup
  · cases hk
    exact if_neg hup
  · exact if_neg hup

theorem exec_registerWrite_bar4 {s : State} {q : QuarterId} (a : PAddr) (v : BitVec 64) (k : Nat) (h : (s.qtr q).pcieUp = true) :
    exec (.registerWrite (.host q) a v (.bar4 k)) s = .next (bar4Write s q (a.toNat % 0x4000) k v.toNat) :=
  if_neg (by rw [h]; decide)

theorem exec_registerWrite_config {s : State} {q : QuarterId} (a : PAddr) (v : BitVec 64) (h : (s.qtr q).pcieUp = true) :
    exec (.registerWrite (.host q) a v .config) s = .next (sizeBar2 s q v.toNat) :=
  if_neg (by rw [h]; decide)

theorem bar0Write_misaligned {a n : Nat} (s : State) (q : QuarterId) (v : Nat) (h : barAligned a n = false) :
    bar0Write s q a n v = s.bump (hstBadAccCntAt q) :=
  if_pos (by rw [h]; rfl)

theorem bar0Write_unreached {s : State} {q : QuarterId} {a n : Nat} (v : Nat) (h : barAligned a n = true)
    (hr : bar0Reaches s q a = false) : bar0Write s q a n v = s := by
  unfold bar0Write
  rw [h, hr]
  rfl

/-- In host view a write to a die's registers acts at once on the host's own edge die, leaves as a REG packet for a die of its
partition, and is ignored for any other (R343, R474). -/
theorem bar0Write_die {s : State} {q : QuarterId} {a n : Nat} (v : Nat) (h : barAligned a n = true) (hr : bar0Reaches s q a = true)
    (hm : inMgrArea a = false) (hd : inDieArea a = true) (ho : isOperator s (.host q) = false) :
    bar0Write s q a n v =
      if siteOfReg a = edgeSite (controllerEdge q) then writeWords (n == 8) a v (fun s a v => dieWrite s false false a v) s
      else if bit (qmaskOf s q) (siteQuarter (siteOfReg a)) then
        injectEdge s (controllerEdge q) 4
          (regPacket (siteOfReg a) (regPayload true (n == 8) false true a v (reqCode (.host q))))
      else s := by
  unfold bar0Write hostWrite
  simp [h, hr, hm, hd, ho]

theorem bar4Write_misaligned {o n : Nat} (s : State) (q : QuarterId) (v : Nat) (hd : isDoorbell (o / 8 * 8) = false)
    (h : barAligned o n = false) : bar4Write s q o n v = s.bump (hstBadAccCntAt q) := by
  unfold bar4Write
  rw [hd, h]
  rfl

/-- A doorbell is written with 4 bytes (R349). -/
theorem bar4Write_doorbell_size {o n : Nat} (s : State) (q : QuarterId) (v : Nat) (hd : isDoorbell (o / 8 * 8) = true) (h : n ≠ 4) :
    bar4Write s q o n v = s.bump (hstBadAccCntAt q) := by
  unfold bar4Write
  rw [if_pos hd, if_neg fun hn => h hn.1]

theorem bar4Write_requestArea {o n : Nat} (s : State) (q : QuarterId) (v : Nat) (hd : isDoorbell (o / 8 * 8) = false)
    (h : barAligned o n = true) (hlo : 0x1000 ≤ o) (hhi : o < 0x2000) :
    bar4Write s q o n v = s.modQtr q fun x => putReqArea x (o - 0x1000) (leBytes n v) := by
  unfold bar4Write
  rw [if_neg (by rw [hd]; decide), if_neg (by rw [h]; decide), if_pos ⟨hlo, hhi⟩]

/-- Changing one quarter changes nothing else. -/
theorem modQtr_only (s : State) (q : Nat) (f : Quarter → Quarter) :
    s.modQtr q f = { s with quarters := (s.modQtr q f).quarters } ∧ OnlyQtr q s (s.modQtr q f) ∧
    (s.modQtr q f).qtr q = f (s.qtr q) :=
  ⟨rfl, fun _ hk => (State.setQtr_qtr ..).trans (if_neg hk), State.setQtr_self ..⟩

theorem sizeBar2_only (s : State) (q v : Nat) :
    sizeBar2 s q v = { s with quarters := (sizeBar2 s q v).quarters } ∧ OnlyQtr q s (sizeBar2 s q v) ∧
    (sizeBar2 s q v).qtr q =
      (let k := bits v 13 8; if 10 ≤ k ∧ k ≤ 16 then { s.qtr q with bar2Log := k - 10 } else s.qtr q) := by
  unfold sizeBar2
  dsimp only
  split
  · exact modQtr_only s q _
  · exact ⟨rfl, fun _ _ => rfl, rfl⟩

/-! ### Buckets that have repaid their debt -/

/-- The state at a later fabric cycle: only the clock, the keepers and the manager have moved on. -/
theorem advFab_record (s : State) (f : Nat) : ∃ ks m, advFab s f = { s with fab := max s.fab f, keepers := ks, mgr := m } :=
  ⟨_, _, by rw [← fab_advFab]; exact advFab_eq s f⟩

theorem endBucketWait_eq (s : State) (c cls : Nat) :
    ∃ b r, endBucketWait s c cls = { s with buckets := b, regs := r } := by
  unfold endBucketWait
  dsimp only
  split
  · exact ⟨_, _, rfl⟩
  · rw [bumpBy_eq]
    exact ⟨_, _, rfl⟩

theorem startBucketWait_eq (s : State) (c cls : Nat) : ∃ b, startBucketWait s c cls = { s with buckets := b } := by
  unfold startBucketWait
  dsimp only
  split <;> exact ⟨_, rfl⟩

/-- A cluster's packet that passes enters the mesh; besides, only buckets and the count of the wait change. -/
theorem passFirst_eq (s : State) (c cls : Nat) (p : Packet) (more : Bool) :
    ∃ b r, passFirst s c cls p more = { injectClu s c p with buckets := b, regs := r } := by
  unfold passFirst
  obtain ⟨b, r, he⟩ := endBucketWait_eq s c cls
  rw [he]
  split
  · obtain ⟨b', hs⟩ := startBucketWait_eq (injectClu (charge { s with buckets := b, regs := r } (bucketOf c cls)) c p) c cls
    rw [hs]
    exact ⟨_, _, rfl⟩
  · exact ⟨_, _, rfl⟩

/-- A cluster without the first packet that waits on bucket k: a credit return, or a control packet. -/
def afterFirst (x : Cluster) (k : Fin 3) (rest : List Packet) : Cluster :=
  if k = 0 then { x with credits := rest } else { x with ctrlOut := rest }

theorem passCluster_first {s : State} {c : ClusterId} {k : Fin 3} {p : Packet} {rest : List Packet}
    (h : (k = 0 ∧ (s.cl c).credits = p :: rest) ∨ (k = 2 ∧ (s.cl c).ctrlOut = p :: rest)) :
    passCluster s c k = passFirst (s.setCl c (afterFirst (s.cl c) k rest)) c k p !rest.isEmpty := by
  rcases h with ⟨rfl, h⟩ | ⟨rfl, h⟩
  all_goals
    unfold passCluster
    dsimp only
    rw [h]
    rfl

theorem exec_bucketDebtRepaid_cluster {s : State} {c : ClusterId} {k : Fin 3} {f : Nat}
    (hf : solventAt s (bucketOf c k) = some f) (hr : rgnRuns s (cluRgn c) = true) :
    exec (.bucketDebtRepaid (.cluster c k)) s = .next (passCluster (advFab s f) c k) := by
  show execBucketDebtRepaid (.cluster c k) s = _
  unfold execBucketDebtRepaid
  dsimp only
  rw [hf]
  exact if_pos hr

theorem noteEdgeWait_eq (s : State) (e : Nat) (more : Bool) :
    ∃ b r, noteEdgeWait s e more = { s with buckets := b, regs := r } ∧
      ((s.bucket (bucketOfEdge e)).waitAt = none → r = s.regs) := by
  unfold noteEdgeWait
  dsimp only
  split
  · exact ⟨_, _, rfl, fun _ => rfl⟩
  · rename_i hw
    rw [bumpBy_eq]
    exact ⟨_, _, rfl, fun hn => by rw [hn] at hw; cases hw⟩

/-- Changes of one port and of what has left the block. -/
def PortOut (p : Nat) (s t : State) : Prop := t = { s with ports := t.ports, out := t.out } ∧ OnlyPort p s t

theorem PortOut.trans {p : Nat} {s t u : State} (h : PortOut p s t) (k : PortOut p t u) : PortOut p s u := by
  obtain ⟨ht, hp⟩ := h
  obtain ⟨hu, kp⟩ := k
  exact ⟨by rw [hu, ht], fun j hj => (kp j hj).trans (hp j hj)⟩

theorem portOut_setPort (s : State) (p : Nat) (x : Port) : PortOut p s (s.setPort p x) :=
  ⟨rfl, fun _ hk => (State.setPort_port ..).trans (if_neg hk)⟩

theorem portOut_sendSeq (s : State) (p ftype : Nat) (body : Bytes) (pkts : List Packet) :
    PortOut p s (sendSeq s p ftype body pkts) := by
  have h : ∀ (x : Port) (o : Output), PortOut p s ((s.setPort p x).emit o) := fun x o =>
    (portOut_setPort s p x).trans ⟨rfl, fun _ _ => rfl⟩
  exact h _ _

theorem portOut_freeEntry (s : State) (p tcls : Nat) : PortOut p s (freeEntry s p tcls) := by
  have hgrant : ∀ u : State, PortOut p u (sendGrants u p) := by
    intro u
    unfold sendGrants
    dsimp only
    split
    · exact (portOut_setPort u p _).trans (portOut_sendSeq ..)
    · exact ⟨rfl, fun _ _ => rfl⟩
  exact (portOut_setPort s p _).trans (hgrant _)

theorem exec_admitNext {s : State} {e : EdgeId} {i : Instr} (hi : i ∈ [.bucketDebtRepaid (.edge e), .ingressReqAdmit e]) :
    exec i s = .next (admitNext s e) := by
  simp only [List.mem_cons, List.not_mem_nil, or_false] at hi
  rcases hi with rfl | rfl <;> rfl

/-- The request that has waited longest passes: besides its packet, the time, the edge die's queue, the bucket and the grant of
its port, only the count of the wait changes, where there was one. -/
theorem admitNext_eq {s : State} {e f p : Nat} {k : Packet} {rest : List (Nat × Packet)}
    (hq : (s.edge e).ingressReq = (p, k) :: rest) (hf : solventAt s (bucketOfEdge e) = some f) :
    ∃ b r, PortOut p { injectEdge ((advFab s f).modEdge e fun x => { x with ingressReq := rest }) e (p % 4) k with
        buckets := b, regs := r } (admitNext s e) ∧
      ((s.bucket (bucketOfEdge e)).waitAt = none → r = s.regs) := by
  obtain ⟨ks, m, ha⟩ := advFab_record s f
  obtain ⟨b, r, hn, hr⟩ := noteEdgeWait_eq
    (State.modEdge { s with fab := max s.fab f, keepers := ks, mgr := m } e fun x => { x with ingressReq := rest }) e (!rest.isEmpty)
  unfold admitNext
  rw [hq, hf]
  dsimp only
  rw [ha, hn]
  exact ⟨_, _, portOut_freeEntry .., hr⟩

/-! ### The statement -/

theorem goes_bucketDebtRepaid_cluster {s : State} {c : ClusterId} {k : Fin 3} {f : Nat} {p : Packet} {rest : List Packet}
    (hf : solventAt s (bucketOf c k) = some f) (hr : rgnRuns s (cluRgn c) = true)
    (h : (k = 0 ∧ (s.cl c).credits = p :: rest) ∨ (k = 2 ∧ (s.cl c).ctrlOut = p :: rest)) :
    Goes (.bucketDebtRepaid (.cluster c k)) s fun t => t.fab = max s.fab f ∧ OnlyCl c s t ∧ SameMem s t ∧
      Sends (cluSite c) (4 + c.val % 4 / 2) (fromClu c p) s t ∧ t.cl c = afterFirst (s.cl c) k rest := by
  refine ⟨_, exec_bucketDebtRepaid_cluster hf hr, ?_⟩
  rw [passCluster_first (by rw [cl_advFab]; exact h), cl_advFab]
  obtain ⟨b, r, hp⟩ := passFirst_eq ((advFab s f).setCl c (afterFirst (s.cl c) k rest)) c k p !rest.isEmpty
  obtain ⟨ks, m, ha⟩ := advFab_record s f
  rw [hp, ha]
  exact ⟨rfl, fun j hj => (State.setCl_cl ..).trans (if_neg hj), fun _ => rfl, sends_inject s .., State.setCl_self ..⟩

theorem goes_admit {s : State} {e : EdgeId} {p : Nat} {k : Packet} {rest : List (Nat × Packet)} {f : Nat} {i : Instr}
    (hq : (s.edge e).ingressReq = (p, k) :: rest) (hf : solventAt s (bucketOfEdge e) = some f)
    (hi : i ∈ [.bucketDebtRepaid (.edge e), .ingressReqAdmit e]) :
    Goes i s fun t => t.fab = max s.fab f ∧ SameMem s t ∧ OnlyPort p s t ∧ (∀ j, j ≠ e.val → t.edge j = s.edge j) ∧
      t.edge e = { s.edge e with ingressReq := rest } ∧
      Sends (edgeSite e) 2 { k with ssite := edgeSite e, sagt := p % 4 } s t ∧
      ((s.bucket (bucketOfEdge e)).waitAt = none → RegsBut [] s t) := by
  refine ⟨_, exec_admitNext hi, ?_⟩
  obtain ⟨b, r, ⟨ht, hport⟩, hr⟩ := admitNext_eq hq hf
  obtain ⟨ks, m, ha⟩ := advFab_record s f
  rw [ha] at ht hport
  refine ⟨by rw [ht]; rfl, fun a => by rw [ht]; rfl, hport, fun j hj => ?_, ?_, ?_, fun hw => ?_⟩
  · rw [ht]
    exact (State.setEdge_edge ..).trans (if_neg hj)
  · rw [ht]
    exact State.setEdge_self ..
  · rw [ht]
    exact sends_inject { s with edges := (s.modEdge e fun x => { x with ingressReq := rest }).edges } _ _ _
  · rw [ht, hr hw]
    exact fun _ _ => rfl

/-- Settles O41: each clause is the equation of its command, with the frame of the operation it comes to. -/
theorem registerAccesses : Obligations.RegisterAccesses := by
  intro s
  refine ⟨fun a k => ⟨goes_pmCmd, fun h room => ?_⟩, fun e k h => ?_, fun b a w eight => ?_, fun q a v => ?_,
    fun c k f p rest hf hr h => ?_, fun e p k rest f i hq hf hi => goes_admit hq hf hi⟩
  · -- REG
    refine ⟨fun h5 ho => ⟨_, exec_reg h room, ?_⟩, fun hs => ?_⟩
    · rw [if_pos h5, if_neg (by rw [ho]; decide)]
    intro w f addr data answer
    have hexec : exec (.reg a) s = .next (regServe w (portOf a).1 k) := exec_reg_served h room hs
    refine ⟨fun ho hf => ⟨_, hexec, ?_⟩, fun ho hf => ⟨_, hexec, ?_⟩, fun n ho hp => ⟨_, hexec, regServe_ownControl ho hp⟩⟩
    · rw [regServe_write ho hf]
      exact ⟨inject_eq .., sends_inject ..⟩
    · rw [regServe_read ho hf]
      exact ⟨inject_eq .., sends_inject ..⟩
  · have hexec : execRegRsp e s = _ := serve_eq _ _ h
    exact ⟨_, hexec, rfl⟩
  · -- DBGACC
    refine ⟨fun hn => ⟨_, exec_dbgacc_misaligned b w s hn, rfl⟩, fun hn => ⟨fun ht => ⟨_, exec_dbgacc_shut w hn ht, ?_⟩, fun ht =>
      ⟨fun hm => ⟨_, exec_dbgacc_open w hn ht, if_pos hm⟩, fun hm hd => ⟨_, exec_dbgacc_die w hn ht hm hd, ?_⟩,
        fun hm hd hc hw hq => ⟨_, exec_dbgacc_unassigned w hn ht hm hd hc hw hq, rfl⟩⟩⟩⟩
    · cases w with
      | some x => rfl
      | none => exact giveValue_readWords_pure ..
    · have hsends := operDie_sends s b a.toNat (w.map (·.toNat)) eight (reqCode (.tap b))
      rwa [Option.isSome_map] at hsends
  · -- REGISTER_WRITE of a host
    intro host n cnt
    refine ⟨fun how hup => ⟨_, exec_registerWrite_down a v how hup, rfl⟩, fun k how hk hup => ?_, fun k hup => ?_,
      fun hup => ⟨_, exec_registerWrite_config a v hup, sizeBar2_only ..⟩⟩
    · have hexec := exec_registerWrite_bar0 a v hk hup
      refine ⟨fun ha => ⟨_, hexec, ?_⟩, fun ha hr => ⟨_, hexec, bar0Write_unreached _ ha hr⟩, fun ha hr hm hd ho =>
        ⟨fun hown => ⟨_, hexec, ?_⟩, fun hown hq => ⟨_, hexec, ?_⟩, fun hown hq => ⟨_, hexec, ?_⟩⟩⟩
      · rw [bar0Write_misaligned _ _ _ ha]
        exact bump_counts ..
      · rw [bar0Write_die _ ha hr hm hd ho, if_pos hown]
      · rw [bar0Write_die _ ha hr hm hd ho, if_neg hown, if_neg (by rw [hq]; decide)]
      · rw [bar0Write_die _ ha hr hm hd ho, if_neg hown, if_pos hq]
        exact ⟨inject_eq .., sends_inject ..⟩
    · have hexec := exec_registerWrite_bar4 (q := q) a v k hup
      refine ⟨fun hd ha => ⟨_, hexec, ?_⟩, fun hd hk => ⟨_, hexec, ?_⟩, fun hd ha hlo hhi => ⟨_, hexec, ?_⟩⟩
      · rw [bar4Write_misaligned _ _ _ hd ha]
        exact bump_counts ..
      · rw [bar4Write_doorbell_size _ _ _ hd hk]
        exact bump_counts ..
      · rw [bar4Write_requestArea _ _ _ hd ha hlo hhi]
        exact modQtr_only ..
  · exact goes_bucketDebtRepaid_cluster hf hr h

end Sys2Proof.Machine
end

section
/-! The clause of O45 on the memory that a cluster's tick edge touches does not hold of every state: the units of an abandoned
cluster first make the accesses that are due, and where a VOP's row lands is bounded by the checks at its issue (R146) alone. -/

namespace Sys2Proof.Machine

/-- A MOV of one FP32 row by unit 3 to tile 127, row 63, square block 4: the byte after the last of the unit's scratchpad window. -/
def strayVop : Desc :=
  { did := 0, frame := 0
    raw := BitVec.ofNat 256 (1 + 3 * 2 ^ 4 + 1 * 2 ^ 37 + 2 * 2 ^ 48 + 127 * 2 ^ 56 + 4 * 2 ^ 63 + 63 * 2 ^ 68 + 7 * 2 ^ 128 + 7 * 2 ^ 160) }

/-- Unit 3 with that VOP begun and its row computed: the write is due. -/
def strayUnit : UnitState :=
  { issued := [{ d := strayVop, begun := true, beganAt := 0, span := 0, ord := 0, frameIdx := 0,
                 todo := [⟨0, .write 0⟩], lane := { rows := [[1]] } }] }

/-- Cluster 0 in late work, its unit 3 as above, in region clock 1. -/
def strayState : State :=
  { clusters := [(0, { seq := .run, late := some 0 })], units := [(3, strayUnit)], regions := [(0, { clocks := 1 })] }

/-- At its issue the VOP would have been refused: its tile and square block are out of RANGE (R146, R149).
No clause of O45 asks that what stands in a unit has passed this check. -/
theorem illegal_strayVop : illegal strayState 0 strayVop = some 7 := by decide +kernel

/-- The edge abandons the late work, and the row lands in the scratchpad of unit 4, of cluster 1. -/
theorem clusterEdge_strayState_writes_next_cluster :
    memByte (clusterEdge strayState 0 0 1).2.mem (spadAt 4 0) = 1 ∧ memByte strayState.mem (spadAt 4 0) = 0 := by
  decide +kernel

/-- Refutes O45: at the edge that abandons cluster 0's late work, a due write of its unit 3 lands past the cluster's four
scratchpads. -/
theorem not_tickEdgesAndFrames : ¬ Obligations.TickEdgesAndFrames := by
  unfold Obligations.TickEdgesAndFrames
  rintro ⟨-, hcluster⟩
  obtain ⟨hedge, -⟩ := hcluster strayState
  obtain ⟨hmem, -⟩ := hedge 0 0 1 one_ne_zero rfl
  have hkept := hmem (spadAt 4 0) (.inr le_rfl)
  obtain ⟨hafter, hbefore⟩ := clusterEdge_strayState_writes_next_cluster
  have : (1 : Byte) = 0 := hafter.symm.trans (hkept.trans hbefore)
  exact absurd this (by decide)

end Sys2Proof.Machine
end

section
/-! A step as the run of the command at the front of the queue, and the direction of time (O1, O7). -/

namespace Sys2Proof.Machine

theorem step_cons {s : State} {c : Instr} {rest : List Instr} (h : s.pending = c :: rest) :
    step s = exec c { s with pending := rest } := by
  unfold step
  rw [h]

theorem step_nil {s : State} (h : s.pending = []) : step s = .next (idleCycle s) := by
  unfold step
  rw [h]

theorem fab_idleCycle (s : State) : (idleCycle s).fab = s.fab + 1 :=
  (fab_advFab s (s.fab + 1)).trans (by omega)

/-- Settles O1: the front of the queue decides between the two branches of `step`, and an idle cycle is a passage of time. -/
theorem stepRunsFront : Obligations.StepRunsFront :=
  ⟨fun _ _ _ h => step_cons h, fun s h => ⟨_, step_nil h, fab_idleCycle s, advFab_eq s _⟩⟩

theorem coldResets_iff (i : Instr) :
    coldResets i = true ↔ i = .coldReset ∨ ∃ cause status, i = .domainFault 6 cause status := by
  cases i with
  | coldReset => simp [coldResets]
  | domainFault dom => simp [coldResets, Fin.ext_iff]
  | _ => simp [coldResets]

/-- Settles O7: a cold reset begins the count anew, every other command keeps the direction of time (`keepRes_exec`), and an
idle cycle adds one. -/
theorem timeNeverRunsBack : Obligations.TimeNeverRunsBack := by
  intro s t h
  unfold StepsTo at h
  cases hp : s.pending with
  | nil =>
    cases (step_nil hp).symm.trans h
    exact .inl (by rw [fab_idleCycle]; omega)
  | cons c rest =>
    rw [step_cons hp] at h
    by_cases hc : coldResets c = true
    · rw [exec_coldResets hc] at h
      cases h
      obtain rfl | ⟨cause, status, rfl⟩ := (coldResets_iff c).1 hc
      · exact .inr ⟨rfl, rest, .inl rfl⟩
      · exact .inr ⟨rfl, rest, .inr ⟨cause, status, rfl⟩⟩
    · obtain ⟨u, hu, hkeep⟩ := keepRes_exec hc { s with pending := rest }
      cases hu.symm.trans h
      exact .inl hkeep.fab

end Sys2Proof.Machine
end

section
/-! The passage of time as the keepers and the manager see it, beacons and the 1PPS input (O25). -/

namespace Sys2Proof.Machine

/-! ### Slewing -/

/-- Slewing changes a keeper's offset, what is left of its slew and the cycle of the last step. -/
theorem slewKeeper_eq (f : Nat) (k : Keeper) : ∃ a d n, slewKeeper f k = { k with adj := a, toSlew := d, slewAt := n } := by
  unfold slewKeeper
  dsimp only
  split
  · exact ⟨_, _, _, rfl⟩
  · exact ⟨_, _, _, rfl⟩

theorem slewMgr_eq (f : Nat) (m : Manager) : ∃ a d n, slewMgr f m = { m with adj := a, toSlew := d, slewAt := n } := by
  unfold slewMgr
  dsimp only
  split
  · exact ⟨_, _, _, rfl⟩
  · exact ⟨_, _, _, rfl⟩

/-- The passage of time only slews the keepers. -/
theorem keeper_advFab (s : State) (f k : Nat) :
    ∃ a d n, (advFab s f).keeper k = { s.keeper k with adj := a, toSlew := d, slewAt := n } := by
  unfold advFab
  split
  · exact ⟨_, _, _, rfl⟩
  · unfold State.keeper findD
    dsimp only
    rw [find?_mapSnd fun _ => slewKeeper f]
    cases find? s.keepers k with
    | none => exact ⟨_, _, _, rfl⟩
    | some x => exact slewKeeper_eq f x

/-- The passage of time only slews the manager. -/
theorem mgr_advFab (s : State) (f : Nat) : ∃ a d n, (advFab s f).mgr = { s.mgr with adj := a, toSlew := d, slewAt := n } := by
  unfold advFab
  split
  · exact ⟨_, _, _, rfl⟩
  · exact slewMgr_eq f s.mgr

theorem missed_advFab (s : State) (f k : Nat) : ((advFab s f).keeper k).missed = (s.keeper k).missed := by
  obtain ⟨a, d, n, h⟩ := keeper_advFab s f k
  rw [h]

/-! ### Records written twice -/

theorem putAt_putAt {α : Type} (m : List (Nat × α)) (k : Nat) (x y : α) : putAt (putAt m k x) k y = putAt m k y := by
  induction m with
  | nil => simp [putAt]
  | cons e t ih =>
    obtain ⟨j, z⟩ := e
    by_cases hlt : k < j
    · simp [putAt, hlt]
    · by_cases heq : k = j
      · simp [putAt, heq]
      · simp [putAt, hlt, heq, ih]

theorem setKeeper_setKeeper (s : State) (site : Nat) (x y : Keeper) :
    (s.setKeeper site x).setKeeper site y = s.setKeeper site y := by
  unfold State.setKeeper
  rw [putAt_putAt]

/-! ### What small updates leave as it is -/

theorem regsBut_setReg (s : State) (a v : Nat) : RegsBut [a] s (s.setReg a v) := fun _ hb =>
  (State.setReg_reg ..).trans (if_neg (List.ne_of_not_mem_cons hb))

theorem regsBut_refreshSusp (s : State) : RegsBut [pmFabSuspAt, pmFabSuspCntAt] s (refreshSusp s) := by
  intro a ha
  simp only [List.mem_cons, List.not_mem_nil, or_false, not_or] at ha
  exact refreshSusp_reg s a ha.1 ha.2

/-! ### Beacons -/

/-- The packets that the active manager sends to a list of routers change routers alone. -/
theorem foldl_fromMgr_eq (g : Nat → Packet) (l : List Nat) (s : State) :
    l.foldl (fun u i => fromMgr u (g i)) s = { s with routers := (l.foldl (fun u i => fromMgr u (g i)) s).routers } :=
  foldl_routers (fun u i => fromMgr u (g i)) (fun u i => fromMgr_eq u (g i)) l s

/-- The manager notes its time as that of the beacons it now sends. -/
def noteBeacon (v : State) : State := { v with mgr := { v.mgr with beaconNs := mgrNs v } }

/-- The beacons that carry the manager's time to all routers change routers alone. -/
theorem sendBeacons_facts (v : State) :
    let t := (List.range 400).foldl (fun u i => fromMgr u (beaconTo i (mgrNs v))) (noteBeacon v)
    t.mgr.beaconNs = mgrNs v ∧ t.fab = v.fab ∧ t = { v with mgr := { v.mgr with beaconNs := mgrNs v }, routers := t.routers } := by
  have hfold := foldl_fromMgr_eq (fun i => beaconTo i (mgrNs v)) (List.range 400) (noteBeacon v)
  refine ⟨?_, ?_, hfold⟩
  · rw [hfold]
    rfl
  · rw [hfold]
    rfl

theorem exec_beaconSend {s : State} (h : (activeMgr s).isSome = true) :
    exec .beaconSend s = .next ((List.range 400).foldl
      (fun u i => fromMgr u (beaconTo i (mgrNs (advMgr s (s.mgr.beaconNs + 16000).toNat))))
      (noteBeacon (advMgr s (s.mgr.beaconNs + 16000).toNat))) := by
  obtain ⟨b, hb⟩ := Option.isSome_iff_exists.1 h
  show execBeaconSend s = _
  unfold execBeaconSend
  rw [hb]
  rfl

theorem goes_beaconSend {s : State} (h : (activeMgr s).isSome = true) : Goes .beaconSend s fun t =>
    let v := advMgr s (s.mgr.beaconNs + 16000).toNat
    t.mgr.beaconNs = mgrNs v ∧ t.fab = v.fab ∧ t = { v with mgr := { v.mgr with beaconNs := mgrNs v }, routers := t.routers } ∧
    t = (List.range 400).foldl (fun u i => fromMgr u (beaconTo i (mgrNs v))) { v with mgr := { v.mgr with beaconNs := mgrNs v } } := by
  obtain ⟨hns, hfab, hrest⟩ := sendBeacons_facts (advMgr s (s.mgr.beaconNs + 16000).toNat)
  exact ⟨_, exec_beaconSend h, hns, hfab, hrest, rfl⟩

/-- A receiver that obeys a packet has changed its router alone before it acts (R428). -/
theorem seeEpoch_popEject_eq (s : State) (site port agt e : Nat) :
    ∃ r, seeEpoch (popEject s site port agt) site e = { s with routers := r } :=
  ⟨_, by rw [seeEpoch_eq, popEject_eq]⟩

/-- What a keeper notes of a beacon it obeys (R36 to R38), at fabric cycle f. -/
def hearBeacon (f : Nat) (p : Packet) (k : Keeper) : Keeper :=
  { k with beaconAt := some f, missed := 0, freeRun := false, src := p.ssite != edgeSite 0 }

/-- A keeper that is to slew by d from fabric cycle f on (R36). -/
def slewFrom (f : Nat) (d : Int) (k : Keeper) : Keeper := { k with toSlew := d, slewAt := max k.slewAt (f - 10000) }

/-- The slew a beacon asks for at a keeper that knows its path delay d (R36). -/
def beaconSlew (s : State) (site : Nat) (p : Packet) (d : Nat) : Int :=
  beaconTarget p d + ((s.fab - p.ejAt) / 2 : Nat) - nsAt s site

/-- The keeper after a beacon it obeys: it slews where it knows its path delay. -/
def afterBeacon (s : State) (site : Nat) (p : Packet) : Keeper :=
  let k := hearBeacon s.fab p (s.keeper site)
  match k.delay with
  | none => k
  | some d => slewFrom s.fab (beaconSlew s site p d) k

/-- What BEACON does to a state at whose keeper the beacon is obeyed. -/
theorem beacon_served (s : State) (site : Nat) (p : Packet) :
    (let u := s.modKeeper site (hearBeacon s.fab p)
     match (u.keeper site).delay with
     | none => refreshSusp u
     | some d => refreshSusp (setSlew u site (beaconTarget p d + ((u.fab - p.ejAt) / 2 : Nat) - nsAt u site))) =
    refreshSusp (s.setKeeper site (afterBeacon s site p)) := by
  have hself : (s.modKeeper site (hearBeacon s.fab p)).keeper site = hearBeacon s.fab p (s.keeper site) := State.setKeeper_self ..
  have hns : nsAt (s.modKeeper site (hearBeacon s.fab p)) site = nsAt s site := by
    unfold nsAt
    rw [hself]
    rfl
  dsimp only
  rw [hns, hself]
  unfold afterBeacon
  dsimp only
  cases hd : (hearBeacon s.fab p (s.keeper site)).delay with
  | none => rfl
  | some d =>
    dsimp only
    unfold setSlew State.modKeeper
    rw [State.setKeeper_self, setKeeper_setKeeper]
    rfl

/-- BEACON at a keeper that obeys: its keeper changes; besides, only its router and the suspensions follow. -/
theorem exec_beacon {s : State} {site : RouterId} {p : Packet}
    (h : ejected s site (regPort site) (fun p => p.typ == tBeacon) = some p) (ho : obeys s site p = true) :
    ∃ r, exec (.beacon site) s = .next (refreshSusp (State.setKeeper { s with routers := r } site (afterBeacon s site p))) := by
  obtain ⟨r, hr⟩ := seeEpoch_popEject_eq s site (regPort site) p.dagt (p.addr % 65536)
  have hexec : exec (.beacon site) s = _ := serve_eq (at_ := (site.val, regPort site)) _ _ h
  rw [obeys_popEject, if_pos ho, hr] at hexec
  exact ⟨r, hexec.trans (congrArg Host.Outcome.next (beacon_served { s with routers := r } site p))⟩

theorem goes_beacon {s : State} {site : RouterId} {p : Packet}
    (h : ejected s site (regPort site) (fun p => p.typ == tBeacon) = some p) (ho : obeys s site p = true) :
    Goes (.beacon site) s fun t => t.keeper site = afterBeacon s site p ∧ (∀ k, k ≠ site.val → t.keeper k = s.keeper k) ∧
      SameMem s t ∧ RegsBut [pmFabSuspAt, pmFabSuspCntAt] s t ∧ t.fab = s.fab := by
  obtain ⟨r, hr⟩ := exec_beacon h ho
  refine ⟨_, hr, ?_, fun k hk => ?_, fun a => ?_, fun a ha => ?_, ?_⟩
  · rw [keeper_refreshSusp, State.setKeeper_self]
  · rw [keeper_refreshSusp, State.setKeeper_keeper, if_neg hk]
    rfl
  · rw [mem_refreshSusp]
    rfl
  · rw [regsBut_refreshSusp _ a ha]
    rfl
  · rw [fab_refreshSusp]
    rfl

/-- Whether it begins a slew or not, a beacon leaves the keeper's time as it is and is noted. -/
theorem afterBeacon_fields (s : State) (site : Nat) (p : Packet) :
    (afterBeacon s site p).adj = (s.keeper site).adj ∧ (afterBeacon s site p).beaconAt = some s.fab ∧
    (afterBeacon s site p).missed = 0 ∧ (afterBeacon s site p).freeRun = false ∧
    (afterBeacon s site p).src = (p.ssite != edgeSite 0) := by
  unfold afterBeacon
  dsimp only
  split <;> exact ⟨rfl, rfl, rfl, rfl, rfl⟩

theorem afterBeacon_toSlew {s : State} {site d : Nat} (p : Packet) (h : (s.keeper site).delay = some d) :
    (afterBeacon s site p).toSlew = beaconSlew s site p d := by
  have hd : (hearBeacon s.fab p (s.keeper site)).delay = some d := h
  unfold afterBeacon
  dsimp only
  rw [hd]
  rfl

/-! ### Missed beacons -/

/-- A missed beacon is counted at a die that has the counter, which a stack has not (R509). -/
theorem bumpBeaconMiss_counts (s : State) (site : Nat) :
    let t := bumpBeaconMiss s site
    t = { s with regs := t.regs } ∧ RegsBut [gtBeaconMissCntAt (keeperGtBlk site)] s t ∧
    ((∀ n, placeOf site ≠ .stack n) → Counted (gtBeaconMissCntAt (keeperGtBlk site)) s t) := by
  unfold bumpBeaconMiss
  dsimp only
  split
  · rename_i n hn
    exact ⟨rfl, fun _ _ => rfl, fun h => absurd hn (h n)⟩
  · obtain ⟨heq, hcnt, hregs⟩ := bump_counts s (gtBeaconMissCntAt (keeperGtBlk site))
    exact ⟨heq, hregs, fun _ => hcnt⟩

theorem sameMem_advFab (s : State) (f : Nat) : SameMem s (advFab s f) := fun a => by rw [mem_advFab]

theorem exec_beaconMiss {s : State} (site : RouterId) (h : s.mgr.step ≠ 1) :
    exec (.beaconMiss site) s = .next (bumpBeaconMiss
      ((advFab s (beaconSince (s.keeper site) + 32000 * ((s.keeper site).missed + 1))).modKeeper site
        fun k => { k with missed := k.missed + 1 }) site) := by
  show execBeaconMiss site s = _
  unfold execBeaconMiss
  rw [if_neg h]

/-- A keeper counts an interval without a beacon, at fabric cycle f. -/
theorem missBeacon_facts (s : State) (site f : Nat) :
    let t := bumpBeaconMiss ((advFab s f).modKeeper site fun k => { k with missed := k.missed + 1 }) site
    t.fab = max s.fab f ∧ SameMem s t ∧ (t.keeper site).missed = (s.keeper site).missed + 1 ∧
    RegsBut [gtBeaconMissCntAt (keeperGtBlk site)] s t ∧
    ((∀ n, placeOf site ≠ .stack n) → Counted (gtBeaconMissCntAt (keeperGtBlk site)) s t) := by
  obtain ⟨heq, hregs, hcnt⟩ :=
    bumpBeaconMiss_counts ((advFab s f).modKeeper site fun k => { k with missed := k.missed + 1 }) site
  refine ⟨?_, ?_, ?_, fun a ha => (hregs a ha).trans (reg_advFab s f a), fun hp => ?_⟩
  · rw [heq]
    exact fab_advFab s f
  · rw [heq]
    exact sameMem_advFab s f
  · rw [heq]
    show (((advFab s f).modKeeper site fun k => { k with missed := k.missed + 1 }).keeper site).missed = _
    rw [keeper_modKeeper, if_pos rfl]
    exact congrArg (· + 1) (missed_advFab s f site)
  · have hctr := hcnt hp
    unfold Counted at hctr ⊢
    rw [← ctr_advFab s f]
    exact hctr

theorem goes_beaconMiss {s : State} (site : RouterId) (h : s.mgr.step ≠ 1) :
    Goes (.beaconMiss site) s fun t =>
      t.fab = max s.fab (beaconSince (s.keeper site) + 32000 * ((s.keeper site).missed + 1)) ∧ SameMem s t ∧
      (t.keeper site).missed = (s.keeper site).missed + 1 ∧ RegsBut [gtBeaconMissCntAt (keeperGtBlk site)] s t ∧
      ((∀ n, placeOf site ≠ .stack n) → Counted (gtBeaconMissCntAt (keeperGtBlk site)) s t) :=
  ⟨_, exec_beaconMiss site h, missBeacon_facts s site _⟩

theorem exec_beaconLoss {s : State} (site : RouterId) (h : s.mgr.step ≠ 1) :
    exec (.beaconLoss site) s = .next (refreshSusp
      ((advFab s (beaconSince (s.keeper site) + 2000001)).modKeeper site fun k => { k with freeRun := true })) := by
  show execBeaconLoss site s = _
  unfold execBeaconLoss
  rw [if_neg h]

/-- A keeper that runs free from fabric cycle f on. -/
theorem runFree_facts (s : State) (site f : Nat) :
    let t := refreshSusp ((advFab s f).modKeeper site fun k => { k with freeRun := true })
    t.fab = max s.fab f ∧ SameMem s t ∧ (t.keeper site).freeRun = true ∧ RegsBut [pmFabSuspAt, pmFabSuspCntAt] s t := by
  refine ⟨?_, fun a => ?_, ?_, fun a ha => ?_⟩
  · rw [fab_refreshSusp]
    exact fab_advFab s f
  · rw [mem_refreshSusp]
    exact sameMem_advFab s f a
  · rw [keeper_refreshSusp, keeper_modKeeper, if_pos rfl]
  · rw [regsBut_refreshSusp _ a ha]
    exact reg_advFab s f a

theorem goes_beaconLoss {s : State} (site : RouterId) (h : s.mgr.step ≠ 1) :
    Goes (.beaconLoss site) s fun t => t.fab = max s.fab (beaconSince (s.keeper site) + 2000001) ∧ SameMem s t ∧
      (t.keeper site).freeRun = true ∧ RegsBut [pmFabSuspAt, pmFabSuspCntAt] s t :=
  ⟨_, exec_beaconLoss site h, runFree_facts s site _⟩

/-! ### 1PPS -/

/-- The manager has recorded an edge and its offset (R39). -/
def notePps (s : State) : State :=
  (s.setReg (gtPpsOfsAt panelGtBlk) (ofSigned 32 (ppsOffset s))).modMgr fun m => { m with ppsNs := some (mgrNs s) }

theorem exec_ppsEdge {s : State} {falling : Bool} (h : ppsOn s = true)
    (hf : bit (s.reg (gtPpsCtlAt panelGtBlk)) 1 = falling) :
    exec (.ppsEdge falling) s = .next (if bit (s.reg (gtPpsCtlAt panelGtBlk)) 2 && !follows s
      then setMgrSlew (notePps s) (-ppsOffset s) else notePps s) := by
  have hctl : (notePps s).reg (gtPpsCtlAt panelGtBlk) = s.reg (gtPpsCtlAt panelGtBlk) :=
    regsBut_setReg s (gtPpsOfsAt panelGtBlk) _ _ (by decide)
  have hrole : (notePps s).reg pmXtimeCtlAt = s.reg pmXtimeCtlAt :=
    regsBut_setReg s (gtPpsOfsAt panelGtBlk) _ _ (by decide)
  have hfollows : follows (notePps s) = follows s := by
    unfold follows State.regField
    rw [hrole]
  have hexec : exec (.ppsEdge falling) s = .next (if bit ((notePps s).reg (gtPpsCtlAt panelGtBlk)) 2 && !follows (notePps s)
      then setMgrSlew (notePps s) (-ppsOffset s) else notePps s) :=
    if_pos (by rw [h, hf, beq_self_eq_true]; rfl)
  rw [hexec, hctl, hfollows]

theorem goes_ppsEdge {s : State} {falling : Bool} (h : ppsOn s = true)
    (hf : bit (s.reg (gtPpsCtlAt panelGtBlk)) 1 = falling) : Goes (.ppsEdge falling) s fun t =>
    t.reg (gtPpsOfsAt panelGtBlk) = ofSigned 32 (ppsOffset s) ∧ RegsBut [gtPpsOfsAt panelGtBlk] s t ∧
    t.mgr.ppsNs = some (mgrNs s) ∧ t = { s with regs := t.regs, mgr := t.mgr } ∧ t.mgr.adj = s.mgr.adj ∧
    t.mgr.toSlew = if bit (s.reg (gtPpsCtlAt panelGtBlk)) 2 && !follows s then -ppsOffset s else s.mgr.toSlew := by
  refine ⟨_, exec_ppsEdge h hf, ?_⟩
  have hofs : (notePps s).reg (gtPpsOfsAt panelGtBlk) = ofSigned 32 (ppsOffset s) := State.setReg_self ..
  have hregs : RegsBut [gtPpsOfsAt panelGtBlk] s (notePps s) := regsBut_setReg s (gtPpsOfsAt panelGtBlk) _
  split
  · exact ⟨hofs, hregs, rfl, rfl, rfl, rfl⟩
  · exact ⟨hofs, hregs, rfl, rfl, rfl, rfl⟩

/-- The manager's next whole second. -/
def nextSecond (s : State) : Nat := (mgrNs s / 1000000000 + 1) * 1000000000

theorem exec_ppsMiss {s : State} (h : ppsOn s = true)
    (hns : ∀ e, s.mgr.ppsNs = some e → e + 1000000000 < nextSecond s) :
    exec .ppsMiss s = .next (((advMgr s (nextSecond s)).bump (gtPpsMissCntAt panelGtBlk)).modMgr fun m => { m with
      ppsNs := none, toSlew := if follows s then m.toSlew else 0 }) := by
  have hexec : exec .ppsMiss s = _ := if_pos h
  rw [hexec]
  refine if_neg ?_
  cases he : s.mgr.ppsNs with
  | none => exact Bool.false_ne_true
  | some e => exact fun hle => Nat.not_le_of_lt (hns e he) (of_decide_eq_true hle)

/-- A second without an edge is counted at fabric cycle f, whatever the manager notes of it. -/
theorem missPps_facts (s : State) (f : Nat) (g : Manager → Manager) :
    let t := ((advFab s f).bump (gtPpsMissCntAt panelGtBlk)).modMgr g
    Counted (gtPpsMissCntAt panelGtBlk) s t ∧ SameMem s t ∧ RegsBut [gtPpsMissCntAt panelGtBlk] s t := by
  obtain ⟨heq, hcnt, hregs⟩ := bump_counts (advFab s f) (gtPpsMissCntAt panelGtBlk)
  refine ⟨?_, ?_, fun a ha => (hregs a ha).trans (reg_advFab s f a)⟩
  · unfold Counted at hcnt ⊢
    rw [← ctr_advFab s f]
    exact hcnt
  · rw [heq]
    exact sameMem_advFab s f

theorem goes_ppsMiss {s : State} (h : ppsOn s = true)
    (hns : ∀ e, s.mgr.ppsNs = some e → e + 1000000000 < nextSecond s) : Goes .ppsMiss s fun t =>
    t.mgr.ppsNs = none ∧ Counted (gtPpsMissCntAt panelGtBlk) s t ∧ SameMem s t ∧ RegsBut [gtPpsMissCntAt panelGtBlk] s t ∧
    (follows s = false → t.mgr.toSlew = 0) := by
  obtain ⟨hcnt, hmem, hregs⟩ := missPps_facts s (mgrInstant s (nextSecond s)) fun m => { m with
    ppsNs := none, toSlew := if follows s then m.toSlew else 0 }
  exact ⟨_, exec_ppsMiss h hns, rfl, hcnt, hmem, hregs, fun hf => if_neg (by rw [hf]; decide)⟩

/-- Settles O25: each clause is the law of its command. -/
theorem beaconsAndPps : Obligations.BeaconsAndPps := by
  intro s
  refine ⟨goes_beaconSend, fun site p h ho => ?_, fun site hstep => ⟨goes_beaconMiss site hstep, goes_beaconLoss site hstep⟩,
    fun falling => goes_ppsEdge, goes_ppsMiss⟩
  obtain ⟨t, hexec, hkeeper, hothers, hmem, hregs, hfab⟩ := goes_beacon h ho
  obtain ⟨hadj, hat, hmissed, hfree, hsrc⟩ := afterBeacon_fields s site p
  rw [← hkeeper] at hadj hat hmissed hfree hsrc
  refine ⟨t, hexec, ⟨hothers, hmem⟩, hregs, hfab, hadj, hat, hmissed, hfree, hsrc, fun d hd => ?_⟩
  rw [hkeeper, afterBeacon_toSlew p hd]
  rfl

end Sys2Proof.Machine
end

section
/-! Reads of GT_NSEC and of what else this row reads, and the sets of global time (O26). -/

namespace Sys2Proof.Machine

/-! ### Reads of a keeper and of the manager -/

theorem nsAt_latchSeconds (s : State) (site req : Nat) : nsAt (latchSeconds s site req) site = nsAt s site := by
  unfold nsAt latchSeconds
  rw [keeper_modKeeper, if_pos rfl]
  rfl

/-- What a read of GT_NSEC of the keeper at a router does to the state that is left of its count. -/
theorem latchSeconds_facts (s : State) (site req : Nat) :
    let t := latchSeconds s site req
    t = { s with keepers := t.keepers } ∧ (∀ k, k ≠ site → t.keeper k = s.keeper k) ∧ nsAt t site = nsAt s site ∧
    findD (t.keeper site).snap req 0 = nsAt s site / 1000000000 % 2 ^ 48 ∧
    ∀ r, r ≠ req → findD (t.keeper site).snap r 0 = findD (s.keeper site).snap r 0 := by
  intro t
  have hself : t.keeper site = { s.keeper site with
      snap := putAt (s.keeper site).snap req (nsAt s site / 1000000000 % 2 ^ 48) } :=
    (keeper_modKeeper ..).trans (if_pos rfl)
  refine ⟨rfl, fun k hk => (keeper_modKeeper ..).trans (if_neg hk), nsAt_latchSeconds .., ?_, fun r hr => ?_⟩
  · rw [hself]
    exact findD_putAt_self ..
  · rw [hself]
    exact findD_putAt_ne _ _ _ hr

/-- The state in which a requester's read of a keeper is made: an operator's is counted (R483). -/
def countRead (s : State) (who : Requester) (q : Nat) : State := if isOperator s who then countDebug s q else s

theorem countRead_facts (s : State) (who : Requester) (q : Nat) :
    let t := countRead s who q
    t = { s with regs := t.regs } ∧ RegsBut [secDbgAccCntAt q] s t ∧
    (isOperator s who = true → Counted (secDbgAccCntAt q) s t) ∧ (isOperator s who = false → t.regs = s.regs) := by
  unfold countRead
  split
  · rename_i ho
    obtain ⟨heq, hcnt, hregs⟩ := bump_counts s (secDbgAccCntAt q)
    exact ⟨heq, hregs, fun _ => hcnt, fun hn => absurd (ho.symm.trans hn) (by decide)⟩
  · rename_i ho
    exact ⟨rfl, fun _ _ => rfl, fun h => absurd h ho, fun _ => rfl⟩

theorem exec_gtNsecRead_keeper {s : State} {who : Requester} {site : RouterId} (h : readsKeeper s who site = true) :
    exec (.gtNsecRead who (.keeper site)) s = .next
      ((latchSeconds (countRead s who (siteQuarter site)) site (reqCode who)).emit
        (.value (nsAt (latchSeconds (countRead s who (siteQuarter site)) site (reqCode who)) site % 1000000000))) :=
  if_pos h

theorem goes_gtNsecRead_keeper {s : State} {who : Requester} {site : RouterId} (h : readsKeeper s who site = true) :
    Goes (.gtNsecRead who (.keeper site)) s fun t =>
    t.out = .value (nsAt s site % 1000000000) :: s.out ∧ t = { s with regs := t.regs, keepers := t.keepers, out := t.out } ∧
    (∀ k, k ≠ site.val → t.keeper k = s.keeper k) ∧ nsAt t site = nsAt s site ∧
    findD (t.keeper site).snap (reqCode who) 0 = nsAt s site / 1000000000 % 2 ^ 48 ∧
    (∀ r, r ≠ reqCode who → findD (t.keeper site).snap r 0 = findD (s.keeper site).snap r 0) ∧
    RegsBut [secDbgAccCntAt (siteQuarter site)] s t ∧
    (isOperator s who = true → Counted (secDbgAccCntAt (siteQuarter site)) s t) ∧ (isOperator s who = false → t.regs = s.regs) := by
  refine ⟨_, exec_gtNsecRead_keeper h, ?_⟩
  obtain ⟨hu, hcount⟩ := countRead_facts s who (siteQuarter site)
  generalize countRead s who (siteQuarter site) = u at hu hcount
  have hns : nsAt u site = nsAt s site := by
    rw [hu]
    rfl
  have hkeeper : ∀ k, u.keeper k = s.keeper k := fun k => by
    rw [hu]
    rfl
  obtain ⟨ht, hothers, hsame, hsnap, hsnaps⟩ := latchSeconds_facts u site (reqCode who)
  refine ⟨?_, ?_, fun k hk => (hothers k hk).trans (hkeeper k), hsame.trans hns, hsnap.trans (by rw [hns]),
    fun r hr => (hsnaps r hr).trans (by rw [hkeeper]), hcount⟩
  · have hout : u.out = s.out := by rw [hu]
    rw [hsame, hns, ← hout]
    rfl
  · rw [hu]
    rfl

theorem exec_gtNsecRead_panel {s : State} {who : Requester} (h : readsPanel s who = true) :
    exec (.gtNsecRead who .panel) s = .next ((latchPanel s (reqCode who)).emit (.value (mgrNs s % 1000000000))) :=
  if_pos h

theorem goes_gtNsecRead_panel {s : State} {who : Requester} (h : readsPanel s who = true) : Goes (.gtNsecRead who .panel) s fun t =>
    t.out = .value (mgrNs s % 1000000000) :: s.out ∧ t = { s with mgr := { s.mgr with panelSnap := t.mgr.panelSnap }, out := t.out } ∧
    findD t.mgr.panelSnap (reqCode who) 0 = mgrNs s / 1000000000 % 2 ^ 48 ∧
    ∀ r, r ≠ reqCode who → findD t.mgr.panelSnap r 0 = findD s.mgr.panelSnap r 0 :=
  ⟨_, exec_gtNsecRead_panel h, rfl, rfl, findD_putAt_self .., fun _ hr => findD_putAt_ne _ _ _ hr⟩

/-! ### Reads of a host whose link is up -/

theorem toHost_up {s : State} {q : Nat} (o : Output) (h : (s.qtr q).pcieUp = true) : toHost s q o = s.emit o := if_pos h

theorem barAligned_iff (o n : Nat) : barAligned o n = true ↔ (n = 4 ∨ n = 8) ∧ o % n = 0 := by simp [barAligned]

/-- What its view does not reach reads 0 (R343). -/
theorem exec_gtNsecRead_unreached {s : State} {q : QuarterId} {site : RouterId} (h : (s.qtr q).pcieUp = true)
    (hr : readsKeeper s (.host q) site = false) : exec (.gtNsecRead (.host q) (.keeper site)) s = .next (s.emit (.value 0)) := by
  have hexec : exec (.gtNsecRead (.host q) (.keeper site)) s = .next (toHost s q (.value 0)) :=
    if_neg (by rw [hr]; decide)
  rw [hexec, toHost_up _ h]

theorem exec_gtNsecRead_bar0 {s : State} {q : QuarterId} (o : BitVec 28) (n : Fin 4097) (h : (s.qtr q).pcieUp = true) :
    exec (.gtNsecRead (.host q) (.bar0 o n)) s = .next (bar0Read s q o.toNat n.val) :=
  congrArg Host.Outcome.next (if_pos h)

theorem exec_gtNsecRead_bar4 {s : State} {q : QuarterId} (o : BitVec 14) (n : Fin 4097) (h : (s.qtr q).pcieUp = true) :
    exec (.gtNsecRead (.host q) (.bar4 o n)) s = .next (bar4Read s q o.toNat n.val) :=
  congrArg Host.Outcome.next (if_pos h)

theorem bar0Read_misaligned {o n : Nat} (s : State) (q : QuarterId) (h : ¬((n = 4 ∨ n = 8) ∧ o % n = 0)) :
    bar0Read s q o n = (s.bump (hstBadAccCntAt q)).emit (.bar2 q [] 2) := by
  rw [← barAligned_iff, Bool.not_eq_true] at h
  unfold bar0Read
  rw [h]
  rfl

/-- The doorbells of BAR4 read 0 (R349). -/
theorem bar4Read_doorbell {s : State} {q : QuarterId} {o n : Nat} (hup : (s.qtr q).pcieUp = true) (hn : n = 4 ∨ n = 8)
    (ha : o % n = 0) (ho : o < 0x1000) : bar4Read s q o n = s.emit (.value 0) := by
  have hzero : bar4Read s q o n = toHost s q (.value 0) := by
    unfold bar4Read
    dsimp only
    rw [(barAligned_iff o n).2 ⟨hn, ha⟩, if_neg (by decide), if_neg (by omega), if_neg (by omega)]
    rfl
  rw [hzero, toHost_up _ hup]

theorem exec_gtNsecRead_ids {s : State} {q : QuarterId} (hup : (s.qtr q).pcieUp = true) (hstep : 3 < s.mgr.step) :
    exec (.gtNsecRead (.host q) (.config .ids)) s = .next (s.emit (.value (0x9384 * 2 ^ 16 + Config.vendorId.toNat))) := by
  have hread : configRead s q .ids = toHost s q (.value (0x9384 * 2 ^ 16 + Config.vendorId.toNat)) := if_neg (by omega)
  show Host.Outcome.next (configRead s q .ids) = _
  rw [hread, toHost_up _ hup]

/-! ### Time sets -/

/-- A set for an instant is staged (R42, R43). -/
theorem gtSet_accepted {s : State} {who : Requester} (at_ : Nat) (ho : operMgr s who = true) (hs : s.mgr.set = none)
    (h : setRefusal s = 0) :
    gtSet s who at_ = (s.modMgr fun m => { m with set := some (at_, stagedNs s / 1000000000, stagedNs s % 1000000000) }).setReg
      (gtSetStatAt panelGtBlk) 1 := by
  unfold gtSet setPending
  rw [ho, hs, h]
  rfl

/-- A refused set records its cause (R44). -/
theorem gtSet_refused {s : State} {who : Requester} (at_ : Nat) (ho : operMgr s who = true) (hs : s.mgr.set = none)
    (h : setRefusal s ≠ 0) :
    gtSet s who at_ = (s.setReg (gtSetStatAt panelGtBlk) 3).setReg (gtSetWhyAt panelGtBlk) (setRefusal s) := by
  obtain ⟨n, hn⟩ := Nat.exists_eq_succ_of_ne_zero h
  unfold gtSet setPending
  rw [ho, hs, hn]
  rfl

/-- NOW and NEXT_SECOND of the operator with no set pending, for the instant each of them chooses (R42 to R44). -/
theorem goes_gtSet {s : State} {who : Requester} {i : Instr} {at_ : Nat} (hexec : exec i s = .next (gtSet s who at_))
    (ok : Nat → Prop) (hok : ok at_) (ho : isOperator s who = true) (ha : (activeMgr s).isSome = true) (hs : s.mgr.set = none) :
    let stat := gtSetStatAt panelGtBlk
    (setRefusal s = 0 → Goes i s fun t => t.reg stat = 1 ∧ RegsBut [stat] s t ∧ t = { s with regs := t.regs, mgr := t.mgr } ∧
      ∃ at_, ok at_ ∧ t.mgr = { s.mgr with set := some (at_, stagedNs s / 1000000000, stagedNs s % 1000000000) }) ∧
    (∀ c, setRefusal s = c → c ≠ 0 → Goes i s fun t => t.reg stat = 3 ∧ t.reg (gtSetWhyAt panelGtBlk) = c ∧
      RegsBut [stat, gtSetWhyAt panelGtBlk] s t ∧ t = { s with regs := t.regs }) := by
  have hop : operMgr s who = true := by rw [operMgr, ho, ha]; rfl
  refine ⟨fun h0 => ⟨_, hexec, ?_⟩, fun c hc h0 => ⟨_, hexec, ?_⟩⟩
  · rw [gtSet_accepted at_ hop hs h0]
    exact ⟨State.setReg_self .., regsBut_setReg s _ 1, rfl, at_, hok, rfl⟩
  · subst hc
    rw [gtSet_refused at_ hop hs h0]
    refine ⟨?_, State.setReg_self .., fun a hmem => ?_, rfl⟩
    · rw [State.setReg_reg, if_neg (by decide), State.setReg_self]
    · simp only [List.mem_cons, List.not_mem_nil, or_false, not_or] at hmem
      rw [State.setReg_reg, if_neg hmem.2, State.setReg_reg, if_neg hmem.1]

/-- NOW takes a beacon's instant at least 4 µs ahead (R43). -/
theorem setBeaconInstant_ahead (s : State) : mgrNs s + 4000 ≤ setBeaconInstant s := by
  unfold setBeaconInstant
  dsimp only
  split <;> omega

theorem goes_gtSetCancel {s : State} {who : Requester} (ho : isOperator s who = true) (ha : (activeMgr s).isSome = true)
    (hs : s.mgr.set.isSome = true) : Goes (.gtSetCancel who) s fun t =>
    t.reg (gtSetStatAt panelGtBlk) = 4 ∧ RegsBut [gtSetStatAt panelGtBlk] s t ∧
    t = { s with regs := t.regs, mgr := { s.mgr with set := none } } := by
  have hexec : exec (.gtSetCancel who) s =
      .next ((s.modMgr fun m => { m with set := none }).setReg (gtSetStatAt panelGtBlk) 4) := by
    refine congrArg Host.Outcome.next (if_pos ?_)
    rw [operMgr, ho, ha, setPending, hs]
    rfl
  exact ⟨_, hexec, State.setReg_self .., regsBut_setReg s _ 4, rfl⟩

/-- Every keeper and the manager take a new time at instant t of the time until now (R43). -/
def setTime (v : State) (t new : Nat) : State :=
  let adj : Int := (new : Int) - (v.fab / 2 : Nat)
  { v with
    keepers := (List.range 400).map fun i => (i, { v.keeper i with adj := adj, toSlew := 0 })
    mgr := { v.mgr with
      adj := adj, toSlew := 0, set := none, setAt := v.fab, beaconNs := v.mgr.beaconNs + new - t, ppsNs := none } }

theorem exec_timeSetApply {s : State} {at_ sec ns : Nat} (h : s.mgr.set = some (at_, sec, ns)) :
    exec .timeSetApply s = .next ((discardAverage (setTime (advMgr s at_) at_ (sec * 1000000000 + ns))).setReg
      (gtSetStatAt panelGtBlk) 2) := by
  show execTimeSetApply s = _
  unfold execTimeSetApply
  rw [h]
  rfl

theorem keeper_setTime (v : State) (t new : Nat) {k : Nat} (hk : k < 400) :
    (setTime v t new).keeper k = { v.keeper k with adj := (new : Int) - (v.fab / 2 : Nat), toSlew := 0 } := by
  have hfind := find?_table (fun i => ({ v.keeper i with adj := (new : Int) - (v.fab / 2 : Nat), toSlew := 0 } : Keeper)) k
    (List.range 400) (List.mem_range.2 hk)
  exact congrArg (fun o : Option Keeper => o.getD {}) hfind

/-- A count that reads half the fabric count and an offset chosen for the new time reads the new time. -/
theorem half_add_offset (f new : Nat) : ((f / 2 : Nat) + ((new : Int) - (f / 2 : Nat))).toNat = new := by omega

theorem beaconNs_advFab (s : State) (f : Nat) : (advFab s f).mgr.beaconNs = s.mgr.beaconNs := by
  obtain ⟨a, d, n, h⟩ := mgr_advFab s f
  rw [h]

/-- The state after a set is the new time's, whatever average of exchanges is discarded with it. -/
theorem applied_facts (v : State) (t new : Nat) :
    let u := (discardAverage (setTime v t new)).setReg (gtSetStatAt panelGtBlk) 2
    u.mgr.set = none ∧ u.reg (gtSetStatAt panelGtBlk) = 2 ∧ RegsBut [gtSetStatAt panelGtBlk, pmXtimeStatAt] v u ∧ SameMem v u ∧
    u.fab = v.fab ∧ mgrNs u = new ∧ u.mgr.toSlew = 0 ∧ u.mgr.xExch = [] ∧ u.mgr.beaconNs = v.mgr.beaconNs + new - t ∧
    ∀ k < 400, nsAt u k = new ∧ (u.keeper k).toSlew = 0 := by
  intro u
  refine ⟨rfl, State.setReg_self .., fun a ha => ?_, fun _ => rfl, rfl, half_add_offset v.fab new, rfl, rfl, rfl, fun k hk => ?_⟩
  · simp only [List.mem_cons, List.not_mem_nil, or_false, not_or] at ha
    exact ((State.setReg_reg ..).trans (if_neg ha.1)).trans ((State.setReg_reg ..).trans (if_neg ha.2))
  · have hu : u.keeper k = { v.keeper k with adj := (new : Int) - (v.fab / 2 : Nat), toSlew := 0 } := keeper_setTime v t new hk
    refine ⟨?_, by rw [hu]⟩
    unfold nsAt
    rw [hu]
    exact half_add_offset v.fab new

theorem goes_timeSetApply {s : State} {at_ sec ns : Nat} (h : s.mgr.set = some (at_, sec, ns)) :
    Goes .timeSetApply s fun t => t.mgr.set = none ∧ t.reg (gtSetStatAt panelGtBlk) = 2 ∧
    RegsBut [gtSetStatAt panelGtBlk, pmXtimeStatAt] s t ∧ SameMem s t ∧ t.fab = (advMgr s at_).fab ∧
    mgrNs t = sec * 1000000000 + ns ∧ t.mgr.toSlew = 0 ∧ t.mgr.xExch = [] ∧
    t.mgr.beaconNs = s.mgr.beaconNs + (sec * 1000000000 + ns : Nat) - at_ ∧
    ∀ k < 400, nsAt t k = sec * 1000000000 + ns ∧ (t.keeper k).toSlew = 0 := by
  refine ⟨_, exec_timeSetApply h, ?_⟩
  unfold advMgr
  generalize sec * 1000000000 + ns = new
  generalize mgrInstant s at_ = f
  obtain ⟨hset, hstat, hregs, hmem, hfab, hns, hslew, hexch, hbeacon, hkeepers⟩ := applied_facts (advFab s f) at_ new
  rw [beaconNs_advFab] at hbeacon
  exact ⟨hset, hstat, fun a ha => (hregs a ha).trans (reg_advFab s f a), fun a => (hmem a).trans (sameMem_advFab s f a), hfab, hns,
    hslew, hexch, hbeacon, hkeepers⟩

/-- Settles O26: each clause is the law of its read or set. -/
theorem globalTimeReadsAndSets : Obligations.GlobalTimeReadsAndSets := by
  intro s who
  refine ⟨fun site => goes_gtNsecRead_keeper, goes_gtNsecRead_panel, fun q hq hup => ?_, goes_gtSet rfl _ (setBeaconInstant_ahead s),
    goes_gtSet rfl _ ?_, goes_gtSetCancel, fun at_ sec ns => goes_timeSetApply⟩
  · subst hq
    refine ⟨fun site hr => ⟨_, exec_gtNsecRead_unreached hup hr, rfl⟩, fun o n hn => ⟨_, exec_gtNsecRead_bar0 o n hup, ?_⟩,
      fun o n hn ha ho => ⟨_, exec_gtNsecRead_bar4 o n hup, bar4Read_doorbell hup hn ha ho⟩,
      fun hstep => ⟨_, exec_gtNsecRead_ids hup hstep, _, BitVec.isLt _, rfl⟩⟩
    obtain ⟨heq, hcnt, -⟩ := bump_counts s (hstBadAccCntAt q)
    rw [bar0Read_misaligned s q hn, heq]
    exact ⟨rfl, hcnt, rfl⟩
  · refine ⟨?_, ?_, ?_⟩ <;> omega

end Sys2Proof.Machine
end

section
/-! The clause of O27 on a withdrawn Equinox change says that PM_OP_STAT then holds CUR alone.  Its field TGT equals CUR when
STATE is IDLE (R56), so that the register holds CUR twice, in bits [7:4] and [3:0]. -/

namespace Sys2Proof.Machine

theorem reg_releaseLock (s : State) (code qmask a : Nat) : (releaseLock s code qmask).reg a = s.reg a := by
  unfold releaseLock
  exact foldl_inv (fun t : State => t.reg a = s.reg a) _ _ s rfl fun t q _ ht => ht

/-- A change that is over without having been made leaves TGT and CUR of PM_OP_STAT at the point in force (R56). -/
theorem opStat_endEqx (s : State) : (endEqx s false).reg pmOpStatAt = s.mgr.cur * 2 ^ 4 + s.mgr.cur := by
  have hidle : ∀ t : State, (releaseLock (setOpStat t 0 t.mgr.cur) 4 15).reg pmOpStatAt = t.mgr.cur * 2 ^ 4 + t.mgr.cur := fun t => by
    rw [reg_releaseLock, setOpStat, State.setReg_self]
    omega
  unfold endEqx
  cases s.mgr.eqx.bind (·.stream) with
  | none => exact hidle _
  | some q => exact hidle _

/-- A running keeper that has not acknowledged by the end of the window withdraws the change (R53). -/
theorem exec_eqxAckWindowEnd_missing {s : State} {e : Eqx} (ha : (activeMgr s).isSome = true) (he : s.mgr.eqx = some e)
    (hs : e.state = 1) (hc : e.confirmed = false) {k : Nat} (hk : k < 400) (hr : (s.rtr k).running = true) (hm : k ∉ e.acks) :
    exec .eqxAckWindowEnd s = .next (endEqx (withdrawPosts (advFab s (e.postAt + 20000))) false) := by
  obtain ⟨b, hb⟩ := Option.isSome_iff_exists.1 ha
  have hmissing : ((List.range 400).any fun i => ((advFab s (e.postAt + 20000)).rtr i).running && !e.acks.contains i) = true := by
    refine List.any_eq_true.2 ⟨k, List.mem_range.2 hk, ?_⟩
    have hrtr : (advFab s (e.postAt + 20000)).rtr k = s.rtr k := by
      rw [advFab_eq]
      rfl
    simp [hrtr, hr, hm]
  show execEqxAckWindowEnd s = _
  unfold execEqxAckWindowEnd
  rw [hb, he]
  dsimp only
  rw [if_pos ⟨hs, hc⟩, if_pos hmissing]

/-- So PM_OP_STAT of every change withdrawn at the end of its window holds the point in force twice. -/
theorem opStat_withdrawn {s t : State} {e : Eqx} (ha : (activeMgr s).isSome = true) (he : s.mgr.eqx = some e)
    (hs : e.state = 1) (hc : e.confirmed = false) {k : Nat} (hk : k < 400) (hr : (s.rtr k).running = true) (hm : k ∉ e.acks)
    (ht : exec .eqxAckWindowEnd s = .next t) : t.reg pmOpStatAt = s.mgr.cur * 2 ^ 4 + s.mgr.cur := by
  rw [exec_eqxAckWindowEnd_missing ha he hs hc hk hr hm] at ht
  cases ht
  obtain ⟨a, d, n, hmgr⟩ := mgr_advFab s (e.postAt + 20000)
  rw [opStat_endEqx]
  show (advFab s (e.postAt + 20000)).mgr.cur * 2 ^ 4 + (advFab s (e.postAt + 20000)).mgr.cur = _
  rw [hmgr]

/-- Manager A has posted a raise from P4 to P5, and no keeper has acknowledged it. -/
def unacknowledged : State := { mgr := { active := some false, cur := 4, eqx := some { point := 5, postAt := 0 } } }

/-- Refutes O27: the raise that no keeper of `unacknowledged` has acknowledged is withdrawn, and PM_OP_STAT reads 68, which is CUR
4 and TGT 4 as R56 has it, where the statement says 4. -/
theorem not_equinoxChange : ¬ Obligations.EquinoxChange := by
  intro h
  obtain ⟨-, -, -, hwindow, -⟩ := h unacknowledged
  obtain ⟨hmissing, -⟩ := hwindow _ rfl rfl rfl rfl
  obtain ⟨t, hexec, -, -, -, -, -, hstat, -⟩ := hmissing ⟨0, by decide, rfl, List.not_mem_nil⟩
  have hboth : t.reg pmOpStatAt = 4 * 2 ^ 4 + 4 :=
    opStat_withdrawn rfl rfl rfl rfl (k := 0) (by decide) rfl List.not_mem_nil hexec
  have heq : 4 = 4 * 2 ^ 4 + 4 := hstat.symm.trans hboth
  exact absurd heq (by decide)

end Sys2Proof.Machine
end

section
/-! The completion of a descriptor at its cluster and its removal from its unit: what O19 and O21 need of `complete`, `descError` and
`unitDone`, whether or not the descriptor is open. -/

namespace Sys2Proof.Machine

/-- From s to t cluster c has completed descriptor did with a status (R57, R147): it is open no more, an open one has advanced its
group, and no other cluster has changed. -/
def Completed (c did st : Nat) (s t : State) : Prop :=
  find? (t.cl c).live did = none ∧
  (∀ g, find? (s.cl c).live did = some g → (t.cl c).grpCnt = grpAdd (s.cl c).grpCnt g ∧
    findD (t.cl c).grpFlags g 0 = findD (s.cl c).grpFlags g 0 ||| lateStatus (s.cl c) st) ∧
  ∀ k, k ≠ c → t.cl k = s.cl k

theorem Cluster.of_noEnd {x y : Cluster} (h : x.noEnd = y.noEnd) :
    x.live = y.live ∧ x.grpCnt = y.grpCnt ∧ x.grpFlags = y.grpFlags := by
  show x.noEnd.live = y.noEnd.live ∧ x.noEnd.grpCnt = y.noEnd.grpCnt ∧ x.noEnd.grpFlags = y.noEnd.grpFlags
  rw [h]
  exact ⟨rfl, rfl, rfl⟩

theorem UnitState.of_noSets {x y : UnitState} (h : x.noSets = y.noSets) :
    x.acc = y.acc ∧ x.vr = y.vr ∧ x.issued = y.issued ∧ x.uq = y.uq := by
  show x.noSets.acc = y.noSets.acc ∧ x.noSets.vr = y.noSets.vr ∧ x.noSets.issued = y.noSets.issued ∧ x.noSets.uq = y.noSets.uq
  rw [h]
  exact ⟨rfl, rfl, rfl, rfl⟩

theorem Completed.congr {c did st : Nat} {r s t : State} (h : Completed c did st s t) (hcl : ∀ k, s.cl k = r.cl k) :
    Completed c did st r t := by
  obtain ⟨hopen, hgroup, hothers⟩ := h
  rw [hcl] at hgroup
  exact ⟨hopen, hgroup, fun k hk => (hothers k hk).trans (hcl k)⟩

/-- The registers that a completion at cluster c can write. -/
def completionRegs (c : Nat) : List Nat := seqFrameUseAt c :: seqSuspectCntAt c :: shadowRegs c

/-- What a completion at cluster c leaves as it is, clusters apart. -/
structure CompletionOnly (c : Nat) (s t : State) : Prop where
  mem : t.mem = s.mem
  fab : t.fab = s.fab
  un : ∀ u, (t.un u).noSets = (s.un u).noSets
  reg : ∀ a, a ∉ completionRegs c → t.reg a = s.reg a
  ctr : ∀ a, a ∉ completionRegs c → t.ctr a = s.ctr a

theorem complete_of_not_open {s : State} {c did : Nat} (st : Nat) (h : find? (s.cl c).live did = none) :
    complete s c did st = s := by
  unfold complete
  dsimp only
  rw [h]

theorem complete_completed (s : State) (c did st : Nat) :
    Completed c did st s (complete s c did st) ∧ CompletionOnly c s (complete s c did st) := by
  cases h : find? (s.cl c).live did with
  | none =>
    rw [complete_of_not_open st h]
    refine ⟨⟨h, fun _ hg => ?_, fun _ _ => rfl⟩, rfl, rfl, fun _ => rfl, fun _ _ => rfl, fun _ _ => rfl⟩
    cases h.symm.trans hg
  | some g =>
    obtain ⟨hothers, hself, hmem, hun, hregs, -, hfab⟩ := complete_law st h
    have hkept : ∀ a, a ∉ completionRegs c →
        (complete s c did st).reg a = s.reg a ∧ (complete s c did st).ctr a = s.ctr a := fun a ha => by
      simp only [completionRegs, List.mem_cons, not_or] at ha
      exact hregs a ha.1 ha.2.1 ha.2.2
    obtain ⟨hlive, hcnt, hflags⟩ := Cluster.of_noEnd hself
    refine ⟨⟨?_, fun g' hg => ?_, hothers⟩, hmem, hfab, hun, fun a ha => (hkept a ha).1, fun a ha => (hkept a ha).2⟩
    · rw [hlive]
      exact find?_dropAt ..
    · cases h.symm.trans hg
      refine ⟨hcnt, ?_⟩
      rw [hflags]
      exact findD_putAt_self ..

/-! ### Registers that no completion writes -/

theorem seqReg_not_completion {c k : Nat} (hk : k < 0x100000) (huse : k ≠ 0x10) (hsuspect : k ≠ 0x228) :
    seqBlk c + k ∉ completionRegs c := by
  simp only [completionRegs, List.mem_cons, not_or, seqFrameUseAt, seqSuspectCntAt]
  exact ⟨by omega, by omega, seq_not_shadow c k hk⟩

/-- Every register block of a unit or a cluster begins at a multiple of 1 MiB, so that the offset tells their registers apart. -/
theorem unitReg_not_completion {u c k : Nat} (hk : k < 0x100000) (hoff : k ∉ [0x10, 0x228, 0x368, 0x500]) :
    unitBlk u + k ∉ completionRegs c := by
  simp only [List.mem_cons, List.not_mem_nil, or_false, not_or] at hoff
  intro h
  simp only [completionRegs, shadowRegs, List.mem_cons, List.mem_flatMap, List.not_mem_nil, or_false, seqFrameUseAt, seqSuspectCntAt,
    unitShadowStatAt, unitShadowLagCntAt, unitBlk, seqBlk, dieArea] at h
  obtain h | h | ⟨i, -, h | h⟩ := h <;> omega

/-! ### An illegal descriptor -/

/-- SEQ_DESC_ERR records an illegal descriptor, its counter advances, and the descriptor completes ERROR (R146). -/
theorem descError_facts (s : State) (c : Nat) (d : Desc) (code : Nat) :
    let t := descError s c d code
    let r := d.raw.toNat
    Completed c d.did stError s t ∧ t.mem = s.mem ∧ t.fab = s.fab ∧ (∀ u, (t.un u).noSets = (s.un u).noSets) ∧
    t.reg (seqDescErrAt c) = bits r 31 16 * 2 ^ 48 + code * 2 ^ 32 + bits r 3 0 * 2 ^ 28 + bits r 5 4 * 2 ^ 26 + 2 ^ 25 +
      (s.cl c).frameIdx % 2 ^ 20 ∧ Counted (seqDescErrCntAt c) s t := by
  intro t r
  generalize hx : bits r 31 16 * 2 ^ 48 + code * 2 ^ 32 + bits r 3 0 * 2 ^ 28 + bits r 5 4 * 2 ^ 26 + 2 ^ 25 +
    (s.cl c).frameIdx % 2 ^ 20 = x
  have ht : t = complete ((s.setReg (seqDescErrAt c) x).bump (seqDescErrCntAt c)) c d.did stError := by
    rw [← hx]
    rfl
  have hne : seqDescErrAt c ≠ seqDescErrCntAt c := by
    unfold seqDescErrAt seqDescErrCntAt
    omega
  obtain ⟨hclosed, hframe⟩ := complete_completed ((s.setReg (seqDescErrAt c) x).bump (seqDescErrCntAt c)) c d.did stError
  rw [← ht] at hclosed hframe
  refine ⟨hclosed.congr fun k => by simp [State.bump], hframe.mem.trans (by simp [State.bump]),
    hframe.fab.trans (by simp [State.bump]), fun u => (hframe.un u).trans (by simp [State.bump]), ?_, ?_⟩
  · have hkept := hframe.reg (seqDescErrAt c) (seqReg_not_completion (by decide) (by decide) (by decide))
    rw [hkept, reg_bump_ne _ hne, State.setReg_self]
  · have hkept := hframe.ctr (seqDescErrCntAt c) (seqReg_not_completion (by decide) (by decide) (by decide))
    rw [Counted, hkept, ctr_bump_self, ctr_setReg_ne _ _ hne.symm]

/-! ### The end of a unit's work on a descriptor -/

theorem un_unitDone (s : State) (u did : Nat) :
    (unitDone s u did).un u = { s.un u with issued := (s.un u).issued.filter fun e => e.d.did != did } := State.setUn_self ..

/-- From s to t unit u has ended its work on a descriptor, and its cluster has completed it with a status (R147). -/
def WorkEnded (u did st : Nat) (s t : State) : Prop :=
  (∀ i ∈ (t.un u).issued, i.d.did ≠ did) ∧ Completed (unitClu u) did st s t

theorem WorkEnded.congr {u did st : Nat} {r s t : State} (h : WorkEnded u did st s t) (hcl : ∀ k, s.cl k = r.cl k) :
    WorkEnded u did st r t :=
  ⟨h.1, h.2.congr hcl⟩

/-- A descriptor leaves its unit and completes: nothing else of the unit changes but its Shadow engine's sets (R147, R425). -/
theorem complete_unitDone (s : State) (u did st : Nat) :
    let t := complete (unitDone s u did) (unitClu u) did st
    WorkEnded u did st s t ∧ (t.un u).acc = (s.un u).acc ∧ (t.un u).vr = (s.un u).vr ∧ t.mem = s.mem ∧ t.fab = s.fab ∧
    ∀ a, a ∉ completionRegs (unitClu u) → t.ctr a = s.ctr a := by
  intro t
  obtain ⟨hclosed, hframe⟩ := complete_completed (unitDone s u did) (unitClu u) did st
  obtain ⟨hacc, hvr, hissued, -⟩ := UnitState.of_noSets (hframe.un u)
  rw [un_unitDone] at hacc hvr hissued
  refine ⟨⟨fun i hi => ?_, hclosed.congr fun k => rfl⟩, hacc, hvr, hframe.mem, hframe.fab, hframe.ctr⟩
  rw [show (t.un u).issued = _ from hissued] at hi
  simpa using (List.mem_filter.1 hi).2

end Sys2Proof.Machine
end

section
/-! The beginning of an issued descriptor's accesses (R67, R68, R100, R123): what `begin_` sets and what it leaves as it is. -/

namespace Sys2Proof.Machine

/-- An issued descriptor apart from what its beginning sets. -/
def Issued.unbegun (e : Issued) : Issued := { e with begun := false, beganAt := 0, span := 0, todo := [] }

/-- A unit apart from what the beginning of one of its descriptors sets. -/
def UnitState.unplanned (x : UnitState) : UnitState :=
  { x with issued := x.issued.map Issued.unbegun, lastMma := none, opNext := 0, opRun := 0, laneFree := 0, yielded := 0 }

/-- t differs from s only in that descriptors of unit u may have begun. -/
structure BeginOnly (u : Nat) (s t : State) : Prop where
  same : t = { s with units := t.units, fresh := t.fresh }
  others : ∀ k, k ≠ u → t.un k = s.un k
  self : (t.un u).unplanned = (s.un u).unplanned

theorem BeginOnly.refl (u : Nat) (s : State) : BeginOnly u s s := ⟨rfl, fun _ _ => rfl, rfl⟩

theorem BeginOnly.cl {u : Nat} {s t : State} (h : BeginOnly u s t) (k : Nat) : t.cl k = s.cl k := by rw [h.same]; rfl
theorem BeginOnly.reg {u : Nat} {s t : State} (h : BeginOnly u s t) (a : Nat) : t.reg a = s.reg a := by rw [h.same]; rfl
theorem BeginOnly.mem {u : Nat} {s t : State} (h : BeginOnly u s t) : t.mem = s.mem := by rw [h.same]
theorem BeginOnly.fab {u : Nat} {s t : State} (h : BeginOnly u s t) : t.fab = s.fab := by rw [h.same]

theorem UnitState.of_unplanned {x y : UnitState} (h : x.unplanned = y.unplanned) : x.uq = y.uq ∧ x.issueClk = y.issueClk ∧
    x.ord = y.ord ∧ x.mmas = y.mmas ∧ x.issued.map Issued.unbegun = y.issued.map Issued.unbegun := by
  show x.unplanned.uq = y.unplanned.uq ∧ x.unplanned.issueClk = y.unplanned.issueClk ∧ x.unplanned.ord = y.unplanned.ord ∧
    x.unplanned.mmas = y.unplanned.mmas ∧ x.unplanned.issued = y.unplanned.issued
  rw [h]
  exact ⟨rfl, rfl, rfl, rfl, rfl⟩

theorem Issued.of_unbegun {e f : Issued} (h : e.unbegun = f.unbegun) : e.d = f.d ∧ e.ord = f.ord ∧ e.mmaOrd = f.mmaOrd := by
  show e.unbegun.d = f.unbegun.d ∧ e.unbegun.ord = f.unbegun.ord ∧ e.unbegun.mmaOrd = f.unbegun.mmaOrd
  rw [h]
  exact ⟨rfl, rfl, rfl⟩

theorem map_d_of_unbegun {l m : List Issued} (h : l.map Issued.unbegun = m.map Issued.unbegun) : l.map (·.d) = m.map (·.d) := by
  have hd := congrArg (List.map Issued.d) h
  rwa [List.map_map, List.map_map] at hd

theorem mem_mapFirst {α : Type} {p : α → Bool} (f : α → α) {l : List α} {a : α} (h : l.find? p = some a) : f a ∈ mapFirst p f l := by
  induction l with
  | nil => cases h
  | cons b l ih =>
    unfold mapFirst
    cases hb : p b with
    | true =>
      rw [List.find?_cons_of_pos hb] at h
      cases h
      exact List.mem_cons_self
    | false =>
      rw [List.find?_cons_of_neg (by simp [hb])] at h
      exact List.mem_cons_of_mem _ (ih h)

/-- A wait for the Day checks is a free choice and nothing else (R389). -/
theorem dayWait_eq (s : State) (u : Nat) (d : Desc) : ∃ w n, dayWait s u d = (w, { s with fresh := n }) := by
  unfold dayWait
  split
  · exact ⟨_, _, rfl⟩
  · exact ⟨_, _, rfl⟩

theorem noteYield_eq (s : State) (u n : Nat) (x : UnitState) : ∃ y, noteYield s u n x = { x with yielded := y } := by
  unfold noteYield
  split
  · exact ⟨_, rfl⟩
  · exact ⟨_, rfl⟩

/-- `begin_` marks the first issued descriptor of that name as begun, and plans its work. -/
theorem begin_eq {s : State} {u did : Nat} {e : Issued} (h : ((s.un u).issued.find? fun e => e.d.did == did) = some e) :
    ∃ n x f, begin_ s u did = State.setUn { s with fresh := n } u x ∧
      x.issued = mapFirst (fun e => e.d.did == did) f (s.un u).issued ∧ x.unplanned = (s.un u).unplanned ∧
      ∀ i, (f i).begun = true ∧ (f i).unbegun = i.unbegun := by
  obtain ⟨w, n, hwait⟩ := dayWait_eq s u e.d
  unfold begin_
  dsimp only
  rw [h]
  dsimp only
  rw [hwait]
  have hplan : ∀ {x : UnitState} {f : Issued → Issued}, x.issued = mapFirst (fun e => e.d.did == did) f (s.un u).issued →
      (∀ i, (f i).unbegun = i.unbegun) → x.unplanned = { s.un u with issued := x.issued }.unplanned →
      x.unplanned = (s.un u).unplanned := by
    intro x f hissued hf hx
    rw [hx, hissued, UnitState.unplanned, UnitState.unplanned, map_mapFirst _ _ _ hf]
  split
  · obtain ⟨y, hy⟩ := noteYield_eq { s with fresh := n } u (mmaOccupancy (s.un u) e.d) (s.un u)
    rw [hy]
    exact ⟨_, _, _, rfl, rfl, hplan rfl (fun _ => rfl) rfl, fun _ => ⟨rfl, rfl⟩⟩
  · obtain ⟨y, hy⟩ := noteYield_eq { s with fresh := n } u (e.d.f 43 37 * vopClocks e.d.op) (s.un u)
    rw [hy]
    exact ⟨_, _, _, rfl, rfl, hplan rfl (fun _ => rfl) rfl, fun _ => ⟨rfl, rfl⟩⟩
  · exact ⟨_, _, _, rfl, rfl, hplan rfl (fun _ => rfl) rfl, fun _ => ⟨rfl, rfl⟩⟩

theorem find_of_mayBegin {s : State} {u did : Nat} (h : mayBegin s u did = true) :
    ∃ e, ((s.un u).issued.find? fun e => e.d.did == did) = some e := by
  unfold mayBegin at h
  dsimp only at h
  split at h
  · rename_i e he
    exact ⟨e, he⟩
  · cases h

theorem beginOnly_begin {s : State} {u did : Nat} (h : mayBegin s u did = true) : BeginOnly u s (begin_ s u did) := by
  obtain ⟨e, he⟩ := find_of_mayBegin h
  obtain ⟨n, x, f, hbegin, -, hplan, -⟩ := begin_eq he
  rw [hbegin]
  refine ⟨rfl, fun k hk => ?_, ?_⟩
  · rw [State.setUn_un, if_neg hk]
    rfl
  · rw [State.setUn_self]
    exact hplan

theorem begun_of_mayBegin {s : State} {u did : Nat} (h : mayBegin s u did = true) :
    ∃ e ∈ ((begin_ s u did).un u).issued, e.d.did = did ∧ e.begun = true := by
  obtain ⟨e, he⟩ := find_of_mayBegin h
  obtain ⟨n, x, f, hbegin, hissued, -, hf⟩ := begin_eq he
  obtain ⟨hbegun, hkept⟩ := hf e
  obtain ⟨hd, -⟩ := Issued.of_unbegun hkept
  have hdid : e.d.did = did := by simpa using List.find?_some he
  refine ⟨f e, ?_, hd ▸ hdid, hbegun⟩
  rw [hbegin, State.setUn_self, hissued]
  exact mem_mapFirst f he

end Sys2Proof.Machine
end

section
/-! The issue of a descriptor at its unit (R62, R79, R88, R133, R146, R155), whatever its class and operation: O19. -/

namespace Sys2Proof.Machine

/-! ### The state of the issue -/

theorem UnitOnly.unitClk {s t : State} (h : UnitOnly s t) (u : Nat) : unitClk t u = Machine.unitClk s u := by rw [h.same]; rfl

/-- Unit u at the region clock in which it issues d, its own accesses of earlier clocks made (R62, R133). -/
def atIssue (s : State) (u : Nat) (d : Desc) : State :=
  atPresent (advClock s (unitRgn u) (max (d.at_ + 3) (s.un u).issueClk)) u

theorem cl_atIssue (s : State) (u : Nat) (d : Desc) (k : Nat) : (atIssue s u d).cl k = s.cl k :=
  ((unitOnly_atPresent ..).cl k).trans (cl_advClock ..)

theorem unitClk_atIssue (s : State) (u : Nat) (d : Desc) :
    unitClk (atIssue s u d) u = unitClk (advClock s (unitRgn u) (max (d.at_ + 3) (s.un u).issueClk)) u :=
  (unitOnly_atPresent ..).unitClk u

/-- The head of the unit's queue has left it; the unit issues again a clock later at the earliest (R62). -/
def dequeued (v : State) (u : Nat) (rest : List Desc) : State :=
  v.modUn u fun x => { x with uq := rest, issueClk := unitClk v u + 1 }

theorem cl_dequeued (v : State) (u : Nat) (rest : List Desc) (k : Nat) : (dequeued v u rest).cl k = v.cl k := rfl

theorem un_dequeued (v : State) (u : Nat) (rest : List Desc) :
    (dequeued v u rest).un u = { v.un u with uq := rest, issueClk := unitClk v u + 1 } := State.setUn_self ..

/-- What stands among the issued descriptors for d, issued in region clock `now`: its SR ordinal and its MMA ordinal are the unit's
(R79, R88). -/
def issuedEntry (w : State) (u : Nat) (d : Desc) (now : Nat) : Issued :=
  { d := d, begun := false, beganAt := now, span := 0, ord := (w.un u).ord
    frameIdx := frameIndex (partD w (cluQuarter (unitClu u))), mmaOrd := (w.un u).mmas }

/-- A legal descriptor has taken its place among the issued ones of its unit, and a transfer its place in the stream engine. -/
def placed (w : State) (u : Nat) (d : Desc) (now : Nat) : State :=
  let x := w.un u
  let z := w.setUn u { x with
    issued := x.issued ++ [issuedEntry w u d now]
    settled := if x.issued.isEmpty then max x.settled now else x.settled
    ord := if convertsSr d then (x.ord + 1) % 2 ^ 20 else x.ord
    mmas := if d.cls = 0 then x.mmas + 1 else x.mmas }
  if 2 ≤ d.cls ∧ d.cls ≤ 5 then z.modCl (unitClu u) fun y => { y with eng := insEng y.eng {
      d := d, unit := u, at_ := now, dq := if engRemote d then xdest z (dieQuarter (u / 16)) (engPanel d) else 0 } }
  else z

variable {want : Desc → Bool} {s : State} {u : Nat} {d : Desc} {rest : List Desc}

/-- A legal descriptor takes its place, and begins at once where nothing holds it back. -/
theorem unitIssue_legal (hq : (s.un u).uq = d :: rest) (hwant : want d = true) (hcan : canIssue s u d = true)
    (hlegal : illegal (dequeued (atIssue s u d) u rest) (unitClu u) d = none) :
    let z := placed (dequeued (atIssue s u d) u rest) u d (unitClk (atIssue s u d) u)
    unitIssue want u s = .next (if mayBegin z u d.did then begin_ z u d.did else z) := by
  unfold unitIssue
  dsimp only
  rw [dequeued, unitClk_atIssue, atIssue] at hlegal
  rw [hq]
  dsimp only
  rw [if_pos (by rw [hwant, hcan]; rfl), hlegal, dequeued, unitClk_atIssue, atIssue]
  rfl

/-- An illegal descriptor completes ERROR in the next clock (R146). -/
theorem unitIssue_illegal {code : Nat} (hq : (s.un u).uq = d :: rest) (hwant : want d = true) (hcan : canIssue s u d = true)
    (hillegal : illegal (dequeued (atIssue s u d) u rest) (unitClu u) d = some code) :
    unitIssue want u s = .next (descError (advClock (dequeued (atIssue s u d) u rest) (unitRgn u) (unitClk (atIssue s u d) u + 1))
      (unitClu u) d code) := by
  unfold unitIssue
  dsimp only
  rw [dequeued, unitClk_atIssue, atIssue] at hillegal
  rw [hq]
  dsimp only
  rw [if_pos (by rw [hwant, hcan]; rfl), hillegal, dequeued, unitClk_atIssue, atIssue]

/-! ### What the issue changes -/

theorem placed_frame (w : State) (u : Nat) (d : Desc) (now : Nat) :
    let z := placed w u d now
    z.mem = w.mem ∧ z.fab = w.fab ∧ ∀ a, z.reg a = w.reg a := by
  unfold placed
  dsimp only
  split <;> exact ⟨rfl, rfl, fun _ => rfl⟩

/-- The unit's record after the placing: the descriptor stands last, and the ordinals advance (R79, R88). -/
theorem un_placed (w : State) (u : Nat) (d : Desc) (now : Nat) :
    let x := w.un u
    (∀ k, k ≠ u → (placed w u d now).un k = w.un k) ∧
    ∃ n, (placed w u d now).un u = { x with
      issued := x.issued ++ [issuedEntry w u d now], settled := n
      ord := if convertsSr d then (x.ord + 1) % 2 ^ 20 else x.ord, mmas := if d.cls = 0 then x.mmas + 1 else x.mmas } := by
  unfold placed
  dsimp only
  split <;> exact ⟨fun k hk => (State.setUn_un ..).trans (if_neg hk), _, State.setUn_self ..⟩

/-- A transfer takes its place in its cluster's stream engine (R155); no other cluster changes. -/
theorem cl_placed (w : State) (u : Nat) (d : Desc) (now : Nat) :
    (∀ k, k ≠ unitClu u → (placed w u d now).cl k = w.cl k) ∧
    ∃ n, (engRemote d = false → n = 0) ∧ ((placed w u d now).cl (unitClu u)).eng = if 2 ≤ d.cls ∧ d.cls ≤ 5 then
      insEng (w.cl (unitClu u)).eng { d := d, unit := u, at_ := now, dq := n } else (w.cl (unitClu u)).eng := by
  unfold placed
  dsimp only
  by_cases htransfer : 2 ≤ d.cls ∧ d.cls ≤ 5
  · simp only [if_pos htransfer]
    refine ⟨fun k hk => (State.setCl_cl ..).trans (if_neg hk), _, fun hlocal => ?_, congrArg Cluster.eng (State.setCl_self ..)⟩
    exact if_neg (by rw [hlocal]; decide)
  · simp only [if_neg htransfer]
    exact ⟨fun _ _ => rfl, 0, fun _ => rfl, rfl⟩

/-- What the beginning of its accesses, if they can begin at once, adds to the placing. -/
theorem beginOnly_issue (z : State) (u did : Nat) : BeginOnly u z (if mayBegin z u did then begin_ z u did else z) := by
  by_cases hmay : mayBegin z u did = true
  · rw [if_pos hmay]
    exact beginOnly_begin hmay
  · rw [if_neg hmay]
    exact .refl u z

/-- Entries that begin stay in their places. -/
theorem getLast?_of_unbegun {l m : List Issued} {e : Issued} (h : l.map Issued.unbegun = (m ++ [e]).map Issued.unbegun) :
    ∃ f, l.getLast? = some f ∧ f.d = e.d ∧ f.ord = e.ord ∧ f.mmaOrd = e.mmaOrd := by
  have hlast : l.getLast?.map Issued.unbegun = some e.unbegun := by
    rw [← List.getLast?_map, h, List.map_append, List.map_singleton, List.getLast?_concat]
  obtain ⟨f, hf, hfe⟩ := Option.map_eq_some_iff.1 hlast
  exact ⟨f, hf, Issued.of_unbegun hfe⟩

theorem goes_issue_legal {i : Instr} (hexec : exec i s = unitIssue want u s) (hq : (s.un u).uq = d :: rest) (hwant : want d = true)
    (hcan : canIssue s u d = true) (hlegal : illegal (dequeued (atIssue s u d) u rest) (unitClu u) d = none) :
    let v := atIssue s u d
    let y := v.un u
    let c := unitClu u
    Goes i s fun t => (t.un u).uq = rest ∧ (t.un u).issueClk = unitClk v u + 1 ∧
      (t.un u).issued.map (·.d) = y.issued.map (·.d) ++ [d] ∧
      (∃ e, (t.un u).issued.getLast? = some e ∧ e.d = d ∧ e.ord = y.ord ∧ e.mmaOrd = y.mmas) ∧
      (t.un u).ord = (if convertsSr d = true then (y.ord + 1) % 2 ^ 20 else y.ord) ∧
      (t.un u).mmas = (if d.cls = 0 then y.mmas + 1 else y.mmas) ∧
      (∃ n, (engRemote d = false → n = 0) ∧ (t.cl c).eng = if 2 ≤ d.cls ∧ d.cls ≤ 5 then
        insEng (s.cl c).eng { d := d, unit := u, at_ := unitClk v u, dq := n } else (s.cl c).eng) ∧
      (∀ k, k ≠ u → t.un k = v.un k) ∧ (∀ k, k ≠ c → t.cl k = s.cl k) ∧ SameMem v t ∧ RegsBut [] v t ∧ t.fab = v.fab := by
  intro v y c
  have hrun : exec i s = .next (let z := placed (dequeued v u rest) u d (unitClk v u)
      if mayBegin z u d.did then begin_ z u d.did else z) := hexec.trans (unitIssue_legal hq hwant hcan hlegal)
  refine ⟨_, hrun, ?_⟩
  have hcl : ∀ k, (dequeued v u rest).cl k = s.cl k := fun k =>
    (cl_dequeued v u rest k).trans (cl_atIssue s u d k)
  clear_value v
  have hothers : ∀ k, k ≠ u → (dequeued v u rest).un k = v.un k := fun k hk => (State.setUn_un ..).trans (if_neg hk)
  obtain ⟨hplacedOthers, n, hplaced⟩ := un_placed (dequeued v u rest) u d (unitClk v u)
  obtain ⟨hclOthers, heng⟩ := cl_placed (dequeued v u rest) u d (unitClk v u)
  obtain ⟨hmem, hfab, hreg⟩ := placed_frame (dequeued v u rest) u d (unitClk v u)
  rw [un_dequeued] at hplaced
  rw [hcl] at heng
  obtain ⟨hentryOrd, hentryMma⟩ : (issuedEntry (dequeued v u rest) u d (unitClk v u)).ord = y.ord ∧
      (issuedEntry (dequeued v u rest) u d (unitClk v u)).mmaOrd = y.mmas := by
    unfold issuedEntry
    rw [un_dequeued]
    exact ⟨rfl, rfl⟩
  have hbegin := beginOnly_issue (placed (dequeued v u rest) u d (unitClk v u)) u d.did
  dsimp only
  generalize (if mayBegin (placed (dequeued v u rest) u d (unitClk v u)) u d.did then
    begin_ (placed (dequeued v u rest) u d (unitClk v u)) u d.did else placed (dequeued v u rest) u d (unitClk v u)) = t at hbegin ⊢
  generalize placed (dequeued v u rest) u d (unitClk v u) = z at hplacedOthers hplaced hclOthers heng hmem hfab hreg hbegin
  obtain ⟨huq, hclk, htord, htmmas, hissued⟩ := UnitState.of_unplanned hbegin.self
  rw [hplaced] at huq hclk htord htmmas hissued
  refine ⟨huq, hclk, ?_, ?_, htord, htmmas, by rw [hbegin.cl]; exact heng, fun k hk => ?_, fun k hk => ?_, fun a => ?_, fun a _ => ?_,
    hbegin.fab.trans hfab⟩
  · rw [map_d_of_unbegun hissued, List.map_append]
    rfl
  · obtain ⟨f, hf, hd, hord, hmma⟩ := getLast?_of_unbegun hissued
    exact ⟨f, hf, hd, hord.trans hentryOrd, hmma.trans hentryMma⟩
  · rw [hbegin.others k hk, hplacedOthers k hk, hothers k hk]
  · rw [hbegin.cl, hclOthers k hk, hcl]
  · rw [hbegin.mem, hmem]
    rfl
  · rw [hbegin.reg, hreg]
    rfl

theorem goes_issue_illegal {i : Instr} {code : Nat} (hexec : exec i s = unitIssue want u s) (hq : (s.un u).uq = d :: rest)
    (hwant : want d = true) (hcan : canIssue s u d = true)
    (hillegal : illegal (dequeued (atIssue s u d) u rest) (unitClu u) d = some code) :
    let v := atIssue s u d
    let c := unitClu u
    Goes i s fun t => (t.un u).uq = rest ∧ (t.un u).issued = (v.un u).issued ∧ find? (t.cl c).live d.did = none ∧
      (∀ g, find? (s.cl c).live d.did = some g → findD (t.cl c).grpFlags g 0 = findD (s.cl c).grpFlags g 0 ||| stError) ∧
      (t.reg (seqDescErrAt c) =
        let r := d.raw.toNat
        bits r 31 16 * 2 ^ 48 + code * 2 ^ 32 + bits r 3 0 * 2 ^ 28 + bits r 5 4 * 2 ^ 26 + 2 ^ 25 + (s.cl c).frameIdx % 2 ^ 20) ∧
      Counted (seqDescErrCntAt c) v t ∧ SameMem v t := by
  intro v c
  have hrun : exec i s = .next (descError (advClock (dequeued v u rest) (unitRgn u) (unitClk v u + 1)) c d code) :=
    hexec.trans (unitIssue_illegal hq hwant hcan hillegal)
  refine ⟨_, hrun, ?_⟩
  have hcl : ∀ k, (advClock (dequeued v u rest) (unitRgn u) (unitClk v u + 1)).cl k = s.cl k := fun k =>
    ((cl_advClock ..).trans (cl_dequeued v u rest k)).trans (cl_atIssue s u d k)
  clear_value v
  have hun : (advClock (dequeued v u rest) (unitRgn u) (unitClk v u + 1)).un u =
      { v.un u with uq := rest, issueClk := unitClk v u + 1 } := (un_advClock ..).trans (un_dequeued ..)
  have hctr : ∀ a, (advClock (dequeued v u rest) (unitRgn u) (unitClk v u + 1)).ctr a = v.ctr a := ctr_advClock _ _ _
  have hmem : (advClock (dequeued v u rest) (unitRgn u) (unitClk v u + 1)).mem = v.mem := mem_advClock ..
  generalize advClock (dequeued v u rest) (unitRgn u) (unitClk v u + 1) = w at hcl hun hctr hmem
  obtain ⟨hcomplete, htmem, -, htun, hreg, hcount⟩ := descError_facts w c d code
  obtain ⟨hopen, hgroup, -⟩ := hcomplete.congr hcl
  obtain ⟨-, -, hissued, huq⟩ := UnitState.of_noSets (htun u)
  rw [hun] at hissued huq
  rw [hcl] at hreg
  rw [Counted, hctr] at hcount
  refine ⟨huq, hissued, hopen, fun g hg => ?_, hreg, hcount, fun a => by rw [htmem, hmem]⟩
  obtain ⟨-, hflags⟩ := hgroup g hg
  have herror : lateStatus (s.cl c) stError = stError := if_neg (by simp [stError])
  rw [hflags, herror]

end Sys2Proof.Machine

namespace Sys2Proof
open Machine

/-- Settles O19: each of the 28 commands is `unitIssue` for the descriptors of its class and operation, and `unitIssue` has one law
for a legal head of the queue and one for an illegal head. -/
theorem unitIssue : Obligations.UnitIssue := by
  intro s u d rest x c v y w ok
  have issues : ∀ (i : Instr) (p : Prop) (want : Desc → Bool), exec i s = Machine.unitIssue want u s →
      (p → want d = true) → ok i p :=
    fun i p want hexec hwant hp hq hcan =>
      ⟨goes_issue_legal hexec hq (hwant hp) hcan, fun code => goes_issue_illegal hexec hq (hwant hp) hcan⟩
  have classes : ∀ (i : Instr) (k : Nat), exec i s = Machine.unitIssue (fun d => d.cls == k) u s → ok i (d.cls = k) :=
    fun i k hexec => issues i _ _ hexec fun h => beq_iff_eq.2 h
  have vops : ∀ (i : Instr) (k : Nat), exec i s = issueVop k u s → ok i (d.cls = 1 ∧ d.op = k) :=
    fun i k hexec => issues i _ (fun d => d.cls == 1 && d.op == k) hexec fun ⟨hcls, hop⟩ => by simp [hcls, hop]
  have reds : ∀ (i : Instr) (k : Nat), exec i s = Machine.unitIssue (fun d => d.cls == 5 && d.redOp == k) u s →
      ok i (d.cls = 5 ∧ d.redOp = k) :=
    fun i k hexec => issues i _ _ hexec fun ⟨hcls, hop⟩ => by simp [hcls, hop]
  exact ⟨classes _ _ rfl, vops _ _ rfl, vops _ _ rfl, vops _ _ rfl, vops _ _ rfl, vops _ _ rfl, vops _ _ rfl, vops _ _ rfl,
    vops _ _ rfl, vops _ _ rfl, vops _ _ rfl, vops _ _ rfl, vops _ _ rfl, vops _ _ rfl, vops _ _ rfl, vops _ _ rfl, vops _ _ rfl,
    vops _ _ rfl, vops _ _ rfl, vops _ _ rfl, vops _ _ rfl, vops _ _ rfl, classes _ _ rfl, classes _ _ rfl, classes _ _ rfl,
    reds _ _ rfl, reds _ _ rfl, reds _ _ rfl⟩

end Sys2Proof
end

section
/-! The beginning of a waiting descriptor and the completion of MMAs and VOPs (R67, R82 to R85, R98, R100, R123, R147): O21. -/

namespace Sys2Proof.Machine

section
variable {s : State} {u : UnitId} {did : Nat}

/-! ### A waiting descriptor begins -/

/-- A descriptor that may begin at the present clock does: its unit has worked up to there, and nothing else changes (R123). -/
theorem goes_tagWaitSatisfied (hrun : rgnRuns s (unitRgn u) = true) (hmay : mayBegin (atPresent s u) u did = true) :
    let v := atPresent s u
    Goes (.tagWaitSatisfied u did) s fun t =>
      (∃ e ∈ (t.un u).issued, e.d.did = did ∧ e.begun = true) ∧ (t.un u).issued.map (·.d) = (v.un u).issued.map (·.d) ∧
      (∀ k, k ≠ u.val → t.un k = v.un k) ∧ (∀ k, t.cl k = s.cl k) ∧ SameMem v t ∧ RegsBut [] v t ∧ t.fab = s.fab := by
  intro v
  have hexec : exec (.tagWaitSatisfied u did) s = .next (begin_ v u did) :=
    congrArg Host.Outcome.next (if_pos (by rw [hmay, hrun]; rfl))
  have hv : UnitOnly s v := unitOnly_atPresent s u
  have hbegin := beginOnly_begin hmay
  obtain ⟨-, -, -, -, hissued⟩ := UnitState.of_unplanned hbegin.self
  exact ⟨_, hexec, begun_of_mayBegin hmay, map_d_of_unbegun hissued, hbegin.others, fun k => (hbegin.cl k).trans (hv.cl k),
    fun a => by rw [hbegin.mem], fun a _ => hbegin.reg a, hbegin.fab.trans hv.fab⟩

/-! ### MMA -/

/-- Does a column of the checksum row show a difference? -/
def columnFails : Option (Option Nat) → Bool
  | some (some _) => true
  | _ => false

/-- The first column that fails, and its excess (R85). -/
def failingColumn (r : MmaResult) : Option (Nat × Nat) :=
  ((List.range 64).zip r.cols).findSome? fun p => match p.2 with | some (some ex) => some (p.1, ex) | _ => none

theorem isSome_failingColumn (r : MmaResult) :
    (failingColumn r).isSome = ((List.range 64).zip r.cols).any fun p => columnFails p.2 := by
  rw [failingColumn, List.isSome_findSome?]
  refine List.any_congr rfl fun p => ?_
  obtain ⟨j, _ | _ | ex⟩ := p
  · rfl
  · rfl
  · rfl

/-- The state at the clock in which MMA e ends, its unit's own accesses made (R67). -/
def atMmaEnd (s : State) (u : Nat) (e : Issued) : State :=
  let a := advClock s (unitRgn u) (e.beganAt + e.span)
  catchUp a u (max (unitClk a u) (e.beganAt + e.span))

theorem cl_atMmaEnd (s : State) (u : Nat) (e : Issued) (k : Nat) : (atMmaEnd s u e).cl k = s.cl k :=
  ((unitOnly_catchUp ..).cl k).trans (cl_advClock ..)

/-- What MMA f computes at its end: the array's results and the comparison of its columns. -/
def mmaOutcome (v : State) (u : Nat) (f : Issued) (upset : List (Nat × BitVec 32)) : MmaResult :=
  mmaCompute v u f (accWords (v.un u) (f.d.f 40 40)) upset

/-- The columns of MMA f that were not compared and the first that failed are counted, the latter with its place (R85, R88). -/
def columnsCounted (w : State) (u : Nat) (f : Issued) (r : MmaResult) : State :=
  let w := w.bumpBy (unitCsumSkipCntAt u) (r.cols.countP (·.isNone))
  match failingColumn r with
  | some (j, ex) =>
    (w.bump (unitCsumFailCntAt u)).setReg (unitCsumLastAt u)
      (f.frameIdx % 2 ^ 32 * 2 ^ 32 + f.mmaOrd % 2 ^ 16 * 2 ^ 16 + ex * 2 ^ 12 + 2 ^ 8 + f.d.f 40 40 * 2 ^ 7 + j)
  | none => w

/-- The results of MMA f stand in its buffer, and its columns and FLOP are counted (R67, R457). -/
def mmaWritten (v : State) (u : Nat) (f : Issued) (upset : List (Nat × BitVec 32)) : State :=
  let r := mmaOutcome v u f upset
  addFlop (columnsCounted (v.modUn u fun x => setAcc x (f.d.f 40 40) r.c) u f r) u (opsGroup (f.d.f 35 32) (f.d.f 39 36))
    (2 * 4096 * f.d.f 61 48)

theorem exec_mmaComplete {e : Issued} (upset : List (Nat × BitVec 32)) (hrun : rgnRuns s (unitRgn u) = true)
    (he : mmaNext (s.un u) did = some e) :
    let v := atMmaEnd s u e
    let f := (mmaNext (v.un u) did).getD e
    exec (.mmaComplete u did upset) s = .next (complete (unitDone (mmaWritten v u f upset) u did) (unitClu u) did
      (if (failingColumn (mmaOutcome v u f upset)).isSome then stSuspect else stOk)) := by
  show execMmaComplete u did upset s = _
  unfold execMmaComplete
  rw [he]
  dsimp only
  rw [if_pos hrun]
  rfl

/-- The FLOP count is all of a unit that `addFlop` changes, and all of the state. -/
theorem addFlop_frame (s : State) (u grp n : Nat) :
    let t := addFlop s u grp n
    (t.un u).acc = (s.un u).acc ∧ (t.un u).vr = (s.un u).vr ∧ t.mem = s.mem ∧ t.fab = s.fab ∧ (∀ k, t.cl k = s.cl k) ∧
    ∀ a, t.ctr a = s.ctr a := by
  have hself : (addFlop s u grp n).un u = { s.un u with flop := addAt (s.un u).flop grp n } := State.setUn_self ..
  refine ⟨?_, ?_, rfl, rfl, fun _ => rfl, fun _ => rfl⟩
  · rw [hself]
  · rw [hself]

theorem ctr_bumpBy_ne (s : State) {a b n : Nat} (h : b ≠ a) : (s.bumpBy a n).ctr b = s.ctr b := by
  unfold State.bumpBy
  split
  · rfl
  · exact findD_putAt_ne _ _ _ h

theorem columnsCounted_eq (w : State) (u : Nat) (f : Issued) (r : MmaResult) :
    columnsCounted w u f r = { w with regs := (columnsCounted w u f r).regs } := by
  unfold columnsCounted
  cases failingColumn r with
  | none => exact bumpBy_eq ..
  | some p =>
    dsimp only
    rw [bump_eq, bumpBy_eq]
    rfl

/-- A column that fails is counted once (R85). -/
theorem counted_columnsCounted (w : State) (u : Nat) (f : Issued) {r : MmaResult} (h : (failingColumn r).isSome = true) :
    Counted (unitCsumFailCntAt u) w (columnsCounted w u f r) := by
  obtain ⟨p, hp⟩ := Option.isSome_iff_exists.1 h
  have hskip : unitCsumFailCntAt u ≠ unitCsumSkipCntAt u := by
    unfold unitCsumFailCntAt unitCsumSkipCntAt
    omega
  have hlast : unitCsumFailCntAt u ≠ unitCsumLastAt u := by
    unfold unitCsumFailCntAt unitCsumLastAt
    omega
  unfold columnsCounted
  rw [hp]
  dsimp only
  rw [Counted, ctr_setReg_ne _ _ hlast, ctr_bump_self, ctr_bumpBy_ne _ hskip]

/-- The results in the buffer are what the MMA computed, and no byte of memory changes. -/
theorem mmaWritten_facts (v : State) (u : Nat) (f : Issued) (upset : List (Nat × BitVec 32)) :
    let z := mmaWritten v u f upset
    let r := mmaOutcome v u f upset
    (z.un u).acc = (setAcc (v.un u) (f.d.f 40 40) r.c).acc ∧ z.mem = v.mem ∧ z.fab = v.fab ∧ (∀ k, z.cl k = v.cl k) ∧
    ((failingColumn r).isSome = true → Counted (unitCsumFailCntAt u) v z) := by
  intro z r
  have hresult : ((v.modUn u fun x => setAcc x (f.d.f 40 40) r.c).un u).acc = (setAcc (v.un u) (f.d.f 40 40) r.c).acc :=
    congrArg UnitState.acc (State.setUn_self ..)
  have hcount := counted_columnsCounted (v.modUn u fun x => setAcc x (f.d.f 40 40) r.c) u f (r := r)
  have hregs := columnsCounted_eq (v.modUn u fun x => setAcc x (f.d.f 40 40) r.c) u f r
  obtain ⟨hacc, -, hmem, hfab, hcl, hctr⟩ := addFlop_frame (columnsCounted (v.modUn u fun x => setAcc x (f.d.f 40 40) r.c) u f r) u
    (opsGroup (f.d.f 35 32) (f.d.f 39 36)) (2 * 4096 * f.d.f 61 48)
  refine ⟨hacc.trans ?_, hmem.trans ?_, hfab.trans ?_, fun k => (hcl k).trans ?_, fun h => (hctr _).trans (hcount h)⟩
  · rw [hregs]
    exact hresult
  · rw [hregs]
    rfl
  · rw [hregs]
    rfl
  · rw [hregs]
    rfl

theorem goes_mmaComplete {e : Issued} (upset : List (Nat × BitVec 32)) (hrun : rgnRuns s (unitRgn u) = true)
    (he : mmaNext (s.un u) did = some e) :
    let v := atMmaEnd s u e
    let f := (mmaNext (v.un u) did).getD e
    let r := mmaOutcome v u f upset
    let fails := ((List.range 64).zip r.cols).any fun p => columnFails p.2
    Goes (.mmaComplete u did upset) s fun t =>
      (t.un u).acc = (setAcc (v.un u) (f.d.f 40 40) r.c).acc ∧ SameMem v t ∧ t.fab = v.fab ∧
      WorkEnded u did (if fails then stSuspect else stOk) s t ∧ (fails = true → Counted (unitCsumFailCntAt u) v t) := by
  intro v f r fails
  have hexec : exec (.mmaComplete u did upset) s = .next (complete (unitDone (mmaWritten v u f upset) u did) (unitClu u) did
      (if (failingColumn r).isSome then stSuspect else stOk)) := exec_mmaComplete upset hrun he
  have hcl : ∀ k, v.cl k = s.cl k := cl_atMmaEnd s u e
  have hfails : (failingColumn r).isSome = fails := isSome_failingColumn r
  obtain ⟨hacc, hmem, hfab, hzcl, hcount⟩ := mmaWritten_facts v u f upset
  rw [hfails] at hexec hcount
  refine ⟨_, hexec, ?_⟩
  clear_value f v
  generalize mmaWritten v u f upset = z at hacc hmem hfab hzcl hcount
  obtain ⟨hended, htacc, -, htmem, htfab, hctr⟩ := complete_unitDone z u did (if fails then stSuspect else stOk)
  refine ⟨htacc.trans hacc, fun a => by rw [htmem, hmem], htfab.trans hfab, hended.congr fun k => (hzcl k).trans (hcl k),
    fun h => ?_⟩
  have hkept := hctr (unitCsumFailCntAt u) (unitReg_not_completion (by decide) (by decide))
  exact hkept.trans (hcount h)

/-! ### VOP -/

theorem unitOnly_runVop (n u did : Nat) (s : State) : UnitOnly s (runVop n u did s) := by
  induction n generalizing s with
  | zero => exact .refl s
  | succ n ih =>
    unfold runVop
    split
    · exact .refl s
    · dsimp only
      split
      · exact .refl s
      · exact (unitOnly_catchUp ..).trans (ih _)

/-- The state to which the unit works until a VOP has come to its end (R100, R101). -/
def atVopEnd (s : State) (u did : Nat) : State := runVop 65536 u did (atPresent s u)

theorem unitOnly_atVopEnd (s : State) (u did : Nat) : UnitOnly s (atVopEnd s u did) :=
  (unitOnly_atPresent ..).trans (unitOnly_runVop ..)

/-- The FLOP of VOP f are counted, and a difference that its rows found (R98, R457). -/
def vopCounted (v : State) (u : Nat) (f : Issued) : State :=
  let w := addFlop v u 7 (64 * f.d.f 43 37 * (if f.d.op = 4 then 2 else 1))
  if f.lane.diff then w.bump (unitVcmpFailCntAt u) else w

theorem exec_vopComplete {e : Issued} (waits : Nat) (hrun : rgnRuns s (unitRgn u) = true) (he : vopOf (s.un u) did = some e) :
    let v := atVopEnd s u did
    let f := (vopOf (v.un u) did).getD e
    exec (.vopComplete u did waits) s = .next (complete
      (unitDone (vopCounted (advClock v (unitRgn u) (f.beganAt + f.span + f.shift)) u f) u did) (unitClu u) did
      (if f.lane.diff then stSuspect else stOk)) := by
  show execVopComplete u did waits s = _
  unfold execVopComplete
  rw [he]
  dsimp only
  rw [if_pos hrun]
  rfl

theorem vopCounted_facts (v : State) (u : Nat) (f : Issued) :
    let z := vopCounted v u f
    (z.un u).acc = (v.un u).acc ∧ (z.un u).vr = (v.un u).vr ∧ z.mem = v.mem ∧ z.fab = v.fab ∧ (∀ k, z.cl k = v.cl k) ∧
    (f.lane.diff = true → Counted (unitVcmpFailCntAt u) v z) := by
  unfold vopCounted
  dsimp only
  generalize 64 * f.d.f 43 37 * (if f.d.op = 4 then 2 else 1) = n
  obtain ⟨hacc, hvr, hmem, hfab, hcl, hctr⟩ := addFlop_frame v u 7 n
  cases f.lane.diff with
  | false => exact ⟨hacc, hvr, hmem, hfab, hcl, nofun⟩
  | true =>
    rw [if_pos rfl]
    obtain ⟨hbump, hcount, -⟩ := bump_counts (addFlop v u 7 n) (unitVcmpFailCntAt u)
    rw [Counted, hctr] at hcount
    generalize (addFlop v u 7 n).bump (unitVcmpFailCntAt u) = z at hbump hcount
    rw [hbump]
    exact ⟨hacc, hvr, hmem, hfab, hcl, fun _ => by rw [← hbump]; exact hcount⟩

theorem goes_vopComplete {e : Issued} (waits : Nat) (hrun : rgnRuns s (unitRgn u) = true) (he : vopOf (s.un u) did = some e) :
    let v := atVopEnd s u did
    let f := (vopOf (v.un u) did).getD e
    Goes (.vopComplete u did waits) s fun t =>
      SameMem v t ∧ (t.un u).acc = (v.un u).acc ∧ (t.un u).vr = (v.un u).vr ∧
      WorkEnded u did (if f.lane.diff then stSuspect else stOk) s t ∧
      t.fab = (advClock v (unitRgn u) (f.beganAt + f.span + f.shift)).fab ∧
      (f.lane.diff = true → Counted (unitVcmpFailCntAt u) v t) := by
  intro v f
  have hexec : exec (.vopComplete u did waits) s = .next (complete
      (unitDone (vopCounted (advClock v (unitRgn u) (f.beganAt + f.span + f.shift)) u f) u did) (unitClu u) did
      (if f.lane.diff then stSuspect else stOk)) := exec_vopComplete waits hrun he
  refine ⟨_, hexec, ?_⟩
  have hcl : ∀ k, v.cl k = s.cl k := (unitOnly_atVopEnd s u did).cl
  clear_value f v
  obtain ⟨hacc, hvr, hmem, hfab, hzcl, hcount⟩ := vopCounted_facts (advClock v (unitRgn u) (f.beganAt + f.span + f.shift)) u f
  rw [un_advClock] at hacc hvr
  rw [mem_advClock] at hmem
  rw [Counted, ctr_advClock] at hcount
  generalize vopCounted (advClock v (unitRgn u) (f.beganAt + f.span + f.shift)) u f = z at hacc hvr hmem hfab hzcl hcount
  obtain ⟨hended, htacc, htvr, htmem, htfab, hctr⟩ := complete_unitDone z u did (if f.lane.diff then stSuspect else stOk)
  refine ⟨fun a => by rw [htmem, hmem], htacc.trans hacc, htvr.trans hvr,
    hended.congr fun k => ((hzcl k).trans (cl_advClock ..)).trans (hcl k), htfab.trans hfab, fun h => ?_⟩
  have hkept := hctr (unitVcmpFailCntAt u) (unitReg_not_completion (by decide) (by decide))
  exact hkept.trans (hcount h)

end

/-- Settles O21: each clause is the law of its command. -/
theorem unitWorkEnds : Obligations.UnitWorkEnds :=
  fun _ _ _ hrun => ⟨goes_tagWaitSatisfied hrun, fun _ upset he => goes_mmaComplete upset hrun he,
    fun _ waits he => goes_vopComplete waits hrun he⟩

end Sys2Proof.Machine
end

section
/-! What every command keeps: the queue, the canonical form of the byte memory, what has left the block (O3, O4). -/

namespace Sys2Proof.Machine

/-- A command takes nothing from the queue, leaves a canonical memory canonical and only adds to the outputs: a cold reset
writes the three so itself, every other command by `keepRes_exec`. -/
theorem exec_keeps_queue_memory_outputs {i : Instr} {s t : State} (h : exec i s = .next t) :
    t.pending = s.pending ∧ (s.memOk → t.memOk) ∧ s.out <:+ t.out := by
  by_cases hi : coldResets i = true
  · rw [exec_coldResets hi] at h
    cases h
    exact ⟨rfl, fun _ => memWf_reset, List.suffix_rfl⟩
  · obtain ⟨u, hu, hkeep⟩ := keepRes_exec hi s
    cases hu.symm.trans h
    exact ⟨hkeep.pending, hkeep.mem, hkeep.out⟩

/-- Settles O3. -/
theorem commandsKeepQueueMemoryAndOutputs : Obligations.CommandsKeepQueueMemoryAndOutputs :=
  fun _ _ _ h => exec_keeps_queue_memory_outputs h

/-- Settles O4: a step is the command at the front of the queue, or an idle cycle, which moves the clock alone. -/
theorem memoryStaysCanonical : Obligations.MemoryStaysCanonical := by
  intro s t hmem h
  unfold StepsTo at h
  cases hp : s.pending with
  | nil =>
    cases (step_nil hp).symm.trans h
    have hidle : (idleCycle s).mem = s.mem := mem_advFab s _
    exact (congrArg (memWf · = true) hidle).mpr hmem
  | cons c rest =>
    rw [step_cons hp] at h
    obtain ⟨-, hform, -⟩ := exec_keeps_queue_memory_outputs h
    exact hform hmem

end Sys2Proof.Machine
end

section
/-! Accesses to a unit's scratchpad from the fabric, the end of a clear, and the copies of the Shadow engines (O35). -/

namespace Sys2Proof.Machine

/-! ### Packets served at a region's agents -/

/-- A packet that enters the mesh as an answer: routers alone differ, and it waits behind the others. -/
theorem answers_inject (s : State) (site port : Nat) (p : Packet) :
    inject s site port p = { s with routers := (inject s site port p).routers } ∧ Sends site port p s (inject s site port p) :=
  ⟨inject_eq .., sends_inject ..⟩

theorem exec_rd_region {s : State} {r : RegionId} {p : Packet}
    (h : ejected s (portOfRegion r).1 (portOfRegion r).2 (fun q => q.typ == tRd) = some p) :
    exec (.rd (.region r)) s = .next (readSpad (popEject s (portOfRegion r).1 (portOfRegion r).2 p.dagt) r p) :=
  serve_eq (at_ := portOfRegion r) _ (fun q s => readSpad s r q) h

theorem exec_wr_region {s : State} {r : RegionId} {p : Packet}
    (h : ejected s (portOfRegion r).1 (portOfRegion r).2 (fun q => q.typ == tWr) = some p) :
    exec (.wr (.region r)) s = .next (writeSpad (popEject s (portOfRegion r).1 (portOfRegion r).2 p.dagt) r p) :=
  serve_eq (at_ := portOfRegion r) _ (fun q s => writeSpad s r q) h

/-! ### Reads (R120, R127, R129) -/

section
variable {v : State} {r : Nat} {p : Packet}

theorem readSpad_unreached (h : ∀ u off, windowOf v p.addr true = some (u, off) → unitRgn u ≠ r) :
    readSpad v r p = inject v (dieSite (r / 2)) (4 + r % 2)
      { poisonReply p sUnassigned with ssite := dieSite (r / 2), sagt := p.dagt } := by
  unfold readSpad
  dsimp only
  split
  · rfl
  · rename_i u off hw
    exact if_pos (h u off hw)

theorem readSpad_here {u off : Nat} {o : Option Bytes} {w : State} (h : windowOf v p.addr true = some (u, off)) (hr : unitRgn u = r)
    (ho : outsideRead v u off (16 * (p.mlen + 1)) .fabric = (o, w)) :
    readSpad v r p = inject w (dieSite (r / 2)) (4 + r % 2)
      { (match o with
          | some bs => withPayload (replyTo p tRdData sOk) bs
          | none => withPoison (replyTo p tRdData sUnassigned) (16 * (p.mlen + 1))) with
        ssite := dieSite (r / 2), sagt := p.dagt } := by
  unfold readSpad
  rw [h]
  dsimp only
  rw [if_neg (not_not.2 hr), ho]
  cases o <;> rfl

/-! ### Writes (R120, R122, R127, R272, R425) -/

theorem writeSpad_unreached (h : ∀ u off, windowOf v p.addr true = some (u, off) → unitRgn u ≠ r) :
    writeSpad v r p = inject v (dieSite (r / 2)) (4 + r % 2)
      { replyTo p tWrAck sUnassigned with poison := false, ssite := dieSite (r / 2), sagt := p.dagt } := by
  unfold writeSpad
  dsimp only
  split
  · rfl
  · rename_i u off hw
    exact if_pos (h u off hw)

/-- The state once a row has been written: a Shadow copy of an empty slot empties the slot, a failed check is counted. -/
def rowNoted (w : State) (u off : Nat) (p : Packet) (bad : Bool) : State :=
  let x := if p.sub = 1 ∧ p.tagm = 0 ∧ bad = false then w.modUn u fun x => emptyTag x (off / 1024) else w
  if bad then x.bump (unitLandCheckCntAt u) else x

theorem writeSpad_here {u off : Nat} {ok : Bool} {w : State} (h : windowOf v p.addr true = some (u, off)) (hr : unitRgn u = r)
    (ho : outsideWrite v u off (if !payloadOk p then zeros p.payload.length else p.payload) (p.tagm == 3 && !!payloadOk p)
      (if p.sub = 1 then .shadow else .plain) .fabric = (ok, w)) :
    writeSpad v r p = inject (if ok then rowNoted w u off p !payloadOk p else w) (dieSite (r / 2)) (4 + r % 2)
      { replyTo p tWrAck (if ok then sOk else sUnassigned) with
        poison := ok && !payloadOk p, ssite := dieSite (r / 2), sagt := p.dagt } := by
  unfold writeSpad
  rw [h]
  dsimp only
  rw [if_neg (not_not.2 hr), ho]
  cases ok <;> rfl

end

theorem tagFull_emptyTag (x : UnitState) (slot : Nat) : tagFull (emptyTag x slot) slot = false := by
  simp [tagFull, emptyTag]

theorem onlyUn_modUn (s : State) (u : Nat) (f : UnitState → UnitState) : OnlyUn u s (s.modUn u f) := fun _ hk =>
  (State.setUn_un ..).trans (if_neg hk)

theorem un_modUn_self (s : State) (u : Nat) (f : UnitState → UnitState) : (s.modUn u f).un u = f (s.un u) :=
  State.setUn_self ..

theorem rowNoted_bad (w : State) (u off : Nat) (p : Packet) : rowNoted w u off p true = w.bump (unitLandCheckCntAt u) := by
  simp [rowNoted]

theorem rowNoted_emptying {p : Packet} (w : State) (u off : Nat) (h : p.sub = 1 ∧ p.tagm = 0) :
    rowNoted w u off p false = w.modUn u fun x => emptyTag x (off / 1024) := by
  simp [rowNoted, h]

theorem rowNoted_plain {p : Packet} (w : State) (u off : Nat) (h : ¬(p.sub = 1 ∧ p.tagm = 0)) : rowNoted w u off p false = w := by
  simpa [rowNoted] using fun hsub htag => absurd ⟨hsub, htag⟩ h

theorem rowNoted_facts (w : State) (u off : Nat) (p : Packet) (bad : Bool) :
    let t := rowNoted w u off p bad
    t = { w with regs := t.regs, units := t.units } ∧ OnlyUn u w t ∧ (bad = true → Counted (unitLandCheckCntAt u) w t) ∧
    (p.sub = 1 → p.tagm = 0 → bad = false → tagFull (t.un u) (off / 1024) = false) := by
  cases bad with
  | true =>
    obtain ⟨hb, hcount, -⟩ := bump_counts w (unitLandCheckCntAt u)
    rw [rowNoted_bad]
    exact ⟨by rw [hb], fun k _ => by rw [hb]; rfl, fun _ => hcount, fun _ _ h => nomatch h⟩
  | false =>
    by_cases hempty : p.sub = 1 ∧ p.tagm = 0
    · rw [rowNoted_emptying w u off hempty]
      exact ⟨rfl, onlyUn_modUn w u _, (nomatch ·), fun _ _ _ => by rw [un_modUn_self, tagFull_emptyTag]⟩
    · rw [rowNoted_plain w u off hempty]
      exact ⟨rfl, fun _ _ => rfl, (nomatch ·), fun hsub htag _ => absurd ⟨hsub, htag⟩ hempty⟩

/-- A written row and its acknowledgement: one unit, registers and routers differ. -/
theorem rowNoted_inject (w : State) (u off : Nat) (p : Packet) (bad : Bool) (site port : Nat) (q : Packet) :
    let t := inject (rowNoted w u off p bad) site port q
    Sends site port q w t ∧ SameMem w t ∧ OnlyUn u w t ∧ t = { w with regs := t.regs, units := t.units, routers := t.routers } ∧
    (bad = true → Counted (unitLandCheckCntAt u) w t) ∧
    (p.sub = 1 → p.tagm = 0 → bad = false → tagFull (t.un u) (off / 1024) = false) := by
  obtain ⟨heq, hun, hcount, htag⟩ := rowNoted_facts w u off p bad
  have hrtr : (rowNoted w u off p bad).rtr site = w.rtr site := by rw [heq]; rfl
  have hsend := sends_inject (rowNoted w u off p bad) site port q
  unfold Sends at hsend ⊢
  rw [hrtr] at hsend
  refine ⟨hsend, fun a => ?_, hun, ?_, hcount, htag⟩
  · rw [inject_eq, heq]
  · rw [inject_eq, heq]

/-! ### The end of a clear (R128) -/

/-- The state at the end of a unit's clear, apart from the count. -/
def clearEnded (f : State) (u : Nat) : State :=
  (wipeSpad f u).modUn u fun x => { x with clear := 2, mode := x.modeAfter.getD x.mode, modeAfter := none }

theorem un_clearEnded_self (f : State) (u : Nat) : (clearEnded f u).un u = { f.un u with
    clear := 2, full := [], dirty := [], mode := (f.un u).modeAfter.getD (f.un u).mode, modeAfter := none } := by
  rw [clearEnded, un_modUn_self, wipeSpad, un_modUn_self]
  rfl

theorem onlyUn_clearEnded (f : State) (u : Nat) : OnlyUn u f (clearEnded f u) := fun k hk =>
  (onlyUn_modUn (wipeSpad f u) u _ k hk).trans (onlyUn_modUn (f.clear (spadAt u 0) 0x600000) u _ k hk)

theorem exec_spadClearDone {s : State} {u : UnitId} (hc : (s.un u).clear = 1) (hrun : rgnRuns s (unitRgn u) = true) :
    exec (.spadClearDone u) s =
      .next ((clearEnded (advClock s (unitRgn u) ((s.un u).clearAt + 6544)) u).bump (unitSpadClearCntAt u)) :=
  if_pos ⟨hc, hrun⟩

theorem goes_spadClearDone {s : State} {u : UnitId} (hc : (s.un u).clear = 1) (hrun : rgnRuns s (unitRgn u) = true) :
    let f := advClock s (unitRgn u) ((s.un u).clearAt + 6544)
    Goes (.spadClearDone u) s fun t =>
      t.fab = f.fab ∧ t = { f with regs := t.regs, mem := t.mem, units := t.units } ∧ OnlyUn u s t ∧
      Counted (unitSpadClearCntAt u) s t ∧ RegsBut [unitSpadClearCntAt u] s t ∧
      t.un u = { s.un u with clear := 2, full := [], dirty := [], mode := (s.un u).modeAfter.getD (s.un u).mode, modeAfter := none } ∧
      t.mem = (s.clear (spadAt u 0) 0x600000).mem := by
  intro f
  refine ⟨_, exec_spadClearDone hc hrun, ?_⟩
  have hun : ∀ k, f.un k = s.un k := un_advClock s _ _
  have hmem : f.mem = s.mem := mem_advClock ..
  obtain ⟨hb, hcount, hregs⟩ := bump_counts (clearEnded f u) (unitSpadClearCntAt u)
  have hunits : ∀ k, ((clearEnded f u).bump (unitSpadClearCntAt u)).un k = (clearEnded f u).un k := fun k => by rw [hb]; rfl
  refine ⟨by rw [hb]; rfl, by rw [hb]; rfl, fun k hk => ?_, ?_, fun a ha => ?_, ?_, ?_⟩
  · rw [hunits, onlyUn_clearEnded f u k hk, hun]
  · rw [Counted, hcount]
    exact congrArg (fun n => min (n + 1) _) (ctr_advClock ..)
  · rw [hregs a ha]
    exact reg_advClock ..
  · rw [hunits, un_clearEnded_self, hun]
  · rw [hb]
    exact congrArg (fun m => memClear m _ _) hmem

/-! ### The copies of the Shadow engines (R425) -/

theorem unitOnly_takePort (s : State) (u : Nat) (write : Bool) : UnitOnly s (takePort s u write) := by
  unfold takePort
  dsimp only
  split
  · exact .refl s
  · cases write
    · exact unitOnly_modUn _ _ _ (fun _ => rfl) fun _ => rfl
    · exact unitOnly_modUn _ _ _ (fun _ => rfl) fun _ => rfl

/-- A request that passes its bucket moves the clock on and ends the wait: besides, buckets and the count of the wait differ. -/
theorem passBucket_eq {s w : State} {c cls : Nat} (h : passBucket s c cls = some w) :
    ∃ f ks m b r, w = { s with fab := f, keepers := ks, mgr := m, buckets := b, regs := r } := by
  unfold passBucket at h
  split at h
  · cases h
  · split at h
    · cases h
    · rename_i f _
      cases h
      obtain ⟨b, r, he⟩ := endBucketWait_eq (advFab (if f > s.fab then startBucketWait s c cls else s) f) c cls
      obtain ⟨b', hb⟩ : ∃ b', (if f > s.fab then startBucketWait s c cls else s) = { s with buckets := b' } := by
        split
        · exact startBucketWait_eq ..
        · exact ⟨_, rfl⟩
      obtain ⟨ks, m, ha⟩ := advFab_record { s with buckets := b' } f
      rw [he, hb, ha]
      exact ⟨_, _, _, _, _, rfl⟩

/-- The packet that copies a slot, read from the unit in its present state, to its partner's slot. -/
def copyPacket (f : State) (i u pl psl pu slot : Nat) : Packet :=
  withPayload
    { typ := tWr, cls := cBulk, addr := windowBase + pl * 0x800000 + 1024 * psl, sub := 1
      tagm := if tagFull (f.un u) slot then 3 else 0, wtag := shadowTag i slot
      dsite := cluSite (unitClu pu), dagt := cluAgent (unitClu pu) } (spadRead f u (1024 * slot) 1024)

theorem copySlot_eq {w : State} {cfg : StreamCfg} {c i slot l pl psl pu : Nat} (hl : logicalOfUnit w (4 * c + i) = some l)
    (hpart : partnerSlot cfg l slot = some (pl, psl)) (hpu : unitOfLogical w pl = some pu) :
    let f := atPresent (takePort w (4 * c + i) false) (4 * c + i)
    copySlot w cfg c i slot = (injectClu (charge (f.modUn (4 * c + i) fun x => markSent x slot) (bucketOf c cBulk)) c
      (copyPacket f i (4 * c + i) pl psl pu slot)).bump (unitShadowSlotCntAt (4 * c + i)) := by
  unfold copySlot
  dsimp only
  rw [hl, Option.bind_some, hpart]
  dsimp only
  rw [hpu]
  rfl

/-- A cluster's packet that is charged to a bucket, sent and counted. -/
theorem charged_sent_counted (x : State) (b c a : Nat) (q : Packet) :
    let t := (injectClu (charge x b) c q).bump a
    t = { x with regs := t.regs, buckets := t.buckets, routers := t.routers } ∧ Counted a x t ∧
    Sends (cluSite c) (4 + c % 4 / 2) (fromClu c q) x t := by
  obtain ⟨hb, hcount, -⟩ := bump_counts (injectClu (charge x b) c q) a
  refine ⟨by rw [hb]; rfl, hcount, ?_⟩
  rw [hb]
  exact sends_inject (charge x b) (cluSite c) (4 + c % 4 / 2) (fromClu c q)

/-- A unit's slot that is sent and awaits its acknowledgement, from a state f that only the unit's own work has reached. -/
theorem copySent_facts {w f : State} (hf : UnitOnly w f) (u slot b c a : Nat) (q : Packet) :
    let t := (injectClu (charge (f.modUn u fun x => markSent x slot) b) c q).bump a
    t.fab = w.fab ∧ t.mem = f.mem ∧ t.clusters = w.clusters ∧ Counted a f t ∧ (t.un u).sets = (markSent (f.un u) slot).sets ∧
    Sends (cluSite c) (4 + c % 4 / 2) (fromClu c q) w t := by
  obtain ⟨ht, hcount, hsend⟩ := charged_sent_counted (f.modUn u fun x => markSent x slot) b c a q
  have hrtr : f.rtr (cluSite c) = w.rtr (cluSite c) := by rw [hf.same]; rfl
  have hcl : f.clusters = w.clusters := by rw [hf.same]
  refine ⟨by rw [ht]; exact hf.fab, by rw [ht]; rfl, by rw [ht]; exact hcl, hcount, ?_, ?_⟩
  · rw [ht]
    exact congrArg UnitState.sets (un_modUn_self f u fun x => markSent x slot)
  · unfold Sends at hsend ⊢
    rw [← hrtr]
    exact hsend

theorem exec_shadowCopy {s w : State} {c : ClusterId} {cfg : StreamCfg} {i slot : Nat} (hcfg : cfgOf s (cluQuarter c) = some cfg)
    (hhead : copyHead s cfg c = some (i, slot)) (hrun : rgnRuns s (cluRgn c) = true) (habs : (s.cl c).absorbing = false)
    (hpass : passBucket s c cBulk = some w) : exec (.shadowCopy c) s = .next (copySlot w cfg c i slot) := by
  show execShadowCopy c s = _
  unfold execShadowCopy
  dsimp only
  rw [hcfg]
  dsimp only
  rw [hhead]
  dsimp only
  rw [if_pos (by rw [hrun, habs]; rfl), hpass]

theorem goes_shadowCopy {s w : State} {c : ClusterId} {cfg : StreamCfg} {i slot l pl psl pu : Nat}
    (hcfg : cfgOf s (cluQuarter c) = some cfg) (hhead : copyHead s cfg c = some (i, slot))
    (hl : logicalOfUnit s (4 * c + i) = some l) (hpart : partnerSlot cfg l slot = some (pl, psl))
    (hpu : unitOfLogical s pl = some pu) (hrun : rgnRuns s (cluRgn c) = true) (habs : (s.cl c).absorbing = false)
    (hpass : passBucket s c cBulk = some w) :
    let f := atPresent (takePort w (4 * c + i) false) (4 * c + i)
    Goes (.shadowCopy c) s fun t =>
      t.fab = w.fab ∧ t.mem = f.mem ∧ t.clusters = s.clusters ∧ Counted (unitShadowSlotCntAt (4 * c + i)) f t ∧
      (t.un (4 * c + i)).sets = (markSent (f.un (4 * c + i)) slot).sets ∧
      Sends (cluSite c) (4 + c.val % 4 / 2) (fromClu c (copyPacket f i (4 * c + i) pl psl pu slot)) s t := by
  intro f
  have hexec := exec_shadowCopy hcfg hhead hrun habs hpass
  obtain ⟨n, ks, m, b, r, hw⟩ := passBucket_eq hpass
  have hlw : logicalOfUnit w (4 * c + i) = some l := by rw [hw]; exact hl
  have hpuw : unitOfLogical w pl = some pu := by rw [hw]; exact hpu
  obtain ⟨hfab, hmem, hcl, hcount, hsets, hsend⟩ := copySent_facts ((unitOnly_takePort w (4 * c + i) false).trans
    (unitOnly_atPresent _ (4 * c + i))) (4 * c + i) slot (bucketOf c cBulk) c (unitShadowSlotCntAt (4 * c + i))
    (copyPacket f i (4 * c + i) pl psl pu slot)
  refine ⟨_, hexec.trans (congrArg _ (copySlot_eq hlw hpart hpuw)), hfab, hmem, hcl.trans (by rw [hw]), hcount, hsets, ?_⟩
  unfold Sends at hsend ⊢
  have hrtr : w.rtr (cluSite c) = s.rtr (cluSite c) := by rw [hw]; rfl
  rw [← hrtr]
  exact hsend

/-- Settles O35: each clause is the law of its command. -/
theorem scratchpadAccesses : Obligations.ScratchpadAccesses := by
  intro s r p v inbox answers
  have hunmapped : windowOf s p.addr true = none → ∀ u off, windowOf v p.addr true = some (u, off) → unitRgn u ≠ r.val :=
    fun hw _ _ hsome => nomatch hw.symm.trans hsome
  have helsewhere : ∀ {u off}, windowOf s p.addr true = some (u, off) → unitRgn u ≠ r.val →
      ∀ u off, windowOf v p.addr true = some (u, off) → unitRgn u ≠ r.val := fun hw hr _ _ hsome => by
    cases hw.symm.trans hsome
    exact hr
  refine ⟨fun hin => ?_, fun hin => ?_, fun u hc hrun => goes_spadClearDone hc hrun,
    fun c cfg i slot l pl psl pu w hcfg hhead hl hpart hpu hrun habs hpass =>
      goes_shadowCopy hcfg hhead hl hpart hpu hrun habs hpass⟩
  · have hexec : exec (.rd (.region r)) s = .next (readSpad v r p) := exec_rd_region hin
    exact ⟨fun hw => ⟨_, hexec.trans (congrArg _ (readSpad_unreached (hunmapped hw))), answers_inject ..⟩, fun u off hw =>
      ⟨fun hr => ⟨_, hexec.trans (congrArg _ (readSpad_unreached (helsewhere hw hr))), answers_inject ..⟩, fun hr o w ho =>
        ⟨_, hexec.trans (congrArg _ (readSpad_here hw hr ho)), answers_inject ..⟩⟩⟩
  · intro bad ack
    have hexec : exec (.wr (.region r)) s = .next (writeSpad v r p) := exec_wr_region hin
    refine ⟨fun hw => ⟨_, hexec.trans (congrArg _ (writeSpad_unreached (hunmapped hw))), answers_inject ..⟩, fun u off hw =>
      ⟨fun hr => ⟨_, hexec.trans (congrArg _ (writeSpad_unreached (helsewhere hw hr))), answers_inject ..⟩, fun hr ok w ho =>
        ⟨_, hexec.trans (congrArg _ (writeSpad_here hw hr ho)), fun hok => ?_, fun hok => ?_⟩⟩⟩
    · subst hok
      exact answers_inject ..
    · subst hok
      exact rowNoted_inject w u off p bad _ _ _

end Sys2Proof.Machine
end

section
/-! The Day checks and the choice of the Day instant (O24), and what a new generation of the defect map leaves as it is. -/

namespace Sys2Proof.Machine

/-! ### Registers, partitions and messages to the hosts -/

/-- t differs from s in registers, partitions and what the quarters hold, their service levels apart. -/
structure Noted (s t : State) : Prop where
  same : t = { s with regs := t.regs, parts := t.parts, quarters := t.quarters }
  svc : ∀ q, (t.qtr q).svc = (s.qtr q).svc

section
variable {r s t : State}

theorem Noted.refl (s : State) : Noted s s := ⟨rfl, fun _ => rfl⟩

theorem Noted.trans (h : Noted r s) (k : Noted s t) : Noted r t :=
  ⟨k.same.trans (by rw [h.same]), fun q => (k.svc q).trans (h.svc q)⟩

theorem Noted.foldl {α : Type} (f : State → α → State) (hf : ∀ s a, Noted s (f s a)) (l : List α) (s : State) :
    Noted s (l.foldl f s) :=
  foldl_inv (Noted s) f l s (.refl s) fun b a _ h => h.trans (hf b a)

theorem noted_setReg (s : State) (a v : Nat) : Noted s (s.setReg a v) := ⟨rfl, fun _ => rfl⟩

theorem noted_bumpBy (s : State) (a n : Nat) : Noted s (s.bumpBy a n) := by
  rw [bumpBy_eq]
  exact ⟨rfl, fun _ => rfl⟩

theorem noted_bump (s : State) (a : Nat) : Noted s (s.bump a) := noted_bumpBy s a 1

theorem noted_modPart (s : State) (q : Nat) (f : Partition → Partition) : Noted s (modPart s q f) := ⟨rfl, fun _ => rfl⟩

theorem noted_modQtr (s : State) (q : Nat) {f : Quarter → Quarter} (hf : ∀ x, (f x).svc = x.svc) : Noted s (s.modQtr q f) := by
  refine ⟨rfl, fun k => ?_⟩
  rw [State.modQtr, State.setQtr_qtr]
  split
  · subst_vars; exact hf _
  · rfl

theorem noted_dropMsg (s : State) (q seq : Nat) : Noted s (dropMsg s q seq) :=
  (noted_modQtr s q (f := fun x => { x with dropped := some (match x.dropped with
    | none => (1, seq, seq)
    | some (n, first, _) => (n + 1, first, seq)) }) fun _ => rfl).trans (noted_bump ..)

theorem noted_stageMsg (s : State) (q typ : Nat) (payload : Bytes) : Noted s (stageMsg s q typ payload) := by
  unfold stageMsg
  dsimp only
  split
  · exact .refl s
  · refine (noted_modQtr s q (f := fun x => { x with msgSeq := x.msgSeq + 1 }) fun _ => rfl).trans ?_
    split
    · exact noted_dropMsg ..
    · exact noted_modQtr _ q fun _ => rfl

theorem noted_stateEvent (s : State) (qmask code value : Nat) : Noted s (stateEvent s qmask code value) :=
  .foldl _ (fun _ _ => noted_stageMsg ..) _ s

theorem noted_sendDmap (s : State) : Noted s (sendDmap s) :=
  .foldl _ (fun s q => by split; exacts [.refl s, noted_stageMsg ..]) _ s

end

/-! ### A new generation of the defect map (R386) -/

theorem pmDmapGen_ne_msgDropCnt (q : Nat) : pmDmapGenAt ≠ hstMsgDropCntAt q := by
  have hedge : controllerEdge q ≤ 10 := by
    unfold controllerEdge
    match q with
    | 0 | 1 | 2 | 3 => decide
    | _ + 4 => exact Nat.zero_le _
  unfold pmDmapGenAt hstMsgDropCntAt pmBlk managerArea hstBlk edgeArea
  omega

theorem reg_stageMsg {a : Nat} (s : State) (q typ : Nat) (payload : Bytes) (h : a ≠ hstMsgDropCntAt q) :
    (stageMsg s q typ payload).reg a = s.reg a := by
  unfold stageMsg
  dsimp only
  split
  · rfl
  · split
    · exact reg_bump_ne _ h
    · rfl

theorem reg_sendDmap (s : State) : (sendDmap s).reg pmDmapGenAt = s.reg pmDmapGenAt :=
  foldl_inv (fun t : State => t.reg pmDmapGenAt = s.reg pmDmapGenAt) _ _ s rfl fun t q _ h => by
    split
    · exact h
    · exact (reg_stageMsg t q _ _ (pmDmapGen_ne_msgDropCnt q)).trans h

/-- A new generation changes registers, the messages of the quarters and the manager's note of its time. -/
theorem newGeneration_facts (s : State) :
    let t := newGeneration s
    (∃ n, Noted { s with mgr := { s.mgr with dmapNs := n } } t) ∧ t.reg pmDmapGenAt = s.reg pmDmapGenAt + 1 := by
  have heq : newGeneration s =
      sendDmap (State.setReg { s with mgr := { s.mgr with dmapNs := mgrNs s } } pmDmapGenAt (s.reg pmDmapGenAt + 1)) := by
    unfold newGeneration
    rfl
  rw [heq]
  refine ⟨⟨mgrNs s, (noted_setReg ..).trans (noted_sendDmap _)⟩, ?_⟩
  rw [reg_sendDmap]
  exact State.setReg_self ..

/-! ### The choice of T_day (R390) -/

theorem chooseT_ahead {s : State} (lead : Nat) (h : tickLcm s ≠ 0) : mgrNs s + lead ≤ chooseT s lead := by
  have up : ∀ a l : Nat, l ≠ 0 → a ≤ (a + l - 1) / l * l := fun a l hl => by
    have hdiv := Nat.div_add_mod' (a + l - 1) l
    have hlt := Nat.mod_lt (a + l - 1) (Nat.pos_of_ne_zero hl)
    omega
  unfold chooseT
  dsimp only
  split
  · exact up _ _ h
  · exact up _ 1000 (by decide)

theorem chooseT_multiple (s : State) (lead : Nat) :
    chooseT s lead % (if s.parts.any (·.tick) && tickLcm s ≤ 16000000 then tickLcm s else 1000) = 0 := by
  unfold chooseT
  dsimp only
  split
  · exact Nat.mul_mod_left ..
  · exact Nat.mul_mod_left ..

theorem chooseDay_eq (s : State) : ∃ d, chooseDay s = s.modMgr fun m => { m with tDay := d } := by
  unfold chooseDay
  split
  · exact ⟨_, rfl⟩
  · exact ⟨s.mgr.tDay, rfl⟩

theorem exec_pmSvcCtl {s : State} {who : Requester} (hold : Bool) (ho : isOperator s who = true) (ha : (activeMgr s).isSome = true) :
    exec (.pmSvcCtl who hold) s = .next (chooseDay (s.setReg pmSvcCtlAt (b2n hold))) := by
  show Host.Outcome.next (if operMgr s who = true then _ else _) = _
  rw [if_pos (by rw [operMgr, ho, ha]; rfl)]

theorem goes_pmSvcCtl {s : State} {who : Requester} (hold : Bool) (ho : isOperator s who = true) (ha : (activeMgr s).isSome = true) :
    Goes (.pmSvcCtl who hold) s fun t => t.reg pmSvcCtlAt = b2n hold ∧ RegsBut [pmSvcCtlAt] s t ∧ SameMem s t ∧ t.fab = s.fab ∧
      (hold = true → t.mgr = s.mgr) ∧
      (hold = false → s.mgr.step = 10 → s.mgr.tDay = none → dayReady s = true → tickLcm s ≠ 0 → ∃ T, t.mgr.tDay = some T ∧
        mgrNs s + 100000 ≤ T ∧ T % (if s.parts.any (·.tick) && tickLcm s ≤ 16000000 then tickLcm s else 1000) = 0) := by
  refine ⟨_, exec_pmSvcCtl hold ho ha, ?_⟩
  have hreg : (s.setReg pmSvcCtlAt (b2n hold)).reg pmSvcCtlAt = b2n hold := State.setReg_self ..
  obtain ⟨d, hd⟩ := chooseDay_eq (s.setReg pmSvcCtlAt (b2n hold))
  refine ⟨by rw [hd]; exact hreg, by rw [hd]; exact regsBut_setReg s _ _, by rw [hd]; exact fun _ => rfl, by rw [hd]; rfl,
    fun hh => ?_, fun hh hstep hnone hready hl => ?_⟩
  · subst hh
    unfold chooseDay
    rw [if_neg fun ⟨_, _, _, _, hb⟩ => by rw [hreg] at hb; exact absurd hb (by decide)]
    rfl
  · subst hh
    unfold chooseDay
    rw [if_pos ⟨ha, hstep, by rw [show (s.setReg _ _).mgr.tDay = none from hnone]; rfl, hready, by rw [hreg]; rfl⟩]
    exact ⟨_, rfl, chooseT_ahead (s := s) 100000 hl, chooseT_multiple s 100000⟩

/-! ### The Day checks (R389) -/

/-- The fabric cycle at which the checks of a die end; those of a router have no cycle of their own. -/
def dayChecksEnd (s : State) (site : Nat) : Nat :=
  match placeOf site with | .die d => s.mgr.t9 + 136000000000 + dayStretch s d | _ => 0

/-- The state once the checks that end at fabric cycle f are recorded. -/
def dayNoted (s : State) (site f : Nat) : State :=
  (advFab s f).modMgr fun m => { m with dayDone := insSorted m.dayDone site }

theorem advFab_zero (s : State) : advFab s 0 = s := if_pos (Nat.zero_le _)

theorem exec_dayChecksDone {s : State} {site : RouterId} (failed : Bool) (hstep : s.mgr.step = 10)
    (hdawn : inDawn s (siteQuarter site) = true) (hexp : (dayExpected s).contains site.val = true)
    (hnew : s.mgr.dayDone.contains site.val = false) : exec (.dayChecksDone site failed) s =
      .next (chooseDay (if failed then noteDayFail (dayNoted s site (dayChecksEnd s site)) site
        else dayNoted s site (dayChecksEnd s site))) := by
  show execDayChecksDone site failed s = _
  unfold execDayChecksDone dayNoted dayChecksEnd
  rw [if_pos ⟨hstep, hdawn, hexp, hnew⟩]
  cases placeOf site with
  | die d => dsimp only
  | stack n => dsimp only; rw [advFab_zero]
  | edge e => dsimp only; rw [advFab_zero]

theorem dayNoted_facts (s : State) (site f : Nat) :
    let t := dayNoted s site f
    t = { s with fab := max s.fab f, keepers := t.keepers, mgr := t.mgr } ∧ t.mgr.dayDone = insSorted s.mgr.dayDone site := by
  obtain ⟨ks, m, ha⟩ := advFab_record s f
  exact ⟨by unfold dayNoted; rw [ha]; rfl, congrArg (insSorted · site) (dayDone_advFab s f)⟩

/-- A failed check leaves memory, time and the record of finished checks as they are, and gives the die or stack its cause. -/
theorem noteDayFail_facts (s : State) (site : Nat) :
    let t := noteDayFail s site
    t.mem = s.mem ∧ t.fab = s.fab ∧ t.mgr.dayDone = s.mgr.dayDone ∧
    (∀ d, placeOf site = .die d → t.die d = { s.die d with cause := 8 } ∧ t.reg pmDmapGenAt = s.reg pmDmapGenAt + 1) ∧
    ∀ n, placeOf site = .stack n → t.mr n = { s.mr n with cause := 8 } := by
  unfold noteDayFail
  cases placeOf site with
  | die d =>
    obtain ⟨⟨n, hn⟩, hgen⟩ := newGeneration_facts (s.modDie d fun x => { x with cause := 8 })
    dsimp only
    generalize newGeneration (s.modDie d fun x => { x with cause := 8 }) = t at hn hgen
    refine ⟨by rw [hn.same]; rfl, by rw [hn.same]; rfl, by rw [hn.same]; rfl, fun e he => ?_, nofun⟩
    cases he
    exact ⟨by rw [hn.same]; exact State.setDie_self .., hgen⟩
  | stack m =>
    obtain ⟨⟨n, hn⟩, -⟩ := newGeneration_facts (s.modMr m fun x => { x with cause := 8 })
    dsimp only
    generalize newGeneration (s.modMr m fun x => { x with cause := 8 }) = t at hn
    refine ⟨by rw [hn.same]; rfl, by rw [hn.same]; rfl, by rw [hn.same]; rfl, nofun, fun e he => ?_⟩
    cases he
    rw [hn.same]
    exact State.setMr_self ..
  | edge e => exact ⟨rfl, rfl, rfl, nofun, nofun⟩

theorem goes_dayChecksDone {s : State} {site : RouterId} (failed : Bool) (hstep : s.mgr.step = 10)
    (hdawn : inDawn s (siteQuarter site) = true) (hexp : (dayExpected s).contains site.val = true)
    (hnew : s.mgr.dayDone.contains site.val = false) : Goes (.dayChecksDone site failed) s fun t => site.val ∈ t.mgr.dayDone ∧
      (∀ k ∈ s.mgr.dayDone, k ∈ t.mgr.dayDone) ∧ SameMem s t ∧
      (failed = false → RegsBut [] s t ∧ ∀ k, t.die k = s.die k) ∧
      (∀ d, placeOf site = .die d → t.fab = max s.fab (s.mgr.t9 + 136000000000 + dayStretch s d) ∧
        (failed = true → t.die d = { s.die d with cause := 8 } ∧ t.reg pmDmapGenAt = s.reg pmDmapGenAt + 1)) ∧
      (∀ n, placeOf site = .stack n → t.fab = s.fab ∧ (failed = true → t.mr n = { s.mr n with cause := 8 })) := by
  refine ⟨_, exec_dayChecksDone failed hstep hdawn hexp hnew, ?_⟩
  obtain ⟨hv, hdone⟩ := dayNoted_facts s site (dayChecksEnd s site)
  have hdie : ∀ d, placeOf site = .die d → dayChecksEnd s site = s.mgr.t9 + 136000000000 + dayStretch s d := fun d hd => by
    rw [dayChecksEnd, hd]
  have hstack : ∀ n, placeOf site = .stack n → dayChecksEnd s site = 0 := fun n hn => by rw [dayChecksEnd, hn]
  generalize dayChecksEnd s site = f at hv hdone hdie hstack
  generalize dayNoted s site f = v at hv hdone
  have hfab : v.fab = max s.fab f := by rw [hv]
  have hfabDie : ∀ d, placeOf site = .die d → v.fab = max s.fab (s.mgr.t9 + 136000000000 + dayStretch s d) := fun d hd => by
    rw [hfab, hdie d hd]
  have hfabStack : ∀ n, placeOf site = .stack n → v.fab = s.fab := fun n hn => by
    rw [hfab, hstack n hn]
    exact Nat.max_zero _
  have hmem : v.mem = s.mem := by rw [hv]
  have hdies : ∀ k, v.die k = s.die k := fun k => by rw [hv]; rfl
  have hmrs : ∀ k, v.mr k = s.mr k := fun k => by rw [hv]; rfl
  have hregs : ∀ a, v.reg a = s.reg a := fun a => by rw [hv]; rfl
  have hin : ∀ {k}, k = site.val ∨ k ∈ s.mgr.dayDone → k ∈ v.mgr.dayDone := fun h => by
    rw [hdone]
    exact (mem_insSorted ..).2 h
  cases failed with
  | false =>
    obtain ⟨T, hT⟩ := chooseDay_eq v
    rw [if_neg (by decide), hT]
    exact ⟨hin (.inl rfl), fun k hk => hin (.inr hk), fun a => congrArg (memByte · a) hmem, fun _ => ⟨fun a _ => hregs a, hdies⟩,
      fun d hd => ⟨hfabDie d hd, nofun⟩, fun n hn => ⟨hfabStack n hn, nofun⟩⟩
  | true =>
    obtain ⟨hfmem, hffab, hfdone, hfdie, hfstack⟩ := noteDayFail_facts v site
    obtain ⟨T, hT⟩ := chooseDay_eq (noteDayFail v site)
    rw [if_pos rfl, hT]
    generalize noteDayFail v site = w at hfmem hffab hfdone hfdie hfstack
    have hinw : ∀ {k}, k = site.val ∨ k ∈ s.mgr.dayDone → k ∈ w.mgr.dayDone := fun h => by
      rw [hfdone]
      exact hin h
    refine ⟨hinw (.inl rfl), fun k hk => hinw (.inr hk), fun a => congrArg (memByte · a) (hfmem.trans hmem), nofun,
      fun d hd => ⟨hffab.trans (hfabDie d hd), fun _ => ?_⟩, fun n hn => ⟨hffab.trans (hfabStack n hn), fun _ => ?_⟩⟩
    · obtain ⟨hcause, hgen⟩ := hfdie d hd
      exact ⟨hcause.trans (by rw [hdies]), hgen.trans (by rw [hregs])⟩
    · exact (hfstack n hn).trans (by rw [hmrs])

end Sys2Proof.Machine
end

section
/-! What the operations of a tick edge, of an Eclipse's first steps and of the Day change leave as it is: the time, the Day instant, the
dies, and the service levels of the quarters. -/

namespace Sys2Proof.Machine

/-- The time, the Day instant, the dies and the service levels stand in t as in s. -/
structure DayKept (s t : State) : Prop where
  fab : t.fab = s.fab
  tDay : t.mgr.tDay = s.mgr.tDay
  dies : t.dies = s.dies
  svc : ∀ q, (t.qtr q).svc = (s.qtr q).svc

variable {r s t : State}

theorem DayKept.refl (s : State) : DayKept s s := ⟨rfl, rfl, rfl, fun _ => rfl⟩

theorem DayKept.trans (h : DayKept r s) (k : DayKept s t) : DayKept r t :=
  ⟨k.fab.trans h.fab, k.tDay.trans h.tDay, k.dies.trans h.dies, fun q => (k.svc q).trans (h.svc q)⟩

/-- An update of other fields. -/
theorem DayKept.same (h : DayKept r s) (hf : t.fab = s.fab := by rfl) (hm : t.mgr.tDay = s.mgr.tDay := by rfl)
    (hd : t.dies = s.dies := by rfl) (hq : t.quarters = s.quarters := by rfl) : DayKept r t :=
  h.trans ⟨hf, hm, hd, fun q => by rw [State.qtr, hq]; rfl⟩

theorem DayKept.noted (h : DayKept r s) (k : Noted s t) : DayKept r t :=
  h.trans ⟨by rw [k.same], by rw [k.same], by rw [k.same], k.svc⟩

theorem DayKept.work (h : DayKept r s) (k : UnitOnly s t) : DayKept r t :=
  h.same (by rw [k.same]) (by rw [k.same]) (by rw [k.same]) (by rw [k.same])

theorem DayKept.ite {c : Prop} [Decidable c] (h : DayKept r s) (k : DayKept r t) : DayKept r (if c then s else t) := by
  split
  · exact h
  · exact k

theorem DayKept.snd {α : Type} (a : α) (h : DayKept r t) : DayKept r (a, t).2 := h

theorem DayKept.foldl {α : Type} (h : DayKept r s) (f : State → α → State) (hf : ∀ s a, DayKept r s → DayKept r (f s a))
    (l : List α) : DayKept r (l.foldl f s) :=
  foldl_inv (DayKept r) f l s h fun b a _ hb => hf b a hb

/-! ### Registers, partitions and messages -/

theorem noted_recordReplay (s : State) (q : Nat) (h : HeldStep) (outcome : Nat) : Noted s (recordReplay s q h outcome) :=
  noted_setReg ..

theorem noted_haltSoon (s : State) (q : Nat) : Noted s (haltSoon s q) := noted_modPart ..

theorem noted_unresolved (s : State) (q : Nat) (h : HeldStep) : Noted s (unresolved s q h) := by
  have hrec := (noted_bump s (pmReplayUnresCntAt (partQ (partD s q)))).trans (noted_recordReplay _ (partQ (partD s q)) h 2)
  unfold unresolved
  dsimp only
  split
  · exact hrec.trans (noted_haltSoon ..)
  · exact hrec

theorem noted_resolveStep (s : State) (q : Nat) (h : HeldStep) (outcome : Nat) : Noted s (resolveStep s q h outcome) := by
  unfold resolveStep
  refine (noted_modPart s q fun p => { p with held := p.held.filter fun x => x.serial != h.serial }).trans ?_
  dsimp only
  split
  · exact (noted_bump ..).trans (noted_recordReplay ..)
  · exact (noted_bump ..).trans (noted_recordReplay ..)
  · exact noted_unresolved ..

theorem noted_dropHopeless (s : State) (q : Nat) : Noted s (dropHopeless s q) := by
  unfold dropHopeless
  dsimp only
  split
  · exact .foldl _ (fun s _ => (noted_modPart s q _).trans (noted_unresolved ..)) _ s
  · exact .refl s

theorem noted_spareEvent (s : State) (f : Nat) : Noted s (spareEvent s f) := noted_stateEvent ..

theorem noted_setSs (s : State) (q state : Nat) (f : SsFail) : Noted s (setSs s q state f) := by
  unfold setSs
  exact noted_setReg ..

theorem noted_endSs (s : State) (q state : Nat) (f : SsFail) : Noted s (endSs s q state f) := by
  unfold endSs
  dsimp only
  exact (noted_setSs s q state f).trans (noted_stageMsg ..)

theorem noted_setField (s : State) (a hi lo v : Nat) : Noted s (s.setField a hi lo v) := noted_setReg ..

theorem noted_modHeld (s : State) (q serial : Nat) (f : HeldStep → HeldStep) : Noted s (modHeld s q serial f) := noted_modPart ..

theorem noted_refreshSusp (s : State) : Noted s (refreshSusp s) := by
  obtain ⟨a, n, h⟩ := refreshSusp_cases s
  rw [h]
  exact (noted_setReg ..).trans (noted_bumpBy ..)

/-! ### Units -/

theorem unitOnly_startClear (s : State) (u : Nat) (after : Option SpadMode) : UnitOnly s (startClear s u after) := by
  unfold startClear
  exact (unitOnly_sweep ..).trans (unitOnly_modUn _ _ _ (fun _ => rfl) fun _ => rfl)

theorem unitOnly_setUn (s : State) (u : Nat) (x : UnitState) (h1 : x.issued = (s.un u).issued) (h2 : x.uq = (s.un u).uq) :
    UnitOnly s (s.setUn u x) := by
  refine ⟨rfl, fun k => ?_, fun k => ?_⟩
  all_goals
    rw [State.setUn_un]
    split
    · subst_vars; simp only [h1, h2]
    · rfl

theorem unitOnly_retireSets (s : State) (u : Nat) : UnitOnly s (retireSets s u) := by
  unfold retireSets
  dsimp only
  split
  · exact .refl s
  · refine UnitOnly.trans (unitOnly_setUn s u _ ?_ ?_) (unitOnly_setReg ..)
    · rfl
    · rfl

theorem unitOnly_takeDirtyUnit (s : State) (u frame : Nat) : UnitOnly s (takeDirtyUnit s u frame) := by
  unfold takeDirtyUnit
  split
  · have hset := unitOnly_setUn s u { s.un u with dirty := [], sets := (s.un u).sets ++ [(frame, (s.un u).dirty, [])] } rfl rfl
    dsimp only
    exact (hset.trans (.ite (.refl _) (unitOnly_bump ..))).trans (unitOnly_retireSets ..)
  · exact .refl s

theorem unitOnly_takeDirty (s : State) (c : Nat) : UnitOnly s (takeDirty s c) :=
  .foldl _ (fun _ _ => unitOnly_takeDirtyUnit ..) _ s

/-! ### Descriptors and packets of clusters -/

theorem dayKept_checkEnd (h : DayKept r s) (c : Nat) : DayKept r (checkEnd s c) := by
  have hset : ∀ x, DayKept r (s.setCl c x) := fun _ => h.same
  unfold checkEnd
  dsimp only
  split
  · split
    · split
      · exact (hset _).work (unitOnly_takeDirty ..)
      · exact .ite (hset _) h
    · split
      · exact (hset _).work (unitOnly_takeDirty ..)
      · exact h
  · exact h

theorem dayKept_complete (h : DayKept r s) (c did st : Nat) : DayKept r (complete s c did st) := by
  unfold complete
  dsimp only
  split
  · exact h
  · have hset : ∀ x, DayKept r (s.setCl c x) := fun _ => h.same
    exact dayKept_checkEnd (.ite (.noted (.ite (.noted (hset _) (noted_setField ..)) (hset _)) (noted_bump ..))
      (.ite (.noted (hset _) (noted_setField ..)) (hset _))) c

theorem dayKept_endBucketWait (h : DayKept r s) (c cls : Nat) : DayKept r (endBucketWait s c cls) := by
  obtain ⟨_, _, he⟩ := endBucketWait_eq s c cls
  rw [he]
  exact h.same

theorem dayKept_startBucketWait (h : DayKept r s) (c cls : Nat) : DayKept r (startBucketWait s c cls) := by
  obtain ⟨_, he⟩ := startBucketWait_eq s c cls
  rw [he]
  exact h.same

theorem dayKept_injectClu (h : DayKept r s) (c : Nat) (p : Packet) : DayKept r (injectClu s c p) := h.same

theorem dayKept_charge (h : DayKept r s) (b : Nat) : DayKept r (charge s b) := h.same

theorem dayKept_modCl (h : DayKept r s) (c : Nat) (f : Cluster → Cluster) : DayKept r (s.modCl c f) := h.same

theorem dayKept_sendCtrl (h : DayKept r s) (c : Nat) (p : Packet) : DayKept r (sendCtrl s c p) :=
  .ite (dayKept_injectClu (dayKept_charge h _) ..) (dayKept_startBucketWait (dayKept_modCl h ..) ..)

theorem dayKept_sendCredit (h : DayKept r s) (c : Nat) (p : Packet) : DayKept r (sendCredit s c p) :=
  .ite (dayKept_injectClu (dayKept_charge h _) ..) (dayKept_startBucketWait (dayKept_modCl h ..) ..)

theorem dayKept_endWait (h : DayKept r s) (c cause : Nat) : DayKept r (endWait s c cause) := by
  unfold endWait
  split
  · exact h
  · exact (dayKept_modCl h ..).noted (noted_bumpBy ..)

theorem dayKept_noteRoom (h : DayKept r s) (c : Nat) : DayKept r (noteRoom s c) := by
  unfold noteRoom
  dsimp only
  split
  · exact DayKept.noted (h.same (t := s.setCl c _)) (noted_bumpBy ..)
  · exact h

theorem dayKept_endRequests (h : DayKept r s) (c : Nat) : DayKept r (endRequests s c) := by
  have hend := dayKept_endBucketWait (.ite (c := (s.cl c).credits.isEmpty = true) (dayKept_endBucketWait h c cSched) h) c cBulk
  exact .ite (dayKept_startBucketWait hend ..) hend

theorem dayKept_abandonUnit (h : DayKept r s) (u : Nat) (e : Issued) : DayKept r (abandonUnit s u e) := by
  unfold abandonUnit
  split
  · exact h.same
  · exact h

theorem dayKept_cancelAll (h : DayKept r s) (c : Nat) : DayKept r (cancelAll s c) := by
  unfold cancelAll
  dsimp only
  refine .foldl (dayKept_modCl (dayKept_endRequests (dayKept_endWait (dayKept_endWait (dayKept_endWait (dayKept_noteRoom
    (.foldl h _ (fun s i hs => ?_) _) c) c 1) c 2) c 3) c) ..) _ (fun s p hs => dayKept_complete hs ..) _
  exact (DayKept.foldl (hs.work (unitOnly_atPresent ..)) _ (fun s e hs => dayKept_abandonUnit hs ..) _).same

theorem dayKept_flushCache (h : DayKept r s) (c : Nat) : DayKept r (flushCache s c) :=
  .foldl (dayKept_modCl h ..) _ (fun _ _ hs => dayKept_sendCtrl hs ..) _

/-! ### Queues (R170, R171) -/

theorem dayKept_modQueue (h : DayKept r s) (c q : Nat) (f : Queue → Queue) : DayKept r (modQueue s c q f) := h.same

theorem dayKept_appendMsg (h : DayKept r s) (c q : Nat) (m : Msg) : DayKept r (appendMsg s c q m) := by
  have hqueue : ∀ f, DayKept r ((modQueue s c q f).bump (queMsgCntAt c)) := fun f => (dayKept_modQueue h c q f).noted (noted_bump ..)
  exact .ite (.noted (hqueue _) (noted_bump ..)) (hqueue _)

theorem dayKept_appendAll (n c q frame : Nat) : ∀ {s : State}, DayKept r s → DayKept r (appendAll n s c q frame) := by
  induction n with
  | zero => exact id
  | succ n ih =>
    intro s h
    unfold appendAll
    dsimp only
    split
    · exact h
    · exact ih (dayKept_appendMsg h ..)

theorem dayKept_flushQueue (h : DayKept r s) (c q frame : Nat) : DayKept r (flushQueue s c q frame) :=
  (dayKept_modQueue (dayKept_appendAll _ c q frame h) ..).noted (noted_bumpBy ..)

theorem dayKept_creditReturn (h : DayKept r s) (c q : Nat) (m : Msg) : DayKept r (creditReturn s c q m) := by
  unfold creditReturn
  dsimp only
  split
  · exact dayKept_sendCredit h ..
  · split
    · exact dayKept_sendCredit h ..
    · exact h

theorem dayKept_discardMsg (h : DayKept r s) (c q : Nat) (d : QueueDecl) (m : Msg) : DayKept r (discardMsg s c q d m) := by
  have hun : DayKept r (s.modUn (4 * c + d.unit) fun x => { x with full := x.full.filter fun sl => !(msgSlots d m).contains sl }) :=
    h.same
  exact dayKept_creditReturn (dayKept_modQueue ((dayKept_modQueue hun c q _).noted (noted_bump ..)) ..) ..

theorem dayKept_discardIncomplete (h : DayKept r s) (c q frame : Nat) : DayKept r (discardIncomplete s c q frame) := by
  unfold discardIncomplete
  split
  · exact h
  · exact .ite h (dayKept_flushQueue (.foldl h _ (fun _ _ hs => dayKept_discardMsg hs ..) _) ..)

theorem dayKept_ageMessages (h : DayKept r s) (c : Nat) : DayKept r (ageMessages s c) :=
  .foldl (dayKept_modCl h ..) _ (fun _ _ hs => dayKept_discardIncomplete hs ..) _

/-! ### Replay runs that an edge ends (R286 to R290) -/

theorem dayKept_beginCheck (h : DayKept r s) (f : Nat) : DayKept r (beginCheck s f) := by
  unfold beginCheck
  dsimp only
  split
  · exact h
  · refine .ite (.foldl ?_ _ (fun _ _ hs => hs.work (unitOnly_startClear ..)) _) h
    exact h.same

theorem dayKept_leaveRun (h : DayKept r s) (c : Nat) : DayKept r (leaveRun s c) := by
  unfold leaveRun
  refine dayKept_beginCheck (DayKept.foldl (dayKept_modCl (dayKept_cancelAll h c) ..) _ (fun s i hs => ?_) _) _
  exact (hs.same (t := s.modUn (4 * c + i) _)).work (unitOnly_startClear ..)

theorem dayKept_startSwap (h : DayKept r s) (q c : Nat) (e : HeldStep) (outcome : Nat) : DayKept r (startSwap s q c e outcome) :=
  .ite (h.noted (noted_resolveStep ..)) (dayKept_sendCtrl (h.noted (noted_modHeld ..)) ..)

theorem dayKept_vote (h : DayKept r s) (q c : Nat) (e : HeldStep) (run : Nat) (d : Option Nat) : DayKept r (vote s q c e run d) :=
  .ite (.ite (dayKept_startSwap h ..) (h.noted (noted_modHeld ..)))
    (.ite (dayKept_startSwap h ..) (.ite (dayKept_startSwap h ..) ((h.noted (noted_modHeld ..)).noted (noted_resolveStep ..))))

theorem dayKept_endRun (h : DayKept r s) (c : Nat) : DayKept r (endRun s c) := by
  unfold endRun
  split
  · exact h
  · have hl := dayKept_leaveRun h c
    dsimp only
    split
    · exact hl
    · exact dayKept_vote (hl.noted (noted_modHeld ..)) ..

theorem dayKept_failRuns (h : DayKept r s) (q : Nat) : DayKept r (failRuns s q) := by
  refine .foldl h _ (fun s c hs => ?_) _
  split
  · exact .ite (dayKept_endRun (dayKept_modCl hs ..) c) hs
  · exact hs

/-! ### Step 1 of a tick edge (R57 to R59, R158) -/

theorem dayKept_recordFrame (h : DayKept r s) (c t period : Nat) (overran : Bool) : DayKept r (recordFrame s c t period overran) := by
  have hreport : ∀ {s : State} frac, DayKept r s → DayKept r (reportSlack s c frac overran) := fun frac hs => by
    unfold reportSlack
    split
    · exact hs
    · exact dayKept_sendCtrl hs ..
  exact hreport _ ((((h.noted (noted_setReg ..)).noted (noted_setField ..)).noted (noted_setField ..)).noted (noted_setField ..))

theorem dayKept_clusterEdge (h : DayKept r s) (c t period : Nat) : DayKept r (clusterEdge s c t period).2 := by
  unfold clusterEdge
  dsimp only
  split
  · exact h
  · split
    · split
      · exact dayKept_recordFrame (dayKept_modCl h ..) ..
      · exact dayKept_checkEnd (dayKept_recordFrame ((dayKept_modCl h ..).noted (noted_bump ..)) ..) c
    · split
      · exact (dayKept_cancelAll (dayKept_modCl h ..) c).noted (noted_bump ..)
      · exact h

theorem dayKept_edgeStep1 (h : DayKept r s) (q t : Nat) : DayKept r (edgeStep1 s q t).2 := by
  have hclusters : ∀ (f : List Nat × State → Nat → List Nat × State) (l : List Nat),
      (∀ v c, (f v c).2 = (clusterEdge v.2 c t (partD s q).period).2) → DayKept r (l.foldl f ([], s)).2 := fun f l hf =>
    foldl_inv (fun v : List Nat × State => DayKept r v.2) f l ([], s) h fun v c _ hv => by
      rw [hf]
      exact dayKept_clusterEdge hv ..
  unfold edgeStep1
  exact DayKept.snd _ (dayKept_failRuns (.foldl (hclusters _ _ fun _ _ => rfl) _ (fun _ _ hs => dayKept_ageMessages hs _) _) q)

theorem dayKept_dayEdge (h : DayKept r s) (t : Nat) (p : Partition) : DayKept r (dayEdge s t p) :=
  .ite (dayKept_edgeStep1 (h.noted (noted_modPart ..)) ..) h

/-! ### Steps 1 and 2 of an Eclipse (R398) -/

theorem dayKept_dropSs (h : DayKept r s) (q : Nat) : DayKept r (dropSs s q) := by
  have hwipe : ∀ {s : State} cfg, DayKept r s → DayKept r (wipeImages s cfg) := fun cfg hs =>
    .foldl hs _ (fun _ _ hs => hs.same) _
  have hdrop : ∀ {s : State}, DayKept r s → DayKept r (s.modMgr fun m => { m with
      ssQueue := m.ssQueue.filter (· != q), pends := m.pends.filter fun p => p.q != q
      locks := m.locks.filter fun r => r.stream != some q }) := fun hs => hs.same
  unfold dropSs
  dsimp only
  split
  · refine hdrop (.ite (hwipe _ ?_) h)
    exact h.same
  · exact hdrop h

theorem dayKept_abortStreams (h : DayKept r s) (m code : Nat) : DayKept r (abortStreams s m code) :=
  .foldl h _ (fun _ q hs => .ite ((dayKept_dropSs hs q).noted (noted_endSs ..)) hs) _

theorem dayKept_stopCluster (h : DayKept r s) (c : Nat) (until_ : Option Nat) : DayKept r (stopCluster s c until_) := by
  unfold stopCluster quarantineTags
  exact dayKept_modCl (dayKept_cancelAll (dayKept_modCl h ..) c) ..

theorem dayKept_startEclipse (h : DayKept r s) (p : Partition) (kind : Nat) (zero : Bool) (reply : Option Nat) (after : Nat) :
    DayKept r (startEclipse s p kind zero reply after) := by
  refine DayKept.noted (.foldl (dayKept_abortStreams (h.noted (noted_modPart ..)) ..) _ (fun s c hs => ?_) _) (noted_refreshSusp _)
  exact dayKept_flushCache (dayKept_modCl (dayKept_stopCluster hs ..) ..) c

end Sys2Proof.Machine
end

section
/-! The Day change (R119, R390, R391), and the statement of O24. -/

namespace Sys2Proof.Machine

/-! ### What replacing dies and entering Day service leave as it is -/

/-- The time, the Day instant and the units stand in t as in s; of the service levels only DAWN has gone over to DAY or FAILED. -/
structure DayLeft (s t : State) : Prop where
  fab : t.fab = s.fab
  tDay : t.mgr.tDay = s.mgr.tDay
  units : t.units = s.units
  svc : ∀ q, (t.qtr q).svc = (s.qtr q).svc ∨ (s.qtr q).svc = 1 ∧ ((t.qtr q).svc = 2 ∨ (t.qtr q).svc = 3)

section
variable {r s t : State}

theorem DayLeft.refl (s : State) : DayLeft s s := ⟨rfl, rfl, rfl, fun _ => .inl rfl⟩

theorem DayLeft.trans (h : DayLeft r s) (k : DayLeft s t) : DayLeft r t := by
  refine ⟨k.fab.trans h.fab, k.tDay.trans h.tDay, k.units.trans h.units, fun q => ?_⟩
  have hrs := h.svc q
  have hst := k.svc q
  omega

/-- An update of other fields. -/
theorem DayLeft.same (h : DayLeft r s) (hf : t.fab = s.fab := by rfl) (hm : t.mgr.tDay = s.mgr.tDay := by rfl)
    (hu : t.units = s.units := by rfl) (hq : t.quarters = s.quarters := by rfl) : DayLeft r t :=
  h.trans ⟨hf, hm, hu, fun q => .inl (by rw [State.qtr, hq]; rfl)⟩

theorem DayLeft.noted (h : DayLeft r s) (k : Noted s t) : DayLeft r t :=
  h.trans ⟨by rw [k.same], by rw [k.same], by rw [k.same], fun q => .inl (k.svc q)⟩

theorem DayLeft.foldl {α : Type} (h : DayLeft r s) (f : State → α → State) (hf : ∀ s a, DayLeft r s → DayLeft r (f s a))
    (l : List α) : DayLeft r (l.foldl f s) :=
  foldl_inv (DayLeft r) f l s h fun b a _ hb => hf b a hb

theorem dayLeft_modDie (h : DayLeft r s) (d : Nat) (f : Die → Die) : DayLeft r (s.modDie d f) := h.same

theorem dayLeft_setFld (h : DayLeft r s) (f : Nat) (x : Field) : DayLeft r (s.setFld f x) := h.same

theorem dayLeft_write (h : DayLeft r s) (a : Nat) (bs : Bytes) : DayLeft r (s.write a bs) := h.same

theorem dayLeft_newGeneration (h : DayLeft r s) : DayLeft r (newGeneration s) := by
  obtain ⟨⟨n, hn⟩, -⟩ := newGeneration_facts s
  exact DayLeft.noted (h.same (t := { s with mgr := { s.mgr with dmapNs := n } })) hn

theorem dayLeft_loseSpare (h : DayLeft r s) (f : Nat) : DayLeft r (loseSpare s f) :=
  ((dayLeft_setFld h ..).noted (noted_spareEvent ..)).noted (noted_dropHopeless ..)

theorem dayLeft_configCluster (h : DayLeft r s) (cfg : StreamCfg) (t : Option Nat) (l c : Nat) :
    DayLeft r (configCluster s cfg t l c) := by
  refine .foldl (DayLeft.foldl h _ (fun s k hs => ?_) _) _ (fun s i hs => (hs.noted (noted_setReg ..)).noted (noted_setReg ..)) _
  exact hs.same

theorem dayLeft_installDie (h : DayLeft r s) (f l d : Nat) : DayLeft r (installDie s f l d) := by
  unfold installDie
  split
  · exact h
  · refine .foldl h _ (fun s k hs => ?_) _
    dsimp only
    split
    · exact dayLeft_write (dayLeft_configCluster hs ..) ..
    · exact dayLeft_configCluster hs ..

theorem dayLeft_dayReplace (h : DayLeft r s) (d : Nat) : DayLeft r (dayReplace s d) := by
  unfold dayReplace
  dsimp only
  split
  · exact h
  · have hdie := dayLeft_modDie h d fun y => { y with state := 2 }
    split
    · exact dayLeft_loseSpare hdie _
    · split
      · exact ((dayLeft_installDie (dayLeft_modDie (dayLeft_setFld hdie ..) ..) ..).noted (noted_bump ..)).noted (noted_spareEvent ..)
      · exact (dayLeft_setFld hdie ..).noted (noted_bump ..)
      · exact hdie

theorem dayLeft_dayStack (h : DayLeft r s) (n : Nat) : DayLeft r (dayStack s n) := by
  unfold dayStack
  split
  · exact h.same
  · exact h

/-! ### Entry to Day service (R390 action 4, R391) -/

/-- A quarter that goes over from DAWN to DAY or FAILED. -/
theorem DayLeft.entersService {v : State} {q k : Nat} (h : DayLeft s v) (hq : (v.qtr q).svc = 1) (hk : k = 2 ∨ k = 3) :
    DayLeft s (v.modQtr q fun x => { x with svc := k }) ∧ ((v.modQtr q fun x => { x with svc := k }).qtr q).svc ≠ 1 := by
  refine ⟨h.trans ⟨rfl, rfl, rfl, fun j => ?_⟩, ?_⟩
  · rw [State.modQtr, State.setQtr_qtr]
    split
    · subst_vars; exact .inr ⟨hq, hk⟩
    · exact .inl rfl
  · rw [State.modQtr, State.setQtr_self]
    dsimp only
    omega

/-- The quarter's service level once its fields have been judged. -/
theorem dayService_dawn {q : Nat} (h : inDawn s q = true) : DayLeft s (dayService s q) ∧ ((dayService s q).qtr q).svc ≠ 1 := by
  have hsvc : (s.qtr q).svc = 1 := beq_iff_eq.1 h
  unfold dayService
  rw [if_pos h]
  dsimp only
  generalize hv : (quarterFields q).foldl
    (fun s f => if fieldPasses s f then s else s.setFld f { s.fld f with failed := true }) s = v
  have hleft : DayLeft s v := by
    rw [← hv]
    refine .foldl (.refl s) _ (fun s f hs => ?_) _
    split
    · exact hs
    · exact dayLeft_setFld hs ..
  generalize (quarterFields q).all (fun f => !(v.fld f).failed) = ok
  have hq : (v.qtr q).svc = 1 := by
    rw [← hv]
    refine foldl_inv (fun t : State => (t.qtr q).svc = 1) _ _ s hsvc fun t f _ ht => ?_
    split
    · exact ht
    · exact ht
  cases ok with
  | true => exact hleft.entersService hq (.inl rfl)
  | false =>
    obtain ⟨hset, hself⟩ := hleft.entersService hq (k := 3) (.inr rfl)
    exact ⟨hset.noted (noted_haltSoon ..), hself⟩

theorem dayService_facts (s : State) (q : Nat) : DayLeft s (dayService s q) ∧ ((dayService s q).qtr q).svc ≠ 1 := by
  by_cases h : inDawn s q = true
  · exact dayService_dawn h
  · unfold dayService
    rw [if_neg h]
    exact ⟨.refl s, fun hsvc => h (beq_iff_eq.2 hsvc)⟩

/-- A quarter that is not in Dawn does not come to be in it. -/
theorem DayLeft.svc_ne_dawn (h : DayLeft s t) {q : Nat} (hq : (s.qtr q).svc ≠ 1) : (t.qtr q).svc ≠ 1 := by
  have hst := h.svc q
  omega

end

/-- The state once dies and stacks that failed have gone and every quarter in Dawn has its service level. -/
def dayServed (s : State) : State :=
  let s := ((List.range 256).filter fun d => inDawn s (dieQuarter d)).foldl dayReplace s
  let s := ((List.range 128).filter fun n => inDawn s (stackQuarter n)).foldl dayStack s
  newGeneration ((List.range 4).foldl dayService s)

theorem dayServed_facts (s : State) : DayLeft s (dayServed s) ∧ ∀ q < 4, ((dayServed s).qtr q).svc ≠ 1 := by
  unfold dayServed
  dsimp only
  generalize hv : List.foldl dayStack _ _ = v
  have hleft : DayLeft s v := by
    rw [← hv]
    exact .foldl (.foldl (.refl s) _ (fun _ _ hs => dayLeft_dayReplace hs _) _) _ (fun _ _ hs => dayLeft_dayStack hs _) _
  have hserve : ∀ u q, DayLeft u (dayService u q) := fun u q => (dayService_facts u q).1
  have hnone : ∀ q ∈ List.range 4, (((List.range 4).foldl dayService v).qtr q).svc ≠ 1 :=
    foldl_sets (fun q t => (t.qtr q).svc ≠ 1) dayService _ v (fun u q => (dayService_facts u q).2)
      fun u q k hk => (hserve u q).svc_ne_dawn hk
  have hall : DayLeft v ((List.range 4).foldl dayService v) := .foldl (.refl v) _ (fun u q hu => hu.trans (hserve u q)) _
  exact ⟨dayLeft_newGeneration (hleft.trans hall), fun q hq =>
    (dayLeft_newGeneration (.refl _)).svc_ne_dawn (hnone q (List.mem_range.2 hq))⟩

/-! ### The units clear (R119) -/

/-- Unit u is in a full clear into normal mode. -/
def ClearsForDay (u : Nat) (s : State) : Prop := (s.un u).clear = 1 ∧ (s.un u).modeAfter = some .normal

theorem clearsForDay_startClear (s : State) (u : Nat) : ClearsForDay u (startClear s u (some .normal)) := by
  unfold ClearsForDay startClear
  rw [un_modUn_self]
  exact ⟨rfl, rfl⟩

theorem onlyUn_sweep (s : State) (u upto : Nat) : OnlyUn u s (sweep s u upto) := by
  unfold sweep
  dsimp only
  split
  · exact onlyUn_modUn (s.clear _ _) u _
  · exact fun _ _ => rfl

theorem onlyUn_startClear (s : State) (u : Nat) (after : Option SpadMode) : OnlyUn u s (startClear s u after) := fun k hk =>
  (onlyUn_modUn (sweep s u (unitClk s u)) u _ k hk).trans (onlyUn_sweep s u _ k hk)

theorem ClearsForDay.startClear {k : Nat} {s : State} (h : ClearsForDay k s) (u : Nat) :
    ClearsForDay k (startClear s u (some .normal)) := by
  by_cases hk : k = u
  · subst hk
    exact clearsForDay_startClear s k
  · unfold ClearsForDay
    rw [onlyUn_startClear s u _ k hk]
    exact h

/-- The sixteen units of a die begin to clear. -/
theorem clearsForDay_die (s : State) (d i : Nat) (hi : i < 16) :
    ClearsForDay (16 * d + i) ((List.range 16).foldl (fun s i => Machine.startClear s (16 * d + i) (some .normal)) s) :=
  foldl_sets (fun i t => ClearsForDay (16 * d + i) t) _ _ s (fun t i => clearsForDay_startClear t (16 * d + i))
    (fun _ _ _ h => h.startClear _) i (List.mem_range.2 hi)

theorem clearsForDay_dayClear {s : State} {d i : Nat} (hd : d < 256) (hi : i < 16) (hdawn : inDawn s (dieQuarter d) = true)
    (hstate : (s.die d).state ≠ 2) : ClearsForDay (16 * d + i) (dayClear s) := by
  have hmem : d ∈ (List.range 256).filter fun d => inDawn s (dieQuarter d) && (s.die d).state != 2 :=
    List.mem_filter.2 ⟨List.mem_range.2 hd, by rw [hdawn, Bool.true_and]; exact bne_iff_ne.2 hstate⟩
  exact foldl_sets (fun d t => ClearsForDay (16 * d + i) t) _ _ s (fun t d => clearsForDay_die t d i hi)
    (fun t e d h => foldl_inv (ClearsForDay (16 * d + i)) _ _ t h fun _ _ _ hb => hb.startClear _) d hmem

theorem unitOnly_dayClear (s : State) : UnitOnly s (dayClear s) :=
  .foldl _ (fun s _ => .foldl _ (fun _ _ => unitOnly_startClear ..) _ s) _ s

/-! ### The command -/

/-- The state at T_day once the frames have ended and the partitions of the quarters in Dawn have begun their reset. -/
def dayStopped (s : State) (T : Nat) : State :=
  let s := (advMgr s T).modMgr fun m => { m with tDay := none }
  let day := s.parts.filter fun p => inDawn s (lowestQuarter p.qmask)
  let s := day.foldl (fun s p => dayEdge s T p) s
  (s.parts.filter fun p => inDawn s (lowestQuarter p.qmask)).foldl dayReset s

theorem dayKept_dayStopped (s : State) (T : Nat) :
    DayKept ((advMgr s T).modMgr fun m => { m with tDay := none }) (dayStopped s T) :=
  .foldl (.foldl (.refl _) _ (fun _ _ hs => dayKept_dayEdge hs ..) _) _ (fun _ _ hs => dayKept_startEclipse hs ..) _

theorem exec_dayChange {s : State} {T : Nat} (ha : (activeMgr s).isSome = true) (hT : s.mgr.tDay = some T) :
    exec .dayChange s = .next (dayServed (dayClear (dayStopped s T))) := by
  obtain ⟨b, hb⟩ := Option.isSome_iff_exists.1 ha
  show execDayChange s = _
  unfold execDayChange
  rw [hb, hT]
  rfl

theorem goes_dayChange {s : State} {T : Nat} (ha : (activeMgr s).isSome = true) (hT : s.mgr.tDay = some T) :
    Goes .dayChange s fun t => t.mgr.tDay = none ∧ t.fab = (advMgr s T).fab ∧
      (∀ q < 4, if (s.qtr q).svc = 1 then (t.qtr q).svc = 2 ∨ (t.qtr q).svc = 3 else (t.qtr q).svc = (s.qtr q).svc) ∧
      ∀ d < 256, ∀ i < 16, (s.qtr (dieQuarter d)).svc = 1 → (s.die d).state ≠ 2 →
        (t.un (16 * d + i)).clear = 1 ∧ (t.un (16 * d + i)).modeAfter = some .normal := by
  refine ⟨_, exec_dayChange ha hT, ?_⟩
  have hstop := dayKept_dayStopped s T
  have hquarters : (advMgr s T).quarters = s.quarters := by rw [advMgr, advFab_eq]
  have hdies : (advMgr s T).dies = s.dies := by rw [advMgr, advFab_eq]
  generalize dayStopped s T = v at hstop
  have hsvc : ∀ q, (v.qtr q).svc = (s.qtr q).svc := fun q => (hstop.svc q).trans (by rw [State.qtr, State.qtr, ← hquarters]; rfl)
  have hdie : ∀ d, v.die d = s.die d := fun d => by rw [State.die, State.die, hstop.dies, ← hdies]; rfl
  have hclear := DayKept.work (.refl v) (unitOnly_dayClear v)
  obtain ⟨hleft, hnone⟩ := dayServed_facts (dayClear v)
  refine ⟨hleft.tDay.trans (hclear.tDay.trans hstop.tDay), hleft.fab.trans (hclear.fab.trans hstop.fab), fun q hq => ?_,
    fun d hd i hi hdawn hstate => ?_⟩
  · have hserved := hleft.svc q
    rw [hclear.svc, hsvc] at hserved
    have hout := hnone q hq
    split <;> omega
  · have hclears : ClearsForDay (16 * d + i) (dayClear v) :=
      clearsForDay_dayClear hd hi (beq_iff_eq.2 ((hsvc _).trans hdawn)) (by rw [hdie]; exact hstate)
    unfold ClearsForDay at hclears
    rw [State.un, hleft.units]
    exact hclears

/-- Settles O24: each clause is the law of its command. -/
theorem dayChecksAndDayChange : Obligations.DayChecksAndDayChange :=
  fun _ ha => ⟨fun _ failed hstep hdawn hexp hnew => goes_dayChecksDone failed hstep hdawn hexp hnew,
    fun _ hold ho => goes_pmSvcCtl hold ho ha, fun _ hT => goes_dayChange ha hT⟩

end Sys2Proof.Machine
end

section
/-! LVS words: decoding undoes encoding and encoding undoes decoding, field by field (O8). -/

namespace Sys2Proof.Machine

/-! ### The fields of a word -/

section
variable (op fn : Nat) (d a b : SReg) (i : Imm14) (j : Imm20)

theorem lvsA_lt (h : fn < 256) : lvsA fn d a b < 2 ^ 32 := by
  unfold lvsA
  omega

theorem lvsB_lt (h : op < 64) : lvsB op d a i < 2 ^ 32 := by
  have := i.isLt
  unfold lvsB
  omega

theorem lvsC_lt (h : op < 64) : lvsC op d j < 2 ^ 32 := by
  have := j.isLt
  unfold lvsC
  omega

theorem sreg_eq {w lo : Nat} {r : SReg} (h : w / 2 ^ lo % 64 = r.val) : sreg w lo = r := Fin.ext h

/-- A form A word read back: opcode 0, fn and the three registers. -/
theorem lvsA_fields (h : fn < 256) :
    lvsA fn d a b / 2 ^ 26 % 64 = 0 ∧ lvsA fn d a b % 256 = fn ∧ sreg (lvsA fn d a b) 20 = d ∧ sreg (lvsA fn d a b) 14 = a ∧
    sreg (lvsA fn d a b) 8 = b := by
  refine ⟨?_, ?_, sreg_eq ?_, sreg_eq ?_, sreg_eq ?_⟩ <;> unfold lvsA <;> omega

/-- A form B word read back: opcode, two registers and the immediate. -/
theorem lvsB_fields (h : op < 64) :
    lvsB op d a i / 2 ^ 26 % 64 = op ∧ sreg (lvsB op d a i) 20 = d ∧ sreg (lvsB op d a i) 14 = a ∧
    BitVec.ofNat 14 (lvsB op d a i) = i ∧ lvsB op d a i % 2 ^ 14 = i.toNat := by
  have := i.isLt
  refine ⟨?_, sreg_eq ?_, sreg_eq ?_, BitVec.eq_of_toNat_eq ?_, ?_⟩ <;> simp only [lvsB, BitVec.toNat_ofNat] <;> omega

/-- A form C word read back: opcode, register and the immediate. -/
theorem lvsC_fields (h : op < 64) :
    lvsC op d j / 2 ^ 26 % 64 = op ∧ sreg (lvsC op d j) 20 = d ∧ BitVec.ofNat 20 (lvsC op d j) = j := by
  have := j.isLt
  refine ⟨?_, sreg_eq ?_, BitVec.eq_of_toNat_eq ?_⟩ <;> simp only [lvsC, BitVec.toNat_ofNat] <;> omega

end

/-! ### Decoding an encoded instruction -/

/-- The word w encodes instruction i of cluster c, and decodes to it. -/
def Encodes (c : ClusterId) (i : Instr) (w : Nat) : Prop := w < 2 ^ 32 ∧ lvsEncode i = some w ∧ lvsDecode c w = .ok i

theorem encodes_lvsA {c : ClusterId} {i : Instr} {fn : Nat} {d a b : SReg} (h : fn < 256) (he : lvsEncode i = some (lvsA fn d a b))
    (hd : ∀ w, w / 2 ^ 26 % 64 = 0 → w % 256 = fn → sreg w 20 = d → sreg w 14 = a → sreg w 8 = b → lvsDecode c w = .ok i) :
    ∃ w, Encodes c i w := by
  obtain ⟨hop, hfn, h20, h14, h8⟩ := lvsA_fields fn d a b h
  exact ⟨_, lvsA_lt fn d a b h, he, hd _ hop hfn h20 h14 h8⟩

theorem encodes_lvsB {c : ClusterId} {i : Instr} {op : Nat} {d a : SReg} {k : Imm14} (h : op < 64)
    (he : lvsEncode i = some (lvsB op d a k))
    (hd : ∀ w, w / 2 ^ 26 % 64 = op → sreg w 20 = d → sreg w 14 = a → BitVec.ofNat 14 w = k → w % 2 ^ 14 = k.toNat →
      lvsDecode c w = .ok i) :
    ∃ w, Encodes c i w := by
  obtain ⟨hop, h20, h14, hk, hu⟩ := lvsB_fields op d a k h
  exact ⟨_, lvsB_lt op d a k h, he, hd _ hop h20 h14 hk hu⟩

theorem encodes_lvsC {c : ClusterId} {i : Instr} {op : Nat} {d : SReg} {k : Imm20} (h : op < 64)
    (he : lvsEncode i = some (lvsC op d k))
    (hd : ∀ w, w / 2 ^ 26 % 64 = op → sreg w 20 = d → BitVec.ofNat 20 w = k → lvsDecode c w = .ok i) :
    ∃ w, Encodes c i w := by
  obtain ⟨hop, h20, hk⟩ := lvsC_fields op d k h
  exact ⟨_, lvsC_lt op d k h, he, hd _ hop h20 hk⟩

/-- Every instruction of the cluster that its row admits has a word. -/
theorem exists_encodes {c : ClusterId} {i : Instr} (h : LvsFits c i) : ∃ w, Encodes c i w := by
  cases i with
  | add k d a b | sub k d a b | and k d a b | or k d a b | xor k d a b | sll k d a b | srl k d a b | sra k d a b
  | slt k d a b | sltu k d a b | mul k d a b | mulhu k d a b =>
    obtain rfl : k = c := h
    refine encodes_lvsA (by decide) rfl fun w hop hfn h20 h14 h8 => ?_
    simp only [lvsDecode, lvsDecodeA, hop, hfn, h20, h14, h8]
  | addi k d a i | andi k d a i | ori k d a i | xori k d a i | slti k d a i | lw k d a i | sw k d a i
  | beq k d a i | bne k d a i | blt k d a i | bltu k d a i | jalr k d a i =>
    obtain rfl : k = c := h
    refine encodes_lvsB (by decide) rfl fun w hop h20 h14 hk _ => ?_
    simp only [lvsDecode, hop, h20, h14, hk]
  | lui k d j | jal k d j =>
    obtain rfl : k = c := h
    refine encodes_lvsC (by decide) rfl fun w hop h20 hk => ?_
    simp only [lvsDecode, hop, h20, hk]
  | disp k a | dispm k a i | csrr k d i | csrw k a i | hend k | fend k | fence k =>
    obtain rfl : k = c := h
    refine encodes_lvsB (by decide) rfl fun w hop h20 h14 hk hu => ?_
    simp only [lvsDecode, hop, h20, h14, hk, hu]
    rfl
  | waitg k a i | grd k d i | qrd k d i | qcnt k d i | hslot k i =>
    obtain ⟨rfl, hi⟩ : k = c ∧ _ := h
    refine encodes_lvsB (by decide) rfl fun w hop h20 h14 hk hu => ?_
    simp only [lvsDecode, hop, h20, h14, hk, hu]
    exact if_pos (by simpa using hi)
  | _ => exact h.elim

/-! ### Encoding a decoded word -/

/-- A word with opcode 0 is the form A word of its fields. -/
theorem lvsA_of_fields {w fn : Nat} (hw : w < 2 ^ 32) (hop : w / 2 ^ 26 % 64 = 0) (hfn : w % 256 = fn) :
    lvsA fn (sreg w 20) (sreg w 14) (sreg w 8) = w := by
  unfold lvsA sreg
  simp only [Fin.val_ofNat]
  omega

theorem lvsB_of_fields {w op : Nat} {d a : SReg} {k : Imm14} (hw : w < 2 ^ 32) (hop : w / 2 ^ 26 % 64 = op) (hd : sreg w 20 = d)
    (ha : sreg w 14 = a) (hk : BitVec.ofNat 14 w = k) : lvsB op d a k = w := by
  subst hd ha hk
  unfold lvsB sreg
  simp only [Fin.val_ofNat, BitVec.toNat_ofNat]
  omega

theorem lvsC_of_fields {w op : Nat} (hw : w < 2 ^ 32) (hop : w / 2 ^ 26 % 64 = op) :
    lvsC op (sreg w 20) (BitVec.ofNat 20 w) = w := by
  unfold lvsC sreg
  simp only [Fin.val_ofNat, BitVec.toNat_ofNat]
  omega

theorem encode_decodeA {c : ClusterId} {w : Nat} {i : Instr} (hw : w < 2 ^ 32) (hop : w / 2 ^ 26 % 64 = 0)
    (h : lvsDecodeA c w = some i) : LvsFits c i ∧ lvsEncode i = some w := by
  unfold lvsDecodeA at h
  dsimp only at h
  split at h
  case h_13 => cases h
  all_goals
    next hfn =>
      cases h
      exact ⟨rfl, congrArg some (lvsA_of_fields hw hop hfn)⟩

/-- What a decoded word must pass where its row leaves fields unnamed. -/
theorem ok_of_need {p : Bool} {x i : Instr} (h : (if p = true then Except.ok x else Except.error 5) = (Except.ok i : Except Nat Instr)) :
    p = true ∧ x = i := by
  cases p
  · cases h
  · cases h
    exact ⟨rfl, rfl⟩

theorem imm_eq_zero {w : Nat} (h : w % 2 ^ 14 = 0) : BitVec.ofNat 14 w = 0 := BitVec.eq_of_toNat_eq (by simpa using h)

/-- An imm field of which a row reads the low n bits is below 2^n when the rest is 0. -/
theorem imm_lt {w n : Nat} (h : w % 2 ^ 14 / 2 ^ n = 0) : (BitVec.ofNat 14 w).toNat < 2 ^ n := by
  rw [BitVec.toNat_ofNat]
  exact (Nat.div_eq_zero_iff_lt (Nat.two_pow_pos n)).1 h

theorem encode_decode {c : ClusterId} {w : Nat} {i : Instr} (hw : w < 2 ^ 32) (h : lvsDecode c w = .ok i) :
    LvsFits c i ∧ lvsEncode i = some w := by
  unfold lvsDecode at h
  dsimp only at h
  split at h
  next hop =>
    split at h
    · cases h
      exact encode_decodeA hw hop ‹_›
    · cases h
  -- LUI and JAL
  case h_7 hop | h_14 hop =>
    cases h
    exact ⟨rfl, congrArg some (lvsC_of_fields hw hop)⟩
  -- the error
  case h_28 => cases h
  -- DISPM and CSRW
  case h_17 hop | h_26 hop =>
    obtain ⟨hp, rfl⟩ := ok_of_need h
    exact ⟨rfl, congrArg some (lvsB_of_fields hw hop (eq_of_beq hp) rfl rfl)⟩
  -- CSRR
  case h_25 hop =>
    obtain ⟨hp, rfl⟩ := ok_of_need h
    exact ⟨rfl, congrArg some (lvsB_of_fields hw hop rfl (eq_of_beq hp) rfl)⟩
  -- DISP
  case h_16 hop =>
    obtain ⟨hp, rfl⟩ := ok_of_need h
    obtain ⟨hd, hu⟩ := (Bool.and_eq_true _ _).mp hp
    exact ⟨rfl, congrArg some (lvsB_of_fields hw hop (eq_of_beq hd) rfl (imm_eq_zero (eq_of_beq hu)))⟩
  -- HEND, FEND and FENCE
  case h_23 hop | h_24 hop | h_27 hop =>
    obtain ⟨hp, rfl⟩ := ok_of_need h
    simp only [Bool.and_eq_true, beq_iff_eq] at hp
    obtain ⟨⟨hd, ha⟩, hu⟩ := hp
    exact ⟨rfl, congrArg some (lvsB_of_fields hw hop hd ha (imm_eq_zero hu))⟩
  -- HSLOT
  case h_22 hop =>
    obtain ⟨hp, rfl⟩ := ok_of_need h
    simp only [Bool.and_eq_true, beq_iff_eq] at hp
    obtain ⟨⟨hd, ha⟩, hu⟩ := hp
    exact ⟨⟨rfl, imm_lt hu⟩, congrArg some (lvsB_of_fields hw hop hd ha rfl)⟩
  -- WAITG
  case h_18 hop =>
    obtain ⟨hp, rfl⟩ := ok_of_need h
    simp only [Bool.and_eq_true, beq_iff_eq] at hp
    obtain ⟨hd, hu⟩ := hp
    exact ⟨⟨rfl, imm_lt hu⟩, congrArg some (lvsB_of_fields hw hop hd rfl rfl)⟩
  -- GRD, QRD and QCNT
  case h_19 hop | h_20 hop | h_21 hop =>
    obtain ⟨hp, rfl⟩ := ok_of_need h
    simp only [Bool.and_eq_true, beq_iff_eq] at hp
    obtain ⟨ha, hu⟩ := hp
    exact ⟨⟨rfl, imm_lt hu⟩, congrArg some (lvsB_of_fields hw hop rfl ha rfl)⟩
  -- form B with every field in use
  all_goals
    next hop =>
      cases h
      exact ⟨rfl, congrArg some (lvsB_of_fields hw hop rfl rfl rfl)⟩

/-- Settles O8: the fields of a word are read back one by one, and a word that decodes is rebuilt from its fields. -/
theorem lvsDecodeEncode : Obligations.LvsDecodeEncode :=
  ⟨fun _ _ => exists_encodes, fun _ _ _ => encode_decode⟩

end Sys2Proof.Machine
end

section
/-! LVS arithmetic, branches, jumps and waits: what `lvs` answers, once for each shape of instruction (O9 to O12, O17). -/

namespace Sys2Proof.Machine

variable {s : State} {c : ClusterId} {i : Instr}

/-! ### Shapes of an instruction's effect -/

theorem exec_lvs {f : State → State} (hexec : exec i s = lvs c i f s) (h : LvsAt s c i) : exec i s = .next (f (lvsNow s c)) :=
  hexec.trans (lvs_next h f)

/-- A result written to a register, and execution that goes on elsewhere. -/
theorem setsReg_goto {d : SReg} {v : Word} {pc cost : Nat}
    (h : exec i s = .next ((lvsNow s c).setCl c
      { writeS (s.cl c) d v with pc := pc, readyClk := cluClk (lvsNow s c) c + cost })) : SetsReg i c d v pc cost s := by
  refine ⟨_, h, ?_, fun r hr => ?_, ?_, ?_, rfl, fun a => ?_, fun k hk => ?_, ?_⟩
  · unfold lvsReg
    rw [State.setCl_self]
    have := readS_writeS_self (s.cl c) d v
    simp only [Fin.ext_iff, Fin.val_zero]
    exact this
  · unfold lvsReg
    rw [State.setCl_self]
    exact readS_writeS_ne (s.cl c) v (Fin.val_ne_of_ne hr)
  · rw [State.setCl_self]
  · rw [State.setCl_self]
  · rw [(State.setCl_fields ..).2.2.2.1, mem_lvsNow]
  · rw [State.setCl_cl, if_neg hk, cl_lvsNow]
  · rw [State.setCl_self, writeS_eq]
    exact ⟨_, _, _, rfl⟩

/-- An instruction that writes no register: it goes on at pc. -/
theorem setsReg_zero {pc cost : Nat} (h : exec i s = .next ((lvsNow s c).setCl c
      { s.cl c with pc := pc, readyClk := cluClk (lvsNow s c) c + cost })) : SetsReg i c 0 0 pc cost s :=
  setsReg_goto (d := 0) (v := 0) h

/-- A trap before anything has been written. -/
theorem traps_lvsNow {cause : Nat} (d : SReg) (h : LvsAt s c i) (hl : (s.cl c).late = none)
    (hexec : exec i s = .next (trap (lvsNow s c) c cause)) : Traps i c d cause s := by
  obtain ⟨-, hpc, -⟩ := h
  obtain ⟨t, ht, hseq, hreg, hctr, hregs, hother, hmem, hcl⟩ : Traps i c 0 cause s :=
    traps (d := 0) (v := 0) hexec (cl_lvsNow s c c) (fun k _ => cl_lvsNow s c k) (reg_lvsNow s c) (mem_lvsNow s c)
      (ctr_lvsNow s c) hl hpc
  refine ⟨t, ht, hseq, hreg, hctr, hregs, fun r _ => ?_, hmem, hcl⟩
  by_cases hr : r = 0
  · subst hr
    rfl
  · exact hother r hr

/-! ### Form A and form B -/

theorem setsReg_lvsOp3 {d a b : SReg} {cost : Nat} (f : Word → Word → Word) (hexec : exec i s = lvsOp3 i c d a b cost f s)
    (h : LvsAt s c i) : SetsReg i c d (f (lvsReg s c a) (lvsReg s c b)) ((s.cl c).pc + 4) cost s := by
  have := exec_lvs hexec h
  rw [lvsReg_lvsNow, lvsReg_lvsNow] at this
  exact setsReg this

theorem setsReg_lvsOpI {d a : SReg} (f : Word → Word) (hexec : exec i s = lvsOpI i c d a f s) (h : LvsAt s c i) :
    SetsReg i c d (f (lvsReg s c a)) ((s.cl c).pc + 4) 1 s := by
  have := exec_lvs hexec h
  rw [lvsReg_lvsNow] at this
  exact setsReg this

theorem flagWord_slt (x y : Word) : flagWord (x.slt y) = if x.toInt < y.toInt then 1 else 0 := by
  simp [flagWord, BitVec.slt]

theorem flagWord_ult (x y : Word) : flagWord (x.ult y) = if x.toNat < y.toNat then 1 else 0 := by
  simp [flagWord, BitVec.ult]

theorem mul_eq_ofNat (x y : Word) : x * y = BitVec.ofNat 32 (x.toNat * y.toNat) := by
  apply BitVec.eq_of_toNat_eq
  simp

/-- Settles O9: the twelve instructions are one shape, each with its own operation. -/
theorem lvsRegisterOperations : Obligations.LvsRegisterOperations := by
  intro s c d a b x y pc
  refine ⟨setsReg_lvsOp3 (· + ·) rfl, setsReg_lvsOp3 (· - ·) rfl, setsReg_lvsOp3 (· &&& ·) rfl, setsReg_lvsOp3 (· ||| ·) rfl,
    setsReg_lvsOp3 (· ^^^ ·) rfl, setsReg_lvsOp3 (fun x y => x <<< (y.toNat % 32)) rfl,
    setsReg_lvsOp3 (fun x y => x >>> (y.toNat % 32)) rfl, setsReg_lvsOp3 (fun x y => x.sshiftRight (y.toNat % 32)) rfl,
    ?_, ?_, ?_, setsReg_lvsOp3 (fun x y => BitVec.ofNat 32 (x.toNat * y.toNat / 2 ^ 32)) rfl⟩
  · rw [← flagWord_slt]
    exact setsReg_lvsOp3 (fun x y => flagWord (x.slt y)) rfl
  · rw [← flagWord_ult]
    exact setsReg_lvsOp3 (fun x y => flagWord (x.ult y)) rfl
  · rw [← mul_eq_ofNat]
    exact setsReg_lvsOp3 (· * ·) rfl

theorem toInt_signExtend_imm (k : Imm14) : (k.signExtend 32 : Word).toInt = k.toInt := BitVec.toInt_signExtend_of_le (by decide)

theorem lui_eq_ofNat (j : Imm20) : (j.zeroExtend 32 : Word) <<< 12 = BitVec.ofNat 32 (j.toNat * 2 ^ 12) := by
  have := j.isLt
  apply BitVec.eq_of_toNat_eq
  simp [BitVec.toNat_shiftLeft, Nat.shiftLeft_eq]

/-- Settles O10. -/
theorem lvsImmediateOperations : Obligations.LvsImmediateOperations := by
  intro s c d a k j x pc
  refine ⟨setsReg_lvsOpI (· + k.signExtend 32) rfl, ?_, setsReg_lvsOpI (· &&& k.zeroExtend 32) rfl,
    setsReg_lvsOpI (· ||| k.zeroExtend 32) rfl, setsReg_lvsOpI (· ^^^ k.zeroExtend 32) rfl, ?_⟩
  · rw [← toInt_signExtend_imm, ← flagWord_slt]
    exact setsReg_lvsOpI (fun x => flagWord (x.slt (k.signExtend 32))) rfl
  · rw [← lui_eq_ofNat]
    exact fun h => setsReg (exec_lvs rfl h)

/-! ### Branches and jumps -/

/-- A target in schedule memory is taken. -/
theorem lvsGoto_inside {u : State} {target : Int} (x : Cluster) (h0 : 0 ≤ target) (h1 : target < 0x10000) :
    lvsGoto u c target x = u.setCl c { x with pc := target.toNat, readyClk := cluClk u c + 2 } :=
  if_pos ⟨h0, h1⟩

theorem lvsGoto_outside {u : State} {target : Int} (x : Cluster) (h : target < 0 ∨ 0x10000 ≤ target) :
    lvsGoto u c target x = trap (u.setCl c x) c 3 :=
  if_neg fun ⟨h0, h1⟩ => by omega

/-- A jump that links in d. -/
theorem goto_links {d : SReg} {v : Word} {target : Int} (h : LvsAt s c i)
    (hexec : exec i s = .next (lvsGoto (lvsNow s c) c target (writeS (s.cl c) d v))) :
    (0 ≤ target → target < 0x10000 → SetsReg i c d v target.toNat 2 s) ∧
    ((target < 0 ∨ 0x10000 ≤ target) → (s.cl c).late = none → Traps i c d 3 s) := by
  refine ⟨fun h0 h1 => ?_, fun hout hl => ?_⟩
  · rw [lvsGoto_inside _ h0 h1] at hexec
    exact setsReg_goto hexec
  · obtain ⟨-, hpc, -⟩ := h
    rw [lvsGoto_outside _ hout] at hexec
    refine traps hexec (State.setCl_self ..) (fun k hk => ?_) (reg_lvsNow s c) (mem_lvsNow s c) (ctr_lvsNow s c) hl hpc
    rw [State.setCl_cl, if_neg hk, cl_lvsNow]

theorem goes_branch {d a : SReg} {k : Imm14} {p : Word → Word → Bool} (hexec : exec i s = lvsBranch i c d a k p s) (h : LvsAt s c i) :
    let target : Int := (s.cl c).pc + 4 * k.toInt
    let taken := p (lvsReg s c a) (lvsReg s c d) = true
    (taken → 0 ≤ target → target < 0x10000 → SetsReg i c 0 0 target.toNat 2 s) ∧
    (¬taken → SetsReg i c 0 0 ((s.cl c).pc + 4) 1 s) ∧
    (taken → (target < 0 ∨ 0x10000 ≤ target) → (s.cl c).late = none → Traps i c 0 3 s) := by
  intro target taken
  have hnext := exec_lvs hexec h
  simp only [lvsReg_lvsNow, cl_lvsNow] at hnext
  by_cases hp : taken
  · rw [if_pos hp] at hnext
    obtain ⟨hin, hout⟩ := goto_links (d := 0) (v := 0) h hnext
    exact ⟨fun _ => hin, fun hn => absurd hp hn, fun _ => hout⟩
  · rw [if_neg hp] at hnext
    exact ⟨fun h => absurd h hp, fun _ => setsReg_zero hnext, fun h => absurd h hp⟩

/-- Settles O11: the four branches are one shape, each with its own comparison. -/
theorem lvsBranches : Obligations.LvsBranches := by
  intro s c d a k x y target ok
  refine ⟨fun h => ?_, fun h => ?_, fun h => ?_, fun h => ?_⟩
  · have := goes_branch (hexec := rfl) h
    simpa only [beq_iff_eq] using this
  · have := goes_branch (hexec := rfl) h
    simpa only [bne_iff_ne] using this
  · have := goes_branch (hexec := rfl) h
    simpa only [BitVec.slt, decide_eq_true_eq] using this
  · have := goes_branch (hexec := rfl) h
    simpa only [BitVec.ult, decide_eq_true_eq] using this

/-- Settles O12. -/
theorem lvsJumps : Obligations.LvsJumps := by
  intro s c d a k j pc link ok
  refine ⟨fun h => ?_, fun h => ?_⟩
  · have hexec : execJal c d j s = _ := lvs_next h _
    simp only [cl_lvsNow] at hexec
    exact goto_links h hexec
  · have hexec : execJalr c d a k s = _ := lvs_next h _
    simp only [cl_lvsNow, lvsReg_lvsNow] at hexec
    exact goto_links h hexec

/-! ### WAITG and FENCE -/

/-- A wait that holds passes; one that does not stalls the sequencer. -/
theorem goes_wait {p : Prop} [Decidable p] {w : Stall} (i : Instr)
    (hexec : exec i s = .next (lvsDone (lvsNow s c) c 1 (if p then s.cl c else { s.cl c with stall := some w }))) :
    (p → SetsReg i c 0 0 ((s.cl c).pc + 4) 1 s) ∧
    (¬p → Goes i s fun t => t = { lvsNow s c with clusters := t.clusters } ∧ (∀ k, k ≠ c.val → t.cl k = s.cl k) ∧
      t.cl c = { s.cl c with pc := (s.cl c).pc + 4, readyClk := cluClk (lvsNow s c) c + 1, stall := some w }) := by
  refine ⟨fun hp => ?_, fun hp => ⟨_, hexec, ?_⟩⟩
  · rw [if_pos hp] at hexec
    exact setsReg_zero hexec
  · rw [if_neg hp]
    exact ⟨rfl, fun k hk => by rw [lvsDone, State.setCl_cl, if_neg hk, cl_lvsNow], State.setCl_self ..⟩

/-- The end of a stall. -/
theorem goes_stallEnd {y : Cluster} (hexec : exec i s = .next (s.setCl c y)) :
    Goes i s fun t => t = { s with clusters := t.clusters } ∧ (∀ k, k ≠ c.val → t.cl k = s.cl k) ∧ t.cl c = y :=
  ⟨_, hexec, rfl, fun k hk => by rw [State.setCl_cl, if_neg hk], State.setCl_self ..⟩

theorem exec_waitgSatisfied {g k : Nat} (hs : (s.cl c).stall = some (.waitg g k)) (hk : k ≤ findD (s.cl c).grpCnt g 0) :
    exec (.waitgSatisfied c) s =
      .next (s.setCl c { s.cl c with stall := none, readyClk := max (s.cl c).readyClk (cluClk s c + 1) }) := by
  show execWaitgSatisfied c s = _
  unfold execWaitgSatisfied when_
  dsimp only
  rw [hs]
  dsimp only
  rw [if_pos (decide_eq_true hk)]

theorem exec_fenceSatisfied (hs : (s.cl c).stall = some .fence) (hl : (s.cl c).live = []) :
    exec (.fenceSatisfied c) s =
      .next (s.setCl c { s.cl c with stall := none, readyClk := max (s.cl c).readyClk (cluClk s c + 1) }) := by
  show execFenceSatisfied c s = _
  unfold execFenceSatisfied when_
  dsimp only
  rw [hs]
  dsimp only
  rw [if_pos (by rw [hl]; rfl)]

/-- Settles O17. -/
theorem lvsWaits : Obligations.LvsWaits := by
  intro s c a k x g n stalls goesOn
  refine ⟨fun h => ?_, fun h => ?_, fun g k hs hk => goes_stallEnd (exec_waitgSatisfied hs hk),
    fun hs hl => goes_stallEnd (exec_fenceSatisfied hs hl)⟩
  · have hexec : execWaitg c a k s = _ := lvs_next h _
    simp only [cl_lvsNow, lvsReg_lvsNow] at hexec
    obtain ⟨hpass, hstall⟩ := goes_wait (.waitg c a k) hexec
    exact ⟨hpass, fun hn => hstall (Nat.not_le_of_lt hn)⟩
  · have hexec : execFence c s = _ := lvs_next h _
    simp only [cl_lvsNow, List.isEmpty_iff] at hexec
    exact goes_wait (.fence c) hexec

end Sys2Proof.Machine
end

section
/-! LW and SW: schedule memory, control-window lines, misses and the addresses that trap (O13, O14). -/

namespace Sys2Proof.Machine

variable {s : State} {c : ClusterId} {i : Instr}

/-! ### Misses -/

/-- A load or store that waits for its line: the sequencer stalls on it, and besides only caches and waiting control packets
change. -/
theorem goes_lvsMiss {line d a : Nat} {excl : Bool} {store : Option Word}
    (hexec : exec i s = .next (lvsMiss (lvsNow s c) c (s.cl c) line excl d a store)) : Goes i s fun t =>
      (t.cl c).stall = some (.miss line excl d a store) ∧ (t.cl c).pc = (s.cl c).pc + 4 ∧ SameMem s t ∧
      (∀ k, k ≠ c.val → (t.cl k).outsideCache = (s.cl k).outsideCache) ∧
      (t.cl c).outsideCache = { (s.cl c).outsideCache with
        pc := (t.cl c).pc, stall := (t.cl c).stall, readyClk := (t.cl c).readyClk } := by
  obtain ⟨hcl, hmem, -⟩ := CacheOnly.tryGet ((lvsNow s c).setCl c { s.cl c with
    pc := (s.cl c).pc + 4, readyClk := cluClk (lvsNow s c) c + 1, stall := some (.miss line excl d a store) }) c
  unfold lvsMiss at hexec
  refine ⟨_, hexec, ?_⟩
  generalize tryGet _ _ = t at hcl hmem
  have hself := hcl c
  rw [State.setCl_self] at hself
  have hstall : (t.cl c).stall = some (.miss line excl d a store) := congrArg Cluster.stall hself
  have hpc : (t.cl c).pc = (s.cl c).pc + 4 := congrArg Cluster.pc hself
  have hclk : (t.cl c).readyClk = cluClk (lvsNow s c) c + 1 := congrArg Cluster.readyClk hself
  refine ⟨hstall, hpc, fun a => ?_, fun k hk => ?_, ?_⟩
  · rw [hmem, (State.setCl_fields ..).2.2.2.1, mem_lvsNow]
  · rw [hcl, State.setCl_cl, if_neg hk, cl_lvsNow]
  · rw [hself, hstall, hpc, hclk]
    rfl

theorem scalarPlace_sched {ad : Nat} (s : State) (c : Nat) (h : ad < 0x10000) : scalarPlace s c ad = .sched ad := if_pos h

/-! ### LW -/

/-- What an LW of address ad does. -/
def lwEffect (t : State) (c : ClusterId) (d : SReg) (ad : Nat) : State :=
  if ad % 4 ≠ 0 then trap t c 2
  else
    match scalarPlace t c ad with
    | .sched o => lvsWrite c d 2 (BitVec.ofNat 32 (leNat (t.read (schedAt c o) 4))) t
    | .window w =>
      if stackGone t (homeStack w) then lvsWrite c d 3 0 t
      else
        match cached (t.cl c) (lineOf w) with
        | some l => lvsWrite c d 3 (lineWord l.data w) t
        | none => lvsMiss t c (t.cl c) (lineOf w) false d w none
    | .unmapped => trap t c 3

theorem exec_lw {d a : SReg} {k : Imm14} (h : LvsAt s c (.lw c d a k)) :
    exec (.lw c d a k) s = .next (lwEffect (lvsNow s c) c d (lvsReg s c a + k.signExtend 32).toNat) := by
  have hexec : execLw c d a k s = _ := lvs_next h _
  simp only [lvsReg_lvsNow] at hexec
  exact hexec

/-- Settles O13: the branches of `lwEffect`, one by one. -/
theorem lvsLoads : Obligations.LvsLoads := by
  intro s c d a k h x ad
  have hexec : exec (.lw c d a k) s = .next (lwEffect (lvsNow s c) c d ad) := exec_lw h
  unfold lwEffect at hexec
  by_cases hal : ad % 4 = 0
  · rw [if_neg (not_not.2 hal), scalarPlace_lvsNow] at hexec
    refine ⟨fun hn => absurd hal hn, fun _ hlt => ?_, fun _ hu hl => ?_, fun w _ hw => ⟨fun hg => ?_, fun hg l hl => ?_, fun hg hn => ?_⟩⟩
    · rw [scalarPlace_sched s c hlt] at hexec
      exact read_lvsNow s c .. ▸ setsReg hexec
    · rw [hu] at hexec
      exact traps_lvsNow 0 h hl hexec
    all_goals
      rw [hw] at hexec
      dsimp only at hexec
      rw [stackGone_lvsNow] at hexec
    · rw [if_pos hg] at hexec
      exact setsReg hexec
    · rw [if_neg (by rw [hg]; decide), cl_lvsNow, hl] at hexec
      exact setsReg hexec
    · rw [if_neg (by rw [hg]; decide), cl_lvsNow, hn] at hexec
      exact goes_lvsMiss hexec
  · rw [if_pos hal] at hexec
    exact ⟨fun _ hl => traps_lvsNow 0 h hl hexec, fun hn => absurd hn hal, fun hn => absurd hn hal, fun _ hn => absurd hn hal⟩

/-! ### SW -/

/-- What an SW of v to address ad does. -/
def swEffect (t : State) (c : ClusterId) (v : Word) (ad : Nat) : State :=
  if ad % 4 ≠ 0 then trap t c 2
  else
    match scalarPlace t c ad with
    | .sched o => lvsDone (t.write (schedAt c o) (leBytes 4 v.toNat)) c 2 (t.cl c)
    | .window w =>
      if (t.cl c).replay.isSome then lvsDone (breach t c) c 3 ((breach t c).cl c)
      else if stackGone t (homeStack w) then lvsDone t c 3 (t.cl c)
      else
        match cached (t.cl c) (lineOf w) with
        | some l =>
          if l.excl then lvsDone t c 3 (cachePut (t.cl c) { l with data := lineWith l.data w v })
          else lvsMiss t c (t.cl c) (lineOf w) true 0 w (some v)
        | none => lvsMiss t c (t.cl c) (lineOf w) true 0 w (some v)
    | .unmapped => trap t c 3

theorem exec_sw {d a : SReg} {k : Imm14} (h : LvsAt s c (.sw c d a k)) :
    exec (.sw c d a k) s = .next (swEffect (lvsNow s c) c (lvsReg s c d) (lvsReg s c a + k.signExtend 32).toNat) := by
  have hexec : execSw c d a k s = _ := lvs_next h _
  simp only [lvsReg_lvsNow] at hexec
  exact hexec

/-- An instruction that leaves the cluster as y but for pc and clock, and nothing else but time. -/
theorem goes_lvsDone {u : State} {y : Cluster} {cost : Nat} (hexec : exec i s = .next (lvsDone u c cost y))
    (hu : u = { lvsNow s c with clusters := u.clusters, mem := u.mem }) (hother : ∀ k, k ≠ c.val → u.cl k = s.cl k)
    (hy : y.pc = (s.cl c).pc) : Goes i s fun t => t = { lvsNow s c with clusters := t.clusters, mem := u.mem } ∧
      t.cl c = { y with pc := (s.cl c).pc + 4, readyClk := cluClk (lvsNow s c) c + cost } ∧ ∀ k, k ≠ c.val → t.cl k = s.cl k := by
  have hclk : cluClk u c = cluClk (lvsNow s c) c := by rw [hu]; rfl
  refine ⟨_, hexec, ?_, ?_, fun k hk => ?_⟩
  · rw [lvsDone, State.setCl, hu]
  · rw [lvsDone, State.setCl_self, hclk, hy]
  · rw [lvsDone, State.setCl_cl, if_neg hk, hother k hk]

/-- A store to schedule memory. -/
theorem goes_sw_sched {at_ : Nat} {v : Word} (hexec : exec i s = .next (lvsDone ((lvsNow s c).write at_ (leBytes 4 v.toNat)) c 2 (s.cl c))) :
    Goes i s fun t => t.read at_ 4 = leBytes 4 v.toNat ∧ SameMemBut at_ 4 s t ∧
      t = { lvsNow s c with clusters := t.clusters, mem := t.mem } ∧
      t.cl c = { s.cl c with pc := (s.cl c).pc + 4, readyClk := cluClk (lvsNow s c) c + 2 } ∧ ∀ k, k ≠ c.val → t.cl k = s.cl k := by
  obtain ⟨t, ht, hrest, hself, hother⟩ := goes_lvsDone hexec rfl (fun k _ => cl_lvsNow s c k) rfl
  have hmem : t.mem = memWrite s.mem at_ (leBytes 4 v.toNat) := by
    rw [hrest]
    show memWrite (lvsNow s c).mem _ _ = _
    rw [mem_lvsNow]
  refine ⟨t, ht, ?_, fun k hk => ?_, ?_, hself, hother⟩
  · have hread := memRead_memWrite s.mem at_ (leBytes 4 v.toNat)
    rwa [leBytes_length, ← hmem] at hread
  · rw [hmem]
    exact memByte_memWrite_outside _ _ _ _ (by rwa [leBytes_length])
  · rw [hrest]

theorem breach_cl_self (s : State) (c : Nat) :
    (breach s c).cl c = { s.cl c with replay := (s.cl c).replay.map fun r => { r with breach := true } } :=
  State.setCl_self ..

/-- Settles O14: the branches of `swEffect`, one by one. -/
theorem lvsStores : Obligations.LvsStores := by
  intro s c d a k h x v ad done
  have hexec : exec (.sw c d a k) s = .next (swEffect (lvsNow s c) c v ad) := exec_sw h
  unfold swEffect at hexec
  by_cases hal : ad % 4 = 0
  · rw [if_neg (not_not.2 hal), scalarPlace_lvsNow, cl_lvsNow] at hexec
    refine ⟨fun hn => absurd hal hn, fun _ hlt => ?_, fun _ hu hl => ?_, fun w _ hw =>
      ⟨fun hr hg l hl he => ?_, fun hr hg hl => ?_, fun hr hg => ?_, fun r hr => ?_⟩⟩
    · rw [scalarPlace_sched s c hlt] at hexec
      exact goes_sw_sched hexec
    · rw [hu] at hexec
      exact traps_lvsNow 0 h hl hexec
    all_goals
      rw [hw] at hexec
      dsimp only at hexec
      rw [stackGone_lvsNow, hr] at hexec
    · rw [if_neg (by decide), if_neg (by rw [hg]; decide), hl] at hexec
      dsimp only at hexec
      rw [if_pos he] at hexec
      exact goes_lvsDone hexec rfl (fun k _ => cl_lvsNow s c k) rfl
    · rw [if_neg (by decide), if_neg (by rw [hg]; decide)] at hexec
      refine goes_lvsMiss ?_
      split at hexec
      · next l hc => rwa [if_neg (by rw [hl l hc]; decide)] at hexec
      · exact hexec
    · rw [if_neg (by decide), if_pos hg] at hexec
      exact setsReg_zero hexec
    · rw [if_pos (show (some r).isSome = true from rfl)] at hexec
      have hself := breach_cl_self (lvsNow s c) c
      rw [cl_lvsNow, hr] at hself
      rw [hself] at hexec
      exact goes_lvsDone (u := breach (lvsNow s c) c) hexec rfl (fun k hk => by rw [breach, State.modCl, State.setCl_cl, if_neg hk, cl_lvsNow]) rfl
  · rw [if_pos hal] at hexec
    exact ⟨fun _ hl => traps_lvsNow 0 h hl hexec, fun hn => absurd hn hal, fun hn => absurd hn hal, fun _ hn => absurd hn hal⟩

end Sys2Proof.Machine
end

section
/-! Dispatch, and the reads of counts, queues and register blocks (O15, O16). -/

namespace Sys2Proof.Machine

variable {s : State} {c : ClusterId} {i : Instr}

/-! ### Dispatch -/

/-- The cluster x with a descriptor appended to its dispatch queue in region clock `now`. -/
def Cluster.joined (x : Cluster) (raw : BitVec 256) (now : Nat) : Cluster :=
  let d : Desc := { did := x.nextDid, raw := raw, frame := x.frame, at_ := now, replay := x.replay.isSome }
  { x with nextDid := x.nextDid + 1, dq := x.dq ++ [d], live := x.live ++ [(x.nextDid, d.grp)] }

theorem appendDesc_eq (s : State) (c : Nat) (raw : BitVec 256) :
    appendDesc s c raw = s.setCl c ((s.cl c).joined raw (cluClk s c)) := rfl

/-- DISP and DISPM: the descriptor joins the queue, or the sequencer stalls with it. -/
theorem goes_dispatch {raw : BitVec 256} {cost : Nat} (hexec : exec i s = .next (dispatch (lvsNow s c) c raw cost)) :
    Goes i s fun t => t = { lvsNow s c with clusters := t.clusters } ∧ (∀ k, k ≠ c.val → t.cl k = s.cl k) ∧
      t.cl c =
        let now := cluClk (lvsNow s c) c
        let y : Cluster := { s.cl c with pc := (s.cl c).pc + 4, readyClk := now + cost }
        if (s.cl c).dq.length < 64 then y.joined raw now
        else { y with stall := some (.dispatch raw), stallAt := now, stallOpen := true } := by
  have hother : ∀ x y : Cluster, ∀ k, k ≠ c.val → (((lvsNow s c).setCl c x).setCl c y).cl k = s.cl k := fun x y k hk => by
    rw [State.setCl_cl, if_neg hk, State.setCl_cl, if_neg hk, cl_lvsNow]
  refine ⟨_, hexec, ?_⟩
  unfold dispatch
  dsimp only
  rw [cl_lvsNow]
  by_cases hfull : (s.cl c).dq.length ≥ 64
  · rw [if_pos hfull, if_neg (Nat.not_lt_of_le hfull)]
    refine ⟨rfl, hother _ _, ?_⟩
    rw [State.modCl, State.setCl_self, lvsDone, State.setCl_self]
  · rw [if_neg hfull, if_pos (Nat.lt_of_not_le hfull), appendDesc_eq]
    refine ⟨rfl, hother _ _, ?_⟩
    rw [State.setCl_self, lvsDone, State.setCl_self]
    rfl

/-- The time for which the full queue kept the sequencer waiting. -/
def dqFullClocks (s : State) (c : Nat) : Nat := if (s.cl c).stallOpen = true then cluClk s c - (s.cl c).stallAt else 0

/-- The full queue has room again: the stall is over and its clocks are counted; no other register changes. -/
theorem noteRoom_facts (s : State) (c : Nat) :
    let t := noteRoom s c
    t = { s with clusters := t.clusters, regs := t.regs } ∧ OnlyCl c s t ∧ t.cl c = { s.cl c with stallOpen := false } ∧
    RegsBut [seqDqFullCntAt c] s t ∧
    (s.ctr (seqDqFullCntAt c) ≤ 0xFFFFFFFFFFFF →
      t.ctr (seqDqFullCntAt c) = min (s.ctr (seqDqFullCntAt c) + dqFullClocks s c) 0xFFFFFFFFFFFF) := by
  unfold noteRoom dqFullClocks
  dsimp only
  by_cases ho : (s.cl c).stallOpen = true
  · rw [if_pos ho, if_pos ho]
    refine ⟨by rw [bumpBy_eq]; rfl, fun k hk => ?_, ?_, fun a ha => ?_, fun hle => ?_⟩
    · rw [(State.bumpBy_records ..).1, State.setCl_cl, if_neg hk]
    · rw [(State.bumpBy_records ..).1, State.setCl_self]
    · rw [reg_bumpBy_ne _ (List.ne_of_not_mem_cons ha)]
      rfl
    · exact (State.bumpBy_ctr (s.setCl c _) _ _ _ hle).trans (if_pos rfl)
  · rw [if_neg ho, if_neg ho]
    refine ⟨rfl, fun _ _ => rfl, ?_, fun _ _ => rfl, fun hle => ?_⟩
    · rw [← Bool.eq_false_iff.2 ho]
    · omega

/-- DISPATCH_STALL_RELEASE. -/
theorem exec_dispatchStallRelease {raw : BitVec 256} (hs : (s.cl c).stall = some (.dispatch raw)) (hq : (s.cl c).dq.length < 64) :
    exec (.dispatchStallRelease c) s = .next (appendDesc ((noteRoom s c).modCl c fun x =>
      { x with stall := none, readyClk := max x.readyClk (cluClk (noteRoom s c) c + 1) }) c raw) := by
  show execDispatchStallRelease c s = _
  unfold execDispatchStallRelease
  dsimp only
  rw [hs]
  exact if_pos hq

theorem goes_dispatchStallRelease {raw : BitVec 256} (hs : (s.cl c).stall = some (.dispatch raw))
    (hq : (s.cl c).dq.length < 64) : Goes (.dispatchStallRelease c) s fun t =>
    t = { s with clusters := t.clusters, regs := t.regs } ∧ (∀ k, k ≠ c.val → t.cl k = s.cl k) ∧
    t.cl c = Cluster.joined { s.cl c with stall := none, stallOpen := false, readyClk := max (s.cl c).readyClk (cluClk s c + 1) }
      raw (cluClk s c) ∧
    RegsBut [seqDqFullCntAt c] s t ∧
    (s.ctr (seqDqFullCntAt c) ≤ 0xFFFFFFFFFFFF →
      t.ctr (seqDqFullCntAt c) = min (s.ctr (seqDqFullCntAt c) + dqFullClocks s c) 0xFFFFFFFFFFFF) := by
  obtain ⟨heq, hother, hself, hregs, hctr⟩ := noteRoom_facts s c
  have hclk : cluClk (noteRoom s c) c = cluClk s c := by rw [heq]; rfl
  refine ⟨_, exec_dispatchStallRelease hs hq, ?_⟩
  generalize noteRoom s c = v at heq hother hself hregs hctr hclk
  rw [appendDesc_eq]
  refine ⟨?_, fun k hk => ?_, ?_, hregs, hctr⟩
  · rw [heq]
    rfl
  · rw [State.setCl_cl, if_neg hk, State.modCl, State.setCl_cl, if_neg hk, hother k hk]
  · have hclk' : ∀ x, cluClk (v.setCl c x) c = cluClk s c := fun _ => hclk
    rw [State.setCl_self, State.modCl, State.setCl_self, hclk', hself, hclk]

/-- Settles O15: DISP and DISPM dispatch or trap; the release appends what waits. -/
theorem lvsDispatch : Obligations.LvsDispatch := by
  intro s c a k x now joins ok
  refine ⟨fun h => ?_, fun h => ?_, fun raw hs hq => goes_dispatchStallRelease hs hq⟩
  · have hexec : execDisp c a s = _ := lvs_next h _
    simp only [cl_lvsNow] at hexec
    refine ⟨fun h0 h1 h2 => ?_, fun hbad hl => ?_⟩
    · rw [if_neg (by omega)] at hexec
      exact goes_dispatch (i := .disp c a) hexec
    · rw [if_pos (by omega)] at hexec
      exact traps_lvsNow 0 h hl hexec
  · have hexec : execDispm c a k s = _ := lvs_next h _
    simp only [lvsReg_lvsNow, read_lvsNow] at hexec
    refine ⟨fun h0 h1 => ?_, fun hbad hl => ?_⟩
    · rw [if_neg (by omega)] at hexec
      exact goes_dispatch (i := .dispm c a k) hexec
    · rw [if_pos (by omega)] at hexec
      exact traps_lvsNow 0 h hl hexec

end Sys2Proof.Machine
end

section
/-! Reads of counts, queues and register blocks by the sequencer (O16). -/

namespace Sys2Proof.Machine

variable {s : State} {c : ClusterId} {i : Instr}

/-! ### A result written in a state that is not the state before -/

/-- What writing a result leaves of a state u: one register, pc and clock of the cluster. -/
theorem lvsWrite_facts (u : State) (c : ClusterId) (d : SReg) (cost : Nat) (v : Word) :
    let t := lvsWrite c d cost v u
    t = { u with clusters := t.clusters } ∧ OnlyCl c u t ∧ lvsReg t c d = (if d = 0 then 0 else v) ∧ OtherRegs c d u t ∧
    t.cl c = { u.cl c with s := (writeS (u.cl c) d v).s, pc := (u.cl c).pc + 4, readyClk := cluClk u c + cost } := by
  have hself : (lvsWrite c d cost v u).cl c =
      { u.cl c with s := (writeS (u.cl c) d v).s, pc := (u.cl c).pc + 4, readyClk := cluClk u c + cost } := by
    rw [lvsWrite, lvsDone, State.setCl_self, writeS_eq]
  refine ⟨rfl, fun k hk => by rw [lvsWrite, lvsDone, State.setCl_cl, if_neg hk], ?_, fun r hr => ?_, hself⟩
  · have := readS_writeS_self (u.cl c) d v
    rw [lvsReg, hself]
    simp only [Fin.ext_iff, Fin.val_zero]
    exact this
  · have := readS_writeS_ne (u.cl c) v (Fin.val_ne_of_ne hr)
    rw [lvsReg, hself]
    exact this

/-- A result written in a state whose cluster c has the registers and the pc of s, and that has the memory of s. -/
theorem goes_lvsWrite {u : State} {d : SReg} {cost : Nat} {v : Word} (hexec : exec i s = .next (lvsWrite c d cost v u))
    (hregs : (u.cl c).s = (s.cl c).s) (hpc : (u.cl c).pc = (s.cl c).pc) (hmem : u.mem = s.mem) : Goes i s fun t =>
      lvsReg t c d = (if d = 0 then 0 else v) ∧ OtherRegs c d s t ∧ (t.cl c).pc = (s.cl c).pc + 4 ∧ SameMem s t ∧ t.regs = u.regs ∧
      (t.cl c).queues = (u.cl c).queues ∧ (t.cl c).replay = (u.cl c).replay := by
  obtain ⟨hrest, -, hd, hother, hself⟩ := lvsWrite_facts u c d cost v
  refine ⟨_, hexec, hd, fun r hr => ?_, ?_, fun a => ?_, ?_, ?_, ?_⟩
  · rw [hother r hr, lvsReg, lvsReg, readS, readS, hregs]
  · rw [hself, hpc]
  · rw [hrest]
    exact congrArg (memByte · a) hmem
  · rw [hrest]
  · rw [hself]
  · rw [hself]

/-! ### Entries taken from a queue -/

theorem declOf_lvsNow (s : State) (k : ClusterId) (c q : Nat) : declOf (lvsNow s k) c q = declOf s c q := by
  rw [lvsNow_eq]
  rfl

theorem seqQlast_ne_frameUse (c : Nat) : seqQlastAt c ≠ seqFrameUseAt c := by
  unfold seqQlastAt seqFrameUseAt
  omega

/-- SUSPECT in the poison group is a flag of the cluster and a mark of its frame. -/
theorem flagPoison_facts (s : State) (c : Nat) :
    let t := flagPoison s c
    t = { s with clusters := t.clusters, regs := t.regs } ∧ OnlyCl c s t ∧
    t.cl c = { s.cl c with grpFlags := (t.cl c).grpFlags } ∧
    ∀ a, a ≠ seqFrameUseAt c → t.reg a = s.reg a ∧ t.ctr a = s.ctr a := by
  unfold flagPoison
  dsimp only
  split
  · refine ⟨rfl, fun k hk => ?_, ?_, fun a ha => ⟨?_, ctr_setReg_ne _ _ ha⟩⟩
    · exact (State.setCl_cl ..).trans (if_neg hk)
    · have hself : ((s.modCl c fun x => { x with
          grpFlags := putAt x.grpFlags (s.reg (seqPoisonGrpAt c) % 16)
            (findD x.grpFlags (s.reg (seqPoisonGrpAt c) % 16) 0 ||| stSuspect) }).setField (seqFrameUseAt c) 0 0 1).cl c = _ :=
        State.setCl_self ..
      rw [hself]
    · exact (State.setReg_reg ..).trans (if_neg ha)
  · exact ⟨rfl, fun _ _ => rfl, rfl, fun _ _ => ⟨rfl, rfl⟩⟩

/-- A queue without an entry reads 0, as does one that is not declared. -/
theorem takeEntry_none {s : State} {c q : Nat} (h : entries (queueOf (s.cl c) q) = [] ∨ declOf s c q = none) :
    takeEntry s c q = (0, s.setReg (seqQlastAt c) 0) := by
  unfold takeEntry
  obtain h | h := h
  · rw [h]
  · rw [h]
    split
    · cases ‹none = some _›
    · rfl

/-- The head entry taken: its words, the queue without it, and nothing else of the cluster but the poison group's flag. -/
theorem takeEntry_some {s : State} {c q : Nat} {e : Msg} {es : List Msg} {dc : QueueDecl} (he : entries (queueOf (s.cl c) q) = e :: es)
    (hd : declOf s c q = some dc) :
    let t := (takeEntry s c q).2
    (takeEntry s c q).1 = entryLow dc e ∧ t = { s with clusters := t.clusters, regs := t.regs } ∧ OnlyCl c s t ∧
    t.cl c = { s.cl c with
      grpFlags := (t.cl c).grpFlags
      queues := putAt (s.cl c).queues q { queueOf (s.cl c) q with
        msgs := mapFirst (fun n => n.stage == 2) (fun n => { n with stage := 3 }) (queueOf (s.cl c) q).msgs } } ∧
    t.reg (seqQlastAt c) = entryHigh dc e ∧
    ∀ a, a ≠ seqQlastAt c → a ≠ seqFrameUseAt c → t.reg a = s.reg a ∧ t.ctr a = s.ctr a := by
  have htake : takeEntry s c q = (entryLow dc e,
      let u := (modQueue s c q fun x => { x with
        msgs := mapFirst (fun n => n.stage == 2) (fun n => { n with stage := 3 }) x.msgs }).setReg (seqQlastAt c) (entryHigh dc e)
      if e.poison then flagPoison u c else u) := by
    unfold takeEntry
    rw [he, hd]
  rw [htake]
  dsimp only
  generalize hu : (modQueue s c q _).setReg (seqQlastAt c) (entryHigh dc e) = u
  have hrest : u = { s with clusters := u.clusters, regs := u.regs } := by rw [← hu]; rfl
  have hother : OnlyCl c s u := fun k hk => by rw [← hu]; exact (State.setCl_cl ..).trans (if_neg hk)
  have hself : u.cl c = { s.cl c with
      queues := putAt (s.cl c).queues q { queueOf (s.cl c) q with
        msgs := mapFirst (fun n => n.stage == 2) (fun n => { n with stage := 3 }) (queueOf (s.cl c) q).msgs } } := by
    rw [← hu]
    exact State.setCl_self ..
  have hlast : u.reg (seqQlastAt c) = entryHigh dc e := by rw [← hu]; exact State.setReg_self ..
  have hreg : ∀ a, a ≠ seqQlastAt c → u.reg a = s.reg a ∧ u.ctr a = s.ctr a := fun a ha => by
    rw [← hu]
    exact ⟨(State.setReg_reg ..).trans (if_neg ha), ctr_setReg_ne _ _ ha⟩
  split
  · obtain ⟨fr, fo, fs, fa⟩ := flagPoison_facts u c
    refine ⟨rfl, fr.trans (by rw [hrest]), fun k hk => (fo k hk).trans (hother k hk), fs.trans (by rw [hself]), ?_, fun a h1 h2 => ?_⟩
    · rw [(fa _ (seqQlast_ne_frameUse c)).1, hlast]
    · exact ⟨(fa a h2).1.trans (hreg a h1).1, (fa a h2).2.trans (hreg a h1).2⟩
  · exact ⟨rfl, hrest, hother, by rw [hself], hlast, fun a h1 _ => hreg a h1⟩

/-! ### The instructions -/

theorem goes_qcnt_replay {d : SReg} {k : Imm14} {r : ReplayRun} (h : LvsAt s c (.qcnt c d k)) (hr : (s.cl c).replay = some r) :
    Goes (.qcnt c d k) s fun t => lvsReg t c d = 0 ∧ OtherRegs c d s t ∧ (t.cl c).pc = (s.cl c).pc + 4 ∧
      (t.cl c).replay = some { r with breach := true } ∧ SameMem s t := by
  have hexec : execQcnt c d k s = _ := lvs_next h _
  rw [cl_lvsNow, hr, if_pos (show (some r).isSome = true from rfl)] at hexec
  have hself := breach_cl_self (lvsNow s c) c
  rw [cl_lvsNow, hr] at hself
  obtain ⟨t, ht, hd, hother, hpc, hmem, -, -, hreplay⟩ := goes_lvsWrite (i := .qcnt c d k) (u := breach (lvsNow s c) c) hexec
    (by rw [hself]) (by rw [hself]) (mem_lvsNow s c)
  refine ⟨t, ht, by rw [hd, ite_self], hother, hpc, ?_, hmem⟩
  rw [hreplay, hself]
  rfl

theorem exec_qrd {d : SReg} {k : Imm14} (h : LvsAt s c (.qrd c d k)) (hr : (s.cl c).replay = none) :
    exec (.qrd c d k) s = .next (lvsWrite c d 2 (BitVec.ofNat 32 (takeEntry (lvsNow s c) c (k.toNat % 64)).1)
      (takeEntry (lvsNow s c) c (k.toNat % 64)).2) := by
  have hexec : execQrd c d k s = _ := lvs_next h _
  rw [cl_lvsNow, hr, if_neg (by decide)] at hexec
  exact hexec

theorem goes_qrd_head {d : SReg} {k : Imm14} {e : Msg} {es : List Msg} {dc : QueueDecl} (h : LvsAt s c (.qrd c d k))
    (hr : (s.cl c).replay = none) (he : entries (queueOf (s.cl c) (k.toNat % 64)) = e :: es)
    (hd : declOf s c (k.toNat % 64) = some dc) : Goes (.qrd c d k) s fun t =>
      lvsReg t c d = (if d = 0 then 0 else BitVec.ofNat 32 (entryLow dc e)) ∧ OtherRegs c d s t ∧ (t.cl c).pc = (s.cl c).pc + 4 ∧
      t.reg (seqQlastAt c) = entryHigh dc e ∧ SameMem s t ∧
      queueOf (t.cl c) (k.toNat % 64) = { queueOf (s.cl c) (k.toNat % 64) with
        msgs := mapFirst (fun n => n.stage == 2) (fun n => { n with stage := 3 }) (queueOf (s.cl c) (k.toNat % 64)).msgs } := by
  obtain ⟨hlow, hrest, -, hself, hlast, -⟩ := takeEntry_some (s := lvsNow s c) (by rw [cl_lvsNow]; exact he)
    (by rw [declOf_lvsNow]; exact hd)
  rw [cl_lvsNow] at hself
  have hexec := exec_qrd h hr
  rw [hlow] at hexec
  generalize (takeEntry (lvsNow s c) c (k.toNat % 64)).2 = u at *
  obtain ⟨t, ht, hd, hother, hpc, hmem, hregs, hqueues, -⟩ := goes_lvsWrite hexec (by rw [hself]) (by rw [hself])
    (by rw [hrest]; exact mem_lvsNow s c)
  refine ⟨t, ht, hd, hother, hpc, ?_, hmem, ?_⟩
  · unfold State.reg at hlast ⊢
    rwa [hregs]
  · rw [queueOf, hqueues, hself]
    exact findD_putAt_self ..

/-- A read that finds no entry, made in a state that differs in time and in clusters alone. -/
theorem goes_emptyRead {u : State} {d : SReg} (hexec : exec i s = .next (lvsWrite c d 2 0 (u.setReg (seqQlastAt c) 0)))
    (hu : u = { lvsNow s c with clusters := u.clusters }) (hs : (u.cl c).s = (s.cl c).s) (hpc : (u.cl c).pc = (s.cl c).pc) :
    Goes i s fun t => lvsReg t c d = 0 ∧ OtherRegs c d s t ∧ (t.cl c).pc = (s.cl c).pc + 4 ∧
      t.reg (seqQlastAt c) = 0 ∧ RegsBut [seqQlastAt c] s t ∧ SameMem s t := by
  obtain ⟨t, ht, hd, hother, hpc, hmem, hregs, -, -⟩ := goes_lvsWrite hexec hs hpc (by
    rw [(State.setReg_fields ..).2.2.1, hu]
    exact mem_lvsNow s c)
  have hall : ∀ a, t.reg a = (u.setReg (seqQlastAt c) 0).reg a := fun a => by
    rw [State.reg, hregs]
    rfl
  refine ⟨t, ht, by rw [hd, ite_self], hother, hpc, ?_, fun a ha => ?_, hmem⟩
  · rw [hall, State.setReg_self]
  · rw [hall, State.setReg_reg, if_neg (List.ne_of_not_mem_cons ha), hu]
    exact reg_lvsNow s c a

theorem goes_qrd_empty {d : SReg} {k : Imm14} (h : LvsAt s c (.qrd c d k))
    (hq : ((s.cl c).replay = none ∧ entries (queueOf (s.cl c) (k.toNat % 64)) = []) ∨ (s.cl c).replay.isSome = true) :
    Goes (.qrd c d k) s fun t => lvsReg t c d = 0 ∧ OtherRegs c d s t ∧ (t.cl c).pc = (s.cl c).pc + 4 ∧
      t.reg (seqQlastAt c) = 0 ∧ RegsBut [seqQlastAt c] s t ∧ SameMem s t := by
  obtain ⟨hr, he⟩ | hr := hq
  · have hexec := exec_qrd h hr
    rw [takeEntry_none (.inl (by rw [cl_lvsNow]; exact he))] at hexec
    exact goes_emptyRead hexec rfl (by rw [cl_lvsNow]) (by rw [cl_lvsNow])
  · have hexec : execQrd c d k s = _ := lvs_next h _
    rw [cl_lvsNow, if_pos hr] at hexec
    have hself := breach_cl_self (lvsNow s c) c
    rw [cl_lvsNow] at hself
    exact goes_emptyRead (i := .qrd c d k) (u := breach (lvsNow s c) c) hexec rfl (by rw [hself]) (by rw [hself])

theorem goes_csrr {d : SReg} {k : Imm14} (h : LvsAt s c (.csrr c d k)) (hok : ¬(k.toNat / 2 ^ 12 = 3 ∨ k.toNat % 2 ^ 12 % 4 ≠ 0)) :
    Goes (.csrr c d k) s fun t =>
      lvsReg t c d = (if d = 0 then 0 else BitVec.ofNat 32 (csrWord (lvsNow s c) c (k.toNat / 2 ^ 12) (k.toNat % 2 ^ 12))) ∧
      OtherRegs c d s t ∧ (t.cl c).pc = (s.cl c).pc + 4 ∧ SameMem s t ∧ RegsBut [] s t := by
  have hexec : execCsrr c d k s = _ := lvs_next h _
  dsimp only at hexec
  rw [if_neg hok] at hexec
  generalize hu : (if k.toNat / 2 ^ 12 = 2 ∧ k.toNat % 2 ^ 12 = 0 then latchSeconds (lvsNow s c) (cluSite c) c else lvsNow s c) = u
    at hexec
  have hrest : u = { lvsNow s c with keepers := u.keepers } := by
    rw [← hu]
    split <;> rfl
  have hcl : u.cl c = s.cl c := by
    rw [hrest]
    exact cl_lvsNow s c c
  obtain ⟨t, ht, hd, hother, hpc, hmem, hregs, -, -⟩ := goes_lvsWrite (i := .csrr c d k) hexec (by rw [hcl]) (by rw [hcl])
    (by rw [hrest]; exact mem_lvsNow s c)
  refine ⟨t, ht, hd, hother, hpc, hmem, fun a _ => ?_⟩
  rw [State.reg, hregs, hrest]
  exact reg_lvsNow s c a

/-- A write of a 32-bit word changes registers alone. -/
theorem writeRwWord_eq (s : State) (rows : List RegRow) (blk off v : Nat) :
    writeRwWord s rows blk off v = { s with regs := (writeRwWord s rows blk off v).regs } := by
  unfold writeRwWord
  split <;> rfl

theorem goes_csrw {a : SReg} {k : Imm14} (h : LvsAt s c (.csrw c a k)) (hok : ¬(k.toNat / 2 ^ 12 = 3 ∨ k.toNat % 2 ^ 12 % 4 ≠ 0)) :
    Goes (.csrw c a k) s fun t =>
      t.regs = (if k.toNat / 2 ^ 12 = 0 then (writeRwWord (lvsNow s c) seqRows (seqBlk c) (k.toNat % 2 ^ 12) (lvsReg s c a).toNat).regs
        else if k.toNat / 2 ^ 12 = 1 then (writeRwWord (lvsNow s c) seRows (seBlk c) (k.toNat % 2 ^ 12) (lvsReg s c a).toNat).regs
        else s.regs) ∧
      (t.cl c).pc = (s.cl c).pc + 4 ∧ (∀ r, lvsReg t c r = lvsReg s c r) ∧ SameMem s t := by
  have hexec : execCsrw c a k s = _ := lvs_next h _
  dsimp only at hexec
  rw [if_neg hok, lvsReg_lvsNow] at hexec
  generalize hu : (if k.toNat / 2 ^ 12 = 0 then writeRwWord (lvsNow s c) seqRows (seqBlk c) (k.toNat % 2 ^ 12) (lvsReg s c a).toNat
    else if k.toNat / 2 ^ 12 = 1 then writeRwWord (lvsNow s c) seRows (seBlk c) (k.toNat % 2 ^ 12) (lvsReg s c a).toNat
    else lvsNow s c) = u at hexec
  have hrest : u = { lvsNow s c with regs := u.regs } := by
    rw [← hu]
    split
    · exact writeRwWord_eq ..
    · split
      · exact writeRwWord_eq ..
      · rfl
  have hcl : u.cl c = s.cl c := by
    rw [hrest]
    exact cl_lvsNow s c c
  refine ⟨_, hexec, ?_, ?_, fun r => ?_, fun b => ?_⟩
  · rw [lvsDone, (State.setCl_fields ..).2.2.1, ← hu]
    split
    · rfl
    · split
      · rfl
      · rw [lvsNow_eq]
  · rw [lvsDone, State.setCl_self, hcl]
  · rw [lvsReg, lvsDone, State.setCl_self, hcl]
    rfl
  · rw [lvsDone, (State.setCl_fields ..).2.2.2.1, hrest]
    exact congrArg (memByte · b) (mem_lvsNow s c)

/-- Settles O16: each clause is the law of its instruction. -/
theorem lvsCountsQueuesAndRegisters : Obligations.LvsCountsQueuesAndRegisters := by
  intro s c d a k x pc q blk off bad
  refine ⟨fun h => ?_, fun h hr => ?_, fun h r hr => goes_qcnt_replay h hr, fun h e es dc hr he hd => goes_qrd_head h hr he hd,
    goes_qrd_empty, goes_csrr, goes_csrw, fun hbad hl => ⟨fun h => ?_, fun h => ?_⟩⟩
  · have hexec : execGrd c d k s = _ := lvs_next h _
    rw [cl_lvsNow] at hexec
    exact setsReg (i := .grd c d k) hexec
  · have hexec : execQcnt c d k s = _ := lvs_next h _
    rw [cl_lvsNow, hr, if_neg (by decide)] at hexec
    exact setsReg (i := .qcnt c d k) hexec
  · have hexec : execCsrr c d k s = _ := lvs_next h _
    exact traps_lvsNow 0 h hl (hexec.trans (congrArg Host.Outcome.next (if_pos hbad)))
  · have hexec : execCsrw c a k s = _ := lvs_next h _
    exact traps_lvsNow 0 h hl (hexec.trans (congrArg Host.Outcome.next (if_pos hbad)))

end Sys2Proof.Machine
end

section
/-! The end of a frame's schedule and the handler slots (O18). -/

namespace Sys2Proof.Machine

variable {s : State} {c : ClusterId} {i : Instr}

/-! ### FEND -/

/-- The work end of a frame whose FEND has run: it is noted when nothing dispatched is open. -/
theorem checkEnd_ended {u : State} {c : Nat} (hseq : (u.cl c).seq = .ended) (hstall : (u.cl c).stall = none)
    (hlate : (u.cl c).late = none) (hend : (u.cl c).workEnd = none) :
    checkEnd u c = if (u.cl c).live = [] then
      takeDirty (u.setCl c { u.cl c with workEnd := some (cluClk u c - (u.cl c).frameClk, cluNs u c) }) c else u := by
  have hguard : (u.cl c).seq == .ended && (u.cl c).workEnd.isNone := by
    rw [hseq, hend]
    rfl
  unfold checkEnd
  by_cases hlive : (u.cl c).live = []
  · have : ((u.cl c).live.isEmpty && (u.cl c).stall.isNone) = true := by simp [hlive, hstall]
    dsimp only
    rw [if_pos this, if_pos hlive]
    split
    · next _ hl => cases hlate.symm.trans hl
    · exact if_pos hguard
  · rw [if_neg hlive]
    exact if_neg (by simp [hlive])

theorem checkEnd_ended_facts {u : State} {c : Nat} (hseq : (u.cl c).seq = .ended) (hstall : (u.cl c).stall = none)
    (hlate : (u.cl c).late = none) (hend : (u.cl c).workEnd = none) :
    let t := checkEnd u c
    t.cl c = { u.cl c with workEnd := (t.cl c).workEnd } ∧ ((t.cl c).workEnd.isSome = true ↔ (u.cl c).live = []) := by
  rw [checkEnd_ended hseq hstall hlate hend]
  by_cases hlive : (u.cl c).live = []
  · rw [if_pos hlive]
    dsimp only
    rw [(setsOnly_takeDirty _ c).cl, State.setCl_self]
    exact ⟨rfl, iff_of_true rfl hlive⟩
  · rw [if_neg hlive]
    exact ⟨rfl, iff_of_false (by rw [hend]; decide) hlive⟩

theorem goes_fend (h : LvsAt s c (.fend c)) (hseq : (s.cl c).seq = .run) (hlate : (s.cl c).late = none)
    (hend : (s.cl c).workEnd = none) : Goes (.fend c) s fun t =>
      (t.cl c).seq = .ended ∧ ((t.cl c).workEnd.isSome = true ↔ (s.cl c).live = []) ∧ (∀ r, lvsReg t c r = lvsReg s c r) ∧
      SameMem s t ∧ ∀ k, k ≠ c.val → t.cl k = s.cl k := by
  have hstall : (s.cl c).stall = none := by
    obtain ⟨hready, -, -⟩ := h
    unfold seqReady at hready
    simp only [Bool.and_eq_true, Option.isNone_iff_eq_none] at hready
    exact hready.1.1.2
  have hexec : execFend c s = _ := lvs_next h _
  dsimp only at hexec
  rw [cl_lvsNow, if_neg (by rw [hseq]; decide)] at hexec
  generalize hu : (lvsNow s c).setCl c { s.cl c with seq := .ended } = u at hexec
  have hself : u.cl c = { s.cl c with seq := .ended } := by rw [← hu, State.setCl_self]
  obtain ⟨hcl, hend'⟩ := checkEnd_ended_facts (u := u) (c := c) (by rw [hself]) (by rw [hself]; exact hstall) (by rw [hself]; exact hlate)
    (by rw [hself]; exact hend)
  have hframe := endOnly_checkEnd u c
  refine ⟨_, hexec, ?_, ?_, fun r => ?_, fun a => ?_, fun k hk => ?_⟩
  · rw [hcl, hself]
  · rw [hend', hself]
  · rw [lvsReg, lvsReg, hcl, hself]
    rfl
  · rw [hframe.mem, ← hu, (State.setCl_fields ..).2.2.2.1, mem_lvsNow]
  · rw [hframe.cl k hk, ← hu, State.setCl_cl, if_neg hk, cl_lvsNow]

/-! ### Handler slots -/

theorem schedOf_lvsNow (s : State) (k : ClusterId) (c : Nat) : schedOf (lvsNow s k) c = schedOf s c := by
  rw [lvsNow_eq]
  rfl

/-- The words of an entry that is taken do not depend on what else the cluster has done, nor on the time. -/
theorem takeEntry_low {u : State} {q : Nat} (hq : (u.cl c).queues = (s.cl c).queues) (hd : declOf u c q = declOf s c q) :
    (takeEntry u c q).1 = (takeEntry s c q).1 := by
  have hqueue : queueOf (u.cl c) q = queueOf (s.cl c) q := by rw [queueOf, queueOf, hq]
  unfold takeEntry
  rw [hqueue, hd]
  split <;> rfl

/-- Whatever it takes, taking an entry leaves the cluster's registers and state, and the counters of the SEQ_ block. -/
theorem takeEntry_frame (u : State) (c q : Nat) :
    let t := (takeEntry u c q).2
    t = { u with clusters := t.clusters, regs := t.regs } ∧ OnlyCl c u t ∧
    t.cl c = { u.cl c with grpFlags := (t.cl c).grpFlags, queues := (t.cl c).queues } ∧
    ∀ a, a ≠ seqQlastAt c → a ≠ seqFrameUseAt c → t.ctr a = u.ctr a := by
  cases he : entries (queueOf (u.cl c) q) with
  | nil =>
    rw [takeEntry_none (.inl he)]
    exact ⟨rfl, fun _ _ => rfl, rfl, fun a ha _ => ctr_setReg_ne _ _ ha⟩
  | cons e es =>
    cases hd : declOf u c q with
    | none =>
      rw [takeEntry_none (.inr hd)]
      exact ⟨rfl, fun _ _ => rfl, rfl, fun a ha _ => ctr_setReg_ne _ _ ha⟩
    | some dc =>
      obtain ⟨-, hrest, hother, hself, -, hregs⟩ := takeEntry_some he hd
      refine ⟨hrest, hother, ?_, fun a h1 h2 => (hregs a h1 h2).2⟩
      rw [hself]

/-- The state u in which a slot goes on, against the state s before the instruction: time has passed, and of the cluster
neither registers nor queues have changed. -/
structure SlotState (s : State) (c : ClusterId) (u : State) : Prop where
  regs : (u.cl c).s = (s.cl c).s
  queues : (u.cl c).queues = (s.cl c).queues
  decl : ∀ q, declOf u c q = declOf s c q
  ctr : ∀ a, u.ctr a = s.ctr a
  mem : u.mem = s.mem

theorem SlotState.handlerQueue {u : State} (h : SlotState s c u) (e : SchedEntry) :
    handlerQueue (u.cl c) e = Machine.handlerQueue (s.cl c) e := by
  unfold Machine.handlerQueue queueOf
  rw [h.queues]

/-- A slot whose limits allow it begins the handler of queue q. -/
theorem slotNext_begins {u : State} {e : SchedEntry} {m t0 n q : Nat} (ret : Nat) (h : SlotState s c u)
    (hn : n < imageNat e (0x18 + 8 * m) 2) (hused : cluClk u c - t0 < imageNat e (0x14 + 8 * m) 4)
    (hq : handlerQueue (s.cl c) e = some q) :
    let t := slotNext u c e m ret t0 n
    ((t.cl c).seq = .handler ∧ (t.cl c).pc = 4 * handlerOf e q ∧ Counted (seqHandlerCntAt c) s t ∧
      lvsReg t c 3 = BitVec.ofNat 32 (takeEntry s c q).1 ∧ lvsReg t c 4 = BitVec.ofNat 32 q ∧
      (∃ t0, (t.cl c).handler = some (q, ret, m, t0, n + 1)) ∧ (∀ r : SReg, r ≠ 3 → r ≠ 4 → lvsReg t c r = lvsReg s c r)) ∧
    (t.cl c).slotsRun = (u.cl c).slotsRun := by
  obtain ⟨hrest, -, hself, hctr⟩ := takeEntry_frame u c q
  have hlow : (takeEntry u c q).1 = (takeEntry s c q).1 := takeEntry_low h.queues (h.decl q)
  have hnext : slotNext u c e m ret t0 n =
      (let v := (takeEntry u c q).2.bump (seqHandlerCntAt c)
       let x := writeS (writeS (v.cl c) 3 (BitVec.ofNat 32 (takeEntry u c q).1)) 4 (BitVec.ofNat 32 q)
       v.setCl c { x with seq := .handler, handler := some (q, ret, m, t0, n + 1), pc := 4 * handlerOf e q
                          readyClk := cluClk v c + 2 }) := by
    unfold slotNext
    dsimp only
    rw [if_pos ⟨hn, hused⟩, h.handlerQueue, hq]
  rw [hnext, hlow]
  generalize (takeEntry u c q).2 = w at hrest hself hctr
  have hcl : (w.bump (seqHandlerCntAt c)).cl c = w.cl c := (State.bumpBy_records ..).1 c
  have hregs : (w.cl c).s = (s.cl c).s := by rw [hself, h.regs]
  have hread : ∀ (x y : Cluster) r, x.s = y.s → readS x r = readS y r := fun x y r hxy => by rw [readS, readS, hxy]
  dsimp only
  rw [hcl]
  refine ⟨⟨?_, ?_, ?_, ?_, ?_, ⟨t0, ?_⟩, fun r h3 h4 => ?_⟩, ?_⟩
  · rw [State.setCl_self]
  · rw [State.setCl_self]
  · have hne : seqHandlerCntAt c ≠ seqQlastAt c ∧ seqHandlerCntAt c ≠ seqFrameUseAt c := by
      unfold seqHandlerCntAt seqQlastAt seqFrameUseAt
      omega
    unfold Counted
    rw [(State.setCl_records ..).2.2.2.2.2.2.2.2.2.2.2.2.2.1, ctr_bump_self, hctr _ hne.1 hne.2, h.ctr]
  · rw [lvsReg, State.setCl_self]
    refine (hread _ (writeS (writeS (w.cl c) 3 _) 4 _) _ rfl).trans ?_
    exact (readS_writeS_ne _ _ (by decide)).trans (readS_writeS_self _ 3 _)
  · rw [lvsReg, State.setCl_self]
    refine (hread _ (writeS (writeS (w.cl c) 3 _) 4 _) _ rfl).trans ?_
    exact readS_writeS_self _ 4 _
  · rw [State.setCl_self]
  · rw [lvsReg, State.setCl_self]
    refine (hread _ (writeS (writeS (w.cl c) 3 _) 4 _) _ rfl).trans ?_
    have h3' : r.val ≠ 3 := fun hr => h3 (Fin.ext hr)
    have h4' : r.val ≠ 4 := fun hr => h4 (Fin.ext hr)
    rw [readS_writeS_ne _ _ h4', readS_writeS_ne _ _ h3']
    exact hread _ _ _ hregs
  · rw [State.setCl_self, writeS_eq, writeS_eq (w.cl c), hself]

/-- A slot without a further entry, or at one of its limits, ends; one that ran longer than it is allowed is counted. -/
theorem slotNext_ends {u : State} {e : SchedEntry} {m t0 n : Nat} (ret : Nat) (h : SlotState s c u)
    (hend : handlerQueue (s.cl c) e = none ∨ imageNat e (0x18 + 8 * m) 2 ≤ n ∨ imageNat e (0x14 + 8 * m) 4 ≤ cluClk u c - t0) :
    let t := slotNext u c e m ret t0 n
    ((t.cl c).seq = .run ∧ (t.cl c).pc = ret ∧ (t.cl c).handler = none ∧ (∀ r : SReg, lvsReg t c r = lvsReg s c r) ∧ SameMem s t) ∧
    (t.cl c).slotsRun = (u.cl c).slotsRun ∧
    (imageNat e (0x14 + 8 * m) 4 < cluClk u c - t0 → Counted (seqHslotOverCntAt c) s t) := by
  have hnone : (if n < imageNat e (0x18 + 8 * m) 2 ∧ cluClk u c - t0 < imageNat e (0x14 + 8 * m) 4 then
      handlerQueue (u.cl c) e else none) = none := by
    rw [h.handlerQueue]
    split
    · exact hend.resolve_right (by omega)
    · rfl
  have hnext : slotNext u c e m ret t0 n =
      ((if cluClk u c - t0 > imageNat e (0x14 + 8 * m) 4 then
        (u.bump (seqHslotOverCntAt c)).setField (seqFrameUseAt c) 2 2 1 else u).modCl c fun x =>
          { x with seq := .run, handler := none, pc := ret, readyClk := cluClk (if cluClk u c - t0 > imageNat e (0x14 + 8 * m) 4 then
            (u.bump (seqHslotOverCntAt c)).setField (seqFrameUseAt c) 2 2 1 else u) c + 1 }) := by
    unfold slotNext
    dsimp only
    rw [hnone]
  rw [hnext]
  generalize hw : (if cluClk u c - t0 > imageNat e (0x14 + 8 * m) 4 then
    (u.bump (seqHslotOverCntAt c)).setField (seqFrameUseAt c) 2 2 1 else u) = w
  have hrest : w = { u with regs := w.regs } := by
    rw [← hw]
    split
    · rw [bump_eq]
      rfl
    · rfl
  have hcl : w.cl c = u.cl c := by rw [hrest]; rfl
  dsimp only
  refine ⟨⟨?_, ?_, ?_, fun r => ?_, fun a => ?_⟩, ?_, fun hover => ?_⟩
  · rw [State.modCl, State.setCl_self]
  · rw [State.modCl, State.setCl_self]
  · rw [State.modCl, State.setCl_self]
  · rw [lvsReg, State.modCl, State.setCl_self, lvsReg, readS, readS, hcl, h.regs]
  · rw [State.modCl, (State.setCl_fields ..).2.2.2.1, hrest, h.mem]
  · rw [State.modCl, State.setCl_self, hcl]
  · have hne : seqHslotOverCntAt c ≠ seqFrameUseAt c := by
      unfold seqHslotOverCntAt seqFrameUseAt
      omega
    unfold Counted
    rw [State.modCl, (State.setCl_records ..).2.2.2.2.2.2.2.2.2.2.2.2.2.1, ← hw, if_pos hover]
    refine (ctr_setReg_ne _ _ hne).trans ?_
    rw [ctr_bump_self, h.ctr]

/-- Whether it takes an entry or ends, a slot leaves the record of the slots that have run. -/
theorem slotNext_slotsRun {u : State} (e : SchedEntry) (m ret t0 n : Nat) (h : SlotState s c u) :
    ((slotNext u c e m ret t0 n).cl c).slotsRun = (u.cl c).slotsRun := by
  by_cases hn : n < imageNat e (0x18 + 8 * m) 2
  · by_cases hused : cluClk u c - t0 < imageNat e (0x14 + 8 * m) 4
    · cases hq : handlerQueue (s.cl c) e with
      | none => exact (slotNext_ends ret h (.inl hq)).2.1
      | some q => exact (slotNext_begins ret h hn hused hq).2
    · exact (slotNext_ends ret h (.inr (.inr (Nat.le_of_not_lt hused)))).2.1
  · exact (slotNext_ends ret h (.inr (.inl (Nat.le_of_not_lt hn)))).2.1

/-! ### HSLOT and HEND -/

theorem slotState_hslot (s : State) (c : ClusterId) (l : List Nat) :
    SlotState s c ((lvsNow s c).setCl c { s.cl c with slotsRun := l }) where
  regs := by rw [State.setCl_self]
  queues := by rw [State.setCl_self]
  decl := declOf_lvsNow s c c
  ctr := ctr_lvsNow s c
  mem := mem_lvsNow s c

theorem slotState_hend (s : State) (c : ClusterId) (k : Nat) : SlotState s c (advClock (lvsNow s c) (cluRgn c) k) where
  regs := by rw [cl_advClock, cl_lvsNow]
  queues := by rw [cl_advClock, cl_lvsNow]
  decl q := by
    rw [← declOf_lvsNow s c c q, advClock_eq]
    rfl
  ctr a := by rw [ctr_advClock, ctr_lvsNow]
  mem := by rw [mem_advClock, mem_lvsNow]

/-- HSLOT outside a handler. -/
theorem exec_hslot {k : Imm14} {e : SchedEntry} (h : LvsAt s c (.hslot c k)) (hseq : (s.cl c).seq = .run)
    (he : schedOf s c = some e) :
    exec (.hslot c k) s = .next (
      if (s.cl c).replay.isSome ∨ k.toNat % 8 ≥ imageNat e 0x10 4 ∨ (s.cl c).slotsRun.contains (k.toNat % 8) = true then
        lvsDone (lvsNow s c) c 1 (s.cl c)
      else slotNext ((lvsNow s c).setCl c { s.cl c with slotsRun := insSorted (s.cl c).slotsRun (k.toNat % 8) }) c e (k.toNat % 8)
        ((s.cl c).pc + 4) (cluClk (lvsNow s c) c) 0) := by
  have hexec : execHslot c k s = _ := lvs_next h _
  dsimp only at hexec
  rw [cl_lvsNow, if_neg (by rw [hseq]; decide), schedOf_lvsNow, he] at hexec
  exact hexec

theorem exec_hend {e : SchedEntry} {q0 ret m t0 n : Nat} (h : LvsAt s c (.hend c)) (he : schedOf s c = some e)
    (hh : (s.cl c).handler = some (q0, ret, m, t0, n)) :
    exec (.hend c) s = .next (slotNext (advClock (lvsNow s c) (cluRgn c) (cluClk (lvsNow s c) c + 1)) c e m ret t0 n) := by
  have hexec : execHend c s = _ := lvs_next h _
  rw [cl_lvsNow, schedOf_lvsNow, hh, he] at hexec
  exact hexec

/-- Settles O18: a slot goes on as `slotNext` says, from HSLOT with no handler run and from HEND with those that have. -/
theorem lvsFrameEndAndHandlers : Obligations.LvsFrameEndAndHandlers := by
  intro s c k e x m allow maxmsg begins ends
  refine ⟨goes_fend, fun h hseq hl => ?_, fun h hseq hl => ?_, fun h hseq he => ⟨fun hskip => ?_, fun hr hm hnot => ?_⟩,
    fun h hh hl => ?_, fun h he q0 ret m t0 n hh => ?_⟩
  · have hexec : execFend c s = _ := lvs_next h _
    dsimp only at hexec
    rw [cl_lvsNow, if_pos hseq] at hexec
    exact traps_lvsNow 0 h hl hexec
  · have hexec : execHslot c k s = _ := lvs_next h _
    dsimp only at hexec
    rw [cl_lvsNow, if_pos hseq] at hexec
    exact traps_lvsNow 0 h hl hexec
  · have hexec := exec_hslot h hseq he
    rw [if_pos (by rwa [List.contains_iff_mem])] at hexec
    exact setsReg_zero hexec
  · have hexec := exec_hslot h hseq he
    rw [if_neg (by
      rw [List.contains_iff_mem]
      rintro (hs | hs | hs)
      · rw [hr] at hs
        cases hs
      · exact absurd hm (Nat.not_lt_of_le hs)
      · exact hnot hs)] at hexec
    have hslot := slotState_hslot s c (insSorted x.slotsRun m)
    have hused : ∀ y : Cluster, cluClk ((lvsNow s c).setCl c y) c - cluClk (lvsNow s c) c = 0 := fun _ => Nat.sub_self _
    refine ⟨_, hexec, ?_, fun q hq ha hmm => ?_, fun hend => ?_⟩
    · rw [slotNext_slotsRun e m _ _ _ hslot, State.setCl_self]
      exact (mem_insSorted ..).2 (.inl rfl)
    · exact (slotNext_begins _ hslot hmm (by rwa [hused]) hq).1
    · exact (slotNext_ends _ hslot (hend.imp_right fun hlim =>
        hlim.symm.imp Nat.le_of_eq fun ha => by rw [hused]; exact Nat.le_of_eq ha)).1
  · have hexec : execHend c s = _ := lvs_next h _
    rw [cl_lvsNow, hh] at hexec
    exact traps_lvsNow 0 h hl hexec
  · have hslot := slotState_hend s c (cluClk (lvsNow s c) c + 1)
    refine ⟨_, exec_hend h he hh, fun q hq hn hused => (slotNext_begins ret hslot hn hused hq).1, fun hend => ?_⟩
    obtain ⟨hends, -, hover⟩ := slotNext_ends ret hslot hend
    exact ⟨hends, hover⟩

end Sys2Proof.Machine
end

section
/-! The dispatch queue: its head leaves for a unit or for the commit queue, and WAITs (O20). -/

namespace Sys2Proof.Machine

variable {s : State} {c : ClusterId} {d : Desc} {rest : List Desc} {i : Instr}

theorem noteRoom_ctr_ne (s : State) (c : Nat) {a : Nat} (h : a ≠ seqDqFullCntAt c) : (noteRoom s c).ctr a = s.ctr a := by
  unfold noteRoom
  dsimp only
  split
  · rw [ctr_bumpBy_ne _ h]
    rfl
  · rfl

theorem dqHead_some (hdq : (s.cl c).dq = d :: rest) (hrun : rgnRuns s (cluRgn c) = true) : dqHead s c = some d := by
  unfold dqHead
  rw [hdq]
  exact if_pos hrun

/-- The state in whose region clock the head of the dispatch queue leaves it (R132, R133). -/
def headClock (s : State) (c : Nat) (d : Desc) : State := advClock s (cluRgn c) (max (d.at_ + 1) (s.cl c).dqClk)

/-- A cluster whose dispatch queue has lost its head in region clock `now`. -/
def Cluster.popped (x : Cluster) (rest : List Desc) (now : Nat) : Cluster :=
  { x with dq := rest, waiting := false, stallOpen := false, dqClk := now + 1 }

/-- From s to t the head of the dispatch queue has left, with what happens beside it but not at cluster c itself. -/
def HeadLeft (c : Nat) (d : Desc) (s t : State) : Prop :=
  OnlyCl c s t ∧ SameMem s t ∧ RegsBut [seqDqFullCntAt c] s t ∧ t.fab = (headClock s c d).fab ∧
  (s.ctr (seqDqFullCntAt c) ≤ 0xFFFFFFFFFFFF → t.ctr (seqDqFullCntAt c) = min (s.ctr (seqDqFullCntAt c) +
    (if (s.cl c).stallOpen = true then cluClk (headClock s c d) c - (s.cl c).stallAt else 0)) 0xFFFFFFFFFFFF)

/-- The head leaves the dispatch queue. -/
theorem dqPop_facts (hdq : (s.cl c).dq = d :: rest) :
    let t := dqPop s c d
    HeadLeft c d s t ∧ t.cl c = (s.cl c).popped rest (cluClk (headClock s c d) c) ∧ (∀ k, t.un k = s.un k) ∧
    (∀ a, a ≠ seqDqFullCntAt c → t.ctr a = s.ctr a) := by
  obtain ⟨heq, hother, hself, hregs, hctr⟩ := noteRoom_facts (headClock s c d) c
  have hne : ∀ a, a ≠ seqDqFullCntAt c → (noteRoom (headClock s c d) c).ctr a = (headClock s c d).ctr a :=
    fun a => noteRoom_ctr_ne _ _
  have hclk : ∀ x, cluClk ((noteRoom (headClock s c d) c).setCl c x) c = cluClk (headClock s c d) c := fun x => by rw [heq]; rfl
  have hpop : dqPop s c d = (noteRoom (headClock s c d) c).modCl c fun x =>
    { x with dq := x.dq.drop 1, waiting := false, dqClk := cluClk (noteRoom (headClock s c d) c) c + 1 } := rfl
  have hcl : ∀ k, (headClock s c d).cl k = s.cl k := fun _ => cl_advClock ..
  have hun : ∀ k, (headClock s c d).un k = s.un k := fun _ => un_advClock ..
  have hreg : ∀ a, (headClock s c d).reg a = s.reg a := fun _ => reg_advClock ..
  have hctr0 : ∀ a, (headClock s c d).ctr a = s.ctr a := fun _ => ctr_advClock ..
  have hmem : (headClock s c d).mem = s.mem := mem_advClock ..
  have hfull : dqFullClocks (headClock s c d) c =
      if (s.cl c).stallOpen = true then cluClk (headClock s c d) c - (s.cl c).stallAt else 0 := by
    rw [dqFullClocks, hcl]
  have hclk' : cluClk (noteRoom (headClock s c d) c) c = cluClk (headClock s c d) c := by rw [heq]; rfl
  rw [hfull] at hctr
  rw [hcl] at hself
  simp only [hctr0] at hctr hne
  intro t
  rw [show t = _ from hpop, hclk']
  unfold HeadLeft
  generalize headClock s c d = v at *
  generalize noteRoom v c = w at *
  refine ⟨⟨fun k hk => ?_, fun a => ?_, fun a ha => ?_, ?_, hctr⟩, ?_, fun k => ?_, hne⟩
  · rw [State.modCl, State.setCl_cl, if_neg hk, hother k hk, hcl]
  · show memByte w.mem a = _
    rw [heq, hmem]
  · exact (hregs a ha).trans (hreg a)
  · show w.fab = v.fab
    rw [heq]
  · rw [State.modCl, State.setCl_self, hself, Cluster.popped, hdq]
    rfl
  · show w.un k = _
    rw [heq]
    exact hun k

/-- DISPATCH_HEAD_DEPART of a descriptor for a unit. -/
theorem exec_dispatchHeadDepart_unit (hhead : dqHead s c = some d) (h6 : d.cls ≠ 6) (h7 : d.cls ≠ 7)
    (hroom : (s.un (4 * c.val + d.unit)).uq.length < 16) : exec (.dispatchHeadDepart c) s =
      .next ((dqPop s c d).modUn (4 * c.val + d.unit) fun x => { x with uq := x.uq ++ [d] }) := by
  show execDispatchHeadDepart c s = _
  unfold execDispatchHeadDepart
  rw [hhead]
  dsimp only
  rw [if_neg h6, if_neg h7, decide_eq_true hroom]
  rfl

theorem goes_headDepart (hdq : (s.cl c).dq = d :: rest) (hrun : rgnRuns s (cluRgn c) = true) (h6 : d.cls ≠ 6) (h7 : d.cls ≠ 7)
    (hroom : (s.un (4 * c.val + d.unit)).uq.length < 16) : Goes (.dispatchHeadDepart c) s fun t =>
    HeadLeft c d s t ∧ t.cl c = (s.cl c).popped rest (cluClk (headClock s c d) c) ∧
    t.un (4 * c.val + d.unit) = { s.un (4 * c.val + d.unit) with uq := (s.un (4 * c.val + d.unit)).uq ++ [d] } ∧
    ∀ k, k ≠ 4 * c.val + d.unit → t.un k = s.un k := by
  obtain ⟨hleft, hself, hun, -⟩ := dqPop_facts hdq
  refine ⟨_, exec_dispatchHeadDepart_unit (dqHead_some hdq hrun) h6 h7 hroom, hleft, hself, ?_, fun k hk => ?_⟩
  · rw [un_modUn_self, hun]
  · exact (onlyUn_modUn _ _ _ k hk).trans (hun k)

/-! ### Illegal descriptors at the head -/

/-- What a completion leaves of its cluster, beside the group it counts in. -/
theorem Cluster.queues_of_noEnd {x y : Cluster} (h : x.noEnd = y.noEnd) :
    x.dq = y.dq ∧ x.commitQ = y.commitQ ∧ x.waiting = y.waiting := by
  show x.noEnd.dq = y.noEnd.dq ∧ x.noEnd.commitQ = y.noEnd.commitQ ∧ x.noEnd.waiting = y.noEnd.waiting
  rw [h]
  exact ⟨rfl, rfl, rfl⟩

/-- A completion leaves the dispatch queue and the commit queue of its cluster as they are. -/
theorem complete_queues (s : State) (c did st : Nat) :
    ((complete s c did st).cl c).dq = (s.cl c).dq ∧ ((complete s c did st).cl c).commitQ = (s.cl c).commitQ ∧
    ((complete s c did st).cl c).waiting = (s.cl c).waiting := by
  cases h : find? (s.cl c).live did with
  | none =>
    rw [complete_of_not_open st h]
    exact ⟨rfl, rfl, rfl⟩
  | some g =>
    obtain ⟨-, hself, -⟩ := complete_law st h
    exact (Cluster.queues_of_noEnd hself :)

theorem descError_queues (s : State) (c : Nat) (d : Desc) (code : Nat) :
    ((descError s c d code).cl c).dq = (s.cl c).dq ∧ ((descError s c d code).cl c).commitQ = (s.cl c).commitQ := by
  have hsame : ∀ x a b : Nat, ((s.setReg a x).bump b).cl c = s.cl c := fun x a b => by simp [State.bump]
  unfold descError
  dsimp only
  obtain ⟨hdq, hcommits, -⟩ := complete_queues ((s.setReg (seqDescErrAt c) _).bump (seqDescErrCntAt c)) c d.did stError
  exact ⟨hdq.trans (by rw [hsame]), hcommits.trans (by rw [hsame])⟩

/-- The head of the dispatch queue is illegal: it leaves and completes ERROR (R146). -/
theorem errorNext_dqPop (hdq : (s.cl c).dq = d :: rest) {g : Nat} (hlive : find? (s.cl c).live d.did = some g) (code : Nat) :
    let t := errorNext (dqPop s c d) c d code
    (t.cl c).dq = rest ∧ (t.cl c).commitQ = (s.cl c).commitQ ∧ find? (t.cl c).live d.did = none ∧
    findD (t.cl c).grpFlags g 0 = findD (s.cl c).grpFlags g 0 ||| stError ∧ Counted (seqDescErrCntAt c) s t ∧ SameMem s t := by
  obtain ⟨⟨-, hmem, -⟩, hself, -, hctr⟩ := dqPop_facts hdq
  have hne : seqDescErrCntAt c ≠ seqDqFullCntAt c := by
    unfold seqDescErrCntAt seqDqFullCntAt
    omega
  intro t
  show _ ∧ _
  unfold t errorNext
  generalize hw : advClock (dqPop s c d) _ _ = w
  have hwcl : w.cl c = (s.cl c).popped rest (cluClk (headClock s c d) c) := by rw [← hw, cl_advClock, hself]
  obtain ⟨⟨hopen, hgroup, -⟩, hmem', -, -, -, hcount⟩ := descError_facts w c d code
  obtain ⟨hdq', hcommits'⟩ := descError_queues w c d code
  rw [hwcl] at hgroup hdq' hcommits'
  obtain ⟨-, hflags⟩ := hgroup g hlive
  simp only [lateStatus, stError, Nat.reduceBEq, Bool.and_false, Bool.false_eq_true, if_false] at hflags
  refine ⟨hdq', hcommits', hopen, hflags, ?_, fun a => ?_⟩
  · rw [Counted, hcount, ← hw, ctr_advClock, hctr _ hne]
  · rw [hmem', ← hw, mem_advClock]
    exact hmem a

/-! ### COMMITs at the head -/

/-- The commits of cluster c after COMMIT d has entered: it waits for the open descriptors of its groups dispatched before it (R154). -/
def commitsWith (x : Cluster) (d : Desc) : List Commit :=
  x.commitQ ++ [{ d := d, waits := (x.live.filter fun p => p.1 < d.did && bit (d.f 95 80) p.2).map (·.1) }]

theorem enterCommit_legal (h : illegal (dqPop s c d) c d = none) :
    enterCommit s c d = (dqPop s c d).setCl c { (dqPop s c d).cl c with commitQ := commitsWith ((dqPop s c d).cl c) d } := by
  unfold enterCommit
  dsimp only
  rw [h]
  rfl

theorem enterCommit_illegal {code : Nat} (h : illegal (dqPop s c d) c d = some code) :
    enterCommit s c d = errorNext (dqPop s c d) c d code := by
  unfold enterCommit
  dsimp only
  rw [h]

theorem exec_dispatchHeadDepart_commit (hhead : dqHead s c = some d) (h7 : d.cls = 7) (hroom : (s.cl c).commitQ.length < 8) :
    exec (.dispatchHeadDepart c) s = .next (enterCommit s c d) := by
  show execDispatchHeadDepart c s = _
  unfold execDispatchHeadDepart
  rw [hhead]
  dsimp only
  rw [if_neg (by omega), if_pos h7, decide_eq_true hroom]
  rfl

theorem exec_commit_head (hhead : dqHead s c = some d) (h7 : d.cls = 7) (hroom : (s.cl c).commitQ.length < 8) :
    exec (.commit c) s = .next (enterCommit s c d) := by
  show execCommit c s = _
  unfold execCommit
  rw [hhead]
  dsimp only
  rw [decide_eq_true hroom, h7]
  rfl

theorem goes_enterCommit (hexec : exec i s = .next (enterCommit s c d)) (hdq : (s.cl c).dq = d :: rest)
    (hlegal : illegal (dqPop s c d) c d = none) : Goes i s fun t => HeadLeft c d s t ∧
      t.cl c = { (s.cl c).popped rest (cluClk (headClock s c d) c) with commitQ := commitsWith (s.cl c) d } := by
  obtain ⟨⟨hother, hleft⟩, hself, -⟩ := dqPop_facts hdq
  refine ⟨_, hexec, ?_⟩
  rw [enterCommit_legal hlegal, hself]
  refine ⟨⟨fun k hk => ?_, hleft⟩, State.setCl_self ..⟩
  rw [State.setCl_cl, if_neg hk, hother k hk]

/-! ### WAITs -/

/-- A WAIT command that is to judge the WAIT at the head marks it waiting, or completes it ERROR where it is illegal. -/
theorem waitHead_head {k : Nat} (hhead : dqHead s c = some d) (h6 : d.cls = 6) (hw : (s.cl c).waiting = false)
    (hk : d.cond = k ∨ d.cond > 4) : waitHead k c s =
      .next ((illegal s c d).elim ((advClock s (cluRgn c) (d.at_ + 1)).modCl c fun x => { x with waiting := true })
        fun code => errorNext (dqPop s c d) c d code) := by
  unfold waitHead
  rw [hhead]
  refine (if_pos ⟨h6, hw, hk⟩).trans ?_
  cases illegal s c d with
  | none => rfl
  | some code => rfl

/-- A legal WAIT is marked waiting: nothing else changes but time. -/
theorem goes_waitHead {k : Nat} (hexec : exec i s = waitHead k c s) (hhead : dqHead s c = some d) (h6 : d.cls = 6)
    (hw : (s.cl c).waiting = false) (hk : d.cond = k ∨ d.cond > 4) (hlegal : illegal s c d = none) :
    Goes i s fun t => t.cl c = { s.cl c with waiting := true } ∧ (∀ k, k ≠ c.val → t.cl k = s.cl k) ∧ SameMem s t ∧
      RegsBut [] s t := by
  rw [waitHead_head hhead h6 hw hk, hlegal, Option.elim_none] at hexec
  refine ⟨_, hexec, ?_, fun k hk => ?_, fun a => ?_, fun a _ => reg_advClock ..⟩
  · rw [State.modCl, State.setCl_self, cl_advClock]
  · rw [State.modCl, State.setCl_cl, if_neg hk, cl_advClock]
  · show memByte (advClock ..).mem a = _
    rw [mem_advClock]

/-- The state in which a satisfied WAIT leaves: a FRAME_TIME waits for its time, a QUEUE_NE of a replay run breaches it (R153, R288). -/
def waitOver (s : State) (c : ClusterId) (d : Desc) : State :=
  let t := if d.cond = 2 then advNs s (cluSite c) ((s.cl c).frameNs + d.f 63 40) else s
  if d.cond = 1 ∧ (t.cl c).replay.isSome = true then breach t c else t

theorem exec_waitSatisfied (hhead : dqHead s c = some d) (h6 : d.cls = 6) (hw : (s.cl c).waiting = true)
    (hholds : waitHolds s c d = true) :
    exec (.waitSatisfied c) s = .next (complete (dqPop (waitOver s c d) c d) c d.did stOk) := by
  show execWaitSatisfied c s = _
  unfold execWaitSatisfied
  rw [hhead]
  dsimp only
  rw [if_pos ⟨h6, hw, hholds⟩]
  rfl

/-- Nothing but time and the mark of a replay run changes before a satisfied WAIT leaves. -/
theorem waitOver_facts (s : State) (c : ClusterId) (d : Desc) :
    let t := waitOver s c d
    OnlyCl c s t ∧ (∃ r, t.cl c = { s.cl c with replay := r }) ∧ t.mem = s.mem := by
  intro t
  unfold t waitOver
  dsimp only
  generalize hw : (if d.cond = 2 then advNs s (cluSite c) ((s.cl c).frameNs + d.f 63 40) else s) = w
  have hcl : ∀ k, w.cl k = s.cl k := fun k => by
    rw [← hw]
    split
    · exact cl_advFab ..
    · rfl
  have hmem : w.mem = s.mem := by
    rw [← hw]
    split
    · exact mem_advFab ..
    · rfl
  split
  · refine ⟨fun k hk => ?_, ⟨_, (breach_cl_self w c).trans (by rw [hcl])⟩, hmem⟩
    rw [breach, State.modCl, State.setCl_cl, if_neg hk, hcl]
  · exact ⟨fun k _ => hcl k, ⟨(s.cl c).replay, hcl c⟩, hmem⟩

theorem goes_waitSatisfied (hdq : (s.cl c).dq = d :: rest) (hrun : rgnRuns s (cluRgn c) = true) (h6 : d.cls = 6)
    (hw : (s.cl c).waiting = true) (hholds : waitHolds s c d = true) {g : Nat} (hlive : find? (s.cl c).live d.did = some g) :
    Goes (.waitSatisfied c) s fun t =>
      (t.cl c).dq = rest ∧ (t.cl c).waiting = false ∧ find? (t.cl c).live d.did = none ∧
      (t.cl c).grpCnt = grpAdd (s.cl c).grpCnt g ∧
      findD (t.cl c).grpFlags g 0 = findD (s.cl c).grpFlags g 0 ||| (if (s.cl c).late.isSome then stSuspect else stOk) ∧
      (∀ k, k ≠ c.val → t.cl k = s.cl k) ∧ SameMem s t := by
  refine ⟨_, exec_waitSatisfied (dqHead_some hdq hrun) h6 hw hholds, ?_⟩
  obtain ⟨hother, ⟨r, hself⟩, hmem⟩ := waitOver_facts s c d
  generalize waitOver s c d = v at hother hself hmem
  have hdq' : (v.cl c).dq = d :: rest := by rw [hself]; exact hdq
  obtain ⟨⟨hother', hmem', -⟩, hself', -⟩ := dqPop_facts hdq'
  rw [hself] at hself'
  generalize dqPop v c d = w at hother' hmem' hself'
  obtain ⟨⟨hopen, hgroup, hothers⟩, hframe⟩ := complete_completed w c d.did stOk
  obtain ⟨hq, -, hwait⟩ := complete_queues w c d.did stOk
  rw [hself'] at hgroup hq hwait
  obtain ⟨hcnt, hflags⟩ := hgroup g hlive
  refine ⟨hq, hwait, hopen, hcnt, ?_, fun k hk => ?_, fun a => ?_⟩
  · rw [hflags]
    simp only [lateStatus, Cluster.popped, stOk, beq_self_eq_true, Bool.and_true]
  · rw [hothers k hk, hother' k hk, hother k hk]
  · rw [hframe.mem, hmem', hmem]

/-- Settles O20: what the head of the dispatch queue is decides where it goes. -/
theorem dispatchQueueHead : Obligations.DispatchQueueHead := by
  intro s c d rest x hdq hrun u v popped leaves errs waits commits
  have hhead : dqHead s c = some d := dqHead_some hdq hrun
  have hcommits : ∀ i, (d.cls = 7 → x.commitQ.length < 8 → exec i s = .next (enterCommit s c d)) → commits i :=
    fun i hexec h7 hroom => by
      refine ⟨fun hlegal => goes_enterCommit (hexec h7 hroom) hdq hlegal, fun code g hbad hlive => ?_⟩
      exact ⟨_, (hexec h7 hroom).trans (by rw [enterCommit_illegal hbad]), errorNext_dqPop hdq hlive code⟩
  have hwaits : ∀ i k, exec i s = waitHead k c s → waits i k := fun i k hexec hk h6 hw => by
    refine ⟨fun hlegal => goes_waitHead hexec hhead h6 hw hk hlegal, fun code g hbad hlive => ?_⟩
    refine ⟨_, hexec.trans ?_, errorNext_dqPop hdq hlive code⟩
    rw [waitHead_head hhead h6 hw hk, hbad, Option.elim_some]
  exact ⟨goes_headDepart hdq hrun, hcommits _ (exec_dispatchHeadDepart_commit hhead), hcommits _ (exec_commit_head hhead),
    hwaits _ 0 rfl, hwaits _ 1 rfl, hwaits _ 2 rfl, hwaits _ 3 rfl, hwaits _ 4 rfl,
    fun h6 hw hholds g hlive => goes_waitSatisfied hdq hrun h6 hw hholds hlive⟩

end Sys2Proof.Machine
end

section
/-! A cluster's side of coherence: what it sends, what it drops, and how its Get ends (O37). -/

namespace Sys2Proof.Machine

variable {s : State} {r : RegionId} {c : ClusterId} {p q : Packet} {i : Instr}

/-! ### Control packets of a cluster -/

/-- Does a control packet of cluster c pass its bucket at once (R239, R243)? -/
def ctrlPasses (s : State) (c : Nat) : Bool := (s.cl c).ctrlOut.isEmpty && mayPass s (bucketOf c cCtrl)

/-- From s to t cluster c has told q: q has passed to the mesh, or waits behind the others on the bucket. -/
def Tells (c : Nat) (q : Packet) (s t : State) : Prop :=
  if ctrlPasses s c then Sends (cluSite c) (4 + c % 4 / 2) (fromClu c { q with cls := cCtrl }) s t ∧ (t.cl c).ctrlOut = []
  else (t.cl c).ctrlOut = (s.cl c).ctrlOut ++ [{ q with cls := cCtrl }]

theorem sendCtrl_of_passes {c : Nat} (h : ctrlPasses s c = true) (q : Packet) :
    sendCtrl s c q = injectClu (charge s (bucketOf c cCtrl)) c { q with cls := cCtrl } :=
  if_pos h

theorem sendCtrl_of_waits {c : Nat} (h : ¬ ctrlPasses s c = true) (q : Packet) : sendCtrl s c q =
    startBucketWait (s.modCl c fun x => { x with ctrlOut := x.ctrlOut ++ [{ q with cls := cCtrl }] }) c cCtrl :=
  if_neg h

/-- A control packet changes only the packets of cluster c that wait, buckets and routers. -/
theorem sendCtrl_facts (s : State) (c : Nat) (q : Packet) :
    let t := sendCtrl s c q
    t = { s with clusters := t.clusters, buckets := t.buckets, routers := t.routers } ∧ OnlyCl c s t ∧
    t.cl c = { s.cl c with ctrlOut := (t.cl c).ctrlOut } ∧ Tells c q s t := by
  unfold Tells
  dsimp only
  by_cases hp : ctrlPasses s c = true
  · rw [sendCtrl_of_passes hp, if_pos hp]
    exact ⟨rfl, fun _ _ => rfl, rfl, sends_inject (charge s _) .., List.isEmpty_iff.1 (Bool.and_eq_true_iff.1 hp).1⟩
  · rw [sendCtrl_of_waits hp, if_neg hp]
    have hself : (s.modCl c fun x => { x with ctrlOut := x.ctrlOut ++ [{ q with cls := cCtrl }] }).cl c =
      { s.cl c with ctrlOut := (s.cl c).ctrlOut ++ [{ q with cls := cCtrl }] } := State.setCl_self ..
    have hother : OnlyCl c s (s.modCl c fun x => { x with ctrlOut := x.ctrlOut ++ [{ q with cls := cCtrl }] }) :=
      fun k hk => (State.setCl_cl ..).trans (if_neg hk)
    have heq : (s.modCl c fun x => { x with ctrlOut := x.ctrlOut ++ [{ q with cls := cCtrl }] }) = { s with clusters := _ } := rfl
    generalize s.modCl c _ = w at hself hother heq
    obtain ⟨b, hb⟩ := startBucketWait_eq w c cCtrl
    rw [hb]
    refine ⟨by rw [heq], hother, ?_, congrArg Cluster.ctrlOut hself⟩
    show w.cl c = { s.cl c with ctrlOut := (w.cl c).ctrlOut }
    rw [hself]

theorem mayPass_congr {s u : State} (hb : u.buckets = s.buckets) (hf : u.fab = s.fab) (b : Nat) : mayPass u b = mayPass s b := by
  unfold mayPass balance State.bucket
  rw [hb, hf]

/-- What is told from a state that differs from s in nothing that telling depends on is told from s. -/
theorem Tells.congr {u t : State} {c : Nat} (h : Tells c q u t) (hb : u.buckets = s.buckets) (hf : u.fab = s.fab)
    (hout : (u.cl c).ctrlOut = (s.cl c).ctrlOut) (hinj : (u.rtr (cluSite c)).inject = (s.rtr (cluSite c)).inject) :
    Tells c q s t := by
  have hp : ctrlPasses u c = ctrlPasses s c := by
    unfold ctrlPasses
    rw [hout, mayPass_congr hb hf]
  unfold Tells Sends at h ⊢
  rwa [hp, hout, hinj] at h

theorem inject_popEject (s : State) (site port agt k : Nat) :
    ((popEject s site port agt).rtr k).inject = (s.rtr k).inject := by
  unfold popEject State.modRtr
  dsimp only
  rw [State.setRtr_rtr]
  split
  · next h => rw [h]
  · rfl

/-! ### Coherence messages for a cluster -/

/-- The state after cluster c has taken p from its region's ejection buffer. -/
def cohTaken (s : State) (r : RegionId) (p : Packet) : State := popEject s (portOfRegion r).1 (portOfRegion r).2 p.dagt

/-- p is the coherence message of kind sub at the head of region r's ejection buffer. -/
def CohInbox (s : State) (r : RegionId) (p : Packet) (sub : Nat) : Prop :=
  ejected s (portOfRegion r).1 (portOfRegion r).2 (fun p => p.typ == tCoh && p.sub == sub) = some p

/-- A coherence message is served by the cluster it is for. -/
theorem serveCoh_eq {sub : Nat} (h : CohInbox s r p sub) (hc : agentClu p.dsite p.dagt = some c.val)
    (f : Nat → Packet → State → State) : serveCoh r sub f s = .next (f c p (cohTaken s r p)) := by
  refine (serve_eq _ _ h).trans ?_
  rw [hc]
  rfl

/-- Only cluster c, buckets and routers change. -/
def Quiet (c : Nat) (s t : State) : Prop :=
  OnlyCl c s t ∧ t = { s with clusters := t.clusters, buckets := t.buckets, routers := t.routers }

theorem Quiet.trans {c : Nat} {s t u : State} (h : Quiet c s t) (h' : Quiet c t u) : Quiet c s u := by
  obtain ⟨hcl, heq⟩ := h
  obtain ⟨kcl, keq⟩ := h'
  refine ⟨fun j hj => (kcl j hj).trans (hcl j hj), ?_⟩
  rw [keq, heq]

theorem quiet_cohTaken (s : State) (r : RegionId) (c : Nat) (p : Packet) : Quiet c s (cohTaken s r p) :=
  ⟨fun _ _ => rfl, rfl⟩

theorem quiet_modCl (s : State) (c : Nat) (f : Cluster → Cluster) : Quiet c s (s.modCl c f) :=
  ⟨fun _ hk => (State.setCl_cl ..).trans (if_neg hk), rfl⟩

theorem quiet_sendCtrl (s : State) (c : Nat) (q : Packet) : Quiet c s (sendCtrl s c q) := by
  obtain ⟨heq, hcl, -⟩ := sendCtrl_facts s c q
  exact ⟨hcl, heq⟩

/-- Cluster c takes p, changes its own state but not its waiting packets, and tells q. -/
theorem taken_tells (f : Cluster → Cluster) (hf : (f (s.cl c)).ctrlOut = (s.cl c).ctrlOut) (q : Packet) :
    let t := sendCtrl ((cohTaken s r p).modCl c f) c q
    Quiet c s t ∧ Tells c q s t ∧ t.cl c = { f (s.cl c) with ctrlOut := (t.cl c).ctrlOut } := by
  intro t
  have hself : ((cohTaken s r p).modCl c f).cl c = f (s.cl c) := State.setCl_self ..
  obtain ⟨-, -, hcl, htells⟩ := sendCtrl_facts ((cohTaken s r p).modCl c f) c q
  rw [hself] at hcl
  refine ⟨((quiet_cohTaken s r c p).trans (quiet_modCl ..)).trans (quiet_sendCtrl ..), htells.congr rfl rfl ?_ ?_, hcl⟩
  · rw [hself, hf]
  · exact inject_popEject ..

/-! ### Lines of the cache -/

theorem cached_filter_self (x : Cluster) (line : Nat) : cached (cacheDrop x line) line = none := by
  unfold cached cacheDrop
  simp

theorem cached_cacheDrop_ne (x : Cluster) {line l : Nat} (h : l ≠ line) : cached (cacheDrop x line) l = cached x l := by
  unfold cached cacheDrop
  rw [List.find?_filter]
  refine congrArg (List.find? · _) (funext fun m => ?_)
  by_cases hm : m.line = l
  · simp [hm, h]
  · simp [hm]

theorem cached_cachePut (x : Cluster) (l : CacheLine) : cached (cachePut x l) l.line = some l := by
  have hnone : (x.cache.filter fun m => m.line != l.line).find? (fun m => m.line == l.line) = none := cached_filter_self x l.line
  unfold cached cachePut
  dsimp only
  rw [List.find?_append, hnone]
  simp

/-- A message that makes the cluster drop its line and tell q. -/
theorem goes_drops (hexec : exec i s = .next (sendCtrl ((cohTaken s r p).modCl c fun x => cacheDrop x p.addr) c q)) :
    Goes i s fun t => Quiet c s t ∧ Tells c q s t ∧ cached (t.cl c) p.addr = none ∧
      ∀ l, l ≠ p.addr → cached (t.cl c) l = cached (s.cl c) l := by
  obtain ⟨hquiet, htells, hcl⟩ := taken_tells (s := s) (r := r) (p := p) (c := c) (fun x => cacheDrop x p.addr) rfl q
  refine ⟨_, hexec, hquiet, htells, ?_, fun l hl => ?_⟩
  · rw [hcl]
    exact cached_filter_self (s.cl c) p.addr
  · rw [hcl]
    exact cached_cacheDrop_ne (s.cl c) hl

/-! ### Forwards, recalls and invalidations -/

theorem owned_cohTaken (s : State) (r : RegionId) (p : Packet) (c : ClusterId) :
    ownedData ((cohTaken s r p).cl c) p.addr = ownedData (s.cl c) p.addr := rfl

/-- The answer of the owner of a line to a message that takes the line away; one that does not own it does nothing. -/
theorem exec_cohFwdgetm (h : CohInbox s r p uFwdGetM) (hc : agentClu p.dsite p.dagt = some c.val) :
    exec (.cohFwdgetm r) s = .next ((ownedData (s.cl c) p.addr).elim (cohTaken s r p) fun d =>
      sendCtrl ((cohTaken s r p).modCl c fun x => cacheDrop x p.addr) c (withPayload (toCluster p.sclu p.addr uData) d)) := by
  refine (show execCohFwdgetm r s = _ from serveCoh_eq h hc _).trans (congrArg _ ?_)
  rw [← owned_cohTaken s r p c]
  cases ownedData ((cohTaken s r p).cl c) p.addr with
  | none => rfl
  | some d => rfl

theorem exec_cohRecall (h : CohInbox s r p uRecall) (hc : agentClu p.dsite p.dagt = some c.val) :
    exec (.cohRecall r) s = .next ((ownedData (s.cl c) p.addr).elim (cohTaken s r p) fun d =>
      sendCtrl ((cohTaken s r p).modCl c fun x => cacheDrop x p.addr) c (withPayload (toHome p.addr uData) d)) := by
  refine (show execCohRecall r s = _ from serveCoh_eq h hc _).trans (congrArg _ ?_)
  rw [← owned_cohTaken s r p c]
  cases ownedData ((cohTaken s r p).cl c) p.addr with
  | none => rfl
  | some d => rfl

theorem exec_cohInv (h : CohInbox s r p uInv) (hc : agentClu p.dsite p.dagt = some c.val) :
    exec (.cohInv r) s = .next (sendCtrl ((cohTaken s r p).modCl c fun x => cacheDrop x p.addr) c
      (if p.rtag = 1 then toHome p.addr uInvAck else toCluster p.sclu p.addr uInvAck)) :=
  show execCohInv r s = _ from serveCoh_eq h hc _

/-- A cluster whose line goes to S. -/
def Cluster.shared (x : Cluster) (line : Nat) : Cluster :=
  { x with cache := x.cache.map fun l => if l.line = line then { l with excl := false } else l }

theorem exec_cohFwdgets (h : CohInbox s r p uFwdGetS) (hc : agentClu p.dsite p.dagt = some c.val) :
    exec (.cohFwdgets r) s = .next ((ownedData (s.cl c) p.addr).elim (cohTaken s r p) fun d =>
      sendCtrl (sendCtrl ((cohTaken s r p).modCl c fun x => x.shared p.addr) c (withPayload (toCluster p.sclu p.addr uData) d)) c
        (withPayload (toHome p.addr uData) d)) := by
  refine (show execCohFwdgets r s = _ from serveCoh_eq h hc _).trans (congrArg _ ?_)
  rw [← owned_cohTaken s r p c]
  cases ownedData ((cohTaken s r p).cl c) p.addr with
  | none => rfl
  | some d => rfl

/-- A packet told after one that waits waits behind it. -/
theorem Tells.waits {c : Nat} (h : Tells c q s t) (hp : ctrlPasses s c = false) :
    (t.cl c).ctrlOut = (s.cl c).ctrlOut ++ [{ q with cls := cCtrl }] := by
  unfold Tells at h
  rwa [hp, if_neg Bool.false_ne_true] at h

theorem ctrlPasses_of_waiting {c : Nat} {l : List Packet} (h : (s.cl c).ctrlOut = l ++ [q]) : ctrlPasses s c = false := by
  unfold ctrlPasses
  rw [h, show (l ++ [q]).isEmpty = false from by simp]
  rfl

theorem goes_cohFwdgets {d : Bytes} (h : CohInbox s r p uFwdGetS) (hc : agentClu p.dsite p.dagt = some c.val)
    (hd : ownedData (s.cl c) p.addr = some d) : Goes (.cohFwdgets r) s fun t => Quiet c s t ∧
      (t.cl c).cache = ((s.cl c).shared p.addr).cache ∧
      (ctrlPasses s c = false → (t.cl c).ctrlOut = (s.cl c).ctrlOut ++
        [{ withPayload (toCluster p.sclu p.addr uData) d with cls := cCtrl }, { withPayload (toHome p.addr uData) d with cls := cCtrl }]) := by
  have hexec := exec_cohFwdgets h hc
  rw [hd, Option.elim_some] at hexec
  obtain ⟨hquiet, htells, hcl⟩ := taken_tells (s := s) (r := r) (p := p) (c := c) (fun x => x.shared p.addr) rfl
    (withPayload (toCluster p.sclu p.addr uData) d)
  generalize sendCtrl ((cohTaken s r p).modCl c fun x => x.shared p.addr) c _ = u at hexec hquiet htells hcl
  obtain ⟨-, -, hcl', htells'⟩ := sendCtrl_facts u c (withPayload (toHome p.addr uData) d)
  refine ⟨_, hexec, hquiet.trans (quiet_sendCtrl ..), ?_, fun hp => ?_⟩
  · rw [hcl', hcl]
  · have hfirst := htells.waits hp
    rw [htells'.waits (ctrlPasses_of_waiting hfirst), hfirst, List.append_assoc]
    rfl

/-! ### The end of a write-back -/

/-- Nothing changes outside cluster c that a program sees: no memory, no register, and no time passes. -/
structure CacheWork (c : Nat) (s t : State) : Prop where
  cl : OnlyCl c s t
  mem : t.mem = s.mem
  regs : t.regs = s.regs
  fab : t.fab = s.fab

theorem CacheWork.rfl' (c : Nat) (s : State) : CacheWork c s s := ⟨fun _ _ => rfl, rfl, rfl, rfl⟩

theorem CacheWork.trans {c : Nat} {s t u : State} (h : CacheWork c s t) (k : CacheWork c t u) : CacheWork c s u :=
  ⟨fun j hj => (k.cl j hj).trans (h.cl j hj), k.mem.trans h.mem, k.regs.trans h.regs, k.fab.trans h.fab⟩

theorem Quiet.cacheWork {c : Nat} {s t : State} (h : Quiet c s t) : CacheWork c s t := by
  obtain ⟨hcl, heq⟩ := h
  exact ⟨hcl, by rw [heq], by rw [heq], by rw [heq]⟩

theorem CacheWork.modCl {c : Nat} {s t : State} (h : CacheWork c s t) (f : Cluster → Cluster) : CacheWork c s (t.modCl c f) :=
  h.trans (quiet_modCl t c f).cacheWork

theorem CacheWork.sendCtrl {c : Nat} {s t : State} (h : CacheWork c s t) (q : Packet) : CacheWork c s (sendCtrl t c q) :=
  h.trans (quiet_sendCtrl t c q).cacheWork

/-- Asking for a missing line is work of the cache alone. -/
theorem cacheWork_tryGet (s : State) (c : Nat) : CacheWork c s (tryGet s c) := by
  have hdraw : ∀ n, CacheWork c s (s.drawChoice n).2 := fun n => ⟨fun _ _ => rfl, rfl, rfl, rfl⟩
  unfold tryGet
  extract_lets x
  split
  · split
    · exact .rfl' ..
    split
    · exact .rfl' ..
    extract_lets ways want r
    have hwant : ∀ u, CacheWork c s u → CacheWork c s (want u) := fun u hu => (hu.modCl _).sendCtrl _
    split
    · exact hwant _ (.rfl' ..)
    split
    · exact .rfl' ..
    split
    · split
      · exact .rfl' ..
      · exact hwant _ (((hdraw _).modCl _).sendCtrl _)
    · exact hwant _ ((hdraw _).modCl _)
  · exact .rfl' ..

/-- A cluster that has no miss, or whose Get is open, asks for nothing. -/
theorem tryGet_of_no_miss {c : Nat} (h : (s.cl c).stall = none ∨ (s.cl c).get.isSome = true) : tryGet s c = s := by
  unfold tryGet
  dsimp only
  obtain h | h := h
  · rw [h]
  · split
    · exact if_pos h
    · rfl

/-- A cluster whose write-back of a line has ended. -/
def Cluster.writtenBack (x : Cluster) (line : Nat) : Cluster := { x with wb := x.wb.filter fun w => w.1 != line }

theorem goes_cohPutack (h : CohInbox s r p uPutAck) (hc : agentClu p.dsite p.dagt = some c.val) :
    Goes (.cohPutack r) s fun t => CacheWork c s t ∧ ((s.cl c).stall = none ∨ (s.cl c).get.isSome = true →
      t = { cohTaken s r p with clusters := t.clusters } ∧ t.cl c = (s.cl c).writtenBack p.addr) := by
  have hself : ((cohTaken s r p).modCl c fun x => x.writtenBack p.addr).cl c = (s.cl c).writtenBack p.addr := State.setCl_self ..
  have hexec : exec (.cohPutack r) s = .next (tryGet ((cohTaken s r p).modCl c fun x => x.writtenBack p.addr) c) :=
    show execCohPutack r s = _ from serveCoh_eq h hc _
  refine ⟨_, hexec, ?_, fun hno => ?_⟩
  · exact ((quiet_cohTaken s r c p).cacheWork.modCl fun x => x.writtenBack p.addr).trans (cacheWork_tryGet ..)
  · rw [tryGet_of_no_miss (by rw [hself]; exact hno)]
    exact ⟨rfl, hself⟩

/-! ### The end of a Get -/

/-- The cluster when its Get of line g has all it waits for: the line is cached, and a miss that waits for it is over. -/
def Cluster.got (x : Cluster) (g : Get) (data : Bytes) (now : Nat) : Cluster :=
  let x := { x with get := none }
  match x.stall with
  | some (.miss line _ d a store) =>
    if line = g.line then
      let x := match store with
        | some w => cachePut x ⟨line, true, lineWith data a w⟩
        | none => writeS (cachePut x ⟨line, g.excl, data⟩) d (lineWord data a)
      { x with stall := none, readyClk := max x.readyClk (now + 1) }
    else cachePut x ⟨g.line, g.excl, data⟩
  | _ => cachePut x ⟨g.line, g.excl, data⟩

/-- The part of a cluster that a reset's flush and the packets it sends do not write. -/
theorem sendCtrl_cl_get (s : State) (c : Nat) (q : Packet) : ((sendCtrl s c q).cl c).get = (s.cl c).get := by
  obtain ⟨-, -, hcl, -⟩ := sendCtrl_facts s c q
  rw [hcl]

theorem flushCache_facts (s : State) (c : Nat) :
    CacheWork c s (flushCache s c) ∧ ((flushCache s c).cl c).get = (s.cl c).get := by
  unfold flushCache
  dsimp only
  refine foldl_inv (fun t => CacheWork c s t ∧ (t.cl c).get = (s.cl c).get) _ _ _ ⟨(CacheWork.rfl' c s).modCl _, ?_⟩
    fun t l _ ht => ⟨ht.1.sendCtrl _, (sendCtrl_cl_get ..).trans ht.2⟩
  rw [State.modCl, State.setCl_self]

theorem got_get (x : Cluster) (g : Get) (data : Bytes) (now : Nat) : (x.got g data now).get = none := by
  unfold Cluster.got
  dsimp only
  split
  · split
    · split
      · rfl
      · rw [writeS_eq]
        rfl
    · rfl
  · rfl

theorem got_absorbing (x : Cluster) (g : Get) (data : Bytes) (now : Nat) : (x.got g data now).absorbing = x.absorbing := by
  unfold Cluster.got
  dsimp only
  split
  · split
    · split
      · rfl
      · rw [writeS_eq]
        rfl
    · rfl
  · rfl

/-- The Get of a cluster ends: the line is cached and the home hears Unblock (R196, R198). -/
theorem finishGet_ends {c : Nat} {g : Get} {data : Bytes} {k : Nat} (hg : (s.cl c).get = some g) (hdata : g.data = some data)
    (hwant : g.acksWant = some k) (hk : k ≤ g.acksGot) : finishGet s c =
      checkEnd (if (s.cl c).absorbing = true then
          flushCache (sendCtrl (s.setCl c ((s.cl c).got g data (cluClk s c))) c (toHome g.line uUnblock)) c
        else sendCtrl (s.setCl c ((s.cl c).got g data (cluClk s c))) c (toHome g.line uUnblock)) c := by
  unfold finishGet
  dsimp only
  rw [hg]
  dsimp only
  rw [hdata, hwant]
  dsimp only
  rw [if_neg (Nat.not_lt_of_le hk)]
  show checkEnd (if ((s.cl c).got g data (cluClk s c)).absorbing = true then _ else _) c = _
  rw [got_absorbing]
  rfl

theorem finishGet_waits {c : Nat} {g : Get} (hg : (s.cl c).get = some g)
    (h : g.data = none ∨ g.acksWant = none ∨ ∃ k, g.acksWant = some k ∧ g.acksGot < k) : finishGet s c = s := by
  unfold finishGet
  dsimp only
  rw [hg]
  dsimp only
  obtain h | h | ⟨k, h, hk⟩ := h
  · rw [h]
  · rw [h]
    split
    · next h => cases h
    · rfl
  · rw [h]
    split
    · next h => cases h; exact if_pos hk
    · rfl

theorem got_of_no_stall {x : Cluster} (h : x.stall = none) (g : Get) (data : Bytes) (now : Nat) :
    x.got g data now = cachePut { x with get := none } ⟨g.line, g.excl, data⟩ := by
  unfold Cluster.got
  dsimp only
  rw [h]

theorem got_of_load {x : Cluster} {g : Get} {e : Bool} {d a : Nat} (h : x.stall = some (.miss g.line e d a none)) (data : Bytes)
    (now : Nat) : x.got g data now =
      { writeS (cachePut { x with get := none } ⟨g.line, g.excl, data⟩) d (lineWord data a) with
        stall := none
        readyClk := max x.readyClk (now + 1) } := by
  unfold Cluster.got
  dsimp only
  rw [h]
  dsimp only
  rw [if_pos rfl, writeS_eq]
  rfl

/-- How a Get of line g with its data ends. -/
structure GetEnds (c : Nat) (g : Get) (data : Bytes) (s t : State) : Prop where
  get : (t.cl c).get = none
  cl : OnlyCl c s t
  mem : t.mem = s.mem
  held : (s.cl c).absorbing = false → (t.cl c).noEnd =
    Cluster.noEnd { (s.cl c).got g data (cluClk s c) with ctrlOut := (t.cl c).ctrlOut }

theorem get_of_noEnd {x y : Cluster} (h : x.noEnd = y.noEnd) : x.get = y.get ∧ x.ctrlOut = y.ctrlOut := by
  show x.noEnd.get = y.noEnd.get ∧ x.noEnd.ctrlOut = y.noEnd.ctrlOut
  rw [h]
  exact ⟨rfl, rfl⟩

theorem finishGet_facts {c : Nat} {g : Get} {data : Bytes} {k : Nat} (hg : (s.cl c).get = some g) (hdata : g.data = some data)
    (hwant : g.acksWant = some k) (hk : k ≤ g.acksGot) : GetEnds c g data s (finishGet s c) := by
  obtain ⟨heq, hcl, hself, -⟩ := sendCtrl_facts (s.setCl c ((s.cl c).got g data (cluClk s c))) c (toHome g.line uUnblock)
  rw [State.setCl_self] at hself
  have hwork : CacheWork c s (sendCtrl (s.setCl c ((s.cl c).got g data (cluClk s c))) c (toHome g.line uUnblock)) :=
    ((CacheWork.rfl' c s).modCl fun _ => (s.cl c).got g data (cluClk s c)).sendCtrl _
  rw [finishGet_ends hg hdata hwant hk]
  generalize sendCtrl (s.setCl c ((s.cl c).got g data (cluClk s c))) c (toHome g.line uUnblock) = u at hself hwork
  have hget : (u.cl c).get = none := by
    rw [hself]
    exact got_get ..
  obtain ⟨hflush, hflushGet⟩ := flushCache_facts u c
  split
  · next ha =>
    have hend := endOnly_checkEnd (flushCache u c) c
    refine ⟨?_, fun j hj => ?_, hend.mem.trans (hflush.mem.trans hwork.mem), fun hn => ?_⟩
    · rw [(get_of_noEnd hend.self).1, hflushGet, hget]
    · rw [hend.cl j hj, hflush.cl j hj, hwork.cl j hj]
    · rw [hn] at ha
      cases ha
  · have hend := endOnly_checkEnd u c
    obtain ⟨hget', hout⟩ := get_of_noEnd hend.self
    refine ⟨hget'.trans hget, fun j hj => ?_, hend.mem.trans hwork.mem, fun _ => ?_⟩
    · rw [hend.cl j hj, hwork.cl j hj]
    · rw [hend.self, hout, ← hself]

theorem cached_of_noEnd {x y : Cluster} (h : x.noEnd = y.noEnd) :
    (∀ l, cached x l = cached y l) ∧ x.stall = y.stall ∧ ∀ d, readS x d = readS y d := by
  show (∀ l, cached x.noEnd l = cached y.noEnd l) ∧ x.noEnd.stall = y.noEnd.stall ∧ ∀ d, readS x.noEnd d = readS y.noEnd d
  rw [h]
  exact ⟨fun _ => rfl, rfl, fun _ => rfl⟩

theorem GetEnds.of_no_stall {c : Nat} {g : Get} {data : Bytes} {t : State} (h : GetEnds c g data s t)
    (ha : (s.cl c).absorbing = false) (hs : (s.cl c).stall = none) : cached (t.cl c) g.line = some ⟨g.line, g.excl, data⟩ := by
  rw [(cached_of_noEnd (h.held ha)).1, got_of_no_stall hs]
  exact cached_cachePut { s.cl c with get := none } ⟨g.line, g.excl, data⟩

theorem GetEnds.of_load {c : Nat} {g : Get} {data : Bytes} {t : State} {e : Bool} {d a : Nat} (h : GetEnds c g data s t)
    (ha : (s.cl c).absorbing = false) (hs : (s.cl c).stall = some (.miss g.line e d a none)) :
    cached (t.cl c) g.line = some ⟨g.line, g.excl, data⟩ ∧ (t.cl c).stall = none ∧
    readS (t.cl c) d = if d = 0 then 0 else lineWord data a := by
  obtain ⟨hcached, hstall, hread⟩ := cached_of_noEnd (h.held ha)
  rw [hcached, hstall, hread, got_of_load hs]
  refine ⟨?_, rfl, readS_writeS_self (cachePut { s.cl c with get := none } ⟨g.line, g.excl, data⟩) d (lineWord data a)⟩
  rw [writeS_eq]
  exact cached_cachePut { s.cl c with get := none } ⟨g.line, g.excl, data⟩

/-! ### Acknowledgements and data of a Get -/

/-- The open Get of the cluster as a message for it changes it. -/
def getStep (s : State) (r : RegionId) (p : Packet) (c : Nat) (g : Get) : State :=
  (cohTaken s r p).modCl c fun x => { x with get := some g }

theorem exec_cohInvack {g : Get} (h : CohInbox s r p uInvAck) (hc : agentClu p.dsite p.dagt = some c.val)
    (hg : (s.cl c).get = some g) (hl : g.line = p.addr) :
    exec (.cohInvack (.region r)) s = .next (finishGet (getStep s r p c { g with acksGot := g.acksGot + 1 }) c) := by
  refine (serveCoh_eq h hc ackAtCache).trans (congrArg _ ?_)
  unfold ackAtCache
  rw [show ((cohTaken s r p).cl c).get = some g from hg]
  exact if_pos hl

theorem exec_cohData {g : Get} (h : CohInbox s r p uData) (hc : agentClu p.dsite p.dagt = some c.val)
    (hg : (s.cl c).get = some g) (hl : g.line = p.addr) : exec (.cohData (.region r)) s =
      .next (finishGet (getStep s r p c { g with data := some p.payload, acksWant := some p.acks }) c) := by
  refine (serveCoh_eq h hc dataAtCache).trans (congrArg _ ?_)
  unfold dataAtCache
  rw [show ((cohTaken s r p).cl c).get = some g from hg]
  exact if_pos hl

theorem getStep_cl (s : State) (r : RegionId) (p : Packet) (c : Nat) (g : Get) :
    (getStep s r p c g).cl c = { s.cl c with get := some g } := State.setCl_self ..

/-- A Get that goes on waiting: only the Get of the cluster has changed. -/
theorem goes_getWaits {g : Get} (hexec : exec i s = .next (finishGet (getStep s r p c g) c))
    (h : g.data = none ∨ g.acksWant = none ∨ ∃ k, g.acksWant = some k ∧ g.acksGot < k) :
    Goes i s fun t => t = { cohTaken s r p with clusters := t.clusters } ∧ OnlyCl c s t ∧ t.cl c = { s.cl c with get := some g } := by
  have hself := getStep_cl s r p c g
  rw [finishGet_waits (congrArg Cluster.get hself) h] at hexec
  exact ⟨_, hexec, rfl, (quiet_modCl (cohTaken s r p) c _).1, hself⟩

/-- A Get that has all it waits for ends. -/
theorem goes_getEnds {g : Get} {data : Bytes} {k : Nat} (hexec : exec i s = .next (finishGet (getStep s r p c g) c))
    (hl : g.line = p.addr) (hdata : g.data = some data) (hwant : g.acksWant = some k) (hk : k ≤ g.acksGot) :
    Goes i s fun t => (t.cl c).get = none ∧ OnlyCl c s t ∧ SameMem s t ∧
      ((s.cl c).absorbing = false → (s.cl c).stall = none → cached (t.cl c) p.addr = some ⟨p.addr, g.excl, data⟩) ∧
      (∀ e d a, (s.cl c).absorbing = false → (s.cl c).stall = some (.miss p.addr e d a none) →
        cached (t.cl c) p.addr = some ⟨p.addr, g.excl, data⟩ ∧ (t.cl c).stall = none ∧
        readS (t.cl c) d = if d = 0 then 0 else lineWord data a) := by
  have hself := getStep_cl s r p c g
  have hends := finishGet_facts (congrArg Cluster.get hself) hdata hwant hk
  have habs : ((getStep s r p c g).cl c).absorbing = (s.cl c).absorbing := by rw [hself]
  have hstall : ((getStep s r p c g).cl c).stall = (s.cl c).stall := by rw [hself]
  refine ⟨_, hexec, hends.get, fun j hj => ?_, fun a => ?_, fun ha hs => ?_, fun e d a ha hs => ?_⟩
  · exact (hends.cl j hj).trans ((quiet_modCl (cohTaken s r p) c _).1 j hj)
  · exact congrArg (memByte · a) hends.mem
  · rw [← hl]
    exact hends.of_no_stall (habs.trans ha) (hstall.trans hs)
  · rw [← hl] at hs ⊢
    exact hends.of_load (habs.trans ha) (hstall.trans hs)

/-- Settles O37: message by message. -/
theorem cacheCoherence : Obligations.CacheCoherence := by
  intro s r c p hc x v inbox passes quiet tells drops
  refine ⟨fun h => ⟨fun hn => ?_, fun d hd => goes_cohFwdgets h hc hd⟩, fun h => ⟨fun hn => ?_, fun d hd => ?_⟩,
    fun h => ⟨fun hn => ?_, fun d hd => ?_⟩, fun h => goes_drops (exec_cohInv h hc), fun h => ?_, fun g hg hl => ?_⟩
  · exact ⟨cohTaken s r p, (exec_cohFwdgets h hc).trans (by rw [hn, Option.elim_none]), rfl⟩
  · exact ⟨cohTaken s r p, (exec_cohFwdgetm h hc).trans (by rw [hn, Option.elim_none]), rfl⟩
  · exact goes_drops ((exec_cohFwdgetm h hc).trans (by rw [hd, Option.elim_some]))
  · exact ⟨cohTaken s r p, (exec_cohRecall h hc).trans (by rw [hn, Option.elim_none]), rfl⟩
  · exact goes_drops ((exec_cohRecall h hc).trans (by rw [hd, Option.elim_some]))
  · obtain ⟨t, hexec, hwork, hno⟩ := goes_cohPutack h hc
    exact ⟨t, hexec, hwork.cl, fun a => congrArg (memByte · a) hwork.mem, fun a _ => by unfold State.reg; rw [hwork.regs], hwork.fab, hno⟩
  · intro ends
    refine ⟨fun h => ⟨fun data k hdata hwant hk => ?_, fun hwait => ?_⟩, fun h => ⟨fun hk => ?_, fun hk => ?_⟩⟩
    · exact goes_getEnds (g := { g with acksGot := g.acksGot + 1 }) (exec_cohInvack h hc hg hl) hl hdata hwant hk
    · exact goes_getWaits (exec_cohInvack h hc hg hl) hwait
    · exact goes_getEnds (g := { g with data := some p.payload, acksWant := some p.acks }) (exec_cohData h hc hg hl) hl rfl rfl hk
    · exact goes_getWaits (exec_cohData h hc hg hl) (.inr (.inr ⟨_, rfl, hk⟩))

end Sys2Proof.Machine
end

section
/-! The evaluation of COMMITs: held, sent to the record's home, or recorded in a replay run (O46). -/

namespace Sys2Proof.Machine

variable {s t u : State} {c : ClusterId} {k : Commit}

/-! ### What a completion leaves as it is -/

/-- t differs from s in clusters, units and registers alone. -/
def EndWork (s t : State) : Prop := t = { s with regs := t.regs, clusters := t.clusters, units := t.units }

theorem EndWork.trans (h : EndWork s t) (h' : EndWork t u) : EndWork s u := by
  unfold EndWork at *
  rw [h', h]

theorem endWork_setCl (s : State) (c : Nat) (x : Cluster) : EndWork s (s.setCl c x) := rfl

theorem endWork_setReg (s : State) (a v : Nat) : EndWork s (s.setReg a v) := rfl

theorem endWork_bump (s : State) (a : Nat) : EndWork s (s.bump a) := by
  rw [bump_eq]
  rfl

theorem endWork_takeDirty (s : State) (c : Nat) : EndWork s (takeDirty s c) := by
  refine (unitOnly_takeDirty s c).same.trans ?_
  rw [(setsOnly_takeDirty s c).mem, (unitOnly_takeDirty s c).same]

theorem endWork_checkEnd (s : State) (c : Nat) : EndWork s (checkEnd s c) := by
  unfold checkEnd
  dsimp only
  split
  · split
    · split
      · exact (endWork_setCl ..).trans (endWork_takeDirty ..)
      · split
        · exact endWork_setCl ..
        · exact rfl
    · split
      · exact (endWork_setCl ..).trans (endWork_takeDirty ..)
      · exact rfl
  · exact rfl

theorem EndWork.ite {q : Prop} [Decidable q] (h : EndWork s t) (h' : EndWork s u) : EndWork s (if q then t else u) := by
  split
  · exact h
  · exact h'

theorem endWork_complete (s : State) (c did st : Nat) : EndWork s (complete s c did st) := by
  unfold complete
  dsimp only
  split
  · exact rfl
  · have hmark : ∀ x (p : Prop) [Decidable p],
        EndWork s (if p then (s.setCl c x).setField (seqFrameUseAt c) 0 0 1 else s.setCl c x) := fun x p _ =>
      .ite ((endWork_setCl s c x).trans (endWork_setReg ..)) (endWork_setCl s c x)
    exact EndWork.trans (.ite ((hmark ..).trans (endWork_bump ..)) (hmark ..)) (endWork_checkEnd ..)

/-- A completion leaves every part of its cluster that is neither a group's count nor a mark of the work end. -/
theorem complete_keeps {α : Type} (f : Cluster → α) (hend : ∀ x : Cluster, f x.noEnd = f x)
    (hgrp : ∀ (x : Cluster) l n g, f { x with live := l, grpCnt := n, grpFlags := g } = f x) (s : State) (c did st : Nat) :
    f ((complete s c did st).cl c) = f (s.cl c) := by
  cases h : find? (s.cl c).live did with
  | none => rw [complete_of_not_open st h]
  | some g =>
    obtain ⟨-, hself, -⟩ := complete_law st h
    have heq := congrArg f hself
    rw [hend, hend] at heq
    exact heq.trans (hgrp ..)

/-! ### The head of the commit queue -/

/-- The COMMIT that COMMIT_EVALUATE takes: the first neither sent nor answered. -/
def CommitHead (s : State) (c : ClusterId) (k : Commit) : Prop :=
  (s.cl c).commitQ.find? (fun k => !k.sent && k.outcome.isNone) = some k

/-- Every descriptor the COMMIT waits for has completed. -/
def CommitReady (s : State) (c : ClusterId) (k : Commit) : Prop := ∀ d ∈ k.waits, (find? (s.cl c).live d).isNone = true

/-- The groups of a COMMIT's mask (GMASK). -/
def Commit.mask (k : Commit) : Nat := k.d.f 95 80

/-- Is a group of the mask marked? -/
def maskSuspect (x : Cluster) (gm : Nat) : Bool := x.grpFlags.any fun p => bit gm p.1 && p.2 != 0

theorem maskSuspect_iff (x : Cluster) (gm : Nat) :
    maskSuspect x gm = true ↔ ∃ g ∈ x.grpFlags, bit gm g.1 = true ∧ g.2 ≠ 0 := by
  simp only [maskSuspect, List.any_eq_true, Bool.and_eq_true, bne_iff_ne]

theorem waitsAny_iff (s : State) (c : ClusterId) (k : Commit) :
    (k.waits.any fun d => (find? (s.cl c).live d).isSome) = true ↔ ¬ CommitReady s c k := by
  simp only [CommitReady, List.any_eq_true, not_forall, Option.isNone_iff_eq_none, Option.isSome_iff_ne_none, exists_prop]

theorem exec_commitEvaluate_waits (hk : CommitHead s c k) (h : ¬ CommitReady s c k) :
    exec (.commitEvaluate c) s = .next s := by
  show execCommitEvaluate c s = _
  unfold execCommitEvaluate
  dsimp only
  rw [show (s.cl c).commitQ.find? _ = some k from hk]
  exact if_pos ((waitsAny_iff s c k).2 h)

/-- A COMMIT leaves the commit queue of a cluster. -/
def Cluster.withoutCommit (x : Cluster) (did : Nat) : Cluster := { x with commitQ := x.commitQ.filter fun j => j.d.did != did }

theorem cl_commitPop (s : State) (c did : Nat) : (commitPop s c did).cl c = (s.cl c).withoutCommit did := State.setCl_self ..

/-! ### A replay run -/

/-- Is the COMMIT that of the step which is replayed (R288)? -/
def replaysStep (s : State) (c : ClusterId) (k : Commit) (r : ReplayRun) : Bool :=
  (partD s (cluQuarter c)).held.any fun h => h.serial == r.step && h.id == k.d.id && h.gmask == k.mask

/-- The replay run after the COMMIT: that of the replayed step leaves its digest. -/
def replayNext (s : State) (c : ClusterId) (k : Commit) (r : ReplayRun) : ReplayRun :=
  if replaysStep s c k r then
    { r with digest := stepDigest (s.cl c) k.mask, bad := r.bad || maskSuspect (s.cl c) k.mask }
  else r

theorem exec_commitEvaluate_replay {r : ReplayRun} (hk : CommitHead s c k) (h : CommitReady s c k)
    (hr : (s.cl c).replay = some r) : exec (.commitEvaluate c) s = .next (complete (commitPop (s.setCl c
      { s.cl c with replay := some (replayNext s c k r) }) c k.d.did) c k.d.did stOk) := by
  show execCommitEvaluate c s = _
  unfold execCommitEvaluate
  dsimp only
  rw [show (s.cl c).commitQ.find? _ = some k from hk]
  refine (if_neg (not_not.2 h ∘ (waitsAny_iff s c k).1)).trans ?_
  rw [hr]
  rfl

/-- What a completion at cluster c leaves of the state v before it. -/
theorem complete_frame (v : State) (c did st : Nat) :
    let t := complete v c did st
    EndWork v t ∧ OnlyCl c v t ∧ (t.cl c).commitQ = (v.cl c).commitQ ∧ (t.cl c).replay = (v.cl c).replay ∧
    (∀ u, (t.un u).noSets = (v.un u).noSets) ∧ ∀ a, a ∉ completionRegs c → t.reg a = v.reg a ∧ t.ctr a = v.ctr a := by
  obtain ⟨⟨-, -, hothers⟩, hframe⟩ := complete_completed v c did st
  exact ⟨endWork_complete .., hothers, (complete_queues v c did st).2.1,
    complete_keeps Cluster.replay (fun _ => rfl) (fun _ _ _ _ => rfl) v c did st, hframe.un,
    fun a ha => ⟨hframe.reg a ha, hframe.ctr a ha⟩⟩

theorem seqCommitLast_not_completion (c : Nat) : seqCommitLastAt c ∉ completionRegs c :=
  seqReg_not_completion (by decide) (by decide) (by decide)

theorem seqCommitHold_not_completion (c : Nat) : seqCommitHoldCntAt c ∉ completionRegs c :=
  seqReg_not_completion (by decide) (by decide) (by decide)

theorem goes_commitReplay {r : ReplayRun} (hk : CommitHead s c k) (h : CommitReady s c k) (hr : (s.cl c).replay = some r) :
    Goes (.commitEvaluate c) s fun t => EndWork s t ∧ OnlyCl c s t ∧
      (t.cl c).commitQ = ((s.cl c).withoutCommit k.d.did).commitQ ∧ (∀ u, (t.un u).noSets = (s.un u).noSets) ∧
      t.reg (seqCommitLastAt c) = s.reg (seqCommitLastAt c) ∧ (t.cl c).replay = some (replayNext s c k r) := by
  refine ⟨_, exec_commitEvaluate_replay hk h hr, ?_⟩
  have hself : (commitPop (s.setCl c { s.cl c with replay := some (replayNext s c k r) }) c k.d.did).cl c =
      { (s.cl c).withoutCommit k.d.did with replay := some (replayNext s c k r) } := by
    rw [cl_commitPop, State.setCl_self]
    rfl
  have hother : OnlyCl c s (commitPop (s.setCl c { s.cl c with replay := some (replayNext s c k r) }) c k.d.did) := fun j hj => by
    rw [commitPop, State.modCl, State.setCl_cl, if_neg hj, State.setCl_cl, if_neg hj]
  have heq : EndWork s (commitPop (s.setCl c { s.cl c with replay := some (replayNext s c k r) }) c k.d.did) := rfl
  have hregs : ∀ a, (commitPop (s.setCl c { s.cl c with replay := some (replayNext s c k r) }) c k.d.did).reg a = s.reg a :=
    fun _ => rfl
  have hun : ∀ a, (commitPop (s.setCl c { s.cl c with replay := some (replayNext s c k r) }) c k.d.did).un a = s.un a :=
    fun _ => rfl
  generalize commitPop _ _ _ = v at *
  obtain ⟨hwork, hcl, hq, hrep, hunits, hkept⟩ := complete_frame v c k.d.did stOk
  refine ⟨heq.trans hwork, fun j hj => (hcl j hj).trans (hother j hj), ?_, fun u => by rw [hunits, hun], ?_, ?_⟩
  · rw [hq, hself]
  · rw [(hkept _ (seqCommitLast_not_completion c)).1, hregs]
  · rw [hrep, hself]

theorem replayNext_of_not_mine {r : ReplayRun}
    (h : ∀ e ∈ (partD s (cluQuarter c)).held, ¬(e.serial = r.step ∧ e.id = k.d.id ∧ e.gmask = k.mask)) :
    replayNext s c k r = r := by
  refine if_neg fun hm => ?_
  obtain ⟨e, he, hm⟩ := List.any_eq_true.1 hm
  simp only [Bool.and_eq_true, beq_iff_eq, and_assoc] at hm
  exact h e he hm

theorem replayNext_of_mine {r : ReplayRun}
    (h : ∃ e ∈ (partD s (cluQuarter c)).held, e.serial = r.step ∧ e.id = k.d.id ∧ e.gmask = k.mask) : replayNext s c k r =
      { r with digest := stepDigest (s.cl c) k.mask, bad := r.bad || maskSuspect (s.cl c) k.mask } := by
  refine if_pos (List.any_eq_true.2 ?_)
  obtain ⟨e, he, hm⟩ := h
  refine ⟨e, he, ?_⟩
  simpa only [Bool.and_eq_true, beq_iff_eq, and_assoc] using hm

/-! ### A HELD outcome -/

theorem find?_mapFirst {α : Type} (p : α → Bool) (f : α → α) (h : ∀ a, p (f a) = p a) :
    ∀ l : List α, (mapFirst p f l).find? p = (l.find? p).map f
  | [] => rfl
  | a :: l => by
    unfold mapFirst
    cases hp : p a with
    | true => simp [h, hp]
    | false => simpa [hp] using find?_mapFirst p f h l

/-- A change that keeps a partition's quarters is seen in the partition of the quarter. -/
theorem partOf_modPart (s : State) (q : Nat) {f : Partition → Partition} (h : ∀ p, (f p).qmask = p.qmask) :
    partOf (modPart s q f) q = (partOf s q).map f :=
  find?_mapFirst _ f (fun p => by rw [h]) s.parts

/-- A panel register for a partition is none of a cluster's. -/
theorem pmReplayUnres_bounds (p : Partition) :
    0xF1900000428 ≤ pmReplayUnresCntAt (partQ p) ∧ pmReplayUnresCntAt (partQ p) < 0xF1900010000 := by
  have hq : partQ p < 4 := by
    unfold partQ lowestQuarter maskQuarters
    cases h : (List.range 4).filter fun q => bit p.qmask q with
    | nil => decide
    | cons a l => exact List.mem_range.1 (List.mem_of_mem_filter (h ▸ List.mem_cons_self))
  unfold pmReplayUnresCntAt pmBlk managerArea
  omega

theorem seqBlk_lt (c : ClusterId) : seqBlk c + 0x100000 ≤ 0xF1000000000 := by
  have := c.isLt
  unfold seqBlk dieArea
  omega

theorem completionRegs_lt (c : ClusterId) : ∀ a ∈ completionRegs c, a < 0xF1000000000 := by
  have hc := c.isLt
  intro a ha
  simp only [completionRegs, shadowRegs, List.mem_cons, List.mem_flatMap, List.mem_range, List.not_mem_nil, or_false, seqFrameUseAt,
    seqSuspectCntAt, unitShadowStatAt, unitShadowLagCntAt, unitBlk, seqBlk, dieArea] at ha
  obtain h | h | ⟨i, hi, h | h⟩ := ha <;> omega

/-- From v to w only partitions and the registers of replays change. -/
structure HeldWork (p : Partition) (v w : State) : Prop where
  same : w = { v with regs := w.regs, parts := w.parts }
  kept : ∀ a, a ≠ pmReplayUnresCntAt (partQ p) → a ≠ pmReplayLastAt → w.reg a = v.reg a ∧ w.ctr a = v.ctr a

theorem HeldWork.trans {p : Partition} {v w x : State} (h : HeldWork p v w) (h' : HeldWork p w x) : HeldWork p v x :=
  ⟨by rw [h'.same, h.same], fun a ha hb =>
    ⟨((h'.kept a ha hb).1).trans (h.kept a ha hb).1, ((h'.kept a ha hb).2).trans (h.kept a ha hb).2⟩⟩

theorem heldWork_modPart (p : Partition) (v : State) (q : Nat) (f : Partition → Partition) : HeldWork p v (modPart v q f) :=
  ⟨rfl, fun _ _ _ => ⟨rfl, rfl⟩⟩

theorem partD_modPart (s : State) (q : Nat) {f : Partition → Partition} (h : ∀ p, (f p).qmask = p.qmask) :
    partQ (partD (modPart s q f) q) = partQ (partD s q) := by
  unfold partD
  rw [partOf_modPart s q h]
  cases partOf s q with
  | none => rfl
  | some p => exact congrArg lowestQuarter (h p)

/-- The partition as a halt that is due leaves it (R281). -/
def Partition.haltNext (p : Partition) : Partition := if p.halted then p else { p with haltDue := true }

theorem haltNext_facts (p : Partition) : p.haltNext.qmask = p.qmask ∧ p.haltNext.held = p.held := by
  unfold Partition.haltNext
  split <;> exact ⟨rfl, rfl⟩

theorem partOf_haltSoon (s : State) (q : Nat) : partOf (haltSoon s q) q = (partOf s q).map Partition.haltNext :=
  partOf_modPart s q fun p => (haltNext_facts p).1

/-- A step that is unresolved at once is counted, and stands in no table (R286, R291). -/
theorem unresolved_facts (s : State) (q : Nat) (h : HeldStep) :
    let t := unresolved s q h
    HeldWork (partD s q) s t ∧ Counted (pmReplayUnresCntAt (partQ (partD s q))) s t ∧
    ∀ y, partOf t q = some y → ∃ z, partOf s q = some z ∧ y.held = z.held := by
  obtain ⟨heq, hcount, -⟩ := bump_counts s (pmReplayUnresCntAt (partQ (partD s q)))
  have hne : pmReplayUnresCntAt (partQ (partD s q)) ≠ pmReplayLastAt := by
    have := (pmReplayUnres_bounds (partD s q)).1
    unfold pmReplayLastAt pmBlk managerArea
    omega
  have hkept : ∀ a, a ≠ pmReplayUnresCntAt (partQ (partD s q)) → (s.bump (pmReplayUnresCntAt (partQ (partD s q)))).reg a = s.reg a ∧
      (s.bump (pmReplayUnresCntAt (partQ (partD s q)))).ctr a = s.ctr a := fun a ha => ⟨reg_bump_ne _ ha, ctr_bump_ne _ ha⟩
  unfold unresolved recordReplay
  dsimp only
  generalize s.bump (pmReplayUnresCntAt (partQ (partD s q))) = v at heq hcount hkept
  generalize _ * 2 ^ 48 + _ + _ + _ + _ + _ + _ + _ + _ = n
  have hlast : HeldWork (partD s q) s (v.setReg pmReplayLastAt n) := by
    refine ⟨by rw [heq]; rfl, fun a ha hb => ?_⟩
    rw [State.setReg_reg, if_neg hb, ctr_setReg_ne _ _ hb]
    exact hkept a ha
  have hcounted : Counted (pmReplayUnresCntAt (partQ (partD s q))) s (v.setReg pmReplayLastAt n) := by
    rw [Counted, ctr_setReg_ne _ _ hne]
    exact hcount
  have hparts : partOf (v.setReg pmReplayLastAt n) q = partOf s q := by
    unfold partOf
    rw [heq]
    rfl
  generalize v.setReg pmReplayLastAt n = w at hlast hcounted hparts
  split
  · refine ⟨hlast.trans (heldWork_modPart ..), hcounted, fun y hy => ?_⟩
    rw [partOf_haltSoon, hparts, Option.map_eq_some_iff] at hy
    obtain ⟨z, hz, rfl⟩ := hy
    exact ⟨z, hz, (haltNext_facts z).2⟩
  · refine ⟨hlast, hcounted, fun y hy => ⟨y, hparts ▸ hy, rfl⟩⟩

/-- A partition whose next held step has the next serial number. -/
def Partition.numbered (p : Partition) : Partition := { p with heldSerial := p.heldSerial + 1 }

/-- A partition whose table holds one step more. -/
def Partition.holding (h : HeldStep) (p : Partition) : Partition := { p with held := p.held ++ [h] }

/-- A HELD step finds no place in the table, or no spare to run on (R286). -/
theorem addHeld_unresolved {s : State} {q : Nat} (h : HeldStep)
    (hno : 64 ≤ (partD s q).held.length ∨ replaySpares s (partD s q) = []) :
    let t := addHeld s q h
    HeldWork (partD s q) s t ∧ Counted (pmReplayUnresCntAt (partQ (partD s q))) s t ∧
    ∀ y, partOf t q = some y → y.held = (partD s q).held := by
  intro t
  have ht : t = unresolved (modPart s q Partition.numbered) q { h with serial := (partD s q).heldSerial } := if_pos hno
  obtain ⟨hwork, hcount, hheld⟩ := unresolved_facts (modPart s q Partition.numbered) q { h with serial := (partD s q).heldSerial }
  have hpart : partQ (partD (modPart s q Partition.numbered) q) = partQ (partD s q) := partD_modPart s q fun _ => rfl
  rw [← ht] at hwork hcount hheld
  rw [hpart] at hcount
  refine ⟨⟨by rw [hwork.same]; rfl, fun a ha hb => hwork.kept a (by rwa [hpart]) hb⟩, hcount, fun y hy => ?_⟩
  obtain ⟨z, hz, hyz⟩ := hheld y hy
  rw [partOf_modPart s q (f := Partition.numbered) fun _ => rfl, Option.map_eq_some_iff] at hz
  obtain ⟨p, hp, rfl⟩ := hz
  rw [hyz, partD, hp]
  rfl

/-- A HELD step enters the table (R283, R285). -/
theorem addHeld_kept {s : State} {q : Nat} (h : HeldStep) (hroom : (partD s q).held.length < 64)
    (hspare : replaySpares s (partD s q) ≠ []) :
    let t := addHeld s q h
    HeldWork (partD s q) s t ∧ partOf t q = (partOf s q).map fun p =>
      p.numbered.holding { h with serial := (partD s q).heldSerial } := by
  intro t
  have ht : t = modPart (modPart s q Partition.numbered) q (Partition.holding { h with serial := (partD s q).heldSerial }) :=
    if_neg fun hor => hor.elim (fun hle => Nat.not_le_of_lt hroom hle) hspare
  rw [ht]
  refine ⟨(heldWork_modPart ..).trans (heldWork_modPart ..), ?_⟩
  rw [partOf_modPart _ q (f := Partition.holding _) fun _ => rfl, partOf_modPart s q (f := Partition.numbered) fun _ => rfl,
    Option.map_map]
  rfl

theorem heldWork_addHeld (s : State) (q : Nat) (h : HeldStep) : HeldWork (partD s q) s (addHeld s q h) := by
  by_cases hno : 64 ≤ (partD s q).held.length ∨ replaySpares s (partD s q) = []
  · exact (addHeld_unresolved h hno).1
  · rw [not_or] at hno
    exact (addHeld_kept h (Nat.lt_of_not_le hno.1) hno.2).1

/-- What is held of a COMMIT (R283). -/
def heldStepOf (s : State) (c : ClusterId) (k : Commit) : HeldStep :=
  { serial := 0, id := k.d.id, raddr := k.d.f 75 32, old := BitVec.ofNat 64 (k.d.f 191 128), new := BitVec.ofNat 64 (k.d.f 255 192)
    gmask := k.mask, digest := stepDigest (s.cl c) k.mask, lclu := (logicalOfClu s c).getD 0, frame := (s.cl c).frameIdx
    regs := (s.cl c).s0 }

/-- The counter of a COMMIT's outcome (R154). -/
def commitCounter (c outcome : Nat) : Nat :=
  match outcome with | 0 => seqCommitCntAt c | 1 => seqCommitMismatchCntAt c | _ => seqCommitHoldCntAt c

theorem commitCounter_mem (c outcome : Nat) : commitCounter c outcome ∈ [seqBlk c + 0x230, seqBlk c + 0x238, seqBlk c + 0x240] := by
  unfold commitCounter
  split <;> simp [seqCommitCntAt, seqCommitMismatchCntAt, seqCommitHoldCntAt]

/-- SEQ_COMMIT_LAST as a COMMIT of this outcome leaves it (R159). -/
def commitLast (s : State) (c : Nat) (d : Desc) (outcome : Nat) : Nat :=
  d.id * 2 ^ 48 + 2 ^ 34 + outcome * 2 ^ 32 + (s.cl c).frameIdx % 2 ^ 32

theorem recordCommit_eq (s : State) (c : Nat) (d : Desc) (outcome : Nat) : recordCommit s c d outcome =
    (s.setReg (seqCommitLastAt c) (commitLast s c d outcome)).bump (commitCounter c outcome) := rfl

/-- The outcome of a COMMIT is recorded and counted. -/
theorem recordCommit_facts (s : State) (c : Nat) (d : Desc) (outcome : Nat) :
    let v := recordCommit s c d outcome
    v = { s with regs := v.regs } ∧ Counted (commitCounter c outcome) s v ∧
    v.reg (seqCommitLastAt c) = commitLast s c d outcome ∧
    ∀ a, a ≠ commitCounter c outcome → a ≠ seqCommitLastAt c → v.ctr a = s.ctr a := by
  have hne : seqCommitLastAt c ≠ commitCounter c outcome := fun heq => by
    have hmem := commitCounter_mem c outcome
    simp only [← heq, seqCommitLastAt, List.mem_cons, List.not_mem_nil, or_false] at hmem
    omega
  intro v
  rw [show v = _ from recordCommit_eq s c d outcome]
  generalize commitLast s c d outcome = n
  obtain ⟨heq, hcount, hregs⟩ := bump_counts (s.setReg (seqCommitLastAt c) n) (commitCounter c outcome)
  refine ⟨by rw [heq]; rfl, ?_, ?_, fun a ha hb => ?_⟩
  · rw [Counted, hcount, ctr_setReg_ne _ _ hne.symm]
  · rw [hregs _ (by simpa using hne), State.setReg_self]
  · rw [ctr_bump_ne _ ha, ctr_setReg_ne _ _ hb]

/-- The state after the HELD outcome has been recorded. -/
def heldRecorded (s : State) (c : ClusterId) (k : Commit) : State := recordCommit (commitPop s c k.d.did) c k.d 2

theorem heldRecorded_facts (s : State) (c : ClusterId) (k : Commit) :
    let v := heldRecorded s c k
    v = { s with regs := v.regs, clusters := v.clusters } ∧ OnlyCl c s v ∧ v.cl c = (s.cl c).withoutCommit k.d.did ∧
    Counted (seqCommitHoldCntAt c) s v ∧ v.reg (seqCommitLastAt c) = commitLast s c k.d 2 ∧
    ∀ a, a ≠ seqCommitHoldCntAt c → a ≠ seqCommitLastAt c → v.ctr a = s.ctr a := by
  obtain ⟨heq, hcount, hlast, hkept⟩ := recordCommit_facts (commitPop s c k.d.did) c k.d 2
  have hlast' : commitLast (commitPop s c k.d.did) c k.d 2 = commitLast s c k.d 2 := by
    rw [commitLast, cl_commitPop]
    rfl
  intro v
  rw [hlast'] at hlast
  rw [← show v = recordCommit (commitPop s c k.d.did) c k.d 2 from rfl] at heq hcount hlast hkept
  refine ⟨by rw [heq]; rfl, fun j hj => ?_, ?_, hcount, hlast, hkept⟩
  · rw [heq]
    exact (State.setCl_cl ..).trans (if_neg hj)
  · rw [heq]
    exact cl_commitPop ..

/-- What the policy of the partition makes of a HELD outcome. -/
def heldByPolicy (v : State) (q policy : Nat) (h : HeldStep) : State := if policy = 0 then addHeld v q h else haltSoon v q

theorem heldWork_heldByPolicy (v : State) (q policy : Nat) (h : HeldStep) :
    HeldWork (partD v q) v (heldByPolicy v q policy h) := by
  unfold heldByPolicy
  split
  · exact heldWork_addHeld ..
  · exact heldWork_modPart ..

theorem exec_commitEvaluate_held (hk : CommitHead s c k) (h : CommitReady s c k) (hr : (s.cl c).replay = none)
    (hsusp : maskSuspect (s.cl c) k.mask = true) (hp : (partD s (cluQuarter c)).cfg.policy ≠ 1) :
    exec (.commitEvaluate c) s = .next (complete (heldByPolicy (heldRecorded s c k) (cluQuarter c)
      (partD s (cluQuarter c)).cfg.policy (heldStepOf s c k)) c k.d.did stOk) := by
  show execCommitEvaluate c s = _
  unfold execCommitEvaluate
  dsimp only
  rw [show (s.cl c).commitQ.find? _ = some k from hk]
  refine (if_neg (not_not.2 h ∘ (waitsAny_iff s c k).1)).trans ?_
  rw [hr]
  exact if_pos ⟨hsusp, hp⟩

/-- A HELD outcome: recorded, counted, and handed to the partition's policy. -/
theorem goes_commitHeld (hk : CommitHead s c k) (h : CommitReady s c k) (hr : (s.cl c).replay = none)
    (hsusp : maskSuspect (s.cl c) k.mask = true) (hp : (partD s (cluQuarter c)).cfg.policy ≠ 1) :
    ∃ w, w = heldByPolicy (heldRecorded s c k) (cluQuarter c) (partD s (cluQuarter c)).cfg.policy (heldStepOf s c k) ∧
    Goes (.commitEvaluate c) s fun t =>
      t = { s with regs := t.regs, clusters := t.clusters, units := t.units, parts := t.parts } ∧ OnlyCl c s t ∧
      (t.cl c).commitQ = ((s.cl c).withoutCommit k.d.did).commitQ ∧ (∀ u, (t.un u).noSets = (s.un u).noSets) ∧
      Counted (seqCommitHoldCntAt c) s t ∧ t.reg (seqCommitLastAt c) = commitLast s c k.d 2 ∧
      (∀ q, partOf t q = partOf w q) ∧
      ∀ a, a ∉ completionRegs c → t.ctr a = w.ctr a := by
  refine ⟨_, rfl, _, exec_commitEvaluate_held hk h hr hsusp hp, ?_⟩
  obtain ⟨hv, hother, hself, hcount, hlast, -⟩ := heldRecorded_facts s c k
  have hw := heldWork_heldByPolicy (heldRecorded s c k) (cluQuarter c) (partD s (cluQuarter c)).cfg.policy (heldStepOf s c k)
  generalize heldByPolicy _ _ _ _ = w at hw
  generalize heldRecorded s c k = v at *
  have hpm := pmReplayUnres_bounds (partD v (cluQuarter c))
  have hlow := seqBlk_lt c
  have hold := hw.kept (seqCommitHoldCntAt c) (by unfold seqCommitHoldCntAt; omega)
    (by unfold seqCommitHoldCntAt pmReplayLastAt pmBlk managerArea; omega)
  have hold' := hw.kept (seqCommitLastAt c) (by unfold seqCommitLastAt; omega)
    (by unfold seqCommitLastAt pmReplayLastAt pmBlk managerArea; omega)
  have hwcl : ∀ j, w.cl j = v.cl j := fun j => by rw [hw.same]; rfl
  have hwun : ∀ j, w.un j = s.un j := fun j => by rw [hw.same, hv]; rfl
  obtain ⟨hwork, hcl, hq, -, hunits, hkept⟩ := complete_frame w c k.d.did stOk
  refine ⟨?_, fun j hj => ?_, ?_, fun u => by rw [hunits, hwun], ?_, ?_, fun q => ?_, fun a ha => (hkept a ha).2⟩
  · rw [hwork, hw.same, hv]
  · rw [hcl j hj, hwcl, hother j hj]
  · rw [hq, hwcl, hself]
  · rw [Counted, (hkept _ (seqCommitHold_not_completion c)).2, hold.2]
    exact hcount
  · rw [(hkept _ (seqCommitLast_not_completion c)).1, hold'.1, hlast]
  · unfold partOf
    rw [hwork]

/-! ### The swap is sent -/

theorem exec_commitEvaluate_send (hk : CommitHead s c k) (h : CommitReady s c k) (hr : (s.cl c).replay = none)
    (hno : maskSuspect (s.cl c) k.mask = false ∨ (partD s (cluQuarter c)).cfg.policy = 1) : exec (.commitEvaluate c) s =
      .next ((lowestFree (wtagsUsed (s.cl c)) 1024).elim (startWait s c 2) fun tag =>
        if stackGone (endWait s c 2) (homeStack (k.d.f 75 32)) = true then
          (endWait s c 2).modCl c fun x =>
            { x with commitQ := x.commitQ.map fun j => if j.d.did = k.d.did then { j with outcome := some 1 } else j }
        else sendCommit (endWait s c 2) c k (maskSuspect (s.cl c) k.mask) tag) := by
  show execCommitEvaluate c s = _
  unfold execCommitEvaluate
  dsimp only
  rw [show (s.cl c).commitQ.find? _ = some k from hk]
  refine (if_neg (not_not.2 h ∘ (waitsAny_iff s c k).1)).trans ?_
  rw [hr]
  have hheld : ¬(maskSuspect (s.cl c) k.mask = true ∧ (partD s (cluQuarter c)).cfg.policy ≠ 1) := fun ⟨hsusp, hp⟩ =>
    hno.elim (fun hno => Bool.false_ne_true (hno.symm.trans hsusp)) hp
  refine (if_neg hheld).trans ?_
  cases lowestFree (wtagsUsed (s.cl c)) 1024 with
  | none => rfl
  | some tag => exact (apply_ite Host.Outcome.next ..).symm

theorem startWait_facts (s : State) (c cause : Nat) :
    let t := startWait s c cause
    t = { s with clusters := t.clusters } ∧ OnlyCl c s t ∧ (t.cl c).commitQ = (s.cl c).commitQ ∧
    (find? (t.cl c).waits cause).isSome = true := by
  have hself : (startWait s c cause).cl c = if (find? (s.cl c).waits cause).isSome then s.cl c
    else { s.cl c with waits := putAt (s.cl c).waits cause (cluClk s c) } := State.setCl_self ..
  refine ⟨rfl, fun j hj => (State.setCl_cl ..).trans (if_neg hj), ?_, ?_⟩
  · rw [hself]
    split <;> rfl
  · rw [hself]
    split
    · next h => exact h
    · rw [find?_putAt_self]
      rfl

/-- The end of a wait changes the cluster's waits and one counter. -/
theorem endWait_facts (s : State) (c cause : Nat) :
    let t := endWait s c cause
    t = { s with regs := t.regs, clusters := t.clusters } ∧ OnlyCl c s t ∧ (∃ l, t.cl c = { s.cl c with waits := l }) ∧
    ∀ a, a ≠ waitCntOf c cause → t.reg a = s.reg a ∧ t.ctr a = s.ctr a := by
  unfold endWait
  split
  · exact ⟨rfl, fun _ _ => rfl, ⟨(s.cl c).waits, rfl⟩, fun _ _ => ⟨rfl, rfl⟩⟩
  · rw [bumpBy_eq]
    refine ⟨rfl, fun j hj => (State.setCl_cl ..).trans (if_neg hj), ⟨_, State.setCl_self ..⟩, fun a ha => ?_⟩
    rw [← bumpBy_eq]
    exact ⟨reg_bumpBy_ne _ ha, ctr_bumpBy_ne _ ha⟩

/-- No write tag is free: the COMMIT waits for one. -/
theorem goes_commitNoTag (hexec : exec (.commitEvaluate c) s = .next (startWait s c 2)) : Goes (.commitEvaluate c) s fun t =>
    t = { s with clusters := t.clusters } ∧ OnlyCl c s t ∧ (t.cl c).commitQ = (s.cl c).commitQ ∧
    (find? (t.cl c).waits 2).isSome = true :=
  ⟨_, hexec, startWait_facts s c 2⟩

/-- The commits of a cluster, where those of a descriptor have an outcome. -/
def Cluster.answered (x : Cluster) (did outcome : Nat) : Cluster :=
  { x with commitQ := x.commitQ.map fun j => if j.d.did = did then { j with outcome := some outcome } else j }

/-- The stack of the record is withdrawn: the COMMIT has its outcome at once. -/
theorem goes_commitGone (hexec : exec (.commitEvaluate c) s = .next ((endWait s c 2).modCl c fun x => x.answered k.d.did 1)) :
    Goes (.commitEvaluate c) s fun t => t = { s with regs := t.regs, clusters := t.clusters } ∧ OnlyCl c s t ∧
      ∀ j ∈ (t.cl c).commitQ, j.d.did = k.d.did → j.outcome = some 1 := by
  obtain ⟨heq, hother, -, -⟩ := endWait_facts s c 2
  refine ⟨_, hexec, ?_, fun j hj => ?_, fun j hj hd => ?_⟩
  · rw [heq]
    rfl
  · rw [State.modCl, State.setCl_cl, if_neg hj, hother j hj]
  · rw [State.modCl, State.setCl_self] at hj
    obtain ⟨i, -, rfl⟩ := List.mem_map.1 hj
    split at hd
    · next h => rw [if_pos h]
    · next h => exact absurd hd h

/-- The compare-and-swap that a COMMIT sends to the home of its record (R154, R200). -/
def commitSwap (k : Commit) (tag : Nat) : Packet :=
  { withPayload { typ := tAtom, cls := cCtrl, addr := k.d.f 75 32, dsite := stackSite (homeStack (k.d.f 75 32)), dagt := 2 }
      (leBytes 8 (k.d.f 191 128) ++ leBytes 8 (k.d.f 255 192)) with wtag := tag }

/-- The commits of a cluster, where that of a descriptor is sent, and the tag its swap holds. -/
def Cluster.committing (x : Cluster) (k : Commit) (susp : Bool) (tag now : Nat) : Cluster :=
  { x with
    commitQ := x.commitQ.map fun j => if j.d.did = k.d.did then { j with sent := true, susp := susp } else j
    wtags := x.wtags ++ [{ tag := tag, did := k.d.did, row := 0, sentAt := now, remote := false, pkt := commitSwap k tag }] }

theorem sendCommit_eq (s : State) (c : Nat) (k : Commit) (susp : Bool) (tag : Nat) : sendCommit s c k susp tag =
    sendCtrl (s.modCl c fun x => x.committing k susp tag s.fab) c (commitSwap k tag) := rfl

theorem committing_sent (x : Cluster) (k : Commit) (susp : Bool) (tag now : Nat) :
    ∀ j ∈ (x.committing k susp tag now).commitQ, j.d.did = k.d.did → j.sent = true := fun j hj hd => by
  obtain ⟨i, -, rfl⟩ := List.mem_map.1 hj
  split at hd
  · next h => rw [if_pos h]
  · next h => exact absurd hd h

/-- The swap is sent with the tag. -/
theorem goes_commitSent {susp : Bool} {tag : Nat}
    (hexec : exec (.commitEvaluate c) s = .next (sendCommit (endWait s c 2) c k susp tag)) : Goes (.commitEvaluate c) s fun t =>
      t = { s with regs := t.regs, clusters := t.clusters, buckets := t.buckets, routers := t.routers } ∧ OnlyCl c s t ∧
      (∀ j ∈ (t.cl c).commitQ, j.d.did = k.d.did → j.sent = true) ∧
      (t.cl c).wtags = (s.cl c).wtags ++
        [{ tag := tag, did := k.d.did, row := 0, sentAt := s.fab, remote := false, pkt := commitSwap k tag }] ∧
      ∃ w, w.routers = s.routers ∧ w.buckets = s.buckets ∧ (w.cl c).ctrlOut = (s.cl c).ctrlOut ∧
        t = sendCtrl w c (commitSwap k tag) := by
  obtain ⟨heq, hother, ⟨l, hself⟩, -⟩ := endWait_facts s c 2
  rw [sendCommit_eq] at hexec
  generalize endWait s c 2 = v at hexec heq hother hself
  have hwcl : (v.modCl c fun x => x.committing k susp tag v.fab).cl c = { (s.cl c).committing k susp tag s.fab with waits := l } := by
    rw [State.modCl, State.setCl_self, hself, heq]
    rfl
  have hwother : OnlyCl c s (v.modCl c fun x => x.committing k susp tag v.fab) := fun j hj => by
    rw [State.modCl, State.setCl_cl, if_neg hj, hother j hj]
  have hweq : (v.modCl c fun x => x.committing k susp tag v.fab) =
      { s with regs := v.regs, clusters := (v.modCl c fun x => x.committing k susp tag v.fab).clusters } := by
    rw [heq]
    rfl
  generalize (v.modCl c fun x => x.committing k susp tag v.fab) = w at hexec hwcl hwother hweq
  obtain ⟨hteq, htother, htcl, -⟩ := sendCtrl_facts w c (commitSwap k tag)
  rw [hwcl] at htcl
  refine ⟨_, hexec, ?_, fun j hj => (htother j hj).trans (hwother j hj), ?_, ?_, w, ?_, ?_, ?_, rfl⟩
  · rw [hteq, hweq]
  · rw [htcl]
    exact committing_sent (s.cl c) k susp tag s.fab
  · rw [htcl]
    rfl
  · rw [hweq]
  · rw [hweq]
  · rw [hwcl]
    rfl

/-- Settles O46: the COMMIT waits, is recorded in a replay run, is HELD, or its swap is tried. -/
theorem commitsAreEvaluated : Obligations.CommitsAreEvaluated := by
  intro s c k hk x q p gm ready susp gone home
  have hsusp : susp ↔ maskSuspect (s.cl c) k.mask = true := (maskSuspect_iff x gm).symm
  have hnot : ¬susp ↔ maskSuspect (s.cl c) k.mask = false := by rw [hsusp, Bool.not_eq_true]
  refine ⟨fun h => ⟨s, exec_commitEvaluate_waits hk h, rfl⟩, fun r h hr => ?_, fun h hr hs hp => ?_, fun h hr hno => ⟨fun hfull => ?_,
    fun tag hfree => ⟨fun hg => ?_, fun hg => ?_⟩⟩⟩
  · obtain ⟨t, hexec, hwork, hcl, hq, hun, hlast, hrep⟩ := goes_commitReplay hk h hr
    refine ⟨t, hexec, hwork, hcl, hq, hun, hlast, fun hmine => ⟨fun hs => ?_, fun hs => ?_⟩, fun hmine => ?_⟩
    · rw [replayNext_of_mine hmine] at hrep
      refine ⟨_, hrep, ?_, rfl⟩
      show (r.bad || _) = true
      rw [hsusp.1 hs, Bool.or_true]
    · rw [replayNext_of_mine hmine, hnot.1 hs, Bool.or_false] at hrep
      exact hrep
    · rw [hrep, replayNext_of_not_mine hmine]
  · obtain ⟨w, hw, t, hexec, heq, hcl, hq, hun, hcount, hlast, hparts, hctr⟩ := goes_commitHeld hk h hr (hsusp.1 hs) hp
    obtain ⟨hv, -⟩ := heldRecorded_facts s c k
    have hpart : partD (heldRecorded s c k) q = p := by rw [hv]; rfl
    have hpartOf : partOf (heldRecorded s c k) q = partOf s q := by rw [hv]; rfl
    have hspares : replaySpares (heldRecorded s c k) p = replaySpares s p := by rw [hv]; rfl
    refine ⟨t, hexec, heq, hcl, hq, hun, hcount, hlast, fun hsome h0 hroom hspare => ?_, fun h0 hfull => ?_, fun h0 => ?_⟩
    · rw [show w = addHeld _ q _ from hw.trans (if_pos h0)] at hparts
      obtain ⟨y, hy⟩ := Option.isSome_iff_exists.1 hsome
      rw [← hpart] at hroom
      rw [← hspares, ← hpart] at hspare
      have hkept := (addHeld_kept (heldStepOf s c k) hroom hspare).2
      rw [hpart, hpartOf, hy] at hkept
      have hp' : p = y := by
        show (partOf s q).getD _ = y
        rw [hy]
        rfl
      refine ⟨_, (hparts q).trans hkept, ?_⟩
      rw [← hp']
      rfl
    · rw [show w = addHeld _ q _ from hw.trans (if_pos h0)] at hparts hctr
      rw [← hspares, ← hpart] at hfull
      obtain ⟨-, hunres, hheld⟩ := addHeld_unresolved (heldStepOf s c k) hfull
      rw [hpart] at hunres hheld
      obtain ⟨hlow, hhigh⟩ := pmReplayUnres_bounds p
      have hblk := seqBlk_lt c
      have hctr0 := (heldRecorded_facts s c k).2.2.2.2.2 (pmReplayUnresCntAt (partQ p)) (by unfold seqCommitHoldCntAt; omega)
        (by unfold seqCommitLastAt; omega)
      refine ⟨?_, fun y hy => hheld y ((hparts q).symm.trans hy)⟩
      rw [Counted, hctr _ fun hmem => absurd (completionRegs_lt c _ hmem) (by omega), hunres, hctr0]
    · intro y hy
      rw [hparts, show w = haltSoon _ q from hw.trans (if_neg h0), partOf_haltSoon, hpartOf, Option.map_eq_some_iff] at hy
      obtain ⟨z, hz, rfl⟩ := hy
      show z.haltNext = p.haltNext
      rw [show p = (partOf s q).getD _ from rfl, hz]
      rfl
  all_goals
    have hexec := exec_commitEvaluate_send hk h hr (hno.imp_left hnot.1)
  · rw [hfull, Option.elim_none] at hexec
    exact goes_commitNoTag hexec
  all_goals
    rw [hfree, Option.elim_some, show stackGone (endWait s c 2) home = stackGone s home by rw [(endWait_facts s c 2).1]; rfl, hg] at hexec
  · exact goes_commitGone (hexec.trans (by rw [if_pos rfl]; rfl))
  · obtain ⟨t, hexec, heq, hcl, hsent, htags, w, hw⟩ := goes_commitSent (hexec.trans (by rw [if_neg Bool.false_ne_true]))
    exact ⟨t, hexec, heq, hcl, hsent, commitSwap k tag, rfl, rfl, rfl, rfl, rfl, rfl, rfl, htags, w, hw⟩

end Sys2Proof.Machine
end

section
/-! The work of one unit stays in that unit: no other unit changes, and no register outside the blocks of units. -/

namespace Sys2Proof.Machine

variable {r s t : State} {u : Nat}

/-- Is a an address in the register block of a unit?  Every die's area is 256 MiB, and its units' blocks take the third 16 MiB. -/
def UnitReg (a : Nat) : Prop := 0x2000000 ≤ a % 0x10000000

theorem unitReg_of_offset (u : Nat) {k : Nat} (hk : k < 0x100000) : UnitReg (unitBlk u + k) := by
  unfold UnitReg unitBlk dieArea
  omega

/-- From s to t unit u has worked: memory, that unit and registers of units have changed. -/
structure UnitLocal (u : Nat) (s t : State) : Prop where
  same : t = { s with units := t.units, regs := t.regs, mem := t.mem }
  un : OnlyUn u s t
  kept : ∀ a, ¬ UnitReg a → t.reg a = s.reg a ∧ t.ctr a = s.ctr a

theorem UnitLocal.refl (u : Nat) (s : State) : UnitLocal u s s := ⟨rfl, fun _ _ => rfl, fun _ _ => ⟨rfl, rfl⟩⟩

theorem UnitLocal.trans (h : UnitLocal u r s) (h' : UnitLocal u s t) : UnitLocal u r t :=
  ⟨by rw [h'.same, h.same], fun k hk => (h'.un k hk).trans (h.un k hk),
    fun a ha => ⟨(h'.kept a ha).1.trans (h.kept a ha).1, (h'.kept a ha).2.trans (h.kept a ha).2⟩⟩

theorem UnitLocal.ite {c : Prop} [Decidable c] (h : UnitLocal u r s) (h' : UnitLocal u r t) : UnitLocal u r (if c then s else t) := by
  split
  · exact h
  · exact h'

theorem UnitLocal.foldl {α : Type} {f : State → α → State} (hf : ∀ s a, UnitLocal u s (f s a)) (l : List α) (s : State) :
    UnitLocal u s (l.foldl f s) :=
  foldl_inv (UnitLocal u s) f l s (.refl u s) fun b a _ hb => hb.trans (hf b a)

theorem UnitLocal.cl (h : UnitLocal u s t) (k : Nat) : t.cl k = s.cl k := by rw [h.same]; rfl

theorem UnitLocal.fab (h : UnitLocal u s t) : t.fab = s.fab := by rw [h.same]

/-! ### Memory, the unit's own state and its counters -/

theorem unitLocal_write (u : Nat) (s : State) (a : Nat) (bs : Bytes) : UnitLocal u s (s.write a bs) :=
  ⟨rfl, fun _ _ => rfl, fun _ _ => ⟨rfl, rfl⟩⟩

theorem unitLocal_clear (u : Nat) (s : State) (a n : Nat) : UnitLocal u s (s.clear a n) :=
  ⟨rfl, fun _ _ => rfl, fun _ _ => ⟨rfl, rfl⟩⟩

theorem unitLocal_modUn (s : State) (u : Nat) (f : UnitState → UnitState) : UnitLocal u s (s.modUn u f) :=
  ⟨rfl, onlyUn_modUn s u f, fun _ _ => ⟨rfl, rfl⟩⟩

theorem unitLocal_bumpBy (u : Nat) (s : State) {a : Nat} (ha : UnitReg a) (n : Nat) : UnitLocal u s (s.bumpBy a n) := by
  have hne : ∀ b, ¬ UnitReg b → b ≠ a := fun b hb heq => hb (heq ▸ ha)
  refine ⟨?_, fun _ _ => ?_, fun b hb => ⟨reg_bumpBy_ne _ (hne b hb), ctr_bumpBy_ne _ (hne b hb)⟩⟩
  · rw [bumpBy_eq]
  · rw [bumpBy_eq]
    rfl

theorem unitLocal_bump (u : Nat) (s : State) {a : Nat} (ha : UnitReg a) : UnitLocal u s (s.bump a) := unitLocal_bumpBy u s ha 1

/-- A unit's counter takes a value. -/
theorem unitLocal_putReg (u : Nat) (s : State) {a : Nat} (ha : UnitReg a) (v : Nat) :
    UnitLocal u s { s with regs := putAt s.regs a v } := by
  have hne : ∀ b, ¬ UnitReg b → b ≠ a := fun b hb heq => hb (heq ▸ ha)
  exact ⟨rfl, fun _ _ => rfl, fun b hb => ⟨(State.setReg_reg s a b v).trans (if_neg (hne b hb)), ctr_setReg_ne s v (hne b hb)⟩⟩

/-! ### Accesses -/

theorem unitLocal_modIssued (s : State) (u did : Nat) (f : Issued → Issued) : UnitLocal u s (modIssued s u did f) :=
  unitLocal_modUn ..

theorem unitLocal_spadWrite (s : State) (u o : Nat) (bs : Bytes) : UnitLocal u s (spadWrite s u o bs) := unitLocal_write ..

theorem unitLocal_putElem (s : State) (u : Nat) (f : Format) (tile r e v : Nat) : UnitLocal u s (putElem s u f tile r e v) := by
  unfold putElem
  dsimp only
  split <;> exact unitLocal_spadWrite ..

theorem unitLocal_countCvt (s : State) (u : Nat) (c : CvtCount) : UnitLocal u s (countCvt s u c) :=
  (unitLocal_bumpBy u s (unitReg_of_offset u (by decide)) _).trans (unitLocal_bumpBy u _ (unitReg_of_offset u (by decide)) _)

theorem unitLocal_putRow (s : State) (u : Nat) (d : Desc) (f : Format) (r : Nat) (vs : List Nat) :
    UnitLocal u s (putRow s u d f r vs) := by
  unfold putRow
  dsimp only
  split
  · exact .foldl (fun _ _ => unitLocal_putElem ..) _ _
  · exact unitLocal_spadWrite ..

theorem unitLocal_scale (s : State) (u : Nat) (d : Desc) (f : Format) (r i sc : Nat) (c : CvtCount) :
    UnitLocal u s (countCvt (putScale s u d f r i sc) u c) :=
  (unitLocal_spadWrite ..).trans (unitLocal_countCvt ..)

theorem unitLocal_writeRow (s : State) (u : Nat) (e : Issued) (r : Nat) : UnitLocal u s (writeRow s u e r) := by
  unfold writeRow
  dsimp only
  split
  · split
    · exact unitLocal_putRow ..
    · split
      · split
        · exact (UnitLocal.ite (.foldl (fun _ _ => unitLocal_scale ..) _ _) (.refl u s)).trans (unitLocal_putRow ..)
        · exact ((unitLocal_scale ..).trans (unitLocal_scale ..)).trans (unitLocal_putRow ..)
      · exact (unitLocal_countCvt ..).trans (unitLocal_putRow ..)
  · exact unitLocal_modUn ..
  · exact unitLocal_modUn ..
  · exact unitLocal_modUn ..
  · exact .refl u s

theorem unitLocal_markDirty (s : State) (u slot : Nat) : UnitLocal u s (markDirty s u slot) := by
  unfold markDirty
  split
  · exact .refl u s
  · split
    · exact .refl u s
    · exact .ite (unitLocal_modUn ..) (.refl u s)

theorem unitLocal_tagSlot (s : State) (u : Nat) (a : Access) (slot : Nat) : UnitLocal u s (tagSlot s u a slot) :=
  .ite (unitLocal_modUn ..) ((unitLocal_modUn ..).trans (unitLocal_markDirty ..))

theorem unitLocal_tagDone (s : State) (u : Nat) (d : Desc) (slot : Nat) : UnitLocal u s (tagDone s u d slot) :=
  .foldl (fun _ _ => unitLocal_tagSlot ..) _ _

theorem unitLocal_takeIn (s : State) (u did k off len : Nat) : UnitLocal u s (takeIn s u did k off len) := unitLocal_modIssued ..

theorem unitLocal_takeColumn (s : State) (u did k fmt tile q j : Nat) : UnitLocal u s (takeColumn s u did k fmt tile q j) :=
  .foldl (fun _ _ => unitLocal_takeIn ..) _ _

theorem unitLocal_accessEffect (s : State) (u : Nat) (e : Issued) (k : AccessKind) : UnitLocal u s (accessEffect s u e k) := by
  unfold accessEffect
  dsimp only
  split
  · exact unitLocal_takeIn ..
  · exact unitLocal_takeColumn ..
  · exact unitLocal_takeIn ..
  · exact (UnitLocal.ite (unitLocal_takeIn ..) (.refl u s)).trans (unitLocal_takeColumn ..)
  · exact (unitLocal_bumpBy u s (unitReg_of_offset u (by decide)) _).trans (unitLocal_modIssued ..)
  · exact .refl u s
  · exact (UnitLocal.foldl (fun _ _ => unitLocal_writeRow ..) _ _).trans (.foldl (fun _ _ => unitLocal_markDirty ..) _ _)
  · exact unitLocal_modUn ..

theorem unitLocal_makeAccess (s : State) (u did : Nat) (a : UnitAccess) : UnitLocal u s (makeAccess s u did a) := by
  unfold makeAccess
  split
  · exact .refl u s
  · exact ((unitLocal_accessEffect ..).trans (unitLocal_modIssued ..)).trans (.foldl (fun _ _ => unitLocal_tagDone ..) _ _)

/-! ### One region clock, and all that is due -/

theorem unitLocal_vopPhase (writes : Bool) (u t : Nat) (v : State × Bool) (did : Nat) :
    UnitLocal u v.1 (vopPhase writes u t v did).1 := by
  unfold vopPhase
  split
  · exact .refl u v.1
  · have hstep : ∀ (w : State × Bool) a (p b : Bool), UnitLocal u w.1 (if b = true then w else (makeAccess w.1 u did a, p)).1 :=
      fun w a p b => by
        cases b with
        | true => exact .refl u w.1
        | false => exact unitLocal_makeAccess ..
    exact foldl_inv (fun w : State × Bool => UnitLocal u v.1 w.1) _ _ v (.refl u v.1) fun _ _ _ hw => hw.trans (hstep ..)

theorem unitLocal_vopPhases (writes : Bool) (u t : Nat) (l : List Nat) (v : State × Bool) :
    UnitLocal u v.1 (l.foldl (vopPhase writes u t) v).1 :=
  foldl_inv (fun w : State × Bool => UnitLocal u v.1 w.1) _ _ v (.refl u v.1) fun _ _ _ hw => hw.trans (unitLocal_vopPhase ..)

theorem unitLocal_vopWait (u t : Nat) (s : State) (did : Nat) : UnitLocal u s (vopWait u t s did) := by
  unfold vopWait
  split
  · exact .refl u s
  · exact .ite (.refl u s) (.ite ((unitLocal_modIssued ..).trans (unitLocal_bump u _ (unitReg_of_offset u (by decide))))
      (unitLocal_modIssued ..))

theorem unitLocal_unitClock (u : Nat) (s : State) (t : Nat) : UnitLocal u s (unitClock u s t) := by
  unfold unitClock
  dsimp only
  refine UnitLocal.trans ?_ (.foldl (fun _ _ => unitLocal_vopWait ..) _ _)
  refine UnitLocal.trans ?_ (unitLocal_vopPhases ..)
  refine UnitLocal.trans ?_ (unitLocal_vopPhases ..)
  exact (UnitLocal.ite (unitLocal_bump u s (unitReg_of_offset u (by decide))) (.refl u s)).trans
    (.foldl (fun _ _ => unitLocal_makeAccess ..) _ _)

theorem unitLocal_sweep (s : State) (u upto : Nat) : UnitLocal u s (sweep s u upto) :=
  .ite ((unitLocal_clear ..).trans (unitLocal_modUn ..)) (.refl u s)

theorem unitLocal_catchUp (s : State) (u upto : Nat) : UnitLocal u s (catchUp s u upto) :=
  .ite (unitLocal_sweep ..)
    (((unitLocal_sweep ..).trans (.foldl (fun _ _ => unitLocal_unitClock ..) _ _)).trans (unitLocal_modUn ..))

theorem unitLocal_atPresent (s : State) (u : Nat) : UnitLocal u s (atPresent s u) := unitLocal_catchUp ..

theorem unitLocal_takePort (s : State) (u : Nat) (write : Bool) : UnitLocal u s (takePort s u write) :=
  .ite (.refl u s) (unitLocal_modUn ..)

/-! ### Rows of a transfer in the engine's own unit -/

theorem unitLocal_markDirtyRange (s : State) (u off len : Nat) : UnitLocal u s (markDirtyRange s u off len) :=
  .foldl (fun _ _ => unitLocal_markDirty ..) _ _

theorem unitLocal_putOutside (s : State) (u off : Nat) (bs : Bytes) (set : Bool) : UnitLocal u s (putOutside s u off bs set) := by
  have hbytes : UnitLocal u s (markDirtyRange (spadWrite s u off bs) u off bs.length) :=
    (unitLocal_spadWrite ..).trans (unitLocal_markDirtyRange ..)
  have hbump : ∀ v, UnitLocal u v (v.bump (unitTagOverwriteCntAt u)) := fun v =>
    unitLocal_bump u v (unitReg_of_offset u (by decide))
  unfold putOutside
  dsimp only
  generalize markDirtyRange (spadWrite s u off bs) u off bs.length = v at hbytes
  have hkept : ∀ f, UnitLocal u s (if (v.un u).issued.isEmpty = true then v else v.modUn u f) := fun f =>
    .ite hbytes (hbytes.trans (unitLocal_modUn ..))
  split
  · refine UnitLocal.trans ?_ (unitLocal_modUn ..)
    split
    · exact (hkept _).trans (hbump _)
    · exact hkept _
  · exact hkept _

theorem unitLocal_undoOutside (u : Nat) (s : State) (w : OutWrite) : UnitLocal u s (undoOutside u s w) := by
  unfold undoOutside
  dsimp only
  split
  · exact unitLocal_spadWrite ..
  · split
    · exact (unitLocal_spadWrite ..).trans (unitLocal_putReg u _ (unitReg_of_offset u (by decide)) _)
    · exact (unitLocal_spadWrite ..).trans (unitLocal_modUn ..)

theorem unitLocal_unitFirst {α : Type} (s : State) (u : Nat) {f : State → α × State} (hf : ∀ s, UnitLocal u s (f s).2) :
    UnitLocal u s (unitFirst s u f).2 := by
  unfold unitFirst
  dsimp only
  generalize (if (s.un u).outAt = unitClk s u then (s.un u).outside else []) = ws
  split
  · exact hf s
  · exact (((UnitLocal.foldl (fun _ _ => unitLocal_undoOutside ..) _ _).trans (hf _)).trans (unitLocal_modUn ..)).trans
      (.foldl (fun _ _ => unitLocal_putOutside ..) _ _)

theorem unitLocal_readRowLocal (s : State) (u : Nat) (d : Desc) (m : Nat) : UnitLocal u s (readRowLocal s u d m).2 :=
  ((unitLocal_takePort ..).trans (unitLocal_atPresent ..)).trans
    (unitLocal_unitFirst _ u fun _ => .foldl (fun _ _ => unitLocal_tagSlot ..) _ _)

theorem unitLocal_landRowLocal (s : State) (u : Nat) (d : Desc) (m : Nat) (bs : Bytes) :
    UnitLocal u s (landRowLocal s u d m bs) :=
  ((unitLocal_takePort ..).trans (unitLocal_atPresent ..)).trans (unitLocal_unitFirst _ u fun _ =>
    ((unitLocal_spadWrite ..).trans (unitLocal_markDirty ..)).trans (.foldl (fun _ _ => unitLocal_tagSlot ..) _ _))

end Sys2Proof.Machine
end

section
/-! Replies and acknowledgements at a stream engine: what landing one changes, said once for the fabric's answers and for the
timeouts of remote requests. -/

namespace Sys2Proof.Machine

variable {s t : State} {c : Nat} {g : Tag} {p : Packet}

/-- A cluster's SE_ counters are no registers of units. -/
theorem seReg_not_unitReg (c : Nat) {k : Nat} (hk : k < 0x10000) : ¬ UnitReg (seBlk c + k) := by
  unfold UnitReg seBlk seqBlk dieArea
  omega

theorem modEng_facts (s : State) (c did : Nat) (f : Eng → Eng) :
    let t := modEng s c did f
    t = { s with clusters := t.clusters } ∧ OnlyCl c s t ∧
    t.cl c = { s.cl c with eng := mapFirst (fun e => e.d.did == did) f (s.cl c).eng } :=
  ⟨rfl, fun _ hk => (State.setCl_cl ..).trans (if_neg hk), State.setCl_self ..⟩

/-! ### Acknowledgements of writes -/

/-- A descriptor of the engine after the acknowledgement of one of its rows (R157, R272, R332). -/
def Eng.acked (g : Tag) (p : Packet) (e : Eng) : Eng :=
  { e with
    done := e.done + 1
    suspect := e.suspect || (p.poison && p.status == sOk)
    error := e.error || (p.status != sOk && (e.d.cls != 5 || g.remote)) }

/-- The descriptors of the engine after an answer for tag g; those of a transfer that has been abandoned stay as they are (R59). -/
def answered (g : Tag) (f : Eng → Eng) (es : List Eng) : List Eng :=
  match es.find? fun e => e.d.did == g.did with
  | none => es
  | some e => if e.stopped = true then es else mapFirst (fun e => e.d.did == g.did) f es

theorem answered_of_some {f : Eng → Eng} {es : List Eng} {e : Eng} (h : es.find? (fun e => e.d.did == g.did) = some e) :
    answered g f es = if e.stopped = true then es else mapFirst (fun e => e.d.did == g.did) f es := by
  unfold answered
  rw [h]

/-- The cluster has ended its wait for a write tag and given back the tag of g. -/
def writeTagFreed (s : State) (c : Nat) (g : Tag) : State :=
  (endWait s c 2).modCl c fun x => { x with wtags := x.wtags.filter fun k => k.tag != g.tag }

theorem writeTagFreed_facts (s : State) (c : Nat) (g : Tag) :
    let t := writeTagFreed s c g
    t = { s with regs := t.regs, clusters := t.clusters } ∧ OnlyCl c s t ∧
    (∃ l, t.cl c = { s.cl c with waits := l, wtags := (s.cl c).wtags.filter fun k => k.tag != g.tag }) ∧
    ∀ a, a ≠ seWrFullCntAt c → t.reg a = s.reg a ∧ t.ctr a = s.ctr a := by
  obtain ⟨heq, hcl, ⟨l, hself⟩, hkept⟩ := endWait_facts s c 2
  refine ⟨?_, fun k hk => ?_, ⟨l, ?_⟩, hkept⟩
  · refine (show writeTagFreed s c g = { endWait s c 2 with clusters := (writeTagFreed s c g).clusters } from rfl).trans ?_
    rw [heq]
    rfl
  · exact ((State.setCl_cl ..).trans (if_neg hk)).trans (hcl k hk)
  · rw [writeTagFreed, State.modCl, State.setCl_self, hself]

/-- The acknowledgement counts for its descriptor, unless its transfer has been abandoned. -/
def ackCounted (s : State) (c : Nat) (g : Tag) (p : Packet) : State :=
  match (s.cl c).eng.find? fun e => e.d.did == g.did with
  | none => s
  | some e => if e.stopped then s else modEng s c g.did (Eng.acked g p)

theorem ackAtCluster_eq (ha : (s.cl c).absorbing = false) (hlt : p.wtag < 0x10000)
    (hg : (s.cl c).wtags.find? (fun k => k.tag == p.wtag) = some g) :
    ackAtCluster s c p = ackCounted (writeTagFreed s c g) c g p := by
  unfold ackAtCluster
  dsimp only
  rw [ha, if_neg Bool.false_ne_true, if_neg (Nat.not_le_of_lt hlt), hg]
  rfl

/-- An acknowledgement frees its tag and counts for its descriptor. -/
theorem ackAtCluster_facts (ha : (s.cl c).absorbing = false) (hlt : p.wtag < 0x10000)
    (hg : (s.cl c).wtags.find? (fun k => k.tag == p.wtag) = some g) :
    let t := ackAtCluster s c p
    t = { s with regs := t.regs, clusters := t.clusters } ∧ OnlyCl c s t ∧
    (∃ l, t.cl c = { s.cl c with
      waits := l, wtags := (s.cl c).wtags.filter fun k => k.tag != g.tag, eng := answered g (Eng.acked g p) (s.cl c).eng }) ∧
    ∀ a, a ≠ seWrFullCntAt c → t.reg a = s.reg a ∧ t.ctr a = s.ctr a := by
  obtain ⟨heq, hcl, ⟨l, hself⟩, hkept⟩ := writeTagFreed_facts s c g
  intro t
  rw [show t = _ from ackAtCluster_eq ha hlt hg]
  generalize writeTagFreed s c g = v at heq hcl hself hkept
  have heng : (v.cl c).eng = (s.cl c).eng := by rw [hself]
  unfold ackCounted answered
  dsimp only
  rw [heng]
  split
  · exact ⟨heq, hcl, ⟨l, hself⟩, hkept⟩
  · split
    · exact ⟨heq, hcl, ⟨l, hself⟩, hkept⟩
    · obtain ⟨hmeq, hmcl, hmself⟩ := modEng_facts v c g.did (Eng.acked g p)
      refine ⟨by rw [hmeq, heq], fun k hk => (hmcl k hk).trans (hcl k hk), ⟨l, ?_⟩, hkept⟩
      rw [hmself, hself]

/-! ### Replies to reads -/

/-- The cluster has ended its wait for a read tag and given back the tag of g. -/
def readTagFreed (s : State) (c : Nat) (g : Tag) : State :=
  (endWait s c 1).modCl c fun x => { x with rtags := x.rtags.filter fun k => k.tag != g.tag }

theorem readTagFreed_facts (s : State) (c : Nat) (g : Tag) :
    let t := readTagFreed s c g
    t = { s with regs := t.regs, clusters := t.clusters } ∧ OnlyCl c s t ∧
    (∃ l, t.cl c = { s.cl c with waits := l, rtags := (s.cl c).rtags.filter fun k => k.tag != g.tag }) ∧
    ∀ a, a ≠ seInflightFullCntAt c → t.reg a = s.reg a ∧ t.ctr a = s.ctr a := by
  obtain ⟨heq, hcl, ⟨l, hself⟩, hkept⟩ := endWait_facts s c 1
  refine ⟨?_, fun k hk => ?_, ⟨l, ?_⟩, hkept⟩
  · refine (show readTagFreed s c g = { endWait s c 1 with clusters := (readTagFreed s c g).clusters } from rfl).trans ?_
    rw [heq]
    rfl
  · exact ((State.setCl_cl ..).trans (if_neg hk)).trans (hcl k hk)
  · rw [readTagFreed, State.modCl, State.setCl_self, hself]

/-- Has the other side of a read failed (R147, R185, R268)? -/
def readFailed (g : Tag) (p : Packet) : Bool := p.status != sOk && (g.remote || !fromStack p)

/-- A descriptor of the engine after one of its rows has landed (R273, R332). -/
def Eng.landed (bad failed : Bool) (e : Eng) : Eng :=
  { e with done := e.done + 1, suspect := e.suspect || (bad && !failed), error := e.error || failed }

/-- The bytes that land: zeros where the reply cannot be used (R273). -/
def landedBytes (e : Eng) (p : Packet) : Bytes := if !payloadOk p then zeros (engCells e.d).2 else p.payload

theorem landReply_none (h : (s.cl c).eng.find? (fun e => e.d.did == g.did) = none) : landReply s c g p = readTagFreed s c g := by
  obtain ⟨-, -, ⟨l, hself⟩, -⟩ := readTagFreed_facts s c g
  have heng : ((readTagFreed s c g).cl c).eng = (s.cl c).eng := by rw [hself]
  unfold landReply
  dsimp only
  rw [show ((endWait s c 1).modCl c _) = readTagFreed s c g from rfl, heng, h]

theorem landReply_stopped {e : Eng} (h : (s.cl c).eng.find? (fun e => e.d.did == g.did) = some e) (hs : e.stopped = true) :
    landReply s c g p = readTagFreed s c g := by
  obtain ⟨-, -, ⟨l, hself⟩, -⟩ := readTagFreed_facts s c g
  have heng : ((readTagFreed s c g).cl c).eng = (s.cl c).eng := by rw [hself]
  unfold landReply
  dsimp only
  rw [show ((endWait s c 1).modCl c _) = readTagFreed s c g from rfl, heng, h]
  exact if_pos hs

theorem landReply_lands {e : Eng} (h : (s.cl c).eng.find? (fun e => e.d.did == g.did) = some e) (hs : e.stopped = false) :
    landReply s c g p =
      let v := landRowLocal (readTagFreed s c g) e.unit e.d g.row (landedBytes e p)
      modEng (if !payloadOk p then v.bump (sePoisonCntAt c) else v) c g.did (Eng.landed (!payloadOk p) (readFailed g p)) := by
  obtain ⟨-, -, ⟨l, hself⟩, -⟩ := readTagFreed_facts s c g
  have heng : ((readTagFreed s c g).cl c).eng = (s.cl c).eng := by rw [hself]
  unfold landReply
  dsimp only
  rw [show ((endWait s c 1).modCl c _) = readTagFreed s c g from rfl, heng, h]
  exact if_neg (by rw [hs]; exact Bool.false_ne_true)

/-- What the landing of a reply at cluster c leaves as it is, whatever transfer it is for. -/
structure Landed (c : Nat) (g : Tag) (s t : State) : Prop where
  same : t = { s with regs := t.regs, mem := t.mem, clusters := t.clusters, units := t.units }
  cl : OnlyCl c s t
  self : ∃ l es, t.cl c = { s.cl c with waits := l, rtags := (s.cl c).rtags.filter fun k => k.tag != g.tag, eng := es }
  kept : ∀ a, ¬ UnitReg a → a ≠ seInflightFullCntAt c → a ≠ sePoisonCntAt c → t.reg a = s.reg a ∧ t.ctr a = s.ctr a

/-- The reply of an abandoned transfer, or of none, frees its tag and does nothing else. -/
theorem readTagFreed_landed (s : State) (c : Nat) (g : Tag) :
    Landed c g s (readTagFreed s c g) ∧ ((readTagFreed s c g).cl c).eng = (s.cl c).eng ∧ (readTagFreed s c g).mem = s.mem ∧
    (readTagFreed s c g).units = s.units := by
  obtain ⟨heq, hcl, ⟨l, hself⟩, hkept⟩ := readTagFreed_facts s c g
  exact ⟨⟨by rw [heq], hcl, ⟨l, (s.cl c).eng, hself⟩, fun a _ ha _ => hkept a ha⟩, by rw [hself], by rw [heq], by rw [heq]⟩

/-- The reply of a transfer lands in the engine's own unit. -/
theorem landReply_facts {e : Eng} (h : (s.cl c).eng.find? (fun e => e.d.did == g.did) = some e) (hs : e.stopped = false) :
    let t := landReply s c g p
    Landed c g s t ∧ OnlyUn e.unit s t ∧
    (t.cl c).eng = mapFirst (fun f => f.d.did == g.did) (Eng.landed (!payloadOk p) (readFailed g p)) (s.cl c).eng ∧
    t.mem = (landRowLocal (readTagFreed s c g) e.unit e.d g.row (landedBytes e p)).mem ∧
    (payloadOk p = false → Counted (sePoisonCntAt c) s t) := by
  intro t
  obtain ⟨heq, hcl, ⟨l, hself⟩, hkept⟩ := readTagFreed_facts s c g
  have hrow := unitLocal_landRowLocal (readTagFreed s c g) e.unit e.d g.row (landedBytes e p)
  have ht : t = _ := landReply_lands h hs
  rw [ht]
  dsimp only
  generalize readTagFreed s c g = u at heq hcl hself hkept hrow
  generalize landRowLocal u e.unit e.d g.row (landedBytes e p) = v at hrow
  have hpois : ¬ UnitReg (sePoisonCntAt c) := seReg_not_unitReg c (by decide)
  have hw : ∃ w, w = (if !payloadOk p then v.bump (sePoisonCntAt c) else v) ∧ w = { v with regs := w.regs } ∧
      (∀ a, a ≠ sePoisonCntAt c → w.reg a = v.reg a ∧ w.ctr a = v.ctr a) ∧
      (payloadOk p = false → Counted (sePoisonCntAt c) v w) := by
    refine ⟨_, rfl, ?_⟩
    cases payloadOk p with
    | true => exact ⟨rfl, fun _ _ => ⟨rfl, rfl⟩, fun h => by cases h⟩
    | false => exact ⟨bump_eq .., fun a ha => ⟨reg_bump_ne _ ha, ctr_bump_ne _ ha⟩, fun _ => ctr_bump_self ..⟩
  obtain ⟨w, hweq, hwsame, hwkept, hwcount⟩ := hw
  rw [← hweq]
  obtain ⟨hmeq, hmcl, hmself⟩ := modEng_facts w c g.did (Eng.landed (!payloadOk p) (readFailed g p))
  have hwcl : ∀ k, w.cl k = u.cl k := fun k => by rw [hwsame]; exact hrow.cl k
  rw [hwcl, hself] at hmself
  refine ⟨⟨?_, fun k hk => ?_, ⟨l, _, hmself⟩, fun a ha hf hp => ?_⟩, fun k hk => ?_, ?_, ?_, fun hbad => ?_⟩
  · rw [hmeq, hwsame, hrow.same, heq]
  · rw [hmcl k hk, hwcl, hcl k hk]
  · exact ⟨((hwkept a hp).1.trans (hrow.kept a ha).1).trans (hkept a hf).1,
      ((hwkept a hp).2.trans (hrow.kept a ha).2).trans (hkept a hf).2⟩
  · have hun : ∀ x : State, x = { s with regs := x.regs, clusters := x.clusters } → x.un k = s.un k := fun x hx => by rw [hx]; rfl
    exact ((show (modEng w c _ _).un k = v.un k by rw [hmeq, hwsame]; rfl).trans (hrow.un k hk)).trans (hun u heq)
  · rw [hmself]
  · rw [hmeq, hwsame]
  · have hc := hwcount hbad
    rw [Counted, (hrow.kept _ hpois).2, (hkept _ (by unfold sePoisonCntAt seInflightFullCntAt; omega)).2] at hc
    exact hc

end Sys2Proof.Machine
end

section
/-! Timeouts of remote requests, tags held back, and the answers of atomics (O50). -/

namespace Sys2Proof.Machine

variable {s t : State} {c : ClusterId} {g : Tag} {tag : Nat}

/-! ### A remote request times out -/

/-- The state at the time of g's timeout, which is counted (R333). -/
def timedOut (s : State) (c : ClusterId) (g : Tag) : State :=
  (advFab s (g.sentAt + 2000 * xtimeoutUs s (cluQuarter c))).bump (seXtimeoutCntAt c)

theorem timedOut_facts (s : State) (c : ClusterId) (g : Tag) :
    let v := timedOut s c g
    v = { s with fab := v.fab, regs := v.regs, keepers := v.keepers, mgr := v.mgr } ∧
    v.fab = max s.fab (g.sentAt + 2000 * xtimeoutUs s (cluQuarter c)) ∧ Counted (seXtimeoutCntAt c) s v ∧
    ∀ a, a ≠ seXtimeoutCntAt c → v.reg a = s.reg a ∧ v.ctr a = s.ctr a := by
  unfold timedOut
  generalize g.sentAt + 2000 * xtimeoutUs s (cluQuarter c) = f
  obtain ⟨heq, hcount, -⟩ := bump_counts (advFab s f) (seXtimeoutCntAt c)
  refine ⟨?_, ?_, ?_, fun a ha => ⟨?_, ?_⟩⟩
  · rw [heq, advFab_eq]
  · rw [heq]
    exact fab_advFab ..
  · rw [Counted, hcount, ctr_advFab]
  · rw [reg_bump_ne _ ha, reg_advFab]
  · rw [ctr_bump_ne _ ha, ctr_advFab]

/-- The FENCED acknowledgement that a timed-out write takes (R333). -/
def fencedAck (tag : Nat) : Packet := { typ := tWrAck, wtag := tag, status := sFenced }

/-- The FENCED reply that a timed-out read takes (R333). -/
def fencedReply (tag : Nat) : Packet := withPoison { typ := tRdData, rtag := tag, status := sFenced } 1024

/-- A tag is held back for twice QC_XTIMEOUT.US (R333). -/
def tagQuarantined (s : State) (c : ClusterId) (write : Bool) (tag : Nat) : State :=
  s.modCl c fun x => { x with
    quar := x.quar ++ [{ write := write, tag := tag, until_ := some (s.fab + quarCycles s (cluQuarter c)), absorb := false }] }

theorem cl_tagQuarantined (s : State) (c : ClusterId) (write : Bool) (tag : Nat) :
    ∃ qs, (tagQuarantined s c write tag).cl c = { s.cl c with quar := qs } := ⟨_, State.setCl_self ..⟩

/-- Only the tags held back change. -/
theorem tagQuarantined_records (s : State) (c : ClusterId) (write : Bool) (tag : Nat) :
    (tagQuarantined s c write tag).units = s.units ∧ (tagQuarantined s c write tag).mem = s.mem ∧
    (∀ k, (tagQuarantined s c write tag).un k = s.un k) ∧ ∀ a, (tagQuarantined s c write tag).ctr a = s.ctr a :=
  ⟨rfl, rfl, fun _ => rfl, fun _ => rfl⟩

theorem exec_remoteTimeout_write (hg : (s.cl c).wtags.find? (fun t => t.tag == tag && t.remote) = some g) :
    exec (.remoteTimeout c true tag) s = .next (tagQuarantined (ackAtCluster (timedOut s c g) c (fencedAck tag)) c true tag) := by
  show execRemoteTimeout c true tag s = _
  unfold execRemoteTimeout
  dsimp only
  rw [if_pos rfl, hg]
  rfl

theorem exec_remoteTimeout_read (hg : (s.cl c).rtags.find? (fun t => t.tag == tag && t.remote) = some g) :
    exec (.remoteTimeout c false tag) s = .next (tagQuarantined (landReply (timedOut s c g) c g (fencedReply tag)) c false tag) := by
  show execRemoteTimeout c false tag s = _
  unfold execRemoteTimeout
  simp only [Bool.false_eq_true, if_false, hg]
  rfl

/-- QC_XTIMEOUT is no register of a unit or of a stream engine. -/
theorem qcXtimeout_mod (q : Nat) : qcXtimeoutAt q % 0x10000000 = 0x30680 := by
  unfold qcXtimeoutAt qcBlk edgeArea
  omega

theorem seReg_mod (c k : Nat) (hk : k < 0x10000) : 0x1000000 ≤ (seBlk c + k) % 0x10000000 := by
  unfold seBlk seqBlk dieArea
  omega

theorem qcXtimeout_ne_se (q c : Nat) {k : Nat} (hk : k < 0x10000) : qcXtimeoutAt q ≠ seBlk c + k := fun heq => by
  have h := seReg_mod c k hk
  rw [← heq, qcXtimeout_mod] at h
  omega

theorem qcXtimeout_not_unitReg (q : Nat) : ¬ UnitReg (qcXtimeoutAt q) := by
  unfold UnitReg
  rw [qcXtimeout_mod]
  omega

theorem quarCycles_congr {q : Nat} (h : t.reg (qcXtimeoutAt q) = s.reg (qcXtimeoutAt q)) : quarCycles t q = 4000 * xtimeoutUs s q := by
  unfold quarCycles xtimeoutUs State.regField
  rw [h]
  omega

/-- After the answer a timed-out request takes, its tag is held back: v is the state after that answer. -/
theorem quarantine_facts {v : State} (write : Bool) (hreg : v.reg (qcXtimeoutAt (cluQuarter c)) = s.reg (qcXtimeoutAt (cluQuarter c))) :
    let t := tagQuarantined v c write tag
    t = { v with clusters := t.clusters } ∧ OnlyCl c v t ∧ t.cl c = { v.cl c with quar := (v.cl c).quar ++
      [{ write := write, tag := tag, until_ := some (v.fab + 4000 * xtimeoutUs s (cluQuarter c)), absorb := false }] } := by
  refine ⟨rfl, fun _ hk => (State.setCl_cl ..).trans (if_neg hk), ?_⟩
  rw [← quarCycles_congr hreg]
  exact State.setCl_self ..

/-- What a timeout does whatever the request was: the tag is held back from its time on, and it is counted. -/
structure TagHeld (c : ClusterId) (write : Bool) (tag : Nat) (g : Tag) (s t : State) : Prop where
  fab : t.fab = max s.fab (g.sentAt + 2000 * xtimeoutUs s (cluQuarter c))
  cl : OnlyCl c s t
  count : Counted (seXtimeoutCntAt c) s t
  same : t = { s with
    fab := t.fab, regs := t.regs, mem := t.mem, clusters := t.clusters, units := t.units, keepers := t.keepers, mgr := t.mgr }
  quar : (t.cl c).quar = (s.cl c).quar ++
    [{ write := write, tag := tag, until_ := some (t.fab + 4000 * xtimeoutUs s (cluQuarter c)), absorb := false }]

/-- The answer of a timed-out request changes nothing that its timeout reads, and the tag is held back. -/
theorem tagHeld_of_answer {v : State} (write : Bool)
    (hsame : v = { timedOut s c g with regs := v.regs, mem := v.mem, clusters := v.clusters, units := v.units })
    (hcl : OnlyCl c (timedOut s c g) v) (hquar : (v.cl c).quar = (s.cl c).quar)
    (hkept : ∀ a, a = qcXtimeoutAt (cluQuarter c) ∨ a = seXtimeoutCntAt c →
      v.reg a = (timedOut s c g).reg a ∧ v.ctr a = (timedOut s c g).ctr a) :
    TagHeld c write tag g s (tagQuarantined v c write tag) := by
  obtain ⟨heq, hfab, hcount, hregs⟩ := timedOut_facts s c g
  have hreg : v.reg (qcXtimeoutAt (cluQuarter c)) = s.reg (qcXtimeoutAt (cluQuarter c)) :=
    (hkept _ (.inl rfl)).1.trans (hregs _ (qcXtimeout_ne_se _ _ (by decide))).1
  obtain ⟨hteq, htcl, htself⟩ := quarantine_facts (tag := tag) write hreg
  have hvfab : v.fab = (timedOut s c g).fab := by rw [hsame]
  refine ⟨?_, fun k hk => ?_, ?_, ?_, ?_⟩
  · exact hvfab.trans hfab
  · rw [htcl k hk, hcl k hk, heq]
    rfl
  · exact (hkept _ (.inr rfl)).2.trans hcount
  · rw [hteq, hsame, heq]
  · rw [htself, hquar]
    rfl

theorem find?_tag_remote {l : List Tag} (h : l.find? (fun k => k.tag == tag && k.remote) = some g) :
    g.tag = tag ∧ g.remote = true := by
  have hboth := List.find?_some h
  rwa [Bool.and_eq_true, beq_iff_eq] at hboth

theorem find?_remote_of_first {l : List Tag} (h : l.find? (fun k => k.tag == tag) = some g) (hr : g.remote = true) :
    l.find? (fun k => k.tag == tag && k.remote) = some g := by
  induction l with
  | nil => cases h
  | cons a l ih =>
    rw [List.find?_cons] at h ⊢
    cases ht : a.tag == tag with
    | true =>
      rw [ht] at h
      cases h
      rw [hr]
      rfl
    | false =>
      rw [ht] at h
      exact ih h

theorem goes_writeTimeout (ha : (s.cl c).absorbing = false) (hg : (s.cl c).wtags.find? (fun k => k.tag == tag) = some g)
    (hr : g.remote = true) (hlt : tag < 0x10000) : Goes (.remoteTimeout c true tag) s fun t => TagHeld c true tag g s t ∧
      t.units = s.units ∧ SameMem s t ∧ (t.cl c).wtags = (s.cl c).wtags.filter (fun k => k.tag != g.tag) ∧
      (t.cl c).eng = answered g (Eng.acked g (fencedAck tag)) (s.cl c).eng := by
  refine ⟨_, exec_remoteTimeout_write (find?_remote_of_first hg hr), ?_⟩
  obtain ⟨heq, -, -, -⟩ := timedOut_facts s c g
  have hcl : ∀ k, (timedOut s c g).cl k = s.cl k := fun k => by rw [heq]; rfl
  obtain ⟨hveq, hvcl, ⟨l, hvself⟩, hvkept⟩ := ackAtCluster_facts (s := timedOut s c g) (c := c) (p := fencedAck tag) (g := g)
    (by rw [hcl]; exact ha) hlt (by rw [hcl]; exact hg)
  rw [hcl] at hvself
  have hse : ∀ a, a = qcXtimeoutAt (cluQuarter c) ∨ a = seXtimeoutCntAt c → a ≠ seWrFullCntAt c := by
    rintro a (rfl | rfl)
    · exact qcXtimeout_ne_se _ _ (by decide)
    · unfold seXtimeoutCntAt seWrFullCntAt
      omega
  generalize ackAtCluster (timedOut s c g) c (fencedAck tag) = v at hveq hvcl hvself hvkept
  have hheld : TagHeld c true tag g s (tagQuarantined v c true tag) :=
    tagHeld_of_answer true (by rw [hveq]) hvcl (by rw [hvself]) fun a h => hvkept a (hse a h)
  obtain ⟨qs, hself⟩ := cl_tagQuarantined v c true tag
  obtain ⟨hunits, hmem, -⟩ := tagQuarantined_records v c true tag
  refine ⟨hheld, ?_, fun a => ?_, ?_, ?_⟩
  · rw [hunits, hveq, heq]
  · rw [hmem, hveq, heq]
  · rw [hself, hvself]
  · rw [hself, hvself]

/-- The answer of a timed-out write counts its row as ERROR. -/
theorem acked_fenced (hr : g.remote = true) (tag : Nat) :
    Eng.acked g (fencedAck tag) = fun f => { f with done := f.done + 1, error := true } := by
  funext f
  unfold Eng.acked
  rw [hr, Bool.or_true, Bool.and_true, show ((fencedAck tag).poison && (fencedAck tag).status == sOk) = false from rfl,
    Bool.or_false, show ((fencedAck tag).status != sOk) = true from rfl, Bool.or_true]

/-- The reply a timed-out read takes is poisoned, and its row counts as ERROR. -/
theorem landed_fenced (hr : g.remote = true) (tag : Nat) : payloadOk (fencedReply tag) = false ∧
    Eng.landed (!payloadOk (fencedReply tag)) (readFailed g (fencedReply tag)) =
      fun f => { f with done := f.done + 1, error := true } := by
  have hbad : payloadOk (fencedReply tag) = false := rfl
  have hfailed : readFailed g (fencedReply tag) = true := by
    unfold readFailed
    rw [hr, Bool.true_or, Bool.and_true]
    rfl
  refine ⟨hbad, funext fun f => ?_⟩
  unfold Eng.landed
  rw [hfailed, Bool.not_true, Bool.and_false, Bool.or_false, Bool.or_true]

/-- What the landing of a timed-out read leaves, and the tag that is held back. -/
theorem tagHeld_of_landed {v : State} (h : Landed c g (timedOut s c g) v) : TagHeld c false tag g s (tagQuarantined v c false tag) := by
  obtain ⟨heq, -, -, -⟩ := timedOut_facts s c g
  obtain ⟨l, es, hself⟩ := h.self
  refine tagHeld_of_answer false h.same h.cl ?_ ?_
  · rw [hself, heq]
    rfl
  · rintro a (rfl | rfl)
    · exact h.kept _ (qcXtimeout_not_unitReg _) (qcXtimeout_ne_se _ _ (by decide)) (qcXtimeout_ne_se _ _ (by decide))
    · exact h.kept _ (seReg_not_unitReg c (by decide)) (by unfold seXtimeoutCntAt seInflightFullCntAt; omega)
        (by unfold seXtimeoutCntAt sePoisonCntAt; omega)

theorem goes_readTimeout (hg : (s.cl c).rtags.find? (fun k => k.tag == tag && k.remote) = some g) :
    Goes (.remoteTimeout c false tag) s fun t => TagHeld c false tag g s t ∧
      (t.cl c).rtags = (s.cl c).rtags.filter (fun k => k.tag != g.tag) ∧
      (∀ e, (s.cl c).eng.find? (fun e => e.d.did == g.did) = some e →
        (e.stopped = true → (t.cl c).eng = (s.cl c).eng ∧ SameMem s t ∧ t.units = s.units) ∧
        (e.stopped = false → OnlyUn e.unit s t ∧ Counted (sePoisonCntAt c) s t ∧
          (t.cl c).eng = mapFirst (fun f => f.d.did == g.did) (fun f => { f with done := f.done + 1, error := true }) (s.cl c).eng)) := by
  have hremote : g.remote = true := (find?_tag_remote hg).2
  obtain ⟨heq, -, -, hregs⟩ := timedOut_facts s c g
  have hcl : (timedOut s c g).cl c = s.cl c := by rw [heq]; rfl
  have hrtags : ∀ v, Landed c g (timedOut s c g) v →
      ((tagQuarantined v c false tag).cl c).rtags = (s.cl c).rtags.filter (fun k => k.tag != g.tag) := fun v hv => by
    obtain ⟨l, es, hvself⟩ := hv.self
    obtain ⟨qs, hself⟩ := cl_tagQuarantined v c false tag
    rw [hself, hvself, hcl]
  refine ⟨_, exec_remoteTimeout_read hg, ?_⟩
  obtain ⟨hfreed, hfeng, hfmem, hfun⟩ := readTagFreed_landed (timedOut s c g) c g
  obtain ⟨hbad, hlanded⟩ := landed_fenced hremote tag
  generalize fencedReply tag = p at hbad hlanded ⊢
  cases hfind : (s.cl c).eng.find? (fun e => e.d.did == g.did) with
  | none =>
    rw [landReply_none (by rw [hcl]; exact hfind)]
    exact ⟨tagHeld_of_landed hfreed, hrtags _ hfreed, fun e he => by cases he⟩
  | some e =>
    cases hstop : e.stopped with
    | true =>
      rw [landReply_stopped (by rw [hcl]; exact hfind) hstop]
      obtain ⟨hquarUnits, hquarMem, -⟩ := tagQuarantined_records (readTagFreed (timedOut s c g) c g) c false tag
      refine ⟨tagHeld_of_landed hfreed, hrtags _ hfreed, fun e' he => ?_⟩
      cases he
      refine ⟨fun _ => ⟨?_, fun a => ?_, ?_⟩, fun h => absurd (hstop.symm.trans h) (by decide)⟩
      · obtain ⟨qs, hself⟩ := cl_tagQuarantined (readTagFreed (timedOut s c g) c g) c false tag
        rw [hself]
        exact hfeng.trans (by rw [hcl])
      · rw [hquarMem, hfmem, heq]
      · rw [hquarUnits, hfun, heq]
    | false =>
      obtain ⟨hl, hun, heng, -, hcount⟩ := landReply_facts (s := timedOut s c g) (c := c) (g := g) (p := p)
        (by rw [hcl]; exact hfind) hstop
      rw [hlanded, hcl] at heng
      generalize landReply (timedOut s c g) c g p = v at hl hun heng hcount ⊢
      obtain ⟨-, -, hquarUn, hquarCtr⟩ := tagQuarantined_records v c false tag
      refine ⟨tagHeld_of_landed hl, hrtags _ hl, fun e' he => ?_⟩
      cases he
      refine ⟨fun h => absurd h (by rw [hstop]; exact Bool.false_ne_true), fun _ => ⟨fun k hk => ?_, ?_, ?_⟩⟩
      · rw [hquarUn, hun k hk, heq]
        rfl
      · have hc := hcount hbad
        rw [Counted, (hregs _ (by unfold sePoisonCntAt seXtimeoutCntAt; omega)).2] at hc
        rw [Counted, hquarCtr, hc]
      · obtain ⟨qs, hself⟩ := cl_tagQuarantined v c false tag
        rw [hself]
        exact heng

/-! ### A tag held back is free again -/

theorem exec_tagQuarantineEnd_none {w : Bool} (h : (s.cl c).quar.find? (fun t => t.write == w && t.tag == tag) = none) :
    exec (.tagQuarantineEnd c w tag) s = .next s := by
  show execTagQuarantineEnd c w tag s = _
  unfold execTagQuarantineEnd
  rw [h]

theorem goes_tagQuarantineEnd {w : Bool} {h : Quarantine} {f : Nat}
    (hq : (s.cl c).quar.find? (fun t => t.write == w && t.tag == tag) = some h) (hf : h.until_ = some f) :
    Goes (.tagQuarantineEnd c w tag) s fun t => t.fab = max s.fab f ∧ OnlyCl c s t ∧ SameMem s t ∧
      t = { s with fab := t.fab, regs := t.regs, clusters := t.clusters, keepers := t.keepers, mgr := t.mgr } ∧
      (t.cl c).quar = eraseFirst (fun u => u == h) (s.cl c).quar := by
  have hexec : exec (.tagQuarantineEnd c w tag) s = .next ((endWait (advFab s f) c (if w then 2 else 1)).modCl c fun x =>
      { x with quar := eraseFirst (fun u => u == h) x.quar }) := by
    show execTagQuarantineEnd c w tag s = _
    unfold execTagQuarantineEnd
    rw [hq]
    dsimp only
    rw [hf]
  obtain ⟨heq, hcl, ⟨l, hself⟩, -⟩ := endWait_facts (advFab s f) c (if w then 2 else 1)
  have hmem : (endWait (advFab s f) c (if w then 2 else 1)).mem = s.mem := by rw [heq]; exact mem_advFab ..
  rw [cl_advFab] at hself
  refine ⟨_, hexec, ?_, fun k hk => ?_, fun a => congrArg (memByte · a) hmem, ?_, ?_⟩
  · show (endWait (advFab s f) c _).fab = _
    rw [heq]
    exact fab_advFab ..
  · rw [State.modCl, State.setCl_cl, if_neg hk, hcl k hk, cl_advFab]
  · generalize endWait (advFab s f) c _ = v at heq
    rw [heq, advFab_eq]
    rfl
  · rw [State.modCl, State.setCl_self, hself]

/-! ### Answers of atomics at a cluster -/

theorem exec_atomRsp_region {r : RegionId} {k : Packet}
    (hk : ejected s (portOfRegion r).1 (portOfRegion r).2 (fun k => k.typ == tAtomRsp) = some k)
    (hc : agentClu k.dsite k.dagt = some c.val) : exec (.atomRsp (.region r)) s = .next (atomAnswer (cohTaken s r k) c k) := by
  have hserve := serve_eq (at_ := portOfRegion r) (fun k => k.typ == tAtomRsp) (fun k s =>
    match agentClu k.dsite k.dagt with | none => s | some c => atomAnswer s c k) hk
  rw [hc] at hserve
  exact hserve

/-- A COMMIT whose swap has been answered (R154). -/
def Commit.answeredBy (g : Tag) (k : Packet) (j : Commit) : Commit :=
  if j.d.did = g.did then { j with
    outcome := some (if k.status = sOk ∧ k.poison = false ∧ leNat (k.payload.take 8) = j.d.f 191 128 then 0 else 1) }
  else j

theorem atomAtCluster_none {c : Nat} {k : Packet} (h : (s.cl c).wtags.find? (fun t => t.tag == k.wtag) = none) :
    atomAtCluster c k s = s := by
  unfold atomAtCluster
  dsimp only
  rw [h]

/-- The answer of a swap frees its tag and gives its COMMIT the outcome. -/
theorem atomAtCluster_facts {c : Nat} {k : Packet} (h : (s.cl c).wtags.find? (fun t => t.tag == k.wtag) = some g) :
    let t := atomAtCluster c k s
    t = { s with regs := t.regs, clusters := t.clusters } ∧ OnlyCl c s t ∧
    (t.cl c).wtags = (s.cl c).wtags.filter (fun t => t.tag != k.wtag) ∧
    (t.cl c).commitQ = (s.cl c).commitQ.map (Commit.answeredBy g k) := by
  obtain ⟨heq, hcl, ⟨l, hself⟩, -⟩ := endWait_facts s c 2
  unfold atomAtCluster
  dsimp only
  rw [h]
  dsimp only
  rw [hself]
  generalize endWait s c 2 = v at heq hcl hself
  refine ⟨by rw [heq]; rfl, fun j hj => ?_, ?_, ?_⟩
  · rw [State.setCl_cl, if_neg hj, hcl j hj]
  · rw [State.setCl_self]
  · rw [State.setCl_self]
    refine List.map_congr_left fun j _ => ?_
    unfold Commit.answeredBy
    simp only [Bool.and_eq_true, beq_iff_eq, Bool.not_eq_true', and_assoc]

/-! ### Answers of atomics at an edge die -/

theorem sends_toHost (v : State) (q : Nat) (f : Quarter → Quarter) (o : Output) (hf : ∀ x, (f x).pcieUp = x.pcieUp) :
    let t := toHost (v.modQtr q f) q o
    t = { v with quarters := t.quarters, out := t.out } ∧ OnlyQtr q v t ∧
    t.out = (if (v.qtr q).pcieUp then o :: v.out else v.out) ∧ t.qtr q = f (v.qtr q) := by
  obtain ⟨heq, hq, hself⟩ := modQtr_only v q f
  have hup : ((v.modQtr q f).qtr q).pcieUp = (v.qtr q).pcieUp := by rw [hself, hf]
  unfold toHost
  dsimp only
  rw [hup]
  generalize v.modQtr q f = w at heq hq hself
  split
  · exact ⟨by rw [heq]; rfl, hq, by rw [heq]; rfl, hself⟩
  · exact ⟨by rw [heq], hq, by rw [heq], hself⟩

/-- The accesses of a quarter's host without the tag that has been answered. -/
def Quarter.atomDone (tag : Nat) (x : Quarter) : Quarter := { x with atoms := x.atoms.filter fun a => a.1 != tag }

theorem exec_atomRsp_edge {e : EdgeId} {k : Packet} (hk : ejected s (edgeSite e) 2 (fun k => k.typ == tAtomRsp) = some k) :
    exec (.atomRsp (.edge e)) s = .next (if k.peer.isSome = true then toEgress (popEject s (edgeSite e) 2 k.dagt) e 1 k
      else (endpointOf e).elim (popEject s (edgeSite e) 2 k.dagt) fun q =>
        hostAtomAnswer (popEject s (edgeSite e) 2 k.dagt) q k) := by
  show execAtomRsp (.edge e) s = _
  unfold execAtomRsp
  dsimp only
  rw [hk]
  refine congrArg Host.Outcome.next (congrArg (ite _ _) ?_)
  cases endpointOf e with
  | none => rfl
  | some q => rfl

theorem hostAtomAnswer_none {q : Nat} {k : Packet} (h : (s.qtr q).atoms.find? (fun a => a.1 == k.rtag && a.2.2 != 6) = none) :
    hostAtomAnswer s q k = s := by
  unfold hostAtomAnswer
  rw [h]

theorem hostAtomAnswer_error {q : Nat} {k : Packet} {a : Nat × Nat × Nat}
    (h : (s.qtr q).atoms.find? (fun a => a.1 == k.rtag && a.2.2 != 6) = some a) (hkind : a.2.2 < 2) (hst : k.status ≠ sOk) :
    hostAtomAnswer s q k = toHost (s.modQtr q (Quarter.atomDone k.rtag)) q (.bar2 q [] 2) := by
  obtain ⟨tag, sent, kind⟩ := a
  unfold hostAtomAnswer
  rw [h]
  dsimp only at hkind ⊢
  rw [if_neg (by omega), if_pos ⟨hst, hkind⟩]
  rfl

theorem hostAtomAnswer_data {q : Nat} {k : Packet} {a : Nat × Nat × Nat}
    (h : (s.qtr q).atoms.find? (fun a => a.1 == k.rtag && a.2.2 != 6) = some a) (hkind : a.2.2 < 2) (hst : k.status = sOk)
    (hp : k.poison = false) :
    hostAtomAnswer s q k = toHost (s.modQtr q (Quarter.atomDone k.rtag)) q (.bar2 q (k.payload.take 8) 0) := by
  obtain ⟨tag, sent, kind⟩ := a
  unfold hostAtomAnswer
  rw [h]
  dsimp only at hkind ⊢
  rw [if_neg (by omega), if_neg fun hand => hand.1 hst, if_neg (by omega), if_neg (by omega), hp, hst]
  rfl

/-- The oldest AtomicOp of a quarter's host has timed out: its tag stays taken (R333, R348). -/
def Quarter.atomLate (a : Nat × Nat × Nat) (now : Nat) (x : Quarter) : Quarter :=
  { x with atoms := (x.atoms.filter fun b => b.1 != a.1) ++ [(a.1, now, 6)] }

theorem exec_atomRsp_timeout {e : EdgeId} {q : Nat} {a : Nat × Nat × Nat}
    (hk : ejected s (edgeSite e) 2 (fun k => k.typ == tAtomRsp) = none) (he : endpointOf e = some q)
    (ha : (s.qtr q).atoms.find? (fun a => a.2.2 == 0) = some a) :
    let v := advFab s (a.2.1 + 2000 * xtimeoutUs s q)
    exec (.atomRsp (.edge e)) s = .next (toHost (v.modQtr q (Quarter.atomLate a v.fab)) q (.bar2 q [] 2)) := by
  obtain ⟨tag, sent, kind⟩ := a
  show execAtomRsp (.edge e) s = _
  unfold execAtomRsp
  dsimp only
  rw [hk]
  dsimp only
  rw [he]
  dsimp only
  unfold hostAtomTimeout
  rw [ha]
  rfl

/-- Settles O50: the timeout of a write and of a read, the end of a tag's holding, and the answers of atomics. -/
theorem remoteTimeoutsAndAtomicAnswers : Obligations.RemoteTimeoutsAndAtomicAnswers := by
  intro s
  refine ⟨fun c tag g ha => ⟨fun hg hr hlt => ?_, fun hg => ?_, fun hw hr w => ?_, fun w h f hq hf => goes_tagQuarantineEnd hq hf⟩,
    fun r c k hk hc => ?_, fun e => ⟨fun k hk => ?_, fun q a hk he ha => ?_⟩⟩
  · have htag : g.tag = tag := by simpa using List.find?_some hg
    obtain ⟨t, hexec, hheld, hun, hmem, htags, heng⟩ := goes_writeTimeout ha hg hr hlt
    refine ⟨t, hexec, ⟨hheld.fab, hheld.cl, hheld.count, ?_, ?_⟩, hun, hmem, by rw [htags, htag], fun e he => ?_⟩
    · rw [← hheld.fab]
      exact hheld.same
    · rw [← hheld.fab]
      exact hheld.quar
    · rw [heng, answered_of_some he, acked_fenced hr]
  · have htag : g.tag = tag := (find?_tag_remote hg).1
    obtain ⟨t, hexec, hheld, htags, heng⟩ := goes_readTimeout hg
    refine ⟨t, hexec, ⟨hheld.fab, hheld.cl, hheld.count, ?_, ?_⟩, by rw [htags, htag], heng⟩
    · rw [← hheld.fab]
      exact hheld.same
    · rw [← hheld.fab]
      exact hheld.quar
  · cases w with
    | true => exact ⟨s, exec_tagQuarantineEnd_none hw, rfl⟩
    | false => exact ⟨s, exec_tagQuarantineEnd_none hr, rfl⟩
  · have hexec := exec_atomRsp_region hk hc
    have hcl : ((cohTaken s r k).cl c).absorbing = (s.cl c).absorbing := rfl
    unfold atomAnswer at hexec
    rw [hcl] at hexec
    refine ⟨fun ha => ⟨(cohTaken s r k).bump (seAbsorbCntAt c), hexec.trans (by rw [if_pos ha]), rfl⟩,
      fun ha hbig => ⟨swapAnswer (cohTaken s r k) c k, hexec.trans ?_, rfl⟩, fun g ha hlt hg => ?_,
      fun ha hlt hnone => ⟨cohTaken s r k, hexec.trans ?_, rfl⟩⟩
    · rw [ha, if_neg Bool.false_ne_true, if_pos hbig]
    · rw [ha, if_neg Bool.false_ne_true, if_neg (Nat.not_le_of_lt hlt)] at hexec
      obtain ⟨heq, hocl, htags, hq⟩ := atomAtCluster_facts (s := cohTaken s r k) (c := c) (k := k) (g := g) hg
      exact ⟨_, hexec, by rw [heq]; rfl, hocl, htags, hq⟩
    · rw [ha, if_neg Bool.false_ne_true, if_neg (Nat.not_le_of_lt hlt), atomAtCluster_none (s := cohTaken s r k) hnone]
  · have hexec := exec_atomRsp_edge hk
    refine ⟨fun hp => ⟨_, hexec.trans (by rw [if_pos hp]), rfl⟩, fun q a hp he ha => ?_, fun q hp he ha => ?_⟩
    all_goals
      rw [hp, if_neg (by simp), he, Option.elim_some] at hexec
    · refine ⟨fun hkind hst => ?_, fun hkind hst hpoison => ?_⟩
      · rw [hostAtomAnswer_error (s := popEject s (edgeSite e) 2 k.dagt) ha hkind hst] at hexec
        obtain ⟨heq, hq, hout, hself⟩ := sends_toHost (popEject s (edgeSite e) 2 k.dagt) q (Quarter.atomDone k.rtag) (.bar2 q [] 2)
          fun _ => rfl
        exact ⟨_, hexec, congrArg Quarter.atoms hself, heq, hq, hout⟩
      · rw [hostAtomAnswer_data (s := popEject s (edgeSite e) 2 k.dagt) ha hkind hst hpoison] at hexec
        obtain ⟨heq, hq, hout, hself⟩ := sends_toHost (popEject s (edgeSite e) 2 k.dagt) q (Quarter.atomDone k.rtag)
          (.bar2 q (k.payload.take 8) 0) fun _ => rfl
        exact ⟨_, hexec, congrArg Quarter.atoms hself, heq, hq, hout⟩
    · rw [hostAtomAnswer_none (s := popEject s (edgeSite e) 2 k.dagt) ha] at hexec
      exact ⟨_, hexec, rfl⟩
  · obtain ⟨heq, hq, hout, hself⟩ := sends_toHost (advFab s (a.2.1 + 2000 * xtimeoutUs s q)) q
      (Quarter.atomLate a (advFab s (a.2.1 + 2000 * xtimeoutUs s q)).fab) (.bar2 q [] 2) fun _ => rfl
    refine ⟨_, exec_atomRsp_timeout hk he ha, ?_, ⟨heq, hq, hout⟩, ?_⟩
    · rw [heq]
      exact fab_advFab ..
    · rw [hself, heq, advFab_eq]
      rfl

end Sys2Proof.Machine
end

section
/-! Requests, replies and completion of a stream engine's transfers (O32). -/

namespace Sys2Proof.Machine

variable {s t u : State} {c : Nat}

/-! ### What a request changes -/

/-- From s to t cluster c's stream engine has worked: only that cluster, units, memory, registers, buckets, routers and time differ. -/
def TransferWork (c : Nat) (s t : State) : Prop := OnlyCl c s t ∧ t = { s with
  fab := t.fab, regs := t.regs, mem := t.mem, clusters := t.clusters, units := t.units, buckets := t.buckets, routers := t.routers
  keepers := t.keepers, mgr := t.mgr }

theorem TransferWork.refl (c : Nat) (s : State) : TransferWork c s s := ⟨fun _ _ => rfl, rfl⟩

theorem TransferWork.trans (h : TransferWork c s t) (h' : TransferWork c t u) : TransferWork c s u := by
  obtain ⟨hcl, heq⟩ := h
  obtain ⟨hcl', heq'⟩ := h'
  exact ⟨fun k hk => (hcl' k hk).trans (hcl k hk), by rw [heq', heq]⟩

theorem TransferWork.ite {q : Prop} [Decidable q] (h : TransferWork c s t) (h' : TransferWork c s u) :
    TransferWork c s (if q then t else u) := by
  split
  · exact h
  · exact h'

theorem transferWork_modCl (s : State) (c : Nat) (f : Cluster → Cluster) : TransferWork c s (s.modCl c f) :=
  ⟨fun _ hk => (State.setCl_cl ..).trans (if_neg hk), rfl⟩

theorem UnitLocal.transferWork {n : Nat} (h : UnitLocal n s t) (c : Nat) : TransferWork c s t :=
  ⟨fun k _ => h.cl k, by rw [h.same]⟩

theorem transferWork_bump (s : State) (c a : Nat) : TransferWork c s (s.bump a) := by
  rw [bump_eq]
  exact ⟨fun _ _ => rfl, rfl⟩

theorem transferWork_inject (s : State) (c b : Nat) (p : Packet) : TransferWork c s (injectClu (charge s b) c p) :=
  ⟨fun _ _ => rfl, rfl⟩

theorem transferWork_advClock (s : State) (c r k : Nat) : TransferWork c s (advClock s r k) := by
  refine ⟨fun j _ => cl_advClock .., ?_⟩
  rw [advClock_eq]

theorem transferWork_endWait (s : State) (c cause : Nat) : TransferWork c s (endWait s c cause) := by
  obtain ⟨heq, hcl, -⟩ := endWait_facts s c cause
  exact ⟨hcl, by rw [heq]⟩

theorem transferWork_endWaits (s : State) (c : Nat) : TransferWork c s (endWaits s c) :=
  ((transferWork_endWait ..).trans (transferWork_endWait ..)).trans (transferWork_endWait ..)

theorem transferWork_startBucketWait (s : State) (c cls : Nat) : TransferWork c s (startBucketWait s c cls) := by
  obtain ⟨b, hb⟩ := startBucketWait_eq s c cls
  rw [hb]
  exact ⟨fun _ _ => rfl, rfl⟩

theorem transferWork_passBucket {w : State} {cls : Nat} (h : passBucket s c cls = some w) : TransferWork c s w := by
  obtain ⟨f, ks, m, b, r, rfl⟩ := passBucket_eq h
  exact ⟨fun _ _ => rfl, rfl⟩

theorem transferWork_modEng (s : State) (c did : Nat) (f : Eng → Eng) : TransferWork c s (modEng s c did f) :=
  transferWork_modCl ..

/-! ### Rows -/

theorem transferWork_recordDrop (s : State) (c n off cause : Nat) (src : DropSrc) : TransferWork c s (recordDrop s n off cause src) := by
  unfold recordDrop
  exact TransferWork.trans ⟨fun _ _ => rfl, rfl⟩ (transferWork_bump ..)

theorem transferWork_readRowLocal (s : State) (c n : Nat) (d : Desc) (m : Nat) : TransferWork c s (readRowLocal s n d m).2 :=
  (unitLocal_readRowLocal s n d m).transferWork c

theorem transferWork_rowGone (s : State) (c : Nat) (e : Eng) (m : Nat) : TransferWork c s (rowGone s c e m) := by
  have hland : ∀ bs, TransferWork c s (landRowLocal s e.unit e.d m bs) := fun bs =>
    (unitLocal_landRowLocal s e.unit e.d m bs).transferWork c
  unfold rowGone
  dsimp only
  generalize zeros 1024 = bs
  exact .ite (((hland bs).trans (transferWork_bump ..)).trans (transferWork_modEng ..))
    ((transferWork_readRowLocal ..).trans (transferWork_modEng ..))

/-- A SEND takes a segment of its channel, in its own cluster. -/
theorem transferWork_segmentFor {e : Eng} {g seq : Nat} {ph : Bool} {v : State} (h : segmentFor s c e = some (g, seq, ph, v)) :
    TransferWork c s v := by
  unfold segmentFor at h
  split at h
  · dsimp only at h
    split at h
    · rw [← show s = v from congrArg (fun r => r.2.2.2) (Option.some.inj h)]
      exact .refl c s
    · rw [← show s = v from congrArg (fun r => r.2.2.2) (Option.some.inj h)]
      exact .refl c s
  · obtain ⟨⟨a, b, o, w⟩, hw, heq⟩ := Option.map_eq_some_iff.1 h
    rw [← show modEng w c e.d.did (fun e => { e with seg := some a }) = v from congrArg (fun r => r.2.2.2) heq]
    refine TransferWork.trans ?_ (transferWork_modEng ..)
    unfold takeSegment at hw
    dsimp only at hw
    split at hw
    · cases hw
    · split at hw
      · cases hw
      · cases hw
        exact transferWork_modCl ..

theorem transferWork_sendRow (s : State) (c : Nat) (e : Eng) (m : Nat) (route : Route) (tag : Option Nat) (seg seq : Nat) (ph : Bool) :
    TransferWork c s (sendRow s c e m route tag seg seq ph) := by
  unfold sendRow
  extract_lets d q r s₁ p₁ p₂ p₃ p₄ p₅ s₂ s₃ s₄
  have h₁ : TransferWork c s s₁ := by
    show TransferWork c s (if engReads d then ([], s) else readRowLocal s e.unit d m).2
    split
    · exact .refl c s
    · exact transferWork_readRowLocal ..
  have h₂ : TransferWork c s s₂ := .ite (h₁.trans (transferWork_modCl ..)) h₁
  have h₃ : TransferWork c s s₃ := by
    cases tag with
    | none => exact h₂
    | some n => exact h₂.trans (transferWork_modCl ..)
  exact (h₃.trans (transferWork_inject ..)).trans (transferWork_modEng ..)

theorem transferWork_requestRow (s : State) (c : Nat) (e : Eng) (m : Nat) (route : Route) :
    TransferWork c s (requestRow s c e m route) := by
  unfold requestRow
  dsimp only
  split
  · exact transferWork_modCl ..
  · next g seq ph v hseg =>
    have hv : TransferWork c s v := by
      split at hseg
      · exact transferWork_segmentFor hseg
      · cases hseg
        exact .refl c s
    refine .ite (transferWork_modCl ..) ?_
    cases hpass : passBucket (endWaits v c) c (engClass e.d) with
    | none => exact (transferWork_endWaits ..).trans (transferWork_startBucketWait ..)
    | some w =>
      exact ((hv.trans ((transferWork_endWaits ..).trans (transferWork_passBucket hpass))).trans (transferWork_sendRow ..)).trans
          (transferWork_modCl ..)

theorem transferWork_generateRow (s : State) (c : Nat) (e : Eng) : TransferWork c s (generateRow s c e) := by
  unfold generateRow
  dsimp only
  split
  · exact (transferWork_recordDrop ..).trans (transferWork_modEng ..)
  · split
    · exact (transferWork_modCl ..).trans (transferWork_modEng ..)
    · split
      · exact (transferWork_rowGone ..).trans (transferWork_modCl ..)
      · refine .ite ?_ (transferWork_requestRow ..)
        exact (((transferWork_readRowLocal ..).trans (transferWork_modCl ..)).trans (transferWork_modEng ..)).trans (transferWork_modCl ..)

/-! ### A request of a LOAD -/

/-- The descriptor whose row the generator takes next. -/
def nextEng (x : Cluster) : Option Eng := x.eng.find? fun e => !e.stopped && e.sent < engRows e.d

theorem exec_seGenerateRequest {c : ClusterId} {e : Eng} (he : nextEng (s.cl c) = some e) (hrun : rgnRuns s (cluRgn c) = true)
    (hbegun : ((s.un e.unit).issued.any fun i => i.d.did == e.d.did && i.begun) = true) :
    exec (.seGenerateRequest c) s = .next (generateRow (advClock s (cluRgn c) (s.cl c).genClk) c e) := by
  show execSeGenerateRequest c s = _
  unfold execSeGenerateRequest
  dsimp only
  rw [show (s.cl c).eng.find? _ = some e from he]
  dsimp only
  rw [hrun, hbegun]
  rfl

/-- A whole-row LOAD of the fabric asks for its row. -/
theorem generateRow_load {e : Eng} {site agt : Nat} (hcls : e.d.cls = 2) (hmode : (s.un e.unit).mode = .normal)
    (hrep : (s.cl c).replay = none) (hroute : rowRoute s c e.d e.sent = .fabric site agt) :
    generateRow s c e = requestRow s c e e.sent (.fabric site agt) := by
  have hbreach : rowBreach s c e.d e.sent = false := by
    unfold rowBreach
    rw [hrep]
    rfl
  unfold generateRow
  dsimp only
  rw [if_neg fun h => h.1 hmode, hbreach, if_neg Bool.false_ne_true, hroute]
  exact if_neg fun h => absurd h.1 (by omega)

theorem load_reads {d : Desc} (hcls : d.cls = 2) : engReads d = true ∧ needsTag d = true := by
  unfold engReads needsTag
  rw [hcls]
  exact ⟨rfl, rfl⟩

/-- All read tags are in use: the LOAD waits. -/
theorem requestRow_noTag {e : Eng} (hcls : e.d.cls = 2) (m : Nat) (route : Route) (hfull : lowestFree (rtagsUsed (s.cl c)) 4096 = none) :
    requestRow s c e m route = startWait s c 1 := by
  obtain ⟨hr, hn⟩ := load_reads hcls
  unfold requestRow
  dsimp only
  rw [if_neg (by omega)]
  dsimp only
  rw [hr, hn, if_pos rfl, if_pos rfl, hfull]
  rfl

theorem requestRow_tag {e : Eng} (hcls : e.d.cls = 2) (m : Nat) (route : Route) {tag : Nat}
    (hfree : lowestFree (rtagsUsed (s.cl c)) 4096 = some tag) : requestRow s c e m route =
      (passBucket (endWaits s c) c (engClass e.d)).elim (startBucketWait (endWaits s c) c (engClass e.d)) fun w =>
        genDone (sendRow w c e m route (some tag) 0 0 false) c := by
  obtain ⟨hr, hn⟩ := load_reads hcls
  unfold requestRow
  dsimp only
  rw [if_neg (by omega)]
  dsimp only
  rw [hr, hn, if_pos rfl, if_pos rfl, hfree]
  refine (if_neg Bool.false_ne_true).trans ?_
  cases passBucket (endWaits s c) c (engClass e.d) with
  | none => rfl
  | some w => rfl

/-- The request of row m of a LOAD, with its tag. -/
def loadPacket (e : Eng) (m site agt tag : Nat) : Packet :=
  { typ := tRd, cls := engClass e.d, addr := engAddr e.d m, mlen := e.d.f 120 115, rtag := tag, dsite := site, dagt := agt }

/-- The cluster when the request of row m of a LOAD goes out: its tag is held. -/
def Cluster.loading (x : Cluster) (e : Eng) (m site agt tag now : Nat) : Cluster :=
  { x with rtags := x.rtags ++
    [{ tag := tag, did := e.d.did, row := m, sentAt := now, remote := engRemote e.d, pkt := loadPacket e m site agt tag }] }

theorem rowPacket_load {d : Desc} (hcls : d.cls = 2) (s : State) (c m : Nat) (bs : Bytes) :
    rowPacket s c d m bs = { typ := tRd, addr := engAddr d m, mlen := d.f 120 115 } := by
  simp only [rowPacket, hcls]

theorem sendRow_load {e : Eng} {site agt : Nat} (hcls : e.d.cls = 2) (s : State) (c m tag : Nat) :
    sendRow s c e m (.fabric site agt) (some tag) 0 0 false =
      modEng (injectClu (charge (s.modCl c fun x => x.loading e m site agt tag s.fab) (bucketOf c (engClass e.d))) c
        (loadPacket e m site agt tag)) c e.d.did fun e => { e with sent := e.sent + 1 } := by
  obtain ⟨hr, -⟩ := load_reads hcls
  unfold sendRow
  extract_lets d q r s₁ p₁ p₂ p₃ p₄ p₅ s₂ s₃ s₄
  have hrow : r = ([], s) := if_pos hr
  have hs₁ : s₁ = s := congrArg Prod.snd hrow
  have hp₁ : p₁ = { typ := tRd, addr := engAddr e.d m, mlen := e.d.f 120 115 } := rowPacket_load hcls ..
  have hp₂ : p₂ = p₁ := if_neg (by show ¬ e.d.cls = 4; omega)
  have hp₄ : p₄ = { p₃ with rtag := tag } := if_pos hr
  have hp₅ : p₅ = loadPacket e m site agt tag := by
    show { p₄ with dsite := site, dagt := agt } = _
    rw [hp₄]
    show { p₂ with cls := engClass e.d, rtag := tag, dsite := site, dagt := agt } = _
    rw [hp₂, hp₁]
    rfl
  have hs₂ : s₂ = s := (if_neg (by show ¬ e.d.cls = 3; omega)).trans hs₁
  have hs₃ : s₃ = s.modCl c fun x => x.loading e m site agt tag s.fab := by
    show s₂.modCl c (fun x => if engReads d = true then _ else _) = _
    rw [hs₂]
    refine congrArg (s.modCl c) (funext fun x => (if_pos hr).trans ?_)
    rw [hp₅]
    rfl
  show modEng (injectClu (charge s₃ (bucketOf c (engClass e.d))) c p₅) c e.d.did _ = _
  rw [hs₃, hp₅]
  rfl

theorem endWaits_facts (s : State) (c : Nat) :
    let t := endWaits s c
    t = { s with regs := t.regs, clusters := t.clusters } ∧ ∃ l, t.cl c = { s.cl c with waits := l } := by
  obtain ⟨heq₁, -, ⟨l₁, hself₁⟩, -⟩ := endWait_facts s c 1
  obtain ⟨heq₂, -, ⟨l₂, hself₂⟩, -⟩ := endWait_facts (endWait s c 1) c 2
  obtain ⟨heq₃, -, ⟨l₃, hself₃⟩, -⟩ := endWait_facts (endWait (endWait s c 1) c 2) c 3
  intro t
  have ht : t = endWait (endWait (endWait s c 1) c 2) c 3 := rfl
  rw [← ht] at heq₃ hself₃
  refine ⟨by rw [heq₃, heq₂, heq₁], l₃, ?_⟩
  rw [hself₃, hself₂, hself₁]

/-- What the request of a LOAD's row m leaves, v being the state in whose clock it is made and w that in which it passes. -/
structure LoadSent (c : Nat) (e : Eng) (m site agt tag : Nat) (s w t : State) : Prop where
  sends : Sends (cluSite c) (4 + c % 4 / 2) (fromClu c (loadPacket e m site agt tag)) s t
  fab : t.fab = w.fab
  mem : t.mem = s.mem
  rtags : (t.cl c).rtags = ((s.cl c).loading e m site agt tag w.fab).rtags
  eng : (t.cl c).eng = mapFirst (fun f => f.d.did == e.d.did) (fun f => { f with sent := f.sent + 1 }) (s.cl c).eng
  genClk : (t.cl c).genClk = cluClk w c + 1

theorem loadSent {v w : State} {e : Eng} {m site agt tag : Nat} (hcls : e.d.cls = 2)
    (hv : v = { s with fab := v.fab, keepers := v.keepers, mgr := v.mgr })
    (hpass : passBucket (endWaits v c) c (engClass e.d) = some w) :
    LoadSent c e m site agt tag s w (genDone (sendRow w c e m (.fabric site agt) (some tag) 0 0 false) c) := by
  obtain ⟨heq, l, hself⟩ := endWaits_facts v c
  obtain ⟨f, ks, mg, b, r, hw⟩ := passBucket_eq hpass
  have hwcl : w.cl c = { s.cl c with waits := l } := by
    rw [show w.cl c = (endWaits v c).cl c by rw [hw]; rfl, hself, hv]
    rfl
  have hwmem : w.mem = s.mem := by rw [hw, heq, hv]
  have hwrtr : ∀ k, w.rtr k = s.rtr k := fun k => by rw [hw, heq, hv]; rfl
  rw [sendRow_load hcls]
  generalize hx : injectClu (charge (w.modCl c fun x => x.loading e m site agt tag w.fab) (bucketOf c (engClass e.d))) c
    (loadPacket e m site agt tag) = x
  have hxcl : x.cl c = { (s.cl c).loading e m site agt tag w.fab with waits := l } := by
    rw [← hx]
    refine (State.setCl_self w c _).trans ?_
    rw [hwcl]
    rfl
  have hsends : Sends (cluSite c) (4 + c % 4 / 2) (fromClu c (loadPacket e m site agt tag)) w x := by
    rw [← hx]
    exact sends_inject (charge (w.modCl c fun x => x.loading e m site agt tag w.fab) _) ..
  have hxclk : cluClk x c = cluClk w c := by rw [← hx]; rfl
  have hxfab : x.fab = w.fab := by rw [← hx]; rfl
  have hxmem : x.mem = w.mem := by rw [← hx]; rfl
  obtain ⟨hmeq, -, hmself⟩ := modEng_facts x c e.d.did fun e => { e with sent := e.sent + 1 }
  generalize modEng x c e.d.did _ = y at hmeq hmself
  have hself' : (genDone y c).cl c = { y.cl c with genClk := cluClk y c + 1 } := State.setCl_self ..
  rw [hmself, hxcl] at hself'
  have hyrtr : ∀ k, (genDone y c).rtr k = x.rtr k := fun k => show y.rtr k = _ by rw [hmeq]; rfl
  refine ⟨?_, ?_, ?_, ?_, ?_, ?_⟩
  · unfold Sends at hsends ⊢
    rw [hyrtr, hsends, hwrtr]
  · exact (show y.fab = x.fab by rw [hmeq]).trans hxfab
  · exact ((show y.mem = x.mem by rw [hmeq]).trans hxmem).trans hwmem
  · rw [hself']
  · rw [hself']
    rfl
  · rw [hself']
    exact congrArg (· + 1) ((show cluClk y c = cluClk x c by rw [hmeq]; rfl).trans hxclk)

/-! ### Replies and acknowledgements -/

theorem exec_rdData {c : ClusterId} {r : RegionId} {p : Packet}
    (hp : ejected s (portOfRegion r).1 (portOfRegion r).2 (fun q => q.typ == tRdData) = some p)
    (hc : agentClu p.dsite p.dagt = some c.val) : exec (.rdData (.region r)) s =
      .next ((replyAtCluster s c p).elim s fun t => cohTaken t r p) := by
  show execRdData (.region r) s = _
  unfold execRdData
  dsimp only
  rw [hp]
  dsimp only
  rw [hc]
  dsimp only
  cases replyAtCluster s c p with
  | none => rfl
  | some t => rfl

/-- Is the row of a reply to be asked for once more (R273)? -/
def asksAgain (x : Cluster) (g : Tag) (p : Packet) : Bool := mustRetry g p && x.eng.any fun e => e.d.did == g.did && !e.stopped

/-- The state after the row of tag g has been asked for once more. -/
def askedAgain (s : State) (c : Nat) (g : Tag) (cls : Nat) : State :=
  injectClu (charge ((s.bump (seCheckRetryCntAt c)).modCl c fun x =>
    { x with rtags := x.rtags.map fun k => if k.tag = g.tag then { k with retried := true } else k }) (bucketOf c cls)) c g.pkt

theorem replyAtCluster_tag {c : Nat} {g : Tag} {p : Packet} (ha : (s.cl c).absorbing = false)
    (hg : (s.cl c).rtags.find? (fun k => k.tag == p.rtag) = some g) : replyAtCluster s c p =
      if asksAgain (s.cl c) g p then (passBucket s c p.cls).map fun w => askedAgain w c g p.cls else some (landReply s c g p) := by
  unfold replyAtCluster
  dsimp only
  rw [ha, if_neg Bool.false_ne_true, hg]
  rfl

/-- A reply of cluster c does no more than the transfer's work when its packet is taken. -/
theorem TransferWork.taken (h : TransferWork c s t) (r : RegionId) (p : Packet) : TransferWork c s (cohTaken t r p) :=
  h.trans ⟨fun _ _ => rfl, rfl⟩

theorem Landed.transferWork {g : Tag} (h : Landed c g s t) : TransferWork c s t := ⟨h.cl, by rw [h.same]⟩

/-- A reply that is used, or taken without effect. -/
theorem landReply_all {g : Tag} {e : Eng} (p : Packet) (h : (s.cl c).eng.find? (fun e => e.d.did == g.did) = some e) :
    let t := landReply s c g p
    Landed c g s t ∧ OnlyUn e.unit s t ∧
    (e.stopped = true → (t.cl c).eng = (s.cl c).eng ∧ t.mem = s.mem ∧ t.units = s.units) ∧
    (e.stopped = false → (t.cl c).eng =
        mapFirst (fun f => f.d.did == g.did) (Eng.landed (!payloadOk p) (readFailed g p)) (s.cl c).eng ∧
      t.mem = (landRowLocal (readTagFreed s c g) e.unit e.d g.row (landedBytes e p)).mem) := by
  intro t
  cases hs : e.stopped with
  | true =>
    obtain ⟨hl, heng, hmem, hun⟩ := readTagFreed_landed s c g
    rw [← show t = readTagFreed s c g from landReply_stopped h hs] at hl heng hmem hun
    refine ⟨hl, fun k _ => ?_, fun _ => ⟨heng, hmem, hun⟩, fun hf => by cases hf⟩
    unfold State.un
    rw [hun]
  | false =>
    obtain ⟨hl, hun, heng, hmem, -⟩ := landReply_facts (p := p) h hs
    exact ⟨hl, hun, (fun ht => by cases ht), fun _ => ⟨heng, hmem⟩⟩

/-- A row that is asked for once more: its packet goes out again, counted, and its tag remembers it. -/
theorem askedAgain_facts {w : State} {cls : Nat} (hpass : passBucket s c cls = some w) (g : Tag) (k : Nat) :
    let t := askedAgain w c g k
    TransferWork c s t ∧ t.fab = w.fab ∧ Counted (seCheckRetryCntAt c) w t ∧ t.mem = s.mem ∧ t.units = s.units ∧
    Sends (cluSite c) (4 + c % 4 / 2) (fromClu c g.pkt) s t ∧
    t.cl c = { s.cl c with rtags := (s.cl c).rtags.map fun k => if k.tag = g.tag then { k with retried := true } else k } := by
  obtain ⟨f, ks, m, b, r, hw⟩ := passBucket_eq hpass
  have hwcl : ∀ k, w.cl k = s.cl k := fun k => by rw [hw]; rfl
  have hwrtr : ∀ k, w.rtr k = s.rtr k := fun k => by rw [hw]; rfl
  obtain ⟨heq, hcount, -⟩ := bump_counts w (seCheckRetryCntAt c)
  have hbcl : ∀ k, (w.bump (seCheckRetryCntAt c)).cl k = w.cl k := fun k => by rw [heq]; rfl
  have hbrtr : ∀ k, (w.bump (seCheckRetryCntAt c)).rtr k = w.rtr k := fun k => by rw [heq]; rfl
  unfold askedAgain
  dsimp only
  generalize w.bump (seCheckRetryCntAt c) = v at heq hcount hbcl hbrtr
  have hvmem : v.mem = s.mem := by rw [heq, hw]
  have hvun : v.units = s.units := by rw [heq, hw]
  have hvfab : v.fab = w.fab := by rw [heq]
  have hv : TransferWork c s v := ⟨fun k _ => by rw [hbcl, hwcl], by rw [heq, hw]⟩
  refine ⟨(hv.trans (transferWork_modCl ..)).trans (transferWork_inject ..), hvfab, hcount, hvmem, hvun, ?_, ?_⟩
  · have hsends := sends_inject (charge (v.modCl c fun x =>
      { x with rtags := x.rtags.map fun k => if k.tag = g.tag then { k with retried := true } else k }) (bucketOf c k))
      (cluSite c) (4 + c % 4 / 2) (fromClu c g.pkt)
    unfold Sends at hsends ⊢
    exact hsends.trans (congrArg (fun x => x.inject ++ [_]) ((hbrtr _).trans (hwrtr _)))
  · refine (State.setCl_self v c _).trans ?_
    rw [hbcl, hwcl]

theorem exec_wrAck {c : ClusterId} {r : RegionId} {p : Packet}
    (hp : ejected s (portOfRegion r).1 (portOfRegion r).2 (fun q => q.typ == tWrAck) = some p)
    (hc : agentClu p.dsite p.dagt = some c.val) : exec (.wrAck (.region r)) s = .next (ackAtCluster (cohTaken s r p) c p) := by
  have hserve := serve_eq (at_ := portOfRegion r) (fun q => q.typ == tWrAck) (fun q s =>
    match agentClu q.dsite q.dagt with | none => s | some c => ackAtCluster s c q) hp
  rw [hc] at hserve
  exact hserve

/-! ### Completion -/

theorem returnSeg_facts (s : State) (c : Nat) (remote : Bool) (panel dclu dque seg : Nat) :
    let t := returnSeg s c remote panel dclu dque seg
    t = { s with regs := t.regs, clusters := t.clusters } ∧ OnlyCl c s t ∧
    ∃ l free, t.cl c = { s.cl c with waits := l, outFree := free } := by
  have hv : ∃ v, v = (if awaitsCredit (s.cl c) remote panel dclu dque then endWait s c 3 else s) ∧
      v = { s with regs := v.regs, clusters := v.clusters } ∧ OnlyCl c s v ∧ ∃ l, v.cl c = { s.cl c with waits := l } := by
    refine ⟨_, rfl, ?_⟩
    split
    · obtain ⟨heq, hcl, hself, -⟩ := endWait_facts s c 3
      exact ⟨heq, hcl, hself⟩
    · exact ⟨rfl, fun _ _ => rfl, (s.cl c).waits, rfl⟩
  obtain ⟨v, hveq, heq, hcl, l, hself⟩ := hv
  unfold returnSeg
  dsimp only
  rw [← hveq]
  split
  · exact ⟨heq, hcl, l, (s.cl c).outFree, hself⟩
  · next i o _ =>
    refine ⟨?_, fun k hk => ((State.setCl_cl ..).trans (if_neg hk)).trans (hcl k hk), l,
      putAt (v.cl c).outFree i (if (freeSegs (v.cl c) o i).contains seg then freeSegs (v.cl c) o i else freeSegs (v.cl c) o i ++ [seg]), ?_⟩
    · rw [heq]
      rfl
    · refine (State.setCl_self v c _).trans ?_
      rw [hself]

/-- A transfer that is over leaves its engine and its unit: nothing else of its cluster changes but a segment that returns. -/
theorem engDone_facts (s : State) (c : Nat) (e : Eng) :
    let t := engDone s c e
    t = { s with regs := t.regs, clusters := t.clusters, units := t.units } ∧ OnlyCl c s t ∧
    ∃ l free, t.cl c = { s.cl c with waits := l, outFree := free, eng := (s.cl c).eng.filter fun f => f.d.did != e.d.did } := by
  have hself : (s.modCl c fun x => { x with eng := x.eng.filter fun f => f.d.did != e.d.did }).cl c =
    { s.cl c with eng := (s.cl c).eng.filter fun f => f.d.did != e.d.did } := State.setCl_self ..
  have hcl : OnlyCl c s (s.modCl c fun x => { x with eng := x.eng.filter fun f => f.d.did != e.d.did }) :=
    fun _ hk => (State.setCl_cl ..).trans (if_neg hk)
  have heq : (s.modCl c fun x => { x with eng := x.eng.filter fun f => f.d.did != e.d.did }) = { s with clusters := _ } := rfl
  unfold engDone
  dsimp only
  generalize (s.modCl c fun x => { x with eng := x.eng.filter fun f => f.d.did != e.d.did }) = v at hself hcl heq
  cases e.seg with
  | none => exact ⟨by rw [heq]; rfl, hcl, (s.cl c).waits, (s.cl c).outFree, hself⟩
  | some g =>
    dsimp only
    split
    · obtain ⟨hreq, hrcl, l, free, hrself⟩ := returnSeg_facts v c true (engPanel e.d) (e.d.f 41 32) (e.d.f 47 42) g
      generalize returnSeg v c true _ _ _ g = w at hreq hrcl hrself
      refine ⟨by rw [hreq, heq]; rfl, fun k hk => (hrcl k hk).trans (hcl k hk), l, free, ?_⟩
      show w.cl c = _
      rw [hrself, hself]
    · exact ⟨by rw [heq]; rfl, hcl, (s.cl c).waits, (s.cl c).outFree, hself⟩

/-- What the completion of descriptor did with a status leaves, from the state s before. -/
def Closes (c did st : Nat) (s t : State) : Prop := OnlyCl c s t ∧ SameMem s t ∧ t.fab = s.fab ∧ find? (t.cl c).live did = none ∧
  ∀ g, find? (s.cl c).live did = some g → (t.cl c).grpCnt = grpAdd (s.cl c).grpCnt g ∧
    findD (t.cl c).grpFlags g 0 = findD (s.cl c).grpFlags g 0 ||| lateStatus (s.cl c) st

/-- A completion from a state that differs from s in nothing that completing reads closes s. -/
theorem closes_complete {v : State} (did st : Nat) (hcl : OnlyCl c s v) (hmem : v.mem = s.mem) (hfab : v.fab = s.fab)
    (hlive : (v.cl c).live = (s.cl c).live) (hcnt : (v.cl c).grpCnt = (s.cl c).grpCnt) (hflags : (v.cl c).grpFlags = (s.cl c).grpFlags)
    (hlate : (v.cl c).late = (s.cl c).late) : Closes c did st s (complete v c did st) := by
  obtain ⟨⟨hopen, hgroup, hothers⟩, hframe⟩ := complete_completed v c did st
  have hst : lateStatus (v.cl c) st = lateStatus (s.cl c) st := by
    unfold lateStatus
    rw [hlate]
  rw [hlive, hcnt, hflags, hst] at hgroup
  refine ⟨fun k hk => (hothers k hk).trans (hcl k hk), fun a => ?_, hframe.fab.trans hfab, hopen, hgroup⟩
  rw [hframe.mem, hmem]

theorem goes_descComplete_eng {c : ClusterId} {did : Nat} {e : Eng} (he : (s.cl c).eng.find? (fun e => e.d.did == did) = some e)
    (hdone : engRows e.d ≤ e.done) : Goes (.descComplete c did) s fun t =>
      Closes c did (if e.error then stError else if e.suspect then stSuspect else stOk) s t ∧
      (t.cl c).eng = (s.cl c).eng.filter fun f => f.d.did != did := by
  have hdid : e.d.did = did := by simpa using List.find?_some he
  have hexec : exec (.descComplete c did) s = .next (complete (engDone s c e) c did
      (if e.error then stError else if e.suspect then stSuspect else stOk)) := by
    show execDescComplete c did s = _
    unfold execDescComplete
    dsimp only
    rw [he]
    exact if_pos hdone
  obtain ⟨heq, hcl, l, free, hself⟩ := engDone_facts s c e
  generalize engDone s c e = v at hexec heq hcl hself
  refine ⟨_, hexec, closes_complete did _ hcl (by rw [heq]) (by rw [heq]) ?_ ?_ ?_ ?_, ?_⟩
  · rw [hself]
  · rw [hself]
  · rw [hself]
  · rw [hself]
  · rw [complete_keeps Cluster.eng (fun _ => rfl) (fun _ _ _ _ => rfl), hself, hdid]

/-- The state before a COMMIT's descriptor completes: its outcome is recorded, and one that was IGNOREd is counted (R154, R281). -/
def commitFinished (s : State) (c : Nat) (k : Commit) (outcome : Nat) : State :=
  let v := recordCommit (commitPop s c k.d.did) c k.d outcome
  if k.susp ∧ outcome = 0 then v.bump (pmIgnoreCntAt (partQ (partD v (cluQuarter c)))) else v

theorem partQ_lt (p : Partition) : partQ p < 4 := by
  unfold partQ lowestQuarter maskQuarters
  cases h : (List.range 4).filter fun q => bit p.qmask q with
  | nil => decide
  | cons a l => exact List.mem_range.1 (List.mem_of_mem_filter (h ▸ List.mem_cons_self))

theorem commitFinished_facts (s : State) (c : ClusterId) (k : Commit) (outcome : Nat) :
    let v := commitFinished s c k outcome
    v = { s with regs := v.regs, clusters := v.clusters } ∧ OnlyCl c s v ∧ v.cl c = (s.cl c).withoutCommit k.d.did ∧
    Counted (commitCounter c outcome) s v ∧ v.reg (seqCommitLastAt c) = commitLast s c k.d outcome := by
  obtain ⟨heq, hcount, hlast, -⟩ := recordCommit_facts (commitPop s c k.d.did) c k.d outcome
  have hpop : commitLast (commitPop s c k.d.did) c k.d outcome = commitLast s c k.d outcome := by
    rw [commitLast, cl_commitPop]
    rfl
  rw [hpop] at hlast
  have hcl : ∀ j, (recordCommit (commitPop s c k.d.did) c k.d outcome).cl j = (commitPop s c k.d.did).cl j := fun j => by
    rw [heq]
    rfl
  have hpopcl : OnlyCl c s (commitPop s c k.d.did) := fun _ hj => (State.setCl_cl ..).trans (if_neg hj)
  have hpopeq : commitPop s c k.d.did = { s with clusters := (commitPop s c k.d.did).clusters } := rfl
  have hself := cl_commitPop s c k.d.did
  unfold commitFinished
  dsimp only
  generalize recordCommit (commitPop s c k.d.did) c k.d outcome = v at heq hcount hlast hcl
  have hbase : v = { s with regs := v.regs, clusters := v.clusters } := by rw [heq]; rfl
  split
  · have hq := partQ_lt (partD v (cluQuarter c))
    have hlow := seqBlk_lt c
    have hfar : ∀ a, a < 0xF1000000000 → a ≠ pmIgnoreCntAt (partQ (partD v (cluQuarter c))) := fun a ha => by
      unfold pmIgnoreCntAt pmBlk managerArea
      omega
    have hcounter : commitCounter c outcome < 0xF1000000000 := by
      have hmem := commitCounter_mem c outcome
      simp only [List.mem_cons, List.not_mem_nil, or_false] at hmem
      omega
    have hb := bump_eq v (pmIgnoreCntAt (partQ (partD v (cluQuarter c))))
    refine ⟨?_, fun j hj => ?_, ?_, ?_, ?_⟩
    · rw [hb, hbase]
    · rw [hb]
      exact (hcl j).trans (hpopcl j hj)
    · rw [hb]
      exact (hcl c).trans hself
    · rw [Counted, ctr_bump_ne _ (hfar _ hcounter)]
      exact hcount
    · rw [reg_bump_ne _ (hfar _ (by unfold seqCommitLastAt; omega)), hlast]
  · exact ⟨hbase, fun j hj => (hcl j).trans (hpopcl j hj), (hcl c).trans hself, hcount, hlast⟩

theorem goes_descComplete_commit {c : ClusterId} {did o : Nat} {k : Commit}
    (he : (s.cl c).eng.find? (fun e => e.d.did == did) = none) (hk : (s.cl c).commitQ.find? (fun k => k.d.did == did) = some k)
    (ho : k.outcome = some o) : Goes (.descComplete c did) s fun t => Closes c did (if o = 1 then stError else stOk) s t ∧
      t.reg (seqCommitLastAt c) = commitLast s c k.d o ∧ Counted (commitCounter c o) s t ∧
      (t.cl c).commitQ = (s.cl c).commitQ.filter fun j => j.d.did != did := by
  have hdid : k.d.did = did := by simpa using List.find?_some hk
  have hexec : exec (.descComplete c did) s = .next (complete (commitFinished s c k o) c k.d.did (if o = 1 then stError else stOk)) := by
    show execDescComplete c did s = _
    unfold execDescComplete
    dsimp only
    rw [he]
    dsimp only
    rw [hk]
    dsimp only
    rw [ho]
    rfl
  have hcounter : commitCounter c o ∉ completionRegs c := by
    have hmem := commitCounter_mem c o
    simp only [List.mem_cons, List.not_mem_nil, or_false] at hmem
    obtain h | h | h := hmem <;> rw [h] <;> exact seqReg_not_completion (by decide) (by decide) (by decide)
  obtain ⟨heq, hcl, hself, hcount, hlast⟩ := commitFinished_facts s c k o
  generalize commitFinished s c k o = v at hexec heq hcl hself hcount hlast
  obtain ⟨-, -, hq, -, -, hkept⟩ := complete_frame v c did (if o = 1 then stError else stOk)
  rw [hdid] at hexec hself
  refine ⟨_, hexec, closes_complete did _ hcl (by rw [heq]) (by rw [heq]) ?_ ?_ ?_ ?_, ?_, ?_, ?_⟩
  · rw [hself]
    rfl
  · rw [hself]
    rfl
  · rw [hself]
    rfl
  · rw [hself]
    rfl
  · rw [(hkept _ (seqCommitLast_not_completion c)).1, hlast]
  · rw [Counted, (hkept _ hcounter).2]
    exact hcount
  · rw [hq, hself]
    rfl

/-- Settles O32: requests, then replies and acknowledgements, then completion. -/
theorem transferRequestsAndReplies : Obligations.TransferRequestsAndReplies := by
  intro s c x v only
  have hv : v = { s with fab := v.fab, keepers := v.keepers, mgr := v.mgr } := advClock_eq ..
  have hvcl : ∀ k, v.cl k = s.cl k := fun k => cl_advClock ..
  have hvun : ∀ k, v.un k = s.un k := fun k => un_advClock ..
  refine ⟨fun e he hrun hbegun => ⟨?_, fun site agt hcls hmode hrep hroute => ?_⟩,
    fun r p hc ha => ?_,
    fun did => ⟨fun e he hdone => ?_, fun k o he hk ho => ?_⟩⟩
  · exact ⟨_, exec_seGenerateRequest he hrun hbegun, (transferWork_advClock ..).trans (transferWork_generateRow ..)⟩
  · have hexec := (exec_seGenerateRequest he hrun hbegun).trans (congrArg _
      (generateRow_load (s := v) hcls (by rw [hvun]; exact hmode) (by rw [hvcl]; exact hrep) hroute))
    refine ⟨fun hfull => ⟨_, hexec.trans (congrArg _ (requestRow_noTag hcls _ _ (by rw [hvcl]; exact hfull))), rfl⟩, fun tag hfree => ?_⟩
    have hexec := hexec.trans (congrArg _ (requestRow_tag hcls _ _ (tag := tag) (by rw [hvcl]; exact hfree)))
    refine ⟨fun hpass => ⟨_, hexec.trans (by rw [hpass, Option.elim_none]), rfl⟩, fun w hpass => ?_⟩
    obtain ⟨hsends, hfab, hmem, hrtags, heng, hclk⟩ := loadSent (s := s) (m := e.sent) (site := site) (agt := agt) (tag := tag) hcls hv hpass
    exact ⟨_, hexec.trans (by rw [hpass, Option.elim_some]), hsends, hfab, fun a => by rw [hmem], hrtags, heng, hclk⟩
  · intro at_
    refine ⟨fun g hp hg => ?_, fun g e hp hlt hg he => ?_⟩
    · intro again u
      refine ⟨fun hno e he => ?_, fun hagain => ?_⟩
      · have hreply := replyAtCluster_tag ha hg
        rw [show asksAgain (s.cl c) g p = false from hno, if_neg Bool.false_ne_true] at hreply
        obtain ⟨hl, hun, hstop, hland⟩ := landReply_all p he
        have hexec := exec_rdData hp hc
        rw [hreply, Option.elim_some] at hexec
        generalize landReply s c g p = w at hexec hl hun hstop hland
        obtain ⟨l, es, hself⟩ := hl.self
        obtain ⟨hwork, hsame⟩ := hl.transferWork.taken r p
        refine ⟨_, hexec, ⟨hwork, hsame⟩, ?_, congrArg Cluster.rtags hself, hun, fun hs => ?_, fun hs => hland hs⟩
        · exact show w.fab = s.fab by rw [hl.same]
        · obtain ⟨heng, hmem, hunits⟩ := hstop hs
          exact ⟨heng, fun a => congrArg (memByte · a) hmem, hunits⟩
      · have hreply := replyAtCluster_tag ha hg
        rw [show asksAgain (s.cl c) g p = true from hagain, if_pos rfl] at hreply
        have hexec := exec_rdData hp hc
        rw [hreply] at hexec
        refine ⟨fun hpass => ⟨s, hexec.trans (by rw [hpass]; rfl), rfl⟩, fun w hpass => ?_⟩
        rw [hpass, Option.map_some, Option.elim_some] at hexec
        obtain ⟨hwork, hfab, hcount, hmem, hun, hsends, hself⟩ := askedAgain_facts hpass g p.cls
        generalize askedAgain w c g p.cls = y at hexec hwork hfab hcount hmem hun hsends hself
        refine ⟨_, hexec, hwork.taken r p, hfab, hcount, fun a => congrArg (memByte · a) hmem, hun, ?_, hself⟩
        unfold Sends at hsends ⊢
        rw [← hsends]
        exact inject_popEject ..
    · obtain ⟨heq, hcl, ⟨l, hself⟩, -⟩ := ackAtCluster_facts (s := cohTaken s r p) (c := c) (p := p) (g := g) ha hlt hg
      refine ⟨_, exec_wrAck hp hc, hcl, by rw [heq]; rfl, ?_, ?_⟩
      · rw [hself]
        rfl
      · rw [hself]
        exact answered_of_some he
  · exact goes_descComplete_eng he hdone
  · exact goes_descComplete_commit he hk ho

end Sys2Proof.Machine
end

section
/-! What a memory router's own accesses to a block do (R192, R193): a sound block is read as it stands, and a write of part of a
block changes registers, memory and the error records of its own stack alone. -/

namespace Sys2Proof.Machine

variable {s : State} {n so b : Nat}

theorem takeEcc_none (h : find? (s.mr n).ecc b = none) : takeEcc s n b = ((.clean, .clean, .clean, .clean), s) := by
  unfold takeEcc
  rw [h]

theorem verifyBlock_sound (hecc : find? (s.mr n).ecc b = none) (hok : blockOk s n b = true) : verifyBlock s n b = (true, s) := by
  have hread : readTwice s n b .clean .clean = (true, s) := by
    have honce : readOnce s n b .clean = (true, s) := by
      unfold readOnce
      rw [hok]
      rfl
    unfold readTwice
    rw [honce]
    rfl
  unfold verifyBlock
  rw [takeEcc_none hecc]
  dsimp only
  rw [hread]
  rfl

theorem partialRead_sound (len : Nat) (hecc : find? (s.mr n).ecc (so / 1024) = none) (hok : blockOk s n (so / 1024) = true) :
    partialRead s n so len = (some (s.read (stackAt n so) len), s) := by
  unfold partialRead
  rw [verifyBlock_sound hecc hok]
  rfl

/-- The state with other routers. -/
def withRouters (s : State) (r : List (Nat × Router)) : State := { s with routers := r }

theorem noteEcc_withRouters (r : List (Nat × Router)) (e : Ecc) : noteEcc (withRouters s r) n b e = withRouters (noteEcc s n b e) r := by
  cases e with
  | clean => rfl
  | corrected pc => rfl
  | uncorrectable => rfl

theorem readOnce_withRouters (r : List (Nat × Router)) (e : Ecc) :
    readOnce (withRouters s r) n b e = ((readOnce s n b e).1, withRouters (readOnce s n b e).2 r) :=
  congrArg (Prod.mk _) (noteEcc_withRouters r e)

theorem readTwice_withRouters (r : List (Nat × Router)) (e f : Ecc) :
    readTwice (withRouters s r) n b e f = ((readTwice s n b e f).1, withRouters (readTwice s n b e f).2 r) := by
  unfold readTwice
  dsimp only
  rw [readOnce_withRouters]
  split
  · rfl
  · exact readOnce_withRouters (s := (readOnce s n b e).2.bump (mrCheckRereadCntAt n)) r f

theorem takeEcc_withRouters (r : List (Nat × Router)) :
    takeEcc (withRouters s r) n b = ((takeEcc s n b).1, withRouters (takeEcc s n b).2 r) := by
  unfold takeEcc
  rw [show (withRouters s r).mr n = s.mr n from rfl]
  cases find? (s.mr n).ecc b with
  | none => rfl
  | some e => rfl

theorem verifyBlock_withRouters (r : List (Nat × Router)) :
    verifyBlock (withRouters s r) n b = ((verifyBlock s n b).1, withRouters (verifyBlock s n b).2 r) := by
  unfold verifyBlock
  dsimp only
  rw [takeEcc_withRouters, readTwice_withRouters]
  split
  · rfl
  · rfl

theorem partialWrite_withRouters (r : List (Nat × Router)) (bs : Bytes) :
    partialWrite (withRouters s r) n so bs = withRouters (partialWrite s n so bs) r := by
  unfold partialWrite
  dsimp only
  rw [verifyBlock_withRouters]
  rfl

/-- A packet taken from a router's ejection buffer changes nothing that a write of part of a block depends on. -/
theorem mem_partialWrite_popEject (site port agt : Nat) (bs : Bytes) :
    (partialWrite (popEject s site port agt) n so bs).mem = (partialWrite s n so bs).mem := by
  show (partialWrite (withRouters s (popEject s site port agt).routers) n so bs).mem = _
  rw [partialWrite_withRouters]
  rfl

/-- Registers, memory and the error records of stack n change, and nothing else. -/
def BlockWork (n : Nat) (s t : State) : Prop :=
  t = { s with regs := t.regs, mem := t.mem, mrs := t.mrs } ∧ OnlyMr n s t ∧
  ∃ l k, t.mr n = { s.mr n with ecc := l, rowErrs := k }

theorem BlockWork.refl (s : State) : BlockWork n s s := ⟨rfl, fun _ _ => rfl, _, _, rfl⟩

theorem BlockWork.trans {u t : State} (h : BlockWork n s u) (h' : BlockWork n u t) : BlockWork n s t := by
  obtain ⟨heq, hmr, l, k, hself⟩ := h
  obtain ⟨heq', hmr', l', k', hself'⟩ := h'
  refine ⟨by rw [heq', heq], fun j hj => (hmr' j hj).trans (hmr j hj), l', k', ?_⟩
  rw [hself', hself]

theorem blockWork_of_regs {t : State} (h : t = { s with regs := t.regs, mem := t.mem }) : BlockWork n s t := by
  have hmr (k : Nat) : t.mr k = s.mr k := by
    rw [h]
    rfl
  exact ⟨h.trans (by rw [h]), fun k _ => hmr k, _, _, hmr n⟩

theorem blockWork_bump (a : Nat) : BlockWork n s (s.bump a) := blockWork_of_regs (bump_eq ..)

theorem onlyMr_modMr (s : State) (n : Nat) (f : Stack → Stack) : OnlyMr n s (s.modMr n f) :=
  fun _ hk => (State.setMr_mr ..).trans (if_neg hk)

theorem blockWork_noteRowErr (s : State) (n k : Nat) : BlockWork n s (noteRowErr s n k) := by
  refine ⟨rfl, onlyMr_modMr _ _ _, ?_⟩
  unfold noteRowErr State.modMr
  rw [State.setMr_self]
  dsimp only
  split
  · exact ⟨_, _, rfl⟩
  · exact ⟨_, _, rfl⟩

theorem blockWork_noteEcc (s : State) (n b : Nat) (e : Ecc) : BlockWork n s (noteEcc s n b e) := by
  cases e with
  | clean => exact BlockWork.refl s
  | corrected pc => exact (blockWork_bump _).trans (blockWork_noteRowErr ..)
  | uncorrectable => exact blockWork_bump _

theorem blockWork_readTwice (s : State) (n b : Nat) (e f : Ecc) : BlockWork n s (readTwice s n b e f).2 := by
  unfold readTwice
  dsimp only
  split
  · exact blockWork_noteEcc ..
  · exact ((blockWork_noteEcc ..).trans (blockWork_bump _)).trans (blockWork_noteEcc ..)

theorem blockWork_takeEcc (s : State) (n b : Nat) : BlockWork n s (takeEcc s n b).2 := by
  unfold takeEcc
  cases find? (s.mr n).ecc b with
  | none => exact BlockWork.refl s
  | some e => exact ⟨rfl, onlyMr_modMr _ _ _, _, _, State.setMr_self ..⟩

theorem blockWork_verifyBlock (s : State) (n b : Nat) : BlockWork n s (verifyBlock s n b).2 := by
  have hread := (blockWork_takeEcc s n b).trans
    (blockWork_readTwice (takeEcc s n b).2 n b (takeEcc s n b).1.1 (takeEcc s n b).1.2.1)
  unfold verifyBlock
  dsimp only
  split
  · exact hread
  · exact (hread.trans (blockWork_bump _)).trans (blockWork_of_regs rfl)

theorem blockWork_partialWrite (s : State) (n so : Nat) (bs : Bytes) : BlockWork n s (partialWrite s n so bs) :=
  (blockWork_verifyBlock s n (so / 1024)).trans (blockWork_of_regs rfl)

/-- A sound block leaves no trace of its verification: a write of part of it changes memory alone. -/
theorem partialWrite_sound (bs : Bytes) (hecc : find? (s.mr n).ecc (so / 1024) = none) (hok : blockOk s n (so / 1024) = true) :
    partialWrite s n so bs = { s with mem := (partialWrite s n so bs).mem } := by
  unfold partialWrite
  dsimp only
  rw [verifyBlock_sound hecc hok]
  rfl

end Sys2Proof.Machine
end

section
/-! The home of a control window (O36): a request waits or takes its line, a Get opens a transaction, an atomic is carried out, a
PutM is written back, and a transaction goes on. -/

namespace Sys2Proof.Machine

variable {s : State} {n : StackId} {p : Packet}

/-! ### Requests -/

/-- The state after the home of stack n has taken p from its router's ejection buffer. -/
def homeTaken (s : State) (n : StackId) (p : Packet) : State := popEject s (portOfStack n).1 (portOfStack n).2 p.dagt

/-- p is the packet at the head of the home's ejection buffer. -/
def HomeInbox (s : State) (n : StackId) (p : Packet) (want : Packet → Bool) : Prop :=
  ejected s (portOfStack n).1 (portOfStack n).2 want = some p

theorem serveHome_eq {want : Packet → Bool} (h : HomeInbox s n p want) (f : Packet → State → State) :
    serveHome n want f s = .next (f p (homeTaken s n p)) := serve_eq _ _ h

/-- What is sent from the state in which p has been taken is sent from s. -/
theorem Sends.of_homeTaken {site port : Nat} {q : Packet} {t : State} (h : Sends site port q (homeTaken s n p) t) :
    Sends site port q s t := by
  unfold Sends at h ⊢
  rw [h]
  exact congrArg (· ++ _) (inject_popEject ..)

/-- Does a request for a line wait (R197)? -/
def mustQueue (x : Stack) (line : Nat) : Bool := lineBusy x line || x.waits.any fun w => lineOf w.addr == line

theorem homeRequest_queued (h : mustQueue (s.mr n) (lineOf p.addr) = true) :
    homeRequest s n p = (s.setMr n { s.mr n with waits := (s.mr n).waits ++ [p] }).bump (mrCohPendCntAt n) := if_pos h

theorem homeRequest_started (h : mustQueue (s.mr n) (lineOf p.addr) = false) : homeRequest s n p = startReq s n p :=
  if_neg (Bool.not_eq_true _ ▸ h)

theorem goes_homeRequest_queued {i : Instr} (hexec : exec i s = .next (homeRequest (homeTaken s n p) n p))
    (h : mustQueue (s.mr n) (lineOf p.addr) = true) :
    Goes i s fun t => Counted (mrCohPendCntAt n) s t ∧ RegsBut [mrCohPendCntAt n] s t ∧ OnlyMr n s t ∧
      t.mr n = { s.mr n with waits := (s.mr n).waits ++ [p] } ∧ t = { homeTaken s n p with regs := t.regs, mrs := t.mrs } := by
  rw [homeRequest_queued (s := homeTaken s n p) h] at hexec
  obtain ⟨heq, hcount, hregs⟩ :=
    bump_counts ((homeTaken s n p).setMr n { s.mr n with waits := (s.mr n).waits ++ [p] }) (mrCohPendCntAt n)
  have hmr : ∀ k, (((homeTaken s n p).setMr n { s.mr n with waits := (s.mr n).waits ++ [p] }).bump (mrCohPendCntAt n)).mr k =
      if k = n then { s.mr n with waits := (s.mr n).waits ++ [p] } else s.mr k :=
    fun k => (congrArg (State.mr · k) heq).trans (State.setMr_mr ..)
  exact ⟨_, hexec, hcount, hregs, fun k hk => (hmr k).trans (if_neg hk), (hmr n).trans (if_pos rfl), heq.trans rfl⟩

/-! ### Gets -/

/-- A Get of a line that has its place in the directory, and its transaction. -/
def openedGet (x : Stack) (p : Packet) (need : Bool) (owner : Option Nat) (sharers : List Nat) : Stack :=
  { dirPut x (lineOf p.addr) owner sharers with
    txs := x.txs ++ [{ line := lineOf p.addr, req := p, kind := 0, needData := need }] }

theorem dirOf_openedGet (x : Stack) (need : Bool) (owner : Option Nat) (sharers : List Nat) :
    dirOf (openedGet x p need owner sharers) (lineOf p.addr) =
      some { line := lineOf p.addr, owner := owner, sharers := sharers, used := x.tick } := by
  unfold dirOf openedGet dirPut
  dsimp only
  rw [List.find?_append, List.find?_eq_none.2]
  · simp
  · intro e he
    have hne := (List.mem_filter.1 he).2
    simpa using hne

/-- A Get of excl's kind for a line that nobody holds and that has room in its set. -/
theorem startReq_fresh {excl : Bool} (hget : isAtom p = false) (hsub : p.sub = uGetM ↔ excl = true)
    (hdir : dirOf (s.mr n) (lineOf p.addr) = none)
    (hroom : ((s.mr n).dir.countP fun e => dirSet e.line == dirSet (lineOf p.addr)) < 16) :
    startReq s n p = sendLine (s.modMr n fun x => openedGet x p false (if excl then some (senderClu p) else none)
      (if excl then [] else [senderClu p])) n (senderClu p) (lineOf p.addr) 0 := by
  unfold startReq
  dsimp only
  rw [hdir]
  dsimp only
  rw [hget, if_neg Bool.false_ne_true, if_pos hroom]
  unfold serveGet
  dsimp only
  rw [hdir]
  dsimp only [Option.getD_none]
  cases excl with
  | true =>
    rw [if_pos (hsub.2 rfl)]
    rfl
  | false =>
    rw [if_neg fun h => Bool.false_ne_true (hsub.1 h)]
    rfl

/-- A Get of excl's kind for a line that another cluster owns. -/
theorem startReq_owned {excl : Bool} {e : DirEntry} {o : Nat} (hget : isAtom p = false) (hsub : p.sub = uGetM ↔ excl = true)
    (hdir : dirOf (s.mr n) (lineOf p.addr) = some e) (howner : e.owner = some o) (hother : o ≠ senderClu p) :
    startReq s n p = injectMr (s.modMr n fun x => { openedGet x p (!excl) (if excl then some (senderClu p) else none)
        (if excl then [] else [o, senderClu p]) with fwd := x.fwd ++ [(lineOf p.addr, o)] }) n 2
      { toCluster o (lineOf p.addr) (if excl then uFwdGetM else uFwdGetS) with sclu := senderClu p } := by
  have hm : (p.sub == uGetM) = excl := by
    rw [Bool.eq_iff_iff, beq_iff_eq]
    exact hsub
  unfold startReq
  dsimp only
  rw [hdir]
  dsimp only
  rw [hget, if_neg Bool.false_ne_true]
  unfold serveGet
  dsimp only
  rw [hdir]
  dsimp only [Option.getD_some]
  rw [howner]
  dsimp only
  rw [if_pos hother, hm]
  rfl

/-- What a line's data are does not depend on the directory. -/
theorem sendLine_sound {u : State} {c line acks : Nat} (hmem : u.mem = s.mem) (hmr : (u.mr n).ecc = (s.mr n).ecc)
    (hecc : find? (s.mr n).ecc (windowOff line / 1024) = none) (hok : blockOk s n (windowOff line / 1024) = true) :
    sendLine u n c line acks = injectMr u n 2
      { withPayload (toCluster c line uData) (s.read (stackAt n (windowOff line)) 64) with acks := acks } := by
  have hread (a k : Nat) : u.read a k = s.read a k := congrArg (memRead · a k) hmem
  unfold sendLine
  dsimp only
  rw [partialRead_sound _ (by rw [hmr]; exact hecc) (by unfold blockOk blockBytes storedCheck; rw [hread, hread]; exact hok), hread]

theorem sends_injectMr (s : State) (k agt : Nat) (q : Packet) :
    Sends (stackSite k) 4 { q with ssite := stackSite k, sagt := agt } s (injectMr s k agt q) := sends_inject ..

/-- The home's own record after it has changed it and sent a packet. -/
theorem mr_sent_modMr (s : State) (n : StackId) (p : Packet) (f : Stack → Stack) (q : Packet) :
    (injectMr ((homeTaken s n p).modMr n f) n 2 q).mr n = f (s.mr n) := State.setMr_self ..

theorem goes_get_fresh {i : Instr} {excl : Bool} (hexec : exec i s = .next (homeRequest (homeTaken s n p) n p))
    (hget : isAtom p = false) (hsub : p.sub = uGetM ↔ excl = true)
    (hqueue : mustQueue (s.mr n) (lineOf p.addr) = false) (hdir : dirOf (s.mr n) (lineOf p.addr) = none)
    (hroom : ((s.mr n).dir.countP fun e => dirSet e.line == dirSet (lineOf p.addr)) < 16)
    (hecc : find? (s.mr n).ecc (windowOff (lineOf p.addr) / 1024) = none)
    (hok : blockOk s n (windowOff (lineOf p.addr) / 1024) = true) :
    Goes i s fun t => SameMem s t ∧ RegsBut [] s t ∧ OnlyMr n s t ∧ t = { s with routers := t.routers, mrs := t.mrs } ∧
      (t.mr n).txs = (s.mr n).txs ++ [{ line := lineOf p.addr, req := p, kind := 0, needData := false }] ∧
      dirOf (t.mr n) (lineOf p.addr) = some { line := lineOf p.addr, owner := if excl then some (senderClu p) else none
                                              sharers := if excl then [] else [senderClu p], used := (s.mr n).tick } ∧
      Sends (stackSite n) 4 { ({ withPayload (toCluster (senderClu p) (lineOf p.addr) uData)
        (s.read (stackAt n (windowOff (lineOf p.addr))) 64) with acks := 0 } : Packet) with ssite := stackSite n, sagt := 2 } s t := by
  rw [homeRequest_started (s := homeTaken s n p) hqueue, startReq_fresh (s := homeTaken s n p) hget hsub hdir hroom,
    sendLine_sound (s := s) ?_ ?_ hecc hok] at hexec
  rotate_left
  · rfl
  · rw [State.modMr, State.setMr_self]
    rfl
  have hself := mr_sent_modMr s n p
  refine ⟨_, hexec, fun _ => rfl, fun _ _ => rfl, fun k hk => (State.setMr_mr ..).trans (if_neg hk), rfl, ?_, ?_,
    (Sends.of_homeTaken (sends_injectMr ..))⟩
  · rw [hself]
    rfl
  · rw [hself]
    exact dirOf_openedGet ..

theorem goes_get_owned {i : Instr} {excl : Bool} {e : DirEntry} {o : Nat} (hexec : exec i s = .next (homeRequest (homeTaken s n p) n p))
    (hget : isAtom p = false) (hsub : p.sub = uGetM ↔ excl = true)
    (hqueue : mustQueue (s.mr n) (lineOf p.addr) = false) (hdir : dirOf (s.mr n) (lineOf p.addr) = some e)
    (howner : e.owner = some o) (hother : o ≠ senderClu p) :
    Goes i s fun t => SameMem s t ∧ OnlyMr n s t ∧ t = { s with routers := t.routers, mrs := t.mrs } ∧
      (t.mr n).fwd = (s.mr n).fwd ++ [(lineOf p.addr, o)] ∧
      (t.mr n).txs = (s.mr n).txs ++ [{ line := lineOf p.addr, req := p, kind := 0, needData := !excl }] ∧
      dirOf (t.mr n) (lineOf p.addr) = some { line := lineOf p.addr, owner := if excl then some (senderClu p) else none
                                              sharers := if excl then [] else [o, senderClu p], used := (s.mr n).tick } ∧
      Sends (stackSite n) 4 { ({ toCluster o (lineOf p.addr) (if excl then uFwdGetM else uFwdGetS) with sclu := senderClu p } : Packet)
        with ssite := stackSite n, sagt := 2 } s t := by
  have hself := mr_sent_modMr s n p
  rw [homeRequest_started (s := homeTaken s n p) hqueue, startReq_owned (s := homeTaken s n p) hget hsub hdir howner hother] at hexec
  refine ⟨_, hexec, fun _ => rfl, fun k hk => (State.setMr_mr ..).trans (if_neg hk), rfl, ?_, ?_, ?_,
    (Sends.of_homeTaken (sends_injectMr ..))⟩
  · rw [hself]
  · rw [hself]
    rfl
  · rw [hself]
    exact dirOf_openedGet (need := !excl) ..

/-! ### Atomics -/

/-- A compare-and-swap of a sound block: the eight bytes found go back, and the new ones are written where they agree. -/
theorem doAtomic_swap (hsub : p.sub ≠ 1) (hecc : find? (s.mr n).ecc (windowOff p.addr / 1024) = none)
    (hok : blockOk s n (windowOff p.addr / 1024) = true) :
    doAtomic s n p = injectMr
      (if s.read (stackAt n (windowOff p.addr)) 8 = p.payload.take 8 then
        partialWrite s n (windowOff p.addr) ((p.payload.drop 8).take 8) else s) n 2
      (withPayload (atomReply p) (s.read (stackAt n (windowOff p.addr)) 8)) := by
  unfold doAtomic
  rw [if_neg hsub]
  dsimp only
  rw [partialRead_sound _ hecc hok]

theorem goes_atomic {i : Instr} (hexec : exec i s = .next (homeRequest (homeTaken s n p) n p)) (hatom : isAtom p = true)
    (hqueue : mustQueue (s.mr n) (lineOf p.addr) = false) (hdir : dirOf (s.mr n) (lineOf p.addr) = none) (hsub : p.sub ≠ 1)
    (hecc : find? (s.mr n).ecc (windowOff p.addr / 1024) = none) (hok : blockOk s n (windowOff p.addr / 1024) = true) :
    Goes i s fun t =>
      Sends (stackSite n) 4 { withPayload (atomReply p) (s.read (stackAt n (windowOff p.addr)) 8) with ssite := stackSite n, sagt := 2 } s t ∧
      t = { s with regs := t.regs, mem := t.mem, routers := t.routers, mrs := t.mrs } ∧
      (s.read (stackAt n (windowOff p.addr)) 8 ≠ p.payload.take 8 → SameMem s t) ∧
      (s.read (stackAt n (windowOff p.addr)) 8 = p.payload.take 8 →
        t.mem = (partialWrite s n (windowOff p.addr) ((p.payload.drop 8).take 8)).mem) := by
  have hstart : startReq (homeTaken s n p) n p = doAtomic (homeTaken s n p) n p := by
    unfold startReq
    dsimp only
    rw [show dirOf ((homeTaken s n p).mr n) (lineOf p.addr) = none from hdir]
    exact if_pos hatom
  rw [homeRequest_started (s := homeTaken s n p) hqueue, hstart, doAtomic_swap (s := homeTaken s n p) hsub hecc hok] at hexec
  have hread : (homeTaken s n p).read (stackAt n (windowOff p.addr)) 8 = s.read (stackAt n (windowOff p.addr)) 8 := rfl
  rw [hread] at hexec
  refine ⟨_, hexec, ?_⟩
  by_cases hold : s.read (stackAt n (windowOff p.addr)) 8 = p.payload.take 8
  · rw [if_pos hold]
    have heq := partialWrite_sound (s := homeTaken s n p) ((p.payload.drop 8).take 8) hecc hok
    have hmem : (partialWrite (homeTaken s n p) n (windowOff p.addr) ((p.payload.drop 8).take 8)).mem = _ :=
      mem_partialWrite_popEject ..
    generalize partialWrite (homeTaken s n p) n _ _ = w at heq hmem
    refine ⟨Sends.of_homeTaken (n := n) (p := p) ?_, ?_, fun h => absurd hold h, fun _ => hmem⟩
    · rw [heq]
      exact sends_injectMr ..
    · rw [heq]
      rfl
  · rw [if_neg hold]
    exact ⟨Sends.of_homeTaken (sends_injectMr ..), rfl, fun _ _ => rfl, fun h => absurd h hold⟩

/-! ### PutMs -/

/-- Does the directory name cluster c as a line's owner? -/
def ownsLine (x : Stack) (line c : Nat) : Bool := (dirOf x line).elim false fun e => e.owner == some c

/-- Is a line being recalled? -/
def lineRecalled (x : Stack) (line : Nat) : Bool := (txOf x line).elim false fun t => t.kind == 2

/-- Does a PutAck wait for the end of its line's transaction (R198)? -/
def acksLater (x : Stack) (line c : Nat) : Bool := x.fwd.contains (line, c) || lineRecalled x line

theorem putAckOrDefer_eq (s : State) (n line c : Nat) : putAckOrDefer s n line c =
    if acksLater (s.mr n) line c then s.setMr n { s.mr n with putAcks := (s.mr n).putAcks ++ [(line, c)] }
    else injectMr s n 2 (toCluster c line uPutAck) := by
  unfold putAckOrDefer acksLater lineRecalled
  dsimp only
  cases txOf (s.mr n) line with
  | none => rfl
  | some t => rfl

theorem exec_cohPutm (h : HomeInbox s n p fun p => p.typ == tCoh && p.sub == uPutM) :
    exec (.cohPutm n) s = .next (
      if ownsLine (s.mr n) p.addr (senderClu p) then
        putAckOrDefer (if lineRecalled (s.mr n) p.addr then partialWrite (homeTaken s n p) n (windowOff p.addr) p.payload
          else (partialWrite (homeTaken s n p) n (windowOff p.addr) p.payload).modMr n fun x => dirDrop x p.addr) n p.addr (senderClu p)
      else putAckOrDefer ((homeTaken s n p).bump (mrPutmStaleCntAt n)) n p.addr (senderClu p)) := by
  show execCohPutm n s = _
  unfold execCohPutm
  rw [serveHome_eq h, show (homeTaken s n p).mr n = s.mr n from rfl]
  unfold ownsLine lineRecalled
  dsimp only
  cases dirOf (s.mr n) p.addr with
  | none => rfl
  | some e =>
    cases txOf (s.mr n) p.addr with
    | none => rfl
    | some t => rfl

theorem goes_putm_stale (h : HomeInbox s n p fun p => p.typ == tCoh && p.sub == uPutM)
    (howner : ownsLine (s.mr n) p.addr (senderClu p) = false) :
    Goes (.cohPutm n) s fun t => Counted (mrPutmStaleCntAt n) s t ∧ RegsBut [mrPutmStaleCntAt n] s t ∧ SameMem s t ∧ OnlyMr n s t ∧
      (acksLater (s.mr n) p.addr (senderClu p) = false → Sends (stackSite n) 4
        { toCluster (senderClu p) p.addr uPutAck with ssite := stackSite n, sagt := 2 } s t) ∧
      t.mr n = if acksLater (s.mr n) p.addr (senderClu p) = true then
        { s.mr n with putAcks := (s.mr n).putAcks ++ [(p.addr, senderClu p)] } else s.mr n := by
  have hexec := exec_cohPutm h
  rw [if_neg (by rw [howner]; exact Bool.false_ne_true), putAckOrDefer_eq] at hexec
  obtain ⟨heq, hcount, hregs⟩ := bump_counts (homeTaken s n p) (mrPutmStaleCntAt n)
  have hmr (k : Nat) : ((homeTaken s n p).bump (mrPutmStaleCntAt n)).mr k = s.mr k := by
    rw [heq]
    rfl
  have hmem : ((homeTaken s n p).bump (mrPutmStaleCntAt n)).mem = s.mem := by
    rw [heq]
    rfl
  have hsends : Sends (stackSite n) 4 { toCluster (senderClu p) p.addr uPutAck with ssite := stackSite n, sagt := 2 } s
      (injectMr ((homeTaken s n p).bump (mrPutmStaleCntAt n)) n 2 (toCluster (senderClu p) p.addr uPutAck)) := by
    refine Sends.of_homeTaken (n := n) (p := p) ?_
    rw [heq]
    exact sends_injectMr ..
  generalize (homeTaken s n p).bump (mrPutmStaleCntAt n) = w at hexec hcount hregs hmr hmem hsends
  rw [hmr] at hexec
  have hsame (a : Nat) : memByte w.mem a = memByte s.mem a := congrArg (memByte · a) hmem
  refine ⟨_, hexec, ?_⟩
  cases acksLater (s.mr n) p.addr (senderClu p) with
  | false => exact ⟨hcount, hregs, hsame, fun k _ => hmr k, fun _ => hsends, hmr n⟩
  | true =>
    exact ⟨hcount, hregs, hsame, fun k hk => ((State.setMr_mr ..).trans (if_neg hk)).trans (hmr k),
      fun h => absurd h.symm Bool.false_ne_true, State.setMr_self ..⟩

theorem dirOf_dirDrop (x : Stack) (line : Nat) : dirOf (dirDrop x line) line = none := by
  unfold dirOf dirDrop
  rw [List.find?_eq_none]
  intro e he
  have hne := (List.mem_filter.1 he).2
  simpa using hne

/-- A line that its owner gives back: the block written, and the entry gone where the home does not recall the line. -/
def putBack (s : State) (n : Nat) (p : Packet) (recalled : Bool) : State :=
  if recalled then partialWrite s n (windowOff p.addr) p.payload
  else (partialWrite s n (windowOff p.addr) p.payload).modMr n fun x => dirDrop x p.addr

theorem putBack_facts (s : State) (n : Nat) (p : Packet) (recalled : Bool) :
    let t := putBack s n p recalled
    t = { s with regs := t.regs, mem := t.mem, mrs := t.mrs } ∧ t.mem = (partialWrite s n (windowOff p.addr) p.payload).mem ∧
    (t.mr n).fwd = (s.mr n).fwd ∧ (t.mr n).txs = (s.mr n).txs ∧ (t.mr n).putAcks = (s.mr n).putAcks ∧
    (recalled = false → dirOf (t.mr n) p.addr = none) := by
  obtain ⟨heq, -, l, k, hself⟩ := blockWork_partialWrite s n (windowOff p.addr) p.payload
  unfold putBack
  generalize partialWrite s n (windowOff p.addr) p.payload = w at heq hself
  cases recalled with
  | true =>
    refine ⟨heq, rfl, ?_, ?_, ?_, fun h => absurd h.symm Bool.false_ne_true⟩
    all_goals
      show _ = _
      rw [if_pos rfl, hself]
  | false =>
    have hdrop : (w.modMr n fun x => dirDrop x p.addr).mr n = dirDrop (w.mr n) p.addr := State.setMr_self ..
    refine ⟨?_, rfl, ?_, ?_, ?_, fun _ => (congrArg (dirOf · p.addr) hdrop).trans (dirOf_dirDrop ..)⟩
    · rw [if_neg Bool.false_ne_true, heq]
      rfl
    · rw [if_neg Bool.false_ne_true, hdrop, hself]
      rfl
    · rw [if_neg Bool.false_ne_true, hdrop, hself]
      rfl
    · rw [if_neg Bool.false_ne_true, hdrop, hself]
      rfl

theorem acksLater_congr {x y : Stack} (hfwd : y.fwd = x.fwd) (htxs : y.txs = x.txs) (line c : Nat) :
    acksLater y line c = acksLater x line c := by
  unfold acksLater lineRecalled txOf
  rw [hfwd, htxs]

theorem goes_putm_owner (h : HomeInbox s n p fun p => p.typ == tCoh && p.sub == uPutM)
    (howner : ownsLine (s.mr n) p.addr (senderClu p) = true) :
    Goes (.cohPutm n) s fun t => t = { s with regs := t.regs, mem := t.mem, routers := t.routers, mrs := t.mrs } ∧
      t.mem = (partialWrite s n (windowOff p.addr) p.payload).mem ∧
      (lineRecalled (s.mr n) p.addr = false → dirOf (t.mr n) p.addr = none) ∧
      (acksLater (s.mr n) p.addr (senderClu p) = false → Sends (stackSite n) 4
        { toCluster (senderClu p) p.addr uPutAck with ssite := stackSite n, sagt := 2 } s t) ∧
      (acksLater (s.mr n) p.addr (senderClu p) = true → (t.mr n).putAcks = (s.mr n).putAcks ++ [(p.addr, senderClu p)]) := by
  have hexec : exec (.cohPutm n) s =
      .next (putAckOrDefer (putBack (homeTaken s n p) n p (lineRecalled (s.mr n) p.addr)) n p.addr (senderClu p)) :=
    (exec_cohPutm h).trans (congrArg _ (if_pos howner))
  rw [putAckOrDefer_eq] at hexec
  obtain ⟨heq, hmem, hfwd, htxs, hacks, hdir⟩ := putBack_facts (homeTaken s n p) n p (lineRecalled (s.mr n) p.addr)
  have hmem := hmem.trans (mem_partialWrite_popEject ..)
  generalize putBack (homeTaken s n p) n p _ = w at hexec heq hmem hfwd htxs hacks hdir
  rw [acksLater_congr (x := s.mr n) hfwd htxs] at hexec
  refine ⟨_, hexec, ?_⟩
  cases acksLater (s.mr n) p.addr (senderClu p) with
  | false =>
    refine ⟨?_, hmem, hdir, fun _ => Sends.of_homeTaken (n := n) (p := p) ?_, fun h => absurd h Bool.false_ne_true⟩
    · rw [heq]
      rfl
    · rw [heq]
      exact sends_injectMr ..
  | true =>
    have hself : ∀ x, (w.setMr n x).mr n = x := fun x => State.setMr_self ..
    refine ⟨?_, hmem, fun hr => ?_, fun h => absurd h.symm Bool.false_ne_true, fun _ => ?_⟩
    · rw [heq]
      rfl
    · rw [if_pos rfl, hself]
      exact hdir hr
    · rw [if_pos rfl, hself, hacks]
      rfl

/-! ### Transactions -/

/-- A transaction of the home in which h takes a new value. -/
def txChanged (x : Stack) (h : HomeTx) (f : HomeTx → HomeTx) : Stack :=
  { x with txs := x.txs.map fun u => if u = h then f u else u }

variable {h : HomeTx}

theorem exec_invAckAtHome (hp : HomeInbox s n p fun p => p.typ == tCoh && p.sub == uInvAck)
    (hh : txOf (s.mr n) p.addr = some h) :
    exec (.cohInvack (.router n)) s = .next (if h.kind ≠ 1 then homeTaken s n p
      else if h.acks ≤ 1 then endTx (homeTaken s n p) n h
      else (homeTaken s n p).modMr n fun x => txChanged x h fun u => { u with acks := u.acks - 1 }) := by
  refine (serveHome_eq hp _).trans (congrArg _ ?_)
  unfold ackAtHome
  rw [show txOf ((homeTaken s n p).mr n) p.addr = some h from hh]
  rfl

theorem exec_dataAtHome (hp : HomeInbox s n p fun p => p.typ == tCoh && p.sub == uData)
    (hh : txOf (s.mr n) p.addr = some h) :
    exec (.cohData (.router n)) s = .next (
      if h.kind = 2 then endTx (partialWrite (homeTaken s n p) n (windowOff p.addr) p.payload) n h
      else if h.needData then
        if h.acks = 1 then endTx (partialWrite (homeTaken s n p) n (windowOff p.addr) p.payload) n h
        else (partialWrite (homeTaken s n p) n (windowOff p.addr) p.payload).modMr n fun x =>
          txChanged x h fun u => { u with needData := false }
      else homeTaken s n p) := by
  refine (serveHome_eq hp _).trans (congrArg _ ?_)
  unfold dataAtHome
  rw [show txOf ((homeTaken s n p).mr n) p.addr = some h from hh]
  rfl

theorem exec_unblockAtHome (hp : HomeInbox s n p fun p => p.typ == tCoh && p.sub == uUnblock)
    (hh : txOf (s.mr n) p.addr = some h) :
    exec (.cohUnblock n) s = .next (
      if h.needData then (homeTaken s n p).modMr n fun x => txChanged x h fun u => { u with acks := 1 }
      else endTx (homeTaken s n p) n h) := by
  show execCohUnblock n s = _
  unfold execCohUnblock
  rw [serveHome_eq hp, show txOf ((homeTaken s n p).mr n) p.addr = some h from hh]
  rfl

theorem txs_txChanged (s : State) (n : Nat) (h : HomeTx) (f : HomeTx → HomeTx) :
    ((s.modMr n fun x => txChanged x h f).mr n).txs = (s.mr n).txs.map fun u => if u = h then f u else u :=
  congrArg Stack.txs (State.setMr_self ..)

theorem holderFor_none (hheld : ∀ e < 16, (s.edge e).held = []) (n : Nat) : holderFor s n = none := by
  unfold holderFor
  rw [List.findSome?_eq_none_iff]
  intro e he
  rw [hheld e (List.mem_range.1 he)]
  rfl

theorem releaseHeld_none (hheld : ∀ e < 16, (s.edge e).held = []) (n : Nat) : ∀ k, releaseHeld n k s = s
  | 0 => rfl
  | k + 1 => by
    unfold releaseHeld
    rw [holderFor_none hheld]

/-- A home's transaction ends that nothing else waits for: it is gone, with the forwards of its line. -/
theorem endTx_quiet {v : State} {n : Nat} (hkind : h.kind = 0) (hwaits : (v.mr n).waits = [])
    (hacks : ∀ a ∈ (v.mr n).putAcks, a.1 ≠ h.line) (hheld : ∀ e < 16, (v.edge e).held = []) :
    endTx v n h = v.setMr n { v.mr n with
      txs := (v.mr n).txs.erase h
      putAcks := (v.mr n).putAcks.filter fun a => a.1 != h.line
      fwd := (v.mr n).fwd.filter fun a => a.1 != h.line } := by
  have hnone : ((v.mr n).putAcks.filter fun a => a.1 == h.line) = [] := by
    rw [List.filter_eq_nil_iff]
    intro a ha
    simpa using hacks a ha
  unfold endTx nextReq
  dsimp only
  rw [hnone, List.foldl_nil, if_pos hkind, State.setMr_self, hwaits]
  exact releaseHeld_none (s := v.setMr n _) hheld n _

/-- Settles O36: what each message does at the home, by the state of its line. -/
theorem homeOfAControlWindow : Obligations.HomeOfAControlWindow := by
  intro s n p x v inbox coh tells line c queued idle sound waits gets swaps
  have hgets (i : Instr) (excl : Bool) (u : Nat) (hu : u = uGetM ↔ excl = true) (hp : coh u)
      (hexec : exec i s = .next (homeRequest (homeTaken s n p) n p)) : gets i excl := by
    have hwant := ejected_want hp
    simp only [Bool.and_eq_true, beq_iff_eq] at hwant
    obtain ⟨htyp, hsub⟩ := hwant
    have hget : isAtom p = false := by
      unfold isAtom
      rw [htyp]
      rfl
    have hm : p.sub = uGetM ↔ excl = true := by rw [hsub, hu]
    exact ⟨goes_homeRequest_queued hexec,
      fun ⟨hqueue, hdir, hroom⟩ ⟨hecc, hok⟩ => goes_get_fresh hexec hget hm hqueue hdir hroom hecc hok,
      fun e o hqueue hdir howner hother => goes_get_owned hexec hget hm hqueue hdir howner hother⟩
  have hswaps (i : Instr) (hatom : isAtom p = true) (hexec : exec i s = .next (homeRequest (homeTaken s n p) n p)) : swaps i :=
    ⟨goes_homeRequest_queued hexec,
      fun hqueue hdir hsub ⟨hecc, hok⟩ => goes_atomic hexec hatom hqueue hdir hsub hecc hok⟩
  refine ⟨fun hp => hgets _ false _ (by decide) hp (serveHome_eq hp fun p s => homeRequest s n p),
    fun hp => hgets _ true _ (by decide) hp (serveHome_eq hp fun p s => homeRequest s n p),
    fun hp => ?_, fun hp => ?_, fun hp => ?_, fun h hh => ?_⟩
  · have hwant := ejected_want hp
    rw [Bool.and_eq_true] at hwant
    exact hswaps _ hwant.1 (serveHome_eq hp fun p s => homeRequest s n p)
  · have hwant := ejected_want hp
    rw [Bool.and_eq_true] at hwant
    have hexec := serveHome_eq hp fun p s => if sharedHeld (s.mr n) < 128 then homeRequest s n p else holdBack s p
    refine ⟨fun hroom => hswaps _ hwant.1 (hexec.trans (congrArg _ (if_pos hroom))), fun hfull => ?_⟩
    exact ⟨_, hexec.trans (congrArg _ (if_neg (Nat.not_lt.2 hfull))), rfl, congrArg Edge.held (State.setEdge_self ..),
      fun k hk => (State.setEdge_edge ..).trans (if_neg hk)⟩
  · intro owner recalled later
    have howner : owner = ownsLine x p.addr c := by
      unfold ownsLine
      simp only [owner]
      cases dirOf x p.addr with
      | none => rfl
      | some e => rfl
    have hrecalled : recalled = lineRecalled x p.addr := by
      unfold lineRecalled
      simp only [recalled]
      cases txOf x p.addr with
      | none => rfl
      | some t => rfl
    have hlater : later = acksLater x p.addr c := congrArg (_ || ·) hrecalled
    rw [howner, hrecalled, hlater]
    exact ⟨goes_putm_stale hp, goes_putm_owner hp⟩
  · intro upd
    refine ⟨fun hp => ?_, fun hp => ?_, fun hp => ?_⟩
    · have hexec := exec_invAckAtHome hp hh
      refine ⟨fun hk => ⟨_, hexec.trans (congrArg _ (if_pos hk)), rfl⟩, fun hk ha => ?_, fun hk ha => ?_⟩
      · rw [if_neg (not_not.2 hk), if_neg (Nat.not_le.2 ha)] at hexec
        exact ⟨_, hexec, rfl, onlyMr_modMr _ _ _, txs_txChanged ..⟩
      · rw [if_neg (not_not.2 hk), if_pos ha] at hexec
        exact ⟨_, hexec, rfl⟩
    · have hexec := exec_dataAtHome hp hh
      refine ⟨fun hk => ⟨_, hexec.trans (congrArg _ (if_pos hk)), rfl⟩, fun hk hneed ha => ?_⟩
      rw [if_neg hk, if_pos hneed, if_neg ha] at hexec
      obtain ⟨heq, -, l, k, hself⟩ := blockWork_partialWrite (homeTaken s n p) n (windowOff p.addr) p.payload
      have hmem : (partialWrite (homeTaken s n p) n (windowOff p.addr) p.payload).mem = _ := mem_partialWrite_popEject ..
      generalize partialWrite (homeTaken s n p) n (windowOff p.addr) p.payload = w at hexec heq hself hmem
      refine ⟨_, hexec, hmem, (txs_txChanged ..).trans ?_, ?_⟩
      · rw [hself]
        rfl
      · rw [heq]
        rfl
    · have hexec := exec_unblockAtHome hp hh
      refine ⟨fun hneed => ?_, fun hneed hkind hwaits hacks hheld => ?_⟩
      · rw [if_pos hneed] at hexec
        exact ⟨_, hexec, rfl, onlyMr_modMr _ _ _, txs_txChanged ..⟩
      · rw [if_neg (by rw [hneed]; exact Bool.false_ne_true),
          endTx_quiet (v := homeTaken s n p) hkind hwaits hacks hheld] at hexec
        exact ⟨_, hexec, rfl, fun k hk => (State.setMr_mr ..).trans (if_neg hk), congrArg Stack.txs (State.setMr_self ..),
          congrArg Stack.fwd (State.setMr_self ..)⟩

end Sys2Proof.Machine
end

section
/-! The governor, slack reports and the ledger (O56). -/

namespace Sys2Proof.Machine

variable {s : State}

/-! ### Registers of the governor -/

/-- The registers of the list change, and nothing else. -/
def RegWork (l : List Nat) (s t : State) : Prop :=
  t = { s with regs := t.regs } ∧ ∀ a, a ∉ l → t.reg a = s.reg a ∧ t.ctr a = s.ctr a

theorem RegWork.refl (l : List Nat) (s : State) : RegWork l s s := ⟨rfl, fun _ _ => ⟨rfl, rfl⟩⟩

theorem RegWork.trans {l : List Nat} {u t : State} (h : RegWork l s u) (h' : RegWork l u t) : RegWork l s t := by
  obtain ⟨heq, hkept⟩ := h
  obtain ⟨heq', hkept'⟩ := h'
  refine ⟨by rw [heq', heq], fun a ha => ?_⟩
  obtain ⟨hreg, hctr⟩ := hkept a ha
  obtain ⟨hreg', hctr'⟩ := hkept' a ha
  exact ⟨hreg'.trans hreg, hctr'.trans hctr⟩

theorem regWork_setReg {l : List Nat} (s : State) {a : Nat} (v : Nat) (ha : a ∈ l) : RegWork l s (s.setReg a v) :=
  ⟨rfl, fun _ hb =>
    have hne := ne_of_mem_of_not_mem ha hb
    ⟨(State.setReg_reg ..).trans (if_neg hne.symm), ctr_setReg_ne s v hne.symm⟩⟩

theorem regWork_bump {l : List Nat} (s : State) {a : Nat} (ha : a ∈ l) : RegWork l s (s.bump a) :=
  ⟨bump_eq s a, fun _ hb =>
    have hne := ne_of_mem_of_not_mem ha hb
    ⟨reg_bump_ne s hne.symm, ctr_bump_ne s hne.symm⟩⟩

theorem regWork_noteThermalCap (s : State) : RegWork [thmRthAt, thmStatAt] s (noteThermalCap s) := by
  unfold noteThermalCap
  cases bindingCap s with
  | none => exact RegWork.refl _ s
  | some b => exact (regWork_setReg s _ (by decide)).trans (regWork_setReg _ _ (by decide))

theorem regWork_noteHottest (s : State) : RegWork [thmRthAt, thmStatAt] s (noteHottest s) := by
  unfold noteHottest
  cases hottest s with
  | none => exact RegWork.refl _ s
  | some b =>
    exact ((regWork_setReg s _ (by decide)).trans (regWork_setReg _ _ (by decide))).trans (regWork_setReg _ _ (by decide))

/-! ### The target -/

theorem highestOf_lt {test : Nat → Bool} {from_ p : Nat} (h : highestOf test from_ = some p) : p < 16 := by
  have hmem := List.mem_of_find?_eq_some h
  exact List.mem_range.1 (List.mem_reverse.1 (List.mem_of_mem_filter hmem))

theorem pTherm_lt (s : State) : pTherm s < 16 := by
  unfold pTherm
  cases h : highestOf (forecastOk s) 0 with
  | none => decide
  | some p => exact highestOf_lt h

theorem pHigh_lt {low : Nat} (hlow : low < 16) : pHigh s low < 16 := by
  unfold pHigh
  cases h : highestOf (fun p => predAtMost s p (capNow s)) low with
  | none => exact hlow
  | some p => exact highestOf_lt h

theorem capCode_lt (s : State) : capCode s < 64 := by
  unfold capCode
  split
  · decide
  · split <;> decide

theorem modeTarget_code_lt (s : State) (low high therm : Nat) : (modeTarget s low high therm).2 < 64 := by
  have hbound : (if therm < high then 3 else if high = 15 then 5 else capCode s) < 64 := by
    split
    · decide
    · split
      · decide
      · exact capCode_lt s
  unfold modeTarget
  dsimp only
  split
  · split
    · exact show 4 < 64 by decide
    · exact hbound
  · dsimp only
    split
    · decide
    · split
      · decide
      · split <;> decide
  · exact hbound

/-- The mode's point raised to P_low, held while readings are stale, lowered under a long alert (R442, R443, R451). -/
def boundedPoint (s : State) (low t : Nat) : Nat :=
  let held := if stale s then min (max t low) (max low s.mgr.cur) else max t low
  if s.power.fdaLong then max low (min held (s.mgr.cur - 1)) else held

theorem chooseTarget_eq (s : State) (low high therm : Nat) : chooseTarget s low high therm =
    (boundedPoint s low (modeTarget s low high therm).1,
      if (modeTarget s low high therm).1 < low then 6 else (modeTarget s low high therm).2) := by
  unfold chooseTarget boundedPoint
  generalize modeTarget s low high therm = m
  obtain ⟨t, code⟩ := m
  dsimp only
  by_cases ht : t < low
  · rw [if_pos ht, if_pos ht, Nat.max_eq_right ht.le]
    split <;> rfl
  · rw [if_neg ht, if_neg ht, Nat.max_eq_left (Nat.not_lt.1 ht)]
    split <;> rfl

theorem chooseTarget_code_lt (s : State) (low high therm : Nat) : (chooseTarget s low high therm).2 < 64 := by
  rw [chooseTarget_eq]
  dsimp only
  split
  · decide
  · exact modeTarget_code_lt ..

theorem le_boundedPoint (s : State) (low t : Nat) : low ≤ boundedPoint s low t := by
  unfold boundedPoint
  dsimp only
  split
  · exact le_max_left ..
  · split
    · exact le_min (le_max_right ..) (le_max_left ..)
    · exact le_max_right ..

theorem boundedPoint_calm {low t : Nat} (hlong : s.power.fdaLong = false) (hfresh : stale s = false) :
    boundedPoint s low t = max t low := by
  unfold boundedPoint
  dsimp only
  rw [hlong, hfresh]
  rfl

/-- In every mode but EFFICIENCY the point is at most P_therm. -/
theorem modeTarget_le_therm {low high therm : Nat} (hmode : govMode s ≠ 1) : (modeTarget s low high therm).1 ≤ therm := by
  unfold modeTarget
  dsimp only
  split
  · next h => exact absurd h hmode
  · exact min_le_right ..
  · exact min_le_right ..

theorem modeTarget_rate {low high therm : Nat} (hmode : govMode s = 0) : (modeTarget s low high therm).1 = min high therm := by
  unfold modeTarget
  rw [hmode]
  rfl

/-! ### PWR_STAT -/

theorem govMode_lt (s : State) : govMode s < 4 := by
  have hm : s.regField pwrGovCtlAt 1 0 < 4 := Nat.mod_lt _ (by decide)
  unfold govMode
  dsimp only
  split
  · decide
  · exact hm

theorem capNow_lt (s : State) : capNow s < 2 ^ 16 :=
  (min_le_left ..).trans_lt ((min_le_left ..).trans_lt (by decide))

/-- The fields of PWR_STAT that the governor sets. -/
theorem pwrStat_fields {cap therm high low code ov mode : Nat} (hcap : cap < 2 ^ 16) (htherm : therm < 16) (hhigh : high < 16)
    (hlow : low < 16) (hcode : code < 64) (hov : ov < 2) (hmode : mode < 4) :
    let v := cap * 2 ^ 48 + therm * 2 ^ 20 + high * 2 ^ 16 + low * 2 ^ 12 + code * 2 ^ 6 + ov * 16 + mode
    bits v 63 48 = cap ∧ bits v 1 0 = mode ∧ bits v 15 12 = low ∧ bits v 4 4 = ov := by
  unfold bits
  norm_num at hcap ⊢
  omega

theorem b2n_lt (b : Bool) : b2n b < 2 := by cases b <;> decide

/-! ### An evaluation -/

/-- The state on which the governor decides: the telemetry taken, the thermal cap and the hottest site noted. -/
def measured (s : State) : State := noteHottest (noteThermalCap (s.modMgr fun m => { m with govNs := m.telNs }))

/-- P_low cannot meet the cap. -/
def overCap (v : State) : Bool := !predAtMost v (pminNow v) (capNow v)

/-- The mode's point within its bounds, with what set it. -/
def modePoint (v : State) : Nat × Nat := chooseTarget v (pminNow v) (pHigh v (pminNow v)) (pTherm v)

/-- The point the governor chooses. -/
def chosenPoint (v : State) : Nat := max (modePoint v).1 (lowestPoint v)

/-- What set it, as in PWR_STAT.LIMIT. -/
def chosenCode (v : State) : Nat := if (modePoint v).1 < lowestPoint v then 6 else (modePoint v).2

/-- The evaluation recorded: a cap that cannot be met, PWR_STAT, and the slack of every partition ended. -/
def evaluated (v : State) : State :=
  let w := notePwrStat (if overCap v then v.bump pwrOvercapCntAt else v) (pminNow v) (pHigh v (pminNow v)) (pTherm v) (chosenCode v) (overCap v)
  { w with parts := w.parts.map fun p => { p with slackUnder := false, overran := false } }

/-- The request for the lock with which a change of the point begins (R455). -/
def pointRequest (v : State) : LockReq :=
  { code := 4, qmask := 15, arg := chosenPoint v + (if chosenCode v = 3 ∧ chosenPoint v < v.mgr.cur then 32 else 16), reply := none }

theorem exec_governorEvaluate_idle (h : governs s = false ∨ eqxWaits s = true ∨ s.mgr.telNs ≤ s.mgr.govNs) :
    exec .governorEvaluate s = .next s := by
  show execGovernorEvaluate s = _
  unfold execGovernorEvaluate
  rw [if_neg]
  rintro ⟨hgov, heqx, hnew⟩
  obtain h | h | h := h
  · exact Bool.false_ne_true (h.symm.trans hgov)
  · exact Bool.false_ne_true (heqx.symm.trans h)
  · exact Nat.not_le.2 hnew h

theorem exec_governorEvaluate (hgov : governs s = true) (heqx : eqxWaits s = false) (hnew : s.mgr.govNs < s.mgr.telNs) :
    exec .governorEvaluate s = .next (if chosenPoint (measured s) = (measured s).mgr.cur then evaluated (measured s)
      else requestLock (evaluated (measured s)) (pointRequest (measured s))) := by
  have hpair (v : State) : (if (modePoint v).1 < lowestPoint v then (lowestPoint v, 6) else ((modePoint v).1, (modePoint v).2)) =
      (chosenPoint v, chosenCode v) := by
    unfold chosenPoint chosenCode
    by_cases h : (modePoint v).1 < lowestPoint v
    · rw [if_pos h, if_pos h, Nat.max_eq_right h.le]
    · rw [if_neg h, if_neg h, Nat.max_eq_left (Nat.not_lt.1 h)]
  show execGovernorEvaluate s = _
  unfold execGovernorEvaluate
  rw [if_pos ⟨hgov, heqx, hnew⟩]
  dsimp only
  rw [show noteHottest (noteThermalCap (s.modMgr fun m => { m with govNs := m.telNs })) = measured s from rfl]
  generalize measured s = v
  rw [show chooseTarget v (pminNow v) (pHigh v (pminNow v)) (pTherm v) = ((modePoint v).1, (modePoint v).2) from rfl]
  dsimp only
  rw [hpair]
  dsimp only
  by_cases h : chosenPoint v = v.mgr.cur
  · rw [if_pos h, if_pos h]
    rfl
  · rw [if_neg h, if_neg h]
    rfl

theorem measured_facts (s : State) : measured s = { s with regs := (measured s).regs, mgr := { s.mgr with govNs := s.mgr.telNs } } ∧
    (measured s).ctr pwrOvercapCntAt = s.ctr pwrOvercapCntAt := by
  obtain ⟨heq, hkept⟩ := (regWork_noteThermalCap (s.modMgr fun m => { m with govNs := m.telNs })).trans (regWork_noteHottest _)
  exact ⟨heq, (hkept _ (by decide)).2⟩

/-- The evaluation's record: what it changes, and what it leaves for a read of PWR_STAT. -/
theorem evaluated_facts (v : State) :
    let t := evaluated v
    t = { v with regs := t.regs, parts := v.parts.map fun p => { p with slackUnder := false, overran := false } } ∧
    (pminNow v < 16 → bits (t.reg pwrStatAt) 63 48 = capNow v ∧ bits (t.reg pwrStatAt) 1 0 = govMode v ∧
      bits (t.reg pwrStatAt) 15 12 = pminNow v ∧ bits (t.reg pwrStatAt) 4 4 = b2n (overCap v)) ∧
    (overCap v = true → Counted pwrOvercapCntAt v t) := by
  have hw : RegWork [pwrOvercapCntAt] v (if overCap v then v.bump pwrOvercapCntAt else v) := by
    split
    · exact regWork_bump v List.mem_cons_self
    · exact RegWork.refl _ v
  have hcount : overCap v = true → Counted pwrOvercapCntAt v (if overCap v then v.bump pwrOvercapCntAt else v) := by
    intro h
    rw [if_pos h]
    exact ctr_bump_self ..
  have hcode : chosenCode v < 64 := by
    unfold chosenCode
    split
    · decide
    · exact chooseTarget_code_lt ..
  unfold evaluated
  dsimp only
  generalize (if overCap v then v.bump pwrOvercapCntAt else v) = w at hw hcount
  obtain ⟨heq, hkept⟩ := hw
  have hfield (a hi lo : Nat) (ha : a ∉ [pwrOvercapCntAt]) : w.regField a hi lo = v.regField a hi lo :=
    congrArg (bits · hi lo) (hkept a ha).1
  have hcap : capNow w = capNow v := by
    unfold capNow operatorCap thermalCap phaseCap
    rw [hfield _ _ _ (by decide), hfield _ _ _ (by decide), hfield _ _ _ (by decide)]
  have hmode : govMode w = govMode v := by
    unfold govMode
    rw [hfield _ _ _ (by decide)]
  refine ⟨?_, fun hlow => ?_, fun h => ?_⟩
  · rw [heq]
    rfl
  · unfold notePwrStat
    rw [show ∀ x p, ({ State.setReg w pwrStatAt x with parts := p } : State).reg pwrStatAt = x from fun x p => State.setReg_self .., hcap, hmode]
    exact pwrStat_fields (capNow_lt v) (pTherm_lt v) (pHigh_lt hlow) hlow hcode (b2n_lt _) (govMode_lt v)
  · have hctr : ∀ x p, ({ State.setReg w pwrStatAt x with parts := p } : State).ctr pwrOvercapCntAt = w.ctr pwrOvercapCntAt :=
      fun x p => ctr_setReg_ne w x (by decide)
    unfold Counted notePwrStat
    rw [hctr]
    exact hcount h

theorem le_chosenPoint (v : State) : pminNow v ≤ chosenPoint v ∧ lowestPoint v ≤ chosenPoint v := by
  refine ⟨le_trans ?_ (le_max_left ..), le_max_right ..⟩
  unfold modePoint
  rw [chooseTarget_eq]
  exact le_boundedPoint ..

/-- With no alert and fresh readings the mode's point counts, raised to P_low. -/
theorem modePoint_calm {v : State} (hlong : v.power.fdaLong = false) (hfresh : stale v = false) :
    (modePoint v).1 = max (modeTarget v (pminNow v) (pHigh v (pminNow v)) (pTherm v)).1 (pminNow v) := by
  unfold modePoint
  rw [chooseTarget_eq]
  exact boundedPoint_calm hlong hfresh

theorem chosenPoint_hot {v : State} (hhot : pTherm v < pminNow v) (hmode : govMode v ≠ 1) (hlong : v.power.fdaLong = false)
    (hfresh : stale v = false) : chosenPoint v = max (pminNow v) (lowestPoint v) := by
  unfold chosenPoint
  rw [modePoint_calm hlong hfresh, Nat.max_eq_right ((modeTarget_le_therm hmode).trans hhot.le)]

theorem chosenPoint_rate {v : State} (hmode : govMode v = 0) (hlow : pminNow v ≤ min (pHigh v (pminNow v)) (pTherm v))
    (hlong : v.power.fdaLong = false) (hfresh : stale v = false) :
    chosenPoint v = max (min (pHigh v (pminNow v)) (pTherm v)) (lowestPoint v) := by
  unfold chosenPoint
  rw [modePoint_calm hlong hfresh, modeTarget_rate hmode, Nat.max_eq_left hlow]

/-- What the governor's request adds to its record: one entry for the lock, and nothing else. -/
theorem requestLock_facts (s : State) (r : LockReq) :
    requestLock s r = { s with mgr := { s.mgr with locks := s.mgr.locks ++ [r] } } := rfl

/-- The governor's own record after an evaluation. -/
def governed (s : State) : State :=
  if chosenPoint (measured s) = (measured s).mgr.cur then evaluated (measured s)
  else requestLock (evaluated (measured s)) (pointRequest (measured s))

/-- What an evaluation leaves of the state that it measured. -/
theorem governed_facts (s : State) :
    governed s = { s with regs := (governed s).regs, parts := (governed s).parts, mgr := (governed s).mgr } ∧
    (governed s).regs = (evaluated (measured s)).regs ∧ (governed s).mgr.govNs = s.mgr.telNs ∧
    (governed s).parts = s.parts.map (fun p => { p with slackUnder := false, overran := false }) ∧
    (chosenPoint (measured s) = s.mgr.cur → (governed s).mgr.locks = s.mgr.locks) ∧
    (chosenPoint (measured s) ≠ s.mgr.cur → (governed s).mgr.locks = s.mgr.locks ++ [pointRequest (measured s)]) := by
  obtain ⟨hmeas, -⟩ := measured_facts s
  obtain ⟨heval, -⟩ := evaluated_facts (measured s)
  have hcur : (measured s).mgr.cur = s.mgr.cur := by rw [hmeas]
  have hparts : (measured s).parts = s.parts := by rw [hmeas]
  have hmgr : (measured s).mgr = { s.mgr with govNs := s.mgr.telNs } := by rw [hmeas]
  unfold governed
  rw [hcur]
  generalize evaluated (measured s) = w at heval
  generalize measured s = v at hmeas heval hparts hmgr
  rw [hparts] at heval
  by_cases h : chosenPoint v = s.mgr.cur
  · rw [if_pos h]
    refine ⟨?_, rfl, ?_, ?_, fun _ => ?_, fun hne => absurd h hne⟩
    · rw [heval, hmeas]
    · rw [heval]
      dsimp only
      rw [hmgr]
    · rw [heval]
    · rw [heval]
      dsimp only
      rw [hmgr]
  · rw [if_neg h, requestLock_facts]
    refine ⟨?_, rfl, ?_, ?_, fun heq => absurd heq h, fun _ => ?_⟩
    · rw [heval, hmeas]
    · rw [heval]
      dsimp only
      rw [hmgr]
    · rw [heval]
    · rw [heval]
      dsimp only
      rw [hmgr]

/-! ### Slack (R454) -/

theorem mapFirst_of_none {α : Type} (p : α → Bool) (f : α → α) : ∀ l : List α, l.find? p = none → mapFirst p f l = l
  | [], _ => rfl
  | a :: l, h => by
    rw [List.find?_eq_none] at h
    unfold mapFirst
    rw [if_neg (h a List.mem_cons_self), mapFirst_of_none p f l (List.find?_eq_none.2 fun b hb => h b (List.mem_cons_of_mem a hb))]

/-- A partition's record with a cluster's report entered. -/
def slackTaken (frac : Nat) (overran : Bool) (frame : Nat) (p : Partition) : Partition := { p with
  slackN := if p.slackN = 0 ∨ p.slackLast < frame then p.slackN + 1 else p.slackN
  slackLast := max p.slackLast frame, slackLow := min p.slackLow frac
  slackUnder := p.slackUnder || decide (frac < p.cfg.slackMin), overran := p.overran || overran }

theorem takeSlack_eq (s : State) (frac : Nat) (overran : Bool) (frame lclu : Nat) :
    takeSlack s frac overran frame lclu = modPart s (fieldQuarter (lclu / 60)) (slackTaken frac overran frame) := rfl

theorem takeSlack_none {frac frame lclu : Nat} {overran : Bool} (h : partOf s (fieldQuarter (lclu / 60)) = none) :
    (takeSlack s frac overran frame lclu).parts = s.parts := mapFirst_of_none _ _ _ h

theorem partOf_takeSlack (s : State) (frac : Nat) (overran : Bool) (frame lclu : Nat) :
    partOf (takeSlack s frac overran frame lclu) (fieldQuarter (lclu / 60)) =
      (partOf s (fieldQuarter (lclu / 60))).map (slackTaken frac overran frame) := by
  rw [takeSlack_eq]
  exact partOf_modPart _ _ fun _ => rfl

/-! ### FLOP counts (R457) -/

/-- Registers and partitions change, and nothing else. -/
def LedgerWork (s t : State) : Prop := t = { s with regs := t.regs, parts := t.parts }

theorem LedgerWork.trans {u t : State} (h : LedgerWork s u) (h' : LedgerWork u t) : LedgerWork s t := by
  unfold LedgerWork at h h' ⊢
  rw [h', h]

theorem ledgerWork_foldl {α : Type} {f : State → α → State} (hf : ∀ s a, LedgerWork s (f s a)) :
    ∀ (l : List α) (s : State), LedgerWork s (l.foldl f s)
  | [], _ => rfl
  | a :: l, s => (hf s a).trans (ledgerWork_foldl hf l (f s a))

/-- Registers at distinct addresses, each given a value that depends on its own: a pass over them in any order. -/
theorem foldl_setReg {A : Nat → Nat} (hA : ∀ g h, A g = A h → g = h) (f : Nat → Nat → Nat) {k : Nat} :
    ∀ (l : List Nat) (s : State), l.Nodup →
      ((l.foldl (fun t g => t.setReg (A g) (f g (t.reg (A g)))) s).reg (A k) = if k ∈ l then f k (s.reg (A k)) else s.reg (A k))
  | [], _, _ => rfl
  | g :: l, s, h => by
    obtain ⟨hg, hl⟩ := List.nodup_cons.1 h
    rw [List.foldl_cons, foldl_setReg hA f l _ hl, State.setReg_reg]
    by_cases hk : k = g
    · subst hk
      rw [if_neg hg, if_pos rfl, if_pos List.mem_cons_self]
    · rw [if_neg fun h => hk (hA _ _ h)]
      simp [hk]

/-- FLOP of a group that stand against a partition: its units' and the rest of the last gathering. -/
def partFlop (s : State) (p : Partition) (g : Nat) : Nat := flopOf s p.qmask g + findD p.flopRest g 0

theorem opsAt_inj (q g h : Nat) (heq : opsAt q g = opsAt q h) : g = h := by
  unfold opsAt at heq
  omega

/-- The registers of the groups of a list take the whole units of 2^30 FLOP of a partition, as counted in u. -/
def opsGathered (u : State) (p : Partition) (l : List Nat) (s : State) : State :=
  l.foldl (fun t g => t.setReg (opsAt (partQ p) g) ((t.reg (opsAt (partQ p) g) + partFlop u p g / 2 ^ 30) % 2 ^ 64)) s

theorem gatherPart_eq (s : State) (p : Partition) : gatherPart s p =
    modPart (opsGathered s p (List.range 8) s) (partQ p) fun y => { y with flopRest := (List.range 8).map fun g => (g, partFlop s p g % 2 ^ 30) } := by
  unfold gatherPart opsGathered
  rfl

theorem parts_opsGathered (u : State) (p : Partition) : ∀ (l : List Nat) (s : State), (opsGathered u p l s).parts = s.parts
  | [], _ => rfl
  | _ :: l, _ => parts_opsGathered u p l _

theorem reg_opsGathered (u : State) (p : Partition) (l : List Nat) (s : State) (hl : l.Nodup) {g : Nat} (hg : g ∈ l) :
    (opsGathered u p l s).reg (opsAt (partQ p) g) = (s.reg (opsAt (partQ p) g) + partFlop u p g / 2 ^ 30) % 2 ^ 64 :=
  (foldl_setReg (opsAt_inj (partQ p)) (fun g v => (v + partFlop u p g / 2 ^ 30) % 2 ^ 64) l s hl).trans (if_pos hg)

theorem ledgerWork_setReg (s : State) (a v : Nat) : LedgerWork s (s.setReg a v) := rfl

theorem ledgerWork_modPart (s : State) (q : Nat) (f : Partition → Partition) : LedgerWork s (modPart s q f) := rfl

theorem ledgerWork_gatherPart (s : State) (p : Partition) : LedgerWork s (gatherPart s p) := by
  rw [gatherPart_eq]
  have hregs : LedgerWork s (opsGathered s p (List.range 8) s) := ledgerWork_foldl (fun _ _ => ledgerWork_setReg ..) _ _
  exact hregs.trans (ledgerWork_modPart ..)

theorem reg_gatherPart (s : State) (p : Partition) {g : Nat} (hg : g < 8) :
    (gatherPart s p).reg (opsAt (partQ p) g) = (s.reg (opsAt (partQ p) g) + partFlop s p g / 2 ^ 30) % 2 ^ 64 := by
  rw [gatherPart_eq]
  exact reg_opsGathered s p _ s List.nodup_range (List.mem_range.2 hg)

theorem bit_lowestQuarter : ∀ m < 16, m ≠ 0 → bit m (lowestQuarter m) = true := by decide

theorem parts_gatherPart {p : Partition} (hp : s.parts = [p]) (hne : p.qmask ≠ 0) (hlt : p.qmask < 16) :
    (gatherPart s p).parts = [{ p with flopRest := (List.range 8).map fun g => (g, partFlop s p g % 2 ^ 30) }] := by
  rw [gatherPart_eq]
  unfold modPart
  rw [parts_opsGathered, hp]
  unfold mapFirst partQ
  rw [if_pos (bit_lowestQuarter _ hlt hne)]

theorem findD_table (f : Nat → Nat) {g : Nat} (hg : g < 8) : findD ((List.range 8).map fun g => (g, f g)) g 0 = f g := by
  unfold findD
  rw [find?_table f g _ (List.mem_range.2 hg)]
  rfl

/-- The units after a gathering: their counts are cleared. -/
def flopCleared (s : State) : State := { s with units := s.units.map fun u => (u.1, { u.2 with flop := [] }) }

theorem un_flopCleared (s : State) (u : Nat) : (flopCleared s).un u = { s.un u with flop := [] } := by
  have hfind : find? (flopCleared s).units u = (find? s.units u).map fun y => { y with flop := [] } :=
    find?_mapSnd (fun (_ : Nat) (y : UnitState) => ({ y with flop := [] } : UnitState)) u s.units
  unfold State.un findD
  rw [hfind]
  cases find? s.units u with
  | none => rfl
  | some y => rfl

theorem exec_opsGather (h : (activeMgr s).isSome = true) : exec .opsGather s = .next (flopCleared (s.parts.foldl gatherPart s)) := by
  show execOpsGather s = _
  unfold execOpsGather
  rw [if_pos h]
  rfl

/-! ### The ledger (R459) -/

theorem advMgr_eq (s : State) (t : Nat) :
    advMgr s t = { s with fab := (advMgr s t).fab, keepers := (advMgr s t).keepers, mgr := (advMgr s t).mgr } := advFab_eq s (mgrInstant s t)

theorem parts_advMgr (s : State) (t : Nat) : (advMgr s t).parts = s.parts := by rw [advMgr_eq]

theorem mem_advMgr (s : State) (t : Nat) : (advMgr s t).mem = s.mem := by rw [advMgr_eq]

theorem exec_ledgerSecond (h : (activeMgr s).isSome = true) : exec .ledgerSecond s =
    .next (s.parts.foldl ledgerPart (advMgr s ((mgrNs s / 1000000000 + 1) * 1000000000))) := by
  show execLedgerSecond s = _
  unfold execLedgerSecond
  rw [if_pos h]
  dsimp only
  rw [parts_advMgr]

/-- The four registers of a partition's second are apart. -/
theorem ledgerRegs_ne (q : Nat) : pwrTpmwhAt q ≠ pwrJpfAt q ∧ pwrTokensAt q ≠ pwrJpfAt q ∧ pwrTokensAt q ≠ pwrTpmwhAt q ∧
    pwrEnergyAt q ≠ pwrJpfAt q ∧ pwrEnergyAt q ≠ pwrTpmwhAt q := by
  unfold pwrTpmwhAt pwrJpfAt pwrTokensAt pwrEnergyAt
  omega

/-- Tokens of a partition in the second that ends. -/
def tokensOf (s : State) (p : Partition) : Nat := (s.reg (pwrTokensAt (partQ p)) + 2 ^ 64 - p.secTokens) % 2 ^ 64

/-- Energy of a partition in the second that ends. -/
def energyOf (s : State) (p : Partition) : Nat := (s.reg (pwrEnergyAt (partQ p)) + 2 ^ 64 - p.secEnergy) % 2 ^ 64

/-- Tokens per MWh, 0 where there is no energy. -/
def tpmwhOf (s : State) (p : Partition) : Nat :=
  if energyOf s p = 0 then 0 else tokensOf s p * 3600000000000000 / energyOf s p % 2 ^ 64

/-- Energy per frame, 0 where there is no frame. -/
def jpfOf (s : State) (p : Partition) : Nat := if p.secFrames = 0 then 0 else min (energyOf s p / p.secFrames) 0xFFFFFFFF

/-- The two figures of a partition's second written. -/
def figured (s : State) (p : Partition) : State :=
  (s.setReg (pwrTpmwhAt (partQ p)) (tpmwhOf s p)).setReg (pwrJpfAt (partQ p)) (jpfOf s p)

theorem ledgerPart_eq (s : State) (p : Partition) : ledgerPart s p = modPart (figured s p) (partQ p) fun x =>
    { x with secTokens := (figured s p).reg (pwrTokensAt (partQ p)), secEnergy := (figured s p).reg (pwrEnergyAt (partQ p)), secFrames := 0 } := by
  unfold ledgerPart figured tpmwhOf jpfOf energyOf tokensOf
  rfl

theorem reg_figured (s : State) (p : Partition) (a : Nat) : (figured s p).reg a =
    if a = pwrJpfAt (partQ p) then jpfOf s p else if a = pwrTpmwhAt (partQ p) then tpmwhOf s p else s.reg a :=
  (State.setReg_reg ..).trans (if_congr Iff.rfl rfl (State.setReg_reg ..))

theorem ledgerWork_ledgerPart (s : State) (p : Partition) : LedgerWork s (ledgerPart s p) := by
  rw [ledgerPart_eq]
  exact ((ledgerWork_setReg s _ _).trans (ledgerWork_setReg _ _ _)).trans (ledgerWork_modPart ..)

theorem reg_modPart (s : State) (q : Nat) (f : Partition → Partition) (a : Nat) : (modPart s q f).reg a = s.reg a := rfl

theorem reg_ledgerPart (s : State) (p : Partition) (a : Nat) : (ledgerPart s p).reg a =
    if a = pwrJpfAt (partQ p) then jpfOf s p else if a = pwrTpmwhAt (partQ p) then tpmwhOf s p else s.reg a := by
  rw [ledgerPart_eq, reg_modPart, reg_figured]

theorem partOf_figured (s : State) (p : Partition) (q : Nat) : partOf (figured s p) q = partOf s q := rfl

theorem partOf_ledgerPart {p : Partition} (hp : partOf s (partQ p) = some p) : partOf (ledgerPart s p) (partQ p) =
    some { p with secTokens := s.reg (pwrTokensAt (partQ p)), secEnergy := s.reg (pwrEnergyAt (partQ p)), secFrames := 0 } := by
  obtain ⟨-, htokJ, htokT, henJ, henT⟩ := ledgerRegs_ne (partQ p)
  have htok : (figured s p).reg (pwrTokensAt (partQ p)) = s.reg (pwrTokensAt (partQ p)) := by
    rw [reg_figured, if_neg htokJ, if_neg htokT]
  have hen : (figured s p).reg (pwrEnergyAt (partQ p)) = s.reg (pwrEnergyAt (partQ p)) := by
    rw [reg_figured, if_neg henJ, if_neg henT]
  rw [ledgerPart_eq, htok, hen]
  refine (partOf_modPart _ _ ?_).trans ?_
  · intro y
    rfl
  · rw [partOf_figured, hp]
    rfl

/-- Settles O56: the evaluation, the reports of slack, the FLOP counts and the second of the ledger. -/
theorem governorAndLedger : Obligations.GovernorAndLedger := by
  intro s
  refine ⟨fun h => ⟨s, exec_governorEvaluate_idle h, rfl⟩, fun hgov heqx hnew => ?_, fun b p ha hp => ?_, fun ha => ?_, fun ha => ?_,
    fun p hp => ?_⟩
  · obtain ⟨hmeas, hctr⟩ := measured_facts s
    obtain ⟨heq, hregs, hgovNs, hparts, hsame, hnewPoint⟩ := governed_facts s
    obtain ⟨-, hstat, hcount⟩ := evaluated_facts (measured s)
    obtain ⟨hlow, hlowest⟩ := le_chosenPoint (measured s)
    have hreg : (governed s).reg pwrStatAt = (evaluated (measured s)).reg pwrStatAt := by
      unfold State.reg
      rw [hregs]
    have hpower : (measured s).power = s.power := by rw [hmeas]
    have hcur : (measured s).mgr.cur = s.mgr.cur := by rw [hmeas]
    refine ⟨governed s, exec_governorEvaluate hgov heqx hnew, heq, hgovNs, hparts, measured s, chosenPoint (measured s), rfl, rfl, hlow,
      hlowest, fun hhot hmode hlong hfresh => ?_, fun hmode hle hlong hfresh => ?_, fun h => ?_, fun hover => ?_, hsame, fun hne => ?_⟩
    · exact chosenPoint_hot hhot hmode (by rw [hpower]; exact hlong) hfresh
    · exact chosenPoint_rate hmode hle (by rw [hpower]; exact hlong) hfresh
    · rw [hreg]
      exact hstat h
    · have hc := hcount (congrArg (!·) hover)
      unfold Counted State.ctr at hc ⊢
      rw [hregs, hc]
      exact congrArg (fun n => min (n + 1) 0xFFFFFFFFFFFF) hctr
    · refine ⟨_, ?_, hnewPoint hne⟩
      rw [hcur]
      split
      · next h => exact .inr ⟨rfl, h.2⟩
      · exact .inl rfl
  · refine ⟨_, serveMgr_eq _ _ _ ha hp, rfl, fun hnone => takeSlack_none hnone, fun y hy => ?_⟩
    exact (partOf_takeSlack ..).trans (congrArg (Option.map _) hy)
  · have hwork := ledgerWork_foldl ledgerWork_gatherPart s.parts s
    refine ⟨_, exec_opsGather ha, ?_, fun u => ?_, fun hnil => ?_, fun p hp g hg => ⟨?_, fun hne hlt y hy => ?_⟩⟩
    · unfold LedgerWork at hwork
      rw [hwork]
      rfl
    · rw [un_flopCleared]
      unfold LedgerWork at hwork
      rw [hwork]
      rfl
    · rw [hnil]
      rfl
    · rw [hp]
      exact reg_gatherPart s p hg
    · have hy' : (gatherPart s p).parts = [y] := by
        rw [hp] at hy
        exact hy
      rw [parts_gatherPart hp hne hlt] at hy'
      rw [← List.singleton_inj.1 hy']
      exact findD_table _ hg
  · refine ⟨_, exec_ledgerSecond ha, (mgrNs s / 1000000000 + 1) * 1000000000, Nat.mul_mod_left .., by omega, by omega, ?_, rfl, ?_⟩
    · rw [ledgerWork_foldl ledgerWork_ledgerPart s.parts (advMgr s _)]
    · intro a
      rw [ledgerWork_foldl ledgerWork_ledgerPart s.parts (advMgr s _)]
      exact congrArg (memByte · a) (mem_advMgr ..)
  · obtain ⟨hTJ, -⟩ := ledgerRegs_ne (partQ p)
    refine ⟨rfl, fun a ha => ?_, ?_, ?_, partOf_ledgerPart hp⟩
    · obtain ⟨hT, hJ⟩ : a ≠ pwrTpmwhAt (partQ p) ∧ a ≠ pwrJpfAt (partQ p) := by simpa using ha
      rw [reg_ledgerPart, if_neg hJ, if_neg hT]
    · rw [reg_ledgerPart, if_neg hTJ, if_pos rfl, tpmwhOf, energyOf, tokensOf]
    · rw [reg_ledgerPart, if_pos rfl, jpfOf, energyOf]

end Sys2Proof.Machine
end

section
/-! Message queues: rows that land, entries that are appended, messages that are discarded or dequeued, and credits that return
(O33). -/

namespace Sys2Proof.Machine

variable {s t u : State} {c q : Nat}

/-! ### Work on one queue of a cluster -/

/-- From s to t cluster c has worked on its queue q: no other cluster, no other queue of its own and no time has changed. -/
def OnlyQueue (c q : Nat) (s t : State) : Prop :=
  OnlyCl c s t ∧ t.fab = s.fab ∧ ∀ k, k ≠ q → queueOf (t.cl c) k = queueOf (s.cl c) k

theorem OnlyQueue.refl (c q : Nat) (s : State) : OnlyQueue c q s s := ⟨fun _ _ => rfl, rfl, fun _ _ => rfl⟩

theorem OnlyQueue.trans (h : OnlyQueue c q s t) (h' : OnlyQueue c q t u) : OnlyQueue c q s u := by
  obtain ⟨hcl, hfab, hqueue⟩ := h
  obtain ⟨hcl', hfab', hqueue'⟩ := h'
  exact ⟨fun k hk => (hcl' k hk).trans (hcl k hk), hfab'.trans hfab, fun k hk => (hqueue' k hk).trans (hqueue k hk)⟩

/-- Work on anything but clusters and time. -/
theorem OnlyQueue.of_clusters (q : Nat) (hcl : t.clusters = s.clusters) (hfab : t.fab = s.fab) : OnlyQueue c q s t := by
  have h : ∀ k, t.cl k = s.cl k := fun k => by rw [State.cl, State.cl, hcl]
  exact ⟨fun k _ => h k, hfab, fun k _ => by rw [h]⟩

theorem queueOf_putAt (x : Cluster) (q k : Nat) (y : Queue) :
    queueOf { x with queues := putAt x.queues q y } k = if k = q then y else queueOf x k :=
  findD_putAt ..

theorem cl_modQueue_self (s : State) (c q : Nat) (f : Queue → Queue) :
    (modQueue s c q f).cl c = { s.cl c with queues := putAt (s.cl c).queues q (f (queueOf (s.cl c) q)) } :=
  State.setCl_self ..

theorem queueOf_modQueue_self (s : State) (c q : Nat) (f : Queue → Queue) :
    queueOf ((modQueue s c q f).cl c) q = f (queueOf (s.cl c) q) := by
  rw [cl_modQueue_self, queueOf_putAt, if_pos rfl]

theorem onlyQueue_modQueue (s : State) (c q : Nat) (f : Queue → Queue) : OnlyQueue c q s (modQueue s c q f) := by
  refine ⟨fun k hk => (State.setCl_cl ..).trans (if_neg hk), rfl, fun k hk => ?_⟩
  rw [cl_modQueue_self, queueOf_putAt, if_neg hk]

theorem queueOf_bumpBy (s : State) (a n : Nat) : queueOf ((s.bumpBy a n).cl c) q = queueOf (s.cl c) q := by
  rw [bumpBy_eq]
  rfl

theorem queueOf_bump (s : State) (a : Nat) : queueOf ((s.bump a).cl c) q = queueOf (s.cl c) q := queueOf_bumpBy ..

/-! ### Appending (R163, R170) -/

/-- From s to t queue q of cluster c has appended entries: besides, only registers differ. -/
def AppendWork (c q : Nat) (s t : State) : Prop :=
  OnlyQueue c q s t ∧ t = { s with regs := t.regs, clusters := t.clusters }

theorem AppendWork.trans (h : AppendWork c q s t) (h' : AppendWork c q t u) : AppendWork c q s u := by
  obtain ⟨hqueue, heq⟩ := h
  obtain ⟨hqueue', heq'⟩ := h'
  exact ⟨hqueue.trans hqueue', by rw [heq', heq]⟩

theorem appendWork_bumpBy (c q : Nat) (s : State) (a n : Nat) : AppendWork c q s (s.bumpBy a n) := by
  rw [bumpBy_eq]
  exact ⟨.of_clusters q rfl rfl, rfl⟩

theorem appendWork_modQueue (s : State) (c q : Nat) (f : Queue → Queue) : AppendWork c q s (modQueue s c q f) :=
  ⟨onlyQueue_modQueue s c q f, rfl⟩

theorem msgs_resolveSeq (x : Queue) (ch seq : Nat) : (resolveSeq x ch seq).msgs = x.msgs := by
  unfold resolveSeq
  split <;> rfl

/-- The messages of a queue once m has become an entry. -/
def withEntry (l : List Msg) (m : Msg) : List Msg := l.filter (fun n => n.seg != m.seg) ++ [{ m with stage := 2 }]

theorem appendMsg_facts (s : State) (c q : Nat) (m : Msg) :
    let t := appendMsg s c q m
    AppendWork c q s t ∧ (queueOf (t.cl c) q).msgs = withEntry (queueOf (s.cl c) q).msgs m := by
  unfold appendMsg
  dsimp only
  generalize hu : modQueue s c q _ = u
  have hwork : AppendWork c q s u := hu ▸ appendWork_modQueue ..
  have hmsgs : (queueOf (u.cl c) q).msgs = withEntry (queueOf (s.cl c) q).msgs m := by
    rw [← hu, queueOf_modQueue_self, msgs_resolveSeq]
    rfl
  have hcount : AppendWork c q s (u.bump (queMsgCntAt c)) := hwork.trans (appendWork_bumpBy ..)
  split
  · exact ⟨hcount.trans (appendWork_bumpBy ..), by rw [queueOf_bump, queueOf_bump, hmsgs]⟩
  · exact ⟨hcount, by rw [queueOf_bump, hmsgs]⟩

theorem mem_of_mem_withEntry {l : List Msg} {m n : Msg} (h : n ∈ withEntry l m) (hn : n.stage = 0) : n ∈ l := by
  rcases List.mem_append.1 h with h | h
  · exact List.mem_of_mem_filter h
  · rw [List.mem_singleton.1 h] at hn
    cases hn

/-- How many complete messages are not yet entries. -/
def heldCount (l : List Msg) : Nat := l.countP fun m => m.stage == 1

theorem heldCount_withEntry {l : List Msg} {m : Msg} (hm : m ∈ l) (hstage : m.stage = 1) : heldCount (withEntry l m) < heldCount l := by
  have hsplit := List.countP_eq_countP_filter_add l (fun n => n.stage == 1) (fun n => n.seg != m.seg)
  have hout : 0 < (l.filter fun n => !(n.seg != m.seg)).countP fun n => n.stage == 1 :=
    List.countP_pos_iff.2 ⟨m, List.mem_filter.2 ⟨hm, by simp⟩, by simp [hstage]⟩
  have hentry : heldCount [{ m with stage := 2 }] = 0 := rfl
  unfold withEntry heldCount at *
  rw [List.countP_append]
  omega

theorem foldl_earlierMsg_mem (m : Msg) (ms : List Msg) : ms.foldl earlierMsg m ∈ m :: ms := by
  refine foldl_inv (· ∈ m :: ms) earlierMsg ms m List.mem_cons_self fun a b hb ha => ?_
  unfold earlierMsg
  split
  · exact ha
  · exact List.mem_cons_of_mem _ hb

theorem stage_of_appendable {x : Queue} {frame : Nat} {m : Msg} (h : appendable x frame m = true) : m.stage = 1 := by
  simp only [appendable, Bool.and_eq_true, beq_iff_eq] at h
  obtain ⟨⟨hstage, -⟩, -⟩ := h
  exact hstage

/-- With no complete message left none may be appended. -/
theorem not_appendable_of_heldCount {x : Queue} (h : heldCount x.msgs = 0) (frame : Nat) :
    ∀ m ∈ x.msgs, appendable x frame m = false := fun m hm =>
  Bool.eq_false_iff.2 fun ha => List.countP_eq_zero.1 h m hm (beq_iff_eq.2 (stage_of_appendable ha))

/-- Each turn makes one complete message an entry, so as many turns as there are complete messages leave none that may be
appended; incomplete ones stay as they are. -/
theorem appendAll_facts (c q frame : Nat) : ∀ (n : Nat) (s : State), heldCount (queueOf (s.cl c) q).msgs ≤ n →
    let t := appendAll n s c q frame
    AppendWork c q s t ∧ (∀ m ∈ (queueOf (t.cl c) q).msgs, appendable (queueOf (t.cl c) q) frame m = false) ∧
    ∀ m ∈ (queueOf (t.cl c) q).msgs, m.stage = 0 → m ∈ (queueOf (s.cl c) q).msgs
  | 0, s, hn => ⟨⟨.refl c q s, rfl⟩, not_appendable_of_heldCount (Nat.le_zero.1 hn) frame, fun _ hm _ => hm⟩
  | n + 1, s, hn => by
    unfold appendAll
    dsimp only
    split
    · next hnone =>
      refine ⟨⟨.refl c q s, rfl⟩, fun m hm => ?_, fun _ hm _ => hm⟩
      exact Bool.eq_false_iff.2 (List.filter_eq_nil_iff.1 hnone m hm)
    · next m ms hsome =>
      have hfirst := foldl_earlierMsg_mem m ms
      rw [← hsome] at hfirst
      obtain ⟨hmem, happ⟩ := List.mem_filter.1 hfirst
      obtain ⟨hwork, hmsgs⟩ := appendMsg_facts s c q (ms.foldl earlierMsg m)
      have hless := heldCount_withEntry hmem (stage_of_appendable happ)
      rw [← hmsgs] at hless
      obtain ⟨hwork', hnone', hkept⟩ := appendAll_facts c q frame n (appendMsg s c q (ms.foldl earlierMsg m)) (by omega)
      refine ⟨hwork.trans hwork', hnone', fun k hk hstage => ?_⟩
      have := hkept k hk hstage
      rw [hmsgs] at this
      exact mem_of_mem_withEntry this hstage

/-- A message, marked when it is first held behind an earlier one of its channel. -/
def heldMark (x : Queue) (m : Msg) : Msg :=
  if m.stage == 1 && !m.orderHeld && orderBlocked x m then { m with orderHeld := true } else m

theorem countHeld_facts (s : State) (c q : Nat) :
    let t := countHeld s c q
    AppendWork c q s t ∧
    queueOf (t.cl c) q = { queueOf (s.cl c) q with msgs := (queueOf (s.cl c) q).msgs.map (heldMark (queueOf (s.cl c) q)) } := by
  refine ⟨(appendWork_modQueue ..).trans (appendWork_bumpBy ..), ?_⟩
  refine (queueOf_bumpBy ..).trans ?_
  rw [queueOf_modQueue_self]
  rfl

theorem appendable_heldMark (x : Queue) (l : List Msg) (frame : Nat) (m : Msg) :
    appendable { x with msgs := l } frame (heldMark x m) = appendable x frame m := by
  unfold heldMark
  split <;> rfl

theorem heldMark_of_incomplete {x : Queue} {m : Msg} (h : (heldMark x m).stage = 0) : heldMark x m = m := by
  unfold heldMark at h ⊢
  split
  · next hheld =>
    rw [if_pos hheld] at h
    simp [show m.stage = 0 from h] at hheld
  · rfl

/-- No message of a queue is left that may be appended; the incomplete ones are those that were there. -/
theorem flushQueue_facts (s : State) (c q frame : Nat) :
    let t := flushQueue s c q frame
    AppendWork c q s t ∧ (∀ m ∈ (queueOf (t.cl c) q).msgs, appendable (queueOf (t.cl c) q) frame m = false) ∧
    ∀ m ∈ (queueOf (t.cl c) q).msgs, m.stage = 0 → m ∈ (queueOf (s.cl c) q).msgs := by
  obtain ⟨hwork, hnone, hkept⟩ := appendAll_facts c q frame (queueOf (s.cl c) q).msgs.length s List.countP_le_length
  unfold flushQueue
  generalize appendAll _ s c q frame = u at hwork hnone hkept
  obtain ⟨hwork', hqueue⟩ := countHeld_facts u c q
  dsimp only
  rw [hqueue]
  refine ⟨hwork.trans hwork', fun m hm => ?_, fun m hm hstage => ?_⟩
  · obtain ⟨n, hn, rfl⟩ := List.mem_map.1 hm
    exact (appendable_heldMark ..).trans (hnone n hn)
  · obtain ⟨n, hn, rfl⟩ := List.mem_map.1 hm
    have hsame := heldMark_of_incomplete hstage
    rw [hsame] at hstage ⊢
    exact hkept n hn hstage

/-! ### Credit returns (R173) -/

/-- The credit return for a message of queue q of cluster c that cluster k has sent; its fields are the model's choice (log entry 40). -/
def creditFor (s : State) (c q k : Nat) (m : Msg) : Packet :=
  { typ := tCredit, cls := cSched, msgv := true, dque := q, seg := m.seg, gen := (s.cl c).gen
    sclu := (logicalOfClu s c).getD 0, spanel := panelNo s, dsite := cluSite k, dagt := cluAgent k }

/-- From s to t cluster c has returned credit p: it has passed to the mesh, or waits behind the others on the bucket. -/
def Returns (c : Nat) (p : Packet) (s t : State) : Prop :=
  if (s.cl c).credits.isEmpty && mayPass s (bucketOf c cSched) then Sends (cluSite c) (4 + c % 4 / 2) (fromClu c p) s t
  else (t.cl c).credits = (s.cl c).credits ++ [p]

/-- From s to t cluster c has dealt with credit returns: of that cluster only those that wait have changed. -/
def CreditWork (c : Nat) (s t : State) : Prop := Quiet c s t ∧ t.cl c = { s.cl c with credits := (t.cl c).credits }

theorem sendCredit_facts (s : State) (c : Nat) (p : Packet) :
    CreditWork c s (sendCredit s c p) ∧ Returns c p s (sendCredit s c p) := by
  unfold sendCredit Returns
  dsimp only
  split
  · exact ⟨⟨⟨fun _ _ => rfl, rfl⟩, rfl⟩, sends_inject (charge s _) ..⟩
  · obtain ⟨hother, heq⟩ := quiet_modCl s c fun x => { x with credits := x.credits ++ [p] }
    have hself : (s.modCl c fun x => { x with credits := x.credits ++ [p] }).cl c = _ := State.setCl_self ..
    generalize s.modCl c _ = w at hother heq hself
    obtain ⟨b, hb⟩ := startBucketWait_eq w c cSched
    rw [hb]
    refine ⟨⟨⟨hother, by rw [heq]⟩, ?_⟩, congrArg Cluster.credits hself⟩
    show w.cl c = { s.cl c with credits := (w.cl c).credits }
    rw [hself]

theorem creditReturn_local {m : Msg} {k : Nat} (hm : m.remote = false) (hk : cluOfLogical s m.sclu = some k) :
    creditReturn s c q m = sendCredit s c (creditFor s c q k m) := by
  unfold creditReturn
  dsimp only
  rw [if_neg (Bool.eq_false_iff.1 hm), hk]
  rfl

theorem creditWork_creditReturn (s : State) (c q : Nat) (m : Msg) : CreditWork c s (creditReturn s c q m) := by
  unfold creditReturn
  dsimp only
  split
  · exact (sendCredit_facts ..).1
  · split
    · exact (sendCredit_facts ..).1
    · exact ⟨⟨fun _ _ => rfl, rfl⟩, rfl⟩

theorem CreditWork.queueOf (h : CreditWork c s t) (k : Nat) : queueOf (t.cl c) k = queueOf (s.cl c) k := by
  obtain ⟨-, hself⟩ := h
  rw [hself]
  rfl

theorem CreditWork.onlyQueue (h : CreditWork c s t) (q : Nat) : OnlyQueue c q s t := by
  have hqueue := h.queueOf
  obtain ⟨⟨hcl, heq⟩, -⟩ := h
  exact ⟨hcl, by rw [heq], fun k _ => hqueue k⟩

/-! ### Dequeue (R173) -/

theorem freeMsg_facts (s : State) (c q : Nat) (m : Msg) :
    let t := freeMsg s c q m
    OnlyQueue c q s t ∧ t = { s with clusters := t.clusters, buckets := t.buckets, routers := t.routers } ∧
    (queueOf (t.cl c) q).msgs = (queueOf (s.cl c) q).msgs.filter (fun n => n.seg != m.seg) := by
  dsimp only [freeMsg]
  generalize hv : modQueue s c q _ = v
  have heq : v = { s with clusters := v.clusters } := hv ▸ rfl
  have hcredit := creditWork_creditReturn v c q m
  refine ⟨(hv ▸ onlyQueue_modQueue ..).trans (hcredit.onlyQueue q), ?_, ?_⟩
  · obtain ⟨⟨-, hrest⟩, -⟩ := hcredit
    rw [hrest, heq]
  · rw [hcredit.queueOf, ← hv, queueOf_modQueue_self]

theorem returns_freeMsg {m : Msg} {k : Nat} (hm : m.remote = false) (hk : cluOfLogical s m.sclu = some k) :
    Returns c (creditFor s c q k m) s (freeMsg s c q m) := by
  unfold freeMsg
  generalize hv : modQueue s c q _ = v
  have heq : v = { s with clusters := v.clusters } := hv ▸ rfl
  have hk' : cluOfLogical v m.sclu = some k := by rw [heq]; exact hk
  have hgen : (v.cl c).gen = (s.cl c).gen := by rw [← hv, cl_modQueue_self]
  have hcredits : (v.cl c).credits = (s.cl c).credits := by rw [← hv, cl_modQueue_self]
  have hpacket : creditFor v c q k m = creditFor s c q k m := by
    unfold creditFor
    rw [hgen, heq]
    rfl
  have hpass : mayPass v (bucketOf c cSched) = mayPass s (bucketOf c cSched) :=
    mayPass_congr (by rw [heq]) (by rw [heq]) _
  have hreturns := (sendCredit_facts v c (creditFor v c q k m)).2
  rw [creditReturn_local hm hk']
  generalize sendCredit v c (creditFor v c q k m) = t at hreturns
  unfold Returns Sends at hreturns ⊢
  rw [hcredits, hpass, hpacket, heq] at hreturns
  exact hreturns

theorem exec_msgDequeue {c : ClusterId} {q : Fin 64} {d : QueueDecl} {m : Msg} (hd : declOf s c q = some d)
    (hm : (queueOf (s.cl c) q).msgs.find? (fun m => m.stage == 3 && msgEmpty s c d m) = some m) :
    exec (.msgDequeue c q) s = .next (freeMsg s c q m) := by
  show execMsgDequeue c q s = _
  unfold execMsgDequeue
  rw [hd]
  dsimp only
  rw [hm]

/-! ### Discard of incomplete messages (R171) -/

/-- From s to t queue q of cluster c has discarded messages: besides, only registers, units, buckets and routers differ. -/
def DiscardWork (c q : Nat) (s t : State) : Prop :=
  OnlyQueue c q s t ∧ t = { s with
    regs := t.regs, clusters := t.clusters, units := t.units, buckets := t.buckets, routers := t.routers }

theorem DiscardWork.trans (h : DiscardWork c q s t) (h' : DiscardWork c q t u) : DiscardWork c q s u := by
  obtain ⟨hqueue, heq⟩ := h
  obtain ⟨hqueue', heq'⟩ := h'
  exact ⟨hqueue.trans hqueue', by rw [heq', heq]⟩

theorem AppendWork.discardWork (h : AppendWork c q s t) : DiscardWork c q s t := by
  obtain ⟨hqueue, heq⟩ := h
  exact ⟨hqueue, by rw [heq]⟩

theorem discardWork_freeMsg (s : State) (c q : Nat) (m : Msg) : DiscardWork c q s (freeMsg s c q m) := by
  obtain ⟨hqueue, heq, -⟩ := freeMsg_facts s c q m
  exact ⟨hqueue, by rw [heq]⟩

theorem discardMsg_facts (s : State) (c q : Nat) (d : QueueDecl) (m : Msg) :
    DiscardWork c q s (discardMsg s c q d m) ∧
    (queueOf ((discardMsg s c q d m).cl c) q).msgs = (queueOf (s.cl c) q).msgs.filter (fun n => n.seg != m.seg) := by
  unfold discardMsg
  dsimp only
  generalize hv : s.modUn (4 * c + d.unit) _ = v
  have hunit : DiscardWork c q s v := hv ▸ ⟨.of_clusters q rfl rfl, rfl⟩
  have hsame : queueOf (v.cl c) q = queueOf (s.cl c) q := by rw [← hv]; rfl
  generalize hw : modQueue v c q _ = w
  have hdiscard : DiscardWork c q v w := hw ▸ (appendWork_modQueue ..).discardWork
  have hmsgs : (queueOf (w.cl c) q).msgs = (queueOf (s.cl c) q).msgs := by
    rw [← hw, queueOf_modQueue_self, ← hsame]
    exact msgs_resolveSeq ..
  have hcount : DiscardWork c q s (w.bump (queIncompleteCntAt c)) :=
    (hunit.trans hdiscard).trans (appendWork_bumpBy ..).discardWork
  refine ⟨hcount.trans (discardWork_freeMsg ..), ?_⟩
  rw [(freeMsg_facts _ c q m).2.2, queueOf_bump, hmsgs]

/-- After messages have been discarded those that are left stood in the queue before, in no discarded one's segment. -/
theorem discardMsgs_facts (c q : Nat) (d : QueueDecl) : ∀ (l : List Msg) (s : State),
    let t := l.foldl (fun s m => discardMsg s c q d m) s
    DiscardWork c q s t ∧ ∀ n ∈ (queueOf (t.cl c) q).msgs, n ∈ (queueOf (s.cl c) q).msgs ∧ ∀ m ∈ l, n.seg ≠ m.seg
  | [], s => ⟨⟨.refl c q s, rfl⟩, fun _ hn => ⟨hn, fun _ hm => absurd hm List.not_mem_nil⟩⟩
  | m :: l, s => by
    obtain ⟨hwork, hmsgs⟩ := discardMsg_facts s c q d m
    obtain ⟨hworks, hleft⟩ := discardMsgs_facts c q d l (discardMsg s c q d m)
    refine ⟨hwork.trans hworks, fun n hn => ?_⟩
    obtain ⟨hmem, hsegs⟩ := hleft n hn
    rw [hmsgs] at hmem
    obtain ⟨hmem, hseg⟩ := List.mem_filter.1 hmem
    exact ⟨hmem, List.forall_mem_cons.2 ⟨bne_iff_ne.1 hseg, hsegs⟩⟩

theorem discardIncomplete_undeclared (hd : declOf s c q = none) (frame : Nat) : discardIncomplete s c q frame = s := by
  unfold discardIncomplete
  rw [hd]

theorem discardIncomplete_facts (s : State) (c q frame : Nat) :
    let t := discardIncomplete s c q frame
    DiscardWork c q s t ∧ (declOf s c q ≠ none → ∀ m ∈ (queueOf (t.cl c) q).msgs, ¬(m.stage = 0 ∧ 2 ≤ m.edges)) := by
  cases hd : declOf s c q with
  | none =>
    rw [discardIncomplete_undeclared hd]
    exact ⟨⟨.refl c q s, rfl⟩, fun h => absurd rfl h⟩
  | some d =>
    unfold discardIncomplete
    rw [hd]
    dsimp only
    split
    · next hnone =>
      refine ⟨⟨.refl c q s, rfl⟩, fun _ m hm => ?_⟩
      simpa using List.filter_eq_nil_iff.1 (List.isEmpty_iff.1 hnone) m hm
    · obtain ⟨hwork, hleft⟩ :=
        discardMsgs_facts c q d ((queueOf (s.cl c) q).msgs.filter fun m => m.stage == 0 && m.edges ≥ 2) s
      generalize List.foldl _ s _ = v at hwork hleft
      obtain ⟨hflush, -, hkept⟩ := flushQueue_facts v c q frame
      refine ⟨hwork.trans hflush.discardWork, fun _ m hm hlate => ?_⟩
      obtain ⟨hmem, hsegs⟩ := hleft m (hkept m hm hlate.1)
      exact hsegs m (List.mem_filter.2 ⟨hmem, by simpa using hlate⟩) rfl

/-! ### Landing (R168, R169) -/

/-- p, of type typ, is served at the head of region r's ejection buffer, and is for cluster c. -/
def QueInbox (s : State) (r : RegionId) (c : Nat) (typ : Nat) (p : Packet) : Prop :=
  ejected s (portOfRegion r).1 (portOfRegion r).2 (fun p => p.typ == typ) = some p ∧ agentClu p.dsite p.dagt = some c

/-- The state once a row has been dealt with: one from another panel is answered to its edge die (R332). -/
def rowAnswered (w : State) (c : Nat) (p : Packet) : State := if p.remote then answerRow w c p (!payloadOk p) sOk else w

theorem rowAnswered_eq (w : State) (c : Nat) (p : Packet) :
    rowAnswered w c p = { w with routers := (rowAnswered w c p).routers } := by
  unfold rowAnswered
  split <;> rfl

section
variable {r : RegionId} {p : Packet}

theorem exec_msg_absorbed (h : QueInbox s r c tMsg p) (ha : (s.cl c).absorbing = true) :
    exec (.msg r) s = .next ((cohTaken s r p).bump (seAbsorbCntAt c)) := by
  obtain ⟨hp, hc⟩ := h
  show execMsg r s = _
  refine (serve_eq _ _ hp).trans ?_
  rw [hc]
  exact congrArg _ (if_pos ha)

theorem exec_msg_lands (h : QueInbox s r c tMsg p) (ha : (s.cl c).absorbing = false) :
    exec (.msg r) s = .next (rowAnswered (landRow (cohTaken s r p) c p).2 c p) := by
  obtain ⟨hp, hc⟩ := h
  show execMsg r s = _
  refine (serve_eq _ _ hp).trans ?_
  rw [hc]
  exact congrArg _ (if_neg (Bool.eq_false_iff.1 ha))

/-- A counter advances when a packet is taken: nothing else changes but routers. -/
theorem taken_bump_facts (s : State) (r : RegionId) (p : Packet) (a : Nat) :
    let t := (cohTaken s r p).bump a
    t = { s with regs := t.regs, routers := t.routers } ∧ RegsBut [a] s t ∧ Counted a s t := by
  obtain ⟨heq, hcount, hregs⟩ := bump_counts (cohTaken s r p) a
  exact ⟨by rw [heq]; rfl, hregs, hcount⟩

/-- A row of which landing leaves but the count of dropped rows is dropped (R169). -/
theorem goes_msg_dropped (h : QueInbox s r c tMsg p) (ha : (s.cl c).absorbing = false)
    (hland : (landRow (cohTaken s r p) c p).2 = (cohTaken s r p).bump (queBadLandCntAt c)) :
    Goes (.msg r) s fun t => t = { s with regs := t.regs, routers := t.routers } ∧ RegsBut [queBadLandCntAt c] s t ∧
      Counted (queBadLandCntAt c) s t := by
  obtain ⟨heq, hregs, hcount⟩ := taken_bump_facts s r p (queBadLandCntAt c)
  refine ⟨_, exec_msg_lands h ha, ?_⟩
  rw [hland, rowAnswered_eq]
  exact ⟨by rw [heq], hregs, hcount⟩

theorem landRow_undeclared {v : State} (hd : declOf v c p.dque = none) : (landRow v c p).2 = v.bump (queBadLandCntAt c) := by
  unfold landRow
  rw [hd]

variable {v : State} {d : QueueDecl} {ch : Nat}

theorem landRow_noChannel (hd : declOf v c p.dque = some d) (hch : chanOf d p.remote p.spanel p.sclu = none) :
    (landRow v c p).2 = v.bump (queBadLandCntAt c) := by
  unfold landRow
  rw [hd]
  dsimp only
  rw [hch]

theorem landRow_bad (hd : declOf v c p.dque = some d) (hch : chanOf d p.remote p.spanel p.sclu = some ch)
    (hbad : badLanding v c d ch p = true) : (landRow v c p).2 = v.bump (queBadLandCntAt c) := by
  unfold landRow
  rw [hd]
  dsimp only
  rw [hch]
  dsimp only
  rw [if_pos hbad]

/-- A row that may land is written, and noted in its message when its unit took it. -/
theorem landRow_good {ok : Bool} {w : State} (hd : declOf v c p.dque = some d)
    (hch : chanOf d p.remote p.spanel p.sclu = some ch) (hgood : badLanding v c d ch p = false)
    (hw : outsideWrite v (4 * c + d.unit) (1024 * (segSlot d p.seg + p.mrow)) (if !payloadOk p then zeros 1024 else p.payload)
      true .message .fabric = (ok, w)) :
    (landRow v c p).2 = if ok then
      modQueue w c p.dque fun x => noteRow x ch p (if p.remote then p.spanel else panelNo v) (!payloadOk p) else w := by
  unfold landRow
  rw [hd]
  dsimp only
  rw [hch]
  dsimp only
  rw [if_neg (Bool.eq_false_iff.1 hgood), hw]
  cases ok <;> rfl

theorem outsideWrite_keeps {ok set : Bool} {w : State} {n off : Nat} {bs : Bytes} {who : Outside} {src : DropSrc}
    (hw : outsideWrite v n off bs set who src = (ok, w)) : w.clusters = v.clusters ∧ w.fab = v.fab := by
  unfold outsideWrite at hw
  split at hw
  · cases hw
    unfold recordDrop
    dsimp only
    rw [bump_eq]
    exact ⟨rfl, rfl⟩
  · cases hw
    have hwork := ((unitLocal_takePort v n true).trans (unitLocal_catchUp _ n (unitClk v n + 1))).trans
      (unitLocal_putOutside _ n off bs set)
    exact ⟨by rw [hwork.same], hwork.fab⟩

/-- A landing changes no other queue, and in its own the message of the row alone. -/
theorem landRow_good_facts {ok : Bool} {w : State} (hd : declOf v c p.dque = some d)
    (hch : chanOf d p.remote p.spanel p.sclu = some ch) (hgood : badLanding v c d ch p = false)
    (hw : outsideWrite v (4 * c + d.unit) (1024 * (segSlot d p.seg + p.mrow)) (if !payloadOk p then zeros 1024 else p.payload)
      true .message .fabric = (ok, w)) :
    let t := (landRow v c p).2
    OnlyQueue c p.dque v t ∧ SameMem w t ∧ t.regs = w.regs ∧ t.units = w.units ∧
    queueOf (t.cl c) p.dque =
      if ok = true then noteRow (queueOf (v.cl c) p.dque) ch p (if p.remote then p.spanel else panelNo v) (!payloadOk p)
      else queueOf (v.cl c) p.dque := by
  obtain ⟨hcl, hfab⟩ := outsideWrite_keeps hw
  have hwrite : OnlyQueue c p.dque v w := .of_clusters p.dque hcl hfab
  have hqueue : queueOf (w.cl c) p.dque = queueOf (v.cl c) p.dque := by rw [State.cl, State.cl, hcl]
  rw [landRow_good hd hch hgood hw]
  cases ok with
  | false => exact ⟨hwrite, fun _ => rfl, rfl, rfl, hqueue⟩
  | true =>
    rw [if_pos rfl, if_pos rfl]
    refine ⟨hwrite.trans (onlyQueue_modQueue ..), fun _ => rfl, rfl, rfl, ?_⟩
    rw [queueOf_modQueue_self, hqueue]

theorem goes_msg_landed {ok : Bool} {w : State} (h : QueInbox s r c tMsg p) (ha : (s.cl c).absorbing = false)
    (hd : declOf s c p.dque = some d) (hch : chanOf d p.remote p.spanel p.sclu = some ch)
    (hgood : badLanding s c d ch p = false)
    (hw : outsideWrite (cohTaken s r p) (4 * c + d.unit) (1024 * (segSlot d p.seg + p.mrow))
      (if !payloadOk p then zeros 1024 else p.payload) true .message .fabric = (ok, w)) :
    Goes (.msg r) s fun t => OnlyQueue c p.dque s t ∧ SameMem w t ∧ t.regs = w.regs ∧ t.units = w.units ∧
      queueOf (t.cl c) p.dque =
        if ok = true then noteRow (queueOf (s.cl c) p.dque) ch p (if p.remote then p.spanel else panelNo s) (!payloadOk p)
        else queueOf (s.cl c) p.dque := by
  obtain ⟨hqueue, hmem, hregs, hunits, hnoted⟩ := landRow_good_facts (v := cohTaken s r p) hd hch hgood hw
  refine ⟨_, exec_msg_lands h ha, ?_⟩
  rw [rowAnswered_eq]
  exact ⟨hqueue, hmem, hregs, hunits, hnoted⟩

/-! ### Credits that arrive (R173, R177) -/

theorem exec_credit_old (h : QueInbox s r c tCredit p) (hlocal : p.remote = false) (hgen : p.gen ≠ (s.cl c).gen) :
    exec (.credit r) s = .next (cohTaken s r p) := by
  obtain ⟨hp, hc⟩ := h
  show execCredit r s = _
  refine (serve_eq _ _ hp).trans ?_
  rw [hc]
  exact congrArg _ (if_pos (by rw [hlocal]; exact bne_iff_ne.2 hgen))

theorem exec_credit_present (h : QueInbox s r c tCredit p) (hgen : p.remote = true ∨ p.gen = (s.cl c).gen) :
    exec (.credit r) s = .next (returnSeg (cohTaken s r p) c p.remote p.spanel p.sclu p.dque p.seg) := by
  obtain ⟨hp, hc⟩ := h
  show execCredit r s = _
  refine (serve_eq _ _ hp).trans ?_
  rw [hc]
  refine congrArg _ (if_neg ?_)
  rw [Bool.and_eq_true, Bool.not_eq_true', bne_iff_ne]
  rintro ⟨hlocal, hold⟩
  exact hgen.elim (fun hremote => Bool.eq_false_iff.1 hlocal hremote) hold

end

/-- Outgoing entry i of cluster c, the first that leads to a queue. -/
def OutTo (s : State) (c : Nat) (remote : Bool) (panel dclu dque i : Nat) (o : OutDecl) : Prop :=
  ((List.range (outsOf s c).length).zip (outsOf s c)).find? (fun e =>
    e.2.remote == remote && (!remote || e.2.dpanel == panel) && e.2.dclu == dclu && e.2.dque == dque) = some (i, o)

/-- The free segments of entry i with one more, once. -/
def segReturned (x : Cluster) (i : Nat) (o : OutDecl) (seg : Nat) : List Nat :=
  if (freeSegs x o i).contains seg then freeSegs x o i else freeSegs x o i ++ [seg]

theorem outFree_returnSeg {remote : Bool} {panel dclu dque i : Nat} {o : OutDecl} (h : OutTo s c remote panel dclu dque i o)
    (seg : Nat) : ((returnSeg s c remote panel dclu dque seg).cl c).outFree =
      putAt (s.cl c).outFree i (segReturned (s.cl c) i o seg) := by
  unfold OutTo at h
  unfold returnSeg
  dsimp only
  rw [h]
  dsimp only
  generalize hv : (if awaitsCredit (s.cl c) remote panel dclu dque = true then endWait s c 3 else s) = v
  have hfree : (v.cl c).outFree = (s.cl c).outFree := by
    rw [← hv]
    split
    · obtain ⟨-, -, ⟨l, hself⟩, -⟩ := endWait_facts s c 3
      rw [hself]
    · rfl
  refine (congrArg Cluster.outFree (State.setCl_self ..)).trans ?_
  show putAt (v.cl c).outFree i (segReturned (v.cl c) i o seg) = _
  unfold segReturned freeSegs
  rw [hfree]

/-! ### The statement -/

/-- Settles O33: rows land or are dropped, complete messages become entries, incomplete ones are discarded, finished ones are
dequeued with their credits, and credits return segments. -/
theorem messageQueues : Obligations.MessageQueues := by
  intro s c
  refine ⟨fun r p h => ⟨fun ha => ?_, fun ha hd => goes_msg_dropped h ha (landRow_undeclared hd), fun d ha hd =>
      ⟨fun hch => goes_msg_dropped h ha (landRow_noChannel hd hch), fun ch hch =>
        ⟨fun hbad => goes_msg_dropped h ha (landRow_bad hd hch hbad), fun ok w hgood hw => goes_msg_landed h ha hd hch hgood hw⟩⟩⟩,
    fun q => ?_, fun q => ?_, fun q d m hd hm => ?_, fun r p h => ⟨fun hlocal hgen => ?_, fun hgen => ?_⟩⟩
  · obtain ⟨heq, hregs, hcount⟩ := taken_bump_facts s r p (seAbsorbCntAt c)
    exact ⟨_, exec_msg_absorbed h ha, heq, hcount, hregs⟩
  · obtain ⟨⟨hqueue, heq⟩, hnone, -⟩ := flushQueue_facts s c q (partFrame s c)
    exact ⟨_, rfl, hqueue, heq, hnone⟩
  · obtain ⟨⟨hqueue, heq⟩, hnone⟩ := discardIncomplete_facts s c q (partFrame s c)
    exact ⟨_, rfl, hqueue, fun _ => by rw [heq], heq, fun hd => discardIncomplete_undeclared hd _, hnone⟩
  · obtain ⟨hqueue, heq, hmsgs⟩ := freeMsg_facts s c q m
    exact ⟨_, exec_msgDequeue hd hm, hqueue, heq, hmsgs, fun k hlocal hk => returns_freeMsg hlocal hk⟩
  · exact ⟨_, exec_credit_old h hlocal hgen, rfl⟩
  · obtain ⟨heq, hcl, -⟩ := returnSeg_facts (cohTaken s r p) c p.remote p.spanel p.sclu p.dque p.seg
    exact ⟨_, exec_credit_present h hgen, hcl, by rw [heq]; rfl, fun i o ho => outFree_returnSeg (s := cohTaken s r p) ho p.seg⟩

end Sys2Proof.Machine
end

section
/-! Reads and writes at a memory router (O34): what arrives is answered, merged or queued, and what returns from the DRAM is
verified and answered. -/

namespace Sys2Proof.Machine

variable {s t u : State} {n : StackId} {p : Packet}

/-! ### Work at one router -/

/-- At most the records of stack n, routers and registers change. -/
def RouterWork (n : Nat) (s t : State) : Prop :=
  t = { s with regs := t.regs, routers := t.routers, mrs := t.mrs } ∧ OnlyMr n s t

theorem RouterWork.trans {n : Nat} (h : RouterWork n s u) (h' : RouterWork n u t) : RouterWork n s t := by
  obtain ⟨heq, hmr⟩ := h
  obtain ⟨heq', hmr'⟩ := h'
  exact ⟨by rw [heq', heq], fun k hk => (hmr' k hk).trans (hmr k hk)⟩

theorem RegWork.mr {l : List Nat} (h : RegWork l s t) (k : Nat) : t.mr k = s.mr k := by
  rw [h.1]
  rfl

theorem RegWork.routerWork {l : List Nat} (h : RegWork l s t) (n : Nat) : RouterWork n s t :=
  ⟨h.1.trans (by rw [h.1]), fun k _ => h.mr k⟩

theorem routerWork_setMr (s : State) (n : Nat) (x : Stack) : RouterWork n s (s.setMr n x) :=
  ⟨rfl, fun _ hk => (State.setMr_mr ..).trans (if_neg hk)⟩

theorem routerWork_injectMr (s : State) (n agt : Nat) (q : Packet) : RouterWork n s (injectMr s n agt q) := ⟨rfl, fun _ _ => rfl⟩

theorem routerWork_bump (s : State) (n a : Nat) : RouterWork n s (s.bump a) := ⟨rfl, fun _ _ => rfl⟩

/-! ### What decides how a router serves an address -/

theorem serveAt_congr (hparts : t.parts = s.parts) (hstate : ∀ k, (t.mr k).state = (s.mr k).state) (n a : Nat) :
    serveAt t n a = serveAt s n a := by
  have hpart : partOf t (stackQuarter n) = partOf s (stackQuarter n) := by
    unfold partOf
    rw [hparts]
  have hgone : ∀ k, stackGone t k = stackGone s k := fun k => by
    unfold stackGone
    rw [hstate]
  unfold serveAt
  simp only [hpart, hgone]

theorem serveAt_modMr (s : State) (n a : Nat) {f : Stack → Stack} (hf : ∀ x, (f x).state = x.state) :
    serveAt (s.modMr n f) n a = serveAt s n a :=
  serveAt_congr (s := s) (t := s.modMr n f) rfl (fun k => by
    refine (congrArg Stack.state (State.setMr_mr s n k (f (s.mr n)))).trans ?_
    split
    · next h => rw [hf, h]
    · rfl) n a

theorem regWork_noteSolo {l : List Nat} (s : State) {n : Nat} (h : Serve) (hl : mrMirrorSoloCntAt n ∈ l) :
    RegWork l s (noteSolo s n h) := by
  unfold noteSolo
  split
  · exact regWork_bump s hl
  · exact RegWork.refl _ s

/-! ### A request arrives -/

/-- The state once the memory controller of stack n has taken p from its buffer and counted the request. -/
def arrived (s : State) (n : StackId) (p : Packet) : State := noteRequest (homeTaken s n p) n

theorem mr_arrived (s : State) (n : StackId) (p : Packet) : (arrived s n p).mr n = { s.mr n with requests := (s.mr n).requests + 1 } :=
  State.setMr_self ..

theorem routerWork_arrived (s : State) (n : StackId) (p : Packet) : RouterWork n s (arrived s n p) :=
  ⟨rfl, fun _ hk => (State.setMr_mr ..).trans (if_neg hk)⟩

theorem serveAt_arrived (s : State) (n : StackId) (p : Packet) (a : Nat) : serveAt (arrived s n p) n a = serveAt s n a :=
  (serveAt_modMr (homeTaken s n p) n a (f := fun x => { x with requests := x.requests + 1 }) fun _ => rfl).trans
    (serveAt_congr rfl (fun _ => rfl) n a)

theorem exec_rd_router (h : HomeInbox s n p fun q => q.typ == tRd) :
    exec (.rd (.router n)) s = .next (readArrives (homeTaken s n p) n p) :=
  serve_eq (at_ := portOfStack n) _ (fun q s => readArrives s n q) h

theorem exec_wr_router (h : HomeInbox s n p fun q => q.typ == tWr) :
    exec (.wr (.router n)) s = .next (writeArrives (homeTaken s n p) n p) :=
  serve_eq (at_ := portOfStack n) _ (fun q s => writeArrives s n q) h

/-- An answer sent at once from the state in which the request has arrived. -/
theorem answered_arrived (s : State) (n : StackId) (p q : Packet) :
    let t := injectMr (arrived s n p) n 0 q
    RouterWork n s t ∧ t.regs = s.regs ∧ t.mr n = { s.mr n with requests := (s.mr n).requests + 1 } ∧
    Sends (stackSite n) 4 { q with ssite := stackSite n, sagt := 0 } s t :=
  ⟨(routerWork_arrived s n p).trans (routerWork_injectMr ..), rfl, mr_arrived s n p,
    Sends.of_homeTaken (p := p) (sends_injectMr (arrived s n p) n 0 q)⟩

theorem readArrives_unassigned (h : serveAt s n p.addr = none) :
    readArrives (homeTaken s n p) n p = injectMr (arrived s n p) n 0 (poisonReply p sUnassigned) := by
  rw [← serveAt_arrived s n p] at h
  unfold readArrives
  dsimp only
  rw [show noteRequest (homeTaken s n p) n = arrived s n p from rfl, h]

theorem writeArrives_unassigned (h : serveAt s n p.addr = none) :
    writeArrives (homeTaken s n p) n p = injectMr (arrived s n p) n 0 (replyTo p tWrAck sUnassigned) := by
  rw [← serveAt_arrived s n p] at h
  unfold writeArrives
  dsimp only
  rw [show noteRequest (homeTaken s n p) n = arrived s n p from rfl, h]

theorem readArrives_served {h : Serve} (hh : serveAt s n p.addr = some h) :
    readArrives (homeTaken s n p) n p = mergeRead (noteSolo (arrived s n p) n h) n (h.so / 1024) p := by
  rw [← serveAt_arrived s n p] at hh
  unfold readArrives
  dsimp only
  rw [show noteRequest (homeTaken s n p) n = arrived s n p from rfl, hh]

/-! ### Merging (R194) -/

/-- Is m the open entry of a block? -/
def openAt (b : Nat) (m : Merge) : Bool := m.block == b && m.open_

/-- The entry that a read of block b opens at a router. -/
def newMerge (x : Stack) (b : Nat) (p : Packet) : Merge :=
  { block := b, open_ := !decide (256 ≤ tabled x), tabled := !decide (256 ≤ tabled x), reqs := [p], seq := x.tick }

theorem openMerge_facts (s : State) (n b : Nat) (p : Packet) :
    let x := s.mr n
    let t := openMerge s n b p
    RouterWork n s t ∧ t.mr n = { x with merges := x.merges ++ [newMerge x b p], tick := x.tick + 1 } ∧
    (256 ≤ tabled x → Counted (mrMergeFullCntAt n) s t) ∧ ∀ a, a ≠ mrMergeFullCntAt n → t.ctr a = s.ctr a := by
  unfold openMerge
  dsimp only
  by_cases hfull : 256 ≤ tabled (s.mr n)
  · rw [if_pos hfull]
    exact ⟨(routerWork_setMr ..).trans (routerWork_bump ..), State.setMr_self .., fun _ => ctr_bump_self _ _, fun a ha => ctr_bump_ne _ ha⟩
  · rw [if_neg hfull]
    exact ⟨routerWork_setMr .., State.setMr_self .., fun h => absurd h hfull, fun _ _ => rfl⟩

theorem mergeRead_joins {n b : Nat} {m : Merge} (hm : (s.mr n).merges.find? (openAt b) = some m) (hroom : m.reqs.length < 32) :
    mergeRead s n b p = (s.setMr n { s.mr n with
      merges := mapFirst (openAt b) (fun m => { m with reqs := m.reqs ++ [p] }) (s.mr n).merges }).bump (mrMergeHitCntAt n) := by
  unfold mergeRead
  dsimp only
  rw [show (s.mr n).merges.find? (fun m => m.block == b && m.open_) = some m from hm]
  exact if_pos hroom

/-- The state once the open entry of block b, which holds as many requesters as it may, has been closed and this counted. -/
def limitReached (s : State) (n b : Nat) : State :=
  (s.setMr n { s.mr n with merges := mapFirst (openAt b) (fun m => { m with open_ := false }) (s.mr n).merges }).bump
    (mrMergeLimitCntAt n)

theorem mergeRead_limit {n b : Nat} {m : Merge} (hm : (s.mr n).merges.find? (openAt b) = some m) (hfull : 32 ≤ m.reqs.length) :
    mergeRead s n b p = openMerge (limitReached s n b) n b p := by
  unfold mergeRead
  dsimp only
  rw [show (s.mr n).merges.find? (fun m => m.block == b && m.open_) = some m from hm]
  exact if_neg (by omega)

theorem mergeRead_opens {n b : Nat} (hm : (s.mr n).merges.find? (openAt b) = none) : mergeRead s n b p = openMerge s n b p := by
  unfold mergeRead
  dsimp only
  rw [show (s.mr n).merges.find? (fun m => m.block == b && m.open_) = none from hm]

theorem countP_mapFirst {α : Type} (p q : α → Bool) (f : α → α) (hf : ∀ x, q (f x) = q x) (l : List α) :
    (mapFirst p f l).countP q = l.countP q := by
  induction l with
  | nil => rfl
  | cons a l ih =>
    unfold mapFirst
    split
    · rw [List.countP_cons, List.countP_cons, hf]
    · rw [List.countP_cons, List.countP_cons, ih]

theorem mr_served (s : State) (n : StackId) (p : Packet) (h : Serve) :
    (noteSolo (arrived s n p) n h).mr n = { s.mr n with requests := (s.mr n).requests + 1 } :=
  ((regWork_noteSolo _ h List.mem_cons_self (l := [mrMirrorSoloCntAt n])).mr n).trans (mr_arrived s n p)

theorem routerWork_served (s : State) (n : StackId) (p : Packet) (h : Serve) : RouterWork n s (noteSolo (arrived s n p) n h) :=
  (routerWork_arrived s n p).trans ((regWork_noteSolo _ h List.mem_cons_self (l := [mrMirrorSoloCntAt n])).routerWork n)

theorem ctr_served (s : State) (n : StackId) (p : Packet) (h : Serve) {a : Nat} (ha : a ≠ mrMirrorSoloCntAt n) :
    (noteSolo (arrived s n p) n h).ctr a = s.ctr a :=
  ((regWork_noteSolo (arrived s n p) h List.mem_cons_self).2 a (by rwa [List.mem_singleton])).2

theorem find?_served (b : Nat) (s : State) (n : StackId) (p : Packet) (h : Serve) :
    ((noteSolo (arrived s n p) n h).mr n).merges.find? (openAt b) = (s.mr n).merges.find? (openAt b) := by
  rw [mr_served]

section
variable {h : Serve} (hh : serveAt s n p.addr = some h)

include hh

theorem goes_rd_joins {m : Merge} (hp : HomeInbox s n p fun q => q.typ == tRd)
    (hm : (s.mr n).merges.find? (openAt (h.so / 1024)) = some m) (hroom : m.reqs.length < 32) :
    Goes (.rd (.router n)) s fun t => RouterWork n s t ∧ Counted (mrMergeHitCntAt n) s t ∧ t.mr n = { s.mr n with
      requests := (s.mr n).requests + 1
      merges := mapFirst (openAt (h.so / 1024)) (fun m => { m with reqs := m.reqs ++ [p] }) (s.mr n).merges } := by
  rw [← find?_served _ s n p h] at hm
  refine ⟨_, (exec_rd_router hp).trans (congrArg _ ((readArrives_served hh).trans (mergeRead_joins hm hroom))),
    (routerWork_served s n p h).trans ((routerWork_setMr ..).trans (routerWork_bump ..)), ?_, ?_⟩
  · refine (ctr_bump_self ..).trans ?_
    rw [← ctr_served s n p h (a := mrMergeHitCntAt n) (by unfold mrMergeHitCntAt mrMirrorSoloCntAt; omega)]
    rfl
  · refine (State.setMr_self ..).trans ?_
    rw [mr_served]

theorem goes_rd_limit {m : Merge} (hp : HomeInbox s n p fun q => q.typ == tRd)
    (hm : (s.mr n).merges.find? (openAt (h.so / 1024)) = some m) (hfull : 32 ≤ m.reqs.length) :
    Goes (.rd (.router n)) s fun t => RouterWork n s t ∧ Counted (mrMergeLimitCntAt n) s t ∧
      (t.mr n).merges = mapFirst (openAt (h.so / 1024)) (fun m => { m with open_ := false }) (s.mr n).merges ++
        [newMerge (s.mr n) (h.so / 1024) p] := by
  rw [← find?_served _ s n p h] at hm
  have hmr : (limitReached (noteSolo (arrived s n p) n h) n (h.so / 1024)).mr n = { s.mr n with
      requests := (s.mr n).requests + 1
      merges := mapFirst (openAt (h.so / 1024)) (fun m => { m with open_ := false }) (s.mr n).merges } := by
    refine (State.setMr_self ..).trans ?_
    rw [mr_served]
  have htabled : tabled ((limitReached (noteSolo (arrived s n p) n h) n (h.so / 1024)).mr n) = tabled (s.mr n) := by
    rw [hmr]
    exact countP_mapFirst _ _ (fun m : Merge => { m with open_ := false }) (fun _ => rfl) _
  obtain ⟨hwork, hself, -, hctr⟩ := openMerge_facts (limitReached (noteSolo (arrived s n p) n h) n (h.so / 1024)) n (h.so / 1024) p
  refine ⟨_, (exec_rd_router hp).trans (congrArg _ ((readArrives_served hh).trans (mergeRead_limit hm hfull))),
    (routerWork_served s n p h).trans (((routerWork_setMr ..).trans (routerWork_bump ..)).trans hwork), ?_, ?_⟩
  · refine (hctr _ (by unfold mrMergeLimitCntAt mrMergeFullCntAt; omega)).trans ((ctr_bump_self ..).trans ?_)
    rw [← ctr_served s n p h (a := mrMergeLimitCntAt n) (by unfold mrMergeLimitCntAt mrMirrorSoloCntAt; omega)]
    rfl
  · rw [hself]
    unfold newMerge
    rw [htabled, hmr]

theorem goes_rd_opens (hp : HomeInbox s n p fun q => q.typ == tRd)
    (hm : (s.mr n).merges.find? (openAt (h.so / 1024)) = none) :
    Goes (.rd (.router n)) s fun t => RouterWork n s t ∧ (256 ≤ tabled (s.mr n) → Counted (mrMergeFullCntAt n) s t) ∧
      t.mr n = { s.mr n with requests := (s.mr n).requests + 1, tick := (s.mr n).tick + 1
                             merges := (s.mr n).merges ++ [newMerge (s.mr n) (h.so / 1024) p] } := by
  rw [← find?_served _ s n p h] at hm
  obtain ⟨hwork, hself, hcount, -⟩ := openMerge_facts (noteSolo (arrived s n p) n h) n (h.so / 1024) p
  rw [mr_served] at hself hcount
  refine ⟨_, (exec_rd_router hp).trans (congrArg _ ((readArrives_served hh).trans (mergeRead_opens hm))),
    (routerWork_served s n p h).trans hwork, fun hfull => (hcount hfull).trans ?_, hself⟩
  rw [ctr_served s n p h (by unfold mrMergeFullCntAt mrMirrorSoloCntAt; omega)]

end

/-! ### Writes that arrive (R192, R194, R203) -/

/-- The counts of a served write: one served by one copy alone, and a bad check at every router that verifies it. -/
def writeCounted (u : State) (n : Nat) (h : Serve) (bad : Bool) : State :=
  let w := if bad then (noteSolo u n h).bump (mrWrCheckBadCntAt n) else noteSolo u n h
  match h.copy with
  | some (m, _) => if bad then w.bump (mrWrCheckBadCntAt m) else w
  | none => w

/-- The registers of those counts. -/
def writeCounts (n : Nat) (h : Serve) : List Nat :=
  mrMirrorSoloCntAt n :: mrWrCheckBadCntAt n :: h.copy.toList.map fun c => mrWrCheckBadCntAt c.1

theorem regWork_writeCounted (u : State) (n : Nat) (h : Serve) (bad : Bool) :
    RegWork (writeCounts n h) u (writeCounted u n h bad) := by
  have hsolo := regWork_noteSolo (l := writeCounts n h) u h List.mem_cons_self
  have hmine : RegWork (writeCounts n h) u (if bad then (noteSolo u n h).bump (mrWrCheckBadCntAt n) else noteSolo u n h) := by
    split
    · exact hsolo.trans (regWork_bump _ (List.mem_cons_of_mem _ List.mem_cons_self))
    · exact hsolo
  unfold writeCounted
  dsimp only
  generalize (if bad then (noteSolo u n h).bump (mrWrCheckBadCntAt n) else noteSolo u n h) = w at hmine
  split
  · next m b hcopy =>
    split
    · exact hmine.trans (regWork_bump _ (by simp [writeCounts, hcopy]))
    · exact hmine
  · exact hmine

theorem counted_writeCounted (u : State) {n : Nat} {h : Serve} (hcopy : h.copy = none) :
    Counted (mrWrCheckBadCntAt n) u (writeCounted u n h true) := by
  obtain ⟨-, hctr⟩ := (regWork_noteSolo (l := [mrMirrorSoloCntAt n]) u h List.mem_cons_self).2 (mrWrCheckBadCntAt n)
    (by unfold mrWrCheckBadCntAt mrMirrorSoloCntAt; simp)
  unfold writeCounted
  rw [hcopy]
  refine (ctr_bump_self ..).trans ?_
  rw [hctr]

/-- The record of a router at which write p of block b waits. -/
def writeQueued (x : Stack) (h : Serve) (p : Packet) : Stack :=
  { x with
    merges := x.merges.map fun m => if m.block = h.so / 1024 then { m with open_ := false } else m
    writes := x.writes ++ [{ block := h.so / 1024, pkt := p, seq := x.tick, copy := h.copy.map fun c => (c.1, c.2 / 1024) }]
    tick := x.tick + 1 }

theorem writeArrives_served {h : Serve} (hh : serveAt s n p.addr = some h) :
    writeArrives (homeTaken s n p) n p =
      let w := writeCounted (arrived s n p) n h (!p.poison && crc64 p.payload != p.check)
      w.setMr n (writeQueued (w.mr n) h p) := by
  rw [← serveAt_arrived s n p] at hh
  unfold writeArrives
  dsimp only
  rw [show noteRequest (homeTaken s n p) n = arrived s n p from rfl, hh]
  rfl

theorem goes_wr_served {h : Serve} (hp : HomeInbox s n p fun q => q.typ == tWr) (hh : serveAt s n p.addr = some h) :
    Goes (.wr (.router n)) s fun t => RouterWork n s t ∧ t.routers = (homeTaken s n p).routers ∧
      (p.poison = false → crc64 p.payload ≠ p.check → h.copy = none → Counted (mrWrCheckBadCntAt n) s t) ∧
      t.mr n = { writeQueued (s.mr n) h p with requests := (s.mr n).requests + 1 } := by
  have hwork := regWork_writeCounted (arrived s n p) n h (!p.poison && crc64 p.payload != p.check)
  refine ⟨_, (exec_wr_router hp).trans (congrArg _ (writeArrives_served hh)),
    (routerWork_arrived s n p).trans ((hwork.routerWork n).trans (routerWork_setMr ..)), ?_, fun hpoison hcheck hcopy => ?_, ?_⟩
  · have hrouters := congrArg State.routers hwork.1
    exact hrouters
  · have hbad : (!p.poison && crc64 p.payload != p.check) = true := by simp [hpoison, hcheck]
    rw [hbad]
    exact counted_writeCounted (arrived s n p) hcopy
  · refine (State.setMr_self ..).trans ?_
    rw [hwork.mr, mr_arrived]
    rfl

/-! ### Answers to the requesters of an entry (R195) -/

/-- The reply of an entry whose read has come back with data and check, or has not passed. -/
def readReply (out : Option (Bytes × Nat)) (q : Packet) : Packet :=
  match out with
  | some (data, check) => { replyTo q tRdData sOk with hdrOnly := false, payload := data, check := check }
  | none => poisonReply q sOk

theorem replyAll_eq (s : State) (n : Nat) (out : Option (Bytes × Nat)) (reqs : List Packet) :
    replyAll s n out reqs = reqs.foldl (fun s q => injectMr s n 0 (readReply out q)) s := by
  cases out <;> rfl

/-- Packets sent one after another from a memory controller: routers alone differ, and they wait behind the others. -/
theorem foldl_injectMr (n : Nat) (f : Packet → Packet) (l : List Packet) (s : State) :
    let t := l.foldl (fun s q => injectMr s n 0 (f q)) s
    t = { s with routers := t.routers } ∧
    (t.rtr (stackSite n)).inject = (s.rtr (stackSite n)).inject ++ l.map fun q => (4, { f q with ssite := stackSite n, sagt := 0 }) := by
  induction l generalizing s with
  | nil => exact ⟨rfl, (List.append_nil _).symm⟩
  | cons q l ih =>
    obtain ⟨heq, hsent⟩ := ih (injectMr s n 0 (f q))
    refine ⟨heq.trans (by rw [heq]; rfl), hsent.trans ?_⟩
    rw [show ((injectMr s n 0 (f q)).rtr (stackSite n)).inject = _ from sends_injectMr s n 0 (f q), List.append_assoc]
    rfl

/-! ### The read of an entry returns (R193 to R195, R203) -/

/-- Registers, memory and what stacks hold besides their entries change, and nothing else. -/
def ReadWork (s t : State) : Prop :=
  t = { s with regs := t.regs, mem := t.mem, mrs := t.mrs } ∧ ∀ k, (t.mr k).merges = (s.mr k).merges

theorem ReadWork.trans {u t : State} (h : ReadWork s u) (h' : ReadWork u t) : ReadWork s t := by
  obtain ⟨heq, hmr⟩ := h
  obtain ⟨heq', hmr'⟩ := h'
  exact ⟨by rw [heq', heq], fun k => (hmr' k).trans (hmr k)⟩

theorem BlockWork.readWork {n : Nat} (h : BlockWork n s t) : ReadWork s t := by
  obtain ⟨heq, hmr, l, r, hself⟩ := h
  refine ⟨heq, fun k => ?_⟩
  by_cases hk : k = n
  · rw [hk, hself]
  · rw [hmr k hk]

theorem readWork_of_regs (h : t = { s with regs := t.regs, mem := t.mem }) : ReadWork s t :=
  (blockWork_of_regs (n := 0) h).readWork

theorem readWork_readBlock (s : State) (n : Nat) (v : Serve) (e1 e2 c1 c2 : Ecc) : ReadWork s (readBlock s n v e1 e2 c1 c2).2 := by
  have hlost (t : State) (m cause b : Nat) : ReadWork t (logBlock (t.bump (mrCheckUncorrCntAt m)) m cause b) :=
    readWork_of_regs rfl
  have hfirst := (blockWork_readTwice s n (v.so / 1024) e1 e2).readWork
  unfold readBlock
  dsimp only
  generalize readTwice s n (v.so / 1024) e1 e2 = r at hfirst
  split
  · exact hfirst
  · split
    · exact hfirst.trans (hlost ..)
    · next m so2 _ =>
      have hcopy := hfirst.trans (blockWork_readTwice r.2 m (so2 / 1024) c1 c2).readWork
      generalize readTwice r.2 m (so2 / 1024) c1 c2 = r2 at hcopy
      split
      · exact hcopy.trans (readWork_of_regs rfl)
      · exact hcopy.trans (hlost ..)

theorem readBlock_sound {n : Nat} {v : Serve} (e2 c1 c2 : Ecc) (hok : blockOk s n (v.so / 1024) = true) :
    readBlock s n v .clean e2 c1 c2 = (some (blockBytes s n (v.so / 1024), storedCheck s n (v.so / 1024)), s) := by
  have hread : readTwice s n (v.so / 1024) .clean e2 = (true, s) := by
    have honce : readOnce s n (v.so / 1024) .clean = (true, s) := by
      unfold readOnce
      rw [hok]
      rfl
    unfold readTwice
    rw [honce]
    rfl
  unfold readBlock
  dsimp only
  rw [hread]
  rfl

/-- The state once entry m has left the table of router n. -/
def mergeTaken (s : State) (n : Nat) (m : Merge) : State := s.modMr n fun x => { x with merges := x.merges.erase m }

/-- What answers the requesters of a taken entry: the state in which they are answered, and the answers. -/
theorem finishRead_eq (s : State) (n : Nat) (m : Merge) (e1 e2 c1 c2 : Ecc) :
    ∃ (f : Packet → Packet) (w : State), ReadWork (mergeTaken s n m) w ∧ finishRead s n m e1 e2 c1 c2 = m.reqs.foldl (fun s q => injectMr s n 0 (f q)) w := by
  unfold finishRead
  dsimp only
  rw [show (s.modMr n fun x => { x with merges := x.merges.erase m }) = mergeTaken s n m from rfl]
  split
  · next hreqs =>
    rw [hreqs]
    exact ⟨id, _, readWork_of_regs rfl, rfl⟩
  · next p ps hreqs =>
    split
    · exact ⟨fun q => poisonReply q sUnassigned, _, readWork_of_regs rfl, rfl⟩
    · rw [replyAll_eq]
      exact ⟨_, _, readWork_readBlock .., rfl⟩

theorem finishRead_facts (s : State) (n : Nat) (m : Merge) (e1 e2 c1 c2 : Ecc) :
    let t := finishRead s n m e1 e2 c1 c2
    t = { s with regs := t.regs, mem := t.mem, routers := t.routers, mrs := t.mrs } ∧
    (t.mr n).merges = (s.mr n).merges.erase m ∧
    (t.rtr (stackSite n)).inject.length = (s.rtr (stackSite n)).inject.length + m.reqs.length := by
  obtain ⟨f, w, ⟨heq, hmerges⟩, ht⟩ := finishRead_eq s n m e1 e2 c1 c2
  obtain ⟨hsent, hinject⟩ := foldl_injectMr n f m.reqs w
  rw [ht]
  dsimp only at hsent hinject ⊢
  generalize m.reqs.foldl (fun s q => injectMr s n 0 (f q)) w = t at hsent hinject
  refine ⟨?_, ?_, ?_⟩
  · rw [hsent, heq]
    rfl
  · rw [show (t.mr n).merges = (w.mr n).merges by rw [hsent]; rfl, hmerges n]
    exact congrArg Stack.merges (State.setMr_self ..)
  · rw [hinject, List.length_append, List.length_map, heq]
    rfl

/-- A sound block is given to every requester of its entry as it stands. -/
theorem finishRead_sound {m : Merge} {ps : List Packet} {h : Serve} {n : Nat} (e2 c1 c2 : Ecc) (hreqs : m.reqs = p :: ps)
    (hh : serveAt s n p.addr = some h) (hok : blockOk s n m.block = true) :
    finishRead s n m .clean e2 c1 c2 = m.reqs.foldl (fun t q => injectMr t n 0
      (readReply (some (blockBytes s n m.block, storedCheck s n m.block)) q)) (mergeTaken s n m) := by
  have hso : 1024 * m.block / 1024 = m.block := Nat.mul_div_cancel_left _ (by decide)
  have hserve : serveAt (mergeTaken s n m) n p.addr = some h := (serveAt_modMr s n p.addr (f := fun x => { x with merges := x.merges.erase m }) fun _ => rfl).trans hh
  unfold finishRead
  dsimp only
  rw [show (s.modMr n fun x => { x with merges := x.merges.erase m }) = mergeTaken s n m from rfl, hreqs]
  dsimp only
  rw [hserve]
  dsimp only
  rw [readBlock_sound e2 c1 c2 (by dsimp only; rw [hso]; exact hok), replyAll_eq]
  dsimp only
  rw [hso]
  rfl

section
variable {b : Nat} {e1 e2 c1 c2 : Ecc}

theorem exec_readDone_none (h : (s.mr n).merges.find? (fun m => m.block == b) = none) :
    exec (.mrDramReadDone n b e1 e2 c1 c2) s =
      .next (s.setMr n { s.mr n with ecc := putAt (s.mr n).ecc b (e1, e2, c1, c2) }) := by
  show execMrDramReadDone n b e1 e2 c1 c2 s = _
  unfold execMrDramReadDone
  dsimp only
  rw [h]

theorem exec_readDone {m : Merge} (h : (s.mr n).merges.find? (fun m => m.block == b) = some m)
    (horder : ((s.mr n).writes.any fun w => w.block == b && w.seq < m.seq) = false)
    (hfree : sliceFree (s.mr n) b (slicePlace (((m.reqs.head?).map (·.cls)).getD cBulk)) = true) :
    exec (.mrDramReadDone n b e1 e2 c1 c2) s = .next (finishRead s n m e1 e2 c1 c2) := by
  show execMrDramReadDone n b e1 e2 c1 c2 s = _
  unfold execMrDramReadDone
  dsimp only
  rw [h]
  dsimp only
  rw [horder, hfree]
  rfl

end

/-! ### A write reaches the DRAM (R189, R192, R203) -/

theorem mem_storeRow_congr (h : t.mem = s.mem) (n b : Nat) (p : Packet) : (storeRow t n b p).mem = (storeRow s n b p).mem := by
  unfold storeRow storeBlock State.write
  split
  · rw [h]
  · rw [h]

theorem storeRow_eq (s : State) (n b : Nat) (p : Packet) : storeRow s n b p = { s with mem := (storeRow s n b p).mem } := by
  unfold storeRow
  split <;> rfl

theorem memByte_storeBlock {n b k check : Nat} {data : Bytes}
    (hrow : k < stackAt n (1024 * b) ∨ stackAt n (1024 * b) + data.length ≤ k)
    (hcheck : k < stackAt n (checkOff b) ∨ stackAt n (checkOff b) + 8 ≤ k) :
    memByte (storeBlock s n b data check).mem k = memByte s.mem k :=
  (memByte_memWrite_outside _ _ _ k (by rwa [leBytes_length])).trans (memByte_memWrite_outside _ _ _ k hrow)

/-- A row leaves every byte but its block's and its check's. -/
theorem memByte_storeRow {n b k : Nat}
    (hrow : k < stackAt n (1024 * b) ∨ stackAt n (1024 * b) + (if p.poison then 1024 else p.payload.length) ≤ k)
    (hcheck : k < stackAt n (checkOff b) ∨ stackAt n (checkOff b) + 8 ≤ k) :
    memByte (storeRow s n b p).mem k = memByte s.mem k := by
  unfold storeRow
  cases hpoison : p.poison with
  | true =>
    rw [hpoison] at hrow
    exact memByte_storeBlock (by rwa [zeros, List.length_replicate]) hcheck
  | false =>
    rw [hpoison] at hrow
    exact memByte_storeBlock hrow hcheck

/-- Write w and its mirror copy as stored. -/
def rowStored (s : State) (n : Nat) (w : WriteJob) : State :=
  match w.copy with
  | some (m, b) => storeRow (storeRow s n w.block w.pkt) m b w.pkt
  | none => storeRow s n w.block w.pkt

theorem rowStored_eq (s : State) (n : Nat) (w : WriteJob) : rowStored s n w = { s with mem := (rowStored s n w).mem } := by
  unfold rowStored
  split
  · next m b _ =>
    rw [storeRow_eq (storeRow s n w.block w.pkt) m b, storeRow_eq s n w.block]
  · exact storeRow_eq ..

theorem mem_rowStored_congr (h : t.mem = s.mem) (n : Nat) (w : WriteJob) : (rowStored t n w).mem = (rowStored s n w).mem := by
  have hfirst := mem_storeRow_congr h n w.block w.pkt
  unfold rowStored
  split
  · exact mem_storeRow_congr hfirst ..
  · exact hfirst

/-- The state once write w has left the writes that wait at router n. -/
def writeTaken (s : State) (n : Nat) (w : WriteJob) : State := s.modMr n fun x => { x with writes := x.writes.erase w }

theorem finishWrite_eq (s : State) (n : Nat) (w : WriteJob) :
    finishWrite s n w = injectMr (rowStored (writeTaken s n w) n w) n 0 (replyTo w.pkt tWrAck sOk) := by
  unfold finishWrite rowStored
  cases w.copy <;> rfl

theorem finishWrite_facts (s : State) (n : Nat) (w : WriteJob) :
    let t := finishWrite s n w
    t = { s with mem := t.mem, routers := t.routers, mrs := t.mrs } ∧ OnlyMr n s t ∧
    t.mr n = { s.mr n with writes := (s.mr n).writes.erase w } ∧
    Sends (stackSite n) 4 { replyTo w.pkt tWrAck sOk with ssite := stackSite n, sagt := 0 } s t ∧
    t.mem = (rowStored s n w).mem := by
  have hstored := rowStored_eq (writeTaken s n w) n w
  have hmem : (rowStored (writeTaken s n w) n w).mem = (rowStored s n w).mem := mem_rowStored_congr (s := s) (t := writeTaken s n w) rfl n w
  rw [finishWrite_eq]
  generalize rowStored (writeTaken s n w) n w = v at hstored hmem
  have hsent := sends_injectMr v n 0 (replyTo w.pkt tWrAck sOk)
  refine ⟨?_, fun k hk => ?_, ?_, ?_, hmem⟩
  · rw [hstored]
    rfl
  · rw [hstored]
    exact (State.setMr_mr ..).trans (if_neg hk)
  · rw [hstored]
    exact State.setMr_self ..
  · rw [hstored] at hsent ⊢
    exact hsent

theorem exec_writeDone {b : Nat} {w : WriteJob} (h : (s.mr n).writes.find? (fun w => w.block == b) = some w)
    (horder : ((s.mr n).merges.any fun m => m.block == b && m.seq < w.seq) = false)
    (hfree : sliceFree (s.mr n) b (slicePlace w.pkt.cls) = true) : exec (.mrWriteDone n b) s = .next (finishWrite s n w) := by
  show execMrWriteDone n b s = _
  unfold execMrWriteDone
  dsimp only
  rw [h]
  dsimp only
  rw [horder, hfree]
  rfl

/-! ### The statement -/

/-- Settles O34: a request is answered at once, joins or opens an entry, or waits as a write; what comes back from the DRAM answers
every requester, and a write that reaches it is stored and acknowledged. -/
theorem memoryRouterAccesses : Obligations.MemoryRouterAccesses := by
  intro s n
  refine ⟨fun p hp => ⟨fun hnone => ?_, fun h hh => ⟨fun m hm hroom => goes_rd_joins hh hp hm hroom,
      fun m hm hfull => goes_rd_limit hh hp hm hfull, fun hm => ?_⟩⟩,
    fun beta e1 e2 c1 c2 => ⟨fun hnone => ?_, fun m hm horder hfree => ?_⟩,
    fun p hp => ⟨fun hnone => ?_, fun h hh => goes_wr_served hp hh⟩, fun beta w hw horder hfree => ?_⟩
  · obtain ⟨hwork, hregs, hmr, hsent⟩ := answered_arrived s n p (poisonReply p sUnassigned)
    exact ⟨_, (exec_rd_router hp).trans (congrArg _ (readArrives_unassigned hnone)), hwork, hregs, hmr, hsent⟩
  · obtain ⟨t, hexec, hwork, hcount, hmr⟩ := goes_rd_opens hh hp hm
    exact ⟨t, hexec, hwork, fun hfull => hcount (of_decide_eq_true hfull), hmr⟩
  · exact ⟨_, exec_readDone_none hnone, rfl, fun k hk => (State.setMr_mr ..).trans (if_neg hk), State.setMr_self ..⟩
  · have hblock : m.block = beta := by simpa using List.find?_some hm
    obtain ⟨heq, hmerges, hlength⟩ := finishRead_facts s n m e1 e2 c1 c2
    refine ⟨_, exec_readDone hm horder hfree, heq, hmerges, hlength, fun p ps h hreqs hh hclean hok => ?_⟩
    subst hclean hblock
    rw [finishRead_sound e2 c1 c2 hreqs hh hok]
    obtain ⟨hsent, hinject⟩ := foldl_injectMr n (readReply (some (blockBytes s n m.block, storedCheck s n m.block))) m.reqs
      (mergeTaken s n m)
    refine ⟨fun a => ?_, fun a _ => ?_, hinject⟩
    · rw [hsent]
      rfl
    · rw [hsent]
      rfl
  · obtain ⟨hwork, hregs, hmr, hsent⟩ := answered_arrived s n p (replyTo p tWrAck sUnassigned)
    exact ⟨_, (exec_wr_router hp).trans (congrArg _ (writeArrives_unassigned hnone)), hwork, hregs, hmr, hsent⟩
  · have hblock : w.block = beta := by simpa using List.find?_some hw
    subst hblock
    obtain ⟨heq, honly, hmr, hsent, hmem⟩ := finishWrite_facts s n w
    refine ⟨_, exec_writeDone hw horder hfree, heq, honly, hmr, hsent, hmem.trans ?_, fun hcopy k hrow hcheck => ?_⟩
    · unfold rowStored
      cases w.copy <;> rfl
    · rw [hmem]
      unfold rowStored
      rw [hcopy]
      exact memByte_storeRow hrow hcheck

end Sys2Proof.Machine
end

section
/-! Fields of registers: what a field reads as after it, or another field of the same register, has been given a value. -/

namespace Sys2Proof.Machine

/-- The bits above a replaced field stay. -/
theorem putBits_div (v hi lo x : Nat) (h : lo ≤ hi) : putBits v hi lo x / 2 ^ (hi + 1) = v / 2 ^ (hi + 1) := by
  have hpow : 2 ^ (hi + 1) = 2 ^ lo * 2 ^ (hi + 1 - lo) := by rw [← Nat.pow_add]; congr 1; omega
  have hfield : ∀ w, bits w hi lo = w % 2 ^ (hi + 1) / 2 ^ lo := fun w => by
    unfold bits
    rw [hpow, Nat.mod_mul_right_div_self]
  have hx : x % 2 ^ (hi + 1 - lo) * 2 ^ lo + 2 ^ lo ≤ 2 ^ (hi + 1) := by
    rw [hpow, Nat.mul_comm (2 ^ lo), ← Nat.succ_mul]
    exact Nat.mul_le_mul_right _ (Nat.mod_lt _ (Nat.two_pow_pos _))
  unfold putBits
  rw [hfield]
  generalize x % 2 ^ (hi + 1 - lo) * 2 ^ lo = y at hx
  have hlow := Nat.mod_lt (v % 2 ^ (hi + 1)) (Nat.two_pow_pos lo)
  have hsplit := Nat.div_add_mod' (v % 2 ^ (hi + 1)) (2 ^ lo)
  have hv := Nat.div_add_mod' v (2 ^ (hi + 1))
  generalize v % 2 ^ (hi + 1) % 2 ^ lo = r at hlow hsplit
  generalize v % 2 ^ (hi + 1) / 2 ^ lo * 2 ^ lo = z at hsplit ⊢
  refine Nat.div_eq_of_lt_le ?_ ?_
  · omega
  · rw [Nat.succ_mul]
    omega

/-- The bits below a replaced field stay. -/
theorem putBits_mod (v hi lo x : Nat) : putBits v hi lo x % 2 ^ lo = v % 2 ^ lo := by
  have hle : bits v hi lo * 2 ^ lo ≤ v :=
    (Nat.mul_le_mul_right _ (Nat.mod_le ..)).trans (Nat.div_mul_le_self ..)
  unfold putBits
  rw [Nat.add_mul_mod_self_right, Nat.mul_comm, Nat.sub_mul_mod]
  rwa [Nat.mul_comm]

/-- Another field of a register that lies above or below a replaced one stays. -/
theorem bits_putBits_apart {v hi lo x hi' lo' : Nat} (h : lo ≤ hi) (h' : lo' ≤ hi') (hapart : hi' < lo ∨ hi < lo') :
    bits (putBits v hi lo x) hi' lo' = bits v hi' lo' := by
  unfold bits
  rcases hapart with hbelow | habove
  · have hpow : 2 ^ lo' * 2 ^ (hi' + 1 - lo') ∣ 2 ^ lo := by
      rw [← Nat.pow_add]
      exact Nat.pow_dvd_pow 2 (by omega)
    rw [← Nat.mod_mul_right_div_self, ← Nat.mod_mul_right_div_self, ← Nat.mod_mod_of_dvd _ hpow, putBits_mod,
      Nat.mod_mod_of_dvd _ hpow]
  · have hpow : 2 ^ lo' = 2 ^ (hi + 1) * 2 ^ (lo' - (hi + 1)) := by
      rw [← Nat.pow_add]
      congr 1
      omega
    rw [hpow, ← Nat.div_div_eq_div_mul, ← Nat.div_div_eq_div_mul, putBits_div v hi lo x h]

variable {s t : State} {a : Nat}

theorem reg_modMr (s : State) (n : Nat) (f : Stack → Stack) (a : Nat) : (s.modMr n f).reg a = s.reg a := rfl

theorem reg_modDie (s : State) (d : Nat) (f : Die → Die) (a : Nat) : (s.modDie d f).reg a = s.reg a := rfl

theorem mr_bump (s : State) (a k : Nat) : (s.bump a).mr k = s.mr k := rfl

theorem die_bump (s : State) (a k : Nat) : (s.bump a).die k = s.die k := rfl

theorem die_setField (s : State) (a hi lo v k : Nat) : (s.setField a hi lo v).die k = s.die k := rfl

theorem ctr_modMr (s : State) (n : Nat) (f : Stack → Stack) (a : Nat) : (s.modMr n f).ctr a = s.ctr a := rfl

theorem ctr_modDie (s : State) (d : Nat) (f : Die → Die) (a : Nat) : (s.modDie d f).ctr a = s.ctr a := rfl

theorem reg_setField_ne (s : State) {a b : Nat} (hi lo v : Nat) (h : b ≠ a) : (s.setField a hi lo v).reg b = s.reg b :=
  (State.setReg_reg ..).trans (if_neg h)

theorem regWork_setField {l : List Nat} (s : State) {a : Nat} (hi lo v : Nat) (ha : a ∈ l) : RegWork l s (s.setField a hi lo v) :=
  regWork_setReg s _ ha

/-- A field that has been given a value reads as its low bits. -/
theorem bits_setField_self (s : State) (a v : Nat) {hi lo : Nat} (h : lo ≤ hi) :
    bits ((s.setField a hi lo v).reg a) hi lo = v % 2 ^ (hi + 1 - lo) := by
  unfold State.setField
  rw [State.setReg_self, bits_putBits_self _ _ _ _ h]

/-- Another field of the register reads as before. -/
theorem bits_setField_apart (s : State) (a v : Nat) {hi lo hi' lo' : Nat} (h : lo ≤ hi) (h' : lo' ≤ hi')
    (hapart : hi' < lo ∨ hi < lo') : bits ((s.setField a hi lo v).reg a) hi' lo' = bits (s.reg a) hi' lo' := by
  unfold State.setField
  rw [State.setReg_self, bits_putBits_apart h h' hapart]

theorem b2n_decide (p : Prop) [Decidable p] : b2n (decide p) = if p then 1 else 0 := by
  unfold b2n
  by_cases h : p
  · simp [h]
  · simp [h]

theorem RegWork.ctr {l : List Nat} (h : RegWork l s t) (ha : a ∉ l) : t.ctr a = s.ctr a := (h.2 a ha).2

theorem RegWork.die {l : List Nat} (h : RegWork l s t) (k : Nat) : t.die k = s.die k := by
  rw [h.1]
  rfl

theorem RegWork.rgn {l : List Nat} (h : RegWork l s t) (k : Nat) : t.rgn k = s.rgn k := by
  rw [h.1]
  rfl

theorem RegWork.regsBut {l : List Nat} (h : RegWork l s t) : RegsBut l s t := fun a ha => (h.2 a ha).1

theorem RegWork.mono {l l' : List Nat} (h : RegWork l s t) (hl : l ⊆ l') : RegWork l' s t :=
  ⟨h.1, fun a ha => h.2 a fun hin => ha (hl hin)⟩

end Sys2Proof.Machine
end

section
/-! Temperatures and trips of stacks and compute dies (R204, R445, R446). -/

namespace Sys2Proof.Machine

variable {s t : State}

/-! ### A reading is noted -/

/-- The register at a has taken reading c: CUR is c, and MAX is the highest. -/
def TempNoted (a c : Nat) (s t : State) : Prop := bits (t.reg a) 7 0 = c ∧ bits (t.reg a) 23 16 = max (bits (s.reg a) 23 16) c

theorem tempNoted_noteTemp (s : State) (a : Nat) (c : Fin 256) : TempNoted a c s (noteTemp s a c) := by
  have hmax : bits (s.reg a) 23 16 < 256 := Nat.mod_lt _ (by decide)
  unfold noteTemp
  refine ⟨?_, ?_⟩
  · rw [bits_setField_apart _ _ _ (by decide) (by decide) (by decide), bits_setField_self _ _ _ (by decide)]
    exact Nat.mod_eq_of_lt c.isLt
  · rw [bits_setField_self _ _ _ (by decide)]
    exact Nat.mod_eq_of_lt (max_lt hmax c.isLt)

theorem regWork_noteTemp {l : List Nat} (s : State) {a : Nat} (c : Nat) (ha : a ∈ l) : RegWork l s (noteTemp s a c) :=
  (regWork_setField s _ _ _ ha).trans (regWork_setField _ _ _ _ ha)

theorem TempNoted.flag {a c : Nat} (h : TempNoted a c s t) (v : Nat) : TempNoted a c s (t.setField a 24 24 v) := by
  obtain ⟨hcur, hmax⟩ := h
  exact ⟨(bits_setField_apart _ _ _ (by decide) (by decide) (by decide)).trans hcur,
    (bits_setField_apart _ _ _ (by decide) (by decide) (by decide)).trans hmax⟩

theorem TempNoted.congr {u : State} {a c : Nat} (h : TempNoted a c s t) (hreg : u.reg a = t.reg a) : TempNoted a c s u := by
  unfold TempNoted
  rwa [hreg]

/-! ### Stacks -/

/-- The state once the reading of a stack, and whether its refresh doubles, have been noted. -/
def stackNoted (s : State) (n c : Nat) : State := (noteTemp s (mrTempAt n) c).setField (mrTempAt n) 24 24 (b2n (decide (85 < c)))

theorem stackNoted_facts (s : State) (n : Nat) (c : Fin 256) :
    RegWork [mrTempAt n] s (stackNoted s n c) ∧ TempNoted (mrTempAt n) c s (stackNoted s n c) ∧
    bits ((stackNoted s n c).reg (mrTempAt n)) 24 24 = if 85 < c.val then 1 else 0 := by
  refine ⟨(regWork_noteTemp s _ List.mem_cons_self).trans (regWork_setField _ _ _ _ List.mem_cons_self),
    (tempNoted_noteTemp s _ c).flag _, ?_⟩
  unfold stackNoted
  rw [bits_setField_self _ _ _ (by decide), b2n_decide]
  split <;> rfl

theorem exec_mrTempSample (n : StackId) (c : Fin 256) (hgood : bit s.power.good 1 = true) :
    exec (.mrTempSample n c) s = .next (if 100 ≤ c.val ∧ (s.mr n).tripped = false then
      ((stackNoted s n c).modMr n fun x => { x with tripped := true }).bump (mrThmTripCntAt n)
      else if c.val < 90 then (stackNoted s n c).modMr n fun x => { x with tripped := false } else stackNoted s n c) := by
  show execMrTempSample n c s = _
  unfold execMrTempSample
  rw [if_pos hgood]
  dsimp only
  rw [show (noteTemp s (mrTempAt n) c).setField (mrTempAt n) 24 24 (b2n (decide (85 < c.val))) = stackNoted s n c from rfl,
    (stackNoted_facts s n c).1.mr]
  split
  · rfl
  · split <;> rfl

theorem goes_mrTempSample (n : StackId) (c : Fin 256) (hgood : bit s.power.good 1 = true) : Goes (.mrTempSample n c) s fun t =>
    t = { s with regs := t.regs, mrs := t.mrs } ∧ OnlyMr n s t ∧ RegsBut [mrTempAt n, mrThmTripCntAt n] s t ∧
    TempNoted (mrTempAt n) c s t ∧ bits (t.reg (mrTempAt n)) 24 24 = (if 85 < c.val then 1 else 0) ∧
    t.mr n = { s.mr n with tripped := decide (100 ≤ c.val) || (decide (90 ≤ c.val) && (s.mr n).tripped) } ∧
    (100 ≤ c.val → (s.mr n).tripped = false → Counted (mrThmTripCntAt n) s t) := by
  have htrip : mrThmTripCntAt n ≠ mrTempAt n := by unfold mrThmTripCntAt mrTempAt; omega
  obtain ⟨hwork, hnoted, hflag⟩ := stackNoted_facts s n c
  have hregs : RegsBut [mrTempAt n, mrThmTripCntAt n] s (stackNoted s n c) := (hwork.mono (by simp)).regsBut
  have hmr : ∀ k, (stackNoted s n c).mr k = s.mr k := hwork.mr
  have hctr : (stackNoted s n c).ctr (mrThmTripCntAt n) = s.ctr (mrThmTripCntAt n) := hwork.ctr (by simpa using htrip)
  refine ⟨_, exec_mrTempSample n c hgood, ?_⟩
  generalize stackNoted s n c = w at *
  obtain ⟨heq, -⟩ := hwork
  by_cases hhot : 100 ≤ c.val ∧ (s.mr n).tripped = false
  · rw [if_pos hhot]
    have hkept : ((w.modMr n fun x => { x with tripped := true }).bump (mrThmTripCntAt n)).reg (mrTempAt n) = w.reg (mrTempAt n) :=
      (reg_bump_ne _ htrip.symm).trans (reg_modMr ..)
    refine ⟨?_, fun k hk => ?_, fun a ha => ?_, hnoted.congr hkept, by rw [hkept, hflag], ?_, fun _ _ => ?_⟩
    · rw [heq]
      rfl
    · exact ((mr_bump ..).trans ((State.setMr_mr ..).trans (if_neg hk))).trans (hmr k)
    · have ha' : a ≠ mrThmTripCntAt n := fun h => ha (by simp [h])
      exact ((reg_bump_ne _ ha').trans (reg_modMr ..)).trans (hregs a ha)
    · refine (mr_bump ..).trans ((State.setMr_self ..).trans ?_)
      rw [hmr, decide_eq_true hhot.1]
      rfl
    · refine (ctr_bump_self ..).trans ?_
      rw [ctr_modMr, hctr]
  · rw [if_neg hhot]
    by_cases hcold : c.val < 90
    · rw [if_pos hcold]
      refine ⟨?_, fun k hk => ?_, fun a ha => (reg_modMr ..).trans (hregs a ha), hnoted.congr (reg_modMr ..), by rw [reg_modMr, hflag],
        ?_, fun h _ => by omega⟩
      · rw [heq]
        rfl
      · exact ((State.setMr_mr ..).trans (if_neg hk)).trans (hmr k)
      · refine (State.setMr_self ..).trans ?_
        rw [hmr, decide_eq_false (show ¬100 ≤ c.val by omega), decide_eq_false (show ¬90 ≤ c.val by omega)]
        rfl
    · rw [if_neg hcold]
      refine ⟨by rw [heq], fun k _ => hmr k, hregs, hnoted, hflag, ?_, fun h h' => absurd ⟨h, h'⟩ hhot⟩
      rw [hmr, decide_eq_true (show 90 ≤ c.val by omega)]
      cases htripped : (s.mr n).tripped with
      | true => rw [Bool.and_true, Bool.or_true, ← htripped]
      | false => rw [decide_eq_false fun h => hhot ⟨h, htripped⟩, Bool.and_false, Bool.or_false, ← htripped]

/-! ### Regions take the frequency that their state asks for -/

/-- What decides a region's frequency, its die and the alert apart, is the same. -/
def SameAsk (x y : Region) : Prop := x.hdr = y.hdr ∧ x.stalled = y.stalled ∧ x.droop = y.droop ∧ x.point = y.point

theorem rgnTarget_congr {r : Nat} (hrgn : SameAsk (t.rgn r) (s.rgn r)) (hdie : (t.die (r / 2)).tripped = (s.die (r / 2)).tripped)
    (hfda : t.power.fda = s.power.fda) : rgnTarget t r = rgnTarget s r := by
  obtain ⟨hhdr, hstalled, hdroop, hpoint⟩ := hrgn
  unfold rgnTarget
  dsimp only
  rw [hhdr, hstalled, hdroop, hpoint, hdie, hfda]

theorem rgn_setRgn (s : State) (r k : Nat) (x : Region) : (s.setRgn r x).rgn k = if k = r then x else s.rgn k := State.setRgn_rgn ..

/-- A region whose record keeps what decides frequencies leaves every frequency asked for as it was. -/
theorem rgnTarget_setRgn {r k : Nat} {x : Region} (h : SameAsk x (s.rgn r)) : rgnTarget (s.setRgn r x) k = rgnTarget s k := by
  refine rgnTarget_congr ?_ rfl rfl
  rw [rgn_setRgn]
  split
  · next hk => rwa [hk]
  · exact ⟨rfl, rfl, rfl, rfl⟩

theorem rgnTarget_retime (s : State) (r k : Nat) : rgnTarget (retime s r) k = rgnTarget s k := by
  unfold retime
  exact rgnTarget_setRgn ⟨rfl, rfl, rfl, rfl⟩

theorem rgnTarget_retimeAt (s : State) (r f k : Nat) : rgnTarget (retimeAt s r f) k = rgnTarget s k := by
  unfold retimeAt
  exact rgnTarget_setRgn ⟨rfl, rfl, rfl, rfl⟩

theorem rgn_retime_ne (s : State) {r k : Nat} (h : k ≠ r) : (retime s r).rgn k = s.rgn k := (rgn_setRgn ..).trans (if_neg h)

/-- A region runs at the frequency that its state asks for, and no other is to follow. -/
def Timed (s : State) (r : Nat) : Prop := (s.rgn r).mhz = rgnTarget s r ∧ (s.rgn r).later = none

theorem timed_retime (s : State) (r : Nat) : Timed (retime s r) r := by
  unfold Timed
  rw [rgnTarget_retime, show (retime s r).rgn r = _ from State.setRgn_self ..]
  exact ⟨rfl, rfl⟩

theorem Timed.retime {r : Nat} (h : Timed s r) (k : Nat) : Timed (retime s k) r := by
  by_cases hr : r = k
  · rw [hr]
    exact timed_retime s k
  · unfold Timed
    rw [rgnTarget_retime, rgn_retime_ne s hr]
    exact h

/-- The regions of die d take the frequency that their state asks for. -/
def retimeDie (s : State) (d : Nat) : State := retime (retime s (2 * d)) (2 * d + 1)

theorem die_retimeDie (s : State) (d k : Nat) : (retimeDie s d).die k = s.die k := rfl

theorem ctr_retimeDie (s : State) (d a : Nat) : (retimeDie s d).ctr a = s.ctr a := rfl

theorem reg_retimeDie (s : State) (d a : Nat) : (retimeDie s d).reg a = s.reg a := rfl

theorem retimeDie_facts (s : State) (d : Nat) :
    let t := retimeDie s d
    t = { s with regions := t.regions } ∧ (∀ r, r / 2 ≠ d → t.rgn r = s.rgn r) ∧ ∀ i < 2, Timed t (2 * d + i) := by
  refine ⟨rfl, fun r hr => ?_, fun i hi => ?_⟩
  · exact (rgn_retime_ne _ (by omega)).trans (rgn_retime_ne _ (by omega))
  · interval_cases i
    · exact (timed_retime s _).retime _
    · exact timed_retime _ _

/-! ### Compute dies -/

/-- Is there a tick of the partition of die d, whose next edge would end a trip (R446)? -/
def dieTick (s : State) (d : Nat) : Option Partition := (partOf s (dieQuarter d)).filter (·.tick)

/-- A reading of die d that leaves or changes its trip: what changes besides. -/
structure DieSampled (d : DieId) (c : Fin 256) (s t : State) : Prop where
  same : t = { s with regs := t.regs, regions := t.regions, dies := t.dies }
  regs : RegsBut [thmDieTempAt d, thmTripCntAt d] s t
  noted : TempNoted (thmDieTempAt d) c s t
  dies : ∀ k, k ≠ d.val → t.die k = s.die k
  rgns : ∀ r, r / 2 ≠ d.val → t.rgn r = s.rgn r

theorem dieSampled_noteTemp (s : State) (d : DieId) (c : Fin 256) : DieSampled d c s (noteTemp s (thmDieTempAt d) c) :=
  have hwork := regWork_noteTemp (l := [thmDieTempAt d, thmTripCntAt d]) s c List.mem_cons_self
  ⟨hwork.1.trans (by rw [hwork.1]), hwork.regsBut, tempNoted_noteTemp s _ c, fun k _ => hwork.die k, fun r _ => hwork.rgn r⟩

theorem DieSampled.retimeDie {d : DieId} {c : Fin 256} (h : DieSampled d c s t) : DieSampled d c s (retimeDie t d) := by
  obtain ⟨heq, hrgn, -⟩ := retimeDie_facts t d
  have hsame := h.same
  refine ⟨?_, h.regs, h.noted.congr (reg_retimeDie ..), h.dies, fun r hr => (hrgn r hr).trans (h.rgns r hr)⟩
  generalize Machine.retimeDie t d = u at heq
  rw [heq, hsame]

theorem DieSampled.trip {d : DieId} {c : Fin 256} (h : DieSampled d c s t) (b : Bool) (v : Nat) :
    DieSampled d c s ((t.modDie d fun x => { x with tripped := b }).setField (thmDieTempAt d) 24 24 v) := by
  refine ⟨by rw [h.same]; rfl, fun a ha => ?_, (h.noted.congr (reg_modDie ..)).flag v, fun k hk => ?_, h.rgns⟩
  · exact ((reg_setField_ne _ _ _ _ fun heq => ha (by simp [heq])).trans (reg_modDie ..)).trans (h.regs a ha)
  · exact ((State.setDie_die ..).trans (if_neg hk)).trans (h.dies k hk)

theorem DieSampled.bump {d : DieId} {c : Fin 256} (h : DieSampled d c s t) : DieSampled d c s (t.bump (thmTripCntAt d)) := by
  have hsame := h.same
  have hbump := bump_eq t (thmTripCntAt d)
  refine ⟨?_, fun a ha => ?_, h.noted.congr (reg_bump_ne _ ?_), h.dies, h.rgns⟩
  · generalize t.bump (thmTripCntAt d) = u at hbump
    rw [hbump, hsame]
  · exact (reg_bump_ne _ fun heq => ha (by simp [heq])).trans (h.regs a ha)
  · unfold thmDieTempAt thmTripCntAt
    omega

theorem exec_dieTempSample (d : DieId) (c : Fin 256) (hgood : bit s.power.good 0 = true) :
    let w := noteTemp s (thmDieTempAt d) c
    exec (.dieTempSample d c) s = .next (
      if 110 ≤ c.val ∧ (s.die d).tripped = false then
        retimeDie (((w.modDie d fun x => { x with tripped := true }).setField (thmDieTempAt d) 24 24 1).bump (thmTripCntAt d)) d
      else if c.val < 100 ∧ (s.die d).tripped = true ∧ (dieTick s d).isNone = true then
        retimeDie ((w.modDie d fun x => { x with tripped := false }).setField (thmDieTempAt d) 24 24 0) d
      else w) := by
  show execDieTempSample d c s = _
  unfold execDieTempSample
  rw [if_pos hgood]
  dsimp only
  have hsample := dieSampled_noteTemp s d c
  have htick : (partOf (noteTemp s (thmDieTempAt d) c) (dieQuarter d)).filter (·.tick) = dieTick s d := by rw [hsample.same]; rfl
  rw [show (noteTemp s (thmDieTempAt d) c).die d = s.die d by rw [hsample.same]; rfl]
  rw [htick]
  split
  · rfl
  · split <;> rfl

theorem goes_dieTempSample (d : DieId) (c : Fin 256) (hgood : bit s.power.good 0 = true) : Goes (.dieTempSample d c) s fun t =>
    DieSampled d c s t ∧
    (110 ≤ c.val → t.die d = { s.die d with tripped := true } ∧ ((s.die d).tripped = false → Counted (thmTripCntAt d) s t ∧
      ∀ i < 2, (t.rgn (2 * d + i)).mhz = rgnTarget t (2 * d + i))) ∧
    (100 ≤ c.val → c.val < 110 → t.die d = s.die d ∧ t.regions = s.regions) ∧
    (c.val < 100 → t.die d = { s.die d with tripped := (s.die d).tripped && (dieTick s d).isSome } ∧
      ((s.die d).tripped = true → dieTick s d = none → ∀ i < 2, (t.rgn (2 * d + i)).mhz = rgnTarget t (2 * d + i))) := by
  have hsample := dieSampled_noteTemp s d c
  refine ⟨_, exec_dieTempSample d c hgood, ?_⟩
  dsimp only
  by_cases hhot : 110 ≤ c.val ∧ (s.die d).tripped = false
  · rw [if_pos hhot]
    refine ⟨(hsample.trip true 1).bump.retimeDie, fun _ => ⟨?_, fun _ => ⟨?_, fun i hi => ?_⟩⟩,
      fun _ h => by omega, fun h => by omega⟩
    · rw [die_retimeDie, die_bump, die_setField]
      exact State.setDie_self ..
    · have hctr := (regWork_noteTemp (l := [thmDieTempAt d]) s c List.mem_cons_self).ctr (a := thmTripCntAt d)
        (by unfold thmDieTempAt thmTripCntAt; simp)
      have htrip := (regWork_setField (l := [thmDieTempAt d]) ((noteTemp s (thmDieTempAt d) c).modDie d fun x => { x with tripped := true })
        24 24 1 List.mem_cons_self).ctr (a := thmTripCntAt d) (by unfold thmDieTempAt thmTripCntAt; simp)
      refine (ctr_retimeDie ..).trans ((ctr_bump_self ..).trans ?_)
      rw [htrip, ctr_modDie, hctr]
    · exact ((retimeDie_facts _ d.val).2.2 i hi).1
  · rw [if_neg hhot]
    by_cases hcold : c.val < 100 ∧ (s.die d).tripped = true ∧ (dieTick s d).isNone = true
    · obtain ⟨hc, htripped, htick⟩ := hcold
      rw [if_pos ⟨hc, htripped, htick⟩, Option.isNone_iff_eq_none.1 htick]
      refine ⟨(hsample.trip false 0).retimeDie, fun h => by omega, fun h _ => by omega, fun _ => ⟨?_, fun _ _ i hi => ?_⟩⟩
      · rw [die_retimeDie, die_setField, Option.isSome_none, Bool.and_false]
        exact State.setDie_self ..
      · exact ((retimeDie_facts _ d.val).2.2 i hi).1
    · rw [if_neg hcold]
      refine ⟨hsample, fun h => ⟨?_, fun h' => absurd ⟨h, h'⟩ hhot⟩, fun _ _ => ⟨rfl, rfl⟩, fun h => ⟨?_, fun ht hn => ?_⟩⟩
      · have htripped : (s.die d).tripped = true := by simpa using fun h' => hhot ⟨h, h'⟩
        rw [← htripped]
        rfl
      · have hkept : ((s.die d).tripped && (dieTick s d).isSome) = (s.die d).tripped := by
          cases htripped : (s.die d).tripped with
          | false => rfl
          | true =>
            cases htick : dieTick s d with
            | none => exact absurd ⟨h, htripped, by rw [htick]; rfl⟩ hcold
            | some p => rfl
        rw [hkept]
        rfl
      · exact absurd ⟨h, ht, by rw [hn]; rfl⟩ hcold

end Sys2Proof.Machine
end

section
/-! Links and ports that leave service: what a changed link, a lost port and a stopped router leave as it is. -/

namespace Sys2Proof.Machine

variable {s t u : State}

/-! ### The register of the defect map's generation, and the counters of routers and ports -/

theorem dmapGen_ne_rtrReg (r : Nat) {k : Nat} (h : k < 0x10000) (hk : k ≠ 0x298) : pmDmapGenAt ≠ rtrBlk r + k := by
  unfold rtrBlk pmDmapGenAt pmBlk managerArea dieArea mrArea edgeArea
  split <;> omega

theorem dmapGen_ne_linkCounts (r : Nat) : pmDmapGenAt ≠ rtrPenCntAt r ∧ pmDmapGenAt ≠ rtrLinkDownCntAt r :=
  ⟨dmapGen_ne_rtrReg r (by decide) (by decide), dmapGen_ne_rtrReg r (by decide) (by decide)⟩

theorem dmapGen_ne_xpLostCnt (p : Nat) : pmDmapGenAt ≠ rtrXpLostCntAt (xpSite p) (p % 4) := by
  unfold rtrXpLostCntAt
  rw [Nat.add_assoc]
  exact dmapGen_ne_rtrReg _ (by omega) (by omega)

theorem dmapGen_ne_xlossFenceCnt (q : Nat) : pmDmapGenAt ≠ qcXlossFenceCntAt q := by
  unfold pmDmapGenAt qcXlossFenceCntAt qcBlk pmBlk managerArea edgeArea
  omega

/-! ### Links -/

/-- What a link that changes leaves: registers, routers, links, and the partitions' and streams' notes of it differ; no router
starts or stops, and the defect map is of the same generation. -/
structure LinkWork (s t : State) : Prop where
  same : t = { s with regs := t.regs, routers := t.routers, links := t.links, parts := t.parts, mgr := t.mgr }
  mgr : t.mgr = { s.mgr with pends := t.mgr.pends }
  running : ∀ k, (t.rtr k).running = (s.rtr k).running
  gen : t.reg pmDmapGenAt = s.reg pmDmapGenAt

theorem LinkWork.refl (s : State) : LinkWork s s := ⟨rfl, rfl, fun _ => rfl, rfl⟩

theorem LinkWork.trans (h : LinkWork s u) (h' : LinkWork u t) : LinkWork s t :=
  ⟨by rw [h'.same, h.same], by rw [h'.mgr, h.mgr], fun k => (h'.running k).trans (h.running k), h'.gen.trans h.gen⟩

theorem linkWork_bump (s : State) {a : Nat} (h : pmDmapGenAt ≠ a) : LinkWork s (s.bump a) :=
  ⟨rfl, rfl, fun _ => rfl, reg_bump_ne s h⟩

theorem running_modRtr (s : State) (i k : Nat) {f : Router → Router} (hf : ∀ x, (f x).running = x.running) :
    ((s.modRtr i f).rtr k).running = (s.rtr k).running := by
  refine (congrArg Router.running (State.setRtr_rtr s i k (f (s.rtr i)))).trans ?_
  split
  · next h => rw [hf, h]
  · rfl

/-- The state once the end of link l at port e has noted the slots it has sent. -/
def cmapNoted (s t : State) (e : Nat × Nat) (l : Nat) : State :=
  t.modRtr e.1 fun r => { r with cmapPos := putAt r.cmapPos e.2 (portSlots s e.1 e.2 l (s.fab / 5), s.fab / 5) }

theorem changeLink_eq (s : State) (l : Nat) (x : Link) :
    changeLink s l x = (cmapNoted s (cmapNoted s s (linkEnds l).1 l) (linkEnds l).2 l).setLink l x := rfl

theorem reg_cmapNoted (s t : State) (e : Nat × Nat) (l a : Nat) : (cmapNoted s t e l).reg a = t.reg a := rfl

theorem linkWork_cmapNoted (s t : State) (e : Nat × Nat) (l : Nat) : LinkWork t (cmapNoted s t e l) :=
  ⟨rfl, rfl, fun k => running_modRtr t e.1 k
    (f := fun r => { r with cmapPos := putAt r.cmapPos e.2 (portSlots s e.1 e.2 l (s.fab / 5), s.fab / 5) }) fun _ => rfl, reg_cmapNoted ..⟩

theorem reg_setLink (s : State) (l : Nat) (x : Link) (a : Nat) : (s.setLink l x).reg a = s.reg a := rfl

theorem linkWork_changeLink (s : State) (l : Nat) (x : Link) : LinkWork s (changeLink s l x) := by
  rw [changeLink_eq]
  exact ((linkWork_cmapNoted ..).trans (linkWork_cmapNoted ..)).trans ⟨rfl, rfl, fun _ => rfl, reg_setLink ..⟩

theorem link_changeLink (s : State) (l k : Nat) (x : Link) : (changeLink s l x).link k = if k = l then x else s.link k :=
  State.setLink_link ..

theorem linkWork_countLink (s : State) (l st : Nat) : LinkWork s (countLink s l st) := by
  unfold countLink
  refine foldl_inv (LinkWork s) _ _ s (.refl s) fun t r _ h => h.trans ?_
  obtain ⟨hpen, hdown⟩ := dmapGen_ne_linkCounts r
  split
  · exact linkWork_bump t hpen
  · split
    · exact linkWork_bump t hdown
    · exact .refl t

theorem links_countLink (s : State) (l st : Nat) : (countLink s l st).links = s.links := by
  unfold countLink
  refine foldl_inv (fun t : State => t.links = s.links) _ _ s rfl fun t r _ h => ?_
  split
  · exact h
  · split <;> exact h

/-- The state once the partitions and the loaded streams that a link belongs to have noted its change. -/
def linkNoted (s : State) (l : Nat) : State :=
  { s with
    parts := s.parts.map fun p => if linkIn p.qmask l then { p with linkSusp := true } else p
    mgr := { s.mgr with pends := s.mgr.pends.map fun p => if linkIn p.cfg.qmask l then { p with linkMoved := true } else p } }

theorem reg_linkNoted (s : State) (l a : Nat) : (linkNoted s l).reg a = s.reg a := rfl

theorem linkWork_linkNoted (s : State) (l : Nat) : LinkWork s (linkNoted s l) := ⟨rfl, rfl, fun _ => rfl, reg_linkNoted ..⟩

theorem LinkWork.of_regs (h : t = { s with regs := t.regs }) (hgen : t.reg pmDmapGenAt = s.reg pmDmapGenAt) : LinkWork s t :=
  ⟨by rw [h], by rw [h], fun k => by rw [h]; rfl, hgen⟩

theorem linkWork_refreshSusp (s : State) : LinkWork s (refreshSusp s) :=
  .of_regs (refreshSusp_eq s) (refreshSusp_reg s pmDmapGenAt (by decide) (by decide))

theorem linkChanged_eq (s : State) (l : Nat) : linkChanged s l = refreshSusp (linkNoted s l) := rfl

theorem linkWork_linkChanged (s : State) (l : Nat) : LinkWork s (linkChanged s l) :=
  (linkWork_linkNoted s l).trans (linkWork_refreshSusp _)

theorem links_linkChanged (s : State) (l : Nat) : (linkChanged s l).links = s.links := by
  rw [linkChanged_eq, refreshSusp_eq]
  rfl

/-- A stopped router's links go down with it (R373). -/
theorem stopRouter_facts (s : State) (site : Nat) :
    let t := stopRouter s site
    LinkWork (s.modRtr site fun x => { x with running := false }) t ∧ (t.rtr site).running = false := by
  have hwork : LinkWork (s.modRtr site fun x => { x with running := false }) (stopRouter s site) := by
    unfold stopRouter
    dsimp only
    refine foldl_inv (LinkWork _) _ _ _ (.refl _) fun t p _ h => h.trans ?_
    split
    · exact .refl t
    · split
      · exact .refl t
      · exact ((linkWork_changeLink ..).trans (linkWork_countLink ..)).trans (linkWork_linkChanged ..)
  exact ⟨hwork, (hwork.running site).trans (congrArg Router.running (State.setRtr_self ..))⟩

/-! ### Ports (R323) -/

/-- What fencing the packets of a port leaves: registers, routers and the manager's time exchanges differ. -/
structure FenceWork (s t : State) : Prop where
  same : t = { s with regs := t.regs, routers := t.routers, mgr := t.mgr }
  active : t.mgr.active = s.mgr.active
  gen : t.reg pmDmapGenAt = s.reg pmDmapGenAt

theorem FenceWork.refl (s : State) : FenceWork s s := ⟨rfl, rfl, rfl⟩

theorem FenceWork.trans (h : FenceWork s u) (h' : FenceWork u t) : FenceWork s t :=
  ⟨by rw [h'.same, h.same], h'.active.trans h.active, h'.gen.trans h.gen⟩

theorem fenceWork_bump (s : State) {a : Nat} (h : pmDmapGenAt ≠ a) : FenceWork s (s.bump a) := ⟨rfl, rfl, reg_bump_ne s h⟩

theorem reg_injectEdge (s : State) (e agt : Nat) (p : Packet) (a : Nat) : (injectEdge s e agt p).reg a = s.reg a := rfl

theorem fenceWork_injectEdge (s : State) (e agt : Nat) (p : Packet) : FenceWork s (injectEdge s e agt p) :=
  ⟨rfl, rfl, reg_injectEdge ..⟩

theorem fenceWork_fencePacket (s : State) (port : Nat) (p : Packet) : FenceWork s (fencePacket s port p) := by
  have hcount := fenceWork_bump s (dmapGen_ne_xlossFenceCnt (edgeQuarter (port / 4)))
  unfold fencePacket
  split
  · unfold fenceLocally
    dsimp only
    split
    · exact hcount
    · exact hcount.trans (fenceWork_injectEdge ..)
  · exact hcount

theorem reg_modMgr (s : State) (f : Manager → Manager) (a : Nat) : (s.modMgr f).reg a = s.reg a := rfl

theorem fenceWork_settleTimePort (s : State) : FenceWork s (settleTimePort s) := by
  have hdiscard : FenceWork s (discardAverage s) := by
    unfold discardAverage
    refine ⟨rfl, rfl, ?_⟩
    rw [State.setReg_reg, if_neg (by decide), reg_modMgr]
  unfold settleTimePort
  split
  · exact .refl s
  · dsimp only
    split
    · exact hdiscard.trans ⟨rfl, rfl, reg_modMgr ..⟩
    · exact hdiscard

/-- What lost ports leave: besides what fencing changes, ports that are lost. -/
structure LossWork (s t : State) : Prop where
  same : t = { s with regs := t.regs, routers := t.routers, ports := t.ports, mgr := t.mgr }
  active : t.mgr.active = s.mgr.active
  gen : t.reg pmDmapGenAt = s.reg pmDmapGenAt
  ports : ∀ k, (t.port k).state = (s.port k).state ∨ (t.port k).state = 3

theorem LossWork.refl (s : State) : LossWork s s := ⟨rfl, rfl, rfl, fun _ => .inl rfl⟩

theorem LossWork.trans (h : LossWork s u) (h' : LossWork u t) : LossWork s t := by
  refine ⟨by rw [h'.same, h.same], h'.active.trans h.active, h'.gen.trans h.gen, fun k => ?_⟩
  rcases h'.ports k with hk | hk
  · rw [hk]
    exact h.ports k
  · exact .inr hk

theorem FenceWork.port (h : FenceWork s t) (k : Nat) : t.port k = s.port k := by
  rw [h.same]
  rfl

theorem LossWork.edge (h : LossWork s t) (k : Nat) : t.edge k = s.edge k := by
  rw [h.same]
  rfl

theorem reg_setPort (s : State) (p : Nat) (x : Port) (a : Nat) : (s.setPort p x).reg a = s.reg a := rfl

/-- A port when it is lost: it holds nothing, has no credit, and trains from now on. -/
def lostPort (s : State) (p : Nat) : Port :=
  { s.port p with
    state := 3, credits := [], replay := [], egress := [], partial_ := [], trainAt := s.fab, grantReq := 0, grantRsp := 0
    hbRx := none, hbRxAt := none, hbTx := [], naking := false, nakRun := 0, nakTimes := [] }

theorem loseLink_eq (s : State) (p : Nat) : loseLink s p =
    settleTimePort (((s.port p).replay.flatMap (·.pkts) ++ (s.port p).egress.map (·.2.2)).foldl (fun s k => fencePacket s p k)
      ((s.setPort p (lostPort s p)).bump (rtrXpLostCntAt (xpSite p) (p % 4)))) := rfl

theorem fenceWork_loseLink (s : State) (p : Nat) : FenceWork (s.setPort p (lostPort s p)) (loseLink s p) := by
  rw [loseLink_eq]
  exact ((fenceWork_bump _ (dmapGen_ne_xpLostCnt p)).trans (foldl_inv (FenceWork _) _ _ _ (.refl _) fun t k _ h =>
    h.trans (fenceWork_fencePacket t p k))).trans (fenceWork_settleTimePort _)

theorem loseLink_facts (s : State) (p : Nat) : LossWork s (loseLink s p) ∧ ((loseLink s p).port p).state = 3 := by
  have hw := fenceWork_loseLink s p
  have hport : ∀ k, (loseLink s p).port k = if k = p then lostPort s p else s.port k := fun k => (hw.port k).trans (State.setPort_port ..)
  have hlost : (lostPort s p).state = 3 := rfl
  refine ⟨⟨?_, hw.active, hw.gen.trans (reg_setPort ..), fun k => ?_⟩, ?_⟩
  · rw [hw.same]
    rfl
  · rw [hport]
    split
    · exact .inr hlost
    · exact .inl rfl
  · rw [hport, if_pos rfl, hlost]

end Sys2Proof.Machine
end

section
/-! Edge dies that are withdrawn in service (R373, R446). -/

namespace Sys2Proof.Machine

variable {s t : State}

/-- Every port of edge die e whose link runs is lost. -/
def portsLost (s : State) (e : Nat) : State :=
  (List.range 4).foldl (fun s p => if linkRuns s (4 * e + p) then loseLink s (4 * e + p) else s) s

theorem portsLost_facts (s : State) (e : Nat) :
    LossWork s (portsLost s e) ∧ ∀ k < 4, ((portsLost s e).port (4 * e + k)).state ≠ 2 := by
  have hstep : ∀ (t : State) (p : Nat), LossWork t (if linkRuns t (4 * e + p) then loseLink t (4 * e + p) else t) := fun t p => by
    split
    · exact (loseLink_facts ..).1
    · exact .refl t
  refine ⟨foldl_inv (LossWork s) _ _ s (.refl s) fun t p _ h => h.trans (hstep t p), fun k hk => ?_⟩
  refine foldl_sets (fun k (t : State) => (t.port (4 * e + k)).state ≠ 2) _ _ s (fun t p => ?_) (fun t p c h => ?_) k (List.mem_range.2 hk)
  · split
    · rw [(loseLink_facts ..).2]
      decide
    · next hruns => exact fun h => hruns (by simp [linkRuns, h])
  · rcases (hstep t p).ports (4 * e + c) with hc | hc
    · rwa [hc]
    · rw [hc]
      decide

/-- The endpoints whose controller stands on edge die e lose their hosts. -/
def hostsLost (s : State) (e : Nat) : State :=
  (List.range 4).foldl (fun s q => if controllerEdge q = e then s.modQtr q fun x => { x with pcieUp := false } else s) s

theorem hostsLost_facts (s : State) (e : Nat) : hostsLost s e = { s with quarters := (hostsLost s e).quarters } :=
  foldl_inv (fun t : State => t = { s with quarters := t.quarters }) _ _ s rfl fun t q _ h => by
    split
    · rw [h]
      rfl
    · exact h

/-- A manager instance on edge die e stands down; the other takes its place when it runs. -/
def standDown (s : State) (e : Nat) (b : Bool) : State :=
  if managerEdge b = e then
    let s := s.setInst b { s.inst b with down := true }
    if s.mgr.active = some b then
      s.modMgr fun m => { m with active := if (s.inst (!b)).booted && !(s.inst (!b)).down then some (!b) else none, solo := true }
    else s
  else s

/-- An instance that is down and does not act. -/
def StoodDown (b : Bool) (s : State) : Prop := (s.inst b).down = true ∧ s.mgr.active ≠ some b

theorem reg_setInst (s : State) (b : Bool) (x : Instance) (a : Nat) : (s.setInst b x).reg a = s.reg a := by cases b <;> rfl

theorem standDown_facts (s : State) (e : Nat) (b : Bool) :
    let t := standDown s e b
    t = { s with mgr := t.mgr, instA := t.instA, instB := t.instB } ∧ (∀ a, t.reg a = s.reg a) ∧
    (managerEdge b = e → StoodDown b t) ∧ (managerEdge (!b) ≠ e → t.inst (!b) = s.inst (!b)) := by
  unfold standDown
  by_cases he : managerEdge b = e
  · rw [if_pos he]
    dsimp only
    split
    · refine ⟨by cases b <;> rfl, fun a => (reg_modMgr ..).trans (reg_setInst ..), fun _ => ⟨by cases b <;> rfl, ?_⟩, fun _ => by cases b <;> rfl⟩
      rw [State.modMgr_mgr]
      dsimp only
      split <;> cases b <;> decide
    · next hother =>
      exact ⟨by cases b <;> rfl, fun a => reg_setInst .., fun _ => ⟨by cases b <;> rfl, hother⟩, fun _ => by cases b <;> rfl⟩
  · rw [if_neg he]
    exact ⟨rfl, fun _ => rfl, fun h => absurd h he, fun _ => rfl⟩

theorem managerEdge_inj {a b : Bool} (h : managerEdge a = managerEdge b) : a = b := by
  revert a b
  decide

/-- Each instance on the die has stood down once both have been looked at. -/
theorem standDown_both (s : State) (e : Nat) :
    let t := standDown (standDown s e false) e true
    t = { s with mgr := t.mgr, instA := t.instA, instB := t.instB } ∧ (∀ a, t.reg a = s.reg a) ∧
    ∀ b, managerEdge b = e → StoodDown b t := by
  obtain ⟨heq, hreg, hdown, -⟩ := standDown_facts s e false
  obtain ⟨heq', hreg', hdown', -⟩ := standDown_facts (standDown s e false) e true
  refine ⟨?_, fun a => (hreg' a).trans (hreg a), fun b hb => ?_⟩
  · generalize standDown (standDown s e false) e true = t at heq'
    generalize standDown s e false = u at heq heq'
    rw [heq', heq]
  · cases b with
    | true => exact hdown' hb
    | false =>
      have hne : managerEdge true ≠ e := fun h => nomatch managerEdge_inj (h.trans hb.symm)
      rw [show standDown (standDown s e false) e true = standDown s e false from if_neg hne]
      exact hdown hb

theorem withdrawEdge_eq (s : State) (e : Nat) : withdrawEdge s e = newGeneration (standDown (standDown
    (hostsLost (stopRouter (portsLost (s.modEdge e fun x => { x with state := 2 }) e) (edgeSite e)) e) e false) e true) := rfl

theorem reg_modRtr (s : State) (i : Nat) (f : Router → Router) (a : Nat) : (s.modRtr i f).reg a = s.reg a := rfl

theorem reg_modEdge (s : State) (e : Nat) (f : Edge → Edge) (a : Nat) : (s.modEdge e f).reg a = s.reg a := rfl

theorem withdrawEdge_facts (s : State) (e : Nat) :
    let t := withdrawEdge s e
    (t.edge e).state = 2 ∧ (t.rtr (edgeSite e)).running = false ∧ (∀ k < 4, (t.port (4 * e + k)).state ≠ 2) ∧
    t.reg pmDmapGenAt = s.reg pmDmapGenAt + 1 ∧ ∀ b, managerEdge b = e → (t.inst b).down = true ∧ t.mgr.active ≠ some b := by
  obtain ⟨hloss, hports⟩ := portsLost_facts (s.modEdge e fun x => { x with state := 2 }) e
  have hgen := hloss.gen
  have hedge : (s.modEdge e fun x => { x with state := 2 }).edge e = { s.edge e with state := 2 } := State.setEdge_self ..
  have hstate := congrArg Edge.state ((hloss.edge e).trans hedge)
  rw [reg_modEdge] at hgen
  rw [withdrawEdge_eq]
  generalize portsLost (s.modEdge e fun x => { x with state := 2 }) e = u at hports hgen hstate
  obtain ⟨hstop, hrunning⟩ := stopRouter_facts u (edgeSite e)
  have hgen2 := hstop.gen.trans ((reg_modRtr ..).trans hgen)
  have hsame := hstop.same
  generalize stopRouter u (edgeSite e) = v at hrunning hgen2 hsame
  have hhosts := hostsLost_facts v e
  obtain ⟨hdown, hreg, hstood⟩ := standDown_both (hostsLost v e) e
  have hgen3 : (hostsLost v e).reg pmDmapGenAt = v.reg pmDmapGenAt := by
    generalize hostsLost v e = w at hhosts
    rw [hhosts]
    rfl
  have hgen4 := (hreg pmDmapGenAt).trans (hgen3.trans hgen2)
  generalize standDown (standDown (hostsLost v e) e false) e true = x at hdown hstood hgen4
  generalize hostsLost v e = w at hhosts hdown
  obtain ⟨⟨n, hnoted⟩, hgen5⟩ := newGeneration_facts x
  have hlast := hnoted.same
  rw [hgen4] at hgen5
  generalize newGeneration x = t at hlast hgen5
  refine ⟨?_, ?_, fun k hk => ?_, hgen5, fun b hb => ?_⟩
  · rw [hlast, hdown, hhosts, hsame]
    exact hstate
  · rw [hlast, hdown, hhosts]
    exact hrunning
  · rw [hlast, hdown, hhosts, hsame]
    exact hports k hk
  · obtain ⟨hb1, hb2⟩ := hstood b hb
    rw [hlast]
    exact ⟨hb1, hb2⟩

theorem exec_edgeTempSample (e : EdgeId) (c : Fin 256) (ha : (activeMgr s).isSome = true) :
    let v := s.modEdge e fun x => { x with celsius := c.val }
    exec (.edgeTempSample e c) s = .next (if 110 ≤ c.val ∧ (s.edge e).state ≠ 2 then withdrawEdge v e else v) := by
  show execEdgeTempSample e c s = _
  unfold execEdgeTempSample
  rw [if_pos ha]
  dsimp only
  rw [show (s.modEdge e fun x => { x with celsius := c.val }).edge e = { s.edge e with celsius := c.val } from State.setEdge_self ..]

end Sys2Proof.Machine
end

section
/-! Energy latches and the coolant (R444, R447): the fields that a reading writes. -/

namespace Sys2Proof.Machine

variable {s t u : State}

/-! ### Changes of the supplies leave the registers -/

theorem reg_modPower (s : State) (f : Power → Power) (a : Nat) : (modPower s f).reg a = s.reg a := rfl

theorem ctr_modPower (s : State) (f : Power → Power) (a : Nat) : (modPower s f).ctr a = s.ctr a := rfl

theorem power_modPower (s : State) (f : Power → Power) : (modPower s f).power = f s.power := rfl

theorem countedBy_bumpBy (s : State) (a n : Nat) : CountedBy a n s (s.bumpBy a n) := by
  unfold CountedBy State.bumpBy
  split
  · rfl
  · exact findD_putAt_self ..

/-! ### Energy latches (R444) -/

/-- The frame whose estimate die d latches: the one before the running frame, when its partition ticks. -/
def latchedFrame (s : State) (d : DieId) : Nat := match dieTick s d with | some p => frameIndex p - 1 | none => 0

theorem exec_dieEnergyLatch (d : DieId) (e : Nat) (hgood : bit s.power.good 0 = true) :
    let v := s.modDie d fun x => { x with microJ := x.microJ + e }
    exec (.dieEnergyLatch d e) s = .next ((v.setReg (pwrDieEstAt d) ((v.reg (pwrDieEstAt d) + e) % 2 ^ 64)).setReg (pwrDieFrameAt d)
      (latchedFrame s d % 2 ^ 32 * 2 ^ 32 + e % 2 ^ 32)) := by
  show execDieEnergyLatch d e s = _
  unfold execDieEnergyLatch
  rw [if_pos hgood]
  rfl

/-- The two halves of a word. -/
theorem bits_halves (x y : Nat) :
    bits (x % 2 ^ 32 * 2 ^ 32 + y % 2 ^ 32) 31 0 = y % 2 ^ 32 ∧ bits (x % 2 ^ 32 * 2 ^ 32 + y % 2 ^ 32) 63 32 = x % 2 ^ 32 := by
  unfold bits
  constructor <;> omega

theorem goes_dieEnergyLatch (d : DieId) (e : Nat) (hgood : bit s.power.good 0 = true) : Goes (.dieEnergyLatch d e) s fun t =>
    t = { s with regs := t.regs, dies := t.dies } ∧ RegsBut [pwrDieEstAt d, pwrDieFrameAt d] s t ∧
    t.reg (pwrDieEstAt d) = (s.reg (pwrDieEstAt d) + e) % 2 ^ 64 ∧ t.die d = { s.die d with microJ := (s.die d).microJ + e } ∧
    (∀ k, k ≠ d.val → t.die k = s.die k) ∧ bits (t.reg (pwrDieFrameAt d)) 31 0 = e % 2 ^ 32 ∧
    ∀ p, dieTick s d = some p → bits (t.reg (pwrDieFrameAt d)) 63 32 = (frameIndex p - 1) % 2 ^ 32 := by
  have hne : pwrDieEstAt d ≠ pwrDieFrameAt d := by unfold pwrDieEstAt pwrDieFrameAt; omega
  obtain ⟨hlow, hhigh⟩ := bits_halves (latchedFrame s d) e
  refine ⟨_, exec_dieEnergyLatch d e hgood, rfl, fun a ha => ?_, ?_, State.setDie_self .., fun k hk => (State.setDie_die ..).trans (if_neg hk), ?_,
    fun p hp => ?_⟩
  · rw [State.setReg_reg, if_neg fun h => ha (by simp [h]), State.setReg_reg, if_neg fun h => ha (by simp [h]), reg_modDie]
  · rw [State.setReg_reg, if_neg hne, State.setReg_self, reg_modDie]
  · rw [State.setReg_self, hlow]
  · rw [State.setReg_self, hhigh, latchedFrame, hp]

/-! ### The coolant (R447) -/

/-- The outlet's reading is noted. -/
def outletNoted (s : State) : Option (BitVec 16) → State
  | some v => modPower (s.setField thmCoolantAt 7 0 (coolantByte v.toInt)) fun p => { p with outletRead := some v.toInt }
  | none => s

/-- The inlet's reading is noted. -/
def inletNoted (s : State) : Option (BitVec 16) → State
  | some v => modPower (((s.setField thmCoolantAt 15 8 (coolantByte v.toInt)).setField thmStatAt 7 7 0).setField thmStatAt 6 6
      (b2n (decide (v.toInt < 2560 ∨ 5760 < v.toInt)))) fun p => { p with inletAt := s.fab, inletRead := some v.toInt }
  | none => s

/-- The inlet that the model takes. -/
def inletTaken (s : State) : Int := if s.regField thmStatAt 7 7 = 1 then 5760 else (outletBelow s.power).getD (s.power.inletRead.getD s.power.inlet)

/-- Whether the outlet reads below the inlet is noted, and the model takes its inlet. -/
def inletChosen (s : State) : State :=
  let s := s.setField thmStatAt 5 5 (b2n (outletBelow s.power).isSome)
  modPower s fun p => { p with inlet := inletTaken s }

theorem exec_coolantRead (inlet outlet : Option (BitVec 16)) (ha : (activeMgr s).isSome = true) :
    exec (.coolantRead inlet outlet) s = .next (inletChosen (inletNoted (outletNoted s outlet) inlet)) := by
  show execCoolantRead inlet outlet s = _
  unfold execCoolantRead
  rw [if_pos ha]
  rfl

/-- What the readings of the coolant change: two registers, and the supplies' record of the readings. -/
structure CoolantWork (s t : State) : Prop where
  same : t = { s with regs := t.regs, power := t.power }
  regs : RegsBut [thmCoolantAt, thmStatAt] s t

theorem CoolantWork.refl (s : State) : CoolantWork s s := ⟨rfl, fun _ _ => rfl⟩

theorem CoolantWork.trans (h : CoolantWork s u) (h' : CoolantWork u t) : CoolantWork s t :=
  ⟨by rw [h'.same, h.same], fun a ha => (h'.regs a ha).trans (h.regs a ha)⟩

theorem coolantWork_setField (s : State) {a : Nat} (hi lo v : Nat) (ha : a ∈ [thmCoolantAt, thmStatAt]) : CoolantWork s (s.setField a hi lo v) :=
  ⟨rfl, fun _ hb => reg_setField_ne s hi lo v fun h => hb (h ▸ ha)⟩

theorem coolantWork_modPower (s : State) (f : Power → Power) : CoolantWork s (modPower s f) := ⟨rfl, fun a _ => reg_modPower s f a⟩

theorem coolantByte_mod (v : Int) : coolantByte v % 2 ^ 8 = min (v / 128).toNat 255 := by
  unfold coolantByte
  omega

theorem outletNoted_facts (s : State) (outlet : Option (BitVec 16)) :
    let t := outletNoted s outlet
    CoolantWork s t ∧ t.power = { s.power with outletRead := t.power.outletRead } ∧
    bits (t.reg thmStatAt) 7 7 = bits (s.reg thmStatAt) 7 7 ∧
    (∀ v, outlet = some v → bits (t.reg thmCoolantAt) 7 0 = min (v.toInt / 128).toNat 255 ∧ t.power.outletRead = some v.toInt) ∧
    (outlet = none → t = s) := by
  cases outlet with
  | none => exact ⟨.refl s, rfl, rfl, fun _ h => (nomatch h), fun _ => rfl⟩
  | some v =>
    unfold outletNoted
    dsimp only
    refine ⟨(coolantWork_setField s 7 0 _ List.mem_cons_self).trans (coolantWork_modPower ..), rfl, ?_, fun w hw => ⟨?_, ?_⟩, fun h => (nomatch h)⟩
    · rw [reg_modPower, reg_setField_ne s _ _ _ (by decide)]
    · obtain rfl := Option.some.inj hw
      rw [reg_modPower, bits_setField_self _ _ _ (by decide), coolantByte_mod]
    · obtain rfl := Option.some.inj hw
      rfl

theorem inletNoted_facts (s : State) (inlet : Option (BitVec 16)) :
    let t := inletNoted s inlet
    CoolantWork s t ∧ t.power = { s.power with inletRead := t.power.inletRead, inletAt := t.power.inletAt } ∧
    bits (t.reg thmCoolantAt) 7 0 = bits (s.reg thmCoolantAt) 7 0 ∧
    (∀ v, inlet = some v → bits (t.reg thmCoolantAt) 15 8 = min (v.toInt / 128).toNat 255 ∧ t.power.inletRead = some v.toInt ∧
      t.power.inletAt = s.fab ∧ bits (t.reg thmStatAt) 7 7 = 0 ∧
      bits (t.reg thmStatAt) 6 6 = if v.toInt < 20 * 128 ∨ 45 * 128 < v.toInt then 1 else 0) ∧
    (inlet = none → t = s) := by
  cases inlet with
  | none => exact ⟨.refl s, rfl, rfl, fun _ h => (nomatch h), fun _ => rfl⟩
  | some v =>
    unfold inletNoted
    dsimp only
    refine ⟨(((coolantWork_setField s 15 8 _ List.mem_cons_self).trans (coolantWork_setField _ (a := thmStatAt) 7 7 _ (by simp))).trans
      (coolantWork_setField _ (a := thmStatAt) 6 6 _ (by simp))).trans (coolantWork_modPower ..), rfl, ?_, fun w hw => ?_, fun h => (nomatch h)⟩
    · rw [reg_modPower, reg_setField_ne _ _ _ _ (by decide), reg_setField_ne _ _ _ _ (by decide),
        bits_setField_apart _ _ _ (by decide) (by decide) (by decide)]
    · obtain rfl := Option.some.inj hw
      refine ⟨?_, rfl, rfl, ?_, ?_⟩
      · rw [reg_modPower, reg_setField_ne _ _ _ _ (by decide), reg_setField_ne _ _ _ _ (by decide), bits_setField_self _ _ _ (by decide),
          coolantByte_mod]
      · rw [reg_modPower, bits_setField_apart _ _ _ (by decide) (by decide) (by decide), bits_setField_self _ _ _ (by decide), Nat.zero_mod]
      · rw [reg_modPower, bits_setField_self _ _ _ (by decide)]
        exact (Nat.mod_eq_of_lt (b2n_lt _)).trans (b2n_decide _)

theorem b2n_eq_one (b : Bool) : b2n b = 1 ↔ b = true := by cases b <;> decide

theorem outletBelow_eq_some {p : Power} {x : Int} :
    outletBelow p = some x ↔ ∃ i o, p.inletRead = some i ∧ p.outletRead = some o ∧ o + 2 * 128 < i ∧ x = max i o := by
  unfold outletBelow
  cases p.inletRead with
  | none => simp
  | some i =>
    cases p.outletRead with
    | none => simp
    | some o =>
      dsimp only
      split <;> simp <;> grind

theorem inletChosen_facts (s : State) :
    let t := inletChosen s
    CoolantWork s t ∧ t.power = { s.power with inlet := t.power.inlet } ∧ t.reg thmCoolantAt = s.reg thmCoolantAt ∧
    bits (t.reg thmStatAt) 7 7 = bits (s.reg thmStatAt) 7 7 ∧ bits (t.reg thmStatAt) 6 6 = bits (s.reg thmStatAt) 6 6 ∧
    bits (t.reg thmStatAt) 5 5 = b2n (outletBelow s.power).isSome ∧
    t.power.inlet = if bits (s.reg thmStatAt) 7 7 = 1 then 5760 else (outletBelow s.power).getD (s.power.inletRead.getD s.power.inlet) := by
  have hstat : bits ((s.setField thmStatAt 5 5 (b2n (outletBelow s.power).isSome)).reg thmStatAt) 7 7 = bits (s.reg thmStatAt) 7 7 :=
    bits_setField_apart _ _ _ (by decide) (by decide) (by decide)
  unfold inletChosen
  refine ⟨(coolantWork_setField s 5 5 _ (by simp)).trans (coolantWork_modPower ..), rfl, ?_, ?_, ?_, ?_, ?_⟩
  · rw [reg_modPower, reg_setField_ne _ _ _ _ (by decide)]
  · rw [reg_modPower, hstat]
  · rw [reg_modPower, bits_setField_apart _ _ _ (by decide) (by decide) (by decide)]
  · rw [reg_modPower, bits_setField_self _ _ _ (by decide)]
    exact Nat.mod_eq_of_lt (b2n_lt _)
  · rw [power_modPower, ← hstat]
    rfl

theorem goes_coolantRead (inlet outlet : Option (BitVec 16)) (ha : (activeMgr s).isSome = true) : Goes (.coolantRead inlet outlet) s fun t =>
    t = { s with regs := t.regs, power := t.power } ∧ RegsBut [thmCoolantAt, thmStatAt] s t ∧
    (∀ v, outlet = some v → bits (t.reg thmCoolantAt) 7 0 = min (v.toInt / 128).toNat 255 ∧ t.power.outletRead = some v.toInt) ∧
    (outlet = none → bits (t.reg thmCoolantAt) 7 0 = bits (s.reg thmCoolantAt) 7 0 ∧ t.power.outletRead = s.power.outletRead) ∧
    (∀ v, inlet = some v → bits (t.reg thmCoolantAt) 15 8 = min (v.toInt / 128).toNat 255 ∧ t.power.inletRead = some v.toInt ∧
      t.power.inletAt = s.fab ∧ bits (t.reg thmStatAt) 7 7 = 0 ∧
      (bits (t.reg thmStatAt) 6 6 = if v.toInt < 20 * 128 ∨ 45 * 128 < v.toInt then 1 else 0)) ∧
    (inlet = none → t.power.inletRead = s.power.inletRead ∧ t.power.inletAt = s.power.inletAt ∧ bits (t.reg thmStatAt) 7 7 = bits (s.reg thmStatAt) 7 7) ∧
    (bits (t.reg thmStatAt) 5 5 = 1 ↔ ∃ i o, t.power.inletRead = some i ∧ t.power.outletRead = some o ∧ o + 2 * 128 < i) ∧
    (bits (t.reg thmStatAt) 7 7 = 1 → t.power.inlet = 45 * 128) ∧
    (∀ i, bits (t.reg thmStatAt) 7 7 = 0 → t.power.inletRead = some i → t.power.inlet = i ∧
      ∀ o, t.power.outletRead = some o → o + 2 * 128 < i → t.power.inlet = max i o) := by
  refine ⟨_, exec_coolantRead inlet outlet ha, ?_⟩
  obtain ⟨hwork1, hpower1, hstat1, hsome1, hnone1⟩ := outletNoted_facts s outlet
  generalize outletNoted s outlet = u at *
  obtain ⟨hwork2, hpower2, hcool2, hsome2, hnone2⟩ := inletNoted_facts u inlet
  generalize inletNoted u inlet = w at *
  obtain ⟨hwork3, hpower3, hcool3, hstat3, hrange3, hbelow3, hinlet3⟩ := inletChosen_facts w
  generalize inletChosen w = t at *
  obtain ⟨hsame, hregs⟩ := (hwork1.trans hwork2).trans hwork3
  have hread1 : u.power.inletRead = s.power.inletRead ∧ u.power.inletAt = s.power.inletAt := by rw [hpower1]; exact ⟨rfl, rfl⟩
  have hread2 : w.power.outletRead = u.power.outletRead := by rw [hpower2]
  obtain ⟨houtlet, hinlet, hat⟩ : t.power.outletRead = w.power.outletRead ∧ t.power.inletRead = w.power.inletRead ∧
    t.power.inletAt = w.power.inletAt := by rw [hpower3]; exact ⟨rfl, rfl, rfl⟩
  have hfab : u.fab = s.fab := by rw [hwork1.same]
  rw [hcool3, hstat3, hrange3, hbelow3, houtlet, hinlet, hat, hinlet3]
  refine ⟨hsame, hregs, fun v hv => ?_, fun hv => ?_, fun v hv => ?_, fun hv => ?_, ?_, fun h => ?_, fun i hok hi => ?_⟩
  · rw [hcool2, hread2]
    exact hsome1 v hv
  · rw [hcool2, hread2, hnone1 hv]
    exact ⟨rfl, rfl⟩
  · rw [← hfab]
    exact hsome2 v hv
  · rw [hnone2 hv]
    exact ⟨hread1.1, hread1.2, hstat1⟩
  · rw [b2n_eq_one, Option.isSome_iff_exists]
    constructor
    · rintro ⟨x, hx⟩
      obtain ⟨i, o, hi, ho, hlt, -⟩ := outletBelow_eq_some.1 hx
      exact ⟨i, o, hi, ho, hlt⟩
    · rintro ⟨i, o, hi, ho, hlt⟩
      exact ⟨_, outletBelow_eq_some.2 ⟨i, o, hi, ho, hlt, rfl⟩⟩
  · rw [if_pos h]
    decide
  · rw [if_neg (by omega), hi]
    cases hbelow : outletBelow w.power with
    | none =>
      refine ⟨rfl, fun o ho hlt => ?_⟩
      rw [outletBelow_eq_some.2 ⟨i, o, hi, ho, hlt, rfl⟩] at hbelow
      exact nomatch hbelow
    | some x =>
      obtain ⟨j, o, hj, ho, hlt, rfl⟩ := outletBelow_eq_some.1 hbelow
      obtain rfl := Option.some.inj (hi.symm.trans hj)
      refine ⟨max_eq_left (by omega), fun o' ho' _ => ?_⟩
      obtain rfl := Option.some.inj (ho.symm.trans ho')
      rfl

/-! ### The inlet's sensor is lost (R447) -/

/-- Time may pass, registers and the supplies may change, and nothing else does. -/
def SupplyWork (s t : State) : Prop :=
  t = { s with fab := t.fab, regs := t.regs, keepers := t.keepers, mgr := t.mgr, power := t.power }

theorem SupplyWork.trans (h : SupplyWork s u) (h' : SupplyWork u t) : SupplyWork s t := by
  unfold SupplyWork at *
  rw [h', h]

theorem supplyWork_advFab (s : State) (f : Nat) : SupplyWork s (advFab s f) := by
  unfold SupplyWork
  conv_lhs => rw [advFab_eq]
  rw [power_advFab, show (advFab s f).regs = s.regs by rw [advFab_eq]]

theorem supplyWork_setField (s : State) (a hi lo v : Nat) : SupplyWork s (s.setField a hi lo v) := rfl

theorem supplyWork_bump (s : State) (a : Nat) : SupplyWork s (s.bump a) := rfl

theorem supplyWork_modPower (s : State) (f : Power → Power) : SupplyWork s (modPower s f) := rfl

theorem SupplyWork.with_power {p : Power} (h : SupplyWork s t) (hp : t.power = p) :
    t = { s with fab := t.fab, regs := t.regs, keepers := t.keepers, mgr := t.mgr, power := p } := by
  rw [← hp]
  exact h

theorem power_bump (s : State) (a : Nat) : (s.bump a).power = s.power := rfl

theorem power_setField (s : State) (a hi lo v : Nat) : (s.setField a hi lo v).power = s.power := rfl

theorem fab_modPower (s : State) (f : Power → Power) : (modPower s f).fab = s.fab := rfl

theorem fab_bump (s : State) (a : Nat) : (s.bump a).fab = s.fab := rfl

theorem fab_setField (s : State) (a hi lo v : Nat) : (s.setField a hi lo v).fab = s.fab := rfl

theorem exec_inletLost (ha : (activeMgr s).isSome = true) (hok : bits (s.reg thmStatAt) 7 7 = 0) :
    let v := advFab s (s.power.inletAt + 200000000)
    exec .inletLost s = .next (modPower ((v.setField thmStatAt 7 7 1).bump thmInletLostCntAt) fun p => { p with inlet := 5760 }) := by
  show execInletLost s = _
  unfold execInletLost
  rw [if_pos ⟨ha, hok⟩]

theorem goes_inletLost (ha : (activeMgr s).isSome = true) (hok : bits (s.reg thmStatAt) 7 7 = 0) : Goes .inletLost s fun t =>
    t.fab = max s.fab (s.power.inletAt + 200000000) ∧
    t = { s with fab := t.fab, regs := t.regs, keepers := t.keepers, mgr := t.mgr, power := { s.power with inlet := 45 * 128 } } ∧
    bits (t.reg thmStatAt) 7 7 = 1 ∧ Counted thmInletLostCntAt s t ∧ RegsBut [thmStatAt, thmInletLostCntAt] s t := by
  refine ⟨_, exec_inletLost ha hok, ?_, ?_, ?_, ?_, fun a ha => ?_⟩
  · rw [fab_modPower, fab_bump, fab_setField, fab_advFab]
  · refine ((((supplyWork_advFab s _).trans (supplyWork_setField ..)).trans (supplyWork_bump ..)).trans
      (supplyWork_modPower ..)).with_power ?_
    refine (power_modPower ..).trans ?_
    rw [power_bump, power_setField, power_advFab]
    rfl
  · rw [reg_modPower, reg_bump_ne _ (by decide), bits_setField_self _ _ _ (by decide), Nat.one_mod_two_pow_eq_one]
    decide
  · unfold Counted
    rw [ctr_modPower, ctr_bump_self, State.setField, ctr_setReg_ne _ _ (by decide), ctr_advFab]
  · rw [reg_modPower, reg_bump_ne _ fun h => ha (by simp [h]), reg_setField_ne _ _ _ _ fun h => ha (by simp [h]), reg_advFab]

end Sys2Proof.Machine
end

section
/-! The fast droop alert (R441, R442). -/

namespace Sys2Proof.Machine

variable {s t : State}

/-! ### Every region's frequency -/

theorem retimeAll_facts (s : State) : retimeAll s = { s with regions := (retimeAll s).regions } ∧ ∀ r < 512, Timed (retimeAll s) r := by
  unfold retimeAll
  refine ⟨foldl_inv (fun t : State => t = { s with regions := t.regions }) _ _ s rfl fun t r _ h => ?_, fun r hr => ?_⟩
  · rw [h]
    rfl
  · exact foldl_sets (fun r t => Timed t r) retime _ s (fun t r => timed_retime t r) (fun t k r h => h.retime k) r (List.mem_range.2 hr)

theorem rgn_retimeAt (s : State) (r f : Nat) :
    ((retimeAt s r f).rgn r).mhz = (s.rgn r).mhz ∧ ((retimeAt s r f).rgn r).later = some (f, rgnTarget s r) := by
  rw [show (retimeAt s r f).rgn r = _ from State.setRgn_self ..]
  exact ⟨rfl, rfl⟩

theorem rgn_retimeAt_ne (s : State) {r k : Nat} (f : Nat) (h : k ≠ r) : (retimeAt s r f).rgn k = s.rgn k := (rgn_setRgn ..).trans (if_neg h)

theorem mhz_retimeAt (s : State) (r f k : Nat) : ((retimeAt s r f).rgn k).mhz = (s.rgn k).mhz := by
  by_cases h : k = r
  · rw [h]
    exact (rgn_retimeAt s r f).1
  · rw [rgn_retimeAt_ne s f h]

theorem fab_retimeAt (s : State) (r f : Nat) : (retimeAt s r f).fab = s.fab := rfl

/-- Every region is to return, in 100 ns, to the frequency that its state asks for. -/
def returnAll (s : State) : State := (List.range 512).foldl (fun s r => retimeAt s r (s.fab + 200)) s

theorem returnAll_facts (s : State) :
    let t := returnAll s
    t = { s with regions := t.regions } ∧ ∀ r < 512, (t.rgn r).mhz = (s.rgn r).mhz ∧ (t.rgn r).later = some (s.fab + 200, rgnTarget t r) := by
  have hmhz : ∀ r, ((returnAll s).rgn r).mhz = (s.rgn r).mhz := fun r =>
    foldl_inv (fun t : State => (t.rgn r).mhz = (s.rgn r).mhz) _ _ s rfl fun t k _ h => (mhz_retimeAt t k _ r).trans h
  have hsame : returnAll s = { s with regions := (returnAll s).regions } :=
    foldl_inv (fun t : State => t = { s with regions := t.regions }) _ _ s rfl fun t r _ h => by
      rw [h]
      rfl
  have hlater : ∀ r < 512, ((returnAll s).rgn r).later = some ((returnAll s).fab + 200, rgnTarget (returnAll s) r) := fun r hr => by
    refine foldl_sets (fun r (t : State) => (t.rgn r).later = some (t.fab + 200, rgnTarget t r)) _ _ s (fun t r => ?_) (fun t k c h => ?_) r
      (List.mem_range.2 hr)
    · rw [rgnTarget_retimeAt, fab_retimeAt]
      exact (rgn_retimeAt t r _).2
    · rw [rgnTarget_retimeAt, fab_retimeAt]
      by_cases hc : c = k
      · rw [hc]
        exact (rgn_retimeAt t k _).2
      · rw [rgn_retimeAt_ne t _ hc, h]
  refine ⟨hsame, fun r hr => ⟨hmhz r, ?_⟩⟩
  rw [hlater r hr, show (returnAll s).fab = s.fab by rw [hsame]]

/-! ### The pins of the alert (R441) -/

/-- The state once pin g has asserted or deasserted: fda holds the pins that are asserted. -/
def pinsNow (s : State) (fda : Nat) : State := modPower s fun p => { p with fda }

/-- The state when the alert begins. -/
def alertBegun (s : State) : State := (modPower s fun p => { p with fdaAt := some s.fab, fdaLong := false }).bump pwrFdaCntAt

/-- The state when the alert ends. -/
def alertEnded (s : State) : State :=
  let s := s.bumpBy pwrFdaTimeCntAt (fdaEdges s)
  modPower s fun p => { p with fdaAt := none, fdaOff := some s.fab, fdaLong := false }

theorem bit_two_pow_self (g : Nat) : bit (2 ^ g) g = true := by
  rw [bit, Nat.div_self (Nat.two_pow_pos _)]
  rfl

theorem bit_zero_left (g : Nat) : bit 0 g = false := by
  rw [bit, Nat.zero_div]
  rfl

theorem exec_fdaAssert (g : Fin 16) (h : bit s.power.fda g = false) :
    exec (.fdaAssert g) s = .next (if s.power.fda = 0 then retimeAll (alertBegun (pinsNow s (s.power.fda ||| 2 ^ g.val)))
      else pinsNow s (s.power.fda ||| 2 ^ g.val)) := by
  show execFdaAssert g s = _
  unfold execFdaAssert
  rw [h, if_neg Bool.false_ne_true]
  by_cases hfirst : s.power.fda = 0
  · rw [if_pos hfirst]
    exact if_pos (beq_iff_eq.2 hfirst)
  · rw [if_neg hfirst]
    exact if_neg fun h' => hfirst (beq_iff_eq.1 h')

theorem exec_fdaDeassert (g : Fin 16) (h : bit s.power.fda g = true) :
    let v := pinsNow s (s.power.fda ^^^ 2 ^ g.val)
    exec (.fdaDeassert g) s = .next (if s.power.fda = 2 ^ g.val then returnAll (alertEnded v) else v) := by
  show execFdaDeassert g s = _
  have hxor : (pinsNow s (s.power.fda ^^^ 2 ^ g.val)).power.fda = 0 ↔ s.power.fda = 2 ^ g.val := Nat.xor_eq_zero_iff
  have hpins : (modPower s fun p => { p with fda := p.fda ^^^ 2 ^ g.val }) = pinsNow s (s.power.fda ^^^ 2 ^ g.val) := rfl
  unfold execFdaDeassert
  rw [if_pos h, hpins]
  dsimp only
  by_cases hlast : s.power.fda = 2 ^ g.val
  · rw [if_pos hlast, if_pos (hxor.2 hlast), returnAll, alertEnded]
  · rw [if_neg hlast, if_neg fun h' => hlast (hxor.1 h')]

/-- What the alert changes: a counter, the regions, and the supplies' record of the pins. -/
structure AlertWork (a : Nat) (s t : State) : Prop where
  same : t = { s with regs := t.regs, regions := t.regions, power := t.power }
  regs : RegsBut [a] s t

theorem AlertWork.trans {a : Nat} {u : State} (h : AlertWork a s u) (h' : AlertWork a u t) : AlertWork a s t :=
  ⟨by rw [h'.same, h.same], fun b hb => (h'.regs b hb).trans (h.regs b hb)⟩

theorem alertWork_modPower (a : Nat) (s : State) (f : Power → Power) : AlertWork a s (modPower s f) := ⟨rfl, fun b _ => reg_modPower s f b⟩

theorem alertWork_bumpBy (s : State) (a n : Nat) : AlertWork a s (s.bumpBy a n) := by
  refine ⟨?_, fun b hb => reg_bumpBy_ne s fun h => hb (by simp [h])⟩
  unfold State.bumpBy
  split <;> rfl

theorem alertWork_alertEnded (s : State) : AlertWork pwrFdaTimeCntAt s (alertEnded s) := by
  unfold alertEnded
  exact (alertWork_bumpBy ..).trans (alertWork_modPower ..)

theorem alertWork_regions {a : Nat} (h : t = { s with regions := t.regions }) : AlertWork a s t :=
  ⟨by rw [h], fun b _ => by rw [h]; rfl⟩

theorem power_of_regions (h : t = { s with regions := t.regions }) : t.power = s.power := by rw [h]

theorem ctr_of_regions (h : t = { s with regions := t.regions }) (a : Nat) : t.ctr a = s.ctr a := by
  rw [h]
  rfl

theorem rgn_bumpBy (s : State) (a n k : Nat) : (s.bumpBy a n).rgn k = s.rgn k := by
  rw [bumpBy_eq]
  rfl

theorem goes_fdaAssert_first (g : Fin 16) (h : s.power.fda = 0) : Goes (.fdaAssert g) s fun t =>
    t = { s with regs := t.regs, regions := t.regions, power := t.power } ∧ Counted pwrFdaCntAt s t ∧ RegsBut [pwrFdaCntAt] s t ∧
    t.power = { s.power with fda := 2 ^ g.val, fdaAt := some s.fab, fdaLong := false } ∧
    ∀ r < 512, (t.rgn r).mhz = rgnTarget t r ∧ (t.rgn r).later = none := by
  have hexec := exec_fdaAssert g (by rw [h, bit_zero_left])
  rw [if_pos h, h, Nat.zero_or] at hexec
  refine ⟨_, hexec, ?_⟩
  have hbegun : AlertWork pwrFdaCntAt s (alertBegun (pinsNow s (2 ^ g.val))) :=
    ((alertWork_modPower _ s _).trans (alertWork_modPower ..)).trans (alertWork_bumpBy _ _ 1)
  have hctr : (alertBegun (pinsNow s (2 ^ g.val))).ctr pwrFdaCntAt = min (s.ctr pwrFdaCntAt + 1) 0xFFFFFFFFFFFF := by
    unfold alertBegun pinsNow
    rw [ctr_bump_self, ctr_modPower, ctr_modPower]
  have hpower : (alertBegun (pinsNow s (2 ^ g.val))).power = { s.power with fda := 2 ^ g.val, fdaAt := some s.fab, fdaLong := false } := rfl
  generalize alertBegun (pinsNow s (2 ^ g.val)) = v at *
  obtain ⟨heq, htimed⟩ := retimeAll_facts v
  obtain ⟨hsame, hregs⟩ := hbegun.trans (alertWork_regions heq)
  exact ⟨hsame, (ctr_of_regions heq _).trans hctr, hregs, (power_of_regions heq).trans hpower, htimed⟩

theorem goes_fdaDeassert_last (g : Fin 16) {f : Nat} (h : s.power.fda = 2 ^ g.val) (hat : s.power.fdaAt = some f) : Goes (.fdaDeassert g) s fun t =>
    t = { s with regs := t.regs, regions := t.regions, power := t.power } ∧
    CountedBy pwrFdaTimeCntAt (s.fab / 80 - f / 80) s t ∧ RegsBut [pwrFdaTimeCntAt] s t ∧
    t.power = { s.power with fda := 0, fdaAt := none, fdaOff := some s.fab, fdaLong := false } ∧
    ∀ r < 512, (t.rgn r).mhz = (s.rgn r).mhz ∧ (t.rgn r).later = some (s.fab + 200, rgnTarget t r) := by
  have hexec := exec_fdaDeassert g (by rw [h, bit_two_pow_self])
  dsimp only at hexec
  rw [if_pos h, h, Nat.xor_self] at hexec
  refine ⟨_, hexec, ?_⟩
  have hedges : fdaEdges (pinsNow s 0) = s.fab / 80 - f / 80 := by
    unfold fdaEdges
    rw [show (pinsNow s 0).power.fdaAt = some f from hat]
    rfl
  have hended : AlertWork pwrFdaTimeCntAt s (alertEnded (pinsNow s 0)) :=
    (alertWork_modPower ..).trans (alertWork_alertEnded _)
  have hctr : CountedBy pwrFdaTimeCntAt (s.fab / 80 - f / 80) s (alertEnded (pinsNow s 0)) := by
    unfold alertEnded
    rw [hedges]
    exact countedBy_bumpBy (pinsNow s 0) pwrFdaTimeCntAt _
  have hpower : (alertEnded (pinsNow s 0)).power = { s.power with fda := 0, fdaAt := none, fdaOff := some s.fab, fdaLong := false } := by
    unfold alertEnded
    rw [power_modPower, bumpBy_eq]
    rfl
  have hrgn : ∀ r, (alertEnded (pinsNow s 0)).rgn r = s.rgn r := fun r => rgn_bumpBy (pinsNow s 0) _ _ r
  have hfab : (alertEnded (pinsNow s 0)).fab = s.fab := by rw [hended.same]
  generalize alertEnded (pinsNow s 0) = v at *
  obtain ⟨heq, hreturn⟩ := returnAll_facts v
  obtain ⟨hsame, hregs⟩ := hended.trans (alertWork_regions heq)
  refine ⟨hsame, (ctr_of_regions heq _).trans hctr, hregs, (power_of_regions heq).trans hpower, fun r hr => ?_⟩
  rw [← hrgn, ← hfab]
  exact hreturn r hr

/-! ### An alert of more than a millisecond (R442) -/

theorem exec_fdaLong {f : Nat} (hat : s.power.fdaAt = some f) (hlong : s.power.fdaLong = false) :
    exec .fdaLong s = .next ((modPower (advFab s (f + 2000001)) fun p => { p with fdaLong := true }).bump pwrFdaLongCntAt) := by
  show execFdaLong s = _
  unfold execFdaLong
  rw [hat]
  dsimp only
  rw [if_neg (by simp [hlong])]

theorem goes_fdaLong {f : Nat} (hat : s.power.fdaAt = some f) (hlong : s.power.fdaLong = false) : Goes .fdaLong s fun t =>
    t.fab = max s.fab (f + 2000001) ∧ t.power = { s.power with fdaLong := true } ∧
    Counted pwrFdaLongCntAt s t ∧ t = { s with fab := t.fab, regs := t.regs, keepers := t.keepers, mgr := t.mgr, power := t.power } := by
  refine ⟨_, exec_fdaLong hat hlong, ?_, ?_, ?_, ?_⟩
  · rw [fab_bump, fab_modPower, fab_advFab]
  · rw [power_bump, power_modPower, power_advFab]
  · unfold Counted
    rw [ctr_bump_self, ctr_modPower, ctr_advFab]
  · exact ((supplyWork_advFab s _).trans (supplyWork_modPower ..)).trans (supplyWork_bump ..)

end Sys2Proof.Machine
end

section
/-! The domains go off (R439, R440, R506). -/

namespace Sys2Proof.Machine

variable {s t : State}

/-- The panel is shut down: a fault is recorded, VAON alone is good, and partitions and clusters are gone. -/
def ShutDown (word : Nat) (t : State) : Prop :=
  t.power.fault = true ∧ t.power.enabled = 64 ∧ t.power.good = 64 ∧ t.parts = [] ∧ (∀ k, t.cl k = {}) ∧ t.reg pwrFaultAt = word

theorem shutDown_facts (s : State) (dom cause status : Nat) :
    let t := shutDown s dom cause status
    t.fab = s.fab ∧ ShutDown (faultWord s dom cause status) t :=
  ⟨rfl, rfl, rfl, rfl, rfl, fun _ => rfl, State.setReg_self (stopPanel s) pwrFaultAt _⟩

/-- PWR_FAULT's fields hold a domain, a cause and a status of their own widths as they are. -/
theorem faultWord_eq (s : State) {dom cause status : Nat} (hdom : dom < 16) (hcause : cause < 16) (hstatus : status < 2 ^ 16) :
    faultWord s dom cause status = 2 ^ 63 + dom * 2 ^ 48 + cause * 2 ^ 44 + s.mgr.step % 16 * 2 ^ 40 + status := by
  unfold faultWord
  rw [Nat.mod_eq_of_lt hdom, Nat.mod_eq_of_lt hcause, Nat.mod_eq_of_lt hstatus]

theorem goes_domainFault (dom : DomainId) (cause : Fin 16) (status : BitVec 16) (ha : (activeMgr s).isSome = true)
    (hfault : s.power.fault = false) (hdom : dom.val ≠ 6) (hstep : 3 < s.mgr.step) : Goes (.domainFault dom cause status) s fun t =>
    t.fab = s.fab ∧ ShutDown (2 ^ 63 + dom * 2 ^ 48 + cause * 2 ^ 44 + s.mgr.step % 16 * 2 ^ 40 + status.toNat) t := by
  have hexec : exec (.domainFault dom cause status) s = .next (shutDown s dom cause status.toNat) := by
    show execDomainFault dom cause status s = _
    unfold execDomainFault
    rw [if_neg hdom, if_pos ⟨ha, hstep, hfault⟩]
  rw [← faultWord_eq s (by omega) cause.isLt status.isLt]
  exact ⟨_, hexec, shutDown_facts ..⟩

theorem goes_ref25Loss (ha : (activeMgr s).isSome = true) (hfault : s.power.fault = false) : Goes .ref25Loss s fun t =>
    t.fab = s.fab + 2000 ∧ ShutDown (2 ^ 63 + 15 * 2 ^ 48 + 3 * 2 ^ 44 + s.mgr.step % 16 * 2 ^ 40 + 0) t := by
  have hexec : exec .ref25Loss s = .next (shutDown (advFab s (s.fab + 2000)) 15 3 0) := by
    show execRef25Loss s = _
    unfold execRef25Loss
    rw [if_pos ⟨ha, hfault⟩]
  obtain ⟨hfab, hdown⟩ := shutDown_facts (advFab s (s.fab + 2000)) 15 3 0
  rw [faultWord_eq _ (by decide) (by decide) (by decide), step_advFab] at hdown
  refine ⟨_, hexec, hfab.trans ?_, hdown⟩
  rw [fab_advFab, max_eq_right (by omega)]

end Sys2Proof.Machine
end

section
/-! The telemetry that the manager reads each millisecond (R443, R444, R456, R460). -/

namespace Sys2Proof.Machine

variable {s t u : State}

/-! ### A device's reading -/

theorem lastReading_eq (s : State) (dev : Nat) : lastReading s dev = findD s.power.readings dev (0, 0, 0, 0) := by
  unfold lastReading findD
  congr 1
  induction s.power.readings with
  | nil => rfl
  | cons x l ih =>
    obtain ⟨k, y⟩ := x
    rw [List.find?_cons, find?]
    by_cases h : k = dev
    · rw [if_pos h, show (k == dev) = true from beq_iff_eq.2 h]
      rfl
    · rw [if_neg h, show (k == dev) = false from beq_eq_false_iff_ne.2 h]
      exact ih

theorem lastReading_congr (h : t.power.readings = s.power.readings) : lastReading t = lastReading s := by
  funext dev
  rw [lastReading_eq, lastReading_eq, h]

/-- A device's reading after a read that gave it r, when it was old before. -/
def nextReading (r : Option Reading) (old : Nat × Nat × Nat × Nat) : Nat × Nat × Nat × Nat :=
  match r with
  | some { answer := some (mv, ma), phases := k, .. } => (mv, ma, k, 0)
  | _ => (old.1, old.2.1, old.2.2.1, old.2.2.2 + 1)

/-- The reading of one device is all that a read of it changes, besides a counter. -/
theorem takeReading_facts (s : State) (rs : List Reading) (dev : Nat) :
    let t := takeReading s rs dev
    t = { s with regs := t.regs, power := t.power } ∧
    lastReading t dev = nextReading (rs.find? fun r => r.dev == dev) (lastReading s dev) ∧ ∀ k, k ≠ dev → lastReading t k = lastReading s k := by
  have hput : ∀ {u : State} {x}, u.power.readings = putAt s.power.readings dev x →
      lastReading u dev = x ∧ ∀ k, k ≠ dev → lastReading u k = lastReading s k := fun {u x} hu => by
    refine ⟨?_, fun k hk => ?_⟩
    · rw [lastReading_eq, hu, findD_putAt_self]
    · rw [lastReading_eq, lastReading_eq, hu, findD_putAt_ne _ _ _ hk]
  unfold takeReading nextReading
  generalize rs.find? (fun r => r.dev == dev) = found
  match found with
  | none => exact ⟨rfl, hput rfl⟩
  | some ⟨_, none, _⟩ => exact ⟨rfl, hput rfl⟩
  | some ⟨_, some (mv, ma), k⟩ => exact ⟨rfl, hput rfl⟩

/-- The state once every device has been read. -/
def devicesRead (s : State) (rs : List Reading) : State := (List.range devices).foldl (fun s d => takeReading s rs d) s

theorem devicesRead_facts (s : State) (rs : List Reading) :
    let t := devicesRead s rs
    t = { s with regs := t.regs, power := t.power } ∧
    ∀ dev < 22, lastReading t dev = nextReading (rs.find? fun r => r.dev == dev) (lastReading s dev) := by
  refine ⟨foldl_inv (fun t : State => t = { s with regs := t.regs, power := t.power }) _ _ s rfl fun t d _ h => ?_, fun dev hdev => ?_⟩
  · rw [(takeReading_facts t rs d).1, h]
  · exact foldl_each (fun s d => takeReading s rs d) lastReading (fun d => nextReading (rs.find? fun r => r.dev == d)) (fun d k => d ≠ k)
      (fun t d => (takeReading_facts t rs d).2.1) (fun t d k hk => (takeReading_facts t rs d).2.2 k hk) (List.range devices) s
      (List.nodup_range.imp fun h => ⟨h, h.symm⟩) dev (List.mem_range.2 hdev)

/-! ### What is derived from the readings -/

theorem domainMw_congr (h : t.power.readings = s.power.readings) : domainMw t = domainMw s := by
  funext d
  unfold domainMw
  rw [lastReading_congr h]

theorem panelMw_congr (h : t.power.readings = s.power.readings) : panelMw t = panelMw s := by
  unfold panelMw
  rw [domainMw_congr h]

theorem domWord_congr (h : t.power.readings = s.power.readings) : domWord t = domWord s := by
  funext d
  unfold domWord domainMa domainMv
  rw [domainMw_congr h, lastReading_congr h]

theorem phasesWord_congr (h : t.power.readings = s.power.readings) : phasesWord t = phasesWord s := by
  unfold phasesWord workingPhases
  rw [lastReading_congr h]

/-! ### The registers of the domains (R460) -/

/-- The state once the domains' registers and that of the phases hold what was read. -/
def domainsWritten (s : State) : State :=
  let s := (List.range 7).foldl (fun s d => s.setReg (pwrDomAt d) (domWord s d)) s
  s.setReg pwrPhasesAt (phasesWord s)

theorem pwrDom_ne_phases (d : Nat) : pwrDomAt d ≠ pwrPhasesAt := by
  unfold pwrDomAt pwrPhasesAt
  omega

theorem reg_foldl_domWord (s : State) : let t := (List.range 7).foldl (fun s d => s.setReg (pwrDomAt d) (domWord s d)) s
    t = { s with regs := t.regs } ∧ ∀ d < 7, t.reg (pwrDomAt d) = domWord t d := by
  refine ⟨foldl_inv (fun t : State => t = { s with regs := t.regs }) _ _ s rfl fun t d _ h => ?_, fun d hd => ?_⟩
  · rw [h]
    rfl
  · refine foldl_sets (fun d (t : State) => t.reg (pwrDomAt d) = domWord t d) _ _ s (fun t d => ?_) (fun t k c h => ?_) d (List.mem_range.2 hd)
    · exact (State.setReg_self ..).trans (congrFun (domWord_congr rfl) d).symm
    · by_cases hc : c = k
      · rw [hc]
        exact (State.setReg_self ..).trans (congrFun (domWord_congr rfl) k).symm
      · rw [State.setReg_reg, if_neg (by unfold pwrDomAt; omega), h]
        exact (congrFun (domWord_congr rfl) c).symm

theorem domainsWritten_facts (s : State) :
    let t := domainsWritten s
    t = { s with regs := t.regs } ∧ (∀ d < 7, t.reg (pwrDomAt d) = domWord t d) ∧ t.reg pwrPhasesAt = phasesWord t := by
  obtain ⟨hsame, hdom⟩ := reg_foldl_domWord s
  unfold domainsWritten
  generalize (List.range 7).foldl (fun s d => s.setReg (pwrDomAt d) (domWord s d)) s = u at *
  dsimp only
  refine ⟨by rw [hsame]; rfl, fun d hd => ?_, ?_⟩
  · rw [State.setReg_reg, if_neg (pwrDom_ne_phases d), hdom d hd]
    exact (congrFun (domWord_congr rfl) d).symm
  · exact (State.setReg_self ..).trans (phasesWord_congr rfl).symm

/-! ### What follows the readings (R444, R456, R460) -/

/-- The registers that take powers and energies. -/
def meterRegs : List Nat := [pwrPanelAt, pwrEnergyFreeAt, pwrEnergyAt 0, pwrEnergyAt 1, pwrEnergyAt 2, pwrEnergyAt 3]

/-- What is done with the readings leaves them, the instant of the read, and the domains' registers as they are. -/
structure MeterWork (s t : State) : Prop where
  same : t = { s with regs := t.regs, dies := t.dies, mrs := t.mrs, edges := t.edges, mgr := t.mgr }
  telNs : t.mgr.telNs = s.mgr.telNs
  regs : RegsBut meterRegs s t

theorem MeterWork.refl (s : State) : MeterWork s s := ⟨rfl, rfl, fun _ _ => rfl⟩

theorem MeterWork.trans (h : MeterWork s u) (h' : MeterWork u t) : MeterWork s t :=
  ⟨by rw [h'.same, h.same], h'.telNs.trans h.telNs, fun a ha => (h'.regs a ha).trans (h.regs a ha)⟩

theorem MeterWork.power (h : MeterWork s t) : t.power = s.power := by rw [h.same]

theorem meterWork_setReg (s : State) {a : Nat} (v : Nat) (ha : a ∈ meterRegs) : MeterWork s (s.setReg a v) :=
  ⟨rfl, rfl, fun b hb => by rw [State.setReg_reg, if_neg fun h : b = a => hb (h ▸ ha)]⟩

theorem meterWork_second (s : State) (p n : Manager → Nat) :
    MeterWork s (s.modMgr fun m => { m with secPower := p m, secSamples := n m }) :=
  ⟨rfl, rfl, fun a _ => reg_modMgr s _ a⟩

theorem meterWork_setField (s : State) (hi lo v : Nat) : MeterWork s (s.setField pwrPanelAt hi lo v) :=
  meterWork_setReg s _ List.mem_cons_self

theorem meterWork_notePanel (s : State) (T : Nat) : MeterWork s (notePanel s T) := by
  unfold notePanel
  dsimp only
  split
  · exact (((meterWork_second s _ _).trans (meterWork_setField ..)).trans (meterWork_setField ..)).trans
      (meterWork_second ..)
  · exact (meterWork_second s _ _).trans (meterWork_setField ..)

/-- Every compute die takes a calibrated power, and its interval ends. -/
def diesCalibrated (s : State) (p : Nat → Nat) : State :=
  (List.range 256).foldl (fun s d => s.modDie d fun x => { x with powerMw := p d, microJ := 0 }) s

/-- Every stack takes a calibrated power, and its interval ends. -/
def stacksCalibrated (s : State) (p : Nat → Nat) : State :=
  (List.range 128).foldl (fun s n => s.modMr n fun x => { x with powerMw := p n, requests := 0 }) s

/-- Every edge die takes a calibrated power. -/
def edgesCalibrated (s : State) (p : Nat → Nat) : State :=
  (List.range 16).foldl (fun s e => s.modEdge e fun x => { x with powerMw := p e }) s

theorem calibrateAll_eq (s : State) : ∃ p p' p'', calibrateAll s = edgesCalibrated (stacksCalibrated (diesCalibrated s p) p') p'' :=
  ⟨fun d => calibrate (domainMw s 0) (dieEst s d) ((List.range 256).map (dieEst s)).sum,
    fun n => calibrate (domainMw s 1 + domainMw s 2 + domainMw s 3) (stackEst s n) ((List.range 128).map (stackEst s)).sum,
    fun e => calibrate (domainMw s 4) (edgeEst s e) ((List.range 16).map (edgeEst s)).sum, rfl⟩

theorem diesCalibrated_facts (s : State) (p : Nat → Nat) :
    let t := diesCalibrated s p
    t = { s with dies := t.dies } ∧ ∀ d < 256, (t.die d).microJ = 0 := by
  refine ⟨foldl_inv (fun t : State => t = { s with dies := t.dies }) _ _ s rfl fun t d _ h => by rw [h]; rfl, fun d hd => ?_⟩
  refine foldl_sets (fun d (t : State) => (t.die d).microJ = 0) _ _ s (fun t d => ?_) (fun t k c h => ?_) d (List.mem_range.2 hd)
  · exact congrArg Die.microJ (State.setDie_self t d _)
  · refine (congrArg Die.microJ (State.setDie_die t k c _)).trans ?_
    split
    · rfl
    · exact h

theorem stacksCalibrated_facts (s : State) (p : Nat → Nat) :
    let t := stacksCalibrated s p
    t = { s with mrs := t.mrs } ∧ ∀ n < 128, (t.mr n).requests = 0 := by
  refine ⟨foldl_inv (fun t : State => t = { s with mrs := t.mrs }) _ _ s rfl fun t n _ h => by rw [h]; rfl, fun n hn => ?_⟩
  refine foldl_sets (fun n (t : State) => (t.mr n).requests = 0) _ _ s (fun t n => ?_) (fun t k c h => ?_) n (List.mem_range.2 hn)
  · exact congrArg Stack.requests (State.setMr_self t n _)
  · refine (congrArg Stack.requests (State.setMr_mr t k c _)).trans ?_
    split
    · rfl
    · exact h

theorem edgesCalibrated_facts (s : State) (p : Nat → Nat) : edgesCalibrated s p = { s with edges := (edgesCalibrated s p).edges } :=
  foldl_inv (fun t : State => t = { s with edges := t.edges }) _ _ s rfl fun t e _ h => by
    rw [h]
    rfl

theorem calibrateAll_facts (s : State) :
    let t := calibrateAll s
    MeterWork s t ∧ (∀ d < 256, (t.die d).microJ = 0) ∧ ∀ n < 128, (t.mr n).requests = 0 := by
  obtain ⟨p, p', p'', heq⟩ := calibrateAll_eq s
  obtain ⟨hdies, hmicro⟩ := diesCalibrated_facts s p
  obtain ⟨hmrs, hrequests⟩ := stacksCalibrated_facts (diesCalibrated s p) p'
  have hedges := edgesCalibrated_facts (stacksCalibrated (diesCalibrated s p) p') p''
  rw [heq]
  generalize edgesCalibrated (stacksCalibrated (diesCalibrated s p) p') p'' = t at *
  generalize stacksCalibrated (diesCalibrated s p) p' = u at *
  generalize diesCalibrated s p = v at *
  have hall : t = { s with dies := t.dies, mrs := t.mrs, edges := t.edges } := by rw [hedges, hmrs, hdies]
  refine ⟨⟨?_, ?_, fun a _ => ?_⟩, fun d hd => ?_, fun n hn => ?_⟩
  · rw [hall]
  · rw [hall]
  · rw [hall]
    rfl
  · rw [hedges, hmrs]
    exact hmicro d hd
  · rw [hedges]
    exact hrequests n hn

theorem pwrEnergy_mem_meterRegs {q : Nat} (h : q < 4) : pwrEnergyAt q ∈ meterRegs := by
  interval_cases q <;> simp [meterRegs]

theorem divideEnergy_facts (s : State) : divideEnergy s = { s with regs := (divideEnergy s).regs } ∧ RegsBut meterRegs s (divideEnergy s) := by
  unfold divideEnergy
  dsimp only
  refine foldl_inv (fun t : State => t = { s with regs := t.regs } ∧ RegsBut meterRegs s t) _ _ s ⟨rfl, fun _ _ => rfl⟩ fun t q _ h => ?_
  obtain ⟨hsame, hregs⟩ := h
  refine ⟨by rw [hsame]; rfl, fun a ha => ?_⟩
  rw [State.setReg_reg, if_neg ?_, hregs a ha]
  rintro rfl
  refine ha ?_
  split
  · exact pwrEnergy_mem_meterRegs (partQ_lt _)
  · simp [meterRegs]

/-! ### TELEMETRY_READ -/

/-- The supplies' powers hold what was read. -/
def powersNoted (s : State) : State := modPower s fun p => { p with coreMw := domainMw s 0, otherMw := panelMw s - domainMw s 0 }

/-- The clock has come to the instant of the read. -/
def telemetryAt (s : State) : State := (advMgr s (nextMilli s)).modMgr fun m => { m with telNs := nextMilli s }

theorem exec_telemetryRead (rs : List Reading) (ha : (activeMgr s).isSome = true) (hstep : 3 < s.mgr.step) : exec (.telemetryRead rs) s =
    .next (divideEnergy (calibrateAll (notePanel (powersNoted (domainsWritten (devicesRead (telemetryAt s) rs))) (nextMilli s)))) := by
  show execTelemetryRead rs s = _
  unfold execTelemetryRead
  rw [if_pos ⟨ha, hstep⟩]
  rfl

theorem nextMilli_facts (s : State) : nextMilli s % 1000000 = 0 ∧ mgrNs s < nextMilli s + 1000000 ∧ nextMilli s ≤ mgrNs s + 1000000 ∧
    (s.mgr.telNs < mgrNs s / 1000000 * 1000000 → nextMilli s ≤ mgrNs s) := by
  unfold nextMilli
  dsimp only
  split <;> omega

/-- Time has passed. -/
def Elapsed (s t : State) : Prop := t = { s with fab := t.fab, keepers := t.keepers, mgr := t.mgr }

theorem elapsed_advMgr (s : State) (T : Nat) : Elapsed s (advMgr s T) := advMgr_eq s T

theorem Elapsed.modMgr (h : Elapsed s t) (f : Manager → Manager) : Elapsed s (t.modMgr f) := by
  unfold Elapsed at *
  rw [h]
  rfl

theorem fab_modMgr (s : State) (f : Manager → Manager) : (s.modMgr f).fab = s.fab := rfl

theorem telNs_telemetryAt (s : State) : (telemetryAt s).mgr.telNs = nextMilli s := by
  unfold telemetryAt
  rw [State.modMgr_mgr]

theorem Elapsed.last (h : Elapsed s t) : lastReading t = lastReading s := lastReading_congr (by rw [h])

theorem MeterWork.of_regs (h : t = { s with regs := t.regs }) (hregs : RegsBut meterRegs s t) : MeterWork s t :=
  ⟨by rw [h], by rw [h], hregs⟩

theorem die_of_regs (h : t = { s with regs := t.regs }) (k : Nat) : t.die k = s.die k := by
  rw [h]
  rfl

theorem mr_of_regs (h : t = { s with regs := t.regs }) (k : Nat) : t.mr k = s.mr k := by
  rw [h]
  rfl

/-- The powers are noted, the estimates calibrated and the energy divided. -/
theorem metered_facts (s : State) (T : Nat) :
    let t := divideEnergy (calibrateAll (notePanel s T))
    MeterWork s t ∧ (∀ d < 256, (t.die d).microJ = 0) ∧ ∀ n < 128, (t.mr n).requests = 0 := by
  obtain ⟨hcal, hmicro, hrequests⟩ := calibrateAll_facts (notePanel s T)
  obtain ⟨hdiv, hregs⟩ := divideEnergy_facts (calibrateAll (notePanel s T))
  refine ⟨((meterWork_notePanel s T).trans hcal).trans (.of_regs hdiv hregs), fun d hd => ?_, fun n hn => ?_⟩
  · rw [die_of_regs hdiv, hmicro d hd]
  · rw [mr_of_regs hdiv, hrequests n hn]

theorem readings_powersNoted (s : State) : (powersNoted s).power.readings = s.power.readings := rfl

theorem reg_powersNoted (s : State) (a : Nat) : (powersNoted s).reg a = s.reg a := rfl

theorem pwrDom_not_mem_meterRegs {d : Nat} (hd : d < 7) : pwrDomAt d ∉ meterRegs := by
  interval_cases d <;> decide

theorem pwrPhases_not_mem_meterRegs : pwrPhasesAt ∉ meterRegs := by decide

/-- What is derived from the readings holds in the registers. -/
structure Displayed (s : State) : Prop where
  dom : ∀ d < 7, s.reg (pwrDomAt d) = domWord s d
  phases : s.reg pwrPhasesAt = phasesWord s

theorem Displayed.metered (h : Displayed s) (hm : MeterWork (powersNoted s) t) : Displayed t := by
  have hreadings : t.power.readings = s.power.readings := by rw [hm.power, readings_powersNoted]
  refine ⟨fun d hd => ?_, ?_⟩
  · rw [hm.regs _ (pwrDom_not_mem_meterRegs hd), reg_powersNoted, domWord_congr hreadings, h.dom d hd]
  · rw [hm.regs _ pwrPhases_not_mem_meterRegs, reg_powersNoted, phasesWord_congr hreadings, h.phases]

/-- The readings, in the state once they have been taken and displayed. -/
structure Measured (rs : List Reading) (s t : State) : Prop where
  same : t = { s with fab := t.fab, regs := t.regs, keepers := t.keepers, mgr := t.mgr, power := t.power }
  fab : t.fab = (advMgr s (nextMilli s)).fab
  telNs : t.mgr.telNs = nextMilli s
  last : ∀ dev < 22, lastReading t dev = nextReading (rs.find? fun r => r.dev == dev) (lastReading s dev)
  displayed : Displayed t

theorem Elapsed.measured {rs : List Reading} {v w : State} (h : Elapsed s v) (hfab : v.fab = (advMgr s (nextMilli s)).fab)
    (htel : v.mgr.telNs = nextMilli s) (hread : u = { v with regs := u.regs, power := u.power })
    (hlast : ∀ dev < 22, lastReading u dev = nextReading (rs.find? fun r => r.dev == dev) (lastReading v dev))
    (hwritten : w = { u with regs := w.regs }) (hshown : Displayed w) : Measured rs s w := by
  rw [h.last] at hlast
  refine ⟨?_, ?_, ?_, fun dev hdev => ?_, hshown⟩
  · rw [hwritten, hread, h]
  · rw [hwritten, hread, ← hfab]
  · rw [hwritten, hread, ← htel]
  · rw [lastReading_congr (show w.power.readings = u.power.readings by rw [hwritten]), hlast dev hdev]

theorem measured_read (s : State) (rs : List Reading) : Measured rs s (domainsWritten (devicesRead (telemetryAt s) rs)) := by
  obtain ⟨hread, hlast⟩ := devicesRead_facts (telemetryAt s) rs
  obtain ⟨hwritten, hdom, hphases⟩ := domainsWritten_facts (devicesRead (telemetryAt s) rs)
  have hat : Elapsed s (telemetryAt s) := (elapsed_advMgr ..).modMgr _
  exact hat.measured (fab_modMgr ..) (telNs_telemetryAt s) hread hlast hwritten ⟨hdom, hphases⟩

/-- What a read of the telemetry leaves. -/
structure TelemetryRead (rs : List Reading) (s t : State) : Prop where
  same : t = { s with
    fab := t.fab, regs := t.regs, keepers := t.keepers, dies := t.dies, mrs := t.mrs, edges := t.edges, mgr := t.mgr, power := t.power }
  fab : t.fab = (advMgr s (nextMilli s)).fab
  telNs : t.mgr.telNs = nextMilli s
  last : ∀ dev < 22, lastReading t dev = nextReading (rs.find? fun r => r.dev == dev) (lastReading s dev)
  displayed : Displayed t
  core : t.power.coreMw = domainMw t 0
  other : t.power.otherMw = panelMw t - domainMw t 0

theorem Measured.metered {rs : List Reading} (h : Measured rs s u) (hm : MeterWork (powersNoted u) t) : TelemetryRead rs s t := by
  have hreadings : t.power.readings = u.power.readings := by rw [hm.power, readings_powersNoted]
  have hnoted : powersNoted u = { u with power := (powersNoted u).power } := rfl
  refine ⟨?_, ?_, ?_, fun dev hdev => ?_, h.displayed.metered hm, ?_, ?_⟩
  · rw [hm.same, hnoted, h.same]
  · rw [hm.same, ← h.fab]
    rfl
  · rw [hm.telNs, ← h.telNs]
    rfl
  · rw [lastReading_congr hreadings, h.last dev hdev]
  · rw [hm.power, domainMw_congr hreadings]
    rfl
  · rw [hm.power, panelMw_congr hreadings, domainMw_congr hreadings]
    rfl

theorem goes_telemetryRead (rs : List Reading) (ha : (activeMgr s).isSome = true) (hstep : 3 < s.mgr.step) : Goes (.telemetryRead rs) s fun t =>
    TelemetryRead rs s t ∧ (∀ d < 256, (t.die d).microJ = 0) ∧ ∀ n < 128, (t.mr n).requests = 0 := by
  obtain ⟨hmeter, hmicro, hrequests⟩ := metered_facts (powersNoted (domainsWritten (devicesRead (telemetryAt s) rs))) (nextMilli s)
  exact ⟨_, exec_telemetryRead rs ha hstep, (measured_read s rs).metered hmeter, hmicro, hrequests⟩

end Sys2Proof.Machine
end

section
/-! Sensors, alerts and the supply: O55. -/

namespace Sys2Proof.Machine

variable {s t : State}

theorem goes_edgeTempSample (e : EdgeId) (c : Fin 256) (ha : (activeMgr s).isSome = true) :
    let v := s.modEdge e fun x => { x with celsius := c }
    (c.val < 110 ∨ (s.edge e).state = 2 → Goes (.edgeTempSample e c) s fun t => t = v) ∧
    (110 ≤ c.val → (s.edge e).state ≠ 2 → Goes (.edgeTempSample e c) s fun t => t = withdrawEdge v e ∧ (t.edge e).state = 2 ∧
      (t.rtr (edgeSite e)).running = false ∧ (∀ k < 4, (t.port (4 * e + k)).state ≠ 2) ∧ t.reg pmDmapGenAt = s.reg pmDmapGenAt + 1 ∧
      ∀ b, managerEdge b = e → (t.inst b).down = true ∧ t.mgr.active ≠ some b) := by
  have hexec := exec_edgeTempSample e c ha
  refine ⟨fun h => ⟨_, hexec, if_neg fun h' => ?_⟩, fun hc he => ⟨_, hexec, ?_⟩⟩
  · rcases h with h | h
    · omega
    · exact h'.2 h
  · obtain ⟨hstate, hrtr, hports, hgen, hinst⟩ := withdrawEdge_facts (s.modEdge e fun x => { x with celsius := c }) e
    rw [if_pos ⟨hc, he⟩]
    exact ⟨rfl, hstate, hrtr, hports, hgen.trans (congrArg (· + 1) (reg_modEdge ..)), hinst⟩

theorem goes_thermalFit (ha : (activeMgr s).isSome = true) :
    Goes .thermalFit s fun t => t = { s with mgr := { s.mgr with fitN := s.mgr.fitN + 1 } } := by
  refine ⟨_, ?_, rfl⟩
  show execThermalFit s = _
  unfold execThermalFit when_
  rw [if_pos ha]
  rfl

theorem exec_fdaAssert_again (g : Fin 16) (h : bit s.power.fda g = true) : exec (.fdaAssert g) s = .next s := by
  show execFdaAssert g s = _
  unfold execFdaAssert
  rw [if_pos h]

theorem exec_fdaDeassert_again (g : Fin 16) (h : bit s.power.fda g = false) : exec (.fdaDeassert g) s = .next s := by
  show execFdaDeassert g s = _
  unfold execFdaDeassert
  rw [if_neg (by simp [h])]

theorem goes_fdaAssert_further (g : Fin 16) (h : bit s.power.fda g = false) (h0 : s.power.fda ≠ 0) :
    Goes (.fdaAssert g) s fun t => t = { s with power := { s.power with fda := s.power.fda ||| 2 ^ g.val } } :=
  ⟨_, exec_fdaAssert g h, if_neg h0⟩

theorem goes_fdaDeassert_further (g : Fin 16) (h : bit s.power.fda g = true) (hne : s.power.fda ≠ 2 ^ g.val) :
    Goes (.fdaDeassert g) s fun t => t = { s with power := { s.power with fda := s.power.fda ^^^ 2 ^ g.val } } :=
  ⟨_, exec_fdaDeassert g h, if_neg hne⟩

theorem nextReading_none {r : Option Reading} {old : Nat × Nat × Nat × Nat} (h : ∀ x, r = some x → x.answer = none) :
    nextReading r old = (old.1, old.2.1, old.2.2.1, old.2.2.2 + 1) := by
  match r, h with
  | none, _ => rfl
  | some ⟨_, none, _⟩, _ => rfl
  | some ⟨_, some _, _⟩, h => exact nomatch h _ rfl

theorem nextReading_some {r : Reading} {mv ma : Nat} (old : Nat × Nat × Nat × Nat) (h : r.answer = some (mv, ma)) :
    nextReading (some r) old = (mv, ma, r.phases, 0) := by
  obtain ⟨d, a, k⟩ := r
  obtain rfl : a = some (mv, ma) := h
  rfl

theorem TelemetryRead.sameMem {rs : List Reading} (h : TelemetryRead rs s t) : SameMem s t := fun a => by
  rw [h.same]

/-- Settles O55: each command by the lemma that says what it does. -/
theorem sensorsAlertsAndSupply : Obligations.SensorsAlertsAndSupply := by
  unfold Obligations.SensorsAlertsAndSupply
  intro s
  refine ⟨fun n c hgood => goes_mrTempSample n c hgood, fun d c hgood => ?_, fun e c ha => goes_edgeTempSample e c ha,
    fun d e hgood => goes_dieEnergyLatch d e hgood, fun ha => ⟨fun inlet outlet => goes_coolantRead inlet outlet ha,
      fun hok => goes_inletLost ha hok, goes_thermalFit ha, fun rs hstep => ?_⟩,
    fun g => ⟨fun h => ⟨s, exec_fdaAssert_again g h, rfl⟩, goes_fdaAssert_further g, goes_fdaAssert_first g,
      fun h => ⟨s, exec_fdaDeassert_again g h, rfl⟩, goes_fdaDeassert_further g, fun f => goes_fdaDeassert_last g⟩,
    fun f => goes_fdaLong, fun ha hfault => ⟨fun dom cause status hdom hstep => ?_, ?_⟩⟩
  · obtain ⟨t, hexec, hsample, hhot, hwarm, hcold⟩ := goes_dieTempSample d c hgood
    exact ⟨t, hexec, hsample.same, hsample.regs, hsample.noted, hsample.dies, hsample.rgns, hhot, hwarm, hcold⟩
  · obtain ⟨t, hexec, hread, hmicro, hrequests⟩ := goes_telemetryRead rs ha hstep
    obtain ⟨hwhole, hafter, hbefore, hbegun⟩ := nextMilli_facts s
    refine ⟨t, hexec, nextMilli s, hwhole, hafter, hbefore, hbegun, hread.telNs, hread.fab, hread.sameMem, hread.same,
      fun dev hdev => ⟨fun r mv ma hr hanswer => ?_, fun hr => ?_⟩, hread.displayed.dom, hread.displayed.phases, hread.core, hread.other,
      fun d => hmicro d d.isLt, fun n => hrequests n n.isLt⟩
    · rw [hread.last dev hdev, hr, nextReading_some _ hanswer]
    · rw [hread.last dev hdev, nextReading_none hr]
  · exact goes_domainFault dom cause status ha hfault hdom hstep
  · exact goes_ref25Loss ha hfault

end Sys2Proof.Machine
end

section
/-! The maintenance lock of the quarters (R410 to R412): who holds it, what blocks a request, and what taking it or giving it back changes. -/

namespace Sys2Proof.Machine

variable {s t u : State}

/-! ### Changes of the quarters of a mask -/

theorem mem_maskQuarters {m q : Nat} : q ∈ maskQuarters m ↔ q < 4 ∧ bit m q = true := by
  unfold maskQuarters
  rw [List.mem_filter, List.mem_range]

theorem maskQuarters_two_pow {q : Nat} (hq : q < 4) : maskQuarters (2 ^ q) = [q] := by
  interval_cases q <;> decide

theorem qtr_modQtr (s : State) (q k : Nat) (f : Quarter → Quarter) : (s.modQtr q f).qtr k = if k = q then f (s.qtr q) else s.qtr k :=
  State.setQtr_qtr ..

/-- Each quarter of the mask changes once, and nothing else does. -/
theorem modQuarters_facts (s : State) (m : Nat) (f : Quarter → Quarter) :
    let t := modQuarters s m f
    t = { s with quarters := t.quarters } ∧ ∀ q < 4, t.qtr q = if bit m q then f (s.qtr q) else s.qtr q := by
  have hnodup : (maskQuarters m).Nodup := List.nodup_range.filter _
  refine ⟨foldl_inv (fun t : State => t = { s with quarters := t.quarters }) _ _ s rfl fun t q _ h => by rw [h]; rfl, fun q hq => ?_⟩
  by_cases hbit : bit m q = true
  · rw [if_pos hbit]
    exact foldl_each (fun s q => s.modQtr q f) State.qtr (fun _ => f) (fun d k => d ≠ k) (fun t q => State.setQtr_self ..)
      (fun t q k hk => (qtr_modQtr ..).trans (if_neg hk)) _ s (hnodup.imp fun h => ⟨h, h.symm⟩) q (mem_maskQuarters.2 ⟨hq, hbit⟩)
  · rw [if_neg hbit]
    refine foldl_inv (fun t : State => t.qtr q = s.qtr q) _ _ s rfl fun t k hk h => ?_
    rw [qtr_modQtr, if_neg (fun heq : q = k => hbit (heq ▸ (mem_maskQuarters.1 hk).2)), h]

theorem reg_modQuarters (s : State) (m : Nat) (f : Quarter → Quarter) (a : Nat) : (modQuarters s m f).reg a = s.reg a := by
  rw [(modQuarters_facts s m f).1]
  rfl

theorem holdLock_eq (s : State) (code m : Nat) :
    holdLock s code m = modQuarters s m fun x => { x with held := x.held ||| 2 ^ (code - 1) } := rfl

/-! ### What blocks a request (R411) -/

theorem blockers_eq_zero {held code : Nat} :
    blockers held code = 0 ↔ ∀ i < 7, bit held i = true → i + 1 ∈ compatibleWith code := by
  unfold blockers
  rw [List.sum_eq_zero_iff]
  simp only [List.mem_map, List.mem_range, forall_exists_index, and_imp, forall_apply_eq_imp_iff₂]
  refine forall₂_congr fun i _ => ?_
  cases bit held i <;> simp

theorem foldl_or_eq_zero {f : Nat → Nat} (l : List Nat) (a : Nat) :
    l.foldl (fun acc q => acc ||| f q) a = 0 ↔ a = 0 ∧ ∀ q ∈ l, f q = 0 := by
  induction l generalizing a with
  | nil => simp
  | cons x l ih => rw [List.foldl_cons, ih, Nat.or_eq_zero_iff, List.forall_mem_cons, and_assoc]

theorem blockersIn_eq_zero (s : State) (r : LockReq) : blockersIn s r = 0 ↔
    ∀ q ∈ maskQuarters r.qmask, ∀ i < 7, bit (s.qtr q).held i = true → i + 1 ∈ compatibleWith r.code := by
  unfold blockersIn
  rw [foldl_or_eq_zero]
  simp only [true_and, blockers_eq_zero]

end Sys2Proof.Machine
end

section
/-! Patrol scrub (R190, R201, R202). -/

namespace Sys2Proof.Machine

variable {s t u : State}

theorem stackQuarter_lt (n : StackId) : stackQuarter n < 4 := by
  have hn := n.isLt
  unfold stackQuarter quarterOfXY stackX stackY
  split <;> omega

/-! ### A block is read -/

theorem ReadWork.fab (h : ReadWork s t) : t.fab = s.fab := by rw [h.1]

theorem readWork_bump (s : State) (a : Nat) : ReadWork s (s.bump a) := (blockWork_bump (n := 0) a).readWork

theorem readWork_scrubBlock (s : State) (n beta : Nat) (e1 e2 c1 c2 : Ecc) : ReadWork s (scrubBlock s n beta e1 e2 c1 c2) := by
  have hlost (t : State) (cause : Nat) : ReadWork t (logBlock (t.bump (mrScrubUncorrCntAt n)) n cause beta) := readWork_of_regs rfl
  have hfirst := (blockWork_noteEcc s n beta e1).readWork
  have hsecond := (hfirst.trans (readWork_bump _ (mrCheckRereadCntAt n))).trans (blockWork_noteEcc _ n beta e2).readWork
  unfold scrubBlock
  dsimp only
  split
  · exact hfirst
  · generalize noteEcc ((noteEcc s n beta e1).bump (mrCheckRereadCntAt n)) n beta e2 = v at *
    split
    · exact hsecond
    · split
      · next m so2 _ =>
        split
        · exact hsecond.trans (hlost ..)
        · have hcopy := hsecond.trans (blockWork_readTwice v m (so2 / 1024) c1 c2).readWork
          generalize readTwice v m (so2 / 1024) c1 c2 = r at *
          split
          · exact (hcopy.trans (readWork_of_regs rfl)).trans (readWork_bump ..)
          · exact hcopy.trans (hlost ..)
      · exact hsecond.trans (hlost ..)

/-! ### The scrub moves on -/

/-- What the repairs of a stack's rows leave: the clock, and the register of its scrub. -/
def RowWork (n : Nat) (s t : State) : Prop := t.fab = s.fab ∧ t.reg (mrScrubStatAt n) = s.reg (mrScrubStatAt n)

theorem rowWork_repairRow (n : Nat) (s : State) (k : Nat) : RowWork n s (repairRow n s k) := by
  have hppr : mrScrubStatAt n ≠ mrPprCntAt n := by unfold mrScrubStatAt mrPprCntAt; omega
  have hexhaust : mrScrubStatAt n ≠ mrPprExhaustCntAt n := by unfold mrScrubStatAt mrPprExhaustCntAt; omega
  unfold repairRow
  dsimp only
  split
  · exact ⟨rfl, reg_bump_ne _ hppr⟩
  · exact ⟨rfl, reg_bump_ne _ hexhaust⟩

theorem rowWork_softRepair (s : State) (n : Nat) : RowWork n s (softRepair s n) :=
  foldl_inv (RowWork n s) _ _ s ⟨rfl, rfl⟩ fun t k _ h => by
    obtain ⟨hfab, hreg⟩ := rowWork_repairRow n t k
    exact ⟨hfab.trans h.1, hreg.trans h.2⟩

theorem bits_next {v next : Nat} (h : next < 2 ^ 26) :
    bits (v - bits v 25 0 + next) 25 0 = next ∧ bits (v - bits v 25 0 + next) 63 32 = bits v 63 32 := by
  unfold bits
  constructor <;> omega

theorem scrubEnd_le : scrubEnd ≤ 2 ^ 26 := by decide

theorem scrubNext_facts (s : State) (n : Nat) :
    let t := scrubNext s n
    let x := s.reg (mrScrubStatAt n)
    let y := t.reg (mrScrubStatAt n)
    t.fab = s.fab ∧
    (bits x 25 0 + 1 < scrubEnd → bits y 25 0 = bits x 25 0 + 1 ∧ bits y 63 32 = bits x 63 32) ∧
    (scrubEnd ≤ bits x 25 0 + 1 → bits y 25 0 = 0 ∧ (t.mr n).rowErrs = [] ∧ bits y 63 32 = (bits x 63 32 + 1) % 2 ^ 32) := by
  obtain ⟨hfab, -⟩ := rowWork_softRepair s n
  unfold scrubNext
  dsimp only
  split
  · next hend =>
    refine ⟨hfab, fun h => by omega, fun _ => ?_⟩
    rw [reg_modMr, State.setReg_self]
    refine ⟨?_, congrArg Stack.rowErrs (State.setMr_self ..), ?_⟩
    · unfold bits
      omega
    · unfold bits
      omega
  · next hmore =>
    refine ⟨hfab, fun _ => ?_, fun h => by omega⟩
    rw [State.setReg_self]
    exact bits_next (by have := scrubEnd_le; omega)

/-! ### SCRUB_READ -/

/-- May scrub read the next block of stack n? -/
def ScrubRuns (s : State) (n : StackId) : Prop :=
  bit (s.qtr (stackQuarter n)).held 0 = true ∧ (s.mr n).state = 2 ∧ s.regField (mrScrubCtlAt n) 7 0 ≠ 0 ∧
  sliceFree (s.mr n) (bits (s.reg (mrScrubStatAt n)) 25 0) 3 = true

/-- The quarter's pass has ended: the lock is given back, and asked for again. -/
def passEnded (s : State) (q : Nat) : State := (releaseLock s 1 (2 ^ q)).modQtr q fun x => { x with scrubReq := some s.fab }

theorem passEnded_facts (s : State) {q : Nat} (hq : q < 4) :
    let t := passEnded s q
    t = { s with quarters := t.quarters } ∧ OnlyQtr q s t ∧ t.qtr q = { s.qtr q with held := (s.qtr q).held &&& 126, scrubReq := some s.fab } := by
  have heq : passEnded s q = (s.modQtr q fun x => { x with held := x.held &&& 126 }).modQtr q fun x => { x with scrubReq := some s.fab } := by
    unfold passEnded releaseLock
    rw [maskQuarters_two_pow hq]
    rfl
  obtain ⟨hsame, honly, hself⟩ := modQtr_only s q fun x => { x with held := x.held &&& 126 }
  rw [heq]
  refine ⟨rfl, fun k hk => ?_, ?_⟩
  · rw [qtr_modQtr, if_neg hk, honly k hk]
  · rw [qtr_modQtr, if_pos rfl, hself]

theorem exec_scrubRead (n : StackId) (e1 e2 c1 c2 : Ecc) (h : ScrubRuns s n) :
    let w := scrubNext (scrubBlock s n (bits (s.reg (mrScrubStatAt n)) 25 0) e1 e2 c1 c2) n
    exec (.scrubRead n e1 e2 c1 c2) s = .next (if scrubPassed w (stackQuarter n) then passEnded w (stackQuarter n) else w) := by
  show execScrubRead n e1 e2 c1 c2 s = _
  unfold execScrubRead
  exact if_pos h

theorem exec_scrubRead_idle (n : StackId) (e1 e2 c1 c2 : Ecc) (h : ¬ScrubRuns s n) : exec (.scrubRead n e1 e2 c1 c2) s = .next s := by
  show execScrubRead n e1 e2 c1 c2 s = _
  unfold execScrubRead
  exact if_neg h

theorem goes_scrubRead (n : StackId) (e1 e2 c1 c2 : Ecc) (h : ScrubRuns s n) :
    let q := stackQuarter n
    let v := scrubBlock s n (bits (s.reg (mrScrubStatAt n)) 25 0) e1 e2 c1 c2
    Goes (.scrubRead n e1 e2 c1 c2) s fun t => ∃ w, w = scrubNext v n ∧
      (bits (v.reg (mrScrubStatAt n)) 25 0 + 1 < scrubEnd → bits (w.reg (mrScrubStatAt n)) 25 0 = bits (v.reg (mrScrubStatAt n)) 25 0 + 1 ∧
        bits (w.reg (mrScrubStatAt n)) 63 32 = bits (v.reg (mrScrubStatAt n)) 63 32) ∧
      (scrubEnd ≤ bits (v.reg (mrScrubStatAt n)) 25 0 + 1 → bits (w.reg (mrScrubStatAt n)) 25 0 = 0 ∧ (w.mr n).rowErrs = [] ∧
        bits (w.reg (mrScrubStatAt n)) 63 32 = (bits (v.reg (mrScrubStatAt n)) 63 32 + 1) % 2 ^ 32) ∧
      (scrubPassed w q = false → t = w) ∧
      (scrubPassed w q = true → t = { w with quarters := t.quarters } ∧ OnlyQtr q w t ∧
        t.qtr q = { w.qtr q with held := (w.qtr q).held &&& 126, scrubReq := some s.fab }) := by
  intro q v
  obtain ⟨hfab, hmore, hend⟩ := scrubNext_facts v n
  have hfab : (scrubNext v n).fab = s.fab := hfab.trans (readWork_scrubBlock ..).fab
  refine ⟨_, exec_scrubRead n e1 e2 c1 c2 h, scrubNext v n, rfl, hmore, hend, fun hp => ?_, fun hp => ?_⟩
  · exact if_neg (by rw [hp]; exact Bool.false_ne_true)
  · rw [if_pos hp, ← hfab]
    exact passEnded_facts _ (stackQuarter_lt n)

end Sys2Proof.Machine
end

section
/-! Requests for the maintenance lock: the scrub's, and a host's or the operator's through a mailbox (R201, R412, R414). -/

namespace Sys2Proof.Machine

variable {s t u : State}

/-! ### SCRUB_LOCK_RETRY (R201, R408) -/

/-- The quarter is dark or scrubs nothing: no grant is asked for. -/
def ScrubOff (s : State) (q : QuarterId) : Prop :=
  let x := s.qtr q
  x.pstate = 3 ∨ (x.pmoving = true ∧ x.pstage = 3) ∨ x.svc = 0 ∨ ∀ n ∈ quarterStacks q, s.regField (mrScrubCtlAt n) 7 0 = 0

theorem locks_advFab (s : State) (f : Nat) : (advFab s f).mgr.locks = s.mgr.locks := by
  unfold advFab slewMgr
  split
  · rfl
  · dsimp only
    split <;> rfl

theorem exec_scrubLockRetry (q : QuarterId) {f : Nat} (ha : (activeMgr s).isSome = true) (hreq : (s.qtr q).scrubReq = some f) :
    (ScrubOff s q → exec (.scrubLockRetry q) s = .next s) ∧
    (¬ScrubOff s q → exec (.scrubLockRetry q) s = .next (requestLock ((advFab s (f + 2000000)).modQtr q fun x => { x with scrubReq := none })
      { code := 1, qmask := 2 ^ q.val, arg := 0, reply := none })) := by
  obtain ⟨b, hb⟩ := Option.isSome_iff_exists.1 ha
  have hstop : ((quarterStacks q).all fun n => s.regField (mrScrubCtlAt n) 7 0 == 0) = true ↔
      ∀ n ∈ quarterStacks q, s.regField (mrScrubCtlAt n) 7 0 = 0 := by simp
  have hexec : exec (.scrubLockRetry q) s = execScrubLockRetry q s := rfl
  rw [hexec]
  unfold execScrubLockRetry
  rw [hb, hreq]
  dsimp only
  refine ⟨fun hoff => ?_, fun hon => ?_⟩
  · split
    · rfl
    · next hdark =>
      refine if_pos (hstop.2 ?_)
      rcases hoff with h | h | h | h
      · exact absurd (.inl h) hdark
      · exact absurd (.inr (.inl h)) hdark
      · exact absurd (.inr (.inr h)) hdark
      · exact h
  · rw [if_neg, if_neg fun h => hon (.inr (.inr (.inr (hstop.1 h))))]
    rintro (h | h | h)
    · exact hon (.inl h)
    · exact hon (.inr (.inl h))
    · exact hon (.inr (.inr (.inl h)))

theorem retried_facts {v : State} (q : QuarterId) (r : LockReq) (hadv : v = { s with fab := v.fab, keepers := v.keepers, mgr := v.mgr })
    (hlocks : v.mgr.locks = s.mgr.locks) :
    let t := requestLock (v.modQtr q fun x => { x with scrubReq := none }) r
    t.fab = v.fab ∧ OnlyQtr q s t ∧ t.qtr q = { s.qtr q with scrubReq := none } ∧
    t = { s with fab := t.fab, keepers := t.keepers, quarters := t.quarters, mgr := t.mgr } ∧ t.mgr.locks = s.mgr.locks ++ [r] := by
  have hqtr : ∀ k, v.qtr k = s.qtr k := fun k => by
    rw [hadv]
    rfl
  obtain ⟨hsame, honly, hself⟩ := modQtr_only v q fun x => { x with scrubReq := none }
  refine ⟨rfl, fun k hk => (honly k hk).trans (hqtr k), ?_, ?_, ?_⟩
  · rw [← hqtr]
    exact hself
  · rw [requestLock_facts]
    dsimp only
    rw [hadv]
    rfl
  · rw [← hlocks]
    rfl

theorem goes_scrubLockRetry (q : QuarterId) {f : Nat} (ha : (activeMgr s).isSome = true) (hreq : (s.qtr q).scrubReq = some f) (hon : ¬ScrubOff s q) :
    Goes (.scrubLockRetry q) s fun t => t.fab = max s.fab (f + 2000000) ∧ OnlyQtr q s t ∧ t.qtr q = { s.qtr q with scrubReq := none } ∧
      t = { s with fab := t.fab, keepers := t.keepers, quarters := t.quarters, mgr := t.mgr } ∧
      t.mgr.locks = s.mgr.locks ++ [{ code := 1, qmask := 2 ^ q.val, arg := 0, reply := none }] := by
  obtain ⟨hfab, hrest⟩ := retried_facts q { code := 1, qmask := 2 ^ q.val, arg := 0, reply := none } (advFab_eq s (f + 2000000)) (locks_advFab ..)
  exact ⟨_, (exec_scrubLockRetry q ha hreq).2 hon, hfab.trans (fab_advFab ..), hrest⟩

/-! ### Mailbox replies (R349, R350) -/

theorem toHost_eq (s : State) (q : Nat) (o : Output) :
    toHost s q o = { s with out := if (s.qtr q).pcieUp then o :: s.out else s.out } := by
  unfold toHost
  split <;> rfl

/-- The mailbox of quarter q, whose status register is at a, has been answered with tag and body. -/
def mbAnswered (s : State) (q a tag status : Nat) (body : Bytes) : State :=
  let s := toHost ((toHost s q (.reply q tag status body)).setReg a 2) q (.msix q 9)
  s.modQtr q fun x => { x with mb := none, mbDoneAt := some s.fab, repArea := body }

theorem mbReply_short {r : MbReq} (q status : Nat) {payload : Bytes} (hmb : (s.qtr q).mb = some r) (hshort : payload.length ≤ 4032) :
    mbReply s q status payload = mbAnswered s q (hstMbStatAt q) r.tag status (replyHeader r.tag payload.length status 0 0 ++ payload) := by
  have hlong : ¬payload.length > 4032 := by omega
  unfold mbReply
  rw [hmb]
  dsimp only
  rw [if_neg hlong, if_neg hlong, if_neg hlong, decide_eq_false hlong]
  rfl

theorem mbAnswered_eq (s : State) (q a tag status : Nat) (body : Bytes) :
    mbAnswered s q a tag status body =
      (({ s with out := if (s.qtr q).pcieUp then .msix q 9 :: .reply q tag status body :: s.out else s.out } : State).setReg a 2).modQtr q
        fun x => { x with mb := none, mbDoneAt := some s.fab, repArea := body } := by
  unfold mbAnswered
  rw [toHost_eq, toHost_eq]
  cases hup : (s.qtr q).pcieUp with
  | true =>
    rw [if_pos rfl, if_pos rfl]
    have hup' : ((State.setReg { s with out := .reply q tag status body :: s.out } a 2).qtr q).pcieUp = true := hup
    rw [if_pos hup']
    rfl
  | false =>
    rw [if_neg Bool.false_ne_true, if_neg Bool.false_ne_true]
    have hup' : ((State.setReg { s with out := s.out } a 2).qtr q).pcieUp = false := hup
    rw [hup', if_neg Bool.false_ne_true]
    rfl

theorem replies_mbReply {r : MbReq} (q status : Nat) {payload : Bytes} (hmb : (s.qtr q).mb = some r) (hshort : payload.length ≤ 4032) :
    Replies q r status payload s (mbReply s q status payload) := by
  rw [mbReply_short q status hmb hshort, mbAnswered_eq]
  refine ⟨rfl, fun k hk => ?_, State.setReg_self _ _ 2, fun a ha => ?_, State.setQtr_self .., rfl⟩
  · rw [qtr_modQtr, if_neg hk]
    rfl
  · exact (State.setReg_reg ..).trans (if_neg fun h => ha (by simp [h]))

theorem refuses_mbRefuse {r : MbReq} (q : Nat) {cause : Nat} (hmb : (s.qtr q).mb = some r) : Refuses q r cause s (mbRefuse s q cause) :=
  replies_mbReply q 2 hmb (by simp [leBytes])

theorem mb_of_mbOf {q op : Nat} {r : MbReq} (h : mbOf s q op = some r) : (s.qtr q).mb = some r := (Option.filter_eq_some_iff.1 h).1

/-! ### MAINT_REQUEST (R414, R432) -/

/-- The quarter that a retest needs, when the target is a die that may be retested. -/
def retestScope (s : State) (x : MaintReq) : Option Nat := if x.arg < 256 ∧ retestable s x.arg = true then some (2 ^ dieQuarter x.arg) else none

/-- The quarters that a recalibration needs, when the target is a link or a port. -/
def recalScope (_ : State) (x : MaintReq) : Option Nat := if recalMask x.arg = 0 then none else some (recalMask x.arg)

theorem exec_maintRequestRetest (q : QuarterId) (s : State) : exec (.maintRequestRetest q) s = maintRequest 2 retestScope q s := rfl

theorem exec_maintRequestRecal (q : QuarterId) (s : State) : exec (.maintRequestRecal q) s = maintRequest 5 recalScope q s := rfl

/-- A request asks for the lock of activity act. -/
def MaintAsks (act m : Nat) (q : QuarterId) (x : MaintReq) (s t : State) : Prop :=
  t = { s with mgr := t.mgr } ∧
  t.mgr = { s.mgr with locks := s.mgr.locks ++ [{ code := act, qmask := m, arg := x.arg, reply := some q.val }] }

theorem maintRequest_noService {act : Nat} {scope : State → MaintReq → Option Nat} {q : QuarterId} {r : MbReq} (hr : mbOf s q 3 = some r)
    (ha : (activeMgr s).isSome = true) (hact : (readMaint s q r).act = act ∨ (act = 2 ∧ (readMaint s q r).act ≠ 5)) (hno : noService s q = true) :
    maintRequest act scope q s = .next (mbRefuse s q 1) := by
  obtain ⟨b, hb⟩ := Option.isSome_iff_exists.1 ha
  unfold maintRequest
  rw [hr, hb]
  dsimp only
  rw [if_pos hact, if_pos hno]

theorem maintRequest_refused {act : Nat} {scope : State → MaintReq → Option Nat} {q : QuarterId} {r : MbReq} (hr : mbOf s q 3 = some r)
    (ha : (activeMgr s).isSome = true) (hact : (readMaint s q r).act = act ∨ (act = 2 ∧ (readMaint s q r).act ≠ 5)) (hyes : noService s q = false)
    (hbad : (readMaint s q r).stray = true ∨ (readMaint s q r).act ≠ act ∨
      ∀ m, scope s (readMaint s q r) = some m → m &&& (readMaint s q r).mask ≠ m) :
    maintRequest act scope q s = .next (mbRefuse s q 7) := by
  obtain ⟨b, hb⟩ := Option.isSome_iff_exists.1 ha
  unfold maintRequest
  rw [hr, hb]
  dsimp only
  rw [if_pos hact, hyes, if_neg Bool.false_ne_true]
  split
  · rfl
  · next hgood =>
    split
    · next m hm =>
      rcases hbad with h | h | h
      · exact absurd (.inl h) hgood
      · exact absurd (.inr h) hgood
      · exact if_pos (h m hm)
    · rfl

theorem maintRequest_asks {act m : Nat} {scope : State → MaintReq → Option Nat} {q : QuarterId} {r : MbReq} (hr : mbOf s q 3 = some r)
    (ha : (activeMgr s).isSome = true) (hyes : noService s q = false) (hact : (readMaint s q r).act = act)
    (hstray : (readMaint s q r).stray = false) (hscope : scope s (readMaint s q r) = some m) (hm : m &&& (readMaint s q r).mask = m) :
    maintRequest act scope q s = .next (requestLock s { code := act, qmask := m, arg := (readMaint s q r).arg, reply := some q.val }) := by
  obtain ⟨b, hb⟩ := Option.isSome_iff_exists.1 ha
  unfold maintRequest
  rw [hr, hb]
  dsimp only
  rw [if_pos (.inl hact), hyes, if_neg Bool.false_ne_true, if_neg, hscope]
  · exact if_neg fun h => h hm
  · rintro (h | h)
    · rw [hstray] at h
      exact Bool.false_ne_true h
    · exact h hact

/-- May the request have a retest (R432)? -/
def RetestGood (s : State) (x : MaintReq) : Prop :=
  x.act = 2 ∧ x.stray = false ∧ x.arg < 256 ∧ retestable s x.arg = true ∧ 2 ^ dieQuarter x.arg &&& x.mask = 2 ^ dieQuarter x.arg

/-- May the request have a recalibration (R212)? -/
def RecalGood (x : MaintReq) : Prop := x.stray = false ∧ recalMask x.arg ≠ 0 ∧ recalMask x.arg &&& x.mask = recalMask x.arg

theorem goes_maintRequestRetest {q : QuarterId} {r : MbReq} (hr : mbOf s q 3 = some r) (ha : (activeMgr s).isSome = true)
    (hact : (readMaint s q r).act ≠ 5) :
    let x := readMaint s q r
    (noService s q = true → Goes (.maintRequestRetest q) s (Refuses q r 1 s)) ∧
    (noService s q = false → (¬RetestGood s x → Goes (.maintRequestRetest q) s (Refuses q r 7 s)) ∧
      (RetestGood s x → Goes (.maintRequestRetest q) s (MaintAsks 2 (2 ^ dieQuarter x.arg) q x s))) := by
  have hmb := mb_of_mbOf hr
  have hexec := exec_maintRequestRetest q s
  refine ⟨fun hno => ⟨_, hexec.trans (maintRequest_noService hr ha (.inr ⟨rfl, hact⟩) hno), refuses_mbRefuse q hmb⟩, fun hyes =>
    ⟨fun hbad => ⟨_, hexec.trans (maintRequest_refused hr ha (.inr ⟨rfl, hact⟩) hyes ?_), refuses_mbRefuse q hmb⟩, fun hgood => ?_⟩⟩
  · by_cases hstray : (readMaint s q r).stray = true
    · exact .inl hstray
    · by_cases hact2 : (readMaint s q r).act = 2
      · refine .inr (.inr fun m hm hmask => hbad ?_)
        obtain ⟨⟨harg, hretest⟩, heq⟩ := Option.ite_none_right_eq_some.1 hm
        obtain rfl := Option.some.inj heq
        exact ⟨hact2, Bool.eq_false_iff.2 hstray, harg, hretest, hmask⟩
      · exact .inr (.inl hact2)
  · obtain ⟨hact2, hstray, harg, hretest, hmask⟩ := hgood
    exact ⟨_, hexec.trans (maintRequest_asks hr ha hyes hact2 hstray (if_pos ⟨harg, hretest⟩) hmask), rfl, rfl⟩

theorem goes_maintRequestRecal {q : QuarterId} {r : MbReq} (hr : mbOf s q 3 = some r) (ha : (activeMgr s).isSome = true)
    (hact : (readMaint s q r).act = 5) :
    let x := readMaint s q r
    (noService s q = true → Goes (.maintRequestRecal q) s (Refuses q r 1 s)) ∧
    (noService s q = false → (¬RecalGood x → Goes (.maintRequestRecal q) s (Refuses q r 7 s)) ∧
      (RecalGood x → Goes (.maintRequestRecal q) s (MaintAsks 5 (recalMask x.arg) q x s))) := by
  have hmb := mb_of_mbOf hr
  have hexec := exec_maintRequestRecal q s
  refine ⟨fun hno => ⟨_, hexec.trans (maintRequest_noService hr ha (.inl hact) hno), refuses_mbRefuse q hmb⟩, fun hyes =>
    ⟨fun hbad => ⟨_, hexec.trans (maintRequest_refused hr ha (.inl hact) hyes ?_), refuses_mbRefuse q hmb⟩, fun hgood => ?_⟩⟩
  · by_cases hstray : (readMaint s q r).stray = true
    · exact .inl hstray
    · refine .inr (.inr fun m hm hmask => hbad ?_)
      obtain ⟨hrecal, heq⟩ := Option.ite_none_left_eq_some.1 hm
      obtain rfl := Option.some.inj heq
      exact ⟨Bool.eq_false_iff.2 hstray, hrecal, hmask⟩
  · obtain ⟨hstray, hrecal, hmask⟩ := hgood
    exact ⟨_, hexec.trans (maintRequest_asks hr ha hyes hact hstray (if_neg hrecal) hmask), rfl, rfl⟩

end Sys2Proof.Machine
end

section
/-! The evaluation of the lock: grants and refusals (R410 to R412, R415). -/

namespace Sys2Proof.Machine

variable {s t u : State}

theorem exec_maintLockEvaluate (ha : (activeMgr s).isSome = true) :
    let v := releaseIdleScrub s
    let l := lockOrder v.mgr.locks
    exec .maintLockEvaluate s = .next (if l = [] then v
      else l.foldl decideLock ((advMgr v ((mgrNs v + 99) / 100 * 100)).modMgr fun m => { m with locks := [] })) := by
  obtain ⟨b, hb⟩ := Option.isSome_iff_exists.1 ha
  show execMaintLockEvaluate s = _
  unfold execMaintLockEvaluate
  rw [hb]
  dsimp only
  by_cases hl : lockOrder (releaseIdleScrub s).mgr.locks = []
  · rw [if_pos hl, if_pos (List.isEmpty_iff.2 hl)]
  · rw [if_neg hl, if_neg fun h => hl (List.isEmpty_iff.1 h)]

theorem goes_maintLockEvaluate (ha : (activeMgr s).isSome = true) :
    let v := releaseIdleScrub s
    (lockOrder v.mgr.locks = [] → Goes .maintLockEvaluate s fun t => t = v) ∧
    (lockOrder v.mgr.locks ≠ [] → Goes .maintLockEvaluate s fun t => ∃ T, T % 100 = 0 ∧ mgrNs v ≤ T ∧ T < mgrNs v + 100 ∧
      t = (lockOrder v.mgr.locks).foldl decideLock ((advMgr v T).modMgr fun m => { m with locks := [] })) := by
  refine ⟨fun h => ⟨_, exec_maintLockEvaluate ha, if_pos h⟩, fun h => ⟨_, exec_maintLockEvaluate ha, _, ?_, ?_, ?_, if_neg h⟩⟩ <;> omega

/-! ### A grant -/

theorem qtr_bump (s : State) (a k : Nat) : (s.bump a).qtr k = s.qtr k := rfl

theorem quarters_then_regs {v w : State} (hv : v = { s with quarters := v.quarters }) (hw : w = { v with regs := w.regs }) :
    w = { s with regs := w.regs, quarters := w.quarters } := by
  rw [hw, hv]

/-- A counter after the quarters: what both together change. -/
theorem counted_of_quarters {v : State} (hsame : v = { s with quarters := v.quarters }) (a : Nat) :
    v.bump a = { s with regs := (v.bump a).regs, quarters := (v.bump a).quarters } ∧ Counted a s (v.bump a) ∧ RegsBut [a] s (v.bump a) := by
  have hreg : ∀ b, v.reg b = s.reg b := fun b => by
    rw [hsame]
    rfl
  have hctr : v.ctr a = s.ctr a := by
    rw [hsame]
    rfl
  refine ⟨?_, ?_, fun b hb => (reg_bump_ne v fun h => hb (by simp [h])).trans (hreg b)⟩
  · exact quarters_then_regs hsame (bump_eq v a)
  · unfold Counted
    rw [ctr_bump_self, hctr]

theorem grant_facts (s : State) (r : LockReq) :
    let w := (holdLock s r.code r.qmask).bump pmMaintGrantCntAt
    w = { s with regs := w.regs, quarters := w.quarters } ∧ Counted pmMaintGrantCntAt s w ∧ RegsBut [pmMaintGrantCntAt] s w ∧
    ∀ q : QuarterId, w.qtr q = if bit r.qmask q then { s.qtr q with held := (s.qtr q).held ||| 2 ^ (r.code - 1) } else s.qtr q := by
  rw [holdLock_eq]
  obtain ⟨hsame, hqtr⟩ := modQuarters_facts s r.qmask fun x => { x with held := x.held ||| 2 ^ (r.code - 1) }
  obtain ⟨heq, hcounted, hregs⟩ := counted_of_quarters hsame pmMaintGrantCntAt
  exact ⟨heq, hcounted, hregs, fun q => (qtr_bump ..).trans (hqtr q q.isLt)⟩

theorem decideLock_granted {r : LockReq} (h : blockersIn s r = 0) :
    decideLock s r = beginActivity ((holdLock s r.code r.qmask).bump pmMaintGrantCntAt) r := if_pos h

/-! ### A refusal -/

theorem controllerEdge_le (q : Nat) : controllerEdge q ≤ 10 := by
  unfold controllerEdge
  match q with
  | 0 | 1 | 2 | 3 => decide
  | _ + 4 => exact Nat.zero_le _

/-- The registers of a refusal are no mailbox's, and not the one of an update. -/
theorem maintLast_ne (q : Nat) : pmMaintLastAt ≠ hstMbStatAt q ∧ pmMaintLastIdAt ≠ hstMbStatAt q := by
  have hedge := controllerEdge_le q
  unfold pmMaintLastAt pmMaintLastIdAt hstMbStatAt pmBlk managerArea hstBlk edgeArea
  omega

theorem maintConflictCnt_ne (q : Nat) : pmMaintConflictCntAt ≠ hstMbStatAt q := by
  have hedge := controllerEdge_le q
  unfold pmMaintConflictCntAt hstMbStatAt pmBlk managerArea hstBlk edgeArea
  omega

theorem recordConflict_facts (s : State) (r : LockReq) :
    let t := recordConflict s r
    Counted pmMaintConflictCntAt s t ∧ t.reg pmMaintLastAt = timeWord (mgrNs s) ∧
    t.reg pmMaintLastIdAt = 2 ^ 16 + r.qmask % 16 * 2 ^ 12 + blockersIn s r := by
  unfold recordConflict
  refine ⟨?_, ?_, State.setReg_self ..⟩
  · unfold Counted
    rw [ctr_setReg_ne _ _ (by decide), ctr_setReg_ne _ _ (by decide), ctr_bump_self]
  · rw [State.setReg_reg, if_neg (by decide), State.setReg_self]

/-- The register or counter at a is as it was. -/
def CellKept (a : Nat) (s t : State) : Prop := find? t.regs a = find? s.regs a

theorem CellKept.reg {a : Nat} (h : CellKept a s t) : t.reg a = s.reg a := by
  unfold State.reg
  rw [h]

theorem CellKept.ctr {a : Nat} (h : CellKept a s t) : t.ctr a = s.ctr a := by
  unfold State.ctr findD
  rw [h]

theorem cellKept_setReg (s : State) {a b : Nat} (v : Nat) (h : a ≠ b) : CellKept a s (s.setReg b v) := find?_putAt_ne _ _ h

theorem cellKept_modQuarters (s : State) (m : Nat) (f : Quarter → Quarter) (a : Nat) : CellKept a s (modQuarters s m f) := by
  unfold CellKept
  rw [(modQuarters_facts s m f).1]

theorem cellKept_mbReply_nil (s : State) {a q : Nat} (status : Nat) (h : a ≠ hstMbStatAt q) : CellKept a s (mbReply s q status []) := by
  cases hmb : (s.qtr q).mb with
  | none =>
    unfold mbReply
    rw [hmb]
    exact rfl
  | some r =>
    rw [mbReply_short q status hmb (by decide), mbAnswered_eq]
    exact find?_putAt_ne _ _ h

theorem cellKept_refuseActivity (s : State) (r : LockReq) {a : Nat} (hfw : a ≠ secFwStatAt) (hmb : ∀ q, a ≠ hstMbStatAt q) :
    CellKept a (recordConflict s r) (refuseActivity s r) := by
  unfold refuseActivity
  dsimp only
  split
  · exact cellKept_modQuarters ..
  · split <;> exact rfl
  · exact cellKept_setReg _ _ hfw
  · split
    · exact cellKept_mbReply_nil _ _ (hmb _)
    · exact rfl

theorem decideLock_refused {r : LockReq} (h : blockersIn s r ≠ 0) : decideLock s r = refuseActivity s r := if_neg h

theorem refuseActivity_facts (s : State) (r : LockReq) :
    let t := refuseActivity s r
    Counted pmMaintConflictCntAt s t ∧ t.reg pmMaintLastAt = timeWord (mgrNs s) ∧
    t.reg pmMaintLastIdAt = 2 ^ 16 + r.qmask % 16 * 2 ^ 12 + blockersIn s r := by
  obtain ⟨hcnt, hlast, hid⟩ := recordConflict_facts s r
  refine ⟨?_, ?_, ?_⟩
  · exact (cellKept_refuseActivity s r (by decide) maintConflictCnt_ne).ctr.trans hcnt
  · exact (cellKept_refuseActivity s r (by decide) fun q => (maintLast_ne q).1).reg.trans hlast
  · exact (cellKept_refuseActivity s r (by decide) fun q => (maintLast_ne q).2).reg.trans hid

theorem refuseActivity_update {r : LockReq} (h : r.code = 6) : (refuseActivity s r).reg secFwStatAt = 6 := by
  unfold refuseActivity
  rw [h]
  exact State.setReg_self ..

theorem qtr_recordConflict (s : State) (r : LockReq) (q : Nat) : (recordConflict s r).qtr q = s.qtr q := rfl

theorem refuseActivity_replies {r : LockReq} {q : Nat} {m : MbReq} (hcode : r.code = 2 ∨ r.code = 3 ∨ r.code = 5 ∨ r.code = 7)
    (hreply : r.reply = some q) (hmb : (s.qtr q).mb = some m) : Replies q m 3 [] (recordConflict s r) (refuseActivity s r) := by
  have heq : refuseActivity s r = mbReply (recordConflict s r) q 3 [] := by
    unfold refuseActivity
    rw [hreply]
    rcases hcode with h | h | h | h <;>
    · rw [h]
      rfl
  rw [heq]
  exact replies_mbReply q 3 ((congrArg Quarter.mb (qtr_recordConflict s r q)).trans hmb) (by decide)

theorem decideLock_facts (s : State) (r : LockReq) :
    (blockersIn s r = 0 ↔ ∀ q ∈ maskQuarters r.qmask, ∀ i < 7, bit (s.qtr q).held i = true → i + 1 ∈ compatibleWith r.code) ∧
    (blockersIn s r = 0 → ∃ w, decideLock s r = beginActivity w r ∧ w = { s with regs := w.regs, quarters := w.quarters } ∧
      Counted pmMaintGrantCntAt s w ∧ RegsBut [pmMaintGrantCntAt] s w ∧ ∀ q : QuarterId, w.qtr q = if bit r.qmask q then
        { s.qtr q with held := (s.qtr q).held ||| 2 ^ (r.code - 1) } else s.qtr q) ∧
    (blockersIn s r ≠ 0 → Counted pmMaintConflictCntAt s (decideLock s r) ∧
      (decideLock s r).reg pmMaintLastAt = timeWord (mgrNs s) ∧ (decideLock s r).reg pmMaintLastIdAt = 2 ^ 16 + r.qmask % 16 * 2 ^ 12 + blockersIn s r ∧
      (r.code = 6 → (decideLock s r).reg secFwStatAt = 6) ∧
      (∀ q : QuarterId, ∀ m, r.code = 2 ∨ r.code = 3 ∨ r.code = 5 ∨ r.code = 7 → r.reply = some q.val → (s.qtr q).mb = some m →
        Replies q m 3 [] (recordConflict s r) (decideLock s r))) := by
  refine ⟨blockersIn_eq_zero s r, fun h => ⟨_, decideLock_granted h, grant_facts s r⟩, fun h => ?_⟩
  rw [decideLock_refused h]
  obtain ⟨hcnt, hlast, hid⟩ := refuseActivity_facts s r
  exact ⟨hcnt, hlast, hid, refuseActivity_update, fun q m => refuseActivity_replies⟩

end Sys2Proof.Machine
end

section
/-! Recalibrations of links and ports end (R209 to R212, R316, R412). -/

namespace Sys2Proof.Machine

variable {s t u : State}

/-! ### What the end of a recalibration leaves as it is -/

/-- The lock of every quarter is held as before. -/
def HeldKept (s t : State) : Prop := ∀ q, (t.qtr q).held = (s.qtr q).held

theorem HeldKept.trans (h : HeldKept s u) (h' : HeldKept u t) : HeldKept s t := fun q => (h' q).trans (h q)

theorem heldKept_of_quarters (h : t.quarters = s.quarters) : HeldKept s t := fun q => by
  unfold State.qtr
  rw [h]

theorem heldKept_setReg (s : State) (a v : Nat) : HeldKept s (s.setReg a v) := fun _ => rfl

theorem heldKept_modMgr (s : State) (f : Manager → Manager) : HeldKept s (s.modMgr f) := fun _ => rfl

theorem heldKept_modQtr (s : State) (q : Nat) {f : Quarter → Quarter} (hf : ∀ x, (f x).held = x.held) : HeldKept s (s.modQtr q f) := fun k => by
  rw [qtr_modQtr]
  split
  · next h => rw [hf, h]
  · rfl

theorem heldKept_dropMsg (s : State) (q seq : Nat) : HeldKept s (dropMsg s q seq) :=
  heldKept_modQtr s q (f := fun x => { x with dropped := some (match x.dropped with
    | none => (1, seq, seq)
    | some (n, first, _) => (n + 1, first, seq)) }) fun _ => rfl

theorem heldKept_stageMsg (s : State) (q typ : Nat) (payload : Bytes) : HeldKept s (stageMsg s q typ payload) := by
  unfold stageMsg
  dsimp only
  split
  · exact fun _ => rfl
  · refine (heldKept_modQtr s q (f := fun x => { x with msgSeq := x.msgSeq + 1 }) fun _ => rfl).trans ?_
    split
    · exact heldKept_dropMsg _ q _
    · exact heldKept_modQtr _ q fun _ => rfl

theorem heldKept_sendDmap (s : State) : HeldKept s (sendDmap s) :=
  foldl_inv (HeldKept s) _ _ s (fun _ => rfl) fun t q _ h => h.trans (by
    split
    · exact fun _ => rfl
    · exact heldKept_stageMsg t q _ _)

theorem heldKept_newGeneration (s : State) : HeldKept s (newGeneration s) := by
  unfold newGeneration
  exact ((heldKept_setReg s _ _).trans (heldKept_modMgr _ _)).trans (heldKept_sendDmap _)

/-- A link that returns changes registers, routers, links, and what partitions, quarters and the manager note; the activities that
run and the lock stay. -/
structure ReturnWork (s t : State) : Prop where
  same : t = { s with regs := t.regs, routers := t.routers, links := t.links, parts := t.parts, quarters := t.quarters, mgr := t.mgr }
  maint : t.mgr.maint = s.mgr.maint
  held : HeldKept s t

theorem ReturnWork.refl (s : State) : ReturnWork s s := ⟨rfl, rfl, fun _ => rfl⟩

theorem ReturnWork.trans (h : ReturnWork s u) (h' : ReturnWork u t) : ReturnWork s t :=
  ⟨by rw [h'.same, h.same], h'.maint.trans h.maint, h.held.trans h'.held⟩

theorem LinkWork.returnWork (h : LinkWork s t) : ReturnWork s t :=
  ⟨by rw [h.same], by rw [h.mgr], heldKept_of_quarters (by rw [h.same])⟩

theorem Noted.returnWork {n : Nat} (h : Noted { s with mgr := { s.mgr with dmapNs := n } } t) (hheld : HeldKept s t) : ReturnWork s t :=
  ⟨by rw [h.same], by rw [h.same], hheld⟩

theorem returnWork_newGeneration (s : State) : ReturnWork s (newGeneration s) := by
  obtain ⟨⟨n, hnoted⟩, -⟩ := newGeneration_facts s
  exact hnoted.returnWork (heldKept_newGeneration s)

theorem links_newGeneration (s : State) : (newGeneration s).links = s.links := by
  obtain ⟨⟨n, hnoted⟩, -⟩ := newGeneration_facts s
  rw [hnoted.same]

/-! ### A link returns -/

/-- The link at l is x, and the others are as they were. -/
def LinkSet (l : Nat) (x : Link) (s t : State) : Prop := t.link l = x ∧ ∀ k, k ≠ l → t.link k = s.link k

theorem LinkSet.of_links {l : Nat} {x : Link} (h : LinkSet l x s u) (hlinks : t.links = u.links) : LinkSet l x s t := by
  have hlink : ∀ k, t.link k = u.link k := fun k => by
    unfold State.link
    rw [hlinks]
  exact ⟨(hlink l).trans h.1, fun k hk => (hlink k).trans (h.2 k hk)⟩

theorem linkSet_changeLink (s : State) (l : Nat) (x : Link) : LinkSet l x s (changeLink s l x) :=
  ⟨(link_changeLink ..).trans (if_pos rfl), fun _ hk => (link_changeLink ..).trans (if_neg hk)⟩

theorem returnLink_facts (s : State) (l : Nat) (x : Link) : ReturnWork s (returnLink s l x) ∧ LinkSet l x s (returnLink s l x) := by
  have hwork := (linkWork_changeLink s l x).returnWork
  have hset := linkSet_changeLink s l x
  unfold returnLink
  dsimp only
  split
  · exact ⟨hwork, hset⟩
  · exact ⟨hwork.trans (linkWork_linkChanged ..).returnWork, hset.of_links (links_linkChanged ..)⟩

/-- A change that keeps the links may follow. -/
def LinksKept (s t : State) : Prop := ReturnWork s t ∧ t.links = s.links

theorem LinksKept.refl (s : State) : LinksKept s s := ⟨.refl s, rfl⟩

theorem linksKept_countLink (s : State) (l st : Nat) : LinksKept s (countLink s l st) :=
  ⟨(linkWork_countLink ..).returnWork, links_countLink ..⟩

theorem linksKept_newGeneration (s : State) : LinksKept s (newGeneration s) := ⟨returnWork_newGeneration s, links_newGeneration s⟩

theorem linkSet_then {l : Nat} {x : Link} (h : ReturnWork s u ∧ LinkSet l x s u) (h' : LinksKept u t) : ReturnWork s t ∧ LinkSet l x s t :=
  ⟨h.1.trans h'.1, h.2.of_links h'.2⟩

/-- The link that is recalibrated, with the lanes or wires that failed. -/
def recalibrated (s : State) (l lo hi : Nat) : Link := { state := linkReturn s l (max lo hi), failedLo := lo, failedHi := hi }

theorem endLinkRecal_facts (s : State) (l lo hi : Nat) :
    let t := endLinkRecal s l lo hi
    ReturnWork s t ∧ LinkSet l (recalibrated s l lo hi) s t := by
  have hreturn := returnLink_facts s l (recalibrated s l lo hi)
  have hcount : ∀ (v : State) (p : Prop) [Decidable p] (n : Nat), LinksKept v (if p then countLink v l n else v) := fun v p _ n => by
    split
    · exact linksKept_countLink v l n
    · exact .refl v
  have hgen : ∀ (v : State) (p : Prop) [Decidable p], LinksKept v (if p then v else newGeneration v) := fun v p _ => by
    split
    · exact .refl v
    · exact linksKept_newGeneration v
  exact linkSet_then (linkSet_then hreturn (hcount ..)) (hgen ..)

/-! ### The activity ends -/

/-- A quarter whose lock an activity has given back. -/
def lockFreed (code : Nat) (x : Quarter) : Quarter := { x with held := x.held &&& (127 - 2 ^ (code - 1)) }

/-- The manager's record without the activity m. -/
def withoutMaint (m : Maint) (x : Manager) : Manager := { x with maint := x.maint.filter fun y => y != m }

/-- The activity m has ended, and the quarters' lock for a recalibration is given back. -/
def recalEnded (s : State) (m : Maint) : State := refreshSusp (releaseLock (s.modMgr (withoutMaint m)) 5 m.qmask)

theorem ended_of_refresh {v : State} {f : Quarter → Quarter} {g : Manager → Manager} {mask : Nat}
    (hv : v = { s.modMgr g with quarters := v.quarters }) (ht : t = { v with regs := t.regs })
    (hqtr : ∀ q : QuarterId, v.qtr q = if bit mask q then f (s.qtr q) else s.qtr q) :
    t = { s with regs := t.regs, quarters := t.quarters, mgr := t.mgr } ∧ t.mgr = g s.mgr ∧
    ∀ q : QuarterId, t.qtr q = if bit mask q then f (s.qtr q) else s.qtr q := by
  refine ⟨?_, ?_, fun q => ?_⟩
  · rw [ht, hv]
    rfl
  · rw [ht, hv]
    rfl
  · rw [← hqtr, ht]
    rfl

theorem ReturnWork.then_ended (h : ReturnWork s u) (h' : t = { u with regs := t.regs, quarters := t.quarters, mgr := t.mgr }) :
    t = { s with regs := t.regs, routers := t.routers, links := t.links, parts := t.parts, quarters := t.quarters, mgr := t.mgr } := by
  rw [h', h.same]

theorem recalEnded_facts (s : State) (m : Maint) :
    let t := recalEnded s m
    t = { s with regs := t.regs, quarters := t.quarters, mgr := t.mgr } ∧ t.mgr = { s.mgr with maint := s.mgr.maint.filter fun y => y != m } ∧
    ∀ q : QuarterId, t.qtr q = if bit m.qmask q then { s.qtr q with held := (s.qtr q).held &&& 111 } else s.qtr q := by
  obtain ⟨hsame, hqtr⟩ := modQuarters_facts (s.modMgr (withoutMaint m)) m.qmask (lockFreed 5)
  exact ended_of_refresh hsame (refreshSusp_eq _) fun q => hqtr q q.isLt

theorem exec_laneRecalDone_link (l : LinkId) (lo hi : Nat) {m : Maint}
    (hm : s.mgr.maint.find? (fun m => m.code == 5 && m.arg == l.val) = some m) (ha : (activeMgr s).isSome = true) :
    exec (.laneRecalDone (.link l) lo hi) s = .next (recalEnded (endLinkRecal s l lo hi) m) := by
  obtain ⟨b, hb⟩ := Option.isSome_iff_exists.1 ha
  show execLaneRecalDone (.link l) lo hi s = _
  unfold execLaneRecalDone
  dsimp only
  rw [hm, hb]
  rfl

theorem exec_laneRecalDone_port (p : PortId) (lo hi : Nat) {m : Maint}
    (hm : s.mgr.maint.find? (fun m => m.code == 5 && m.arg == 0x1000 + p.val) = some m) (ha : (activeMgr s).isSome = true) :
    exec (.laneRecalDone (.port p) lo hi) s = .next (if portTrains (s.port p) then s else recalEnded s m) := by
  obtain ⟨b, hb⟩ := Option.isSome_iff_exists.1 ha
  show execLaneRecalDone (.port p) lo hi s = _
  unfold execLaneRecalDone
  dsimp only
  rw [hm, hb]
  rfl

theorem goes_laneRecalDone_link (l : LinkId) (lo hi : Nat) {m : Maint}
    (hm : s.mgr.maint.find? (fun m => m.code == 5 && m.arg == l.val) = some m) (ha : (activeMgr s).isSome = true) :
    Goes (.laneRecalDone (.link l) lo hi) s fun t => (t.link l).state = linkReturn s l (max lo hi) ∧ (t.link l).failedLo = lo ∧
      (t.link l).failedHi = hi ∧ (∀ k, k ≠ l.val → t.link k = s.link k) ∧ t.mgr.maint = s.mgr.maint.filter (fun y => y != m) ∧
      t = { s with regs := t.regs, routers := t.routers, links := t.links, parts := t.parts, quarters := t.quarters, mgr := t.mgr } ∧
      ∀ q : QuarterId, (t.qtr q).held = if bit m.qmask q then (s.qtr q).held &&& 111 else (s.qtr q).held := by
  obtain ⟨hwork, hset⟩ := endLinkRecal_facts s l lo hi
  obtain ⟨hsame, hmgr, hqtr⟩ := recalEnded_facts (endLinkRecal s l lo hi) m
  obtain ⟨hself, hothers⟩ := hset.of_links (t := recalEnded (endLinkRecal s l lo hi) m) (by rw [hsame])
  refine ⟨_, exec_laneRecalDone_link l lo hi hm ha, congrArg Link.state hself, congrArg Link.failedLo hself, congrArg Link.failedHi hself, hothers,
    ?_, hwork.then_ended hsame, fun q => ?_⟩
  · rw [hmgr, ← hwork.maint]
  · rw [hqtr, ← hwork.held]
    split <;> rfl

theorem goes_laneRecalDone_port (p : PortId) (lo hi : Nat) {m : Maint}
    (hm : s.mgr.maint.find? (fun m => m.code == 5 && m.arg == 0x1000 + p.val) = some m) (ha : (activeMgr s).isSome = true) :
    (portTrains (s.port p) = true → Goes (.laneRecalDone (.port p) lo hi) s fun t => t = s) ∧
    (portTrains (s.port p) = false → Goes (.laneRecalDone (.port p) lo hi) s fun t =>
      t = { s with regs := t.regs, quarters := t.quarters, mgr := t.mgr } ∧ t.mgr = { s.mgr with maint := s.mgr.maint.filter fun y => y != m } ∧
      ∀ q : QuarterId, t.qtr q = if bit m.qmask q then { s.qtr q with held := (s.qtr q).held &&& 111 } else s.qtr q) := by
  refine ⟨fun h => ⟨_, exec_laneRecalDone_port p lo hi hm ha, if_pos h⟩, fun h => ⟨_, exec_laneRecalDone_port p lo hi hm ha, ?_⟩⟩
  rw [h, if_neg Bool.false_ne_true]
  exact recalEnded_facts s m

end Sys2Proof.Machine
end

section
/-! Firmware updates (R472). -/

namespace Sys2Proof.Machine

variable {s t u : State}

/-! ### An update ends -/

/-- The update has ended with a status: the image is dropped, and the lock of every quarter given back. -/
structure UpdateEnds (stat : Nat) (s t : State) : Prop where
  stat : t.reg secFwStatAt = stat
  regs : RegsBut [secFwStatAt] s t
  sec : t.sec = { s.sec with fetched := none }
  same : t = { s with regs := t.regs, quarters := t.quarters, sec := t.sec }
  held : ∀ q : QuarterId, t.qtr q = { s.qtr q with held := (s.qtr q).held &&& 95 }

theorem bit_fifteen (q : QuarterId) : bit 15 q = true := by
  revert q
  decide

theorem reg_setFetched (s : State) (x : Option Image) (a : Nat) : (setFetched s x).reg a = s.reg a := rfl

theorem qtr_setReg (s : State) (a v q : Nat) : (s.setReg a v).qtr q = s.qtr q := rfl

theorem qtr_setFetched (s : State) (x : Option Image) (q : Nat) : (setFetched s x).qtr q = s.qtr q := rfl

theorem updateEnds_endUpdate (s : State) (stat : Nat) : UpdateEnds stat s (endUpdate s stat) := by
  have heq : endUpdate s stat = modQuarters ((setFetched s none).setReg secFwStatAt stat) 15 (lockFreed 6) := rfl
  obtain ⟨hsame, hqtr⟩ := modQuarters_facts ((setFetched s none).setReg secFwStatAt stat) 15 (lockFreed 6)
  have hreg := reg_modQuarters ((setFetched s none).setReg secFwStatAt stat) 15 (lockFreed 6)
  rw [heq]
  refine ⟨?_, fun a ha => ?_, ?_, ?_, fun q => ?_⟩
  · rw [hreg, State.setReg_self]
  · rw [hreg, State.setReg_reg, if_neg fun h => ha (by simp [h]), reg_setFetched]
  · rw [hsame]
    rfl
  · rw [hsame]
    rfl
  · rw [hqtr q q.isLt, if_pos (bit_fifteen q), qtr_setReg, qtr_setFetched]
    rfl

/-! ### The steps of an update -/

/-- The update goes on, in a state and with an image. -/
def UpdateGoesOn (stat : Nat) (f : Option Image) (s t : State) : Prop :=
  t = { s with regs := t.regs, sec := { s.sec with fetched := f } } ∧ t.reg secFwStatAt = stat ∧ RegsBut [secFwStatAt] s t

theorem updateGoesOn_fetched (s : State) (f : Option Image) (stat : Nat) : UpdateGoesOn stat f s ((setFetched s f).setReg secFwStatAt stat) :=
  ⟨rfl, State.setReg_self .., fun a ha => by rw [State.setReg_reg, if_neg fun h => ha (by simp [h]), reg_setFetched]⟩

theorem setFetched_self {f : Option Image} (h : s.sec.fetched = f) : setFetched s f = s := by
  rw [← h]
  rfl

theorem updateGoesOn_kept {f : Option Image} (h : s.sec.fetched = f) (stat : Nat) : UpdateGoesOn stat f s (s.setReg secFwStatAt stat) := by
  have hgoes := updateGoesOn_fetched s f stat
  rwa [setFetched_self h] at hgoes

theorem exec_fwUpdate_runs {who : Requester} (image : Option Image) (ok : Bool) (hwho : operMgr s who = true)
    (hlow : 1 ≤ s.regField secFwStatAt 3 0) (hhigh : s.regField secFwStatAt 3 0 ≤ 3) :
    exec (.fwUpdate who image ok) s = .next (updateStep (s.regField secFwStatAt 3 0) image ok s) := by
  show execFwUpdate who image ok s = _
  unfold execFwUpdate
  rw [if_pos hwho]
  exact if_pos ⟨hlow, hhigh⟩

theorem exec_fwUpdate_rests {who : Requester} (image : Option Image) (ok : Bool) (hwho : operMgr s who = true)
    (hrest : s.regField secFwStatAt 3 0 = 0 ∨ 3 < s.regField secFwStatAt 3 0) :
    exec (.fwUpdate who image ok) s = .next (if s.mgr.locks.any fun r => r.code == 6 then s
      else requestLock s { code := 6, qmask := 15, arg := 0, reply := none }) := by
  show execFwUpdate who image ok s = _
  unfold execFwUpdate
  rw [if_pos hwho]
  dsimp only
  rw [if_neg (by omega)]
  split <;> rfl

theorem updateStep_fetch (image : Option Image) (ok : Bool) (s : State) :
    updateStep 1 image ok s = match image with
      | none => endUpdate s (6 * 256 + 5)
      | some x => (setFetched s (some x)).setReg secFwStatAt 2 := rfl

theorem updateStep_verify {x : Image} (image : Option Image) (ok : Bool) (hx : s.sec.fetched = some x) :
    updateStep 2 image ok s = match imageCause s x with
      | some c => endUpdate s (c * 256 + 5)
      | none => s.setReg secFwStatAt 3 := by
  unfold updateStep
  rw [hx]
  rfl

theorem updateStep_write {x : Image} (image : Option Image) (ok : Bool) (hx : s.sec.fetched = some x) :
    updateStep 3 image ok s =
      if ok then endUpdate { s with instA := writeBank x s.instA, instB := writeBank x s.instB } 4 else endUpdate s (7 * 256 + 5) := by
  unfold updateStep
  rw [hx]
  rfl

/-- The update has ended with a status, and the managers' instances are a and b. -/
def UpdateOver (stat : Nat) (a b : Instance) (s t : State) : Prop :=
  (t.reg secFwStatAt = stat ∧ RegsBut [secFwStatAt] s t ∧ t.sec = { s.sec with fetched := none } ∧
    t = { s with regs := t.regs, quarters := t.quarters, sec := t.sec, instA := t.instA, instB := t.instB } ∧
    ∀ q : QuarterId, t.qtr q = { s.qtr q with held := (s.qtr q).held &&& 95 }) ∧ t.instA = a ∧ t.instB = b

theorem UpdateEnds.over {stat : Nat} (h : UpdateEnds stat s t) : UpdateOver stat s.instA s.instB s t :=
  ⟨⟨h.stat, h.regs, h.sec, by rw [h.same], h.held⟩, by rw [h.same], by rw [h.same]⟩

/-- The banks that an update writes. -/
def withBanks (s : State) (a b : Instance) : State := { s with instA := a, instB := b }

theorem reg_withBanks (s : State) (a b : Instance) (k : Nat) : (withBanks s a b).reg k = s.reg k := rfl

theorem UpdateEnds.over_banks {stat : Nat} {a b : Instance} (h : UpdateEnds stat (withBanks s a b) t) : UpdateOver stat a b s t :=
  ⟨⟨h.stat, fun k hk => (h.regs k hk).trans (reg_withBanks ..), h.sec, by rw [h.same]; rfl, h.held⟩, by rw [h.same]; rfl, by rw [h.same]; rfl⟩

theorem goes_fwUpdate_asks {who : Requester} (image : Option Image) (ok : Bool) (hwho : operMgr s who = true)
    (hrest : s.regField secFwStatAt 3 0 = 0 ∨ 3 < s.regField secFwStatAt 3 0) :
    ((∃ r ∈ s.mgr.locks, r.code = 6) → Goes (.fwUpdate who image ok) s fun t => t = s) ∧
    ((∀ r ∈ s.mgr.locks, r.code ≠ 6) → Goes (.fwUpdate who image ok) s fun t => t = { s with mgr := { s.mgr with
      locks := s.mgr.locks ++ [{ code := 6, qmask := 15, arg := 0, reply := none }] } }) := by
  have hexec := exec_fwUpdate_rests image ok hwho hrest
  refine ⟨fun ⟨r, hr, hcode⟩ => ⟨_, hexec, if_pos ?_⟩, fun hnone => ⟨_, hexec, if_neg ?_⟩⟩
  · exact List.any_eq_true.2 ⟨r, hr, beq_iff_eq.2 hcode⟩
  · intro hany
    obtain ⟨r, hr, hcode⟩ := List.any_eq_true.1 hany
    exact hnone r hr (beq_iff_eq.1 hcode)

theorem goes_fwUpdate_fetch {who : Requester} (image : Option Image) (ok : Bool) (hwho : operMgr s who = true)
    (hst : s.regField secFwStatAt 3 0 = 1) :
    (image = none → Goes (.fwUpdate who image ok) s (UpdateOver (6 * 256 + 5) s.instA s.instB s)) ∧
    ∀ x, image = some x → Goes (.fwUpdate who image ok) s (UpdateGoesOn 2 (some x) s) := by
  have hexec := exec_fwUpdate_runs image ok hwho (by omega) (by omega)
  rw [hst, updateStep_fetch] at hexec
  refine ⟨?_, ?_⟩
  · rintro rfl
    exact ⟨_, hexec, (updateEnds_endUpdate s _).over⟩
  · rintro x rfl
    exact ⟨_, hexec, updateGoesOn_fetched ..⟩

theorem goes_fwUpdate_verify {who : Requester} {x : Image} (image : Option Image) (ok : Bool) (hwho : operMgr s who = true)
    (hst : s.regField secFwStatAt 3 0 = 2) (hx : s.sec.fetched = some x) :
    (∀ c, imageCause s x = some c → Goes (.fwUpdate who image ok) s (UpdateOver (c * 256 + 5) s.instA s.instB s)) ∧
    (imageCause s x = none → Goes (.fwUpdate who image ok) s (UpdateGoesOn 3 (some x) s)) := by
  have hexec := exec_fwUpdate_runs image ok hwho (by omega) (by omega)
  rw [hst, updateStep_verify _ _ hx] at hexec
  refine ⟨fun c hc => ?_, fun hc => ?_⟩
  · rw [hc] at hexec
    exact ⟨_, hexec, (updateEnds_endUpdate s _).over⟩
  · rw [hc] at hexec
    exact ⟨_, hexec, updateGoesOn_kept hx 3⟩

theorem goes_fwUpdate_write {who : Requester} {x : Image} (image : Option Image) (ok : Bool) (hwho : operMgr s who = true)
    (hst : s.regField secFwStatAt 3 0 = 3) (hx : s.sec.fetched = some x) :
    (ok = true → Goes (.fwUpdate who image ok) s (UpdateOver 4 (writeBank x s.instA) (writeBank x s.instB) s)) ∧
    (ok = false → Goes (.fwUpdate who image ok) s (UpdateOver (7 * 256 + 5) s.instA s.instB s)) := by
  have hexec := exec_fwUpdate_runs image ok hwho (by omega) (by omega)
  rw [hst, updateStep_write _ _ hx] at hexec
  refine ⟨fun hok => ⟨_, hexec, ?_⟩, fun hok => ⟨_, hexec, ?_⟩⟩
  · rw [if_pos hok]
    exact (updateEnds_endUpdate (withBanks s _ _) 4).over_banks
  · rw [if_neg (by rw [hok]; exact Bool.false_ne_true)]
    exact (updateEnds_endUpdate s _).over

end Sys2Proof.Machine
end

section
/-! Scrub, maintenance, recalibration and update: O53. -/

namespace Sys2Proof.Machine

/-- Settles O53: each command by the lemma that says what it does. -/
theorem scrubMaintenanceAndUpdate : Obligations.ScrubMaintenanceAndUpdate := by
  unfold Obligations.ScrubMaintenanceAndUpdate
  intro s
  refine ⟨fun n e1 e2 c1 c2 => ⟨fun h => ⟨s, exec_scrubRead_idle n e1 e2 c1 c2 h, rfl⟩, goes_scrubRead n e1 e2 c1 c2⟩,
    fun q f ha hreq => ⟨fun hoff => ⟨s, (exec_scrubLockRetry q ha hreq).1 hoff, rfl⟩, goes_scrubLockRetry q ha hreq⟩,
    fun q r hr ha => ⟨goes_maintRequestRetest hr ha, goes_maintRequestRecal hr ha⟩,
    goes_maintLockEvaluate, decideLock_facts s, fun l lo hi m hm ha => goes_laneRecalDone_link l lo hi hm ha,
    fun p lo hi m hm ha => goes_laneRecalDone_port p lo hi hm ha, fun who image ok hwho => ?_⟩
  exact ⟨fun hrest => (goes_fwUpdate_asks image ok hwho hrest).1, fun hrest => (goes_fwUpdate_asks image ok hwho hrest).2,
    goes_fwUpdate_fetch image ok hwho, fun x hst hx => goes_fwUpdate_verify image ok hwho hst hx,
    fun x hst hx => goes_fwUpdate_write image ok hwho hst hx⟩

end Sys2Proof.Machine
end

section
/-! The work of a router in a slot (R207, R220 to R222): what it leaves as it is, and the slot in which nothing is due. -/

namespace Sys2Proof.Machine

variable {s t u : State} {site m : Nat}

/-! ### What a router's slot may change -/

/-- The work of the router at a site in slot m: registers, that router apart from its mark of the slot, packets in flight that arrive
in later slots, and the trace unit. -/
structure SlotWork (site m : Nat) (s t : State) : Prop where
  same : t = { s with regs := t.regs, routers := t.routers, flights := t.flights, sec := t.sec }
  others : ∀ k, k ≠ site → t.rtr k = s.rtr k
  mark : (t.rtr site).lastSlot = (s.rtr site).lastSlot
  later : ∀ f ∈ t.flights, f ∈ s.flights ∨ m < f.slot

theorem SlotWork.refl (site m : Nat) (s : State) : SlotWork site m s s := ⟨rfl, fun _ _ => rfl, rfl, fun _ => .inl⟩

theorem SlotWork.trans (h : SlotWork site m s u) (h' : SlotWork site m u t) : SlotWork site m s t :=
  ⟨by rw [h'.same, h.same], fun k hk => (h'.others k hk).trans (h.others k hk), h'.mark.trans h.mark,
    fun f hf => (h'.later f hf).elim (h.later f) .inr⟩

theorem SlotWork.of_regs_sec (h : t = { s with regs := t.regs, sec := t.sec }) : SlotWork site m s t :=
  ⟨by rw [h], fun _ _ => by rw [h]; rfl, by rw [h]; rfl, fun _ hf => .inl (by rwa [h] at hf)⟩

theorem slotWork_bumpBy (site m : Nat) (s : State) (a n : Nat) : SlotWork site m s (s.bumpBy a n) :=
  .of_regs_sec (by rw [bumpBy_eq])

theorem slotWork_bump (site m : Nat) (s : State) (a : Nat) : SlotWork site m s (s.bump a) := slotWork_bumpBy site m s a 1

theorem slotWork_bump_if (site m : Nat) (s : State) (p : Prop) [Decidable p] (a : Nat) :
    SlotWork site m s (if p then s.bump a else s) := by
  split
  · exact slotWork_bump site m s a
  · exact .refl site m s

theorem slotWork_modRtr (m : Nat) (s : State) (site : Nat) {f : Router → Router} (hf : ∀ x, (f x).lastSlot = x.lastSlot) :
    SlotWork site m s (s.modRtr site f) :=
  ⟨rfl, fun k hk => (State.setRtr_rtr ..).trans (if_neg hk), by rw [State.modRtr, State.setRtr_self, hf], fun _ => .inl⟩

theorem slotWork_flights (site : Nat) (s : State) {l : List Flight} (hl : ∀ f ∈ l, m < f.slot) :
    SlotWork site m s { s with flights := s.flights ++ l } :=
  ⟨rfl, fun _ _ => rfl, rfl, fun f hf => (List.mem_append.1 hf).imp id (hl f)⟩

/-! ### The steps of a slot -/

theorem slotWork_capture (m : Nat) (s : State) (site dir : Nat) (ps : List (Nat × Packet)) : SlotWork site m s (capture s site dir ps) := by
  unfold capture
  dsimp only
  split
  · exact foldl_inv (SlotWork site m s) _ _ s (.refl site m s) fun t x _ h => h.trans (.of_regs_sec rfl)
  · exact .refl site m s

theorem slotWork_dropFirewall (m : Nat) (s : State) (site port : Nat) (p : Packet) :
    SlotWork site m s (dropFirewall s site port p) := .of_regs_sec rfl

theorem slotWork_checkHeads (m site : Nat) : ∀ (l : List (Nat × Packet)) (s : State), SlotWork site m s (checkHeads s site l).2
  | [], s => .refl site m s
  | h :: l, s => by
    unfold checkHeads
    split
    · exact (slotWork_bump ..).trans (slotWork_checkHeads m site l _)
    · split
      · exact (slotWork_dropFirewall ..).trans (slotWork_checkHeads m site l _)
      · exact slotWork_checkHeads m site l s

theorem slotWork_checkEntries (m site : Nat) : ∀ (l : List (Nat × Packet)) (s : State), SlotWork site m s (checkEntries s site l).2
  | [], s => .refl site m s
  | h :: l, s => by
    unfold checkEntries
    split
    · exact (slotWork_bump ..).trans (slotWork_checkEntries m site l _)
    · split
      · exact (slotWork_bump ..).trans (slotWork_checkEntries m site l _)
      · split
        · exact (slotWork_dropFirewall ..).trans (slotWork_checkEntries m site l _)
        · exact slotWork_checkEntries m site l s

theorem hopSlots_pos (k : LinkKind) : 0 < hopSlots k := by
  unfold hopSlots
  split <;> decide

theorem slotWork_sendOn (s : State) (site m : Nat) (x : Placed) : SlotWork site m s (sendOn s site m x) := by
  unfold sendOn
  split
  · dsimp only
    refine (((slotWork_bump_if ..).trans (slotWork_bump_if ..)).trans (slotWork_bump_if ..)).trans (slotWork_flights site _ fun f hf => ?_)
    rw [List.mem_singleton.1 hf]
    exact Nat.lt_add_of_pos_right (hopSlots_pos _)
  · exact .refl site m s

theorem slotWork_ejectTo (m : Nat) (s : State) (site : Nat) (x : Placed) : SlotWork site m s (ejectTo s site x) := by
  unfold ejectTo
  dsimp only
  refine (((slotWork_modRtr m s site ?_).trans (slotWork_bump_if ..)).trans (slotWork_bump_if ..)).trans (slotWork_bump_if ..)
  exact fun _ => rfl

theorem slotWork_dispatchPlaced (site m : Nat) (s : State) (x : Placed) : SlotWork site m s (dispatchPlaced site m s x) := by
  unfold dispatchPlaced
  dsimp only
  split
  · refine (slotWork_modRtr m s site ?_).trans (slotWork_sendOn ..)
    exact fun _ => rfl
  · refine (slotWork_modRtr m s site ?_).trans (slotWork_ejectTo ..)
    exact fun _ => rfl

/-! ### The slot as a whole -/

/-- The state once the router at a site has taken the packets that are due at it. -/
def dueTaken (s : State) (site m : Nat) : State :=
  { s with flights := s.flights.filter fun f => !(f.site == site && decide (f.slot ≤ m)) }

/-- The router at a site marks the slot as served, with the packets that still wait and those that are parked. -/
abbrev slotMarked (s : State) (site m : Nat) (waiting parked : List (Nat × Packet)) : State :=
  s.modRtr site fun r => { r with inject := waiting, park := parked, lastSlot := some m }

/-- A slot takes what is due, does the work that precedes the slot's mark, sets the mark, and does the rest. -/
theorem routerSlot_split (s : State) (site m : Nat) (hits : List (Nat × Hit)) : ∃ u waiting parked,
    SlotWork site m (dueTaken s site m) u ∧ SlotWork site m (slotMarked u site m waiting parked) (routerSlot s site m hits) := by
  unfold routerSlot
  dsimp only
  refine ⟨_, _, _, ?_, ((SlotWork.trans (foldl_inv (SlotWork site m _) _ _ _ (.refl site m _)
      fun t x _ h => h.trans (slotWork_dispatchPlaced site m t x))
    (slotWork_flights site _ fun f hf => ?_)).trans (slotWork_bumpBy ..)).trans (slotWork_bump_if ..)⟩
  · exact ((((slotWork_capture ..).trans (slotWork_checkHeads ..)).trans (slotWork_checkEntries ..)).trans (slotWork_capture ..)).trans
      (slotWork_capture ..)
  · obtain ⟨h, -, rfl⟩ := List.mem_map.1 hf
    exact Nat.lt_succ_self m

theorem dueTaken_later {f : Flight} (hf : f ∈ (dueTaken s site m).flights) (hsite : f.site = site) : m < f.slot := by
  have hkept := (List.mem_filter.1 hf).2
  simp only [hsite, beq_self_eq_true, Bool.true_and, Bool.not_eq_true', decide_eq_false_iff_not, not_le] at hkept
  exact hkept

theorem routerSlot_facts (s : State) (site m : Nat) (hits : List (Nat × Hit)) :
    let t := routerSlot s site m hits
    t = { s with regs := t.regs, routers := t.routers, flights := t.flights, sec := t.sec } ∧ (∀ k, k ≠ site → t.rtr k = s.rtr k) ∧
    (t.rtr site).lastSlot = some m ∧ ∀ f ∈ t.flights, f.site = site → m < f.slot := by
  obtain ⟨u, waiting, parked, hbefore, hafter⟩ := routerSlot_split s site m hits
  refine ⟨?_, fun k hk => ?_, ?_, fun f hf hsite => ?_⟩
  · rw [hafter.same, slotMarked, State.modRtr, State.setRtr, hbefore.same]
    rfl
  · rw [hafter.others k hk, slotMarked, State.modRtr, State.setRtr_rtr, if_neg hk]
    exact hbefore.others k hk
  · rw [hafter.mark, slotMarked, State.modRtr, State.setRtr_self]
  · rcases hafter.later f hf with hin | hlate
    · exact (hbefore.later f hin).elim (dueTaken_later · hsite) id
    · exact hlate

/-! ### A slot in which nothing is due and nothing waits -/

theorem capture_nil (s : State) (site dir : Nat) : capture s site dir [] = s := by
  unfold capture
  simp

theorem routerSlot_idle {hits : List (Nat × Hit)} (hdue : ∀ f ∈ s.flights, f.site = site → m < f.slot) (hinject : (s.rtr site).inject = [])
    (hpark : (s.rtr site).park = []) :
    routerSlot s site m hits = s.modRtr site fun r => { r with lastSlot := some m } := by
  have hlater : ∀ f ∈ s.flights, (f.site == site && decide (f.slot ≤ m)) = false := fun f hf => by
    simpa using hdue f hf
  have hnone : s.flights.filter (fun f => f.site == site && decide (f.slot ≤ m)) = [] :=
    List.filter_eq_nil_iff.2 fun f hf => by rw [hlater f hf]; decide
  have hall : s.flights.filter (fun f => !(f.site == site && decide (f.slot ≤ m))) = s.flights :=
    List.filter_eq_self.2 fun f hf => by rw [hlater f hf]; rfl
  unfold routerSlot
  dsimp only
  rw [hnone, hall, List.map_nil]
  simp only [hitFlights, capture_nil, checkHeads, rankHeads, placeHeads, List.foldl_nil, hinject, hpark, checkEntries, List.filter_nil,
    List.map_nil, List.append_nil, State.bumpBy, List.length_nil, List.any_nil, Bool.false_eq_true, if_false, if_true]
  refine congrArg (s.setRtr site) ?_
  show ({ s.rtr site with inject := [], park := [], lastSlot := some m } : Router) = { s.rtr site with lastSlot := some m }
  dsimp only
  rw [hinject, hpark]

theorem goes_routerSlot {site : RouterId} (hits : List (Nat × Hit)) (hrun : (s.rtr site).running = true)
    (hfresh : (s.rtr site).lastSlot ≠ some (s.fab / 5)) : Goes (.routerSlot site hits) s fun t =>
    t = { s with regs := t.regs, routers := t.routers, flights := t.flights, sec := t.sec } ∧ (∀ k, k ≠ site.val → t.rtr k = s.rtr k) ∧
    (t.rtr site).lastSlot = some (s.fab / 5) ∧ (∀ f ∈ t.flights, f.site = site.val → s.fab / 5 < f.slot) ∧
    ((∀ f ∈ s.flights, f.site = site.val → s.fab / 5 < f.slot) → (s.rtr site).inject = [] → (s.rtr site).park = [] →
      t = { s with routers := t.routers } ∧ t.rtr site = { s.rtr site with lastSlot := some (s.fab / 5) }) := by
  have hexec : exec (.routerSlot site hits) s = .next (routerSlot s site (s.fab / 5) hits) := by
    show execRouterSlot site hits s = _
    unfold execRouterSlot when_
    dsimp only
    rw [hrun, Bool.true_and, if_pos (bne_iff_ne.2 hfresh)]
  obtain ⟨hsame, hothers, hmark, hlater⟩ := routerSlot_facts s site (s.fab / 5) hits
  refine ⟨_, hexec, hsame, hothers, hmark, hlater, fun hdue hinject hpark => ?_⟩
  rw [routerSlot_idle hdue hinject hpark]
  exact ⟨rfl, State.setRtr_self ..⟩

end Sys2Proof.Machine
end

section
/-! Lanes that lose lock, full ejection buffers and congestion maps (R209, R210, R229, R233). -/

namespace Sys2Proof.Machine

variable {s t : State}

/-! ### Registers of routers, apart from one another and from the manager's -/

/-- A register block of a router begins at a multiple of 64 KiB. -/
theorem rtrBlk_mod (r : Nat) : rtrBlk r % 0x10000 = 0 := by
  unfold rtrBlk dieArea mrArea edgeArea
  split <;> omega

theorem laneSwapCnt_mod (r : Nat) : rtrLaneSwapCntAt r % 0x10000 = 0x150 := by
  unfold rtrLaneSwapCntAt
  rw [Nat.add_mod, rtrBlk_mod]

theorem laneSwapCnt_ne {r b : Nat} (hb : b % 0x10000 ≠ 0x150) : rtrLaneSwapCntAt r ≠ b := fun h =>
  hb (h ▸ laneSwapCnt_mod r)

theorem laneSwapCnt_ne_linkCounts (r k : Nat) :
    rtrLaneSwapCntAt r ≠ rtrPenCntAt k ∧ rtrLaneSwapCntAt r ≠ rtrLinkDownCntAt k := by
  have hmod := rtrBlk_mod k
  constructor
  · exact laneSwapCnt_ne (by unfold rtrPenCntAt; omega)
  · exact laneSwapCnt_ne (by unfold rtrLinkDownCntAt; omega)

theorem laneSwapCnt_ne_msgDropCnt (r q : Nat) : rtrLaneSwapCntAt r ≠ hstMsgDropCntAt q :=
  laneSwapCnt_ne (by unfold hstMsgDropCntAt hstBlk edgeArea; omega)

/-! ### What leaves a register or counter as it is -/

theorem CellKept.trans {a : Nat} {u : State} (h : CellKept a s u) (h' : CellKept a u t) : CellKept a s t := Eq.trans h' h

theorem Counted.to_kept {a : Nat} {u : State} (h : Counted a s u) (hkept : CellKept a u t) : Counted a s t := hkept.ctr.trans h

theorem Counted.of_ctr {a : Nat} {u : State} (h : Counted a u t) (hctr : u.ctr a = s.ctr a) : Counted a s t := by
  unfold Counted at h ⊢
  rw [h, hctr]

theorem ctr_changeLink (s : State) (l : Nat) (x : Link) (a : Nat) : (changeLink s l x).ctr a = s.ctr a := rfl

theorem cellKept_bump (s : State) {a b : Nat} (h : a ≠ b) : CellKept a s (s.bump b) := find?_putAt_ne _ _ h

theorem cellKept_bumpBy (s : State) {a b : Nat} (n : Nat) (h : a ≠ b) : CellKept a s (s.bumpBy b n) := by
  unfold CellKept State.bumpBy
  split
  · rfl
  · exact find?_putAt_ne _ _ h

theorem cellKept_countLink (s : State) (l st : Nat) {a : Nat} (h : ∀ r, a ≠ rtrPenCntAt r ∧ a ≠ rtrLinkDownCntAt r) :
    CellKept a s (countLink s l st) := by
  unfold countLink
  refine foldl_inv (CellKept a s) _ _ s rfl fun t r _ hkept => hkept.trans ?_
  split
  · exact cellKept_bump t (h r).1
  · split
    · exact cellKept_bump t (h r).2
    · exact rfl

theorem cellKept_refreshSusp (s : State) {a : Nat} (hsusp : a ≠ pmFabSuspAt) (hcnt : a ≠ pmFabSuspCntAt) : CellKept a s (refreshSusp s) := by
  obtain ⟨v, n, heq⟩ := refreshSusp_cases s
  rw [heq]
  exact (cellKept_setReg s v hsusp).trans (cellKept_bumpBy _ n hcnt)

theorem cellKept_stageMsg (s : State) (q typ : Nat) (payload : Bytes) {a : Nat} (h : a ≠ hstMsgDropCntAt q) :
    CellKept a s (stageMsg s q typ payload) := by
  unfold stageMsg
  dsimp only
  split
  · exact rfl
  · split
    · exact cellKept_bump _ h
    · exact rfl

theorem cellKept_newGeneration (s : State) {a : Nat} (hgen : a ≠ pmDmapGenAt) (hdrop : ∀ q, a ≠ hstMsgDropCntAt q) :
    CellKept a s (newGeneration s) := by
  unfold newGeneration sendDmap
  refine (cellKept_setReg s _ hgen).trans (foldl_inv (CellKept a _) _ _ _ rfl fun t q _ hkept => hkept.trans ?_)
  split
  · exact rfl
  · exact cellKept_stageMsg t q _ _ (hdrop q)

/-! ### A lane loses lock (R209, R210) -/

/-- Link l once one lane more has failed at an end. -/
def laneLost (s : State) (l : Nat) (hiEnd : Bool) : Link :=
  let x := s.link l
  let lo := if hiEnd then x.failedLo else x.failedLo + 1
  let hi := if hiEnd then x.failedHi + 1 else x.failedHi
  { x with failedLo := lo, failedHi := hi, state := max x.state (linkStateOf (linkKind l) (max lo hi)) }

/-- The lanes that have failed at an end of a link. -/
def Link.failedAt (x : Link) (hiEnd : Bool) : Nat := if hiEnd then x.failedHi else x.failedLo

/-- The router at an end of a link. -/
def endRouter (l : Nat) (hiEnd : Bool) : Nat := if hiEnd then (linkEnds l).2.1 else (linkEnds l).1.1

/-- The router at an end of link l counts a swap when a spare lane stands for the n-th that failed. -/
def swapCounted (s : State) (l : Nat) (hiEnd : Bool) (n : Nat) : State :=
  if n ≤ 2 then s.bump (rtrLaneSwapCntAt (endRouter l hiEnd)) else s

/-- The partitions, the streams and the ends of link l note that it has worsened from state `old` by what `st` asks for. -/
def worseNoted (s : State) (l old st : Nat) : State := if max old st ≠ old then linkChanged (countLink s l st) l else s

theorem linkWork_swapCounted (s : State) (l : Nat) (hiEnd : Bool) (n : Nat) : LinkWork s (swapCounted s l hiEnd n) := by
  unfold swapCounted
  split
  · exact linkWork_bump s (dmapGen_ne_rtrReg _ (by decide) (by decide))
  · exact .refl s

theorem linkWork_worseNoted (s : State) (l old st : Nat) : LinkWork s (worseNoted s l old st) := by
  unfold worseNoted
  split
  · exact (linkWork_countLink ..).trans (linkWork_linkChanged ..)
  · exact .refl s

theorem links_swapCounted (s : State) (l : Nat) (hiEnd : Bool) (n : Nat) : (swapCounted s l hiEnd n).links = s.links := by
  unfold swapCounted
  split <;> rfl

theorem links_worseNoted (s : State) (l old st : Nat) : (worseNoted s l old st).links = s.links := by
  unfold worseNoted
  split
  · rw [links_linkChanged, links_countLink]
  · rfl

theorem counted_swapCounted (s : State) (l : Nat) (hiEnd : Bool) {n : Nat} (hspare : n ≤ 2) :
    Counted (rtrLaneSwapCntAt (endRouter l hiEnd)) s (swapCounted s l hiEnd n) := by
  unfold swapCounted
  rw [if_pos hspare]
  exact ctr_bump_self ..

theorem cellKept_worseNoted (r : Nat) (s : State) (l old st : Nat) : CellKept (rtrLaneSwapCntAt r) s (worseNoted s l old st) := by
  unfold worseNoted
  split
  · rw [linkChanged_eq]
    refine ((cellKept_countLink s l st (laneSwapCnt_ne_linkCounts r)).trans (t := linkNoted (countLink s l st) l) rfl).trans ?_
    exact cellKept_refreshSusp _ (laneSwapCnt_ne (by decide)) (laneSwapCnt_ne (by decide))
  · exact rfl

/-- Link l becomes x, with n lanes failed at one end, from a state `old` that `st` may worsen: what its partitions, its ends and the
defect map make of it. -/
def laneReplaced (s : State) (l : Nat) (hiEnd : Bool) (x : Link) (n old st : Nat) : State :=
  newGeneration (worseNoted (swapCounted (changeLink s l x) l hiEnd n) l old st)

theorem linkWork_laneReplaced (s : State) (l : Nat) (hiEnd : Bool) (x : Link) (n old st : Nat) :
    LinkWork s (worseNoted (swapCounted (changeLink s l x) l hiEnd n) l old st) :=
  ((linkWork_changeLink ..).trans (linkWork_swapCounted ..)).trans (linkWork_worseNoted ..)

theorem returnWork_laneReplaced (s : State) (l : Nat) (hiEnd : Bool) (x : Link) (n old st : Nat) :
    ReturnWork s (laneReplaced s l hiEnd x n old st) :=
  (linkWork_laneReplaced ..).returnWork.trans (returnWork_newGeneration _)

theorem linkSet_laneReplaced (s : State) (l : Nat) (hiEnd : Bool) (x : Link) (n old st : Nat) :
    LinkSet l x s (laneReplaced s l hiEnd x n old st) :=
  (linkSet_changeLink s l x).of_links (by unfold laneReplaced; rw [links_newGeneration, links_worseNoted, links_swapCounted])

theorem generation_laneReplaced (s : State) (l : Nat) (hiEnd : Bool) (x : Link) (n old st : Nat) :
    (laneReplaced s l hiEnd x n old st).reg pmDmapGenAt = s.reg pmDmapGenAt + 1 := by
  unfold laneReplaced
  rw [(newGeneration_facts _).2, (linkWork_laneReplaced ..).gen]

theorem counted_laneReplaced (s : State) (l : Nat) (hiEnd : Bool) (x : Link) {n : Nat} (old st : Nat) (hspare : n ≤ 2) :
    Counted (rtrLaneSwapCntAt (endRouter l hiEnd)) s (laneReplaced s l hiEnd x n old st) := by
  have hkept := (cellKept_worseNoted (endRouter l hiEnd) (swapCounted (changeLink s l x) l hiEnd n) l old st).trans
    (cellKept_newGeneration _ (laneSwapCnt_ne (by decide)) (laneSwapCnt_ne_msgDropCnt _))
  have hcount := counted_swapCounted (changeLink s l x) l hiEnd hspare
  exact (hcount.to_kept hkept).of_ctr (ctr_changeLink ..)

theorem exec_laneLossOfLock {l : LinkId} (hiEnd : Bool) (hkind : linkKind l = .seam ∨ linkKind l = .edge)
    (hused : (s.link l).state = 2 ∨ (s.link l).state = 3) : exec (.laneLossOfLock l hiEnd) s =
      .next (laneReplaced (advFab s ((s.fab / 5 + 1) * 5)) l hiEnd (laneLost s l hiEnd) ((laneLost s l hiEnd).failedAt hiEnd)
        (s.link l).state (linkStateOf (linkKind l) (max (laneLost s l hiEnd).failedLo (laneLost s l hiEnd).failedHi))) := by
  have hlink : (advFab s ((s.fab / 5 + 1) * 5)).link l = s.link l := by
    rw [advFab_eq]
    rfl
  show execLaneLossOfLock l hiEnd s = _
  unfold execLaneLossOfLock
  dsimp only
  rw [if_pos ⟨hkind, hused⟩, hlink]
  cases hiEnd <;> rfl

theorem goes_laneLossOfLock {l : LinkId} (hiEnd : Bool) (hkind : linkKind l = .seam ∨ linkKind l = .edge)
    (hused : (s.link l).state = 2 ∨ (s.link l).state = 3) : Goes (.laneLossOfLock l hiEnd) s fun t =>
    t.fab = (s.fab / 5 + 1) * 5 ∧
    t = { s with fab := t.fab, regs := t.regs, routers := t.routers, links := t.links, keepers := t.keepers, parts := t.parts,
                 quarters := t.quarters, mgr := t.mgr } ∧
    LinkSet l (laneLost s l hiEnd) s t ∧ t.reg pmDmapGenAt = s.reg pmDmapGenAt + 1 ∧
    ((laneLost s l hiEnd).failedAt hiEnd ≤ 2 → Counted (rtrLaneSwapCntAt (endRouter l hiEnd)) s t) := by
  have hfab : (advFab s ((s.fab / 5 + 1) * 5)).fab = (s.fab / 5 + 1) * 5 := by
    rw [fab_advFab]
    omega
  have hadv := advFab_eq s ((s.fab / 5 + 1) * 5)
  have hexec := exec_laneLossOfLock hiEnd hkind hused
  generalize advFab s ((s.fab / 5 + 1) * 5) = v at hfab hadv hexec
  generalize hx : laneLost s l hiEnd = x at hexec ⊢
  generalize linkStateOf (linkKind l) (max x.failedLo x.failedHi) = st at hexec
  have hsame := (returnWork_laneReplaced v l hiEnd x (x.failedAt hiEnd) (s.link l).state st).same
  have hset := linkSet_laneReplaced v l hiEnd x (x.failedAt hiEnd) (s.link l).state st
  have hgen := generation_laneReplaced v l hiEnd x (x.failedAt hiEnd) (s.link l).state st
  have hcount := counted_laneReplaced v l hiEnd x (n := x.failedAt hiEnd) (s.link l).state st
  generalize laneReplaced v l hiEnd x (x.failedAt hiEnd) (s.link l).state st = t at hexec hsame hset hgen hcount
  refine ⟨t, hexec, (congrArg State.fab hsame).trans hfab, by rw [hsame, hadv], ⟨hset.1, fun k hk => (hset.2 k hk).trans ?_⟩, hgen.trans ?_,
    fun hspare => (hcount hspare).of_ctr ?_⟩ <;>
  · rw [hadv]
    rfl

/-! ### Full ejection buffers (R229) -/

theorem rtr_refreshSusp (s : State) (k : Nat) : (refreshSusp s).rtr k = s.rtr k := by
  obtain ⟨a, n, h⟩ := refreshSusp_cases s
  rw [h]
  simp

theorem rtr_advFab (s : State) (f k : Nat) : (advFab s f).rtr k = s.rtr k := by
  rw [advFab_eq]
  rfl

/-- The passage of time, then routers, then registers: what all three change. -/
theorem time_routers_regs {v w : State} (hv : v = { s with fab := v.fab, keepers := v.keepers, mgr := v.mgr })
    (hw : w = { v with routers := w.routers }) (ht : t = { w with regs := t.regs }) :
    t = { s with fab := t.fab, regs := t.regs, routers := t.routers, keepers := t.keepers, mgr := t.mgr } := by
  rw [ht, hw, hv]

/-- At a later cycle the router at a site changes, and the suspensions follow: besides, registers and the passage of time. -/
theorem suspend_facts (s : State) (site f : Nat) (g : Router → Router) :
    let t := refreshSusp ((advFab s f).modRtr site g)
    t = { s with fab := t.fab, regs := t.regs, routers := t.routers, keepers := t.keepers, mgr := t.mgr } ∧
    RegsBut [pmFabSuspAt, pmFabSuspCntAt] s t ∧ (∀ k, k ≠ site → t.rtr k = s.rtr k) ∧ t.fab = max s.fab f ∧ t.rtr site = g (s.rtr site) := by
  have hsame := time_routers_regs (advFab_eq s f) (w := (advFab s f).modRtr site g) rfl (refreshSusp_eq _)
  have hregs := regsBut_refreshSusp ((advFab s f).modRtr site g)
  refine ⟨hsame, fun a ha => (hregs a ha).trans (reg_advFab s f a), fun k hk => ?_, ?_, ?_⟩
  · rw [rtr_refreshSusp, State.modRtr, State.setRtr_rtr, if_neg hk, rtr_advFab]
  · rw [fab_refreshSusp]
    exact fab_advFab s f
  · rw [rtr_refreshSusp, State.modRtr, State.setRtr_self, rtr_advFab]

theorem exec_ejectFullTimeout {p : AgentPort} {b f : Nat}
    (h : earliest ((s.rtr (portOf p).1).fullSince.filter fun e =>
      atPort (portOf p).2 e.1 && (find? (s.rtr (portOf p).1).ejSusp e.1).isNone) = some (b, f)) :
    exec (.ejectFullTimeout p) s =
      .next (refreshSusp ((advFab s (f + 100)).modRtr (portOf p).1 fun r => { r with ejSusp := putAt r.ejSusp b none })) := by
  show execEjectFullTimeout p s = _
  unfold execEjectFullTimeout
  dsimp only
  rw [h]

theorem exec_ejectSuspendEnd {p : AgentPort} {b f : Nat}
    (h : earliest (((s.rtr (portOf p).1).ejSusp.filterMap fun e => e.2.map (e.1, ·)).filter fun e =>
      atPort (portOf p).2 e.1 && (find? (s.rtr (portOf p).1).fullSince e.1).isNone) = some (b, f)) :
    exec (.ejectSuspendEnd p) s =
      .next (refreshSusp ((advFab s (f + 2000)).modRtr (portOf p).1 fun r => { r with ejSusp := dropAt r.ejSusp b })) := by
  show execEjectSuspendEnd p s = _
  unfold execEjectSuspendEnd
  dsimp only
  rw [h]

/-! ### Congestion maps (R233) -/

theorem cmap_inj (site i j : Nat) (h : rtrCmapAt site i = rtrCmapAt site j) : i = j := by
  unfold rtrCmapAt at h
  omega

theorem cmapFrame_ne_cmap (site i : Nat) : rtrCmapFrameAt site ≠ rtrCmapAt site i := by
  unfold rtrCmapFrameAt rtrCmapAt
  omega

/-- The six words of a router's congestion map are written as v gives them. -/
def cmapWritten (v : State) (site m : Nat) : State :=
  (List.range 6).foldl (fun t p => t.setReg (rtrCmapAt site p) (cmapWord v site p m)) v

theorem cmapWritten_eq (v : State) (site m : Nat) : cmapWritten v site m = { v with regs := (cmapWritten v site m).regs } :=
  foldl_inv (fun t : State => t = { v with regs := t.regs }) _ _ v rfl fun t p _ h => by
    rw [h]
    rfl

theorem reg_cmapWritten (v : State) (site m : Nat) {i : Nat} (hi : i < 6) : (cmapWritten v site m).reg (rtrCmapAt site i) = cmapWord v site i m :=
  (foldl_setReg (cmap_inj site) (fun p _ => cmapWord v site p m) (List.range 6) v List.nodup_range).trans
    (if_pos (List.mem_range.2 hi))

/-- A router counts anew from a slot on. -/
def Router.countAnew (r : Router) (m : Nat) : Router :=
  { r with used := [0, 0, 0, 0, 0, 0], defl := [0, 0, 0, 0, 0, 0], cmapFrom := m, cmapPos := [] }

/-- The words of a congestion map stand in w: the frame is written beside them, and the router counts anew. -/
theorem latched_of_written {v w : State} {site frame m : Nat} (hsame : w = { v with regs := w.regs })
    (hwords : ∀ i < 6, w.reg (rtrCmapAt site i) = cmapWord v site i m) :
    let t := (w.setReg (rtrCmapFrameAt site) frame).modRtr site (·.countAnew m)
    t = { v with regs := t.regs, routers := t.routers } ∧ (∀ k, k ≠ site → t.rtr k = v.rtr k) ∧ t.rtr site = (v.rtr site).countAnew m ∧
    t.reg (rtrCmapFrameAt site) = frame ∧ ∀ i < 6, t.reg (rtrCmapAt site i) = cmapWord v site i m := by
  have hrtr : ∀ k, w.rtr k = v.rtr k := fun k => by
    rw [hsame]
    rfl
  refine ⟨?_, fun k hk => ?_, ?_, ?_, fun i hi => ?_⟩
  · rw [hsame]
    rfl
  · rw [State.modRtr, State.setRtr_rtr, if_neg hk]
    exact hrtr k
  · rw [State.modRtr, State.setRtr_self]
    exact congrArg (Router.countAnew · _) (hrtr site)
  · exact State.setReg_self ..
  · exact ((State.setReg_reg ..).trans (if_neg (cmapFrame_ne_cmap site i).symm)).trans (hwords i hi)

theorem latchCmap_eq (v : State) (site frame : Nat) : latchCmap v site frame =
    ((cmapWritten v site (v.fab / 5)).setReg (rtrCmapFrameAt site) (frame % 2 ^ 32)).modRtr site (·.countAnew (v.fab / 5)) := rfl

theorem latchCmap_facts (v : State) (site frame : Nat) :
    let t := latchCmap v site frame
    t = { v with regs := t.regs, routers := t.routers } ∧ (∀ k, k ≠ site → t.rtr k = v.rtr k) ∧
    t.rtr site = (v.rtr site).countAnew (v.fab / 5) ∧ t.reg (rtrCmapFrameAt site) = frame % 2 ^ 32 ∧
    ∀ i < 6, t.reg (rtrCmapAt site i) = cmapWord v site i (v.fab / 5) := by
  rw [latchCmap_eq]
  exact latched_of_written (cmapWritten_eq ..) fun i hi => reg_cmapWritten v site _ hi

/-- A router latches its counts of frame `frame` at v, a later instant of s. -/
theorem latchCmap_later {v : State} {site : Nat} (frame : Nat) (hrtr : ∀ k, v.rtr k = s.rtr k) :
    let t := latchCmap v site frame
    t.fab = v.fab ∧ t = { v with regs := t.regs, routers := t.routers } ∧ (∀ k, k ≠ site → t.rtr k = s.rtr k) ∧
    t.rtr site = (s.rtr site).countAnew (v.fab / 5) ∧ t.reg (rtrCmapFrameAt site) = frame % 2 ^ 32 ∧
    ∀ i < 6, t.reg (rtrCmapAt site i) = cmapWord v site i (v.fab / 5) := by
  obtain ⟨hsame, hothers, hself, hrest⟩ := latchCmap_facts v site frame
  refine ⟨?_, hsame, fun k hk => (hothers k hk).trans (hrtr k), ?_, hrest⟩
  · rw [hsame]
  · rw [hself, hrtr]

/-- Global time at a router at the slot in which its counts began. -/
def cmapBegan (s : State) (site : Nat) : Int := ((s.rtr site).cmapFrom * 5 / 2 : Nat) + (s.keeper site).adj

theorem exec_cmapLatch_tick {site : RouterId} {p : Partition} (hp : (partOf s (siteQuarter site)).filter (·.tick) = some p)
    (hbegan : cmapBegan s site < p.lastEdge) :
    exec (.cmapLatch site) s = .next (latchCmap s site (p.lastEdge / p.period - 1)) := by
  show execCmapLatch site s = _
  unfold execCmapLatch
  dsimp only
  rw [hp]
  exact if_pos hbegan

theorem exec_cmapLatch_free {site : RouterId} (hp : (partOf s (siteQuarter site)).filter (·.tick) = none) :
    exec (.cmapLatch site) s = .next (latchCmap (advNs s site (((cmapBegan s site).toNat / 250000 + 1) * 250000)) site 0) := by
  show execCmapLatch site s = _
  unfold execCmapLatch
  dsimp only
  rw [hp]
  rfl

/-- What the state of the links may bring with it leaves memory, clusters, units, stacks and the packets in flight. -/
theorem still_of_links (h : t = { s with
    fab := t.fab, regs := t.regs, routers := t.routers, links := t.links, keepers := t.keepers, parts := t.parts, quarters := t.quarters,
    mgr := t.mgr }) :
    SameMem s t ∧ t.clusters = s.clusters ∧ t.units = s.units ∧ t.mrs = s.mrs ∧ t.flights = s.flights :=
  ⟨fun _ => by rw [h], by rw [h], by rw [h], by rw [h], by rw [h]⟩

theorem still_of_routers (h : t = { s with
    fab := t.fab, regs := t.regs, routers := t.routers, keepers := t.keepers, mgr := t.mgr }) :
    SameMem s t ∧ t.clusters = s.clusters ∧ t.units = s.units ∧ t.mrs = s.mrs ∧ t.flights = s.flights :=
  still_of_links (by rw [h])

/-- Settles O39: each command by the lemma that says what it does. -/
theorem routersAndLinks : Obligations.RoutersAndLinks := by
  unfold Obligations.RoutersAndLinks
  intro s m still
  refine ⟨fun site hits hrun hfresh => goes_routerSlot hits hrun hfresh, fun l hiEnd hkind hused => ?_, fun p => ⟨fun b f h => ?_, fun b f h => ?_⟩, fun site => ⟨fun p hp hbegan => ?_, fun hp => ?_⟩⟩
  · obtain ⟨t, hexec, hfab, hsame, ⟨hself, hothers⟩, hgen, hcount⟩ := goes_laneLossOfLock hiEnd hkind hused
    exact ⟨t, hexec, hfab, still_of_links hsame, hothers, hself, hgen, hcount⟩
  · obtain ⟨hsame, hregs, hothers, hrest⟩ := suspend_facts s (portOf p).1 (f + 100) fun r => { r with ejSusp := putAt r.ejSusp b none }
    exact ⟨_, exec_ejectFullTimeout h, ⟨still_of_routers hsame, hregs, hothers⟩, hrest⟩
  · obtain ⟨hsame, hregs, hothers, hrest⟩ := suspend_facts s (portOf p).1 (f + 2000) fun r => { r with ejSusp := dropAt r.ejSusp b }
    exact ⟨_, exec_ejectSuspendEnd h, ⟨still_of_routers hsame, hregs, hothers⟩, hrest⟩
  · exact ⟨_, exec_cmapLatch_tick hp hbegan, latchCmap_later _ fun _ => rfl⟩
  · exact ⟨_, exec_cmapLatch_free hp, latchCmap_later _ fun _ => rtr_advFab ..⟩

end Sys2Proof.Machine
end

section
/-! Glints are taken, gathered and ended (R234, R235). -/

namespace Sys2Proof.Machine

variable {s t u : State}

/-! ### Changes of one part of the state after changes of another -/

theorem routers_twice {v : State} (hv : v = { s with routers := v.routers }) (ht : t = { v with routers := t.routers }) :
    t = { s with routers := t.routers } := by
  rw [ht, hv]

theorem routers_then_regs_mgr {v : State} (hv : v = { s with routers := v.routers }) (ht : t = { v with regs := t.regs, mgr := t.mgr }) :
    t = { s with regs := t.regs, mgr := t.mgr, routers := t.routers } := by
  rw [ht, hv]

theorem fab_of_regs_mgr (h : t = { s with regs := t.regs, mgr := t.mgr }) : t.fab = s.fab := by
  rw [h]

/-! ### Packets that a register agent receives and sends -/

/-- The state in which the register agent at a site has taken a packet it obeys. -/
def mgmtTaken (s : State) (site : Nat) (p : Packet) : State :=
  seeEpoch (popEject s site (regPort site) p.dagt) site (p.addr % 65536)

theorem serveMgmt_taken {site sub : Nat} {p : Packet} (f : Packet → State → State)
    (h : ejected s site (regPort site) (fun p => p.typ == tMgmt && p.sub == sub) = some p) (ho : obeys s site p = true) :
    serveMgmt site sub f s = .next (f p (mgmtTaken s site p)) := by
  unfold serveMgmt
  rw [serve_eq (at_ := (site, regPort site)) _ _ h]
  dsimp only
  rw [if_pos ((obeys_popEject ..).trans ho)]
  rfl

theorem mgmtTaken_eq (s : State) (site : Nat) (p : Packet) : mgmtTaken s site p = { s with routers := (mgmtTaken s site p).routers } :=
  routers_twice (popEject_eq ..) (seeEpoch_eq ..)

theorem rtr_mgmtTaken_ne (s : State) {site k : Nat} (p : Packet) (h : k ≠ site) : (mgmtTaken s site p).rtr k = s.rtr k :=
  (rtr_seeEpoch_ne _ _ h).trans (rtr_popEject_ne _ _ _ h)

theorem inject_seeEpoch (s : State) (site e k : Nat) : ((seeEpoch s site e).rtr k).inject = (s.rtr k).inject := by
  unfold seeEpoch
  split
  · rw [State.modRtr, State.setRtr_rtr]
    split
    · next h => rw [h]
    · rfl
  · rfl

theorem inject_mgmtTaken (s : State) (site : Nat) (p : Packet) (k : Nat) :
    ((mgmtTaken s site p).rtr k).inject = (s.rtr k).inject :=
  (inject_seeEpoch ..).trans (inject_popEject ..)

/-- A packet of the register agent at a site, as it waits to enter. -/
def asRegAgent (site : Nat) (p : Packet) : Packet := { p with cls := cCtrl, ssite := site, sagt := regAgent site }

/-- Packets that the register agent at a site sends one after another: its router alone changes, and they wait behind the others. -/
theorem foldl_fromRegAgent (site : Nat) (l : List Packet) (s : State) :
    let t := l.foldl (fun s p => fromRegAgent s site p) s
    t = { s with routers := t.routers } ∧ (∀ k, k ≠ site → t.rtr k = s.rtr k) ∧
    (t.rtr site).inject = (s.rtr site).inject ++ l.map fun p => (regPort site, asRegAgent site p) := by
  induction l generalizing s with
  | nil => exact ⟨rfl, fun _ _ => rfl, (List.append_nil _).symm⟩
  | cons p l ih =>
    obtain ⟨heq, hothers, hsent⟩ := ih (fromRegAgent s site p)
    have hone : ((fromRegAgent s site p).rtr site).inject = (s.rtr site).inject ++ [(regPort site, asRegAgent site p)] :=
      sends_inject ..
    refine ⟨heq.trans (by rw [heq]; rfl), fun k hk => (hothers k hk).trans ?_, hsent.trans ?_⟩
    · exact (State.setRtr_rtr ..).trans (if_neg hk)
    · rw [hone, List.append_assoc]
      rfl

/-! ### A Glint is asked for (R234) -/

theorem glintPeriod_pos (s : State) : 0 < glintPeriod s := by
  unfold glintPeriod
  omega

/-- The instant of the next Glint: the next multiple of the period. -/
def glintInstant (s : State) : Nat := (mgrNs s / glintPeriod s + 1) * glintPeriod s

theorem glintInstant_facts (s : State) :
    mgrNs s < glintInstant s ∧ glintInstant s ≤ mgrNs s + glintPeriod s ∧ glintInstant s % glintPeriod s = 0 := by
  have hdiv := Nat.div_add_mod' (mgrNs s) (glintPeriod s)
  have hmod := Nat.mod_lt (mgrNs s) (glintPeriod_pos s)
  have hnext : glintInstant s = mgrNs s / glintPeriod s * glintPeriod s + glintPeriod s := Nat.succ_mul ..
  exact ⟨by omega, by omega, Nat.mul_mod_left ..⟩

/-- The manager notes, at v, the Glint of instant T as the one under way. -/
def glintNoted (v : State) (T : Nat) : State := v.modMgr fun m => { m with glint := some { at_ := T, sentAt := v.fab } }

/-- The active manager asks every router for its record. -/
def recordsAsked (w : State) : State := (List.range 400).foldl (fun u i => fromMgr u (mgmtTo i (regAgent i) 4)) w

theorem recordsAsked_eq (w : State) : recordsAsked w = { w with routers := (recordsAsked w).routers } :=
  foldl_fromMgr_eq (fun i => mgmtTo i (regAgent i) 4) (List.range 400) w

theorem exec_glintTake (ha : (activeMgr s).isSome = true) (hon : s.regField pmGlintCtlAt 31 31 = 1) (hidle : s.mgr.glint = none) :
    exec .glintTake s = .next (recordsAsked (glintNoted (advMgr s (glintInstant s)) (glintInstant s))) := by
  obtain ⟨b, hb⟩ := Option.isSome_iff_exists.1 ha
  show execGlintTake s = _
  unfold execGlintTake
  rw [hb]
  exact if_pos ⟨hon, by rw [hidle]; rfl⟩

/-- What asking for records changes besides routers: the manager's note of the Glint. -/
theorem asked_facts {v w : State} {T : Nat} (hv : v = { s with fab := v.fab, keepers := v.keepers, mgr := v.mgr })
    (hw : w = glintNoted v T) (ht : t = { w with routers := t.routers }) :
    t.fab = v.fab ∧ t.mgr.glint = some { at_ := T, sentAt := t.fab } ∧ SameMem s t ∧ RegsBut [] s t ∧ w = { v with mgr := t.mgr } := by
  refine ⟨by rw [ht, hw]; rfl, by rw [ht, hw]; rfl, fun a => by rw [ht, hw, hv]; rfl, fun a _ => by rw [ht, hw, hv]; rfl, ?_⟩
  rw [ht, hw]
  rfl

theorem goes_glintTake (ha : (activeMgr s).isSome = true) (hon : s.regField pmGlintCtlAt 31 31 = 1) (hidle : s.mgr.glint = none) :
    Goes .glintTake s fun t => ∃ T, mgrNs s < T ∧ T ≤ mgrNs s + glintPeriod s ∧ T % glintPeriod s = 0 ∧ t.fab = (advMgr s T).fab ∧
      t.mgr.glint = some { at_ := T, sentAt := t.fab } ∧ SameMem s t ∧ RegsBut [] s t ∧
      ∃ w, w = { advMgr s T with mgr := t.mgr } ∧ t = recordsAsked w := by
  obtain ⟨hlater, hwithin, hmultiple⟩ := glintInstant_facts s
  obtain ⟨hfab, hglint, hmem, hregs, hw⟩ := asked_facts (advMgr_eq s (glintInstant s)) rfl (recordsAsked_eq (glintNoted _ (glintInstant s)))
  exact ⟨_, exec_glintTake ha hon hidle, glintInstant s, hlater, hwithin, hmultiple, hfab, hglint, hmem, hregs, _, hw, rfl⟩

/-! ### A router answers with its record (R234, R235) -/

/-- The packet that carries the record of the router at a site to whoever asked with p. -/
def glintAnswer (s : State) (site : Nat) (p : Packet) : Packet :=
  withPayload (mgmtTo p.ssite p.sagt 5) ((glintRecord s site).flatMap (leBytes 4))

theorem glintAnswer_mgmtTaken (s : State) (site : Nat) (p : Packet) : glintAnswer (mgmtTaken s site p) site p = glintAnswer s site p := by
  rw [mgmtTaken_eq]
  rfl

theorem goes_glintReq {site : RouterId} {p : Packet}
    (h : ejected s site (regPort site) (fun p => p.typ == tMgmt && p.sub == 4) = some p) (ho : obeys s site p = true) :
    Goes (.glintReq site) s fun t => t = { s with routers := t.routers } ∧
      Sends site (regPort site) (asRegAgent site (glintAnswer s site p)) s t ∧ ∀ k, k ≠ site.val → t.rtr k = s.rtr k := by
  have hexec : exec (.glintReq site) s = .next (fromRegAgent (mgmtTaken s site p) site (glintAnswer (mgmtTaken s site p) site p)) :=
    serveMgmt_taken (fun p s => fromRegAgent s site (glintAnswer s site p)) h ho
  rw [glintAnswer_mgmtTaken] at hexec
  obtain ⟨heq, hothers, hsent⟩ := foldl_fromRegAgent site [glintAnswer s site p] (mgmtTaken s site p)
  refine ⟨_, hexec, routers_twice (mgmtTaken_eq s site p) heq, hsent.trans ?_, fun k hk => (hothers k hk).trans (rtr_mgmtTaken_ne s p hk)⟩
  rw [inject_mgmtTaken]
  rfl

/-! ### A Glint ends (R234, R235) -/

/-- What the end of a Glint of instant `at_` with the records recs writes, where the manager held m. -/
def GlintEnded (s : State) (m : Manager) (at_ : Nat) (recs : List (Nat × List Nat)) (t : State) : Prop :=
  t.mgr = { m with glint := none, glintSeq := s.mgr.glintSeq + 1
                   glints := s.mgr.glints.filter (fun x => x.slot != s.mgr.glintSeq % 64) ++
                     [{ slot := s.mgr.glintSeq % 64, seq := s.mgr.glintSeq, at_ := at_, recs := recs }] } ∧
  t.reg pmGlintStatAt = s.mgr.glintSeq % 2 ^ 32 * 2 ^ 32 + 64 + s.mgr.glintSeq % 64 ∧ RegsBut [pmGlintStatAt, pmGlintMissCntAt] s t ∧
  (recs.length < 400 → t.ctr pmGlintMissCntAt = min (s.ctr pmGlintMissCntAt + (400 - recs.length)) 0xFFFFFFFFFFFF)

theorem finishGlint_eq (s : State) (at_ : Nat) (recs : List (Nat × List Nat)) :
    finishGlint s at_ recs = { s with regs := (finishGlint s at_ recs).regs, mgr := (finishGlint s at_ recs).mgr } := by
  unfold finishGlint
  dsimp only
  rw [bumpBy_eq]
  rfl

theorem mgr_bumpBy (s : State) (a n : Nat) : (s.bumpBy a n).mgr = s.mgr := by
  rw [bumpBy_eq]

/-- Two registers of a Glint's end: the state's, then the counter of what is missing. -/
theorem glintRegs_facts (s : State) (x n : Nat) :
    let t := (s.setReg pmGlintStatAt x).bumpBy pmGlintMissCntAt n
    t.reg pmGlintStatAt = x ∧ RegsBut [pmGlintStatAt, pmGlintMissCntAt] s t ∧ CountedBy pmGlintMissCntAt n s t := by
  refine ⟨?_, fun a ha => ?_, ?_⟩
  · rw [reg_bumpBy_ne _ (by decide), State.setReg_self]
  · simp only [List.mem_cons, List.not_mem_nil, or_false, not_or] at ha
    rw [reg_bumpBy_ne _ ha.2, State.setReg_reg, if_neg ha.1]
  · have hcount := countedBy_bumpBy (s.setReg pmGlintStatAt x) pmGlintMissCntAt n
    unfold CountedBy at hcount ⊢
    rwa [ctr_setReg_ne _ _ (by decide)] at hcount

theorem glintEnded_finishGlint {v : State} (at_ : Nat) (recs : List (Nat × List Nat)) (hseq : v.mgr.glintSeq = s.mgr.glintSeq)
    (hslots : v.mgr.glints = s.mgr.glints) (hregs : v.regs = s.regs) : GlintEnded s v.mgr at_ recs (finishGlint v at_ recs) := by
  have hreg : ∀ a, v.reg a = s.reg a := fun a => by
    unfold State.reg
    rw [hregs]
  have hctr : ∀ a, v.ctr a = s.ctr a := fun a => by
    unfold State.ctr
    rw [hregs]
  unfold GlintEnded finishGlint
  dsimp only
  generalize hw : v.modMgr _ = w
  obtain ⟨hstat, hothers, hmiss⟩ := glintRegs_facts w (v.mgr.glintSeq % 2 ^ 32 * 2 ^ 32 + 64 + v.mgr.glintSeq % 64) (400 - recs.length)
  refine ⟨?_, ?_, fun a ha => (hothers a ha).trans ?_, fun hlt => hmiss.trans ?_⟩
  · rw [mgr_bumpBy, ← hseq, ← hslots, ← hw]
    rfl
  · rw [← hseq]
    exact hstat
  · rw [← hw]
    exact hreg a
  · have hkept : w.ctr pmGlintMissCntAt = s.ctr pmGlintMissCntAt := by
      rw [← hw]
      exact hctr _
    rw [if_neg (by omega), hkept]

/-! ### Records arrive, or their time is over (R234) -/

/-- The state in which the active manager b has taken p. -/
def mgrTaken (s : State) (b : Bool) (p : Packet) : State :=
  popEject s (portOfEdge (managerEdge b)).1 (portOfEdge (managerEdge b)).2 p.dagt

theorem mgrTaken_eq (s : State) (b : Bool) (p : Packet) : mgrTaken s b p = { s with routers := (mgrTaken s b p).routers } := rfl

/-- The records of a Glint with that of p among them. -/
def withRecord (g : GlintOp) (p : Packet) : List (Nat × List Nat) :=
  putAt g.got p.ssite ((List.range 8).map fun i => leNat ((p.payload.drop (4 * i)).take 4))

theorem exec_glintRec {b : Bool} {p : Packet} {g : GlintOp} (ha : activeMgr s = some b) (hg : s.mgr.glint = some g)
    (h : ejected s (portOfEdge (managerEdge b)).1 (portOfEdge (managerEdge b)).2 (fun p => p.typ == tMgmt && p.sub == 5 && p.dagt == 5) = some p) :
    exec .glintRec s = .next (if g.sentAt + 200000 < s.fab then mgrTaken s b p
      else if (withRecord g p).length ≥ 400 then finishGlint (mgrTaken s b p) g.at_ (withRecord g p)
      else (mgrTaken s b p).modMgr fun m => { m with glint := some { g with got := withRecord g p } }) := by
  have hexec : exec .glintRec s = _ := serveMgr_eq tMgmt 5 _ ha h
  have hkept : (popEject s (portOfEdge (managerEdge b)).1 (portOfEdge (managerEdge b)).2 p.dagt).mgr.glint = some g := hg
  dsimp only at hexec
  rw [hkept] at hexec
  exact hexec

theorem goes_glintRec {b : Bool} {p : Packet} {g : GlintOp} (ha : activeMgr s = some b) (hg : s.mgr.glint = some g)
    (h : ejected s (portOfEdge (managerEdge b)).1 (portOfEdge (managerEdge b)).2 (fun p => p.typ == tMgmt && p.sub == 5 && p.dagt == 5) = some p) :
    (g.sentAt + 200000 < s.fab → Goes .glintRec s fun t => t = { s with routers := t.routers }) ∧
    (s.fab ≤ g.sentAt + 200000 → (withRecord g p).length < 400 → Goes .glintRec s fun t =>
      t.mgr = { s.mgr with glint := some { g with got := withRecord g p } } ∧ t = { s with mgr := t.mgr, routers := t.routers }) ∧
    (s.fab ≤ g.sentAt + 200000 → 400 ≤ (withRecord g p).length → Goes .glintRec s fun t =>
      GlintEnded s s.mgr g.at_ (withRecord g p) t ∧ t = { s with regs := t.regs, mgr := t.mgr, routers := t.routers }) := by
  have hexec := exec_glintRec ha hg h
  have htaken := mgrTaken_eq s b p
  refine ⟨fun hlate => ?_, fun hintime hfew => ?_, fun hintime hall => ?_⟩
  · rw [if_pos hlate] at hexec
    exact ⟨_, hexec, htaken⟩
  · rw [if_neg (Nat.not_lt.2 hintime), if_neg (Nat.not_le.2 hfew)] at hexec
    exact ⟨_, hexec, rfl, rfl⟩
  · rw [if_neg (Nat.not_lt.2 hintime), if_pos hall] at hexec
    refine ⟨_, hexec, glintEnded_finishGlint (v := mgrTaken s b p) g.at_ (withRecord g p) rfl rfl rfl,
      routers_then_regs_mgr htaken (finishGlint_eq ..)⟩

theorem exec_glintRecordTimeout {g : GlintOp} (ha : (activeMgr s).isSome = true) (hg : s.mgr.glint = some g) :
    exec .glintRecordTimeout s = .next (finishGlint (advFab s (g.sentAt + 200000)) g.at_ g.got) := by
  obtain ⟨b, hb⟩ := Option.isSome_iff_exists.1 ha
  show execGlintRecordTimeout s = _
  unfold execGlintRecordTimeout
  rw [hb, hg]

theorem goes_glintRecordTimeout {g : GlintOp} (ha : (activeMgr s).isSome = true) (hg : s.mgr.glint = some g) :
    Goes .glintRecordTimeout s fun t =>
      GlintEnded s (advFab s (g.sentAt + 200000)).mgr g.at_ g.got t ∧ t.fab = max s.fab (g.sentAt + 200000) ∧
      t = { advFab s (g.sentAt + 200000) with regs := t.regs, mgr := t.mgr } := by
  obtain ⟨a, d, n, hmgr⟩ := mgr_advFab s (g.sentAt + 200000)
  have hregs : (advFab s (g.sentAt + 200000)).regs = s.regs := by rw [advFab_eq]
  have hsame := finishGlint_eq (advFab s (g.sentAt + 200000)) g.at_ g.got
  refine ⟨_, exec_glintRecordTimeout ha hg, glintEnded_finishGlint _ _ (by rw [hmgr]) (by rw [hmgr]) hregs, ?_, hsame⟩
  exact (fab_of_regs_mgr hsame).trans (fab_advFab ..)

end Sys2Proof.Machine
end

section
/-! Counter snapshots are latched, sent, received and ended (R356, R491 to R493). -/

namespace Sys2Proof.Machine

variable {s t u : State}

/-! ### Writes to host memory (R341, R356) -/

/-- Writes of quarter q's endpoint to its host: what has left the block, and nothing while the link is down. -/
structure HostWork (q : Nat) (s t : State) : Prop where
  same : t = { s with out := t.out }
  down : (s.qtr q).pcieUp = false → t.out = s.out

theorem HostWork.refl (q : Nat) (s : State) : HostWork q s s := ⟨rfl, fun _ => rfl⟩

theorem HostWork.qtr {q : Nat} (h : HostWork q s t) (k : Nat) : t.qtr k = s.qtr k := by
  rw [h.same]
  rfl

theorem HostWork.slotAddr {q : Nat} (h : HostWork q s t) (k n off : Nat) : slotAddr t k n off = slotAddr s k n off := by
  rw [h.same]
  rfl

theorem HostWork.trans {q : Nat} (h : HostWork q s u) (h' : HostWork q u t) : HostWork q s t :=
  ⟨by rw [h'.same, h.same], fun hdown => (h'.down (by rw [h.qtr, hdown])).trans (h.down hdown)⟩

theorem hostWork_slotWrite (s : State) (q n off : Nat) (bs : Bytes) : HostWork q s (slotWrite s q n off bs) := by
  unfold slotWrite
  rw [toHost_eq]
  exact ⟨rfl, fun hdown => if_neg (by rw [hdown]; decide)⟩

theorem out_slotWrite {q : Nat} (n off : Nat) (bs : Bytes) (hup : (s.qtr q).pcieUp = true) :
    (slotWrite s q n off bs).out = .hostWrite q (slotAddr s q n off) bs false :: s.out := by
  unfold slotWrite
  rw [toHost_up _ hup]
  rfl

/-! ### What a snapshot of one quarter may change -/

/-- Quarter q and what has left the block. -/
structure SnapWork (q : Nat) (s t : State) : Prop where
  same : t = { s with quarters := t.quarters, out := t.out }
  others : OnlyQtr q s t

theorem SnapWork.refl (q : Nat) (s : State) : SnapWork q s s := ⟨rfl, fun _ _ => rfl⟩

theorem SnapWork.trans {q : Nat} (h : SnapWork q s u) (h' : SnapWork q u t) : SnapWork q s t :=
  ⟨by rw [h'.same, h.same], fun k hk => (h'.others k hk).trans (h.others k hk)⟩

theorem SnapWork.fab {q : Nat} (h : SnapWork q s t) : t.fab = s.fab := by
  rw [h.same]

theorem HostWork.snapWork {q : Nat} (h : HostWork q s t) : SnapWork q s t := ⟨by rw [h.same], fun k _ => h.qtr k⟩

theorem snapWork_modQtr (s : State) (q : Nat) (f : Quarter → Quarter) : SnapWork q s (s.modQtr q f) :=
  ⟨rfl, (modQtr_only s q f).2.1⟩

/-! ### A snapshot ends (R492, R493) -/

/-- What the end of a snapshot writes before the sequence number: the records that are missing, the VALID bits and the sections. -/
def snapFilled (s : State) (q : Nat) (x : SnapOp) : State :=
  let sites := recordSites x.qmask
  let s := sites.foldl (fun s i => match wholeRecord x i with
    | some _ => s
    | none => slotWrite s q x.seq (recordPlace i).1 (zeros (recordSize i))) s
  let s := (maskQuarters x.qmask).foldl (fun s k =>
    let valid := ((sites.filter fun i => siteQuarter i == k && (wholeRecord x i).isSome).map fun i => 2 ^ (recordPlace i).2).sum
    slotWrite s q x.seq (0x1000 + 0x38000 * k) (leBytes 128 valid)) s
  slotWrite (slotWrite (slotWrite s q x.seq 8 x.head) q x.seq 0x40 x.panel) q x.seq 0x140 x.part

theorem hostWork_snapFilled (s : State) (q : Nat) (x : SnapOp) : HostWork q s (snapFilled s q x) := by
  unfold snapFilled
  dsimp only
  refine (((HostWork.trans (foldl_inv (HostWork q s) _ _ s (.refl q s) fun t i _ h => h.trans ?_)
    (foldl_inv (HostWork q _) _ _ _ (.refl q _) fun t k _ h => h.trans (hostWork_slotWrite ..))).trans
    (hostWork_slotWrite ..)).trans (hostWork_slotWrite ..)).trans (hostWork_slotWrite ..)
  split
  · exact .refl q t
  · exact hostWork_slotWrite ..

theorem endSnap_eq (s : State) (q : Nat) (x : SnapOp) :
    endSnap s q x = (slotWrite (snapFilled s q x) q x.seq 0 (leBytes 8 x.seq)).modQtr q fun y => { y with snap := none } := rfl

theorem snapWork_endSnap (s : State) (q : Nat) (x : SnapOp) : SnapWork q s (endSnap s q x) := by
  rw [endSnap_eq]
  exact ((hostWork_snapFilled ..).trans (hostWork_slotWrite ..)).snapWork.trans (snapWork_modQtr ..)

theorem qtr_endSnap (s : State) (q : Nat) (x : SnapOp) : (endSnap s q x).qtr q = { s.qtr q with snap := none } := by
  rw [endSnap_eq, qtr_modQtr, if_pos rfl, ((hostWork_snapFilled ..).trans (hostWork_slotWrite ..)).qtr]

theorem out_modQtr (s : State) (q : Nat) (f : Quarter → Quarter) : (s.modQtr q f).out = s.out := rfl

theorem out_endSnap (s : State) (q : Nat) (x : SnapOp) :
    (endSnap s q x).out = (slotWrite (snapFilled s q x) q x.seq 0 (leBytes 8 x.seq)).out := by
  rw [endSnap_eq, out_modQtr]

theorem out_endSnap_up {q : Nat} (x : SnapOp) (hup : (s.qtr q).pcieUp = true) :
    ∃ l, (endSnap s q x).out = .hostWrite q (slotAddr s q x.seq 0) (leBytes 8 x.seq) false :: l := by
  have hfilled := hostWork_snapFilled s q x
  rw [← hfilled.slotAddr, out_endSnap]
  exact ⟨_, out_slotWrite _ _ _ (by rw [hfilled.qtr, hup])⟩

theorem out_endSnap_down {q : Nat} (x : SnapOp) (hdown : (s.qtr q).pcieUp = false) : (endSnap s q x).out = s.out := by
  rw [out_endSnap]
  exact ((hostWork_snapFilled ..).trans (hostWork_slotWrite ..)).down hdown

theorem qtr_advFab (s : State) (f k : Nat) : (advFab s f).qtr k = s.qtr k := by
  rw [advFab_eq]
  rfl

theorem slotAddr_advFab (s : State) (f q n off : Nat) : slotAddr (advFab s f) q n off = slotAddr s q n off := by
  rw [advFab_eq]
  rfl

theorem goes_snapshotRecordTimeout {q : QuarterId} {x : SnapOp} (hsnap : (s.qtr q).snap = some x) : Goes (.snapshotRecordTimeout q) s fun t =>
    t.fab = max s.fab (x.fab + 1000000) ∧ t = { advFab s (x.fab + 1000000) with quarters := t.quarters, out := t.out } ∧ OnlyQtr q s t ∧
    t.qtr q = { s.qtr q with snap := none } ∧
    ((s.qtr q).pcieUp = true → ∃ l, t.out = .hostWrite q (slotAddr s q x.seq 0) (leBytes 8 x.seq) false :: l) ∧
    ((s.qtr q).pcieUp = false → t.out = s.out) := by
  have hexec : exec (.snapshotRecordTimeout q) s = .next (endSnap (advFab s (x.fab + 1000000)) q x) := by
    show execSnapshotRecordTimeout q s = _
    unfold execSnapshotRecordTimeout
    rw [hsnap]
  have hwork := snapWork_endSnap (advFab s (x.fab + 1000000)) q x
  have hqtr := qtr_endSnap (advFab s (x.fab + 1000000)) q x
  have hout : (advFab s (x.fab + 1000000)).out = s.out := by rw [advFab_eq]
  refine ⟨_, hexec, hwork.fab.trans (fab_advFab ..), hwork.same, fun k hk => (hwork.others k hk).trans (qtr_advFab ..), ?_,
    fun hup => ?_, fun hdown => ?_⟩
  · rw [hqtr, qtr_advFab]
  · rw [← slotAddr_advFab s (x.fab + 1000000)]
    exact out_endSnap_up x (by rw [qtr_advFab, hup])
  · rw [out_endSnap_down x (by rw [qtr_advFab, hdown]), hout]

/-! ### Records of a snapshot arrive (R491, R493) -/

/-- The snapshot that quarter q awaits of an instant, of a mask to which a router belongs, while its records may still come. -/
def awaited (s : State) (q site at_ : Nat) : Option SnapOp :=
  (s.qtr q).snap.filter fun x => x.at_ == at_ && decide (s.fab ≤ x.fab + 1000000) && bit x.qmask (siteQuarter site)

/-- The record of a router is written when it has arrived whole. -/
def recordWritten (s : State) (q : Nat) (x : SnapOp) (site : Nat) : State :=
  match wholeRecord x site with
  | some b => slotWrite s q x.seq (recordPlace site).1 b
  | none => s

/-- The snapshot x, which has received a piece of a router's record: it is kept, or ends when it is whole. -/
def pieceTaken (s : State) (q : Nat) (x : SnapOp) (site : Nat) : State :=
  let w := recordWritten (s.modQtr q fun y => { y with snap := some x }) q x site
  if (recordSites x.qmask).all fun k => !(w.rtr k).running || (wholeRecord x k).isSome then endSnap w q x else w

theorem takePiece_eq (s : State) (q site i at_ : Nat) (bs : Bytes) : takePiece s q site i at_ bs =
    (awaited s q site at_).elim s fun x => pieceTaken s q { x with pieces := x.pieces ++ [(site, i, bs)] } site := by
  unfold takePiece awaited
  cases (s.qtr q).snap.filter fun x => x.at_ == at_ && decide (s.fab ≤ x.fab + 1000000) && bit x.qmask (siteQuarter site) <;> rfl

theorem snapWork_pieceTaken (s : State) (q : Nat) (x : SnapOp) (site : Nat) : SnapWork q s (pieceTaken s q x site) := by
  have hwritten : ∀ v, SnapWork q v (recordWritten v q x site) := fun v => by
    unfold recordWritten
    split
    · exact (hostWork_slotWrite ..).snapWork
    · exact .refl q v
  have hkept := (snapWork_modQtr s q fun y => { y with snap := some x }).trans (hwritten _)
  unfold pieceTaken
  dsimp only
  split
  · exact hkept.trans (snapWork_endSnap ..)
  · exact hkept

theorem snapWork_takePiece (s : State) (q site i at_ : Nat) (bs : Bytes) : SnapWork q s (takePiece s q site i at_ bs) := by
  rw [takePiece_eq]
  cases awaited s q site at_ with
  | none => exact .refl q s
  | some x => exact snapWork_pieceTaken ..

theorem takePiece_other {q site i at_ : Nat} {bs : Bytes} (h : ∀ x, (s.qtr q).snap = some x → x.at_ ≠ at_) :
    takePiece s q site i at_ bs = s := by
  have hnone : awaited s q site at_ = none := Option.filter_eq_none_iff.2 fun x hx => by simp [h x hx]
  rw [takePiece_eq, hnone]
  rfl

/-- The quarters of a list receive a piece of a record for the snapshot of an instant. -/
def piecesTaken (s : State) (l : List Nat) (site i at_ : Nat) (bs : Bytes) : State :=
  l.foldl (fun s k => takePiece s k site i at_ bs) s

theorem piecesTaken_eq (s : State) (l : List Nat) (site i at_ : Nat) (bs : Bytes) :
    piecesTaken s l site i at_ bs =
      { s with quarters := (piecesTaken s l site i at_ bs).quarters, out := (piecesTaken s l site i at_ bs).out } :=
  foldl_inv (fun t : State => t = { s with quarters := t.quarters, out := t.out }) _ l s rfl fun t k _ h =>
    (snapWork_takePiece t k site i at_ bs).same.trans (by rw [h])

/-- A quarter is as it was when it is not of the list, or awaits no snapshot of the instant. -/
theorem qtr_piecesTaken {l : List Nat} {k at_ : Nat} (site i : Nat) (bs : Bytes)
    (h : k ∈ l → ∀ x, (s.qtr k).snap = some x → x.at_ ≠ at_) : (piecesTaken s l site i at_ bs).qtr k = s.qtr k :=
  foldl_inv (fun t : State => t.qtr k = s.qtr k) _ l s rfl fun t j hj hkept => by
    by_cases hjk : j = k
    · subst hjk
      rw [takePiece_other (by rw [hkept]; exact h hj), hkept]
    · exact ((snapWork_takePiece t j site i at_ bs).others k (Ne.symm hjk)).trans hkept

/-- Routers, then quarters and what has left the block: what both together change. -/
theorem routers_then_quarters_out {v : State} (hv : v = { s with routers := v.routers })
    (ht : t = { v with quarters := t.quarters, out := t.out }) :
    t = { s with routers := t.routers, quarters := t.quarters, out := t.out } := by
  rw [ht, hv]

theorem goes_cntRec {q : QuarterId} {p : Packet} (h : ejected s (portOfEdge (controllerEdge q)).1 (portOfEdge (controllerEdge q)).2
    (fun p => p.typ == tMgmt && p.sub == 7 && p.dagt == 4) = some p) : Goes (.cntRec q) s fun t =>
    t = { s with routers := t.routers, quarters := t.quarters, out := t.out } ∧
    (∀ k, bit (qmaskOf s q) k = false → t.qtr k = s.qtr k) ∧
    ∀ k < 4, bit (qmaskOf s q) k = true → (∀ x, (s.qtr k).snap = some x → x.at_ ≠ leNat (p.payload.take 16)) → t.qtr k = s.qtr k := by
  have hexec : exec (.cntRec q) s =
      .next (piecesTaken (popEject s (portOfEdge (controllerEdge q)).1 (portOfEdge (controllerEdge q)).2 p.dagt) (maskQuarters (qmaskOf s q))
        p.ssite p.addr (leNat (p.payload.take 16)) (p.payload.drop 16)) :=
    serve_eq _ (fun p s => piecesTaken s (maskQuarters (qmaskOf s q)) p.ssite p.addr (leNat (p.payload.take 16)) (p.payload.drop 16)) h
  refine ⟨_, hexec, routers_then_quarters_out (popEject_eq ..) (piecesTaken_eq ..), fun k hk => ?_, fun k _ _ hother => ?_⟩
  · exact qtr_piecesTaken _ _ _ fun hin => absurd (mem_maskQuarters.1 hin).2 (by rw [hk]; decide)
  · exact qtr_piecesTaken _ _ _ fun _ => hother

/-! ### A memory router sends its record (R491) -/

theorem placeOf_stackSite : ∀ st : StackId, placeOf (stackSite st) = .stack st := by decide

theorem recordPackets_mgmtTaken (s : State) (st : StackId) (p : Packet) (at_ : Nat) :
    recordPackets (mgmtTaken s (stackSite st) p) (stackSite st) at_ = recordPackets s (stackSite st) at_ := by
  have hrecord : counterRecord (mgmtTaken s (stackSite st) p) (stackSite st) = counterRecord s (stackSite st) := by
    unfold counterRecord
    rw [placeOf_stackSite, mgmtTaken_eq]
    rfl
  unfold recordPackets
  rw [hrecord]

theorem goes_cntLatch {st : StackId} {p : Packet}
    (h : ejected s (stackSite st) (regPort (stackSite st)) (fun p => p.typ == tMgmt && p.sub == 6) = some p)
    (ho : obeys s (stackSite st) p = true) : Goes (.cntLatch st) s fun t => t = { s with routers := t.routers } ∧
    (∀ k, k ≠ stackSite st → t.rtr k = s.rtr k) ∧
    (t.rtr (stackSite st)).inject = (s.rtr (stackSite st)).inject ++
      (recordPackets s (stackSite st) (leNat p.payload)).map fun k => (regPort (stackSite st), asRegAgent (stackSite st) k) := by
  have hexec : exec (.cntLatch st) s = .next (sendRecord (mgmtTaken s (stackSite st) p) (stackSite st) (leNat p.payload)) :=
    serveMgmt_taken (fun p s => sendRecord s (stackSite st) (leNat p.payload)) h ho
  unfold sendRecord at hexec
  rw [recordPackets_mgmtTaken] at hexec
  obtain ⟨heq, hothers, hsent⟩ := foldl_fromRegAgent (stackSite st) (recordPackets s (stackSite st) (leNat p.payload)) (mgmtTaken s (stackSite st) p)
  rw [inject_mgmtTaken] at hsent
  exact ⟨_, hexec, routers_twice (mgmtTaken_eq ..) heq, fun k hk => (hothers k hk).trans (rtr_mgmtTaken_ne s p hk), hsent⟩

/-! ### A snapshot falls due (R356, R491) -/

/-- A quarter whose next snapshot has fallen due at an instant. -/
def Quarter.snapPassed (x : Quarter) (T : Nat) : Quarter := { x with snapSeq := x.snapSeq + 1, snapAt := T }

/-- A quarter that begins the snapshot op at an instant. -/
def Quarter.snapStarted (x : Quarter) (T : Nat) (op : SnapOp) : Quarter := { x.snapPassed T with snap := some op }

/-- The snapshot that a quarter of partition p begins at instant T: that of the partition at the same instant, or its own. -/
def snapBegun (s : State) (q : Nat) (p : Partition) (T frame : Nat) : SnapOp :=
  match (maskQuarters p.qmask).findSome? fun k => (s.qtr k).snap.filter fun x => x.at_ == T with
  | some x => { x with seq := (s.qtr q).snapSeq }
  | none => { at_ := T, fab := s.fab, seq := (s.qtr q).snapSeq, qmask := p.qmask, head := slotHead s T frame p.qmask
              panel := panelSection s, part := partSection s p.qmask }

theorem snapBegun_facts (s : State) (q : Nat) (p : Partition) (T frame : Nat) :
    (snapBegun s q p T frame).at_ = T ∧ (snapBegun s q p T frame).seq = (s.qtr q).snapSeq := by
  unfold snapBegun
  split
  · next x hx =>
    obtain ⟨k, -, hk⟩ := List.exists_of_findSome?_eq_some hx
    exact ⟨eq_of_beq (Option.filter_eq_some_iff.1 hk).2, rfl⟩
  · exact ⟨rfl, rfl⟩

/-- The slot of quarter q is marked as being written, and its snapshot op is under way. -/
def snapMarked (s : State) (q T : Nat) (op : SnapOp) : State :=
  slotWrite (s.modQtr q (·.snapStarted T op)) q (s.qtr q).snapSeq 0 (List.replicate 8 0xFF)

/-- The manager tells the memory routers of a mask of the instant, and the other dies send their records. -/
def recordsSent (s : State) (qmask T : Nat) : State :=
  (recordSites qmask).foldl (fun s i =>
    if (s.rtr i).running then
      match placeOf i with
      | .stack _ => fromMgr s (withPayload (mgmtTo i 3 6) (leBytes 16 T))
      | _ => sendRecord s i T
    else s) s

theorem beginSnap_cases (s : State) (q : Nat) (p : Partition) (T frame : Nat) :
    beginSnap s q p T frame = snapMarked s q T (snapBegun s q p T frame) ∨
    beginSnap s q p T frame = recordsSent (snapMarked s q T (snapBegun s q p T frame)) p.qmask T := by
  unfold beginSnap snapBegun
  dsimp only
  cases (maskQuarters p.qmask).findSome? fun k => (s.qtr k).snap.filter fun x => x.at_ == T with
  | some x => exact .inl rfl
  | none => exact .inr rfl

theorem recordsSent_eq (s : State) (qmask T : Nat) : recordsSent s qmask T = { s with routers := (recordsSent s qmask T).routers } := by
  refine foldl_routers _ (fun u i => ?_) _ s
  split
  · split
    · exact fromMgr_eq ..
    · exact (foldl_fromRegAgent ..).1
  · rfl

theorem same_with_routers (h : t = { s with quarters := t.quarters, out := t.out }) :
    t = { s with quarters := t.quarters, routers := t.routers, out := t.out } := by
  rw [h]

/-- What a snapshot that begins at v changes: quarter q, routers, and the mark that goes to host memory. -/
structure SnapBegins (q : Nat) (v t : State) (addr T : Nat) (op : SnapOp) : Prop where
  same : t = { v with quarters := t.quarters, routers := t.routers, out := t.out }
  others : OnlyQtr q v t
  out : t.out = .hostWrite q addr (List.replicate 8 0xFF) false :: v.out
  qtr : t.qtr q = (v.qtr q).snapStarted T op

theorem SnapBegins.fab {q addr T : Nat} {op : SnapOp} (h : SnapBegins q s t addr T op) : t.fab = s.fab := by
  rw [h.same]

theorem snapMarked_eq (s : State) (q T : Nat) (op : SnapOp) :
    snapMarked s q T op = toHost (s.modQtr q (·.snapStarted T op)) q
      (.hostWrite q (slotAddr s q (s.qtr q).snapSeq 0) (List.replicate 8 0xFF) false) := rfl

theorem snapBegins_snapMarked {q : Nat} (T : Nat) (op : SnapOp) (hup : (s.qtr q).pcieUp = true) :
    SnapBegins q s (snapMarked s q T op) (slotAddr s q (s.qtr q).snapSeq 0) T op := by
  obtain ⟨hsame, hothers, hout, hqtr⟩ := sends_toHost s q ((·.snapStarted T op))
    (.hostWrite q (slotAddr s q (s.qtr q).snapSeq 0) (List.replicate 8 0xFF) false) fun _ => rfl
  rw [if_pos hup] at hout
  rw [snapMarked_eq]
  exact ⟨same_with_routers hsame, hothers, hout, hqtr⟩

theorem SnapBegins.then_routers {q addr T : Nat} {op : SnapOp} (h : SnapBegins q s u addr T op) (ht : t = { u with routers := t.routers }) :
    SnapBegins q s t addr T op := by
  have hqtr : ∀ k, t.qtr k = u.qtr k := fun k => by
    rw [ht]
    rfl
  exact ⟨by rw [ht, h.same], fun k hk => (hqtr k).trans (h.others k hk), (congrArg State.out ht).trans h.out, (hqtr q).trans h.qtr⟩

theorem snapBegins_beginSnap {q : Nat} (p : Partition) (T frame : Nat) (hup : (s.qtr q).pcieUp = true) :
    SnapBegins q s (beginSnap s q p T frame) (slotAddr s q (s.qtr q).snapSeq 0) T (snapBegun s q p T frame) := by
  have hmarked := snapBegins_snapMarked T (snapBegun s q p T frame) hup
  rcases beginSnap_cases s q p T frame with h | h
  · rw [h]
    exact hmarked
  · rw [h]
    exact hmarked.then_routers (recordsSent_eq ..)

/-- The state at which quarter q's controller reads T ns. -/
def atSnap (s : State) (q T : Nat) : State := advNs s (edgeSite (controllerEdge q)) T

theorem atSnap_eq (s : State) (q T : Nat) :
    atSnap s q T = { s with fab := (atSnap s q T).fab, keepers := (atSnap s q T).keepers, mgr := (atSnap s q T).mgr } := advFab_eq ..

theorem qtr_atSnap (s : State) (q T k : Nat) : (atSnap s q T).qtr k = s.qtr k := by
  rw [atSnap_eq]
  rfl

theorem reg_atSnap (s : State) (q T a : Nat) : (atSnap s q T).reg a = s.reg a := by
  rw [atSnap_eq]
  rfl

theorem ctr_atSnap (s : State) (q T a : Nat) : (atSnap s q T).ctr a = s.ctr a := by
  rw [atSnap_eq]
  rfl

theorem exec_snapshotDue {q : QuarterId} {p : Partition} {T frame : Nat} (hp : partOf s q = some p) (hon : bit (s.reg (hstSnapCtlAt q)) 31 = true)
    (hsvc : (s.qtr q).svc ≠ 0) (hdue : snapDue s q p = some (T, frame)) : exec (.snapshotDue q) s =
      .next (if ((s.qtr q).snap.isSome = true ∨ (s.qtr q).pcieUp = false)
        then ((atSnap s q T).modQtr q (·.snapPassed T)).bump (hstSnapSkipCntAt q) else beginSnap (atSnap s q T) q p T frame) := by
  show execSnapshotDue q s = _
  unfold execSnapshotDue
  rw [hp]
  dsimp only
  rw [if_pos ⟨hon, hsvc⟩, hdue]
  dsimp only
  change (if ((atSnap s q T).qtr q).snap.isSome = true ∨ ((atSnap s q T).qtr q).pcieUp = false then _ else _) = _
  rw [qtr_atSnap]
  split <;> rfl

theorem fab_of_regs_quarters (h : t = { s with regs := t.regs, quarters := t.quarters }) : t.fab = s.fab := by
  rw [h]

theorem goes_snapshotDue_skipped {q : QuarterId} {p : Partition} {T frame : Nat} (hp : partOf s q = some p)
    (hon : bit (s.reg (hstSnapCtlAt q)) 31 = true) (hsvc : (s.qtr q).svc ≠ 0) (hdue : snapDue s q p = some (T, frame))
    (hskip : (s.qtr q).snap.isSome = true ∨ (s.qtr q).pcieUp = false) : Goes (.snapshotDue q) s fun t =>
    t.fab = (atSnap s q T).fab ∧ Counted (hstSnapSkipCntAt q) s t ∧ RegsBut [hstSnapSkipCntAt q] s t ∧
    t = { atSnap s q T with regs := t.regs, quarters := t.quarters } ∧ OnlyQtr q s t ∧ t.qtr q = (s.qtr q).snapPassed T := by
  have hexec := exec_snapshotDue hp hon hsvc hdue
  rw [if_pos hskip] at hexec
  obtain ⟨heq, hothers, hself⟩ := modQtr_only (atSnap s q T) q (·.snapPassed T)
  obtain ⟨hsame, hcount, hregs⟩ := counted_of_quarters heq (hstSnapSkipCntAt q)
  refine ⟨_, hexec, fab_of_regs_quarters hsame, ?_, fun a ha => (hregs a ha).trans (reg_atSnap ..), hsame, fun k hk => ?_, ?_⟩
  · unfold Counted at hcount ⊢
    rw [hcount, ctr_atSnap]
  · rw [qtr_bump, hothers k hk, qtr_atSnap]
  · rw [qtr_bump, hself, qtr_atSnap]

theorem goes_snapshotDue_begins {q : QuarterId} {p : Partition} {T frame : Nat} (hp : partOf s q = some p)
    (hon : bit (s.reg (hstSnapCtlAt q)) 31 = true) (hsvc : (s.qtr q).svc ≠ 0) (hdue : snapDue s q p = some (T, frame))
    (hidle : (s.qtr q).snap = none) (hup : (s.qtr q).pcieUp = true) : Goes (.snapshotDue q) s fun t =>
    t.fab = (atSnap s q T).fab ∧ t = { atSnap s q T with quarters := t.quarters, routers := t.routers, out := t.out } ∧ OnlyQtr q s t ∧
    t.out = .hostWrite q (slotAddr s q (s.qtr q).snapSeq 0) (List.replicate 8 0xFF) false :: s.out ∧
    ∃ x, t.qtr q = (s.qtr q).snapStarted T x ∧ x.at_ = T ∧ x.seq = (s.qtr q).snapSeq := by
  have hexec := exec_snapshotDue hp hon hsvc hdue
  rw [if_neg (by rw [hidle, hup]; decide)] at hexec
  have haddr : slotAddr (atSnap s q T) q (s.qtr q).snapSeq 0 = slotAddr s q (s.qtr q).snapSeq 0 := slotAddr_advFab ..
  have hout : (atSnap s q T).out = s.out := by rw [atSnap_eq]
  obtain ⟨hat, hseq⟩ := snapBegun_facts (atSnap s q T) q p T frame
  have hbegins := snapBegins_beginSnap (q := q) p T frame ((congrArg Quarter.pcieUp (qtr_atSnap s q T q)).trans hup)
  have hwrite := hbegins.out
  have hself := hbegins.qtr
  rw [qtr_atSnap] at hwrite hself hseq
  refine ⟨_, hexec, hbegins.fab, hbegins.same, fun k hk => (hbegins.others k hk).trans (qtr_atSnap ..), ?_, _, hself, hat, hseq⟩
  rw [hwrite, haddr, hout]

/-- Settles O40: each command by the lemma that says what it does. -/
theorem glintsAndSnapshots : Obligations.GlintsAndSnapshots := by
  unfold Obligations.GlintsAndSnapshots
  intro s mgmt whole
  refine ⟨fun ha hon hidle => goes_glintTake ha hon hidle, fun site p h => goes_glintReq h.1 h.2, fun b p g ha hg h => goes_glintRec ha hg h,
    fun g ha hg => goes_glintRecordTimeout ha hg, fun q p T frame hp hon hsvc hdue => ⟨fun hskip => ?_, fun hidle hup => ?_⟩,
    fun st p h => goes_cntLatch h.1 h.2, fun q p h => goes_cntRec h, fun q x h => goes_snapshotRecordTimeout h⟩
  · exact goes_snapshotDue_skipped hp hon hsvc hdue hskip
  · exact goes_snapshotDue_begins hp hon hsvc hdue hidle hup

end Sys2Proof.Machine
end

section
/-! The exact reduction engine (O38): a row is turned away, added to its record, or answered from it. -/

namespace Sys2Proof.Machine

variable {s t u v w : State} {n : StackId} {p : Packet}

/-! ### What the engine changes -/

theorem regWork_bumpBy {l : List Nat} (s : State) {a : Nat} (k : Nat) (ha : a ∈ l) : RegWork l s (s.bumpBy a k) :=
  ⟨bumpBy_eq s a k, fun _ hb =>
    have hne := ne_of_mem_of_not_mem ha hb
    ⟨reg_bumpBy_ne s hne.symm, ctr_bumpBy_ne s hne.symm⟩⟩

theorem RegWork.blockWork {l : List Nat} {n : Nat} (h : RegWork l s t) : BlockWork n s t :=
  blockWork_of_regs (h.1.trans (by rw [h.1]))

theorem RegWork.mem {l : List Nat} (h : RegWork l s t) : t.mem = s.mem := by
  rw [h.1]

/-- At most memory, registers and the records of stacks differ from the state in which p has been taken from the ejection buffer. -/
def EngineWork (s : State) (n : StackId) (p : Packet) (v : State) : Prop :=
  v = { homeTaken s n p with regs := v.regs, mem := v.mem, mrs := v.mrs }

/-- The engine of stack n, agent 1 of its router, has sent q. -/
def EngineSends (n : StackId) (q : Packet) (s t : State) : Prop := Sends (stackSite n) 4 { q with ssite := stackSite n, sagt := 1 } s t

/-- Of s at most registers, memory, packets and the records of stacks have changed. -/
def EngineFrame (s t : State) : Prop := t = { s with regs := t.regs, mem := t.mem, routers := t.routers, mrs := t.mrs }

theorem engineWork_arrived (s : State) (n : StackId) (p : Packet) : EngineWork s n p (arrived s n p) := rfl

theorem EngineWork.block {m : Nat} (h : EngineWork s n p v) (hblock : BlockWork m v w) : EngineWork s n p w := by
  obtain ⟨heq, -, -⟩ := hblock
  unfold EngineWork at h ⊢
  rw [heq, h]

theorem EngineWork.frame (h : EngineWork s n p v) (q : Packet) : EngineFrame s (injectMr v n 1 q) := by
  unfold EngineWork at h
  rw [h]
  rfl

theorem EngineWork.sends (h : EngineWork s n p v) (q : Packet) : EngineSends n q s (injectMr v n 1 q) := by
  unfold EngineWork at h
  rw [h]
  exact Sends.of_homeTaken (p := p) (sends_injectMr _ n 1 q)

/-! ### Records: marked, read, written (R192, R193, R262) -/

theorem foldl_mem_frame {α : Type} {f : State → α → State} (hf : ∀ s a, f s a = { s with mem := (f s a).mem }) (l : List α) (s : State) :
    l.foldl f s = { s with mem := (l.foldl f s).mem } :=
  foldl_inv (fun t : State => t = { s with mem := t.mem }) f l s rfl fun t a _ h => by
    rw [hf t a, h]

theorem poisonRecord_eq (s : State) (n : Nat) (blocks : List Nat) : poisonRecord s n blocks = { s with mem := (poisonRecord s n blocks).mem } :=
  foldl_mem_frame (fun _ _ => rfl) blocks s

theorem writeRecord_eq (s : State) (n off : Nat) (bs : Bytes) : writeRecord s n off bs = { s with mem := (writeRecord s n off bs).mem } :=
  foldl_mem_frame (fun _ _ => rfl) _ s

theorem mem_storeBlock_congr (h : t.mem = s.mem) (n b : Nat) (data : Bytes) (check : Nat) :
    (storeBlock t n b data check).mem = (storeBlock s n b data check).mem := by
  unfold storeBlock State.write
  rw [h]

/-- What a poisoned record holds depends on memory alone. -/
theorem mem_poisonRecord_congr (h : t.mem = s.mem) (n : Nat) (blocks : List Nat) : (poisonRecord t n blocks).mem = (poisonRecord s n blocks).mem := by
  unfold poisonRecord
  induction blocks generalizing s t with
  | nil => exact h
  | cons b blocks ih => exact ih (mem_storeBlock_congr h ..)

theorem blockWork_readRecordBlock (s : State) (n b : Nat) (e1 e2 : Ecc) : BlockWork n s (readRecordBlock s n b e1 e2).2 := by
  have hread := blockWork_readTwice s n b e1 e2
  unfold readRecordBlock
  dsimp only
  split
  · exact hread
  · exact ((hread.trans (blockWork_bump _)).trans (blockWork_of_regs rfl)).trans (blockWork_bump _)

theorem blockWork_readRecordBlocks (s : State) (n : Nat) (blocks : List Nat) (e1 e2 : List Ecc) :
    BlockWork n s (readRecordBlocks s n blocks e1 e2).2 :=
  foldl_inv (fun k : Bool × State => BlockWork n s k.2) _ _ _ (BlockWork.refl s) fun _ _ _ h => h.trans (blockWork_readRecordBlock ..)

theorem blockWork_recordPoisoned (s : State) (n : Nat) (part : Partition) (r : RedRange) (a : Nat) (blocks : List Nat) (e1 e2 : List Ecc) :
    BlockWork n s (recordPoisoned s n part r a blocks e1 e2).2 := by
  have hread := blockWork_readRecordBlocks s n blocks e1 e2
  unfold recordPoisoned
  dsimp only
  split
  · exact BlockWork.refl s
  · split
    · exact hread
    · exact (hread.trans (blockWork_of_regs (by rw [poisonRecord_eq]))).trans (blockWork_of_regs rfl)

/-- The state in which the engine reads the record at off: the row is counted and the record is in the cache (R266). -/
def recordCached (s : State) (n : StackId) (p : Packet) (off : Nat) : State := cacheRecord (arrived s n p) n off

theorem cacheRecord_noteRequest (s : State) (n : StackId) (p : Packet) (off : Nat) :
    cacheRecord (noteRequest (homeTaken s n p) n) n off = recordCached s n p off := rfl

theorem engineWork_recordCached (s : State) (n : StackId) (p : Packet) (off : Nat) : EngineWork s n p (recordCached s n p off) := rfl

section
variable {part : Partition} {r : RedRange} {off : Nat} {e1 e2 : List Ecc} {bad : Bool}

theorem engineWork_recordRead
    (hrec : recordPoisoned (recordCached s n p off) n part r p.addr (recordBlocks r off) e1 e2 = (bad, w)) : EngineWork s n p w := by
  have hread := blockWork_recordPoisoned (recordCached s n p off) n part r p.addr (recordBlocks r off) e1 e2
  rw [hrec] at hread
  exact (engineWork_recordCached s n p off).block hread

end

/-! ### Rows in the engine's buffer -/

theorem exec_accumulateRow {e1 e2 : List Ecc} (h : HomeInbox s n p fun q => q.typ == tRed && q.rop == 0) :
    exec (.accumulateRow n e1 e2) s = .next (accumulate n e1 e2 p (homeTaken s n p)) :=
  serve_eq (at_ := portOfStack n) _ (accumulate n e1 e2) h

theorem exec_readRow {e1 e2 : List Ecc} (h : HomeInbox s n p fun q => q.typ == tRed && q.rop == 1) :
    exec (.readRow n e1 e2) s = .next (readRow n e1 e2 false p (homeTaken s n p)) :=
  serve_eq (at_ := portOfStack n) _ (readRow n e1 e2 false) h

theorem exec_readClearRow {e1 e2 : List Ecc} (h : HomeInbox s n p fun q => q.typ == tRed && q.rop == 2) :
    exec (.readClearRow n e1 e2) s = .next (readRow n e1 e2 true p (homeTaken s n p)) :=
  serve_eq (at_ := portOfStack n) _ (readRow n e1 e2 true) h

theorem redAt_noteRequest (s : State) (n : StackId) (p : Packet) : redAt (noteRequest (homeTaken s n p) n) n p = redAt s n p := rfl

theorem widthWrong_arrived (s : State) (n : StackId) (p : Packet) : widthWrong (arrived s n p) n p = widthWrong s n p := rfl

/-! ### A row that is turned away (R259, R267, R268) -/

/-- What a row that belongs to no range in force leaves. -/
def RowRefused (s : State) (n : StackId) (p : Packet) (t : State) : Prop :=
  EngineFrame s t ∧ SameMem s t ∧ EngineSends n (statusAnswer p (if p.remote then sNack else sUnassigned)) s t ∧
  if p.remote && widthWrong s n p then Counted (mrRedNackCntAt n) s t ∧ RegsBut [mrRedNackCntAt n] s t else RegsBut [] s t

theorem rowRefused_refuseRow (s : State) (n : StackId) (p : Packet) : RowRefused s n p (refuseRow (arrived s n p) n p) := by
  have harrived := engineWork_arrived s n p
  unfold RowRefused refuseRow
  dsimp only
  rw [widthWrong_arrived]
  split
  · have hcount := regWork_bump (l := [mrRedNackCntAt n]) (arrived s n p) List.mem_cons_self
    have hwork := harrived.block (hcount.blockWork (n := n))
    exact ⟨hwork.frame _, congrFun (congrArg memByte hcount.mem), hwork.sends _, ctr_bump_self (arrived s n p) _, hcount.regsBut⟩
  · exact ⟨harrived.frame _, fun _ => rfl, harrived.sends _, fun _ _ => rfl⟩

theorem accumulate_refused (e1 e2 : List Ecc) (h : redAt s n p = none) :
    accumulate n e1 e2 p (homeTaken s n p) = refuseRow (arrived s n p) n p := by
  unfold accumulate
  dsimp only
  rw [redAt_noteRequest, h]
  rfl

theorem readRow_refused (e1 e2 : List Ecc) (clear : Bool) (h : redAt s n p = none) :
    readRow n e1 e2 clear p (homeTaken s n p) = refuseRow (arrived s n p) n p := by
  unfold readRow
  dsimp only
  rw [redAt_noteRequest, h]
  rfl

theorem goes_accumulateRow_refused {e1 e2 : List Ecc} (hp : HomeInbox s n p fun q => q.typ == tRed && q.rop == 0) (h : redAt s n p = none) :
    Goes (.accumulateRow n e1 e2) s (RowRefused s n p) :=
  ⟨_, (exec_accumulateRow hp).trans (congrArg _ (accumulate_refused e1 e2 h)), rowRefused_refuseRow s n p⟩

theorem goes_read_refused {i : Instr} {e1 e2 : List Ecc} {clear : Bool}
    (hexec : exec i s = .next (readRow n e1 e2 clear p (homeTaken s n p))) (h : redAt s n p = none) : Goes i s (RowRefused s n p) :=
  ⟨_, hexec.trans (congrArg _ (readRow_refused e1 e2 clear h)), rowRefused_refuseRow s n p⟩

/-! ### Readback (R264, R265) -/

/-- The elements that a READ answers from the record at off, each with whether it lies beyond the format. -/
def readElems (w : State) (n : StackId) (p : Packet) (r : RedRange) (off : Nat) : List (Nat × Nat) :=
  (List.range (redElems r.width)).map fun e => readback (redFormat p.rfmt) (p.rrm == 1) r.ebase
    (accOf (leNat (((w.read (stackAt n off) (recordBytes r.width)).drop (16 * e)).take 16)))

/-- The state once the record at off has been read, and zeroed by a READ_CLEAR. -/
def recordLeft (clear : Bool) (w : State) (n : StackId) (r : RedRange) (off : Nat) : State :=
  if clear then zeroBlocks w n off (recordBytes r.width) else w

/-- That state once the overflows of a sound record have been counted. -/
def overflowsCounted (clear bad : Bool) (w : State) (n : StackId) (p : Packet) (r : RedRange) (off : Nat) : State :=
  if bad then recordLeft clear w n r off
  else (recordLeft clear w n r off).bumpBy (mrRedRbOvfCntAt n) ((readElems w n p r off).map (·.2)).sum

/-- The answer to a READ: its elements, or poison. -/
def readAnswer (bad : Bool) (w : State) (n : StackId) (p : Packet) (r : RedRange) (off : Nat) : Packet :=
  if bad then poisonReply p sOk
  else withPayload (replyTo p tRdData sOk) ((readElems w n p r off).flatMap fun o => leBytes (redBytes r.width) o.1)

theorem blockWork_overflowsCounted (clear bad : Bool) (w : State) (n : StackId) (p : Packet) (r : RedRange) (off : Nat) :
    BlockWork n w (overflowsCounted clear bad w n p r off) := by
  have hleft : BlockWork n w (recordLeft clear w n r off) := by
    cases clear with
    | true => exact blockWork_of_regs rfl
    | false => exact BlockWork.refl w
  cases bad with
  | true => exact hleft
  | false => exact hleft.trans (regWork_bumpBy (l := [mrRedRbOvfCntAt n]) _ _ List.mem_cons_self).blockWork

section
variable {part : Partition} {r : RedRange} {off : Nat} {e1 e2 : List Ecc} {bad : Bool} (hred : redAt s n p = some (part, r, off))

include hred

theorem readRow_served (clear : Bool)
    (hrec : recordPoisoned (recordCached s n p off) n part r p.addr (recordBlocks r off) e1 e2 = (bad, w)) :
    readRow n e1 e2 clear p (homeTaken s n p) = injectMr (overflowsCounted clear bad w n p r off) n 1 (readAnswer bad w n p r off) := by
  unfold readRow
  dsimp only
  rw [redAt_noteRequest, hred]
  dsimp only
  rw [cacheRecord_noteRequest, hrec]
  cases bad <;> rfl

theorem goes_read_served {i : Instr} {clear : Bool} (hexec : exec i s = .next (readRow n e1 e2 clear p (homeTaken s n p)))
    (hrec : recordPoisoned (recordCached s n p off) n part r p.addr (recordBlocks r off) e1 e2 = (bad, w)) :
    Goes i s fun t => EngineFrame s t ∧ t = { overflowsCounted clear bad w n p r off with routers := t.routers } ∧
      EngineSends n (readAnswer bad w n p r off) s t := by
  have hwork := (engineWork_recordRead hrec).block (blockWork_overflowsCounted clear bad w n p r off)
  exact ⟨_, hexec.trans (congrArg _ (readRow_served hred clear hrec)), hwork.frame _, rfl, hwork.sends _⟩

end

/-! ### A row without a good payload (R262) -/

/-- The state once bad row p has poisoned the record at off and been logged. -/
def rowPoisoned (s : State) (n : StackId) (p : Packet) (part : Partition) (r : RedRange) (off : Nat) : State :=
  logRed ((poisonRecord (recordCached s n p off) n (recordBlocks r off)).bump (mrRedInPoisonCntAt n)) n (if p.poison then 2 else 1) part r p.addr

/-- Its registers: the count and the log. -/
theorem regWork_rowPoisoned (s : State) (n : StackId) (p : Packet) (part : Partition) (r : RedRange) (off : Nat) :
    RegWork [mrRedInPoisonCntAt n, mrRedPoisonLogAt n] (poisonRecord (recordCached s n p off) n (recordBlocks r off))
      (rowPoisoned s n p part r off) :=
  (regWork_bump _ List.mem_cons_self).trans (regWork_setReg _ _ (List.mem_cons_of_mem _ List.mem_cons_self))

theorem counted_rowPoisoned (s : State) (n : StackId) (p : Packet) (part : Partition) (r : RedRange) (off : Nat) :
    Counted (mrRedInPoisonCntAt n) s (rowPoisoned s n p part r off) := by
  refine (ctr_setReg_ne _ _ (by unfold mrRedInPoisonCntAt mrRedPoisonLogAt; omega)).trans ((ctr_bump_self ..).trans ?_)
  rw [poisonRecord_eq]
  rfl

theorem mem_rowPoisoned (s : State) (n : StackId) (p : Packet) (part : Partition) (r : RedRange) (off : Nat) :
    (rowPoisoned s n p part r off).mem = (poisonRecord s n (recordBlocks r off)).mem :=
  (regWork_rowPoisoned s n p part r off).mem.trans (mem_poisonRecord_congr (s := s) (t := recordCached s n p off) rfl ..)

theorem regsBut_rowPoisoned (s : State) (n : StackId) (p : Packet) (part : Partition) (r : RedRange) (off : Nat) :
    RegsBut [mrRedInPoisonCntAt n, mrRedPoisonLogAt n] s (rowPoisoned s n p part r off) := fun a ha => by
  rw [(regWork_rowPoisoned s n p part r off).regsBut a ha, poisonRecord_eq]
  rfl

theorem engineWork_rowPoisoned (s : State) (n : StackId) (p : Packet) (part : Partition) (r : RedRange) (off : Nat) :
    EngineWork s n p (rowPoisoned s n p part r off) :=
  have hstored : BlockWork n (recordCached s n p off) (poisonRecord (recordCached s n p off) n (recordBlocks r off)) :=
    blockWork_of_regs (by rw [poisonRecord_eq])
  (engineWork_recordCached s n p off).block (hstored.trans (regWork_rowPoisoned s n p part r off).blockWork)

section
variable {part : Partition} {r : RedRange} {off : Nat} {e1 e2 : List Ecc} (hred : redAt s n p = some (part, r, off))
  (hpay : payloadOk p = false)

include hred hpay

theorem accumulate_badRow : accumulate n e1 e2 p (homeTaken s n p) = injectMr (rowPoisoned s n p part r off) n 1 (replyTo p tWrAck sOk) := by
  unfold accumulate
  dsimp only
  rw [redAt_noteRequest, hred]
  dsimp only
  rw [hpay]
  rfl

theorem goes_accumulateRow_bad (hp : HomeInbox s n p fun q => q.typ == tRed && q.rop == 0) : Goes (.accumulateRow n e1 e2) s fun t =>
    EngineFrame s t ∧ t.mem = (poisonRecord s n (recordBlocks r off)).mem ∧ Counted (mrRedInPoisonCntAt n) s t ∧
    RegsBut [mrRedInPoisonCntAt n, mrRedPoisonLogAt n] s t ∧ EngineSends n (replyTo p tWrAck sOk) s t :=
  have hwork := engineWork_rowPoisoned s n p part r off
  ⟨_, (exec_accumulateRow hp).trans (congrArg _ (accumulate_badRow hred hpay)), hwork.frame _, mem_rowPoisoned s n p part r off,
    counted_rowPoisoned s n p part r off, regsBut_rowPoisoned s n p part r off, hwork.sends _⟩

end

/-! ### A row with a good payload (R260, R261) -/

/-- Each element of the record at off with its input of row p added, and what the addition counts. -/
def sumElems (w : State) (n : StackId) (p : Packet) (r : RedRange) (off : Nat) : List (AccWord × RedCount) :=
  (List.range (redElems r.width)).map fun e => addInput r.ebase r.span
    (accOf (leNat (((w.read (stackAt n off) (recordBytes r.width)).drop (16 * e)).take 16)))
    (decodeElem (redFormat p.rfmt) (leNat ((p.payload.drop (redBytes r.width * e)).take (redBytes r.width))))

/-- The state once the sums stand in the record at off. -/
def sumsWritten (w : State) (n : StackId) (p : Packet) (r : RedRange) (off : Nat) : State :=
  writeRecord w n off ((sumElems w n p r off).flatMap fun o => leBytes 16 (accNat o.1))

theorem sumsWritten_eq (w : State) (n : StackId) (p : Packet) (r : RedRange) (off : Nat) :
    sumsWritten w n p r off = { w with mem := (sumsWritten w n p r off).mem } := writeRecord_eq ..

/-- The counters of what additions meet (R270). -/
def sumCounts (n : StackId) : List Nat := [mrRedSatCntAt n, mrRedInexactCntAt n, mrRedUflowCntAt n, mrRedNonfinCntAt n]

/-- What the additions of a row count. -/
def sumsCounted (v : State) (n : StackId) (c : RedCount) : State :=
  (((v.bumpBy (mrRedSatCntAt n) c.sat).bumpBy (mrRedInexactCntAt n) c.inexact).bumpBy (mrRedUflowCntAt n) c.uflow).bumpBy
    (mrRedNonfinCntAt n) c.nonfin

theorem regWork_sumsCounted (v : State) (n : StackId) (c : RedCount) : RegWork (sumCounts n) v (sumsCounted v n c) := by
  unfold sumsCounted sumCounts
  exact (((regWork_bumpBy v _ (by simp)).trans (regWork_bumpBy _ _ (by simp))).trans (regWork_bumpBy _ _ (by simp))).trans
    (regWork_bumpBy _ _ (by simp))

/-- The state once row p has been added to the record at off and counted. -/
def rowSummed (w : State) (n : StackId) (p : Packet) (r : RedRange) (off : Nat) : State :=
  sumsCounted ((sumsWritten w n p r off).bump (mrRedRowCntAt n)) n (((sumElems w n p r off).map (·.2)).foldl RedCount.plus ⟨0, 0, 0, 0⟩)

theorem regWork_rowSummed (w : State) (n : StackId) (p : Packet) (r : RedRange) (off : Nat) :
    RegWork (mrRedRowCntAt n :: sumCounts n) (sumsWritten w n p r off) (rowSummed w n p r off) :=
  (regWork_bump _ List.mem_cons_self).trans ((regWork_sumsCounted ..).mono (List.subset_cons_self ..))

theorem counted_rowSummed (w : State) (n : StackId) (p : Packet) (r : RedRange) (off : Nat) :
    Counted (mrRedRowCntAt n) w (rowSummed w n p r off) := by
  have hother : mrRedRowCntAt n ∉ sumCounts n := by
    unfold sumCounts mrRedRowCntAt mrRedSatCntAt mrRedInexactCntAt mrRedUflowCntAt mrRedNonfinCntAt
    simp
  refine ((regWork_sumsCounted ..).ctr hother).trans ((ctr_bump_self ..).trans ?_)
  rw [sumsWritten_eq]
  rfl

theorem regsBut_rowSummed (w : State) (n : StackId) (p : Packet) (r : RedRange) (off : Nat) :
    RegsBut (mrRedRowCntAt n :: sumCounts n) w (rowSummed w n p r off) := fun a ha => by
  rw [(regWork_rowSummed w n p r off).regsBut a ha, sumsWritten_eq]
  rfl

theorem mem_rowSummed (w : State) (n : StackId) (p : Packet) (r : RedRange) (off : Nat) :
    (rowSummed w n p r off).mem = (sumsWritten w n p r off).mem := (regWork_rowSummed w n p r off).mem

theorem rowSummed_eq (w : State) (n : StackId) (p : Packet) (r : RedRange) (off : Nat) :
    rowSummed w n p r off = { w with regs := (rowSummed w n p r off).regs, mem := (rowSummed w n p r off).mem } := by
  rw [(regWork_rowSummed w n p r off).1, sumsWritten_eq]

section
variable {part : Partition} {r : RedRange} {off : Nat} {e1 e2 : List Ecc} {bad : Bool}
  (hp : HomeInbox s n p fun q => q.typ == tRed && q.rop == 0) (hred : redAt s n p = some (part, r, off)) (hpay : payloadOk p = true)
  (hrec : recordPoisoned (recordCached s n p off) n part r p.addr (recordBlocks r off) e1 e2 = (bad, w))

include hred hpay hrec in
theorem accumulate_goodRow : accumulate n e1 e2 p (homeTaken s n p) =
    injectMr (if bad then w else rowSummed w n p r off) n 1 (replyTo p tWrAck sOk) := by
  unfold accumulate
  dsimp only
  rw [redAt_noteRequest, hred]
  dsimp only
  rw [hpay, cacheRecord_noteRequest, hrec]
  cases bad <;> rfl

include hp hred hpay hrec

theorem goes_accumulateRow_poisonedRecord (hbad : bad = true) : Goes (.accumulateRow n e1 e2) s fun t =>
    t = { w with routers := t.routers } ∧ EngineSends n (replyTo p tWrAck sOk) s t := by
  have hexec := (exec_accumulateRow hp).trans (congrArg _ (accumulate_goodRow hred hpay hrec))
  rw [if_pos hbad] at hexec
  exact ⟨_, hexec, rfl, (engineWork_recordRead hrec).sends _⟩

theorem goes_accumulateRow_summed (hsound : bad = false) : Goes (.accumulateRow n e1 e2) s fun t =>
    t = { w with regs := t.regs, mem := t.mem, routers := t.routers } ∧ Counted (mrRedRowCntAt n) w t ∧
    RegsBut (mrRedRowCntAt n :: sumCounts n) w t ∧ t.mem = (sumsWritten w n p r off).mem ∧ EngineSends n (replyTo p tWrAck sOk) s t := by
  have hexec := (exec_accumulateRow hp).trans (congrArg _ (accumulate_goodRow hred hpay hrec))
  rw [if_neg (by rw [hsound]; decide)] at hexec
  have heq := rowSummed_eq w n p r off
  have hwork := (engineWork_recordRead hrec).block (blockWork_of_regs (n := n) heq)
  refine ⟨_, hexec, ?_, counted_rowSummed w n p r off, regsBut_rowSummed w n p r off, mem_rowSummed w n p r off, hwork.sends _⟩
  rw [heq]
  rfl

end

/-! ### The statement -/

/-- Settles O38: a row is refused, or added to its record, or answered from it, each by the lemma of its case. -/
theorem reductionRows : Obligations.ReductionRows := by
  intro s n e1 e2 p
  refine ⟨fun hp => ⟨goes_accumulateRow_refused hp, fun part r off hred => ⟨fun hpay => goes_accumulateRow_bad hred hpay hp,
      fun bad w hpay hrec => ⟨fun hbad => goes_accumulateRow_poisonedRecord hp hred hpay hrec hbad,
        fun hsound => goes_accumulateRow_summed hp hred hpay hrec hsound⟩⟩⟩,
    fun hp => ⟨goes_read_refused (exec_readRow hp), fun part r off bad w hred hrec => goes_read_served hred (exec_readRow hp) hrec⟩,
    fun hp => ⟨goes_read_refused (exec_readClearRow hp), fun part r off bad w hred hrec => goes_read_served hred (exec_readClearRow hp) hrec⟩⟩

end Sys2Proof.Machine
end

section
/-! Runs of mirror replay, and HALT (O42). -/

namespace Sys2Proof.Machine

variable {r s t : State} {c : Nat}

/-! ### A run's cluster is prepared (R287) -/

/-- From s to t at most buckets and registers of units change. -/
def ConfigWork (s t : State) : Prop := t = { s with regs := t.regs, buckets := t.buckets } ∧ ∀ a, ¬UnitReg a → CellKept a s t

theorem ConfigWork.refl (s : State) : ConfigWork s s := ⟨rfl, fun _ _ => rfl⟩

theorem ConfigWork.trans (h : ConfigWork r s) (h' : ConfigWork s t) : ConfigWork r t := by
  obtain ⟨heq, hkept⟩ := h
  obtain ⟨heq', hkept'⟩ := h'
  exact ⟨by rw [heq', heq], fun a ha => (hkept a ha).trans (hkept' a ha)⟩

theorem ConfigWork.foldl {α : Type} {f : State → α → State} (hf : ∀ s a, ConfigWork s (f s a)) (l : List α) (s : State) :
    ConfigWork s (l.foldl f s) :=
  foldl_inv (ConfigWork s) f l s (.refl s) fun b a _ hb => hb.trans (hf b a)

theorem configWork_setBucketCfg (s : State) (b f rate depth : Nat) : ConfigWork s (setBucketCfg s b f rate depth) :=
  ⟨rfl, fun _ _ => rfl⟩

theorem configWork_setUnitReg (s : State) (u : Nat) {k : Nat} (hk : k < 0x100000) (v : Nat) :
    ConfigWork s (s.setReg (unitBlk u + k) v) :=
  ⟨rfl, fun _ ha => cellKept_setReg s v fun h => ha (h ▸ unitReg_of_offset u hk)⟩

theorem configWork_configCluster (s : State) (cfg : StreamCfg) (at_ : Option Nat) (l c : Nat) :
    ConfigWork s (configCluster s cfg at_ l c) :=
  have hbuckets : ConfigWork s (configBuckets s cfg at_ l c) := .foldl (fun _ _ => configWork_setBucketCfg ..) _ s
  hbuckets.trans (.foldl (fun s i => (configWork_setUnitReg s (4 * c + i) (by decide) _).trans
    (configWork_setUnitReg _ (4 * c + i) (by decide) _)) _ _)

/-- A cluster as it begins a run of entry h on image e: its registers, frame and sequencer are the entry's (R287). -/
def Cluster.runBegun (x : Cluster) (h : HeldStep) (e : SchedEntry) (q clk ns : Nat) : Cluster := { x with
  seq := .run, pc := imageNat e 0xC 4, s := replayRegs h, s0 := replayRegs h, stall := none, late := none, workEnd := none
  handler := none, slotsRun := [], grpCnt := [], grpFlags := [], digest := [], frame := x.frame + 1, frameIdx := h.frame
  frameClk := clk, frameNs := ns, readyClk := clk
  replay := some { part := q, step := h.serial, run := if h.stage = 0 then 1 else 2, orig := h.lclu } }

/-- A unit as it stands for unit i of the entry's cluster (R80, R287). -/
def UnitState.replaying (h : HeldStep) (i : Nat) (x : UnitState) : UnitState :=
  { x with replayAs := some (4 * h.lclu + i, h.frame), ord := 0, mmas := 0, lastMma := none }

/-- The units of cluster c stand for those of the entry's cluster. -/
def unitsReplay (s : State) (c : Nat) (h : HeldStep) : State :=
  (List.range 4).foldl (fun s i => s.modUn (4 * c + i) (UnitState.replaying h i)) s

theorem unitsReplay_facts (s : State) (c : Nat) (h : HeldStep) :
    let t := unitsReplay s c h
    t = { s with units := t.units } ∧ (∀ u, u / 4 ≠ c → t.un u = s.un u) ∧
    ∀ i < 4, (t.un (4 * c + i)).replayAs = some (4 * h.lclu + i, h.frame) := by
  have hframe := foldl_inv (fun t : State => t = { s with units := t.units } ∧ ∀ u, u / 4 ≠ c → t.un u = s.un u)
    (fun s i => s.modUn (4 * c + i) (UnitState.replaying h i)) (List.range 4) s ⟨rfl, fun _ _ => rfl⟩ fun t i hi ht => by
      obtain ⟨heq, hother⟩ := ht
      have hlt := List.mem_range.1 hi
      exact ⟨congrArg (State.modUn · _ _) heq, fun u hu => (onlyUn_modUn t (4 * c + i) _ u (by omega)).trans (hother u hu)⟩
  refine ⟨hframe.1, hframe.2, fun i hi => ?_⟩
  refine foldl_sets (fun i (t : State) => (t.un (4 * c + i)).replayAs = some (4 * h.lclu + i, h.frame)) _ (List.range 4) s
    (fun t i => by rw [un_modUn_self]; rfl) (fun t j k hk => ?_) i (List.mem_range.2 hi)
  by_cases hkj : k = j
  · rw [hkj, un_modUn_self]
    rfl
  · rwa [onlyUn_modUn t (4 * c + j) _ (4 * c + k) (by omega)]

/-- The state in which the cluster has its configuration and its image. -/
def runLoaded (s : State) (cfg : StreamCfg) (c : Nat) (h : HeldStep) (e : SchedEntry) : State :=
  (configCluster s cfg none h.lclu c).write (schedAt c 0) e.image

/-- The state in which the run of entry h of quarter q has begun, its entry apart. -/
def runPrepared (s : State) (q : Nat) (cfg : StreamCfg) (c : Nat) (h : HeldStep) (e : SchedEntry) : State :=
  let w := runLoaded s cfg c h e
  (unitsReplay (w.modCl c fun x => x.runBegun h e q (cluClk w c) (cluNs w c)) c h).setField (seqFrameUseAt c) 0 0 0

/-- The entry of a run that has begun. -/
def HeldStep.begun (h : HeldStep) : HeldStep := { h with stage := h.stage + 1 }

/-- The partition with the entry of a serial number changed. -/
def Partition.heldChanged (serial : Nat) (f : HeldStep → HeldStep) (p : Partition) : Partition :=
  { p with held := mapFirst (fun h => h.serial == serial) f p.held }

theorem startRun_eq {q : Nat} {h : HeldStep} {p : Partition} {e : SchedEntry} (hp : partOf s q = some p)
    (he : schedFor p.cfg h.lclu = some e) : startRun s q c h =
      (modPart (runPrepared s q p.cfg c h e) q (Partition.heldChanged h.serial HeldStep.begun)).bump
        (pmReplayRunCntAt (partQ (partD (runPrepared s q p.cfg c h e) q))) := by
  unfold startRun cfgOf
  rw [hp]
  dsimp only [Option.map]
  rw [he]
  rfl

theorem pmReplayRunCnt_low (p : Partition) : pmReplayRunCntAt (partQ p) % 0x10000000 < 0x1000000 := by
  have hbounds := pmReplayUnres_bounds p
  unfold pmReplayUnresCntAt pmBlk managerArea at hbounds
  unfold pmReplayRunCntAt pmBlk managerArea
  omega

theorem runPrepared_facts (s : State) (q : Nat) (cfg : StreamCfg) (c : Nat) (h : HeldStep) (e : SchedEntry) :
    let t := runPrepared s q cfg c h e
    t.fab = s.fab ∧ t.parts = s.parts ∧ OnlyCl c s t ∧ SameMemBut (schedAt c 0) e.image.length s t ∧
    (∀ u, u / 4 ≠ c → t.un u = s.un u) ∧ (∀ i < 4, (t.un (4 * c + i)).replayAs = some (4 * h.lclu + i, h.frame)) ∧
    (∃ clk ns, t.cl c = (s.cl c).runBegun h e q clk ns) ∧ ∀ a, a % 0x10000000 < 0x1000000 → CellKept a s t := by
  obtain ⟨hconfig, hcells⟩ := configWork_configCluster s cfg none h.lclu c
  have hload : runLoaded s cfg c h e = { s with
      regs := (configCluster s cfg none h.lclu c).regs, buckets := (configCluster s cfg none h.lclu c).buckets
      mem := memWrite s.mem (schedAt c 0) e.image } := by
    unfold runLoaded
    rw [hconfig]
    rfl
  unfold runPrepared
  dsimp only
  generalize cluClk (runLoaded s cfg c h e) c = clk
  generalize cluNs (runLoaded s cfg c h e) c = ns
  generalize configCluster s cfg none h.lclu c = v at hcells hload
  generalize runLoaded s cfg c h e = w at hload
  subst hload
  obtain ⟨hunits, hother, hself⟩ := unitsReplay_facts
    (State.modCl { s with regs := v.regs, buckets := v.buckets, mem := memWrite s.mem (schedAt c 0) e.image } c
      fun x => x.runBegun h e q clk ns) c h
  generalize unitsReplay _ c h = z at hunits hother hself
  refine ⟨?_, ?_, fun k hk => ?_, fun k hk => ?_, hother, hself, ⟨clk, ns, ?_⟩, fun a ha => ?_⟩
  · rw [hunits]; rfl
  · rw [hunits]; rfl
  · rw [hunits]
    exact (State.setCl_cl ..).trans (if_neg hk)
  · rw [hunits]
    exact memByte_memWrite_outside s.mem _ _ k hk
  · rw [hunits]
    exact State.setCl_self ..
  · have hne : a ≠ seqFrameUseAt c := by
      unfold seqFrameUseAt seqBlk dieArea
      omega
    refine CellKept.trans ?_ (cellKept_setReg z _ hne)
    unfold CellKept
    rw [hunits]
    exact hcells a (Nat.not_le_of_lt (by omega))

theorem startRun_facts {q : Nat} {h : HeldStep} {p : Partition} {e : SchedEntry} (hp : partOf s q = some p)
    (he : schedFor p.cfg h.lclu = some e) :
    let t := startRun s q c h
    t.fab = s.fab ∧ OnlyCl c s t ∧ SameMemBut (schedAt c 0) e.image.length s t ∧
    (∀ u, u / 4 ≠ c → t.un u = s.un u) ∧ (∀ i < 4, (t.un (4 * c + i)).replayAs = some (4 * h.lclu + i, h.frame)) ∧
    (∃ clk ns, t.cl c = (s.cl c).runBegun h e q clk ns) ∧ Counted (pmReplayRunCntAt (partQ p)) s t ∧
    partOf t q = some (p.heldChanged h.serial HeldStep.begun) := by
  obtain ⟨hfab, hparts, hcl, hmem, hother, hself, hbegun, hcells⟩ := runPrepared_facts s q p.cfg c h e
  intro t
  have ht : t = _ := startRun_eq hp he
  generalize runPrepared s q p.cfg c h e = w at hfab hparts hcl hmem hother hself hbegun hcells ht
  have hpart : partOf w q = some p := by
    unfold partOf at hp ⊢
    rw [hparts, hp]
  have hpartD : partD w q = p := by
    unfold partD
    rw [hpart]
    rfl
  rw [hpartD] at ht
  obtain ⟨heq, hcount, -⟩ := bump_counts (modPart w q (Partition.heldChanged h.serial HeldStep.begun)) (pmReplayRunCntAt (partQ p))
  rw [← ht] at heq hcount
  refine ⟨?_, fun k hk => ?_, fun k hk => ?_, fun u hu => ?_, fun i hi => ?_, ?_,
    hcount.of_ctr (hcells _ (pmReplayRunCnt_low p)).ctr, ?_⟩
  · rw [heq]; exact hfab
  · rw [heq]; exact hcl k hk
  · rw [heq]; exact hmem k hk
  · rw [heq]; exact hother u hu
  · rw [heq]; exact hself i hi
  · rw [heq]; exact hbegun
  · have hkept := partOf_modPart w q (f := Partition.heldChanged h.serial HeldStep.begun) fun _ => rfl
    rw [hpart] at hkept
    rw [heq]
    exact hkept

theorem exec_replayRunStart {q : QuarterId} {p : Partition} {h : HeldStep} (ha : (activeMgr s).isSome = true) (hp : partOf s q = some p)
    (hedge : p.edgeFab = s.fab) (hhold : p.hold = true)
    (hfree : (waitingSteps p).findSome? (fun h => (replayCluster s p h.lclu).map fun c => (c, h)) = some (c, h)) :
    exec (.replayRunStart q) s = .next (startRun s q c h) := by
  obtain ⟨b, hb⟩ := Option.isSome_iff_exists.1 ha
  show execReplayRunStart q s = _
  unfold execReplayRunStart
  rw [hp, hb]
  dsimp only
  rw [if_pos ⟨hedge, hhold⟩, hfree]

/-! ### A run ends: its cluster is left (R286, R287) -/

/-- From s to t only cluster c has changed of the clusters, and no partition. -/
structure StopWork (c : Nat) (s t : State) : Prop where
  parts : t.parts = s.parts
  others : OnlyCl c s t

theorem StopWork.refl (c : Nat) (s : State) : StopWork c s s := ⟨rfl, fun _ _ => rfl⟩

theorem StopWork.trans (h : StopWork c r s) (h' : StopWork c s t) : StopWork c r t :=
  ⟨h'.parts.trans h.parts, fun k hk => (h'.others k hk).trans (h.others k hk)⟩

theorem StopWork.foldl {α : Type} {f : State → α → State} (hf : ∀ s a, StopWork c s (f s a)) (l : List α) (s : State) :
    StopWork c s (l.foldl f s) :=
  foldl_inv (StopWork c s) f l s (.refl c s) fun b a _ hb => hb.trans (hf b a)

theorem StopWork.ite {p : Prop} [Decidable p] (h : StopWork c r s) (h' : StopWork c r t) : StopWork c r (if p then s else t) := by
  split
  · exact h
  · exact h'

theorem UnitOnly.stopWork (h : UnitOnly s t) (c : Nat) : StopWork c s t := ⟨by rw [h.same], fun k _ => h.cl k⟩

theorem TransferWork.stopWork (h : TransferWork c s t) : StopWork c s t := by
  obtain ⟨hcl, heq⟩ := h
  exact ⟨by rw [heq], hcl⟩

theorem stopWork_abandonUnit (c : Nat) (s : State) (u : Nat) (e : Issued) : StopWork c s (abandonUnit s u e) :=
  .ite ⟨rfl, fun _ _ => rfl⟩ (.refl c s)

theorem stopWork_noteRoom (s : State) (c : Nat) : StopWork c s (noteRoom s c) := by
  obtain ⟨heq, hcl, -⟩ := noteRoom_facts s c
  exact ⟨by rw [heq], hcl⟩

theorem stopWork_endBucketWait (s : State) (c cls : Nat) : StopWork c s (endBucketWait s c cls) := by
  obtain ⟨b, l, heq⟩ := endBucketWait_eq s c cls
  rw [heq]
  exact ⟨rfl, fun _ _ => rfl⟩

theorem stopWork_endRequests (s : State) (c : Nat) : StopWork c s (endRequests s c) :=
  have hend := StopWork.trans (.ite (p := (s.cl c).credits.isEmpty = true) (stopWork_endBucketWait s c cSched) (.refl c s))
    (stopWork_endBucketWait _ c cBulk)
  .ite (hend.trans (transferWork_startBucketWait ..).stopWork) hend

theorem stopWork_complete (s : State) (c did st : Nat) : StopWork c s (complete s c did st) := by
  obtain ⟨-, -, hcl⟩ := (complete_completed s c did st).1
  exact ⟨by rw [endWork_complete s c did st], hcl⟩

theorem stopWork_cancelAll (s : State) (c : Nat) : StopWork c s (cancelAll s c) := by
  unfold cancelAll
  refine StopWork.trans (.foldl (fun s i => ?_) _ s) (StopWork.trans (stopWork_noteRoom _ c)
    (StopWork.trans (transferWork_endWaits ..).stopWork (StopWork.trans (stopWork_endRequests _ c)
      (StopWork.trans (transferWork_modCl ..).stopWork (.foldl (fun s e => stopWork_complete ..) _ _)))))
  exact StopWork.trans ((unitOnly_atPresent ..).stopWork c)
    (StopWork.trans (.foldl (fun s e => stopWork_abandonUnit c s _ e) _ _) ⟨rfl, fun _ _ => rfl⟩)

/-- A check of a spare concerns its units and its field. -/
theorem beginCheck_facts (s : State) (f : Nat) : (beginCheck s f).parts = s.parts ∧ (beginCheck s f).clusters = s.clusters := by
  unfold beginCheck
  dsimp only
  split
  · exact ⟨rfl, rfl⟩
  · next d _ =>
    split
    · have hclear := UnitOnly.foldl (fun s i => startClear s (16 * d + i) (some .wideRecovery)) (fun s i => unitOnly_startClear ..)
        (List.range 16) (s.setFld f { s.fld f with procAt := some s.fab })
      exact ⟨by rw [hclear.same]; rfl, by rw [hclear.same]; rfl⟩
    · exact ⟨rfl, rfl⟩

/-- A cluster that runs no replay any more and waits for its clear. -/
def Cluster.runLeft (x : Cluster) : Cluster := { x with replay := none, seq := .idle, stall := none, late := none, workEnd := none }

/-- The units of cluster c stand for no others any more, and clear. -/
def unitsLeft (s : State) (c : Nat) : State :=
  (List.range 4).foldl (fun s i => startClear (s.modUn (4 * c + i) fun x => { x with replayAs := none }) (4 * c + i) none) s

theorem unitOnly_unitsLeft (s : State) (c : Nat) : UnitOnly s (unitsLeft s c) :=
  .foldl _ (fun s i => (unitOnly_modUn s (4 * c + i) (fun x => { x with replayAs := none }) (fun _ => rfl) fun _ => rfl).trans
    (unitOnly_startClear ..)) _ s

theorem leaveRun_eq (s : State) (c : Nat) :
    leaveRun s c = beginCheck (unitsLeft ((cancelAll s c).modCl c Cluster.runLeft) c) (dieField (c / 4)) := rfl

theorem leaveRun_facts (s : State) (c : Nat) : StopWork c s (leaveRun s c) ∧ ((leaveRun s c).cl c).replay = none := by
  have hleft := (stopWork_cancelAll s c).trans (transferWork_modCl (cancelAll s c) c Cluster.runLeft).stopWork
  have hunits := unitOnly_unitsLeft ((cancelAll s c).modCl c Cluster.runLeft) c
  have heq := leaveRun_eq s c
  generalize unitsLeft ((cancelAll s c).modCl c Cluster.runLeft) c = v at hunits heq
  obtain ⟨hparts, hclusters⟩ := beginCheck_facts v (dieField (c / 4))
  have hcl : ∀ k, (leaveRun s c).cl k = ((cancelAll s c).modCl c Cluster.runLeft).cl k := fun k => by
    rw [← hunits.cl k, heq]
    exact congrArg (findD · k {}) hclusters
  refine ⟨hleft.trans ⟨?_, fun k _ => hcl k⟩, ?_⟩
  · rw [heq, hparts, hunits.same]
  · rw [hcl, State.modCl, State.setCl_self]
    rfl

theorem partD_leaveRun (s : State) (c q : Nat) : partD (leaveRun s c) q = partD s q := by
  unfold partD partOf
  rw [(leaveRun_facts s c).1.parts]

/-! ### The vote (R290, R291) -/

/-- From s to t no cluster but c has changed, and c stands in the run in which it stood. -/
def SameRun (c : Nat) (s t : State) : Prop := OnlyCl c s t ∧ (t.cl c).replay = (s.cl c).replay

theorem SameRun.trans (h : SameRun c r s) (h' : SameRun c s t) : SameRun c r t := by
  obtain ⟨hcl, hrun⟩ := h
  obtain ⟨hcl', hrun'⟩ := h'
  exact ⟨fun k hk => (hcl' k hk).trans (hcl k hk), hrun'.trans hrun⟩

theorem SameRun.ite {p : Prop} [Decidable p] (h : SameRun c r s) (h' : SameRun c r t) : SameRun c r (if p then s else t) := by
  split
  · exact h
  · exact h'

theorem Noted.sameRun (h : Noted s t) (c : Nat) : SameRun c s t := by
  rw [h.same]
  exact ⟨fun _ _ => rfl, rfl⟩

theorem sameRun_sendCtrl (s : State) (c : Nat) (p : Packet) : SameRun c s (sendCtrl s c p) := by
  obtain ⟨-, hcl, hself, -⟩ := sendCtrl_facts s c p
  exact ⟨hcl, by rw [hself]⟩

theorem sameRun_startSwap (s : State) (q c : Nat) (h : HeldStep) (outcome : Nat) : SameRun c s (startSwap s q c h outcome) :=
  .ite ((noted_resolveStep ..).sameRun c) (((noted_modHeld ..).sameRun c).trans (sameRun_sendCtrl ..))

theorem sameRun_vote (s : State) (q c : Nat) (h : HeldStep) (run : Nat) (d : Option Nat) : SameRun c s (vote s q c h run d) :=
  .ite (.ite (sameRun_startSwap ..) ((noted_modHeld ..).sameRun c))
    (.ite (sameRun_startSwap ..) (.ite (sameRun_startSwap ..) (((noted_modHeld ..).trans (noted_resolveStep ..)).sameRun c)))

theorem endRun_gone {x : ReplayRun} (hx : (s.cl c).replay = some x)
    (hgone : (partD s x.part).held.find? (fun h => h.serial == x.step) = none) : endRun s c = leaveRun s c := by
  unfold endRun
  rw [hx]
  dsimp only
  rw [partD_leaveRun, hgone]

theorem endRun_voted {x : ReplayRun} {h : HeldStep} (hx : (s.cl c).replay = some x)
    (hh : (partD s x.part).held.find? (fun h => h.serial == x.step) = some h) :
    endRun s c = vote (modHeld (leaveRun s c) x.part h.serial fun _ => { h with breach := h.breach || x.breach }) x.part c
      { h with breach := h.breach || x.breach } x.run (if runGood s c x h.gmask then some x.digest else none) := by
  unfold endRun
  rw [hx]
  dsimp only
  rw [partD_leaveRun, hh]
  rfl

/-- However its entry stands, the end of a run leaves it. -/
theorem endRun_facts {x : ReplayRun} (hx : (s.cl c).replay = some x) : OnlyCl c s (endRun s c) ∧ ((endRun s c).cl c).replay = none := by
  obtain ⟨hleave, hnone⟩ := leaveRun_facts s c
  cases hh : (partD s x.part).held.find? fun h => h.serial == x.step with
  | none =>
    rw [endRun_gone hx hh]
    exact ⟨hleave.others, hnone⟩
  | some h =>
    rw [endRun_voted hx hh]
    obtain ⟨hcl, hrun⟩ := ((noted_modHeld (leaveRun s c) x.part h.serial fun _ => { h with breach := h.breach || x.breach }).sameRun c).trans
      (sameRun_vote _ x.part c { h with breach := h.breach || x.breach } x.run (if runGood s c x h.gmask then some x.digest else none))
    exact ⟨fun k hk => (hcl k hk).trans (hleave.others k hk), hrun.trans hnone⟩

theorem exec_replayRunEnd {c : ClusterId} {x : ReplayRun} (hx : (s.cl c).replay = some x)
    (hover : (s.cl c).workEnd.isSome = true ∨ (s.cl c).seq = .trapped) : exec (.replayRunEnd c) s = .next (endRun s c) := by
  have hcond : ((s.cl c).replay.isSome && ((s.cl c).workEnd.isSome || (s.cl c).seq == .trapped)) = true := by
    rw [hx]
    simpa using hover
  show execReplayRunEnd c s = _
  unfold execReplayRunEnd when_
  exact congrArg _ (if_pos hcond)

/-! ### HALT (R281, R282, R408) -/

/-- Is a HALT request one of a quarter in service, whose payload names a partition (R282)? -/
def HaltGood (s : State) (q : Nat) (x : MbReq) : Prop :=
  noService s q = false ∧ natAt x.payload 0 1 ≤ 15 ∧ natAt x.payload 1 7 = 0 ∧ (x.oper = true ∨ (partOf s q).isSome = true) ∧
  badMask s x.oper (natAt x.payload 0 1) = false

/-- The quarter that stands for the partition a HALT request names. -/
def haltQuarter (s : State) (q : Nat) (x : MbReq) : Nat := lowestQuarter (requestMask s q x.oper (natAt x.payload 0 1))

/-- A partition whose halt is due, with a reply for quarter q to follow. -/
def Partition.halting (q : Nat) (p : Partition) : Partition := { p with haltDue := true, haltReply := p.haltReply ++ [q] }

/-- What the state of its partition makes of a good HALT request. -/
def haltAnswered (s : State) (q : Nat) (x : MbReq) : State :=
  let k := haltQuarter s q x
  if (partD s k).reset.isSome || (s.qtr k).pmoving then mbRefuse s q 3
  else if (s.qtr k).pstate = 2 ∨ (s.qtr k).pstate = 3 then mbRefuse s q 4
  else if (partD s k).halted then mbReply s q 0 []
  else modPart s k (Partition.halting q)

/-- What becomes of a HALT request. -/
def haltTaken (s : State) (q : Nat) (x : MbReq) : State :=
  if noService s q then mbRefuse s q 1
  else if 15 < natAt x.payload 0 1 ∨ natAt x.payload 1 7 ≠ 0 then mbRefuse s q 7
  else if !x.oper && (partOf s q).isNone then mbRefuse s q 8
  else if badMask s x.oper (natAt x.payload 0 1) then mbRefuse s q 7
  else haltAnswered s q x

theorem exec_halt {q : QuarterId} {x : MbReq} (hx : mbOf s q 7 = some x) (ha : (activeMgr s).isSome = true) :
    exec (.halt q) s = .next (haltTaken s q x) := by
  obtain ⟨b, hb⟩ := Option.isSome_iff_exists.1 ha
  show execHalt q s = _
  unfold execHalt haltTaken haltAnswered
  rw [hx, hb]
  simp only [apply_ite Host.Outcome.next]
  rfl

section
variable {q : Nat} {x : MbReq}

theorem haltTaken_noService (hno : noService s q = true) : haltTaken s q x = mbRefuse s q 1 := if_pos hno

theorem haltTaken_badPayload (hin : noService s q = false) (hbad : 15 < natAt x.payload 0 1 ∨ natAt x.payload 1 7 ≠ 0) :
    haltTaken s q x = mbRefuse s q 7 := by
  unfold haltTaken
  rw [if_neg (by simp [hin]), if_pos hbad]

theorem haltTaken_noStream (hin : noService s q = false) (hm : natAt x.payload 0 1 ≤ 15) (hz : natAt x.payload 1 7 = 0)
    (hhost : x.oper = false) (hnone : partOf s q = none) : haltTaken s q x = mbRefuse s q 8 := by
  unfold haltTaken
  rw [if_neg (by simp [hin]), if_neg (by omega), if_pos (by simp [hhost, hnone])]

theorem haltTaken_good (hgood : HaltGood s q x) : haltTaken s q x = haltAnswered s q x := by
  obtain ⟨hin, hm, hz, hwho, hmask⟩ := hgood
  have hpart : ¬(!x.oper && (partOf s q).isNone) = true := by
    rcases hwho with hoper | howned
    · simp [hoper]
    · simp [Option.isSome_iff_ne_none.1 howned]
  unfold haltTaken
  rw [if_neg (by simp [hin]), if_neg (by omega), if_neg hpart, if_neg (by simp [hmask])]

end

theorem haltAnswered_busy {q : Nat} {x : MbReq}
    (h : (partD s (haltQuarter s q x)).reset.isSome = true ∨ (s.qtr (haltQuarter s q x)).pmoving = true) :
    haltAnswered s q x = mbRefuse s q 3 :=
  if_pos (Bool.or_eq_true_iff.2 h)

section
variable {q : Nat} {x : MbReq} (hreset : (partD s (haltQuarter s q x)).reset = none) (hstill : (s.qtr (haltQuarter s q x)).pmoving = false)
include hreset hstill

theorem haltAnswered_dark (hdark : (s.qtr (haltQuarter s q x)).pstate = 2 ∨ (s.qtr (haltQuarter s q x)).pstate = 3) :
    haltAnswered s q x = mbRefuse s q 4 := by
  unfold haltAnswered
  dsimp only
  rw [if_neg (by simp [hreset, hstill]), if_pos hdark]

theorem haltAnswered_halted (hlight : (s.qtr (haltQuarter s q x)).pstate ≠ 2 ∧ (s.qtr (haltQuarter s q x)).pstate ≠ 3)
    (hhalted : (partD s (haltQuarter s q x)).halted = true) : haltAnswered s q x = mbReply s q 0 [] := by
  unfold haltAnswered
  dsimp only
  rw [if_neg (by simp [hreset, hstill]), if_neg (not_or.2 hlight), if_pos hhalted]

theorem haltAnswered_due (hlight : (s.qtr (haltQuarter s q x)).pstate ≠ 2 ∧ (s.qtr (haltQuarter s q x)).pstate ≠ 3)
    (hrun : (partD s (haltQuarter s q x)).halted = false) :
    haltAnswered s q x = modPart s (haltQuarter s q x) (Partition.halting q) := by
  unfold haltAnswered
  dsimp only
  rw [if_neg (by simp [hreset, hstill]), if_neg (not_or.2 hlight), if_neg (by simp [hrun])]

end

/-! ### The statement -/

/-- Settles O42: a run begins by `startRun_facts` and ends by `endRun_facts`; a HALT is answered as `haltTaken` says, case by case. -/
theorem replayRunsAndHalt : Obligations.ReplayRunsAndHalt := by
  unfold Obligations.ReplayRunsAndHalt
  intro s q ha
  refine ⟨fun p c h e hp hedge hhold hfree he => ?_, fun c x hx hover => ?_, fun x hx => ?_⟩
  · obtain ⟨hfab, hcl, hmem, hother, hunits, ⟨clk, ns, hself⟩, hcount, hpart⟩ := startRun_facts (c := c) hp he
    refine ⟨_, exec_replayRunStart ha hp hedge hhold hfree, hfab, hcl, hmem, hother, hunits, ?_, ?_, ?_, ?_, ?_, hcount, _, hpart, rfl⟩
    all_goals rw [hself]; rfl
  · obtain ⟨hcl, hleft⟩ := endRun_facts hx
    exact ⟨_, exec_replayRunEnd hx hover, (dayKept_endRun (.refl s) c).fab, hcl, hleft, endRun_gone hx, fun _ => endRun_voted hx⟩
  · have hmb := mb_of_mbOf hx
    have goes : ∀ {P v}, haltTaken s q x = v → P v → Goes (.halt q) s P := fun hv hP => ⟨_, (exec_halt hx ha).trans (congrArg _ hv), hP⟩
    have answers : ∀ {P v}, HaltGood s q x → haltAnswered s q x = v → P v → Goes (.halt q) s P := fun hgood hv =>
      goes ((haltTaken_good hgood).trans hv)
    exact ⟨fun hno => goes (haltTaken_noService hno) (refuses_mbRefuse _ hmb),
      fun hin hbad => goes (haltTaken_badPayload hin hbad) (refuses_mbRefuse _ hmb),
      fun hin hm hz hhost hnone => goes (haltTaken_noStream hin hm hz hhost hnone) (refuses_mbRefuse _ hmb),
      fun hgood hbusy => answers hgood (haltAnswered_busy hbusy) (refuses_mbRefuse _ hmb),
      fun hgood hreset hstill hdark => answers hgood (haltAnswered_dark hreset hstill hdark) (refuses_mbRefuse _ hmb),
      fun ⟨hgood, hreset, hstill, hlight⟩ hhalted =>
        answers hgood (haltAnswered_halted hreset hstill hlight hhalted) (replies_mbReply _ 0 hmb (by decide)),
      fun ⟨hgood, hreset, hstill, hlight⟩ hrun => answers hgood (haltAnswered_due hreset hstill hlight hrun) ⟨rfl, rfl⟩⟩

end Sys2Proof.Machine
end
